-- ==== Sys2Proof/Word.lean ====
section
/-! DEFINITION. The word types of the block and their plainest arithmetic. -/

namespace Sys2Proof

/-- One byte of device memory. -/
abbrev Byte := BitVec 8
/-- One register of the register map (19_register_index). -/
abbrev Word := BitVec 32
/-- A 64-bit register of a sequencer thread, a sideband word or a time-base value. -/
abbrev DWord := BitVec 64
/-- A sequence of bytes in address order. -/
abbrev Bytes := List Byte

/-- Bit `i` of a natural number, as a number. -/
def bitAt (n i : Nat) : Nat := (n >>> i) % 2

/-- The field `[hi:lo]` of a natural number. -/
def fieldOf (n hi lo : Nat) : Nat := (n >>> lo) % 2 ^ (hi + 1 - lo)

/-- 1 for true, 0 for false. -/
def b2n (b : Bool) : Nat := if b then 1 else 0

/-- A signed reading of an `w`-bit natural number. -/
def signedOf (w n : Nat) : Int :=
  if n % 2 ^ w < 2 ^ (w - 1) then (n % 2 ^ w : Nat) else ((n % 2 ^ w : Nat) : Int) - ((2 ^ w : Nat) : Int)

/-- Division rounded up; by zero it is zero. -/
def ceilDiv (a b : Nat) : Nat := if b = 0 then 0 else (a + b - 1) / b

/-- The smallest exponent whose power of two is at least `n`. -/
def ceilLog2 (n : Nat) : Nat := if n ≤ 1 then 0 else Nat.log2 (n - 1) + 1

end Sys2Proof
end

