-- ==== Sys2Proof/Machine/Bytes.lean ====
section
/-! DEFINITION. Byte order, the CRC-32C of R161, the CRC-8 of R469, and the block check value of R159 to R162. -/

namespace Sys2Proof.Machine

/-- The little-endian value of a byte string. -/
def leNat : Bytes → Nat
  | [] => 0
  | b :: t => b.toNat + 256 * leNat t

/-- `n` little-endian bytes of `v`. -/
def toLe : Nat → Nat → Bytes
  | 0, _ => []
  | n + 1, v => BitVec.ofNat 8 (v % 256) :: toLe n (v / 256)

/-- `n` zero bytes. -/
def zeros (n : Nat) : Bytes := List.replicate n 0

/-- The `n` bytes at offset `off`; bytes past the end read as zero. -/
def slice (b : Bytes) (off n : Nat) : Bytes :=
  let t := (b.drop off).take n
  t ++ zeros (n - t.length)

/-- The little-endian field of `n` bytes at offset `off`. -/
def leAt (b : Bytes) (off n : Nat) : Nat := leNat (slice b off n)

/-- Whether the `n` bytes at offset `off` are all zero. -/
def zeroAt (b : Bytes) (off n : Nat) : Bool := (slice b off n).all (· == 0)

/-- Big-endian value, for digests and keys. -/
def beNat (b : Bytes) : Nat := b.foldl (fun a x => a * 256 + x.toNat) 0

/-- Pads with zero bytes to a multiple of `m`. -/
def padTo (m : Nat) (b : Bytes) : Bytes := b ++ zeros ((m - b.length % m) % m)

/-- One bit of the reflected CRC-32C register (R161). -/
def crcBit (r : Nat) : Nat := if r % 2 = 1 then (r / 2) ^^^ 0x82F63B78 else r / 2

/-- One byte of the CRC-32C (R161). -/
def crcByte (r : Nat) (b : Byte) : Nat :=
  crcBit (crcBit (crcBit (crcBit (crcBit (crcBit (crcBit (crcBit (r ^^^ b.toNat))))))))

/-- `crc32c_raw` of R161: bit-reflected, register starting at 0, no final xor. -/
def crc32cRaw (data : Bytes) : Nat := data.foldl crcByte 0

/-- The seed of R161: the address word xor the low half rotated by 16. -/
def bcvSeed (blk low : Nat) : Nat :=
  ((blk % 2 ^ 32) ^^^ (blk / 2 ^ 32)) ^^^ ((low % 2 ^ 16) * 2 ^ 16 + low / 2 ^ 16)

/-- BCV[31:0] under R159. -/
def bcvLow (gen fmt : Nat) (poison : Bool) (producer : Nat) : Nat :=
  gen * 2 ^ 16 + fmt * 2 ^ 10 + b2n poison * 2 ^ 9 + 2 ^ 8 + producer

/-- The block check value of R161 from the raw CRC of the data. -/
def bcvOfCrc (crc blk gen fmt : Nat) (poison : Bool) (producer : Nat) : Nat :=
  let low := bcvLow gen fmt poison producer
  (crc ^^^ bcvSeed blk low) * 2 ^ 32 + low

/-- The block check value of R161. -/
def bcv (data : Bytes) (blk gen fmt : Nat) (poison : Bool) (producer : Nat) : Nat :=
  bcvOfCrc (crc32cRaw data) blk gen fmt poison producer

/-- Fields of a BCV (R159). -/
def bcvCrc (v : Nat) : Nat := v / 2 ^ 32
def bcvGen (v : Nat) : Nat := fieldOf v 31 16
def bcvFmt (v : Nat) : Nat := fieldOf v 15 10
def bcvPoison (v : Nat) : Bool := bitAt v 9 == 1
def bcvSealed (v : Nat) : Bool := bitAt v 8 == 1
def bcvProducer (v : Nat) : Nat := fieldOf v 7 0

/-- Whether a PRODUCER value is one R160 allows. -/
def producerOk (p : Nat) : Bool := p < 0x80 || p == 0xFE

/-- The outcome of verifying one block under R167; the kinds are those of its table. -/
inductive Verify where
  | verified
  | poisoned
  | fails (kind : Nat)
  deriving DecidableEq, Repr

/-- R167: verification of a block whose data has raw CRC `crc` against the expected block number, GEN and FMT. -/
def verifyBlock (crc sb blk gen fmt : Nat) : Verify :=
  let p := bcvProducer sb
  let genOk :=
    (bcvGen sb == gen && (gen != 0 || p == 0xFE)) || (bcvGen sb == 0 && p == 0xFE)
  if ! bcvSealed sb then .fails 1
  else if (crc ^^^ bcvSeed blk (sb % 2 ^ 32)) != bcvCrc sb then .fails 2
  else if ! genOk then .fails 3
  else if bcvFmt sb != fmt then .fails 4
  else if ! producerOk p then .fails 5
  else if bcvPoison sb then .poisoned
  else .verified

/-- Whether a stored BCV verifies with its own stored fields (R164, R176): rows 1, 2 and 5 of R167. -/
def verifyOwn (crc sb blk : Nat) : Verify := verifyBlock crc sb blk (bcvGen sb) (bcvFmt sb)

/-- One bit of the CRC-8 of R469 (polynomial 0x07, most significant bit first out, data bit `d`). -/
def crc8Bit (r d : Nat) : Nat :=
  let fb := (r / 128) ^^^ (d % 2)
  let r' := (r * 2) % 256
  if fb = 1 then r' ^^^ 0x07 else r'

/-- CHECK of R469: over W[27:0] from bit 0. -/
def crc8Of28 (w : Nat) : Nat := (List.range 28).foldl (fun r i => crc8Bit r (bitAt w i)) 0

end Sys2Proof.Machine
end

