-- ==== Sys2Proof/Machine/Sha.lean ====
section
/-! DEFINITION. SHA-384 (FIPS 180-4), ECDSA P-384 with its keys from HMAC_DRBG (FIPS 186-5), the digest and signature functions
that R90, R295, R324, R335, R339 and R360 name, and the Philox generator and draw of R59. -/

namespace Sys2Proof.Machine

/-- The primes below a bound, rising. -/
def primesBelow (n : Nat) : List Nat := (List.range n).filter (fun p => decide (2 ≤ p) && (List.range 20).all (fun d => decide (d < 2) || p % d != 0 || p == d))

/-- The largest `r` below `2 ^ bits` that a falling test accepts, found bit by bit from the top. -/
def bitSearch (ok : Nat → Bool) : Nat → Nat → Nat
  | 0, r => r
  | bits + 1, r => bitSearch ok bits (if ok (r + 2 ^ bits) then r + 2 ^ bits else r)

/-- The first 64 fraction bits of the cube root of a number below 512. -/
def cubeFrac (p : Nat) : Nat := bitSearch (fun r => decide (r * r * r ≤ p * 2 ^ 192)) 67 0 % 2 ^ 64

/-- The first 64 fraction bits of its square root. -/
def squareFrac (p : Nat) : Nat := bitSearch (fun r => decide (r * r ≤ p * 2 ^ 128)) 69 0 % 2 ^ 64

/-- The round constants: the fractions of the cube roots of the first eighty primes (FIPS 180-4). -/
def shaK : List Nat := (primesBelow 410).map cubeFrac

/-- The initial hash value of SHA-384: the fractions of the square roots of the ninth to sixteenth primes. -/
def shaH0 : List Nat := ((primesBelow 54).drop 8).map squareFrac

/-- A rotation to the right of a 64-bit word. -/
def turn (n x : Nat) : Nat := x / 2 ^ n + x % 2 ^ n * 2 ^ (64 - n)

/-- The exclusive or of rotations of a word. -/
def turns (ns : List Nat) (x : Nat) : Nat := (ns.map (fun n => turn n x)).foldl Nat.xor 0

/-- The message schedule as a function of its place: the sixteen words of the block, then `n` words each formed from those 2, 7, 15 and 16
places before it; newest first. -/
def schedule (ws : List Nat) : Nat → List Nat
  | 0 => ws.reverse
  | n + 1 =>
    let l := schedule ws n
    let back (k : Nat) : Nat := l.getD (k - 1) 0
    ((turns [19, 61] (back 2) ^^^ back 2 / 2 ^ 6) + back 7 + (turns [1, 8] (back 15) ^^^ back 15 / 2 ^ 7) + back 16) % 2 ^ 64 :: l

/-- One round on the two shift registers of the compression: A to D and E to H, each newest first; `x` is constant plus schedule word. -/
def compress (r : List Nat × List Nat) (x : Nat) : List Nat × List Nat :=
  match r with
  | ([a, b, c, d], [e, f, g, h]) =>
    let pick := g ^^^ (e &&& (f ^^^ g))
    let most := (a &&& (b ||| c)) ||| (b &&& c)
    let into := h + turns [14, 18, 41] e + pick + x
    ([(into + turns [28, 34, 39] a + most) % 2 ^ 64, a, b, c], [(d + into) % 2 ^ 64, e, f, g])
  | _ => r

/-- The hash value after one block of sixteen words. -/
def absorbBlock (hv ws : List Nat) : List Nat :=
  let xs := (shaK.zip (schedule ws 64).reverse).map (fun p => p.1 + p.2)
  let out := xs.foldl compress (hv.take 4, hv.drop 4)
  (hv.zip (out.1 ++ out.2)).map (fun p => (p.1 + p.2) % 2 ^ 64)

/-- The hash value after a run of blocks. -/
def absorb : List (List Nat) → List Nat
  | [] => shaH0
  | b :: earlier => absorbBlock (absorb earlier) b

/-- `n` big-endian bytes of `v`. -/
def toBe (n v : Nat) : Bytes := (toLe n v).reverse

/-- Big-endian word `i` of a byte string. -/
def beWord (b : Bytes) (i : Nat) : Nat := beNat (slice b (8 * i) 8)

/-- The padded message: one bit, zeros, and its length in bits as 128 bits (FIPS 180-4). -/
def shaPad (msg : Bytes) : Bytes :=
  let body := msg ++ [0x80#8]
  body ++ zeros ((240 - body.length % 128) % 128) ++ toBe 16 (8 * msg.length)

/-- SHA-384 of a byte string: 48 bytes. -/
def sha384 (msg : Bytes) : Bytes :=
  let p := shaPad msg
  let blocks := (List.range (p.length / 128)).map (fun k => (List.range 16).map (fun i => beWord (p.drop (128 * k)) i))
  ((absorb blocks.reverse).take 6).flatMap (toBe 8)

/-! ### HMAC and the generator of SP 800-90A (R339) -/

/-- HMAC with SHA-384 under a key of at most 128 bytes (FIPS 198-1). -/
def hmac384 (key msg : Bytes) : Bytes :=
  let k := key ++ zeros (128 - key.length)
  sha384 (k.map (· ^^^ 0x5C#8) ++ sha384 (k.map (· ^^^ 0x36#8) ++ msg))

/-- The working state of HMAC_DRBG (SP 800-90A): its key and its value. -/
structure Drbg where
  key : Bytes
  val : Bytes

/-- One half of the update function: a new key over the value, a marker byte and the seed, and a new value under it. -/
def Drbg.mix (g : Drbg) (mark : Byte) (seed : Bytes) : Drbg :=
  let k := hmac384 g.key (g.val ++ [mark] ++ seed)
  { key := k, val := hmac384 k g.val }

/-- An instance seeded from one byte string alone. -/
def Drbg.seeded (seed : Bytes) : Drbg :=
  (({ key := zeros 48, val := List.replicate 48 1 } : Drbg).mix 0 seed).mix 1 seed

/-- Its first 96 output bytes. -/
def Drbg.first96 (g : Drbg) : Bytes :=
  let v := hmac384 g.key g.val
  v ++ hmac384 g.key v

/-! ### P-384 -/

def p384P : Nat := 2 ^ 384 - 2 ^ 128 - 2 ^ 96 + 2 ^ 32 - 1
def p384N : Nat := 0xffffffffffffffffffffffffffffffffffffffffffffffffc7634d81f4372ddf581a0db248b0a77aecec196accc52973
def p384B : Nat := 0xb3312fa7e23ee7e4988e056be3f82d19181d9c6efe8141120314088f5013875ac656398d8a2ed19d2a85c8edd3ec2aef
def p384Gx : Nat := 0xaa87ca22be8b05378eb1c71ef320ad746e1d3b628ba79b9859f741e082542a385502f25dbf55296c3a545e3872760ab7
def p384Gy : Nat := 0x3617de4a96262c6f5d9e98bf9292dc29f8f41dbd289a147ce9da3113b5f0b8c00a60b1ce1d7e819d7a431d7c90ea0e5f

/-- A point in Jacobian coordinates; z = 0 is the point at infinity. -/
structure JPoint where
  x : Nat
  y : Nat
  z : Nat

def subMod (m a b : Nat) : Nat := (a + m - b % m) % m

/-- `b ^ e mod m` over the low `n` bits of `e`. -/
def powMod (m b : Nat) : Nat → Nat → Nat
  | 0, _ => 1
  | n + 1, e => (powMod m (b * b % m) n (e / 2)) * (if e % 2 = 1 then b else 1) % m

def invMod (m a : Nat) : Nat := powMod m (a % m) 384 (m - 2)

def jDouble (q : JPoint) : JPoint :=
  let m := p384P
  let d := q.z * q.z % m
  let g := q.y * q.y % m
  let b := q.x * g % m
  let a := 3 * (subMod m q.x d) * ((q.x + d) % m) % m
  let x3 := subMod m (a * a) (8 * b)
  let z3 := subMod m (subMod m ((q.y + q.z) * (q.y + q.z)) g) d
  let y3 := subMod m (a * subMod m (4 * b) x3) (8 * g * g)
  { x := x3, y := y3, z := z3 }

def jAdd (p q : JPoint) : JPoint :=
  if p.z = 0 then q
  else if q.z = 0 then p
  else
    let m := p384P
    let z1z1 := p.z * p.z % m
    let z2z2 := q.z * q.z % m
    let u1 := p.x * z2z2 % m
    let u2 := q.x * z1z1 % m
    let s1 := p.y * q.z * z2z2 % m
    let s2 := q.y * p.z * z1z1 % m
    if u1 = u2 then
      if s1 = s2 then jDouble p else { x := 1, y := 1, z := 0 }
    else
      let h := subMod m u2 u1
      let r := subMod m s2 s1
      let h2 := h * h % m
      let h3 := h * h2 % m
      let v := u1 * h2 % m
      let x3 := subMod m (subMod m (r * r) h3) (2 * v)
      let y3 := subMod m (r * subMod m v x3) (s1 * h3)
      { x := x3, y := y3, z := h * p.z % m * q.z % m }

def jMul (k : Nat) (p : JPoint) : JPoint :=
  (List.range 384).reverse.foldl
    (fun a i => let d := jDouble a; if bitAt k i = 1 then jAdd d p else d) { x := 1, y := 1, z := 0 }

/-- The base point of P-384. -/
def p384G : JPoint := { x := p384Gx, y := p384Gy, z := 1 }

/-- The affine coordinates of a point other than infinity. -/
def JPoint.affine (q : JPoint) : Nat × Nat :=
  let zi := invMod p384P q.z
  (q.x * zi % p384P * zi % p384P, q.y * zi % p384P * zi % p384P * zi % p384P)

/-- ECDSA P-384 verification of `sig` (r then s) by `pub` (x then y) over the SHA-384 of `msg`. Keys and signatures are 96 bytes, each
number little-endian, as the fields of R336 and R358 are (log entry 114). -/
def ecdsaVerify (pub sig msg : Bytes) : Bool :=
  let qx := leAt pub 0 48
  let qy := leAt pub 48 48
  let r := leAt sig 0 48
  let s := leAt sig 48 48
  let n := p384N
  let p := p384P
  let onCurve := qx < p && qy < p &&
    (qy * qy % p == (qx * qx % p * qx + (p - 3) * qx + p384B) % p)
  if 0 < r && r < n && 0 < s && s < n && onCurve then
    let e := beNat (sha384 msg)
    let w := invMod n s
    let q := jAdd (jMul (e * w % n) p384G) (jMul (r * w % n) { x := qx, y := qy, z := 1 })
    if q.z = 0 then false else decide (q.affine.1 % n = r)
  else false

/-- The private key that an HMAC_DRBG instance seeded only from the device secret gives (R339): 448 bits reduced modulo n − 1, plus one
(log entry 115). -/
def signingKeyOf (secret : Bytes) : Nat := beNat ((Drbg.seeded secret).first96.take 56) % (p384N - 1) + 1

/-- The public half of a private key: x then y. -/
def publicOf (d : Nat) : Bytes :=
  let q := (jMul d p384G).affine
  toLe 48 q.1 ++ toLe 48 q.2

/-- The ECDSA P-384 signature of a message under a private key with the per-message secret `k` (FIPS 186-5): r then s. -/
def ecdsaSign (d k : Nat) (msg : Bytes) : Bytes :=
  let r := (jMul k p384G).affine.1 % p384N
  let e := beNat (sha384 msg)
  toLe 48 r ++ toLe 48 (invMod p384N k * ((e + r * d) % p384N) % p384N)

/-! ### Philox-4x32-10 (R59) -/

structure Philox where
  c0 : Nat
  c1 : Nat
  c2 : Nat
  c3 : Nat
  k0 : Nat
  k1 : Nat

def philoxRound (s : Philox) : Philox :=
  let p0 := 0xD2511F53 * s.c0
  let p1 := 0xCD9E8D57 * s.c2
  { c0 := (p1 / 2 ^ 32) ^^^ s.c1 ^^^ s.k0, c1 := p1 % 2 ^ 32,
    c2 := (p0 / 2 ^ 32) ^^^ s.c3 ^^^ s.k1, c3 := p0 % 2 ^ 32,
    k0 := (s.k0 + 0x9E3779B9) % 2 ^ 32, k1 := (s.k1 + 0xBB67AE85) % 2 ^ 32 }

def philoxRounds : Nat → Philox → Philox
  | 0, s => s
  | n + 1, s => philoxRounds n (philoxRound s)

/-- `draw` of R59: a 16-bit draw for element index `i` and a purpose code. -/
def draw (seed ctx step tensor i purpose : Nat) : Nat :=
  let s := philoxRounds 10
    { c0 := (i / 8) % 2 ^ 32, c1 := tensor % 2 ^ 32, c2 := step % 2 ^ 32, c3 := (ctx * 2 ^ 16 + purpose) % 2 ^ 32,
      k0 := seed % 2 ^ 32, k1 := seed / 2 ^ 32 }
  let x := match (i % 8) / 2 with
    | 0 => s.c0
    | 1 => s.c1
    | 2 => s.c2
    | _ => s.c3
  (x >>> (16 * (i % 2))) % 2 ^ 16

end Sys2Proof.Machine
end

