-- ==== Sys2Proof/Machine/Formats.lean ====
section
/-! DEFINITION. Number formats, conversion, stochastic rounding and the running maximum (02_number_formats, R34 to
R67, R505), on exact dyadic values. -/

namespace Sys2Proof.Machine

/-- The flag word of R54. -/
def flSat : Nat := 32
def flInvalid : Nat := 16
def flDivzero : Nat := 8
def flOverflow : Nat := 4
def flUnderflow : Nat := 2
def flInexact : Nat := 1

/-- The kinds of numeric format of R34. -/
inductive FKind where
  | ieee
  | narrow
  | int
  deriving DecidableEq, Repr

/-- A numeric format: element bits, exponent bits, fraction bits and bias (R34). -/
structure Fmt where
  kind : FKind
  width : Nat
  ebits : Nat := 0
  p : Nat := 0
  bias : Nat := 0
  scaled : Bool := false
  deriving DecidableEq, Repr

/-- The numeric formats of R34 (R506: E8, index streams and Opaque carry no arithmetic). -/
def fmtOf (code : Nat) : Option Fmt :=
  match code with
  | 0x01 => some { kind := .ieee, width := 64, ebits := 11, p := 52, bias := 1023 }
  | 0x02 => some { kind := .ieee, width := 32, ebits := 8, p := 23, bias := 127 }
  | 0x03 => some { kind := .ieee, width := 16, ebits := 5, p := 10, bias := 15 }
  | 0x04 => some { kind := .ieee, width := 16, ebits := 8, p := 7, bias := 127 }
  | 0x08 => some { kind := .narrow, width := 8, ebits := 4, p := 3, bias := 7 }
  | 0x09 => some { kind := .narrow, width := 8, ebits := 5, p := 2, bias := 15 }
  | 0x0A => some { kind := .narrow, width := 6, ebits := 3, p := 2, bias := 3 }
  | 0x0B => some { kind := .narrow, width := 4, ebits := 2, p := 1, bias := 1 }
  | 0x18 => some { kind := .narrow, width := 8, ebits := 4, p := 3, bias := 7, scaled := true }
  | 0x19 => some { kind := .narrow, width := 8, ebits := 5, p := 2, bias := 15, scaled := true }
  | 0x1A => some { kind := .narrow, width := 6, ebits := 3, p := 2, bias := 3, scaled := true }
  | 0x1B => some { kind := .narrow, width := 4, ebits := 2, p := 1, bias := 1, scaled := true }
  | 0x20 => some { kind := .int, width := 8 }
  | 0x21 => some { kind := .int, width := 4 }
  | 0x22 => some { kind := .int, width := 32 }
  | _ => none

/-- A stand-in where a numeric format is required and none is named: reached by no rule. -/
def Fmt.none : Fmt := { kind := .int, width := 8 }

/-- The format of a code, or a stand-in. -/
def fmtD (code : Nat) : Fmt := (fmtOf code).getD Fmt.none

/-- Whether R34 lists the code at all (R35). -/
def fmtListed (code : Nat) : Bool := (fmtOf code).isSome || code == 0x30 || code == 0x31 || code == 0x3E

/-- Element bits of any listed code; Opaque counts bytes (R34, R502). -/
def fmtBits (code : Nat) : Nat :=
  match fmtOf code with
  | some f => f.width
  | none => if code = 0x31 then 16 else 8

/-- Elements of one 4 KiB block (R37). -/
def perBlock (width : Nat) : Nat := if width = 6 then 5460 else 32768 / width

/-- The narrow formats' one NaN code (R34). -/
def Fmt.nanCode (f : Fmt) : Nat := 2 ^ (f.width - 1)

/-- An exact value: a NaN (signalling or quiet), an infinity, or (−1)^neg × k × 2^e. -/
inductive Val where
  | nan (sig : Bool)
  | inf (neg : Bool)
  | fin (neg : Bool) (k : Nat) (e : Int)
  deriving DecidableEq, Repr

def Val.zero : Val := .fin false 0 0
def Val.one : Val := .fin false 1 0

def Val.isNan : Val → Bool
  | .nan _ => true
  | _ => false

def Val.isSig : Val → Bool
  | .nan s => s
  | _ => false

def Val.isInf : Val → Bool
  | .inf _ => true
  | _ => false

def Val.isFin : Val → Bool
  | .fin _ _ _ => true
  | _ => false

def Val.isZero : Val → Bool
  | .fin _ k _ => k == 0
  | _ => false

def Val.neg : Val → Val
  | .nan s => .nan s
  | .inf n => .inf (!n)
  | .fin n k e => .fin (!n) k e

def Val.signed (n : Bool) (v : Val) : Val := if n then v.neg else v

/-- Multiplication by a power of two. -/
def Val.scale (v : Val) (t : Int) : Val :=
  match v with
  | .fin n k e => .fin n k (e + t)
  | v => v

/-- The signed mantissa of a finite value over `2^e0`, for `e0` at most its exponent. -/
def Val.over (v : Val) (e0 : Int) : Int :=
  match v with
  | .fin n k e => let m : Int := (k * 2 ^ (e - e0).toNat : Nat); if n then -m else m
  | _ => 0

def Val.expo : Val → Int
  | .fin _ k e => if k = 0 then 0 else e
  | _ => 0

/-- A value from a signed mantissa; a zero is +0. -/
def Val.ofInt (m : Int) (e : Int) : Val := .fin (m < 0) m.natAbs e

/-- The least exponent of the nonzero finite values of a list. -/
def minExpo (vs : List Val) : Int :=
  match vs.filter (fun v => v.isFin && ! v.isZero) with
  | [] => 0
  | v :: t => t.foldl (fun a w => min a w.expo) v.expo

/-- The exact sum of finite values, as a mantissa and an exponent. -/
def sumOver (vs : List Val) : Int × Int :=
  let e0 := minExpo vs
  (vs.foldl (fun a v => if v.isZero then a else a + v.over e0) 0, e0)

/-- Order of two finite magnitudes. -/
def magLe (a b : Val) : Bool :=
  match a, b with
  | .fin _ k1 e1, .fin _ k2 e2 =>
    if k1 = 0 then true else if k2 = 0 then false else
    let e0 := min e1 e2
    decide (k1 * 2 ^ (e1 - e0).toNat ≤ k2 * 2 ^ (e2 - e0).toNat)
  | _, _ => false

/-- The largest magnitude among the finite values; zero when none. -/
def maxMag (vs : List Val) : Val :=
  vs.foldl (fun a v => if v.isFin && magLe a v then v else a) Val.zero

/-- floor(log2) of a nonzero magnitude. -/
def ilog2 (k : Nat) (e : Int) : Int := (Nat.log2 k : Int) + e

/-- Decoding of a code without scales (R39, R43). -/
def decode (f : Fmt) (c : Nat) : Val :=
  let c := c % 2 ^ f.width
  match f.kind with
  | .int => Val.ofInt (signedOf f.width c) 0
  | _ =>
    let s := bitAt c (f.width - 1) == 1
    let ef := (c >>> f.p) % 2 ^ f.ebits
    let fr := c % 2 ^ f.p
    if f.kind == .narrow && c == f.nanCode then .nan false
    else if f.kind == .ieee && ef == 2 ^ f.ebits - 1 then
      if fr = 0 then .inf s else .nan (bitAt fr (f.p - 1) == 0)
    else if ef = 0 then .fin s fr (1 - (f.bias : Int) - f.p)
    else .fin s (2 ^ f.p + fr) ((ef : Int) - f.bias - f.p)

/-- Whether a code is a NaN or an infinity of its format. -/
def isSpecialCode (f : Fmt) (c : Nat) : Bool := ! (decode f c).isFin

/-- The canonical NaN of R40 and R44; zero for an integer format (R51). -/
def Fmt.canonNan (f : Fmt) : Nat :=
  match f.kind with
  | .ieee => (2 ^ f.ebits - 1) * 2 ^ f.p + 2 ^ (f.p - 1)
  | .narrow => f.nanCode
  | .int => 0

/-- The smallest normal exponent. -/
def Fmt.emin (f : Fmt) : Int := 1 - f.bias

/-- The largest finite exponent (R43's emax). -/
def Fmt.emax (f : Fmt) : Int :=
  match f.kind with
  | .ieee => f.bias
  | _ => ((2 ^ f.ebits - 1 : Nat) : Int) - f.bias

/-- The largest finite magnitude, by sign for the integer formats (R52). -/
def Fmt.maxFin (f : Fmt) (neg : Bool) : Val :=
  match f.kind with
  | .int => .fin false (if neg then 2 ^ (f.width - 1) else 2 ^ (f.width - 1) - 1) 0
  | _ => .fin false (2 ^ (f.p + 1) - 1) (f.emax - f.p)

def Fmt.signBit (f : Fmt) (neg : Bool) : Nat := if neg then 2 ^ (f.width - 1) else 0

/-- The code of zero (R42, R45). -/
def Fmt.zeroCode (f : Fmt) (neg : Bool) : Nat :=
  match f.kind with
  | .ieee => f.signBit neg
  | _ => 0

/-- The code of the largest finite value of a sign. -/
def Fmt.maxCode (f : Fmt) (neg : Bool) : Nat :=
  match f.kind with
  | .int => if neg then 2 ^ (f.width - 1) else 2 ^ (f.width - 1) - 1
  | .narrow => f.signBit neg + (2 ^ (f.width - 1) - 1)
  | .ieee => f.signBit neg + (2 ^ f.ebits - 2) * 2 ^ f.p + (2 ^ f.p - 1)

def Fmt.infCode (f : Fmt) (neg : Bool) : Nat := f.signBit neg + (2 ^ f.ebits - 1) * 2 ^ f.p

/-- The code of `n × 2^q`, for `q` the format's grid at that magnitude. -/
def Fmt.encodeMag (f : Fmt) (neg : Bool) (n : Nat) (q : Int) : Nat :=
  match f.kind with
  | .int => if neg then (2 ^ f.width - n) % 2 ^ f.width else n
  | _ =>
    if n = 0 then f.zeroCode neg
    else if n < 2 ^ f.p then f.signBit neg + n
    else if n < 2 ^ (f.p + 1) then f.signBit neg + (q + f.p + f.bias).toNat * 2 ^ f.p + (n - 2 ^ f.p)
    else f.signBit neg + (q + 1 + f.p + f.bias).toNat * 2 ^ f.p

/-- The rounding directions of R49. -/
def dirRne : Nat := 0
def dirRtz : Nat := 1
def dirRdn : Nat := 2
def dirRup : Nat := 3
def dirRna : Nat := 4
def dirSr : Nat := 5

/-- R50 step 3 and R57: the multiple of `2^q` chosen for the magnitude `k × 2^e`, and whether it is inexact.
`r` is the element's draw under SR. -/
def roundGrid (dir : Nat) (neg : Bool) (r k : Nat) (e q : Int) : Nat × Bool :=
  if q ≤ e then (k * 2 ^ (e - q).toNat, false)
  else
    let w := (q - e).toNat
    let hi := k / 2 ^ w
    let d := k % 2 ^ w
    if d = 0 then (hi, false)
    else
      let half := 2 ^ (w - 1)
      let t := if w ≥ 16 then d / 2 ^ (w - 16) else d * 2 ^ (16 - w)
      let up : Bool :=
        if dir = dirRne then decide (d > half) || (d == half && hi % 2 == 1)
        else if dir = dirRna then decide (d ≥ half)
        else if dir = dirRup then ! neg
        else if dir = dirRdn then neg
        else if dir = dirSr then decide (r < t)
        else false
      (if up then hi + 1 else hi, true)

/-- The rounding of a nonzero magnitude into a format after the division by scales: R50 steps 3 and 4, R52 to R54
and the OUT_FLUSH policies of R78. -/
def roundFin (f : Fmt) (dir outFlush r : Nat) (neg : Bool) (k : Nat) (e : Int) : Nat × Nat :=
  if k = 0 then (f.zeroCode neg, 0)
  else
    let lg := ilog2 k e
    let isInt := f.kind == .int
    if ! isInt && outFlush == 2 && lg < f.emin then (f.zeroCode neg, flUnderflow ||| flInexact)
    else
      let q : Int := if isInt then 0 else max lg f.emin - f.p
      let (n, inexact) := roundGrid dir neg r k e q
      let rounded : Val := .fin false n q
      if ! magLe rounded (f.maxFin neg) then
        if f.kind != .ieee then (f.maxCode neg, flSat ||| flInexact)
        else
          let toInf : Bool :=
            if dir = dirRtz then false
            else if dir = dirRup then ! neg
            else if dir = dirRdn then neg
            else true
          (if toInf then f.infCode neg else f.maxCode neg, flOverflow ||| flInexact)
      else
        let subn := ! isInt && n != 0 && ilog2 n q < f.emin
        let nu := (roundGrid dir neg r k e (lg - f.p)).1
        let tiny := ! isInt && lg < f.emin && ilog2 nu (lg - f.p) < f.emin
        if subn && outFlush == 1 then (f.zeroCode neg, flUnderflow ||| flInexact)
        else
          (f.encodeMag neg n q,
           (if inexact then flInexact else 0) ||| (if tiny && inexact then flUnderflow else 0))

/-- Conversion of an exact value into a format whose element is divided by `2^shift` (R50, R51). The specials of a dot product with an
integer output take R51's integer column (log entry 97). -/
def encode (f : Fmt) (dir outFlush r : Nat) (shift : Int) (v : Val) : Nat × Nat :=
  match v with
  | .nan sig => (f.canonNan, if sig || f.kind == .int then flInvalid else 0)
  | .inf neg => if f.kind == .ieee then (f.infCode neg, 0) else (f.maxCode neg, flSat ||| flInexact)
  | .fin neg k e => roundFin f dir outFlush r neg k (e - shift)

/-- IN_FLUSH of R78, made on the code before any scale. -/
def inFlush (on : Bool) (f : Fmt) (c : Nat) : Val :=
  let v := decode f c
  if on && f.kind != .int && (c >>> f.p) % 2 ^ f.ebits == 0 && ! v.isZero && v.isFin then
    .fin (if f.kind == .narrow then false else bitAt c (f.width - 1) == 1) 0 0
  else v

/-- The scale byte of one group under R56, for source values already freed of no scale; `s` is the tensor scale. -/
def blockScale (f : Fmt) (s : Int) (vs : List Val) : Nat :=
  if vs.any Val.isNan then 0xFF
  else if vs.any Val.isInf then 254
  else
    match maxMag vs with
    | .fin _ k e =>
      if k = 0 then 0
      else
        let e' := e - s
        let m := 2 ^ (f.p + 1) - 1
        let em := f.emax - f.p
        -- smallest E with k·2^e' ≤ m·2^(em + E)
        let e0 : Int := ilog2 k e' - ilog2 m em
        let ok : Bool := magLe (.fin false k e') (.fin false m (em + e0))
        let ex := if ok then e0 else e0 + 1
        (max (-127) (min 127 ex) + 127).toNat
    | _ => 0

/-- The running maximum of R63 in binary32, over the values that enter the final rounding. -/
def runMax (vs : List Val) : Nat :=
  if vs.any Val.isInf then 0x7F800000
  else
    match maxMag vs with
    | .fin _ k e => min (roundFin (fmtD 2) dirRup 0 0 false k e).1 0x7F7FFFFF
    | _ => 0

/-- Smallest `t` with `amax × 2^−t` at most the largest finite value times `2^−margin` (R236). -/
def scaleFor (f : Fmt) (margin : Nat) (amax : Nat) : Int :=
  match decode (fmtD 2) amax with
  | .fin _ k e =>
    match f.maxFin false with
    | .fin _ m em =>
      let em' := em - margin
      let t0 := ilog2 k e - ilog2 m em'
      if magLe (.fin false k (e - t0)) (.fin false m em') then t0 else t0 + 1
    | _ => 0
  | _ => 0

/-! ### Packing (R36 to R38) -/

/-- The number whose bits are the elements packed at width `w`, element 0 lowest. -/
def packNat (w : Nat) : List Nat → Nat
  | [] => 0
  | c :: t => c % 2 ^ w + 2 ^ w * packNat w t

/-- The bytes of a packed run without block padding. -/
def packBytes (w : Nat) (cs : List Nat) : Bytes := toLe ((cs.length * w + 7) / 8) (packNat w cs)

/-- One block of packed elements; the 6-bit groups of R36 lie at bit 6i as well, and unused positions are zero. -/
def packBlock (w : Nat) (cs : List Nat) : Bytes := slice (packBytes w cs) 0 4096

/-- `n` elements of width `w` from a byte string packed from bit 0. -/
def unpackBytes (w n : Nat) (b : Bytes) : List Nat :=
  let v := leNat b
  (List.range n).map (fun i => (v >>> (i * w)) % 2 ^ w)

end Sys2Proof.Machine
end

