-- ==== Sys2Proof/Machine/Recipe.lean ====
section
/-! DEFINITION. The recipe image: its header, directory and sections, and the field by field checks of order 6 of
R90 (R69 to R88, R506, R507). -/

namespace Sys2Proof.Machine

/-- A node word of a Class S tree (R75). -/
structure NodeW where
  left : Nat
  right : Nat
  fmt : Nat
  dir : Nat
  deriving DecidableEq, Repr

/-- A dot-product section (R72). -/
structure DotSec where
  aFmt : Nat
  bFmt : Nat
  outFmt : Nat
  accFmt : Nat
  prodFmt : Nat
  prodDir : Nat
  k : Nat
  window : Nat
  guard : Nat
  flags : Nat
  subn : Nat
  nodes : List NodeW
  deriving DecidableEq, Repr

/-- An elementwise entry (R80). -/
structure ElemEntry where
  op : Nat
  aFmt : Nat
  bFmt : Nat
  cFmt : Nat
  outFmt : Nat
  dir : Nat
  deriving DecidableEq, Repr

/-- A conversion entry (R81). -/
structure ConvEntry where
  src : Nat
  dst : Nat
  mask : Nat
  deriving DecidableEq, Repr

/-- A special-function section (R82). -/
structure SpecSec where
  func : Nat
  inFmt : Nat
  outFmt : Nat
  dir : Nat
  segBits : Nat
  degree : Nat
  tBits : Nat
  coefFrac : Nat
  subn : Nat
  redFrac : Nat
  errBound : Nat
  redConst : Nat
  coefs : List Int
  deriving DecidableEq, Repr

/-- A pipeline stage (R86). -/
structure Stage where
  kind : Nat
  sec : Nat
  entry : Nat
  sel0 : Nat
  sel1 : Nat
  sel2 : Nat
  mid : Nat
  deriving DecidableEq, Repr

/-- A known-answer vector (R88). -/
structure Vector88 where
  sec : Nat
  entry : Nat
  dir : Nat
  flags : Nat
  scaleA : Int
  scaleB : Int
  scaleOut : Int
  cols : Nat
  inp : Bytes
  out : Bytes
  deriving DecidableEq, Repr

/-- The section kinds of R71; the known-answer section keeps its bytes until the others are known. -/
inductive Section where
  | dot (s : DotSec)
  | elem (nan subn : Nat) (entries : List ElemEntry)
  | conv (entries : List ConvEntry)
  | spec (s : SpecSec)
  | pipe (stages : List Stage)
  | kat (body : Bytes)
  deriving DecidableEq, Repr

/-- A recipe that passed order 6 of R90. -/
structure Recipe where
  id : Nat
  cls : Nat
  sections : List Section
  kats : List Vector88
  deriving DecidableEq, Repr

/-- R506: the code names a numeric format. -/
def numFmt (c : Nat) : Bool := (fmtOf c).isSome

def numFmtOrZero (c : Nat) : Bool := c == 0 || numFmt c

/-- R49: directions 0b000 to 0b101, or 0b111 where it names the descriptor's direction. -/
def dirOk (d : Nat) : Bool := d ≤ 5

def dirOrDesc (d : Nat) : Bool := d ≤ 5 || d == 7

def isIntFmt (c : Nat) : Bool := (fmtD c).kind == .int

/-- R78: legal SUBN byte for a section naming these formats. -/
def subnOk (s : Nat) (fmts : List Nat) : Bool :=
  fieldOf s 1 0 ≤ 1 && fieldOf s 3 2 ≤ 2 && s < 16 &&
    (s == 0 || fmts.any (fun c => c != 0 && ! isIntFmt c))

/-- Extreme exponent that the tensor and block scales add (R46, R47, R74). -/
def scaleExtreme (f : Fmt) (tensor : Bool) : Int :=
  (if tensor && f.kind != .ieee then 127 else 0) + (if f.scaled then 127 else 0)

/-- Largest magnitude of a format with its scales at their extreme; 1 for an absent operand (R86). -/
def topOf (c : Nat) (tensor : Bool) : Nat × Int :=
  if c = 0 then (1, 0)
  else
    let f := fmtD c
    match f.maxFin true with
    | .fin _ k e => (k, e + scaleExtreme f tensor)
    | _ => (1, 0)

/-- Exponent of the least significant bit of the smallest nonzero magnitude. -/
def bottomOf (c : Nat) (tensor : Bool) : Int :=
  if c = 0 then 0
  else
    let f := fmtD c
    (match f.kind with
     | .int => 0
     | _ => 1 - (f.bias : Int) - f.p) - scaleExtreme f tensor

/-- The span S of R74. -/
def spanOf (s : DotSec) : Int :=
  let a := topOf s.aFmt true
  let b := topOf s.bFmt true
  let hiP := ilog2 (a.1 * b.1) (a.2 + b.2)
  let loP := bottomOf s.aFmt true + bottomOf s.bFmt true
  let hi := if s.accFmt = 0 then hiP else max hiP (let c := topOf s.accFmt false; ilog2 c.1 c.2)
  let lo := if s.accFmt = 0 then loP else min loP (bottomOf s.accFmt false)
  hi - lo + 1 + s.guard

/-- L of R72. -/
def leavesOf (s : DotSec) : Nat := s.k + b2n (s.accFmt != 0)

/-- R75: a node word; bits [2] and [1:0] are checked beside it. -/
def nodeOf (w : Nat) : NodeW :=
  { left := fieldOf w 31 22, right := fieldOf w 21 12, fmt := fieldOf w 11 6, dir := fieldOf w 5 3 }

/-- How often a reference occurs among the node inputs. -/
def refCount (nodes : List NodeW) (r : Nat) : Nat :=
  nodes.foldl (fun a n => a + b2n (n.left == r) + b2n (n.right == r)) 0

/-- A reference names a leaf, or a node before node `i` (R76). -/
def refOk (l i r : Nat) : Bool := if r < 512 then decide (r < l) else decide (r - 512 < i)

/-- R76: the tree is legal. -/
def treeOk (s : DotSec) : Bool :=
  let l := leavesOf s
  let n := s.nodes.length
  (List.range l).all (fun i => refCount s.nodes i == 1) &&
  (List.range (n - 1)).all (fun i => refCount s.nodes (512 + i) == 1) &&
  s.nodes.zipIdx.all (fun (w, i) => refOk l i w.left && refOk l i w.right && numFmt w.fmt && dirOrDesc w.dir) &&
  (match s.nodes.getLast? with
   | some w => w.fmt == s.outFmt
   | none => false) &&
  fieldOf s.flags 3 1 == 0

/-- R72 to R78, R507: a dot-product section of a recipe of class `cls`. -/
def parseDot (cls : Nat) (b : Bytes) : Option Section :=
  let nc := leAt b 14 2
  let words := (List.range nc).map (fun i => leAt b (16 + 4 * i) 4)
  let s : DotSec :=
    { aFmt := leAt b 0 1, bFmt := leAt b 1 1, outFmt := leAt b 2 1, accFmt := leAt b 3 1,
      prodFmt := leAt b 4 1, prodDir := leAt b 5 1, k := leAt b 6 2, window := leAt b 8 2,
      guard := leAt b 10 1, flags := leAt b 11 1, subn := leAt b 12 1, nodes := words.map nodeOf }
  let l := leavesOf s
  let common :=
    decide (16 + 4 * nc ≤ b.length) && numFmt s.aFmt && numFmtOrZero s.bFmt && numFmt s.outFmt &&
    numFmtOrZero s.accFmt && numFmtOrZero s.prodFmt && dirOrDesc s.prodDir && decide (1 ≤ s.k) &&
    decide (s.k ≤ 256) && decide (s.flags < 16) && dirOk (fieldOf s.flags 3 1) &&
    subnOk s.subn ([s.aFmt, s.bFmt, s.outFmt, s.accFmt, s.prodFmt] ++ s.nodes.map NodeW.fmt) &&
    zeroAt b 13 1
  let own :=
    if cls = 0 then
      s.prodFmt == 0 && nc == 0 && decide (ceilLog2 l ≤ s.guard) && decide (24 ≤ s.window) &&
      decide (s.window ≤ 4352) && decide (spanOf s ≤ s.window)
    else
      s.window == 0 && s.guard == 0 && nc + 1 == l &&
      words.all (fun w => w % 8 == 4) && (l == 1 || treeOk s)
  if common && own then some (.dot s) else none

/-- R79, R80. -/
def parseElem (b : Bytes) : Option Section :=
  let n := leAt b 0 2
  let nan := leAt b 2 1
  let subn := leAt b 3 1
  let es := (List.range n).map (fun i =>
    let o := 16 + 8 * i
    ({ op := leAt b o 1, aFmt := leAt b (o + 1) 1, bFmt := leAt b (o + 2) 1, cFmt := leAt b (o + 3) 1,
       outFmt := leAt b (o + 4) 1, dir := leAt b (o + 5) 1 } : ElemEntry))
  let ok :=
    decide (1 ≤ n) && decide (n ≤ 32) && decide (nan ≤ 1) && zeroAt b 4 12 &&
    decide (16 + 8 * n ≤ b.length) && b.length % 16 == 0 &&
    zeroAt b (16 + 8 * n) (b.length - (16 + 8 * n)) &&
    es.zipIdx.all (fun (e, i) =>
      decide (1 ≤ e.op) && decide (e.op ≤ 6) && numFmt e.aFmt && numFmt e.bFmt && numFmt e.outFmt &&
      (if e.op = 4 then numFmt e.cFmt else e.cFmt == 0) && dirOrDesc e.dir && zeroAt b (16 + 8 * i + 6) 2) &&
    subnOk subn (es.flatMap (fun e => [e.aFmt, e.bFmt, e.cFmt, e.outFmt]))
  if ok then some (.elem nan subn es) else none

/-- R81. -/
def parseConv (b : Bytes) : Option Section :=
  let n := leAt b 0 2
  let es := (List.range n).map (fun i =>
    let o := 2 + 4 * i
    ({ src := leAt b o 1, dst := leAt b (o + 1) 1, mask := leAt b (o + 2) 1 } : ConvEntry))
  let ok :=
    decide (1 ≤ n) && decide (n ≤ 64) && decide (2 + 4 * n ≤ b.length) &&
    es.zipIdx.all (fun (e, i) => numFmt e.src && numFmt e.dst && decide (e.mask < 64) && zeroAt b (2 + 4 * i + 3) 1)
  if ok then some (.conv es) else none

/-- R82, R83. -/
def parseSpec (b : Bytes) : Option Section :=
  let seg := leAt b 4 1
  let deg := leAt b 5 1
  let n := 2 ^ (min seg 8) * (min deg 3 + 1)
  let s : SpecSec :=
    { func := leAt b 0 1, inFmt := leAt b 1 1, outFmt := leAt b 2 1, dir := leAt b 3 1, segBits := seg,
      degree := deg, tBits := leAt b 6 1, coefFrac := leAt b 7 1, subn := leAt b 8 1, redFrac := leAt b 9 1,
      errBound := leAt b 10 2, redConst := leAt b 12 8,
      coefs := (List.range n).map (fun i => signedOf 64 (leAt b (32 + 8 * i) 8)) }
  let ok :=
    decide (1 ≤ s.func) && decide (s.func ≤ 8) && numFmt s.inFmt && (fmtD s.inFmt).kind == .ieee &&
    numFmt s.outFmt && decide (s.dir ≤ 4) && decide (seg ≤ 8) && decide (1 ≤ deg) && decide (deg ≤ 3) &&
    decide (1 ≤ s.tBits) && decide (s.tBits ≤ 24) && decide (8 ≤ s.coefFrac) && decide (s.coefFrac ≤ 56) &&
    subnOk s.subn [s.inFmt, s.outFmt] && (s.redConst == 0 || s.func == 2 || s.func == 7 || s.func == 8) &&
    zeroAt b 20 12 && decide (32 + 8 * n ≤ b.length)
  if ok then some (.spec s) else none

/-- R86: the layout of a pipeline section; selectors are checked by `pipeOk`. -/
def parsePipe (b : Bytes) : Option Section :=
  let n := leAt b 0 1
  let st := (List.range n).map (fun i =>
    let o := 16 + 16 * i
    ({ kind := leAt b o 1, sec := leAt b (o + 1) 1, entry := leAt b (o + 2) 1, sel0 := leAt b (o + 3) 1,
       sel1 := leAt b (o + 4) 1, sel2 := leAt b (o + 5) 1, mid := leAt b (o + 6) 1 } : Stage))
  let ok :=
    decide (1 ≤ n) && decide (n ≤ 8) && zeroAt b 1 15 && decide (16 + 16 * n ≤ b.length) &&
    st.zipIdx.all (fun (s, i) =>
      decide (1 ≤ s.kind) && decide (s.kind ≤ 4) && numFmt s.mid && zeroAt b (16 + 16 * i + 7) 9)
  if ok then some (.pipe st) else none

/-- The input formats and the output format that a stage's section and entry declare (R86). -/
def stageFmts (secs : List Section) (s : Stage) : Option (List Nat × Nat) :=
  match s.kind, secs[s.sec]? with
  | 1, some (.dot d) => if d.bFmt = 0 ∧ s.entry = 0 then some ([d.aFmt], d.outFmt) else none
  | 2, some (.elem _ _ es) =>
    (es[s.entry]?).map (fun e => ([e.aFmt, e.bFmt] ++ (if e.op = 4 then [e.cFmt] else []), e.outFmt))
  | 3, some (.spec f) => if s.entry = 0 then some ([f.inFmt], f.outFmt) else none
  | 4, some (.conv es) => (es[s.entry]?).map (fun e => ([e.src], e.dst))
  | _, _ => none

def Stage.sels (s : Stage) : List Nat := [s.sel0, s.sel1, s.sel2]

/-- Whether a selector of stage `i` names an existing input of format `f` (R86). -/
def selOk (stages : List Stage) (i sel f : Nat) : Bool :=
  if sel = 1 ∨ sel = 2 ∨ sel = 3 then true
  else
    match stages[sel % 16]? with
    | some t =>
      decide (sel % 16 < i) && t.mid == f &&
      ((sel / 16 == 1 && t.kind != 1) || (sel / 16 == 2 && t.kind == 1))
    | none => false

/-- The formats that the stages declare for pipeline input `sel` (0x01 A, 0x02 B, 0x03 C). -/
def pipeInput (secs : List Section) (stages : List Stage) (sel : Nat) : List Nat :=
  stages.flatMap (fun s =>
    match stageFmts secs s with
    | some (ins, _) => ((s.sels.zip ins).filter (fun p => p.1 == sel)).map Prod.snd
    | none => [])

/-- All the formats declared for one input agree. -/
def allSame (l : List Nat) : Bool := l.all (fun x => some x == l.head?)

/-- R86: the stages name earlier stages and agreeing formats, and the last is no reduction. A stage rounds into its MID_FMT, whatever the
output format of its section. -/
def pipeOk (secs : List Section) (stages : List Stage) : Bool :=
  stages.zipIdx.all (fun (s, i) =>
    match stageFmts secs s with
    | some (ins, _) =>
      (s.sels.drop ins.length).all (· == 0) &&
      (s.sels.zip ins).all (fun p => selOk stages i p.1 p.2)
    | none => false) &&
  [1, 2, 3].all (fun sel => allSame (pipeInput secs stages sel)) &&
  (match stages.getLast? with
   | some s => s.kind != 1
   | none => false)

/-- R508: the K of every sum reduction of a pipeline. -/
def pipeKs (secs : List Section) (stages : List Stage) : List Nat :=
  stages.flatMap (fun s =>
    match s.kind, secs[s.sec]? with
    | 1, some (.dot d) => [d.k]
    | _, _ => [])

/-- One region of an op: format and dimensions (R103, R508). -/
structure RegShape where
  fmt : Nat
  rows : Nat
  cols : Nat
  deriving DecidableEq, Repr

/-- The regions A, B, third operand and output that a section and entry give an op of these dimensions. -/
structure Shapes where
  a : RegShape
  b : Option RegShape
  c : Option RegShape
  out : RegShape
  deriving DecidableEq, Repr

/-- R72, R80, R81, R82, R508: the shapes of an op of a section. -/
def shapesOf (secs : List Section) (sec entry m n : Nat) : Option Shapes :=
  match secs[sec]? with
  | some (.dot d) =>
    some { a := ⟨d.aFmt, m, d.k⟩, b := if d.bFmt = 0 then none else some ⟨d.bFmt, d.k, n⟩,
           c := if d.accFmt = 0 then none else some ⟨d.accFmt, m, n⟩, out := ⟨d.outFmt, m, n⟩ }
  | some (.elem _ _ es) =>
    (es[entry]?).map (fun e =>
      { a := ⟨e.aFmt, m, n⟩, b := some ⟨e.bFmt, m, n⟩,
        c := if e.op = 4 then some ⟨e.cFmt, m, n⟩ else none, out := ⟨e.outFmt, m, n⟩ })
  | some (.conv es) => (es[entry]?).map (fun e => { a := ⟨e.src, m, n⟩, b := none, c := none, out := ⟨e.dst, m, n⟩ })
  | some (.spec f) => some { a := ⟨f.inFmt, m, n⟩, b := none, c := none, out := ⟨f.outFmt, m, n⟩ }
  | some (.pipe st) =>
    some { a := ⟨(pipeInput secs st 1).headD 0, m, n⟩,
           b := (pipeInput secs st 2).head?.map (fun f => ⟨f, 1, n⟩),
           c := (pipeInput secs st 3).head?.map (fun f => ⟨f, 1, n⟩),
           out := ⟨(st.getLast?.map Stage.mid).getD 0, m, n⟩ }
  | _ => none

/-- Bytes of a region packed without block padding, its scale bytes after it (R88). -/
def packedLen (r : RegShape) : Nat :=
  let n := r.rows * r.cols
  (n * fmtBits r.fmt + 7) / 8 + (if (fmtD r.fmt).scaled then (n + 31) / 32 else 0)

def up16 (n : Nat) : Nat := (n + 15) / 16 * 16

/-- Offsets of the present input regions of a vector, each on a 16-byte boundary, and the total length, without padding after the last
(log entry 103). -/
def katInLen (s : Shapes) : Nat :=
  let a := packedLen s.a
  let b := match s.b with
    | some r => up16 a + packedLen r
    | none => a
  match s.c with
  | some r => up16 b + packedLen r
  | none => b

/-- A signed byte. -/
def s8 (n : Nat) : Int := signedOf 8 n

/-- R88: one vector at offset `off`, and where the next begins. -/
def parseVec (secs : List Section) (b : Bytes) (off : Nat) : Option (Vector88 × Nat) :=
  let sec := leAt b off 1
  let entry := leAt b (off + 1) 1
  let dir := leAt b (off + 2) 1
  let fl := leAt b (off + 3) 1
  let cols := leAt b (off + 7) 1 + 1
  let inLen := leAt b (off + 8) 4
  let outLen := leAt b (off + 12) 4
  let o2 := up16 (off + 16 + inLen)
  let v : Vector88 :=
    { sec := sec, entry := entry, dir := dir, flags := fl, scaleA := s8 (leAt b (off + 4) 1),
      scaleB := s8 (leAt b (off + 5) 1), scaleOut := s8 (leAt b (off + 6) 1), cols := cols,
      inp := slice b (off + 16) (min inLen b.length), out := slice b o2 (min outLen b.length) }
  let entryOk := match secs[sec]? with
    | some (.elem _ _ es) => decide (entry < es.length)
    | some (.conv es) => match es[entry]? with
      | some e => bitAt e.mask dir == 1
      | none => false
    | some (.pipe st) => entry == 0 && (pipeKs secs st).all (· == cols)
    | some (.kat _) => false
    | some _ => entry == 0
    | none => false
  match shapesOf secs sec entry 1 cols with
  | some sh =>
    if entryOk && decide (off + 16 ≤ b.length) && dirOk dir && decide (fl < 64) &&
        decide (-127 ≤ v.scaleA) && decide (-127 ≤ v.scaleB) && decide (-127 ≤ v.scaleOut) &&
        inLen == katInLen sh && outLen == packedLen sh.out && decide (o2 + outLen ≤ b.length)
    then some (v, up16 (o2 + outLen)) else none
  | none => none

/-- R88: `n` vectors from offset `off`. -/
def parseVecs (secs : List Section) (b : Bytes) : Nat → Nat → Option (List Vector88)
  | 0, _ => some []
  | n + 1, off =>
    match parseVec secs b off with
    | some (v, off') => (parseVecs secs b n off').map (v :: ·)
    | none => none

/-- One section by its KIND (R71); the reserved kinds have none. -/
def parseSection (cls kind : Nat) (b : Bytes) : Option Section :=
  match kind with
  | 1 => parseDot cls b
  | 2 => parseElem b
  | 3 => parseConv b
  | 4 => parseSpec b
  | 5 => parsePipe b
  | 6 => some (.kat b)
  | _ => none

/-- A directory entry: KIND, OFFSET, LENGTH (R70). -/
structure DirEnt where
  kind : Nat
  off : Nat
  len : Nat
  deriving DecidableEq, Repr

def dirOf (img : Bytes) (n : Nat) : List DirEnt :=
  (List.range n).map (fun i =>
    let o := 0x80 + 16 * i
    { kind := leAt img o 2, off := leAt img (o + 4) 4, len := leAt img (o + 8) 4 })

/-- Two byte ranges are disjoint. -/
def apart (a la b lb : Nat) : Bool := decide (a + la ≤ b) || decide (b + lb ≤ a)

/-- R70: directory entries are aligned, inside the image, apart from each other and the directory, and not
inside the header (log entry 101). -/
def dirsOk (img : Bytes) (n : Nat) (es : List DirEnt) : Bool :=
  (List.range n).all (fun i => zeroAt img (0x80 + 16 * i + 2) 2 && zeroAt img (0x80 + 16 * i + 12) 4) &&
  es.zipIdx.all (fun (e, i) =>
    e.off % 16 == 0 && decide (e.off + e.len ≤ img.length) && decide (0x80 + 16 * n ≤ e.off) &&
    es.zipIdx.all (fun (g, j) => decide (i = j) || apart e.off e.len g.off g.len))

/-- R71: the number of sections of each kind. -/
def countsOk (es : List DirEnt) : Bool :=
  let c := fun k => (es.filter (fun e => e.kind == k)).length
  decide (c 1 ≤ 8) && decide (c 2 ≤ 1) && decide (c 3 ≤ 1) && decide (c 4 ≤ 8) && decide (c 5 ≤ 4) && c 6 == 1

/-- All of a list of options, or none. -/
def allSome {α : Type} : List (Option α) → Option (List α)
  | [] => some []
  | some a :: t => (allSome t).map (a :: ·)
  | none :: _ => none

def isKat : Section → Bool
  | .kat _ => true
  | _ => false

/-- Order 6 of R90: R69 to R88, R506 and R507 field by field. -/
def parseRecipe (img : Bytes) : Option Recipe :=
  let cls := leAt img 0x0A 1
  let n := leAt img 0x0B 1
  let es := dirOf img n
  if decide (cls ≤ 1) && decide (1 ≤ n) && decide (n ≤ 16) && zeroAt img 0x48 56 &&
      decide (0x80 + 16 * n ≤ img.length) && dirsOk img n es && countsOk es then
    match allSome (es.map (fun e => parseSection cls e.kind (slice img e.off e.len))) with
    | none => none
    | some secs =>
      let pipes := secs.all (fun s =>
        match s with
        | .pipe st => pipeOk secs st
        | _ => true)
      match (secs.filter isKat).head? with
      | some (.kat b) =>
        let nv := leAt b 0 2
        if pipes && decide (1 ≤ nv) && decide (nv ≤ 64) && zeroAt b 2 14 then
          match parseVecs secs b nv 16 with
          | some vs =>
            if secs.zipIdx.all (fun (s, i) => isKat s || vs.any (fun v => v.sec == i))
            then some { id := leAt img 8 2, cls := cls, sections := secs, kats := vs } else none
          | none => none
        else none
      | _ => none
  else none

/-- R7 on a REQ_VERSION field, for block version 3.2. -/
def versionOk (req : Nat) : Bool := req / 256 == 3 && decide (req % 256 ≤ 2)

/-- The outcome of orders 2 to 6 of R90: the status of the first failure, or the recipe.
`pinned` is the digest of the image last held ACTIVE, for a load under order 5. -/
def checkImage (img : Bytes) (pinned : Option Bytes) : Except Nat Recipe :=
  if leAt img 0 4 != 0x5A524350 || leAt img 4 2 != 1 || leAt img 0x0C 4 != img.length then .error 0x24
  else if ! versionOk (leAt img 6 2) then .error 0x21
  else if sha384 (img.drop 0x80) != slice img 0x10 48 then .error 0x24
  else if (match pinned with
    | some d => sha384 img != d
    | none => false) then .error 0x23
  else
    match parseRecipe img with
    | some r => .ok r
    | none => .error 0x24

end Sys2Proof.Machine
end

