-- ==== Sys2Proof/Machine/Arith.lean ====
section
/-! DEFINITION. The arithmetic of a recipe, bit for bit: dot products of both classes, elementwise operations,
conversions, special functions and pipelines (R66, R67, R72 to R86, R505, R508), and the known-answer vectors (R88). -/

namespace Sys2Proof.Machine

/-! ### Decoding operands -/

/-- R46 to R48 and IN_FLUSH of R78: the values of a region's elements under its tensor scale and scale bytes. -/
def decodeVals (f : Fmt) (ts : Int) (flush : Bool) (codes scales : List Nat) : List Val :=
  codes.zipIdx.map (fun (c, i) =>
    let t : Int := if f.kind == .ieee then 0 else ts
    if f.scaled then
      let b := scales.getD (i / 32) 127
      if b = 0xFF then .nan false else (inFlush flush f c).scale (t + ((b : Int) - 127))
    else (inFlush flush f c).scale t)

/-! ### The value that enters a final rounding -/

/-- What one output element's final rounding receives: the exact value, the flags pending from earlier points, the
direction, the OUT_FLUSH policy, and the exact value of the finite shadow (R133). -/
structure Pre where
  v : Val
  fl : Nat
  dir : Nat
  outFlush : Nat
  shadow : Val
  deriving DecidableEq, Repr

def Pre.zero : Pre := { v := .zero, fl := 0, dir := 0, outFlush := 0, shadow := .zero }

/-- Direction code 0b111 names the descriptor's direction (R72, R75, R80). -/
def resDir (code dir : Nat) : Nat := if code = 7 then dir else code

/-- R42: the sign of an exact zero sum. -/
def zeroSign (vs : List Val) (dir : Nat) : Bool :=
  let negZ := fun v => match v with
    | Val.fin n k _ => n && k == 0
    | _ => false
  let posZ := fun v => match v with
    | Val.fin n k _ => !n && k == 0
    | _ => false
  if ! vs.isEmpty && vs.all negZ then true
  else if vs.all posZ then false
  else dir == dirRdn

/-- The exact sum of finite values, a zero signed by R42. -/
def sumVals (vs : List Val) (dir : Nat) : Val :=
  let (m, e) := sumOver vs
  if m = 0 then .fin (zeroSign vs dir) 0 0 else .ofInt m e

/-- R133: a special value counts as zero in the finite shadow. -/
def Val.shadow (v : Val) : Val := if v.isFin then v else .zero

/-- The exact sum of two values, and whether infinities of both signs met. -/
def addVal (x y : Val) (dir : Nat) : Val × Bool :=
  if x.isNan || y.isNan then (.nan false, false)
  else
    match x, y with
    | .inf a, .inf b => if a = b then (.inf a, false) else (.nan false, true)
    | .inf a, _ => (.inf a, false)
    | _, .inf b => (.inf b, false)
    | _, _ => (sumVals [x, y] dir, false)

/-- The exact product of two values, and whether INVALID is due: a signalling NaN or inf × 0 (R54). -/
def mulVal (x y : Val) : Val × Bool :=
  if x.isNan || y.isNan then (.nan false, x.isSig || y.isSig)
  else
    match x, y with
    | .inf a, .inf b => (.inf (a != b), false)
    | .inf a, .fin b k _ => if k = 0 then (.nan false, true) else (.inf (a != b), false)
    | .fin a k _, .inf b => if k = 0 then (.nan false, true) else (.inf (a != b), false)
    | .fin a k e, .fin b l g => (.fin (a != b) (k * l) (e + g), false)
    | _, _ => (.nan false, false)

/-- A reference of R75 to a leaf or an earlier node. -/
def refVal (leaves done : List Val) (r : Nat) : Val :=
  if r < 512 then leaves.getD r .zero else done.getD (r - 512) .zero

/-- The fold of a Class S tree over all its nodes but the root (R77 step 2): the rounded node values, the flags, and
whether infinities of both signs met. -/
structure TreeSt where
  done : List Val
  fl : Nat
  met : Bool
  deriving DecidableEq, Repr

/-- One inner node of a Class S tree (R77, R505). -/
def treeNode (leaves : List Val) (outFlush dir : Nat) (rnd : Nat → Nat) (t : TreeSt) (w : NodeW) : TreeSt :=
  let nd := resDir w.dir dir
  let (v, met) := addVal (refVal leaves t.done w.left) (refVal leaves t.done w.right) nd
  let f := fmtD w.fmt
  let (c, fl) := encode f nd outFlush (rnd (0x200 + t.done.length)) 0 v
  { done := t.done ++ [decode f c], fl := t.fl ||| fl, met := t.met || met }

/-- R66, R67, R73, R77, R507: the value that a dot product's final rounding receives. -/
def dotPre (cls : Nat) (s : DotSec) (a b : List Val) (acc : Option Val) (dir : Nat) (rnd : Nat → Nat) : Pre :=
  let fdir := match s.nodes.getLast? with
    | some w => if cls = 1 then resDir w.dir dir else dir
    | none => if s.flags % 2 = 1 then dir else fieldOf s.flags 3 1
  let oflush := fieldOf s.subn 3 2
  let prods := (a.zip b).map (fun p => mulVal p.1 p.2)
  let leaves := prods.map Prod.fst ++ acc.toList
  let inv := prods.any Prod.snd || acc.toList.any Val.isSig
  let shadow := sumVals (leaves.map Val.shadow) 0
  let infs := leaves.filter Val.isInf
  let mk := fun v fl => ({ v := v, fl := fl, dir := fdir, outFlush := oflush, shadow := shadow } : Pre)
  if leaves.any Val.isNan then mk (.nan false) (if inv then flInvalid else 0)
  else if infs.any (· == .inf true) && infs.any (· == .inf false) then mk (.nan false) flInvalid
  else if ! infs.isEmpty then mk (infs.headD .zero) 0
  else if cls = 0 || isIntFmt s.outFmt then mk (sumVals leaves fdir) 0
  else
    let pf := fmtD s.prodFmt
    let pdir := resDir s.prodDir dir
    let rounded : List (Val × Nat) := leaves.zipIdx.map (fun (v, i) =>
      if s.prodFmt = 0 || i ≥ prods.length then (v, 0)
      else
        let (c, fl) := encode pf pdir oflush (rnd (0x100 + i)) 0 v
        (decode pf c, fl))
    let lv := rounded.map Prod.fst
    let fl0 := rounded.foldl (fun x p => x ||| p.2) 0
    match s.nodes.getLast? with
    | none => mk (lv.headD .zero) fl0
    | some root =>
      let t := s.nodes.dropLast.foldl (treeNode lv oflush dir rnd) { done := [], fl := fl0, met := false }
      let (v, met) := addVal (refVal lv t.done root.left) (refVal lv t.done root.right) fdir
      if v.isNan then mk v flInvalid
      else mk v (t.fl ||| (if t.met || met then flInvalid else 0))

/-- Order of two values for maximum and minimum (R79): −0 ranks below +0. -/
def valLe (x y : Val) : Bool :=
  match x, y with
  | .inf true, _ => true
  | _, .inf false => true
  | .inf false, _ => false
  | _, .inf true => false
  | .fin a k e, .fin b l g =>
    if k = 0 && l = 0 then a || !b
    else
      let e0 := min (if k = 0 then g else e) (if l = 0 then e else g)
      decide ((if k = 0 then 0 else (Val.fin a k e).over e0) ≤ (if l = 0 then 0 else (Val.fin b l g).over e0))
  | _, _ => false

/-- R79: maximum or minimum under the NAN policy, with its flags. -/
def maxMin (number isMax : Bool) (a b : Val) : Val × Nat :=
  if a.isSig || b.isSig then (.nan false, flInvalid)
  else if a.isNan && b.isNan then (.nan false, 0)
  else if a.isNan then (if number then b else .nan false, 0)
  else if b.isNan then (if number then a else .nan false, 0)
  else (if valLe a b == isMax then b else a, 0)

/-- R80: one elementwise result before its rounding. -/
def elemPre (nan subn : Nat) (e : ElemEntry) (a b c : Val) (dir : Nat) : Pre :=
  let d := resDir e.dir dir
  let oflush := fieldOf subn 3 2
  if e.op = 5 || e.op = 6 then
    let (v, fl) := maxMin (nan % 2 == 1) (e.op == 5) a b
    { v := v, fl := fl, dir := d, outFlush := 0, shadow := v.shadow }
  else
    let (p, bad1) := mulVal a b
    let (v, bad) : Val × Bool :=
      if e.op = 1 then addVal a b d
      else if e.op = 2 then addVal a b.neg d
      else if e.op = 3 then (p, bad1)
      else let (w, bad2) := addVal p c d; (w, bad1 || bad2)
    let sig := a.isSig || b.isSig || (e.op == 4 && c.isSig)
    let sa := a.shadow
    let sb := b.shadow
    let sp := (mulVal sa sb).1
    let sh := if e.op = 1 then sumVals [sa, sb] 0 else if e.op = 2 then sumVals [sa, sb.neg] 0
      else if e.op = 3 then sp else sumVals [sp, c.shadow] 0
    { v := v, fl := if sig || bad then flInvalid else 0, dir := d, outFlush := oflush, shadow := sh }

/-! ### Special functions (R82 to R85) -/

/-- R84: integer Horner evaluation, truncating toward negative infinity. -/
def polyEval (tBits t : Nat) : List Int → Int
  | [] => 0
  | [c] => c
  | c :: cs => (polyEval tBits t cs * (t : Int)) / ((2 ^ tBits : Nat) : Int) + c

/-- R83: the polynomial value of a reduced argument given as an integer of SEG_BITS + T_BITS fraction bits, as a
signed mantissa over 2^COEF_FRAC. -/
def polyOf (s : SpecSec) (r : Nat) : Int :=
  let seg := r / 2 ^ s.tBits
  polyEval s.tBits (r % 2 ^ s.tBits) ((s.coefs.drop (seg * (s.degree + 1))).take (s.degree + 1))

/-- Floor and scaled fraction of a signed dyadic: `(floor x, floor ((x − floor x) × 2^nb))`. -/
def floorFrac (m : Int) (e : Int) (nb : Nat) : Int × Nat :=
  if 0 ≤ e then (m * ((2 ^ e.toNat : Nat) : Int), 0)
  else
    let d : Int := ((2 ^ (-e).toNat : Nat) : Int)
    (m / d, ((m % d * ((2 ^ nb : Nat) : Int)) / d).toNat)

/-- Bounds the exponent n of 2^n: beyond ±4096 the value lies outside every format under every scale, so the rounded
result and its flags are the same. -/
def clampExp (n : Int) : Int := max (-4096) (min 4096 n)

/-- R83 for 2^x and e^x, x = m × 2^e. An argument of 2^300 or more is
an integer, so its fraction is zero, and its power is clamped before it is expanded. -/
def expVal (s : SpecSec) (m : Int) (e : Int) : Val :=
  let nb := s.segBits + s.tBits
  if m ≠ 0 ∧ ilog2 m.natAbs e > 300 then
    .ofInt (polyOf s 0) ((if m < 0 then -4096 else 4096) - s.coefFrac)
  else
    let (n, r) := floorFrac m e nb
    .ofInt (polyOf s r) (clampExp n - s.coefFrac)

/-- R85: the special inputs; none where R83 decides. -/
def specTable (func : Nat) (x : Val) : Option (Val × Nat) :=
  let nan : Option (Val × Nat) := some (.nan false, flInvalid)
  match x with
  | .nan sig => some (.nan false, if sig then flInvalid else 0)
  | .inf false =>
    if func = 3 || func = 4 then some (.zero, 0)
    else if func = 7 || func = 8 then some (.one, 0)
    else some (.inf false, 0)
  | .inf true =>
    if func = 1 || func = 2 || func = 8 then some (.zero, 0)
    else if func = 3 then some (.fin true 0 0, 0)
    else if func = 7 then some (.fin true 1 0, 0)
    else nan
  | .fin n k _ =>
    if k = 0 then
      if func = 1 || func = 2 then some (.one, 0)
      else if func = 3 || func = 4 then some (.inf n, flDivzero)
      else if func = 6 then some (.inf true, flDivzero)
      else if func = 8 then some (.fin false 1 (-1), 0)
      else some (.fin n 0 0, 0)
    else if n && (func = 4 || func = 5 || func = 6) then nan
    else none

/-- A value `y / 2^cf × 2^e` whose zero carries sign `zneg`. -/
def ofPoly (y : Int) (e : Int) (zneg : Bool) : Val := if y = 0 then .fin zneg 0 0 else .ofInt y e

/-- R83: the exact value before the final rounding for a finite nonzero input. -/
def specVal (s : SpecSec) (neg : Bool) (k : Nat) (e : Int) : Val :=
  let cf : Int := s.coefFrac
  let nb := s.segBits + s.tBits
  let l := Nat.log2 k
  let ex : Int := e + l
  let signed := fun (y : Int) => if neg then -y else y
  let sm : Int := if neg then -(k : Int) else k
  let rdn := s.dir == dirRdn
  match s.func with
  | 1 => expVal s sm e
  | 2 => expVal s (sm * (s.redConst : Int)) (e - s.redFrac)
  | 3 => ofPoly (signed (polyOf s ((k - 2 ^ l) * 2 ^ nb / 2 ^ l))) (-ex - cf) neg
  | 6 =>
    let y := polyOf s ((k - 2 ^ l) * 2 ^ nb / 2 ^ l)
    ofPoly (ex * ((2 ^ s.coefFrac : Nat) : Int) + y) (-cf) (ex != 0 && rdn)
  | 7 | 8 =>
    let x := signedOf 64 s.redConst
    let sh : Int := e - x + nb
    let r : Nat :=
      if ex ≥ x then 2 ^ nb - 1
      else if 0 ≤ sh then k * 2 ^ sh.toNat
      else if (-sh) > (l : Int) then 0
      else k / 2 ^ (-sh).toNat
    let y := polyOf s r
    if s.func = 7 then ofPoly (signed y) (-cf) neg
    else ofPoly (if neg then ((2 ^ s.coefFrac : Nat) : Int) - y else y) (-cf) (neg && rdn)
  | _ =>
    -- R83 rows 0x04 and 0x05: e even, m in [1, 4)
    let ev : Int := if ex % 2 = 0 then ex else ex - 1
    let d := (ev - e + 1).toNat
    let y := polyOf s ((2 * k - 2 ^ d) * 2 ^ nb / (3 * 2 ^ d))
    ofPoly y ((if s.func = 4 then -ev / 2 else ev / 2) - cf) false

/-- R82 to R85: one special-function result before its rounding. -/
def specPre (s : SpecSec) (x : Val) : Pre :=
  let mk := fun v fl => ({ v := v, fl := fl, dir := s.dir, outFlush := fieldOf s.subn 3 2, shadow := .zero } : Pre)
  match specTable s.func x with
  | some (v, fl) => mk v fl
  | none =>
    match x with
    | .fin n k e => mk (specVal s n k e) 0
    | _ => mk .zero 0

/-! ### Whole ops -/

/-- What of a descriptor the arithmetic needs: section, entry, direction, dimensions, the draw key of R59 and R119, and
the tensor scales of R138. -/
structure OpArith where
  sec : Nat
  entry : Nat
  dir : Nat
  m : Nat
  n : Nat
  k : Nat
  seed : Nat
  ctx : Nat
  step : Nat
  tensor : Nat
  elemBase : Nat
  rowStride : Nat
  tsA : Int
  tsB : Int
  tsOut : Int
  deriving DecidableEq, Repr

/-- The draw of R59 and R505 for output element `idx` (row-major) and a purpose. -/
def OpArith.rnd (o : OpArith) (idx purpose : Nat) : Nat :=
  draw o.seed o.ctx o.step o.tensor (o.elemBase + idx / o.n * o.rowStride + idx % o.n) purpose

/-- The result of an op: codes, scale bytes, per-element flags and exact shadow values, the op's flags and m (R63). -/
structure OpResult where
  codes : List Nat
  scales : List Nat
  flags : List Nat
  shadows : List Val
  opFlags : Nat
  m : Nat
  deriving DecidableEq, Repr

/-- Groups of 32 elements (R47). -/
def chunks32 {α : Type} : Nat → List α → List (List α)
  | 0, _ => []
  | n + 1, l => if l.isEmpty then [] else l.take 32 :: chunks32 n (l.drop 32)

/-- The final rounding of every element (R50 to R58, R63): `rnd` gives the draw of an element. Groups of a block-scaled output run by the
place in the op's own region (log entry 100). -/
def finishOp (f : Fmt) (ts : Int) (rnd : Nat → Nat) (pres : List Pre) : OpResult :=
  let ts : Int := if f.kind == .ieee then 0 else ts
  let scales := if f.scaled then (chunks32 pres.length (pres.map Pre.v)).map (blockScale f ts) else []
  let rs := pres.zipIdx.map (fun (p, i) =>
    let b := scales.getD (i / 32) 127
    if f.scaled && b == 0xFF then
      if p.v.isNan then let (c, fl) := encode f p.dir p.outFlush 0 0 p.v; (c, p.fl ||| fl)
      else (f.canonNan, 0)
    else
      let (c, fl) := encode f p.dir p.outFlush (rnd i) (ts + ((b : Int) - 127)) p.v
      (c, p.fl ||| fl))
  { codes := rs.map Prod.fst, scales := scales, flags := rs.map Prod.snd, shadows := pres.map Pre.shadow,
    opFlags := rs.foldl (fun a r => a ||| r.2) 0,
    m := if f.kind == .ieee then 0 else runMax (pres.map Pre.v) }

/-- The elements of a region: format, tensor scale, codes and scale bytes in linear order. A sparse region names the dense
place of each stored value and the dense count (R143). -/
structure Elems where
  fmt : Nat
  ts : Int
  codes : List Nat
  scales : List Nat
  places : Option (List Nat) := none
  total : Nat := 0
  deriving DecidableEq, Repr

def Elems.none : Elems := { fmt := 0, ts := 0, codes := [], scales := [] }

/-- Puts stored values at their places among zeros. -/
def scatter (ps : List (Nat × Val)) (n : Nat) : List Val :=
  (List.range n).map (fun i => ((ps.find? (fun p => p.1 == i)).map Prod.snd).getD .zero)

/-- The values of a region under a section's IN_FLUSH. -/
def Elems.vals (e : Elems) (flush : Bool) : List Val :=
  let vs := decodeVals (fmtD e.fmt) e.ts flush e.codes e.scales
  match e.places with
  | .none => vs
  | some ps => scatter (ps.zip vs) e.total

/-- Whether a place of a sparse region stores no value. -/
def Elems.skips (e : Elems) (p : Nat) : Bool :=
  match e.places with
  | .none => false
  | some ps => ! ps.contains p

/-- The input regions of an op; an absent region has no elements. -/
structure OpIn where
  a : Elems
  b : Elems
  c : Elems
  deriving DecidableEq, Repr

/-- Consecutive rows of `n` elements. -/
def rowsOf {α : Type} (n : Nat) : Nat → List α → List (List α)
  | 0, _ => []
  | m + 1, l => l.take n :: rowsOf n m (l.drop n)

/-- The columns of a `k`-row matrix given by its rows. -/
def colsOf (n : Nat) (rows : List (List Val)) : List (List Val) :=
  (List.range n).map (fun j => rows.map (fun r => r.getD j .zero))

def flushIn (subn : Nat) : Bool := subn % 4 == 1

/-- The elements of an input selector for every output element, row-major (R86). -/
def selList (o : OpArith) (inp : OpIn) (done : List Elems) (flush : Bool) (sel : Nat) : List Val :=
  if sel = 1 then inp.a.vals flush
  else if sel = 2 then (List.replicate o.m (inp.b.vals flush)).flatten
  else if sel = 3 then (List.replicate o.m (inp.c.vals flush)).flatten
  else
    match done[sel % 16]? with
    | some e => e.vals flush
    | none => []

/-- Every element of a stage before its rounding (R86). A sum reduction is formed for each output element of its row
with that element's draws (R505), without an
accumulator, and a conversion stage without a test of its direction mask (log entry 102). -/
def stagePres (r : Recipe) (o : OpArith) (inp : OpIn) (done : List Elems) (num : Nat) (s : Stage) : List Pre :=
  let base := 0x1000 * (num + 1)
  match r.sections[s.sec]? with
  | some (.dot d) =>
    let rows := rowsOf o.n o.m (selList o inp done (flushIn d.subn) s.sel0)
    rows.zipIdx.flatMap (fun (row, i) =>
      (List.range o.n).map (fun j =>
        dotPre r.cls { d with outFmt := s.mid } row (List.replicate o.n Val.one) none o.dir (fun p => o.rnd (i * o.n + j) (base + p))))
  | some (.elem nan subn es) =>
    match es[s.entry]? with
    | some e =>
      let f := flushIn subn
      let a := selList o inp done f s.sel0
      let b := selList o inp done f s.sel1
      let c := selList o inp done f s.sel2
      a.zipIdx.map (fun (x, i) => elemPre nan subn e x (b.getD i .zero) (c.getD i .zero) o.dir)
    | none => []
  | some (.conv _) =>
    (selList o inp done false s.sel0).map (fun v =>
      { v := v, fl := 0, dir := o.dir, outFlush := 0, shadow := v.shadow })
  | some (.spec f) => (selList o inp done (flushIn f.subn) s.sel0).map (specPre f)
  | _ => []

/-- The fold of a pipeline over its stages: the stage results, the flags so far of each element, the last result. -/
structure PipeSt where
  done : List Elems
  fl : List Nat
  last : OpResult
  deriving DecidableEq, Repr

def OpResult.empty : OpResult := { codes := [], scales := [], flags := [], shadows := [], opFlags := 0, m := 0 }

/-- R86, R508: a stage is rounded into MID_FMT, the last one under the output's tensor scale. -/
def pipeStep (r : Recipe) (o : OpArith) (inp : OpIn) (total : Nat) (p : PipeSt) (s : Stage) : PipeSt :=
  let num := p.done.length
  let ts : Int := if num + 1 = total then o.tsOut else 0
  let res := finishOp (fmtD s.mid) ts (fun i => o.rnd i (0x1000 * (num + 1) + 1)) (stagePres r o inp p.done num s)
  let fl := if p.fl.isEmpty then res.flags else (p.fl.zip res.flags).map (fun q => q.1 ||| q.2)
  { done := p.done ++ [{ fmt := s.mid, ts := ts, codes := res.codes, scales := res.scales }], fl := fl, last := res }

/-- A value that enters one rounding unchanged: a conversion's source (R50, R140). -/
def convPre (dir : Nat) (v : Val) : Pre := { v := v, fl := 0, dir := dir, outFlush := 0, shadow := v.shadow }

/-- The factors of output (i, j): a product with a skipped zero contributes nothing (R143); it enters the sum as +0 (log
entry 98). -/
def pairsOf (o : OpArith) (inp : OpIn) (i j : Nat) (a b : List Val) : List (Val × Val) :=
  (a.zip b).zipIdx.map (fun (p, k) =>
    if inp.a.skips (i * o.k + k) || inp.b.skips (k * o.n + j) then (Val.zero, Val.zero) else p)

/-- The whole op of a section (R66 to R86, R508). -/
def evalOp (r : Recipe) (o : OpArith) (inp : OpIn) : OpResult :=
  let fin := fun (fmt : Nat) pres => finishOp (fmtD fmt) o.tsOut (fun i => o.rnd i 1) pres
  match r.sections[o.sec]? with
  | some (.dot d) =>
    let f := flushIn d.subn
    let rows := rowsOf o.k o.m (inp.a.vals f)
    let cols := if d.bFmt = 0 then List.replicate o.n (List.replicate o.k Val.one)
      else colsOf o.n (rowsOf o.n o.k (inp.b.vals f))
    let acc := rowsOf o.n o.m (inp.c.vals f)
    fin d.outFmt (rows.zipIdx.flatMap (fun (a, i) =>
      cols.zipIdx.map (fun (b, j) =>
        let ps := pairsOf o inp i j a b
        dotPre r.cls d (ps.map Prod.fst) (ps.map Prod.snd) (if d.accFmt = 0 then none else some ((acc.getD i []).getD j .zero)) o.dir
          (o.rnd (i * o.n + j)))))
  | some (.elem nan subn es) =>
    match es[o.entry]? with
    | some e =>
      let f := flushIn subn
      let b := inp.b.vals f
      let c := inp.c.vals f
      fin e.outFmt ((inp.a.vals f).zipIdx.map (fun (x, i) =>
        elemPre nan subn e x (b.getD i .zero) (c.getD i .zero) o.dir))
    | none => OpResult.empty
  | some (.conv es) =>
    match es[o.entry]? with
    | some e => fin e.dst ((inp.a.vals false).map (convPre o.dir))
    | none => OpResult.empty
  | some (.spec s) => fin s.outFmt ((inp.a.vals (flushIn s.subn)).map (specPre s))
  | some (.pipe st) =>
    let p := st.foldl (pipeStep r o inp st.length) { done := [], fl := [], last := OpResult.empty }
    { p.last with flags := p.fl, opFlags := p.fl.foldl (fun a x => a ||| x) 0 }
  | _ => OpResult.empty

/-! ### Known-answer vectors (R88) -/

/-- The elements of a region packed at byte `off` of a vector's input. -/
def katRegion (b : Bytes) (off : Nat) (r : RegShape) (ts : Int) : Elems :=
  let n := r.rows * r.cols
  let w := fmtBits r.fmt
  let eb := (n * w + 7) / 8
  let sc := if (fmtD r.fmt).scaled then (slice b (off + eb) ((n + 31) / 32)).map BitVec.toNat else []
  { fmt := r.fmt, ts := ts, codes := unpackBytes w n (slice b off eb), scales := sc }

/-- The input regions of a vector: A, B and the third operand, each on a 16-byte boundary. -/
def katInputs (v : Vector88) (sh : Shapes) : OpIn :=
  let ea := packedLen sh.a
  let offB := up16 ea
  let endB := match sh.b with
    | some r => offB + packedLen r
    | none => ea
  { a := katRegion v.inp 0 sh.a v.scaleA
    b := match sh.b with
      | some r => katRegion v.inp offB r v.scaleB
      | none => Elems.none
    c := match sh.c with
      | some r => katRegion v.inp (up16 endB) r 0
      | none => Elems.none }

/-- R88: whether a vector's bits and flags come out as the image says. -/
def katPass (r : Recipe) (v : Vector88) : Bool :=
  match shapesOf r.sections v.sec v.entry 1 v.cols with
  | none => false
  | some sh =>
    let k := match r.sections[v.sec]? with
      | some (.dot d) => d.k
      | _ => 1
    let o : OpArith :=
      { sec := v.sec, entry := v.entry, dir := v.dir, m := 1, n := v.cols, k := k, seed := 0, ctx := 0, step := 0,
        tensor := 0, elemBase := 0, rowStride := 0, tsA := v.scaleA, tsB := v.scaleB, tsOut := v.scaleOut }
    let res := evalOp r o (katInputs v sh)
    let bytes := packBytes (fmtBits sh.out.fmt) res.codes ++ res.scales.map (BitVec.ofNat 8)
    bytes == v.out && res.opFlags == v.flags

/-- Whether every vector of a recipe passes (order 7 of R90). -/
def katsPass (r : Recipe) : Bool := r.kats.all (katPass r)

end Sys2Proof.Machine
end

