-- ==== Sys2Proof/Machine/Residue.lean ====
section
/-! DEFINITION. Residues modulo 2^31 − 1, the class predictions and observed sums, location, the operand closure, index
streams, the converter max cross-check and the route fold (R64, R111, R131 to R147, R177). -/

namespace Sys2Proof.Machine

/-- The modulus M of R131. -/
def mersM : Nat := 2 ^ 31 - 1

/-- `rot` of R131: r × 2^e modulo M. -/
def rot31 (r : Nat) (e : Int) : Nat := (r % mersM) * 2 ^ (e % 31).toNat % mersM

def addM (a b : Nat) : Nat := (a + b) % mersM
def subM (a b : Nat) : Nat := (a + mersM - b % mersM) % mersM
def negM (a : Nat) : Nat := (mersM - a % mersM) % mersM
def mulM (a b : Nat) : Nat := a * b % mersM
def sumM (l : List Nat) : Nat := l.foldl addM 0

/-- What one rounding point adds to the delta of its lane (R114): the residue of the exact magnitude k·2^ek + drop·2^ed less that of the magnitude
o·2^eo after the rounding, under the sign. The tap cells sum it over an element's rounding points, and the lane's beat carries the sum. -/
def rndCell (neg : Bool) (k : Nat) (ek : Int) (drop : Nat) (ed : Int) (o : Nat) (eo : Int) : Nat :=
  let d := subM (addM (rot31 k ek) (rot31 drop ed)) (rot31 o eo)
  if neg then negM d else d

/-- The residue of a finite value; a NaN or an infinity counts as zero (R132, R133). -/
def resVal (v : Val) : Nat :=
  match v with
  | .fin n k e => let r := rot31 k e; if n then negM r else r
  | _ => 0

/-- The residue of an element code under its tensor and block scales (R132). -/
def resElem (f : Fmt) (t : Int) (c : Nat) : Nat := resVal ((decode f c).scale t)

/-- An element with its coordinate: row, column and residue. -/
structure Cell3 where
  row : Nat
  col : Nat
  val : Nat
  deriving DecidableEq, Repr

/-- Sums over the 128 classes of an index modulo 128 (R135). -/
def classSums (l : List (Nat × Nat)) : List Nat :=
  (List.range 128).map (fun c => sumM ((l.filter (fun p => p.1 % 128 == c)).map Prod.snd))

/-- Row classes and column classes of a set of elements. -/
structure Classes where
  rows : List Nat
  cols : List Nat
  deriving DecidableEq, Repr

def classesOf (l : List Cell3) : Classes :=
  { rows := classSums (l.map (fun x => (x.row, x.val))), cols := classSums (l.map (fun x => (x.col, x.val))) }

def zipAddM (a b : List Nat) : List Nat := (a.zip b).map (fun p => addM p.1 p.2)

def Classes.add (a b : Classes) : Classes := { rows := zipAddM a.rows b.rows, cols := zipAddM a.cols b.cols }

/-- Sums over k of a set of (k, residue) pairs, k below 256. -/
def kSums (l : List (Nat × Nat)) : List Nat :=
  (List.range 256).map (fun k => sumM ((l.filter (fun p => p.1 == k)).map Prod.snd))

/-- The predicted classes of a dot product (R136): A by (i, k), B by (k, j), accumulator by (i, j). -/
def predictDot (a b acc : List Cell3) : Classes :=
  let beta := kSums (b.map (fun x => (x.row, x.val)))
  let alpha := kSums (a.map (fun x => (x.col, x.val)))
  let rows := a.map (fun x => (x.row, mulM x.val (beta.getD x.col 0)))
  let cols := b.map (fun x => (x.col, mulM x.val (alpha.getD x.row 0)))
  Classes.add { rows := classSums rows, cols := classSums cols } (classesOf acc)

/-- The residue of the element at a coordinate, when present. -/
def cellAt (l : List Cell3) (r c : Nat) : Option Nat := (l.find? (fun x => x.row == r && x.col == c)).map Cell3.val

/-- The predicted classes of an elementwise op of OP 0x01 to 0x04 (R139). -/
def predictElem (op : Nat) (a b c : List Cell3) : Classes :=
  classesOf (a.map (fun x =>
    let y := (cellAt b x.row x.col).getD 0
    let z := (cellAt c x.row x.col).getD 0
    { x with val :=
        if op = 1 then addM x.val y else if op = 2 then subM x.val y
        else if op = 3 then mulM x.val y else addM (mulM x.val y) z }))

/-- Where a residue mismatch lies (R147). -/
inductive Location where
  | pass
  | located (els : List Cell3)
  | unlocated (rowMask colMask rowSyn : Nat)
  deriving DecidableEq, Repr

/-- Whether a location names the element at a row and a column: a class pair, or the intersection of the masks (R147, R206). -/
def Location.names (l : Location) (row col : Nat) : Bool :=
  match l with
  | .pass => false
  | .located els => els.any (fun e => row % 128 == e.row && col % 128 == e.col)
  | .unlocated rm cm _ => bitAt rm (row % 128) == 1 && bitAt cm (col % 128) == 1

/-- The syndrome that an element of a located class pair carries (R147). -/
def Location.synAt (l : Location) (row col : Nat) : Option Nat :=
  match l with
  | .located els => (els.find? (fun e => row % 128 == e.row && col % 128 == e.col)).map Cell3.val
  | _ => none

/-- Nonzero syndromes with their class numbers. -/
def nonzeros (l : List Nat) : List (Nat × Nat) := (l.zipIdx.filter (fun p => p.1 != 0)).map (fun p => (p.2, p.1))

def maskOf (l : List (Nat × Nat)) : Nat := l.foldl (fun a p => a + 2 ^ p.1) 0

/-- R147: location from the observed and predicted class residues. -/
def locate (obs pred : Classes) : Location :=
  let syn := fun a b => nonzeros ((List.zip a b).map (fun p => subM p.1 p.2))
  let rs := syn obs.rows pred.rows
  let cs := syn obs.cols pred.cols
  let fail := Location.unlocated (maskOf rs) (maskOf cs) (((rs.head?).map Prod.snd).getD 0)
  match rs, cs with
  | [], [] => .pass
  | [(r, s)], [(c, t)] => if s = t then .located [{ row := r, col := c, val := s }] else fail
  | [(r, s)], cs =>
    if 2 ≤ cs.length ∧ cs.length ≤ 8 ∧ sumM (cs.map Prod.snd) = s then
      .located (cs.map (fun p => { row := r, col := p.1, val := p.2 }))
    else fail
  | rs, [(c, t)] =>
    if 2 ≤ rs.length ∧ rs.length ≤ 8 ∧ sumM (rs.map Prod.snd) = t then
      .located (rs.map (fun p => { row := p.1, col := c, val := p.2 }))
    else fail
  | _, _ => fail

/-- R111: one element's share of a closure value, from its code and its position in the region. -/
def closureOf (code pos : Nat) : Nat := mulM (code % mersM) ((pos + 1) % mersM)

/-! ### Index streams (R143, R144) -/

def ixLast (e : Nat) : Bool := bitAt e 15 == 1
def ixNone (e : Nat) : Bool := bitAt e 14 == 1
def ixK (e : Nat) : Nat := fieldOf e 8 0

/-- One entry breaks R144 on its own. -/
def ixEntryBad (dimK e : Nat) : Bool :=
  fieldOf e 13 9 != 0 || decide (dimK ≤ ixK e) || (ixNone e && (! ixLast e || ixK e != 0))

/-- The entries seen of one row or column, by place, break R144: one alone, or two by their order. -/
def ixSeenBad (dimK : Nat) (l : List (Nat × Nat)) : Bool :=
  l.any (fun p => ixEntryBad dimK p.2 || l.any (fun q => decide (p.1 < q.1) && (ixLast p.2 || decide (ixK q.2 ≤ ixK p.2))))

/-- No entry of a row or column is its LAST. -/
def ixNoLast (l : List (Nat × Nat)) : Bool := ! l.any (fun p => ixLast p.2)

/-- A complete row or column breaks R144: no LAST entry, or a count that differs from its stored values. -/
def ixLineShort (stored : Nat) (l : List Nat) : Bool :=
  ! (match l.getLast? with
     | some e => ixLast e
     | none => false) ||
    (l.filter (fun e => ! ixNone e)).length != stored

/-! ### Converter max (R64) -/

/-- |a − b| of two nonnegative values, exact. -/
def absDiff (a b : Val) : Val :=
  match sumVals [a, b.neg] 0 with
  | .fin _ k e => .fin false k e
  | v => v

/-- R64: `m` in binary32, `v` the largest finite decoded output magnitude (none when no output is finite), the op's
flags, the element format and the exponent of the scales that apply to `v`. -/
def maxtapOk (m : Nat) (v : Option Val) (flags : Nat) (f : Fmt) (t : Int) : Bool :=
  match decode (fmtD 2) m, v with
  | .fin _ k e, some v =>
    if k = 0 then true
    else
      let mv : Val := .fin false k e
      let p : Int := if f.kind == .int then 0 else f.p
      let d := absDiff v mv
      let isTop := fun (neg : Bool) =>
        match (f.maxFin neg).scale t with
        | top => magLe top v && magLe v top
      magLe d (mv.scale (1 - p)) ||
        (bitAt flags 5 == 1 && (isTop false || isTop true)) ||
        (f.kind != .int && ! magLe (.fin false 1 (f.emin + t)) mv && magLe d (.fin false 1 (f.emin - f.p + t)))
  | _, _ => true

/-! ### Route digests (R177) -/

/-- The totals of a route digest. -/
structure RouteSum where
  n : Nat := 0
  s0 : Nat := 0
  s1 : Nat := 0
  deriving DecidableEq, Repr

/-- R177: one triple folded into N, S0 and S1. -/
def RouteSum.fold (r : RouteSum) (token expert dest : Nat) : RouteSum :=
  let q := 2 ^ 31 - 2
  let w := token % q + 1
  let v := (expert * 2 ^ 16 + dest) % q + 1
  { n := (r.n + 1) % 2 ^ 32, s0 := addM r.s0 w, s1 := addM r.s1 (mulM w v) }

end Sys2Proof.Machine
end

