-- ==== Sys2Proof/Machine/Types.lean ====
section
/-! DEFINITION. The records that State holds for the parts of the block, chapter by chapter from 03_arithmetic_recipes to
18_bringup. Every field's default is its value at block reset. -/

namespace Sys2Proof.Machine

/-! ### The tap side: descriptors and the ops of a tile -/

/-- The op descriptor of R102. `zeroBad` says that one of its zero bits, [511], [175:169] or [127:126], is 1. -/
structure Desc where
  outFmt : Nat := 0
  bFmt : Nat := 0
  aFmt : Nat := 0
  elemBase : Nat := 0
  rowStride : Nat := 0
  bBlk : Nat := 0
  aBlk : Nat := 0
  outBlk : Nat := 0
  seed : Nat := 0
  tensor : Nat := 0
  sckB : Nat := 0
  sckA : Nat := 0
  sckOut : Nat := 0
  dimK : Nat := 0
  dimN : Nat := 0
  dimM : Nat := 0
  bucket : Nat := 0
  bktValid : Bool := false
  dir : Nat := 0
  entry : Nat := 0
  slot : Nat := 0
  sec : Nat := 0
  kind : Nat := 0
  opseq : Nat := 0
  step : Nat := 0
  gen : Nat := 0
  ctx : Nat := 0
  zeroBad : Bool := false
  deriving DecidableEq, Repr

/-- A sparse operand (R143): its stored values and its index entries. -/
structure Sparse where
  stored : Nat
  entries : Nat
  deriving DecidableEq, Repr

/-- One region of an op with its extent (R103, R502). -/
structure Region where
  present : Bool := false
  base : Nat := 0
  fmt : Nat := 0
  count : Nat := 0
  rows : Nat := 0
  cols : Nat := 0
  entries : Nat := 0
  elemBlocks : Nat := 0
  ixBlocks : Nat := 0
  scBlocks : Nat := 0
  deriving DecidableEq, Repr

/-- The four regions of an op. -/
structure Layout where
  a : Region := {}
  b : Region := {}
  c : Region := {}
  out : Region := {}
  deriving DecidableEq, Repr

/-- One output element as the output tap presented it (R112). -/
structure OutEl where
  code : Nat
  delta : Nat
  spec : Bool
  deriving DecidableEq, Repr

/-- The findings of a failed op (R122, R148, R509). -/
inductive Finding where
  | descErr
  | tap
  | sealFail
  | poisoned
  | closure
  | egress
  | residue
  | spec
  | maxtap
  | index
  | ladle
  | refused
  deriving DecidableEq, Repr

/-- The verdict of R148, and the report without verdict of R504 and R124. -/
inductive Verdict where
  | pass
  | mortarOnly
  | failed
  | refused
  | abandoned
  | stale
  deriving DecidableEq, Repr

/-- What the Lid has answered an op: the acceptance of R138 with its tensor scales, or a refusal. -/
inductive Accept where
  | waiting
  | ok (tsA tsB tsOut : Int)
  | stale
  | descErr
  | refused
  deriving DecidableEq, Repr

/-- A seal failure as the Ladle reports it (R168). -/
structure SealFail where
  blk : Nat
  kind : Nat
  bcv : Nat
  fmt : Nat
  deriving DecidableEq, Repr

/-- An input block as the provenance stream takes it (R324): region, offset, raw CRC, FMT, POISON, and its SHA-384 in
sealed provenance, which is empty else. -/
structure InBlock where
  region : Nat
  off : Nat
  crc : Nat
  fmt : Nat
  poison : Bool
  sha : Bytes
  deriving DecidableEq, Repr

/-- One op of a Whisk test as the vectors give it (R359): the closure values that the Whisk forms over the injected operands
(R362), and the expectation. -/
structure WVec where
  desc : Nat := 0
  closA : Nat := 0
  closB : Nat := 0
  closC : Nat := 0
  crc : Nat := 0
  flags : Nat := 0
  deriving DecidableEq, Repr

/-- One op on a tile, from its descriptor until its last BCV (R101, R109, R136, R147). -/
structure LOp where
  /-- The model's own number of the op on its tile. -/
  id : Nat := 0
  tag : Nat := 0
  d : Desc := {}
  lay : Layout := {}
  /-- The recipe of its slot as the shadow held it at the descriptor (R104). -/
  rcp : Option Recipe := none
  spA : Option Sparse := none
  spB : Option Sparse := none
  /-- Elements seen on the operand tap, by coordinate, for A, B and the third operand. -/
  elA : List (Nat × Nat) := []
  elB : List (Nat × Nat) := []
  elC : List (Nat × Nat) := []
  /-- Index entries by line and position, for A and B. -/
  ixA : List (Nat × Nat) := []
  ixB : List (Nat × Nat) := []
  /-- Scale bytes by group, for A, B and the third operand. -/
  scA : List (Nat × Nat) := []
  scB : List (Nat × Nat) := []
  scC : List (Nat × Nat) := []
  outs : List (Nat × OutEl) := []
  scOut : List (Nat × Nat) := []
  /-- Ingress blocks seen, by region and block, and the closure value of each region at ingress. -/
  ing : List (Nat × Nat) := []
  inBlocks : List InBlock := []
  closA : Nat := 0
  closB : Nat := 0
  closC : Nat := 0
  /-- Egress blocks: their data as presented, and those already compared. -/
  egr : List (Nat × Bytes) := []
  egrDone : List Nat := []
  closed : Bool := false
  flags : Nat := 0
  cmx : Option Nat := none
  cmxLate : Bool := false
  accept : Accept := .waiting
  found : List Finding := []
  specEls : List (Nat × Nat) := []
  poison : List Nat := []
  seals : List SealFail := []
  resOff : Bool := false
  route : RouteSum := {}
  rteLast : Bool := false
  done : Bool := false
  poisonOut : Bool := false
  bcvLeft : List Nat := []
  whisk : Bool := false
  /-- The vector of an injected op (R362). -/
  vec : Option WVec := none
  /-- Per-op counts by the number of the Ladle counter (R148). -/
  counts : List (Nat × Nat) := []
  /-- The first row or column whose index stream is malformed, by its coordinate (R144). -/
  badIx : Option Nat := none
  deriving DecidableEq, Repr

/-- The self-check of a Ladle (R154): requested, running, or neither. -/
inductive KatState where
  | idle
  | requested
  | running
  deriving DecidableEq, Repr

/-- A Ladle's own state beside its registers. -/
structure Ladle where
  nextTag : Nat := 0
  nextId : Nat := 0
  ops : List LOp := []
  inReset : Bool := true
  kat : KatState := .idle
  /-- Result of the last self-check since the tile's reset. -/
  checked : Option Bool := none
  /-- Arbitrations whose self-check command has not been answered. -/
  askers : Nat := 0
  /-- The seal gate closed and ops failed by the Ladle's own error (R383). -/
  gateShut : Bool := false
  deriving DecidableEq, Repr

/-! ### The report path -/

/-- An op report (R148), as it waits for the Hub. -/
structure Report where
  tile : Nat := 0
  tag : Nat := 0
  d : Desc := {}
  verdict : Verdict := .pass
  found : List Finding := []
  loc : Location := .pass
  specEls : List (Nat × Nat) := []
  /-- The observed residue plus delta of each element that the location names (R204). -/
  obs : List Cell3 := []
  flags : Nat := 0
  cmx : Option Nat := none
  poison : List Nat := []
  seals : List SealFail := []
  compared : Bool := false
  resOff : Bool := false
  route : RouteSum := {}
  counts : List (Nat × Nat) := []
  outs : List (Nat × Nat) := []
  inBlocks : List InBlock := []
  /-- Raw CRC of each output block, by offset (R318). -/
  outCrc : List (Nat × Nat) := []
  deriving DecidableEq, Repr

/-! ### The Lid -/

/-- States of a context entry (R218). -/
inductive CtxState where
  | free
  | live
  | terminated
  deriving DecidableEq, Repr

/-- States of a step slot (R218). -/
inductive SlotState where
  | free
  | open_
  | ended
  | halted
  | abandoned
  deriving DecidableEq, Repr

/-- States of an op record (R224). -/
inductive OpState where
  | accepted
  | pending
  | clear
  | failed
  deriving DecidableEq, Repr

/-- An op record of the ledger (R223), with what the arithmetic, the arbitration and a replay of the op need. -/
structure OpRec where
  d : Desc := {}
  lay : Layout := {}
  spA : Option Sparse := none
  spB : Option Sparse := none
  tile : Nat := 0
  tag : Nat := 0
  st : OpState := .accepted
  verdict : Option Verdict := none
  /-- Reset by a replay: no longer accepted (R227 step 4). -/
  notAccepted : Bool := false
  origin : Option Nat := none
  compared : Bool := true
  /-- Its residue check was abandoned (R137). -/
  resOff : Bool := false
  flags : Nat := 0
  cmx : Option Nat := none
  arb : Bool := false
  arbReseal : Bool := false
  /-- A route op whose routing op has not closed with Pass (R224). -/
  routeHold : Bool := false
  samples : Nat := 0
  executed : List Nat := []
  sampleRan : Bool := false
  escaped : Bool := false
  order : Nat := 0
  /-- Its place in the ledger area (R223). -/
  place : Nat := 0
  tsA : Int := 0
  tsB : Int := 0
  tsOut : Int := 0
  counts : List (Nat × Nat) := []
  inBlocks : List InBlock := []
  outCrc : List (Nat × Nat) := []
  opd : Option Nat := none
  /-- Time of its acceptance, the time since then in which its tile was in reset or had its clock stopped, and whether its age has put the
  tile into a hang (R405). -/
  acceptedAt : Nat := 0
  downFor : Nat := 0
  aged : Bool := false
  /-- Elements of samples that were asked for before the verdict (R266). -/
  asked : List (List Nat) := []
  deriving DecidableEq, Repr

/-- A bucket of a step (R229): its L once ended, and whether it was released or nulled. -/
structure Bucket where
  named : Bool := false
  last : Option Nat := none
  released : Bool := false
  nulled : Bool := false
  deriving DecidableEq, Repr

/-- One entry of the defect model (R208). -/
structure Model where
  u : Nat := 0
  v : Nat := 0
  f : Nat := 0
  deriving DecidableEq, Repr

/-- The Sieve settings latched at Open step (R197, R208). -/
structure SieveLatch where
  seed : Nat := 0
  mo : Nat := 0
  res : Nat := 0
  r64 : Nat := 0
  elems : Nat := 0
  model : List Model := []
  deriving DecidableEq, Repr

/-- One step slot of a context (R218, R220). -/
structure Slot where
  st : SlotState := .free
  step : Nat := 0
  prev : SlotState := .free
  n : Nat := 0
  u : Nat := 2 ^ 24
  nulled : Bool := false
  replays : Nat := 0
  replaysUsed : Nat := 0
  sieve : SieveLatch := {}
  ops : List OpRec := []
  buckets : List (Nat × Bucket) := []
  pins : List Nat := []
  /-- The lowest replay origin since the HALT (R226), and the HALT_ACK's next OPSEQ. -/
  origin : Nat := 0
  ack : Option Nat := none
  escape : Nat := 0
  deficit : Nat := 0
  released : Nat := 0
  nulledCount : Nat := 0
  opened : Nat := 0
  samples : Nat := 0
  arbs : Nat := 0
  routes : Nat := 0
  counts : List (Nat × Nat) := []
  cause : Nat := 0
  granted : Nat := 0
  /-- Provenance and pair state of the step (11_determinism_and_provenance). -/
  provMode : Nat := 0
  prog : Bytes := []
  provDigest : Option (Bytes × Bytes) := none
  grpSent : List Nat := []
  grpOk : List Nat := []
  stepSent : Bool := false
  stepOk : Bool := false
  sentAt : List (Nat × Nat) := []
  deriving DecidableEq, Repr

/-- Step statistics latched into the context entry (R238, R272). -/
structure StepStats where
  valid : Bool := false
  step : Nat := 0
  abandoned : Bool := false
  cause : Nat := 0
  nulled : Bool := false
  samples : Nat := 0
  arbs : Nat := 0
  routes : Nat := 0
  replays : Nat := 0
  released : Nat := 0
  nulledCount : Nat := 0
  escape : Nat := 0
  deficit : Nat := 0
  opened : Nat := 0
  granted : Nat := 0
  counts : List (Nat × Nat) := []
  deriving DecidableEq, Repr

/-- A Scale Keeper entry (R236, R265). -/
structure SckEntry where
  bound : Bool := false
  fmt : Nat := 0
  margin : Nat := 0
  ctx : Nat := 0
  scales : List Int := [0, 0, 0, 0]
  hist : List Nat := []
  pending : List Nat := [0, 0, 0, 0]
  countInf : Nat := 0
  countClamp : Nat := 0
  deriving DecidableEq, Repr

/-! ### The Mortar -/

/-- What a Mortar job is (R193, R203, R266). -/
inductive JobKind where
  | arb
  | sample
  | selfTest
  deriving DecidableEq, Repr

/-- The source code of MTR_ARB_CAP_OP (R214). -/
inductive JobSrc where
  | located
  | unlocated
  | spec
  | cmx
  | sample
  deriving DecidableEq, Repr

/-- The decisions of R205 and R206. -/
inductive Decision where
  | mortar
  | both
  | engine
  | tap
  | checker
  | unresolved
  deriving DecidableEq, Repr

/-- A job of the Mortar's queue, its spill ring or a lane: an op's sample or arbitration, or a lane self-test. -/
structure Job where
  id : Nat := 0
  kind : JobKind := .sample
  ctx : Nat := 0
  gen : Nat := 0
  step : Nat := 0
  opseq : Nat := 0
  op : OpRec := {}
  /-- Elements to execute, by linear index in the output. -/
  els : List Nat := []
  /-- An arbitration that forms the converter max over every output element (R204). -/
  whole : Bool := false
  /-- The lane of a self-test. -/
  lane : Nat := 0
  /-- Time of the verdict report or the request. -/
  reported : Nat := 0
  /-- Runs made, the lane of the last, and the results of a first run that disagreed. -/
  runs : Nat := 0
  avoid : Option Nat := none
  first : Option (List (Nat × Nat × Nat)) := none
  /-- The op was reset by a replay or its step abandoned (R227). -/
  ignored : Bool := false
  /-- Counted in MTR_CNT_NOLANE (R192). -/
  noLane : Bool := false
  /-- The place in the spill ring of a spilled sample (R200). -/
  place : Nat := 0
  deriving DecidableEq, Repr

/-- An arbitration from its report to its decision (R203). -/
structure Arb where
  job : Job := {}
  rep : Report := {}
  src : JobSrc := .located
  /-- Time of the self-check command, its result, and whether 50 µs have passed. -/
  since : Nat := 0
  check : Option Bool := none
  checkOver : Bool := false
  /-- The decision once the job has ended, and the lane that ran it. -/
  ended : Option Decision := none
  lane : Nat := 0
  deriving DecidableEq, Repr

/-- A Mortar lane (R188, R191). -/
structure Lane where
  fenced : Bool := false
  fencePending : Bool := false
  job : Option Job := none
  tested : Bool := false
  deriving DecidableEq, Repr

/-- A recipe load in progress (R90). -/
structure RcpLoad where
  slot : Nat := 0
  blk : Nat := 0
  len : Nat := 0
  ticket : Nat := 0
  pinned : Option Bytes := none
  /-- The recipe once orders 2 to 6 have passed, with its image digest, and the vectors still to run. -/
  recipe : Option Recipe := none
  digest : Bytes := []
  /-- RECIPE_ID of the image as it was read for the checks (R93). -/
  id : Nat := 0
  vectors : List Nat := []
  katBad : Bool := false
  /-- The lane on which the next vector's last run disagreed in its halves (R88). -/
  avoid : Option Nat := none
  deriving DecidableEq, Repr

/-- States of a recipe slot (R90, R93). -/
inductive RcpState where
  | empty
  | loading
  | active
  | refused
  deriving DecidableEq, Repr

/-- One recipe slot (R90 to R97). -/
structure RcpSlot where
  st : RcpState := .empty
  recipe : Option Recipe := none
  id : Nat := 0
  digest : Bytes := []
  /-- Digest of the image that the slot last held ACTIVE (R94). -/
  good : Bytes := []
  len : Nat := 0
  deriving DecidableEq, Repr

/-! ### Seals and routes -/

/-- A report that a confirmation answers (R169, R170): who read the block, and what it read. -/
structure ConfRep where
  tile : Nat := 0
  ctx : Nat := 0
  gen : Nat := 0
  step : Nat := 0
  opseq : Nat := 0
  kind : Nat := 0
  bcv : Nat := 0
  /-- Whether the Lid acts on the class: false for the seal engine, the Mortar and program blocks. -/
  lid : Bool := true
  deriving DecidableEq, Repr

/-- A confirmation in progress: the block, its expectations (its own stored fields, or GEN and FMT) and every report that
shares it. -/
structure Confirm where
  blk : Nat := 0
  own : Bool := false
  gen : Nat := 0
  fmt : Nat := 0
  reps : List ConfRep := []
  deriving DecidableEq, Repr

/-- A seal engine command (R164, R167, R175, R268). -/
structure SealJob where
  op : Nat := 0
  src : Nat := 0
  dst : Nat := 0
  count : Nat := 0
  gen : Nat := 0
  fmt : Nat := 0
  ticket : Nat := 0
  ctx : Nat := 0
  deriving DecidableEq, Repr

/-- A member op of a routing op: its OPSEQ, whether it sent, its digest, and whether it failed its own verdict. -/
structure RMember where
  opseq : Nat := 0
  send : Bool := true
  sum : RouteSum := {}
  failed : Bool := false
  deriving DecidableEq, Repr

/-- One routing op in the route table (R179), from its first report until its step's slot is free. -/
structure RouteEnt where
  ctx : Nat := 0
  gen : Nat := 0
  step : Nat := 0
  route : Nat := 0
  dimN : Nat := 0
  shape : Bool := false
  members : List RMember := []
  /-- The place of its opening in the order of acceptances and openings. -/
  opened : Nat := 0
  closed : Bool := false
  passed : Bool := false
  /-- Failed as FULL: later reports are discarded. -/
  full : Bool := false
  deriving DecidableEq, Repr

/-! ### The sequencer (09_screening_instruction_set) -/

/-- States of a sequencer thread (R248), the WAIT of a WAITING thread among them. -/
inductive ThreadState where
  | idle
  | ready
  | issued
  | waiting
  | swapping
  deriving DecidableEq, Repr

/-- What a WAITING program awaits (R254). -/
inductive WaitFor where
  | nothing
  | ticket (t rd : Nat)
  | time (start us : Nat)
  | step (n : Nat)
  deriving DecidableEq, Repr

/-- A sequencer thread: its state and the program it holds. -/
structure Thread where
  st : ThreadState := .idle
  prog : Option Nat := none
  /-- The program whose record a swap saves (R251). -/
  out : Option Nat := none
  deriving DecidableEq, Repr

/-- A program in flight (R246, R251, R253): header fields, PC, ST, g1 to g15, open tickets and its WAIT. -/
structure Program where
  ctx : Nat := 0
  gen : Nat := 0
  length : Nat := 0
  param : Nat := 0
  image : Nat := 0
  pc : Nat := 0
  status : Nat := 0
  regs : List Nat := List.replicate 15 0
  tickets : List Nat := []
  wait : WaitFor := .nothing
  runnable : Bool := true
  /-- Code blocks verified for this run (R245). -/
  verified : List Nat := []
  /-- The ring and entry that submitted it, and its cookie. -/
  ring : Nat := 0
  index : Nat := 0
  cookie : Nat := 0
  /-- Steps committed or abandoned since the program started, with their outcome (R254, R255). -/
  steps : List (Nat × Bool) := []
  deriving DecidableEq, Repr

/-- A journal entry of R283 but for JSEQ, which is its place in the journal. -/
structure JEntry where
  jseq : Nat := 0
  time : Nat := 0
  type : Nat := 0
  status : Nat := 0
  opc : Nat := 0
  source : Nat := 0
  ctx : Nat := 0
  ticket : Nat := 0
  ref : Nat := 0
  cookie : Nat := 0
  a : Nat := 0
  b : Nat := 0
  c : Nat := 0
  imm : Nat := 0
  mod : Nat := 0
  deriving DecidableEq, Repr

/-- Who owns an asynchronous command's completion. -/
inductive Owner where
  | program (id : Nat)
  | ring (n index cookie : Nat)
  | kettle (core : Nat)
  deriving DecidableEq, Repr

/-- A ticket (R259), with the entry that its service journaled. -/
structure Ticket where
  owner : Owner := .kettle 0
  served : JEntry := {}
  done : Bool := false
  status : Nat := 0
  result : Nat := 0
  closed : Bool := false
  deriving DecidableEq, Repr

/-! ### Rings, journal and Kettle firmware (10_rings_journal_and_firmware) -/

/-- A submission entry of R276 as Kettle 0 reads it. -/
structure RingEntry where
  kind : Nat := 0
  flags : Nat := 0
  ctx : Nat := 0
  cookie : Nat := 0
  a0 : Nat := 0
  a1 : Nat := 0
  a2 : Nat := 0
  imm : Nat := 0
  mod : Nat := 0
  a4 : Nat := 0
  deriving DecidableEq, Repr

/-- A taken entry without a posted completion (R278, R291). -/
structure Taken where
  index : Nat := 0
  e : RingEntry := {}
  /-- Handed to its owner core and not yet returned (R282). -/
  handed : Option Nat := none
  /-- Served: a synchronous command waits for its completion, an asynchronous one holds its ticket (R291). -/
  served : Bool := false
  ticket : Option Nat := none
  /-- A composite command with a served record of its own, not yet complete. -/
  ran : Bool := false
  /-- Final status, result and JSEQ of an entry whose completion is not yet posted. -/
  final : Option (Nat × Nat × Nat) := none
  deriving DecidableEq, Repr

/-- A Lane service in progress (R281): its ring entry and its lanes. -/
structure LaneSvc where
  ring : Nat := 0
  index : Nat := 0
  lanes : List Nat := []
  deriving DecidableEq, Repr

/-- A ring pair (R275 to R280, R303). -/
structure Ring where
  en : Bool := false
  log2 : Nat := 4
  base : Nat := 0
  cbase : Nat := 0
  ctxHi : Nat := 0xFFFF
  ctxLo : Nat := 1
  head : Nat := 0
  tail : Nat := 0
  prod : Nat := 0
  cons : Nat := 0
  /-- Completion slots reserved for taken entries (R278). -/
  reserved : Nat := 0
  taken : List Taken := []
  deriving DecidableEq, Repr

/-- A Kettle core (R289 to R292, R476): whether it runs its firmware, restarts, is held, or is halted by the debugger, and
the times of its restarts. -/
structure Core where
  running : Bool := false
  restarting : Bool := false
  held : Bool := false
  halted : Bool := false
  restarts : List Nat := []
  /-- Since when its watchdog counts: its start or last reset. -/
  upAt : Nat := 0
  /-- When the debugger halted it, and the halts since `upAt` that have ended (R476). -/
  haltAt : Nat := 0
  halts : List (Nat × Nat) := []
  deriving DecidableEq, Repr

/-- A firmware slot of the flash (R295, R298): its image once the block has read or written it, and its last verification status. -/
structure FwSlot where
  image : Option Bytes := none
  status : Nat := 0
  deriving DecidableEq, Repr

/-- The reads of the flash that R293 uses, the slowest first. -/
inductive FlashMode where
  | r111
  | r112
  | r114
  | r144
  deriving DecidableEq, Repr

/-- What the SFDP table of the flash declares (R293): its signature, the density in bytes, 4-byte addressing, the reads with their dummy
cycles, and the erases as size and instruction; and whether its quad-enable requirement names a method that R475 supports. -/
structure Sfdp where
  signature : Nat := 0
  density : Nat := 0
  addr4 : Bool := false
  quadOk : Bool := false
  reads : List (FlashMode × Nat) := []
  erases : List (Nat × Nat) := []
  deriving DecidableEq, Repr

/-- What the ROM took from the SFDP table (R293): density, addressing, the read in use with its dummy cycles, and the smallest erase size
with its instruction. -/
structure FlashCfg where
  density : Nat := 0
  addr4 : Bool := false
  mode : FlashMode := .r111
  dummies : Nat := 0
  erase : Nat := 0
  eraseOp : Nat := 0
  deriving DecidableEq, Repr

/-- A staging in progress (R298, R304): its image, whether the directory is rewritten, and its ring entry. -/
structure Staging where
  blk : Nat := 0
  len : Nat := 0
  rewrite : Bool := false
  ring : Option (Nat × Nat) := none
  deriving DecidableEq, Repr

/-- An activation (R299 to R301): deferred, or running with the core being restarted. -/
inductive Activation where
  | idle
  | deferred (slot ticket : Nat)
  | running (slot ticket core : Nat)
  deriving DecidableEq, Repr

/-- The Kettle complex beside its ring and counter registers (R289 to R304). -/
structure Kettle where
  cores : List Core := [{}, {}, {}, {}]
  bootStage : Nat := 0
  slot : Nat := 0
  fwMajor : Nat := 0
  fwMinor : Nat := 0
  fwBuild : Nat := 0
  /-- PUBKEY of the image that runs, whose hash the fuses hold (R295). -/
  pub : Bytes := []
  /-- The flash as the Kettle knows it (R293, R294): its SFDP table, the two copies of the directory, ACTIVE and SLOT_SIZE of the copy in
  use, and the two slots; and whether its next read takes more than 10 ms (R295, R299). -/
  flash : FlashCfg := {}
  dirA : Bytes := []
  dirB : Bytes := []
  dirActive : Nat := 0
  slotSize : Nat := 4194304
  silent : Bool := false
  slotA : FwSlot := {}
  slotB : FwSlot := {}
  /-- The slot under verification at boot (R295). -/
  verifying : Nat := 0
  /-- Boot refusals with VERSION_MISMATCH that wait for HUB_JRNL_BASE (R297), by slot. -/
  refusals : List Nat := []
  act : Activation := .idle
  actSlot : Nat := 0
  actLast : Nat := 0
  /-- The writes of KTL_WDOG.PERIOD with their times, newest first (R289). -/
  wdog : List (Nat × Nat) := []
  staging : Option Staging := none
  stageLast : Nat := 0
  /-- Ring turn of R278: whether ring 0 is due, and the last of rings 1 to 15 served. -/
  zeroDue : Bool := true
  lastRing : Nat := 0
  deriving DecidableEq, Repr

/-! ### Pair mode (11_determinism_and_provenance) -/

/-- A partner's message held for comparison (R319). -/
inductive PairMsg where
  | ops (step base : Nat) (digests : List Nat)
  | stepEnd (step n : Nat) (nulled : Bool)
  deriving DecidableEq, Repr

/-- A pairing (R317). -/
structure Pairing where
  idx : Nat := 0
  ctx : Nat := 0
  partner : Nat := 0
  held : List PairMsg := []
  deriving DecidableEq, Repr

/-! ### Checkpoints, buddies and peers (12_checkpoints_and_peers) -/

/-- A message on the peer message port with its envelope (R329). -/
structure PeerMsg where
  dst : Nat := 0
  src : Nat := 0
  cls : Nat := 0
  crc : Nat := 0
  body : Bytes := []
  deriving DecidableEq, Repr

/-- Who asked for a checkpoint check: CKPTCHK, or a MIRROR_DONE of the named agent (R343, R349). -/
inductive CkptKind where
  | man
  | chk
  | restore
  | mirror (agent : Nat)
  deriving DecidableEq, Repr

/-- A command of the hash unit's manifest queue (R341, R343). -/
structure CkptJob where
  kind : CkptKind := .man
  ctx : Nat := 0
  step : Nat := 0
  blk : Nat := 0
  ticket : Option Nat := none
  /-- The shard extents held as read extents until the command ends (R341). -/
  extents : List (Nat × Nat) := []
  /-- The context's digests and its scale entries as they stood at the commit of the step (R338, R340). -/
  wman : Bytes := []
  prev : Bytes := []
  scales : List (Nat × SckEntry) := []
  deriving DecidableEq, Repr

/-- The mirror of a commit (R348, R350). -/
inductive Mirror where
  | none
  | copying (step : Nat) (again : Bool)
  | waiting (step : Nat) (again : Bool) (since : Nat)
  deriving DecidableEq, Repr

/-- A buddy binding (R347). -/
structure Buddy where
  agent : Nat := 0
  map : Nat := 0
  mirror : Mirror := .none
  deriving DecidableEq, Repr

/-- One entry of the context table (R218, R263): what binding sets, the step slots and what later chapters attach. -/
structure Ctx where
  st : CtxState := .free
  gen : Nat := 1
  seed : Nat := 0
  mb : Nat := 0
  collective : Nat := 0
  command : Nat := 0
  committed : Nat := 0
  anyStep : Bool := true
  slots : List Slot := [{}, {}, {}, {}]
  stats : StepStats := {}
  provMode : Nat := 0
  prev : Bytes := List.replicate 48 0
  wman : Bytes := List.replicate 48 0
  /-- The Scale Keeper entries bound to the context as they stood after the last commit, or as restored (R340). -/
  stood : List (Nat × SckEntry) := []
  buddy : Option Buddy := Option.none
  deriving DecidableEq, Repr

/-! ### Field tests, suspects, quarantine (13_field_testing) -/

/-- A test entry of the content (R359). -/
structure TestEnt where
  id : Nat := 0
  cls : Nat := 0
  ops : Nat := 0
  plan : Nat := 0
  cycles : Nat := 0
  energy : Nat := 0
  vecOff : Nat := 0
  vecLen : Nat := 0
  recipe : Bytes := []
  deriving DecidableEq, Repr

/-- Loaded test content (R358). -/
structure Content where
  version : Nat := 0
  tests : List TestEnt := []
  model : List Model := []
  deriving DecidableEq, Repr

/-- A TCLOAD in progress (R360). -/
structure TcLoad where
  blk : Nat := 0
  len : Nat := 0
  ticket : Nat := 0
  deriving DecidableEq, Repr

/-- The result of one op of a Whisk run (R366): a breach of the tap contract, a verdict that passed, and whether the output and flags
matched the expectation, where the run has one. -/
structure WhiskRes where
  tap : Bool := false
  pass : Bool := false
  same : Option Bool := none
  deriving DecidableEq, Repr

/-- A Whisk run, queued or in progress (R363 to R366). -/
structure WhiskRun where
  /-- Its place in the order of acceptances. -/
  id : Nat := 0
  tile : Nat := 0
  test : Nat := 0
  ticket : Option Nat := none
  accepted : Nat := 0
  /-- A tap self-test of TAPTEST, and a run of the start-up test (R489). -/
  tap : Bool := false
  startup : Bool := false
  /-- The vectors of its ops, fetched as the run starts. -/
  vecs : List WVec := []
  /-- A fetch of its vectors failed, and the final status this gives. -/
  failed : Option Nat := none
  /-- The results of its ops so far. -/
  res : List WhiskRes := []
  deriving DecidableEq, Repr

/-- States of a suspect entry (R371, R372). -/
inductive SuspState where
  | free
  | clear
  | watch
  | quarReq
  | quarantined
  deriving DecidableEq, Repr

/-- An entry of the suspect table (R367 to R372). -/
structure Susp where
  unit : Nat := 0
  kind : Nat := 0
  st : SuspState := .free
  sig : Nat := 0
  score : Nat := 0
  count : Nat := 0
  passes : Nat := 0
  first : Nat := 0
  last : Nat := 0
  deriving DecidableEq, Repr

/-- States of a physical tile in the tile map (R376). -/
inductive TileState where
  | mapped
  | spare
  | pending
  | quarantined
  | fuseBad
  | testBad
  | absent
  deriving DecidableEq, Repr

/-- An entry of the defect list (R492). -/
structure Defect where
  origin : Nat := 0
  cause : Nat := 0
  fails : Nat := 0
  deriving DecidableEq, Repr

/-! ### Fault collection (14_fault_collection) -/

/-- The decoded state of a dual-rail pair (R379). -/
inductive PairState where
  | ok
  | error
  | wire
  deriving DecidableEq, Repr

/-- A station pair that differs from its reset rest: its filtered state, its decoding and its arming (R381). -/
structure StnPair where
  /-- The state its filter has last passed; none until the first pass after block reset. -/
  filt : Option PairState := none
  /-- The state as decoded; OK while not decoded. -/
  lvl : PairState := .ok
  armed : Bool := true
  armedAt : Nat := 0
  decoded : Bool := false
  deriving DecidableEq, Repr

/-- A first-error capture that awaits its capture channel beat, and the hub cycle of its transition (R388). -/
structure CapWait where
  station : Nat := 0
  pair : Nat := 0
  ce : Bool := false
  cycle : Nat := 0
  deriving DecidableEq, Repr

/-- A capture channel beat with its hub cycle; a transition that follows within 8 cycles takes it as its detail (R388). -/
structure CapBeat where
  station : Nat := 0
  pair : Nat := 0
  addr : Nat := 0
  master : Nat := 0
  access : Nat := 0
  cycle : Nat := 0
  deriving DecidableEq, Repr

/-! ### Hangs, resets, teardown and dumps (15_hangs_resets_and_recovery) -/

/-- A watched unit (R401 to R405): windows without progress, whether it counts as hung, by kind, and the first and last samples since the
window began at which it was excluded (R403; no sample falls at 0). -/
structure Watched where
  idleWindows : Nat := 0
  hung : Bool := false
  verdictHung : Bool := false
  exFirst : Nat := 0
  exLast : Nat := 0
  deriving DecidableEq, Repr

/-- The licensee's assignment of a watched unit (HUB_WATCH_DOM, R422). -/
structure WatchDom where
  valid : Bool := false
  level : Nat := 0
  clk : Nat := 0
  id : Nat := 0
  written : Bool := false
  deriving DecidableEq, Repr

/-- The phases of a reset (R407). -/
inductive RstPhase where
  | idle
  | quiesce
  | drain
  | reset
  | ready
  | held
  deriving DecidableEq, Repr

/-- One reset slot (R407 to R412). -/
structure Rst where
  active : Bool := false
  phase : RstPhase := .idle
  level : Nat := 0
  id : Nat := 0
  /-- Physical tiles of the domain and slots raised on the reset control port (R465). -/
  tiles : List Nat := []
  raised : List Nat := []
  tickets : List Nat := []
  last : Nat := 0
  since : Nat := 0
  /-- Steps that received a detected error at QUIESCE: context and step (R409). -/
  steps : List (Nat × Nat) := []
  /-- A quiesce of the safe state without a RESET phase (R412). -/
  safe : Bool := false
  /-- A reset of R415 order 6, without QUIESCE effects on other contexts. -/
  quiet : Bool := false
  /-- In READY: every ready level is high, and the time in which a clock of the domain was stopped (R407, R408). -/
  high : Bool := false
  stopped : Nat := 0
  deriving DecidableEq, Repr

/-- An open absorb window (R407, R409): its reset slot, the slots raised, and what waits for its close. -/
structure Window where
  slot : Nat := 0
  since : Nat := 0
  raised : List Nat := []
  steps : List (Nat × Nat) := []
  scrub : List Nat := []
  deriving DecidableEq, Repr

/-- The orders of a teardown that still wait (R415). -/
inductive TdPhase where
  | drain
  | tileReset
  | scrub
  deriving DecidableEq, Repr

/-- One teardown slot (R415). -/
structure Teardown where
  slot : Nat := 0
  ctx : Nat := 0
  gen : Nat := 0
  count : Nat := 0
  ticket : Nat := 0
  scrub : List (Nat × Nat) := []
  phase : TdPhase := .drain
  since : Nat := 0
  failed : Bool := false
  deriving DecidableEq, Repr

/-- One record of a dump image (R419). -/
structure DumpRec where
  addr : Nat := 0
  value : Nat := 0
  unit : Nat := 0
  status : Nat := 0
  deriving DecidableEq, Repr

/-- A read that a dump still has to make (R416): its address word, its unit, and the Ladle or state address. -/
structure DumpRead where
  addr : Nat := 0
  unit : Nat := 0
  tile : Nat := 0
  state : Bool := false
  deriving DecidableEq, Repr

/-- A dump in progress (R416 to R420). -/
structure Dump where
  scope : Nat := 0
  dst : Nat := 0
  ticket : Nat := 0
  start : Nat := 0
  reads : List DumpRead := []
  recs : List DumpRec := []
  truncated : Bool := false
  /-- The time at which the present read went out. -/
  since : Nat := 0
  copying : Bool := false
  deriving DecidableEq, Repr

/-! ### Trivet (16_thermal_and_power) -/

/-- A zone of a curve (R439): 0 logic or 1 memory stack, and the mask of the domains it governs. -/
structure ZoneDef where
  mem : Bool := false
  mask : Nat := 0
  deriving DecidableEq, Repr

/-- A throttle level of a curve (R439). -/
structure LevelDef where
  div : Nat := 1
  skip : Nat := 0
  deriving DecidableEq, Repr

/-- A rail of a curve's rail table (R439). -/
structure RailDef where
  addr : Nat := 0
  page : Nat := 0
  counted : Bool := false
  avs : Bool := false
  avsRail : Nat := 0
  vmin : Nat := 0
  vmax : Nat := 0
  deriving DecidableEq, Repr

/-- A curve (R439). -/
structure Curve where
  id : Nat := 0
  builtin : Bool := true
  zones : List ZoneDef := [{ mem := false, mask := 2 ^ 32 - 1 }]
  /-- Zone of each sensor; 0xFF none. Empty for the built-in curve: every sensor is in zone 0. -/
  sensorZone : List Nat := []
  stepUs : Nat := 200
  fastBus : Bool := false
  levels : List LevelDef := (List.range 16).map (fun k => { div := 1, skip := 2 ^ k - 1 })
  rails : List RailDef := []
  deriving DecidableEq, Repr

/-- The states of a zone (R428, R430, R444). -/
inductive ZoneState where
  | normal
  | warn
  | throttle
  | shutdown
  | rise
  deriving DecidableEq, Repr

/-- A zone's own state (R426, R428, R430, R432). -/
structure Zone where
  st : ZoneState := .normal
  level : Nat := 0
  fast : Bool := false
  /-- The last time the fast-sampling condition held. -/
  fastHeld : Nat := 0
  temp : Int := 0
  stepped : Nat := 0
  deriving DecidableEq, Repr

/-- Thresholds of a zone (R428 to R430): set by TRVSET, else the defaults. -/
structure ZoneThr where
  warn : Nat := 95
  throttle : Nat := 105
  shutdown : Nat := 115
  hyst : Nat := 3
  rise : Nat := 48
  set : Bool := false
  deriving DecidableEq, Repr

/-- A sensor (R425, R427, R430): its latest valid sample, the retained samples, its invalid run. -/
structure Sensor where
  valid : Bool := false
  temp : Int := 0
  /-- Retained samples, newest first: time and value. -/
  hist : List (Nat × Int) := []
  /-- Its rise as a fraction of 1/32 °C/ms: numerator and denominator. -/
  rise : Int := 0
  riseDen : Nat := 1
  invalid : Nat := 0
  failed : Bool := false
  deriving DecidableEq, Repr

/-- A PMBus or AVSBus rail's measurement (R434, R435). -/
structure Rail where
  mw : Nat := 0
  fails : Nat := 0
  deriving DecidableEq, Repr

/-- A Trivet policy change held in Fixed mode (R314). -/
inductive HeldChange where
  | thr (zone val : Nat)
  | floor (dom val : Nat)
  | avs (val : Nat)
  | select
  | atb (val : Nat)
  deriving DecidableEq, Repr

/-- Trivet beside its registers. -/
structure Trivet where
  curve : Curve := {}
  bank : Nat := 0
  loaded : Option Curve := none
  lastLoad : Nat := 0
  sensors : List (Nat × Sensor) := []
  zones : List (Nat × Zone) := []
  thr : List (Nat × ZoneThr) := []
  /-- Settings of TRVSET that wait for the next sample of their zone, and the power limit that waits for the next poll (R429). -/
  thrNext : List (Nat × ZoneThr) := []
  limitNext : Option Nat := none
  floors : List (Nat × Nat) := []
  powerLevel : Nat := 0
  power : Nat := 0
  limit : Option Nat := none
  rails : List (Nat × Rail) := []
  parts : List (Nat × Nat) := []
  caps : List (Nat × Nat) := []
  budget : List Nat := List.replicate 16 0
  avs : List (Nat × Nat) := []
  avsRail : Nat := 0
  tripped : Bool := false
  held : Option HeldChange := none
  /-- A commit has been granted since the change was held (R314). -/
  heldDue : Bool := false
  /-- The last time any zone was at or above THROTTLE (R300). -/
  hotAt : Option Nat := none
  deriving DecidableEq, Repr

/-! ### Ports and pins (17_block_ports) -/

/-- The sources that reach the register map, each with its own selectors and shadows (R500). -/
inductive Src where
  | port
  | tap
  | core (k : Nat)
  | thread (t : Nat)
  deriving DecidableEq, Repr

/-- The number under which a source's bank is held. -/
def Src.num : Src → Nat
  | .port => 0
  | .tap => 1
  | .core k => 2 + k % 4
  | .thread t => 6 + t % 32

/-- Operations of a memory port (R453). -/
inductive MemOp where
  | read
  | writeZ
  | writeS
  | sbRead
  | sbCwrite
  deriving DecidableEq, Repr

/-- The access of the block that a memory request serves (R503 and the rules it names). -/
inductive Access where
  | recipe (slot : Nat)
  | program (id : Nat)
  | sealEngine
  | ringEntry (n index : Nat)
  | completion (n : Nat)
  | journal (jseq : Nat)
  | swapOut (thread prog : Nat)
  | swapIn (thread prog : Nat)
  | scrub (slot : Nat)
  | absorb
  | confirm (blk : Nat)
  | poison (blk : Nat)
  | reseal (blk : Nat)
  | patrol (blk : Nat)
  | mortar (lane : Nat)
  | spill
  | ledger
  | query (thread prog : Nat)
  | record
  | ckpt
  | manifest
  | mirror (ctx : Nat)
  | dump
  | content
  | bank (tile : Nat)
  | curve
  | bring
  | firmware
  | provenance
  | pair
  | peerRx
  deriving DecidableEq, Repr

/-- Statuses of a memory response (R454). -/
inductive MemStatus where
  | ok
  | nomatch
  | ue
  | decode
  deriving DecidableEq, Repr

/-- A request outstanding on a memory port (R452, R457). -/
structure MemReq where
  id : Nat := 0
  op : MemOp := .read
  blk : Nat := 0
  line : Nat := 0
  len : Nat := 64
  acc : Access := .record
  since : Nat := 0
  /-- The context and generation on whose behalf it is made, for the completion filter (R413); 0 for the block's own. -/
  ctx : Nat := 0
  gen : Nat := 0
  deriving DecidableEq, Repr

/-- An identifier held after a timeout (R457). -/
structure HeldId where
  id : Nat := 0
  since : Nat := 0
  deriving DecidableEq, Repr

/-- A memory port (R452 to R457). -/
structure Port where
  reqs : List MemReq := []
  /-- Requests that wait for a free identifier, oldest first; theirs stands at 0 until then. -/
  waits : List MemReq := []
  held : List HeldId := []
  deriving DecidableEq, Repr

/-- A Ladle's ring stop on its Airas ring (R15, R16): the resends asked for of the present frame, and whether the station has marked it
unreachable. -/
structure AirasStop where
  resends : Nat := 0
  unreachable : Bool := false
  deriving DecidableEq, Repr

/-- The stop that a ring has for its station (R15): the tile whose frame it has asked for again, and how often (R16). -/
structure StnStop where
  tile : Nat := 0
  resends : Nat := 0
  deriving DecidableEq, Repr

/-- What the block has driven on its outputs, oldest first: the model's own trace of beats. -/
inductive Out where
  | regRsp (src : Src) (addr data err : Nat)
  | bcv (tile blk val : Nat)
  | cfl (lane tag : Nat) (pass : Bool)
  | peer (m : PeerMsg)
  | credit (cls : Nat)
  | airas (stop seq : Nat) (reachable : Bool)
  | airasResend (stop seq : Nat) (atStation : Bool)
  | whiskDesc (tile desc : Nat)
  | srd (addr unit : Nat)
  | pmb (addr page cmd : Nat)
  | avs (rail mv : Nat)
  | tdo (data : Nat) (err : Bool)
  | notice (core : Nat)
  deriving DecidableEq, Repr

/-- The fuse reader (R474). -/
structure Fuse where
  words : List Nat := []
  since : Nat := 0
  done : Bool := false
  failed : Bool := false
  deriving DecidableEq, Repr

/-- The analogue test bus: what each line is connected to (R477). -/
structure Atb where
  line0 : Option Nat := none
  line1 : Option Nat := none
  deriving DecidableEq, Repr

/-- The peer message port (R467, R468): transmit queues and credits by class, class 3 messages not yet written. -/
structure Peer where
  queues : List (List PeerMsg) := [[], [], [], []]
  credits : List Nat := [0, 0, 0, 0]
  rxWait : List PeerMsg := []
  prod : Nat := 0
  deriving DecidableEq, Repr

/-! ### Staged bring-up (18_bringup) -/

/-- The first sample of a link (R488): UP, ERR and DATA; none for a read that failed. -/
structure LinkMeas where
  up : Option Nat := none
  err : Option Nat := none
  data : Option Nat := none
  deriving DecidableEq, Repr

/-- A tile's start-up test (R489). -/
structure TileTest where
  released : Bool := false
  failed : Option Nat := none
  passed : List Nat := []
  deriving DecidableEq, Repr

/-- A read of the state-read channel (R466): its state address, its unit, and for which link and which of its reads. -/
structure StateRead where
  addr : Nat := 0
  unit : Nat := 0
  link : Option (Nat × Nat) := none
  since : Nat := 0
  deriving DecidableEq, Repr

/-- Bring-up beside its registers (R483 to R495). -/
structure Bring where
  stage : Nat := 1
  failed : Bool := false
  listLost : Bool := false
  result : Nat := 0
  /-- Log entries, oldest first, 32 bytes each. -/
  log : List Bytes := []
  /-- Whether the reset check has passed, once it has ended (R394). -/
  resetCheck : Option Bool := none
  k : Nat := 0
  testLimit : Nat := 0
  linkMs : Nat := 0
  limits : List Nat := []
  links : List LinkMeas := []
  reads : List StateRead := []
  flags : Nat := 0
  started : Nat := 0
  released : Bool := false
  tiles : List (Nat × TileTest) := []
  /-- The defect list: its SEQ, BOOTS, entries, and the entries as last written. -/
  seq : Nat := 0
  boots : Nat := 0
  defects : List (Nat × Defect) := []
  written : List (Nat × Defect) := []
  rewrite : Bool := false
  /-- Host software has written the Sieve seed. -/
  seedWritten : Bool := false
  signingKey : Bool := false
  /-- The key of the keyed hash of the banked tables (R29), never readable. -/
  tableKey : Nat := 0
  deriving DecidableEq, Repr

/-! ### The sequencer's commands -/

/-- Who issues a SIS command or query: a sequencer thread with its register numbers, a Kettle core on its own behalf
(context 0 rights) with the values of a to c, or Kettle 0 for a taken ring entry (R256, R281). -/
inductive Issuer where
  | thread (t rd ra rb rc : Nat)
  | kettle (core ctx a b c : Nat)
  | ring (n index : Nat)
  deriving DecidableEq, Repr

/-- A SIS instruction as issued: its issuer, MOD and IMM (R252). -/
structure Issue where
  by_ : Issuer
  mod : Nat
  imm : Nat
  deriving DecidableEq, Repr

/-- LDL_TAP_ID of a tile as integrated (R126): the tap cells, whether the route and converter max taps are present, and the code of L. -/
structure TapId where
  rndCells : Nat := 64
  rngCells : Nat := 64
  route : Bool := true
  cmx : Bool := true
  lanes : Nat := 0
  deriving DecidableEq, Repr

/-- LDL_TAP_ID; its bits [7:4] read zero (R126). -/
def TapId.word (t : TapId) : Nat :=
  t.rndCells % 2 ^ 16 * 2 ^ 16 + t.rngCells % 2 ^ 8 * 2 ^ 8 + b2n t.route * 2 ^ 3 + b2n t.cmx * 2 ^ 2 + t.lanes % 4

/-- The integration of an instance: what HUB_CONFIG, HUB_PORT_CFG, LDL_TAP_ID and LDL_TAP_PLAN report, and the straps
(R4, R126, R127, R473, R480). Nothing changes it. -/
structure Cfg where
  ladles : Nat := 128
  /-- Frequency of zv_hub_clk in MHz. -/
  hubMhz : Nat := 1500
  stations : Nat := 16
  sensors : Nat := 256
  clkDomains : Nat := 32
  cflLanes : Nat := 8
  tapId : List (Nat × TapId) := []
  tapPlan : List (Nat × Nat) := []
  hardLogic : Nat := 125
  hardMem : Nat := 95
  riseMax : Nat := 96
  powerMax : Nat := 100
  memFirst : Nat := 192
  jedec : Nat := 0
  deriving DecidableEq, Repr

end Sys2Proof.Machine
end

