-- ==== Sys2Proof/Syntax.lean ====
section
/-! DEFINITION. The commands of the block, one constructor per row of the table of operations and events, in its
order. The operands are what reaches the block from outside with the event; a physical event carries what was
observed. -/

namespace Sys2Proof
open Sys2Proof.Machine

/-- The commands. -/
inductive Instr where
  /-- POWER_ON_RESET, R448: `zv_por_n` low. -/
  | powerOnReset
  /-- BLOCK_RESET, R448: `zv_rst_n` low, then its release. -/
  | blockReset
  /-- RESET_CHECK_DONE, R394: the reset check ends; the copy pair that disagreed (UNIT, WORD), and whether the pin read back right. -/
  | resetCheckDone (badUnit : Option (Nat × Nat)) (pinOk : Bool)
  /-- FUSE_WORD_ACK, R474: the requested fuse word is acknowledged. -/
  | fuseWordAck (data : Nat)
  /-- FUSE_READ_TIMEOUT, R474: 10 ms without an acknowledge. -/
  | fuseReadTimeout
  /-- BRING_ROM_STAGE_DONE, R483: stage 0x1 ends; what the ROM found, the SFDP table (R293; none where the flash gives no answer within
  10 ms), and the two copies of the defect list. -/
  | bringRomStageDone (romOk memOk : Bool) (sfdp : Option Sfdp) (listA listB : Bytes)
  /-- FIRMWARE_IMAGE_VERIFIED, R295: the two copies of the flash directory as the ROM reads them before the first slot (R294), and the
  image as read from the slot under verification. -/
  | firmwareImageVerified (dirA dirB image : Bytes)
  /-- FLASH_READ_TIMEOUT, R295: a flash read takes 10 ms: of the directory or of the slot under verification at boot, else that of the
  next FWACT (R299). -/
  | flashReadTimeout
  /-- BRING_BLOCK_STAGE_DONE, R483: stage 0x3 ends; lanes that passed their vectors, the table tests, corrected words. -/
  | bringBlockStageDone (laneOk : Nat) (tablesOk : Bool) (corrected : Nat)
  /-- GO, R496: a write of HUB_BRING_CTRL.GO. -/
  | go (src : Src)
  /-- BRING_LINK_MEASURE_END, R488: LINK_MS has passed; the second ERR and DATA reads of each link. -/
  | bringLinkMeasureEnd (second : List (Option Nat × Option Nat))
  /-- BRING_TILE_RELEASE, R489: stage 0x6 lowers the resets. -/
  | bringTileRelease
  /-- BRING_TILE_READY_TIMEOUT, R489: a tile is not ready within 38 ms. -/
  | bringTileReadyTimeout (tile : Nat)
  /-- BRING_TEST_DONE, R490: the start-up tests end or reach TEST_LIMIT. -/
  | bringTestDone
  /-- BRING_MAP_DONE, R493: stage 0x7 ends; whether the flash took the defect list. -/
  | bringMapDone (flashOk : Bool)
  /-- DEFECT_LIST_REWRITE, R492: a rewrite of the defect list completes or fails. -/
  | defectListRewrite (flashOk : Bool)
  /-- HUB_DEFECT_CTRL_ADD, R492: a write of ADD. -/
  | hubDefectCtrlAdd (src : Src)
  /-- HUB_DEFECT_CTRL_CLEAR, R492: a write of CLEAR without ADD. -/
  | hubDefectCtrlClear (src : Src)
  /-- HUB_PART_MAP_WRITE, R494: a register-port write of HUB_PART_MAP_LO or HI. -/
  | hubPartMapWrite (src : Src) (hi : Bool) (val : Nat)
  /-- AIRAS_FRAME, R16, R17: a frame with its payload, sequence number and CRC arrives at a ring stop: that of a physical tile's Ladle, or
  the station's own with a frame of that Ladle's stop. -/
  | airasFrame (tile : Nat) (atStation : Bool) (payload seq crc : Nat)
  /-- DESCRIPTOR_BEAT, R104: the engine presents a descriptor of 512 bits; the sparse operands with their stored values and index entries. -/
  | descriptorBeat (tile tag data : Nat) (spA spB : Option Sparse)
  /-- SEAL_INGRESS_BLOCK, R167: an ingress block with its BCV; the tag of an op whose block it interrupted. -/
  | sealIngressBlock (tile tag region blk : Nat) (data : Bytes) (bcv : Nat) (cut : Option Nat)
  /-- EGRESS_BLOCK_COMPARE, R108: an egress block. -/
  | egressBlockCompare (tile tag blk : Nat) (data : Bytes) (cut : Option Nat)
  /-- OPERAND_BEAT, R110: the code of zv_opd_kind, the coordinate of the first element, and the run of consecutive elements. -/
  | operandBeat (tile tag kind row col : Nat) (run : List Nat)
  /-- OUTPUT_BEAT, R112: the coordinate of lane 0 and the valid lanes; `scale` where the lanes hold scale bytes. -/
  | outputBeat (tile tag : Nat) (scale : Bool) (row col : Nat) (lanes : List (Option OutEl))
  /-- OUTPUT_LAST_BEAT, R147: the last output beat with the op's flag word. -/
  | outputLastBeat (tile tag row col : Nat) (lanes : List (Option OutEl)) (flags : Nat)
  /-- CONVERTER_MAX_BEAT, R64: the converter max beat. -/
  | converterMaxBeat (tile tag m : Nat)
  /-- CONVERTER_MAX_DEADLINE, R122: 16 tile cycles without it. -/
  | converterMaxDeadline (tile tag : Nat)
  /-- ROUTE_BEAT, R177: token, expert and destination of each lane. -/
  | routeBeat (tile tag : Nat) (triples : List (Nat × Nat × Nat)) (last : Bool)
  /-- LID_ACCEPTANCE, R138, R504: the Lid's answer for an op reaches the Ladle. -/
  | lidAcceptance (tile tag : Nat)
  /-- LADLE_VERDICT, R148: the verdict of an op; later than the bound of R152 or not. -/
  | ladleVerdict (tile tag : Nat) (late : Bool)
  /-- BCV_HANDSHAKE, R109: a BCV is transferred. -/
  | bcvHandshake (tile blk : Nat)
  /-- TILE_RESET_ENTRY, R124: a tile enters reset. -/
  | tileResetEntry (tile : Nat)
  /-- LADLE_SELF_CHECK_START, R154: the first tile cycle with no op open. -/
  | ladleSelfCheckStart (tile : Nat)
  /-- LADLE_SELF_CHECK_DONE, R154: the 64 built-in vectors have run. -/
  | ladleSelfCheckDone (tile : Nat) (pass : Bool)
  /-- LADLE_REPORT, R203: the Hub takes the oldest report. -/
  | ladleReport
  /-- OP_ACCEPT, R225: the Lid takes the oldest descriptor. -/
  | opAccept
  /-- SEAL_CONFIRMATION, R169: the re-read of a failed block completes. -/
  | sealConfirmation (blk : Nat) (data : Bytes) (bcv : Nat) (reached : Bool)
  /-- PATROL_READ, R176: the patrol reads the next block group. -/
  | patrolRead
  /-- ROUTE_REPORT, R179: the oldest route op report enters the route table. -/
  | routeReport
  /-- MORTAR_JOB_START, R198: a lane takes the next job. -/
  | mortarJobStart (lane : Nat)
  /-- MORTAR_JOB_END, R202: a job ends; whether the halves of the lane agreed. -/
  | mortarJobEnd (lane : Nat) (halvesAgree : Bool)
  /-- SAMPLE_AGE_DROP, R199: a sample that cannot start in time. -/
  | sampleAgeDrop (ctx step opseq : Nat)
  /-- SPILL_RETURN, R200: spilled samples return. -/
  | spillReturn
  /-- ARBITRATION_DECISION, R206: the arbitration of an op is decided. -/
  | arbitrationDecision (ctx step opseq : Nat)
  /-- ARB_SELF_CHECK_TIMEOUT, R203: 50 µs without a self-check result. -/
  | arbSelfCheckTimeout (ctx step opseq : Nat)
  /-- KAT_VECTOR_RUN, R88: the next vector of a loading recipe, and whether the lane's halves agreed. -/
  | katVectorRun (slot : Nat) (halvesAgree : Bool)
  /-- LANE_SELF_TEST_DONE, R191: a lane self-test ends. -/
  | laneSelfTestDone (lane : Nat) (pass : Bool)
  /-- SIEVE_BOUND_RECOMPUTE, R210. -/
  | sieveBoundRecompute
  /-- HALT_ACK, R227: a gate message of the command path, which carries the next OPSEQ. -/
  | haltAck (m : PeerMsg)
  /-- REPLAY, R227: drain and absorb window are complete. -/
  | replay (ctx slot : Nat)
  /-- BUCKET_RELEASE, R229. -/
  | bucketRelease (ctx slot bucket : Nat)
  /-- COMMIT_GRANT, R234. -/
  | commitGrant (ctx slot : Nat)
  /-- STEP_SLOT_FREE, R220. -/
  | stepSlotFree (ctx slot : Nat)
  /-- PROVENANCE_DIGEST_DONE, R325. -/
  | provenanceDigestDone (ctx slot : Nat)
  /-- TRV_HELD_APPLY, R314. -/
  | trvHeldApply
  /-- PROGRAM_DISPATCH, R250. -/
  | programDispatch (t : Nat)
  /-- SWAP_COMPLETE, R251. -/
  | swapComplete (t : Nat)
  /-- WAIT_CONDITION_MET, R254. -/
  | waitConditionMet (prog : Nat)
  /-- NOP, R254. -/
  | nop (i : Issue)
  /-- END, R254. -/
  | end_ (i : Issue)
  /-- LDI, R254. -/
  | ldi (i : Issue)
  /-- ALU, R254. -/
  | alu (i : Issue)
  /-- BR, R254. -/
  | br (i : Issue)
  /-- LD, R254. -/
  | ld (i : Issue)
  /-- WAIT, R254. -/
  | wait (i : Issue)
  /-- ST, R254. -/
  | st (i : Issue)
  /-- YIELD, R254. -/
  | yield_ (i : Issue)
  /-- CTXBIND, R263. -/
  | ctxbind (i : Issue)
  /-- CTXKILL, R264. -/
  | ctxkill (i : Issue)
  /-- CTXDOWN, R415. -/
  | ctxdown (i : Issue)
  /-- TEARDOWN_DRAIN_END, R415. -/
  | teardownDrainEnd (slot : Nat)
  /-- TEARDOWN_SCRUB_DONE, R415. -/
  | teardownScrubDone (slot : Nat)
  /-- RCPLOAD, R90. -/
  | rcpload (i : Issue)
  /-- RECIPE_LOAD_DONE, R90. -/
  | recipeLoadDone (slot : Nat)
  /-- RCPDROP, R94. -/
  | rcpdrop (i : Issue)
  /-- STEPOPEN, R220. -/
  | stepopen (i : Issue)
  /-- STEPEND, R220. -/
  | stepend (i : Issue)
  /-- BKTEND, R220. -/
  | bktend (i : Issue)
  /-- STEPABORT, R220. -/
  | stepabort (i : Issue)
  /-- SCKSET, R265. -/
  | sckset (i : Issue)
  /-- SCKREAD, R271. -/
  | sckread (i : Issue)
  /-- SCKFREE, R265. -/
  | sckfree (i : Issue)
  /-- LIDSTAT, R272. -/
  | lidstat (i : Issue)
  /-- SEALRGN, R164. -/
  | sealrgn (i : Issue)
  /-- SEALCPY, R175. -/
  | sealcpy (i : Issue)
  /-- SEALCHK, R167. -/
  | sealchk (i : Issue)
  /-- SEAL_ENGINE_DONE, R268: the running seal engine command finishes its range. -/
  | sealEngineDone
  /-- LDLCNT, R271. -/
  | ldlcnt (i : Issue)
  /-- TAPTEST, R269. -/
  | taptest (i : Issue)
  /-- SIEVECFG, R262. -/
  | sievecfg (i : Issue)
  /-- MTRSAMP, R266. -/
  | mtrsamp (i : Issue)
  /-- ARBSTAT, R271. -/
  | arbstat (i : Issue)
  /-- RDREG, R267. -/
  | rdreg (i : Issue)
  /-- WRREG, R267. -/
  | wrreg (i : Issue)
  /-- MODESET, R311. -/
  | modeset (i : Issue)
  /-- PROVCFG, R323. -/
  | provcfg (i : Issue)
  /-- PAIRCFG, R317. -/
  | paircfg (i : Issue)
  /-- CKPTMAN, R341. -/
  | ckptman (i : Issue)
  /-- CKPTMAN_DONE, R341. -/
  | ckptmanDone
  /-- CKPTCHK, R343. -/
  | ckptchk (i : Issue)
  /-- CKPTCHK_DONE, R343. -/
  | ckptchkDone
  /-- BUDDYCFG, R347. -/
  | buddycfg (i : Issue)
  /-- PEERSEND, R333. -/
  | peersend (i : Issue)
  /-- WHISKRUN, R365. -/
  | whiskrun (i : Issue)
  /-- TCLOAD, R360. -/
  | tcload (i : Issue)
  /-- TCLOAD_DONE, R360. -/
  | tcloadDone
  /-- TC_BANK_SWITCH, R361. -/
  | tcBankSwitch
  /-- SUSPREAD, R372. -/
  | suspread (i : Issue)
  /-- QUARANT, R373. -/
  | quarant (i : Issue)
  /-- TILEMAP, R376. -/
  | tilemap (i : Issue)
  /-- RESET, R411. -/
  | reset (i : Issue)
  /-- DUMP, R416. -/
  | dump (i : Issue)
  /-- DUMP_READ_RESULT, R417: the value of the present read, or none after 2 µs. -/
  | dumpReadResult (answer : Option Nat)
  /-- DUMP_COPY_DONE, R420. -/
  | dumpCopyDone
  /-- TRVSET, R429. -/
  | trvset (i : Issue)
  /-- BUDGET, R443. -/
  | budget (i : Issue)
  /-- FWACT, R299. -/
  | fwact (i : Issue)
  /-- DEFERRED_ACTIVATION_START, R300. -/
  | deferredActivationStart
  /-- ACTIVATION_CORE_READY, R301. -/
  | activationCoreReady (core : Nat)
  /-- KTL_DB_WRITE, R277. -/
  | ktlDbWrite (src : Src) (n val : Nat)
  /-- KTL_CDB_WRITE, R303. -/
  | ktlCdbWrite (src : Src) (n val : Nat)
  /-- KTL_RING_ENABLE, R303: a write of KTL_RING_CFG. -/
  | ktlRingEnable (src : Src) (val : Nat)
  /-- RING_ENTRY_TAKE, R278: Kettle 0 takes the next entry of ring n. -/
  | ringEntryTake (n : Nat)
  /-- OWNER_RETURN, R282: the owner core's decided instruction. -/
  | ownerReturn (n index : Nat) (e : RingEntry)
  /-- SUBMIT_PROGRAM, R246. -/
  | submitProgram (i : Issue)
  /-- READ_SEAL_STATUS, R281. -/
  | readSealStatus (i : Issue)
  /-- READ_COVERAGE, R281. -/
  | readCoverage (i : Issue)
  /-- LANE_SERVICE, R281. -/
  | laneService (i : Issue)
  /-- READ_SEQUENCER_STATUS, R281. -/
  | readSequencerStatus (i : Issue)
  /-- STAGE_FIRMWARE, R298. -/
  | stageFirmware (i : Issue)
  /-- STAGING_DONE, R298: the image as read again from the slot written; none where a flash read took 10 ms. -/
  | stagingDone (reread : Option Bytes)
  /-- KTL_STAGE_GO_STAGE, R304. -/
  | ktlStageGoStage (src : Src)
  /-- KTL_STAGE_GO_RUN, R296. -/
  | ktlStageGoRun (src : Src)
  /-- WATCHDOG_EXPIRY, R290: the core, and the block time of its last kick. -/
  | watchdogExpiry (core kick : Nat)
  /-- KETTLE_CORE_READY, R291. -/
  | kettleCoreReady (core : Nat) (copy : List Nat)
  /-- PAIR_OPS, R321. -/
  | pairOps (m : PeerMsg)
  /-- PAIR_STEP, R321. -/
  | pairStep (m : PeerMsg)
  /-- PAIR_TIMEOUT, R322. -/
  | pairTimeout (ctx : Nat)
  /-- MIRROR_COPY_DONE, R348. -/
  | mirrorCopyDone (ctx : Nat)
  /-- MIRROR_DONE, R349. -/
  | mirrorDone (m : PeerMsg)
  /-- MIRROR_ACK, R350. -/
  | mirrorAck (m : PeerMsg)
  /-- MIRROR_ACK_TIMEOUT, R350. -/
  | mirrorAckTimeout (ctx : Nat)
  /-- HOST_MESSAGE, R333. -/
  | hostMessage (m : PeerMsg)
  /-- PEER_MESSAGE_DISCARD, R331. -/
  | peerMessageDiscard (m : PeerMsg)
  /-- PEER_CREDIT_RETURN, R468. -/
  | peerCreditReturn (cls : Nat)
  /-- HUB_PEER_RX_CONS_WRITE, R333. -/
  | hubPeerRxConsWrite (src : Src) (val : Nat)
  /-- WHISK_RUN_START, R363: the reference cycles for which the tile's queue-empty level has been high. -/
  | whiskRunStart (tile test idle : Nat)
  /-- WHISK_RUN_END, R366: for the ops of a tap self-test, whether their output and flags were right. -/
  | whiskRunEnd (tile : Nat) (same : List Bool)
  /-- WHISK_RUN_ABANDON, R364. -/
  | whiskRunAbandon (tile : Nat)
  /-- WHISK_RUN_TIMEOUT, R366. -/
  | whiskRunTimeout (tile test : Nat)
  /-- WHISK_SCHEDULE, R371. -/
  | whiskSchedule
  /-- SUSPECT_SCORE_HALVING, R370. -/
  | suspectScoreHalving
  /-- TILE_SUBSTITUTION, R374: the physical tiles whose queue-empty level is high. -/
  | tileSubstitution (logical : Nat) (empty : List Nat)
  /-- PAIR_TRANSITION, R386, in a hub cycle. -/
  | pairTransition (station pair : Nat) (wire : Bool) (cycle : Nat)
  /-- PAIR_ARM_TIMEOUT, R381, in a hub cycle. -/
  | pairArmTimeout (station pair cycle : Nat)
  /-- CAPTURE_BEAT, R388, in a hub cycle. -/
  | captureBeat (station pair addr master access cycle : Nat)
  /-- CAPTURE_DETAIL_TIMEOUT, R388, in a hub cycle. -/
  | captureDetailTimeout (station pair cycle : Nat)
  /-- COLANDER_SELF_FAULT, R394. -/
  | colanderSelfFault (unit word : Nat)
  /-- COL_SAFE_EXIT, R397. -/
  | colSafeExit (src : Src)
  /-- COL_STN_EN_WRITE, R381. -/
  | colStnEnWrite (src : Src) (station : Nat) (hi : Bool) (val : Nat)
  /-- W1C_CLEAR, R392. -/
  | w1cClear (src : Src) (addr val : Nat)
  /-- WATCH_WINDOW_END, R402, R404: the samples of each watched unit in the window, its count and its busy signal. -/
  | watchWindowEnd (samples : List (Nat × List (Nat × Bool)))
  /-- VERDICT_AGE_HANG, R405. -/
  | verdictAgeHang (tile : Nat)
  /-- QUIESCE_ACK, R407. -/
  | quiesceAck (slot : Nat)
  /-- QUIESCE_TIMEOUT, R465. -/
  | quiesceTimeout (slot : Nat)
  /-- RESET_DRAINED, R407. -/
  | resetDrained (slot : Nat)
  /-- DRAIN_LIMIT_EXPIRY, R408. -/
  | drainLimitExpiry (slot : Nat)
  /-- RESET_HOLD_END, R407. -/
  | resetHoldEnd (slot : Nat)
  /-- RESET_READY, R407. -/
  | resetReady (slot : Nat)
  /-- READY_LIMIT_EXPIRY, R408. -/
  | readyLimitExpiry (slot : Nat)
  /-- ABSORB_WINDOW_CLOSE, R409. -/
  | absorbWindowClose (slot : Nat)
  /-- CFL_ISSUE, R413. -/
  | cflIssue (lane ctx gen tag : Nat)
  /-- CFL_COMPLETE, R413. -/
  | cflComplete (lane ctx gen tag : Nat)
  /-- STATE_READ_ANSWER, R466. -/
  | stateReadAnswer (data : Nat) (err : Bool)
  /-- SENSOR_SAMPLE, R428: the frame of a sensor ends with the word W of R469. -/
  | sensorSample (sensor word : Nat)
  /-- FAST_SAMPLING_EXIT, R426. -/
  | fastSamplingExit (zone : Nat)
  /-- THROTTLE_STEP, R432. -/
  | throttleStep
  /-- POWER_POLL, R434: the words that READ_POUT of the rails returned in a poll round; none for a transaction that failed. -/
  | powerPoll (words : List (Option Nat))
  /-- PMBUS_TIMEOUT, R434. -/
  | pmbusTimeout (rail : Nat)
  /-- SMBALERT, R434. -/
  | smbalert
  /-- TRV_AVS_WRITE, R435. -/
  | trvAvsWrite (src : Src) (val : Nat)
  /-- TRV_DOM_LEVEL_FLOOR, R431. -/
  | trvDomLevelFloor (src : Src) (val : Nat)
  /-- TRV_CURVE_LOAD, R440. -/
  | trvCurveLoad (src : Src)
  /-- TRV_CURVE_SELECT, R440. -/
  | trvCurveSelect (src : Src)
  /-- TRV_TRIP_CLR, R444. -/
  | trvTripClr (src : Src)
  /-- MTR_LANE_CTRL_FENCE, R212. -/
  | mtrLaneCtrlFence (src : Src) (lanes : Nat)
  /-- MTR_LANE_CTRL_SELFTEST, R212. -/
  | mtrLaneCtrlSelftest (src : Src) (lanes : Nat)
  /-- MTR_LANE_CTRL_REINSTATE, R191. -/
  | mtrLaneCtrlReinstate (src : Src) (lanes : Nat)
  /-- HUB_SIEVE_SEED_LO_WRITE, R217. -/
  | hubSieveSeedLoWrite (src : Src) (val : Nat)
  /-- HUB_SIEVE_SEED_HI_WRITE, R217. -/
  | hubSieveSeedHiWrite (src : Src) (val : Nat)
  /-- HUB_SIEVE_CLR, R216. -/
  | hubSieveClr (src : Src)
  /-- HUB_TIME_LO_READ, R28. -/
  | hubTimeLoRead (src : Src)
  /-- HUB_JRNL_NEXT_LO_READ, R305. -/
  | hubJrnlNextLoRead (src : Src)
  /-- HUB_PROV_NEXT_LO_READ, R327. -/
  | hubProvNextLoRead (src : Src)
  /-- HUB_DUMP_DATA_READ, R422. -/
  | hubDumpDataRead (src : Src)
  /-- HUB_ATB_CTRL_WRITE, R477. -/
  | hubAtbCtrlWrite (src : Src) (val : Nat)
  /-- LDL_CNT_CLR, R158. -/
  | ldlCntClr (src : Src) (tile val : Nat)
  /-- HUB_SEAL_CNT_CLR, R183. -/
  | hubSealCntClr (src : Src) (val : Nat)
  /-- MTR_CNT_CLR, R215. -/
  | mtrCntClr (src : Src) (val : Nat)
  /-- LID_CNT_CLR, R242. -/
  | lidCntClr (src : Src) (val : Nat)
  /-- SCK_CNT_CLR, R242. -/
  | sckCntClr (src : Src) (val : Nat)
  /-- HUB_SIS_CNT_CLR, R274. -/
  | hubSisCntClr (src : Src) (val : Nat)
  /-- KTL_CNT_CLR, R306. -/
  | ktlCntClr (src : Src) (val : Nat)
  /-- HUB_JRNL_CNT_CLR, R306. -/
  | hubJrnlCntClr (src : Src) (val : Nat)
  /-- HUB_PAIR_CNT_CLR, R328. -/
  | hubPairCntClr (src : Src) (val : Nat)
  /-- HUB_CKPT_CNT_CLR, R357. -/
  | hubCkptCntClr (src : Src) (val : Nat)
  /-- HUB_FT_CNT_CLR, R378. -/
  | hubFtCntClr (src : Src) (val : Nat)
  /-- COL_CNT_CLR, R400. -/
  | colCntClr (src : Src) (val : Nat)
  /-- HUB_RCV_CNT_CLR, R424. -/
  | hubRcvCntClr (src : Src) (val : Nat)
  /-- TRV_CNT_CLR, R445. -/
  | trvCntClr (src : Src) (val : Nat)
  /-- HUB_PORT_CNT_CLR, R481. -/
  | hubPortCntClr (src : Src) (val : Nat)
  /-- HUB_BRING_CNT_CLR, R497. -/
  | hubBringCntClr (src : Src) (val : Nat)
  /-- REGISTER_WRITE, R501. -/
  | registerWrite (src : Src) (addr val : Nat)
  /-- MEM_RESPONSE, R454. -/
  | memResponse (port id : Nat) (st : MemStatus) (data : Bytes) (sb : Nat)
  /-- MEM_REQUEST_TIMEOUT, R457. -/
  | memRequestTimeout (port id : Nat)
  /-- MEM_ID_HOLD_EXPIRY, R457. -/
  | memIdHoldExpiry (port id : Nat)
  /-- IDCODE, R476. -/
  | idcode
  /-- DTMCS, R476. -/
  | dtmcs
  /-- DMI, R476. -/
  | dmi (addr data : Nat) (write : Bool)
  /-- ATB, R477. -/
  | atb (val : Nat)
  /-- BYPASS, R476. -/
  | bypass
  /-- DEBUG_HALT, R476. -/
  | debugHalt (core : Nat)
  /-- DEBUG_RESUME, R476. -/
  | debugResume (core : Nat)
  /-- DEBUG_SINGLE_STEP, R476. -/
  | debugSingleStep (core : Nat)
  /-- DEBUG_TRIGGER_HIT, R476. -/
  | debugTriggerHit (core : Nat)
  /-- DEBUG_SYSTEM_BUS_ACCESS, R476. -/
  | debugSystemBusAccess (addr val : Nat) (write : Bool)
  /-- GLITCH_DISCARD, R24. -/
  | glitchDiscard (station pair : Nat)
  /-- PAIR_RETURN_OK, R381. -/
  | pairReturnOk (station pair : Nat)
  /-- HUB_JRNL_BASE_WRITE, R286. -/
  | hubJrnlBaseWrite (src : Src) (val : Nat)
  deriving DecidableEq, Repr

end Sys2Proof
end

