-- ==== Sys2Proof/Machine/Operands.lean ====
section
/-! DEFINITION. The operand forms of an op: the fields of its descriptor (R102 to R104, R502), its regions (R103), and what
its Ladle computes from the elements seen on the taps (R108, R111, R132 to R147). -/

namespace Sys2Proof.Machine

/-! ### Coordinates and counts -/

/-- The number of coordinate (row, column) on the taps. -/
def crd (r c : Nat) : Nat := r * 2 ^ 24 + c
def crdRow (x : Nat) : Nat := x / 2 ^ 24
def crdCol (x : Nat) : Nat := x % 2 ^ 24

/-- Looks up an entry of a list of keyed entries. -/
def lookup {α : Type} : List (Nat × α) → Nat → Option α
  | [], _ => none
  | (j, v) :: t, k => if j = k then some v else lookup t k

/-- Adds `n` to count `k` of a list of counts. -/
def addCount : List (Nat × Nat) → Nat → Nat → List (Nat × Nat)
  | [], k, n => [(k, n)]
  | (j, v) :: t, k, n => if j = k then (j, v + n) :: t else (j, v) :: addCount t k n

/-- Adds every count of a second list to a first. -/
def addCounts (l : List (Nat × Nat)) : List (Nat × Nat) → List (Nat × Nat)
  | [] => l
  | (k, n) :: t => addCounts (addCount l k n) t

/-! ### The descriptor word (R102) -/

/-- The fields of a 512-bit descriptor at the bit positions of R102. -/
def Desc.ofWord (w : Nat) : Desc :=
  { outFmt := fieldOf w 510 505, bFmt := fieldOf w 504 499, aFmt := fieldOf w 498 493, elemBase := fieldOf w 492 458,
    rowStride := fieldOf w 457 434, bBlk := fieldOf w 433 396, aBlk := fieldOf w 395 358, outBlk := fieldOf w 357 320,
    seed := fieldOf w 319 256, tensor := fieldOf w 255 224, sckB := fieldOf w 223 208, sckA := fieldOf w 207 192, sckOut := fieldOf w 191 176,
    dimK := fieldOf w 168 160, dimN := fieldOf w 159 144, dimM := fieldOf w 143 128, bucket := fieldOf w 125 114,
    bktValid := bitAt w 113 == 1, dir := fieldOf w 112 110, entry := fieldOf w 109 104, slot := fieldOf w 103 96, sec := fieldOf w 95 92,
    kind := fieldOf w 91 88, opseq := fieldOf w 87 64, step := fieldOf w 63 32, gen := fieldOf w 31 16, ctx := fieldOf w 15 0,
    zeroBad := bitAt w 511 == 1 || fieldOf w 175 169 != 0 || fieldOf w 127 126 != 0 }

/-- R102: unused fields are zero. B_BLK is unused without B_FMT, BUCKET without BKT_VALID, an entry number of the Scale Keeper without its
valid bit (log entry 104). -/
def Desc.unusedBad (d : Desc) : Bool :=
  (d.bFmt == 0 && d.bBlk != 0) || (! d.bktValid && d.bucket != 0) ||
    [d.sckA, d.sckB, d.sckOut].any (fun k => decide (k < 2 ^ 15) && k != 0)

/-! ### Descriptor checks (R104, R502) -/

/-- A route send or receive op. -/
def Desc.isRoute (d : Desc) : Bool := d.kind == 6 || d.kind == 7

/-- A code of R34, or zero. -/
def codeOk (c : Nat) : Bool := c == 0 || fmtListed c

/-- Whether a code is block-scaled. -/
def scaledCode (c : Nat) : Bool := (fmtD c).scaled

/-- R502: the fields of a route op. -/
def Desc.routeBad (d : Desc) : Bool :=
  let send := d.kind == 6
  let fmt := if send then d.aFmt else d.outFmt
  d.dimK != 1 || ! (decide (2 ≤ d.dimN) && decide (d.dimN ≤ 256)) || d.rowStride == 0 ||
    ! fmtListed fmt || scaledCode fmt || fmt == 0x31 || d.sckA != 0 || d.sckB != 0 || d.sckOut != 0 ||
    (if send then d.outFmt != 0 || d.outBlk != 0 else d.aFmt != 0 || d.aBlk != 0) ||
    d.bFmt != 0 || d.bBlk != 0 || d.elemBase != 0 || d.tensor != 0 || d.slot != 0 || d.sec != 0 || d.entry != 0 || d.dir != 0

/-- Row 1 of R104: a reserved OPKIND, format code or direction, a nonzero zero field, or a breach of R502. -/
def Desc.row1 (d : Desc) : Bool :=
  ! (decide (1 ≤ d.kind) && decide (d.kind ≤ 7)) || d.zeroBad || d.unusedBad || ! codeOk d.aFmt || ! codeOk d.bFmt || ! codeOk d.outFmt ||
    ! dirOk d.dir || (d.isRoute && d.routeBad)

/-- The section kind that an OPKIND names. -/
def secKind : Section → Nat
  | .dot _ => 1
  | .elem _ _ _ => 2
  | .conv _ => 3
  | .spec _ => 4
  | .pipe _ => 5
  | .kat _ => 0

/-- Entries of a section; those without a list have the one entry 0. -/
def secEntries : Section → Nat
  | .elem _ _ es => es.length
  | .conv es => es.length
  | _ => 1

/-- Row 2 of R104: the condition of R95, for a pipeline with the formats of R508. -/
def Desc.row2 (d : Desc) (r : Recipe) : Bool :=
  match r.sections[d.sec]? with
  | none => true
  | some sec =>
    secKind sec != d.kind ||
      (match shapesOf r.sections d.sec d.entry d.dimM d.dimN with
       | none => false
       | some sh => sh.a.fmt != d.aFmt || ((sh.b.map RegShape.fmt).getD 0) != d.bFmt || sh.out.fmt != d.outFmt)

/-- Row 3 of R104. -/
def Desc.row3 (d : Desc) (r : Recipe) : Bool :=
  match r.sections[d.sec]? with
  | none => true
  | some sec =>
    (match sec with
     | .dot x => d.dimK != x.k
     | .pipe st => d.dimK != 1 || (pipeKs r.sections st).any (fun k => k != d.dimN)
     | .conv es => d.dimK != 1 || (match es[d.entry]? with
        | some e => bitAt e.mask d.dir == 0
        | none => false)
     | _ => d.dimK != 1) || decide (secEntries sec ≤ d.entry)

/-- Row 4 of R104 (R60). -/
def Desc.row4 (d : Desc) : Bool :=
  decide ((2 ^ 35 - 1 : Int) < (d.elemBase : Int) + ((d.dimM : Int) - 1) * d.rowStride + d.dimN - 1)

/-! ### Regions (R103, R508, R502) -/

/-- Groups of 32 of a count, where the format is block-scaled. -/
def groupsOf (fmt count : Nat) : Nat := if scaledCode fmt then (count + 31) / 32 else 0

/-- A region from its base, format and dimensions, and for a sparse operand its stored values and index entries. -/
def mkRegion (base fmt rows cols : Nat) (sp : Option Sparse) : Region :=
  let count := match sp with
    | some p => p.stored
    | none => rows * cols
  let entries := match sp with
    | some p => p.entries
    | none => 0
  { present := true, base := base, fmt := fmt, count := count, rows := rows, cols := cols, entries := entries,
    elemBlocks := ceilDiv count (perBlock (fmtBits fmt)), ixBlocks := ceilDiv entries 2048,
    scBlocks := ceilDiv (groupsOf fmt count) 4096 }

/-- Blocks of a region. -/
def Region.blocks (r : Region) : Nat := if r.present then r.elemBlocks + r.ixBlocks + r.scBlocks else 0

/-- Scale bytes of a region. -/
def Region.groups (r : Region) : Nat := if r.present then groupsOf r.fmt r.count else 0

/-- The linear position of a coordinate in a dense region. -/
def Region.pos (r : Region) (x : Nat) : Nat := crdRow x * r.cols + crdCol x

/-- The coordinate at a linear position. -/
def Region.coordAt (r : Region) (p : Nat) : Nat := crd (p / r.cols) (p % r.cols)

/-- Whether a coordinate lies in the region. -/
def Region.holds (r : Region) (x : Nat) : Bool := r.present && decide (crdRow x < r.rows) && decide (crdCol x < r.cols)

/-- The FMT of a block of a region (R103, R167). -/
def Region.fmtAt (r : Region) (off : Nat) : Nat :=
  if off < r.elemBlocks then r.fmt else if off < r.elemBlocks + r.ixBlocks then 0x31 else 0x30

/-- The regions of a route op (R502). -/
def routeLayout (d : Desc) : Layout :=
  if d.kind = 6 then { a := mkRegion d.aBlk d.aFmt 1 d.rowStride none }
  else { out := mkRegion d.outBlk d.outFmt 1 d.rowStride none }

/-- The output region that the descriptor alone gives, for an op with a descriptor error (R105): that of R502 for a route op, else
DIM_M × DIM_N elements of OUT_FMT, none where OUT_FMT is zero. A reserved code, which no BCV may carry (R35), is taken as Opaque (log
entry 106). -/
def outLayout (d : Desc) : Layout :=
  let fmt := if codeOk d.outFmt then d.outFmt else 0x3E
  if d.outFmt = 0 || d.kind = 6 then {}
  else if d.kind = 7 then { out := mkRegion d.outBlk fmt 1 d.rowStride none }
  else { out := mkRegion d.outBlk fmt d.dimM d.dimN none }

/-- The regions of an op of a recipe's section. -/
def Desc.layout (d : Desc) (r : Option Recipe) (spA spB : Option Sparse) (bad : Bool) : Layout :=
  if bad then outLayout d
  else if d.isRoute then routeLayout d
  else
    match r.bind (fun r => shapesOf r.sections d.sec d.entry d.dimM d.dimN) with
    | none => {}
    | some sh =>
      let a := mkRegion d.aBlk sh.a.fmt sh.a.rows sh.a.cols spA
      let b := match sh.b with
        | some q => mkRegion d.bBlk q.fmt q.rows q.cols spB
        | none => {}
      let cBase := if b.present then b.base + b.blocks else a.base + a.blocks
      { a := a, b := b,
        c := match sh.c with
          | some q => mkRegion cBase q.fmt q.rows q.cols none
          | none => {},
        out := mkRegion d.outBlk sh.out.fmt sh.out.rows sh.out.cols none }

/-- Region 0, 1 or 2 of an op: A, B, the third operand. -/
def Layout.region (l : Layout) (k : Nat) : Region := if k = 0 then l.a else if k = 1 then l.b else if k = 2 then l.c else {}

/-! ### The op's own views -/

/-- Whether an op presents a converter max beat (R116, R502). -/
def LOp.needCmx (o : LOp) : Bool := ! o.d.isRoute && (match fmtOf o.d.outFmt with
  | some f => f.kind != .ieee
  | none => false)

/-- R101: nameable until complete. An op that the Whisk injected presents no egress block (R362). -/
def LOp.nameable (o : LOp) : Bool :=
  ! (o.closed && (! o.needCmx || o.cmx.isSome) &&
    (o.whisk || (List.range o.lay.out.blocks).all (fun k => (lookup o.egr k).isSome)))

/-- An op whose beats are only consumed: one with a descriptor error (R105), or one that the Lid has refused (R504). -/
def LOp.consumed (o : LOp) : Bool := o.accept == .descErr || o.accept == .refused

/-- Elements of an operand as seen on the operand tap. -/
def LOp.els (o : LOp) (k : Nat) : List (Nat × Nat) := if k = 0 then o.elA else if k = 1 then o.elB else o.elC
def LOp.ixs (o : LOp) (k : Nat) : List (Nat × Nat) := if k = 0 then o.ixA else if k = 1 then o.ixB else []
def LOp.scs (o : LOp) (k : Nat) : List (Nat × Nat) := if k = 0 then o.scA else if k = 1 then o.scB else o.scC

/-- Whether an operand is sparse. -/
def LOp.sparse (o : LOp) (k : Nat) : Bool := (k == 0 && o.spA.isSome) || (k == 1 && o.spB.isSome)

/-- The elements of a run with the key of each: consecutive from the first along the inner axis, k for A and j for B and the third
operand, which zv_opd_col counts for each (R110). -/
def runAt (w key : Nat) (run : List Nat) : List (Nat × Nat) := run.zipIdx.map (fun p => (key + p.2, p.1 % 2 ^ w))

/-- The entries of a list whose keys another list does not hold. -/
def fresh {α : Type} (old new : List (Nat × α)) : List (Nat × α) := new.filter (fun p => (lookup old p.1).isNone)

/-- What an operand beat presents (R110), by the code of zv_opd_kind: elements by coordinate, index entries by line and place in it,
scale bytes by the group number in zv_opd_col. The coordinate of an index entry is that of its stored value (log entry 107). -/
def LOp.run (o : LOp) (kind row col : Nat) (vs : List Nat) : List (Nat × Nat) :=
  if kind < 3 then runAt (fmtBits (o.lay.region kind).fmt) (crd row col) vs
  else if kind = 3 then runAt 16 (crd row col) vs
  else if kind = 4 then vs.zipIdx.map (fun p => (crd (col + p.2) row, p.1 % 2 ^ 16))
  else runAt 8 col vs

/-- What an op has seen of the list that a code of zv_opd_kind names. -/
def LOp.seen (o : LOp) (kind : Nat) : List (Nat × Nat) :=
  if kind < 3 then o.els kind else if kind < 5 then o.ixs (kind - 3) else o.scs (kind - 5)

/-- R122: an element presented twice. -/
def LOp.repeats (o : LOp) (kind : Nat) (new : List (Nat × Nat)) : Bool := new.any (fun p => (lookup (o.seen kind) p.1).isSome)

/-- Takes an operand beat; of an element presented twice the first counts. -/
def LOp.addOperand (o : LOp) (kind : Nat) (new : List (Nat × Nat)) : LOp :=
  let all := o.seen kind ++ fresh (o.seen kind) new
  if kind = 0 then { o with elA := all }
  else if kind = 1 then { o with elB := all }
  else if kind = 2 then { o with elC := all }
  else if kind = 3 then { o with ixA := all }
  else if kind = 4 then { o with ixB := all }
  else if kind = 5 then { o with scA := all }
  else if kind = 6 then { o with scB := all }
  else { o with scC := all }

/-- The elements that the lanes of an output beat name: lane l holds element (row, col + l) (R112). -/
def laneEls (row col : Nat) (lanes : List (Option OutEl)) : List (Nat × OutEl) :=
  lanes.zipIdx.filterMap (fun p => p.1.map (fun e => (crd row (col + p.2), e)))

/-- The scale bytes that the lanes of an output beat hold, by group number. -/
def laneScales (col : Nat) (lanes : List (Option OutEl)) : List (Nat × Nat) :=
  lanes.zipIdx.filterMap (fun p => p.1.map (fun e => (col + p.2, e.code % 256)))

/-! ### Sparse lines (R143 to R145) -/

/-- The line, a row of A or a column of B, and the place within it of a stored value. -/
def lineOf (k x : Nat) : Nat := if k = 0 then crdRow x else crdCol x
def placeOf (k x : Nat) : Nat := if k = 0 then crdCol x else crdRow x

/-- The entries of a line from its first on, as far as they are contiguous. -/
def ixPrefix (ix : List (Nat × Nat)) (line pos : Nat) : Nat → List Nat
  | 0 => []
  | n + 1 =>
    match lookup ix (crd line pos) with
    | some e => e :: ixPrefix ix line (pos + 1) n
    | none => []

def LOp.ixLine (o : LOp) (k line : Nat) : List Nat := ixPrefix (o.ixs k) line 0 (o.ixs k).length

/-- Lines of a sparse operand. -/
def LOp.lines (o : LOp) (k : Nat) : Nat := if k = 0 then (o.lay.a).rows else (o.lay.b).cols

/-- Stored values seen in a line. -/
def LOp.inLine (o : LOp) (k line : Nat) : Nat := ((o.els k).filter (fun p => lineOf k p.1 == line)).length

/-- The index entries seen of a line, with their places in it. -/
def LOp.lineEntries (o : LOp) (k line : Nat) : List (Nat × Nat) :=
  ((o.ixs k).filter (fun p => crdRow p.1 == line)).map (fun p => (crdCol p.1, p.2))

/-- Whether every index entry of an operand has been seen. -/
def LOp.ixComplete (o : LOp) (k : Nat) : Bool := decide ((o.lay.region k).entries ≤ (o.ixs k).length)

/-- R144: a line of a stream shows itself malformed by the entries seen of it; one of a stream seen whole, or of an op that closes, also
by its count. -/
def LOp.lineBad (o : LOp) (atEnd : Bool) (k line : Nat) : Bool :=
  ixSeenBad o.d.dimK (o.lineEntries k line) ||
    ((atEnd || o.ixComplete k) && ixNoLast (o.lineEntries k line)) ||
    (atEnd && ixLineShort (o.inLine k line) (o.ixLine k line))

/-- The entries without NONE differ in number from the stored values: known once the stream has been seen whole. -/
def LOp.ixCountBad (o : LOp) (k : Nat) : Bool :=
  o.ixComplete k && ((o.ixs k).filter (fun p => ! ixNone p.2)).length != (o.lay.region k).count

/-- R144: the first malformed line, by coordinate; a stream with a wrong count alone is located at its last line. -/
def LOp.malformed (o : LOp) (atEnd : Bool) : Option Nat :=
  let first (k : Nat) : Option Nat :=
    if o.sparse k then
      ((List.range (o.lines k)).find? (o.lineBad atEnd k)).or (if o.ixCountBad k then some (o.lines k - 1) else none)
    else none
  match first 0, first 1 with
  | some l, _ => some (crd l 0)
  | none, some l => some (crd 0 l)
  | none, none => none

/-- The linear position of an element of operand `k` in its region: dense by coordinate, sparse in stored order. -/
def LOp.linPos (o : LOp) (k x : Nat) : Nat :=
  if o.sparse k then ((List.range (lineOf k x)).map (o.inLine k)).foldl (· + ·) 0 + placeOf k x
  else (o.lay.region k).pos x

/-- The coordinate that an element has in the dense operand; none while its index entry has not been seen. -/
def LOp.denseAt (o : LOp) (k x : Nat) : Option (Nat × Nat) :=
  if o.sparse k then
    (lookup (o.ixs k) (crd (lineOf k x) (placeOf k x))).map (fun e =>
      if k = 0 then (crdRow x, ixK e) else (ixK e, crdCol x))
  else some (crdRow x, crdCol x)

/-! ### Operand closure (R111) -/

/-- Sum of the shares of consecutive codes from position `p`. -/
def closureRun (p : Nat) : List Nat → Nat
  | [] => 0
  | c :: t => addM (closureOf c p) (closureRun (p + 1) t)

/-- The share of one ingress block. -/
def Region.blockClosure (r : Region) (off : Nat) (data : Bytes) : Nat :=
  let run (w per total base i : Nat) : Nat := closureRun (base + i * per) (unpackBytes w (min per (total - i * per)) data)
  if off < r.elemBlocks then run (fmtBits r.fmt) (perBlock (fmtBits r.fmt)) r.count 0 off
  else if off < r.elemBlocks + r.ixBlocks then run 16 2048 r.entries r.count (off - r.elemBlocks)
  else run 8 4096 r.groups (r.count + r.entries) (off - r.elemBlocks - r.ixBlocks)

/-- Adds a block's share to its region's closure at ingress. -/
def LOp.closeAt (o : LOp) (k v : Nat) : LOp :=
  if k = 0 then { o with closA := addM o.closA v }
  else if k = 1 then { o with closB := addM o.closB v }
  else { o with closC := addM o.closC v }

/-- The closure of operand `k` over the operand tap. -/
def LOp.tapClosure (o : LOp) (k : Nat) : Nat :=
  let r := o.lay.region k
  let ixAt (x : Nat) : Nat := ((List.range (crdRow x)).map (fun l => (o.ixLine k l).length)).foldl (· + ·) 0 + crdCol x
  addM (sumM ((o.els k).map (fun p => closureOf p.2 (o.linPos k p.1))))
    (addM (sumM ((o.ixs k).map (fun p => closureOf p.2 (r.count + ixAt p.1))))
      (sumM ((o.scs k).map (fun p => closureOf p.2 (r.count + r.entries + p.1)))))

def LOp.closuresAgree (o : LOp) : Bool :=
  o.closA == o.tapClosure 0 && o.closB == o.tapClosure 1 && o.closC == o.tapClosure 2

/-! ### Missing elements and blocks (R122) -/

/-- Elements of an operand missing: of a dense one by coordinate, of a sparse one by place in its lines, each filled from its first. -/
def LOp.elsMissing (o : LOp) (k : Nat) : Bool :=
  let r := o.lay.region k
  if o.sparse k then
    let got := (o.els k).filter (fun p => decide (lineOf k p.1 < o.lines k))
    decide (got.length < r.count) || got.any (fun p => decide (o.inLine k (lineOf k p.1) ≤ placeOf k p.1))
  else (List.range r.count).any (fun p => (lookup (o.els k) (r.coordAt p)).isNone)

/-- Index entries of an operand missing. -/
def LOp.ixsMissing (o : LOp) (k : Nat) : Bool :=
  decide (((o.ixs k).filter (fun p => decide (crdRow p.1 < o.lines k))).length < (o.lay.region k).entries)

/-- Elements, index entries or scale bytes missing at the last output beat. -/
def LOp.missing (o : LOp) : Bool :=
  [0, 1, 2].any (fun k =>
    let r := o.lay.region k
    r.present && (o.elsMissing k || o.ixsMissing k || (List.range r.groups).any (fun g => (lookup (o.scs k) g).isNone))) ||
    (o.lay.out.present && (List.range o.lay.out.count).any (fun p => (lookup o.outs (o.lay.out.coordAt p)).isNone)) ||
    (List.range o.lay.out.groups).any (fun g => (lookup o.scOut g).isNone)

/-- Region blocks missing when the op closes. -/
def LOp.missingBlocks (o : LOp) : Bool :=
  [0, 1, 2].any (fun k => (List.range (o.lay.region k).blocks).any (fun b => ! o.ing.contains (k, b)))

/-! ### Egress (R108) -/

/-- Whether every element that an output block packs has been presented. -/
def LOp.packed (o : LOp) (off : Nat) : Bool :=
  let r := o.lay.out
  let per := perBlock (fmtBits r.fmt)
  if off < r.elemBlocks then
    (List.range (min per (r.count - off * per))).all (fun i => (lookup o.outs (r.coordAt (off * per + i))).isSome)
  else
    let b := (off - r.elemBlocks) * 4096
    (List.range (min 4096 (r.groups - b))).all (fun i => (lookup o.scOut (b + i)).isSome)

/-- An output block packed from the output tap (R36 to R38). -/
def LOp.packBlockAt (o : LOp) (off : Nat) : Bytes :=
  let r := o.lay.out
  let w := fmtBits r.fmt
  let per := perBlock w
  if off < r.elemBlocks then
    packBlock w ((List.range (min per (r.count - off * per))).map (fun i =>
      ((lookup o.outs (r.coordAt (off * per + i))).map OutEl.code).getD 0))
  else
    let b := (off - r.elemBlocks) * 4096
    packBlock 8 ((List.range (min 4096 (r.groups - b))).map (fun i => (lookup o.scOut (b + i)).getD 0))

/-! ### Residues (R132 to R147) -/

/-- The section of an op. -/
def LOp.sec (o : LOp) (r : Option Recipe) : Option Section := r.bind (fun r => r.sections[o.d.sec]?)

/-- The elementwise OP of an op; zero for other kinds. -/
def LOp.elemOp (o : LOp) (r : Option Recipe) : Nat :=
  match o.sec r with
  | some (.elem _ _ es) => ((es[o.d.entry]?).map ElemEntry.op).getD 0
  | _ => 0

/-- R87: special functions, pipelines, maximum and minimum; no route op (R142). -/
def LOp.mortarOnly (o : LOp) (r : Option Recipe) : Bool :=
  ! o.d.isRoute && match o.sec r with
  | some (.spec _) => true
  | some (.pipe _) => true
  | some (.elem _ _ _) => decide (5 ≤ o.elemOp r)
  | _ => false

/-- Whether the op receives a class comparison (R142, R504). -/
def LOp.compared (o : LOp) (r : Option Recipe) : Bool :=
  (match o.accept with
   | .ok _ _ _ => true
   | _ => false) && ! o.d.isRoute && ! o.mortarOnly r && ! o.resOff && r.isSome

/-- The scale that applies to an element at linear position `p`: none in a group with scale byte 0xFF, or before its scale
byte has been seen. -/
def scaleAt (fmt : Nat) (ts : Int) (scs : List (Nat × Nat)) (p : Nat) : Option Int :=
  let f := fmtD fmt
  if f.kind == .ieee then some 0
  else if f.scaled then
    match lookup scs (p / 32) with
    | some b => if b = 0xFF then none else some (ts + ((b : Int) - 127))
    | none => none
  else some ts

/-- The residues of operand `k` by dense coordinate, each from its code and format alone (R132). -/
def LOp.cells (o : LOp) (k : Nat) (ts : Int) : List Cell3 :=
  let reg := o.lay.region k
  (o.els k).filterMap (fun p =>
    (o.denseAt k p.1).map (fun c =>
      { row := c.1, col := c.2,
        val := match scaleAt reg.fmt ts (o.scs k) (o.linPos k p.1) with
          | some t => resElem (fmtD reg.fmt) t p.2
          | none => 0 }))

/-- The observed residues: value plus delta; a lane with its spec bit counts its delta alone (R146). -/
def LOp.outCells (o : LOp) (ts : Int) : List Cell3 :=
  let reg := o.lay.out
  o.outs.map (fun p =>
    { row := crdRow p.1, col := crdCol p.1,
      val := addM p.2.delta (if p.2.spec then 0
        else match scaleAt reg.fmt ts o.scOut (reg.pos p.1) with
          | some t => resElem (fmtD reg.fmt) t p.2.code
          | none => 0) })

/-- The predicted classes of an op (R135 to R141). -/
def LOp.predict (o : LOp) (r : Option Recipe) (tsA tsB : Int) : Classes :=
  let a := o.cells 0 tsA
  let b := o.cells 1 tsB
  let c := o.cells 2 0
  match o.sec r with
  | some (.dot d) =>
    let ones : List Cell3 := (List.range d.k).flatMap (fun k => (List.range o.d.dimN).map (fun j => ⟨k, j, 1⟩))
    predictDot a (if d.bFmt = 0 then ones else b) c
  | some (.elem _ _ _) => predictElem (o.elemOp r) a b c
  | _ => classesOf a

/-- R147: location of an op's residue mismatch. -/
def LOp.locate (o : LOp) (r : Option Recipe) (tsA tsB tsOut : Int) : Location :=
  Sys2Proof.Machine.locate (classesOf (o.outCells tsOut)) (o.predict r tsA tsB)

/-- The observed residue plus delta of each element that a location names (R204). -/
def LOp.observedAt (o : LOp) (loc : Location) (tsOut : Int) : List Cell3 := (o.outCells tsOut).filter (fun c => loc.names c.row c.col)

/-! ### Special values (R146) -/

/-- Whether an operand element is a NaN, alone or by its group's scale byte; and whether a signalling one. -/
def LOp.nanEl (o : LOp) (k : Nat) (p : Nat × Nat) : Bool :=
  let reg := o.lay.region k
  (match fmtOf reg.fmt with
   | some f => (decode f p.2).isNan
   | none => false) || (scaledCode reg.fmt && lookup (o.scs k) (o.linPos k p.1 / 32) == some 0xFF)

def LOp.sigEl (o : LOp) (k : Nat) (p : Nat × Nat) : Bool :=
  match fmtOf (o.lay.region k).fmt with
  | some f => (decode f p.2).isSig
  | none => false

/-- NaN operands at one coordinate: those present, those NaN, those signalling. -/
def LOp.nanAt (o : LOp) (x : Nat) : Nat × Nat × Nat :=
  let at' := [0, 1, 2].flatMap (fun k => ((o.els k).filter (fun p => p.1 == x)).map (fun p => (o.nanEl k p, o.sigEl k p)))
  (at'.length, (at'.filter Prod.fst).length, (at'.filter Prod.snd).length)

/-- Third row of R146: a NaN operand forces output (i, j) to NaN. -/
def LOp.forced (o : LOp) (r : Option Recipe) (x : Nat) : Bool :=
  if (fmtD o.d.outFmt).kind == .int || o.d.isRoute then false
  else
    match o.sec r with
    | some (.dot _) =>
      decide (o.d.dimM ≤ 128) && decide (o.d.dimN ≤ 128) &&
        ((o.elA.any (fun p => crdRow p.1 == crdRow x && o.nanEl 0 p)) ||
          (o.elB.any (fun p => crdCol p.1 == crdCol x && o.nanEl 1 p)) ||
          (o.elC.any (fun p => p.1 == x && o.nanEl 2 p)))
    | some (.pipe _) => false
    | some (.elem nan _ _) =>
      let n := o.nanAt x
      if 5 ≤ o.elemOp r ∧ nan % 2 = 1 then decide (0 < n.2.2) || (decide (0 < n.1) && n.1 == n.2.1) else decide (0 < n.2.1)
    | some _ => decide (0 < (o.nanAt x).2.1)
    | none => false

/-- Whether an output element is a NaN or an infinity of OUT_FMT. -/
def LOp.special (o : LOp) (p : Nat × OutEl) : Bool :=
  (match fmtOf o.d.outFmt with
   | some f => isSpecialCode f p.2.code
   | none => false) || (scaledCode o.d.outFmt && lookup o.scOut (o.lay.out.pos p.1 / 32) == some 0xFF)

/-- A number placed in a rising list. -/
def insertNat (a : Nat) : List Nat → List Nat
  | [] => [a]
  | b :: t => if a ≤ b then a :: b :: t else b :: insertNat a t

/-- The elements with a spec mismatch, in row and column order (R146). -/
def LOp.specBad (o : LOp) (r : Option Recipe) : List Nat :=
  let bad := (o.outs.filter (fun p => p.2.spec != o.special p || (! p.2.spec && o.forced r p.1))).map Prod.fst
  bad.foldr insertNat []

/-- The value of operand `k` at a dense coordinate as seen on the operand tap, without its finite scale; a place that stores nothing is zero. -/
def LOp.valAt (o : LOp) (k row col : Nat) : Val :=
  match (o.els k).find? (fun p => o.denseAt k p.1 == some (row, col)) with
  | some p => if o.nanEl k p then .nan (o.sigEl k p) else decode (fmtD (o.lay.region k).fmt) p.2
  | none => .zero

/-- The leaves of output (i, j) of a dot product: its products, and its accumulator input (R66). -/
def LOp.leavesAt (o : LOp) (bFmt accFmt x : Nat) : List Val :=
  (List.range o.d.dimK).map (fun k =>
    (mulVal (o.valAt 0 (crdRow x) k) (if bFmt = 0 then Val.one else o.valAt 1 k (crdCol x))).1) ++
    (if accFmt = 0 then [] else [o.valAt 2 (crdRow x) (crdCol x)])

/-- Some output of a dot product meets a condition on its leaves. No output does where every operand is finite. -/
def LOp.anyLeaves (o : LOp) (r : Option Recipe) (f : List Val → Bool) : Bool :=
  match o.sec r with
  | some (.dot d) =>
    ! o.d.isRoute && [0, 1, 2].any (fun k => (o.els k).any (fun p => ! (decode (fmtD (o.lay.region k).fmt) p.2).isFin)) &&
      o.outs.any (fun p => f (o.leavesAt d.bFmt d.accFmt p.1))
  | _ => false

/-- Rows 2 and 3 of R66 for infinite leaves: row 3 where they have one sign. -/
def infRow3 (vs : List Val) : Bool :=
  ! vs.any Val.isNan && vs.any Val.isInf && ! (vs.contains (.inf true) && vs.contains (.inf false))

/-- Ops with a NaN source or result (R48, R155), a NaN product of row 1 of R66 among them. -/
def LOp.hasNan (o : LOp) (r : Option Recipe) : Bool :=
  [0, 1, 2].any (fun k => (o.els k).any (o.nanEl k)) || o.outs.any (fun p =>
    (match fmtOf o.d.outFmt with
     | some f => (decode f p.2.code).isNan
     | none => false) || (scaledCode o.d.outFmt && lookup o.scOut (o.lay.out.pos p.1 / 32) == some 0xFF)) ||
    o.anyLeaves r (fun vs => vs.any Val.isNan)

/-- Ops with an infinite result (R155): an infinity of OUT_FMT, or row 3 of R66 whatever the format. -/
def LOp.hasInf (o : LOp) (r : Option Recipe) : Bool :=
  o.outs.any (fun p =>
    match fmtOf o.d.outFmt with
    | some f => (decode f p.2.code).isInf
    | none => false) || o.anyLeaves r infRow3

/-! ### Converter max (R64) -/

/-- The magnitudes of the finite decoded outputs with the scales that apply to each. -/
def LOp.finiteOuts (o : LOp) (ts : Int) : List (Val × Int) :=
  o.outs.filterMap (fun p =>
    (scaleAt o.d.outFmt ts o.scOut (o.lay.out.pos p.1)).bind (fun t =>
      match (decode (fmtD o.d.outFmt) p.2.code).scale t with
      | .fin _ k e => some (.fin false k e, t)
      | _ => none))

/-- The entry of largest magnitude. -/
def largest : List (Val × Int) → Option (Val × Int)
  | [] => none
  | x :: t =>
    match largest t with
    | none => some x
    | some y => if magLe y.1 x.1 then some x else some y

/-- R64, R65: the cross-check fails. -/
def LOp.cmxBad (o : LOp) (ts : Int) : Bool :=
  match o.cmx with
  | none => false
  | some m =>
    o.needCmx && ! maxtapOk m ((largest (o.finiteOuts ts)).map Prod.fst) o.flags
      (fmtD o.d.outFmt) (((largest (o.finiteOuts ts)).map Prod.snd).getD 0)

/-! ### The residue buffer (R136, R137, R139, R145) -/

/-- Whether the residue of an element is known: its scale byte and its index entry have been seen. -/
def LOp.known (o : LOp) (k : Nat) (p : Nat × Nat) : Bool :=
  (o.denseAt k p.1).isSome && (! scaledCode (o.lay.region k).fmt || (lookup (o.scs k) (o.linPos k p.1 / 32)).isSome)

/-- Whether one half of slice `k` is complete: all of column k of A or row k of B, or every line of a sparse operand. -/
def LOp.halfDone (o : LOp) (side k : Nat) : Bool :=
  let reg := o.lay.region side
  if o.sparse side then
    (List.range (o.lines side)).all (fun l => ! ixLineShort (o.inLine side l) (o.ixLine side l)) && (o.els side).all (o.known side)
  else if ! reg.present then true
  else
    let n := if side = 0 then reg.rows else reg.cols
    let got := (o.els side).filter (fun p => reg.holds p.1 && (if side = 0 then crdCol p.1 else crdRow p.1) == k && o.known side p)
    decide (n ≤ got.length)

/-- Entries that an op holds in the residue buffer. -/
def LOp.waiting (o : LOp) : Nat :=
  let r := o.rcp
  if o.resOff || o.d.isRoute || o.mortarOnly r || o.accept == .descErr || o.done then 0
  else
    let unpaired := ((o.ixA.filter (fun p => ! ixNone p.2 && (lookup o.elA (crd (crdRow p.1) (crdCol p.1))).isNone)).length) +
      ((o.ixB.filter (fun p => ! ixNone p.2 && (lookup o.elB (crd (crdCol p.1) (crdRow p.1))).isNone)).length)
    match o.sec r with
    | some (.dot _) =>
      let done (k : Nat) : Bool := o.halfDone 0 k && o.halfDone 1 k
      let waits (side : Nat) : Nat := ((o.els side).filter (fun p =>
        match o.denseAt side p.1 with
        | some c => ! done (if side = 0 then c.2 else c.1)
        | none => true)).length
      waits 0 + waits 1 + (o.elC.filter (fun p => ! o.known 2 p)).length + unpaired
    | some (.elem _ _ _) =>
      let need := [0, 1, 2].filter (fun k => (o.lay.region k).present)
      let ready (x : Nat) : Bool := need.all (fun k => (o.els k).any (fun p => p.1 == x && o.known k p))
      (need.map (fun k => ((o.els k).filter (fun p => ! ready p.1)).length)).foldl (· + ·) 0
    | _ => (o.elA.filter (fun p => ! o.known 0 p)).length + unpaired

/-! ### Location capture (R157, R509) -/

/-- The lowest set bit of a mask of 128 classes. -/
def lowBit (m : Nat) : Nat := ((List.range 128).find? (fun i => bitAt m i == 1)).getD 0

/-- KIND, ROW, COL and SYNDROME of LDL_LOC_OP to LDL_LOC_SYN for a failed op. -/
def LOp.locOf (o : LOp) (loc : Location) : Option (Nat × Nat × Nat × Nat) :=
  match o.badIx, loc, o.specEls with
  | some x, _, _ => some (4, crdRow x, crdCol x, 0)
  | none, .located (e :: _), _ => some (1, e.row, e.col, e.val)
  | none, .unlocated rm cm syn, _ => some (2, lowBit rm, lowBit cm, syn)
  | none, _, (r, c) :: _ => some (3, r, c, 0)
  | none, _, [] => none

end Sys2Proof.Machine
end

