-- ==== Sys2Proof/Machine/RegMap.lean ====
section
/-! DEFINITION. The register map (19_register_index, R498, R499): the address of every register and counter, and for
every register that has stored fields its reset value and the masks of its RW, W1C and RWL fields (R9). A Ladle
register is written at the address of tile 0, a station register at that of station 0. -/

namespace Sys2Proof.Machine.Reg

abbrev hubVersion : Nat := 0x0
abbrev hubConfig : Nat := 0x4
abbrev hubTimeLo : Nat := 0x8
abbrev hubTimeHi : Nat := 0xC
abbrev hubRcpBase : Nat := 0x108
abbrev hubRcpSel : Nat := 0x100
abbrev hubRcpInfo : Nat := 0x104
abbrev ldlTapErr : Nat := 0x400088
abbrev ldlTapErrtag : Nat := 0x40008C
abbrev ldlStatus : Nat := 0x400000
abbrev ldlLocOp : Nat := 0x400040
abbrev ldlLocPos : Nat := 0x400044
abbrev ldlLocSyn : Nat := 0x400048
abbrev ldlLocCtx : Nat := 0x40004C
abbrev ldlCntClr : Nat := 0x400004
abbrev hubSealCntClr : Nat := 0x2BC
abbrev hubSealStatus : Nat := 0x200
abbrev hubSealCapBlk : Nat := 0x204
abbrev hubSealCapInfo : Nat := 0x208
abbrev hubSealCapBcvLo : Nat := 0x20C
abbrev hubSealCapBcvHi : Nat := 0x210
abbrev hubSealCapCtx : Nat := 0x214
abbrev hubRteCap : Nat := 0x220
abbrev hubRteCapCtx : Nat := 0x224
abbrev hubRteCapStep : Nat := 0x228
abbrev hubScrubCtrl : Nat := 0x2C0
abbrev hubScrubFirst : Nat := 0x2C4
abbrev hubScrubLast : Nat := 0x2C8
abbrev hubScrubPos : Nat := 0x2CC
abbrev mtrStatus : Nat := 0x40000
abbrev mtrLaneCtrl : Nat := 0x40004
abbrev mtrQueue : Nat := 0x40008
abbrev mtrArbCapOp : Nat := 0x40010
abbrev mtrArbCapCtx : Nat := 0x40014
abbrev mtrArbCapStep : Nat := 0x40018
abbrev mtrArbCapTile : Nat := 0x4001C
abbrev hubSieveSeedLo : Nat := 0x300
abbrev hubSieveSeedHi : Nat := 0x304
abbrev hubSieveRate : Nat := 0x308
abbrev hubSieveRate64 : Nat := 0x30C
abbrev hubSieveCfg : Nat := 0x310
abbrev hubSieveSpillBase : Nat := 0x314
abbrev hubSieveSpillSize : Nat := 0x318
abbrev hubSieveBound : Nat := 0x320
abbrev hubSieveDeficit : Nat := 0x324
abbrev hubSieveModelSel : Nat := 0x328
abbrev hubSieveModelULo : Nat := 0x32C
abbrev hubSieveModelUHi : Nat := 0x330
abbrev hubSieveModelV : Nat := 0x334
abbrev hubSieveModelF : Nat := 0x338
abbrev hubSieveClr : Nat := 0x340
abbrev lidCtrl : Nat := 0x30000
abbrev lidStatus : Nat := 0x30004
abbrev lidLedgerBase : Nat := 0x30008
abbrev lidLedgerSize : Nat := 0x3000C
abbrev lidCtxSel : Nat := 0x30010
abbrev lidCtxInfo : Nat := 0x30014
abbrev lidCtxCommitted : Nat := 0x30018
abbrev lidSlotInfo : Nat := 0x3001C
abbrev lidSlotStep : Nat := 0x30020
abbrev lidCapInfo : Nat := 0x30030
abbrev lidCapCtx : Nat := 0x30034
abbrev lidCapStep : Nat := 0x30038
abbrev sckSel : Nat := 0x60000
abbrev sckEntry : Nat := 0x60004
abbrev sckScales : Nat := 0x60008
abbrev sckHist : Nat := 0x6000C
abbrev hubSisSaveBase : Nat := 0x400
abbrev hubSisStatus : Nat := 0x404
abbrev hubSisThreadSel : Nat := 0x408
abbrev hubSisThread : Nat := 0x40C
abbrev hubSisThreadPc : Nat := 0x410
abbrev ktlStatus : Nat := 0x50000
abbrev ktlWdog : Nat := 0x50004
abbrev ktlBoot : Nat := 0x50008
abbrev ktlFwVersion : Nat := 0x5000C
abbrev ktlAct : Nat := 0x50010
abbrev ktlRingSel : Nat := 0x50020
abbrev ktlRingBase : Nat := 0x50024
abbrev ktlRingCfg : Nat := 0x50028
abbrev ktlRingCtx : Nat := 0x5002C
abbrev ktlRingPtr : Nat := 0x50030
abbrev ktlCringBase : Nat := 0x50034
abbrev ktlCringPtr : Nat := 0x50038
abbrev ktlDb : Nat := 0x50100
abbrev ktlCdb : Nat := 0x50104
abbrev ktlStageBlk : Nat := 0x50040
abbrev ktlStageLen : Nat := 0x50044
abbrev ktlStageGo : Nat := 0x50048
abbrev ktlStageStatus : Nat := 0x5004C
abbrev hubJrnlBase : Nat := 0x500
abbrev hubJrnlNextLo : Nat := 0x504
abbrev hubJrnlNextHi : Nat := 0x508
abbrev hubJrnlStatus : Nat := 0x50C
abbrev hubJrnlWin : Nat := 0x2000
abbrev hubMode : Nat := 0x600
abbrev hubPairCtrl : Nat := 0x610
abbrev hubPairBase : Nat := 0x614
abbrev hubPairStatus : Nat := 0x618
abbrev hubPairCap : Nat := 0x61C
abbrev hubPairCapCtx : Nat := 0x620
abbrev hubPairCapStep : Nat := 0x624
abbrev hubPairCapBkt : Nat := 0x628
abbrev hubPairCapLocLo : Nat := 0x62C
abbrev hubPairCapLocHi : Nat := 0x630
abbrev hubPairCapPtnLo : Nat := 0x634
abbrev hubPairCapPtnHi : Nat := 0x638
abbrev hubProvBase : Nat := 0x680
abbrev hubProvSize : Nat := 0x684
abbrev hubProvNextLo : Nat := 0x688
abbrev hubProvNextHi : Nat := 0x68C
abbrev hubPeerAgent : Nat := 0x700
abbrev hubShape : Nat := 0x704
abbrev hubBuddyMap : Nat := 0x708
abbrev hubBuddyCtrl : Nat := 0x70C
abbrev hubHoldFirst : Nat := 0x710
abbrev hubHoldLast : Nat := 0x714
abbrev hubPeerRxBase : Nat := 0x718
abbrev hubPeerRxPtr : Nat := 0x71C
abbrev hubCkptStatus : Nat := 0x720
abbrev hubCkptCap : Nat := 0x724
abbrev hubCkptCapStep : Nat := 0x728
abbrev hubCkptPub : Nat := 0x740
abbrev hubCkptEndorse : Nat := 0x7A0
abbrev hubWhiskCtrl : Nat := 0x900
abbrev hubWhiskRate : Nat := 0x904
abbrev hubWhiskStatus : Nat := 0x908
abbrev hubTcInfo : Nat := 0x90C
abbrev hubTcBase : Nat := 0x910
abbrev hubSuspWeight0 : Nat := 0x920
abbrev hubSuspWeight1 : Nat := 0x924
abbrev hubSuspWeight2 : Nat := 0x928
abbrev hubSuspThresh : Nat := 0x92C
abbrev hubSuspCfg : Nat := 0x930
abbrev hubSuspStatus : Nat := 0x934
abbrev hubQuarStatus : Nat := 0x938
abbrev colStatus : Nat := 0x10000
abbrev colCtrl : Nat := 0x10004
abbrev colSafe : Nat := 0x10008
abbrev colSelf : Nat := 0x1000C
abbrev colCapSrc : Nat := 0x10010
abbrev colCapAddrLo : Nat := 0x10014
abbrev colCapAddrHi : Nat := 0x10018
abbrev colCapMaster : Nat := 0x1001C
abbrev colCapTimeLo : Nat := 0x10020
abbrev colCapTimeHi : Nat := 0x10024
abbrev colStnErrLo : Nat := 0x11000
abbrev colStnErrHi : Nat := 0x11004
abbrev colStnWireLo : Nat := 0x11008
abbrev colStnWireHi : Nat := 0x1100C
abbrev colStnLvlLo : Nat := 0x11010
abbrev colStnLvlHi : Nat := 0x11014
abbrev colStnEnLo : Nat := 0x11018
abbrev colStnEnHi : Nat := 0x1101C
abbrev colStnClass0 : Nat := 0x11020
abbrev colCntGlitch : Nat := 0x11040
abbrev hubWatchCtrl : Nat := 0xA00
abbrev hubWatchStatus : Nat := 0xA04
abbrev hubWatchDomSel : Nat := 0xA14
abbrev hubWatchDom : Nat := 0xA18
abbrev hubRstSel : Nat := 0xB04
abbrev hubRstStatus : Nat := 0xB00
abbrev hubCflStatus : Nat := 0xB08
abbrev hubDumpStatus : Nat := 0xC00
abbrev hubDumpAddr : Nat := 0xC04
abbrev hubDumpData : Nat := 0xC08
abbrev hubDumpListBase : Nat := 0xC0C
abbrev hubDumpListCount : Nat := 0xC10
abbrev hubWatchCap : Nat := 0xA08
abbrev hubWatchCapTimeLo : Nat := 0xA0C
abbrev hubWatchCapTimeHi : Nat := 0xA10
abbrev trvStatus : Nat := 0x20000
abbrev trvHard : Nat := 0x20004
abbrev trvHard2 : Nat := 0x20008
abbrev trvGrant : Nat := 0x2000C
abbrev trvPower : Nat := 0x20010
abbrev trvPlimit : Nat := 0x20014
abbrev trvPwrDom : Nat := 0x20018
abbrev trvZoneSel : Nat := 0x20020
abbrev trvZoneTemp : Nat := 0x20024
abbrev trvZoneThr : Nat := 0x20028
abbrev trvZoneDom : Nat := 0x2002C
abbrev trvDomSel : Nat := 0x20030
abbrev trvDomLevel : Nat := 0x20034
abbrev trvPartSel : Nat := 0x20038
abbrev trvPart : Nat := 0x2003C
abbrev trvBudgetCap : Nat := 0x20040
abbrev trvCurveBlk : Nat := 0x20050
abbrev trvCurveCtrl : Nat := 0x20054
abbrev trvCurveInfo : Nat := 0x20058
abbrev trvTripCap : Nat := 0x20060
abbrev trvTripTimeLo : Nat := 0x20064
abbrev trvTripTimeHi : Nat := 0x20068
abbrev trvTripClr : Nat := 0x2006C
abbrev trvAvs : Nat := 0x20078
abbrev hubPortCfg : Nat := 0xD00
abbrev hubPortStatus : Nat := 0xD04
abbrev hubAtbCtrl : Nat := 0xD08
abbrev hubBringStatus : Nat := 0xE00
abbrev hubBringCtrl : Nat := 0xE04
abbrev hubBringExpLo : Nat := 0xE08
abbrev hubBringExpHi : Nat := 0xE0C
abbrev hubPartMapLo : Nat := 0xE10
abbrev hubPartMapHi : Nat := 0xE14
abbrev hubDefectSel : Nat := 0xE20
abbrev hubDefectInfo : Nat := 0xE24
abbrev hubDefectCtrl : Nat := 0xE28
abbrev hubBringLog : Nat := 0x1000

/-! Clear registers with the layout of R183, and the integration registers of R126 and R127. -/
abbrev mtrCntClr : Nat := 0x40080
abbrev lidCntClr : Nat := 0x30080
abbrev sckCntClr : Nat := 0x60080
abbrev hubSisCntClr : Nat := 0x47C
abbrev ktlCntClr : Nat := 0x500FC
abbrev hubJrnlCntClr : Nat := 0x514
abbrev hubPairCntClr : Nat := 0x67C
abbrev hubCkptCntClr : Nat := 0x87C
abbrev hubFtCntClr : Nat := 0x97C
abbrev colCntClr : Nat := 0x10080
abbrev hubRcvCntClr : Nat := 0xC7C
abbrev trvCntClr : Nat := 0x20080
abbrev hubPortCntClr : Nat := 0xD7C
abbrev hubBringCntClr : Nat := 0xE7C
abbrev ldlTapId : Nat := 0x400080
abbrev ldlTapPlan : Nat := 0x400084

/-! Counters: R155, R182, R215, R242, R274, R306, R328, R357, R378, R399, R400, R424, R445, R481, R497. -/
abbrev ldlCntOps : Nat := 0x400100
abbrev ldlCntElements : Nat := 0x400104
abbrev ldlCntRespass : Nat := 0x400108
abbrev ldlCntResfail : Nat := 0x40010C
abbrev ldlCntLocated : Nat := 0x400110
abbrev ldlCntUnlocated : Nat := 0x400114
abbrev ldlCntSpec : Nat := 0x400118
abbrev ldlCntSpecerr : Nat := 0x40011C
abbrev ldlCntNan : Nat := 0x400120
abbrev ldlCntInvalid : Nat := 0x400124
abbrev ldlCntInf : Nat := 0x400128
abbrev ldlCntSat : Nat := 0x40012C
abbrev ldlCntMaxtap : Nat := 0x400130
abbrev ldlCntIndex : Nat := 0x400134
abbrev ldlCntMortaronly : Nat := 0x400138
abbrev ldlCntBufovf : Nat := 0x40013C
abbrev ldlCntLate : Nat := 0x400140
abbrev ldlCntDescerr : Nat := 0x400144
abbrev ldlCntStale : Nat := 0x400148
abbrev ldlCntTaperr : Nat := 0x40014C
abbrev ldlCntOperand : Nat := 0x400150
abbrev ldlCntEgress : Nat := 0x400154
abbrev ldlCntSeal : Nat := 0x400158
abbrev ldlCntAbandoned : Nat := 0x40015C
abbrev ldlCntKat : Nat := 0x400160
abbrev ldlCntKatfail : Nat := 0x400164
abbrev ldlCntRoute : Nat := 0x400168
abbrev hubCntBlkVerified : Nat := 0x240
abbrev hubCntScrubFail : Nat := 0x268
abbrev hubCntSealPath : Nat := 0x244
abbrev hubCntRtePass : Nat := 0x26C
abbrev hubCntSealOrder : Nat := 0x248
abbrev hubCntRteShape : Nat := 0x270
abbrev hubCntSealMem : Nat := 0x24C
abbrev hubCntRteMember : Nat := 0x274
abbrev hubCntSealUsage : Nat := 0x250
abbrev hubCntRteCount : Nat := 0x278
abbrev hubCntSealUnreach : Nat := 0x254
abbrev hubCntRteToken : Nat := 0x27C
abbrev hubCntPoisoned : Nat := 0x258
abbrev hubCntRteRoute : Nat := 0x280
abbrev hubCntCtxKilled : Nat := 0x25C
abbrev hubCntRteIncomplete : Nat := 0x284
abbrev hubCntRewriteDrop : Nat := 0x260
abbrev hubCntRteFull : Nat := 0x288
abbrev hubCntScrubBlocks : Nat := 0x264
abbrev mtrCntSamples : Nat := 0x40100
abbrev mtrCntArbChecker : Nat := 0x40124
abbrev mtrCntSmpAgree : Nat := 0x40104
abbrev mtrCntArbEngine : Nat := 0x40128
abbrev mtrCntSmpEngine : Nat := 0x40108
abbrev mtrCntArbTap : Nat := 0x4012C
abbrev mtrCntLaneFault : Nat := 0x4010C
abbrev mtrCntArbBoth : Nat := 0x40130
abbrev mtrCntDropAge : Nat := 0x40110
abbrev mtrCntArbMortar : Nat := 0x40134
abbrev mtrCntDropFull : Nat := 0x40114
abbrev mtrCntArbUnresolved : Nat := 0x40138
abbrev mtrCntSpill : Nat := 0x40118
abbrev mtrCntKatVectors : Nat := 0x4013C
abbrev mtrCntFetchFail : Nat := 0x4011C
abbrev mtrCntOverflow : Nat := 0x40140
abbrev mtrCntArb : Nat := 0x40120
abbrev mtrCntNolane : Nat := 0x40144
abbrev lidCntOpened : Nat := 0x30100
abbrev lidCntHold : Nat := 0x3011C
abbrev lidCntCommitted : Nat := 0x30104
abbrev lidCntOrder : Nat := 0x30120
abbrev lidCntAbandoned : Nat := 0x30108
abbrev lidCntBucket : Nat := 0x30124
abbrev lidCntReplays : Nat := 0x3010C
abbrev lidCntGateDrop : Nat := 0x30128
abbrev lidCntNulled : Nat := 0x30110
abbrev sckCntUpdates : Nat := 0x60100
abbrev lidCntReleased : Nat := 0x30114
abbrev sckCntInf : Nat := 0x60104
abbrev lidCntFull : Nat := 0x30118
abbrev sckCntClamp : Nat := 0x60108
abbrev hubCntPrograms : Nat := 0x440
abbrev hubCntProgFailed : Nat := 0x444
abbrev hubCntCmd : Nat := 0x448
abbrev hubCntRejected : Nat := 0x44C
abbrev hubCntSwaps : Nat := 0x450
abbrev hubCntRcpLoaded : Nat := 0x454
abbrev hubCntRcpRefused : Nat := 0x458
abbrev hubCntRcpKatFail : Nat := 0x45C
abbrev ktlCntTaken : Nat := 0x50080
abbrev ktlCntRefused : Nat := 0x50084
abbrev ktlCntDberr : Nat := 0x50088
abbrev ktlCntRestart : Nat := 0x5008C
abbrev ktlCntFwact : Nat := 0x50090
abbrev ktlCntDefer : Nat := 0x50094
abbrev hubCntJrnlLost : Nat := 0x510
abbrev hubCntPairGroups : Nat := 0x640
abbrev hubCntPairDiverge : Nat := 0x644
abbrev hubCntPairLost : Nat := 0x648
abbrev hubCntPairDiscard : Nat := 0x64C
abbrev hubCntProvRecords : Nat := 0x650
abbrev hubCntPeerRx : Nat := 0x800
abbrev hubCntCkptWritten : Nat := 0x814
abbrev hubCntPeerDiscard : Nat := 0x804
abbrev hubCntCkptRefused : Nat := 0x818
abbrev hubCntMirrors : Nat := 0x808
abbrev hubCntRestored : Nat := 0x81C
abbrev hubCntMirrorNak : Nat := 0x80C
abbrev hubCntBuddyLost : Nat := 0x810
abbrev hubCntWhiskRuns : Nat := 0x940
abbrev hubCntSuspEvict : Nat := 0x95C
abbrev hubCntWhiskPass : Nat := 0x944
abbrev hubCntQuar : Nat := 0x960
abbrev hubCntWhiskFail : Nat := 0x948
abbrev hubCntSubst : Nat := 0x964
abbrev hubCntWhiskSilent : Nat := 0x94C
abbrev hubCntTcLoaded : Nat := 0x968
abbrev hubCntWhiskChecker : Nat := 0x950
abbrev hubCntTcRefused : Nat := 0x96C
abbrev hubCntWhiskAbandoned : Nat := 0x954
abbrev hubCntSuspObs : Nat := 0x958
abbrev colCntCe : Nat := 0x10100
abbrev colCntUc : Nat := 0x10104
abbrev colCntFa : Nat := 0x10108
abbrev colCntWire : Nat := 0x1010C
abbrev colCntMulti : Nat := 0x10110
abbrev colCntNoinfo : Nat := 0x10114
abbrev colCntSafe : Nat := 0x10118
abbrev hubCntHang : Nat := 0xC40
abbrev hubCntCflPass : Nat := 0xC58
abbrev hubCntRstTile : Nat := 0xC44
abbrev hubCntCflDrop : Nat := 0xC5C
abbrev hubCntRstCluster : Nat := 0xC48
abbrev hubCntCflLate : Nat := 0xC60
abbrev hubCntRstPart : Nat := 0xC4C
abbrev hubCntTeardown : Nat := 0xC64
abbrev hubCntRstCompute : Nat := 0xC50
abbrev hubCntDump : Nat := 0xC68
abbrev hubCntAbsorb : Nat := 0xC54
abbrev hubCntDumpUnreach : Nat := 0xC6C
abbrev trvCntWarn : Nat := 0x20100
abbrev trvCntSensorFail : Nat := 0x20114
abbrev trvCntThrottle : Nat := 0x20104
abbrev trvCntPmbErr : Nat := 0x20118
abbrev trvCntShutdown : Nat := 0x20108
abbrev trvCntHeld : Nat := 0x2011C
abbrev trvCntRise : Nat := 0x2010C
abbrev trvCntCurveLoaded : Nat := 0x20120
abbrev trvCntPower : Nat := 0x20110
abbrev trvCntCurveRefused : Nat := 0x20124
abbrev hubCntRegErr : Nat := 0xD40
abbrev hubCntMemNomatch : Nat := 0xD50
abbrev hubCntMemTimeout : Nat := 0xD44
abbrev hubCntMemDecode : Nat := 0xD54
abbrev hubCntMemLate : Nat := 0xD48
abbrev hubCntMemUe : Nat := 0xD4C
abbrev hubCntBringPass : Nat := 0xE40
abbrev hubCntLinkUnread : Nat := 0xE50
abbrev hubCntBringFuseBad : Nat := 0xE44
abbrev hubCntLinkDown : Nat := 0xE54
abbrev hubCntBringTestBad : Nat := 0xE48
abbrev hubCntLinkHigh : Nat := 0xE58
abbrev hubCntBringListed : Nat := 0xE4C

end Sys2Proof.Machine.Reg

namespace Sys2Proof.Machine

/-- One register, or a run of `count` registers 4 bytes apart: reset value of its stored fields and its masks. -/
structure RegRow where
  addr : Nat
  count : Nat
  reset : Nat
  rw : Nat
  w1c : Nat
  rwl : Nat
  deriving DecidableEq, Repr

/-- Hub registers in address order, part 1. -/
def regRowsHub0 : List RegRow := [
  ⟨Reg.hubVersion, 1, 0x0, 0x0, 0x0, 0x0⟩,
  ⟨Reg.hubConfig, 1, 0x0, 0x0, 0x0, 0x0⟩,
  ⟨Reg.hubTimeLo, 1, 0x0, 0x0, 0x0, 0x0⟩,
  ⟨Reg.hubTimeHi, 1, 0x0, 0x0, 0x0, 0x0⟩,
  ⟨Reg.hubRcpSel, 1, 0x0, 0xFF, 0x0, 0x0⟩,
  ⟨Reg.hubRcpInfo, 1, 0x0, 0x0, 0x0, 0x0⟩,
  ⟨Reg.hubRcpBase, 1, 0x0, 0xFFFFFFFF, 0x0, 0x0⟩,
  ⟨Reg.hubSealStatus, 1, 0x0, 0x0, 0xFF, 0x0⟩,
  ⟨Reg.hubSealCapBlk, 1, 0x0, 0x0, 0x0, 0x0⟩,
  ⟨Reg.hubSealCapInfo, 1, 0x0, 0x0, 0x0, 0x0⟩,
  ⟨Reg.hubSealCapBcvLo, 1, 0x0, 0x0, 0x0, 0x0⟩,
  ⟨Reg.hubSealCapBcvHi, 1, 0x0, 0x0, 0x0, 0x0⟩,
  ⟨Reg.hubSealCapCtx, 1, 0x0, 0x0, 0x0, 0x0⟩,
  ⟨Reg.hubRteCap, 1, 0x0, 0x0, 0x0, 0x0⟩,
  ⟨Reg.hubRteCapCtx, 1, 0x0, 0x0, 0x0, 0x0⟩,
  ⟨Reg.hubRteCapStep, 1, 0x0, 0x0, 0x0, 0x0⟩,
  ⟨Reg.hubSealCntClr, 1, 0x0, 0x0, 0x0, 0x0⟩,
  ⟨Reg.hubScrubCtrl, 1, 0x1000, 0xFF01, 0x0, 0x0⟩,
  ⟨Reg.hubScrubFirst, 1, 0x0, 0xFFFFFFFF, 0x0, 0x0⟩,
  ⟨Reg.hubScrubLast, 1, 0x0, 0xFFFFFFFF, 0x0, 0x0⟩,
  ⟨Reg.hubScrubPos, 1, 0x0, 0x0, 0x0, 0x0⟩,
  ⟨Reg.hubSieveSeedLo, 1, 0x0, 0x0, 0x0, 0x0⟩,
  ⟨Reg.hubSieveSeedHi, 1, 0x0, 0x0, 0x0, 0x0⟩,
  ⟨Reg.hubSieveRate, 1, 0x40000400, 0xFFFFFFFF, 0x0, 0x0⟩,
  ⟨Reg.hubSieveRate64, 1, 0x100, 0xFFFF, 0x0, 0x0⟩,
  ⟨Reg.hubSieveCfg, 1, 0x8, 0x7F, 0x0, 0x0⟩,
  ⟨Reg.hubSieveSpillBase, 1, 0x0, 0xFFFFFFFF, 0x0, 0x0⟩,
  ⟨Reg.hubSieveSpillSize, 1, 0x0, 0x1FF, 0x0, 0x0⟩,
  ⟨Reg.hubSieveBound, 1, 0x0, 0x0, 0x0, 0x0⟩,
  ⟨Reg.hubSieveDeficit, 1, 0x0, 0x0, 0x0, 0x0⟩,
  ⟨Reg.hubSieveModelSel, 1, 0x1, 0x7, 0x0, 0x0⟩,
  ⟨Reg.hubSieveModelULo, 1, 0x0, 0xFFFFFFFF, 0x0, 0x0⟩,
  ⟨Reg.hubSieveModelUHi, 1, 0x0, 0xFFFFFFFF, 0x0, 0x0⟩,
  ⟨Reg.hubSieveModelV, 1, 0x0, 0xFFFFFFFF, 0x0, 0x0⟩,
  ⟨Reg.hubSieveModelF, 1, 0x0, 0xFFFF, 0x0, 0x0⟩,
  ⟨Reg.hubSieveClr, 1, 0x0, 0x0, 0x0, 0x0⟩,
  ⟨Reg.hubSisSaveBase, 1, 0x0, 0xFFFFFFFF, 0x0, 0x0⟩,
  ⟨Reg.hubSisStatus, 1, 0x0, 0x0, 0x40, 0x0⟩,
  ⟨Reg.hubSisThreadSel, 1, 0x0, 0x1F, 0x0, 0x0⟩,
  ⟨Reg.hubSisThread, 1, 0x0, 0x0, 0x0, 0x0⟩]

/-- Hub registers in address order, part 2. -/
def regRowsHub1 : List RegRow := [
  ⟨Reg.hubSisThreadPc, 1, 0x0, 0x0, 0x0, 0x0⟩,
  ⟨Reg.hubJrnlBase, 1, 0x0, 0x0, 0x0, 0xFFFFFFFF⟩,
  ⟨Reg.hubJrnlNextLo, 1, 0x0, 0x0, 0x0, 0x0⟩,
  ⟨Reg.hubJrnlNextHi, 1, 0x0, 0x0, 0x0, 0x0⟩,
  ⟨Reg.hubJrnlStatus, 1, 0x0, 0x0, 0x2, 0x0⟩,
  ⟨Reg.hubMode, 1, 0x0, 0x0, 0x0, 0x0⟩,
  ⟨Reg.hubPairCtrl, 1, 0x1064, 0x1FFF, 0x0, 0x0⟩,
  ⟨Reg.hubPairBase, 1, 0x0, 0xFFFFFFFF, 0x0, 0x0⟩,
  ⟨Reg.hubPairStatus, 1, 0x0, 0x0, 0x7, 0x0⟩,
  ⟨Reg.hubPairCap, 1, 0x0, 0x0, 0x0, 0x0⟩,
  ⟨Reg.hubPairCapCtx, 1, 0x0, 0x0, 0x0, 0x0⟩,
  ⟨Reg.hubPairCapStep, 1, 0x0, 0x0, 0x0, 0x0⟩,
  ⟨Reg.hubPairCapBkt, 1, 0x0, 0x0, 0x0, 0x0⟩,
  ⟨Reg.hubPairCapLocLo, 1, 0x0, 0x0, 0x0, 0x0⟩,
  ⟨Reg.hubPairCapLocHi, 1, 0x0, 0x0, 0x0, 0x0⟩,
  ⟨Reg.hubPairCapPtnLo, 1, 0x0, 0x0, 0x0, 0x0⟩,
  ⟨Reg.hubPairCapPtnHi, 1, 0x0, 0x0, 0x0, 0x0⟩,
  ⟨Reg.hubProvBase, 1, 0x0, 0xFFFFFFFF, 0x0, 0x0⟩,
  ⟨Reg.hubProvSize, 1, 0x0, 0xFFFF, 0x0, 0x0⟩,
  ⟨Reg.hubProvNextLo, 1, 0x0, 0x0, 0x0, 0x0⟩,
  ⟨Reg.hubProvNextHi, 1, 0x0, 0x0, 0x0, 0x0⟩,
  ⟨Reg.hubPeerAgent, 1, 0x0, 0x0, 0x0, 0xFFFF⟩,
  ⟨Reg.hubShape, 1, 0x0, 0x0, 0x0, 0xFFFFFFFF⟩,
  ⟨Reg.hubBuddyMap, 1, 0x0, 0xFFFFFFFF, 0x0, 0x0⟩,
  ⟨Reg.hubBuddyCtrl, 1, 0x32, 0xFF, 0x0, 0x0⟩,
  ⟨Reg.hubHoldFirst, 1, 0x0, 0xFFFFFFFF, 0x0, 0x0⟩,
  ⟨Reg.hubHoldLast, 1, 0x0, 0xFFFFFFFF, 0x0, 0x0⟩,
  ⟨Reg.hubPeerRxBase, 1, 0x0, 0xFFFFFFFF, 0x0, 0x0⟩,
  ⟨Reg.hubPeerRxPtr, 1, 0x0, 0xFFFF, 0x0, 0x0⟩,
  ⟨Reg.hubCkptStatus, 1, 0x0, 0x0, 0x7, 0x0⟩,
  ⟨Reg.hubCkptCap, 1, 0x0, 0x0, 0x0, 0x0⟩,
  ⟨Reg.hubCkptCapStep, 1, 0x0, 0x0, 0x0, 0x0⟩,
  ⟨Reg.hubCkptPub, 24, 0x0, 0x0, 0x0, 0x0⟩,
  ⟨Reg.hubCkptEndorse, 24, 0x0, 0x0, 0x0, 0xFFFFFFFF⟩,
  ⟨Reg.hubWhiskCtrl, 1, 0x3C00C8, 0x80FFFFFF, 0x0, 0x0⟩,
  ⟨Reg.hubWhiskRate, 1, 0xE10000A, 0xFFFFFFFF, 0x0, 0x0⟩,
  ⟨Reg.hubWhiskStatus, 1, 0x0, 0x0, 0x0, 0x0⟩,
  ⟨Reg.hubTcInfo, 1, 0x0, 0x0, 0x0, 0x0⟩,
  ⟨Reg.hubTcBase, 1, 0x0, 0xFFFFFFFF, 0x0, 0x0⟩,
  ⟨Reg.hubSuspWeight0, 1, 0x10101010, 0xFFFFFFFF, 0x0, 0x0⟩]

/-- Hub registers in address order, part 3. -/
def regRowsHub2 : List RegRow := [
  ⟨Reg.hubSuspWeight1, 1, 0x18044008, 0xFFFFFFFF, 0x0, 0x0⟩,
  ⟨Reg.hubSuspWeight2, 1, 0x1040, 0xFFFF, 0x0, 0x0⟩,
  ⟨Reg.hubSuspThresh, 1, 0x400010, 0xFFFFFFFF, 0x0, 0x0⟩,
  ⟨Reg.hubSuspCfg, 1, 0x83C, 0xFFFF, 0x0, 0x0⟩,
  ⟨Reg.hubSuspStatus, 1, 0x0, 0x0, 0x7, 0x0⟩,
  ⟨Reg.hubQuarStatus, 1, 0x0, 0x0, 0x0, 0x0⟩,
  ⟨Reg.hubWatchCtrl, 1, 0x2140A64, 0xFFFFFFFF, 0x0, 0x0⟩,
  ⟨Reg.hubWatchStatus, 1, 0x0, 0x0, 0x3, 0x0⟩,
  ⟨Reg.hubWatchCap, 1, 0x0, 0x0, 0x0, 0x0⟩,
  ⟨Reg.hubWatchCapTimeLo, 1, 0x0, 0x0, 0x0, 0x0⟩,
  ⟨Reg.hubWatchCapTimeHi, 1, 0x0, 0x0, 0x0, 0x0⟩,
  ⟨Reg.hubWatchDomSel, 1, 0x0, 0xFF, 0x0, 0x0⟩,
  ⟨Reg.hubWatchDom, 1, 0x0, 0x0, 0x0, 0xFF00007F⟩,
  ⟨Reg.hubRstStatus, 1, 0x0, 0x0, 0x0, 0x0⟩,
  ⟨Reg.hubRstSel, 1, 0x0, 0x3, 0x0, 0x0⟩,
  ⟨Reg.hubCflStatus, 1, 0x0, 0x0, 0x0, 0x0⟩,
  ⟨Reg.hubDumpStatus, 1, 0x0, 0x0, 0x40000000, 0x0⟩,
  ⟨Reg.hubDumpAddr, 1, 0x0, 0xFFFC, 0x0, 0x0⟩,
  ⟨Reg.hubDumpData, 1, 0x0, 0x0, 0x0, 0x0⟩,
  ⟨Reg.hubDumpListBase, 1, 0x0, 0xFFFFFFFF, 0x0, 0x0⟩,
  ⟨Reg.hubDumpListCount, 1, 0x0, 0xFFF, 0x0, 0x0⟩,
  ⟨Reg.hubPortCfg, 1, 0x0, 0x0, 0x0, 0x0⟩,
  ⟨Reg.hubPortStatus, 1, 0x0, 0x0, 0x0, 0x0⟩,
  ⟨Reg.hubAtbCtrl, 1, 0x0, 0x7F7F, 0x0, 0x0⟩,
  ⟨Reg.hubBringStatus, 1, 0x0, 0x0, 0x2000000, 0x0⟩,
  ⟨Reg.hubBringCtrl, 1, 0x0, 0x0, 0x0, 0x0⟩,
  ⟨Reg.hubBringExpLo, 1, 0x0, 0xFFFFFFFF, 0x0, 0x0⟩,
  ⟨Reg.hubBringExpHi, 1, 0x0, 0x3F, 0x0, 0x0⟩,
  ⟨Reg.hubPartMapLo, 1, 0x0, 0xFFFFFFFF, 0x0, 0x0⟩,
  ⟨Reg.hubPartMapHi, 1, 0x0, 0xFFFFFFFF, 0x0, 0x0⟩,
  ⟨Reg.hubDefectSel, 1, 0x0, 0x7F, 0x0, 0x0⟩,
  ⟨Reg.hubDefectInfo, 1, 0x0, 0x0, 0x0, 0x0⟩,
  ⟨Reg.hubDefectCtrl, 1, 0x0, 0x0, 0x0, 0x0⟩,
  ⟨Reg.hubBringLog, 128, 0x0, 0x0, 0x0, 0x0⟩,
  ⟨Reg.hubJrnlWin, 4096, 0x0, 0x0, 0x0, 0x0⟩]

/-- Colander, Trivet, Lid, Mortar, Kettle and Scale Keeper registers in address order, part 1. -/
def regRowsSub0 : List RegRow := [
  ⟨Reg.colStatus, 1, 0x0, 0x0, 0x30018, 0x0⟩,
  ⟨Reg.colCtrl, 1, 0x1, 0x7, 0x0, 0x0⟩,
  ⟨Reg.colSafe, 1, 0x0, 0x0, 0x0, 0x0⟩,
  ⟨Reg.colSelf, 1, 0x0, 0x0, 0x0, 0x0⟩,
  ⟨Reg.colCapSrc, 1, 0x0, 0x0, 0x0, 0x0⟩,
  ⟨Reg.colCapAddrLo, 1, 0x0, 0x0, 0x0, 0x0⟩,
  ⟨Reg.colCapAddrHi, 1, 0x0, 0x0, 0x0, 0x0⟩,
  ⟨Reg.colCapMaster, 1, 0x0, 0x0, 0x0, 0x0⟩,
  ⟨Reg.colCapTimeLo, 1, 0x0, 0x0, 0x0, 0x0⟩,
  ⟨Reg.colCapTimeHi, 1, 0x0, 0x0, 0x0, 0x0⟩,
  ⟨Reg.colStnErrLo, 1, 0x0, 0x0, 0xFFFFFFFF, 0x0⟩,
  ⟨Reg.colStnErrHi, 1, 0x0, 0x0, 0xFFFFFFFF, 0x0⟩,
  ⟨Reg.colStnWireLo, 1, 0x0, 0x0, 0xFFFFFFFF, 0x0⟩,
  ⟨Reg.colStnWireHi, 1, 0x0, 0x0, 0xFFFFFFFF, 0x0⟩,
  ⟨Reg.colStnLvlLo, 1, 0x0, 0x0, 0x0, 0x0⟩,
  ⟨Reg.colStnLvlHi, 1, 0x0, 0x0, 0x0, 0x0⟩,
  ⟨Reg.colStnEnLo, 1, 0xFFFFFFFF, 0xFFFFFFFF, 0x0, 0x0⟩,
  ⟨Reg.colStnEnHi, 1, 0xFFFFFFFF, 0xFFFFFFFF, 0x0, 0x0⟩,
  ⟨Reg.colStnClass0, 4, 0xAAAAAAAA, 0x0, 0x0, 0xFFFFFFFF⟩,
  ⟨Reg.colCntGlitch, 1, 0x0, 0x0, 0x0, 0x0⟩,
  ⟨Reg.trvStatus, 1, 0x0, 0x0, 0x7F, 0x0⟩,
  ⟨Reg.trvHard, 1, 0x0, 0x0, 0x0, 0x0⟩,
  ⟨Reg.trvHard2, 1, 0x0, 0x0, 0x0, 0x0⟩,
  ⟨Reg.trvGrant, 1, 0x190, 0xFFFF, 0x0, 0x0⟩,
  ⟨Reg.trvPower, 1, 0x0, 0x0, 0x0, 0x0⟩,
  ⟨Reg.trvPlimit, 1, 0x0, 0x0, 0x0, 0x0⟩,
  ⟨Reg.trvPwrDom, 1, 0xFFFFFFFF, 0xFFFFFFFF, 0x0, 0x0⟩,
  ⟨Reg.trvZoneSel, 1, 0x0, 0x3F, 0x0, 0x0⟩,
  ⟨Reg.trvZoneTemp, 1, 0x0, 0x0, 0x0, 0x0⟩,
  ⟨Reg.trvZoneThr, 1, 0x0, 0x0, 0x0, 0x0⟩,
  ⟨Reg.trvZoneDom, 1, 0x0, 0x0, 0x0, 0x0⟩,
  ⟨Reg.trvDomSel, 1, 0x0, 0x1F, 0x0, 0x0⟩,
  ⟨Reg.trvDomLevel, 1, 0x0, 0xF0000, 0x0, 0x0⟩,
  ⟨Reg.trvPartSel, 1, 0x0, 0xF, 0x0, 0x0⟩,
  ⟨Reg.trvPart, 1, 0x0, 0xFFFFFFFF, 0x0, 0x0⟩,
  ⟨Reg.trvBudgetCap, 1, 0x7, 0x7, 0x0, 0x0⟩,
  ⟨Reg.trvCurveBlk, 1, 0x0, 0xFFFFFFFF, 0x0, 0x0⟩,
  ⟨Reg.trvCurveCtrl, 1, 0x0, 0x0, 0x0, 0x0⟩,
  ⟨Reg.trvCurveInfo, 1, 0x0, 0x0, 0x0, 0x0⟩,
  ⟨Reg.trvTripCap, 1, 0x0, 0x0, 0x0, 0x0⟩,
  ⟨Reg.trvTripTimeLo, 1, 0x0, 0x0, 0x0, 0x0⟩,
  ⟨Reg.trvTripTimeHi, 1, 0x0, 0x0, 0x0, 0x0⟩,
  ⟨Reg.trvTripClr, 1, 0x0, 0x0, 0x0, 0x0⟩,
  ⟨Reg.trvAvs, 1, 0x0, 0xF000FFFF, 0x0, 0x0⟩,
  ⟨Reg.lidCtrl, 1, 0x2, 0xF, 0x0, 0x0⟩]

/-- Colander, Trivet, Lid, Mortar, Kettle and Scale Keeper registers in address order, part 2. -/
def regRowsSub1 : List RegRow := [
  ⟨Reg.lidStatus, 1, 0x0, 0x0, 0x3, 0x0⟩,
  ⟨Reg.lidLedgerBase, 1, 0x0, 0xFFFFFFFF, 0x0, 0x0⟩,
  ⟨Reg.lidLedgerSize, 1, 0x0, 0xFFFF, 0x0, 0x0⟩,
  ⟨Reg.lidCtxSel, 1, 0x0, 0x3FFFF, 0x0, 0x0⟩,
  ⟨Reg.lidCtxInfo, 1, 0x0, 0x0, 0x0, 0x0⟩,
  ⟨Reg.lidCtxCommitted, 1, 0x0, 0x0, 0x0, 0x0⟩,
  ⟨Reg.lidSlotInfo, 1, 0x0, 0x0, 0x0, 0x0⟩,
  ⟨Reg.lidSlotStep, 1, 0x0, 0x0, 0x0, 0x0⟩,
  ⟨Reg.lidCapInfo, 1, 0x0, 0x0, 0x0, 0x0⟩,
  ⟨Reg.lidCapCtx, 1, 0x0, 0x0, 0x0, 0x0⟩,
  ⟨Reg.lidCapStep, 1, 0x0, 0x0, 0x0, 0x0⟩,
  ⟨Reg.mtrStatus, 1, 0x0, 0x0, 0x1F000, 0x0⟩,
  ⟨Reg.mtrLaneCtrl, 1, 0x0, 0x0, 0x0, 0x0⟩,
  ⟨Reg.mtrQueue, 1, 0x0, 0x0, 0x0, 0x0⟩,
  ⟨Reg.mtrArbCapOp, 1, 0x0, 0x0, 0x0, 0x0⟩,
  ⟨Reg.mtrArbCapCtx, 1, 0x0, 0x0, 0x0, 0x0⟩,
  ⟨Reg.mtrArbCapStep, 1, 0x0, 0x0, 0x0, 0x0⟩,
  ⟨Reg.mtrArbCapTile, 1, 0x0, 0x0, 0x0, 0x0⟩,
  ⟨Reg.ktlStatus, 1, 0x0, 0x0, 0xF08000, 0x0⟩,
  ⟨Reg.ktlWdog, 1, 0x32, 0xFF, 0x0, 0x0⟩,
  ⟨Reg.ktlBoot, 1, 0x0, 0x0, 0x0, 0x0⟩,
  ⟨Reg.ktlFwVersion, 1, 0x0, 0x0, 0x0, 0x0⟩,
  ⟨Reg.ktlAct, 1, 0x0, 0x0, 0x0, 0x0⟩,
  ⟨Reg.ktlRingSel, 1, 0x0, 0xF, 0x0, 0x0⟩,
  ⟨Reg.ktlRingBase, 1, 0x0, 0xFFFFFFFF, 0x0, 0x0⟩,
  ⟨Reg.ktlRingCfg, 1, 0x4, 0x8000000F, 0x0, 0x0⟩,
  ⟨Reg.ktlRingCtx, 1, 0xFFFF0001, 0xFFFFFFFF, 0x0, 0x0⟩,
  ⟨Reg.ktlRingPtr, 1, 0x0, 0x0, 0x0, 0x0⟩,
  ⟨Reg.ktlCringBase, 1, 0x0, 0xFFFFFFFF, 0x0, 0x0⟩,
  ⟨Reg.ktlCringPtr, 1, 0x0, 0x0, 0x0, 0x0⟩,
  ⟨Reg.ktlStageBlk, 1, 0x0, 0xFFFFFFFF, 0x0, 0x0⟩,
  ⟨Reg.ktlStageLen, 1, 0x0, 0x7FFFFF, 0x0, 0x0⟩,
  ⟨Reg.ktlStageGo, 1, 0x0, 0x0, 0x0, 0x0⟩,
  ⟨Reg.ktlStageStatus, 1, 0x0, 0x0, 0x0, 0x0⟩,
  ⟨Reg.ktlDb, 1, 0x0, 0x0, 0x0, 0x0⟩,
  ⟨Reg.ktlCdb, 1, 0x0, 0x0, 0x0, 0x0⟩,
  ⟨Reg.sckSel, 1, 0x0, 0x7FFFF, 0x0, 0x0⟩,
  ⟨Reg.sckEntry, 1, 0x0, 0x0, 0x0, 0x0⟩,
  ⟨Reg.sckScales, 1, 0x0, 0x0, 0x0, 0x0⟩,
  ⟨Reg.sckHist, 1, 0x0, 0x0, 0x0, 0x0⟩]

/-- Ladle registers in address order, part 1. -/
def regRowsLadle : List RegRow := [
  ⟨Reg.ldlStatus, 1, 0x0, 0x0, 0xF0, 0x0⟩,
  ⟨Reg.ldlCntClr, 1, 0x0, 0x0, 0x0, 0x0⟩,
  ⟨Reg.ldlLocOp, 1, 0x0, 0x0, 0x0, 0x0⟩,
  ⟨Reg.ldlLocPos, 1, 0x0, 0x0, 0x0, 0x0⟩,
  ⟨Reg.ldlLocSyn, 1, 0x0, 0x0, 0x0, 0x0⟩,
  ⟨Reg.ldlLocCtx, 1, 0x0, 0x0, 0x0, 0x0⟩,
  ⟨Reg.ldlTapErr, 1, 0x0, 0x0, 0x1F, 0x0⟩,
  ⟨Reg.ldlTapErrtag, 1, 0x0, 0x0, 0x0, 0x0⟩]

/-- The rows that hold address `a`; a Ladle address of any tile and a station address of any station are brought to
those of tile 0 and station 0 first. -/
def regBase (a : Nat) : Nat :=
  if 0x400000 ≤ a then 0x400000 + a % 0x1000
  else if 0x11000 ≤ a ∧ a < 0x12100 then 0x11000 + a % 0x100
  else a

/-- The tables of one sub-block, by address. -/
def regTable (a : Nat) : List RegRow :=
  if 0x400000 ≤ a then regRowsLadle
  else if 0x10000 ≤ a then regRowsSub0 ++ regRowsSub1
  else if a < 0x500 then regRowsHub0 ++ regRowsHub1
  else regRowsHub0 ++ regRowsHub1 ++ regRowsHub2

/-- The row of a register, if the map gives it stored fields. -/
def regRow (a : Nat) : Option RegRow :=
  let b := regBase a
  (regTable b).find? (fun r => decide (r.addr ≤ b) && decide (b < r.addr + 4 * r.count) && b % 4 == 0)

/-- The reset value of a stored register; a counter's and a capture's is zero. Station 16 has its own fixed fields
(R399). -/
def regReset (a : Nat) : Nat :=
  match regRow a with
  | some r => r.reset
  | none => 0

end Sys2Proof.Machine
end

