-- ==== Sys2Proof/Config.lean ====
section
/-! DEFINITION. The free values of the block: constants without a body, so that no proof can see a value of theirs.
Each is applied to the counter `State.free`, which the step that uses one advances, or to the operands it depends on.
The log entries named say what each stands for. -/

namespace Sys2Proof.Config

/-- A fresh 64-bit value that the spec leaves open. -/
opaque freeValue : Nat → BitVec 64

/-- A fresh byte that the spec leaves open. -/
opaque freeByte : Nat → BitVec 8

/-- The 8-bit CRC of an Airas ring frame over its payload and its header, which holds the sequence number (R16, log entry 105). -/
opaque airasCrc : Nat → Nat → BitVec 8

/-- The keyed hash that chooses the bank of an entry of the banked tables, of the table key and the entry's index (R29). -/
opaque bankHash : Nat → Nat → Nat

/-- What a slot of the boot flash holds before the block has read or written it: the flash is the licensee's (R295). -/
opaque flashSlot : Nat → List (BitVec 8)

/-- SHA-384 of the content key that the ROM holds (R360, log entry 91). -/
opaque contentKey : List (BitVec 8)

/-- The code in which TRV_ZONE_TEMP shows a rise, a fraction of 1/32 °C/ms, that is no whole number from 0 to 255. -/
opaque riseCode : Int → Nat → BitVec 8

end Sys2Proof.Config
end

