-- ==== Sys2Proof/Machine/State.lean ====
section
/-! DEFINITION. The state of the block as plain data, its state after block reset, and the reasons a command can stop.
Every field's default is its value at block reset; tables hold only the entries that differ from their reset value. -/

namespace Sys2Proof.Machine

/-- No command of the table ends in a fault: the spec gives each its effect. -/
inductive Fault where
  /-- Raised by no command. Safe: the model never stops with it. -/
  | unreachable
  deriving DecidableEq, Repr

/-- Reasons why a command has no meaning. -/
inductive Refusal where
  /-- Raised by `exec` alone, for a command whose meaning is not written yet. Safe: the model stops. -/
  | notModelled (mnemonic : String)
  deriving DecidableEq, Repr

/-- The block. -/
structure State where
  /-- The commands that wait, first in, first out. -/
  pending : List Instr := []
  /-- The integration of the instance and its straps (R4, R126, R127, R473, R480). -/
  cfg : Cfg := {}
  /-- The block time base in units of 10 ns (R27). -/
  time : Nat := 0
  /-- The model's own counter of free values. -/
  free : Nat := 0
  /-- The model's own trace of the beats driven on the outputs, oldest first. -/
  out : List Out := []
  /-- The stored registers, counters and captures of the register map that differ from their reset value. -/
  regs : List (Nat × Nat) := []
  /-- The selectors and read shadows by source (R500): source number times 32 plus the register's number. -/
  sel : List (Nat × Nat) := []
  /-- The RWL registers written since block reset (R9). -/
  rwl : List Nat := []
  /-- Device memory as the block's ports see it (R453): byte cells; an unlisted address reads as zero. -/
  mem : List Host.Cell := []
  /-- The sideband of each 4 KiB block (R159); an unlisted block reads as zero. -/
  sb : List (Nat × Nat) := []
  /-- The two memory ports (R452 to R457). -/
  port0 : Port := {}
  port1 : Port := {}
  /-- The ring stops of the Airas rings by physical tile (R16). -/
  stops : List (Nat × AirasStop) := []
  /-- The stop that each ring has for its station, by cluster (R15). -/
  stnStops : List (Nat × StnStop) := []
  fuse : Fuse := {}
  atb : Atb := {}
  peer : Peer := {}
  /-- TAP instruction register (R476) and the debug module's registers by DMI address. -/
  tapIr : Nat := 1
  dm : List (Nat × Nat) := []
  bring : Bring := {}
  /-- The Ladles by physical tile (03 to 06). -/
  ladles : List (Nat × Ladle) := []
  /-- Descriptors on their way to the Lid, and the Lid's answers on their way back: tile and the op's number. -/
  lidQ : List (Nat × Nat) := []
  answers : List (Nat × Nat × Accept) := []
  /-- Op reports on the report path. -/
  reports : List Report := []
  /-- Recipe slots and loads (R90 to R97). -/
  rcps : List (Nat × RcpSlot) := []
  rcpLoads : List RcpLoad := []
  /-- Seals and routes (06). -/
  confirms : List Confirm := []
  sealQ : List SealJob := []
  routes : List RouteEnt := []
  /-- Reports of route ops on their way to the route table. -/
  routeQ : List Report := []
  /-- The Mortar and the Sieve (07). -/
  lanes : List Lane := [{}, {}, {}, {}]
  queue : List Job := []
  spill : List Job := []
  arbs : List Arb := []
  nextJob : Nat := 0
  /-- The lane whose turn it is in Fixed mode (R198). -/
  turn : Nat := 0
  seed : Nat := 0
  models : List (Nat × Model) := []
  escTotal : Nat := 0
  sieveT : Nat := 0
  boundAt : Nat := 0
  /-- The Lid and the Scale Keeper (08). -/
  ctxs : List (Nat × Ctx) := []
  sck : List (Nat × SckEntry) := []
  /-- Acceptances and openings of routing ops so far. -/
  lidSeq : Nat := 0
  /-- The sequencer (09). -/
  threads : List (Nat × Thread) := []
  progs : List (Nat × Program) := []
  runQ : List Nat := []
  /-- The thread that issued last, and the threads that were READY as it did (R249; log entry 132). -/
  lastIssued : Nat := 31
  readySeen : List Nat := []
  tickets : List (Nat × Ticket) := []
  /-- Rings, journal and Kettle (10). -/
  rings : List (Nat × Ring) := []
  laneSvc : List LaneSvc := []
  jseq : Nat := 1
  /-- The newest 256 journal entries, and the lowest JSEQ not yet copied to memory. -/
  journal : List JEntry := []
  jcopied : Nat := 1
  kettle : Kettle := {}
  /-- Fixed mode, pairings and provenance (11). -/
  fixed : Bool := false
  pairings : List Pairing := []
  provNext : Nat := 0
  /-- The manifest queue (12). -/
  ckptQ : List CkptJob := []
  /-- Field tests and suspects (13). -/
  banks : List Content := [{}, {}]
  bank : Nat := 0
  tcLoad : Option TcLoad := none
  tcReady : Bool := false
  whiskQ : List WhiskRun := []
  whisk : List WhiskRun := []
  nextWhisk : Nat := 0
  testedAt : List (Nat × Nat) := []
  susp : List (Nat × Susp) := []
  halvedAt : Nat := 0
  tileMap : List (Nat × Nat) := []
  tmapSeq : Nat := 0
  tileStates : List (Nat × TileState) := []
  /-- Tiles in PENDING in the order in which their QUARANT was served (R375). -/
  pendingOrder : List Nat := []
  /-- A step has committed or been abandoned since reset, and the tiles whose boundary since the last such end is over (R235). -/
  stepEnded : Bool := false
  pastBounds : List Nat := []
  quarLast : Nat := 0
  /-- Fault collection (14): station pairs that differ from their reset rest, captures that await their detail. -/
  pairs : List (Nat × StnPair) := []
  capWaits : List CapWait := []
  capBeats : List CapBeat := []
  safe : Option Nat := none
  /-- A compute part reset has completed since the safe state was entered (R397). -/
  safeReset : Bool := false
  /-- Hangs, resets, teardown and dumps (15). -/
  watched : List (Nat × Watched) := []
  watchDoms : List (Nat × WatchDom) := []
  windowAt : Nat := 0
  rsts : List Rst := [{}, {}, {}, {}]
  windows : List Window := []
  epochs : List (Nat × Nat) := []
  /-- Outputs of each reset slot (R449, R464): bit 0 quiesce request, bit 1 reset, bit 2 absorb. -/
  rstOut : List (Nat × Nat) := []
  cfl : List (Nat × Nat) := []
  teardowns : List Teardown := []
  dump : Option Dump := none
  dumpSram : List (Nat × Nat) := []
  /-- Thermal and power governance (16). -/
  trv : Trivet := {}
  deriving DecidableEq, Repr

/-- The block right after block reset, with no power-up history: every field at its default. -/
def State.reset : State := {}

end Sys2Proof.Machine
end

