-- ==== Sys2Proof/Machine/Tab.lean ====
section
/-! DEFINITION. Sparse tables as sorted lists in one canonical form: keys strictly rising, and no entry equal to
what an unlisted key reads as. Memory, the register file and every table of the block are kept in this form. -/

namespace Sys2Proof.Machine.Tab

/-- What key `k` reads as: its entry, else the default `d`. -/
def get {α : Type} (d : α) : List (Nat × α) → Nat → α
  | [], _ => d
  | (j, v) :: t, k => if j = k then v else get d t k

/-- Removes every entry of key `k`. -/
def erase {α : Type} : List (Nat × α) → Nat → List (Nat × α)
  | [], _ => []
  | (j, v) :: t, k => if j = k then erase t k else (j, v) :: erase t k

/-- Places an entry, in key order, in place of any entry of the same key. -/
def place {α : Type} : List (Nat × α) → Nat → α → List (Nat × α)
  | [], k, v => [(k, v)]
  | (j, w) :: t, k, v =>
    if k < j then (k, v) :: (j, w) :: t
    else if k = j then (k, v) :: t
    else (j, w) :: place t k v

/-- Writes `v` at key `k`, keeping the canonical form. -/
def set {α : Type} [DecidableEq α] (d : α) (t : List (Nat × α)) (k : Nat) (v : α) : List (Nat × α) :=
  if v = d then erase t k else place t k v

/-- The canonical form. -/
def wf {α : Type} [DecidableEq α] (d : α) : List (Nat × α) → Bool
  | [] => true
  | [(_, v)] => decide (v ≠ d)
  | (j, v) :: (k, w) :: t => decide (v ≠ d) && decide (j < k) && wf d ((k, w) :: t)

/-- Writes a run of consecutive keys. -/
def setRun {α : Type} [DecidableEq α] (d : α) : List (Nat × α) → Nat → List α → List (Nat × α)
  | t, _, [] => t
  | t, k, v :: vs => setRun d (set d t k v) (k + 1) vs

/-- Reads a run of `n` consecutive keys. -/
def getRun {α : Type} (d : α) (t : List (Nat × α)) (k n : Nat) : List α :=
  (List.range n).map (fun i => get d t (k + i))

end Sys2Proof.Machine.Tab
end

