-- ==== Sys2Proof/Machine/Ops.lean ====
section
/-! DEFINITION. The named operations over State that every family uses: registers and counters, the tables, device
memory and its sideband, the memory ports, the fault classes of station 16 and the trace of outputs. -/

namespace Sys2Proof.Machine

/-! ### Registers, counters, free values, outputs -/

/-- The value of a stored register. -/
def State.reg (s : State) (a : Nat) : Nat := Tab.get (regReset a) s.regs a

/-- Writes a stored register. -/
def State.setReg (s : State) (a v : Nat) : State :=
  { s with regs := Tab.set (regReset a) s.regs a (v % 2 ^ 32) }

/-- Sets the bits of `m` in a stored register. -/
def State.setBits (s : State) (a m : Nat) : State := s.setReg a (s.reg a ||| m)

/-- Clears the bits of `m` in a stored register. -/
def State.clrBits (s : State) (a m : Nat) : State := s.setReg a (s.reg a - (s.reg a &&& m))

/-- Whether bit `i` of a stored register is 1. -/
def State.bit (s : State) (a i : Nat) : Bool := bitAt (s.reg a) i == 1

/-- A 32-bit counter takes `n` more, saturating (R215). -/
def State.countN (s : State) (a n : Nat) : State := s.setReg a (min (2 ^ 32 - 1) (s.reg a + n))

/-- A 32-bit counter takes one more, saturating (R215). -/
def State.count (s : State) (a : Nat) : State := s.countN a 1

/-- The address of a register of a Ladle's tile, from its address at tile 0. -/
def atTile (t a : Nat) : Nat := a + t * 0x1000

/-- The address of a register of a station, from its address at station 0. -/
def atStn (stn a : Nat) : Nat := a + stn * 0x100

/-- Zeros a run of `n` registers from `a` (the counters of a clear register, R183). -/
def State.zeroRun (s : State) : Nat → Nat → State
  | _, 0 => s
  | a, n + 1 => (s.setReg a 0).zeroRun (a + 4) n

/-- A fresh free value below `2 ^ 64`. -/
def State.freeNat (s : State) : Nat := (Config.freeValue s.free).toNat

/-- Advances the counter of free values by `n`. -/
def State.took (s : State) (n : Nat) : State := { s with free := s.free + n }

/-- `n` fresh free bytes. -/
def freeBytes (k n : Nat) : Bytes := (List.range n).map (fun i => Config.freeByte (k + i))

/-- A beat on an output. -/
def State.emit (s : State) (o : Out) : State := { s with out := s.out ++ [o] }

/-- Beats on outputs, in order. -/
def State.emits (s : State) (os : List Out) : State := { s with out := s.out ++ os }

/-! ### Selectors and shadows by source (R500) -/

/-- The banked registers, in the order of R500. -/
inductive Bank where
  | rcpSel
  | threadSel
  | modelSel
  | watchDomSel
  | rstSel
  | defectSel
  | dumpAddr
  | ringSel
  | lidCtxSel
  | sckSel
  | zoneSel
  | domSel
  | partSel
  | timeHi
  | jrnlHi
  | provHi
  | seedLo
  deriving DecidableEq, Repr

/-- The place of a banked register in its source's bank. -/
def Bank.num : Bank → Nat
  | .rcpSel => 0
  | .threadSel => 1
  | .modelSel => 2
  | .watchDomSel => 3
  | .rstSel => 4
  | .defectSel => 5
  | .dumpAddr => 6
  | .ringSel => 7
  | .lidCtxSel => 8
  | .sckSel => 9
  | .zoneSel => 10
  | .domSel => 11
  | .partSel => 12
  | .timeHi => 13
  | .jrnlHi => 14
  | .provHi => 15
  | .seedLo => 16

/-- Every copy resets to the register's reset value: 1 for HUB_SIEVE_MODEL_SEL, else 0. -/
def Bank.reset : Bank → Nat
  | .modelSel => 1
  | _ => 0

/-- A source's copy of a banked register. -/
def State.banked (s : State) (src : Src) (b : Bank) : Nat := Tab.get b.reset s.sel (src.num * 32 + b.num)

/-- Writes a source's copy; no other source's copy changes. -/
def State.setBanked (s : State) (src : Src) (b : Bank) (v : Nat) : State :=
  { s with sel := Tab.set b.reset s.sel (src.num * 32 + b.num) v }

/-! ### Tables -/

def State.ladle (s : State) (t : Nat) : Ladle := Tab.get {} s.ladles t
def State.setLadle (s : State) (t : Nat) (v : Ladle) : State := { s with ladles := Tab.set {} s.ladles t v }
def State.ctx (s : State) (c : Nat) : Ctx := Tab.get {} s.ctxs c
def State.setCtx (s : State) (c : Nat) (v : Ctx) : State := { s with ctxs := Tab.set {} s.ctxs c v }
def State.sckEnt (s : State) (e : Nat) : SckEntry := Tab.get {} s.sck e
def State.setSck (s : State) (e : Nat) (v : SckEntry) : State := { s with sck := Tab.set {} s.sck e v }
def State.rcp (s : State) (n : Nat) : RcpSlot := Tab.get {} s.rcps n
def State.setRcp (s : State) (n : Nat) (v : RcpSlot) : State := { s with rcps := Tab.set {} s.rcps n v }
def State.thread (s : State) (t : Nat) : Thread := Tab.get {} s.threads t
def State.setThread (s : State) (t : Nat) (v : Thread) : State := { s with threads := Tab.set {} s.threads t v }
def State.ring (s : State) (n : Nat) : Ring := Tab.get {} s.rings n
def State.setRing (s : State) (n : Nat) (v : Ring) : State := { s with rings := Tab.set {} s.rings n v }
def State.model (s : State) (k : Nat) : Model := Tab.get {} s.models k
def State.setModel (s : State) (k : Nat) (v : Model) : State := { s with models := Tab.set {} s.models k v }
def State.pair (s : State) (stn i : Nat) : StnPair := Tab.get {} s.pairs (stn * 64 + i)
def State.setPair (s : State) (stn i : Nat) (v : StnPair) : State :=
  { s with pairs := Tab.set {} s.pairs (stn * 64 + i) v }

/-- Slot `k` of a context. -/
def Ctx.slot (c : Ctx) (k : Nat) : Slot := (c.slots[k]?).getD {}

/-- Replaces element `k` of a list. -/
def setAt {α : Type} : List α → Nat → α → List α
  | [], _, _ => []
  | _ :: t, 0, v => v :: t
  | x :: t, k + 1, v => x :: setAt t k v

/-- Slot `k` of context `c` in the state. -/
def State.slot (s : State) (c k : Nat) : Slot := (s.ctx c).slot k

/-- Replaces slot `k` of context `c`. -/
def State.setSlot (s : State) (c k : Nat) (v : Slot) : State :=
  s.setCtx c { s.ctx c with slots := setAt (s.ctx c).slots k v }

/-- Scale Keeper entries bound to a context, in ascending order. -/
def State.boundScales (s : State) (c : Nat) : List (Nat × SckEntry) := s.sck.filter (fun p => p.2.bound && p.2.ctx == c)

/-! ### Device memory and its sideband (R159, R453) -/

/-- `n` bytes from byte address `a`. -/
def State.bytes (s : State) (a n : Nat) : Bytes := Tab.getRun 0 s.mem a n

/-- Writes bytes from byte address `a`. -/
def State.setBytes (s : State) (a : Nat) (b : Bytes) : State := { s with mem := Tab.setRun 0 s.mem a b }

/-- The 4,096 bytes of a block. -/
def State.block (s : State) (blk : Nat) : Bytes := s.bytes (blk * 4096) 4096

/-- The sideband of a block. -/
def State.sbOf (s : State) (blk : Nat) : Nat := Tab.get 0 s.sb blk

/-- Writes the sideband of a block. -/
def State.setSb (s : State) (blk v : Nat) : State := { s with sb := Tab.set 0 s.sb blk (v % 2 ^ 64) }

/-! ### The memory ports (R452 to R457) -/

/-- Identifiers of a port. -/
def portIds : Nat := 64

def Port.stalled (p : Port) : Bool := decide (portIds ≤ p.held.length)

/-- Whether an identifier is outstanding or held. -/
def Port.uses (p : Port) (id : Nat) : Bool := p.reqs.any (fun r => r.id == id) || p.held.any (fun h => h.id == id)

/-- A free identifier, the lowest. -/
def Port.freeId (p : Port) : Option Nat := (List.range portIds).find? (fun i => ! p.uses i)

/-- Issues a request on a port; at most 64 are outstanding (R452), and a further one waits for an identifier. -/
def Port.issue (p : Port) (r : MemReq) : Port :=
  match (if p.waits.isEmpty then p.freeId else none) with
  | some i => { p with reqs := p.reqs ++ [{ r with id := i }] }
  | none => { p with waits := p.waits ++ [r] }

/-- The oldest request that waits is issued once an identifier is free. -/
def Port.fill (p : Port) (now : Nat) : Port :=
  match p.waits, p.freeId with
  | r :: t, some i => { p with reqs := p.reqs ++ [{ r with id := i, since := now }], waits := t }
  | _, _ => p

/-- As many of them as identifiers are free. -/
def Port.refill (p : Port) (now : Nat) : Port := p.waits.foldl (fun q _ => q.fill now) p

/-- The requests of an access leave a port. -/
def Port.retire (p : Port) (q : Access → Bool) (now : Nat) : Port :=
  ({ p with reqs := p.reqs.filter (fun r => ! q r.acc), waits := p.waits.filter (fun r => ! q r.acc) } : Port).refill now

/-- The requests that a port holds, issued or not. -/
def Port.all (p : Port) : List MemReq := p.reqs ++ p.waits

/-- The port of a request to `blk` under R456. -/
def State.portFor (s : State) (blk : Nat) : Nat :=
  if s.port0.all.any (fun r => r.blk == blk) then 0
  else if s.port1.all.any (fun r => r.blk == blk) then 1
  else if s.port0.stalled then 1
  else if s.port1.stalled then 0
  else if s.port1.reqs.length < s.port0.reqs.length then 1 else 0

/-- R457: both ports stalled, so that every new request ends with TIMEOUT at once. -/
def State.bothStalled (s : State) : Bool := s.port0.stalled && s.port1.stalled

/-! ### The completion filter (R413) -/

/-- One less outstanding transfer of a context; counts stop at zero. -/
def State.cflDone (s : State) (c : Nat) : State := { s with cfl := Tab.set 0 s.cfl c (Tab.get 0 s.cfl c - 1) }

/-- One more. -/
def State.cflMore (s : State) (c : Nat) : State := { s with cfl := Tab.set 0 s.cfl c (Tab.get 0 s.cfl c + 1) }

/-- The teardown in progress for an old generation of a context. -/
def State.tearing (s : State) (c gen : Nat) : Option Teardown := s.teardowns.find? (fun t => t.ctx == c && t.gen == gen)

/-- One less in the count of a teardown. -/
def State.tearDone (s : State) (c gen : Nat) : State :=
  { s with teardowns := s.teardowns.map (fun t => if t.ctx == c && t.gen == gen then { t with count := t.count - 1 } else t) }

/-- A COMPLETE lookup by the first row of R413 that applies, and whether it passes; context 0 always passes and is not counted. -/
def State.cflComplete (s : State) (c gen : Nat) : State × Bool :=
  let e := s.ctx c
  if c = 0 then (s, true)
  else if e.gen == gen && e.st == .live then ((s.cflDone c).count Reg.hubCntCflPass, true)
  else if e.gen == gen && e.st == .terminated then ((s.cflDone c).count Reg.hubCntCflDrop, false)
  else if (s.tearing c gen).isSome then ((s.tearDone c gen).count Reg.hubCntCflDrop, false)
  else (s.count Reg.hubCntCflLate, false)

/-- The completions of a list of requests. -/
def State.cflCompletes (s : State) : List MemReq → State
  | [] => s
  | r :: t => (s.cflComplete r.ctx r.gen).1.cflCompletes t

/-- The context and generation on whose behalf the block makes an access: those of a program, of a Mortar job, of a seal command, of a
manifest or of a mirror; context 0 for its own. -/
def State.accessCtx (s : State) : Access → Nat × Nat
  | .program p | .swapOut _ p | .swapIn _ p => ((lookup s.progs p).map (fun x => (x.ctx, x.gen))).getD (0, 0)
  | .mortar l => ((s.lanes[l]?.bind (fun x => x.job)).map (fun j => (j.ctx, j.gen))).getD (0, 0)
  | .sealEngine => ((s.sealQ.head?).map (fun j => (j.ctx, (s.ctx j.ctx).gen))).getD (0, 0)
  | .ckpt | .manifest => ((s.ckptQ.head?).map (fun j => (j.ctx, (s.ctx j.ctx).gen))).getD (0, 0)
  | .mirror c => (c, (s.ctx c).gen)
  | _ => (0, 0)

/-- Issues a request; with both ports stalled it is counted as timed out instead. -/
def State.request (s : State) (op : MemOp) (blk line len : Nat) (acc : Access) : State :=
  if s.bothStalled then s.count Reg.hubCntMemTimeout
  else
    let o := s.accessCtx acc
    let r : MemReq := { op := op, blk := blk, line := line, len := len, acc := acc, since := s.time, ctx := o.1, gen := o.2 }
    let s1 := if o.1 ≠ 0 ∧ (s.ctx o.1).st = .live ∧ (s.ctx o.1).gen = o.2 then s.cflMore o.1 else s
    if s.portFor blk = 0 then { s1 with port0 := s.port0.issue r } else { s1 with port1 := s.port1.issue r }

/-- Reads of `n` consecutive blocks. -/
def State.requestReads (s : State) (blk : Nat) (acc : Access) : Nat → State
  | 0 => s
  | n + 1 => (s.request .read blk 0 64 acc).requestReads (blk + 1) acc n

/-- The requests of an access leave the ports, answered. -/
def State.retire (s : State) (p : Access → Bool) : State :=
  ({ s with port0 := s.port0.retire p s.time, port1 := s.port1.retire p s.time } : State).cflCompletes
    ((s.port0.all ++ s.port1.all).filter (fun r => p r.acc))

/-- WRITE_Z of bytes inside one block: data written, its sideband zero in the same write. -/
def State.writeZ (s : State) (addr : Nat) (b : Bytes) (acc : Access) : State :=
  if s.bothStalled then s.count Reg.hubCntMemTimeout
  else
    let blk := addr / 4096
    ((s.setBytes addr b).setSb blk 0).request .writeZ blk (addr % 4096 / 64) ((b.length + 63) / 64) acc

/-- WRITE_S of a whole block with its sideband. -/
def State.writeS (s : State) (blk : Nat) (b : Bytes) (sbv : Nat) (acc : Access) : State :=
  if s.bothStalled then s.count Reg.hubCntMemTimeout
  else ((s.setBytes (blk * 4096) b).setSb blk sbv).request .writeS blk 0 64 acc

/-- SB_CWRITE: the sideband becomes `sbv` where it equals `cmp`. -/
def State.sbCwrite (s : State) (blk cmp sbv : Nat) (acc : Access) : State :=
  if s.bothStalled then s.count Reg.hubCntMemTimeout
  else
    let s1 := s.request .sbCwrite blk 0 1 acc
    if s.sbOf blk = cmp % 2 ^ 64 then s1.setSb blk sbv else s1

/-- Sealing of a whole block as the hub writes it: WRITE_S with the BCV of R161 by producer 0xFE. -/
def State.writeSealed (s : State) (blk : Nat) (b : Bytes) (gen fmt : Nat) (acc : Access) : State :=
  s.writeS blk b (bcv b blk gen fmt false 0xFE) acc

/-! ### Verifying a block in memory (R167) -/

/-- R167 for the block as memory holds it. -/
def State.verify (s : State) (blk gen fmt : Nat) : Verify :=
  verifyBlock (crc32cRaw (s.block blk)) (s.sbOf blk) blk gen fmt

/-! ### Fault classes of station 16 (R384, R386 to R389) -/

/-- COL_STN_EN of a pair. -/
def State.pairOn (s : State) (stn i : Nat) : Bool := s.bit (atStn stn Reg.colStnEnLo + i / 32 * 4) (i % 32)

/-- Bits of COL_STATUS that hold the captures and MULTI. -/
def colMulti : Nat := 2 ^ 4
def colWire : Nat := 2 ^ 3
def colCapValid : Nat := 2 ^ 16
def colCeCapValid : Nat := 2 ^ 17

/-- Writes the six capture registers from `base`: source word, address, access, master, time. -/
def State.capture (s : State) (base src addr access master : Nat) : State :=
  (((((s.setReg base src).setReg (base + 4) (addr % 2 ^ 32)).setReg (base + 8)
    (addr / 2 ^ 32 % 2 ^ 16 + access * 2 ^ 16)).setReg (base + 12) (master % 2 ^ 16)).setReg (base + 16)
    (s.time % 2 ^ 32)).setReg (base + 20) (s.time / 2 ^ 32)

/-- The source word of COL_CAP_SRC. -/
def capSrc (cls : Nat) (wire info : Bool) (stn i : Nat) : Nat :=
  cls * 2 ^ 30 + b2n wire * 2 ^ 29 + b2n info * 2 ^ 28 + stn * 2 ^ 16 + i

/-- R387: a UC or FA transition, captured when no capture is held, else MULTI. -/
def State.capUc (s : State) (cls : Nat) (wire info : Bool) (stn i addr access master : Nat) : State :=
  if s.bit Reg.colStatus 16 then (s.setBits Reg.colStatus colMulti).count Reg.colCntMulti
  else (s.capture Reg.colCapSrc (capSrc cls wire info stn i) addr access master).setBits Reg.colStatus colCapValid

/-- R389: a CE transition, captured when no CE capture is held. -/
def State.capCe (s : State) (info : Bool) (stn i addr access master : Nat) : State :=
  if s.bit Reg.colStatus 17 then s
  else (s.capture 0x10030 (capSrc 1 false info stn i) addr access master).setBits Reg.colStatus colCeCapValid

/-- The class of a pair of station 16 (R384): 1 CE, 2 UC, 3 FA. -/
def class16 (i : Nat) : Nat := if i = 5 ∨ i = 17 then 1 else if i = 18 then 3 else 2

/-- The counter of transitions into ERROR of a class. -/
def errCounter (cls : Nat) : Nat := if cls = 1 then Reg.colCntCe else if cls = 3 then Reg.colCntFa else Reg.colCntUc

/-- A fault of class `i` is raised (R384): its ERR bit is set, and a change from 0 to 1 is a transition into ERROR. The
safe state of an FA class is entered by the caller. -/
def State.raiseFault (s : State) (i addr access master : Nat) : State :=
  let a := atStn 16 Reg.colStnErrLo
  if s.bit a i then s
  else
    let s1 := (s.setBits a (2 ^ i)).count (errCounter (class16 i))
    if class16 i = 1 then s1.capCe true 16 i addr access master
    else s1.capUc (class16 i) false true 16 i addr access master

/-- The classes of R384 by name. -/
def clsRing : Nat := 1
def clsTap : Nat := 2
def clsDesc : Nat := 3
def clsMemSeal : Nat := 4
def clsSealPath : Nat := 5
def clsSealOrder : Nat := 6
def clsSealUsage : Nat := 7
def clsRecipe : Nat := 8
def clsRoute : Nat := 9
def clsMortarLost : Nat := 10
def clsSieve : Nat := 11
def clsLedger : Nat := 12
def clsJournal : Nat := 13
def clsKettle : Nat := 14
def clsPair : Nat := 15
def clsBuddy : Nat := 16
def clsTblCe : Nat := 17
def clsTblFa : Nat := 18

/-- A fault whose detail is a block: its number shifted into a byte address. -/
def State.faultBlk (s : State) (i blk access ctx : Nat) : State := s.raiseFault i (blk * 4096) access ctx

/-- A fault of the block's own state, without an address (access code 0x8). -/
def State.faultInt (s : State) (i ctx : Nat) : State := s.raiseFault i 0 8 ctx

/-- Time in units of 10 ns. -/
def usT (n : Nat) : Nat := n * 100
def msT (n : Nat) : Nat := n * 100000
def secT (n : Nat) : Nat := n * 100000000

end Sys2Proof.Machine
end

