-- ==== Sys2Proof/Machine/Peer.lean ====
section
/-! DEFINITION. Peer messages (R329 to R332) and the peer message port (R467, R468). -/

namespace Sys2Proof.Machine

/-- The CRC of the envelope of R329 for a message. -/
def PeerMsg.crcOf (m : PeerMsg) : Nat := crc32cRaw (toLe 2 m.dst ++ toLe 2 m.src ++ toLe 1 (m.cls % 4) ++ slice m.body 0 64)

/-- KIND, the first byte of the body. -/
def PeerMsg.kind (m : PeerMsg) : Nat := leAt m.body 0 1

/-- R332: whether KIND belongs to CLASS. -/
def PeerMsg.kindOk (m : PeerMsg) : Bool :=
  if m.cls = 0 then decide (1 ≤ m.kind) && decide (m.kind ≤ 8) && m.kind != 7
  else if m.cls = 1 then m.kind == 0x20 || m.kind == 0x21
  else if m.cls = 2 then m.kind == 0x30 || m.kind == 0x31
  else m.cls == 3 && decide (0x80 ≤ m.kind)

/-- The block's own agent (HUB_PEER_AGENT). -/
def State.agent (s : State) : Nat := s.reg Reg.hubPeerAgent % 2 ^ 16

def Peer.credit (p : Peer) (cls : Nat) : Nat := (p.credits[cls]?).getD 0
def Peer.queue (p : Peer) (cls : Nat) : List PeerMsg := (p.queues[cls]?).getD []

/-- A message of the block with its envelope. -/
def State.envelope (s : State) (cls dst : Nat) (body : Bytes) : PeerMsg :=
  let m : PeerMsg := { dst := dst, src := s.agent, cls := cls, body := body }
  { m with crc := m.crcOf }

/-- Sends a message of a class (R468): at once while a credit is held and none waits before it, else it queues. -/
def State.sendPeer (s : State) (cls dst : Nat) (body : Bytes) : State :=
  let m := s.envelope cls dst body
  if 0 < s.peer.credit cls ∧ s.peer.queue cls = [] then
    { s with peer := { s.peer with credits := setAt s.peer.credits cls (s.peer.credit cls - 1) }, out := s.out ++ [.peer m] }
  else
    { s with peer := { s.peer with queues := setAt s.peer.queues cls (s.peer.queue cls ++ [m]) } }

/-- Whether the transmit queue of a class holds its 64 messages (R468). -/
def State.peerFull (s : State) (cls : Nat) : Bool := decide (64 ≤ (s.peer.queue cls).length)

/-- R331: whether a received message is delivered. -/
def State.accepts (s : State) (m : PeerMsg) : Bool := m.crc == m.crcOf && m.dst == s.agent && m.kindOk

/-- A received message is discarded and its credit returned (R331, R468). -/
def State.discardPeer (s : State) (m : PeerMsg) : State :=
  (s.count Reg.hubCntPeerDiscard).emit (.credit (m.cls % 4))

/-- A received message is delivered to its handler, which takes it and returns its credit (R331, R468). -/
def State.takePeer (s : State) (m : PeerMsg) : State :=
  (s.count Reg.hubCntPeerRx).emit (.credit (m.cls % 4))

/-- PEER_CREDIT_RETURN: a queued message of the class is sent, else the credit is held (R468). -/
def State.creditReturn (s : State) (cls : Nat) : State :=
  match s.peer.queue cls with
  | m :: t => { s with peer := { s.peer with queues := setAt s.peer.queues cls t }, out := s.out ++ [.peer m] }
  | [] => { s with peer := { s.peer with credits := setAt s.peer.credits cls (s.peer.credit cls + 1) } }

/-- PEER_CREDIT_RETURN (R468): a credit of a class comes back. -/
def execPeerCreditReturn (cls : Nat) (s : State) : Host.Outcome State Fault Refusal := .next (s.creditReturn (cls % 4))

/-- PEER_MESSAGE_DISCARD (R331): a message with a bad CRC, a wrong DST or a foreign KIND. A message that none of these
holds for is no discard and changes nothing. -/
def execPeerMessageDiscard (m : PeerMsg) (s : State) : Host.Outcome State Fault Refusal :=
  .next (if s.accepts m then s else s.discardPeer m)

end Sys2Proof.Machine
end

