-- ==== Sys2Proof/Machine/Journal.lean ====
section
/-! DEFINITION. The command journal (R283 to R287, R305) and tickets (R259). -/

namespace Sys2Proof.Machine

/-- Statuses (R261). -/
def stOk : Nat := 0x00
def stPending : Nat := 0x01
def stIllegalOpcode : Nat := 0x10
def stIllegalState : Nat := 0x11
def stContextGone : Nat := 0x12
def stPrivilege : Nat := 0x13
def stBadOperand : Nat := 0x14
def stStaleGeneration : Nat := 0x15
def stStepAbandoned : Nat := 0x16
def stVersionMismatch : Nat := 0x21
def stSignatureInvalid : Nat := 0x22
def stDigestMismatch : Nat := 0x23
def stRecipeInvalid : Nat := 0x24
def stRecipeKatFail : Nat := 0x25
def stManifestInconsistent : Nat := 0x26
def stShapeMismatch : Nat := 0x27
def stDeferred : Nat := 0x31
def stBusy : Nat := 0x32
def stFull : Nat := 0x33
def stTimeout : Nat := 0x34
def stUnreachable : Nat := 0x35
def stMemoryError : Nat := 0x41
def stSealFail : Nat := 0x42
def stHwFault : Nat := 0x4F

/-- Entry types (R284). -/
def jTaken : Nat := 1
def jHanded : Nat := 2
def jServed : Nat := 3
def jCompleted : Nat := 4
def jProgAccept : Nat := 5
def jProgEnd : Nat := 6
def jFinished : Nat := 7
def jKettle : Nat := 8

/-- The 64 bytes of a journal entry (R283). -/
def JEntry.bytes (e : JEntry) : Bytes :=
  toLe 8 e.jseq ++ toLe 8 e.time ++ toLe 1 e.type ++ toLe 1 e.status ++ toLe 1 e.opc ++ toLe 1 e.source ++ toLe 2 e.ctx
    ++ toLe 2 e.ticket ++ toLe 4 e.ref ++ toLe 4 e.cookie ++ toLe 8 e.a ++ toLe 8 e.b ++ toLe 8 e.c ++ toLe 4 e.imm
    ++ toLe 1 (e.mod % 16) ++ zeros 3

/-- MEM_ON: HUB_JRNL_BASE has been written (R305). -/
def State.memOn (s : State) : Bool := s.rwl.contains Reg.hubJrnlBase

/-- One entry is lost from the memory copy (R286). -/
def State.journalLost (s : State) : State :=
  ((s.setBits Reg.hubJrnlStatus 2).count Reg.hubCntJrnlLost).faultInt clsJournal 0

/-- The write that copies an entry to the journal area (R286); with both ports stalled it ends with TIMEOUT. -/
def State.copyEntry (s : State) (e : JEntry) : State :=
  if s.bothStalled then (s.count Reg.hubCntMemTimeout).journalLost
  else s.writeZ (s.reg Reg.hubJrnlBase * 64 * 4096 + 64 * (e.jseq % 8192)) e.bytes (.journal e.jseq)

/-- Whether the write that copies an entry can be issued now: an identifier of its block's port is free, or both ports are stalled, so
that it ends at once. -/
def State.copyReady (s : State) (e : JEntry) : Bool :=
  let p := if s.portFor (s.reg Reg.hubJrnlBase * 64 + e.jseq % 8192 / 64) = 0 then s.port0 else s.port1
  s.bothStalled || (p.waits.isEmpty && p.freeId.isSome)

/-- Copies the entries of a list in order, as far as their writes can be issued. -/
def State.copyEntries (s : State) : List JEntry → State
  | [] => s
  | e :: t => if s.copyReady e then ({ s.copyEntry e with jcopied := e.jseq + 1 } : State).copyEntries t else s

/-- The entries on chip that have not been copied go to memory while it can take them (R286). -/
def State.copyJournal (s : State) : State :=
  if s.memOn then s.copyEntries (s.journal.filter (fun e => decide (s.jcopied ≤ e.jseq))) else s

/-- An entry that leaves the chip before the write that copies it has been issued is lost; the copy resumes at the oldest on chip. -/
def State.replaced (s : State) : State :=
  match s.journal with
  | e :: _ => if s.memOn && decide (s.jcopied < e.jseq) then ({ s with jcopied := e.jseq } : State).journalLost else s
  | [] => s

/-- Numbers an entry, places it in the window and, with MEM_ON, copies it to memory (R285, R286). -/
def State.record (s : State) (e : JEntry) : State :=
  let l := s.journal ++ [{ e with jseq := s.jseq, time := s.time }]
  ({ s with jseq := s.jseq + 1, journal := l.drop (l.length - 256) } : State).replaced.copyJournal

/-- A KETTLE entry (R284): the event code and the core. -/
def State.kettleEvent (s : State) (ev core : Nat) : State :=
  s.record { type := jKettle, opc := ev, source := 0x60, mod := core }

/-- SOURCE of a journal entry (R283). -/
def srcThread (t : Nat) : Nat := t % 32
def srcRing (n : Nat) : Nat := 0x20 + n % 16
def srcCore (k : Nat) : Nat := 0x40 + k % 4
def srcBlock : Nat := 0x60

/-! ### Tickets (R259) -/

/-- The lowest ticket number not in use; tickets are numbered from 1. -/
def freeTicket (ts : List (Nat × Ticket)) : Nat :=
  ((List.range (ts.length + 2)).find? (fun k => decide (0 < k) && (lookup ts k).isNone)).getD 0

/-- Tickets in use that are not closed (R259). -/
def State.openTickets (s : State) : Nat := (s.tickets.filter (fun p => ! p.2.closed)).length

/-- The tickets in use, a closed one among them while its command has not completed. -/
def State.ticket (s : State) (t : Nat) : Option Ticket := lookup s.tickets t

/-- Writes a ticket. -/
def State.setTicket (s : State) (t : Nat) (v : Ticket) : State := { s with tickets := Tab.place s.tickets t v }

/-- Removes a ticket. -/
def State.dropTicket (s : State) (t : Nat) : State := { s with tickets := Tab.erase s.tickets t }

end Sys2Proof.Machine
end

