-- ==== Sys2Proof/Machine/Lid.lean ====
section
/-! DEFINITION. The Lid's shared operations (08_step_ledger_and_commit): step slots, op records, gate messages, detected
errors, abandonment, termination, the frontier, and an op becoming CLEAR. -/

namespace Sys2Proof.Machine

/-! ### Regions and op records -/

/-- Whether a block lies in a region. -/
def Region.has (r : Region) (blk : Nat) : Bool := decide (r.base ≤ blk) && decide (blk < r.base + r.blocks)

/-- Whether two regions share a block. -/
def Region.meets (r q : Region) : Bool :=
  decide (0 < r.blocks) && decide (0 < q.blocks) && decide (r.base < q.base + q.blocks) && decide (q.base < r.base + r.blocks)

/-- Whether a region shares a block with the range of `n` blocks from `b`. -/
def Region.meetsRange (r : Region) (b n : Nat) : Bool :=
  decide (0 < r.blocks) && decide (0 < n) && decide (r.base < b + n) && decide (b < r.base + r.blocks)

/-- The input regions of an op. -/
def Layout.ins (l : Layout) : List Region := [l.a, l.b, l.c]

/-- The regions of an op that hold blocks. -/
def Layout.all (l : Layout) : List Region := [l.a, l.b, l.c, l.out].filter (fun r => decide (0 < r.blocks))

/-- Whether a step is open: its slot is neither FREE nor ABANDONED. -/
def Slot.live (s : Slot) : Bool := s.st == .open_ || s.st == .ended || s.st == .halted

/-- Whether a slot holds a step. -/
def Slot.used (s : Slot) : Bool := s.st != .free

/-- The op record of an OPSEQ. -/
def Slot.op (s : Slot) (q : Nat) : Option OpRec := s.ops.find? (fun o => o.d.opseq == q)

/-- Replaces the op record of its OPSEQ, or adds it. -/
def Slot.putOp (s : Slot) (o : OpRec) : Slot :=
  if s.ops.any (fun p => p.d.opseq == o.d.opseq) then
    { s with ops := s.ops.map (fun p => if p.d.opseq == o.d.opseq then o else p) }
  else { s with ops := s.ops ++ [o] }

/-- Applies a change to the op record of an OPSEQ. -/
def Slot.onOp (s : Slot) (q : Nat) (f : OpRec → OpRec) : Slot :=
  { s with ops := s.ops.map (fun p => if p.d.opseq == q then f p else p) }

/-- Whether OPSEQ `q` is CLEAR. -/
def Slot.isClear (s : Slot) (q : Nat) : Bool := s.ops.any (fun o => o.d.opseq == q && o.st == .clear && ! o.notAccepted)

/-- The first OPSEQ from `q` on that is not CLEAR. -/
def Slot.frontierFrom (s : Slot) (q : Nat) : Nat → Nat
  | 0 => q
  | k + 1 => if s.isClear q then s.frontierFrom (q + 1) k else q

/-- The frontier of a step (R224). -/
def Slot.frontier (s : Slot) : Nat := s.frontierFrom 0 (s.ops.length + 1)

/-- Bucket `b` of a step. -/
def Slot.bucket (s : Slot) (b : Nat) : Bucket := Tab.get {} s.buckets b
def Slot.setBucket (s : Slot) (b : Nat) (v : Bucket) : Slot := { s with buckets := Tab.set {} s.buckets b v }

/-- The slots of a context that satisfy a condition, by number. -/
def Ctx.find (c : Ctx) (p : Slot → Bool) : Option Nat := (List.range 4).find? (fun k => p (c.slot k))

/-- The slot that holds step `n` of a context, FREE slots apart. -/
def Ctx.stepSlot (c : Ctx) (n : Nat) : Option Nat := c.find (fun s => s.used && s.step == n)

/-- Whether step `a` is later than step `b`, among the 4 open steps of a context (R219). -/
def laterStep (a b : Nat) : Bool := decide (0 < (a + 2 ^ 32 - b) % 2 ^ 32) && decide ((a + 2 ^ 32 - b) % 2 ^ 32 < 4)

/-! ### Gate messages (R232) -/

/-- The body of a gate message. -/
def gateBody (kind cause ctx gen bucket step opseq count : Nat) : Bytes :=
  toLe 1 kind ++ toLe 1 cause ++ toLe 2 ctx ++ toLe 2 gen ++ toLe 2 bucket ++ toLe 4 step ++ toLe 4 opseq ++ toLe 4 count
    ++ zeros 44

def gkRelease : Nat := 1
def gkNull : Nat := 2
def gkCommit : Nat := 3
def gkHalt : Nat := 4
def gkReplay : Nat := 5
def gkAbandon : Nat := 6
def gkHaltAck : Nat := 8

/-- Sends a gate message of context `c`: RELEASE and NULL to the collective agent, the others to the command path. -/
def State.gate (s : State) (c kind cause bucket step opseq count : Nat) : State :=
  let e := s.ctx c
  s.sendPeer 0 (if kind = gkRelease ∨ kind = gkNull then e.collective else e.command)
    (gateBody kind cause c e.gen bucket step opseq count)

/-! ### The Mortar's jobs of a step -/

/-- Whether a job is of the step and at or above the origin. -/
def Job.ofStep (j : Job) (c gen step origin : Nat) : Bool :=
  j.kind != .selfTest && j.ctx == c && j.gen == gen && j.step == step && decide (origin ≤ j.opseq)

/-- R227 step 3: queued and spilled samples at or above the origin are removed; other jobs of those ops complete and are
otherwise ignored. -/
def State.dropSamples (s : State) (c step origin : Nat) : State :=
  let g := (s.ctx c).gen
  let dead (j : Job) : Bool := j.kind == .sample && j.ofStep c g step origin
  let ign (j : Job) : Job := if j.ofStep c g step origin then { j with ignored := true } else j
  { s with
    queue := (s.queue.filter (fun j => ! dead j)).map ign
    spill := s.spill.filter (fun j => ! dead j)
    lanes := s.lanes.map (fun l => { l with job := l.job.map ign })
    arbs := s.arbs.map (fun a => { a with job := ign a.job }) }

/-! ### NULL, abandonment, termination -/

/-- Sends NULL for bucket `b` of slot `k` (R231), counted in LID_CNT_RELEASED (R242). -/
def State.nullBucket (s : State) (c k b : Nat) : State :=
  let sl := s.slot c k
  let s1 := s.setSlot c k { sl.setBucket b { sl.bucket b with nulled := true } with nulledCount := sl.nulledCount + 1 }
  (s1.gate c gkNull 0 b sl.step 0 0).count Reg.lidCntReleased

/-- NULL for each bucket of a list. -/
def State.nullBuckets (s : State) (c k : Nat) : List Nat → State
  | [] => s
  | b :: t => (s.nullBucket c k b).nullBuckets c k t

/-- Buckets ended and neither released nor nulled. -/
def Slot.endedOpen (s : Slot) : List Nat :=
  (s.buckets.filter (fun p => p.2.last.isSome && ! p.2.released && ! p.2.nulled)).map Prod.fst

/-- Buckets ended or named by an accepted op, and neither released nor nulled. -/
def Slot.knownOpen (s : Slot) : List Nat :=
  (s.buckets.filter (fun p => ! p.2.released && ! p.2.nulled)).map Prod.fst

/-- A program of a context sees that a step has committed or been abandoned (R254). -/
def State.noteStep (s : State) (c step : Nat) (ok : Bool) : State :=
  { s with progs := s.progs.map (fun p =>
      if p.2.ctx == c then (p.1, { p.2 with steps := p.2.steps.filter (fun x => x.1 != step) ++ [(step, ok)] }) else p) }

/-- A step opens: what the context's programs saw of an earlier step of its number is over (R254). -/
def State.forgetStep (s : State) (c step : Nat) : State :=
  { s with progs := s.progs.map (fun p =>
      if p.2.ctx == c then (p.1, { p.2 with steps := p.2.steps.filter (fun x => x.1 != step) }) else p) }

/-! ### Step boundaries (R235) -/

/-- Whether an open step of any context holds an op on a physical tile that is not CLEAR. -/
def State.unclearOn (s : State) (t : Nat) : Bool :=
  s.ctxs.any (fun p => p.2.slots.any (fun k => k.live && k.ops.any (fun o => o.tile == t && ! o.notAccepted && o.st != .clear)))

/-- R235: the boundary of a tile stands: a step has ended, every op on the tile is CLEAR, and no op has come to the tile since the
boundary was reached (log entry 69). -/
def State.boundary (s : State) (t : Nat) : Bool := s.stepEnded && ! s.pastBounds.contains t && ! s.unclearOn t

/-- A step has committed or been abandoned: each tile reaches its next boundary. -/
def State.endsStep (s : State) : State := { s with stepEnded := true, pastBounds := [] }

/-- An op comes to a tile: a boundary that stands is over. -/
def State.leaveBoundary (s : State) (t : Nat) : State := if s.boundary t then { s with pastBounds := t :: s.pastBounds } else s

/-- Latches the statistics of a step into its context entry (R238, R272). -/
def Slot.stats (sl : Slot) (now : Nat) (abandoned : Bool) : StepStats :=
  { valid := true, step := sl.step, abandoned := abandoned, cause := if abandoned then sl.cause else 0,
    nulled := sl.nulled, samples := sl.samples, arbs := sl.arbs, routes := sl.routes, replays := sl.replaysUsed,
    released := sl.released, nulledCount := sl.nulledCount, escape := sl.escape, deficit := sl.deficit,
    opened := sl.opened, granted := now, counts := sl.counts }

/-- Discards the pending maxima of a step (R236). -/
def State.dropPending (s : State) (c step : Nat) : State :=
  { s with sck := s.sck.map (fun p =>
      if p.2.bound && p.2.ctx == c then (p.1, { p.2 with pending := setAt p.2.pending (step % 4) 0 }) else p) }

/-- The step that a held message is of. -/
def PairMsg.step : PairMsg → Nat
  | .ops n _ _ => n
  | .stepEnd n _ _ => n

/-- One step is abandoned (R220, R228): ABANDON, then NULL for its unreleased buckets. -/
def State.abandonOne (s : State) (c k cause opseq : Nat) : State :=
  let sl := s.slot c k
  if ! sl.live then s
  else
    let s1 := s.setSlot c k { sl with st := .abandoned, cause := cause, pins := [], granted := s.time }
    let s2 := (s1.gate c gkAbandon cause 0 sl.step opseq 0).nullBuckets c k sl.knownOpen
    let s3 := ((s2.dropSamples c sl.step 0).dropPending c sl.step).count Reg.lidCntAbandoned
    let s4 : State := { s3 with
      routes := s3.routes.filter (fun r => ! (r.ctx == c && r.step == sl.step))
      pairings := s3.pairings.map (fun p => if p.ctx == c then { p with held := p.held.filter (fun m => m.step != sl.step) } else p) }
    let s5 := s4.endsStep.noteStep c sl.step false
    let e := s5.ctx c
    s5.setCtx c { e with stats := (e.slot k).stats s5.time true }

/-- Slots of a context in ascending order of their steps after step `n`. -/
def Ctx.later (c : Ctx) (n : Nat) : List Nat :=
  ([1, 2, 3].filterMap (fun d => c.find (fun s => s.live && s.step == (n + d) % 2 ^ 32)))

/-- Abandons the steps of a list of slots with one cause. -/
def State.abandonAll (s : State) (c cause : Nat) : List Nat → State
  | [] => s
  | k :: t => (s.abandonOne c k cause 0).abandonAll c cause t

/-- R228: a step and every later open step of the context are abandoned; the later ones with CAUSE 0x7. -/
def State.abandon (s : State) (c k cause opseq : Nat) : State :=
  let n := (s.slot c k).step
  let later := (s.ctx c).later n
  if (s.slot c k).live then (s.abandonOne c k cause opseq).abandonAll c 7 later else s

/-- The live slots of a context in ascending order of their steps. -/
def Ctx.liveSlots (c : Ctx) : List Nat :=
  [1, 2, 3, 4].filterMap (fun d => c.find (fun s => s.live && s.step == (c.committed + d) % 2 ^ 32))

/-- R240: a context becomes TERMINATED; its open steps are abandoned with CAUSE 0x8. -/
def State.terminate (s : State) (c : Nat) : State :=
  let e := s.ctx c
  if e.st != .live then s
  else
    let s1 := s.setCtx c { e with st := .terminated }
    (s1.abandonAll c 8 (e.liveSlots)).setBits Reg.hubSealStatus (2 ^ 5)

/-- Terminates each context of a list. -/
def State.terminateAll (s : State) : List Nat → State
  | [] => s
  | c :: t => (s.terminate c).terminateAll t

/-! ### Pair mode (R318 to R322) -/

def State.pairing (s : State) (c : Nat) : Option Pairing := s.pairings.find? (fun p => p.ctx == c)

/-- HUB_PAIR_CTRL.CAP, 12 to 24 (R327). -/
def State.pairCap (s : State) : Nat := max 12 (min 24 (s.reg Reg.hubPairCtrl / 256 % 32))

/-- The op digest of R318. -/
def OpRec.digest (o : OpRec) : Nat :=
  let n := o.lay.out.blocks
  crc32cRaw ((List.range n).flatMap (fun k => toLe 4 ((lookup o.outCrc k).getD 0))) * 2 ^ 32 + o.flags % 64 * 2 ^ 26 + n % 2 ^ 26

/-- The digest that an op has at present: CLEAR, or FAILED in a NULLED step. -/
def Slot.digestOf (sl : Slot) (q : Nat) : Option Nat :=
  match sl.op q with
  | none => none
  | some o =>
    if o.st == .failed && sl.nulled then some (2 ^ 64 - 1)
    else if o.st == .clear && ! o.notAccepted then some o.digest
    else none

def pkOp : Nat := 1
def pkStep : Nat := 2
def pkReplay : Nat := 3
def pkLost : Nat := 4

/-- The capture of R327, while none is held. -/
def State.pairCapture (s : State) (c k kind q loc ptn : Nat) : State :=
  if s.bit Reg.hubPairStatus 0 then s
  else
    let o := (s.slot c k).op q
    let bkt := match o with
      | some o => if o.d.bktValid && (kind == pkOp || kind == pkReplay) then 2 ^ 12 + o.d.bucket % 2 ^ 12 else 0
      | none => 0
    ((((((((s.setReg Reg.hubPairCap (kind * 2 ^ 28 + q % 2 ^ 24)).setReg Reg.hubPairCapCtx ((s.ctx c).gen * 2 ^ 16 + c)).setReg
      Reg.hubPairCapStep (s.slot c k).step).setReg Reg.hubPairCapBkt bkt).setReg Reg.hubPairCapLocLo loc).setReg Reg.hubPairCapLocHi
      (loc / 2 ^ 32)).setReg Reg.hubPairCapPtnLo ptn).setReg Reg.hubPairCapPtnHi (ptn / 2 ^ 32)).setBits Reg.hubPairStatus 1

/-- R321: a divergence abandons the step with CAUSE 0x9; the pairing is kept. -/
def State.pairDiverge (s : State) (c k kind q loc ptn : Nat) : State :=
  (((s.pairCapture c k kind q loc ptn).setBits Reg.hubPairStatus 2).count Reg.hubCntPairDiverge).abandon c k 9
    (if kind = pkStep then 0 else q)

/-- OPSEQ range of group `g` as far as n is known (R319). -/
def Slot.groupOps (sl : Slot) (g : Nat) : List Nat :=
  (List.range 6).filterMap (fun i => if sl.n = 0 || decide (6 * g + i < sl.n) then some (6 * g + i) else none)

/-- The digests of a group, once every op of it has one. -/
def Slot.group (sl : Slot) (g : Nat) : Option (List Nat) := (sl.groupOps g).mapM sl.digestOf

/-- The stored digests of a group (R318). -/
def Slot.stored (sl : Slot) (g : Nat) : List Nat := (sl.groupOps g).map (fun q => ((sl.op q).bind OpRec.opd).getD 0)

/-- The body of PAIR_OPS and PAIR_STEP (R319). -/
def pairBody (kind count ctx step opseq flags : Nat) (ds : List Nat) : Bytes :=
  slice (toLe 1 kind ++ toLe 1 count ++ toLe 2 ctx ++ toLe 4 step ++ toLe 4 opseq ++ toLe 1 flags ++ zeros 3 ++ ds.flatMap (toLe 8) ++ zeros 48) 0 64

/-- The key of a step message among the times of R322. -/
def stepMark : Nat := 2 ^ 30

/-- Groups of every open step that have been sent and await the partner's (R319). -/
def State.awaited (s : State) : Nat :=
  (s.ctxs.map (fun p => ((p.2.slots.filter Slot.live).map (fun sl => sl.grpSent.length - sl.grpOk.length)).foldl (· + ·) 0)).foldl (· + ·) 0

/-- Sends the groups of a list that are complete and not yet sent, while fewer than 256 await the partner's (R319). -/
def State.pairSend (s : State) (c k : Nat) (p : Pairing) : List Nat → State
  | [] => s
  | g :: t =>
    let sl := s.slot c k
    let s1 := match sl.group g with
      | none => s
      | some ds =>
        if ds.isEmpty || sl.grpSent.contains g || decide (256 ≤ s.awaited) then s
        else
          (s.setSlot c k { sl with grpSent := sl.grpSent ++ [g], sentAt := sl.sentAt ++ [(g, s.time)] }).sendPeer 1 p.partner
            (pairBody 0x20 ds.length c sl.step (6 * g) 0 ds)
    s1.pairSend c k p t

/-- The first position at which two lists of digests differ, with both digests. -/
def firstDiff : List Nat → List Nat → Nat → Option (Nat × Nat × Nat)
  | a :: t, b :: u, i => if a = b then firstDiff t u (i + 1) else some (i, a, b)
  | _, _, _ => none

/-- Takes a held message out of a pairing. -/
def State.unhold (s : State) (c : Nat) (m : PairMsg) : State :=
  { s with pairings := s.pairings.map (fun p => if p.ctx == c then { p with held := p.held.filter (fun x => x != m) } else p) }

/-- Compares the held messages of a list with the step in slot `k` (R320, R321). -/
def State.pairMatch (s : State) (c k : Nat) : List PairMsg → State
  | [] => s
  | m :: t =>
    let sl := s.slot c k
    let s1 := if ! sl.live then s else
      match m with
      | .ops step base ds =>
        let g := base / 6
        if step != sl.step || ! sl.grpSent.contains g || sl.grpOk.contains g then s
        else
          match firstDiff (sl.stored g) ds 0 with
          | some (i, a, b) => (s.unhold c m).pairDiverge c k pkOp (6 * g + i) a b
          | none =>
            if (sl.stored g).length = ds.length then
              ((s.unhold c m).setSlot c k { sl with grpOk := sl.grpOk ++ [g], sentAt := sl.sentAt.filter (fun x => x.1 != g) }).count
                Reg.hubCntPairGroups
            else s
      | .stepEnd step n nulled =>
        if step != sl.step || ! sl.stepSent || sl.stepOk then s
        else if n = sl.n ∧ nulled = sl.nulled then
          (s.unhold c m).setSlot c k { sl with stepOk := true, sentAt := sl.sentAt.filter (fun x => x.1 != stepMark) }
        else (s.unhold c m).pairDiverge c k pkStep sl.n 0 0
    s1.pairMatch c k t

/-- Sends what the step in slot `k` of a paired context has complete, while it is open. -/
def State.pairSendStep (s : State) (p : Pairing) (k : Nat) : State :=
  let sl := s.slot p.ctx k
  if sl.live then s.pairSend p.ctx k p (List.range ((sl.ops.foldl (fun a o => max a (o.d.opseq + 1)) 0 + 5) / 6)) else s

/-- The same for each slot of each pairing: a group that the bound of R319 has held goes out once the bound allows. -/
def State.pairSendAll (s : State) : List (Pairing × Nat) → State
  | [] => s
  | (p, k) :: t => (s.pairSendStep p k).pairSendAll t

/-- What a paired context sends and compares after a change of the step in slot `k`. -/
def State.pairFlush (s : State) (c k : Nat) : State :=
  match s.pairing c with
  | none => s
  | some p =>
    let s1 := s.pairSendStep p k
    let s2 := s1.pairMatch c k (((s1.pairing c).map Pairing.held).getD [])
    s2.pairSendAll (s2.pairings.flatMap (fun p => (List.range 4).map (fun k => (p, k))))

/-- An op of a paired context has its digest (R318): it is stored, or compared with the stored one of an earlier execution. -/
def State.pairForm (s : State) (c k q : Nat) : State :=
  match s.pairing c, (s.slot c k).op q, (s.slot c k).digestOf q with
  | some p, some o, some d =>
    match o.opd with
    | some x => if x = d then s.pairFlush c k else s.pairDiverge c k pkReplay q d x
    | none =>
      let s1 := s.setSlot c k ((s.slot c k).onOp q (fun o => { o with opd := some d }))
      (s1.writeZ (s.reg Reg.hubPairBase * 64 * 4096 + 8 * ((4 * p.idx + k) * 2 ^ s.pairCap + q)) (toLe 8 d) .pair).pairFlush c k
  | _, _, _ => s

/-! ### Detected errors (R226, R227, R231) -/

/-- An op's state becomes FAILED. An op that was never accepted is held as such beside the records (R105). -/
def State.failOp (s : State) (c k q : Nat) : State :=
  let sl := s.slot c k
  if (sl.op q).isSome then s.setSlot c k (sl.onOp q (fun o => { o with st := .failed }))
  else s.setSlot c k (sl.putOp { d := { opseq := q }, st := .failed, notAccepted := true })

/-- The step enters HALTED and HALT is sent. -/
def State.halt (s : State) (c k origin : Nat) : State :=
  let sl := s.slot c k
  let s1 := s.setSlot c k { sl with st := .halted, prev := sl.st, origin := origin, ack := none }
  (s1.gate c gkHalt 0 0 sl.step 0 0).dropSamples c sl.step origin

/-- The step becomes NULLED and NULL is sent for the buckets already ended. -/
def State.nullStep (s : State) (c k : Nat) : State :=
  let sl := s.slot c k
  ((s.setSlot c k { sl with nulled := true }).count Reg.lidCntNulled).nullBuckets c k sl.endedOpen

/-- A detected error of op `q` of the step in slot `k` with a replay origin (R220, R226). -/
def State.detect (s : State) (c k q origin : Nat) : State :=
  let s1 := s.failOp c k q
  let sl := s1.slot c k
  match sl.st with
  | .halted =>
    if origin < sl.origin then (s1.setSlot c k { sl with origin := origin }).dropSamples c sl.step origin else s1
  | .open_ | .ended =>
    if 0 < sl.replays then s1.halt c k origin
    else if q < sl.u then (if sl.nulled then s1 else s1.nullStep c k).pairForm c k q
    else s1.abandon c k 6 q
  | .free | .abandoned => s1

/-- A detected error of an op named by its context, generation and step; one whose step is not open is none. -/
def State.detectStep (s : State) (c gen step q origin : Nat) : State :=
  let e := s.ctx c
  if e.st == .live && e.gen == gen then
    match e.stepSlot step with
    | some k => s.detect c k q origin
    | none => s
  else s

/-! ### An op becomes CLEAR (R224, R236) -/

/-- Merges a maximum into the pending maximum of its step (R236): binary32 codes of values not negative compare as
numbers, and +infinity is above every finite one. -/
def State.mergeMax (s : State) (e step m : Nat) : State :=
  let k := s.sckEnt e
  let old := (k.pending[step % 4]?).getD 0
  if old < m then s.setSck e { k with pending := setAt k.pending (step % 4) m } else s

/-- Whether an op meets the condition of CLEAR. -/
def OpRec.clearable (o : OpRec) : Bool :=
  (o.st == .accepted || o.st == .pending) && ! o.notAccepted && (o.verdict == some .pass || o.verdict == some .mortarOnly)
    && o.samples == 0 && ! o.arb && ! o.arbReseal && ! o.routeHold

/-- Whether an op has passed and waits for a sample, an arbitration or its routing op (R224). -/
def OpRec.waits (o : OpRec) : Bool := decide (0 < o.samples) || o.arb || o.arbReseal || o.routeHold

/-- The state of an op is taken anew: CLEAR with its maximum merged, or PENDING. -/
def State.settle (s : State) (c k q : Nat) : State :=
  match (s.slot c k).op q with
  | none => s
  | some o =>
    if o.clearable then
      let s1 := s.setSlot c k ((s.slot c k).onOp q (fun p => { p with st := .clear }))
      (match o.cmx with
       | some m => if 0x8000 ≤ o.d.sckOut then s1.mergeMax (o.d.sckOut % 0x8000) o.d.step m else s1
       | none => s1).pairForm c k q
    else if o.st == .accepted && o.verdict.isSome && o.waits then
      s.setSlot c k ((s.slot c k).onOp q (fun p => { p with st := .pending }))
    else s

/-- Changes an op record and takes its state anew. -/
def State.onOp (s : State) (c k q : Nat) (f : OpRec → OpRec) : State :=
  (s.setSlot c k ((s.slot c k).onOp q f)).settle c k q

/-! ### Extents of the region index (R225, R239) -/

/-- Every op record of every step slot of a context that holds a step. -/
def Ctx.recs (c : Ctx) : List OpRec := (c.slots.filter Slot.used).flatMap Slot.ops

/-- Every op record of every step. -/
def State.recs (s : State) : List OpRec := s.ctxs.flatMap (fun p => p.2.recs)

/-- Whether a range meets an extent of any step, or a read extent of the manifest queue (R341). -/
def State.inIndex (s : State) (b n : Nat) : Bool :=
  s.recs.any (fun o => o.lay.all.any (fun r => r.meetsRange b n)) ||
    s.ckptQ.any (fun j => j.extents.any (fun x => decide (x.1 < b + n) && decide (b < x.1 + x.2)))

/-- Whether any context has a step in a slot other than FREE. -/
def State.anyStep (s : State) : Bool := s.ctxs.any (fun p => p.2.slots.any Slot.used)

/-- Contexts that are LIVE. -/
def State.liveCtxs (s : State) : List Nat := (s.ctxs.filter (fun p => p.2.st == .live)).map Prod.fst

end Sys2Proof.Machine
end

