-- ==== Sys2Proof/Machine/Suspects.lean ====
section
/-! DEFINITION. The suspect table (R367 to R371): observations, scores, and the states of units. -/

namespace Sys2Proof.Machine

/-- An entry at reset: unit entries are CLEAR, detail entries FREE (R367). -/
def suspReset (e : Nat) : Susp := if e < 0x104 then { unit := e, st := .clear } else {}

def State.suspEnt (s : State) (e : Nat) : Susp := Tab.get (suspReset e) s.susp e
def State.setSusp (s : State) (e : Nat) (v : Susp) : State := { s with susp := Tab.set (suspReset e) s.susp e v }

/-- The observation kinds of R368. -/
def obEngine : Nat := 1
def obChecker : Nat := 2
def obTap : Nat := 3
def obBoth : Nat := 4
def obUnresolved : Nat := 5
def obLane : Nat := 6
def obSealPath : Nat := 7
def obWhisk : Nat := 8
def obSilent : Nat := 9
def obWhiskChecker : Nat := 10

/-- The unit codes of R367. -/
def unitTile (t : Nat) : Nat := t % 128
def unitLadle (t : Nat) : Nat := 0x80 + t % 128
def unitLane (l : Nat) : Nat := 0x100 + l % 4

/-- The weight of a kind (HUB_SUSP_WEIGHT0 to 2). -/
def State.weight (s : State) (k : Nat) : Nat :=
  fieldOf (s.reg (Reg.hubSuspWeight0 + (k - 1) / 4 * 4)) ((k - 1) % 4 * 8 + 7) ((k - 1) % 4 * 8)

def State.suspWatch (s : State) : Nat := s.reg Reg.hubSuspThresh % 2 ^ 16
def State.suspQuar (s : State) : Nat := s.reg Reg.hubSuspThresh / 2 ^ 16
def State.clearPasses (s : State) : Nat := fieldOf (s.reg Reg.hubSuspCfg) 15 8

/-- R371: the rows that apply to a unit entry after a change of its SCORE or PASSES. -/
def State.evalUnit (s : State) (u : Nat) : State :=
  let e := s.suspEnt u
  let s1 := if e.st == .clear && decide (s.suspWatch ≤ e.score) then (s.setSusp u { e with st := .watch }).setBits Reg.hubSuspStatus 1 else s
  let e1 := s1.suspEnt u
  if e1.st == .watch && decide (s.suspQuar ≤ e1.score) then (s1.setSusp u { e1 with st := .quarReq }).setBits Reg.hubSuspStatus 2
  else if e1.st == .watch && decide (s.clearPasses ≤ e1.passes) && decide (2 * e1.score < s.suspWatch) then s1.setSusp u { e1 with st := .clear }
  else s1

/-- Evaluates a run of `n` unit entries. -/
def State.evalUnits (s : State) (u : Nat) : Nat → State
  | 0 => s
  | n + 1 => (s.evalUnit u).evalUnits (u + 1) n

/-- The detail entries. -/
def detailEnts : List Nat := (List.range 0xE00).map (0x200 + ·)

/-- The entry of least SCORE, the oldest LAST among those. -/
def State.weakest (s : State) : List Nat → Nat
  | [] => 0x200
  | [e] => e
  | e :: t =>
    let w := s.weakest t
    if (s.suspEnt w).score < (s.suspEnt e).score ∨
      ((s.suspEnt w).score = (s.suspEnt e).score ∧ (s.suspEnt w).last < (s.suspEnt e).last) then w else e

/-- The detail entry for (unit, kind, signature): the one that holds it, else a FREE one, else the weakest, evicted. -/
def State.detailFor (s : State) (u k sig : Nat) : Nat × Bool :=
  match (s.susp.filter (fun p => decide (0x200 ≤ p.1))).find? (fun p =>
      p.2.st != .free && p.2.unit == u && p.2.kind == k && p.2.sig == sig) with
  | some p => (p.1, false)
  | none =>
    match detailEnts.find? (fun e => (s.suspEnt e).st == .free) with
    | some e => (e, false)
    | none => (s.weakest detailEnts, true)

/-- Adds an observation of weight `w` to an entry. -/
def Susp.hit (e : Susp) (w now : Nat) : Susp :=
  { e with score := min 0xFFFF (e.score + w), count := min (2 ^ 32 - 1) (e.count + 1), last := now,
           first := if e.count = 0 then now else e.first, passes := 0 }

/-- R369: an observation of kind `k` against unit `u`. -/
def State.observe (s : State) (k u sig : Nat) : State :=
  let w := s.weight k
  let d := s.detailFor u k sig
  let old := s.suspEnt d.1
  let keep := old.st != .free && old.unit == u && old.kind == k && old.sig == sig
  let fresh : Susp := { unit := u, kind := k, st := .clear, sig := sig }
  let s1 := (s.setSusp u ((s.suspEnt u).hit w s.time)).setSusp d.1 ((if keep then old else fresh).hit w s.time)
  let s2 := if d.2 then (s1.count Reg.hubCntSuspEvict).setBits Reg.hubSuspStatus 4 else s1
  (s2.count Reg.hubCntSuspObs).evalUnit u

/-- PASSES of a unit entry raised by one (R366). -/
def State.passUnit (s : State) (u : Nat) : State :=
  let e := s.suspEnt u
  (s.setSusp u { e with passes := min 0xFFFF (e.passes + 1) }).evalUnit u

/-- SUSPECT_SCORE_HALVING (R370): every SCORE is halved once per HALF minutes of the time base; before that, nothing. -/
def execSuspectScoreHalving (s : State) : Host.Outcome State Fault Refusal :=
  .next (let half := max 1 (s.reg Reg.hubSuspCfg % 2 ^ 8)
    if s.time < s.halvedAt + half * secT 60 then s
    else ({ s with halvedAt := s.halvedAt + half * secT 60,
                   susp := s.susp.map (fun (p : Nat × Susp) => (p.1, { p.2 with score := p.2.score / 2 })) }).evalUnits 0 0x104)

end Sys2Proof.Machine
end

