-- ==== Sys2Proof/Machine/Ladle.lean ====
section
/-! DEFINITION. The Ladle (04_tap_contract, 05_skeleton_residue): descriptors, the taps, breaches of the tap contract, the
verdict, the BCV channel, tile reset and the self-check. -/

namespace Sys2Proof.Machine

/-! ### The ops of a tile -/

/-- A clock control domain is stopped: by a zone in SHUTDOWN whose mask names it, or by the hard trip (R431). -/
def State.domStopped (s : State) (d : Nat) : Bool :=
  s.trv.tripped || s.trv.curve.zones.zipIdx.any (fun p => (Tab.get {} s.trv.zones p.2).st == .shutdown && bitAt p.1.mask d == 1)

/-- HUB_WATCH_DOM.CLK of a unit, the clock control domain of the tile where the unit is an engine (R422). -/
def State.clkOf (s : State) (u : Nat) : Nat := (Tab.get {} s.watchDoms u).clk

/-- Whether a tile exists, is out of reset and has its clock running. -/
def State.tileRuns (s : State) (t : Nat) : Bool := decide (t < s.cfg.ladles) && ! (s.ladle t).inReset && ! s.domStopped (s.clkOf t)

/-- Changes the ops of a tile. -/
def State.mapOps (s : State) (t : Nat) (f : LOp → LOp) : State :=
  s.setLadle t { s.ladle t with ops := (s.ladle t).ops.map f }

/-- The op that a tag names: the first that is not complete (R101). -/
def State.nameable (s : State) (t tag : Nat) : Option LOp := (s.ladle t).ops.find? (fun o => o.tag == tag && o.nameable)

/-- Writes an op back in its place. -/
def State.putOp (s : State) (t : Nat) (v : LOp) : State := s.mapOps t (fun o => if o.id == v.id then v else o)

/-- Ops leave the table once their verdict is given, they are complete and no BCV of theirs waits. -/
def State.sweep (s : State) (t : Nat) : State :=
  s.setLadle t { s.ladle t with ops := (s.ladle t).ops.filter (fun o => ! (o.done && ! o.nameable && o.bcvLeft.isEmpty)) }

/-- Ops open on a tile. -/
def Ladle.open_ (l : Ladle) : Nat := (l.ops.filter (fun o => ! o.closed)).length

/-- One more of Ladle counter `k` (R155), `k` counting from LDL_CNT_OPS. -/
def State.ldlCount (s : State) (t k n : Nat) : State := s.countN (atTile t (Reg.ldlCntOps + 4 * k)) n

/-- Adds to the per-op counts. -/
def LOp.tally (o : LOp) (k n : Nat) : LOp := { o with counts := addCount o.counts k n }

/-- Adds a finding, once. -/
def LOp.find (o : LOp) (f : Finding) : LOp := if o.found.contains f then o else { o with found := o.found ++ [f] }

/-! ### Breaches (R122, R128, R129) -/

/-- R128, R129: a bit of LDL_TAP_ERR is set; the first breach is captured. -/
def State.tapErr (s : State) (t bit opseq tag : Nat) : State :=
  let a := atTile t Reg.ldlTapErr
  let s1 := if s.reg a = 0 then s.setReg (atTile t Reg.ldlTapErrtag) (opseq % 2 ^ 24 * 2 ^ 8 + bit * 2 ^ 4 + tag % 16) else s
  s1.setBits a (2 ^ bit)

/-- Breaches of one op in a tile cycle: the op fails, the rows of R122 that apply are each counted in LDL_CNT_TAPERR (R123), with a UC
fault of class tap. -/
def State.breachN (s : State) (t : Nat) (o : LOp) (rows : Nat) : State × LOp :=
  if rows = 0 then (s, o)
  else (((s.tapErr t 0 o.d.opseq o.tag).ldlCount t 19 rows).faultInt clsTap o.d.ctx, (o.find .tap).tally 19 rows)

/-- A breach that fails one op. -/
def State.breach (s : State) (t : Nat) (o : LOp) : State × LOp := s.breachN t o 1

/-- The op that a discarded beat concerns (R129): the one that its tag names, else the oldest open one (log entry 108). -/
def State.beatOp (s : State) (t tag : Nat) : Option LOp := (s.nameable t tag).or ((s.ladle t).ops.find? (fun o => ! o.closed))

/-- The first two rows of R122: the beat is discarded and every open op of the tile fails. The rows that apply are each counted
(R123). -/
def State.discardBeat (s : State) (t tag rows : Nat) : State :=
  (((s.mapOps t (fun o => if o.closed then o else o.find .tap)).tapErr t 0 (((s.beatOp t tag).map (fun o => o.d.opseq)).getD 0) tag).ldlCount
    t 19 rows).faultInt clsTap 0

/-- A breach of one finding without a Colander fault: closure, egress, seal. -/
def State.softBreach (s : State) (t : Nat) (o : LOp) (bit k : Nat) (f : Finding) : State × LOp :=
  ((s.tapErr t bit o.d.opseq o.tag).ldlCount t k 1, (o.find f).tally k 1)

/-- R105: a descriptor error, with a UC fault of class descriptor. -/
def State.descError (s : State) (t : Nat) (o : LOp) : State × LOp :=
  (((s.tapErr t 1 o.d.opseq o.tag).ldlCount t 17 1).faultInt clsDesc o.d.ctx,
    { (o.find .descErr).tally 17 1 with accept := .descErr })

/-- Runs a beat against the op its tag names: a tile in reset ignores it, a tag that names none is the first row of R122, counted with
the `more` rows that apply beside it. -/
def State.onBeatWith (s : State) (t tag more : Nat) (f : LOp → State × LOp) : State :=
  if ! s.tileRuns t then s
  else
    match s.nameable t tag with
    | none => s.discardBeat t tag (1 + more)
    | some o => let r := f o; (r.1.putOp t r.2).sweep t

/-- `onBeatWith` for a beat to which no other row can apply. -/
def State.onBeat (s : State) (t tag : Nat) (f : LOp → State × LOp) : State := s.onBeatWith t tag 0 f

/-- R122: a block between the beats of another; every op whose block is interrupted or interrupts fails. The op whose block was
interrupted takes its finding here, the other with the beat. -/
def State.cutBy (s : State) (t : Nat) (cut : Option Nat) : State :=
  match cut with
  | none => s
  | some tag2 => s.mapOps t (fun p => if p.tag == tag2 && p.nameable then p.find .tap else p)

/-! ### DESCRIPTOR_BEAT (R101, R104, R105) -/

/-- The recipe of a slot as its shadow holds it: only an ACTIVE slot has one. -/
def State.shadow (s : State) (n : Nat) : Option Recipe := if (s.rcp n).st == .active then (s.rcp n).recipe else none

/-- R104 rows 1 to 4; true where a row applies. -/
def State.descBad (s : State) (d : Desc) (spA spB : Option Sparse) : Bool :=
  d.row1 || (! d.isRoute &&
    (match s.shadow d.slot with
     | none => true
     | some r => d.row2 r || d.row3 r || d.row4)) || (d.isRoute && (spA.isSome || spB.isSome))

/-- The vector of the op that a tile's Whisk run injects next (R359). -/
def State.nextVec (s : State) (t : Nat) : Option WVec :=
  (s.whisk.find? (fun w => w.tile == t)).bind (fun w => w.vecs[w.res.length + ((s.ladle t).ops.filter (fun o => o.whisk && ! o.done)).length]?)

/-- The op of a descriptor, with the recipe of its slot; an injected one with the closure values of the Whisk (R362). -/
def State.newOp (s : State) (t tag : Nat) (d : Desc) (spA spB : Option Sparse) (bad : Bool) : LOp :=
  let wh := s.whisk.any (fun w => w.tile == t)
  let v := s.nextVec t
  let w := v.getD {}
  { id := (s.ladle t).nextId, tag := tag, d := d, spA := spA, spB := spB, whisk := wh, rcp := s.shadow d.slot,
    lay := d.layout (s.shadow d.slot) spA spB bad, vec := v, closA := w.closA, closB := w.closB, closC := w.closC }

/-- A descriptor opens an op (R101). -/
def State.openOp (s : State) (t tag : Nat) (d : Desc) (spA spB : Option Sparse) : State :=
  let bad := s.descBad d spA spB
  let o := s.newOp t tag d spA spB bad
  let wh := o.whisk
  let l := s.ladle t
  let s1 := s.setLadle t { l with nextTag := (tag + 1) % 16, nextId := l.nextId + 1 }
  let put (q : State × LOp) : State := q.1.setLadle t { q.1.ladle t with ops := (q.1.ladle t).ops ++ [q.2] }
  if bad then put (s1.descError t o)
  else if wh then put (s1.ldlCount t 0 1, { o.tally 0 1 with accept := .ok 0 0 0 })
  else { put (s1, o) with lidQ := s.lidQ ++ [(t, o.id)] }

/-- DESCRIPTOR_BEAT: a wrong or used tag, or a fifth open op, is a breach; else the op opens. A running self-check is
abandoned and starts again later (R154). -/
def execDescriptorBeat (tile tag data : Nat) (spA spB : Option Sparse) (s : State) :
    Host.Outcome State Fault Refusal :=
  .next (if ! s.tileRuns tile then s
    else
      let l := s.ladle tile
      let s1 := if l.kat == .running then s.setLadle tile { l with kat := .requested } else s
      let rows := b2n (tag != l.nextTag || (s1.nameable tile tag).isSome) + b2n (decide (4 ≤ l.open_))
      if rows = 0 then s1.openOp tile tag (Desc.ofWord data) spA spB else s1.discardBeat tile tag rows)

/-! ### SEAL_INGRESS_BLOCK (R106, R107, R167, R168, R172) -/

/-- Whether the step of an op runs in sealed provenance (R323, R325). -/
def State.sealedProv (s : State) (d : Desc) : Bool :=
  (s.ctx d.ctx).slots.any (fun k => k.live && k.step == d.step && k.provMode == 2)

/-- A block inside its region's extent and not seen before is verified against the address where the op should have read
it, and its elements enter the closure value of its region. -/
def State.ingress (s : State) (t : Nat) (o : LOp) (region off : Nat) (data : Bytes) (sbv : Nat) : State × LOp :=
  let r := o.lay.region region
  let crc := crc32cRaw data
  let blk := r.base + off
  let ib : InBlock := { region := region, off := off, crc := crc, fmt := bcvFmt sbv, poison := bcvPoison sbv,
                        sha := if s.sealedProv o.d then sha384 data else [] }
  let o1 := { o.closeAt region (r.blockClosure off data) with ing := (region, off) :: o.ing, inBlocks := o.inBlocks ++ [ib] }
  match verifyBlock crc sbv blk o.d.gen (r.fmtAt off) with
  | .verified => (s.count Reg.hubCntBlkVerified, o1)
  | .poisoned => (s.count Reg.hubCntPoisoned, { o1.find .poisoned with poison := o1.poison ++ [blk] })
  | .fails kind =>
    let q := s.softBreach t o1 4 22 .sealFail
    (q.1, { q.2 with seals := q.2.seals ++ [{ blk := blk, kind := kind, bcv := sbv, fmt := r.fmtAt off }] })

/-- SEAL_INGRESS_BLOCK: a block outside its region's extent, or one presented twice, is a breach; else it is verified. -/
def execSealIngressBlock (tile tag region blk : Nat) (data : Bytes) (bcv : Nat) (cut : Option Nat) (s : State) :
    Host.Outcome State Fault Refusal :=
  .next ((if s.tileRuns tile then s.cutBy tile cut else s).onBeatWith tile tag (b2n cut.isSome) (fun o =>
    let outside := ! decide (blk < (o.lay.region region).blocks) || o.whisk
    let rows := b2n cut.isSome + (if o.consumed then 0 else b2n outside + b2n (o.ing.contains (region, blk)))
    let q := (s.cutBy tile cut).breachN tile o rows
    if o.consumed || outside || o.ing.contains (region, blk) then q
    else q.1.ingress tile q.2 region blk (slice data 0 4096) (bcv % 2 ^ 64)))

/-! ### EGRESS_BLOCK_COMPARE (R108) -/

/-- Compares the presented blocks whose elements have all been presented. -/
def State.compareBlocks (s : State) (t : Nat) (o : LOp) : List (Nat × Bytes) → State × LOp
  | [] => (s, o)
  | (off, data) :: rest =>
    if o.egrDone.contains off || ! o.packed off then s.compareBlocks t o rest
    else
      let o1 := { o with egrDone := off :: o.egrDone }
      if o.packBlockAt off == data || o.consumed then s.compareBlocks t o1 rest
      else let q := s.softBreach t o1 3 21 .egress; q.1.compareBlocks t q.2 rest

/-- EGRESS_BLOCK_COMPARE: the block enters device memory; it is compared once every element it packs has been presented. -/
def execEgressBlockCompare (tile tag blk : Nat) (data : Bytes) (cut : Option Nat) (s : State) :
    Host.Outcome State Fault Refusal :=
  .next ((if s.tileRuns tile then s.cutBy tile cut else s).onBeatWith tile tag (b2n cut.isSome) (fun o =>
    let outside := ! decide (blk < o.lay.out.blocks) || o.whisk
    let again := (lookup o.egr blk).isSome
    let q := (s.cutBy tile cut).breachN tile o (b2n cut.isSome + b2n outside + b2n again)
    if outside || again then q
    else
      let d := slice data 0 4096
      let o1 := { q.2 with egr := q.2.egr ++ [(blk, d)] }
      (q.1.setBytes ((o.lay.out.base + blk) * 4096) d).compareBlocks tile o1 o1.egr))

/-! ### OPERAND_BEAT (R110, R136, R137, R144) -/

/-- R137: residues that wait on the tile beyond the buffer's 8,192 end the residue check of the op that owns the beat. -/
def State.bufferCheck (s : State) (t : Nat) (o : LOp) (was : Nat) : State × LOp :=
  let others := ((s.ladle t).ops.filter (fun p => p.id != o.id)).map LOp.waiting
  if o.resOff || decide (o.waiting ≤ was) || decide (others.foldl (· + ·) 0 + o.waiting ≤ 8192) then (s, o)
  else (s.ldlCount t 15 1, { o.tally 15 1 with resOff := true })

/-- R144: a stream found malformed fails the op, once. -/
def State.indexCheck (s : State) (t : Nat) (o : LOp) (atEnd : Bool) : State × LOp :=
  match o.badIx, (if o.consumed then none else o.malformed atEnd) with
  | none, some c => (s.ldlCount t 13 1, { (o.find .index).tally 13 1 with badIx := some c })
  | _, _ => (s, o)

/-- OPERAND_BEAT: after the close it is a breach, and the beat is discarded; an element presented twice is one too. -/
def execOperandBeat (tile tag kind row col : Nat) (run : List Nat) (s : State) :
    Host.Outcome State Fault Refusal :=
  .next (s.onBeat tile tag (fun o =>
    let new := o.run kind row col run
    let rows := b2n o.closed + b2n (! o.consumed && o.repeats kind new)
    if o.closed then s.breachN tile o rows
    else
      let q := s.breachN tile (o.addOperand kind new) rows
      let q2 := q.1.indexCheck tile q.2 false
      q2.1.bufferCheck tile q2.2 o.waiting))

/-! ### OUTPUT_BEAT and OUTPUT_LAST_BEAT (R112, R115, R147) -/

/-- L of a tile: the lanes of its output tap (R99, R126). -/
def State.lanesOf (s : State) (t : Nat) : Nat := 8 * 2 ^ ((Tab.get {} s.cfg.tapId t).lanes % 4)

/-- The lanes of an output beat that the tile's tap has. -/
def State.laneCut (s : State) (t : Nat) (lanes : List (Option OutEl)) : List (Option OutEl) := lanes.take (s.lanesOf t)

/-- What the elements of an output beat breach of R122: one lies outside the op, one is presented twice. -/
def LOp.elsOutside (o : LOp) (els : List (Nat × OutEl)) : Bool := els.any (fun p => ! o.lay.out.holds p.1)
def LOp.elsAgain (o : LOp) (els : List (Nat × OutEl)) : Bool := els.any (fun p => (lookup o.outs p.1).isSome)

/-- Takes the elements of an output beat that lie inside the op; of one presented twice the first counts. -/
def LOp.addOuts (o : LOp) (els : List (Nat × OutEl)) : LOp :=
  { o with outs := o.outs ++ fresh o.outs (els.filter (fun p => o.lay.out.holds p.1)) }

/-- What the scale bytes of an output beat breach, and their intake. -/
def LOp.scsOutside (o : LOp) (scs : List (Nat × Nat)) : Bool := scs.any (fun p => ! decide (p.1 < o.lay.out.groups))
def LOp.scsAgain (o : LOp) (scs : List (Nat × Nat)) : Bool := scs.any (fun p => (lookup o.scOut p.1).isSome)
def LOp.addScales (o : LOp) (scs : List (Nat × Nat)) : LOp :=
  { o with scOut := o.scOut ++ fresh o.scOut (scs.filter (fun p => decide (p.1 < o.lay.out.groups))) }

/-- A breach of an op whose elements the Ladle checks. -/
def State.outBreach (s : State) (t : Nat) (o : LOp) (rows : Nat) : State × LOp := s.breachN t o (if o.consumed then 0 else rows)

/-- OUTPUT_BEAT: after the close it is a breach, and the beat is discarded; lanes outside the op and elements presented twice are one too. -/
def execOutputBeat (tile tag : Nat) (scale : Bool) (row col : Nat) (lanes : List (Option OutEl)) (s : State) :
    Host.Outcome State Fault Refusal :=
  .next (s.onBeat tile tag (fun o =>
    let els := laneEls row col (s.laneCut tile lanes)
    let scs := laneScales col (s.laneCut tile lanes)
    let rows := if scale then b2n (o.scsOutside scs) + b2n (o.scsAgain scs) else b2n (o.elsOutside els) + b2n (o.elsAgain els)
    if o.closed then s.breachN tile o (1 + rows)
    else
      let q := s.outBreach tile (if scale then o.addScales scs else o.addOuts els) rows
      q.1.compareBlocks tile q.2 q.2.egr))

/-- The checks at the close of an op: the breaches of its last beat with those that the close shows, missing elements, missing blocks and
the route tap, each row of R122 counted once (R123), then the closure values and the index streams (R111, R144). -/
def State.closeChecks (s : State) (t : Nat) (o : LOp) (outside again : Bool) : State × LOp :=
  if o.consumed then (s, o)
  else
    let q1 := s.breachN t o (b2n (again || o.missing) + b2n outside + b2n (! o.whisk && o.missingBlocks) + b2n (o.d.isRoute && ! o.rteLast))
    let q2 := if (o.whisk && o.vec.isNone) || o.closuresAgree then q1 else q1.1.softBreach t q1.2 2 20 .closure
    q2.1.indexCheck t q2.2 true

/-- OUTPUT_LAST_BEAT: the op closes with its flag word. -/
def execOutputLastBeat (tile tag row col : Nat) (lanes : List (Option OutEl)) (flags : Nat) (s : State) :
    Host.Outcome State Fault Refusal :=
  .next (s.onBeat tile tag (fun o =>
    let els := laneEls row col (s.laneCut tile lanes)
    if o.closed then s.breachN tile o (1 + b2n (o.elsOutside els) + b2n (o.elsAgain els))
    else
      let o1 := o.addOuts els
      let q := s.compareBlocks tile o1 o1.egr
      q.1.closeChecks tile { q.2 with closed := true, flags := flags % 64 } (o.elsOutside els) (o.elsAgain els)))

/-! ### Converter max and route taps (R116, R117, R177) -/

/-- CONVERTER_MAX_BEAT: a second one, or one that the op requires none of, is discarded and fails the op. A tile without the tap (R126)
presents none. -/
def execConverterMaxBeat (tile tag m : Nat) (s : State) : Host.Outcome State Fault Refusal :=
  .next (if ! (Tab.get {} s.cfg.tapId tile).cmx then s
    else s.onBeat tile tag (fun o =>
      if ! o.needCmx || o.cmx.isSome then s.breach tile o else (s, { o with cmx := some (m % 2 ^ 32) })))

/-- CONVERTER_MAX_DEADLINE: 16 tile cycles after the close of an op whose converter max beat is absent. No deadline runs
while the tile is in reset or its clock is stopped. -/
def execConverterMaxDeadline (tile tag : Nat) (s : State) : Host.Outcome State Fault Refusal :=
  .next (if ! s.tileRuns tile then s
    else
      match s.nameable tile tag with
      | none => s
      | some o =>
        if o.closed && o.needCmx && o.cmx.isNone && ! o.cmxLate then
          let q := s.breach tile { o with cmxLate := true }
          q.1.putOp tile q.2
        else s)

/-- Folds the triples of a route beat (R177). -/
def RouteSum.folds (r : RouteSum) : List (Nat × Nat × Nat) → RouteSum
  | [] => r
  | (k, e, d) :: t => (r.fold k e d).folds t

/-- ROUTE_BEAT: of an op that is no route op, or after its close, it is a breach; so is one after zv_rte_last, which the op does not await
(log entry 109). A tile without the tap (R126) presents none. -/
def execRouteBeat (tile tag : Nat) (triples : List (Nat × Nat × Nat)) (last : Bool) (s : State) :
    Host.Outcome State Fault Refusal :=
  .next (if ! (Tab.get {} s.cfg.tapId tile).route then s
    else s.onBeat tile tag (fun o =>
      if o.closed || ! o.d.isRoute || o.rteLast then s.breach tile o
      else (s.ldlCount tile 26 1, { o.tally 26 1 with route := o.route.folds triples, rteLast := last })))

/-! ### LID_ACCEPTANCE (R138, R504, R104 rows 5 and 6) -/

/-- The Lid's answer for an op reaches it: the tensor scales of an accepted op, or the refusal. -/
def State.takeAnswer (s : State) (t : Nat) (o : LOp) (a : Accept) : State :=
  let q : State × LOp := match a with
    | .ok x y z => (s.ldlCount t 0 1, { o.tally 0 1 with accept := .ok x y z })
    | .stale => (s.ldlCount t 18 1, { o.tally 18 1 with accept := .stale })
    | .descErr => s.descError t o
    | .refused => (s, { o.find .refused with accept := .refused })
    | .waiting => (s, o)
  q.1.putOp t q.2

/-- LID_ACCEPTANCE: the first answer on its way to an op of this tag arrives. -/
def State.lidAnswer (s : State) (t tag : Nat) : State :=
  match s.answers.find? (fun p => p.1 == t && (s.ladle t).ops.any (fun o => o.id == p.2.1 && o.tag == tag)) with
  | none => s
  | some a =>
    let s1 := { s with answers := s.answers.filter (fun p => ! (p.1 == t && p.2.1 == a.2.1)) }
    match (s1.ladle t).ops.find? (fun o => o.id == a.2.1) with
    | none => s1
    | some o => s1.takeAnswer t o a.2.2

def execLidAcceptance (tile tag : Nat) (s : State) : Host.Outcome State Fault Refusal := .next (s.lidAnswer tile tag)

/-! ### LADLE_VERDICT (R146 to R149, R153, R157, R163, R509) -/

/-- Whether an op has all that its verdict waits for: its close, the Lid's answer, its converter max beat or the deadline
of it, and the comparison of every output block (R101, R108, R138). A block whose elements never came is not compared where the op has a tap
finding already (log entry 110). -/
def LOp.ready (o : LOp) : Bool :=
  o.closed && ! o.done && o.accept != .waiting && (! o.needCmx || o.cmx.isSome || o.cmxLate) &&
    (o.whisk || (List.range o.lay.out.blocks).all (fun k => (lookup o.egr k).isSome &&
      (o.egrDone.contains k || o.found.contains .tap || o.consumed)))

/-- Applies counts to the Ladle's counters and to the op. -/
def State.ldlCounts (s : State) (t : Nat) (o : LOp) : List (Nat × Nat) → State × LOp
  | [] => (s, o)
  | (k, n) :: rest => if n = 0 then s.ldlCounts t o rest else (s.ldlCount t k n).ldlCounts t (o.tally k n) rest

/-- R157: the capture of a failed op, while none is held. -/
def State.locCapture (s : State) (t : Nat) (o : LOp) (loc : Location) : State :=
  if s.bit (atTile t Reg.ldlStatus) 4 then s
  else
    match o.locOf loc with
    | none => s
    | some (kind, row, col, syn) =>
      ((((s.setReg (atTile t Reg.ldlLocOp) (o.d.opseq % 2 ^ 24 * 2 ^ 8 + kind * 2 ^ 4 + o.tag)).setReg
        (atTile t Reg.ldlLocPos) (row % 2 ^ 16 * 2 ^ 16 + col % 2 ^ 16)).setReg (atTile t Reg.ldlLocSyn) syn).setReg
        (atTile t Reg.ldlLocCtx) (o.d.gen * 2 ^ 16 + o.d.ctx)).setBits (atTile t Reg.ldlStatus) (2 ^ 4)

/-- The verdict of an op with its findings: the op, its location and what the checks count. LDL_CNT_SAT follows the flag word alone (R155,
log entry 99); LDL_CNT_MORTARONLY counts the verdicts of R87. -/
def LOp.judge (o : LOp) : LOp × Location × List (Nat × Nat) :=
  match o.accept with
  | .ok tsA tsB tsOut =>
    let r := o.rcp
    let cmp := o.compared r
    let loc := if cmp then o.locate r tsA tsB tsOut else .pass
    let spec := o.specBad r
    let o1 := if loc == .pass then o else o.find .residue
    let o2 := if spec.isEmpty then o1 else { o1.find .spec with specEls := spec.map (fun x => (crdRow x, crdCol x)) }
    let mx := o.cmxBad tsOut
    let o3 := if mx then o2.find .maxtap else o2
    let located := match loc with
      | .located _ => 1
      | _ => 0
    (o3, loc, [(1, o.outs.length), (2, b2n (cmp && loc == .pass)), (3, b2n (loc != .pass)), (4, located),
      (5, b2n (loc != .pass) - located), (6, (o.outs.filter (fun p => p.2.spec && ! spec.contains p.1)).length),
      (7, b2n (! spec.isEmpty)), (8, b2n (o.hasNan r)), (9, bitAt o.flags 4), (10, b2n (o.hasInf r)), (11, bitAt o.flags 5),
      (12, b2n mx), (14, b2n (o3.found.isEmpty && o.mortarOnly r))])
  | _ => (o, .pass, [])

/-- The op report of R148. -/
def LOp.report (o : LOp) (t : Nat) (v : Verdict) (cmp : Bool) (loc : Location) (tsOut : Int) : Report :=
  { tile := t, tag := o.tag, d := o.d, verdict := v, found := o.found, loc := loc, specEls := o.specEls,
    obs := o.observedAt loc tsOut, flags := o.flags, cmx := o.cmx, poison := o.poison, seals := o.seals, compared := cmp,
    resOff := o.resOff, route := o.route, counts := o.counts, outs := o.outs.map (fun p => (o.lay.out.pos p.1, p.2.code)),
    inBlocks := o.inBlocks, outCrc := o.egr.map (fun p => (p.1, crc32cRaw p.2)) }

/-- The verdict that the findings of an op give (R148, R504). -/
def LOp.verdictOf (o : LOp) (r : Option Recipe) : Verdict :=
  if o.accept == .refused then .refused
  else if ! o.found.isEmpty then .failed
  else if o.mortarOnly r || o.resOff then .mortarOnly
  else .pass

/-- The output of an op packed under R36, its scale bytes after its elements. -/
def LOp.packed36 (o : LOp) : Bytes :=
  packBytes (fmtBits o.lay.out.fmt) ((List.range o.lay.out.count).map (fun p => ((lookup o.outs (o.lay.out.coordAt p)).map OutEl.code).getD 0)) ++
    (List.range o.lay.out.groups).map (fun g => BitVec.ofNat 8 ((lookup o.scOut g).getD 0))

/-- R362: whether the output and the flag word of an injected op equal its expectation; none for an op of a run without vectors. -/
def LOp.same (o : LOp) : Option Bool := o.vec.map (fun v => crc32cRaw o.packed36 == v.crc && o.flags == v.flags)

/-- The verdict of an injected op joins the results of the tile's run (R366). -/
def State.whiskResult (s : State) (t : Nat) (r : WhiskRes) : State :=
  { s with whisk := s.whisk.map (fun w => if w.tile == t then { w with res := w.res ++ [r] } else w) }

/-- LADLE_VERDICT: the verdict is reported, and the BCVs of the output blocks are formed while the seal gate is open. A
stale op is never sealed and gives no report. A refused op has no verdict that could be late, and is reported once its BCVs are sent
(R504). -/
def State.verdict (s : State) (t : Nat) (o : LOp) (late' : Bool) : State :=
  let late := late' && o.accept != .refused
  let j := o.judge
  let q := s.ldlCounts t j.1 (j.2.2 ++ [(16, b2n late)])
  let v := q.2.verdictOf o.rcp
  let tsOut := match o.accept with
    | .ok _ _ z => z
    | _ => 0
  let s1 := if late then q.1.setBits (atTile t Reg.ldlStatus) (2 ^ 5) else q.1
  let s2 := s1.locCapture t q.2 j.2.1
  let none' := o.accept == .stale || o.whisk || (s.ladle t).gateShut
  let o1 := { q.2 with done := true, poisonOut := v != .pass && v != .mortarOnly,
                       bcvLeft := if none' then [] else List.range o.lay.out.blocks }
  let s3 := (s2.putOp t o1).sweep t
  if o.whisk then s3.whiskResult t { tap := o1.found.contains .tap, pass := v == .pass || v == .mortarOnly, same := o1.same }
  else if o.accept == .stale || (o.accept == .refused && ! o1.bcvLeft.isEmpty) then s3
  else { s3 with reports := s3.reports ++ [o1.report t v (o.compared o.rcp) j.2.1 tsOut] }

def execLadleVerdict (tile tag : Nat) (late : Bool) (s : State) : Host.Outcome State Fault Refusal :=
  .next (if ! s.tileRuns tile then s
    else
      match (s.ladle tile).ops.find? (fun o => o.tag == tag && o.ready) with
      | none => s
      | some o => s.verdict tile o late)

/-! ### BCV_HANDSHAKE (R109, R163) -/

/-- The BCV of an output block at offset `off` (R163). -/
def LOp.bcvAt (o : LOp) (t off : Nat) : Nat :=
  bcv ((lookup o.egr off).getD []) (o.lay.out.base + off) o.d.gen (o.lay.out.fmtAt off) o.poisonOut t

/-- R504: the report of a refused op, once the last of its BCVs has gone out. -/
def State.refusedReport (s : State) (t : Nat) (o : LOp) : State :=
  if o.accept == .refused && o.bcvLeft.isEmpty then { s with reports := s.reports ++ [o.report t .refused false .pass 0] } else s

/-- BCV_HANDSHAKE: a waiting BCV of the tile is transferred, and the memory path writes it into the block's sideband. -/
def execBcvHandshake (tile blk : Nat) (s : State) : Host.Outcome State Fault Refusal :=
  .next (if ! s.tileRuns tile then s
    else
      match (s.ladle tile).ops.find? (fun o => o.bcvLeft.any (fun k => o.lay.out.base + k == blk)) with
      | none => s
      | some o =>
        let off := blk - o.lay.out.base
        let v := o.bcvAt tile off
        let o1 := { o with bcvLeft := o.bcvLeft.erase off }
        ((((s.putOp tile o1).setSb blk v).emit (.bcv tile blk v)).refusedReport tile o1).sweep tile)

/-! ### Tile reset, the Ladle's own fault, the self-check (R124, R154, R383) -/

/-- Whether a reset closes an op as abandoned: it has not sent the BCV of every output block. One that the Ladle's own fault failed never
sends them (R383). -/
def LOp.unsent (o : LOp) : Bool := ! o.done || ! o.bcvLeft.isEmpty || o.found.contains .ladle

/-- Counts and reports the ops that a reset closes; an injected op, which R362 keeps from the Lid, gives no report. -/
def State.abandonOps (s : State) (t : Nat) : List LOp → State
  | [] => s
  | o :: rest =>
    let s1 := s.ldlCount t 23 1
    let s2 := if o.whisk then s1
      else { s1 with reports := s1.reports ++ [(o.tally 23 1).report t .abandoned false .pass 0] }
    s2.abandonOps t rest

/-- R383: a tile reset clears the error state of its Ladle, and its pair in ERROR returns to OK. -/
def State.ladleOk (s : State) (t : Nat) : State :=
  let p := s.pair (t / 8) (t % 8)
  if p.filt = some .error then
    s.setPair (t / 8) (t % 8) { p with filt := some .ok, lvl := .ok, decoded := p.decoded || s.pairOn (t / 8) (t % 8) }
  else s

/-- R124, R406: a tile enters reset. Its ops close as abandoned, waiting BCVs are dropped, the error state of its Ladle is
cleared. -/
def State.ladleReset (s : State) (t : Nat) : State :=
  let l := s.ladle t
  let s1 := s.abandonOps t (l.ops.filter LOp.unsent)
  { s1.setLadle t { l with nextTag := 0, ops := [], inReset := true, kat := .idle, askers := 0, gateShut := false, checked := none } with
    lidQ := s1.lidQ.filter (fun p => p.1 != t), answers := s1.answers.filter (fun p => p.1 != t) }

/-- R383: the Ladle's pair is decoded in ERROR. The seal gate closes, and the open ops and those whose BCV is dropped are
reported failed. -/
def State.ladleFault (s : State) (t : Nat) : State :=
  let l := s.ladle t
  let hit (o : LOp) : Bool := (! o.closed && ! o.done) || ! o.bcvLeft.isEmpty
  let fail (o : LOp) : LOp := { o.find .ladle with done := true, bcvLeft := [] }
  let reps := (l.ops.filter (fun o => hit o && ! o.whisk && o.accept != .stale)).map (fun o => (fail o).report t .failed false .pass 0)
  let s1 := s.setLadle t { l with gateShut := true, ops := l.ops.map (fun o => if hit o then fail o else o) }
  { s1 with reports := s1.reports ++ reps }

/-- The result of a self-check reaches the arbitrations that await one of the Ladle (R203). -/
def State.katAnswer (s : State) (t : Nat) (pass : Bool) : State :=
  { s with arbs := s.arbs.map (fun a => if a.rep.tile == t && a.check.isNone then { a with check := some pass } else a) }

/-- R204: a failed self-check is an observation of kind checker for each arbitration that asked. -/
def State.observeChecker (s : State) (t : Nat) : Nat → State
  | 0 => s
  | n + 1 => (s.observe obChecker (unitLadle t) 0).observeChecker t n

/-- The end of a self-check (R154, R156). -/
def State.katEnd (s : State) (t : Nat) (pass : Bool) : State :=
  let s1 := (s.ldlCount t 24 1).ldlCount t 25 (b2n (! pass))
  let a := atTile t Reg.ldlStatus
  ((if pass then (s1.setBits a (2 ^ 6)).clrBits a (2 ^ 7) else (s1.setBits a (2 ^ 7)).clrBits a (2 ^ 6)).setLadle t
    { s.ladle t with kat := .idle, askers := 0, checked := some pass }).katAnswer t pass |>.observeChecker t (if pass then 0 else (s.ladle t).askers)

/-- A self-check command over the Airas ring: refused where the stop does not answer, failed at once while the Ladle's own
pair is in ERROR, else requested. -/
def State.requestKat (s : State) (t : Nat) : State :=
  if ! s.tileRuns t then s
  else if (s.ladle t).gateShut then s.katEnd t false
  else if (s.ladle t).kat == .idle then s.setLadle t { s.ladle t with kat := .requested }
  else s

/-- LADLE_SELF_CHECK_START: a requested run starts with no op open (R154). -/
def execLadleSelfCheckStart (tile : Nat) (s : State) : Host.Outcome State Fault Refusal :=
  .next (let l := s.ladle tile
    if s.tileRuns tile && l.kat == .requested && l.open_ == 0 then s.setLadle tile { l with kat := .running } else s)

/-! ### AIRAS_FRAME (R16, R17) -/

/-- The ring stop of a physical tile. -/
def State.stop (s : State) (t : Nat) : AirasStop := Tab.get {} s.stops t
def State.setStop (s : State) (t : Nat) (v : AirasStop) : State := { s with stops := Tab.set {} s.stops t v }

/-- The stop that the ring of a cluster has for its station (R15). -/
def State.stnStop (s : State) (c : Nat) : StnStop := Tab.get {} s.stnStops c
def State.setStnStop (s : State) (c : Nat) (v : StnStop) : State := { s with stnStops := Tab.set {} s.stnStops c v }

/-- Whether the CRC of a frame is right (R16). -/
def frameOk (payload seq crc : Nat) : Bool := (Config.airasCrc payload seq).toNat == crc

/-- R16: the station marks a Ladle's stop unreachable and raises the ring fault; the other stops are served on. -/
def State.unreach (s : State) (t : Nat) : State := (s.setStop t { resends := 0, unreachable := true }).faultInt clsRing t

/-- A frame at a Ladle's stop: a good one is answered, not-reachable for a tile in reset or with its clock stopped (R17); a bad one is
asked for again, and after the third resend has failed the stop is unreachable. -/
def State.ladleFrame (s : State) (t seq : Nat) (ok : Bool) : State :=
  let a := s.stop t
  if ok then (s.setStop t { a with resends := 0 }).emit (.airas t seq (s.tileRuns t))
  else if a.resends < 3 then (s.setStop t { a with resends := a.resends + 1 }).emit (.airasResend t seq false)
  else s.unreach t

/-- A frame of a Ladle's stop at the station's own stop: a good one is taken, a bad one is asked for again; the third failed resend marks
the Ladle's stop. -/
def State.stationFrame (s : State) (t seq : Nat) (ok : Bool) : State :=
  let c := t / 8
  let n := if (s.stnStop c).tile = t then (s.stnStop c).resends else 0
  if ok then s.setStnStop c {}
  else if n < 3 then (s.setStnStop c { tile := t, resends := n + 1 }).emit (.airasResend t seq true)
  else (s.setStnStop c {}).unreach t

/-- AIRAS_FRAME: a frame arrives at a ring stop. -/
def execAirasFrame (tile : Nat) (atStation : Bool) (payload seq crc : Nat) (s : State) : Host.Outcome State Fault Refusal :=
  .next (if ! decide (tile < s.cfg.ladles) || (s.stop tile).unreachable then s
    else if atStation then s.stationFrame tile seq (frameOk payload seq crc)
    else s.ladleFrame tile seq (frameOk payload seq crc))

end Sys2Proof.Machine
end

