-- ==== Sys2Proof/Machine/Access.lean ====
section
/-! DEFINITION. Access to the register map (R451, R498, R499): the response to an address, and the accesses that the rows
of the table make. -/

namespace Sys2Proof.Machine

/-- Whether an address lies in an extent of R498, the Ladles' apart. -/
def inExtent (a : Nat) : Bool :=
  decide (a < 0x6000) || (decide (0x10000 ≤ a) && decide (a < 0x12100)) || (decide (0x20000 ≤ a) && decide (a < 0x20200)) ||
    (decide (0x30000 ≤ a) && decide (a < 0x30200)) || (decide (0x40000 ≤ a) && decide (a < 0x40200)) ||
    (decide (0x50000 ≤ a) && decide (a < 0x50180)) || (decide (0x60000 ≤ a) && decide (a < 0x60200))

/-- Whether a station exists (R382, R499). -/
def State.hasStation (s : State) (stn : Nat) : Bool := decide (stn < s.cfg.stations) || stn == 16

/-- The response code of R451 for a byte address: 0 OK, 1 DECODE, 2 UNREACHABLE, 3 ALIGN. -/
def State.respCode (s : State) (a : Nat) : Nat :=
  if a % 4 ≠ 0 then 3
  else if 0x400000 ≤ a then
    let t := (a - 0x400000) / 0x1000
    if ! decide (t < s.cfg.ladles) || decide (0x200 ≤ a % 0x1000) then 1
    else if ! s.tileRuns t || (s.stop t).unreachable then 2 else 0
  else if 0x11000 ≤ a ∧ a < 0x12100 then (if s.hasStation ((a - 0x11000) / 0x100) then 0 else 1)
  else if inExtent a then 0 else 1

/-- A write of one register: it has its effect on an OK response; any other is counted (R451). -/
def State.writeAccess (s : State) (src : Src) (a : Nat) (f : State → State) : State :=
  let r := s.respCode a
  (if r = 0 then f s else s.count Reg.hubCntRegErr).emit (.regRsp src a 0 r)

/-- A read of one register, whose value `f` gives with the state that the read leaves. -/
def State.readAccess (s : State) (src : Src) (a : Nat) (f : State → State × Nat) : State :=
  let r := s.respCode a
  let q := if r = 0 then f s else (s.count Reg.hubCntRegErr, 0)
  q.1.emit (.regRsp src a q.2 r)

end Sys2Proof.Machine
end

