-- ==== Sys2Proof/Machine/Seals.lean ====
section
/-! DEFINITION. Confirmation of seal failures, poison and the route table (R168 to R174, R178 to R180, R185, R186). -/

namespace Sys2Proof.Machine

/-! ### Conditional sideband writes (R171, R202, R206) -/

/-- The BCV of a poisoned rewrite or a reseal: over the data as memory holds it, GEN and FMT kept, PRODUCER 0xFE. -/
def State.rewriteBcv (s : State) (blk : Nat) (poison : Bool) : Nat :=
  bcv (s.block blk) blk (bcvGen (s.sbOf blk)) (bcvFmt (s.sbOf blk)) poison 0xFE

/-- Poisons a block by a conditional sideband write. -/
def State.poisonBlock (s : State) (blk : Nat) : State := s.sbCwrite blk (s.sbOf blk) (s.rewriteBcv blk true) (.poison blk)

/-- Reseals a block with POISON 0. -/
def State.resealBlock (s : State) (blk : Nat) : State := s.sbCwrite blk (s.sbOf blk) (s.rewriteBcv blk false) (.reseal blk)

/-- Each of `n` blocks from `b`. -/
def State.overBlocks (s : State) (f : State → Nat → State) (b : Nat) : Nat → State
  | 0 => s
  | n + 1 => (f s b).overBlocks f (b + 1) n

/-- Poisons every output block of an op. -/
def State.poisonOuts (s : State) (o : OpRec) : State := s.overBlocks State.poisonBlock o.lay.out.base o.lay.out.blocks

/-- Reseals every output block of an op. -/
def State.resealOuts (s : State) (o : OpRec) : State := s.overBlocks State.resealBlock o.lay.out.base o.lay.out.blocks

/-! ### Poisoned input (R173) -/

/-- Whether a block lies in the output region of an op of an open step of context `c`. -/
def State.ownOutput (s : State) (c blk : Nat) : Bool :=
  (s.ctx c).slots.any (fun k => k.live && k.ops.any (fun o => o.lay.out.has blk))

/-- R173: the reach of a poisoned input of an op; `counted` where the ingress of the block has been counted in HUB_CNT_POISONED. -/
def State.poisonedInput (s : State) (c gen step q : Nat) (counted : Bool) (blk : Nat) : State :=
  let e := s.ctx c
  if e.st != .live || e.gen != gen then s
  else if s.ownOutput c blk then (if counted then s else s.count Reg.hubCntPoisoned).detectStep c gen step q 0
  else (s.count Reg.hubCntCtxKilled).terminate c

/-- Each poisoned block of a report, which the Ladle counted as it came in. -/
def State.poisonedInputs (s : State) (c gen step q : Nat) : List Nat → State
  | [] => s
  | b :: t => (s.poisonedInput c gen step q true b).poisonedInputs c gen step q t

/-! ### Confirmation (R169, R170, R185) -/

/-- A seal failure asks for a confirmation: it joins one that runs for the block, else the Hub reads the block again. -/
def State.startConfirm (s : State) (blk : Nat) (own : Bool) (gen fmt : Nat) (r : ConfRep) : State :=
  if s.confirms.any (fun c => c.blk == blk) then
    { s with confirms := s.confirms.map (fun c => if c.blk == blk then { c with reps := c.reps ++ [r] } else c) }
  else
    { s.request .read blk 0 64 (.confirm blk) with
      confirms := s.confirms ++ [{ blk := blk, own := own, gen := gen, fmt := fmt, reps := [r] }] }

/-- Class 3 of R169: the block lies in the output region of an op of an open step whose verdict is not yet reported. -/
def State.unreported (s : State) (blk : Nat) : Bool :=
  s.ctxs.any (fun p => p.2.slots.any (fun k => k.live && k.ops.any (fun o =>
    o.verdict.isNone && ! o.notAccepted && o.lay.out.has blk)))

/-- The class of R169: 1 Unreachable, 2 Path, 3 Order, 4 Memory, 5 Usage. A block that is poisoned but otherwise passes
verifies. -/
def State.confClass (s : State) (c : Confirm) (reached : Bool) : Nat :=
  if ! reached then 1
  else
    let v := s.verify c.blk (if c.own then bcvGen (s.sbOf c.blk) else c.gen) (if c.own then bcvFmt (s.sbOf c.blk) else c.fmt)
    match v with
    | .verified => 2
    | .poisoned => 2
    | .fails k => if s.unreported c.blk then 3 else if k = 2 then 4 else 5

/-- Bit of HUB_SEAL_STATUS, counter and fault class of a confirmation class. -/
def confBit (k : Nat) : Nat := if k = 2 then 1 else if k = 3 then 2 else if k = 5 then 8 else 4
def confCounter (k : Nat) : Nat :=
  if k = 1 then Reg.hubCntSealUnreach else if k = 2 then Reg.hubCntSealPath else if k = 3 then Reg.hubCntSealOrder
  else if k = 4 then Reg.hubCntSealMem else Reg.hubCntSealUsage
def confFault (k : Nat) : Nat := if k = 2 then clsSealPath else if k = 3 then clsSealOrder else if k = 5 then clsSealUsage else clsMemSeal

/-- R185: the capture of a confirmation, while none is held. -/
def State.sealCapture (s : State) (k blk : Nat) (r : ConfRep) : State :=
  if s.bit Reg.hubSealStatus 4 then s
  else
    (((((s.setReg Reg.hubSealCapBlk (blk % 2 ^ 32)).setReg Reg.hubSealCapInfo (k * 2 ^ 28 + r.kind * 2 ^ 24 + r.tile % 256 * 2 ^ 16
      + blk / 2 ^ 32 % 64)).setReg Reg.hubSealCapBcvLo (r.bcv % 2 ^ 32)).setReg Reg.hubSealCapBcvHi (r.bcv / 2 ^ 32)).setReg
      Reg.hubSealCapCtx (r.gen * 2 ^ 16 + r.ctx)).setBits Reg.hubSealStatus (2 ^ 4)

/-- Abandons the step that an op belongs to, while it is open. -/
def State.abandonStep (s : State) (c gen step cause q : Nat) : State :=
  let e := s.ctx c
  if e.st == .live && e.gen == gen then
    match e.stepSlot step with
    | some k => s.abandon c k cause q
    | none => s
  else s

/-- What the Lid does with the class of a report (R169, R226, R228). -/
def State.confAct (s : State) (k blk : Nat) (r : ConfRep) : State :=
  if ! r.lid then s
  else if k = 2 then (s.observe obSealPath (unitTile r.tile) 0).detectStep r.ctx r.gen r.step r.opseq 0
  else if k = 3 then s.detectStep r.ctx r.gen r.step r.opseq 0
  else if k = 5 then s.abandonStep r.ctx r.gen r.step 3 r.opseq
  else s.poisonedInput r.ctx r.gen r.step r.opseq false blk

/-- Each report that shares a confirmation. -/
def State.confActs (s : State) (k blk : Nat) : List ConfRep → State
  | [] => s
  | r :: t => (s.confAct k blk r).confActs k blk t

/-- A confirmation completes (R169, R170). -/
def State.confirm (s : State) (c : Confirm) (reached : Bool) : State :=
  let k := s.confClass c reached
  let r := (c.reps.head?).getD {}
  let s1 := { s with confirms := s.confirms.filter (fun x => x.blk != c.blk) }
  let s2 := if k = 4 then s1.poisonBlock c.blk else s1
  ((((s2.count (confCounter k)).setBits Reg.hubSealStatus (confBit k)).sealCapture k c.blk r).faultBlk (confFault k) c.blk 1
    r.ctx).confActs k c.blk c.reps

/-- SEAL_CONFIRMATION: the re-read completes with the block's data and BCV, or does not within 2 µs. -/
def execSealConfirmation (blk : Nat) (data : Bytes) (bcv : Nat) (reached : Bool) (s : State) :
    Host.Outcome State Fault Refusal :=
  .next (match s.confirms.find? (fun c => c.blk == blk) with
    | none => s
    | some c =>
      let s1 := s.retire (fun a => a == .confirm blk)
      let s2 := if reached then (s1.setBytes (blk * 4096) (slice data 0 4096)).setSb blk bcv else s1
      s2.confirm c reached)

/-! ### The route table (R178 to R180, R186) -/

/-- The failure kinds of R179. -/
def rkShape : Nat := 1
def rkMember : Nat := 2
def rkCount : Nat := 3
def rkToken : Nat := 4
def rkRoute : Nat := 5
def rkIncomplete : Nat := 6
def rkFull : Nat := 7

/-- The counter of a route failure kind. -/
def routeCounter (k : Nat) : Nat :=
  if k = 1 then Reg.hubCntRteShape else if k = 2 then Reg.hubCntRteMember else if k = 3 then Reg.hubCntRteCount
  else if k = 4 then Reg.hubCntRteToken else if k = 5 then Reg.hubCntRteRoute else if k = 6 then Reg.hubCntRteIncomplete
  else Reg.hubCntRteFull

/-- Whether an entry is the routing op of a key. -/
def RouteEnt.is (e : RouteEnt) (c gen step route : Nat) : Bool := e.ctx == c && e.gen == gen && e.step == step && e.route == route

/-- Writes an entry in its place, or adds it. -/
def State.putRoute (s : State) (e : RouteEnt) : State :=
  if s.routes.any (fun x => x.is e.ctx e.gen e.step e.route) then
    { s with routes := s.routes.map (fun x => if x.is e.ctx e.gen e.step e.route then e else x) }
  else { s with routes := s.routes ++ [e] }

/-- The lowest OPSEQ of a list of members. -/
def lowestMember : List RMember → Nat
  | [] => 0
  | [m] => m.opseq
  | m :: t => min m.opseq (lowestMember t)

/-- Sum of the digests of one side. -/
def sideSum (ms : List RMember) (send : Bool) : RouteSum :=
  (ms.filter (fun m => m.send == send)).foldl (fun a m =>
    { n := a.n + m.sum.n, s0 := addM a.s0 m.sum.s0, s1 := addM a.s1 m.sum.s1 }) {}

/-- The failure kind at close, 0 for Pass. -/
def RouteEnt.outcome (e : RouteEnt) : Nat :=
  let a := sideSum e.members true
  let b := sideSum e.members false
  if e.shape then rkShape
  else if e.members.any RMember.failed then rkMember
  else if a.n ≠ b.n then rkCount
  else if a.s0 ≠ b.s0 then rkToken
  else if a.s1 ≠ b.s1 then rkRoute
  else 0

/-- Each member is reported to the Lid as a detected error of its step. -/
def State.detectMembers (s : State) (c gen step origin : Nat) : List RMember → State
  | [] => s
  | m :: t => (s.detectStep c gen step m.opseq origin).detectMembers c gen step origin t

/-- R180, R186: a routing op fails. -/
def State.routeFail (s : State) (e : RouteEnt) (k : Nat) : State :=
  let s1 := s.count (routeCounter k)
  let s2 := if s1.bit Reg.hubSealStatus 6 then s1
    else (((s1.setReg Reg.hubRteCap (k * 2 ^ 28 + e.route)).setReg Reg.hubRteCapCtx (e.gen * 2 ^ 16 + e.ctx)).setReg
      Reg.hubRteCapStep e.step).setBits Reg.hubSealStatus (2 ^ 6)
  (s2.faultInt clsRoute e.ctx).detectMembers e.ctx e.gen e.step (lowestMember e.members) e.members

/-- A routing op has closed with Pass: its members wait for it no longer. -/
def State.routePass (s : State) (c k : Nat) : List RMember → State
  | [] => s
  | m :: t => (s.onOp c k m.opseq (fun o => { o with routeHold := false })).routePass c k t

/-- An entry closes with an outcome; the step counts its closed routing ops (R272). -/
def State.routeClose (s : State) (e : RouteEnt) (k : Nat) : State :=
  let s1 := s.putRoute { e with closed := true, passed := k == 0, full := k == rkFull }
  let c := s1.ctx e.ctx
  match (if c.gen == e.gen then c.stepSlot e.step else none) with
  | none => if k = 0 then s1.count Reg.hubCntRtePass else s1.routeFail e k
  | some i =>
    let sl := c.slot i
    let s2 := s1.setSlot e.ctx i { sl with routes := sl.routes + 1 }
    if k = 0 then (s2.count Reg.hubCntRtePass).routePass e.ctx i e.members else s2.routeFail e k

/-- Routing ops that the table holds open. -/
def State.openRoutes (s : State) : Nat := (s.routes.filter (fun e => ! e.closed)).length

/-- R179, R180: a report of a route op enters the table. A later one of a routing op that failed as FULL is discarded there, and its op is
reported to the Lid like every member. -/
def State.routeTake (s : State) (r : Report) : State :=
  let d := r.d
  let m : RMember := { opseq := d.opseq, send := d.kind == 6, sum := r.route, failed := r.verdict == .failed }
  let fresh : RouteEnt := { ctx := d.ctx, gen := d.gen, step := d.step, route := d.dimM, dimN := d.dimN, opened := s.lidSeq }
  match s.routes.find? (fun e => e.is d.ctx d.gen d.step d.dimM) with
  | some e =>
    if e.full then
      let ms := e.members ++ [m]
      (s.putRoute { e with members := ms }).detectStep d.ctx d.gen d.step d.opseq (lowestMember ms)
    else if e.closed then
      (s.putRoute { e with passed := false }).routeFail { e with members := e.members ++ [m] } rkShape
    else
      let e1 := { e with members := e.members ++ [m], shape := e.shape || d.dimN != e.dimN }
      if e1.dimN ≤ e1.members.length then s.routeClose e1 e1.outcome else s.putRoute e1
  | none =>
    if 512 ≤ s.openRoutes then s.routeClose { fresh with members := [m] } rkFull
    else { s.putRoute { fresh with members := [m] } with lidSeq := s.lidSeq + 1 }

/-- ROUTE_REPORT: the oldest report of a route op enters the route table. -/
def execRouteReport (s : State) : Host.Outcome State Fault Refusal :=
  .next (match s.routeQ with
    | [] => s
    | r :: t => ({ s with routeQ := t }).routeTake r)

/-- R179: the routing ops of a step that are still open fail as INCOMPLETE. -/
def State.routesIncomplete (s : State) : List RouteEnt → State
  | [] => s
  | e :: t => (s.routeClose e rkIncomplete).routesIncomplete t

/-- R227: a replay takes the members that it resets out of their routing ops, which then are open again. -/
def State.routesReset (s : State) (c gen step : Nat) (resets : Nat → Bool) : State :=
  let cut (e : RouteEnt) : RouteEnt :=
    if e.ctx == c && e.gen == gen && e.step == step && e.members.any (fun m => resets m.opseq) then
      { e with members := e.members.filter (fun m => ! resets m.opseq), closed := false, passed := false, full := false, shape := false }
    else e
  { s with routes := (s.routes.map cut).filter (fun e => ! e.members.isEmpty) }

end Sys2Proof.Machine
end

