-- ==== Sys2Proof/Machine/Sieve.lean ====
section
/-! DEFINITION. The Sieve (R195 to R201, R208 to R210): selection, elements, samples, drops and the escape accounting. -/

namespace Sys2Proof.Machine

/-! ### Selection (R195, R196) -/

/-- Every format that a section declares. -/
def secFmts : Section → List Nat
  | .dot d => [d.aFmt, d.bFmt, d.outFmt, d.accFmt, d.prodFmt] ++ d.nodes.map NodeW.fmt
  | .spec x => [x.inFmt, x.outFmt]
  | _ => []

/-- Every format that a section, or the entry of it that an op names, declares. -/
def entryFmts (secs : List Section) (sec entry : Nat) : List Nat :=
  match secs[sec]? with
  | some (.elem _ _ es) =>
    match es[entry]? with
    | some e => [e.aFmt, e.bFmt, e.cFmt, e.outFmt]
    | none => []
  | some (.conv es) =>
    match es[entry]? with
    | some e => [e.src, e.dst]
    | none => []
  | some x => secFmts x
  | none => []

/-- R195: the formats of an op, those of the sections that a pipeline's stages name among them. -/
def opFmts (d : Desc) (r : Option Recipe) : List Nat :=
  let secs := (r.map Recipe.sections).getD []
  [d.aFmt, d.bFmt, d.outFmt] ++ entryFmts secs d.sec d.entry ++
    (match secs[d.sec]? with
     | some (.pipe st) => st.flatMap (fun x => x.mid :: entryFmts secs x.sec x.entry)
     | _ => [])

/-- R195: the threshold of an op; one whose residue check was abandoned is decided again with MO_THRESH. -/
def SieveLatch.threshold (l : SieveLatch) (d : Desc) (r : Option Recipe) (compared resOff : Bool) : Nat :=
  if resOff then l.mo else if (opFmts d r).contains 1 then l.r64 else if compared then l.res else l.mo

/-- R195: whether the Sieve selects an op. -/
def SieveLatch.selects (l : SieveLatch) (d : Desc) (r : Option Recipe) (compared resOff : Bool) : Bool :=
  ! d.isRoute && decide (draw l.seed d.ctx d.step d.opseq 0 2 < l.threshold d r compared resOff)

/-- R196: the elements of a sample of `e` elements, each once. -/
def SieveLatch.elements (l : SieveLatch) (d : Desc) (e : Nat) : List Nat :=
  let n := d.dimM * d.dimN
  if n ≤ e then List.range n
  else
    ((List.range e).map (fun x =>
      (draw l.seed d.ctx d.step d.opseq (2 * x + 1) 2 * 2 ^ 16 + draw l.seed d.ctx d.step d.opseq (2 * x + 2) 2) % n)).eraseDups

/-- Whether an op receives a class comparison by its kind (R142). -/
def classKind (d : Desc) (r : Option Recipe) : Bool :=
  match r.bind (fun r => r.sections[d.sec]?) with
  | some (.dot _) => true
  | some (.conv _) => true
  | some (.elem _ _ es) => decide (((es[d.entry]?).map ElemEntry.op).getD 5 ≤ 4)
  | _ => false

/-! ### Escape accounting (R209, R210) -/

/-- The model entry of an OPKIND as latched. -/
def SieveLatch.entry (l : SieveLatch) (k : Nat) : Model := (l.model[k - 1]?).getD {}

/-- R209: the contribution of an op in units of 2^−96. -/
def opEscape (m : Model) (compared executed : Bool) (n e : Nat) : Nat :=
  let u := if compared then m.u else m.u + m.v
  let vis := if compared then ceilDiv m.v (2 ^ 30) else 0
  let miss := if executed then ceilDiv (m.f * (n - e)) n else 65536
  ceilDiv (u * miss) 65536 + vis

/-- Adds an op's contribution to its step and to ESC_TOTAL, once; route ops contribute zero. -/
def State.addEscape (s : State) (c k q : Nat) : State :=
  match (s.slot c k).op q with
  | none => s
  | some o =>
    if o.escaped || o.d.isRoute then s
    else
      let sl := s.slot c k
      let v := opEscape (sl.sieve.entry o.d.kind) o.compared o.sampleRan (o.d.dimM * o.d.dimN) o.executed.length
      let s1 := s.setSlot c k { (sl.onOp q (fun p => { p with escaped := true })) with escape := min (2 ^ 128 - 1) (sl.escape + v) }
      { s1 with escTotal := min (2 ^ 128 - 1) (s1.escTotal + v) }

/-- R210: the bound for a total and a count of ticks of the time base. -/
def boundOf (total t : Nat) : Nat :=
  if t < 100000000 then 0 else min (2 ^ 32 - 1) (ceilDiv (total * 360000000000 * 1000000000 * 65536) (t * 2 ^ 96))

/-- HUB_SIEVE_BOUND is recomputed. -/
def State.rebound (s : State) : State :=
  { s.setReg Reg.hubSieveBound (boundOf s.escTotal (s.time - s.sieveT)) with boundAt := s.time }

/-- SIEVE_BOUND_RECOMPUTE (R210): at least once every millisecond. -/
def execSieveBoundRecompute (s : State) : Host.Outcome State Fault Refusal := .next s.rebound

/-! ### The end of a sample (R199, R209) -/

/-- The slot of a LIVE context's open step. -/
def State.openSlot (s : State) (c gen step : Nat) : Option Nat :=
  let e := s.ctx c
  if e.st == .live && e.gen == gen then e.find (fun k => k.live && k.step == step) else none

/-- A sample of an op ends: executed with its elements, or without. -/
def State.endSample (s : State) (j : Job) (executed : Bool) : State :=
  if j.ignored then s
  else
    match s.openSlot j.ctx j.gen j.step with
    | none => s
    | some k =>
      let sl := s.slot j.ctx k
      let s1 := s.setSlot j.ctx k { (sl.onOp j.opseq (fun o =>
        { o with samples := o.samples - 1, sampleRan := o.sampleRan || executed,
                 executed := if executed then (o.executed ++ j.els).eraseDups else o.executed })) with
        samples := sl.samples + b2n executed }
      let left := (((s1.slot j.ctx k).op j.opseq).map OpRec.samples).getD 0
      (if left = 0 then s1.addEscape j.ctx k j.opseq else s1).settle j.ctx k j.opseq

/-- A sample is dropped (R199): its step's deficit and HUB_SIEVE_DEFICIT. -/
def State.dropSample (s : State) (j : Job) : State :=
  let s1 := s.count Reg.hubSieveDeficit
  let s2 := match (if j.ignored then none else s1.openSlot j.ctx j.gen j.step) with
    | none => s1
    | some k => s1.setSlot j.ctx k { s1.slot j.ctx k with deficit := (s1.slot j.ctx k).deficit + 1 }
  s2.endSample j false

/-! ### The queue and the spill ring (R198, R200) -/

def queueMax : Nat := 1024

/-- Entries of the spill ring: 64 bytes each. -/
def State.spillMax (s : State) : Nat := min 256 (s.reg Reg.hubSieveSpillSize) * 64 * 64

/-- Priority of a job (the table under Jobs). -/
def Job.prio (j : Job) : Nat :=
  match j.kind with
  | .arb => 1
  | .sample => 2
  | .selfTest => 3

/-- Places a job behind every job of its priority or a higher one. -/
def enqueue (j : Job) : List Job → List Job
  | [] => [j]
  | x :: t => if j.prio < x.prio then j :: x :: t else x :: enqueue j t

/-- Places a job ahead of every job of its priority: a second run (R202). -/
def enqueueFirst (j : Job) : List Job → List Job
  | [] => [j]
  | x :: t => if x.prio < j.prio then x :: enqueueFirst j t else j :: x :: t

/-- The place after that of the newest spilled sample, and the block and line that a place lies in (R200). -/
def State.spillPlace (s : State) : Nat := ((s.spill.getLast?).map (fun j => (j.place + 1) % s.spillMax)).getD 0
def State.spillBlk (s : State) (p : Nat) : Nat := s.reg Reg.hubSieveSpillBase * 64 + p / 64

/-- A sample goes into the spill ring; the spec does not give the layout of its 64 bytes, so they are free (log entry 116). -/
def State.spillSample (s : State) (j : Job) : State :=
  let p := s.spillPlace
  { (s.writeZ (s.spillBlk p * 4096 + 64 * (p % 64)) (freeBytes s.free 64) .spill).took 64 with spill := s.spill ++ [{ j with place := p }] }

/-- A sample is queued, spilled, dropped, or ends its step (R199, R200). -/
def State.queueSample (s : State) (j : Job) : State :=
  if ! s.fixed then
    if s.queue.length < queueMax then { s with queue := enqueue j s.queue }
    else (s.count Reg.mtrCntDropFull).dropSample j
  else if s.queue.length < queueMax ∧ s.spill = [] then { s with queue := enqueue j s.queue }
  else if s.spill.length < s.spillMax then
    (s.count Reg.mtrCntSpill).spillSample j
  else ((s.count Reg.mtrCntOverflow).faultInt clsSieve j.ctx).abandonStep j.ctx j.gen j.step 5 j.opseq

/-- A sample of an op is created, with the elements that its count gives (R196, R266). -/
def State.newSample (s : State) (c k : Nat) (o : OpRec) (els : List Nat) : State :=
  let j : Job := { id := s.nextJob, kind := .sample, ctx := c, gen := o.d.gen, step := o.d.step, opseq := o.d.opseq, op := o, els := els,
                   reported := s.time }
  let s1 := s.setSlot c k ((s.slot c k).onOp o.d.opseq (fun p => { p with samples := p.samples + 1 }))
  ({ s1 with nextJob := s.nextJob + 1 }).queueSample j

/-- SPILL_RETURN (R200): the oldest spilled sample returns while the queue has room. -/
def execSpillReturn (s : State) : Host.Outcome State Fault Refusal :=
  .next (match s.spill with
    | [] => s
    | j :: t =>
      if s.queue.length < queueMax then { s.request .read (s.spillBlk j.place) (j.place % 64) 1 .spill with spill := t, queue := enqueue j s.queue }
      else s)

end Sys2Proof.Machine
end

