-- ==== Sys2Proof/Machine/Mortar.lean ====
section
/-! DEFINITION. The Mortar (R188 to R194, R198, R199, R202 to R207, R212, R214): lanes, fetches, re-execution, the end of
a job and arbitration. -/

namespace Sys2Proof.Machine

/-! ### Lanes (R191, R192) -/

def State.lane (s : State) (l : Nat) : Lane := (s.lanes[l]?).getD {}
def State.setLane (s : State) (l : Nat) (v : Lane) : State := { s with lanes := setAt s.lanes l v }

/-- The lanes in service. -/
def State.inService (s : State) : List Nat := (List.range 4).filter (fun l => ! (s.lane l).fenced)

/-- R192: a job that no lane can serve is counted once. -/
def State.countNoLane (s : State) (j : Job) : State := if j.noLane then s else s.count Reg.mtrCntNolane

/-- An arbitration job ends with a decision. -/
def State.endArb (s : State) (id lane : Nat) (d : Decision) : State :=
  { s with arbs := s.arbs.map (fun a => if a.job.id == id && a.ended.isNone then { a with ended := some d, lane := lane } else a) }

/-- R192 for each waiting job: an arbitration ends as Unresolved; a sample in Fixed mode ends its step, another waits for
its age. -/
def State.noLaneJobs (s : State) : List Job → State
  | [] => s
  | j :: t =>
    let s1 : State := if j.kind == .selfTest then s else s.countNoLane j
    let s2 : State := match j.kind with
      | .arb =>
        let s3 : State := { s1 with queue := s1.queue.filter (fun x => x.id != j.id) }
        s3.endArb j.id 0 .unresolved
      | .selfTest => s1
      | .sample =>
        if s.fixed then
          let s3 : State := { s1 with queue := s1.queue.filter (fun x => x.id != j.id), spill := s1.spill.filter (fun x => x.id != j.id) }
          if j.ignored then s3 else s3.abandonStep j.ctx j.gen j.step 4 j.opseq
        else { s1 with queue := s1.queue.map (fun x => if x.id == j.id then { x with noLane := true } else x) }
    s2.noLaneJobs t

/-- R192: while no lane is in service the Mortar executes nothing. -/
def State.serveNoLane (s : State) : State :=
  if s.inService = [] then (s.faultInt clsMortarLost 0).noLaneJobs (s.queue ++ s.spill) else s

/-- A lane is fenced; a fault is recorded as an observation of kind Mortar lane (R191, R211). -/
def State.fence (s : State) (l : Nat) (fault : Bool) : State :=
  let v := s.lane l
  let s1 := s.setLane l { v with fenced := true, fencePending := false, tested := v.tested && v.fenced && ! fault }
  (if fault then (s1.setBits Reg.mtrStatus (2 ^ (12 + l))).observe obLane (unitLane l) 0 else s1).serveNoLane

/-! ### Cost of a job (R190) -/

/-- Half hub cycles for one element of a section, stages of a pipeline apart. -/
def secWork : Section → Nat
  | .dot d =>
    let w := max (fmtBits d.aFmt) (if d.bFmt = 0 then 0 else fmtBits d.bFmt)
    (if 64 ≤ w then 8 * d.k else if 32 ≤ w then 2 * d.k else d.k) + 4 * d.nodes.length
  | .spec x => 2 * (x.degree + 6)
  | _ => 2

/-- Half hub cycles for one element of an op. -/
def elemWork (r : Option Recipe) (sec : Nat) : Nat :=
  let secs := (r.map Recipe.sections).getD []
  match secs[sec]? with
  | some (.pipe st) => (st.map (fun x => ((secs[x.sec]?).map secWork).getD 2)).foldl (· + ·) 0
  | some x => secWork x
  | none => 2

/-- The elements that a job evaluates: those it executes, every one for a converter max (R204), and with each element of a block-scaled
output its group, which gives the scale byte (R47). -/
def Job.evaluated (j : Job) : List Nat :=
  let n := j.op.d.dimM * j.op.d.dimN
  if j.whole then List.range n
  else if scaledCode j.op.lay.out.fmt then
    (List.range n).filter (fun i => j.els.any (fun e => e / 32 == i / 32))
  else j.els

/-- Whether a pipeline has a sum reduction, which reads a whole row (R86). -/
def sumStage (secs : List Section) (st : List Stage) : Bool :=
  st.any (fun x => match secs[x.sec]? with
    | some (.dot _) => true
    | _ => false)

/-- Places of A, B and the third operand that the output elements of a list depend on (R86, R103, R508). -/
def OpRec.reads (o : OpRec) (r : Recipe) (els : List Nat) : List Nat × List Nat × List Nat :=
  let n := o.d.dimN
  match r.sections[o.d.sec]? with
  | some (.dot d) =>
    (els.flatMap (fun i => (List.range d.k).map (fun k => i / n * d.k + k)), els.flatMap (fun i => (List.range d.k).map (fun k => k * n + i % n)), els)
  | some (.pipe st) =>
    let ps := if sumStage r.sections st then els.flatMap (fun i => (List.range n).map (fun j => i / n * n + j)) else els
    (ps, ps.map (· % n), ps.map (· % n))
  | _ => (els, els, els)

/-- The blocks of a region, by offset, that hold some of its elements or their scale bytes. -/
def Region.blocksAt (r : Region) (ps : List Nat) : List Nat :=
  let per := perBlock (fmtBits r.fmt)
  (List.range r.blocks).filter (fun off => ps.any (fun p =>
    p / per == off || (decide (0 < r.scBlocks) && r.elemBlocks + r.ixBlocks + p / 32 / 4096 == off)))

/-- The same for an operand, whose blocks a sparse one needs all (log entry 118). -/
def Region.needs (r : Region) (sp : Option Sparse) (ps : List Nat) : List Nat := if sp.isSome then List.range r.blocks else r.blocksAt ps

/-- The blocks that a job fetches (R193): each region with its offsets, the op's output last. -/
def Job.fetches (j : Job) (r : Option Recipe) : List (Region × List Nat) :=
  match r with
  | none => []
  | some r =>
    let o := j.op
    let p := o.reads r j.evaluated
    [(o.lay.a, o.lay.a.needs o.spA p.1), (o.lay.b, o.lay.b.needs o.spB p.2.1), (o.lay.c, o.lay.c.needs none p.2.2), (o.lay.out, o.lay.out.blocksAt j.els)]

/-- The recipe whose copy a slot stores; it stays while a pinned slot is REFUSED or LOADING (R94, R96). -/
def State.heldRecipe (s : State) (j : Job) : Option Recipe := (s.rcp j.op.d.slot).recipe

/-- The number of blocks that a job fetches, those of its recipe's stored copy among them (R193). -/
def State.fetchCount (s : State) (j : Job) : Nat :=
  ((j.fetches (s.heldRecipe j)).map (fun p => p.2.length)).foldl (· + ·) 0 + ceilDiv (s.rcp j.op.d.slot).len 4096

/-- The cost of a job in hub cycles: its fetches, its work and 8. -/
def State.jobCost (s : State) (j : Job) : Nat :=
  64 * s.fetchCount j + (elemWork (s.heldRecipe j) j.op.d.sec * j.evaluated.length + 1) / 2 + 8

/-- R199: whether a sample can still start. -/
def State.inTime (s : State) (j : Job) : Bool :=
  s.fixed || j.runs != 0 || decide ((s.time - j.reported) * s.cfg.hubMhz + s.jobCost j * 100 ≤ usT 50 * s.cfg.hubMhz)

/-! ### MORTAR_JOB_START (R193, R198) -/

/-- Whether a lane may run a job: in service, and for a second run another than the first where there is one. -/
def State.mayRun (s : State) (j : Job) (l : Nat) : Bool :=
  s.inService.contains l && (j.avoid != some l || s.inService.all (fun x => x == l))

/-- The lane that takes a job: in Fixed mode the next in turn, which must be free; else the lowest free one. -/
def State.laneFor (s : State) (j : Job) : Option Nat :=
  if s.fixed then
    match ((List.range 4).map (fun i => (s.turn + i) % 4)).find? (s.mayRun j) with
    | some l => if (s.lane l).job.isNone then some l else none
    | none => none
  else (List.range 4).find? (fun l => s.mayRun j l && (s.lane l).job.isNone)

/-- The block number of a recipe slot's stored copy (R91). -/
def State.rcpBlk (s : State) (slot : Nat) : Nat := s.reg Reg.hubRcpBase * 64 + slot * 16

/-- Reads of some blocks of a region. -/
def State.fetchBlocks (s : State) (l base : Nat) : List Nat → State
  | [] => s
  | off :: t => (s.requestReads (base + off) (.mortar l) 1).fetchBlocks l base t

/-- Reads of the blocks of each region. -/
def State.fetchRegions (s : State) (l : Nat) : List (Region × List Nat) → State
  | [] => s
  | p :: t => (s.fetchBlocks l p.1.base p.2).fetchRegions l t

/-- The turn of R198 after a job that a lane takes in Fixed mode. -/
def State.turnAfter (s : State) (l : Nat) : Nat := if s.fixed then (l + 1) % 4 else s.turn

/-- A lane takes a job and fetches its blocks. A self-test takes no turn. -/
def State.runOn (s : State) (l : Nat) (j : Job) : State :=
  let s1 := s.setLane l { s.lane l with job := some j }
  let s2 : State := { s1 with queue := s1.queue.filter (fun x => x.id != j.id) }
  if j.kind == .selfTest then s2
  else ((({ s2 with turn := s2.turnAfter l } : State)).fetchRegions l (j.fetches (s2.heldRecipe j))).requestReads (s.rcpBlk j.op.d.slot) (.mortar l) (ceilDiv (s.rcp j.op.d.slot).len 4096)

/-- The job that a lane takes: the head of the queue if it is the lane that R198 gives; a self-test runs on its own fenced
lane, and is ignored for a lane in service. -/
def State.jobStart (s : State) (lane : Nat) : State :=
  match s.queue with
  | [] => s
  | h :: _ =>
    if h.kind == .selfTest then
      match s.queue.find? (fun j => j.lane == lane) with
      | some j =>
        if ! (s.lane lane).fenced then { s with queue := s.queue.filter (fun x => x.id != j.id) }
        else if (s.lane lane).job.isNone then s.runOn lane j
        else s
      | none => s
    else if s.laneFor h == some lane && (h.kind == .arb || s.inTime h) then s.runOn lane h
    else s

/-- SAMPLE_AGE_DROP (R199): a sample that cannot start within 50 µs of its op's verdict report. -/
def execSampleAgeDrop (ctx step opseq : Nat) (s : State) : Host.Outcome State Fault Refusal :=
  .next (match s.queue.find? (fun j => j.kind == .sample && j.ctx == ctx && j.step == step && j.opseq == opseq &&
      ! s.inTime { j with runs := if s.inService = [] then 0 else j.runs }) with
    | none => s
    | some j =>
      let s1 : State := { s with queue := s.queue.filter (fun x => x.id != j.id) }
      (s1.count Reg.mtrCntDropAge).dropSample j)

/-! ### Fetches (R193, R96) -/

/-- A region's element codes, index entries and scale bytes as memory holds them. -/
def State.regionRun (s : State) (b w per : Nat) : Nat → Nat → List Nat
  | 0, _ => []
  | n + 1, left => unpackBytes w (min per left) (s.block b) ++ s.regionRun (b + 1) w per n (left - per)

def State.regionCodes (s : State) (r : Region) : List Nat :=
  s.regionRun r.base (fmtBits r.fmt) (perBlock (fmtBits r.fmt)) r.elemBlocks r.count
def State.regionIx (s : State) (r : Region) : List Nat := s.regionRun (r.base + r.elemBlocks) 16 2048 r.ixBlocks r.entries
def State.regionScales (s : State) (r : Region) : List Nat :=
  s.regionRun (r.base + r.elemBlocks + r.ixBlocks) 8 4096 r.scBlocks r.groups

/-- The dense places of a sparse operand's stored values (R143). -/
def sparsePlaces (sideA : Bool) (dimK dimN line : Nat) : List Nat → List Nat
  | [] => []
  | e :: t =>
    let rest := sparsePlaces sideA dimK dimN (if ixLast e then line + 1 else line) t
    if ixNone e then rest else (if sideA then line * dimK + ixK e else ixK e * dimN + line) :: rest

/-- An input region as memory holds it. -/
def State.elemsOf (s : State) (o : OpRec) (r : Region) (ts : Int) (sideA : Bool) (sp : Option Sparse) : Elems :=
  if ! r.present then Elems.none
  else
    { fmt := r.fmt, ts := ts, codes := s.regionCodes r, scales := s.regionScales r,
      places := sp.map (fun _ => sparsePlaces sideA o.d.dimK o.d.dimN 0 (s.regionIx r)), total := r.rows * r.cols }

/-- What the arithmetic needs of an op. -/
def OpRec.arith (o : OpRec) : OpArith :=
  { sec := o.d.sec, entry := o.d.entry, dir := o.d.dir, m := o.d.dimM, n := o.d.dimN, k := o.d.dimK, seed := o.d.seed,
    ctx := o.d.ctx, step := o.d.step, tensor := o.d.tensor, elemBase := o.d.elemBase, rowStride := o.d.rowStride,
    tsA := o.tsA, tsB := o.tsB, tsOut := o.tsOut }

/-- A lane's re-execution of an op from the retained inputs (R189). -/
def State.reexec (s : State) (o : OpRec) (r : Recipe) : OpResult :=
  evalOp r o.arith
    { a := s.elemsOf o o.lay.a o.tsA true o.spA, b := s.elemsOf o o.lay.b o.tsB false o.spB, c := s.elemsOf o o.lay.c 0 false none }

/-- The first block of some of a region, by offset, that does not verify: block, kind, expected FMT. Poison counts as such unless it is
accepted. -/
def State.badBlock (s : State) (r : Region) (gen : Nat) (poisonOk : Bool) : List Nat → Option (Nat × Nat × Nat)
  | [] => none
  | off :: t =>
    match s.verify (r.base + off) gen (r.fmtAt off) with
    | .verified => s.badBlock r gen poisonOk t
    | .poisoned => if poisonOk then s.badBlock r gen poisonOk t else some (r.base + off, 6, r.fmtAt off)
    | .fails k => some (r.base + off, k, r.fmtAt off)

/-- Whether a job is of an op whose verdict failed. -/
def Job.ofFailed (j : Job) : Bool := j.kind == .arb || j.op.verdict == some .failed

/-- The first block that a job fetches and that does not verify; the op's own output may be poisoned when its verdict failed (R193). -/
def State.badFetch (s : State) (j : Job) : Option (Nat × Nat × Nat) :=
  (j.fetches (s.heldRecipe j)).foldl (fun a p => a.or (s.badBlock p.1 j.op.d.gen (j.ofFailed && p.1 == j.op.lay.out) p.2)) none

/-- Whether a recipe's stored copy verifies, block by block. -/
def State.rcpGood (s : State) (b : Nat) : Nat → Bool
  | 0 => true
  | n + 1 => s.verify b 0 0x3E == .verified && s.rcpGood (b + 1) n

/-- R96: a seal failure on a slot's stored copy sets it to REFUSED, with a UC fault of class recipe store. -/
def State.refuseSlot (s : State) (slot : Nat) : State :=
  (s.setRcp slot { s.rcp slot with st := .refused }).faultBlk clsRecipe (s.rcpBlk slot) 1 0

/-- An arbitration is over: it is counted (R206), in its step too (R272), and its op waits for it no longer. -/
def State.arbOver (s : State) (j : Job) : State :=
  let s1 := s.count Reg.mtrCntArb
  match s1.openSlot j.ctx j.gen j.step with
  | none => s1
  | some k =>
    let sl := (s1.slot j.ctx k).onOp j.opseq (fun o => { o with arb := false })
    s1.setSlot j.ctx k { sl with arbs := sl.arbs + 1 }

/-- An arbitration ends without a decision. -/
def State.dropArb (s : State) (j : Job) : State :=
  let s1 : State := { s with arbs := s.arbs.filter (fun a => a.job.id != j.id) }
  if j.ignored then s1 else s1.arbOver j

/-- R193: a block that fails verification ends the job; the failure is confirmed and the step replayed. Kind 0 is a fetch
not completed, of class Unreachable at once. -/
def State.fetchFail (s : State) (j : Job) (blk kind fmt : Nat) : State :=
  let o := j.op
  let rep : ConfRep := { tile := o.tile, ctx := j.ctx, gen := j.gen, step := j.step, opseq := j.opseq, kind := kind, bcv := s.sbOf blk, lid := false }
  let s1 := s.count Reg.mtrCntFetchFail
  let s2 := if kind = 0 then s1.confirm { blk := blk, gen := o.d.gen, fmt := fmt, reps := [rep] } false
    else s1.startConfirm blk false o.d.gen fmt rep
  let s3 := if j.ignored then s2 else s2.detectStep j.ctx j.gen j.step j.opseq 0
  if j.kind == .arb then s3.dropArb j else s3.endSample j false

/-- R96: the recipe copy fails. A sample is a coverage deficit; an arbitration is Unresolved. -/
def State.recipeFail (s : State) (j : Job) (lane : Nat) : State :=
  let s1 := s.refuseSlot j.op.d.slot
  if j.kind == .arb then s1.endArb j.id lane .unresolved else s1.dropSample j

/-- A job of an op whose slot holds no recipe any more: its step has been abandoned (R94), and it ends without a result. -/
def State.recipeGone (s : State) (j : Job) (lane : Nat) : State :=
  if j.kind == .arb then s.endArb j.id lane .unresolved else s.endSample j false

/-! ### Comparison (R194) -/

/-- What a run established: the elements' bits and scale bytes, the flags, and agreement. -/
structure RunOut where
  res : OpResult
  codes : List Nat
  scales : List Nat
  flagsOk : Bool

/-- A run of a job against the engine's output in memory. -/
def State.runOut (s : State) (j : Job) (r : Recipe) : RunOut :=
  let o := j.op
  let res := s.reexec o r
  let fl := (j.els.map (fun i => res.flags.getD i 0)).foldl (· ||| ·) 0
  { res := res, codes := s.regionCodes o.lay.out, scales := s.regionScales o.lay.out,
    flagsOk := fl ||| o.flags == o.flags && (decide (j.els.length < o.d.dimM * o.d.dimN) || fl == o.flags) }

/-- Whether the bits of an element are the engine's, its group's scale byte among them. -/
def RunOut.bits (x : RunOut) (i : Nat) : Bool :=
  x.res.codes[i]? == x.codes[i]? && (x.res.scales.isEmpty || x.res.scales[i / 32]? == x.scales[i / 32]?)

/-- The results of a run, to compare a second run with (rows 5 and 6 of R202). -/
def RunOut.sig (x : RunOut) (els : List Nat) : List (Nat × Nat × Nat) :=
  els.map (fun i => (x.res.codes.getD i 0, x.res.flags.getD i 0, x.res.scales.getD (i / 32) 0))

/-! ### The end of a sample (R202) -/

/-- The signature of an ENGINE observation (R368). -/
def Desc.sig (d : Desc) : Nat := d.slot % 256 + d.sec % 16 * 256

/-- The code of a decision in MTR_ARB_CAP_OP; Checker has none. -/
def Decision.code : Decision → Nat
  | .mortar => 1
  | .both => 2
  | .engine => 3
  | .tap => 4
  | .unresolved => 5
  | .checker => 0

def JobSrc.code : JobSrc → Nat
  | .located => 1
  | .unlocated => 2
  | .spec => 3
  | .cmx => 4
  | .sample => 5

/-- R214: the capture, while none is held. -/
def State.arbCapture (s : State) (o : OpRec) (dec : Decision) (lane src : Nat) : State :=
  if s.bit Reg.mtrStatus 16 then s
  else
    ((((s.setReg Reg.mtrArbCapOp (o.d.opseq % 2 ^ 24 * 2 ^ 8 + dec.code * 2 ^ 5 + lane % 4 * 2 ^ 3 + src)).setReg Reg.mtrArbCapCtx
      (o.d.gen * 2 ^ 16 + o.d.ctx)).setReg Reg.mtrArbCapStep o.d.step).setReg Reg.mtrArbCapTile (o.tile % 256)).setBits
      Reg.mtrStatus (2 ^ 16)

/-- A sample runs again. -/
def State.again (s : State) (j : Job) (lane : Nat) : State :=
  ({ s with queue := enqueueFirst { j with runs := j.runs + 1, avoid := some lane } s.queue } : State).serveNoLane

/-- Rows 2, 5 and 6 of R202: the op is wrong. -/
def State.sampleWrong (s : State) (j : Job) (lane cnt : Nat) (dec : Decision) : State :=
  let s1 := if j.ignored then s
    else ((((s.count Reg.mtrCntSamples).count cnt).arbCapture j.op dec lane 5).poisonOuts j.op).detectStep j.ctx j.gen j.step j.opseq
      (if dec == .engine then j.opseq else 0)
  s1.endSample j true

/-- Row 5 of R202: the engine is wrong. -/
def State.engineWrong (s : State) (j : Job) (lane : Nat) : State :=
  (s.observe obEngine (unitTile j.op.tile) j.op.d.sig).sampleWrong j lane Reg.mtrCntSmpEngine .engine

/-- Row 6 of R202: both lanes are fenced, without a lane fault of R191. -/
def State.fenceBoth (s : State) (first : Option Nat) (lane : Nat) : State :=
  (match first with
   | some l => if l = lane then s else s.fence l false
   | none => s).fence lane false

/-- R202: a sample's run ends. A second run after a lane fault decides: where it disagrees with the engine, row 5 holds (log entry 119). -/
def State.sampleEnd (s : State) (j : Job) (lane : Nat) (halves : Bool) (x : RunOut) : State :=
  if ! halves then
    if j.runs = 0 then ((if j.ignored then s else s.count Reg.mtrCntLaneFault).fence lane true).again j lane
    else (s.fence lane true).sampleWrong j lane Reg.mtrCntArbMortar .mortar
  else
    match j.first with
    | none =>
      if x.flagsOk && j.els.all x.bits then
        (if j.ignored then s else (s.count Reg.mtrCntSamples).count Reg.mtrCntSmpAgree).endSample j true
      else if j.runs = 0 then s.again { j with first := some (x.sig j.els) } lane
      else s.engineWrong j lane
    | some f =>
      if f = x.sig j.els then s.engineWrong j lane else (s.fenceBoth j.avoid lane).sampleWrong j lane Reg.mtrCntArbMortar .mortar

/-! ### The end of an arbitration job (R204 to R206) -/

/-- The order of R206 over two decisions. -/
def Decision.rank : Decision → Nat
  | .mortar => 0
  | .both => 1
  | .engine => 2
  | .tap => 3
  | .checker => 4
  | .unresolved => 5

def Decision.first (a b : Decision) : Decision := if b.rank < a.rank then b else a

/-- The elements that a report's residue mismatch names: the members of its class pairs, or those of the intersection of its classes
(R147, R206). -/
def Report.resEls (r : Report) : List Nat :=
  (List.range (r.d.dimM * r.d.dimN)).filter (fun i => r.loc.names (i / r.d.dimN) (i % r.d.dimN))

/-- Rows 2 to 5 of R205 for one element: its bits, the exact residue, the observed one plus delta, and its syndrome. -/
def decideEl (bits : Bool) (exact obs syn : Nat) : Decision :=
  if bits then (if exact = obs then .checker else .tap) else if exact = subM obs syn then .engine else .both

/-- Rows 2 and 4 of R205 where the Exact columns are not used. -/
def decideBits (bits : Bool) : Decision := if bits then .checker else .engine

/-- The syndrome of an element: that of its located class pair. An element of an unlocated mismatch carries none under R147, and the value
that Exact-Ladle then takes is free (log entry 117). -/
def Report.synOf (r : Report) (k i : Nat) : Nat :=
  (r.loc.synAt (i / r.d.dimN) (i % r.d.dimN)).getD ((Config.freeValue (k + i)).toNat % mersM)

/-- The decision of an arbitration whose lane halves agreed (R205, R206, R509); `k` counts the free values. -/
def arbDecide (k : Nat) (r : Report) (x : RunOut) : Decision :=
  let n := r.d.dimN
  let bits (i : Nat) : Bool := x.bits i && x.flagsOk
  let res := r.resEls.map (fun i =>
    decideEl (bits i) (resVal (x.res.shadows.getD i .zero)) ((cellAt r.obs (i / n) (i % n)).getD 0) (r.synOf k i))
  let spec := r.specEls.map (fun p => decideBits (bits (p.1 * n + p.2)))
  let mx := if r.found.contains .maxtap then [decideBits (some x.res.m == r.cmx)] else []
  (res ++ spec ++ mx).foldl Decision.first .checker

/-- MORTAR_JOB_END: the fetched blocks are verified; then the run's result decides a sample, or ends an arbitration job. -/
def State.jobEnd (s : State) (j : Job) (lane : Nat) (halves : Bool) : State :=
  let slot := j.op.d.slot
  match s.heldRecipe j, s.badFetch j, s.rcpGood (s.rcpBlk slot) (ceilDiv (s.rcp slot).len 4096) with
  | none, _, _ => s.recipeGone j lane
  | some _, some (blk, kind, fmt), _ => s.fetchFail j blk kind fmt
  | some _, none, false => s.recipeFail j lane
  | some r, none, true =>
    let x := s.runOut j r
    if j.kind == .sample then s.sampleEnd j lane halves x
    else if ! halves then (s.fence lane true).endArb j.id lane .mortar
    else
      match s.arbs.find? (fun a => a.job.id == j.id) with
      | some a => (s.took (j.op.d.dimM * j.op.d.dimN)).endArb j.id lane (arbDecide s.free a.rep x)
      | none => s

/-- A lane's job leaves it; a lane that waited for that is fenced. -/
def State.laneFree (s : State) (lane : Nat) : State :=
  let s1 := (s.setLane lane { s.lane lane with job := none }).retire (fun a => a == .mortar lane)
  if (s1.lane lane).fencePending then s1.fence lane false else s1

/-- A fetch of a lane's job fails at a block: class Unreachable of R169 (R193). -/
def State.mortarFailed (s : State) (lane blk : Nat) : State :=
  match (s.lane lane).job with
  | none => s
  | some j => if j.kind == .selfTest then s else (s.laneFree lane).fetchFail j blk 0 0

/-- MORTAR_JOB_END (R193, R194, R202, R205). -/
def execMortarJobEnd (lane : Nat) (halvesAgree : Bool) (s : State) : Host.Outcome State Fault Refusal :=
  .next (match (s.lane lane).job with
    | none => s
    | some j =>
      if j.kind == .selfTest then s
      else
        if s.bothStalled then (s.count Reg.hubCntMemTimeout).mortarFailed lane j.op.lay.a.base
        else (s.laneFree lane).jobEnd j lane halvesAgree)

/-- A self-test of a fenced lane passes, or finds its halves apart, which is a lane fault (R191, R212). -/
def State.selfTestDone (s : State) (lane : Nat) (pass : Bool) : State :=
  match (s.lane lane).job with
  | none => s
  | some j =>
    if j.kind != .selfTest then s
    else
      let s1 := s.setLane lane { s.lane lane with job := none, tested := pass }
      if pass then s1 else s1.fence lane true

/-! ### Arbitration (R203, R206) -/

/-- The findings that are arbitrated. -/
def Finding.arbitrated (f : Finding) : Bool := f == .residue || f == .spec || f == .maxtap

/-- The source code of an arbitration (R214). -/
def Report.src (r : Report) : JobSrc :=
  match r.loc with
  | .located _ => .located
  | .unlocated _ _ _ => .unlocated
  | .pass => if r.found.contains .spec then .spec else .cmx

/-- R206: an unlocated mismatch names more than 64 elements. -/
def Report.tooWide (r : Report) : Bool :=
  match r.loc with
  | .unlocated _ _ _ => decide (64 < r.resEls.length)
  | _ => false

/-- R203: the self-check command, then the arbitration job; an unlocated mismatch of more than 64 elements, or no lane, is Unresolved. -/
def State.arbitrate (s : State) (c k : Nat) (o : OpRec) (r : Report) : State :=
  let els := (r.resEls ++ r.specEls.map (fun p => p.1 * r.d.dimN + p.2)).eraseDups
  let j : Job := { id := s.nextJob, kind := .arb, ctx := c, gen := r.d.gen, step := r.d.step, opseq := r.d.opseq, op := o, els := els,
                   whole := r.found.contains .maxtap, reported := s.time }
  let a : Arb := { job := j, rep := r, src := r.src, since := s.time }
  let s1 := s.onOp c k o.d.opseq (fun p => { p with arb := true })
  let s2 : State := { s1 with nextJob := s.nextJob + 1, arbs := s1.arbs ++ [a] }
  let s3 := if s2.tileRuns r.tile then s2.setLadle r.tile { s2.ladle r.tile with askers := (s2.ladle r.tile).askers + 1 } else s2
  let s4 := s3.requestKat r.tile
  if r.tooWide then s4.endArb j.id 0 .unresolved
  else ({ s4 with queue := enqueue j s4.queue } : State).serveNoLane

/-- ARB_SELF_CHECK_TIMEOUT (R203): 50 µs after the command; before that, nothing. -/
def execArbSelfCheckTimeout (ctx step opseq : Nat) (s : State) : Host.Outcome State Fault Refusal :=
  .next ({ s with arbs := s.arbs.map (fun a =>
    if a.job.ctx == ctx && a.job.step == step && a.job.opseq == opseq && decide (a.since + usT 50 ≤ s.time) then
      { a with checkOver := true } else a) })

/-- The counter of a decision. -/
def Decision.counter : Decision → Nat
  | .mortar => Reg.mtrCntArbMortar
  | .both => Reg.mtrCntArbBoth
  | .engine => Reg.mtrCntArbEngine
  | .tap => Reg.mtrCntArbTap
  | .checker => Reg.mtrCntArbChecker
  | .unresolved => Reg.mtrCntArbUnresolved

/-- The observations of a decision (R205, R206, R368). -/
def State.observeDecision (s : State) (a : Arb) (d : Decision) : State :=
  let t := a.rep.tile
  match d with
  | .mortar => s
  | .both => (s.observe obBoth (unitTile t) a.rep.d.sig).observe obBoth (unitLadle t) a.rep.d.sig
  | .engine => s.observe obEngine (unitTile t) a.rep.d.sig
  | .tap => s.observe obTap (unitTile t) 0
  | .checker => s.observe obChecker (unitLadle t) 0
  | .unresolved => (s.observe obUnresolved (unitTile t) a.rep.d.sig).observe obUnresolved (unitLadle t) a.rep.d.sig

/-- The result stands: the op's outputs are resealed, and the op waits for that (R206, R224). -/
def State.arbStands (s : State) (c k : Nat) (o : OpRec) : State :=
  let s1 := s.setSlot c k ((s.slot c k).onOp o.d.opseq (fun p =>
    { p with arbReseal := decide (0 < o.lay.out.blocks) && ! s.bothStalled, verdict := some .pass }))
  let s2 := if ((s1.slot c k).op o.d.opseq).map OpRec.samples = some 0 then s1.addEscape c k o.d.opseq else s1
  (s2.resealOuts o).settle c k o.d.opseq

/-- Whether an op is FAILED: another finding of its own was a detected error (R509). -/
def State.opFailed (s : State) (c k q : Nat) : Bool := (((s.slot c k).op q).map OpRec.st) == some .failed

/-- The action of a decision on an op that is not ignored. -/
def State.arbAct (s : State) (a : Arb) (d : Decision) : State :=
  let j := a.job
  let s1 := (s.count d.counter).arbOver j
  let s2 := if d == .checker then s1 else s1.arbCapture j.op d a.lane a.src.code
  match s2.openSlot j.ctx j.gen j.step with
  | none => s2
  | some k =>
    if d == .checker || d == .tap then (if s2.opFailed j.ctx k j.opseq then s2 else s2.arbStands j.ctx k j.op)
    else s2.detect j.ctx k j.opseq (if d == .engine then j.opseq else 0)

/-- ARBITRATION_DECISION: once the job has ended and the self-check has answered or 50 µs have passed (R203). -/
def execArbitrationDecision (ctx step opseq : Nat) (s : State) : Host.Outcome State Fault Refusal :=
  .next (match s.arbs.find? (fun a => a.job.ctx == ctx && a.job.step == step && a.job.opseq == opseq && a.ended.isSome &&
      (a.check.isSome || a.checkOver || decide (a.since + usT 50 ≤ s.time))) with
    | none => s
    | some a =>
      let d := a.ended.getD .unresolved
      let s1 : State := { s with arbs := s.arbs.filter (fun x => x.job.id != a.job.id) }
      let s2 := s1.observeDecision a d
      if a.job.ignored then s2 else s2.arbAct a d)

/-! ### Recipe vectors and lane control (R88, R191, R212) -/

/-- Whether a job waits for the Mortar ahead of a known-answer vector, or a sample is on a lane (R88). -/
def State.samplePending (s : State) : Bool :=
  s.queue.any (fun j => decide (j.prio < 3)) || ! s.spill.isEmpty || s.lanes.any (fun l => (l.job.map Job.kind) == some .sample)

/-- Changes the load of a slot. -/
def State.onLoad (s : State) (slot : Nat) (f : RcpLoad → RcpLoad) : State :=
  { s with rcpLoads := s.rcpLoads.map (fun x => if x.slot == slot then f x else x) }

/-- A vector has run on a lane: with the halves apart the lane is fenced, and the vector runs again on another one (R88, R191). -/
def State.katRan (s : State) (slot lane : Nat) (r : Recipe) (v : Nat) (rest : List Nat) (halves : Bool) : State :=
  let s1 : State := { s with turn := s.turnAfter lane }
  if halves then
    (s1.count Reg.mtrCntKatVectors).onLoad slot (fun x => { x with vectors := rest, katBad := ! ((r.kats[v]?).map (katPass r)).getD false, avoid := none })
  else (s1.fence lane true).onLoad slot (fun x => { x with avoid := some lane })

/-- KAT_VECTOR_RUN: the next vector of a loading recipe, at priority 3 on the lane that R198 gives. -/
def execKatVectorRun (slot : Nat) (halves : Bool) (s : State) : Host.Outcome State Fault Refusal :=
  .next (match s.rcpLoads.find? (fun l => l.slot == slot) with
    | none => s
    | some l =>
      match l.recipe, l.vectors, s.laneFor { avoid := l.avoid } with
      | some r, v :: t, some lane => if s.samplePending || l.katBad then s else s.katRan slot lane r v t halves
      | _, _, _ => s)

/-- FENCE bits: a lane is fenced when its present job ends. -/
def State.fenceLanes (s : State) (m : Nat) : List Nat → State
  | [] => s
  | l :: t =>
    let v := s.lane l
    let s1 := if bitAt m l = 0 || v.fenced then s
      else if v.job.isNone then s.fence l false
      else s.setLane l { v with fencePending := true }
    s1.fenceLanes m t

/-- SELFTEST bits: a self-test of a fenced lane is queued; one for a lane in service is ignored. -/
def State.selfTestLanes (s : State) (m : Nat) : List Nat → State
  | [] => s
  | l :: t =>
    let s1 : State := if bitAt m l = 0 || ! (s.lane l).fenced then s
      else { s with nextJob := s.nextJob + 1, queue := enqueue { id := s.nextJob, kind := .selfTest, lane := l, reported := s.time } s.queue }
    s1.selfTestLanes m t

/-- REINSTATE bits: a fenced lane returns after a self-test that passed; else the request is counted and ignored (R191). -/
def State.reinstateLanes (s : State) (m : Nat) : List Nat → State
  | [] => s
  | l :: t =>
    let v := s.lane l
    let s1 := if bitAt m l = 0 || ! v.fenced then s
      else if v.tested then s.setLane l { v with fenced := false, tested := false }
      else s.count Reg.mtrCntLaneFault
    s1.reinstateLanes m t

/-- A write of MTR_LANE_CTRL (R212). -/
def State.laneCtrl (s : State) (v : Nat) : State :=
  let ls := List.range 4
  ((s.fenceLanes (v % 16) ls).selfTestLanes (v / 16 % 16) ls).reinstateLanes (v / 256 % 16) ls

end Sys2Proof.Machine
end

