-- ==== Sys2Proof/Machine/Finish.lean ====
section
/-! DEFINITION. How commands and programs end: completion entries (R278, R280, R291), tickets (R259 to R261) and the end
of a program (R247). -/

namespace Sys2Proof.Machine

/-! ### Completions of ring entries -/

/-- LOG2 of a ring; values other than 4 to 15 are read as 4 (R303). -/
def Ring.logSize (r : Ring) : Nat := if 4 ≤ r.log2 ∧ r.log2 ≤ 15 then r.log2 else 4

/-- Entries of a ring. -/
def Ring.size (r : Ring) : Nat := 2 ^ r.logSize

/-- A core of the Kettle. -/
def State.core (s : State) (k : Nat) : Core := (s.kettle.cores[k]?).getD {}
def State.setCore (s : State) (k : Nat) (v : Core) : State := { s with kettle := { s.kettle with cores := setAt s.kettle.cores k v } }

/-- Whether a core runs its firmware: it is neither restarting, held nor halted (R21). -/
def State.coreUp (s : State) (k : Nat) : Bool :=
  let c := s.core k
  c.running && ! c.restarting && ! c.held && ! c.halted

/-- The 32 bytes of a completion entry (R280). -/
def completionBytes (e : RingEntry) (st res jseq index phase : Nat) : Bytes :=
  toLe 1 e.kind ++ toLe 1 st ++ toLe 2 e.ctx ++ toLe 4 e.cookie ++ toLe 8 res ++ toLe 8 jseq ++ toLe 2 index ++ toLe 1 phase ++ zeros 5

/-- The taken entry of an index. -/
def State.taken (s : State) (n index : Nat) : Option Taken := (s.ring n).taken.find? (fun t => t.index == index)

/-- Changes the taken entry of an index. -/
def State.onTaken (s : State) (n index : Nat) (f : Taken → Taken) : State :=
  let r := s.ring n
  s.setRing n { r with taken := r.taken.map (fun t => if t.index == index then f t else t) }

/-- Writes a completion and advances PROD (R280). -/
def State.writeCompletion (s : State) (n index st res jseq : Nat) : State :=
  match s.taken n index with
  | none => s
  | some t =>
    let r := s.ring n
    let b := completionBytes t.e st res jseq index (r.prod / r.size % 2)
    (s.writeZ (r.cbase * 64 * 4096 + 32 * (r.prod % r.size)) b (.completion n)).setRing n
      { r with prod := (r.prod + 1) % 2 ^ 16, reserved := r.reserved - 1, taken := r.taken.filter (fun x => x.index != index) }

/-- An entry has its final status: Kettle 0 posts its completion, or does so once it runs again (R291). -/
def State.finishEntry (s : State) (n index st res jseq : Nat) : State :=
  if s.coreUp 0 then s.writeCompletion n index st res jseq
  else s.onTaken n index (fun t => { t with final := some (st, res, jseq) })

/-- A FINISHED record of a ring entry (R284), then its completion. -/
def State.finishRecord (s : State) (n : Nat) (t : Taken) (st res : Nat) : State :=
  (s.record { type := jFinished, status := st, opc := t.e.kind, source := srcRing n, ctx := t.e.ctx, ref := t.index, cookie := t.e.cookie,
              a := res }).finishEntry n t.index st res s.jseq

/-! ### Completion of tickets (R259, R260, R261) -/

/-- Statuses whose own counter a recipe load, a restore, a content load or a curve load has counted (R261). -/
def State.countFinal (s : State) (st : Nat) (own : Bool) : State :=
  if st < 0x10 ∨ own then s else s.count Reg.hubCntRejected

/-- A ticket completes with its final status and result: it is journaled a second time, and a ring entry is completed. A
status is counted in HUB_CNT_REJECTED unless a rule with its own counter gave it (`own`). -/
def State.complete (s : State) (t st res : Nat) (own : Bool) : State :=
  match s.ticket t with
  | none => s
  | some k =>
    let j := s.jseq
    let s1 := (s.record { k.served with type := jCompleted, status := st, ticket := t, a := res }).countFinal st own
    match k.owner with
    | .ring n index _ => (s1.dropTicket t).finishEntry n index st res j
    | .kettle _ => s1.dropTicket t
    | .program _ => if k.closed then s1.dropTicket t else s1.setTicket t { k with done := true, status := st, result := res }

/-- Completes each ticket of a list in ascending order. -/
def State.completeAll (s : State) (st res : Nat) (own : Bool) : List Nat → State
  | [] => s
  | t :: ts => (s.complete t st res own).completeAll st res own ts

/-- A ticket that may be absent. -/
def State.completeOpt (s : State) (t : Option Nat) (st res : Nat) (own : Bool) : State :=
  match t with
  | some k => s.complete k st res own
  | none => s

/-- A program's tickets close when it ends (R259): those complete are gone, the others complete without an owner. -/
def State.closeTickets (s : State) : List Nat → State
  | [] => s
  | t :: ts =>
    (match s.ticket t with
     | some k => if k.done then s.dropTicket t else s.setTicket t { k with closed := true }
     | none => s).closeTickets ts

/-! ### Programs (R246, R247, R248) -/

def State.program (s : State) (p : Nat) : Option Program := lookup s.progs p
def State.setProgram (s : State) (p : Nat) (v : Program) : State := { s with progs := Tab.place s.progs p v }

/-- Changes a program in flight. -/
def State.onProgram (s : State) (p : Nat) (f : Program → Program) : State :=
  match s.program p with
  | some v => s.setProgram p (f v)
  | none => s

/-- The thread that holds a program. -/
def State.threadOf (s : State) (p : Nat) : Option Nat := (List.range 32).find? (fun t => (s.thread t).prog == some p)

/-- A thread no longer saves a program's record, nor holds the program. -/
def Thread.drop (v : Thread) (p : Nat) : Thread :=
  let v1 := if v.out == some p then { v with out := none } else v
  if v1.prog == some p then { v1 with prog := none, st := if v1.out.isSome then v1.st else .idle } else v1

/-- No thread holds a program any more, nor saves its record. -/
def State.freeThread (s : State) (p : Nat) : State :=
  { s with threads := (s.threads.map (fun x => (x.1, x.2.drop p))).filter (fun x => x.2 != {}) }

/-- HUB_CNT_PROG_FAILED and HUB_SIS_STATUS.FAILED (R273, R274). -/
def State.progFailed (s : State) : State := (s.count Reg.hubCntProgFailed).setBits Reg.hubSisStatus (2 ^ 6)

/-- The PROG_END entry of a program (R260, R284), then the completion of its ring entry. -/
def State.endEntry (s : State) (p : Program) (rec st : Nat) : State :=
  let j := s.jseq
  (s.record { type := jProgEnd, status := st, opc := 0x80, source := srcRing p.ring, ctx := p.ctx, ref := p.index, cookie := p.cookie, b := rec }).finishEntry
    p.ring p.index st 0 j

/-- A program ends with a final status: its parameter block is sealed, its tickets close, its record and its thread are
free (R247, R251, R259). -/
def State.endProgram (s : State) (id st : Nat) (failed : Bool) : State :=
  match s.program id with
  | none => s
  | some p =>
    let s1 := if failed then s.progFailed else s
    let s2 := s1.writeSealed p.param (s1.block p.param) p.gen 0x3E .record
    let s3 : State := { s2 with progs := Tab.erase s2.progs id, runQ := s2.runQ.filter (fun x => x != id) }
    let s4 := s3.freeThread id
    (s4.closeTickets p.tickets).endEntry p id st

/-- Ends each program of a list. -/
def State.endPrograms (s : State) (st : Nat) (failed : Bool) : List Nat → State
  | [] => s
  | p :: t => (s.endProgram p st failed).endPrograms st failed t

/-- Sets a register of a program; g0 discards (R253). -/
def Program.setG (p : Program) (r v : Nat) : Program :=
  if r = 0 then p else { p with regs := setAt p.regs (r - 1) (v % 2 ^ 64) }

/-- Reads a register of a program; g0 reads zero. -/
def Program.g (p : Program) (r : Nat) : Nat := if r = 0 then 0 else (p.regs[r - 1]?).getD 0

/-- PC becomes `pc`; a value outside the program ends it with BAD_OPERAND (R255). -/
def State.goto (s : State) (id pc : Nat) : State :=
  match s.program id with
  | none => s
  | some p => if pc < p.length then s.setProgram id { p with pc := pc } else s.endProgram id stBadOperand true

/-- PC advances by one. -/
def State.advance (s : State) (id : Nat) : State :=
  match s.program id with
  | none => s
  | some p => s.goto id (p.pc + 1)

/-- The counter of a status of the sequencer (R261). -/
def State.countStatus (s : State) (st : Nat) : State :=
  s.count (if st = stOk ∨ st = stPending ∨ st = stDeferred ∨ st = stStepAbandoned then Reg.hubCntCmd else Reg.hubCntRejected)

/-- Whether the context of a program was torn down: the program ends with CONTEXT_GONE at its next issue (R257). -/
def State.tornDown (s : State) (p : Program) : Bool := p.ctx != 0 && (s.ctx p.ctx).gen != p.gen

/-- R258: the status of a query returns to the ISSUED thread of its program once the write of its record has ended; a program whose context
was torn down ends (R415). -/
def State.returned (s : State) (t id st : Nat) : State :=
  let v := s.thread t
  match (if v.st == .issued && v.prog == some id then s.program id else none) with
  | none => s
  | some p =>
    let s1 := (s.countStatus st).setThread t { v with st := .ready }
    if s.tornDown p then (s1.count Reg.hubCntRejected).endProgram id stContextGone false
    else (s1.setProgram id { p with status := st }).advance id

end Sys2Proof.Machine
end

