-- ==== Sys2Proof/Machine/Flags.lean ====
section
/-! DEFINITION. The outputs that follow from the state: the fault pin (R390), the interrupt levels (R391, R472), and the
summary bits of COL_STATUS and HUB_PORT_STATUS (R398, R480). -/

namespace Sys2Proof.Machine

/-! ### Classes of pairs (R382, R384, R385, R399) -/

/-- The class of a pair: 1 CE, 2 UC, 3 FA. -/
def State.pairClass (s : State) (stn i : Nat) : Nat :=
  if stn = 16 then (if 1 ≤ i ∧ i ≤ 18 then class16 i else 2)
  else if i < 8 then 2
  else
    let f := fieldOf (s.reg (atStn stn Reg.colStnClass0 + i / 16 * 4)) (i % 16 * 2 + 1) (i % 16 * 2)
    if f = 0 then 2 else f

/-- The ERR and WIRE bits of a pair. -/
def State.errBit (s : State) (stn i : Nat) : Bool := s.bit (atStn stn Reg.colStnErrLo + i / 32 * 4) (i % 32)
def State.wireBit (s : State) (stn i : Nat) : Bool := s.bit (atStn stn Reg.colStnWireLo + i / 32 * 4) (i % 32)

/-- The stations of the instance. -/
def State.stations (s : State) : List Nat := List.range (min 16 s.cfg.stations) ++ [16]

/-- Whether a pair of a station satisfies a condition. -/
def State.anyPair (s : State) (p : Nat → Nat → Bool) : Bool := s.stations.any (fun stn => (List.range 64).any (p stn))

/-- COL_STATUS.CE, UC and FA (R398). -/
def State.ceAny (s : State) : Bool := s.anyPair (fun stn i => s.pairClass stn i == 1 && s.errBit stn i)
def State.ucAny (s : State) : Bool := s.anyPair (fun stn i =>
  (s.pairClass stn i == 2 && (s.errBit stn i || s.wireBit stn i)) || (s.pairClass stn i == 1 && s.wireBit stn i))
def State.faAny (s : State) : Bool := s.anyPair (fun stn i => s.pairClass stn i == 3 && (s.errBit stn i || s.wireBit stn i))

/-- zv_fault_n is driven low (R390). -/
def State.faultLow (s : State) : Bool :=
  s.ucAny || s.faAny || (s.bit Reg.colCtrl 2 && s.ceAny) || s.safe.isSome || s.bring.resetCheck != some true

/-! ### Interrupts (R391, R472) -/

/-- zv_col_int. -/
def State.colInt (s : State) : Bool :=
  s.faAny || (s.bit Reg.colCtrl 0 && (s.ucAny || (s.bit Reg.colCtrl 1 && s.ceAny)))

/-- KTL_STATUS.HELD and RESTARTING, by core (R302). -/
def State.heldMask (s : State) : Nat :=
  ((s.kettle.cores.zip [1, 2, 4, 8]).map (fun p => if p.1.held then p.2 else 0)).foldl (· + ·) 0
def State.restartMask (s : State) : Nat :=
  ((s.kettle.cores.zip [1, 2, 4, 8]).map (fun p => if p.1.restarting then p.2 else 0)).foldl (· + ·) 0
def State.runMask (s : State) : Nat :=
  ((s.kettle.cores.zip [1, 2, 4, 8]).map (fun p => if p.1.running && ! p.1.restarting && ! p.1.held then p.2 else 0)).foldl (· + ·) 0

/-- zv_ktl_int. -/
def State.ktlInt (s : State) : Bool := s.reg Reg.ktlStatus / 2 ^ 20 % 16 != 0 || s.bit Reg.ktlStatus 15 || s.heldMask != 0

/-- zv_trv_int. -/
def State.trvInt (s : State) : Bool := s.reg Reg.trvStatus % 128 != 0 || s.trv.tripped

/-- zv_ring_int of ring `n`. -/
def State.ringInt (s : State) (n : Nat) : Bool := (s.ring n).prod != (s.ring n).cons

/-- zv_hub_int. -/
def State.hubInt (s : State) : Bool :=
  s.reg Reg.hubSealStatus % 256 != 0 || fieldOf (s.reg Reg.mtrStatus) 16 12 != 0 || s.reg Reg.lidStatus % 4 != 0 ||
    s.bit Reg.hubSisStatus 6 || s.bit Reg.hubJrnlStatus 1 || s.reg Reg.hubPairStatus % 8 != 0 || s.reg Reg.hubCkptStatus % 8 != 0 ||
    s.reg Reg.hubSuspStatus % 8 != 0 || s.reg Reg.hubWatchStatus % 4 != 0 || s.bit Reg.hubDumpStatus 30

end Sys2Proof.Machine
end

