-- ==== Sys2Proof/Machine/Recovery.lean ====
section
/-! DEFINITION. Reset domains and their phases, the safe state, the absorb windows, the progress watch, the completion
filter and the drain and scrub of teardowns (R395, R397, R401 to R415, R464, R465). -/

namespace Sys2Proof.Machine

/-! ### Domains (R13, R406, R465) -/

/-- The partition of a cluster (R494). -/
def State.partOf (s : State) (c : Nat) : Nat :=
  fieldOf (s.reg (if c < 8 then Reg.hubPartMapLo else Reg.hubPartMapHi)) (c % 8 * 4 + 3) (c % 8 * 4)

/-- Clusters of the instance. -/
def State.clusters (s : State) : List Nat := List.range (min 16 s.cfg.stations)

/-- The clusters of a domain; a tile domain has none. Levels: 0 tile, 1 cluster, 2 partition, 3 compute part. -/
def State.domClusters (s : State) (level id : Nat) : List Nat :=
  if level = 0 then [] else if level = 1 then [id]
  else if level = 2 then s.clusters.filter (fun c => s.partOf c == id) else s.clusters

/-- The physical tiles of a domain. -/
def State.domTiles (s : State) (level id : Nat) : List Nat :=
  if level = 0 then [id]
  else if level = 3 then List.range s.cfg.ladles
  else (List.range s.cfg.ladles).filter (fun t => (s.domClusters level id).contains (t / 8))

/-- The slots of the reset control port that a reset raises (R465). -/
def State.domSlots (s : State) (level id : Nat) : List Nat :=
  if level = 0 then [id]
  else if level = 3 then List.range 145
  else (s.domClusters level id).flatMap (fun c => (128 + c) :: (List.range 8).map (fun i => 8 * c + i))

/-! ### Outputs of the reset control port (R449, R464): bit 0 quiesce request, bit 1 reset, bit 2 absorb -/

def State.rout (s : State) (i : Nat) : Nat := Tab.get 3 s.rstOut i

/-- Sets or clears one output of a slot. -/
def State.drive1 (s : State) (i bit : Nat) (on : Bool) : State :=
  let v := s.rout i
  let w := v - (bitAt v bit) * 2 ^ bit
  { s with rstOut := Tab.set 3 s.rstOut i (w + (b2n on) * 2 ^ bit) }

/-- Sets or clears one output of each slot of a list. -/
def State.drive (s : State) (bit : Nat) (on : Bool) : List Nat → State
  | [] => s
  | i :: t => (s.drive1 i bit on).drive bit on t

/-- The epoch of each slot of a list advances, modulo 2^8. -/
def State.bumpEpochs (s : State) : List Nat → State
  | [] => s
  | i :: t => ({ s with epochs := Tab.set 0 s.epochs i ((Tab.get 0 s.epochs i + 1) % 256) } : State).bumpEpochs t

/-! ### Reset slots -/

def State.rst (s : State) (k : Nat) : Rst := (s.rsts[k]?).getD {}
def State.setRst (s : State) (k : Nat) (v : Rst) : State := { s with rsts := setAt s.rsts k v }

/-- The lowest idle reset slot. -/
def State.idleRst (s : State) : Option Nat := (List.range 4).find? (fun k => ! (s.rst k).active)

/-- Drain and ready limits of R408, in units of 10 ns. -/
def drainLimit (level : Nat) : Nat := if level = 0 then usT 20 else if level = 1 then usT 50 else if level = 2 then usT 200 else usT 1000
def readyLimit (level : Nat) : Nat := if level = 0 then usT 150 else if level = 1 then usT 900 else if level = 2 then usT 4500 else usT 38000

/-- The counter of a completed reset (R408). -/
def rstCounter (level : Nat) : Nat :=
  if level = 0 then Reg.hubCntRstTile else if level = 1 then Reg.hubCntRstCluster else if level = 2 then Reg.hubCntRstPart
  else Reg.hubCntRstCompute

/-! ### A tile enters reset (R124, R366, R406) -/

/-- A Whisk run on a tile that enters reset ends with UNREACHABLE (R366). -/
def State.whiskUnreachable (s : State) (t : Nat) : State :=
  match s.whisk.find? (fun w => w.tile == t) with
  | none => s
  | some w => ({ s with whisk := s.whisk.filter (fun x => x.tile != t) } : State).completeOpt w.ticket stUnreachable 0 false

/-- A tile enters reset; one already in reset stays as it is. -/
def State.tileEnter (s : State) (t : Nat) : State :=
  if (s.ladle t).inReset then s.ladleOk t else ((s.ladleReset t).ladleOk t).whiskUnreachable t

/-- Each tile of a list enters reset. -/
def State.tilesEnter (s : State) : List Nat → State
  | [] => s
  | t :: ts => (s.tileEnter t).tilesEnter ts

/-- TILE_RESET_ENTRY (R124): a tile of the instance enters reset. -/
def execTileResetEntry (tile : Nat) (s : State) : Host.Outcome State Fault Refusal :=
  .next (if tile < s.cfg.ladles then s.tileEnter tile else s)

/-- A tile leaves reset. -/
def State.tileLeave (s : State) (t : Nat) : State := s.setLadle t { s.ladle t with inReset := false, checked := none }

/-- Each tile of a list leaves reset. -/
def State.tilesLeave (s : State) : List Nat → State
  | [] => s
  | t :: ts => (s.tileLeave t).tilesLeave ts

/-- The self-check of a tile out of reset is requested (R407 READY, R489); it starts once the clock of the tile runs, and fails at once while
the Ladle's pair is in ERROR (R154). -/
def State.askKat (s : State) (t : Nat) : State :=
  let l := s.ladle t
  if l.gateShut && l.checked.isNone then s.katEnd t false
  else if l.kat == .idle && l.checked.isNone then s.setLadle t { l with kat := .requested } else s

/-- That of each tile of a list. -/
def State.askKats (s : State) : List Nat → State
  | [] => s
  | t :: ts => (s.askKat t).askKats ts

/-- Output blocks of the ops that a reset of the tiles closes as abandoned (R409). -/
def State.abandonedOuts (s : State) (ts : List Nat) : List Nat :=
  ts.flatMap (fun t => ((s.ladle t).ops.filter (fun o => o.unsent && ! o.whisk)).flatMap (fun o =>
    (List.range o.lay.out.blocks).map (fun b => o.lay.out.base + b)))

/-! ### QUIESCE (R407, R409) -/

/-- An accepted op of a step on a tile of a list: the lowest OPSEQ without a verdict, else the lowest. -/
def Slot.opOn (sl : Slot) (ts : List Nat) : Option Nat :=
  let on := sl.ops.filter (fun o => ! o.notAccepted && ts.contains o.tile)
  let best := on.filter (fun o => o.verdict.isNone)
  ((if best.isEmpty then on else best).map (fun o => o.d.opseq)).min?

/-- The open steps that have an op accepted on a tile of a list: context, slot and op. -/
def State.stepsOn (s : State) (ts : List Nat) : List (Nat × Nat × Nat) :=
  s.ctxs.flatMap (fun p => (List.range 4).filterMap (fun k =>
    let sl := p.2.slot k
    if sl.live then (sl.opOn ts).map (fun q => (p.1, k, q)) else none))

/-- Each of the steps receives a detected error with replay origin OPSEQ 0. -/
def State.detectAll (s : State) : List (Nat × Nat × Nat) → State
  | [] => s
  | x :: t => (s.detect x.1 x.2.1 x.2.2 0).detectAll t

/-- Merges the resets of a list of slots into another: their tickets go over, and the slots are idle (R411). -/
def State.mergeRsts (s : State) : List Nat → State × List Nat
  | [] => (s, [])
  | k :: t =>
    let r := s.rst k
    let q := (s.setRst k { last := r.last }).mergeRsts t
    (q.1, r.tickets ++ q.2)

/-- Starts a reset in slot `k` at QUIESCE. -/
def State.quiesce (s : State) (k : Nat) (v : Rst) : State :=
  let on := if v.quiet || v.safe then [] else s.stepsOn v.tiles
  let s1 := s.setRst k { v with active := true, phase := .quiesce, since := s.time, last := (s.rst k).last,
                                steps := on.map (fun x => (x.1, (s.slot x.1 x.2.1).step)) }
  (s1.drive 0 true v.raised).detectAll on

/-- A reset of a domain. -/
def State.newRst (s : State) (level id : Nat) (tickets : List Nat) : Rst :=
  { level := level, id := id, tiles := s.domTiles level id, raised := s.domSlots level id, tickets := tickets }

/-- Whether one domain lies within another, by level, identifier and slots: a domain lies within itself, and none within one of a lower
level. -/
def Rst.within (a b : Rst) : Bool :=
  (a.level == b.level && a.id == b.id) || (decide (a.level < b.level) && ! a.raised.isEmpty && a.raised.all b.raised.contains)

/-- Resets whose domain lies within that of another. -/
def State.inside (s : State) (v : Rst) : List Nat := (List.range 4).filter (fun k => (s.rst k).active && (s.rst k).within v)

/-! ### RESET, READY and RETURN (R407) -/

/-- The RESET phase begins: reset asserted, open ops closed as abandoned, epochs advanced. Their outputs are scrubbed at the
close of the absorb window, or here where the domain skipped ABSORB (R409). -/
def State.enterReset (s : State) (k : Nat) : State :=
  let r := s.rst k
  let outs := s.abandonedOuts r.tiles
  let s1 := (((s.setRst k { r with phase := .reset, since := s.time, safe := false }).drive 1 true r.raised).bumpEpochs r.raised).tilesEnter
    r.tiles
  if s1.windows.any (fun w => w.slot == k && w.since == s.time) then
    { s1 with windows := s1.windows.map (fun w => if w.slot == k && w.since == s.time then { w with scrub := w.scrub ++ outs } else w) }
  else outs.foldl (fun q b => q.sbCwrite b (q.sbOf b) 0 .absorb) s1

/-- A quiesce of the safe state stops in HELD instead of entering RESET (R412). -/
def State.pastDrain (s : State) (k : Nat) : State :=
  if (s.rst k).safe then s.setRst k { s.rst k with phase := .held } else s.enterReset k

/-- ABSORB: the request is raised and the window of 1 ms opens; RESET follows at once. -/
def State.absorb (s : State) (k : Nat) : State :=
  let r := s.rst k
  let w : Window := { slot := k, since := s.time, raised := r.raised, steps := r.steps }
  let s1 := (s.drive 2 true r.raised).count Reg.hubCntAbsorb
  ({ s1 with windows := s1.windows ++ [w] } : State).pastDrain k

/-- Units of a domain no longer count as hung (R404). -/
def State.unhang (s : State) : List Nat → State
  | [] => s
  | t :: ts =>
    let w := Tab.get {} s.watched t
    ({ s with watched := Tab.set {} s.watched t { exFirst := w.exFirst, exLast := w.exLast } } : State).unhang ts

/-- Ring stops of the tiles are enabled again at RETURN (R421). -/
def State.reviveStops (s : State) : List Nat → State
  | [] => s
  | t :: ts => (s.setStop t {}).reviveStops ts

/-- Watched licensee units that the domain contains (R406). -/
def State.domUnits (s : State) (r : Rst) : List Nat :=
  (s.watchDoms.filter (fun p => p.2.valid &&
    (if p.2.level = 0 then r.tiles.contains p.2.id
     else if p.2.level = 1 then r.raised.contains (128 + p.2.id) else r.raised.contains 144))).map Prod.fst

/-- RETURN: quiesce lowered, the tickets complete with OK. -/
def State.rstReturn (s : State) (k : Nat) : State :=
  let r := s.rst k
  let s1 := ((((s.drive 0 false r.raised).unhang (r.tiles ++ s.domUnits r)).reviveStops r.tiles).count (rstCounter r.level)).setRst k { last := stOk }
  let s2 : State := if r.level = 3 ∧ s1.safe.isSome then { s1 with safeReset := true } else s1
  s2.completeAll stOk 0 false r.tickets

/-- HELD: as RETURN with a final status of its own, but the domain stays quiesced (R407, R408). -/
def State.rstHold (s : State) (k st : Nat) : State :=
  let r := s.rst k
  ((s.setRst k { r with phase := .held, last := st, tickets := [] }).count (rstCounter r.level)).completeAll st 0 false r.tickets

/-! ### Rows of the phases -/

/-- QUIESCE_ACK (R407): every raised slot has acknowledged; DRAIN begins. -/
def execQuiesceAck (slot : Nat) (s : State) : Host.Outcome State Fault Refusal :=
  .next (let r := s.rst slot
    if r.active && r.phase == .quiesce then s.setRst slot { r with phase := .drain, since := s.time } else s)

/-- QUIESCE_TIMEOUT (R465): no acknowledge within 2 µs; the reset proceeds to ABSORB. -/
def execQuiesceTimeout (slot : Nat) (s : State) : Host.Outcome State Fault Refusal :=
  .next (let r := s.rst slot
    if r.active && r.phase == .quiesce && decide (r.since + usT 2 ≤ s.time) then s.absorb slot else s)

/-- RESET_DRAINED (R407): the drain completes, and ABSORB is skipped. -/
def execResetDrained (slot : Nat) (s : State) : Host.Outcome State Fault Refusal :=
  .next (let r := s.rst slot
    if r.active && r.phase == .drain then s.pastDrain slot else s)

/-- DRAIN_LIMIT_EXPIRY (R408): the drain limit has passed. -/
def execDrainLimitExpiry (slot : Nat) (s : State) : Host.Outcome State Fault Refusal :=
  .next (let r := s.rst slot
    if r.active && r.phase == .drain && decide (r.since + drainLimit r.level ≤ s.time) then s.absorb slot else s)

/-- RESET_HOLD_END (R407): reset held for 64 reference cycles is released, and READY begins. -/
def execResetHoldEnd (slot : Nat) (s : State) : Host.Outcome State Fault Refusal :=
  .next (let r := s.rst slot
    if r.active && r.phase == .reset && decide (r.since + 64 ≤ s.time) then
      ((s.setRst slot { r with phase := .ready, since := s.time, high := false, stopped := 0 }).drive 1 false r.raised).tilesLeave r.tiles
    else s)

/-- A reset in READY whose ready levels are all high goes on by its self-checks: RETURN when every one has passed, and HELD with HW_FAULT
once one has failed (R407, R408). -/
def State.readyOn (s : State) (k : Nat) : State :=
  let r := s.rst k
  if ! (r.active && r.phase == .ready && r.high) then s
  else if r.tiles.any (fun t => (s.ladle t).checked == some false) then s.rstHold k stHwFault
  else if r.tiles.all (fun t => (s.ladle t).checked == some true) then s.rstReturn k
  else s

/-- RESET_READY (R407): every ready level is high, and each Ladle runs its self-check then. -/
def execResetReady (slot : Nat) (s : State) : Host.Outcome State Fault Refusal :=
  .next (let r := s.rst slot
    if r.active && r.phase == .ready then ((s.setRst slot { r with high := true }).askKats r.tiles).readyOn slot else s)

/-- LADLE_SELF_CHECK_DONE: the 64 vectors have run (R154), and a reset that waits for them goes on (R407). -/
def execLadleSelfCheckDone (tile : Nat) (pass : Bool) (s : State) : Host.Outcome State Fault Refusal :=
  .next (if s.tileRuns tile && (s.ladle tile).kat == .running then
      ((((s.katEnd tile pass).readyOn 0).readyOn 1).readyOn 2).readyOn 3
    else s)

/-- READY_LIMIT_EXPIRY (R408): READY exceeds its limit, without the time in which a clock of the domain was stopped. -/
def execReadyLimitExpiry (slot : Nat) (s : State) : Host.Outcome State Fault Refusal :=
  .next (let r := s.rst slot
    if r.active && r.phase == .ready && decide (r.since + readyLimit r.level + r.stopped ≤ s.time) then s.rstHold slot stTimeout else s)

/-- ABSORB_WINDOW_CLOSE (R409): 1 ms after the absorb request the window closes, and the blocks of the abandoned ops get
zero sideband. -/
def execAbsorbWindowClose (slot : Nat) (s : State) : Host.Outcome State Fault Refusal :=
  .next (match s.windows.find? (fun w => w.slot == slot && decide (w.since + msT 1 ≤ s.time)) with
    | none => s
    | some w =>
      let s1 : State := { s with windows := s.windows.erase w }
      w.scrub.foldl (fun q b => q.sbCwrite b (q.sbOf b) 0 .absorb) (s1.drive 2 false w.raised))

/-- R409: whether a step still waits for a reset that quiesced one of its tiles, or for an absorb window. -/
def State.resetWaits (s : State) (c step : Nat) : Bool :=
  s.windows.any (fun w => w.steps.contains (c, step)) ||
    s.rsts.any (fun r => r.active && (r.phase == .quiesce || r.phase == .drain) && r.steps.contains (c, step))

/-! ### RESET as a command decides it (R411, R412) -/

/-- What a RESET does: its status and the state; the ticket is `tk`. -/
def State.resetCmd (s : State) (level id tk : Nat) : State × Nat :=
  let v := s.newRst level id [tk]
  let bad := (level = 0 ∧ s.cfg.ladles ≤ id) ∨ (level = 1 ∧ s.cfg.stations ≤ id) ∨ (level = 2 ∧ s.domClusters 2 id = []) ∨ (level = 3 ∧ id ≠ 0)
  if bad then (s, stBadOperand)
  else
    let held := (List.range 4).find? (fun k => (s.rst k).active && (s.rst k).level == 3 && (s.rst k).phase == .held)
    match (if level = 3 then held else none) with
    | some k => ((s.setRst k { s.rst k with tickets := (s.rst k).tickets ++ [tk] }).enterReset k, stPending)
    | none =>
      if (List.range 4).any (fun k => (s.rst k).active && v.within (s.rst k) && ((s.rst k).phase != .held || decide (level < (s.rst k).level))) then
        (s, stIllegalState)
      else
        let m := s.mergeRsts (s.inside v)
        match m.1.idleRst with
        | none => (s, stFull)
        | some k => (m.1.quiesce k { v with tickets := [tk] ++ m.2 }, stPending)

/-! ### The safe state (R394 to R397, R412) -/

/-- COL_STATUS.SAFE_CAUSE is held as the value of `safe`. The safe state is entered: every LIVE context is terminated and
the compute part is quiesced without a RESET phase; a reset of it that runs turns back to that, its tickets kept. A cause of the collector
itself replaces an FA source. -/
def State.enterSafe (s : State) (cause : Nat) : State :=
  match s.safe with
  | some old => if cause = 1 ∨ old ≠ 1 then s else { s with safe := some cause }
  | none =>
    let s1 : State := { s with safe := some cause, safeReset := false }
    let s2 := (if cause = 1 then s1.count Reg.colCntSafe else s1).terminateAll s1.liveCtxs
    match (List.range 4).find? (fun k => (s2.rst k).active && (s2.rst k).level == 3) with
    | some k =>
      let r := s2.rst k
      if r.phase == .held then s2
      else if r.phase == .quiesce || r.phase == .drain then s2.setRst k { r with safe := true }
      else s2.quiesce k { s2.newRst 3 0 r.tickets with safe := true }
    | none =>
      let v := s2.newRst 3 0 []
      let m := s2.mergeRsts (s2.inside v)
      match m.1.idleRst with
      | none => s2
      | some k => m.1.quiesce k { v with tickets := m.2, safe := true }

/-! ### The progress watch (R401 to R405, R422, R423) -/

def State.watchedUnit (s : State) (u : Nat) : Watched := Tab.get {} s.watched u
def State.setWatched (s : State) (u : Nat) (v : Watched) : State := { s with watched := Tab.set {} s.watched u v }
def State.watchDom (s : State) (u : Nat) : WatchDom := Tab.get {} s.watchDoms u

/-- HUB_WATCH_DOM.VALID of a unit (R422). -/
def State.isWatched (s : State) (u : Nat) : Bool := if u < 128 then decide (u < s.cfg.ladles) else (s.watchDom u).valid

/-- Whether a unit's reset domain is in reset or its clock is stopped, or a Whisk run holds its engine busy (R403). -/
def State.excluded (s : State) (u : Nat) : Bool :=
  s.domStopped (s.clkOf u) || (decide (u < 128) && ((s.ladle u).inReset || s.whisk.any (fun w => w.tile == u))) ||
    s.rsts.any (fun r => r.active && (r.phase == .reset || r.phase == .ready) && (s.domUnits r).contains u)

/-- The capture of R423, while none is held. -/
def State.hangCapture (s : State) (kind c u : Nat) : State :=
  if s.bit Reg.hubWatchStatus 1 then s
  else
    (((s.setReg Reg.hubWatchCap (kind * 2 ^ 28 + c % 2 ^ 16 * 2 ^ 8 + u % 256)).setReg Reg.hubWatchCapTimeLo s.time).setReg
      Reg.hubWatchCapTimeHi (s.time / 2 ^ 32)).setBits Reg.hubWatchStatus 2

/-- A unit hangs (R404): HANG, the capture, the counter, and the notice to Kettle 2. -/
def State.hang (s : State) (kind c u : Nat) : State :=
  (((s.hangCapture kind c u).setBits Reg.hubWatchStatus 1).count Reg.hubCntHang).emit (.notice 2)

/-- Two successive samples differ in the progress count. -/
def countMoves : List (Nat × Bool) → Bool
  | a :: b :: t => a.1 != b.1 || countMoves (b :: t)
  | _ => false

/-- Progress in a window (R402): the count moves between samples, or a sample shows busy low. -/
def madeProgress (l : List (Nat × Bool)) : Bool := countMoves l || l.any (fun x => ! x.2)

/-- A sample of the window that ends at a time found the unit excluded (R403). -/
def Watched.excludedBy (w : Watched) (fin : Nat) : Bool := w.exLast != 0 && decide (w.exFirst ≤ fin)

/-- The exclusions that belong to the windows after one that ends at a time. -/
def Watched.nextWindow (w : Watched) (fin : Nat) : Watched :=
  if w.exLast ≤ fin then { w with exFirst := 0, exLast := 0 } else { w with exFirst := max w.exFirst (fin + 1) }

/-- One unit at the end of a window, with its samples in it; a unit without samples has shown no work. -/
def State.watchOne (s : State) (fin : Nat) (samples : List (Nat × List (Nat × Bool))) (u : Nat) : State :=
  let w0 := s.watchedUnit u
  let w := w0.nextWindow fin
  let ctl := s.reg Reg.hubWatchCtrl
  let limit := max 1 (if u < 128 then fieldOf ctl 15 8 else fieldOf ctl 23 16)
  if ! s.isWatched u || w0.excludedBy fin then s.setWatched u w
  else if ((lookup samples u).map madeProgress).getD true then s.setWatched u { w with idleWindows := 0, hung := false, verdictHung := false }
  else
    let due := decide (limit ≤ w.idleWindows + 1)
    let s1 := s.setWatched u { w with idleWindows := w.idleWindows + 1, hung := w.hung || due }
    if due && ! w.hung && ! w.verdictHung then s1.hang 1 0 u else s1

/-- Each unit of a list, in ascending order. -/
def State.watchAll (s : State) (fin : Nat) (samples : List (Nat × List (Nat × Bool))) : List Nat → State
  | [] => s
  | u :: t => (s.watchOne fin samples u).watchAll fin samples t

/-- WATCH_WINDOW_END (R402 to R404): at the end of a window, with the samples of each unit in it, progress count and busy level; before the
window has passed, nothing. -/
def execWatchWindowEnd (samples : List (Nat × List (Nat × Bool))) (s : State) : Host.Outcome State Fault Refusal :=
  .next (let w := usT (max 1 (s.reg Reg.hubWatchCtrl % 2 ^ 8))
    if s.time < s.windowAt + w then s
    else ({ s with windowAt := s.windowAt + w } : State).watchAll (s.windowAt + w) samples (List.range 256))

/-- The op has had no verdict for OPAGE ms, without the time in which its tile was in reset or had its clock stopped (R405). -/
def OpRec.overdue (o : OpRec) (tile age now : Nat) : Bool :=
  o.tile == tile && ! o.notAccepted && o.verdict.isNone && ! o.aged && decide (o.acceptedAt + age + o.downFor ≤ now)

/-- Marks the records of an op that its age has put into a hang. -/
def Ctx.markAged (e : Ctx) (o : OpRec) : Ctx :=
  { e with slots := e.slots.map (fun sl => { sl with ops := sl.ops.map (fun x =>
      if x.tile == o.tile && x.d.step == o.d.step && x.d.opseq == o.d.opseq then { x with aged := true } else x) }) }

/-- VERDICT_AGE_HANG (R405): an op accepted on the tile is overdue; a tile that counts as hung is not counted again (R404). -/
def execVerdictAgeHang (tile : Nat) (s : State) : Host.Outcome State Fault Refusal :=
  .next (let age := msT (max 1 (s.reg Reg.hubWatchCtrl / 2 ^ 24))
    let w := s.watchedUnit tile
    match s.recs.find? (fun o => o.overdue tile age s.time) with
    | none => s
    | some o =>
      let s1 := s.setCtx o.d.ctx ((s.ctx o.d.ctx).markAged o)
      let s2 := s1.setWatched tile { w with verdictHung := true }
      if w.hung || w.verdictHung then s2 else s2.hang 2 o.d.ctx tile)

/-! ### One cycle of zv_ref_clk -/

/-- A reset in READY while a clock of its domain is stopped: the time does not count to its limit (R408). -/
def State.tickRst (s : State) (r : Rst) : Rst :=
  if r.active && r.phase == .ready && r.tiles.any (fun t => s.domStopped (s.clkOf t)) then { r with stopped := r.stopped + 1 } else r

/-- The ops that wait for a verdict on tiles that do not run do not age (R405). -/
def State.tickOp (s : State) (o : OpRec) : OpRec :=
  if ! o.notAccepted && o.verdict.isNone && ! s.tileRuns o.tile then { o with downFor := o.downFor + 1 } else o

def State.tickCtx (s : State) (e : Ctx) : Ctx := { e with slots := e.slots.map (fun sl => { sl with ops := sl.ops.map s.tickOp }) }

/-- A sample of the progress watch marks the units that are excluded at it (R403). -/
def State.markExcluded (s : State) : List Nat → State
  | [] => s
  | u :: t =>
    let w := s.watchedUnit u
    (if s.isWatched u && s.excluded u then
      s.setWatched u { w with exFirst := if w.exLast = 0 then s.time else w.exFirst, exLast := s.time } else s).markExcluded t

/-- One cycle of zv_ref_clk passes: the time base counts (R27), and every 64th is a sample of the progress watch (R402). -/
def State.tick (s : State) : State :=
  let s1 : State := { s with time := s.time + 1, rsts := s.rsts.map s.tickRst, ctxs := s.ctxs.map (fun p => (p.1, s.tickCtx p.2)) }
  if s1.time % 64 = 0 then s1.markExcluded (List.range 256) else s1

/-! ### The completion filter (R413) -/

/-- CFL_ISSUE: an ISSUE lookup; context 0 always passes and is not counted. -/
def execCflIssue (lane ctx gen tag : Nat) (s : State) : Host.Outcome State Fault Refusal :=
  .next (let e := s.ctx ctx
    if ctx = 0 then s.emit (.cfl lane tag true)
    else if e.st == .live && e.gen == gen then ((s.cflMore ctx).count Reg.hubCntCflPass).emit (.cfl lane tag true)
    else (s.count Reg.hubCntCflDrop).emit (.cfl lane tag false))

/-- CFL_COMPLETE: a COMPLETE lookup. -/
def execCflComplete (lane ctx gen tag : Nat) (s : State) : Host.Outcome State Fault Refusal :=
  .next (let q := s.cflComplete ctx gen
    q.1.emit (.cfl lane tag q.2))

/-! ### Teardown (R415) -/

def State.teardown (s : State) (k : Nat) : Option Teardown := s.teardowns.find? (fun t => t.slot == k)
def State.setTeardown (s : State) (v : Teardown) : State :=
  { s with teardowns := s.teardowns.map (fun t => if t.slot == v.slot then v else t) }

/-- Tiles with an op of an old generation still open. -/
def State.oldTiles (s : State) (c gen : Nat) : List Nat :=
  (List.range s.cfg.ladles).filter (fun t => (s.ladle t).ops.any (fun o => o.d.ctx == c && o.d.gen == gen && o.unsent))

/-- Order 6: a tile with an op of the old generation is reset as a tile domain, while a reset slot is idle. -/
def State.quietResets (s : State) : List Nat → State
  | [] => s
  | t :: ts =>
    (match (if s.rsts.any (fun r => r.active && r.tiles.contains t) then none else s.idleRst) with
     | none => s
     | some k => s.quiesce k { s.newRst 0 t [] with quiet := true }).quietResets ts

/-- Order 7: writes a run of blocks with zero data and zero sideband. -/
def State.scrubRun (s : State) (k b : Nat) : Nat → State
  | 0 => s
  | n + 1 => (s.writeZ (b * 4096) (zeros 4096) (.scrub k)).scrubRun k (b + 1) n

/-- Writes every extent of a scrub list. -/
def State.scrubAll (s : State) (k : Nat) : List (Nat × Nat) → State
  | [] => s
  | x :: t => (s.scrubRun k x.1 x.2).scrubAll k t

/-- A program of a torn-down generation is still in flight: the teardown waits for its end (R257). -/
def State.oldPrograms (s : State) (v : Teardown) : Bool := s.progs.any (fun p => p.2.ctx == v.ctx && p.2.gen == v.gen)

/-- Orders 5 to 7 of a teardown: the drain ends, or its 1 ms has passed and no tile holds an op of the old generation. -/
def State.drainStep (s : State) (v : Teardown) : State :=
  let scrub (q : State) : State :=
    (q.setTeardown { v with phase := .scrub, failed := v.failed || (q.bothStalled && ! v.scrub.isEmpty) }).scrubAll v.slot v.scrub
  if v.phase == .scrub || s.oldPrograms v then s
  else if v.count = 0 then scrub s
  else if s.time < v.since + msT 1 then s
  else
    let old := s.oldTiles v.ctx v.gen
    if old.isEmpty then scrub s else (s.setTeardown { v with phase := .tileReset }).quietResets old

/-- TEARDOWN_DRAIN_END (R415). -/
def execTeardownDrainEnd (slot : Nat) (s : State) : Host.Outcome State Fault Refusal :=
  .next (match s.teardown slot with
    | none => s
    | some v => s.drainStep v)

/-- TEARDOWN_SCRUB_DONE (R415 order 8): the ticket completes with OK, or with MEMORY_ERROR when a scrub write failed. -/
def execTeardownScrubDone (slot : Nat) (s : State) : Host.Outcome State Fault Refusal :=
  .next (match s.teardown slot with
    | none => s
    | some v =>
      if v.phase != .scrub then s
      else
        let s1 := s.retire (fun a => a == .scrub slot)
        let s2 : State := { s1 with teardowns := s1.teardowns.filter (fun t => t.slot != slot) }
        (s2.count Reg.hubCntTeardown).complete v.ticket (if v.failed then stMemoryError else stOk) 0 false)

end Sys2Proof.Machine
end

