-- ==== Sys2Proof/Machine/Colander.lean ====
section
/-! DEFINITION. The Colander (14_fault_collection): the pairs of stations 0 to 15, their arming, transitions and captures,
the collector's own faults, and the way out of the safe state. -/

namespace Sys2Proof.Machine

/-- Whether pair `i` of a cluster station is an input that something drives: a pair of a Ladle that does not exist is tied
to OK (R382). -/
def State.hasPair (s : State) (stn i : Nat) : Bool :=
  decide (stn < min 16 s.cfg.stations) && decide (i < 64) && (decide (8 ≤ i) || decide (8 * stn + i < s.cfg.ladles))

/-- The ERR or WIRE bit of a pair is set (R393). -/
def State.latchErr (s : State) (stn i : Nat) (wire : Bool) : State :=
  s.setBits (atStn stn (if wire then Reg.colStnWireLo else Reg.colStnErrLo) + i / 32 * 4) (2 ^ (i % 32))

/-- More than the 40 hub cycles of R388 have passed since a transition. -/
def CapWait.over (w : CapWait) (cycle : Nat) : Bool := decide (w.cycle + 40 < cycle)

/-- Whether a beat came in the 8 hub cycles before a transition, or with it (R388). -/
def CapBeat.early (b : CapBeat) (cycle : Nat) : Bool := decide (b.cycle ≤ cycle) && decide (cycle ≤ b.cycle + 8)

/-- Writes the detail of R388 into a capture from `base`. -/
def State.capDetail (s : State) (base addr access master : Nat) : State :=
  let a := if 9 ≤ access then 0 else access
  (((s.setBits base (2 ^ 28)).setReg (base + 4) addr).setReg (base + 8) (addr / 2 ^ 32 % 2 ^ 16 + a * 2 ^ 16)).setReg (base + 12)
    (master % 2 ^ 16)

/-- The base of the CE capture registers. -/
def colCeCapSrc : Nat := 0x10030

/-- A capture of a licensee pair takes the detail of a beat of its channel that came before, or awaits one (R388). -/
def State.awaitDetail (s : State) (stn i cycle : Nat) (ce : Bool) : State :=
  match s.capBeats.find? (fun b => b.station == stn && b.pair == i && b.early cycle) with
  | some b => s.capDetail (if ce then colCeCapSrc else Reg.colCapSrc) b.addr b.access b.master
  | none => { s with capWaits := s.capWaits ++ [{ station := stn, pair := i, ce := ce, cycle := cycle }] }

/-- The capture of a transition of stations 0 to 15 (R387 to R389): a Ladle pair brings its own detail. -/
def State.pairCaptured (s : State) (stn i cls cycle : Nat) (wire : Bool) : State :=
  let own := decide (i < 8)
  let m := if own then 8 * stn + i else 0
  let acc := if own then 8 else 0
  let ce := cls == 1 && ! wire
  let held := s.bit Reg.colStatus (if ce then 17 else 16)
  let c := if wire && cls == 1 then 2 else cls
  let s1 := if ce then s.capCe own stn i 0 acc m else s.capUc c wire own stn i 0 acc m
  if own || held then s1 else s1.awaitDetail stn i cycle ce

/-- A transition into ERROR or WIRE takes effect in a hub cycle (R386). -/
def State.transition (s : State) (stn i cycle : Nat) (wire : Bool) : State :=
  let cls := s.pairClass stn i
  let s1 := ((s.latchErr stn i wire).count (if wire then Reg.colCntWire else errCounter cls)).pairCaptured stn i cls cycle wire
  let s2 := if wire then s1.setBits Reg.colStatus colWire else s1
  let s3 := if i < 8 ∧ ! wire then s2.ladleFault (8 * stn + i) else s2
  if cls = 3 then s3.enterSafe 1 else s3

/-- The filter of a pair has passed ERROR or WIRE (R379, R381, R386): a decoded pair that changes makes its transition. -/
def State.filterBad (s : State) (stn i cycle : Nat) (wire : Bool) : State :=
  let p := s.pair stn i
  let st : PairState := if wire then .wire else .error
  let s1 := s.setPair stn i { p with filt := some st, lvl := if p.decoded then st else p.lvl }
  if p.decoded && p.lvl != st then s1.transition stn i cycle wire else s1

/-- PAIR_TRANSITION (R386): the filter of a pair passes ERROR, or WIRE. -/
def execPairTransition (station pair : Nat) (wire : Bool) (cycle : Nat) (s : State) : Host.Outcome State Fault Refusal :=
  .next (if s.hasPair station pair then s.filterBad station pair cycle wire else s)

/-- The filter of a pair has passed OK: an enabled pair is decoded from now on, and its state is OK (R381). -/
def State.filterOk (s : State) (stn i : Nat) : State :=
  let p := s.pair stn i
  s.setPair stn i { p with filt := some .ok, lvl := .ok, decoded := p.decoded || s.pairOn stn i }

/-- A Ladle holds its pair in ERROR until its tile is reset (R383). -/
def State.heldError (s : State) (stn i : Nat) : Bool := decide (i < 8) && (s.pair stn i).filt == some .error

/-- PAIR_RETURN_OK (R381): the filter of a pair passes OK. -/
def execPairReturnOk (station pair : Nat) (s : State) : Host.Outcome State Fault Refusal :=
  .next (if s.hasPair station pair && ! s.heldError station pair then s.filterOk station pair else s)

/-- A pair that has not reached OK within 1 ms of its arming enters WIRE (R381). -/
def State.armOut (s : State) (stn i cycle : Nat) : State :=
  let p := s.pair stn i
  if s.pairOn stn i && p.armed && ! p.decoded && decide (p.armedAt + msT 1 ≤ s.time) then
    (s.setPair stn i { p with lvl := .wire, armed := false }).transition stn i cycle true
  else s

/-- PAIR_ARM_TIMEOUT (R381); before its time, nothing. -/
def execPairArmTimeout (station pair cycle : Nat) (s : State) : Host.Outcome State Fault Refusal :=
  .next (if s.hasPair station pair then s.armOut station pair cycle else s)

/-- A capture channel beat (R388): the detail of the capture that awaits it, else kept for a transition of the next 8 hub cycles. -/
def State.beat (s : State) (b : CapBeat) : State :=
  match s.capWaits.find? (fun w => w.station == b.station && w.pair == b.pair && decide (w.cycle ≤ b.cycle) && ! w.over b.cycle) with
  | some w => ({ s with capWaits := s.capWaits.erase w } : State).capDetail (if w.ce then colCeCapSrc else Reg.colCapSrc) b.addr b.access b.master
  | none => { s with capBeats := s.capBeats.filter (fun x => x.early b.cycle) ++ [b] }

/-- CAPTURE_BEAT (R388). -/
def execCaptureBeat (station pair addr master access cycle : Nat) (s : State) : Host.Outcome State Fault Refusal :=
  .next (if s.hasPair station pair then s.beat { station := station, pair := pair, addr := addr, master := master, access := access, cycle := cycle }
    else s)

/-- CAPTURE_DETAIL_TIMEOUT (R388): once 40 hub cycles after the transition have passed, the capture goes without detail. -/
def execCaptureDetailTimeout (station pair cycle : Nat) (s : State) : Host.Outcome State Fault Refusal :=
  .next (match s.capWaits.find? (fun w => w.station == station && w.pair == pair && w.over cycle) with
    | none => s
    | some w => ({ s with capWaits := s.capWaits.erase w } : State).count Reg.colCntNoinfo)

/-- COL_SELF as a failed comparison of R394 leaves it. -/
def State.selfFault (s : State) (unit word : Nat) : State :=
  s.setReg Reg.colSelf (2 ^ 31 + unit % 2 ^ 8 * 2 ^ 16 + word % 2 ^ 12)

/-- COLANDER_SELF_FAULT (R394): a pair of copies disagrees. -/
def execColanderSelfFault (unit word : Nat) (s : State) : Host.Outcome State Fault Refusal :=
  .next ((s.selfFault unit word).enterSafe 2)

/-- The safe state of an FA source is left once no FA bit is 1 and a reset of the compute part has completed (R397). -/
def State.exitSafe (s : State) : State :=
  if s.safe = some 1 ∧ s.faAny = false ∧ s.safeReset = true then { s with safe := none, safeReset := false } else s

/-- COL_SAFE_EXIT (R397): a write of COL_SAFE with EXIT 1. -/
def execColSafeExit (src : Src) (s : State) : Host.Outcome State Fault Refusal :=
  .next (s.writeAccess src Reg.colSafe State.exitSafe)

/-- Pair `i` of a station whose enable bit goes from `old` to `new` (R381). -/
def State.enablePair (s : State) (stn i : Nat) (old new : Bool) : State :=
  let p := s.pair stn i
  if old == new then s
  else if new then s.setPair stn i { p with armed := true, armedAt := s.time, decoded := p.filt == some .ok, lvl := .ok }
  else s.setPair stn i { p with decoded := false, lvl := .ok }

/-- Each pair of half a station whose enable word goes from `old` to `new`. -/
def State.enablePairs (s : State) (stn base old new : Nat) : List Nat → State
  | [] => s
  | i :: t => (s.enablePair stn (base + i) (bitAt old i == 1) (bitAt new i == 1)).enablePairs stn base old new t

/-- A write of COL_STN_EN_LO or HI; station 16 ignores it (R399). -/
def State.writeEn (s : State) (stn : Nat) (hi : Bool) (val : Nat) : State :=
  let a := atStn stn Reg.colStnEnLo + b2n hi * 4
  if 16 ≤ stn then s
  else (s.enablePairs stn (b2n hi * 32) (s.reg a) val (List.range 32)).setReg a val

/-- COL_STN_EN_WRITE (R381). -/
def execColStnEnWrite (src : Src) (station : Nat) (hi : Bool) (val : Nat) (s : State) : Host.Outcome State Fault Refusal :=
  .next (s.writeAccess src (atStn station Reg.colStnEnLo + b2n hi * 4) (fun q => q.writeEn station hi val))

/-- GLITCH_DISCARD (R24): the filter of a pair discards a transition. -/
def execGlitchDiscard (station pair : Nat) (s : State) : Host.Outcome State Fault Refusal :=
  .next (if s.hasPair station pair then s.count (atStn station Reg.colCntGlitch) else s)

/-- The bits of a pair in ERROR or WIRE are set again in every hub cycle (R393). -/
def State.reassertPairs (s : State) : List (Nat × StnPair) → State
  | [] => s
  | p :: t =>
    (match p.2.lvl with
     | .ok => s
     | .error => s.latchErr (p.1 / 64) (p.1 % 64) false
     | .wire => s.latchErr (p.1 / 64) (p.1 % 64) true).reassertPairs t

def State.reassert (s : State) : State := s.reassertPairs s.pairs

end Sys2Proof.Machine
end

