-- ==== Sys2Proof/Machine/Ledger.lean ====
section
/-! DEFINITION. The Lid's events (08_step_ledger_and_commit): acceptance, reports, replay, bucket releases, slots that
become free, and the messages of pair mode (11_determinism_and_provenance). -/

namespace Sys2Proof.Machine

/-! ### OP_ACCEPT (R104 rows 5 and 6, R138, R225, R504) -/

/-- Whether a valid Scale Keeper field names an entry bound to the op's context; a field without its valid bit does. -/
def State.sckOk (s : State) (c f : Nat) : Bool :=
  decide (f < 0x8000) || ((s.sckEnt (f % 0x8000)).bound && (s.sckEnt (f % 0x8000)).ctx == c)

/-- Whether an op's bucket has been released: a replay does not issue it again (R227). -/
def Slot.freed (sl : Slot) (o : OpRec) : Bool := o.d.bktValid && (sl.bucket o.d.bucket).released

/-- A reissue, in a replay, of an op of a released bucket, which row 4 of R225 meets (R227). -/
def Slot.reissuesFreed (sl : Slot) (d : Desc) (o : OpRec) : Bool :=
  decide (0 < sl.replaysUsed) && sl.freed o && d.bktValid && d.bucket == o.d.bucket

/-- The descriptor errors that the Lid finds for an op of an open step (R104 row 6, R225). -/
def State.lidDescErr (s : State) (e : Ctx) (sl : Slot) (d : Desc) : Bool :=
  d.seed != e.seed || sl.ops.any (fun o => o.d.opseq == d.opseq && ! o.notAccepted && ! sl.reissuesFreed d o) || (decide (0 < sl.n) && decide (sl.n ≤ d.opseq)) ||
    ! s.sckOk d.ctx d.sckA || ! s.sckOk d.ctx d.sckB || ! s.sckOk d.ctx d.sckOut

/-- Whether one of some regions shares a block with one of others. -/
def meetAny (xs ys : List Region) : Bool := xs.any (fun x => ys.any x.meets)

/-- Op records that the ledger area and the region index hold. -/
def State.heldRecs (s : State) : List OpRec := s.recs.filter (fun o => o.order != 0)

/-- The record that an op of an earlier issue left, which a reissue takes over with its extents (R225, R227). -/
def Slot.earlier (sl : Slot) (q : Nat) : Option OpRec := (sl.op q).filter (fun o => o.order != 0)

/-- The extents that a list of op records has in the region index. -/
def extentsOf (os : List OpRec) : Nat := (os.map (fun o => o.lay.all.length)).foldl (· + ·) 0

/-- Row 1 of R225, and R318 for a paired context. -/
def State.ledgerFull (s : State) (sl : Slot) (d : Desc) (lay : Layout) : Bool :=
  let own := (sl.earlier d.opseq).toList
  decide (262144 < extentsOf s.heldRecs - extentsOf own + lay.all.length) ||
    decide (s.reg Reg.lidLedgerSize * 64 * 128 < s.heldRecs.length - own.length + 1) ||
    ((s.pairing d.ctx).isSome && decide (2 ^ s.pairCap ≤ d.opseq))

/-- The ops of the other rows: those that the open steps of a context have in the region index, the op itself apart; a replay takes no
extent out of the index (R225). -/
def Ctx.liveOps (e : Ctx) (d : Desc) : List OpRec :=
  (e.slots.filter Slot.live).flatMap (fun sl => sl.ops.filter (fun o => o.order != 0 && ! (sl.step == d.step && o.d.opseq == d.opseq)))

/-- Row 2 of R225: the op writes a block that another op of an open step of the context has read or written, or one of a read extent of
the manifest queue (R341). A reissued op does not meet it. -/
def State.holdRow (s : State) (e : Ctx) (sl : Slot) (d : Desc) (lay : Layout) : Bool :=
  (sl.earlier d.opseq).isNone &&
    ((e.liveOps d).any (fun o => meetAny [lay.out] (o.lay.out :: o.lay.ins)) ||
      s.ckptQ.any (fun j => j.ctx == d.ctx && j.extents.any (fun x => lay.out.meetsRange x.1 x.2)))

/-- The first row of R225 that applies, 0 for none. -/
def State.acceptRow (s : State) (e : Ctx) (sl : Slot) (d : Desc) (lay : Layout) : Nat :=
  let ops := e.liveOps d
  let ins := lay.ins
  let b := sl.bucket d.bucket
  if s.ledgerFull sl d lay then 1
  else if s.holdRow e sl d lay then 2
  else if ops.any (fun o => laterStep d.step o.d.step && meetAny ins [o.lay.out]) then 3
  else if d.bktValid && (b.released || b.nulled || (match b.last with
      | some l => decide (l < d.opseq)
      | none => false)) then 4
  else if sl.nulled && decide (sl.u ≤ d.opseq) && sl.ops.any (fun o => decide (o.d.opseq < sl.u) && meetAny ins [o.lay.out]) then 5
  else 0

/-- The counter of a row. -/
def acceptCounter (k : Nat) : Nat :=
  if k = 1 then Reg.lidCntFull else if k = 2 then Reg.lidCntHold else if k = 4 then Reg.lidCntBucket else Reg.lidCntOrder

/-- A row of R225 refuses an op (R504, R241): capture, counter, fault, and the step is abandoned with CAUSE 0x2. -/
def State.refuseOp (s : State) (k row : Nat) (d : Desc) : State :=
  let s1 := if s.bit Reg.lidStatus 1 then s
    else (((s.setReg Reg.lidCapInfo (row * 2 ^ 28 + d.opseq % 2 ^ 24)).setReg Reg.lidCapCtx (d.gen * 2 ^ 16 + d.ctx)).setReg Reg.lidCapStep
      d.step).setBits Reg.lidStatus 2
  let s2 := if row = 1 then s1.setBits Reg.lidStatus 1 else s1
  ((s2.count (acceptCounter row)).faultInt clsLedger d.ctx).abandon d.ctx k 2 d.opseq

/-- The tensor scale of a Scale Keeper field for an op of step `t` (R237). -/
def State.tensorScale (s : State) (f t : Nat) : Int :=
  if f < 0x8000 then 0 else (((s.sckEnt (f % 0x8000)).scales)[(t + 2 ^ 32 - 4) % 4]?).getD 0

/-- The place in the ledger area that an op's record takes: that of its earlier issue, else the lowest that no record holds (R223). -/
def State.ledgerPlace (s : State) (sl : Slot) (q : Nat) : Nat :=
  match sl.earlier q with
  | some o => o.place
  | none =>
    let held := s.heldRecs.map OpRec.place
    ((List.range (held.length + 1)).find? (fun k => ! held.contains k)).getD 0

/-- R223: the 32 bytes of an op record are written; the spec does not give their layout, so they are free (log entry 116). -/
def State.writeRecord (s : State) (place : Nat) : State :=
  (s.writeZ (s.reg Reg.lidLedgerBase * 64 * 4096 + 32 * place) (freeBytes s.free 32) .ledger).took 32

/-- The record of an accepted op (R223); the digest of an earlier execution stays beside it (R320). -/
def State.newRec (s : State) (sl : Slot) (t : Nat) (o : LOp) : OpRec :=
  { d := o.d, lay := o.lay, spA := o.spA, spB := o.spB, tile := t, tag := o.tag, routeHold := o.d.isRoute, order := s.lidSeq + 1,
    place := s.ledgerPlace sl o.d.opseq,
    tsA := s.tensorScale o.d.sckA o.d.step, tsB := s.tensorScale o.d.sckB o.d.step, tsOut := s.tensorScale o.d.sckOut o.d.step,
    opd := (sl.op o.d.opseq).bind OpRec.opd, acceptedAt := s.time }

/-- An op of an open step names its recipe slot, which the step then pins (R94). -/
def Slot.pin (sl : Slot) (d : Desc) : Slot := if d.isRoute || sl.pins.contains d.slot then sl else { sl with pins := sl.pins ++ [d.slot] }

/-- An op is accepted: its record, its recipe pin, its bucket. -/
def State.acceptOp (s : State) (k t : Nat) (o : LOp) : State :=
  let sl := s.slot o.d.ctx k
  let r := s.newRec sl t o
  let sl1 := (sl.putOp r).pin o.d
  let sl2 := if o.d.bktValid then sl1.setBucket o.d.bucket { sl1.bucket o.d.bucket with named := true } else sl1
  { ((s.leaveBoundary t).setSlot o.d.ctx k sl2).writeRecord r.place with lidSeq := s.lidSeq + 1 }

/-- The Lid's decision on an op of tile `t`: the state, and the answer that goes back. Generation 0x0000 belongs to no context (R162), so an
op of context 0 is stale whatever its GEN. -/
def State.lidDecide (s : State) (t : Nat) (o : LOp) : State × Accept :=
  let e := s.ctx o.d.ctx
  if o.d.ctx = 0 ∨ o.d.gen ≠ e.gen then (s, .stale)
  else
    match (if e.st == .live then e.find (fun k => k.live && k.step == o.d.step) else none) with
    | none => (s, .descErr)
    | some k =>
      let sl := e.slot k
      if s.lidDescErr e sl o.d then (s, .descErr)
      else
        let row := s.acceptRow e sl o.d o.lay
        if row ≠ 0 then (s.refuseOp k row o.d, .refused)
        else
          let r := s.newRec sl t o
          (s.acceptOp k t o, .ok r.tsA r.tsB r.tsOut)

/-- OP_ACCEPT: the oldest descriptor on its way to the Lid. -/
def State.takeDesc (s : State) : State :=
  match s.lidQ with
  | [] => s
  | (t, id) :: rest =>
    let s1 : State := { s with lidQ := rest }
    match (s1.ladle t).ops.find? (fun o => o.id == id) with
    | none => s1
    | some o =>
      let q := s1.lidDecide t o
      { q.1 with answers := q.1.answers ++ [(t, id, q.2)] }

def execOpAccept (s : State) : Host.Outcome State Fault Refusal := .next s.takeDesc

/-! ### LADLE_REPORT (R148, R167, R168, R173, R195, R203, R226, R509) -/

/-- The record takes what a report says. -/
def Report.into (r : Report) (o : OpRec) : OpRec :=
  { o with verdict := some r.verdict, compared := r.compared && ! r.resOff, resOff := r.resOff, flags := r.flags, cmx := r.cmx, counts := r.counts,
           inBlocks := r.inBlocks, outCrc := r.outCrc }

/-- Whether a step is HALTED with its origin at or below an op, so that the op's report starts no job (R227). -/
def Slot.voids (sl : Slot) (q : Nat) : Bool := sl.st == .halted && decide (sl.origin ≤ q)

/-- Samples that MTRSAMP asked for before the verdict (R266). -/
def State.askedSamples (s : State) (c k : Nat) (o : OpRec) : List (List Nat) → State
  | [] => s
  | els :: t => (s.newSample c k o els).askedSamples c k o t

/-- An op passes, or is left to the Mortar: its samples are created, or its contribution is added (R195, R196, R209). -/
def State.passOp (s : State) (c k : Nat) (o : OpRec) : State :=
  let sl := s.slot c k
  if sl.voids o.d.opseq then s
  else
    let chosen := sl.sieve.selects o.d (s.rcp o.d.slot).recipe o.compared o.resOff
    let s1 := if chosen then s.newSample c k o (sl.sieve.elements o.d sl.sieve.elems) else s
    let s2 := s1.askedSamples c k o o.asked
    (if chosen || ! o.asked.isEmpty then s2.serveNoLane else s2.addEscape c k o.d.opseq).settle c k o.d.opseq

/-- Each seal failure of a report asks for its confirmation (R168, R169). -/
def State.confirmAll (s : State) (r : Report) : List SealFail → State
  | [] => s
  | x :: t => (s.startConfirm x.blk false r.d.gen x.fmt { tile := r.tile, ctx := r.d.ctx, gen := r.d.gen, step := r.d.step, opseq := r.d.opseq,
                                                          kind := x.kind, bcv := x.bcv }).confirmAll r t

/-- Findings that are a detected error of themselves, with the op as origin (R105, R122, R144, R168, R226). -/
def Finding.direct (f : Finding) : Bool :=
  f == .descErr || f == .tap || f == .closure || f == .egress || f == .index || f == .sealFail

/-- Findings that bar the arbitration of an op, whatever else it carries (R168, R509; log entry 135). -/
def Finding.bars (f : Finding) : Bool := f == .index || f == .ladle || f == .sealFail

/-- The arbitration of a failed op of an open step, where its findings ask for one (R203, R509). -/
def State.arbitrateOp (s : State) (r : Report) (k : Option Nat) : State :=
  let d := r.d
  match k.bind (fun i => ((s.slot d.ctx i).op d.opseq).map (fun o => (i, o))) with
  | some (i, o) =>
    if r.found.any Finding.arbitrated && ! r.found.any Finding.bars && ! o.notAccepted && ! (s.slot d.ctx i).voids d.opseq &&
      (s.slot d.ctx i).live then s.arbitrate d.ctx i o r else s
  | none => s

/-- A failed op: its arbitration, its detected error, confirmations and poisoned inputs. -/
def State.failedOp (s : State) (r : Report) (k : Option Nat) : State :=
  let d := r.d
  let s1 := s.arbitrateOp r k
  let s2 :=
    if r.found.contains .ladle then s1.detectStep d.ctx d.gen d.step d.opseq 0
    else if r.found.any Finding.direct then s1.detectStep d.ctx d.gen d.step d.opseq d.opseq
    else s1
  (s2.confirmAll r r.seals).poisonedInputs d.ctx d.gen d.step d.opseq r.poison

/-- What a report leaves in the step of its op: the record of an accepted op takes it, the Ladle's counts are added, and an op of an open
step that failed before it was accepted leaves its record and pins the slot that it named (R94, R97, R105). -/
def Slot.tookReport (sl : Slot) (r : Report) : Slot :=
  let q := r.d.opseq
  let sl1 := if sl.ops.any (fun o => o.d.opseq == q && ! o.notAccepted && o.verdict.isNone && o.tile == r.tile) then sl.onOp q r.into else sl
  let sl2 := { sl1 with counts := addCounts sl1.counts r.counts }
  if sl.live && (r.verdict == .failed || r.verdict == .abandoned) then
    (if (sl2.op q).isSome then sl2 else sl2.putOp { d := r.d, tile := r.tile, tag := r.tag, st := .failed, notAccepted := true }).pin r.d
  else sl2

/-- LADLE_REPORT: one report of the report path. -/
def State.takeReport (s : State) (r : Report) : State :=
  let d := r.d
  let e := s.ctx d.ctx
  if d.ctx = 0 ∨ e.gen ≠ d.gen then (if (s.tearing d.ctx d.gen).isSome then s.tearDone d.ctx d.gen else s)
  else
    let k := e.stepSlot d.step
    let s1 := match k with
      | none => s
      | some i => s.setSlot d.ctx i ((e.slot i).tookReport r)
    let s2 := if d.isRoute && (r.verdict == .pass || r.verdict == .failed) then { s1 with routeQ := s1.routeQ ++ [r] } else s1
    match r.verdict with
    | .pass | .mortarOnly =>
      match k.bind (fun i => ((s2.slot d.ctx i).op d.opseq).map (fun o => (i, o))) with
      | some (i, o) => if (s2.slot d.ctx i).live && ! o.notAccepted then s2.passOp d.ctx i o else s2
      | none => s2
    | .failed => s2.failedOp r k
    | .abandoned => s2.detectStep d.ctx d.gen d.step d.opseq 0
    | .refused | .stale => s2

def execLadleReport (s : State) : Host.Outcome State Fault Refusal :=
  .next (match s.reports with
    | [] => s
    | r :: t => ({ s with reports := t } : State).takeReport r)

/-! ### HALT_ACK and REPLAY (R227, R232) -/

/-- HALT_ACK: it names a HALTED step, else it is counted as dropped. -/
def State.haltAck (s : State) (c gen step next : Nat) : State :=
  let e := s.ctx c
  match (if e.st == .live && e.gen == gen then e.find (fun k => k.st == .halted && k.step == step) else none) with
  | some k => s.setSlot c k { e.slot k with ack := some next }
  | none => s.count Reg.lidCntGateDrop

/-- HALT_ACK: a gate message arrives at the peer message port. A good one is delivered to the Lid, which acts on HALT_ACK alone (R232,
R331); a message of another class is no gate message and changes nothing here. -/
def execHaltAck (m : PeerMsg) (s : State) : Host.Outcome State Fault Refusal :=
  .next (if ! s.accepts m then s.discardPeer m
    else if m.cls ≠ 0 then s
    else if m.kind = gkHaltAck then (s.takePeer m).haltAck (leAt m.body 2 2) (leAt m.body 4 2) (leAt m.body 8 4) (leAt m.body 12 4)
    else s.takePeer m)

/-- Whether a confirmation of the step still runs (R170). -/
def State.confirming (s : State) (c gen step : Nat) : Bool :=
  s.confirms.any (fun x => x.reps.any (fun r => r.ctx == c && r.gen == gen && r.step == step))

/-- Whether a replay of the step in slot `k` may start: HALT_ACK, the drain, the confirmations and the absorb windows. -/
def State.replayReady (s : State) (c k : Nat) : Bool :=
  let sl := s.slot c k
  sl.st == .halted && sl.ack.isSome && sl.ops.all (fun o => o.notAccepted || o.verdict.isSome) && ! s.confirming c (s.ctx c).gen sl.step &&
    ! s.resetWaits c sl.step

/-- A record reset to not accepted. -/
def OpRec.reset (o : OpRec) : OpRec :=
  { o with st := .accepted, verdict := none, notAccepted := true, arb := false, arbReseal := false, samples := 0, executed := [], sampleRan := false,
           escaped := false, asked := [], cmx := none }

/-- A record at a REPLAY: below the origin as it is, CLEAR for an op of a released bucket, else reset. -/
def Slot.cutRec (sl : Slot) (o : OpRec) : OpRec :=
  if o.d.opseq < sl.origin then o else if sl.freed o then { o with st := .clear } else o.reset

/-- Whether a REPLAY resets an OPSEQ. -/
def Slot.resets (sl : Slot) (q : Nat) : Bool := decide (sl.origin ≤ q) && ! sl.ops.any (fun o => o.d.opseq == q && sl.freed o)

/-- REPLAY: the records at or above the origin are reset, but for ops of released buckets. -/
def State.replay (s : State) (c k : Nat) : State :=
  let sl := s.slot c k
  let s1 := s.setSlot c k { sl with st := sl.prev, ops := sl.ops.map sl.cutRec, replays := sl.replays - 1, replaysUsed := sl.replaysUsed + 1, ack := none }
  ((s1.routesReset c (s.ctx c).gen sl.step sl.resets).gate c gkReplay 0 0 sl.step sl.origin 0).count Reg.lidCntReplays

def execReplay (ctx slot : Nat) (s : State) : Host.Outcome State Fault Refusal :=
  .next (if s.replayReady ctx slot then s.replay ctx slot else s)

/-! ### BUCKET_RELEASE (R229, R320) -/

/-- Whether every group that holds an OPSEQ at or below `l` has been compared equal; an unpaired context has no such rule. -/
def State.groupsOk (s : State) (c : Nat) (sl : Slot) (l : Nat) : Bool :=
  (s.pairing c).isNone || (List.range (l / 6 + 1)).all sl.grpOk.contains

/-- Whether bucket `b` of the step in slot `k` is releasable. -/
def State.releasable (s : State) (c k b : Nat) : Bool :=
  let e := s.ctx c
  let sl := e.slot k
  let x := sl.bucket b
  match x.last with
  | none => false
  | some l =>
    e.st == .live && (sl.st == .open_ || sl.st == .ended) && ! sl.nulled && ! x.released && ! x.nulled && decide (l < sl.frontier) &&
      s.routes.all (fun r => ! (r.is c e.gen sl.step r.route) || r.passed || decide (((sl.op l).map OpRec.order).getD 0 ≤ r.opened)) &&
      s.groupsOk c sl l

/-- RELEASE with COUNT = MB. -/
def State.release (s : State) (c k b : Nat) : State :=
  let sl := s.slot c k
  let s1 := s.setSlot c k { sl.setBucket b { sl.bucket b with released := true } with released := sl.released + 1 }
  (s1.gate c gkRelease 0 b sl.step 0 (s.ctx c).mb).count Reg.lidCntReleased

def execBucketRelease (ctx slot bucket : Nat) (s : State) : Host.Outcome State Fault Refusal :=
  .next (if s.releasable ctx slot bucket then s.release ctx slot bucket else s)

/-! ### STEP_SLOT_FREE (R220) -/

/-- An abandoned step's slot is FREE once every accepted op has its verdict or is closed as abandoned; its statistics are
latched. -/
def State.freeSlot (s : State) (c k : Nat) : State :=
  let e := s.ctx c
  let sl := e.slot k
  if sl.st == .abandoned && sl.ops.all (fun o => o.notAccepted || o.verdict.isSome) then
    s.setCtx c { e with slots := setAt e.slots k {}, stats := sl.stats sl.granted true }
  else s

def execStepSlotFree (ctx slot : Nat) (s : State) : Host.Outcome State Fault Refusal :=
  .next (if slot < 4 then s.freeSlot ctx slot else s)

/-! ### Messages of pair mode (R319 to R322, R331) -/

/-- A partner's message as its body gives it. -/
def PeerMsg.pairMsg (m : PeerMsg) : PairMsg :=
  let step := leAt m.body 4 4
  if m.kind = 0x20 then .ops step (leAt m.body 8 4) ((List.range (min 6 (leAt m.body 1 1))).map (fun i => leAt m.body (0x10 + 8 * i) 8))
  else .stepEnd step (leAt m.body 8 4) (leAt m.body 12 1 % 2 == 1)

/-- The oldest open step of a context, or the next one to open. -/
def Ctx.oldest (e : Ctx) : Option Nat :=
  match e.liveSlots with
  | k :: _ => some (e.slot k).step
  | [] => if e.anyStep then none else some ((e.committed + 1) % 2 ^ 32)

/-- Whether step `n` is below the context's oldest open step. -/
def Ctx.passed (e : Ctx) (n : Nat) : Bool :=
  match e.oldest with
  | none => false
  | some o => decide (2 ^ 31 ≤ (n + 2 ^ 32 - o) % 2 ^ 32)

/-- A message of a paired context is held, and compared where its step is open. -/
def State.pairTake (s : State) (m : PeerMsg) : State :=
  match s.pairings.find? (fun p => p.partner == m.src) with
  | none => s.count Reg.hubCntPairDiscard
  | some p =>
    let x := m.pairMsg
    let e := s.ctx p.ctx
    if e.passed x.step then s.count Reg.hubCntPairDiscard
    else
      let s1 : State := { s with pairings := s.pairings.map (fun q => if q.ctx == p.ctx then { q with held := q.held ++ [x] } else q) }
      match e.stepSlot x.step with
      | some k => s1.pairFlush p.ctx k
      | none => s1

/-- PAIR_OPS: a delivered group of op digests. -/
def execPairOps (m : PeerMsg) (s : State) : Host.Outcome State Fault Refusal :=
  .next (if ! s.accepts m then s.discardPeer m
    else if m.kind = 0x20 then (s.takePeer m).pairTake m else s)

/-- PAIR_STEP: the partner's end of a step. -/
def execPairStep (m : PeerMsg) (s : State) : Host.Outcome State Fault Refusal :=
  .next (if ! s.accepts m then s.discardPeer m
    else if m.kind = 0x21 then (s.takePeer m).pairTake m else s)

/-- HUB_PAIR_STATUS.PAIRED follows the pairings; TIMEOUT of HUB_PAIR_CTRL (R327). -/
def State.pairLimit (s : State) : Nat := msT (max 1 (s.reg Reg.hubPairCtrl % 256))

/-- The first slot of a context that waits for the partner beyond the limit, with what it sent. -/
def State.pairLate (s : State) (c : Nat) : Option (Nat × Nat) :=
  ((s.ctx c).liveSlots.filterMap (fun k =>
    (((s.slot c k).sentAt.find? (fun x => decide (x.2 + s.pairLimit < s.time))).map (fun x => (k, x.1))))).head?

/-- The pairing of a context ends; what its steps wait for of the partner is dropped. -/
def State.unpair (s : State) (c : Nat) : State :=
  let e := s.ctx c
  ({ s with pairings := s.pairings.filter (fun p => p.ctx != c) } : State).setCtx c
    { e with slots := e.slots.map (fun k => { k with sentAt := [] }) }

/-- PAIR_TIMEOUT (R322): the pairing is lost; before the limit, nothing. -/
def execPairTimeout (ctx : Nat) (s : State) : Host.Outcome State Fault Refusal :=
  .next (match s.pairing ctx, s.pairLate ctx with
    | some p, some (k, g) =>
      let q := if g = stepMark then (s.slot ctx k).n else 6 * g
      ((((s.pairCapture ctx k pkLost q 0 0).setBits Reg.hubPairStatus 4).unpair ctx).raiseFault clsPair 0 7 p.partner).count Reg.hubCntPairLost
    | _, _ => s)

end Sys2Proof.Machine
end

