-- ==== Sys2Proof/Machine/Sis.lean ====
section
/-! DEFINITION. The sequencer (09_screening_instruction_set): threads, swaps, waits, the local instructions, and how every
command is decided at the command port (R248 to R261). -/

namespace Sys2Proof.Machine

/-! ### Instruction words and their fetch (R244, R245, R252, R255) -/

/-- The instruction word of R252. -/
def encodeWord (opc rd ra rb rc mod imm : Nat) : Nat :=
  opc % 256 * 2 ^ 56 + rd % 16 * 2 ^ 52 + ra % 16 * 2 ^ 48 + rb % 16 * 2 ^ 44 + rc % 16 * 2 ^ 40 + mod % 16 * 2 ^ 36 + imm % 2 ^ 32

/-- The opcodes of R254 and R262. -/
def listedOpcodes : List Nat :=
  [0, 1, 2, 3, 4, 5, 6, 7, 8, 0x10, 0x11, 0x12, 0x18, 0x19, 0x20, 0x21, 0x22, 0x23, 0x24, 0x25, 0x26, 0x27, 0x30, 0x31, 0x32, 0x38, 0x39,
   0x40, 0x41, 0x42, 0x48, 0x49] ++
  [0x50, 0x51, 0x52, 0x58, 0x59, 0x5A, 0x5B, 0x60, 0x61, 0x62, 0x63, 0x64, 0x70, 0x71, 0x78, 0x79, 0x7C]

/-- The byte address of a program's instruction. -/
def Program.codeAt (p : Program) : Nat := p.image * 4096 + 0x40 + 8 * p.pc

/-- The code block of a program's next instruction. -/
def Program.codeBlk (p : Program) : Nat := p.image + (0x40 + 8 * p.pc) / 4096

/-- Whether a block of a program verifies (R245): context 0 needs PRODUCER 0xFE. -/
def State.progBlockOk (s : State) (ctx gen blk : Nat) : Bool :=
  s.verify blk gen 0x3E == .verified && (ctx != 0 || bcvProducer (s.sbOf blk) == 0xFE)

/-- A block of a program fails: SEAL_FAIL, confirmed under R169. -/
def State.confirmProg (s : State) (ctx gen blk : Nat) : State :=
  match s.verify blk gen 0x3E with
  | .fails k => s.startConfirm blk false gen 0x3E { ctx := ctx, gen := gen, kind := k, bcv := s.sbOf blk, lid := false }
  | _ => s

/-- The READY threads in the order in which the issue stage comes to them, from the one after the thread that issued last (R249). -/
def State.issueOrder (s : State) : List Nat :=
  ((List.range 32).map (fun i => (s.lastIssued + 1 + i) % 32)).filter (fun t => (s.thread t).st == .ready)

/-- R249: whether the issue stage may come to READY thread `t` next. With FIXED 0 it is the first in the order; with FIXED 1 every thread has
its own cycle, which none passes that was READY all the time since the last issue (log entry 120). -/
def State.selected (s : State) (t : Nat) : Bool :=
  if s.fixed then s.issueOrder.contains t && (s.issueOrder.takeWhile (· != t)).all (fun u => ! s.readySeen.contains u)
  else s.issueOrder.head? == some t

/-- Thread `t` issues. -/
def State.issues (s : State) (t : Nat) : State := { s with lastIssued := t, readySeen := s.issueOrder.filter (· != t) }

/-- The commands and queries of R262 that are journaled at their service: not the queries, but for those whose MOD asks for a clear (R260). -/
def journaledOpc (opc mod : Nat) : Bool :=
  decide (0x10 ≤ opc) && (! [0x25, 0x27, 0x38, 0x42, 0x48, 0x62, 0x64, 0x79].contains opc || ([0x38, 0x42, 0x62].contains opc && mod % 2 == 1))

/-- Row 1 of R257 for a command word with a bit of [35:32] set: its service is journaled as rejected (R260). -/
def State.recordBad (s : State) (t id w : Nat) (p : Program) : State :=
  let opc := w / 2 ^ 56
  let mod := w / 2 ^ 36 % 16
  if listedOpcodes.contains opc && journaledOpc opc mod then
    s.record { type := jServed, status := stIllegalOpcode, opc := opc, source := srcThread t, ctx := p.ctx, ref := id, a := p.g (w / 2 ^ 48 % 16),
               b := p.g (w / 2 ^ 44 % 16), c := p.g (w / 2 ^ 40 % 16), imm := w % 2 ^ 32, mod := mod }
  else s

/-- The next instruction of the program on thread `t`: none where the issue stage does not come to the thread, or where its program ends. -/
def State.fetch (s : State) (t word : Nat) : State × Option (Nat × Program) :=
  let th := s.thread t
  match (if decide (t < 32) && s.selected t then th.prog.bind (fun id => (s.program id).map (fun p => (id, p))) else none) with
  | none => (s, none)
  | some (id, p) =>
    let s0 := s.issues t
    if s.tornDown p then ((s0.count Reg.hubCntRejected).endProgram id stContextGone false, none)
    else
      let new := ! p.verified.contains p.codeBlk
      let s1 := if new then s0.request .read p.codeBlk 0 64 (.program id) else s0
      if new && s.bothStalled then (s1.endProgram id stTimeout true, none)
      else if new && ! s.progBlockOk p.ctx p.gen p.codeBlk then ((s1.confirmProg p.ctx p.gen p.codeBlk).endProgram id stSealFail true, none)
      else
        let p1 := if new then { p with verified := p.verified ++ [p.codeBlk] } else p
        let s2 := if new then s1.setProgram id p1 else s1
        let w := leNat (s.bytes p.codeAt 8)
        if ! listedOpcodes.contains (w / 2 ^ 56) || w / 2 ^ 32 % 16 != 0 then ((s2.recordBad t id w p1).endProgram id stIllegalOpcode true, none)
        else if w ≠ word then (s, none)
        else (s2, some (id, p1))

/-! ### Swaps (R250, R251) -/

/-- The block of a save record. -/
def State.saveBlk (s : State) (id : Nat) : Nat := s.reg Reg.hubSisSaveBase * 64 + id / 16

/-- The head of the run queue. -/
def State.nextProgram (s : State) : Option Nat := s.runQ.head?

/-- The byte address of a save record. -/
def State.saveAt (s : State) (id : Nat) : Nat := s.saveBlk id * 4096 + id % 16 * 256

/-- The write of a program's 256-byte save record (R251); the spec does not give its layout, so its bytes are free (log entry 116). -/
def State.saveRecord (s : State) (t id : Nat) : State := (s.writeZ (s.saveAt id) (freeBytes s.free 256) (.swapOut t id)).took 256

/-- Thread `t` starts to load the head of the run queue, and to save the program that gives it up. -/
def State.swap (s : State) (t : Nat) (out : Option Nat) (p : Nat) : State :=
  if s.bothStalled then s.count Reg.hubCntMemTimeout
  else
    let s1 := ({ s with runQ := s.runQ.filter (fun x => x != p) } : State).setThread t { st := .swapping, prog := some p, out := out }
    let s2 := match out with
      | some o => s1.saveRecord t o
      | none => s1
    s2.request .read (s2.saveBlk p) (p % 16 * 4) 4 (.swapIn t p)

/-- PROGRAM_DISPATCH (R250): an IDLE thread takes the head of the run queue, and a WAITING program gives up its thread to it. -/
def execProgramDispatch (t : Nat) (s : State) : Host.Outcome State Fault Refusal :=
  .next (let th := s.thread t
    match (if t < 32 then s.nextProgram else none) with
    | none => s
    | some p =>
      if th.st == .idle then s.swap t none p
      else if th.st == .waiting then s.swap t th.prog p
      else s)

/-- SWAP_COMPLETE (R251): both transfers have completed, and the thread is READY. -/
def execSwapComplete (t : Nat) (s : State) : Host.Outcome State Fault Refusal :=
  .next (let th := s.thread t
    if th.st != .swapping then s
    else
      let s1 := s.retire (fun a => match a with
        | .swapOut u _ => u == t
        | .swapIn u _ => u == t
        | _ => false)
      let s2 := s1.setThread t { st := if th.prog.isSome then .ready else .idle, prog := th.prog }
      if th.out.isSome then s2.count Reg.hubCntSwaps else s2)

/-! ### Local instructions (R253 to R255) -/

/-- A program ends with BAD_OPERAND (R255), or with ILLEGAL_OPCODE. -/
def State.badOperand (s : State) (id : Nat) : State := s.endProgram id stBadOperand true
def State.badOpcode (s : State) (id : Nat) : State := s.endProgram id stIllegalOpcode true

/-- Sign extension of the IMM field to 64 bits. -/
def sext32 (v : Nat) : Nat := if v % 2 ^ 32 < 2 ^ 31 then v % 2 ^ 32 else v % 2 ^ 32 + (2 ^ 64 - 2 ^ 32)

/-- A local instruction: fetched on its thread; `bad` says that an unused field is not zero or MOD is reserved. -/
def State.local' (s : State) (opc : Nat) (i : Issue) (bad : Nat → Nat → Nat → Nat → Bool)
    (f : State → Nat → Nat → Program → Nat → Nat → Nat → State) : State :=
  match i.by_ with
  | .thread t rd ra rb rc =>
    match s.fetch t (encodeWord opc rd ra rb rc i.mod i.imm) with
    | (s1, none) => s1
    | (s1, some (id, p)) =>
      if bad (rd % 16) (ra % 16) (rb % 16) (rc % 16) then s1.badOpcode id else f s1 t id p (rd % 16) (ra % 16) (rb % 16)
  | _ => s

/-- NOP. -/
def execNop (i : Issue) (s : State) : Host.Outcome State Fault Refusal :=
  .next (s.local' 0 i (fun rd ra rb rc => rd + ra + rb + rc + i.mod % 16 + i.imm % 2 ^ 32 != 0) (fun s _ id _ _ _ _ => s.advance id))

/-- END: the program ends with final status ST. -/
def execEnd (i : Issue) (s : State) : Host.Outcome State Fault Refusal :=
  .next (s.local' 1 i (fun rd ra rb rc => rd + ra + rb + rc + i.mod % 16 + i.imm % 2 ^ 32 != 0)
    (fun s _ id p _ _ _ => s.endProgram id p.status false))

/-- LDI. -/
def execLdi (i : Issue) (s : State) : Host.Outcome State Fault Refusal :=
  .next (s.local' 2 i (fun _ ra rb rc => ra + rb + rc != 0 || decide (1 < i.mod % 16)) (fun s _ id p rd _ _ =>
    let v := if i.mod % 16 = 0 then sext32 i.imm else i.imm % 2 ^ 32 * 2 ^ 32 + p.g rd % 2 ^ 32
    (s.setProgram id (p.setG rd v)).advance id))

/-- The operation of ALU by MOD, modulo 2^64. -/
def aluOp (mod a b : Nat) : Nat :=
  if mod = 0 then (a + b) % 2 ^ 64
  else if mod = 1 then (a + 2 ^ 64 - b % 2 ^ 64) % 2 ^ 64
  else if mod = 2 then a &&& b
  else if mod = 3 then a ||| b
  else if mod = 4 then a ^^^ b
  else if mod = 5 then a * 2 ^ (b % 64) % 2 ^ 64
  else a / 2 ^ (b % 64)

/-- ALU. -/
def execAlu (i : Issue) (s : State) : Host.Outcome State Fault Refusal :=
  .next (s.local' 3 i (fun _ _ _ rc => rc != 0 || decide (6 < i.mod % 16)) (fun s _ id p rd ra rb =>
    (s.setProgram id (p.setG rd (aluOp (i.mod % 16) (p.g ra) ((p.g rb + sext32 i.imm) % 2 ^ 64)))).advance id))

/-- The condition of BR by MOD. -/
def brTaken (mod st imm a b : Nat) : Bool :=
  if mod = 0 then true
  else if mod = 1 then st == imm % 256
  else if mod = 2 then st != imm % 256
  else if mod = 3 then a == 0
  else if mod = 4 then a != 0
  else decide (a < b)

/-- Unused fields of BR: IMM[7:0] serves MOD 1 and 2, gRA MOD 3 to 5, gRB MOD 5. -/
def brBad (mod imm rd ra rb rc : Nat) : Bool :=
  decide (5 < mod) || rd + rc != 0 || imm / 256 % 256 != 0 || (mod != 1 && mod != 2 && imm % 256 != 0) || (decide (mod < 3) && ra != 0) ||
    (mod != 5 && rb != 0)

/-- BR. -/
def execBr (i : Issue) (s : State) : Host.Outcome State Fault Refusal :=
  .next (s.local' 4 i (brBad (i.mod % 16) i.imm) (fun s _ id p _ ra rb =>
    if brTaken (i.mod % 16) p.status i.imm (p.g ra) (p.g rb) then
      let d := signedOf 16 (i.imm / 2 ^ 16 % 2 ^ 16)
      let pc : Int := (p.pc : Int) + d
      if pc < 0 then s.badOperand id else s.goto id pc.toNat
    else s.advance id))

/-- The byte offset of LD and ST in the parameter block, where legal. -/
def paramOff (a imm : Nat) : Option Nat :=
  let o := (a + sext32 imm) % 2 ^ 64
  if o % 8 = 0 ∧ o < 4096 then some o else none

/-- LD. -/
def execLd (i : Issue) (s : State) : Host.Outcome State Fault Refusal :=
  .next (s.local' 5 i (fun _ _ rb rc => rb + rc + i.mod % 16 != 0) (fun s _ id p rd ra _ =>
    match paramOff (p.g ra) i.imm with
    | none => s.badOperand id
    | some o => (s.setProgram id (p.setG rd (leNat (s.bytes (p.param * 4096 + o) 8)))).advance id))

/-- ST. -/
def execSt (i : Issue) (s : State) : Host.Outcome State Fault Refusal :=
  .next (s.local' 7 i (fun rd _ _ rc => rd + rc + i.mod % 16 != 0) (fun s _ id p _ ra rb =>
    match paramOff (p.g ra) i.imm with
    | none => s.badOperand id
    | some o => (s.writeZ (p.param * 4096 + o) (toLe 8 (p.g rb)) .record).advance id))

/-- YIELD: the program is runnable behind the run queue; it keeps its thread while the queue is empty (R250). -/
def execYield (i : Issue) (s : State) : Host.Outcome State Fault Refusal :=
  .next (s.local' 8 i (fun rd ra rb rc => rd + ra + rb + rc + i.mod % 16 + i.imm % 2 ^ 32 != 0) (fun s t id _ _ _ _ =>
    let s1 := s.advance id
    match s1.nextProgram, s1.program id with
    | some q, some _ =>
      let s2 := s1.swap t (some id) q
      if (s2.thread t).st == .swapping then { s2 with runQ := s2.runQ ++ [id] } else s2
    | _, _ => s1))

/-! ### WAIT (R254, R255, R259) -/

/-- A ticket is collected: its status and result, and it closes. -/
def State.collect (s : State) (id : Nat) (p : Program) (tk rd : Nat) (k : Ticket) : State :=
  (s.dropTicket tk).setProgram id { (p.setG rd k.result) with status := k.status, tickets := p.tickets.filter (fun x => x != tk), wait := .nothing }

/-- The program on thread `t` starts to wait. -/
def State.startWait (s : State) (t id : Nat) (p : Program) (w : WaitFor) : State :=
  (s.setProgram id { p with wait := w, runnable := false }).setThread t { s.thread t with st := .waiting }

/-- WAIT MOD 2: ST of a step that has ended, or none where the program waits, for step `n`. -/
def State.waitStep (s : State) (p : Program) (n : Nat) : Option Nat :=
  match p.steps.find? (fun x => x.1 == n) with
  | some x => some (if x.2 then stOk else stStepAbandoned)
  | none =>
    match (s.ctx p.ctx).stepSlot n with
    | some k => if ((s.ctx p.ctx).slot k).live then none else some stStepAbandoned
    | none => some stIllegalState

/-- WAIT. -/
def execWait (i : Issue) (s : State) : Host.Outcome State Fault Refusal :=
  .next (let m := i.mod % 16
    s.local' 6 i (fun rd ra rb rc => decide (2 < m) || rb + rc != 0 || (m != 0 && rd != 0) || (m == 1 && ra != 0) ||
        (m != 1 && i.imm % 2 ^ 32 != 0)) (fun s t id p rd ra _ =>
      if m = 0 then
        match (if p.tickets.contains (p.g ra) then s.ticket (p.g ra) else none) with
        | none => s.badOperand id
        | some k => if k.done then (s.collect id p (p.g ra) rd k).advance id else s.startWait t id p (.ticket (p.g ra) rd)
      else if m = 1 then
        if i.imm % 2 ^ 32 = 0 then s.advance id else s.startWait t id p (.time s.time (i.imm % 2 ^ 32))
      else
        match s.waitStep p (p.g ra) with
        | none => s.startWait t id p (.step (p.g ra))
        | some st => ((s.countStatus st).setProgram id { p with status := st }).advance id))

/-- What a met condition leaves of the program, or none while it does not hold. -/
def State.waitMet (s : State) (id : Nat) (p : Program) : Option State :=
  match p.wait with
  | .nothing => none
  | .ticket tk rd =>
    match s.ticket tk with
    | some k => if k.done then some (s.collect id p tk rd k) else none
    | none => none
  | .time start us => if start + usT us ≤ s.time then some (s.setProgram id { p with wait := .nothing }) else none
  | .step n => (s.waitStep p n).map (fun st => (s.countStatus st).setProgram id { p with status := st, wait := .nothing })

/-- A program that waited is runnable again: on its thread, or behind the run queue. -/
def State.runAgain (s : State) (id : Nat) : State :=
  let s1 := s.onProgram id (fun p => { p with runnable := true })
  match (List.range 32).find? (fun t => (s1.thread t).prog == some id && (s1.thread t).st == .waiting) with
  | some t => (s1.setThread t { s1.thread t with st := .ready }).advance id
  | none => ({ s1 with runQ := s1.runQ ++ [id] } : State).advance id

/-- WAIT_CONDITION_MET (R254): the condition of a waiting program holds. -/
def execWaitConditionMet (prog : Nat) (s : State) : Host.Outcome State Fault Refusal :=
  .next (match s.program prog with
    | none => s
    | some p =>
      match s.waitMet prog p with
      | none => s
      | some s1 => s1.runAgain prog)

/-! ### Commands and queries (R256 to R261) -/

/-- What the serving sub-block answers. -/
inductive Reply where
  /-- Rejected with a status; `own` where a rule with its own counter has counted it (R261). -/
  | no (st : Nat) (own : Bool)
  /-- Done, with the value of gRD. -/
  | ok (res : Nat)
  /-- Accepted with PENDING or DEFERRED under the ticket that was offered. -/
  | later (st : Nat)
  /-- A query's record. -/
  | rec_ (b : Bytes)

/-- A command as its sub-block sees it: the issuing context and program, operands, MOD, IMM and the ticket it may take. -/
structure Cmd where
  ctx : Nat := 0
  a : Nat := 0
  b : Nat := 0
  c : Nat := 0
  mod : Nat := 0
  imm : Nat := 0
  tk : Nat := 0
  /-- Source of register accesses (R267, R500). -/
  src : Src := .port
  prog : Option Nat := none
  ring : Option (Nat × Nat) := none

/-- What R262 says of an instruction: its opcode and class, and by MOD the operand fields it uses with their widths in
bits, 0 for a field it does not use. -/
structure CmdSpec where
  opc : Nat
  ctx0 : Bool := false
  query : Bool := false
  /-- A query whose MOD asks for a clear is journaled as a command (R260). -/
  clears : Bool := false
  mods : List Nat := [0]
  rd : Bool := false
  aw : Nat → Nat := fun _ => 0
  bw : Nat → Nat := fun _ => 0
  cw : Nat → Nat := fun _ => 0
  iw : Nat → Nat := fun _ => 0
  /-- The context that row 3 of R257 looks at. -/
  named : Cmd → Nat := fun c => c.ctx
  /-- CTXDOWN and the queries pass row 3. -/
  gone : Bool := true
  /-- Rejected while the safe state is held (R396). -/
  safe : Cmd → Bool := fun _ => false
  /-- Legal before bring-up has ended (R484). -/
  early : Bool := false
  body : Cmd → State → State × Reply

/-- Row 1 of R257 for MOD, IMM and, on a thread, the register numbers. -/
def CmdSpec.row1 (sp : CmdSpec) (mod imm : Nat) : Bool := ! sp.mods.contains mod || (sp.iw mod == 0 && imm != 0)

def CmdSpec.row1Regs (sp : CmdSpec) (mod rd ra rb rc : Nat) : Bool :=
  (! sp.rd && rd != 0) || (sp.aw mod == 0 && ra != 0) || (sp.bw mod == 0 && rb != 0) || (sp.cw mod == 0 && rc != 0)

/-- Row 4 as far as the widths of R253 and R262 go. -/
def CmdSpec.wide (sp : CmdSpec) (c : Cmd) : Bool :=
  (sp.aw c.mod != 0 && decide (2 ^ sp.aw c.mod ≤ c.a)) || (sp.bw c.mod != 0 && decide (2 ^ sp.bw c.mod ≤ c.b)) ||
    (sp.cw c.mod != 0 && decide (2 ^ sp.cw c.mod ≤ c.c)) || (sp.iw c.mod != 0 && decide (2 ^ sp.iw c.mod ≤ c.imm))

/-- Whether the tickets of the issuer or of the block are used up (R259). -/
def State.ticketsFull (s : State) (c : Cmd) : Bool :=
  decide (256 ≤ s.openTickets) || (match c.prog with
    | some id => decide (8 ≤ ((s.program id).map (fun p => p.tickets.length)).getD 0)
    | none => false)

/-- Row 5 of R257 as R396 and R484 extend it: the safe state, and bring-up before its last stage. -/
def State.blocked (s : State) (sp : CmdSpec) (c : Cmd) : Bool :=
  (s.safe.isSome && sp.safe c) || (s.bring.stage != 8 && ! sp.query && ! sp.early)

/-- Rows 2 to 6 of R257 and the effect. -/
def State.decideCmd (s : State) (sp : CmdSpec) (c : Cmd) : State × Reply :=
  if sp.ctx0 && c.ctx != 0 && c.prog.isSome then (s, .no stPrivilege false)
  else if ! sp.query && sp.gone && (s.ctx (sp.named c)).st == .terminated then (s, .no stContextGone false)
  else if sp.wide c then (s, .no stBadOperand false)
  else
    let q := sp.body c s
    match q.2 with
    | .no st own => if st ≠ stBadOperand ∧ s.blocked sp c = true then (s, .no stIllegalState false) else (q.1, .no st own)
    | .later st =>
      if s.blocked sp c then (s, .no stIllegalState false)
      else if s.ticketsFull c then (s, .no stFull false)
      else (q.1, .later st)
    | r => if s.blocked sp c then (s, .no stIllegalState false) else (q.1, r)

/-- The status, gRD and counter of a reply. -/
def Reply.status : Reply → Nat
  | .no st _ => st
  | .ok _ => stOk
  | .later st => st
  | .rec_ _ => stOk

/-- A status is counted as it returns (R261): that of a program's query which writes a record does so after the write (R258). -/
def State.countReply (s : State) (c : Cmd) : Reply → State
  | .no _ own => if own then s else s.count Reg.hubCntRejected
  | .rec_ _ => if c.prog.isSome then s else s.count Reg.hubCntCmd
  | _ => s.count Reg.hubCntCmd

/-- The SERVED entry of a command (R260, R283). -/
def servedEntry (sp : CmdSpec) (c : Cmd) (source ref cookie st : Nat) (tk : Nat) : JEntry :=
  { type := jServed, status := st, opc := sp.opc, source := source, ctx := c.ctx, ticket := tk, ref := ref, cookie := cookie, a := c.a, b := c.b,
    c := c.c, imm := c.imm, mod := c.mod }

/-- Whether a command's service is journaled. -/
def CmdSpec.journaled (sp : CmdSpec) (c : Cmd) : Bool := ! sp.query || (sp.clears && c.mod % 2 == 1)

/-- The entry of a command that is journaled. -/
def State.note (s : State) (sp : CmdSpec) (c : Cmd) (e : JEntry) : State := if sp.journaled c then s.record e else s

/-- A served command: its state, its reply, and the JSEQ of its entry, 0 for none. The entry is numbered before those of the completions and
program ends that the command's effect brings (R285); a rejected command has none of its effect. -/
def State.serve (s : State) (sp : CmdSpec) (c : Cmd) (owner : Owner) (source ref cookie : Nat) : State × Reply × Nat :=
  let u := s.decideCmd sp c
  let r := u.2
  let tk := match r with
    | .later _ => c.tk
    | _ => 0
  let e := servedEntry sp c source ref cookie r.status tk
  let s1 := match r with
    | .no _ _ => u.1.note sp c e
    | _ => ((s.note sp c e).decideCmd sp c).1
  let s2 := s1.countReply c r
  let s3 := if tk = 0 then s2 else s2.setTicket tk { owner := owner, served := { e with jseq := s.jseq, time := s.time } }
  (s3, r, if sp.journaled c then s.jseq else 0)

/-- A query's record is written into the parameter block (R258): its thread is ISSUED until the write has ended. -/
def State.writeResult (s : State) (t id addr : Nat) (b : Bytes) : State :=
  let s1 := (s.writeZ addr b (.query t id)).setThread t { s.thread t with st := .issued }
  if s.bothStalled then s1.returned t id stTimeout else s1

/-- The status returns to a program (R253, R258): ST, gRD, and the record into the parameter block. -/
def State.deliver (s : State) (t id rd tk : Nat) (r : Reply) (imm : Nat) : State :=
  match s.program id with
  | none => s
  | some p =>
    let p1 := { p with status := r.status }
    match r with
    | .no st _ => (s.setProgram id (if st = stUnreachable then p1.setG rd 0 else p1)).advance id
    | .ok v => (s.setProgram id (p1.setG rd v)).advance id
    | .later _ => (s.setProgram id { p1.setG rd tk with tickets := p1.tickets ++ [tk] }).advance id
    | .rec_ b => s.writeResult t id (p.param * 4096 + imm) b

/-- A thread's command. -/
def State.threadCmd (s : State) (sp : CmdSpec) (t id : Nat) (p : Program) (rd ra rb rc mod imm : Nat) : State :=
  let c : Cmd := { ctx := p.ctx, a := p.g ra, b := p.g rb, c := p.g rc, mod := mod, imm := imm, tk := freeTicket s.tickets, src := .thread t,
                   prog := some id }
  if sp.row1 mod imm || sp.row1Regs mod rd ra rb rc then
    (s.note sp c (servedEntry sp c (srcThread t) id 0 stIllegalOpcode 0)).badOpcode id
  else
    let q := s.serve sp c (.program id) (srcThread t) id 0
    q.1.deliver t id rd c.tk q.2.1 imm

/-- A command of a Kettle core or of a ring entry: row 1 rejects it, and no program ends. -/
def State.portCmd (s : State) (sp : CmdSpec) (c : Cmd) (owner : Owner) (source ref cookie : Nat) : State × Reply × Nat :=
  if sp.row1 c.mod c.imm then
    ((s.note sp c (servedEntry sp c source ref cookie stIllegalOpcode 0)).count Reg.hubCntRejected, .no stIllegalOpcode false, if sp.journaled c then s.jseq else 0)
  else s.serve sp c owner source ref cookie

/-- A ring entry's record goes to block A4 at the offset in IMM and is sealed with the context's generation (R281). -/
def State.ringRecord (s : State) (ctx blk imm : Nat) (b : Bytes) : State :=
  let s1 := s.setBytes (blk * 4096 + imm) b
  s1.writeSealed blk (s1.block blk) (if ctx = 0 then 0 else (s.ctx ctx).gen) 0x3E .record

/-- The MOD of a ring entry, a legal CLEAR among it (R276). -/
def RingEntry.issued (e : RingEntry) : Nat := e.mod ||| (e.flags % 2)

/-- A ring entry's command (R281). -/
def State.ringCmd (s : State) (sp : CmdSpec) (n : Nat) (t : Taken) : State :=
  let e := t.e
  let c : Cmd := { ctx := e.ctx, a := e.a0, b := e.a1, c := e.a2, mod := e.issued, imm := e.imm, tk := freeTicket s.tickets, src := .core 0,
                   ring := some (n, t.index) }
  let q := s.portCmd sp c (.ring n t.index e.cookie) (srcRing n) t.index e.cookie
  match q.2.1 with
  | .later _ => q.1.onTaken n t.index (fun t => { t with served := true, ticket := some c.tk })
  | .rec_ b => (q.1.ringRecord e.ctx e.a4 e.imm b).finishEntry n t.index stOk 0 q.2.2
  | .ok v => (q.1.onTaken n t.index (fun t => { t with served := true })).finishEntry n t.index stOk v q.2.2
  | .no st _ => (q.1.onTaken n t.index (fun t => { t with served := true })).finishEntry n t.index st 0 q.2.2

/-- An instruction of the command port, whoever issues it. -/
def State.runCmd (s : State) (sp : CmdSpec) (i : Issue) : State :=
  let mod := i.mod % 16
  let imm := i.imm % 2 ^ 32
  match i.by_ with
  | .thread t rd ra rb rc =>
    match s.fetch t (encodeWord sp.opc rd ra rb rc i.mod i.imm) with
    | (s1, none) => s1
    | (s1, some (id, p)) => s1.threadCmd sp t id p (rd % 16) (ra % 16) (rb % 16) (rc % 16) mod imm
  | .kettle k ctx a b c =>
    if s.coreUp k then
      (s.portCmd sp { ctx := ctx, a := a % 2 ^ 64, b := b % 2 ^ 64, c := c % 2 ^ 64, mod := mod, imm := imm, tk := freeTicket s.tickets, src := .core k }
        (.kettle k) (srcCore k) 0 0).1
    else s
  | .ring n index =>
    match s.taken n index with
    | none => s
    | some t =>
      if t.handed.isSome || t.served || t.ran || t.final.isSome || t.e.kind != sp.opc || t.e.issued != mod || t.e.imm != imm || ! s.coreUp 0 then s
      else s.ringCmd sp n t

/-- Whether a record of `len` bytes fits at the offset in IMM (R270). -/
def Cmd.recOk (c : Cmd) (len : Nat) : Bool := decide (c.imm % 16 = 0) && decide (c.imm + len ≤ 4096)

/-- A query's record, or BAD_OPERAND. -/
def Cmd.record (c : Cmd) (b : Bytes) : Reply := if c.recOk b.length then .rec_ b else .no stBadOperand false

/-- A rejection. -/
def reject (s : State) (st : Nat) : State × Reply := (s, .no st false)

end Sys2Proof.Machine
end

