-- ==== Sys2Proof/Machine/Status.lean ====
section
/-! DEFINITION. Read-only register values that follow from the state of the Ladles, the Mortar, the Lid, the Scale Keeper
and the recipe slots (R93, R156, R211, R213, R241, R243), and the records built from them (R271, R272). -/

namespace Sys2Proof.Machine

/-- The bits of a mask from a condition on 0 to n − 1. -/
def maskBy (n : Nat) (p : Nat → Bool) : Nat := ((List.range n).map (fun i => b2n (p i) * 2 ^ i)).foldl (· + ·) 0

/-- MTR_STATUS (R211). -/
def State.mtrStatusVal (s : State) : Nat :=
  let f := maskBy 4 (fun l => (s.lane l).fenced)
  (s.reg Reg.mtrStatus / 2 ^ 12 % 2 ^ 5) * 2 ^ 12 + b2n (s.inService.isEmpty) * 2 ^ 17 + maskBy 4 (fun l => (s.lane l).job.isSome) * 2 ^ 8
    + f * 2 ^ 4 + (15 - f)

/-- MTR_QUEUE (R213). -/
def State.mtrQueueVal (s : State) : Nat := s.spill.length % 2 ^ 21 * 2 ^ 11 + s.queue.length % 2 ^ 11

/-- LDL_STATUS of a tile (R156). -/
def State.ldlStatusVal (s : State) (t : Nat) : Nat :=
  let l := s.ladle t
  let use := (l.ops.map LOp.waiting).foldl (· + ·) 0
  s.reg (atTile t Reg.ldlStatus) / 2 ^ 4 % 2 ^ 4 * 2 ^ 4 + min 8192 use * 2 ^ 16 + b2n (l.kat != .idle) * 2 ^ 8 + l.open_ % 8

/-- Codes of the states of a context entry and of a step slot (R241). -/
def CtxState.code : CtxState → Nat
  | .free => 0
  | .live => 1
  | .terminated => 2

def SlotState.code : SlotState → Nat
  | .free => 0
  | .open_ => 1
  | .ended => 2
  | .halted => 3
  | .abandoned => 4

/-- The generation of a context as it is read: 0x0000 for context 0. -/
def State.genOf (s : State) (c : Nat) : Nat := if c = 0 then 0 else (s.ctx c).gen

/-- LID_CTX_INFO, LID_CTX_COMMITTED, LID_SLOT_INFO and LID_SLOT_STEP (R241). -/
def State.lidCtxInfoVal (s : State) (c : Nat) : Nat :=
  (s.ctx c).st.code * 2 ^ 30 + maskBy 4 (fun k => (s.slot c k).used) * 2 ^ 26 + s.genOf c
def State.lidCommittedVal (s : State) (c : Nat) : Nat := (s.ctx c).committed % 2 ^ 32
def State.lidSlotInfoVal (s : State) (c k : Nat) : Nat :=
  let sl := s.slot c k
  sl.st.code * 2 ^ 29 + b2n sl.nulled * 2 ^ 28 + sl.replays % 16 * 2 ^ 24 + (if sl.used then sl.frontier % 2 ^ 24 else 0)
def State.lidSlotStepVal (s : State) (c k : Nat) : Nat := (s.slot c k).step % 2 ^ 32

/-- A signed value as `w` bits. -/
def wrapInt (w : Nat) (v : Int) : Nat := (v % (2 ^ w : Nat)).toNat

/-- SCK_ENTRY, SCK_SCALES and SCK_HIST (R243). -/
def SckEntry.entryVal (e : SckEntry) : Nat := b2n e.bound * 2 ^ 31 + e.fmt % 64 * 2 ^ 25 + e.margin % 16 * 2 ^ 21 + e.ctx % 2 ^ 16
def SckEntry.scalesVal (e : SckEntry) : Nat :=
  (((e.scales.map (wrapInt 8)).zip [0, 8, 16, 24]).map (fun p => p.1 * 2 ^ p.2)).foldl (· + ·) 0
def SckEntry.histVal (e : SckEntry) (k : Nat) : Nat := (e.hist[k]?).getD 0

/-- Whether a step pins a recipe slot. -/
def State.rcpPins (s : State) (n : Nat) : Nat :=
  (s.ctxs.map (fun p => (p.2.slots.filter (fun sl => sl.live && sl.pins.contains n)).length)).foldl (· + ·) 0

/-- HUB_RCP_INFO of a slot (R93). -/
def State.rcpInfoVal (s : State) (n : Nat) : Nat :=
  let r := s.rcp n
  let code := match r.st with
    | .empty => 0
    | .loading => 1
    | .active => 2
    | .refused => 3
  let cls := if r.st == .active then ((r.recipe.map Recipe.cls).getD 0) % 2 else 0
  code * 2 ^ 30 + cls * 2 ^ 29 + min 8191 (s.rcpPins n) * 2 ^ 16 + (if r.st == .active || r.st == .refused then r.id % 2 ^ 16 else 0)

/-! ### Records of queries (R271, R272) -/

/-- The values of `n` consecutive stored registers, 4 bytes each. -/
def State.regBytes (s : State) (a : Nat) : Nat → Bytes
  | 0 => []
  | n + 1 => toLe 4 (s.reg a) ++ s.regBytes (a + 4) n

/-- The record of LDLCNT. -/
def State.ldlRecord (s : State) (t : Nat) : Bytes := toLe 4 (s.ldlStatusVal t) ++ s.regBytes (atTile t Reg.ldlCntOps) 27

/-- The record of SCKREAD. -/
def SckEntry.record (e : SckEntry) : Bytes :=
  toLe 4 e.entryVal ++ toLe 4 e.scalesVal ++ toLe 4 e.countInf ++ toLe 4 e.countClamp ++ (List.range 16).flatMap (fun k => toLe 4 (e.histVal k))

/-- The record of ARBSTAT. -/
def State.arbRecord (s : State) : Bytes :=
  toLe 4 s.mtrStatusVal ++ s.regBytes Reg.mtrArbCapOp 4 ++ s.regBytes Reg.mtrCntSamples 18 ++ zeros 4

/-- The record of LIDSTAT MOD 1. -/
def State.slotRecord (s : State) (c k : Nat) : Bytes :=
  toLe 4 (s.lidSlotInfoVal c k) ++ toLe 4 (s.lidSlotStepVal c k) ++ toLe 4 (s.lidCtxInfoVal c) ++ toLe 4 (s.lidCommittedVal c)

/-- The record of LIDSTAT MOD 0 (R272). -/
def StepStats.record (x : StepStats) : Bytes :=
  toLe 4 x.step ++ toLe 1 (if x.abandoned then 2 else 1) ++ toLe 1 x.cause ++ toLe 1 x.replays ++ toLe 1 (b2n x.nulled) ++ toLe 2 x.released
    ++ toLe 2 x.nulledCount ++ toLe 4 x.deficit ++ toLe 16 x.escape ++ toLe 8 x.opened ++ toLe 8 x.granted ++ toLe 4 x.samples ++ toLe 4 x.arbs
    ++ toLe 4 x.routes ++ zeros 4
    ++ (List.range 24).flatMap (fun k => toLe 4 (min (2 ^ 32 - 1) ((lookup x.counts k).getD 0)))

end Sys2Proof.Machine
end

