-- ==== Sys2Proof/Machine/Commands.lean ====
section
/-! DEFINITION. The commands on contexts, steps, scales, the Sieve, modes, provenance and pairings (R262 to R266, R271,
R311, R317, R323, R415). Each meaning is its row of R262 with the effect of its chapter, decided under R257. -/

namespace Sys2Proof.Machine

/-! ### Contexts (R263, R264, R415) -/

/-- CTXBIND (R263). -/
def bindCtx (c : Cmd) (s : State) : State × Reply :=
  let e := s.ctx c.a
  if c.imm = 0 then reject s stBadOperand
  else if c.a = 0 ∨ e.st ≠ .free then reject s stIllegalState
  else (s.setCtx c.a { gen := e.gen, st := .live, seed := c.b, mb := c.imm, collective := c.c % 2 ^ 16, command := c.c / 2 ^ 16 }, .ok e.gen)

def specCtxbind : CmdSpec :=
  { opc := 0x10, ctx0 := true, rd := true, aw := fun _ => 16, bw := fun _ => 64, cw := fun _ => 32, iw := fun _ => 16, named := fun c => c.a,
    safe := fun _ => true, body := bindCtx }
def execCtxbind (i : Issue) (s : State) : Host.Outcome State Fault Refusal := .next (s.runCmd specCtxbind i)

/-- CTXKILL (R264). -/
def killCtx (c : Cmd) (s : State) : State × Reply :=
  if (s.ctx c.a).st ≠ .live then reject s stIllegalState else (s.terminate c.a, .ok 0)

def specCtxkill : CmdSpec := { opc := 0x11, ctx0 := true, aw := fun _ => 16, named := fun c => c.a, body := killCtx }
def execCtxkill (i : Issue) (s : State) : Host.Outcome State Fault Refusal := .next (s.runCmd specCtxkill i)

/-- Programs of a context in WAITING or in the run queue (R415 order 2). -/
def State.idlePrograms (s : State) (c : Nat) : List Nat :=
  (s.progs.filter (fun p => p.2.ctx == c && ! ((List.range 32).any (fun t =>
    (s.thread t).prog == some p.1 && (s.thread t).st != .waiting)))).map Prod.fst

/-- The scrub list of a context: the extents of its ops (R415 order 3). -/
def Ctx.extents (e : Ctx) : List (Nat × Nat) := (e.recs.flatMap (fun o => o.lay.all.map (fun r => (r.base, r.blocks)))).eraseDups

/-- Ops of a context accepted and not yet given a verdict or closed. -/
def Ctx.pendingOps (e : Ctx) : Nat := (e.recs.filter (fun o => ! o.notAccepted && o.verdict.isNone)).length

/-- The lowest free teardown slot. -/
def State.freeTeardown (s : State) : Option Nat := (List.range 16).find? (fun k => (s.teardown k).isNone)

/-- Orders 1 to 4 of R415: the teardown takes slot `k` under ticket `tk`, and the context is FREE with its next generation. -/
def State.startTeardown (s : State) (k c tk : Nat) : State :=
  let s1 := s.terminate c
  let s2 := s1.endPrograms stContextGone false (s1.idlePrograms c)
  let e := s2.ctx c
  let v : Teardown := { slot := k, ctx := c, gen := e.gen, count := Tab.get 0 s2.cfl c + e.pendingOps, ticket := tk, scrub := e.extents, since := s2.time }
  let s3 : State := { s2 with
    teardowns := s2.teardowns ++ [v]
    cfl := Tab.set 0 s2.cfl c 0
    sck := s2.sck.filter (fun p => ! (p.2.bound && p.2.ctx == c))
    routes := s2.routes.filter (fun r => r.ctx != c)
    pairings := s2.pairings.filter (fun p => p.ctx != c) }
  s3.setCtx c { gen := if e.gen = 0xFFFF then 1 else e.gen + 1 }

/-- CTXDOWN (R264, R415). -/
def downCtx (c : Cmd) (s : State) : State × Reply :=
  if (s.ctx c.a).st = .free then reject s stIllegalState
  else
    match s.freeTeardown with
    | none => reject s stFull
    | some k => (s.startTeardown k c.a c.tk, .later stPending)

def specCtxdown : CmdSpec :=
  { opc := 0x12, ctx0 := true, rd := true, aw := fun _ => 16, named := fun c => c.a, gone := false, body := downCtx }
def execCtxdown (i : Issue) (s : State) : Host.Outcome State Fault Refusal := .next (s.runCmd specCtxdown i)

/-! ### Steps (R219 to R221, R229, R231) -/

/-- The number that the next step of a context carries: behind its highest open step, or behind its last committed one; none
where any number may be first. -/
def Ctx.nextStep (e : Ctx) : Option Nat :=
  match e.liveSlots.reverse with
  | k :: _ => some (((e.slot k).step + 1) % 2 ^ 32)
  | [] => if e.anyStep then none else some ((e.committed + 1) % 2 ^ 32)

/-- Whether R219 lets a context open step `n`. -/
def Ctx.mayOpen (e : Ctx) (n : Nat) : Bool :=
  (match e.nextStep with
   | none => true
   | some m => m == n) && (e.slot (n % 4)).st == .free && decide (e.liveSlots.length < 4)

/-- The Sieve settings that a step latches (R197, R208). -/
def State.sieveLatch (s : State) : SieveLatch :=
  let e := s.reg Reg.hubSieveCfg % 128
  { seed := s.seed, mo := s.reg Reg.hubSieveRate / 2 ^ 16, res := s.reg Reg.hubSieveRate % 2 ^ 16, r64 := s.reg Reg.hubSieveRate64 % 2 ^ 16,
    elems := max 1 (min 64 e), model := [1, 2, 3, 4, 5].map s.model }

/-- A buddied context opens a step only alone, and after the mirror of the step before (R347). -/
def Ctx.mirrorBusy (e : Ctx) (n : Nat) : Bool :=
  match e.buddy with
  | none => false
  | some b =>
    match b.mirror with
    | .none => false
    | .copying m _ => n == (m + 1) % 2 ^ 32
    | .waiting m _ _ => n == (m + 1) % 2 ^ 32

/-- STEPOPEN. -/
def openStep (c : Cmd) (s : State) : State × Reply :=
  let e := s.ctx c.ctx
  if c.ctx = 0 ∨ e.st ≠ .live ∨ e.mayOpen c.a = false ∨ (e.buddy.isSome ∧ e.liveSlots ≠ []) then reject s stIllegalState
  else if e.mirrorBusy c.a then reject s stBusy
  else
    let sl : Slot := { st := .open_, step := c.a, replays := s.reg Reg.lidCtrl % 16, sieve := s.sieveLatch, opened := s.time, provMode := e.provMode }
    let e1 := { e with slots := setAt e.slots (c.a % 4) sl, anyStep := false,
                       committed := if e.anyStep then (c.a + 2 ^ 32 - 1) % 2 ^ 32 else e.committed
                       stood := if e.anyStep then s.boundScales c.ctx else e.stood }
    (((s.setCtx c.ctx e1).forgetStep c.ctx c.a).count Reg.lidCntOpened, .ok 0)

def specStepopen : CmdSpec := { opc := 0x20, aw := fun _ => 32, safe := fun _ => true, body := openStep }
def execStepopen (i : Issue) (s : State) : Host.Outcome State Fault Refusal := .next (s.runCmd specStepopen i)

/-- The slot of a step of a LIVE context. -/
def State.stepOf (s : State) (c n : Nat) : Option Nat :=
  if c ≠ 0 ∧ (s.ctx c).st = .live then (s.ctx c).stepSlot n else none

/-- SHA-384 of the image of a program, or of the ring entry, that issued STEPEND (R324). -/
def State.stepProg (s : State) (c : Cmd) : State × Bytes :=
  match c.prog.bind s.program, c.ring with
  | some p, _ =>
    let b := s.bytes (p.image * 4096) (0x40 + 8 * p.length)
    (s, sha384 (slice b 0 6 ++ zeros 4 ++ slice b 10 6 ++ zeros 8 ++ b.drop 24))
  | none, some _ =>
    (s, sha384 (toLe 1 0x21 ++ zeros 1 ++ zeros 2 ++ zeros 4 ++ toLe 8 c.a ++ toLe 8 c.b ++ toLe 8 c.c ++ toLe 4 c.imm ++ toLe 4 c.mod ++ zeros 24))
  | none, none => (s.took 48, freeBytes s.free 48)

/-- STEPEND (R220). -/
def endStep (c : Cmd) (s : State) : State × Reply :=
  if c.b = 0 ∨ 2 ^ 24 < c.b ∨ 2 ^ 24 < c.c then reject s stBadOperand
  else
    match s.stepOf c.ctx c.a with
    | none => reject s stIllegalState
    | some k =>
      let sl := s.slot c.ctx k
      if sl.st = .open_ ∧ c.c ≤ c.b ∧ sl.ops.all (fun o => o.notAccepted || decide (o.d.opseq < c.b)) = true ∧
          sl.buckets.all (fun p => match p.2.last with
            | some l => decide (l < c.c)
            | none => true) = true then
        let q := if sl.provMode = 0 then (s, []) else s.stepProg c
        ((q.1.setSlot c.ctx k { sl with st := .ended, n := c.b, u := c.c, prog := q.2 }).pairFlush c.ctx k, .ok 0)
      else reject s stIllegalState

def specStepend : CmdSpec := { opc := 0x21, aw := fun _ => 32, bw := fun _ => 25, cw := fun _ => 25, body := endStep }
def execStepend (i : Issue) (s : State) : Host.Outcome State Fault Refusal := .next (s.runCmd specStepend i)

/-- BKTEND (R220, R231): a NULLED step sends NULL for the bucket at once. -/
def endBucket (c : Cmd) (s : State) : State × Reply :=
  let b := if c.mod = 0 then c.imm else c.c
  match s.stepOf c.ctx c.a with
  | none => reject s stIllegalState
  | some k =>
    let sl := s.slot c.ctx k
    let x := sl.bucket b
    if sl.live = false ∨ x.last.isSome ∨ x.released ∨ x.nulled ∨ (sl.n ≠ 0 ∧ sl.u ≤ c.b) then reject s stIllegalState
    else
      let s1 := s.setSlot c.ctx k (sl.setBucket b { x with last := some c.b })
      (if sl.nulled then s1.nullBucket c.ctx k b else s1, .ok 0)

def specBktend : CmdSpec :=
  { opc := 0x22, mods := [0, 1], aw := fun _ => 32, bw := fun _ => 24, cw := fun m => if m = 0 then 0 else 12,
    iw := fun m => if m = 0 then 12 else 0, body := endBucket }
def execBktend (i : Issue) (s : State) : Host.Outcome State Fault Refusal := .next (s.runCmd specBktend i)

/-- STEPABORT (R228). -/
def abortStep (c : Cmd) (s : State) : State × Reply :=
  match s.stepOf c.ctx c.a with
  | none => reject s stIllegalState
  | some k => if (s.slot c.ctx k).live then (s.abandon c.ctx k 1 0, .ok 0) else reject s stIllegalState

def specStepabort : CmdSpec := { opc := 0x23, aw := fun _ => 32, body := abortStep }
def execStepabort (i : Issue) (s : State) : Host.Outcome State Fault Refusal := .next (s.runCmd specStepabort i)

/-! ### Scales and step status (R265, R271, R272) -/

/-- Whether a context has a step in a slot other than FREE. -/
def Ctx.anySlot (e : Ctx) : Bool := e.slots.any Slot.used

/-- The state condition of SCKSET and SCKFREE. -/
def State.sckLegal (s : State) (c e : Nat) : Bool :=
  c != 0 && (s.ctx c).st == .live && (! (s.sckEnt e).bound || ((s.sckEnt e).ctx == c && ! (s.ctx c).anySlot))

/-- SCKSET. -/
def setScale (c : Cmd) (s : State) : State × Reply :=
  let f := c.b % 64
  let v := signedOf 8 (c.b / 2 ^ 16 % 256)
  let fmtOk := match fmtOf f with
    | some x => x.kind != .ieee
    | none => false
  if ! fmtOk ∨ c.b / 64 % 4 ≠ 0 ∨ c.b / 2 ^ 12 % 16 ≠ 0 ∨ v < -127 then reject s stBadOperand
  else if s.sckLegal c.ctx c.imm then
    (s.setSck c.imm { bound := true, fmt := f, margin := c.b / 256 % 16, ctx := c.ctx, scales := [v, v, v, v] }, .ok 0)
  else reject s stIllegalState

def specSckset : CmdSpec := { opc := 0x24, bw := fun _ => 24, iw := fun _ => 15, body := setScale }
def execSckset (i : Issue) (s : State) : Host.Outcome State Fault Refusal := .next (s.runCmd specSckset i)

/-- SCKREAD. -/
def readScale (c : Cmd) (s : State) : State × Reply := (s, c.record (s.sckEnt c.a).record)

def specSckread : CmdSpec := { opc := 0x25, query := true, aw := fun _ => 15, iw := fun _ => 12, body := readScale }
def execSckread (i : Issue) (s : State) : Host.Outcome State Fault Refusal := .next (s.runCmd specSckread i)

/-- SCKFREE. -/
def freeScale (c : Cmd) (s : State) : State × Reply :=
  if s.sckLegal c.ctx c.imm then (s.setSck c.imm {}, .ok 0) else reject s stIllegalState

def specSckfree : CmdSpec := { opc := 0x26, iw := fun _ => 15, body := freeScale }
def execSckfree (i : Issue) (s : State) : Host.Outcome State Fault Refusal := .next (s.runCmd specSckfree i)

/-- LIDSTAT (R271, R272). -/
def lidStat (c : Cmd) (s : State) : State × Reply :=
  let e := s.ctx c.ctx
  let len := if c.mod = 0 then 160 else 16
  if c.recOk len = false then reject s stBadOperand
  else if c.ctx = 0 then reject s stIllegalState
  else if c.mod = 0 then (if e.stats.valid = true ∧ e.stats.step = c.a then (s, .rec_ e.stats.record) else reject s stIllegalState)
  else
    match e.stepSlot c.a with
    | some k => if (e.slot k).live then (s, .rec_ (s.slotRecord c.ctx k)) else reject s stIllegalState
    | none => reject s stIllegalState

def specLidstat : CmdSpec := { opc := 0x27, query := true, mods := [0, 1], aw := fun _ => 32, iw := fun _ => 12, body := lidStat }
def execLidstat (i : Issue) (s : State) : Host.Outcome State Fault Refusal := .next (s.runCmd specLidstat i)

/-! ### The Sieve and the Mortar (R195 to R197, R211 to R216, R266) -/

/-- The thresholds of SIEVECFG become the registers' values (R262). -/
def State.sieveCfg (s : State) (b c e : Nat) : State :=
  ((s.setReg Reg.hubSieveRate b).setReg Reg.hubSieveRate64 c).setReg Reg.hubSieveCfg e

/-- SIEVECFG; through a ring, the values issued are its RESULT (R282). -/
def setSieve (c : Cmd) (s : State) : State × Reply := (s.sieveCfg c.b c.c c.imm, .ok (if c.ring.isSome then c.b else 0))

def specSievecfg : CmdSpec := { opc := 0x40, ctx0 := true, early := true, bw := fun _ => 32, cw := fun _ => 16, iw := fun _ => 7, body := setSieve }
def execSievecfg (i : Issue) (s : State) : Host.Outcome State Fault Refusal := .next (s.runCmd specSievecfg i)

/-- MTRSAMP (R266). -/
def askSample (c : Cmd) (s : State) : State × Reply :=
  match s.stepOf c.ctx c.a with
  | none => reject s stIllegalState
  | some k =>
    let sl := s.slot c.ctx k
    match sl.op c.b with
    | none => reject s stIllegalState
    | some o =>
      if (sl.st = .open_ ∨ sl.st = .ended) ∧ o.notAccepted = false ∧ (o.st = .accepted ∨ o.st = .pending) ∧ o.d.isRoute = false then
        let els := if c.mod = 1 then List.range (o.d.dimM * o.d.dimN) else sl.sieve.elements o.d (max 1 (min 64 c.imm))
        if o.verdict = none then (s.setSlot c.ctx k (sl.onOp c.b (fun p => { p with asked := p.asked ++ [els] })), .ok 0)
        else (((s.newSample c.ctx k o els).serveNoLane).settle c.ctx k c.b, .ok 0)
      else reject s stIllegalState

def specMtrsamp : CmdSpec :=
  { opc := 0x41, mods := [0, 1], aw := fun _ => 32, bw := fun _ => 24, iw := fun m => if m = 0 then 7 else 0, body := askSample }
def execMtrsamp (i : Issue) (s : State) : Host.Outcome State Fault Refusal := .next (s.runCmd specMtrsamp i)

/-- ARBSTAT. -/
def arbStat (c : Cmd) (s : State) : State × Reply :=
  if c.recOk 96 then (if c.mod = 1 then s.clrBits Reg.mtrStatus (2 ^ 16) else s, .rec_ s.arbRecord) else reject s stBadOperand

def specArbstat : CmdSpec := { opc := 0x42, ctx0 := true, query := true, clears := true, mods := [0, 1], iw := fun _ => 12, body := arbStat }
def execArbstat (i : Issue) (s : State) : Host.Outcome State Fault Refusal := .next (s.runCmd specArbstat i)

/-! ### Mode, provenance, pairings (R311, R317, R323) -/

/-- MODESET. -/
def setMode (c : Cmd) (s : State) : State × Reply :=
  if s.anyStep = true ∨ s.queue ≠ [] ∨ s.spill ≠ [] then reject s stIllegalState else ({ s with fixed := c.imm == 1 }, .ok 0)

def specModeset : CmdSpec := { opc := 0x50, ctx0 := true, iw := fun _ => 1, safe := fun _ => true, body := setMode }
def execModeset (i : Issue) (s : State) : Host.Outcome State Fault Refusal := .next (s.runCmd specModeset i)

/-- PROVCFG. -/
def setProv (c : Cmd) (s : State) : State × Reply :=
  let e := s.ctx c.ctx
  if c.imm = 3 then reject s stBadOperand
  else if c.ctx = 0 ∨ e.st ≠ .live ∨ e.anySlot = true ∨ s.reg Reg.hubProvSize % 2 ^ 16 = 0 then reject s stIllegalState
  else (s.setCtx c.ctx { e with provMode := c.imm }, .ok 0)

def specProvcfg : CmdSpec := { opc := 0x51, iw := fun _ => 2, body := setProv }
def execProvcfg (i : Issue) (s : State) : Host.Outcome State Fault Refusal := .next (s.runCmd specProvcfg i)

/-- The lowest free pair index. -/
def State.freePairIdx (s : State) : Option Nat := (List.range 64).find? (fun i => ! s.pairings.any (fun p => p.idx == i))

/-- PAIRCFG. -/
def setPair' (c : Cmd) (s : State) : State × Reply :=
  let e := s.ctx c.a
  if e.st ≠ .live ∨ e.anySlot = true then reject s stIllegalState
  else if c.imm = 0 then (s.unpair c.a, .ok 0)
  else if s.pairings.any (fun p => p.ctx != c.a && p.partner == c.b) = true ∨ s.rwl.contains Reg.hubPairBase = false then reject s stIllegalState
  else
    let s1 := s.unpair c.a
    match s1.freePairIdx with
    | none => reject s stFull
    | some i => ({ s1 with pairings := s1.pairings ++ [{ idx := i, ctx := c.a, partner := c.b }] }, .ok 0)

def specPaircfg : CmdSpec :=
  { opc := 0x52, ctx0 := true, aw := fun _ => 16, bw := fun _ => 16, iw := fun _ => 1, named := fun c => c.a, body := setPair' }
def execPaircfg (i : Issue) (s : State) : Host.Outcome State Fault Refusal := .next (s.runCmd specPaircfg i)

end Sys2Proof.Machine
end

