-- ==== Sys2Proof/Machine/Engine.lean ====
section
/-! DEFINITION. The seal engine and the patrol (R164, R167, R175, R176, R187, R268), recipe loads (R90 to R94), the Ladle
counters of a tile (R269, R271), and the writes of the Mortar's and the Sieve's control registers (R212, R216, R217). -/

namespace Sys2Proof.Machine

/-! ### The seal engine -/

/-- A command enters the queue: one is served and 8 more wait (R268). The running command's reads are on a memory port. -/
def State.queueSeal (s : State) (j : SealJob) : State :=
  let s1 : State := { s with sealQ := s.sealQ ++ [j] }
  if s.sealQ.isEmpty then s1.request .read j.src 0 64 .sealEngine else s1

/-- The running command leaves, and the next one starts. -/
def State.nextSeal (s : State) : State :=
  let s1 := s.retire (fun a => a == .sealEngine)
  let s2 : State := { s1 with sealQ := s1.sealQ.drop 1 }
  match s2.sealQ with
  | j :: _ => s2.request .read j.src 0 64 .sealEngine
  | [] => s2

/-- A block that fails in the seal engine is confirmed under R169, without an action of the Lid; `bcv` is the BCV as it was read (R185). -/
def State.sealConfirm (s : State) (blk : Nat) (own : Bool) (gen fmt kind bcv : Nat) : State :=
  s.startConfirm blk own gen fmt { gen := gen, kind := kind, bcv := bcv, lid := false }

/-- SEALRGN on one block (R164): POISON of a verified BCV is kept, and one that does not verify becomes POISON 1. -/
def State.sealOne (s : State) (gen fmt blk : Nat) : State :=
  let old := s.sbOf blk
  let put (q : State) (p : Bool) : State := q.setSb blk (bcv (q.block blk) blk gen fmt p 0xFE)
  if ! bcvSealed old then put s false
  else
    match s.verify blk (bcvGen old) (bcvFmt old) with
    | .verified => put s false
    | .poisoned => put s true
    | .fails k => (put s true).sealConfirm blk true (bcvGen old) (bcvFmt old) k old

/-- SEALCPY of one block (R175). -/
def State.copyOne (s : State) (gen fmt src dst : Nat) : State :=
  let old := s.sbOf src
  let put (q : State) (p : Bool) : State := (q.setBytes (dst * 4096) (q.block src)).setSb dst (bcv (q.block src) dst gen (bcvFmt old) p 0xFE)
  match s.verify src gen fmt with
  | .verified => (put s false).count Reg.hubCntBlkVerified
  | .poisoned => (put s true).count Reg.hubCntPoisoned
  | .fails k => (put s true).sealConfirm src false gen fmt k old

/-- SEALCHK of one block: 1 when it fails. -/
def State.checkOne (s : State) (gen fmt blk : Nat) : State × Nat :=
  match s.verify blk gen fmt with
  | .verified => (s.count Reg.hubCntBlkVerified, 0)
  | .poisoned => (s.count Reg.hubCntPoisoned, 0)
  | .fails k => (s.sealConfirm blk false gen fmt k (s.sbOf blk), 1)

/-- Block after block of a command, with the number that failed. -/
def State.sealRun (s : State) (j : SealJob) (i bad : Nat) : Nat → State × Nat
  | 0 => (s, bad)
  | n + 1 =>
    if j.op = 0x30 then (s.sealOne j.gen j.fmt (j.src + i)).sealRun j (i + 1) bad n
    else if j.op = 0x31 then (s.copyOne j.gen j.fmt (j.src + i) (j.dst + i)).sealRun j (i + 1) bad n
    else
      let q := s.checkOne j.gen j.fmt (j.src + i)
      q.1.sealRun j (i + 1) (bad + q.2) n

/-- A read or write of the running command fails: it ends, and no later block is touched (R503). -/
def State.sealFailed (s : State) (st : Nat) : State :=
  match s.sealQ with
  | [] => s
  | j :: _ => s.nextSeal.complete j.ticket st 0 false

/-- SEAL_ENGINE_DONE (R268): the running command finishes its range; its result is the number of failing blocks of SEALCHK. -/
def execSealEngineDone (s : State) : Host.Outcome State Fault Refusal :=
  .next (match s.sealQ with
    | [] => s
    | j :: _ =>
      if s.bothStalled then (s.count Reg.hubCntMemTimeout).sealFailed stTimeout
      else
      let q := s.sealRun j 0 0 j.count
      q.1.nextSeal.complete j.ticket stOk (if j.op = 0x32 then min (2 ^ 32 - 1) q.2 else 0) false)

/-- What SEALRGN, SEALCPY and SEALCHK share (R268). -/
def sealCmd (op dst count : Nat) (written : Nat → Nat → Bool) (c : Cmd) (s : State) : State × Reply :=
  let gen := c.imm % 2 ^ 16
  let fmt := c.imm / 2 ^ 16
  if count = 0 ∨ 2 ^ 38 < c.a + count ∨ 2 ^ 38 < dst + count ∨ fmtListed fmt = false ∨ (c.ctx ≠ 0 ∧ gen ≠ (s.ctx c.ctx).gen) then reject s stBadOperand
  else if written dst count then reject s stIllegalState
  else if 9 ≤ s.sealQ.length then reject s stFull
  else (s.queueSeal { op := op, src := c.a, dst := dst, count := count, gen := gen, fmt := fmt, ticket := c.tk, ctx := c.ctx }, .later stPending)

/-- SEALRGN (R164); MOD[0] seals with GEN 0x0000 and belongs to context 0. -/
def sealRgn (c : Cmd) (s : State) : State × Reply :=
  if c.mod = 1 ∧ c.ctx ≠ 0 then reject s stPrivilege
  else
    let q := sealCmd 0x30 c.a c.b s.inIndex c s
    if c.mod = 1 then
      ({ q.1 with sealQ := q.1.sealQ.map (fun j => if j.ticket == c.tk then { j with gen := 0 } else j) }, q.2)
    else q

def specSealrgn : CmdSpec :=
  { opc := 0x30, mods := [0, 1], rd := true, aw := fun _ => 38, bw := fun _ => 24, iw := fun _ => 22, safe := fun _ => true, body := sealRgn }
def execSealrgn (i : Issue) (s : State) : Host.Outcome State Fault Refusal := .next (s.runCmd specSealrgn i)

/-- SEALCPY (R175). -/
def sealCpy (c : Cmd) (s : State) : State × Reply := sealCmd 0x31 c.b c.c s.inIndex c s

def specSealcpy : CmdSpec :=
  { opc := 0x31, rd := true, aw := fun _ => 38, bw := fun _ => 38, cw := fun _ => 24, iw := fun _ => 22, safe := fun _ => true, body := sealCpy }
def execSealcpy (i : Issue) (s : State) : Host.Outcome State Fault Refusal := .next (s.runCmd specSealcpy i)

/-- SEALCHK (R167, R169). -/
def sealChk (c : Cmd) (s : State) : State × Reply := sealCmd 0x32 c.a c.b (fun _ _ => false) c s

def specSealchk : CmdSpec := { opc := 0x32, rd := true, aw := fun _ => 38, bw := fun _ => 24, iw := fun _ => 22, body := sealChk }
def execSealchk (i : Issue) (s : State) : Host.Outcome State Fault Refusal := .next (s.runCmd specSealchk i)

/-! ### The patrol (R176, R187) -/

/-- Whether a block lies in the output region of an op of any open step. -/
def State.anyOutput (s : State) (blk : Nat) : Bool :=
  s.ctxs.any (fun p => p.2.slots.any (fun k => k.live && k.ops.any (fun o => o.lay.out.has blk)))

/-- One block of the patrol: every failure is counted, and a CRC failure is poisoned with a fault (R176). -/
def State.patrolOne (s : State) (blk : Nat) : State :=
  let v := s.sbOf blk
  if ! bcvSealed v || bcvPoison v || s.anyOutput blk then s
  else
    let s1 := s.count Reg.hubCntScrubBlocks
    match s1.verify blk (bcvGen v) (bcvFmt v) with
    | .fails k =>
      let s2 := s1.count Reg.hubCntScrubFail
      if k = 2 then (s2.poisonBlock blk).faultBlk clsMemSeal blk 1 0 else s2
    | _ => s1

/-- PATROL_READ (R176): the next group of 64 blocks of the range, while the patrol is enabled. -/
def State.patrol (s : State) : State :=
  let f := s.reg Reg.hubScrubFirst
  let l := s.reg Reg.hubScrubLast
  if s.bit Reg.hubScrubCtrl 0 = false ∨ l < f then s
  else
    let p := s.reg Reg.hubScrubPos
    let g := if f ≤ p ∧ p ≤ l then p else f
    ((s.retire (fun a => match a with
      | .patrol _ => true
      | _ => false)).request .read (g * 64) 0 64 (.patrol (g * 64))).overBlocks State.patrolOne (g * 64) 64 |>.setReg Reg.hubScrubPos
      (if g = l then f else g + 1)
def execPatrolRead (s : State) : Host.Outcome State Fault Refusal := .next s.patrol

/-! ### Recipe loads (R88, R90 to R97) -/

/-- Row 1 of R90 and the rejections of R94. -/
def State.rcpLegal (s : State) (n : Nat) (load : Bool) : Bool :=
  let r := s.rcp n
  match r.st with
  | .empty => true
  | .loading => false
  | .active => s.rcpPins n == 0
  | .refused => load || s.rcpPins n == 0

/-- RCPLOAD. -/
def loadRecipe (c : Cmd) (s : State) : State × Reply :=
  if c.b < 256 ∨ 65536 < c.b ∨ c.b % 16 ≠ 0 ∨ 2 ^ 38 < c.a + ceilDiv c.b 4096 then reject s stBadOperand
  else if s.rcpLegal c.imm true = false ∨ s.rwl.contains Reg.hubRcpBase = false then reject s stIllegalState
  else
    let r := s.rcp c.imm
    let pinned := if r.st = .refused ∧ s.rcpPins c.imm ≠ 0 then some r.good else none
    let s1 := s.setRcp c.imm { r with st := .loading }
    let s2 : State := { s1 with rcpLoads := s1.rcpLoads ++ [{ slot := c.imm, blk := c.a, len := c.b, ticket := c.tk, pinned := pinned }] }
    (s2.requestReads c.a (.recipe c.imm) (ceilDiv c.b 4096), .later stPending)

def specRcpload : CmdSpec :=
  { opc := 0x18, ctx0 := true, early := true, rd := true, aw := fun _ => 38, bw := fun _ => 64, iw := fun _ => 8, safe := fun _ => true, body := loadRecipe }
def execRcpload (i : Issue) (s : State) : Host.Outcome State Fault Refusal := .next (s.runCmd specRcpload i)

/-- RCPDROP. -/
def dropRecipe (c : Cmd) (s : State) : State × Reply :=
  if s.rcpLegal c.imm false then (s.setRcp c.imm {}, .ok 0) else reject s stIllegalState

def specRcpdrop : CmdSpec := { opc := 0x19, ctx0 := true, early := true, iw := fun _ => 8, body := dropRecipe }
def execRcpdrop (i : Issue) (s : State) : Host.Outcome State Fault Refusal := .next (s.runCmd specRcpdrop i)

/-- Writes the stored copy of an image, sealed block by block (R91). -/
def State.storeCopy (s : State) (blk : Nat) (img : Bytes) : Nat → State
  | 0 => s
  | n + 1 => (s.writeSealed blk (padTo 4096 (slice img 0 (min 4096 img.length))) 0 0x3E .record).storeCopy (blk + 1) (img.drop 4096) n

/-- The load of a slot ends: the slot becomes ACTIVE with its recipe, or REFUSED. -/
def State.endLoad (s : State) (l : RcpLoad) (st : Nat) (r : Option Recipe) : State :=
  let old := s.rcp l.slot
  let s1 := (({ s with rcpLoads := s.rcpLoads.filter (fun x => x.slot != l.slot) } : State).retire (fun a => a == .recipe l.slot))
  let s2 := match r with
    | some x => (s1.setRcp l.slot { st := .active, recipe := some x, id := l.id, digest := l.digest, good := l.digest, len := l.len }).count Reg.hubCntRcpLoaded
    | none => (s1.setRcp l.slot { old with st := .refused, id := l.id }).count (if st = stRecipeKatFail then Reg.hubCntRcpKatFail else Reg.hubCntRcpRefused)
  s2.complete l.ticket st 0 true

/-- Orders 2 to 6 of R90 once the image has been read; a passing image is copied, and its vectors are to run. -/
def State.checkLoad (s : State) (l : RcpLoad) : State :=
  let img := s.bytes (l.blk * 4096) l.len
  match checkImage img l.pinned with
  | .error st => s.endLoad { l with id := leAt img 8 2 } st none
  | .ok r =>
    let l1 := { l with recipe := some r, id := leAt img 8 2, digest := sha384 img, vectors := List.range r.kats.length }
    let s1 : State := { s with rcpLoads := s.rcpLoads.map (fun x => if x.slot == l.slot then l1 else x) }
    (s1.retire (fun a => a == .recipe l.slot)).storeCopy (s1.rcpBlk l.slot) img (ceilDiv l.len 4096)

/-- A read of the image fails: the load ends and the slot is REFUSED; the RECIPE_ID of an image that could not be read is
open (R503). -/
def State.loadFailed (s : State) (l : RcpLoad) (st : Nat) : State :=
  let s1 := (({ s with rcpLoads := s.rcpLoads.filter (fun x => x.slot != l.slot) } : State).retire (fun a => a == .recipe l.slot)).took 1
  (s1.setRcp l.slot { s1.rcp l.slot with st := .refused, id := s.freeNat % 2 ^ 16 }).complete l.ticket st 0 false

/-- RECIPE_LOAD_DONE (R90): the image has been read and is checked; then, once its vectors have run, the load ends. -/
def execRecipeLoadDone (slot : Nat) (s : State) : Host.Outcome State Fault Refusal :=
  .next (match s.rcpLoads.find? (fun l => l.slot == slot) with
    | none => s
    | some l =>
      match l.recipe with
      | none => if s.bothStalled then (s.count Reg.hubCntMemTimeout).loadFailed l stTimeout else s.checkLoad l
      | some r =>
        if l.katBad then s.endLoad l stRecipeKatFail none
        else if l.vectors.isEmpty then s.endLoad l stOk (some r)
        else s)

/-! ### LDLCNT (R155, R269, R271) -/

/-- The physical tile of a logical number that the tile map holds (R376). -/
def State.physOf (s : State) (l : Nat) : Option Nat := lookup s.tileMap l

/-- LDLCNT. -/
def ldlCnt (c : Cmd) (s : State) : State × Reply :=
  match (if c.recOk 112 then s.physOf c.a else none) with
  | none => reject s stBadOperand
  | some t =>
    if s.tileRuns t = false ∨ (s.stop t).unreachable = true then reject s stUnreachable
    else (if c.mod = 1 then s.zeroRun (atTile t Reg.ldlCntOps) 27 else s, .rec_ (s.ldlRecord t))

def specLdlcnt : CmdSpec := { opc := 0x38, query := true, clears := true, mods := [0, 1], aw := fun _ => 7, iw := fun _ => 12, body := ldlCnt }
def execLdlcnt (i : Issue) (s : State) : Host.Outcome State Fault Refusal := .next (s.runCmd specLdlcnt i)

/-! ### Control registers of the Mortar and the Sieve (R212, R216, R217) -/

/-- MTR_LANE_CTRL_FENCE. -/
def execMtrLaneCtrlFence (src : Src) (lanes : Nat) (s : State) : Host.Outcome State Fault Refusal :=
  .next (s.writeAccess src Reg.mtrLaneCtrl (fun q => q.laneCtrl (lanes % 16)))

/-- MTR_LANE_CTRL_SELFTEST. -/
def execMtrLaneCtrlSelftest (src : Src) (lanes : Nat) (s : State) : Host.Outcome State Fault Refusal :=
  .next (s.writeAccess src Reg.mtrLaneCtrl (fun q => q.laneCtrl (lanes % 16 * 16)))

/-- MTR_LANE_CTRL_REINSTATE. -/
def execMtrLaneCtrlReinstate (src : Src) (lanes : Nat) (s : State) : Host.Outcome State Fault Refusal :=
  .next (s.writeAccess src Reg.mtrLaneCtrl (fun q => q.laneCtrl (lanes % 16 * 256)))

/-- The staged low half of a source (R217). -/
def State.stageSeed (s : State) (src : Src) (v : Nat) : State := s.setBanked src .seedLo (v % 2 ^ 32)

/-- The Sieve seed from a high half and the source's staged low half; host software has written it. -/
def State.formSeed (s : State) (src : Src) (v : Nat) : State :=
  { s with seed := v % 2 ^ 32 * 2 ^ 32 + s.banked src .seedLo, bring := { s.bring with seedWritten := true } }

/-- HUB_SIEVE_SEED_LO_WRITE (R217). -/
def execHubSieveSeedLoWrite (src : Src) (val : Nat) (s : State) : Host.Outcome State Fault Refusal :=
  .next (s.writeAccess src Reg.hubSieveSeedLo (fun q => q.stageSeed src val))

/-- HUB_SIEVE_SEED_HI_WRITE (R217). -/
def execHubSieveSeedHiWrite (src : Src) (val : Nat) (s : State) : Host.Outcome State Fault Refusal :=
  .next (s.writeAccess src Reg.hubSieveSeedHi (fun q => q.formSeed src val))

/-- HUB_SIEVE_CLR with CLEAR 1: ESC_TOTAL, t and the deficit become zero (R216), and with t the bound (R210). -/
def State.clearSieve (s : State) : State := ({ s.setReg Reg.hubSieveDeficit 0 with escTotal := 0, sieveT := s.time } : State).rebound

/-- HUB_SIEVE_CLR (R216). -/
def execHubSieveClr (src : Src) (s : State) : Host.Outcome State Fault Refusal :=
  .next (s.writeAccess src Reg.hubSieveClr State.clearSieve)

end Sys2Proof.Machine
end

