-- ==== Sys2Proof/Machine/Ckpt.lean ====
section
/-! DEFINITION. Checkpoints, buddies and host messages (12_checkpoints_and_peers): scale shards, manifests, their checks
and restores, mirrors, and the peer receive ring. -/

namespace Sys2Proof.Machine

/-! ### Keys (R339, R474) -/

/-- SHA-384 of the licensee's fleet key, fuse words 0 to 5. -/
def State.fleetHash (s : State) : Bytes := (s.fuse.words.take 6).flatMap (toLe 8)

/-- The 384-bit device secret, fuse words 6 to 11. -/
def State.secret (s : State) : Bytes := ((s.fuse.words.drop 6).take 6).flatMap (toLe 8)

/-- The signing public key, 96 bytes, zero until it is derived at bring-up. -/
def State.signerPub (s : State) : Bytes := if s.bring.signingKey then publicOf (signingKeyOf s.secret) else zeros 96

/-- A fresh secret of one signature, from 1 to n − 1: the draws of the generator of R339 are open. -/
def State.signNonce (s : State) : Nat := beNat (freeBytes s.free 56) % (p384N - 1) + 1

/-- HUB_CKPT_ENDORSE. -/
def State.endorse (s : State) : Bytes := (List.range 24).flatMap (fun i => toLe 4 (s.reg (Reg.hubCkptEndorse + 4 * i)))

/-! ### Shards (R335, R337, R340) -/

/-- A shard as an entry of a manifest or a region of a state map names it: kind, format, body blocks, header block. -/
structure Shard where
  kind : Nat
  fmt : Nat
  blocks : Nat
  blk : Nat

/-- The header block of a shard. -/
def shardHeader (x : Shard) (index job step : Nat) : Bytes :=
  padTo 4096 (toLe 4 0x5A534844 ++ toLe 1 x.kind ++ toLe 1 x.fmt ++ toLe 2 index ++ toLe 8 job ++ toLe 4 step ++ toLe 4 x.blocks)

/-- The body of the scale shard, from the entries as they stood at the commit (R340). -/
def scaleBody (es : List (Nat × SckEntry)) : Bytes :=
  padTo 4096 (toLe 4 es.length ++ zeros 12 ++ es.flatMap (fun p => toLe 4 p.1 ++ p.2.record))

/-- Writes a run of bytes as whole sealed blocks. -/
def State.writeRun (s : State) (blk : Nat) (b : Bytes) (gen fmt : Nat) : Nat → State
  | 0 => s
  | n + 1 => (s.writeSealed blk (padTo 4096 (slice b 0 (min 4096 b.length)) ++ (if b.isEmpty then zeros 4096 else [])) gen fmt .manifest).writeRun
      (blk + 1) (b.drop 4096) gen fmt n

/-- Step 1 of R341: the scale shard's body and every header. -/
def State.writeShards (s : State) (body : Bytes) (gen job step i : Nat) : List Shard → State
  | [] => s
  | x :: t =>
    let s1 := if x.kind = 3 then s.writeRun (x.blk + 1) body gen x.fmt x.blocks else s
    (s1.writeSealed x.blk (shardHeader x i job step) gen 0x3E .manifest).writeShards body gen job step (i + 1) t

/-- Verifies a run of blocks with a format (R167), each counted, up to the first that fails: that block and its kind. -/
def State.badRun (s : State) (gen fmt b : Nat) : Nat → State × Option (Nat × Nat)
  | 0 => (s, none)
  | n + 1 =>
    match s.verify b gen fmt with
    | .verified => (s.count Reg.hubCntBlkVerified).badRun gen fmt (b + 1) n
    | .poisoned => (s.count Reg.hubCntPoisoned, some (b, 6))
    | .fails k => (s, some (b, k))

/-- Step 2 of R341: each body block and each header is verified, up to the first that fails, with its kind and format. -/
def State.badShard (s : State) (gen : Nat) : List Shard → State × Option (Nat × Nat × Nat)
  | [] => (s, none)
  | x :: t =>
    match s.badRun gen x.fmt (x.blk + 1) x.blocks with
    | (s1, some (b, k)) => (s1, some (b, k, x.fmt))
    | (s1, none) =>
      match s1.badRun gen 0x3E x.blk 1 with
      | (s2, some (b, k)) => (s2, some (b, k, 0x3E))
      | (s2, none) => s2.badShard gen t

/-- The digest of a shard. -/
def State.shardDigest (s : State) (x : Shard) : Bytes := sha384 (s.bytes (x.blk * 4096) ((x.blocks + 1) * 4096))

/-- A shard entry of R337. -/
def State.entryBytes (s : State) (x : Shard) : Bytes :=
  toLe 1 x.kind ++ toLe 1 x.fmt ++ zeros 2 ++ toLe 4 x.blocks ++ toLe 8 x.blk ++ s.shardDigest x

/-! ### The manifest (R336 to R338) -/

/-- DATA_POS of R338. -/
def dataPos (step stepZero mb chipsM1 : Nat) : Nat := (step + 1 + 2 ^ 64 - stepZero) * mb * (chipsM1 + 1) % 2 ^ 64

/-- What a manifest says beyond what the block itself knows: its flags, step, job and first step, its shards, and the context's digests
and scale entries as they stood at the commit of the step. -/
structure Draft where
  flags : Nat
  step : Nat
  stepZero : Nat
  job : Nat
  shards : List Shard
  wman : Bytes
  prev : Bytes
  scales : List (Nat × SckEntry)

/-- HUB_SHAPE (R356). -/
def State.chipsM1 (s : State) : Nat := s.reg Reg.hubShape % 2 ^ 16
def State.rank (s : State) : Nat := s.reg Reg.hubShape / 2 ^ 16

/-- Bytes 0x000 to 0xF1F of a manifest, which its signature covers. -/
def State.manifestHead (s : State) (c : Nat) (m : Draft) : Bytes :=
  let e := s.ctx c
  let entries := slice (m.shards.flatMap s.entryBytes ++ zeros 3328) 0 3328
  toLe 4 0x5A4D4E46 ++ toLe 2 0x0302 ++ toLe 2 m.flags ++ toLe 4 m.step ++ toLe 2 m.shards.length ++ toLe 1 s.tileMap.length ++ zeros 1
    ++ toLe 2 s.chipsM1 ++ toLe 2 s.rank ++ toLe 2 e.mb ++ toLe 2 c ++ toLe 8 e.seed ++ toLe 4 m.stepZero ++ toLe 4 (m.step + 1)
    ++ toLe 8 (dataPos m.step m.stepZero e.mb s.chipsM1) ++ toLe 8 m.job ++ zeros 8 ++ m.wman ++ m.prev ++ zeros 96 ++ entries
    ++ slice (s.kettle.pub ++ zeros 96) 0 96 ++ s.signerPub ++ s.endorse

/-- The 4,096 bytes of a manifest, signed by this chip (R339). -/
def State.manifestBytes (s : State) (c : Nat) (m : Draft) : Bytes :=
  let h := s.manifestHead c m
  h ++ ecdsaSign (signingKeyOf s.secret) s.signNonce h ++ zeros 128

/-- R341: the shards are written and verified, and the manifest is written last; the failing block, its kind and format. -/
def State.writeManifest (s : State) (c blk : Nat) (m : Draft) : State × Option (Nat × Nat × Nat) :=
  let gen := (s.ctx c).gen
  let s1 := s.writeShards (scaleBody m.scales) gen m.job m.step 0 m.shards
  match s1.badShard gen m.shards with
  | (s2, some x) => (s2, some x)
  | (s2, none) =>
    let b := s2.manifestBytes c m
    (((s2.took 56).writeSealed blk b gen 0x3E .manifest).count Reg.hubCntCkptWritten, none)

/-- The shard entry at index `i` of a manifest or of a draft. -/
def manShard (b : Bytes) (i : Nat) : Shard :=
  let o := 0x100 + 64 * i
  { kind := leAt b o 1, fmt := leAt b (o + 1) 1, blocks := leAt b (o + 4) 4, blk := leAt b (o + 8) 8 % 2 ^ 38 }

/-- The shard entries of a manifest. -/
def manShards (b : Bytes) : List Shard := (List.range (min 52 (leAt b 0xC 2))).map (manShard b)

/-- A draft's contents as host software filled them in (R341). -/
def draftOf (b : Bytes) (j : CkptJob) : Draft :=
  { flags := 0, step := j.step, stepZero := leAt b 0x20 4, job := leAt b 0x30 8, shards := manShards b, wman := j.wman, prev := j.prev,
    scales := j.scales }

/-! ### CKPTMAN (R341) -/

/-- Commands of the hash unit: one is served and 8 more wait. -/
def State.ckptFull (s : State) : Bool := decide (9 ≤ s.ckptQ.length)

/-- A command enters the queue; the reads of the one that is served are on a memory port. -/
def State.queueCkpt (s : State) (j : CkptJob) : State :=
  let s1 : State := { s with ckptQ := s.ckptQ ++ [j] }
  if s.ckptQ.isEmpty then s1.request .read j.blk 0 64 .ckpt else s1

/-- The served command leaves, and the next one starts. -/
def State.endCkpt (s : State) : State :=
  let s1 := s.retire (fun a => a == .ckpt)
  let s2 : State := { s1 with ckptQ := s1.ckptQ.drop 1 }
  match s2.ckptQ with
  | j :: _ => s2.request .read j.blk 0 64 .ckpt
  | [] => s2

def ckptMan (c : Cmd) (s : State) : State × Reply :=
  let e := s.ctx c.ctx
  let b := s.block c.b
  let sh := manShards b
  if c.ctx = 0 ∨ e.st ≠ .live ∨ e.anyStep = true ∨ e.committed ≠ c.a ∨ sh.any (fun x => s.inIndex x.blk (x.blocks + 1)) = true ∨
      leAt b 0x10 2 ≠ s.chipsM1 ∨ leAt b 0x12 2 ≠ s.rank then reject s stIllegalState
  else if s.ckptFull then reject s stFull
  else
    (s.queueCkpt { ctx := c.ctx, step := c.a, blk := c.b, ticket := some c.tk, extents := sh.map (fun x => (x.blk, x.blocks + 1)), wman := e.wman,
                   prev := e.prev, scales := e.stood }, .later stPending)

def specCkptman : CmdSpec := { opc := 0x58, rd := true, aw := fun _ => 32, bw := fun _ => 38, safe := fun _ => true, body := ckptMan }
def execCkptman (i : Issue) (s : State) : Host.Outcome State Fault Refusal := .next (s.runCmd specCkptman i)

/-- Whether a draft can become a manifest: 1 to 52 shards, each with a listed format (R35), one of KIND 0x3, and room in it for the
scale records. -/
def draftOk (es : List (Nat × SckEntry)) (b : Bytes) : Bool :=
  let n := leAt b 0xC 2
  let sc := (manShards b).filter (fun x => x.kind == 3)
  decide (1 ≤ n) && decide (n ≤ 52) && (manShards b).all (fun x => fmtListed x.fmt) && sc.length == 1 &&
    sc.all (fun x => decide (ceilDiv (scaleBody es).length 4096 ≤ x.blocks))

/-- CKPTMAN_DONE: the served CKPTMAN ends. -/
def execCkptmanDone (s : State) : Host.Outcome State Fault Refusal :=
  .next (match s.ckptQ with
    | [] => s
    | j :: _ =>
      if j.kind != .man then s
      else
        let b := s.block j.blk
        let s1 := s.endCkpt
        if s.bothStalled then (s1.count Reg.hubCntMemTimeout).completeOpt j.ticket stTimeout 0 false
        else if ! draftOk j.scales b then s1.completeOpt j.ticket stManifestInconsistent 0 false
        else
          match s1.writeManifest j.ctx j.blk (draftOf b j) with
          | (s2, none) => s2.completeOpt j.ticket stOk 0 false
          | (s2, some (blk, k, fmt)) =>
            (s2.sealConfirm blk false (s2.ctx j.ctx).gen fmt k (s2.sbOf blk)).completeOpt j.ticket stSealFail 0 false)

/-! ### CKPTCHK (R338, R339, R343, R344) -/

/-- Row 2 of R343; a format that is not listed is taken as a malformed entry, since no seal may carry it (R35). -/
def manOk (b : Bytes) : Bool :=
  let n := leAt b 0xC 2
  leAt b 0 4 == 0x5A4D4E46 && decide (1 ≤ n) && decide (n ≤ 52) && (manShards b).countP (fun x => x.kind == 3) == 1 && (manShards b).all (fun x => fmtListed x.fmt) && leAt b 6 2 / 2 == 0 &&
    zeroAt b 0xF 1 && zeroAt b 0x38 8 && zeroAt b 0xA0 96 && zeroAt b (0x100 + 64 * n) (64 * (52 - n)) && zeroAt b 0xF80 128 &&
    (List.range n).all (fun i => zeroAt b (0x102 + 64 * i) 2 && leAt b (0x108 + 64 * i) 8 / 2 ^ 38 == 0)

/-- R339. -/
def State.manSigned (s : State) (b : Bytes) : Bool :=
  let fleet := slice b 0xE00 96
  let signer := slice b 0xE60 96
  sha384 fleet == s.fleetHash && ecdsaVerify fleet (slice b 0xEC0 96) signer && ecdsaVerify signer (slice b 0xF20 96) (slice b 0 0xF20)

/-- R338. -/
def manConsistent (b : Bytes) : Bool :=
  let step := leAt b 8 4
  leAt b 0x24 4 == (step + 1) % 2 ^ 32 && leAt b 0x28 8 == dataPos step (leAt b 0x20 4) (leAt b 0x14 2) (leAt b 0x10 2)

/-- Row 6 of R343. -/
def State.manShape (s : State) (c : Nat) (b : Bytes) : Bool :=
  let e := s.ctx c
  leAt b 0x10 2 == s.chipsM1 && leAt b 0x12 2 == s.rank && leAt b 0xE 1 == s.tileMap.length && leAt b 0x14 2 == e.mb && leAt b 0x18 8 == e.seed &&
    leAt b 0x16 2 == c

/-- Row 7 for one shard: 0 agrees, 1 header malformed or JOB differs, 2 STEP differs, 3 digest differs. -/
def State.shardKind (s : State) (b : Bytes) (i : Nat) : Nat :=
  let x := manShard b i
  let h := s.block x.blk
  let good := leAt h 0 4 == 0x5A534844 && leAt h 4 1 == x.kind && leAt h 5 1 == x.fmt && leAt h 6 2 == i && leAt h 0x14 4 == x.blocks &&
    leAt h 8 8 == leAt b 0x30 8 && zeroAt h 0x18 4072
  if ! good then 1
  else if leAt h 0x10 4 ≠ leAt b 8 4 then 2
  else if s.shardDigest x ≠ slice b (0x110 + 64 * i) 48 then 3
  else 0

/-- The shards that disagree, with their kinds, lowest first. -/
def State.badShards (s : State) (b : Bytes) : List (Nat × Nat) :=
  ((List.range (min 52 (leAt b 0xC 2))).map (fun i => (i, s.shardKind b i))).filter (fun p => p.2 != 0)

/-- The result of row 7: the mask in [51:0] and the lowest one's kind in [55:52]. -/
def badResult (l : List (Nat × Nat)) : Nat := (l.map (fun p => 2 ^ p.1)).foldl (· + ·) 0 + ((l.head?).map Prod.snd).getD 0 * 2 ^ 52

/-- Rows 2 to 7 of R343: status, result, and the lowest disagreeing shard. -/
def State.ckptCheck (s : State) (c : Nat) (restore : Bool) (b : Bytes) : Nat × Nat × Option Nat :=
  if ! manOk b then (stManifestInconsistent, 0, none)
  else if ! versionOk (leAt b 4 2) then (stVersionMismatch, 0, none)
  else if ! s.manSigned b then (stSignatureInvalid, 0, none)
  else if ! manConsistent b then (stManifestInconsistent, 0, none)
  else if restore && ! s.manShape c b then (stShapeMismatch, 0, none)
  else
    match s.badShards b with
    | [] => (stOk, 0, none)
    | (i, k) :: t => (stManifestInconsistent, badResult ((i, k) :: t), some i)

/-- R356: the capture, while none is held. -/
def State.ckptCapture (s : State) (kind shard c step : Nat) : State :=
  if s.bit Reg.hubCkptStatus 0 then s
  else ((s.setReg Reg.hubCkptCap (kind * 2 ^ 28 + shard * 2 ^ 22 + c)).setReg Reg.hubCkptCapStep step).setBits Reg.hubCkptStatus 1

/-- The scale records of a scale shard's body: entry number and record. -/
def scaleRecords (body : Bytes) : List (Nat × Bytes) :=
  (List.range (min 32768 (leAt body 0 4))).map (fun i => (leAt body (16 + 84 * i) 4 % 32768, slice body (20 + 84 * i) 80))

/-- A Scale Keeper entry from its record (R271). -/
def scaleOf (c : Nat) (r : Bytes) : SckEntry :=
  let w := leAt r 0 4
  let hist := (List.range 16).map (fun k => leAt r (16 + 4 * k) 4)
  { bound := true, fmt := fieldOf w 30 25, margin := fieldOf w 24 21, ctx := c, scales := [0, 1, 2, 3].map (fun k => signedOf 8 (leAt r (4 + k) 1)),
    hist := (hist.reverse.dropWhile (· == 0)).reverse, countInf := leAt r 8 4, countClamp := leAt r 12 4 }

/-- The scale shard that a manifest names. -/
def State.scaleShard (s : State) (b : Bytes) : List (Nat × Bytes) :=
  match (manShards b).find? (fun x => x.kind == 3) with
  | some x => scaleRecords (s.bytes ((x.blk + 1) * 4096) (x.blocks * 4096))
  | none => []

/-- The state condition of a restore (R343). -/
def State.mayRestore (s : State) (c : Nat) (b : Bytes) : Bool :=
  let e := s.ctx c
  c != 0 && e.st == .live && ! e.anySlot && (s.scaleShard b).all (fun p => ! (s.sckEnt p.1).bound || (s.sckEnt p.1).ctx == c)

/-- Seals a run of blocks as they stand in memory. -/
def State.sealBlocks (s : State) (gen fmt b : Nat) : Nat → State
  | 0 => s
  | n + 1 => (s.setSb b (bcv (s.block b) b gen fmt false 0xFE)).sealBlocks gen fmt (b + 1) n

/-- Seals every shard of a list. -/
def State.sealShards (s : State) (gen : Nat) : List Shard → State
  | [] => s
  | x :: t => ((s.sealBlocks gen 0x3E x.blk 1).sealBlocks gen x.fmt (x.blk + 1) x.blocks).sealShards gen t

/-- Binds the entries of scale records. -/
def State.bindScales (s : State) (c : Nat) : List (Nat × Bytes) → State
  | [] => s
  | p :: t => (s.setSck p.1 (scaleOf c p.2)).bindScales c t

/-- R344. -/
def State.restore (s : State) (c : Nat) (b : Bytes) : State :=
  let s1 := (s.sealShards (s.ctx c).gen (manShards b)).bindScales c (s.scaleShard b)
  let e := s1.ctx c
  let w := slice b 0x40 48
  (s1.setCtx c { e with committed := leAt b 8 4, anyStep := false, prev := slice b 0x70 48, stood := s1.boundScales c,
                        wman := if w == zeros 48 then sha384 (slice b 0 0xF80) else w }).count Reg.hubCntRestored

def ckptChk (c : Cmd) (s : State) : State × Reply :=
  if c.mod = 1 ∧ s.mayRestore c.ctx (s.block c.b) = false then reject s stIllegalState
  else if s.ckptFull then reject s stFull
  else (s.queueCkpt { kind := if c.mod = 1 then .restore else .chk, ctx := c.ctx, blk := c.b, ticket := some c.tk }, .later stPending)

def specCkptchk : CmdSpec :=
  { opc := 0x59, mods := [0, 1], rd := true, bw := fun _ => 38, safe := fun c => c.mod == 1, body := ckptChk }
def execCkptchk (i : Issue) (s : State) : Host.Outcome State Fault Refusal := .next (s.runCmd specCkptchk i)

/-- The end of a CKPTCHK with a status; one other than OK is counted as refused and sets REFUSED (R343, R356). -/
def State.endChk (s : State) (j : CkptJob) (b : Bytes) (r : Nat × Nat × Option Nat) : State :=
  if r.1 = stOk then
    (if j.kind == .restore then s.restore j.ctx b else s).completeOpt j.ticket stOk r.2.1 true
  else
    let s1 := match r.2.2 with
      | some i => s.ckptCapture 1 i j.ctx (leAt (s.block (manShard b i).blk) 0x10 4)
      | none => s
    ((s1.count Reg.hubCntCkptRefused).setBits Reg.hubCkptStatus 2).completeOpt j.ticket r.1 r.2.1 true

/-- The body of a buddy message (R349). -/
def buddyBody (kind status ctx step blk : Nat) : Bytes :=
  toLe 1 kind ++ toLe 1 status ++ toLe 2 ctx ++ toLe 4 step ++ toLe 8 blk ++ zeros 48

/-- MIRROR_ACK to the agent of a MIRROR_DONE. -/
def State.ackMirror (s : State) (agent ctx step st : Nat) : State := s.sendPeer 2 agent (buddyBody 0x31 st ctx step 0)

/-- A read of the served command fails (R343, R503). -/
def State.ckptFailed (s : State) (st : Nat) : State :=
  match s.ckptQ with
  | [] => s
  | j :: _ =>
    match j.kind with
    | .man => s.endCkpt.completeOpt j.ticket st 0 false
    | .mirror agent => (s.endCkpt.count Reg.hubCntMirrors).ackMirror agent j.ctx j.step st
    | _ => s.endCkpt.endChk j [] (st, 0, none)

/-- CKPTCHK_DONE: the served check ends, for a CKPTCHK or for a MIRROR_DONE. -/
def execCkptchkDone (s : State) : Host.Outcome State Fault Refusal :=
  .next (match s.ckptQ with
    | [] => s
    | j :: _ =>
      let b := s.block j.blk
      if s.bothStalled && j.kind != .man then (s.count Reg.hubCntMemTimeout).ckptFailed stTimeout
      else
      match j.kind with
      | .man => s
      | .chk => s.endCkpt.endChk j b (s.ckptCheck j.ctx false b)
      | .restore =>
        if s.mayRestore j.ctx b then s.endCkpt.endChk j b (s.ckptCheck j.ctx true b)
        else s.endCkpt.endChk j b (stIllegalState, 0, none)
      | .mirror agent => (s.endCkpt.count Reg.hubCntMirrors).ackMirror agent j.ctx j.step (s.ckptCheck j.ctx false b).1)

/-! ### Buddies (R346 to R350) -/

/-- A state map as its block holds it. -/
def mapRegions (b : Bytes) : List (Nat × Nat) := (List.range (min 52 (leAt b 4 2))).map (fun i => (i, 0x80 + 48 * i))

/-- The local shards of parity `p`, and the blocks that hold them in the buddy's memory. -/
def mapShards (b : Bytes) (p : Nat) : List Shard :=
  (mapRegions b).map (fun x => { kind := leAt b x.2 1, fmt := leAt b (x.2 + 1) 1, blocks := leAt b (x.2 + 4) 4, blk := leAt b (x.2 + 8 + 8 * p) 8 % 2 ^ 38 })
def mapHolds (b : Bytes) (p : Nat) : List Nat := (mapRegions b).map (fun x => leAt b (x.2 + 24 + 8 * p) 8 % 2 ^ 38)

def mapMan (b : Bytes) (p : Nat) : Nat := leAt b (0x18 + 8 * p) 8 % 2 ^ 38
def mapHman (b : Bytes) (p : Nat) : Nat := leAt b (0x28 + 8 * p) 8 % 2 ^ 38

/-- Whether the state map at a block verifies (R346). -/
def State.mapOk (s : State) (blk : Nat) : Bool :=
  let b := s.block blk
  s.verify blk 0 0x3E == .verified && leAt b 0 4 == 0x5A534D50 && decide (1 ≤ leAt b 4 2) && decide (leAt b 4 2 ≤ 52) &&
    (mapShards b 0).all (fun x => fmtListed x.fmt) && (mapShards b 0).countP (fun x => x.kind == 3) == 1

/-- Contexts with a buddy. -/
def State.buddied (s : State) : List Nat := (s.ctxs.filter (fun p => p.2.buddy.isSome)).map Prod.fst

/-- BUDDYCFG (R347). -/
def buddyCfg (c : Cmd) (s : State) : State × Reply :=
  let e := s.ctx c.a
  let m := s.reg Reg.hubBuddyMap * 64
  if e.st ≠ .live ∨ e.anySlot = true then reject s stIllegalState
  else if c.b = 0xFFFF then (s.setCtx c.a { e with buddy := none }, .ok 0)
  else if s.mapOk m = false then reject s stIllegalState
  else if e.buddy.isNone ∧ 256 ≤ s.buddied.length then reject s stFull
  else (s.setCtx c.a { e with buddy := some { agent := c.b, map := m } }, .ok 0)

def specBuddycfg : CmdSpec :=
  { opc := 0x5A, ctx0 := true, aw := fun _ => 16, bw := fun _ => 16, named := fun c => c.a, safe := fun _ => true, body := buddyCfg }
def execBuddycfg (i : Issue) (s : State) : Host.Outcome State Fault Refusal := .next (s.runCmd specBuddycfg i)

/-- Steps 1 and 2 of R348 at the commit of a step: the manifest is written from the state map, and the copy starts. -/
def State.startMirror (s : State) (c step : Nat) : State :=
  match (s.ctx c).buddy with
  | none => s
  | some b =>
    let m := s.block b.map
    let p := step % 2
    let e := s.ctx c
    let q := s.writeManifest c (mapMan m p) { flags := 1, step := step, stepZero := leAt m 0x10 4, job := leAt m 8 8, shards := mapShards m p,
                                              wman := e.wman, prev := e.prev, scales := e.stood }
    let s1 := match q.2 with
      | some (blk, k, fmt) => q.1.sealConfirm blk false (q.1.ctx c).gen fmt k (q.1.sbOf blk)
      | none => q.1
    s1.setCtx c { s1.ctx c with buddy := some { b with mirror := .copying step false } }

/-- Copies `n` blocks with sideband zero. -/
def State.copyRun (s : State) (c src dst : Nat) : Nat → State
  | 0 => s
  | n + 1 => (s.writeZ (dst * 4096) (s.block src) (.mirror c)).copyRun c (src + 1) (dst + 1) n

/-- Step 3 of R348. -/
def State.copyShards (s : State) (c : Nat) : List (Shard × Nat) → State
  | [] => s
  | x :: t => (s.copyRun c x.1.blk x.2 (x.1.blocks + 1)).copyShards c t

/-- MIRROR_COPY_DONE (R348): every region of the step's parity and the manifest are in the buddy's memory, and MIRROR_DONE
is sent. -/
def execMirrorCopyDone (ctx : Nat) (s : State) : Host.Outcome State Fault Refusal :=
  .next (match (s.ctx ctx).buddy with
    | none => s
    | some b =>
      match b.mirror with
      | .copying step again =>
        let m := s.block b.map
        let p := step % 2
        let s1 := (s.copyShards ctx ((mapShards m p).zip (mapHolds m p))).copyRun ctx (mapMan m p) (mapHman m p) 1
        let s2 := s1.retire (fun a => a == .mirror ctx)
        (s2.setCtx ctx { s2.ctx ctx with buddy := some { b with mirror := .waiting step again s.time } }).sendPeer 2 b.agent
          (buddyBody 0x30 0 ctx step (mapHman m p))
      | _ => s)

/-- Whether a block lies in the hold range (R349, R356). -/
def State.inHold (s : State) (blk : Nat) : Bool :=
  decide (s.reg Reg.hubHoldFirst ≤ blk / 64) && decide (blk / 64 ≤ s.reg Reg.hubHoldLast)

/-- MIRROR_DONE (R349): the buddy checks the held manifest, or answers ILLEGAL_STATE at once. -/
def State.mirrorCheck (s : State) (m : PeerMsg) : State :=
  let blk := leAt m.body 8 8
  if ! s.inHold blk then s.ackMirror m.src (leAt m.body 2 2) (leAt m.body 4 4) stIllegalState
  else s.queueCkpt { kind := .mirror m.src, ctx := leAt m.body 2 2, step := leAt m.body 4 4, blk := blk }

def execMirrorDone (m : PeerMsg) (s : State) : Host.Outcome State Fault Refusal :=
  .next (if ! s.accepts m then s.discardPeer m
    else if m.kind = 0x30 then (s.takePeer m).mirrorCheck m else s)

/-- A mirror fails (R350): it is repeated once, and the second failure removes the buddy. -/
def State.mirrorFail (s : State) (c step : Nat) (b : Buddy) (again : Bool) : State :=
  let s1 := s.count Reg.hubCntMirrorNak
  if ! again then s1.setCtx c { s1.ctx c with buddy := some { b with mirror := .copying step true } }
  else
    ((((s1.setCtx c { s1.ctx c with buddy := none }).ckptCapture 2 0 c step).setBits Reg.hubCkptStatus 4).raiseFault clsBuddy 0 7 b.agent).count
      Reg.hubCntBuddyLost

/-- MIRROR_ACK of a step that a mirror waits for. -/
def State.mirrorAnswer (s : State) (m : PeerMsg) : State :=
  let c := leAt m.body 2 2
  match (s.ctx c).buddy with
  | none => s
  | some b =>
    match b.mirror with
    | .waiting step again _ =>
      if m.src = b.agent ∧ leAt m.body 4 4 = step then
        (if leAt m.body 1 1 = stOk then s.setCtx c { s.ctx c with buddy := some { b with mirror := .none } } else s.mirrorFail c step b again)
      else s
    | _ => s

/-- MIRROR_ACK (R350). -/
def execMirrorAck (m : PeerMsg) (s : State) : Host.Outcome State Fault Refusal :=
  .next (if ! s.accepts m then s.discardPeer m
    else if m.kind = 0x31 then (s.takePeer m).mirrorAnswer m else s)

/-- MIRROR_ACK_TIMEOUT (R350): no answer within HUB_BUDDY_CTRL.TIMEOUT ms; before that, nothing. -/
def execMirrorAckTimeout (ctx : Nat) (s : State) : Host.Outcome State Fault Refusal :=
  .next (match (s.ctx ctx).buddy with
    | none => s
    | some b =>
      match b.mirror with
      | .waiting step again since =>
        if since + msT (max 1 (s.reg Reg.hubBuddyCtrl % 256)) ≤ s.time then s.mirrorFail ctx step b again else s
      | _ => s)

/-! ### Host messages (R333) -/

/-- PEERSEND. -/
def peerSend (c : Cmd) (s : State) : State × Reply :=
  let b := s.bytes (c.a * 4096 + c.imm) 64
  if c.imm % 64 ≠ 0 ∨ leAt b 0 1 < 0x80 then reject s stBadOperand
  else if s.peerFull 3 then reject s stFull
  else (s.sendPeer 3 c.b b, .ok 0)

def specPeersend : CmdSpec := { opc := 0x5B, ctx0 := true, aw := fun _ => 38, bw := fun _ => 16, iw := fun _ => 12, body := peerSend }
def execPeersend (i : Issue) (s : State) : Host.Outcome State Fault Refusal := .next (s.runCmd specPeersend i)

/-- CONS of the peer receive ring. -/
def State.rxCons (s : State) : Nat := s.reg Reg.hubPeerRxPtr % 2 ^ 16

/-- Entries of the peer receive ring that wait to be read. -/
def State.rxUsed (s : State) : Nat := (s.peer.prod + 2 ^ 16 - s.rxCons) % 2 ^ 16

/-- A host message is written to the ring, or waits at the port while the ring is full. -/
def State.rxTake (s : State) (m : PeerMsg) : State :=
  if 256 ≤ s.rxUsed then { s with peer := { s.peer with rxWait := s.peer.rxWait ++ [m] } }
  else
    let s1 := s.writeZ (s.reg Reg.hubPeerRxBase * 64 * 4096 + 64 * (s.peer.prod % 256)) (slice (m.body ++ zeros 64) 0 64) .peerRx
    ({ s1 with peer := { s1.peer with prod := (s1.peer.prod + 1) % 2 ^ 16 } } : State).takePeer m

/-- HOST_MESSAGE (R333). -/
def execHostMessage (m : PeerMsg) (s : State) : Host.Outcome State Fault Refusal :=
  .next (if ! s.accepts m then s.discardPeer m
    else if m.cls = 3 then s.rxTake m else s)

/-- The messages that wait at the port, in order. -/
def State.rxDrain (s : State) : List PeerMsg → State
  | [] => s
  | m :: t => (s.rxTake m).rxDrain t

/-- A write of HUB_PEER_RX_PTR.CONS; a value beyond PROD is ignored (R356). -/
def State.writeCons (s : State) (v : Nat) : State :=
  if s.rxUsed < (v % 2 ^ 16 + 2 ^ 16 - s.rxCons) % 2 ^ 16 then s
  else
    let s1 := s.setReg Reg.hubPeerRxPtr (v % 2 ^ 16)
    ({ s1 with peer := { s1.peer with rxWait := [] } } : State).rxDrain s1.peer.rxWait

/-- HUB_PEER_RX_CONS_WRITE (R333). -/
def execHubPeerRxConsWrite (src : Src) (val : Nat) (s : State) : Host.Outcome State Fault Refusal :=
  .next (s.writeAccess src Reg.hubPeerRxPtr (fun q => q.writeCons val))

end Sys2Proof.Machine
end

