-- ==== Sys2Proof/Machine/Commit.lean ====
section
/-! DEFINITION. The commit gate (R179, R233, R234, R236, R319, R320) and provenance (R324 to R326). -/

namespace Sys2Proof.Machine

/-! ### The commit condition (R233) -/

/-- Whether a FAILED op is excused: the gradient phase of a NULLED step. -/
def Slot.excused (sl : Slot) (q : Nat) : Bool := sl.nulled && decide (q < sl.u)

/-- Whether an OPSEQ meets the condition; `hold` lets an op wait for its routing op alone. -/
def Slot.opOk (sl : Slot) (hold : Bool) (q : Nat) : Bool :=
  match sl.op q with
  | none => false
  | some o =>
    (o.st == .clear && ! o.notAccepted) || (o.st == .failed && sl.excused q) ||
      (hold && { o with routeHold := false }.clearable && o.routeHold)

/-- The routing ops of a step. -/
def State.stepRoutes (s : State) (c gen step : Nat) : List RouteEnt := s.routes.filter (fun r => r.is c gen step r.route)

/-- R233 apart from routing ops, pairs and provenance; `hold` as in `opOk`. -/
def State.commitBase (s : State) (c k : Nat) (hold : Bool) : Bool :=
  let e := s.ctx c
  let sl := e.slot k
  e.st == .live && sl.st == .ended && (List.range sl.n).all (sl.opOk hold) &&
    sl.buckets.all (fun p => ! p.2.named || p.2.released || p.2.nulled) && sl.ops.all (fun o => o.samples == 0) &&
    sl.step == (e.committed + 1) % 2 ^ 32

/-- Whether every routing op of the step has closed with Pass, or is excused. -/
def State.routesOk (s : State) (c k : Nat) : Bool :=
  let sl := s.slot c k
  (s.stepRoutes c (s.ctx c).gen sl.step).all (fun r => (r.closed && r.passed) || r.members.all (fun m => sl.excused m.opseq))

/-- R233 but for pairs and provenance. -/
def State.commitReady (s : State) (c k : Nat) : Bool := s.commitBase c k false && s.routesOk c k

/-- R320: every group of the step compared equal, and the partner's PAIR_STEP equal. -/
def State.pairOk (s : State) (c k : Nat) : Bool :=
  let sl := s.slot c k
  (s.pairing c).isNone || (sl.stepOk && (List.range ((sl.n + 5) / 6)).all sl.grpOk.contains)

/-- The routing ops of a step still open when it is evaluated for commit fail as INCOMPLETE (R179). -/
def State.evalRoutes (s : State) (c k : Nat) : State :=
  if s.commitBase c k true then
    s.routesIncomplete ((s.stepRoutes c (s.ctx c).gen (s.slot c k).step).filter (fun r => ! r.closed))
  else s

/-- PAIR_STEP is sent once, when R233 holds apart from the pair conditions (R319). -/
def State.sendStep (s : State) (c k : Nat) : State :=
  match s.pairing c with
  | none => s
  | some p =>
    let sl := s.slot c k
    if sl.stepSent then s
    else
      ((s.setSlot c k { sl with stepSent := true, sentAt := sl.sentAt ++ [(stepMark, s.time)] }).sendPeer 1 p.partner
        (pairBody 0x21 0 c sl.step sl.n (b2n sl.nulled) [])).pairFlush c k

/-! ### Scale Keeper updates (R236) -/

/-- The update of an entry at the commit of step `t` with pending maximum `pm`; updated and clamped counts of R242. -/
def SckEntry.commit (e : SckEntry) (t pm : Nat) : SckEntry :=
  let e1 := { e with pending := setAt e.pending (t % 4) 0 }
  let prev := (e.scales[(t + 3) % 4]?).getD 0
  if pm = 0x7F800000 then { e1 with countInf := min (2 ^ 32 - 1) (e.countInf + 1), scales := setAt e.scales (t % 4) prev }
  else
    let h := if 0 < pm then pm :: e.hist.take 15 else e.hist
    let amax := h.foldl max 0
    if amax = 0 then { e1 with hist := h, scales := setAt e.scales (t % 4) prev }
    else
      let x := scaleFor (fmtD e.fmt) e.margin amax
      let y := max (-127) (min 127 x)
      { e1 with hist := h, scales := setAt e.scales (t % 4) y, countClamp := if x = y then e.countClamp else min (2 ^ 32 - 1) (e.countClamp + 1) }

/-- Every entry bound to the context is updated. -/
def State.commitScales (s : State) (c t : Nat) (nulled : Bool) : List (Nat × SckEntry) → State
  | [] => s
  | p :: rest =>
    let s1 := if p.2.bound && p.2.ctx == c then
        let e := p.2.commit t (if nulled then 0 else (p.2.pending[t % 4]?).getD 0)
        ((((s.setSck p.1 e).count Reg.sckCntUpdates).countN Reg.sckCntInf (e.countInf - p.2.countInf)).countN Reg.sckCntClamp
          (e.countClamp - p.2.countClamp))
      else s
    s1.commitScales c t nulled rest

/-! ### Provenance (R324 to R326) -/

/-- The element of one block of the input seal stream. -/
def InBlock.element (b : InBlock) (sealed : Bool) : Bytes :=
  (if sealed then slice (b.sha ++ zeros 48) 0 48 else toLe 4 b.crc) ++ toLe 1 b.fmt ++ toLe 1 (b2n b.poison) ++ zeros 2

/-- The stream of one op: each region in turn, and its blocks by offset. -/
def OpRec.stream (o : OpRec) (sealed : Bool) : Bytes :=
  [(0, o.lay.a), (1, o.lay.b), (2, o.lay.c)].flatMap (fun r => (List.range r.2.blocks).flatMap (fun off =>
    match o.inBlocks.find? (fun b => b.region == r.1 && b.off == off) with
    | some b => b.element sealed
    | none => []))

/-- The digest of the recipe that an op names (R97): none for a route op, for a slot that holds no image, and for a record that no report
filled. -/
def State.namedDigest (s : State) (c : Nat) (o : OpRec) : Option Bytes :=
  let d := (s.rcp o.d.slot).digest
  if o.d.isRoute || d.isEmpty || o.d.ctx != c then none else some d

/-- Recipe digests, each once, in the order of the lowest OPSEQ that names each. -/
def State.stepRecipes (s : State) (c : Nat) (sl : Slot) : List Bytes :=
  ((List.range sl.n).filterMap (fun q => (sl.op q).bind (s.namedDigest c))).eraseDups

/-- The step's provenance digest and the digest of its input seal stream. -/
def State.stepDigest (s : State) (c k : Nat) : Bytes × Bytes :=
  let e := s.ctx c
  let sl := e.slot k
  let inputs := sha384 ((List.range sl.n).flatMap (fun q => ((sl.op q).map (fun o => o.stream (sl.provMode == 2))).getD []))
  (sha384 ([0x5A, 0x56, 0x50, 0x56] ++ e.prev ++ toLe 4 sl.step ++ slice (sl.prog ++ zeros 48) 0 48 ++ e.wman ++ (s.stepRecipes c sl).flatten ++ inputs),
   inputs)

/-- PROVENANCE_DIGEST_DONE (R325): the digest of an ENDED step whose commit waits for it alone is complete. -/
def execProvenanceDigestDone (ctx slot : Nat) (s : State) : Host.Outcome State Fault Refusal :=
  .next (let sl := s.slot ctx slot
    if s.commitReady ctx slot && sl.provMode != 0 && sl.provDigest.isNone then
      s.setSlot ctx slot { sl with provDigest := some (s.stepDigest ctx slot) }
    else s)

/-- R326: the record of a commit, and the context's previous digest. -/
def State.provRecord (s : State) (c : Nat) (sl : Slot) : State :=
  match sl.provDigest with
  | none => s
  | some (d, i) =>
    let n := 2048 * (s.reg Reg.hubProvSize % 2 ^ 16)
    let b := toLe 4 sl.step ++ toLe 2 c ++ toLe 1 sl.provMode ++ toLe 1 (b2n sl.nulled) ++ toLe 8 s.time ++ d ++ i ++ zeros 16
    let s1 := s.writeZ (s.reg Reg.hubProvBase * 64 * 4096 + 128 * (s.provNext % n)) b .provenance
    (({ s1 with provNext := s1.provNext + 1 } : State).count Reg.hubCntProvRecords).setCtx c { s1.ctx c with prev := d }

/-! ### The grant (R234, R238, R314, R348) -/

/-- The commit of the step in slot `k`. -/
def State.commit (s : State) (c k : Nat) : State :=
  let sl := s.slot c k
  let s1 := (s.gate c gkCommit 0 0 sl.step 0 sl.n).commitScales c sl.step sl.nulled s.sck
  let s2 := s1.provRecord c sl
  let e := s2.ctx c
  let s3 := s2.setCtx c { e with committed := sl.step, slots := setAt e.slots k {}, stats := sl.stats s.time false, stood := s2.boundScales c }
  let s4 : State := { s3 with
    routes := s3.routes.filter (fun r => ! r.is c e.gen sl.step r.route)
    pairings := s3.pairings.map (fun p => if p.ctx == c then { p with held := p.held.filter (fun m => m.step != sl.step) } else p)
    trv := { s3.trv with heldDue := s3.trv.held.isSome } }
  (((s4.endsStep.noteStep c sl.step true).count Reg.lidCntCommitted).rebound).startMirror c sl.step

/-- COMMIT_GRANT (R234): the step is evaluated for commit, and granted once every condition holds. -/
def State.grant (s : State) (c k : Nat) : State :=
  let s1 := s.evalRoutes c k
  if ! s1.commitReady c k then s1
  else if (s1.slot c k).provMode != 0 && (s1.slot c k).provDigest.isNone then s1
  else
    let s2 := s1.sendStep c k
    if s2.commitReady c k && s2.pairOk c k then s2.commit c k else s2
def execCommitGrant (ctx slot : Nat) (s : State) : Host.Outcome State Fault Refusal := .next (s.grant ctx slot)

end Sys2Proof.Machine
end

