-- ==== Sys2Proof/Machine/FieldTest.lean ====
section
/-! DEFINITION. Field tests, the suspect table's commands, quarantine and the tile map (13_field_test_and_quarantine, R269). -/

namespace Sys2Proof.Machine

/-! ### Test content (R358 to R361) -/

/-- The active content. -/
def State.content (s : State) : Content := (s.banks[s.bank]?).getD {}

/-- The block number of a content bank (R361). -/
def State.bankBlk (s : State) (b : Nat) : Nat := s.reg Reg.hubTcBase * 64 + b * 1024

/-- A test entry of R359 at image offset `o`. -/
def testAt (img : Bytes) (o : Nat) : TestEnt :=
  { id := leAt img o 2, cls := leAt img (o + 2) 1, ops := leAt img (o + 3) 1, plan := leAt img (o + 4) 4, cycles := leAt img (o + 8) 4,
    energy := leAt img (o + 12) 2, vecOff := leAt img (o + 16) 4, vecLen := leAt img (o + 20) 4, recipe := slice img (o + 0x30) 48 }

/-- Row 7 of R360 for one entry: its ranges and zero fields, and its vectors inside the body behind the entries. -/
def testOk (img : Bytes) (tests o : Nat) : Bool :=
  let e := testAt img o
  decide (1 ≤ e.cls) && decide (1 ≤ e.ops) && decide (e.ops ≤ 64) && decide (1 ≤ e.cycles) && decide (e.cycles ≤ 4096) &&
    leAt img (o + 14) 2 == 0 && leAt img (o + 0x18) 24 == 0 && leAt img (o + 0x60) 32 == 0 && decide (e.vecOff % 64 = 0) &&
    decide (128 * tests ≤ e.vecOff) && decide (0x160 + e.vecOff + e.vecLen ≤ img.length)

/-- The five entries of MODEL. -/
def contentModel (img : Bytes) : List Model :=
  (List.range 5).map (fun k => { u := leAt img (0xA0 + 16 * k) 8, v := leAt img (0xA8 + 16 * k) 4 * 2 ^ 32, f := leAt img (0xAC + 16 * k) 2 })

/-- The places of the test entries. -/
def testPlaces (tests : Nat) : List Nat := (List.range tests).map (fun i => 0x160 + 128 * i)

/-- What an image holds. -/
def contentOf (img : Bytes) : Content :=
  { version := leAt img 6 2, tests := (testPlaces (leAt img 8 2)).map (testAt img), model := contentModel img }

/-- Rows 2 to 8 of R360: the status of the first failure, or OK. -/
def State.checkContent (s : State) (img : Bytes) : Nat :=
  let tests := leAt img 8 2
  let key := slice img 0x40 96
  let zero := leAt img 10 2 == 0 && leAt img 0xF0 16 == 0 && (List.range 5).all (fun k => leAt img (0xAE + 16 * k) 2 == 0)
  if leAt img 0 4 ≠ 0x5A544354 ∨ leAt img 12 4 ≠ img.length ∨ img.length < 1024 ∨ 4194304 < img.length ∨ img.length % 16 ≠ 0 ∨ tests = 0 ∨
      4096 < tests ∨ zero = false then stBadOperand
  else if sha384 key ≠ Config.contentKey ∧ sha384 key ≠ s.fleetHash then stSignatureInvalid
  else if ! ecdsaVerify key (slice img 0x100 96) (slice img 0 0x100) then stSignatureInvalid
  else if sha384 (img.drop 0x160) ≠ slice img 0x10 48 then stDigestMismatch
  else if ! versionOk (leAt img 4 2) then stVersionMismatch
  else if img.length < 0x160 + 128 * tests ∨ (testPlaces tests).all (testOk img tests) = false ∨
      ((contentOf img).tests.map TestEnt.id).Nodup = false then stBadOperand
  else if leAt img 6 2 ≤ s.content.version then stIllegalState
  else stOk

/-- TCLOAD (R360): row 1 at service. -/
def loadContent (c : Cmd) (s : State) : State × Reply :=
  if s.tcLoad.isSome then reject s stBusy
  else (({ s with tcLoad := some { blk := c.a, len := c.b, ticket := c.tk } } : State).request .read c.a 0 64 .content, .later stPending)

def specTcload : CmdSpec :=
  { opc := 0x61, ctx0 := true, rd := true, early := true, aw := fun _ => 38, bw := fun _ => 64, body := loadContent }
def execTcload (i : Issue) (s : State) : Host.Outcome State Fault Refusal := .next (s.runCmd specTcload i)

/-- KTL_STATUS.REFUSED (R297). -/
def State.versionRefused (s : State) (st : Nat) : State := if st = stVersionMismatch then s.setBits Reg.ktlStatus (2 ^ 15) else s

/-- A load ends with a status; a refusal leaves the active content in use. -/
def State.endTcload (s : State) (l : TcLoad) (st : Nat) : State :=
  let s1 : State := { s.retire (fun a => a == .content) with tcLoad := none }
  let s2 := if st = stOk then s1.count Reg.hubCntTcLoaded else (s1.count Reg.hubCntTcRefused).versionRefused st
  s2.complete l.ticket st 0 true

/-- TCLOAD_DONE (R360, R361): the image is checked; a passing one is sealed into the bank that is not active. -/
def execTcloadDone (s : State) : Host.Outcome State Fault Refusal :=
  .next (match s.tcLoad with
    | none => s
    | some l =>
      if s.bothStalled then (s.count Reg.hubCntMemTimeout).endTcload l stTimeout
      else
      let img := s.bytes (l.blk * 4096) (min l.len (4194304 + 16))
      let st := s.checkContent img
      let b := 1 - s.bank
      let s1 : State := if st = stOk then
          { s.storeCopy (s.bankBlk b) img (ceilDiv l.len 4096) with banks := setAt s.banks b (contentOf img), tcReady := true }
        else s
      s1.endTcload l st)

/-- Kettle 1 writes the model entries of the content, through its own copy of HUB_SIEVE_MODEL_SEL (R361, R500). -/
def State.writeModels (s : State) (k : Nat) : List Model → State
  | [] => s
  | m :: t => ((s.setModel k m).setBanked (.core 1) .modelSel k).writeModels (k + 1) t

/-- TC_BANK_SWITCH (R361): the loaded bank becomes active while no Whisk run is in progress. -/
def execTcBankSwitch (s : State) : Host.Outcome State Fault Refusal :=
  .next (if s.tcReady && s.whisk.isEmpty then
      let s1 : State := { s with bank := 1 - s.bank, tcReady := false }
      s1.writeModels 1 s1.content.model
    else s)

/-! ### The tile map (R373 to R376) -/

def State.tileState (s : State) (p : Nat) : TileState := Tab.get .absent s.tileStates p
def State.setTileState (s : State) (p : Nat) (v : TileState) : State := { s with tileStates := Tab.set .absent s.tileStates p v }

def TileState.code : TileState → Nat
  | .mapped => 0
  | .spare => 1
  | .pending => 2
  | .quarantined => 3
  | .fuseBad => 4
  | .testBad => 5
  | .absent => 6

/-- Tiles in PENDING. -/
def State.pendingTiles (s : State) : Nat := (s.tileStates.filter (fun p => p.2 == .pending)).length

/-- The record of TILEMAP (R376). -/
def State.mapRecord (s : State) : Bytes :=
  toLe 1 s.cfg.ladles ++ toLe 1 s.tileMap.length ++ toLe 1 s.pendingTiles ++ zeros 13
    ++ (List.range 128).map (fun l => BitVec.ofNat 8 ((lookup s.tileMap l).getD 0xFF))
    ++ (List.range 128).map (fun p => BitVec.ofNat 8 (s.tileState p).code)

/-- TILEMAP. -/
def readMap (c : Cmd) (s : State) : State × Reply := (s, c.record s.mapRecord)

def specTilemap : CmdSpec := { opc := 0x64, query := true, iw := fun _ => 12, body := readMap }
def execTilemap (i : Issue) (s : State) : Host.Outcome State Fault Refusal := .next (s.runCmd specTilemap i)

/-- The unit entries of tile `p` and of its Ladle become QUARANTINED (R371). -/
def State.quarantineUnits (s : State) (p : Nat) : State :=
  let s1 := s.setSusp (unitTile p) { s.suspEnt (unitTile p) with st := .quarantined }
  s1.setSusp (unitLadle p) { s1.suspEnt (unitLadle p) with st := .quarantined }

/-- An entry of the defect list. -/
def State.defect (s : State) (p : Nat) : Defect := Tab.get {} s.bring.defects p

/-- Names or clears a tile in the defect list with an origin, and asks for its rewrite (R492). -/
def State.setOrigin (s : State) (p origin : Nat) : State :=
  { s with bring := { s.bring with defects := Tab.set {} s.bring.defects p { s.defect p with origin := origin }, rewrite := true } }

/-- QUARANT (R373). -/
def quarantine (c : Cmd) (s : State) : State × Reply :=
  if s.cfg.ladles ≤ c.a then reject s stBadOperand
  else
    match s.tileState c.a with
    | .spare => (((((s.setTileState c.a .quarantined).quarantineUnits c.a).setOrigin c.a 2).count Reg.hubCntQuar), .ok 0)
    | .mapped =>
      ((({ s with pendingOrder := s.pendingOrder ++ [c.a] } : State).setTileState c.a .pending).setOrigin c.a 2 |>.count Reg.hubCntQuar, .ok 0)
    | _ => reject s stIllegalState

def specQuarant : CmdSpec := { opc := 0x63, ctx0 := true, aw := fun _ => 7, body := quarantine }
def execQuarant (i : Issue) (s : State) : Host.Outcome State Fault Refusal := .next (s.runCmd specQuarant i)

/-! ### The suspect table (R372) -/

def SuspState.code : SuspState → Nat
  | .free => 0
  | .clear => 1
  | .watch => 2
  | .quarReq => 3
  | .quarantined => 4

/-- The record of SUSPREAD. -/
def Susp.record (e : Susp) : Bytes :=
  toLe 2 e.unit ++ toLe 1 e.kind ++ toLe 1 e.st.code ++ toLe 2 e.sig ++ toLe 2 e.score ++ toLe 4 e.count ++ toLe 2 e.passes ++ zeros 2
    ++ toLe 8 e.first ++ toLe 8 e.last

/-- A clear of an entry: a unit entry returns to CLEAR unless it is QUARANTINED, a detail entry becomes FREE (R371, R372). -/
def State.clearSusp (s : State) (e : Nat) : State :=
  let v := s.suspEnt e
  if 0x200 ≤ e then s.setSusp e {}
  else if v.st == .quarantined then s
  else s.setSusp e { v with st := .clear, score := 0, count := 0, passes := 0 }

/-- SUSPREAD. -/
def readSusp (c : Cmd) (s : State) : State × Reply :=
  if c.recOk 32 = false ∨ (0x104 ≤ c.a ∧ c.a < 0x200) then reject s stBadOperand
  else (if c.mod = 1 then s.clearSusp c.a else s, .rec_ (s.suspEnt c.a).record)

def specSuspread : CmdSpec :=
  { opc := 0x62, ctx0 := true, query := true, clears := true, mods := [0, 1], aw := fun _ => 12, iw := fun _ => 12, body := readSusp }
def execSuspread (i : Issue) (s : State) : Host.Outcome State Fault Refusal := .next (s.runCmd specSuspread i)

/-! ### Whisk runs (R362 to R366, R269) -/

/-- A zone is at or above WARN. -/
def State.anyWarm (s : State) : Bool := s.trv.zones.any (fun p => p.2.st != .normal)

/-- A test of the active content by its identifier. -/
def State.testEnt (s : State) (id : Nat) : Option TestEnt := s.content.tests.find? (fun t => t.id == id)

/-- LDL_TAP_PLAN of a physical tile. -/
def State.planOf (s : State) (p : Nat) : Nat := Tab.get 0 s.cfg.tapPlan p

/-- An ACTIVE recipe slot holds a digest. -/
def State.recipeActive (s : State) (d : Bytes) : Bool := s.rcps.any (fun p => p.2.st == .active && p.2.digest == d)

/-- Whether a tile is mapped to a logical tile. -/
def State.isMapped (s : State) (p : Nat) : Bool := s.tileMap.any (fun x => x.2 == p)

/-- R363: a mapped tile's queue-empty level has been high for IDLE_MIN reference cycles; a spare needs no such level. -/
def State.idleOk (s : State) (p cycles : Nat) : Bool := ! s.isMapped p || decide (s.reg Reg.hubWhiskCtrl % 2 ^ 16 ≤ cycles)

/-- The conditions of R363 that the state decides; the queue-empty level of the health port is the command's own. -/
def State.mayStart (s : State) (w : WhiskRun) : Bool :=
  s.bit Reg.hubWhiskCtrl 31 && s.whisk.isEmpty && ! s.anyWarm && s.tileRuns w.tile && (s.ladle w.tile).open_ == 0 &&
    (w.tap || ((s.testEnt w.test).map (fun t => s.recipeActive t.recipe)).getD false)

/-- The blocks of the active bank that hold a test's vectors. -/
def State.vectorBlks (s : State) (t : TestEnt) : Nat × Nat :=
  let a := 0x160 + t.vecOff
  (s.bankBlk s.bank + a / 4096, ceilDiv (a % 4096 + t.vecLen) 4096)

/-- A start-up test's failure of a tile (R489). -/
def State.startupFail (s : State) (p cause : Nat) : State :=
  let b : TileTest := Tab.get {} s.bring.tiles p
  { s with bring := { s.bring with tiles := Tab.set {} s.bring.tiles p { b with failed := b.failed.or (some cause) } } }

/-- A run ends with a final status and result, without an outcome. -/
def State.whiskStop (s : State) (w : WhiskRun) (st res : Nat) : State :=
  let s1 : State := { s with whisk := s.whisk.filter (fun x => x.id != w.id), whiskQ := s.whiskQ.filter (fun x => x.id != w.id) }
  (s1.retire (fun a => a == .bank w.tile)).completeOpt w.ticket st res false

/-- The closure value of a region that the Whisk injects (R111, R362). -/
def Elems.closure (e : Elems) : Nat := addM (closureRun 0 e.codes) (closureRun e.codes.length e.scales)

/-- One op's vector at offset `off` (R359): the descriptor, the operands, each region from a 16-byte boundary after the one before, and the
expectation on the next (log entry 113); with the offset of the next vector. -/
def State.vecAt (s : State) (b : Bytes) (off : Nat) : WVec × Nat :=
  let desc := leAt b off 64
  let d := Desc.ofWord desc
  let sh := (s.shadow d.slot).bind (fun r => shapesOf r.sections d.sec d.entry d.dimM d.dimN)
  let inp := match sh with
    | some h => katInputs { sec := 0, entry := 0, dir := 0, flags := 0, scaleA := 0, scaleB := 0, scaleOut := 0, cols := 0, inp := b.drop (off + 64), out := [] } h
    | none => ⟨Elems.none, Elems.none, Elems.none⟩
  let e := off + 64 + (match sh with
    | some h => up16 (katInLen h)
    | none => 0)
  ({ desc := desc, closA := inp.a.closure, closB := inp.b.closure, closC := inp.c.closure, crc := leAt b e 4, flags := leAt b (e + 4) 1 }, e + 16)

/-- The vectors of `n` ops from an offset on. -/
def State.vecsFrom (s : State) (b : Bytes) : Nat → Nat → List WVec
  | 0, _ => []
  | n + 1, off => (s.vecAt b off).1 :: s.vecsFrom b n (s.vecAt b off).2

/-- The vectors of a test as the active bank holds them. -/
def State.vecsOf (s : State) (t : TestEnt) : List WVec :=
  s.vecsFrom (s.bytes (s.bankBlk s.bank * 4096 + 0x160 + t.vecOff) t.vecLen) t.ops 0

/-- Changes a run in progress. -/
def State.mapRun (s : State) (id : Nat) (f : WhiskRun → WhiskRun) : State :=
  { s with whisk := s.whisk.map (fun w => if w.id == id then f w else w) }

/-- A run starts: zv_wsk_busy rises, and the vectors are fetched and verified under R167 (R361). A failed fetch stays with the run until it
ends (R366). -/
def State.whiskStart (s : State) (w : WhiskRun) : State :=
  let s1 : State := { s with whiskQ := s.whiskQ.filter (fun x => x.id != w.id), whisk := s.whisk ++ [{ w with res := [], failed := none }] }
  match (if w.tap then none else s1.testEnt w.test) with
  | none => s1
  | some t =>
    let v := s1.vectorBlks t
    let s3 := s1.request .read v.1 0 64 (.bank w.tile)
    if s.bothStalled then s3.mapRun w.id (fun x => { x with failed := some stTimeout })
    else
    match s3.badRun 0 0x3E v.1 v.2 with
    | (s4, none) => (s4.mapRun w.id (fun x => { x with vecs := s4.vecsOf t })).emits ((s4.vecsOf t).map (fun q => .whiskDesc w.tile q.desc))
    | (s4, some (b, k)) =>
      (s4.startConfirm b false 0 0x3E { tile := w.tile, kind := k, bcv := s4.sbOf b, lid := false }).mapRun w.id
        (fun x => { x with failed := some stSealFail })

/-- A queued run that starts before another one: accepted earlier, on a spare, and ready. -/
def State.before (s : State) (w : WhiskRun) : Bool :=
  s.whiskQ.any (fun x => decide (x.id < w.id) && ! s.isMapped x.tile && s.mayStart x)

/-- A request joins the queue, at once in progress where R363 lets it start; `idle` says that the tile's queue-empty level lets it. -/
def State.queueRun (s : State) (w : WhiskRun) (idle : Bool) : State × Nat :=
  let w1 := { w with id := s.nextWhisk, accepted := s.time }
  let s1 : State := { s with nextWhisk := s.nextWhisk + 1, whiskQ := s.whiskQ ++ [w1] }
  if idle && s1.mayStart w1 && ! s1.before w1 then (s1.whiskStart w1, stPending) else (s1, stDeferred)

/-- Whether the queue-empty level of a tile lets a run start as a command is served: for a mapped tile the level is an input, of which the
command carries nothing, so that the cycles for which it has been high are a free value. -/
def State.idleLevel (s : State) (p : Nat) : State × Bool :=
  if s.isMapped p then (s.took 1, s.idleOk p (s.freeNat % 2 ^ 32)) else (s, true)

/-- A run for a tile is queued or in progress. -/
def State.hasRun (s : State) (p : Nat) (f : WhiskRun → Bool) : Bool := (s.whiskQ ++ s.whisk).any (fun w => w.tile == p && f w)

/-- WHISKRUN (R365). -/
def runWhisk (c : Cmd) (s : State) : State × Reply :=
  let t := s.testEnt c.imm
  if s.cfg.ladles ≤ c.a ∨ (t.map TestEnt.plan) ≠ some (s.planOf c.a) then reject s stBadOperand
  else if s.tileState c.a = .fuseBad ∨ s.tileState c.a = .testBad ∨ s.tileState c.a = .absent then reject s stIllegalState
  else if s.hasRun c.a (fun _ => true) then reject s stBusy
  else if 16 ≤ s.whiskQ.length then reject s stFull
  else
    let l := s.idleLevel c.a
    let q := l.1.queueRun { tile := c.a, test := c.imm, ticket := some c.tk } l.2
    (q.1, .later q.2)

def specWhiskrun : CmdSpec :=
  { opc := 0x60, ctx0 := true, rd := true, aw := fun _ => 7, iw := fun _ => 16, safe := fun _ => true, body := runWhisk }
def execWhiskrun (i : Issue) (s : State) : Host.Outcome State Fault Refusal := .next (s.runCmd specWhiskrun i)

/-- TAPTEST (R269): Kettle 1 schedules a run of the tile's known-answer content. -/
def tapTest (c : Cmd) (s : State) : State × Reply :=
  match s.physOf c.a with
  | none => reject s stBadOperand
  | some p =>
    if s.hasRun p WhiskRun.tap then reject s stBusy
    else if 16 ≤ s.whiskQ.length then reject s stFull
    else
      let l := s.idleLevel p
      let q := l.1.queueRun { tile := p, ticket := some c.tk, tap := true } l.2
      (q.1, .later q.2)

def specTaptest : CmdSpec := { opc := 0x39, ctx0 := true, rd := true, aw := fun _ => 7, safe := fun _ => true, body := tapTest }
def execTaptest (i : Issue) (s : State) : Host.Outcome State Fault Refusal := .next (s.runCmd specTaptest i)

/-- In stage 0x6 (R489): a tile under test takes the test with the next identifier that applies to it. -/
def State.startupNext (s : State) (p : Nat) : Option TestEnt :=
  let b : TileTest := Tab.get {} s.bring.tiles p
  let todo := s.content.tests.filter (fun t => t.plan == s.planOf p && s.recipeActive t.recipe && ! b.passed.contains t.id)
  if s.bring.stage = 6 ∧ b.released ∧ b.failed = none ∧ (s.ladle p).checked = some true ∧ s.whisk.all (fun w => w.tile != p) = true then
    todo.find? (fun t => todo.all (fun u => decide (t.id ≤ u.id)))
  else none

/-- WHISK_RUN_START (R363): the queue-empty level of the tile has been high for a number of reference cycles; in stage 0x6 the next
start-up test of the tile begins (R489). -/
def execWhiskRunStart (tile test idle : Nat) (s : State) : Host.Outcome State Fault Refusal :=
  .next (if s.bring.stage = 6 then
      match s.startupNext tile with
      | some t =>
        if t.id = test then
          ({ s with nextWhisk := s.nextWhisk + 1 } : State).whiskStart { id := s.nextWhisk, tile := tile, test := test, accepted := s.time, startup := true }
        else s
      | none => s
    else
      match s.whiskQ.find? (fun w => w.tile == tile && w.test == test) with
      | none => s
      | some w => if s.mayStart w && s.idleOk tile idle && ! s.before w then s.whiskStart w else s)

/-- The outcome of one op by the first row of R366 that applies: breach of the tap contract, verdict, and whether output and
flags match. -/
def opOutcome (tap pass same : Bool) : Nat :=
  if tap then 4 else if ! same && pass then 2 else if ! same then 1 else if ! pass then 3 else 0

/-- The outcome of a run: that of the first failing op, PASS once every op has run, none before. The comparison of an op with its
expectation is the run's own; for a tap self-test, whose content the spec does not lay out, it comes with the command. -/
def State.outcome (s : State) (w : WhiskRun) (same : List Bool) : Option Nat :=
  let cs := w.res.zipIdx.map (fun p => opOutcome p.1.tap p.1.pass (p.1.same.getD (same.getD p.2 true)))
  match cs.find? (fun c => c != 0) with
  | some c => some c
  | none => if (if w.tap then 1 else ((s.testEnt w.test).map TestEnt.ops).getD 1) ≤ cs.length then some 0 else none

/-- The counters of an outcome. -/
def State.countOutcome (s : State) (o : Nat) : State :=
  let s1 := s.count Reg.hubCntWhiskRuns
  if o = 0 then s1.count Reg.hubCntWhiskPass
  else if o = 3 then s1.count Reg.hubCntWhiskChecker
  else if o = 2 then (s1.count Reg.hubCntWhiskFail).count Reg.hubCntWhiskSilent
  else s1.count Reg.hubCntWhiskFail

/-- The observations of an outcome. -/
def State.observeOutcome (s : State) (p cls o : Nat) : State :=
  if o = 4 then s.observe obTap (unitTile p) 0
  else if o = 2 then s.observe obSilent (unitTile p) cls
  else if o = 1 then s.observe obWhisk (unitTile p) cls
  else if o = 3 then s.observe obWhiskChecker (unitLadle p) 0
  else (s.passUnit (unitTile p)).passUnit (unitLadle p)

/-- A start-up test's outcome on its tile (R489). -/
def State.startupOutcome (s : State) (w : WhiskRun) (o : Nat) : State :=
  let b : TileTest := Tab.get {} s.bring.tiles w.tile
  if o = 0 then { s with bring := { s.bring with tiles := Tab.set {} s.bring.tiles w.tile { b with passed := b.passed ++ [w.test] } } }
  else s.startupFail w.tile o

/-- WHISK_RUN_END (R366): a run whose vectors could not be fetched ends without an outcome, any other with that of its ops. For the ops of a
tap self-test the command says whether their output and flags were right. -/
def execWhiskRunEnd (tile : Nat) (same : List Bool) (s : State) : Host.Outcome State Fault Refusal :=
  .next (match s.whisk.find? (fun w => w.tile == tile) with
    | none => s
    | some w =>
      match w.failed, s.outcome w same with
      | some st, _ => (if w.startup then (s.took 1).startupFail tile (s.freeNat % 256) else s).whiskStop w st 0
      | none, none => s
      | none, some o =>
        let s1 := s.countOutcome o
        let s2 := if w.startup then s1.startupOutcome w o else s1.observeOutcome tile (((s.testEnt w.test).map TestEnt.cls).getD 0) o
        s2.whiskStop w stOk o)

/-- A request's place in the queue: behind those accepted before it. -/
def putBack (w : WhiskRun) : List WhiskRun → List WhiskRun
  | [] => [w]
  | x :: t => if w.id < x.id then w :: x :: t else x :: putBack w t

/-- A run is abandoned, and its request returns to its place in the queue (R364). -/
def State.whiskAbandon (s : State) (p : Nat) : State :=
  match s.whisk.find? (fun w => w.tile == p && ! w.startup) with
  | none => s
  | some w =>
    (({ s with whisk := s.whisk.filter (fun x => x.id != w.id), whiskQ := putBack { w with res := [] } s.whiskQ } : State).retire
      (fun a => a == .bank p)).count Reg.hubCntWhiskAbandoned

/-- WHISK_RUN_ABANDON (R364): the queue-empty level of the tile falls during its run. -/
def execWhiskRunAbandon (tile : Nat) (s : State) : Host.Outcome State Fault Refusal := .next (s.whiskAbandon tile)

/-- WAIT_MAX in units of 10 ns; 0 is read as 1. -/
def State.waitMax (s : State) : Nat := secT (max 1 (fieldOf (s.reg Reg.hubWhiskCtrl) 23 16))

/-- WHISK_RUN_TIMEOUT (R366): a run is not complete WAIT_MAX seconds after its acceptance; before that, nothing. -/
def execWhiskRunTimeout (tile test : Nat) (s : State) : Host.Outcome State Fault Refusal :=
  .next (match (s.whisk ++ s.whiskQ).find? (fun w => w.tile == tile && w.test == test && ! w.startup && decide (w.accepted + s.waitMax ≤ s.time)) with
    | none => s
    | some w => s.whiskStop w stTimeout 0)

/-! ### Kettle 1's schedule (R371) -/

/-- A tile is watched: its entry or its Ladle's is in WATCH or QUAR_REQ. -/
def State.watchedTile (s : State) (p : Nat) : Bool :=
  let hot (u : Nat) : Bool := (s.suspEnt u).st == .watch || (s.suspEnt u).st == .quarReq
  hot (unitTile p) || hot (unitLadle p)

/-- Whether a test matches a detail entry of a tile or of its Ladle (R371, log entry 112): by CLASS where the signature is a CLASS, by the
recipe where it names a recipe slot, any test where it is zero. -/
def State.matchesEntry (s : State) (t : TestEnt) (e : Susp) : Bool :=
  if e.kind = obWhisk ∨ e.kind = obSilent then e.sig == t.cls
  else if e.kind = obEngine ∨ e.kind = obBoth ∨ e.kind = obUnresolved then (s.rcp (e.sig % 2 ^ 8)).digest == t.recipe
  else true

/-- The tests that Kettle 1 may choose for a tile: for a watched one those that match its detail entries, all where none does. -/
def State.candidates (s : State) (p : Nat) : List TestEnt :=
  let ts := s.content.tests.filter (fun t => t.plan == s.planOf p)
  let ms := ts.filter (fun t => s.susp.any (fun x => decide (0x200 ≤ x.1) && x.2.st != .free &&
    (x.2.unit == unitTile p || x.2.unit == unitLadle p) && s.matchesEntry t x.2))
  if s.watchedTile p && ! ms.isEmpty then ms else ts

/-- The test period of a tile. -/
def State.testPeriod (s : State) (p : Nat) : Nat :=
  let r := s.reg Reg.hubWhiskRate
  secT (if s.watchedTile p then r % 2 ^ 16 else r / 2 ^ 16)

/-- One tile of the schedule: when its period has elapsed, Kettle 1 issues WHISKRUN for it with a test of its choice. -/
def State.scheduleTile (s : State) (p : Nat) : State :=
  let ts := s.candidates p
  let st := s.tileState p
  if ts.isEmpty || s.hasRun p (fun _ => true) || decide (16 ≤ s.whiskQ.length) || st == .fuseBad || st == .testBad || st == .absent ||
      decide (s.time < Tab.get 0 s.testedAt p + s.testPeriod p) then s
  else
    let t := (ts[s.freeNat % ts.length]?).getD {}
    let s1 := s.took 1
    let c : Cmd := { a := p, imm := t.id, tk := freeTicket s1.tickets, src := .core 1 }
    let q := (s1.portCmd specWhiskrun c (.kettle 1) (srcCore 1) 0 0).1
    { q with testedAt := Tab.set 0 q.testedAt p s.time }

/-- Each tile of a list. -/
def State.scheduleTiles (s : State) : List Nat → State
  | [] => s
  | p :: t => (s.scheduleTile p).scheduleTiles t

/-- WHISK_SCHEDULE (R371). -/
def execWhiskSchedule (s : State) : Host.Outcome State Fault Refusal :=
  .next (if s.coreUp 1 then s.scheduleTiles (List.range s.cfg.ladles) else s)

/-! ### Substitution (R374, R375) -/

/-- The lowest eligible spare of a PENDING tile. -/
def State.spareFor (s : State) (p : Nat) : Option Nat :=
  ((List.range 8).map (fun i => p / 8 * 8 + i)).find? (fun q => decide (q < s.cfg.ladles) && s.tileState q == .spare && s.planOf q == s.planOf p &&
    (s.suspEnt (unitTile q)).st == .clear && (s.suspEnt (unitLadle q)).st == .clear)

/-- Logical tile `l` maps to spare `q`, and `p` becomes QUARANTINED. -/
def State.substitute (s : State) (l p q : Nat) : State :=
  let s1 := (((s.whiskAbandon q).setTileState p .quarantined).setTileState q .mapped).quarantineUnits p
  ({ s1 with pendingOrder := s1.pendingOrder.filter (· != p), tileMap := Tab.place s1.tileMap l q, tmapSeq := (s1.tmapSeq + 1) % 256, quarLast := l * 2 ^ 16 + p * 2 ^ 8 + q } : State).count Reg.hubCntSubst

/-- The spare that a PENDING tile takes (R374): at a boundary, with its queue-empty level among those that are high, and outside a reset of
its domain (R411). -/
def State.spareNow (s : State) (empty : List Nat) (p : Nat) : Option Nat :=
  if s.tileState p == .pending && s.boundary p && empty.contains p && ! s.rsts.any (fun r => r.active && r.tiles.contains p) then s.spareFor p
  else none

/-- R375: a PENDING tile whose QUARANT was served earlier takes the same spare. -/
def State.outranked (s : State) (empty : List Nat) (p q : Nat) : Bool :=
  (s.pendingOrder.takeWhile (· != p)).any (fun x => s.spareNow empty x == some q)

/-- TILE_SUBSTITUTION (R374): the logical tile moves to a spare; `empty` holds the physical tiles whose queue-empty level is high. -/
def execTileSubstitution (logical : Nat) (empty : List Nat) (s : State) : Host.Outcome State Fault Refusal :=
  .next (match s.physOf logical with
    | none => s
    | some p =>
      match s.spareNow empty p with
      | none => s
      | some q => if s.outranked empty p q then s else s.substitute logical p q)

end Sys2Proof.Machine
end

