-- ==== Sys2Proof/Machine/Trivet.lean ====
section
/-! DEFINITION. Trivet (16_thermal_and_power): sensors, zones, throttling, regulators, the hard trip, curves, the budget, and
the policy changes that Fixed mode holds (R314). -/

namespace Sys2Proof.Machine

/-! ### Straps (R436, R473) -/

/-- A strap above its range is used as the range maximum. -/
def State.hardLogic (s : State) : Nat := min 150 s.cfg.hardLogic
def State.hardMem (s : State) : Nat := min 120 s.cfg.hardMem
def State.riseMax (s : State) : Nat := min 255 s.cfg.riseMax
def State.powerMax (s : State) : Nat := min 255 s.cfg.powerMax
def State.memFirst (s : State) : Nat := min 256 s.cfg.memFirst

/-! ### Zones of the active curve (R425, R428, R439) -/

def State.zone (s : State) (z : Nat) : Zone := Tab.get {} s.trv.zones z
def State.setZone (s : State) (z : Nat) (v : Zone) : State := { s with trv := { s.trv with zones := Tab.set {} s.trv.zones z v } }
def State.sensor (s : State) (i : Nat) : Sensor := Tab.get {} s.trv.sensors i
def State.setSensor (s : State) (i : Nat) (v : Sensor) : State := { s with trv := { s.trv with sensors := Tab.set {} s.trv.sensors i v } }
def State.zoneDef (s : State) (z : Nat) : ZoneDef := (s.trv.curve.zones[z]?).getD { mem := false, mask := 0 }
def State.zoneCount (s : State) : Nat := s.trv.curve.zones.length

/-- The zone of a sensor. -/
def Curve.zoneOf (c : Curve) (i : Nat) : Option Nat :=
  if c.builtin then some 0
  else
    match c.sensorZone[i]? with
    | some z => if z < c.zones.length then some z else none
    | none => none

/-- The sensors of a zone. -/
def State.zoneSensors (s : State) (z : Nat) : List Sensor :=
  ((List.range (min 256 s.cfg.sensors)).filter (fun i => s.trv.curve.zoneOf i == some z)).map s.sensor

/-- The default thresholds, each lowered where needed to meet R429. -/
def State.thrDefault (s : State) : ZoneThr :=
  let sd := min 115 (s.hardLogic - 5)
  let th := min 105 (sd - 1)
  { warn := min 95 (th - 1), throttle := th, shutdown := sd, hyst := 3, rise := min 48 s.riseMax }

/-- The thresholds of a zone in force: those of TRVSET, else the defaults. -/
def State.thr (s : State) (z : Nat) : ZoneThr :=
  let t : ZoneThr := Tab.get {} s.trv.thr z
  if t.set then t else s.thrDefault

/-- A sample of a zone: a setting that waits for it takes effect (R429). -/
def State.takeThr (s : State) (z : Nat) : State :=
  let t : ZoneThr := Tab.get {} s.trv.thrNext z
  if t.set then { s with trv := { s.trv with thr := Tab.set {} s.trv.thr z t, thrNext := Tab.set {} s.trv.thrNext z {} } } else s

/-- A power poll: a limit that waits for it takes effect (R429). -/
def State.takeLimit (s : State) : State :=
  match s.trv.limitNext with
  | some l => { s with trv := { s.trv with limit := some l, limitNext := none } }
  | none => s

/-- A whole number of °C as a temperature. -/
def degC (n : Nat) : Int := 16 * n

/-- A zone at or above THROTTLE, or in RISE. -/
def ZoneState.hot : ZoneState → Bool
  | .throttle => true
  | .shutdown => true
  | .rise => true
  | _ => false

def State.anyHot (s : State) : Bool := s.trv.zones.any (fun p => p.2.st.hot)

/-! ### Samples (R425, R427, R469) -/

/-- CRC-8 of polynomial 0x07 over `n` bits of `w` from bit 0. -/
def crc8 (w reg : Nat) : Nat → Nat
  | 0 => reg
  | n + 1 => crc8 (w / 2) ((reg * 2 % 256) ^^^ (if (reg / 128 + w) % 2 = 1 then 7 else 0)) n

/-- VALUE of a word W. -/
def sampleValue (w : Nat) : Int := signedOf 16 (w / 2 ^ 9 % 2 ^ 16)

/-- R427 for the word W of R469. -/
def sampleOk (i w : Nat) : Bool :=
  bitAt w 0 == 1 && w / 2 % 2 ^ 8 == i % 2 ^ 8 && bitAt w 25 == 1 && crc8 (w % 2 ^ 28) 0 28 == w / 2 ^ 28 % 2 ^ 8 &&
    decide (-800 ≤ sampleValue w) && decide (sampleValue w ≤ 3200)

/-- The samples to retain: those of the last 1 ms, and the newest before. -/
def keepSamples (now : Nat) : List (Nat × Int) → List (Nat × Int)
  | [] => []
  | x :: t => if x.1 + msT 1 ≤ now then [x] else x :: keepSamples now t

/-- A sensor takes a valid sample: its rise is against the newest retained sample taken at least 1 ms earlier (R430). -/
def Sensor.take (v : Sensor) (now : Nat) (t : Int) : Sensor :=
  let old := v.hist.find? (fun x => decide (x.1 + msT 1 ≤ now))
  { valid := true, temp := t, hist := (now, t) :: keepSamples now v.hist, rise := (old.map (fun x => (t - x.2) * 200000)).getD 0,
    riseDen := (old.map (fun x => now - x.1)).getD 1, invalid := 0, failed := false }

/-- A sensor has no valid sample in its turn (R427). -/
def State.invalidSample (s : State) (i : Nat) : State :=
  let v := s.sensor i
  let n := v.invalid + 1
  let s1 := s.setSensor i { v with invalid := min 3 n, failed := v.failed || decide (3 ≤ n) }
  if ! v.failed && decide (3 ≤ n) then (s1.setBits Reg.trvStatus 32).count Reg.trvCntSensorFail else s1

/-- R437: the hard trip of a valid sample. -/
def State.hardTrip (s : State) (i : Nat) (t : Int) : State :=
  let mem := decide (s.memFirst ≤ i)
  if t < degC (if mem then s.hardMem else s.hardLogic) then s
  else
    let s1 : State := { s with trv := { s.trv with tripped := true } }
    if s1.bit Reg.trvTripCap 31 then s1
    else
      ((s1.setReg Reg.trvTripCap (2 ^ 31 + (b2n mem) * 2 ^ 25 + i % 2 ^ 9 * 2 ^ 16 + wrapInt 16 t)).setReg Reg.trvTripTimeLo s.time).setReg
        Reg.trvTripTimeHi (s.time / 2 ^ 32)

/-! ### The state of a zone (R427, R428, R430, R432) -/

/-- STEP_US of the curve in units of 10 ns. -/
def State.stepTime (s : State) : Nat := usT s.trv.curve.stepUs

/-- The temperature of a zone: the largest of the latest valid samples of its sensors. -/
def maxTemp : List Sensor → Option Int
  | [] => none
  | v :: t =>
    match maxTemp t with
    | none => if v.valid then some v.temp else none
    | some m => if v.valid then some (max v.temp m) else some m

/-- A valid sensor of a memory-stack zone rises at `m / 2` or more (`strict`: more), in units of 1/32 °C/ms. -/
def risesHalf (vs : List Sensor) (m : Nat) (strict : Bool) : Bool :=
  vs.any (fun v => v.valid && ! v.failed && (if strict then decide ((m : Int) * v.riseDen < 2 * v.rise) else decide ((m : Int) * v.riseDen ≤ 2 * v.rise)))

/-- R428: the state of a logic zone in state `st` at temperature `t`. -/
def ZoneThr.next (h : ZoneThr) (st : ZoneState) (t : Int) : ZoneState :=
  let reached : ZoneState := if degC h.shutdown ≤ t then .shutdown else if degC h.throttle ≤ t then .throttle else if degC h.warn ≤ t then .warn else .normal
  match st with
  | .warn => if t < degC h.warn - degC h.hyst then reached else if reached == .normal then .warn else reached
  | .throttle => if t < degC h.throttle - degC h.hyst then reached else if reached == .shutdown then .shutdown else .throttle
  | .shutdown => if t < degC h.shutdown - degC h.hyst then reached else .shutdown
  | _ => reached

/-- Places of the logic states from NORMAL up. -/
def ZoneState.rank : ZoneState → Nat
  | .normal => 0
  | .warn => 1
  | .throttle => 2
  | .rise => 2
  | .shutdown => 3

/-- One entry into a state: its TRV_STATUS bit and its counter. -/
def State.enterState (s : State) : ZoneState → State
  | .normal => s
  | .warn => (s.setBits Reg.trvStatus 1).count Reg.trvCntWarn
  | .throttle => (s.setBits Reg.trvStatus 2).count Reg.trvCntThrottle
  | .shutdown => (s.setBits Reg.trvStatus 4).count Reg.trvCntShutdown
  | .rise => (s.setBits Reg.trvStatus 8).count Reg.trvCntRise

/-- Each state entered, in order. -/
def State.enterStates (s : State) : List ZoneState → State
  | [] => s
  | x :: t => (s.enterState x).enterStates t

/-- The states that a logic zone enters between two of them: each on the way up, the last on the way down. -/
def entered (old new : ZoneState) : List ZoneState :=
  if new.rank ≤ old.rank then (if new == old then [] else [new])
  else [ZoneState.warn, .throttle, .shutdown].filter (fun x => decide (old.rank < x.rank) && decide (x.rank ≤ new.rank))

/-- A zone holds no valid sensor (R427). -/
def State.blind (s : State) (z : Nat) : Bool := ! (s.zoneSensors z).any (fun x => x.valid && ! x.failed)

/-- The state that a zone is evaluated from. `was` says that it held no valid sensor until now: it leaves SHUTDOWN then (R427). -/
def State.zoneBase (s : State) (z : Nat) (was : Bool) : ZoneState :=
  let st := (s.zone z).st
  if (s.zoneDef z).mem then (if st == .rise then .rise else .normal)
  else if st == .rise || (was && st == .shutdown) then .normal else st

/-- What a zone's state becomes after a sample, and the states that it enters. -/
def State.zoneNext (s : State) (z : Nat) (base : ZoneState) : ZoneState × List ZoneState :=
  let vs := s.zoneSensors z
  let h := s.thr z
  let forced := vs.any (fun x => x.failed)
  if s.blind z then (.shutdown, if (s.zone z).st == .shutdown then [] else [.shutdown])
  else if (s.zoneDef z).mem then
    let new : ZoneState := if forced || risesHalf vs (2 * h.rise) false || (base == .rise && risesHalf vs h.rise false) then .rise else .normal
    (new, if new == .rise && base != .rise then [.rise] else [])
  else
    let n := h.next base ((maxTemp vs).getD 0)
    let new : ZoneState := if forced && decide (n.rank < 2) then .throttle else n
    (new, entered base new)

/-- The fast-sampling condition of R426. -/
def State.fastCond (s : State) (z : Nat) : Bool :=
  let vs := s.zoneSensors z
  if (s.zoneDef z).mem then risesHalf vs (s.thr z).rise true
  else
    match maxTemp vs with
    | some t => decide (degC (s.thr z).throttle - 64 ≤ t)
    | none => false

/-- A zone is evaluated after a sample; `was` says that its fast-sampling condition held until now, `dark` that it held no valid sensor. -/
def State.evalZone (s : State) (z : Nat) (was dark : Bool) : State :=
  let v := s.zone z
  let base := s.zoneBase z dark
  let q := s.zoneNext z base
  let up := q.2.contains .throttle && decide (base.rank < 2) || q.2.contains .rise
  let turn := up || v.st.hot != q.1.hot || (v.st == .shutdown) != (q.1 == .shutdown)
  let cond := s.fastCond z
  let s1 := s.enterStates q.2
  let s2 := s1.setZone z
    { v with st := q.1, level := if up then min 15 (v.level + 1) else v.level, stepped := if turn then s.time else v.stepped,
             temp := (maxTemp (s.zoneSensors z)).getD v.temp, fast := v.fast || cond, fastHeld := if was || cond then s.time else v.fastHeld }
  if s.anyHot || s2.anyHot then { s2 with trv := { s2.trv with hotAt := some s.time } } else s2

/-! ### Levels of a domain (R431) -/

/-- The largest level of the zones whose masks name a domain. -/
def State.thermalLevel (s : State) (d : Nat) : Nat :=
  (s.trv.curve.zones.zipIdx.map (fun p => if bitAt p.1.mask d = 1 then (s.zone p.2).level else 0)).foldl max 0

/-- The power level acts on the domains that TRV_PWR_DOM names at the moment (R434, log entry 136). -/
def State.powerLevel (s : State) (d : Nat) : Nat := if s.bit Reg.trvPwrDom d then s.trv.powerLevel else 0
def State.floorOf (s : State) (d : Nat) : Nat := Tab.get 0 s.trv.floors d

/-- The applied level. -/
def State.domLevel (s : State) (d : Nat) : Nat := max (s.thermalLevel d) (max (s.powerLevel d) (s.floorOf d))

/-- The ratio and skip mask that a domain is driven at; 0xFFFF while it is stopped. -/
def State.levelDef (s : State) (d : Nat) : LevelDef := (s.trv.curve.levels[s.domLevel d]?).getD {}
def State.skipOf (s : State) (d : Nat) : Nat := if s.domStopped d then 0xFFFF else (s.levelDef d).skip

/-! ### The budget (R441) -/

/-- LIMIT in W and P in mW. -/
def State.limitW (s : State) : Nat := s.trv.limit.getD (8 * s.powerMax)

/-- The headroom of a logic zone in 1/16 °C. -/
def State.headroom (s : State) (z : Nat) : Int := degC (s.thr z).throttle - (s.zone z).temp

/-- The thermal level of a least headroom. -/
def roomLevel (h : Int) : Nat :=
  if 256 ≤ h then 7 else if 192 ≤ h then 6 else if 128 ≤ h then 5 else if 64 ≤ h then 4 else if 32 ≤ h then 3 else if 0 ≤ h then 2 else 1

/-- The least headroom of the logic zones of a list. -/
def State.leastRoom (s : State) (zs : List Nat) : Option Int := ((zs.filter (fun z => ! (s.zoneDef z).mem)).map s.headroom).min?

/-- The thermal term over the zones of a list. -/
def State.thermalTerm (s : State) (zs : List Nat) : Nat :=
  if s.trv.tripped || zs.any (fun z => (s.zone z).st == .shutdown) then 0
  else if zs.any (fun z => (s.zone z).st.hot) then 1
  else ((s.leastRoom zs).map roomLevel).getD 7

/-- The power term. -/
def State.powerTerm (s : State) : Nat :=
  let l := s.limitW * 1000
  let p := s.trv.power
  if l < p then 1
  else if l ≤ 2 * (l - p) then 7 else if l ≤ 4 * (l - p) then 6 else if l ≤ 8 * (l - p) then 5 else if l ≤ 16 * (l - p) then 4
  else if l ≤ 32 * (l - p) then 3 else 2

/-- The budget level of a partition. -/
def State.budgetOf (s : State) (k : Nat) : Nat :=
  let zs := List.range s.zoneCount
  let own := zs.filter (fun z => (s.zoneDef z).mask &&& Tab.get 0 s.trv.parts k != 0)
  if s.domClusters 2 k = [] then 0
  else min (s.thermalTerm (if own.isEmpty then zs else own)) (min s.powerTerm (Tab.get 7 s.trv.caps k))

/-- The levels are recomputed after every sample and every poll. -/
def State.rebudget (s : State) : State := { s with trv := { s.trv with budget := (List.range 16).map s.budgetOf } }

/-! ### Rows of sensors and zones -/

/-- SENSOR_SAMPLE (R427, R428, R430, R437). -/
def State.sample (s : State) (i w : Nat) : State :=
  let z := s.trv.curve.zoneOf i
  let s1 := if sampleOk i w then (s.setSensor i ((s.sensor i).take s.time (sampleValue w))).hardTrip i (sampleValue w) else s.invalidSample i
  (match z with
   | some k => (s1.takeThr k).evalZone k (s.fastCond k) (s.blind k)
   | none => s1).rebudget
def execSensorSample (sensor word : Nat) (s : State) : Host.Outcome State Fault Refusal :=
  .next (if sensor < min 256 s.cfg.sensors then s.sample sensor word else s)

/-- FAST_SAMPLING_EXIT (R426): the condition of a zone has not held for 4 ms; before that, nothing. -/
def execFastSamplingExit (zone : Nat) (s : State) : Host.Outcome State Fault Refusal :=
  .next (let v := s.zone zone
    if v.fast && ! s.fastCond zone && decide (v.fastHeld + msT 4 ≤ s.time) then s.setZone zone { v with fast := false } else s)

/-- One STEP_US of a zone: up in THROTTLE, and in RISE while the rise stays at or above RISE/2; down in NORMAL and WARN. -/
def State.stepZone (s : State) (z : Nat) : State :=
  let v := s.zone z
  if s.time < v.stepped + s.stepTime then s
  else
    let l := match v.st with
      | .throttle => min 15 (v.level + 1)
      | .rise => min 15 (v.level + 1)
      | .shutdown => v.level
      | _ => v.level - 1
    if l = v.level then s else s.setZone z { v with level := l, stepped := v.stepped + s.stepTime }

/-- Each zone of a list. -/
def State.stepZones (s : State) : List Nat → State
  | [] => s
  | z :: t => (s.stepZone z).stepZones t

/-- THROTTLE_STEP (R432): every zone whose STEP_US has passed. -/
def execThrottleStep (s : State) : Host.Outcome State Fault Refusal := .next (s.stepZones (List.range s.zoneCount))

/-! ### Regulators (R434, R435) -/

def State.rail (s : State) (i : Nat) : Rail := Tab.get {} s.trv.rails i
def State.setRail (s : State) (i : Nat) (v : Rail) : State := { s with trv := { s.trv with rails := Tab.set {} s.trv.rails i v } }

/-- A PMBus or AVSBus error. -/
def State.pmbErr (s : State) : State := (s.count Reg.trvCntPmbErr).setBits Reg.trvStatus 64

/-- A transaction of a rail fails: the rail keeps its last valid value. -/
def State.railFail (s : State) (i : Nat) : State := (s.setRail i { s.rail i with fails := min 3 ((s.rail i).fails + 1) }).pmbErr

/-- The power in mW of a READ_POUT word in LINEAR11 (R434): the significand in bits 10 to 0 times 2 to the exponent in bits 15 to 11, both in two's
complement. PRESUMED, log entry 75: the format is PMBus's; a part of a mW is dropped, and a power below zero is taken as zero. -/
def linear11 (w : Nat) : Nat :=
  let n := signedOf 5 (w / 2 ^ 11 % 2 ^ 5)
  let y := (signedOf 11 (w % 2 ^ 11)).toNat * 1000
  if 0 ≤ n then y * 2 ^ n.toNat else y / 2 ^ (-n).toNat

/-- The rails of a poll round, from rail `i`, by the words that READ_POUT returned. -/
def State.pollRails (s : State) (i : Nat) : List (Option Nat) → State
  | [] => s
  | none :: t => (s.railFail i).pollRails (i + 1) t
  | some w :: t => (s.setRail i { mw := linear11 w, fails := 0 }).pollRails (i + 1) t

/-- The power of a rail: after 3 failures in a row of a counted rail, the whole of 8 × POWER_MAX W. -/
def State.railPower (s : State) (i : Nat) (r : RailDef) : Nat :=
  if ! r.counted then 0 else if 3 ≤ (s.rail i).fails then 8 * s.powerMax * 1000 else (s.rail i).mw

/-- The die power P. -/
def State.diePower (s : State) : Nat := (s.trv.curve.rails.zipIdx.map (fun p => s.railPower p.2 p.1)).foldl (· + ·) 0

/-- The power level after a poll. -/
def State.stepPower (s : State) : State :=
  let p := s.diePower
  let l := s.limitW * 1000
  let s1 : State := { s with trv := { s.trv with power := p } }
  if l < p ∧ s.trv.powerLevel < 15 then
    (({ s1 with trv := { s1.trv with powerLevel := s.trv.powerLevel + 1 } } : State).count Reg.trvCntPower).setBits Reg.trvStatus 16
  else if 16 * p < 15 * l then { s1 with trv := { s1.trv with powerLevel := s.trv.powerLevel - 1 } }
  else s1

/-- PMBus command codes of R434 that the model's trace names. -/
def pmbReadPout : Nat := 0x96
def pmbStatusWord : Nat := 0x79
def pmbClearFaults : Nat := 0x03

/-- POWER_POLL (R434): a round of the rail table ends; none for a transaction that failed. -/
def execPowerPoll (words : List (Option Nat)) (s : State) : Host.Outcome State Fault Refusal :=
  .next (let rs := s.trv.curve.rails
    (((s.takeLimit.emits (rs.map (fun r => .pmb r.addr r.page pmbReadPout))).pollRails 0 (words.take rs.length)).stepPower).rebudget)

/-- PMBUS_TIMEOUT (R434): a transaction of a rail does not complete within 35 ms. -/
def execPmbusTimeout (rail : Nat) (s : State) : Host.Outcome State Fault Refusal :=
  .next (if rail < s.trv.curve.rails.length then s.railFail rail else s)

/-- SMBALERT (R434): each rail's STATUS_WORD is read and its faults are cleared. -/
def execSmbalert (s : State) : Host.Outcome State Fault Refusal :=
  .next (s.emits (s.trv.curve.rails.flatMap (fun r => [.pmb r.addr r.page pmbStatusWord, .pmb r.addr r.page pmbClearFaults])))

/-- Whether a write of TRV_AVS lies in the named rail's range. -/
def State.avsOk (s : State) (v : Nat) : Bool :=
  s.trv.curve.rails.any (fun r => r.avs && r.avsRail == v / 2 ^ 28 % 16 && decide (r.vmin ≤ v % 2 ^ 16) && decide (v % 2 ^ 16 ≤ r.vmax))

/-- The target voltage goes to the rail; the voltage read back is free. -/
def State.avsWrite (s : State) (v : Nat) : State :=
  if s.avsOk v then
    let r := v / 2 ^ 28 % 16
    ({ s.took 1 with trv := { s.trv with avsRail := r, avs := Tab.set 0 s.trv.avs r (s.freeNat % 2 ^ 16) } } : State).emit (.avs r (v % 2 ^ 16))
  else s.pmbErr

/-! ### Policy changes (R314, R429, R431, R440) -/

/-- The thresholds `d` of a zone with the fields of a setting of its kind. -/
def thrOf (mem : Bool) (d : ZoneThr) (v : Nat) : ZoneThr :=
  if mem then { d with rise := v % 2 ^ 8, set := true }
  else { d with warn := v % 2 ^ 8, throttle := v / 2 ^ 8 % 2 ^ 8, shutdown := v / 2 ^ 16 % 2 ^ 8, hyst := v / 2 ^ 24 % 2 ^ 4, set := true }

/-- TRVSET's setting of a zone waits for its next sample; that of zone 0xFF, the power limit, for the next poll (R429). -/
def State.applyThr (s : State) (z v : Nat) : State :=
  if z = 0xFF then { s with trv := { s.trv with limitNext := some (v % 2 ^ 16) } }
  else { s with trv := { s.trv with thrNext := Tab.set {} s.trv.thrNext z (thrOf (s.zoneDef z).mem (s.thr z) v) } }

/-- The zones of a new curve start from the levels and stops of the domains they govern (R440). -/
def State.carryZones (s : State) (c : Curve) : List (Nat × Zone) :=
  c.zones.zipIdx.foldl (fun t p =>
    let ds := (List.range 32).filter (fun d => bitAt p.1.mask d == 1)
    let st : ZoneState := if ds.any (fun d => ! s.trv.tripped && s.domStopped d) then .shutdown else .normal
    Tab.set {} t p.2 { st := st, level := (ds.map s.thermalLevel).foldl max 0, stepped := s.time }) []

/-- The loaded bank becomes active; the bank left keeps its curve. -/
def State.selectCurve (s : State) : State :=
  match s.trv.loaded with
  | none => s
  | some c =>
    { s with trv := { s.trv with curve := c, bank := 1 - s.trv.bank, loaded := if s.trv.curve.builtin then none else some s.trv.curve,
                                 zones := s.carryZones c, rails := [] } }

/-- HUB_ATB_CTRL connects at most one node to each line (R477): the old switch opens, and the new one closes. -/
def State.connectAtb (s : State) (v : Nat) : State :=
  { s.setReg Reg.hubAtbCtrl (v &&& 0x7F7F) with
    atb := { line0 := if bitAt v 6 = 1 then some (v % 64) else none, line1 := if bitAt v 14 = 1 then some (v / 256 % 64) else none } }

/-- A held or immediate change takes effect. -/
def State.applyChange (s : State) : HeldChange → State
  | .thr z v => s.applyThr z v
  | .floor d v => { s with trv := { s.trv with floors := Tab.set 0 s.trv.floors d (v % 16) } }
  | .avs v => s.avsWrite v
  | .select => s.selectCurve
  | .atb v => s.connectAtb v

/-- A policy change: held in Fixed mode, in place of any held before, else applied at once. -/
def State.policy (s : State) (c : HeldChange) : State :=
  if s.fixed then ({ s with trv := { s.trv with held := some c, heldDue := false } } : State).count Reg.trvCntHeld
  else s.applyChange c

/-- TRV_HELD_APPLY (R314): after a commit grant, or once no context has a step slot in use. -/
def execTrvHeldApply (s : State) : Host.Outcome State Fault Refusal :=
  .next (match s.trv.held with
    | none => s
    | some c =>
      if s.trv.heldDue || ! s.anyStep then ({ s with trv := { s.trv with held := none, heldDue := false } } : State).applyChange c
      else s)

/-- R429: what TRVSET refuses. -/
def State.thrBad (s : State) (z v : Nat) : Bool :=
  if z = 0xFF then decide (2 ^ 16 ≤ v) || decide (8 * s.powerMax < v)
  else if s.zoneCount ≤ z then true
  else if (s.zoneDef z).mem then decide (2 ^ 8 ≤ v) || v == 0 || decide (s.riseMax < v)
  else
    let t := thrOf false s.thrDefault v
    decide (2 ^ 28 ≤ v) || ! (decide (t.warn < t.throttle) && decide (t.throttle < t.shutdown) && decide (t.shutdown + 5 ≤ s.hardLogic) && t.hyst != 0)

/-- TRVSET. -/
def setTrv (c : Cmd) (s : State) : State × Reply :=
  if s.thrBad c.a c.b then reject s stBadOperand else (s.policy (.thr c.a c.b), .ok 0)

def specTrvset : CmdSpec := { opc := 0x78, ctx0 := true, early := true, aw := fun _ => 8, bw := fun _ => 64, body := setTrv }
def execTrvset (i : Issue) (s : State) : Host.Outcome State Fault Refusal := .next (s.runCmd specTrvset i)

/-- TRV_AVS_WRITE (R435): a voltage in range is a policy change. -/
def State.writeAvs (s : State) (v : Nat) : State := if s.avsOk v then s.policy (.avs v) else s.pmbErr
def execTrvAvsWrite (src : Src) (val : Nat) (s : State) : Host.Outcome State Fault Refusal :=
  .next (s.writeAccess src Reg.trvAvs (fun q => q.writeAvs val))

/-- TRV_DOM_LEVEL_FLOOR (R431): FLOOR of the domain that the source has selected. -/
def State.writeFloor (s : State) (src : Src) (v : Nat) : State := s.policy (.floor (s.banked src .domSel) (v / 2 ^ 16 % 16))
def execTrvDomLevelFloor (src : Src) (val : Nat) (s : State) : Host.Outcome State Fault Refusal :=
  .next (s.writeAccess src Reg.trvDomLevel (fun q => q.writeFloor src val))

/-! ### Curves (R439, R440) -/

/-- The body of the section of a kind. -/
def sectionOf (img : Bytes) (es : List DirEnt) (k : Nat) : Bytes :=
  match es.find? (fun e => e.kind == k) with
  | some e => slice img e.off e.len
  | none => []

/-- The zone map of R439, where legal. -/
def parseZones (b : Bytes) (sensors : Nat) : Option (List ZoneDef × List Nat) :=
  let n := leAt b 0 1
  let zs := (List.range n).map (fun i => ({ mem := leAt b (272 + 8 * i) 1 == 1, mask := leAt b (276 + 8 * i) 4 } : ZoneDef))
  let m := (List.range 256).map (fun i => leAt b (16 + i) 1)
  if 1 ≤ n ∧ n ≤ 64 ∧ b.length = 272 + 8 * n ∧ zeroAt b 1 15 = true ∧
      (List.range n).all (fun i => decide (leAt b (272 + 8 * i) 1 ≤ 1) && zeroAt b (273 + 8 * i) 3) = true ∧
      m.all (fun z => z == 0xFF || decide (z < n)) = true ∧ (m.drop sensors).all (fun z => z == 0xFF) = true then
    some (zs, m)
  else none

/-- Slots that a skip mask suppresses. -/
def popcount16 (m : Nat) : Nat := ((List.range 16).map (bitAt m)).foldl (· + ·) 0

/-- No level has a higher rate than the one before. -/
def ratesFall : List LevelDef → Bool
  | [] => true
  | [_] => true
  | x :: y :: t => decide ((16 - popcount16 y.skip) * x.div ≤ (16 - popcount16 x.skip) * y.div) && ratesFall (y :: t)

/-- The throttle curve of R439, where legal. -/
def parseLevels (b : Bytes) : Option (Nat × Bool × List LevelDef) :=
  let us := leAt b 0 2
  let ls := (List.range 16).map (fun k => ({ div := leAt b (16 + 4 * k) 1 + 1, skip := leAt b (18 + 4 * k) 2 } : LevelDef))
  if 10 ≤ us ∧ us ≤ 10000 ∧ b.length = 80 ∧ leAt b 2 1 ≤ 1 ∧ zeroAt b 3 13 = true ∧ (List.range 16).all (fun k => zeroAt b (17 + 4 * k) 1) = true ∧
      ls.head? = some { div := 1, skip := 0 } ∧ ls.all (fun l => decide (l.div ≤ 16) && l.skip != 0xFFFF) = true ∧ ratesFall ls = true then
    some (us, leAt b 2 1 == 1, ls)
  else none

/-- The rail table of R439, where legal. -/
def parseRails (b : Bytes) : Option (List RailDef) :=
  let n := leAt b 0 1
  let at' (i : Nat) : RailDef :=
    let o := 16 + 8 * i
    { addr := leAt b o 1, page := leAt b (o + 1) 1, counted := bitAt (leAt b (o + 2) 1) 0 == 1, avs := bitAt (leAt b (o + 2) 1) 1 == 1,
      avsRail := leAt b (o + 3) 1, vmin := leAt b (o + 4) 2, vmax := leAt b (o + 6) 2 }
  if n ≤ 16 ∧ b.length = 16 + 8 * n ∧ zeroAt b 1 15 = true ∧ (List.range n).all (fun i => decide (leAt b (18 + 8 * i) 1 < 4)) = true then
    some ((List.range n).map at')
  else none

/-- Row 4 of R440. -/
def parseCurve (img : Bytes) (sensors : Nat) : Option Curve :=
  let n := leAt img 11 1
  let es := dirOf img n
  if n ≠ 3 ∨ leAt img 10 1 ≠ 0 ∨ zeroAt img 0x48 56 = false ∨ dirsOk img n es = false ∨ [0x101, 0x102, 0x103].all (fun k => es.countP (fun e => e.kind == k) == 1) = false then none
  else
    match parseZones (sectionOf img es 0x101) sensors, parseLevels (sectionOf img es 0x102), parseRails (sectionOf img es 0x103) with
    | some (zs, m), some (us, fast, ls), some rs =>
      some { id := leAt img 8 2, builtin := false, zones := zs, sensorZone := m, stepUs := us, fastBus := fast, levels := ls, rails := rs }
    | _, _, _ => none

/-- R440: the status of the first failure, or the curve. -/
def checkCurve (b : Bytes) (sensors : Nat) : Except Nat Curve :=
  let n := leAt b 12 4
  let img := slice b 0 n
  if leAt b 0 4 ≠ 0x5A524350 ∨ leAt b 4 2 ≠ 3 ∨ n < 256 ∨ 65536 < n ∨ n % 16 ≠ 0 then .error stRecipeInvalid
  else if ! versionOk (leAt b 6 2) then .error stVersionMismatch
  else if sha384 (img.drop 0x80) ≠ slice img 0x10 48 then .error stRecipeInvalid
  else
    match parseCurve img sensors with
    | some c => .ok c
    | none => .error stRecipeInvalid

/-- A load ends with a status other than OK. -/
def State.curveFailed (s : State) (st : Nat) : State :=
  ({ s with trv := { s.trv with lastLoad := st } } : State).count Reg.trvCntCurveRefused

/-- LOAD: the image at TRV_CURVE_BLK goes into the bank not selected. -/
def State.loadCurve (s : State) : State :=
  let blk := s.reg Reg.trvCurveBlk * 64
  let s1 := s.request .read blk 0 64 .curve
  if s.bothStalled then s1.curveFailed stTimeout
  else
  match checkCurve (s.bytes (blk * 4096) 65536) s.cfg.sensors with
  | .ok c => ({ s1 with trv := { s1.trv with loaded := some c, lastLoad := stOk } } : State).count Reg.trvCntCurveLoaded
  | .error st => s1.curveFailed st

/-- TRV_CURVE_LOAD (R440). -/
def execTrvCurveLoad (src : Src) (s : State) : Host.Outcome State Fault Refusal :=
  .next (s.writeAccess src Reg.trvCurveCtrl State.loadCurve)

/-- SELECT: a policy change while a curve is loaded. -/
def State.askSelect (s : State) : State := if s.trv.loaded.isSome then s.policy .select else s

/-- TRV_CURVE_SELECT (R440). -/
def execTrvCurveSelect (src : Src) (s : State) : Host.Outcome State Fault Refusal :=
  .next (s.writeAccess src Reg.trvCurveCtrl State.askSelect)

/-- CLEAR of the trip capture; ignored while TRIPPED. -/
def State.clearTrip (s : State) : State :=
  if s.trv.tripped then s else ((s.setReg Reg.trvTripCap 0).setReg Reg.trvTripTimeLo 0).setReg Reg.trvTripTimeHi 0

/-- TRV_TRIP_CLR (R444). -/
def execTrvTripClr (src : Src) (s : State) : Host.Outcome State Fault Refusal :=
  .next (s.writeAccess src Reg.trvTripClr State.clearTrip)

/-! ### BUDGET (R443) -/

def ZoneState.code : ZoneState → Nat
  | .normal => 0
  | .warn => 1
  | .throttle => 2
  | .shutdown => 3
  | .rise => 4

/-- The logic zone with the least headroom, the lowest of them; none where the curve has no logic zone. -/
def State.hotZone (s : State) : Option Nat :=
  let zs := List.range s.zoneCount
  zs.find? (fun z => ! (s.zoneDef z).mem && some (s.headroom z) == s.leastRoom zs)

/-- HOT_ZONE, HOT_STATE and HOT_TEMP; free where there is no logic zone. -/
def State.hotBytes (s : State) : Bytes :=
  match s.hotZone with
  | some z => toLe 1 z ++ toLe 1 (s.zone z).st.code ++ toLe 2 (wrapInt 16 (s.zone z).temp)
  | none => freeBytes s.free 4

/-- The record of BUDGET. -/
def State.budgetRecord (s : State) : Bytes :=
  toLe 4 s.trv.power ++ toLe 4 (s.limitW * 1000) ++ toLe 4 (s.reg Reg.trvGrant % 2 ^ 16 * 10) ++ s.hotBytes ++ toLe 8 s.time ++ zeros 8
    ++ (List.range 16).flatMap (fun k => toLe 1 ((s.trv.budget[k]?).getD 0))
    ++ toLe 4 (maskBy 32 (fun d => decide (d < s.cfg.clkDomains) && decide (0 < s.domLevel d)))
    ++ toLe 4 (maskBy 32 (fun d => decide (d < s.cfg.clkDomains) && s.domStopped d)) ++ zeros 8

/-- BUDGET. -/
def readBudget (c : Cmd) (s : State) : State × Reply :=
  (if s.hotZone.isNone && c.recOk 64 then s.took 4 else s, c.record s.budgetRecord)

def specBudget : CmdSpec := { opc := 0x79, query := true, iw := fun _ => 12, body := readBudget }
def execBudget (i : Issue) (s : State) : Host.Outcome State Fault Refusal := .next (s.runCmd specBudget i)

end Sys2Proof.Machine
end

