-- ==== Sys2Proof/Machine/Kettle.lean ====
section
/-! DEFINITION. The Kettle complex (10_rings_journal_and_firmware): firmware images, staging, activation, cores and their
watchdogs, the ring registers and doorbells. -/

namespace Sys2Proof.Machine

/-! ### Firmware images (R295, R297) -/

/-- Rows 2 to 6 of R295: the status of the first failure, or OK. -/
def State.checkFw (s : State) (img : Bytes) : Nat :=
  let n := leAt img 12 4
  let key := slice img 0x40 96
  if leAt img 0 4 ≠ 0x5A4B4657 ∨ n ≠ img.length ∨ n < 512 ∨ 4194304 < n ∨ s.kettle.slotSize < n ∨ n % 16 ≠ 0 ∨ leAt img 10 2 ≠ 0 then stBadOperand
  else if sha384 key ≠ s.fleetHash then stSignatureInvalid
  else if ! ecdsaVerify key (slice img 0xC0 96) (slice img 0 0xC0) then stSignatureInvalid
  else if sha384 (img.drop 0x120) ≠ slice img 0x10 48 then stDigestMismatch
  else if ! versionOk (leAt img 4 2) then stVersionMismatch
  else stOk

def State.fwSlot (s : State) (k : Nat) : FwSlot := if k = 0 then s.kettle.slotA else s.kettle.slotB
def State.setFwSlot (s : State) (k : Nat) (v : FwSlot) : State :=
  { s with kettle := if k = 0 then { s.kettle with slotA := v } else { s.kettle with slotB := v } }

/-- The image that a slot holds; before the block has read or written the slot it is open. -/
def State.slotImage (s : State) (k : Nat) : Bytes := (s.fwSlot k).image.getD (Config.flashSlot k)

/-- Records the verification status of a slot. -/
def State.slotStatus (s : State) (k st : Nat) : State := s.setFwSlot k { s.fwSlot k with status := st }

/-! ### The directory (R294) -/

/-- A copy in flash is valid: its CRC, at offset `n`, is that of the bytes before it. -/
def copyOk (b : Bytes) (n : Nat) : Bool := b.length == n + 4 && crc32cRaw (slice b 0 n) == leAt b n 4

/-- Whether the second copy is the one in use: the one with a valid CRC and the higher SEQ, which lies at offset `o`. -/
def usesSecond (n o : Nat) (a b : Bytes) : Bool := copyOk b n && (! copyOk a n || decide (leAt a o 4 < leAt b o 4))

/-- The copy in use. -/
def chooseCopy (n o : Nat) (a b : Bytes) : Option Bytes :=
  if usesSecond n o a b then some b else if copyOk a n then some a else none

/-- The directory in use, as held. -/
def State.directory (s : State) : Option Bytes := chooseCopy 0x3C 0x14 s.kettle.dirA s.kettle.dirB

/-- A directory copy rewritten: ACTIVE names a slot, and SEQ is raised by one. -/
def dirWith (d : Bytes) (k : Nat) : Bytes :=
  let h := slice d 0 4 ++ toLe 1 k ++ slice d 5 15 ++ toLe 4 ((leAt d 0x14 4 + 1) % 2 ^ 32) ++ slice d 0x18 36
  h ++ toLe 4 (crc32cRaw h)

/-- A rewrite of the directory writes the copy with the lower SEQ (R294). -/
def State.rewriteDir (s : State) (k : Nat) : State :=
  let d := dirWith (slice (s.directory.getD s.kettle.dirA ++ zeros 64) 0 64) k
  if s.directory.isNone || usesSecond 0x3C 0x14 s.kettle.dirA s.kettle.dirB then { s with kettle := { s.kettle with dirA := d, dirActive := k } }
  else { s with kettle := { s.kettle with dirB := d, dirActive := k } }

/-- The running image's version and key. -/
def State.runs (s : State) (img : Bytes) : State :=
  { s with kettle := { s.kettle with fwMajor := leAt img 7 1, fwMinor := leAt img 6 1, fwBuild := leAt img 8 2, pub := slice img 0x40 96 } }

/-- The FINISHED entry of a refusal with VERSION_MISMATCH that no ring entry carries (R297). -/
def State.journalRefusal (s : State) (slot : Nat) : State :=
  s.record { type := jFinished, status := stVersionMismatch, opc := 0x85, source := srcCore 0, a := slot }

/-- An image is refused (R295, R297): counted; REFUSED is set for VERSION_MISMATCH. -/
def State.fwRefused (s : State) (st : Nat) : State := (s.count Reg.ktlCntRefused).versionRefused st

/-! ### Ring registers and doorbells (R277, R303) -/

/-- Completion slots of a ring that are neither posted and unconsumed nor reserved. -/
def Ring.freeSlots (r : Ring) : Nat := r.size - (r.prod + 2 ^ 16 - r.cons) % 2 ^ 16 - r.reserved

/-- A submission doorbell. -/
def State.doorbell (s : State) (n v : Nat) : State :=
  let r := s.ring n
  let t := v % 2 ^ 16
  if r.size < (t + 2 ^ 16 - r.head) % 2 ^ 16 then s.count Reg.ktlCntDberr else s.setRing n { r with tail := t }

/-- A completion doorbell; a value beyond PROD is ignored. -/
def State.cdoorbell (s : State) (n v : Nat) : State :=
  let r := s.ring n
  let c := v % 2 ^ 16
  if (r.prod + 2 ^ 16 - r.cons) % 2 ^ 16 < (c + 2 ^ 16 - r.cons) % 2 ^ 16 then s.count Reg.ktlCntDberr else s.setRing n { r with cons := c }

/-- KTL_DB_WRITE (R277). -/
def execKtlDbWrite (src : Src) (n val : Nat) (s : State) : Host.Outcome State Fault Refusal :=
  .next (s.writeAccess src (0x50100 + 8 * n) (fun q => if n < 16 then q.doorbell n val else q))

/-- KTL_CDB_WRITE (R303). -/
def execKtlCdbWrite (src : Src) (n val : Nat) (s : State) : Host.Outcome State Fault Refusal :=
  .next (s.writeAccess src (0x50104 + 8 * n) (fun q => if n < 16 then q.cdoorbell n val else q))

/-- A write of KTL_RING_CFG of the source's selected ring: LOG2 is ignored while EN is 1, and a write that would set EN while
a taken entry has no completion is ignored. -/
def State.ringCfg (s : State) (src : Src) (v : Nat) : State :=
  let n := s.banked src .ringSel % 16
  let r := s.ring n
  let en := bitAt v 31 == 1
  if r.en then s.setRing n { r with en := en }
  else if en then (if r.taken.isEmpty then s.setRing n { r with en := true, log2 := v % 16, head := 0, tail := 0, prod := 0, cons := 0 } else s)
  else s.setRing n { r with log2 := v % 16 }

/-- KTL_RING_ENABLE (R303). -/
def execKtlRingEnable (src : Src) (val : Nat) (s : State) : Host.Outcome State Fault Refusal :=
  .next (s.writeAccess src 0x50028 (fun q => q.ringCfg src val))

/-- A write of a ring's base, completion base or window, ignored while it is enabled. -/
def State.ringField (s : State) (src : Src) (f : Ring → Ring) : State :=
  let n := s.banked src .ringSel % 16
  if (s.ring n).en then s else s.setRing n (f (s.ring n))

/-! ### Restarted cores and their entries (R291) -/

/-- The core that owns the policy of a KIND (R282). -/
def ownerOf (k : Nat) : Nat :=
  if [0x39, 0x40, 0x60, 0x82, 0x83].contains k then 1
  else if [0x62, 0x63, 0x70, 0x71].contains k then 2
  else if [0x58, 0x59, 0x5A, 0x5B, 0x78, 0x79].contains k then 3
  else 0

/-- The HANDED record of an entry (R282, R284). -/
def State.handRecord (s : State) (n : Nat) (t : Taken) (k : Nat) : State :=
  s.record { type := jHanded, opc := t.e.kind, source := srcRing n, ctx := t.e.ctx, ref := t.index, cookie := t.e.cookie, mod := k }

/-- One entry as Kettle 0 settles it once it is ready: a composite command that had begun ends with HW_FAULT, a final status
is posted, a handed one is handed again where its owner is up. -/
def State.settleEntry (s : State) (n : Nat) (t : Taken) : State :=
  match t.final with
  | some (st, res, j) => s.writeCompletion n t.index st res j
  | none =>
    if t.ran then
      ({ s with laneSvc := s.laneSvc.filter (fun l => ! (l.ring == n && l.index == t.index)) } : State).finishRecord n t stHwFault 0
    else
      match t.handed with
      | some k => if s.coreUp k then s.handRecord n t k else s
      | none => s

/-- Each entry of a ring. -/
def State.settleEntries (s : State) (n : Nat) : List Taken → State
  | [] => s
  | t :: ts => (s.settleEntry n t).settleEntries n ts

/-- Every ring. -/
def State.settleRings (s : State) : List Nat → State
  | [] => s
  | n :: ns => (s.settleEntries n (s.ring n).taken).settleRings ns

/-- Entries handed to a core are handed to it again. -/
def State.handAgain (s : State) (k n : Nat) : List Taken → State
  | [] => s
  | t :: ts => (if t.handed == some k && t.final.isNone then s.handRecord n t k else s).handAgain k n ts

/-- Every ring's entries of a core. -/
def State.handAll (s : State) (k : Nat) : List Nat → State
  | [] => s
  | n :: ns => (s.handAgain k n (s.ring n).taken).handAll k ns

/-- A core is ready after its restart (R291): Kettle 0 settles its entries, another is handed its own again. -/
def State.coreReady (s : State) (k : Nat) : State :=
  let s1 := s.setCore k { s.core k with running := true, restarting := false }
  if k = 0 then s1.settleRings (List.range 16)
  else if s1.coreUp 0 then s1.handAll k (List.range 16) else s1

/-- Whether a block of the copy that firmware keeps in context 0 verifies with GEN 0x0000 and PRODUCER 0xFE (R290). -/
def State.copyVerifies (s : State) (blk : Nat) : Bool := s.verify blk 0 (bcvFmt (s.sbOf blk)) == .verified

/-- The verified blocks of the copy are counted (R167). -/
def State.countCopy (s : State) (copy : List Nat) : State := s.countN Reg.hubCntBlkVerified (copy.filter s.copyVerifies).length

/-- Whether the copy can be used: it is present, and each block of it verifies. -/
def State.copyGood (s : State) (copy : List Nat) : Bool := ! copy.isEmpty && copy.all s.copyVerifies

/-- The reload of a core's instruction memory (R290): from the copy, or else from flash under R295, whose refusal leaves the core
restarting. -/
def State.reload (s : State) (core : Nat) (copy : List Nat) : State :=
  let s1 := s.countCopy copy
  let k := s1.kettle.slot
  let st := s1.checkFw (s1.slotImage k)
  if s.copyGood copy then s1.coreReady core
  else if st = stOk then (s1.slotStatus k st).coreReady core
  else (s1.slotStatus k st).fwRefused st

/-- KETTLE_CORE_READY (R290, R291); during an activation ACTIVATION_CORE_READY reports the core. -/
def execKettleCoreReady (core : Nat) (copy : List Nat) (s : State) : Host.Outcome State Fault Refusal :=
  .next (let busy := match s.kettle.act with
      | .running _ _ k => k == core
      | _ => false
    if (s.core core).restarting && ! (s.core core).held && ! busy then s.reload core copy else s)

/-! ### Watchdogs (R289, R290, R292) -/

/-- A core goes into reset to restart; what Kettle 0 staged for a ring entry or the registers stops with it. -/
def State.resetCore (s : State) (k : Nat) : State :=
  let c := s.core k
  let s1 := (s.setCore k { c with restarting := true, halted := false, upAt := s.time, halts := [] }).setBits Reg.ktlStatus (2 ^ (20 + k % 4))
  match (if k = 0 then s1.kettle.staging else none) with
  | some g => { s1 with kettle := { s1.kettle with staging := none, stageLast := if g.ring.isNone then stHwFault else s1.kettle.stageLast } }
  | none => s1

/-- The restarts of a core within the last 10 s. -/
def Core.recent (c : Core) (now : Nat) : List Nat := c.restarts.filter (fun t => decide (now < t + secT 10))

/-- A watchdog expires outside an activation: the core restarts, and at its fourth restart within 10 s it is held. -/
def State.watchdogRestart (s : State) (k : Nat) : State :=
  let rs := (s.core k).recent s.time ++ [s.time]
  let s1 := ((s.resetCore k).kettleEvent 1 k).count Reg.ktlCntRestart
  let s2 := s1.setCore k { s1.core k with restarts := rs }
  if 4 ≤ rs.length then
    ((s2.setCore k { s2.core k with held := true, restarting := false, running := false }).kettleEvent 2 k).faultInt clsKettle 0
  else s2

/-- The cores that an activation has restarted before and with core `k` (R301). -/
def actDone (k : Nat) : List Nat := if k = 1 then [1] else if k = 2 then [1, 2] else if k = 3 then [1, 2, 3] else [1, 2, 3, 0]

/-- Resets each core of a list. -/
def State.resetCores (s : State) : List Nat → State
  | [] => s
  | k :: t => (s.resetCore k).resetCores t

/-- The watchdog of `core` expires during an activation: that core restarts, and so does every core already restarted, under the old
image. -/
def State.rollback (s : State) (ticket k core : Nat) : State :=
  let s0 := s.watchdogRestart core
  let s1 : State := { s0 with kettle := { s0.kettle with act := .idle, actLast := stHwFault } }
  ((s1.resetCores ((actDone k).filter (fun j => j != core && ! (s1.core j).held))).kettleEvent 5 k).complete ticket stHwFault 0 false

/-- The watchdog period, in units of 10 ns, of a kick at a time (R289). -/
def State.wdogPeriod (s : State) (kick : Nat) : Nat :=
  usT 100 * max 1 (((s.kettle.wdog.find? (fun w => decide (w.1 ≤ kick))).map (fun w => w.2)).getD 50)

/-- The time that a core's watchdog has counted since a kick; it does not count while the core is halted (R476). -/
def Core.counted (c : Core) (kick now : Nat) : Nat :=
  now - kick - (c.halts.map (fun h => h.2 - max h.1 kick)).foldl (· + ·) 0

/-- Whether the watchdog of a core that kicked it last at a time has expired. -/
def State.wdogOver (s : State) (core kick : Nat) : Bool :=
  let c := s.core core
  decide (core < 4) && c.running && ! c.held && ! c.halted && decide (c.upAt ≤ kick) && decide (s.wdogPeriod kick ≤ c.counted kick s.time)

/-- WATCHDOG_EXPIRY (R289, R290, R301): a running core kicked its watchdog last at `kick`, a period ago; before that, nothing. -/
def execWatchdogExpiry (core kick : Nat) (s : State) : Host.Outcome State Fault Refusal :=
  .next (if s.wdogOver core kick then
      match s.kettle.act with
      | .running _ tk k => s.rollback tk k core
      | _ => s.watchdogRestart core
    else s)

/-! ### Activation (R299 to R301) -/

/-- The core after another in an activation. -/
def nextCore (k : Nat) : Option Nat := if k = 1 then some 2 else if k = 2 then some 3 else if k = 3 then some 0 else none

/-- An activation starts with core 1. -/
def State.startActivation (s : State) (slot ticket : Nat) : State :=
  (({ s with kettle := { s.kettle with act := .running slot ticket 1 } } : State).kettleEvent 3 1).resetCore 1

/-- FWACT (R299): the slot is read from flash and verified, unless that read times out. -/
def activate (c : Cmd) (s0 : State) : State × Reply :=
  let k := s0.kettle
  let s : State := { s0 with kettle := { k with silent := false } }
  let img := s.slotImage c.imm
  if k.act ≠ .idle ∨ c.imm ≠ 1 - k.slot then reject s0 stIllegalState
  else if k.silent = false ∧ leAt img 7 1 ≠ k.fwMajor then reject s0 stIllegalState
  else
    let st := if k.silent then stTimeout else s.checkFw img
    if st ≠ stOk then
      let s1 := (s.slotStatus c.imm st).fwRefused st
      (if st = stVersionMismatch then s1.journalRefusal c.imm else s1, .no st false)
    else
      let s1 : State := { s with kettle := { s.kettle with actSlot := c.imm } }
      if s.anyHot then (({ s1 with kettle := { s1.kettle with act := .deferred c.imm c.tk } } : State).count Reg.ktlCntDefer, .later stDeferred)
      else (s1.startActivation c.imm c.tk, .later stPending)

def specFwact : CmdSpec := { opc := 0x7C, ctx0 := true, rd := true, iw := fun _ => 8, safe := fun _ => true, body := activate }
def execFwact (i : Issue) (s : State) : Host.Outcome State Fault Refusal := .next (s.runCmd specFwact i)

/-- DEFERRED_ACTIVATION_START (R300): 1 s after the last cycle at THROTTLE; before that, nothing. -/
def execDeferredActivationStart (s : State) : Host.Outcome State Fault Refusal :=
  .next (match s.kettle.act with
    | .deferred slot tk => if ! s.anyHot && decide ((s.trv.hotAt.getD 0) + secT 1 ≤ s.time) then s.startActivation slot tk else s
    | _ => s)

/-- The activation has ended: the directory is rewritten to name the new slot. -/
def State.endActivation (s : State) (slot ticket : Nat) : State :=
  let s1 := (s.runs (s.slotImage slot)).rewriteDir slot
  let s2 : State := { s1 with kettle := { s1.kettle with act := .idle, actLast := stOk, slot := slot, bootStage := 3 } }
  ((s2.count Reg.ktlCntFwact).kettleEvent 4 0).complete ticket stOk 0 true

/-- ACTIVATION_CORE_READY (R301): the core that restarts is ready under the new image. -/
def execActivationCoreReady (core : Nat) (s : State) : Host.Outcome State Fault Refusal :=
  .next (match s.kettle.act with
    | .running slot tk k =>
      if core ≠ k then s
      else
        let s1 := s.coreReady core
        match nextCore core with
        | some m => ({ s1 with kettle := { s1.kettle with act := .running slot tk m } } : State).resetCore m
        | none => s1.endActivation slot tk
    | _ => s)

/-! ### Staging (R298, R304) -/

/-- A staging ends: LAST, and the FINISHED record of its ring entry, or of a refusal through the registers. -/
def State.endStaging (s : State) (g : Staging) (st : Nat) : State :=
  let s1 : State := { s.retire (fun a => a == .firmware) with kettle := { s.kettle with staging := none, stageLast := st } }
  match g.ring with
  | some (n, i) =>
    match s1.taken n i with
    | some t => s1.finishRecord n t st 0
    | none => s1
  | none => if st = stVersionMismatch then s1.journalRefusal (1 - s.kettle.slot) else s1

/-- STAGING_DONE (R298): the image is verified, written to the slot that does not run, and verified again from flash. -/
def execStagingDone (reread : Option Bytes) (s : State) : Host.Outcome State Fault Refusal :=
  .next (match s.kettle.staging with
    | none => s
    | some g =>
      if s.bothStalled then (s.count Reg.hubCntMemTimeout).endStaging g stTimeout
      else
      let img := s.bytes (g.blk * 4096) (min g.len (4194304 + 16))
      let st1 := s.checkFw img
      if st1 ≠ stOk then (s.fwRefused st1).endStaging g st1
      else
        let b := reread.getD img
        let st := if reread.isNone then stTimeout else s.checkFw b
        let k := 1 - s.kettle.slot
        let s1 := s.setFwSlot k { image := some b, status := st }
        if st ≠ stOk then (s1.fwRefused st).endStaging g st
        else (if g.rewrite then s1.rewriteDir k else s1).endStaging g stOk)

/-- The image that the staging registers name. -/
def State.stageBlk (s : State) : Nat := s.reg Reg.ktlStageBlk * 64
def State.stageLen (s : State) : Nat := s.reg Reg.ktlStageLen % 2 ^ 23

/-- Sets LAST. -/
def State.setStageLast (s : State) (st : Nat) : State := { s with kettle := { s.kettle with stageLast := st } }

/-- Starts a staging, or says why not. -/
def State.startStaging (s : State) (g : Staging) : State × Nat :=
  if s.kettle.act ≠ .idle then (s, stIllegalState)
  else if s.kettle.staging.isSome then (s, stBusy)
  else (({ s with kettle := { s.kettle with staging := some g } } : State).request .read g.blk 0 64 .firmware, stOk)

/-- KTL_STAGE_GO.STAGE while BUSY is 0. -/
def State.stageImage (s : State) : State :=
  if ! s.coreUp 0 then s
  else
    let q := s.startStaging { blk := s.stageBlk, len := s.stageLen }
    if q.2 = stOk then q.1 else q.1.setStageLast q.2

/-- KTL_STAGE_GO.STAGE; while BUSY is 1 the write is ignored, and LAST reads BUSY. -/
def State.goStage (s : State) : State := if s.kettle.staging.isSome then s.setStageLast stBusy else s.stageImage

/-- KTL_STAGE_GO_STAGE (R304). -/
def execKtlStageGoStage (src : Src) (s : State) : Host.Outcome State Fault Refusal :=
  .next (s.writeAccess src Reg.ktlStageGo State.goStage)

/-! ### Bring-up reports and boot (R295, R296, R483, R495) -/

/-- Appends a report of the running stage to the log. -/
def State.report (s : State) (result flags : Nat) (detail : Bytes) : State :=
  let b := toLe 1 s.bring.stage ++ toLe 1 result ++ toLe 2 flags ++ zeros 4 ++ toLe 8 s.time ++ slice (detail ++ zeros 16) 0 16
  { s with bring := { s.bring with log := (if s.bring.log.length < 16 then s.bring.log ++ [b] else s.bring.log), result := result } }

/-- The running stage passes. -/
def State.stagePass (s : State) (flags : Nat) (detail : Bytes) : State :=
  let s1 := s.report stOk flags detail
  { s1 with bring := { s1.bring with stage := s1.bring.stage + 1, failed := false, started := s1.time } }

/-- The running stage fails. -/
def State.stageFail (s : State) (st flags : Nat) (detail : Bytes) : State :=
  let s1 := s.report st flags detail
  { s1 with bring := { s1.bring with failed := true } }

/-- The running stage fails with a status that the spec does not state: a free value other than OK. -/
def State.stageFailOpen (s : State) (flags : Nat) (detail : Bytes) : State := (s.took 1).stageFail (s.freeNat % 255 + 1) flags detail

/-- KTL_BOOT and KTL_FW_VERSION. -/
def State.ktlBootVal (s : State) : Nat :=
  s.kettle.slotB.status % 2 ^ 8 * 2 ^ 24 + s.kettle.slotA.status % 2 ^ 8 * 2 ^ 16 + s.kettle.bootStage * 2 ^ 12 + s.kettle.slot % 2
def State.ktlFwVal (s : State) : Nat := s.kettle.fwMajor * 2 ^ 24 + s.kettle.fwMinor * 2 ^ 16 + s.kettle.fwBuild

/-- DETAIL of stage 0x2. -/
def State.fwDetail (s : State) : Bytes := toLe 4 s.ktlBootVal ++ toLe 4 s.ktlFwVal ++ zeros 8

/-- A verified image runs: its sections load and the four cores start. -/
def State.bootImage (s : State) (img : Bytes) (stage : Nat) : State :=
  let s1 := s.runs img
  let up := s1.kettle.cores.map (fun (c : Core) => { c with running := true, restarting := false, held := false, upAt := s.time, halts := [] })
  let s2 : State := { s1 with kettle := { s1.kettle with bootStage := stage, cores := up } }
  if s2.bring.stage = 2 then s2.stagePass 0 s2.fwDetail else s2

/-- The slot under verification is refused: the other slot is tried, or boot stops. -/
def State.slotRefused (s : State) (st : Nat) : State :=
  let k := s.kettle.verifying
  let s1 := (s.slotStatus k st).fwRefused st
  let s2 : State := if st ≠ stVersionMismatch then s1
    else if s1.memOn then s1.journalRefusal k
    else { s1 with kettle := { s1.kettle with refusals := s1.kettle.refusals ++ [k] } }
  if k = s2.kettle.dirActive then { s2 with kettle := { s2.kettle with verifying := 1 - k } }
  else
    let s3 : State := { s2 with kettle := { s2.kettle with bootStage := 4 } }
    s3.stageFail st 0 s3.fwDetail

/-- Boot stops with STAGE 0x4 (R293): without an SFDP signature, a flash answer or a directory. -/
def State.bootStops (s : State) : State :=
  let s1 : State := { s with kettle := { s.kettle with bootStage := 4 } }
  s1.stageFailOpen 0 s1.fwDetail

/-- The ROM reads the flash directory (R294): it verifies the ACTIVE slot first. -/
def State.readDir (s : State) (a b : Bytes) : State :=
  let s1 : State := { s with kettle := { s.kettle with dirA := a, dirB := b } }
  match chooseCopy 0x3C 0x14 a b with
  | some x =>
    let act := leAt x 4 1 % 2
    { s1 with kettle := { s1.kettle with dirActive := act, verifying := act, slotSize := leAt x 0x10 4, bootStage := 2 } }
  | none => s1.bootStops

/-- Whether the ROM has read the SFDP table and reads the directory next, or is verifying a slot. -/
def State.bootReading (s : State) : Bool := s.bring.stage == 2 && s.kettle.bootStage == 1
def State.bootVerifying (s : State) : Bool := s.bring.stage == 2 && s.kettle.bootStage == 2

/-- The verification of the slot's image ends (R295). -/
def State.imageVerified (s : State) (image : Bytes) : State :=
  let k := s.kettle.verifying
  let st := s.checkFw image
  let s1 := s.setFwSlot k { s.fwSlot k with image := some image }
  if st = stOk then
    let s2 := s1.slotStatus k stOk
    ({ s2 with kettle := { s2.kettle with slot := k } } : State).bootImage image 3
  else s1.slotRefused st

/-- FIRMWARE_IMAGE_VERIFIED (R294, R295). -/
def execFirmwareImageVerified (dirA dirB image : Bytes) (s : State) : Host.Outcome State Fault Refusal :=
  .next (let s1 := if s.bootReading then s.readDir dirA dirB else s
    if s1.bootVerifying then s1.imageVerified image else s1)

/-- FLASH_READ_TIMEOUT (R293, R295): the directory gives no answer and boot stops, the slot under verification is refused with TIMEOUT, or
the next FWACT finds its slot unread. -/
def execFlashReadTimeout (s : State) : Host.Outcome State Fault Refusal :=
  .next (if s.bootReading then s.bootStops
    else if s.bootVerifying then s.slotRefused stTimeout
    else { s with kettle := { s.kettle with silent := true } })

/-- KTL_STAGE_GO.RUN while BUSY is 0 (R296): legal once boot has stopped in stage 0x2, or while Kettle 0 is held; ignored in any other
state. -/
def State.runImage (s : State) : State :=
  if ! ((s.bring.stage == 2 && s.kettle.bootStage == 4) || (s.core 0).held) then s
  else
    let s0 := s.request .read s.stageBlk 0 64 .firmware
    let img := s0.bytes (s0.stageBlk * 4096) s0.stageLen
    let st := s0.checkFw img
    let s1 := s0.setStageLast st
    if st ≠ stOk then
      let s2 := s1.fwRefused st
      if st = stVersionMismatch then s2.journalRefusal 2 else s2
    else (s1.bootImage img 5).settleRings (List.range 16)

/-- KTL_STAGE_GO.RUN. -/
def State.goRun (s : State) : State := if s.kettle.staging.isSome then s.setStageLast stBusy else s.runImage

/-- KTL_STAGE_GO_RUN (R296). -/
def execKtlStageGoRun (src : Src) (s : State) : Host.Outcome State Fault Refusal :=
  .next (s.writeAccess src Reg.ktlStageGo State.goRun)

end Sys2Proof.Machine
end

