-- ==== Sys2Proof/Machine/Bring.lean ====
section
/-! DEFINITION. Resets of the block, the fuse reader and staged bring-up (R394, R448, R449, R474, 18_bringup), with the first
write of HUB_JRNL_BASE (R286, R297, R305). -/

namespace Sys2Proof.Machine

/-! ### Resets of the block (R448, R449) -/

/-- A firmware slot of the flash, whose verification status a reset clears. -/
def FwSlot.unread (v : FwSlot) : FwSlot := { v with status := 0 }

/-- Everything in the block at its reset value: what lies outside it stays, which is the integration, device memory and the
flash; so do the commands that wait and the model's own counters. -/
def State.blankBlock (s : State) : State :=
  { pending := s.pending, cfg := s.cfg, mem := s.mem, sb := s.sb, out := s.out, free := s.free,
    kettle := { dirA := s.kettle.dirA, dirB := s.kettle.dirB, dirActive := s.kettle.dirActive, slotSize := s.kettle.slotSize, slotA := s.kettle.slotA.unread, slotB := s.kettle.slotB.unread } }

/-- POWER_ON_RESET (R448). -/
def execPowerOnReset (s : State) : Host.Outcome State Fault Refusal := .next s.blankBlock

/-- Block reset keeps the trip capture fields (R444). -/
def State.blockReset (s : State) : State :=
  ((s.blankBlock.setReg Reg.trvTripCap (s.reg Reg.trvTripCap)).setReg Reg.trvTripTimeLo (s.reg Reg.trvTripTimeLo)).setReg Reg.trvTripTimeHi
    (s.reg Reg.trvTripTimeHi)

/-- BLOCK_RESET (R448). -/
def execBlockReset (s : State) : Host.Outcome State Fault Refusal := .next s.blockReset

/-- RESET_CHECK_DONE (R394): the reset check passes, or the safe state is entered with the pair of copies that disagreed, or
with the pin driver. -/
def execResetCheckDone (badUnit : Option (Nat × Nat)) (pinOk : Bool) (s : State) : Host.Outcome State Fault Refusal :=
  .next (if s.bring.resetCheck.isSome then s
    else
      match (if badUnit.isSome then badUnit else if pinOk then none else some (0x22, 0)) with
      | none => { s with bring := { s.bring with resetCheck := some true } }
      | some (u, w) => (({ s with bring := { s.bring with resetCheck := some false } } : State).selfFault u w).enterSafe 3)

/-! ### Fuses (R474) -/

/-- FUSE_WORD_ACK: the next word is read; the reader has done after word 14. -/
def execFuseWordAck (data : Nat) (s : State) : Host.Outcome State Fault Refusal :=
  .next (if s.fuse.done then s
    else
      let ws := s.fuse.words ++ [data % 2 ^ 64]
      { s with fuse := { words := ws, since := s.time, done := decide (15 ≤ ws.length), failed := false } })

/-- FUSE_READ_TIMEOUT: 10 ms without an acknowledge. -/
def execFuseReadTimeout (s : State) : Host.Outcome State Fault Refusal :=
  .next (if s.fuse.done || decide (s.time < s.fuse.since + msT 10) then s
    else { s with fuse := { s.fuse with done := true, failed := true } })

/-- A fuse word as it was read. -/
def State.fuseWord (s : State) (k : Nat) : Nat := (s.fuse.words[k]?).getD 0

/-- The fuse-bad map, and one tile's bit. -/
def State.fuseBadMap (s : State) : Nat := s.fuseWord 13 * 2 ^ 64 + s.fuseWord 12
def State.fuseBad (s : State) (p : Nat) : Bool := bitAt s.fuseBadMap p == 1

/-! ### Stage 0x1 (R293, R294, R483, R491) -/

/-- The entries of a defect list. -/
def defectsOf (b : Bytes) : List (Nat × Defect) :=
  (List.range 128).foldl (fun t p => Tab.set {} t p
    { origin := leAt b (0x10 + 4 * p) 1, cause := leAt b (0x11 + 4 * p) 1, fails := leAt b (0x12 + 4 * p) 2 }) []

/-- The ROM reads the defect list (R491). -/
def State.readList (s : State) (a b : Bytes) : State :=
  match chooseCopy 0x210 4 a b with
  | none => { s with bring := { s.bring with listLost := true } }
  | some x =>
    let d := defectsOf x
    { s with bring := { s.bring with seq := leAt x 4 4, boots := leAt x 8 4, defects := d, written := d } }

/-- The place of a read in the order of their speed. -/
def FlashMode.rank : FlashMode → Nat
  | .r111 => 0
  | .r112 => 1
  | .r114 => 2
  | .r144 => 3

/-- The fastest of the reads that the table declares, with its dummy cycles. -/
def fastestRead : List (FlashMode × Nat) → FlashMode × Nat
  | [] => (.r111, 0)
  | [x] => x
  | x :: t => if (fastestRead t).1.rank ≤ x.1.rank then x else fastestRead t

/-- The smallest erase size that the table declares, with its instruction. -/
def smallestErase : List (Nat × Nat) → Nat × Nat
  | [] => (0, 0)
  | [x] => x
  | x :: t => if x.1 ≤ (smallestErase t).1 then x else smallestErase t

/-- The reads that the ROM may use: those over four lines only with a quad-enable method it supports (R475). -/
def Sfdp.usable (t : Sfdp) : List (FlashMode × Nat) := t.reads.filter (fun r => t.quadOk || decide (r.1.rank < FlashMode.r114.rank))

/-- What the ROM takes from the SFDP table (R293). -/
def Sfdp.config (t : Sfdp) : FlashCfg :=
  { density := t.density, addr4 := t.addr4, mode := (fastestRead t.usable).1, dummies := (fastestRead t.usable).2
    erase := (smallestErase t.erases).1, eraseOp := (smallestErase t.erases).2 }

/-- The ROM reads the SFDP table (R293): STAGE 0x1, or boot stops where it gives no answer or lacks the signature. -/
def State.readSfdp (s : State) (sfdp : Option Sfdp) : State :=
  match sfdp with
  | some t => if t.signature = 0x50444653 then { s with kettle := { s.kettle with flash := t.config, bootStage := 1 } } else s.bootStops
  | none => s.bootStops

/-- BRING_ROM_STAGE_DONE (R483): digest and memories, the fuse read, the reset check, within 20 ms. -/
def execBringRomStageDone (romOk memOk : Bool) (sfdp : Option Sfdp) (listA listB : Bytes) (s : State) : Host.Outcome State Fault Refusal :=
  .next (if s.bring.stage != 1 || s.bring.failed || ! s.fuse.done || s.bring.resetCheck.isNone then s
    else
      let det := toLe 16 s.fuseBadMap
      if romOk && memOk && ! s.fuse.failed && s.bring.resetCheck == some true && decide (s.time ≤ msT 20) then
        ((s.stagePass 0 det).readList listA listB).readSfdp sfdp
      else
        let s1 : State := if s.fuse.failed then { s with kettle := { s.kettle with bootStage := 4 } } else s
        (s1.faultInt clsKettle 0).stageFailOpen 0 det)

/-! ### Stage 0x3 (R483) -/

/-- The lanes of a mask that failed their vectors are fenced (R191). -/
def State.fenceBad (s : State) (ok : Nat) : List Nat → State
  | [] => s
  | l :: t => (if bitAt ok l = 0 then s.fence l true else s).fenceBad ok t

/-- The table key of R29 is drawn. -/
def State.drawKey (s : State) : State := { s.took 1 with bring := { s.bring with tableKey := s.freeNat } }

/-- The bank of an entry of a banked table, by its index (R29). -/
def State.bankOf (s : State) (index : Nat) : Nat := Config.bankHash s.bring.tableKey index

/-- The Sieve seed is drawn unless host software has written it. -/
def State.drawSeed (s : State) : State := if s.bring.seedWritten then s else { s.took 1 with seed := s.freeNat }

/-- Corrected and uncorrected words of the table tests are faults of their classes; the second is FA (R384, R395). -/
def State.tableFaults (s : State) (tablesOk : Bool) (corrected : Nat) : State :=
  let s1 := if corrected = 0 then s else s.faultInt clsTblCe 0
  if tablesOk then s1 else (s1.faultInt clsTblFa 0).enterSafe 1

/-- BRING_BLOCK_STAGE_DONE: keys and seeds are drawn, failing lanes fenced; all four failing, an uncorrectable word, or more
than 50 ms fail the stage. -/
def execBringBlockStageDone (laneOk : Nat) (tablesOk : Bool) (corrected : Nat) (s : State) : Host.Outcome State Fault Refusal :=
  .next (if s.bring.stage != 3 || s.bring.failed || ! s.coreUp 0 then s
    else
      let s1 := ((s.drawKey.drawSeed.tableFaults tablesOk corrected).fenceBad laneOk (List.range 4))
      let s2 : State := { s1 with bring := { s1.bring with signingKey := true } }
      let flags := 15 - laneOk % 16
      if laneOk % 16 ≠ 0 ∧ tablesOk = true ∧ s.time ≤ s.bring.started + msT 50 then s2.stagePass flags (toLe 4 corrected)
      else s2.stageFailOpen flags (toLe 4 corrected))

/-! ### Stages 0x4 and 0x5 (R485 to R488) -/

/-- The block number of the expectation record. -/
def State.expBlk (s : State) : Nat := s.reg Reg.hubBringExpHi % 2 ^ 6 * 2 ^ 32 + s.reg Reg.hubBringExpLo

/-- The link entries of a record. -/
def linkCount (b : Bytes) : Nat := leAt b 0x0E 2

/-- Bit 8 of R487: MAGIC, CRC, a zero field or a range. -/
def expBad (b : Bytes) : Bool :=
  leAt b 0 4 != 0x5A455850 || crc32cRaw (slice b 0 0xFFC) != leAt b 0xFFC 4 || leAt b 0x0B 1 != 0 || leAt b 0x12 46 != 0 || leAt b 0x840 1980 != 0 ||
    leAt b 0x0C 2 == 0 || decide (60000 < leAt b 0x0C 2) || decide (64 < linkCount b) || leAt b 0x10 2 == 0 || decide (1000 < leAt b 0x10 2) ||
    (List.range (min 64 (linkCount b))).any (fun i => leAt b (0x5C + 32 * i) 4 != 0)

/-- The FLAGS of R487. -/
def State.expFlags (s : State) (b : Bytes) : Nat :=
  let k := leAt b 0x0A 1
  b2n (leAt b 4 1 != s.cfg.ladles) + b2n (leAt b 5 1 != s.cfg.stations) * 2 + b2n (leAt b 6 2 != s.cfg.sensors) * 4 +
    b2n (leAt b 8 1 != s.cfg.clkDomains) * 8 + b2n (leAt b 9 1 != s.cfg.cflLanes) * 16 + b2n (k == 0 || decide (8 < k)) * 32 +
    b2n ((List.range s.cfg.ladles).any (fun p => (s.stop p).unreachable)) * 64 + b2n (s.trv.sensors.any (fun x => x.2.failed)) * 128 +
    b2n (expBad b) * 256

/-- The findings that fail the stage: bits 0 to 5 and 8. -/
def flagsFail (f : Nat) : Bool := f % 64 != 0 || bitAt f 8 == 1

/-- The first reads of a link entry: UP, ERR and DATA. -/
def linkReads (b : Bytes) (i now : Nat) : List StateRead :=
  (List.range 3).map (fun w =>
    let a := leAt b (0x40 + 32 * i + 8 * w) 8
    { addr := a % 2 ^ 40, unit := a / 2 ^ 40 % 2 ^ 8, link := some (i, w), since := now })

/-- A state read goes out (R466). -/
def State.askState (s : State) : List StateRead → State
  | [] => s
  | r :: _ => s.emit (.srd r.addr r.unit)

/-- A tile whose ring stop does not answer fails its start-up test with cause 0x12 (R487, R490, R491). -/
def State.stopFails (s : State) : List Nat → State
  | [] => s
  | p :: t => (if (s.stop p).unreachable then s.startupFail p 0x12 else s).stopFails t

/-- Stage 0x5 begins: the record is read and checked, and the first reads of the links go out. -/
def State.topology (s : State) : State :=
  let s0 := s.request .read s.expBlk 0 64 .bring
  let b := s0.block s0.expBlk
  let f := s0.expFlags b
  let s1 : State := { s0 with bring := { s0.bring with failed := false, started := s0.time, flags := f, links := [], reads := [] } }
  if s.bothStalled then s1.stageFail stTimeout 0 []
  else if flagsFail f then s1.stageFailOpen f []
  else
    let n := linkCount b
    let rs := (List.range n).flatMap (fun i => linkReads b i s1.time)
    let s2 : State := { s1 with bring := { s1.bring with
      k := leAt b 0x0A 1
      testLimit := leAt b 0x0C 2
      linkMs := leAt b 0x10 2
      limits := (List.range n).map (fun i => leAt b (0x58 + 32 * i) 4)
      links := List.replicate n {}
      reads := rs
      tiles := [] } }
    (s2.stopFails (List.range s2.cfg.ladles)).askState rs

/-- GO: it ends stage 0x4, or reruns stage 0x5 after FAILED; in any other state it is ignored (R483). -/
def State.go (s : State) : State :=
  if s.bring.stage = 4 then (s.stagePass 0 (toLe 8 s.expBlk)).topology
  else if s.bring.stage = 5 ∧ s.bring.failed = true then s.topology
  else s

/-- GO (R496). -/
def execGo (src : Src) (s : State) : Host.Outcome State Fault Refusal := .next (s.writeAccess src Reg.hubBringCtrl State.go)

/-- Reads of the state-read channel that have not ended within 2 µs are given up, each next one going out then (R417, R466). -/
def expireReads (now : Nat) : List StateRead → List StateRead
  | [] => []
  | r :: t =>
    if r.since + usT 2 ≤ now then
      match expireReads now t with
      | [] => []
      | x :: u => { x with since := max x.since (r.since + usT 2) } :: u
    else r :: t

/-- A value of a link's first sample. -/
def LinkMeas.put (m : LinkMeas) (w v : Nat) : LinkMeas :=
  if w = 0 then { m with up := some v } else if w = 1 then { m with err := some v } else { m with data := some v }

/-- The answer to a link's read (R466, R488). -/
def State.linkAnswer (s : State) (data : Nat) (err : Bool) : State :=
  match expireReads s.time s.bring.reads with
  | [] => { s with bring := { s.bring with reads := [] } }
  | r :: t =>
    let t1 := match t with
      | [] => []
      | x :: u => { x with since := s.time } :: u
    let ls := match r.link with
      | some (i, w) => if err then s.bring.links else setAt s.bring.links i (((s.bring.links[i]?).getD {}).put w (data % 2 ^ 32))
      | none => s.bring.links
    ({ s with bring := { s.bring with reads := t1, links := ls } } : State).askState t1

/-- The outcomes of R488. -/
inductive LinkOut where
  | unreadable
  | down
  | high (rate : Nat)
  | ok
  deriving DecidableEq, Repr

/-- ΔERR × 2^32 and ΔDATA, by modulo-2^32 differences. -/
def linkJudge (m : LinkMeas) (e2 d2 : Option Nat) (limit : Nat) : LinkOut :=
  match m.up, m.err, m.data, e2, d2 with
  | some u, some e, some d, some e', some d' =>
    if u % 2 = 0 then .down
    else
      let de := (e' % 2 ^ 32 + 2 ^ 32 - e) % 2 ^ 32
      let dd := (d' % 2 ^ 32 + 2 ^ 32 - d) % 2 ^ 32
      if dd ≠ 0 ∧ limit * dd < de * 2 ^ 32 then .high (de * 2 ^ 32 / dd) else .ok
  | _, _, _, _, _ => .unreadable

/-- Every link of the record. -/
def linkOuts : List LinkMeas → List (Option Nat × Option Nat) → List Nat → List LinkOut
  | [], _, _ => []
  | m :: ms, es, ls =>
    let e := (es.head?).getD (none, none)
    linkJudge m e.1 e.2 ((ls.head?).getD 0) :: linkOuts ms (es.drop 1) (ls.drop 1)

/-- The counter of an outcome. -/
def State.countLink (s : State) : LinkOut → State
  | .unreadable => s.count Reg.hubCntLinkUnread
  | .down => s.count Reg.hubCntLinkDown
  | .high _ => s.count Reg.hubCntLinkHigh
  | .ok => s

/-- Counts every outcome. -/
def State.countLinks (s : State) : List LinkOut → State
  | [] => s
  | o :: t => (s.countLink o).countLinks t

/-- Links of an outcome. -/
def linksThat (p : LinkOut → Bool) (os : List LinkOut) : Nat := (os.filter p).length

/-- The worst HIGH link so far and its rate, over the links from number `i`. -/
def worstHigh : Nat → Option (Nat × Nat) → List LinkOut → Option (Nat × Nat)
  | _, w, [] => w
  | i, w, .high r :: t =>
    worstHigh (i + 1) (match w with
      | some (k, q) => if q < r then some (i, r) else some (k, q)
      | none => some (i, r)) t
  | i, w, _ :: t => worstHigh (i + 1) w t

/-- DETAIL of stage 0x5; the spec states no worst link where none is HIGH, and no field for a rate of 2^32 or more. -/
def State.linkDetail (s : State) (os : List LinkOut) : State × Bytes :=
  let n (p : LinkOut → Bool) : Bytes := toLe 2 (linksThat p os)
  let head := n (fun o => o == .ok) ++ n (fun o => o == .unreadable) ++ n (fun o => o == .down) ++
    n (fun o => match o with
      | .high _ => true
      | _ => false)
  match worstHigh 0 none os with
  | some (k, r) => if r < 2 ^ 32 then (s, head ++ toLe 2 k ++ toLe 4 r ++ zeros 2) else (s.took 1, head ++ toLe 2 k ++ toLe 4 s.freeNat ++ zeros 2)
  | none => (s.took 2, head ++ toLe 2 s.freeNat ++ toLe 4 (s.took 1).freeNat ++ zeros 2)

/-- BRING_LINK_MEASURE_END (R488): LINK_MS after the first reads each link is judged, and stage 0x5 passes; it fails where it has taken more
than 100 ms beside LINK_MS (R483). -/
def execBringLinkMeasureEnd (second : List (Option Nat × Option Nat)) (s : State) : Host.Outcome State Fault Refusal :=
  .next (if s.bring.stage != 5 || s.bring.failed || decide (s.time < s.bring.started + msT s.bring.linkMs) then s
    else
      let os := linkOuts s.bring.links second s.bring.limits
      let q := (s.countLinks os).linkDetail os
      let s1 := if s.time ≤ s.bring.started + msT 100 + msT s.bring.linkMs then q.1.stagePass s.bring.flags q.2 else q.1.stageFailOpen s.bring.flags q.2
      { s1 with bring := { s1.bring with links := [], reads := [] } })

/-! ### Stage 0x6 (R489, R490) -/

/-- Start-up test of a tile. -/
def State.tileTest (s : State) (p : Nat) : TileTest := Tab.get {} s.bring.tiles p
def State.setTileTest (s : State) (p : Nat) (v : TileTest) : State :=
  { s with bring := { s.bring with tiles := Tab.set {} s.bring.tiles p v } }

/-- Tiles of the instance that are not fuse-bad. -/
def State.goodTiles (s : State) : List Nat := (List.range s.cfg.ladles).filter (fun p => ! s.fuseBad p)

/-- Marks each tile of a list released. -/
def State.markReleased (s : State) : List Nat → State
  | [] => s
  | p :: t => (s.setTileTest p { s.tileTest p with released := true }).markReleased t

/-- BRING_TILE_RELEASE: reset is lowered on the compute part slot, every cluster slot and every tile slot that is not
fuse-bad. -/
def execBringTileRelease (s : State) : Host.Outcome State Fault Refusal :=
  .next (if s.bring.stage != 6 || s.bring.released then s
    else
      let ts := s.goodTiles
      let s1 := s.drive 1 false (ts ++ (List.range 16).map (128 + ·) ++ [144])
      let s2 : State := { s1 with bring := { s1.bring with released := true, started := s1.time } }
      ((s2.markReleased ts).tilesLeave ts).askKats ts)

/-- A tile that fails is reset again, and its reset stays high. -/
def State.resetAgain (s : State) (p : Nat) : State := (s.drive1 p 1 true).tileEnter p

/-- BRING_TILE_READY_TIMEOUT: a released tile that is not ready within 38 ms is judged failed with cause NOT_READY; a tile whose self-check runs
or has ended is ready. -/
def execBringTileReadyTimeout (tile : Nat) (s : State) : Host.Outcome State Fault Refusal :=
  .next (let b := s.tileTest tile
    if s.bring.stage = 6 ∧ b.released = true ∧ b.failed = none ∧ (s.ladle tile).checked = none ∧ (s.ladle tile).kat ≠ .running ∧ s.bring.started + msT 38 ≤ s.time then
      (s.startupFail tile 0x10).resetAgain tile
    else s)

/-- A released tile has ended its start-up test: failed, or its self-check and every test that applies passed. -/
def State.tileEnded (s : State) (p : Nat) : Bool :=
  let c := (s.ladle p).checked
  (s.tileTest p).failed.isSome || c == some false ||
    (c == some true && (s.startupNext p).isNone && s.whisk.all (fun w => w.tile != p))

/-- Judges what is still open at the end of stage 0x6: a failed self-check has cause 0x11, a run that has not ended a cause
that the spec does not state. -/
def State.judgeTile (s : State) (p : Nat) : State :=
  if (s.tileTest p).failed.isSome then s
  else if (s.ladle p).checked = some false then s.startupFail p 0x11
  else if s.tileEnded p then s
  else (s.took 1).startupFail p (s.freeNat % 256)

/-- Judges each tile of a list. -/
def State.judgeTiles (s : State) : List Nat → State
  | [] => s
  | p :: t => (s.judgeTile p).judgeTiles t

/-- Writes an entry of the defect list as the Kettle holds it. -/
def State.setDefect (s : State) (p : Nat) (d : Defect) : State :=
  { s with bring := { s.bring with defects := Tab.set {} s.bring.defects p d } }

/-- R490 for one tile, by the first row that applies; a usable tile is SPARE until R493 maps it. -/
def State.decideTile (s : State) (p : Nat) : State :=
  let d := s.defect p
  let f := (s.tileTest p).failed
  if s.fuseBad p then (s.setTileState p .fuseBad).count Reg.hubCntBringFuseBad
  else if d.origin ≠ 0 ∧ f.isSome = true then
    (((s.resetAgain p).setTileState p .testBad).setDefect p { d with fails := min 0xFFFF (d.fails + 1) }).count Reg.hubCntBringTestBad
  else if d.origin ≠ 0 then (s.setTileState p .testBad).count Reg.hubCntBringListed
  else
    match f with
    | some c => (((s.resetAgain p).setTileState p .testBad).setDefect p { origin := 1, cause := c, fails := 1 }).count Reg.hubCntBringTestBad
    | none => (s.setTileState p .spare).count Reg.hubCntBringPass

/-- Decides each tile of a list. -/
def State.decideTiles (s : State) : List Nat → State
  | [] => s
  | p :: t => (s.decideTile p).decideTiles t

/-- A test that applies to some tile is skipped because its recipe is not ACTIVE (R489). -/
def State.testsSkipped (s : State) : Bool :=
  s.content.tests.any (fun t => ! s.recipeActive t.recipe && s.goodTiles.any (fun p => s.planOf p == t.plan))

/-- The TEST_BAD map. -/
def State.testBadMap (s : State) : Nat := maskBy 128 (fun p => s.tileState p == .testBad)

/-- BRING_TEST_DONE (R490): every tile has ended its test, or TEST_LIMIT has passed. -/
def execBringTestDone (s : State) : Host.Outcome State Fault Refusal :=
  .next (let ts := s.goodTiles
    if s.bring.stage != 6 || ! s.bring.released ||
        ! (ts.all s.tileEnded || decide (s.bring.started + msT 38 + msT s.bring.testLimit ≤ s.time)) then s
    else
      let s1 := s.judgeTiles ts
      let s2 : State := { s1 with whisk := s1.whisk.filter (fun w => ! w.startup) }
      let s3 := s2.decideTiles (List.range s.cfg.ladles)
      s3.stagePass (b2n s.testsSkipped) (toLe 16 s3.testBadMap))

/-! ### Stage 0x7 and the defect list (R491 to R493) -/

/-- The logical tiles of cluster `c` from number `j`, `n` of them, with the spares that remain: the tile map's pairs, the
spares left, and how many stay unmapped. -/
def mapCluster (k c : Nat) (usable : Nat → Bool) (j : Nat) (spares : List Nat) : Nat → List (Nat × Nat) × List Nat × Nat
  | 0 => ([], spares, 0)
  | n + 1 =>
    if usable (8 * c + j) then
      let q := mapCluster k c usable (j + 1) spares n
      ((c * k + j, 8 * c + j) :: q.1, q.2)
    else
      match spares with
      | [] =>
        let q := mapCluster k c usable (j + 1) [] n
        (q.1, q.2.1, q.2.2 + 1)
      | x :: t =>
        let q := mapCluster k c usable (j + 1) t n
        ((c * k + j, x) :: q.1, q.2)

/-- Whether a physical tile is usable (R490). -/
def State.usable (s : State) (p : Nat) : Bool := s.tileState p == .spare

/-- The mapping of one cluster (R493). -/
def State.clusterMap (s : State) (c : Nat) : List (Nat × Nat) × List Nat × Nat :=
  let k := s.bring.k
  mapCluster k c s.usable 0 (((List.range (8 - k)).map (fun i => 8 * c + k + i)).filter s.usable) k

/-- Enters pairs in the tile map, each physical tile MAPPED. -/
def State.mapPairs (s : State) : List (Nat × Nat) → State
  | [] => s
  | x :: t => (({ s with tileMap := Tab.place s.tileMap x.1 x.2 } : State).setTileState x.2 .mapped).mapPairs t

/-- A rewrite of the defect list completes or fails (R491, R492). -/
def State.listWritten (s : State) (ok : Bool) : State :=
  if ok then { s with bring := { s.bring with seq := (s.bring.seq + 1) % 2 ^ 32, written := s.bring.defects, rewrite := false } }
  else ({ s with bring := { s.bring with rewrite := false } } : State).setBits Reg.hubBringStatus (2 ^ 25)

/-- Quiesce is lowered on the slots whose reset is low (R489). -/
def State.lowerQuiesce (s : State) : State := s.drive 0 false ((List.range 145).filter (fun i => bitAt (s.rout i) 1 == 0))

/-- BRING_MAP_DONE (R493): the defect list is rewritten with BOOTS raised, the tile map is built and driven, and the block is
READY. -/
def execBringMapDone (flashOk : Bool) (s : State) : Host.Outcome State Fault Refusal :=
  .next (if s.bring.stage != 7 then s
    else
      let s1 := ({ s with bring := { s.bring with boots := (s.bring.boots + 1) % 2 ^ 32 } } : State).listWritten flashOk
      let ms := s1.clusters.map s1.clusterMap
      let pairs := ms.flatMap (fun m => m.1)
      let short := ((s1.clusters.zip ms).map (fun x => b2n (x.2.2.2 != 0) * 2 ^ x.1)).foldl (· + ·) 0
      let s2 := s1.mapPairs pairs
      let s3 : State := { s2 with tmapSeq := if pairs.isEmpty then s2.tmapSeq else (s2.tmapSeq + 1) % 256 }
      let det := toLe 1 pairs.length ++ toLe 1 ((ms.map (fun m => m.2.1.length)).foldl (· + ·) 0) ++ toLe 2 short ++ toLe 4 s3.bring.boots
      let s4 := s3.stagePass (b2n (! flashOk) + b2n s3.bring.listLost * 2) det
      (s4.report stOk 0 []).lowerQuiesce)

/-- DEFECT_LIST_REWRITE (R492): a requested rewrite ends; it waits while a staging runs. -/
def execDefectListRewrite (flashOk : Bool) (s : State) : Host.Outcome State Fault Refusal :=
  .next (if s.bring.rewrite && s.kettle.staging.isNone then s.listWritten flashOk else s)

/-- ADD names the source's selected tile with ORIGIN 3 and the cause of a host. -/
def State.addDefect (s : State) (src : Src) : State :=
  let p := s.banked src .defectSel % 128
  let s1 := s.setDefect p { s.defect p with cause := 0x13 }
  s1.setOrigin p 3

/-- HUB_DEFECT_CTRL_ADD (R492). -/
def execHubDefectCtrlAdd (src : Src) (s : State) : Host.Outcome State Fault Refusal :=
  .next (s.writeAccess src Reg.hubDefectCtrl (fun q => q.addDefect src))

/-- CLEAR sets the ORIGIN of the source's selected tile to 0. -/
def State.clearDefect (s : State) (src : Src) : State := s.setOrigin (s.banked src .defectSel % 128) 0

/-- HUB_DEFECT_CTRL_CLEAR (R492). -/
def execHubDefectCtrlClear (src : Src) (s : State) : Host.Outcome State Fault Refusal :=
  .next (s.writeAccess src Reg.hubDefectCtrl (fun q => q.clearDefect src))

/-! ### Partitions (R13, R494) -/

/-- Any context has an open step on a tile of a cluster. DESIGN CHOICE, log entry 111: the tiles of a step are those of its ops that the Lid
has accepted and no replay has reset, and a step is open until it commits or is abandoned. -/
def State.clusterBusy (s : State) (c : Nat) : Bool :=
  s.ctxs.any (fun x => x.2.slots.any (fun sl => sl.live && sl.ops.any (fun o => ! o.notAccepted && o.tile / 8 == c)))

/-- Whether a value of HUB_PART_MAP_LO or HI would move a cluster under the condition of R13. -/
def State.partBlocked (s : State) (hi : Bool) (v : Nat) : Bool :=
  let old := s.reg (if hi then Reg.hubPartMapHi else Reg.hubPartMapLo)
  (List.range 8).any (fun i => fieldOf old (4 * i + 3) (4 * i) != fieldOf v (4 * i + 3) (4 * i) && s.clusterBusy (if hi then 8 + i else i))

/-- A write of a partition map: ignored before stage 0x8, and where it would move a cluster under R13. -/
def State.partWrite (s : State) (hi : Bool) (v : Nat) : State :=
  if s.bring.stage != 8 || s.partBlocked hi v then s else s.setReg (if hi then Reg.hubPartMapHi else Reg.hubPartMapLo) v

/-- HUB_PART_MAP_WRITE (R494). -/
def execHubPartMapWrite (src : Src) (hi : Bool) (val : Nat) (s : State) : Host.Outcome State Fault Refusal :=
  .next (s.writeAccess src (if hi then Reg.hubPartMapHi else Reg.hubPartMapLo) (fun q => q.partWrite hi (val % 2 ^ 32)))

/-! ### The journal area (R286, R297, R305) -/

/-- Journals the boot refusals of a list. -/
def State.journalRefusals (s : State) : List Nat → State
  | [] => s
  | k :: t => (s.journalRefusal k).journalRefusals t

/-- The first write of HUB_JRNL_BASE: the memory copy starts with the oldest entry on chip, and the boot refusals are
journaled. Later writes are ignored (R9). -/
def State.jrnlBase (s : State) (v : Nat) : State :=
  if s.memOn then s
  else
    let s1 : State := { s.setReg Reg.hubJrnlBase v with rwl := s.rwl ++ [Reg.hubJrnlBase], jcopied := ((s.journal.head?).map (fun e => e.jseq)).getD s.jseq }
    let s2 := s1.copyJournal
    let rs := s2.kettle.refusals
    ({ s2 with kettle := { s2.kettle with refusals := [] } } : State).journalRefusals rs

/-- HUB_JRNL_BASE_WRITE (R286). -/
def execHubJrnlBaseWrite (src : Src) (val : Nat) (s : State) : Host.Outcome State Fault Refusal :=
  .next (s.writeAccess src Reg.hubJrnlBase (fun q => q.jrnlBase val))

end Sys2Proof.Machine
end

