-- ==== Sys2Proof/Machine/Counters.lean ====
section
/-! DEFINITION. The clear registers of the counters (R158, R183, R215, R242, R274, R306, R328, R357, R378, R400, R424, R445,
R481, R497): a write with bit 0 zeros its counters. -/

namespace Sys2Proof.Machine

/-- Zeros `n` counters from `a` where bit 0 of the value written is 1 (R183). -/
def State.clearRun (s : State) (v a n : Nat) : State := if bitAt v 0 = 1 then s.zeroRun a n else s

/-- Zeros COL_CNT_GLITCH of the stations of a list (R400). -/
def State.zeroGlitch (s : State) : List Nat → State
  | [] => s
  | k :: t => (s.setReg (atStn k Reg.colCntGlitch) 0).zeroGlitch t

/-- The effect of a write of COL_CNT_CLR. -/
def State.clearCol (s : State) (v : Nat) : State :=
  if bitAt v 0 = 1 then (s.zeroRun Reg.colCntCe 7).zeroGlitch (List.range 17) else s

/-- LDL_CNT_CLR (R158) of a physical tile. -/
def execLdlCntClr (src : Src) (tile val : Nat) (s : State) : Host.Outcome State Fault Refusal :=
  .next (s.writeAccess src (atTile tile Reg.ldlCntClr) (fun q => q.clearRun val (atTile tile Reg.ldlCntOps) 27))

/-- HUB_SEAL_CNT_CLR (R183). -/
def execHubSealCntClr (src : Src) (val : Nat) (s : State) : Host.Outcome State Fault Refusal :=
  .next (s.writeAccess src Reg.hubSealCntClr (fun q => q.clearRun val Reg.hubCntBlkVerified 19))

/-- MTR_CNT_CLR (R215). -/
def execMtrCntClr (src : Src) (val : Nat) (s : State) : Host.Outcome State Fault Refusal :=
  .next (s.writeAccess src Reg.mtrCntClr (fun q => q.clearRun val Reg.mtrCntSamples 18))

/-- LID_CNT_CLR (R242). -/
def execLidCntClr (src : Src) (val : Nat) (s : State) : Host.Outcome State Fault Refusal :=
  .next (s.writeAccess src Reg.lidCntClr (fun q => q.clearRun val Reg.lidCntOpened 11))

/-- SCK_CNT_CLR (R242). -/
def execSckCntClr (src : Src) (val : Nat) (s : State) : Host.Outcome State Fault Refusal :=
  .next (s.writeAccess src Reg.sckCntClr (fun q => q.clearRun val Reg.sckCntUpdates 3))

/-- HUB_SIS_CNT_CLR (R274). -/
def execHubSisCntClr (src : Src) (val : Nat) (s : State) : Host.Outcome State Fault Refusal :=
  .next (s.writeAccess src Reg.hubSisCntClr (fun q => q.clearRun val Reg.hubCntPrograms 8))

/-- KTL_CNT_CLR (R306). -/
def execKtlCntClr (src : Src) (val : Nat) (s : State) : Host.Outcome State Fault Refusal :=
  .next (s.writeAccess src Reg.ktlCntClr (fun q => q.clearRun val Reg.ktlCntTaken 6))

/-- HUB_JRNL_CNT_CLR (R306). -/
def execHubJrnlCntClr (src : Src) (val : Nat) (s : State) : Host.Outcome State Fault Refusal :=
  .next (s.writeAccess src Reg.hubJrnlCntClr (fun q => q.clearRun val Reg.hubCntJrnlLost 1))

/-- HUB_PAIR_CNT_CLR (R328). -/
def execHubPairCntClr (src : Src) (val : Nat) (s : State) : Host.Outcome State Fault Refusal :=
  .next (s.writeAccess src Reg.hubPairCntClr (fun q => q.clearRun val Reg.hubCntPairGroups 5))

/-- HUB_CKPT_CNT_CLR (R357). -/
def execHubCkptCntClr (src : Src) (val : Nat) (s : State) : Host.Outcome State Fault Refusal :=
  .next (s.writeAccess src Reg.hubCkptCntClr (fun q => q.clearRun val Reg.hubCntPeerRx 8))

/-- HUB_FT_CNT_CLR (R378). -/
def execHubFtCntClr (src : Src) (val : Nat) (s : State) : Host.Outcome State Fault Refusal :=
  .next (s.writeAccess src Reg.hubFtCntClr (fun q => q.clearRun val Reg.hubCntWhiskRuns 12))

/-- COL_CNT_CLR (R400): every COL_CNT_GLITCH is cleared too. -/
def execColCntClr (src : Src) (val : Nat) (s : State) : Host.Outcome State Fault Refusal :=
  .next (s.writeAccess src Reg.colCntClr (fun q => q.clearCol val))

/-- HUB_RCV_CNT_CLR (R424). -/
def execHubRcvCntClr (src : Src) (val : Nat) (s : State) : Host.Outcome State Fault Refusal :=
  .next (s.writeAccess src Reg.hubRcvCntClr (fun q => q.clearRun val Reg.hubCntHang 12))

/-- TRV_CNT_CLR (R445). -/
def execTrvCntClr (src : Src) (val : Nat) (s : State) : Host.Outcome State Fault Refusal :=
  .next (s.writeAccess src Reg.trvCntClr (fun q => q.clearRun val Reg.trvCntWarn 10))

/-- HUB_PORT_CNT_CLR (R481). -/
def execHubPortCntClr (src : Src) (val : Nat) (s : State) : Host.Outcome State Fault Refusal :=
  .next (s.writeAccess src Reg.hubPortCntClr (fun q => q.clearRun val Reg.hubCntRegErr 6))

/-- HUB_BRING_CNT_CLR (R497). -/
def execHubBringCntClr (src : Src) (val : Nat) (s : State) : Host.Outcome State Fault Refusal :=
  .next (s.writeAccess src Reg.hubBringCntClr (fun q => q.clearRun val Reg.hubCntBringPass 7))

end Sys2Proof.Machine
end

