-- ==== Sys2Proof/Machine/RegRead.lean ====
section
/-! DEFINITION. What every register reads as (R9, R498 to R500 and the register tables of the chapters), and the reads with
an effect of their own: the low halves of coherent pairs, and HUB_DUMP_DATA (R28, R305, R327, R422). -/

namespace Sys2Proof.Machine

/-! ### Values of the Hub's registers -/

/-- The bytes of a run of 32-bit registers: the word at register `k`. -/
def wordAt (b : Bytes) (k : Nat) : Nat := leAt b (4 * k) 4

/-- HUB_SIS_STATUS, HUB_SIS_THREAD and HUB_SIS_THREAD_PC (R273). -/
def State.sisStatusVal (s : State) : Nat :=
  s.progs.length * 2 ^ 16 + s.openTickets * 2 ^ 7 + b2n (s.bit Reg.hubSisStatus 6) * 2 ^ 6 + (s.threads.filter (fun t => t.2.st != .idle)).length

def ThreadState.code : ThreadState → Nat
  | .idle => 0
  | .ready => 1
  | .issued => 2
  | .waiting => 3
  | .swapping => 4

def State.sisThreadVal (s : State) (t : Nat) : Nat :=
  let v := s.thread t
  v.st.code * 2 ^ 29 + v.prog.getD 0 * 2 ^ 16 + ((v.prog.bind s.program).map Program.ctx).getD 0

def State.sisPcVal (s : State) (t : Nat) : Nat :=
  match (s.thread t).prog.bind s.program with
  | some p => p.status * 2 ^ 24 + p.pc
  | none => 0

/-- A word of the journal window (R286). -/
def State.jrnlWord (s : State) (off : Nat) : Nat :=
  match s.journal.find? (fun e => e.jseq % 256 == off / 64) with
  | some e => leAt e.bytes (off % 64) 4
  | none => 0

/-- A word of the bring-up log (R495). -/
def State.logWord (s : State) (off : Nat) : Nat := leAt ((s.bring.log[off / 32]?).getD []) (off % 32) 4

/-- HUB_BRING_STATUS (R496). -/
def State.bringStatusVal (s : State) : Nat :=
  s.bring.stage * 2 ^ 28 + b2n s.bring.failed * 2 ^ 27 + b2n s.bring.listLost * 2 ^ 26 + b2n (s.bit Reg.hubBringStatus 25) * 2 ^ 25
    + s.bring.log.length * 2 ^ 16 + s.bring.result % 2 ^ 8 * 2 ^ 8

/-- HUB_DEFECT_INFO (R496). -/
def State.defectInfoVal (s : State) (p : Nat) : Nat :=
  let d : Defect := Tab.get {} s.bring.written p
  d.origin % 4 * 2 ^ 24 + d.cause % 2 ^ 8 * 2 ^ 16 + d.fails % 2 ^ 16

/-- HUB_WHISK_STATUS, HUB_TC_INFO, HUB_SUSP_STATUS and HUB_QUAR_STATUS (R377). -/
def State.whiskStatusVal (s : State) : Nat :=
  (match s.whisk with
   | w :: _ => 2 ^ 31 + w.tile % 128 * 2 ^ 24 + w.test % 2 ^ 16
   | [] => 0) + s.whiskQ.length % 32 * 2 ^ 19
def State.tcInfoVal (s : State) : Nat := s.content.version % 2 ^ 16 * 2 ^ 16 + s.content.tests.length % 2 ^ 16
def State.suspUsed (s : State) : Nat := 260 + (s.susp.filter (fun p => decide (0x200 ≤ p.1) && p.2.st != .free)).length
def State.suspStatusVal (s : State) : Nat := s.suspUsed * 2 ^ 16 + s.reg Reg.hubSuspStatus % 8
def State.quarStatusVal (s : State) : Nat := s.pendingTiles * 2 ^ 24 + s.quarLast

/-- Phases of R407. -/
def RstPhase.code : RstPhase → Nat
  | .idle => 0
  | .quiesce => 1
  | .drain => 2
  | .reset => 4
  | .ready => 5
  | .held => 6

/-- HUB_RST_STATUS (R422). -/
def State.rstStatusVal (s : State) (k : Nat) : Nat :=
  let r := s.rst k
  b2n r.active * 2 ^ 31 + r.phase.code * 2 ^ 28 + r.level % 4 * 2 ^ 26 + b2n (s.windows.any (fun w => w.slot == k)) * 2 ^ 25
    + r.id % 2 ^ 8 * 2 ^ 16 + r.last % 2 ^ 8 * 2 ^ 8

/-- HUB_WATCH_STATUS and HUB_WATCH_DOM (R422). -/
def State.watchStatusVal (s : State) : Nat :=
  min 255 (s.watched.filter (fun p => p.2.hung || p.2.verdictHung)).length * 2 ^ 8 + s.reg Reg.hubWatchStatus % 4
def State.watchDomVal (s : State) (u : Nat) : Nat :=
  let d := s.watchDom u
  if u < 128 then b2n (decide (u < s.cfg.ladles)) * 2 ^ 31 + d.clk % 32 * 2 ^ 24 + (if u < s.cfg.ladles then u else 0)
  else b2n d.valid * 2 ^ 31 + d.level % 4 * 2 ^ 29 + d.clk % 32 * 2 ^ 24 + d.id % 128

/-- HUB_DUMP_STATUS (R422). -/
def State.dumpStatusVal (s : State) : Nat := b2n s.dump.isSome * 2 ^ 31 + s.reg Reg.hubDumpStatus % 2 ^ 31

/-- HUB_PORT_CFG and HUB_PORT_STATUS (R480). -/
def State.portCfgVal (s : State) : Nat := s.cfg.clkDomains % 2 ^ 6 * 2 ^ 4 + s.cfg.cflLanes % 2 ^ 4
def State.portStatusVal (s : State) : Nat := b2n s.port1.stalled * 2 + b2n s.port0.stalled

/-- HUB_CONFIG (R4). -/
def State.configVal (s : State) : Nat := s.cfg.sensors % 2 ^ 9 * 2 ^ 16 + s.cfg.stations % 2 ^ 5 * 2 ^ 8 + s.cfg.ladles % 2 ^ 8

/-- HUB_SIEVE_MODEL_U_LO to F of the selected entry (R216). -/
def State.modelVal (s : State) (src : Src) (a : Nat) : Nat :=
  let k := s.banked src .modelSel
  let m := s.model k
  if k = 0 ∨ 5 < k then 0
  else if a = Reg.hubSieveModelULo then m.u % 2 ^ 32
  else if a = Reg.hubSieveModelUHi then m.u / 2 ^ 32 % 2 ^ 32
  else if a = Reg.hubSieveModelV then m.v / 2 ^ 32 % 2 ^ 32
  else m.f % 2 ^ 16

/-- The selector that a selector register is. -/
def selOf (a : Nat) : Option Bank :=
  if a = Reg.hubRcpSel then some .rcpSel
  else if a = Reg.hubSisThreadSel then some .threadSel
  else if a = Reg.hubSieveModelSel then some .modelSel
  else if a = Reg.hubWatchDomSel then some .watchDomSel
  else if a = Reg.hubRstSel then some .rstSel
  else if a = Reg.hubDefectSel then some .defectSel
  else if a = Reg.hubDumpAddr then some .dumpAddr
  else if a = Reg.ktlRingSel then some .ringSel
  else if a = Reg.lidCtxSel then some .lidCtxSel
  else if a = Reg.sckSel then some .sckSel
  else if a = Reg.trvZoneSel then some .zoneSel
  else if a = Reg.trvDomSel then some .domSel
  else if a = Reg.trvPartSel then some .partSel
  else none

/-- Hub registers below 0x600. -/
def State.hubVal0 (s : State) (src : Src) (a : Nat) : Nat :=
  if a = Reg.hubVersion then 0x0302005A
  else if a = Reg.hubConfig then s.configVal
  else if a = Reg.hubTimeLo then s.time % 2 ^ 32
  else if a = Reg.hubTimeHi then s.banked src .timeHi
  else if a = Reg.hubRcpInfo then s.rcpInfoVal (s.banked src .rcpSel)
  else if a = Reg.hubSieveSpillSize then min 256 (s.reg a)
  else if Reg.hubSieveModelULo ≤ a ∧ a ≤ Reg.hubSieveModelF then s.modelVal src a
  else if a = Reg.hubSisStatus then s.sisStatusVal
  else if a = Reg.hubSisThread then s.sisThreadVal (s.banked src .threadSel)
  else if a = Reg.hubSisThreadPc then s.sisPcVal (s.banked src .threadSel)
  else if a = Reg.hubJrnlNextLo then s.jseq % 2 ^ 32
  else if a = Reg.hubJrnlNextHi then s.banked src .jrnlHi
  else if a = Reg.hubJrnlStatus then s.reg a + b2n s.memOn
  else s.reg a

/-- Hub registers from 0x600. -/
def State.hubVal1 (s : State) (src : Src) (a : Nat) : Nat :=
  if a = Reg.hubMode then b2n s.trv.held.isSome * 2 + b2n s.fixed
  else if a = Reg.hubPairStatus then s.pairings.length % 128 * 2 ^ 16 + s.reg a
  else if a = Reg.hubProvNextLo then s.provNext % 2 ^ 32
  else if a = Reg.hubProvNextHi then s.banked src .provHi
  else if a = Reg.hubPeerRxPtr then s.peer.prod % 2 ^ 16 * 2 ^ 16 + s.reg a
  else if Reg.hubCkptPub ≤ a ∧ a < Reg.hubCkptEndorse then wordAt s.signerPub ((a - Reg.hubCkptPub) / 4)
  else if a = Reg.hubWhiskStatus then s.whiskStatusVal
  else if a = Reg.hubTcInfo then s.tcInfoVal
  else if a = Reg.hubSuspStatus then s.suspStatusVal
  else if a = Reg.hubQuarStatus then s.quarStatusVal
  else if a = Reg.hubWatchStatus then s.watchStatusVal
  else if a = Reg.hubWatchDom then s.watchDomVal (s.banked src .watchDomSel)
  else if a = Reg.hubRstStatus then s.rstStatusVal (s.banked src .rstSel)
  else if a = Reg.hubCflStatus then s.teardowns.length
  else if a = Reg.hubDumpStatus then s.dumpStatusVal
  else if a = Reg.hubDumpData then Tab.get 0 s.dumpSram (s.banked src .dumpAddr / 4)
  else if a = Reg.hubDumpListCount then min 4000 (s.reg a)
  else if a = Reg.hubPortCfg then s.portCfgVal
  else if a = Reg.hubPortStatus then s.portStatusVal
  else if a = Reg.hubBringStatus then s.bringStatusVal
  else if a = Reg.hubDefectInfo then s.defectInfoVal (s.banked src .defectSel)
  else if Reg.hubBringLog ≤ a ∧ a < Reg.hubBringLog + 0x200 then s.logWord (a - Reg.hubBringLog)
  else if Reg.hubJrnlWin ≤ a then s.jrnlWord (a - Reg.hubJrnlWin)
  else s.reg a

/-! ### Colander (R398, R399) -/

/-- COL_STATUS. -/
def State.colStatusVal (s : State) : Nat :=
  b2n s.safe.isSome * 2 ^ 31 + s.safe.getD 0 * 2 ^ 28 + s.reg Reg.colStatus + b2n s.faAny * 4 + b2n s.ucAny * 2 + b2n s.ceAny

/-- Half a station's level word. -/
def State.lvlVal (s : State) (stn base : Nat) : Nat :=
  maskBy 32 (fun i => if stn = 16 then s.errBit 16 (base + i) else (s.pair stn (base + i)).lvl != .ok)

/-- A word of the fixed classes of station 16. -/
def class16Val (k : Nat) : Nat :=
  ((List.range 16).map (fun i => (if 1 ≤ 16 * k + i ∧ 16 * k + i ≤ 18 then class16 (16 * k + i) else 2) * 4 ^ i)).foldl (· + ·) 0

/-- A station's registers. -/
def State.stnVal (s : State) (a : Nat) : Nat :=
  let stn := (a - 0x11000) / 0x100
  let off := a % 0x100
  if off = 0x10 then s.lvlVal stn 0
  else if off = 0x14 then s.lvlVal stn 32
  else if stn = 16 ∧ (off = 0x18 ∨ off = 0x1C) then 2 ^ 32 - 1
  else if stn = 16 ∧ 0x20 ≤ off ∧ off < 0x30 then class16Val ((off - 0x20) / 4)
  else s.reg a

/-! ### Trivet (R444) -/

/-- TRV_STATUS. -/
def State.trvStatusVal (s : State) : Nat :=
  b2n s.trv.tripped * 2 ^ 31 + b2n s.anyHot * 2 ^ 30 + b2n (s.trv.zones.any (fun p => p.2.st == .shutdown)) * 2 ^ 29 + s.reg Reg.trvStatus % 128

/-- The larger of two rises, each a fraction with a positive denominator. -/
def maxRise (a b : Int × Nat) : Int × Nat := if a.1 * b.2 < b.1 * a.2 then b else a

/-- The rise of a memory-stack zone (R430). -/
def State.zoneRise (s : State) (z : Nat) : Int × Nat :=
  match ((s.zoneSensors z).filter (fun v => v.valid)).map (fun v => (v.rise, v.riseDen)) with
  | [] => (0, 1)
  | r :: t => t.foldl maxRise r

/-- The RISE field of a zone. -/
def State.riseField (s : State) (z : Nat) : Nat :=
  if (s.zoneDef z).mem then
    let r := s.zoneRise z
    if r.1 % r.2 = 0 ∧ 0 ≤ r.1 / r.2 ∧ r.1 / r.2 < 256 then (r.1 / r.2).toNat else (Config.riseCode r.1 r.2).toNat
  else 0

def ZoneState.field : ZoneState → Nat
  | .normal => 0
  | .warn => 1
  | .throttle => 2
  | .shutdown => 3
  | .rise => 4

/-- TRV_ZONE_TEMP and TRV_ZONE_THR. -/
def State.zoneTempVal (s : State) (z : Nat) : Nat :=
  let v := s.zone z
  v.st.field * 2 ^ 29 + b2n v.fast * 2 ^ 28 + v.level % 16 * 2 ^ 24 + s.riseField z * 2 ^ 16 + wrapInt 16 v.temp
def State.zoneThrVal (s : State) (z : Nat) : Nat :=
  let t := s.thr z
  let d := s.zoneDef z
  b2n d.mem * 2 ^ 31 + b2n (decide (z < s.zoneCount)) * 2 ^ 30 + t.hyst % 16 * 2 ^ 24 +
    (if d.mem then t.rise % 2 ^ 8 else t.shutdown % 2 ^ 8 * 2 ^ 16 + t.throttle % 2 ^ 8 * 2 ^ 8 + t.warn % 2 ^ 8)

/-- TRV_ZONE_DOM; a zone that the curve does not define reads the reset value, as its thresholds do. -/
def State.zoneDomVal (s : State) (z : Nat) : Nat := if z < s.zoneCount then (s.zoneDef z).mask else 2 ^ 32 - 1

/-- TRV_DOM_LEVEL. -/
def State.domLevelVal (s : State) (d : Nat) : Nat :=
  s.domLevel d % 16 * 2 ^ 28 + s.thermalLevel d % 16 * 2 ^ 24 + s.powerLevel d % 16 * 2 ^ 20 + s.floorOf d % 16 * 2 ^ 16 + s.skipOf d % 2 ^ 16

/-- TRV_CURVE_INFO. -/
def State.curveInfoVal (s : State) : Nat :=
  s.trv.lastLoad % 2 ^ 8 * 2 ^ 24 + s.trv.bank % 2 * 2 ^ 23 + b2n s.trv.curve.builtin * 2 ^ 22 + s.trv.curve.id % 2 ^ 16

/-- Trivet's registers. -/
def State.trvVal (s : State) (src : Src) (a : Nat) : Nat :=
  if a = Reg.trvStatus then s.trvStatusVal
  else if a = Reg.trvHard then s.powerMax * 2 ^ 24 + s.riseMax * 2 ^ 16 + s.hardMem * 2 ^ 8 + s.hardLogic
  else if a = Reg.trvHard2 then s.memFirst
  else if a = Reg.trvPower then s.trv.power % 2 ^ 32
  else if a = Reg.trvPlimit then s.limitW % 2 ^ 16
  else if a = Reg.trvZoneTemp then s.zoneTempVal (s.banked src .zoneSel)
  else if a = Reg.trvZoneThr then s.zoneThrVal (s.banked src .zoneSel)
  else if a = Reg.trvZoneDom then s.zoneDomVal (s.banked src .zoneSel)
  else if a = Reg.trvDomLevel then s.domLevelVal (s.banked src .domSel)
  else if a = Reg.trvPart then Tab.get 0 s.trv.parts (s.banked src .partSel)
  else if a = Reg.trvBudgetCap then Tab.get 7 s.trv.caps (s.banked src .partSel)
  else if a = Reg.trvCurveInfo then s.curveInfoVal
  else if a = Reg.trvAvs then s.trv.avsRail * 2 ^ 28 + Tab.get 0 s.trv.avs s.trv.avsRail
  else s.reg a

/-! ### Kettle mailboxes (R302 to R304) -/

/-- KTL_STATUS. -/
def State.ktlStatusVal (s : State) : Nat := s.heldMask * 2 ^ 28 + s.restartMask * 2 ^ 24 + s.reg Reg.ktlStatus + s.runMask

/-- KTL_ACT. -/
def State.ktlActVal (s : State) : Nat :=
  (match s.kettle.act with
   | .idle => 0
   | .deferred _ _ => 2 ^ 28
   | .running _ _ k => 2 ^ 29 + k % 4 * 2 ^ 26) + s.kettle.actLast % 2 ^ 8 * 2 ^ 8 + s.kettle.actSlot % 2 ^ 8

/-- The mailbox registers. -/
def State.ktlVal (s : State) (src : Src) (a : Nat) : Nat :=
  let r := s.ring (s.banked src .ringSel)
  if a = Reg.ktlStatus then s.ktlStatusVal
  else if a = Reg.ktlBoot then s.ktlBootVal
  else if a = Reg.ktlFwVersion then s.ktlFwVal
  else if a = Reg.ktlAct then s.ktlActVal
  else if a = Reg.ktlRingBase then r.base
  else if a = Reg.ktlRingCfg then b2n r.en * 2 ^ 31 + r.log2 % 16
  else if a = Reg.ktlRingCtx then r.ctxHi * 2 ^ 16 + r.ctxLo
  else if a = Reg.ktlRingPtr then r.head * 2 ^ 16 + r.tail
  else if a = Reg.ktlCringBase then r.cbase
  else if a = Reg.ktlCringPtr then r.prod * 2 ^ 16 + r.cons
  else if a = Reg.ktlStageStatus then b2n s.kettle.staging.isSome * 2 ^ 31 + s.kettle.stageLast % 2 ^ 8
  else s.reg a

/-! ### Lid, Mortar, Scale Keeper and Ladles -/

/-- The Lid's registers (R241). -/
def State.lidVal (s : State) (src : Src) (a : Nat) : Nat :=
  let v := s.banked src .lidCtxSel
  let c := v % 2 ^ 16
  let k := v / 2 ^ 16 % 4
  if a = Reg.lidCtxInfo then s.lidCtxInfoVal c
  else if a = Reg.lidCtxCommitted then s.lidCommittedVal c
  else if a = Reg.lidSlotInfo then s.lidSlotInfoVal c k
  else if a = Reg.lidSlotStep then s.lidSlotStepVal c k
  else s.reg a

/-- The Mortar's (R211, R213). -/
def State.mtrVal (s : State) (a : Nat) : Nat :=
  if a = Reg.mtrStatus then s.mtrStatusVal else if a = Reg.mtrQueue then s.mtrQueueVal else s.reg a

/-- The Scale Keeper's (R243). -/
def State.sckVal (s : State) (src : Src) (a : Nat) : Nat :=
  let v := s.banked src .sckSel
  let e := s.sckEnt (v % 2 ^ 15)
  if a = Reg.sckEntry then e.entryVal else if a = Reg.sckScales then e.scalesVal
  else if a = Reg.sckHist then e.histVal (v / 2 ^ 15 % 16) else s.reg a

/-- A Ladle's (R126, R127, R156). -/
def State.ldlVal (s : State) (a : Nat) : Nat :=
  let t := (a - 0x400000) / 0x1000
  let b := regBase a
  if b = Reg.ldlStatus then s.ldlStatusVal t
  else if b = Reg.ldlTapId then (Tab.get {} s.cfg.tapId t).word
  else if b = Reg.ldlTapPlan then s.planOf t
  else s.reg a

/-- What a register reads as, for one source, where the access is served. -/
def State.regVal (s : State) (src : Src) (a : Nat) : Nat :=
  match selOf a with
  | some b => s.banked src b
  | none =>
    (if 0x400000 ≤ a then s.ldlVal a
     else if 0x60000 ≤ a then s.sckVal src a
     else if 0x50000 ≤ a then s.ktlVal src a
     else if 0x40000 ≤ a then s.mtrVal a
     else if 0x30000 ≤ a then s.lidVal src a
     else if 0x20000 ≤ a then s.trvVal src a
     else if 0x11000 ≤ a then s.stnVal a
     else if a = Reg.colStatus then s.colStatusVal
     else if 0x10000 ≤ a then s.reg a
     else if 0x600 ≤ a then s.hubVal1 src a
     else s.hubVal0 src a) % 2 ^ 32

/-! ### Reads with an effect -/

/-- A read of one register: the low half of a coherent pair captures the high half, and HUB_DUMP_DATA advances OFFSET. -/
def State.readReg (s : State) (src : Src) (a : Nat) : State × Nat :=
  let v := s.regVal src a
  if a = Reg.hubTimeLo then (s.setBanked src .timeHi (s.time / 2 ^ 32 % 2 ^ 32), v)
  else if a = Reg.hubJrnlNextLo then (s.setBanked src .jrnlHi (s.jseq / 2 ^ 32 % 2 ^ 32), v)
  else if a = Reg.hubProvNextLo then (s.setBanked src .provHi (s.provNext / 2 ^ 32 % 2 ^ 32), v)
  else if a = Reg.hubDumpData then (s.setBanked src .dumpAddr ((s.banked src .dumpAddr + 4) % 2 ^ 16), v)
  else (s, v)

/-- HUB_TIME_LO_READ (R28). -/
def execHubTimeLoRead (src : Src) (s : State) : Host.Outcome State Fault Refusal :=
  .next (s.readAccess src Reg.hubTimeLo (fun q => q.readReg src Reg.hubTimeLo))

/-- HUB_JRNL_NEXT_LO_READ (R305). -/
def execHubJrnlNextLoRead (src : Src) (s : State) : Host.Outcome State Fault Refusal :=
  .next (s.readAccess src Reg.hubJrnlNextLo (fun q => q.readReg src Reg.hubJrnlNextLo))

/-- HUB_PROV_NEXT_LO_READ (R327). -/
def execHubProvNextLoRead (src : Src) (s : State) : Host.Outcome State Fault Refusal :=
  .next (s.readAccess src Reg.hubProvNextLo (fun q => q.readReg src Reg.hubProvNextLo))

/-- HUB_DUMP_DATA_READ (R422). -/
def execHubDumpDataRead (src : Src) (s : State) : Host.Outcome State Fault Refusal :=
  .next (s.readAccess src Reg.hubDumpData (fun q => q.readReg src Reg.hubDumpData))

/-- RDREG (R267). -/
def readRegister (c : Cmd) (s : State) : State × Reply :=
  let a := c.imm
  let r := s.respCode a
  if r = 1 ∨ r = 3 then reject s stBadOperand
  else if r = 2 then reject s stUnreachable
  else
    let q := s.readReg c.src a
    (q.1, .ok q.2)

def specRdreg : CmdSpec := { opc := 0x48, ctx0 := true, query := true, rd := true, iw := fun _ => 24, body := readRegister }
def execRdreg (i : Issue) (s : State) : Host.Outcome State Fault Refusal := .next (s.runCmd specRdreg i)

end Sys2Proof.Machine
end

