-- ==== Sys2Proof/Machine/Dump.lean ====
section
/-! DEFINITION. RESET as a command (R411), dumps (R416 to R420), and the answers of the state-read channel (R466). -/

namespace Sys2Proof.Machine

/-! ### RESET (R406, R411, R412) -/

/-- RESET. -/
def resetBody (c : Cmd) (s : State) : State × Reply :=
  let q := s.resetCmd c.mod c.a c.tk
  if q.2 = stPending then (q.1, .later stPending) else reject s q.2

def specReset : CmdSpec := { opc := 0x70, ctx0 := true, rd := true, mods := [0, 1, 2, 3], aw := fun _ => 8, body := resetBody }
def execReset (i : Issue) (s : State) : Host.Outcome State Fault Refusal := .next (s.runCmd specReset i)

/-! ### What a dump reads (R416, R418) -/

/-- The level and identifier of the domain that a scope names; none for block only. -/
def dumpDomain (scope : Nat) : Option (Nat × Nat) :=
  if scope < 0x80 then some (0, scope)
  else if scope < 0x90 then some (1, scope - 0x80)
  else if scope < 0xA0 then some (2, scope - 0x90)
  else if scope = 0xA0 then some (3, 0)
  else none

/-- The scopes of R416. -/
def scopeOk (scope : Nat) : Bool := decide (scope ≤ 0xA0) || scope == 0xFE

/-- The Ladles in scope. -/
def State.dumpTiles (s : State) (scope : Nat) : List Nat :=
  match dumpDomain scope with
  | some (l, i) => (s.domTiles l i).filter (fun t => decide (t < s.cfg.ladles))
  | none => []

/-- Whether a watched unit lies in scope: an engine by its tile, a licensee unit by its assignment (R422). -/
def State.unitInScope (s : State) (scope u : Nat) : Bool :=
  match dumpDomain scope with
  | none => false
  | some (l, i) =>
    if u < 128 then (s.domTiles l i).contains u
    else
      let d := s.watchDom u
      d.valid && (if d.level = 0 then (s.domTiles l i).contains d.id else if d.level = 1 then l == 3 || (s.domClusters l i).contains d.id else l == 3)

/-- Ladle offsets that a dump reads: 51 words of each tile, or 7 for the larger scopes. -/
def dumpOffsets (scope : Nat) : List Nat :=
  if scope < 0x90 then (List.range 20).map (4 * ·) ++ (List.range 4).map (fun k => 0x80 + 4 * k) ++ (List.range 27).map (fun k => 0x100 + 4 * k)
  else [0, 0x40, 0x44, 0x48, 0x4C, 0x88, 0x8C]

/-- Item 2: the reads of the Ladles over the Airas ring. -/
def State.ladleReads (s : State) (scope : Nat) : List DumpRead :=
  (s.dumpTiles scope).flatMap (fun t => (dumpOffsets scope).map (fun o =>
    { addr := 2 ^ 62 + t * 2 ^ 48 + atTile t 0x400000 + o, unit := t, tile := t }))

/-- Item 3: the entries of the dump list whose unit lies in scope. -/
def State.listReads (s : State) (scope : Nat) : List DumpRead :=
  (List.range (min 4000 (s.reg Reg.hubDumpListCount))).filterMap (fun k =>
    let e := leNat (s.bytes (s.reg Reg.hubDumpListBase * 64 * 4096 + 8 * k) 8)
    let u := e / 2 ^ 40 % 2 ^ 8
    if s.unitInScope scope u then some { addr := 2 ^ 63 + e % 2 ^ 40, unit := u, state := true } else none)

/-- Item 1: the addresses of the block registers. -/
def dumpRegs : List Nat :=
  (List.range 10).map (fun k => Reg.colStatus + 4 * k) ++ (List.range 4).map (fun k => Reg.hubWatchStatus + 4 * k)

/-- The values of item 1: HUB_RST_STATUS once for each reset slot. -/
def State.blockValues (s : State) : List (Nat × Nat) :=
  dumpRegs.map (fun a => (a, s.regVal .port a)) ++ (List.range 4).map (fun k => (Reg.hubRstStatus, s.rstStatusVal k)) ++
    [(Reg.hubSisStatus, s.sisStatusVal), (Reg.mtrStatus, s.mtrStatusVal)]

/-- The records of item 1; the spec states no UNIT of a block register. -/
def State.blockRecs (s : State) : List DumpRec :=
  s.blockValues.zipIdx.map (fun p => { addr := p.1.1, value := p.1.2, unit := (Config.freeValue (s.free + p.2)).toNat % 2 ^ 8 })

/-! ### The image (R419) -/

def DumpRec.bytes (r : DumpRec) : Bytes := toLe 8 r.addr ++ toLe 4 r.value ++ toLe 1 r.unit ++ toLe 1 r.status ++ zeros 2

/-- The dump image, ending now. -/
def Dump.image (d : Dump) (now : Nat) : Bytes :=
  let body := d.recs.flatMap DumpRec.bytes
  let bad := (d.recs.filter (fun r => r.status == 1 || r.status == 2)).length
  toLe 4 0x5A444D50 ++ toLe 1 d.scope ++ toLe 1 (b2n d.truncated) ++ toLe 2 d.recs.length ++ toLe 8 d.start ++ toLe 8 now ++ toLe 4 bad ++
    toLe 4 (crc32cRaw body) ++ zeros 32 ++ body

/-- The words of an image, four bytes each. -/
def wordsOf : Bytes → List Nat
  | a :: b :: c :: d :: t => leNat [a, b, c, d] :: wordsOf t
  | _ => []

/-- The dump SRAM with an image written from its start. -/
def overlay (words : List Nat) (old : List (Nat × Nat)) : List (Nat × Nat) :=
  ((words.zipIdx.map (fun p => (p.2, p.1))).filter (fun p => p.2 != 0)) ++ old.filter (fun p => decide (words.length ≤ p.1))

/-- One 4 KiB block of the dump SRAM. -/
def State.sramBlock (s : State) (k : Nat) : Bytes := (List.range 1024).flatMap (fun i => toLe 4 (Tab.get 0 s.dumpSram (k * 1024 + i)))

/-- The copy of the dump SRAM to memory, block by block. -/
def State.copySram (s : State) (dst k : Nat) : Nat → State
  | 0 => s
  | n + 1 => (s.writeZ ((dst + k) * 4096) (s.sramBlock k) .dump).copySram dst (k + 1) n

/-- LAST, TRUNCATED and RECORDS of HUB_DUMP_STATUS. -/
def State.dumpLast (s : State) (d : Dump) (st : Nat) : State :=
  s.setReg Reg.hubDumpStatus (b2n (s.bit Reg.hubDumpStatus 30) * 2 ^ 30 + b2n d.truncated * 2 ^ 29 + st % 2 ^ 8 * 2 ^ 16 + d.recs.length % 2 ^ 13)

/-- A dump whose copy does not complete: the image is held in the dump SRAM (R420). -/
def State.dumpHeld (s : State) (d : Dump) (st : Nat) : State :=
  let s1 : State := { s.retire (fun a => a == .dump) with dump := none }
  ((s1.dumpLast d st).setBits Reg.hubDumpStatus (2 ^ 30)).complete d.ticket st 0 false

/-- The collection has ended: the image is complete, and its copy begins. -/
def State.dumpCopy (s : State) (d : Dump) : State :=
  let s0 := s.retire (fun a => a == .dump)
  let s1 : State := { s0 with dumpSram := overlay (wordsOf (d.image s.time)) s.dumpSram, dump := some { d with reads := [], copying := true } }
  if s.bothStalled then (s1.count Reg.hubCntMemTimeout).dumpHeld d stTimeout
  else s1.copySram d.dst 0 16

/-! ### Read by read (R417) -/

/-- The most records of an image. -/
def dumpMax : Nat := 4092

/-- Whether a unit's remaining reads are skipped: one has been already, or the last four were UNREACHABLE. -/
def Dump.skips (d : Dump) (u : Nat) : Bool :=
  let mine := (d.recs.filter (fun r => decide (2 ^ 62 ≤ r.addr) && r.unit == u)).reverse
  (mine.head?.map DumpRec.status) == some 2 || (decide (4 ≤ mine.length) && (mine.take 4).all (fun r => r.status == 1))

/-- Whether a unit's domain is in reset. -/
def State.unitInReset (s : State) (u : Nat) : Bool :=
  (decide (u < 128) && (s.ladle u).inReset) ||
    s.rsts.any (fun r => r.active && (r.phase == .reset || r.phase == .ready) && (s.domUnits r).contains u)

/-- A record of a read that gave no value, which the spec leaves open. -/
def State.blankRec (s : State) (r : DumpRead) (st : Nat) : State × DumpRec :=
  let s1 := s.took 1
  (if st = 3 then s1 else s1.count Reg.hubCntDumpUnreach, { addr := r.addr, value := s.freeNat % 2 ^ 32, unit := r.unit, status := st })

/-- Takes the reads that end at once, up to the one that goes out; the image is complete when none is left, or when it is
full. -/
def State.dumpNext (s : State) (d : Dump) : List DumpRead → State
  | [] => s.dumpCopy d
  | r :: t =>
    if dumpMax ≤ d.recs.length then s.dumpCopy { d with truncated := true }
    else if d.skips r.unit then
      let q := s.blankRec r 2
      q.1.dumpNext { d with recs := d.recs ++ [q.2] } t
    else if s.unitInReset r.unit then
      let q := s.blankRec r 1
      q.1.dumpNext { d with recs := d.recs ++ [q.2] } t
    else
      let s1 : State := { s with dump := some { d with reads := r :: t, since := s.time } }
      if r.state then s1.emit (.srd (r.addr % 2 ^ 40) r.unit) else s1

/-- DUMP (R416, R420). With both memory ports stalled the reads begin with the first event of the dump. -/
def dumpBody (c : Cmd) (s : State) : State × Reply :=
  if scopeOk c.imm = false ∨ 2 ^ 38 < c.a + 16 then reject s stBadOperand
  else if s.dump.isSome = true ∨ s.bit Reg.hubDumpStatus 30 = true then reject s stBusy
  else
    let rs := if c.imm = 0xFE then [] else s.ladleReads c.imm ++ s.listReads c.imm
    let d : Dump := { scope := c.imm, dst := c.a, ticket := c.tk, start := s.time, reads := rs, recs := s.blockRecs, since := s.time }
    let s1 : State := { s.took s.blockValues.length with dump := some d }
    let n := if c.imm = 0xFE then 0 else ceilDiv (min 4000 (s.reg Reg.hubDumpListCount)) 512
    let s2 := s1.requestReads (s.reg Reg.hubDumpListBase * 64) .dump n
    (if s.bothStalled then s2 else s2.dumpNext d rs, .later stPending)

def specDump : CmdSpec := { opc := 0x71, ctx0 := true, rd := true, early := true, aw := fun _ => 38, iw := fun _ => 8, body := dumpBody }
def execDump (i : Issue) (s : State) : Host.Outcome State Fault Refusal := .next (s.runCmd specDump i)

/-- The value of a read that has been answered: a Ladle's is that of its register. -/
def State.dumpValue (s : State) (r : DumpRead) (v : Nat) : Option Nat :=
  if r.state then some (v % 2 ^ 32)
  else if s.tileRuns r.tile && ! (s.stop r.tile).unreachable then some (s.regVal .port (r.addr % 2 ^ 24)) else none

/-- The present read ends: with a value, with an error response, or UNREACHABLE after 2 µs; a late answer is discarded. -/
def State.dumpAnswer (s : State) (d : Dump) (answer : Option Nat) (err : Bool) : State :=
  match d.reads with
  | [] => s
  | r :: t =>
    let put (q : State × DumpRec) : State := q.1.dumpNext { d with recs := d.recs ++ [q.2] } t
    if d.skips r.unit || s.unitInReset r.unit then s.dumpNext d (r :: t)
    else if answer.isNone then (if d.since + usT 2 ≤ s.time then put (s.blankRec r 1) else s)
    else if d.since + usT 2 < s.time then s
    else if err then put (s.blankRec r 3)
    else
      match s.dumpValue r (answer.getD 0) with
      | some v => put (s, { addr := r.addr, value := v, unit := r.unit })
      | none => put (s.blankRec r 1)

/-- DUMP_READ_RESULT (R417): the answer to the dump's present read, or none after 2 µs. -/
def execDumpReadResult (answer : Option Nat) (s : State) : Host.Outcome State Fault Refusal :=
  .next (match s.dump with
    | none => s
    | some d => s.dumpAnswer d answer false)

/-- DUMP_COPY_DONE (R420): every write of the copy has completed. A complete image that waits begins its copy. -/
def execDumpCopyDone (s : State) : Host.Outcome State Fault Refusal :=
  .next (match s.dump with
    | none => s
    | some d =>
      if d.copying then
        let s1 : State := { s.retire (fun a => a == .dump) with dump := none }
        ((s1.dumpLast d stOk).count Reg.hubCntDump).complete d.ticket stOk 0 false
      else if d.reads.isEmpty then s.dumpCopy d
      else s)

/-- Whether the dump's present read is on the state-read channel. -/
def State.dumpOnChannel (s : State) : Bool :=
  match s.dump with
  | some d => (d.reads.head?.map DumpRead.state) == some true
  | none => false

/-- STATE_READ_ANSWER (R466): the answer to the request outstanding on the state-read channel, a link's before a dump's. -/
def execStateReadAnswer (data : Nat) (err : Bool) (s : State) : Host.Outcome State Fault Refusal :=
  .next (if s.bring.reads.isEmpty && s.dumpOnChannel then
      match s.dump with
      | some d => s.dumpAnswer d (some data) err
      | none => s
    else s.linkAnswer data err)

end Sys2Proof.Machine
end

