-- ==== Sys2Proof/Machine/RegWrite.lean ====
section
/-! DEFINITION. What a write of every register does (R9, R382, R392, R393 and the register tables of the chapters), and the rows
that write registers. -/

namespace Sys2Proof.Machine

/-! ### Access codes (R9) -/

/-- A register with its RW bits written and the W1C bits of the value cleared. -/
def mergeBits (old v rw w1c : Nat) : Nat :=
  let n := old - (old &&& rw) + (v &&& rw)
  n - (n &&& (v &&& w1c))

/-- A write under the access codes alone; RWL fields take the first write since block reset. -/
def State.plainWrite (s : State) (a v : Nat) : State :=
  match regRow a with
  | none => s
  | some r =>
    if r.rwl = 0 then s.setReg a (mergeBits (s.reg a) v r.rw r.w1c)
    else if s.rwl.contains a then s
    else { s.setReg a (mergeBits (s.reg a) v r.rwl 0) with rwl := s.rwl ++ [a] }

/-- A write that is ignored while a condition holds. -/
def State.unlessBusy (s : State) (busy : Bool) (a v : Nat) : State := if busy then s else s.plainWrite a v

/-- A write of a register whose first write is remembered, ignored while a condition holds. -/
def State.writeBase (s : State) (busy : Bool) (a v : Nat) : State :=
  if busy then s else { s.plainWrite a v with rwl := if s.rwl.contains a then s.rwl else s.rwl ++ [a] }

/-! ### W1C bits (R392, R393) -/

/-- A capture whose valid bit is cleared no longer awaits its detail (R388). -/
def State.dropWaits (s : State) (a v : Nat) : State :=
  if a = Reg.colStatus then
    { s with capWaits := s.capWaits.filter (fun w => bitAt v (if w.ce then 17 else 16) == 0) }
  else s

/-- W1C bits of a register are cleared; a station's bit whose pair is still in ERROR or WIRE is set again at once. -/
def State.clearW1c (s : State) (a v : Nat) : State :=
  match regRow a with
  | none => s
  | some r =>
    let s1 := (s.dropWaits a (v &&& r.w1c)).clrBits a (v &&& r.w1c)
    if 0x11000 ≤ a ∧ a < 0x12000 then s1.reassert else s1

/-- W1C_CLEAR (R392): ones written to W1C bits. -/
def execW1cClear (src : Src) (addr val : Nat) (s : State) : Host.Outcome State Fault Refusal :=
  .next (s.writeAccess src addr (fun q => q.clearW1c addr (val % 2 ^ 32)))

/-! ### Tables behind registers -/

/-- HUB_SIEVE_MODEL_U_LO to F of the selected entry; kinds 0x0, 0x6 and 0x7 access nothing (R216). -/
def State.writeModel (s : State) (src : Src) (a v : Nat) : State :=
  let k := s.banked src .modelSel
  let m := s.model k
  if k = 0 ∨ 5 < k then s
  else if a = Reg.hubSieveModelULo then s.setModel k { m with u := m.u / 2 ^ 32 * 2 ^ 32 + v }
  else if a = Reg.hubSieveModelUHi then s.setModel k { m with u := v * 2 ^ 32 + m.u % 2 ^ 32 }
  else if a = Reg.hubSieveModelV then s.setModel k { m with v := v * 2 ^ 32 }
  else s.setModel k { m with f := v % 2 ^ 16 }

/-- HUB_WATCH_DOM of the selected unit, once since block reset; only CLK of an engine is written (R422). -/
def State.writeWatchDom (s : State) (src : Src) (v : Nat) : State :=
  let u := s.banked src .watchDomSel
  let d := s.watchDom u
  let clk := fieldOf v 28 24
  if d.written then s
  else
    let n : WatchDom := if u < 128 then { d with clk := clk, written := true }
      else { valid := bitAt v 31 == 1, level := fieldOf v 30 29, clk := clk, id := v % 128, written := true }
    { s with watchDoms := Tab.set {} s.watchDoms u n }

/-- A write of HUB_ATB_CTRL is a policy change; one that connects a node to both lines is ignored (R477, R480). -/
def State.writeAtb (s : State) (v : Nat) : State :=
  if bitAt v 6 = 1 ∧ bitAt v 14 = 1 ∧ v % 64 = v / 256 % 64 then s else s.policy (.atb (v &&& 0x7F7F))

/-- HUB_ATB_CTRL_WRITE (R477). -/
def execHubAtbCtrlWrite (src : Src) (val : Nat) (s : State) : Host.Outcome State Fault Refusal :=
  .next (s.writeAccess src Reg.hubAtbCtrl (fun q => q.writeAtb (val % 2 ^ 32)))

/-- A write of HUB_DEFECT_CTRL: CLEAR is ignored when ADD is written with it (R492). -/
def State.defectCtrl (s : State) (src : Src) (v : Nat) : State :=
  if bitAt v 1 = 1 then s.addDefect src else if bitAt v 0 = 1 then s.clearDefect src else s

/-- Content has been loaded since block reset. -/
def State.everLoaded (s : State) : Bool := s.tcReady || s.banks.any (fun b => ! b.tests.isEmpty)

/-- The clear registers: their address, first counter and number of counters. -/
def clearTable : List (Nat × Nat × Nat) :=
  [(Reg.hubSealCntClr, Reg.hubCntBlkVerified, 19), (Reg.mtrCntClr, Reg.mtrCntSamples, 18), (Reg.lidCntClr, Reg.lidCntOpened, 11),
   (Reg.sckCntClr, Reg.sckCntUpdates, 3), (Reg.hubSisCntClr, Reg.hubCntPrograms, 8), (Reg.ktlCntClr, Reg.ktlCntTaken, 6),
   (Reg.hubJrnlCntClr, Reg.hubCntJrnlLost, 1), (Reg.hubPairCntClr, Reg.hubCntPairGroups, 5), (Reg.hubCkptCntClr, Reg.hubCntPeerRx, 8),
   (Reg.hubFtCntClr, Reg.hubCntWhiskRuns, 12), (Reg.hubRcvCntClr, Reg.hubCntHang, 12), (Reg.trvCntClr, Reg.trvCntWarn, 10),
   (Reg.hubPortCntClr, Reg.hubCntRegErr, 6), (Reg.hubBringCntClr, Reg.hubCntBringPass, 7)]

/-! ### Sub-block by sub-block -/

/-- Hub registers below 0x700. -/
def State.writeHub0 (s : State) (src : Src) (a v : Nat) : State :=
  if a = Reg.hubRcpBase then s.writeBase (s.rcps.any (fun p => p.2.st != .empty)) a v
  else if a = Reg.hubScrubFirst ∨ a = Reg.hubScrubLast then s.unlessBusy (s.bit Reg.hubScrubCtrl 0) a v
  else if a = Reg.hubSieveSeedLo then s.stageSeed src v
  else if a = Reg.hubSieveSeedHi then s.formSeed src v
  else if a = Reg.hubSieveSpillBase ∨ a = Reg.hubSieveSpillSize then s.unlessBusy (! s.spill.isEmpty) a v
  else if Reg.hubSieveModelULo ≤ a ∧ a ≤ Reg.hubSieveModelF then s.writeModel src a v
  else if a = Reg.hubSieveClr then (if bitAt v 0 = 1 then s.clearSieve else s)
  else if a = Reg.hubSisSaveBase then s.unlessBusy (! s.progs.isEmpty) a v
  else if a = Reg.hubJrnlBase then s.jrnlBase v
  else if a = Reg.hubPairCtrl then s.unlessBusy (! s.pairings.isEmpty) a v
  else if a = Reg.hubPairBase then s.writeBase (! s.pairings.isEmpty) a v
  else if a = Reg.hubProvBase ∨ a = Reg.hubProvSize then s.unlessBusy (s.ctxs.any (fun p => p.2.provMode != 0)) a v
  else s.plainWrite a v

/-- Hub registers from 0x700. -/
def State.writeHub1 (s : State) (src : Src) (a v : Nat) : State :=
  if a = Reg.hubPeerRxBase then s.unlessBusy (s.peer.prod != s.rxCons) a v
  else if a = Reg.hubPeerRxPtr then s.writeCons v
  else if a = Reg.hubTcBase then s.unlessBusy (s.tcLoad.isSome || ! s.whisk.isEmpty || s.everLoaded) a v
  else if a = Reg.hubWatchDom then s.writeWatchDom src v
  else if a = Reg.hubAtbCtrl then s.writeAtb v
  else if a = Reg.hubBringCtrl then (if bitAt v 0 = 1 then s.go else s)
  else if a = Reg.hubPartMapLo then s.partWrite false v
  else if a = Reg.hubPartMapHi then s.partWrite true v
  else if a = Reg.hubDefectCtrl then s.defectCtrl src v
  else s.plainWrite a v

/-- A station's CLASS registers: RWL, station 16's fixed, and the classes of pairs 0 to 7 of the others (R382, R399). -/
def State.writeClass (s : State) (a v : Nat) : State :=
  if 0x12000 ≤ a then s
  else if a % 0x100 = 0x20 then s.plainWrite a (v / 2 ^ 16 * 2 ^ 16 + 0xAAAA)
  else s.plainWrite a v

/-- The Colander's registers. -/
def State.writeCol (s : State) (a v : Nat) : State :=
  let stn := (a - 0x11000) / 0x100
  let off := a % 0x100
  if a = Reg.colStatus then s.clearW1c a v
  else if a = Reg.colSafe then (if bitAt v 0 = 1 then s.exitSafe else s)
  else if a = Reg.colCntClr then s.clearCol v
  else if a < 0x11000 then s.plainWrite a v
  else if off < 0x10 then s.clearW1c a v
  else if off = 0x18 then s.writeEn stn false v
  else if off = 0x1C then s.writeEn stn true v
  else if 0x20 ≤ off ∧ off < 0x30 then s.writeClass a v
  else s

/-- TRV_PART and TRV_BUDGET_CAP of the selected partition. -/
def State.writePart (s : State) (src : Src) (v : Nat) : State :=
  { s with trv := { s.trv with parts := Tab.set 0 s.trv.parts (s.banked src .partSel) v } }
def State.writeCap (s : State) (src : Src) (v : Nat) : State :=
  { s with trv := { s.trv with caps := Tab.set 7 s.trv.caps (s.banked src .partSel) (v % 8) } }

/-- TRV_CURVE_CTRL: LOAD, then SELECT. -/
def State.curveCtrl (s : State) (v : Nat) : State :=
  let s1 := if bitAt v 0 = 1 then s.loadCurve else s
  if bitAt v 1 = 1 then s1.askSelect else s1

/-- Trivet's registers. -/
def State.writeTrv (s : State) (src : Src) (a v : Nat) : State :=
  if a = Reg.trvDomLevel then s.writeFloor src v
  else if a = Reg.trvPart then s.writePart src v
  else if a = Reg.trvBudgetCap then s.writeCap src v
  else if a = Reg.trvCurveCtrl then s.curveCtrl v
  else if a = Reg.trvTripClr then (if bitAt v 0 = 1 then s.clearTrip else s)
  else if a = Reg.trvAvs then s.writeAvs v
  else s.plainWrite a v

/-- KTL_STAGE_GO: STAGE, then RUN; while BUSY is 1 the write is ignored whatever its bits, and LAST reads BUSY (R304). -/
def State.stageGo (s : State) (v : Nat) : State :=
  if s.kettle.staging.isSome then s.setStageLast stBusy
  else
    let s1 := if bitAt v 0 = 1 then s.stageImage else s
    if bitAt v 1 = 1 then s1.runImage else s1

/-- KTL_WDOG: a new period, which each core takes at its next kick (R289). -/
def State.writeWdog (s : State) (v : Nat) : State :=
  { s.plainWrite Reg.ktlWdog v with kettle := { s.kettle with wdog := (s.time, v % 2 ^ 8) :: s.kettle.wdog } }

/-- The mailbox registers. -/
def State.writeKtl (s : State) (src : Src) (a v : Nat) : State :=
  if a = Reg.ktlRingBase then s.ringField src (fun r => { r with base := v })
  else if a = Reg.ktlRingCfg then s.ringCfg src v
  else if a = Reg.ktlRingCtx then s.ringField src (fun r => { r with ctxHi := v / 2 ^ 16, ctxLo := v % 2 ^ 16 })
  else if a = Reg.ktlCringBase then s.ringField src (fun r => { r with cbase := v })
  else if a = Reg.ktlStageGo then s.stageGo v
  else if a = Reg.ktlWdog then s.writeWdog v
  else if Reg.ktlDb ≤ a then (if a % 8 = 0 then s.doorbell ((a - Reg.ktlDb) / 8) v else s.cdoorbell ((a - Reg.ktlDb) / 8) v)
  else s.plainWrite a v

/-- The Lid's registers: the ledger's place is kept while any context has an open step (R241). -/
def State.writeLid (s : State) (a v : Nat) : State :=
  if a = Reg.lidLedgerBase ∨ a = Reg.lidLedgerSize then s.unlessBusy (s.ctxs.any (fun p => p.2.slots.any Slot.live)) a v
  else s.plainWrite a v

/-- A Ladle's registers. -/
def State.writeLdl (s : State) (a v : Nat) : State :=
  if regBase a = Reg.ldlCntClr then s.clearRun v (a - 4 + 0x100) 27 else s.plainWrite a v

/-- A write of one register by one source, where the access is served. -/
def State.writeReg (s : State) (src : Src) (a v : Nat) : State :=
  match selOf a with
  | some b => s.setBanked src b (v &&& ((regRow a).map RegRow.rw).getD 0)
  | none =>
    match clearTable.find? (fun r => r.1 == a) with
    | some r => s.clearRun v r.2.1 r.2.2
    | none =>
      if 0x400000 ≤ a then s.writeLdl a v
      else if 0x50000 ≤ a ∧ a < 0x60000 then s.writeKtl src a v
      else if a = Reg.mtrLaneCtrl then s.laneCtrl v
      else if 0x40000 ≤ a then s.plainWrite a v
      else if 0x30000 ≤ a then s.writeLid a v
      else if 0x20000 ≤ a then s.writeTrv src a v
      else if 0x10000 ≤ a then s.writeCol a v
      else if 0x700 ≤ a then s.writeHub1 src a v
      else s.writeHub0 src a v

/-! ### The rows -/

/-- REGISTER_WRITE (R501). -/
def execRegisterWrite (src : Src) (addr val : Nat) (s : State) : Host.Outcome State Fault Refusal :=
  .next (s.writeAccess src addr (fun q => q.writeReg src addr (val % 2 ^ 32)))

/-- Whether a WRREG would move a cluster under the condition of R13 (R494). -/
def State.wrBlocked (s : State) (a v : Nat) : Bool :=
  s.bring.stage == 8 && ((a == Reg.hubPartMapLo && s.partBlocked false v) || (a == Reg.hubPartMapHi && s.partBlocked true v))

/-- WRREG (R267). -/
def writeRegister (c : Cmd) (s : State) : State × Reply :=
  let r := s.respCode c.imm
  if r = 1 ∨ r = 3 then reject s stBadOperand
  else if r = 2 then reject s stUnreachable
  else if s.wrBlocked c.imm c.a then reject s stIllegalState
  else (s.writeReg c.src c.imm c.a, .ok 0)

def specWrreg : CmdSpec := { opc := 0x49, ctx0 := true, early := true, aw := fun _ => 32, iw := fun _ => 24, body := writeRegister }
def execWrreg (i : Issue) (s : State) : Host.Outcome State Fault Refusal := .next (s.runCmd specWrreg i)

end Sys2Proof.Machine
end

