-- ==== Sys2Proof/Machine/Rings.lean ====
section
/-! DEFINITION. Host rings (R275 to R282, R291, R298): how Kettle 0 takes entries, hands them to their owner cores, submits
programs (R246) and runs the composite commands. -/

namespace Sys2Proof.Machine

/-! ### Submission entries (R276, R279, R281) -/

/-- The fields of a submission entry. -/
def parseEntry (b : Bytes) : RingEntry :=
  { kind := leAt b 0 1, flags := leAt b 1 1, ctx := leAt b 2 2, cookie := leAt b 4 4, a0 := leAt b 8 8, a1 := leAt b 16 8, a2 := leAt b 24 8,
    imm := leAt b 32 4, mod := leAt b 36 1 % 16, a4 := leAt b 40 8 }

/-- The KINDs that R281 gives. -/
def kindListed (k : Nat) : Bool := (listedOpcodes.drop 9).contains k || (decide (0x80 ≤ k) && decide (k ≤ 0x85))

/-- The reading commands that offer a clear, and the commands that write a record. -/
def kindClears (k : Nat) : Bool := [0x38, 0x42, 0x62, 0x81, 0x82].contains k
def kindRecords (k : Nat) : Bool := [0x25, 0x27, 0x38, 0x42, 0x62, 0x64, 0x79, 0x81, 0x82, 0x84].contains k

/-- The commands of context 0 alone: those that R262 marks, and the composite commands (log entry 33). -/
def kindCtx0 (k : Nat) : Bool :=
  [0x10, 0x11, 0x12, 0x18, 0x19, 0x39, 0x40, 0x42, 0x48, 0x49, 0x50, 0x52, 0x5A, 0x5B, 0x60, 0x61, 0x62, 0x63, 0x70, 0x71, 0x78, 0x7C].contains k
    || (decide (0x81 ≤ k) && decide (k ≤ 0x85))

/-- Row 2 of R279: a reserved KIND, or a zero field that is not zero. -/
def entryBad (b : Bytes) : Bool :=
  let e := parseEntry b
  ! kindListed e.kind || e.flags / 2 != 0 || (e.flags % 2 == 1 && ! kindClears e.kind) || leAt b 36 4 / 16 != 0 ||
    (if kindRecords e.kind then decide (2 ^ 38 ≤ e.a4) else e.a4 != 0) || ! zeroAt b 48 12

/-- CTX of the header of the program that an entry of KIND 0x80 names. -/
def State.headerCtx (s : State) (e : RingEntry) : Nat := leNat (s.bytes (e.a0 % 2 ^ 38 * 4096 + 6) 2)

/-- Row 3 of R279. -/
def State.entryForbidden (s : State) (n : Nat) (e : RingEntry) : Bool :=
  let r := s.ring n
  n != 0 && (kindCtx0 e.kind || (e.kind == 0x80 && s.headerCtx e == 0) || ! (decide (r.ctxLo ≤ e.ctx) && decide (e.ctx ≤ r.ctxHi)))

/-- The refusal of an entry under R279, if any. -/
def State.entryRefused (s : State) (n : Nat) (b : Bytes) : Option Nat :=
  if crc32cRaw (slice b 0 60) ≠ leAt b 60 4 then some stDigestMismatch
  else if entryBad b then some stBadOperand
  else if s.entryForbidden n (parseEntry b) then some stPrivilege
  else none

/-! ### Taking entries (R275, R278) -/

/-- Whether a ring has an entry that may be taken. -/
def State.ringReady (s : State) (n : Nat) : Bool :=
  let r := s.ring n
  r.en && r.head != r.tail && decide (0 < r.freeSlots)

/-- The ring whose entry is taken next: ring 0 at every second take, rings 1 to 15 in turn at the others. -/
def State.ringTurn (s : State) : Option Nat :=
  let next := (((List.range 15).map (fun k => (s.kettle.lastRing + k) % 15 + 1)).find? s.ringReady)
  let zero := if s.ringReady 0 then some 0 else none
  if s.kettle.zeroDue then zero.orElse (fun _ => next) else next.orElse (fun _ => zero)

/-- Whether the rings are served: Kettle 0 runs its firmware and bring-up has reached the stage at which GO comes. -/
def State.ringsServed (s : State) : Bool := s.coreUp 0 && decide (4 ≤ s.bring.stage)

/-- The turn of R278 after a take. -/
def Kettle.afterTake (k : Kettle) (n : Nat) : Kettle := if n = 0 then { k with zeroDue := false } else { k with zeroDue := true, lastRing := n }

/-- The byte address of an entry. -/
def Ring.entryAt (r : Ring) (index : Nat) : Nat := r.base * 64 * 4096 + 64 * (index % r.size)

/-- A TAKEN record (R284). -/
def State.takenRecord (s : State) (n index : Nat) (e : RingEntry) : State :=
  s.record { type := jTaken, opc := e.kind, source := srcRing n, ctx := e.ctx, ref := index, cookie := e.cookie }

/-- The entry of `index` is taken: HEAD advances and a completion slot is reserved. -/
def State.takeSlot (s : State) (n : Nat) (e : RingEntry) : State :=
  let r := s.ring n
  let s1 : State := { s with kettle := s.kettle.afterTake n }
  s1.setRing n { r with head := (r.head + 1) % 2 ^ 16, reserved := r.reserved + 1, taken := r.taken ++ [{ index := r.head, e := e }] }

/-- A taken entry is refused with a status (R279). -/
def State.refuseEntry (s : State) (n index st : Nat) : State :=
  match s.taken n index with
  | some t => (s.count Reg.ktlCntRefused).finishRecord n t st 0
  | none => s

/-- A taken entry that is not refused is handed to its owner core, or waits for Kettle 0 to issue it (R282). -/
def State.acceptEntry (s : State) (n index : Nat) : State :=
  let s1 := s.count Reg.ktlCntTaken
  match s1.taken n index with
  | some t =>
    let k := ownerOf t.e.kind
    if k = 0 then s1 else (s1.handRecord n t k).onTaken n index (fun (x : Taken) => { x with handed := some k })
  | none => s1

/-- The next entry of ring `n` is taken. With both memory ports stalled its read ends with TIMEOUT (R457, R503). -/
def State.takeEntry (s : State) (n : Nat) : State :=
  let r := s.ring n
  let at_ := r.entryAt r.head
  let s0 := s.request .read (at_ / 4096) (at_ % 4096 / 64) 1 (.ringEntry n r.head)
  if s.bothStalled then ((s0.takeSlot n {}).takenRecord n r.head {}).refuseEntry n r.head stTimeout
  else
    let b := s.bytes at_ 64
    let e := parseEntry b
    let s1 := (s0.takeSlot n e).takenRecord n r.head e
    match s.entryRefused n b with
    | some st => s1.refuseEntry n r.head st
    | none => s1.acceptEntry n r.head

/-- RING_ENTRY_TAKE (R278): the ring whose turn it is. -/
def execRingEntryTake (n : Nat) (s : State) : Host.Outcome State Fault Refusal :=
  .next (if s.ringsServed && s.ringTurn == some n then s.takeEntry n else s)

/-- What an owner core may return: the entry as it is, with the thresholds of KIND 0x40 lowered (R282). -/
def returnOk (was now : RingEntry) : Bool :=
  if was.kind = 0x40 then
    now == { was with a1 := now.a1, a2 := now.a2 } && decide (now.a1 % 2 ^ 16 ≤ was.a1 % 2 ^ 16) &&
      decide (now.a1 / 2 ^ 16 % 2 ^ 16 ≤ was.a1 / 2 ^ 16 % 2 ^ 16) && now.a1 / 2 ^ 32 == was.a1 / 2 ^ 32 && decide (now.a2 ≤ was.a2)
  else now == was

/-- OWNER_RETURN (R282): the owner core returns the instruction, which Kettle 0 may then issue. -/
def execOwnerReturn (n index : Nat) (e : RingEntry) (s : State) : Host.Outcome State Fault Refusal :=
  .next (match s.taken n index with
    | none => s
    | some t =>
      match t.handed with
      | none => s
      | some k =>
        if s.coreUp k && s.coreUp 0 && t.final.isNone && returnOk t.e e then
          s.onTaken n index (fun (x : Taken) => { x with handed := none, e := e })
        else s)

/-! ### Kettle 0's own ring commands (R281) -/

/-- A ring command of KIND `kind` for a taken entry that Kettle 0 may issue. -/
def State.ringOwn (s : State) (kind : Nat) (i : Issue) (f : State → Nat → Taken → State) : State :=
  match i.by_ with
  | .ring n index =>
    match s.taken n index with
    | none => s
    | some t =>
      if t.handed.isSome || t.served || t.ran || t.final.isSome || t.e.kind != kind || t.e.issued != i.mod % 16 || t.e.imm != i.imm % 2 ^ 32 ||
          ! s.coreUp 0 then s
      else f s n t
  | _ => s

/-! ### Submit program (R246) -/

/-- Rows 1 to 4 of R246 for the image at a block. -/
def State.submitCheck (s : State) (blk : Nat) (h : Bytes) : Nat :=
  let c := leAt h 6 2
  let g := leAt h 8 2
  let len := leAt h 10 2
  if 2 ^ 38 ≤ blk ∨ leAt h 0 4 ≠ 0x5A535052 ∨ len = 0 ∨ 32760 < len ∨ leAt h 12 4 ≠ 0 ∨ 2 ^ 38 ≤ leAt h 16 8 ∨ zeroAt h 24 40 = false then stBadOperand
  else if ! versionOk (leAt h 4 2) then stVersionMismatch
  else if c ≠ 0 ∧ (s.ctx c).st ≠ .live then stContextGone
  else if g ≠ (if c = 0 then 0 else (s.ctx c).gen) then stStaleGeneration
  else stOk

/-- Row 5 of R246. -/
def State.progsFull (s : State) (c : Nat) : Bool :=
  decide (4096 ≤ s.progs.length) || decide (16 ≤ (s.progs.filter (fun p => p.2.ctx == c)).length)

/-- The lowest free save record. -/
def State.freeProgram (s : State) : Nat := ((List.range 4096).find? (fun k => (s.program k).isNone)).getD 0

/-- The program that an entry submits. -/
def progOf (n : Nat) (t : Taken) (h : Bytes) : Program :=
  { ctx := leAt h 6 2, gen := leAt h 8 2, length := leAt h 10 2, param := leAt h 16 8 % 2 ^ 38, image := t.e.a0, ring := n, index := t.index,
    cookie := t.e.cookie, verified := [t.e.a0] }

/-- A submitted program is refused, which ends it: its parameter block is sealed (R247), its end is journaled and its entry completed. -/
def State.submitRefused (s : State) (n : Nat) (t : Taken) (hd : Bytes) (st : Nat) : State :=
  let p := progOf n t hd
  let s1 := if st = stFull then s.count Reg.hubCntRejected else s.progFailed
  (s1.writeSealed p.param (s1.block p.param) p.gen 0x3E .record).endEntry p 0 st

/-- A submitted program enters the run queue under save record `id` (R246, R251, R260). -/
def State.submitAccepted (s : State) (n : Nat) (t : Taken) (hd : Bytes) (id : Nat) : State :=
  let p := progOf n t hd
  let s1 : State := { (s.count Reg.hubCntPrograms).setProgram id p with runQ := s.runQ ++ [id] }
  let s2 := s1.record { type := jProgAccept, opc := 0x80, source := srcRing n, ctx := p.ctx, ref := t.index, cookie := t.e.cookie, a := t.e.a0, b := id }
  s2.onTaken n t.index (fun (x : Taken) => { x with served := true })

/-- Submit program. -/
def State.submit (s : State) (n : Nat) (t : Taken) : State :=
  let blk := t.e.a0
  let h := s.bytes (blk % 2 ^ 38 * 4096) 64
  let c := leAt h 6 2
  let g := leAt h 8 2
  let param := leAt h 16 8
  if c = 0 ∧ n ≠ 0 then s.finishRecord n t stPrivilege 0
  else
    let st := s.submitCheck blk h
    if st ≠ stOk then s.submitRefused n t h st
    else if s.progsFull c then s.submitRefused n t h stFull
    else
      let id := s.freeProgram
      let s1 := (s.request .read blk 0 64 (.program id)).request .read param 0 64 (.program id)
      if s.bothStalled then s1.submitRefused n t h stTimeout
      else if ! s.progBlockOk c g blk then
        ((s1.retire (fun a => a == .program id)).confirmProg c g blk).submitRefused n t h stSealFail
      else if ! s.progBlockOk c g param then
        ((s1.retire (fun a => a == .program id)).confirmProg c g param).submitRefused n t h stSealFail
      else s1.submitAccepted n t h id

/-- SUBMIT_PROGRAM (R246). -/
def execSubmitProgram (i : Issue) (s : State) : Host.Outcome State Fault Refusal := .next (s.ringOwn 0x80 i State.submit)

/-! ### Composite commands (R281) -/

/-- A command that a composite issues through the command port. -/
def State.compositeCmd (s : State) (sp : CmdSpec) (n : Nat) (t : Taken) (a imm : Nat) : State × Reply :=
  let q := s.portCmd sp { ctx := t.e.ctx, a := a, imm := imm, tk := freeTicket s.tickets, src := .core 0, ring := some (n, t.index) }
    (.ring n t.index t.e.cookie) (srcRing n) t.index t.e.cookie
  (q.1, q.2.1)

/-- The first status other than OK. -/
def firstStatus (st st' : Nat) : Nat := if st = stOk then st' else st

/-- RDREG of one register: its value and status. -/
def State.compositeRead (s : State) (n : Nat) (t : Taken) (a : Nat) : State × Nat × Nat :=
  let q := s.compositeCmd specRdreg n t 0 a
  (q.1, (match q.2 with
    | .ok v => v
    | _ => 0), q.2.status)

/-- RDREG of each register of a list, 4 bytes each. -/
def State.compositeReads (s : State) (n : Nat) (t : Taken) : List Nat → State × Bytes × Nat
  | [] => (s, [], stOk)
  | a :: as =>
    let q := s.compositeRead n t a
    let r := q.1.compositeReads n t as
    (r.1, toLe 4 q.2.1 ++ r.2.1, firstStatus q.2.2 r.2.2)

/-- WRREG of one register. -/
def State.compositeWrite (s : State) (n : Nat) (t : Taken) (a v : Nat) : State × Nat :=
  let q := s.compositeCmd specWrreg n t v a
  (q.1, q.2.status)

/-- A run of `n` register addresses. -/
def regRun (a n : Nat) : List Nat := (List.range n).map (fun k => a + 4 * k)

/-- Whether a record of `len` bytes fits at the entry's IMM (R270). -/
def Taken.fits (t : Taken) (len : Nat) : Bool := decide (t.e.imm % 16 = 0) && decide (t.e.imm + len ≤ 4096)

/-- A composite command completes: its record is written and sealed, then its FINISHED record. Where a command of its sequence
was rejected it ends with the first such status and has no record. -/
def State.compositeEnd (s : State) (n : Nat) (t : Taken) (b : Bytes) (st : Nat) : State :=
  if st = stOk then (s.ringRecord t.e.ctx t.e.a4 t.e.imm b).finishRecord n t stOk 0 else s.finishRecord n t st 0

/-- WRREG of two registers where CLEAR is asked for. -/
def State.compositeClear (s : State) (n : Nat) (t : Taken) (a v b w : Nat) : State × Nat :=
  if t.e.flags % 2 = 1 then
    let p := s.compositeWrite n t a v
    let q := p.1.compositeWrite n t b w
    (q.1, firstStatus p.2 q.2)
  else (s, stOk)

/-- Read seal status: the seal registers; with CLEAR, the W1C bits read and the counters are cleared. -/
def State.readSeal (s : State) (n : Nat) (t : Taken) : State :=
  if ! t.fits 120 then s.finishRecord n t stBadOperand 0
  else
    let q := s.compositeReads n t (regRun 0x200 11 ++ regRun 0x240 19)
    let r := q.1.compositeClear n t Reg.hubSealStatus (leAt q.2.1 0 1) Reg.hubSealCntClr 1
    r.1.compositeEnd n t q.2.1 (firstStatus q.2.2 r.2)

/-- READ_SEAL_STATUS (R281). -/
def execReadSealStatus (i : Issue) (s : State) : Host.Outcome State Fault Refusal := .next (s.ringOwn 0x81 i State.readSeal)

/-- Read coverage: the bound, the deficit and the ARBSTAT record; with CLEAR, their counters are cleared. -/
def State.readCover (s : State) (n : Nat) (t : Taken) : State :=
  if ! t.fits 104 then s.finishRecord n t stBadOperand 0
  else
    let q := s.compositeReads n t [Reg.hubSieveBound, Reg.hubSieveDeficit]
    let a := q.1.compositeCmd specArbstat n t 0 0
    let rec_ := match a.2 with
      | .rec_ b => b
      | _ => []
    let r := a.1.compositeClear n t Reg.mtrCntClr 1 Reg.hubSieveClr 1
    r.1.compositeEnd n t (q.2.1 ++ rec_) (firstStatus q.2.2 (firstStatus a.2.status r.2))

/-- READ_COVERAGE (R281). -/
def execReadCoverage (i : Issue) (s : State) : Host.Outcome State Fault Refusal := .next (s.ringOwn 0x82 i State.readCover)

/-- HUB_SIS_THREAD and HUB_SIS_THREAD_PC of each thread of a list, selected through Kettle 0's own selector (R500). -/
def State.readThreads (s : State) (n : Nat) (t : Taken) : List Nat → State × Bytes × Nat
  | [] => (s, [], stOk)
  | k :: ks =>
    let w := s.compositeWrite n t Reg.hubSisThreadSel k
    let q := w.1.compositeReads n t [Reg.hubSisThread, Reg.hubSisThreadPc]
    let r := q.1.readThreads n t ks
    (r.1, q.2.1 ++ r.2.1, firstStatus w.2 (firstStatus q.2.2 r.2.2))

/-- Read sequencer status. -/
def State.readSeq (s : State) (n : Nat) (t : Taken) : State :=
  if ! t.fits 292 then s.finishRecord n t stBadOperand 0
  else
    let q := s.compositeReads n t [Reg.hubSisStatus]
    let r := q.1.readThreads n t (List.range 32)
    let u := r.1.compositeReads n t (regRun 0x440 8)
    u.1.compositeEnd n t (q.2.1 ++ r.2.1 ++ u.2.1) (firstStatus q.2.2 (firstStatus r.2.2 u.2.2))

/-- READ_SEQUENCER_STATUS (R281). -/
def execReadSequencerStatus (i : Issue) (s : State) : Host.Outcome State Fault Refusal := .next (s.ringOwn 0x84 i State.readSeq)

/-- Stage firmware starts, or its rejection is the entry's completion; the entry that stages is issued once. -/
def State.stageEntry (s : State) (n : Nat) (t : Taken) : State :=
  if (s.kettle.staging.bind Staging.ring) = some (n, t.index) then s
  else
    let q := s.startStaging { blk := t.e.a0, len := t.e.a1, rewrite := t.e.a2 % 2 == 1, ring := some (n, t.index) }
    if q.2 = stOk then q.1 else q.1.finishRecord n t q.2 0

/-- STAGE_FIRMWARE (R298). -/
def execStageFirmware (i : Issue) (s : State) : Host.Outcome State Fault Refusal := .next (s.ringOwn 0x85 i State.stageEntry)

/-! ### Lane service (R191, R281) -/

/-- Whether a self-test of a lane waits or runs. -/
def State.testing (s : State) (l : Nat) : Bool :=
  (s.queue.any (fun j => j.kind == .selfTest && j.lane == l) && (s.lane l).fenced) ||
    (match (s.lane l).job with
     | some j => j.kind == .selfTest
     | none => false)

/-- The mask of the lanes of a list. -/
def laneMask (ls : List Nat) : Nat := (ls.map (fun l => 2 ^ l)).foldl (· + ·) 0

/-- A lane service whose self-tests have all ended: the lanes that passed are reinstated, and RESULT names them. -/
def State.endService (s : State) (v : LaneSvc) : State :=
  let s0 : State := { s with laneSvc := s.laneSvc.filter (fun x => x != v) }
  match s0.taken v.ring v.index with
  | none => s0
  | some t =>
    let ok := v.lanes.filter (fun l => (s0.lane l).fenced && (s0.lane l).tested)
    let w := if ok = [] then (s0, stOk) else s0.compositeWrite v.ring t Reg.mtrLaneCtrl (laneMask ok * 2 ^ 8)
    w.1.finishRecord v.ring t w.2 (laneMask (ok.filter (fun l => ! (w.1.lane l).fenced)))

/-- Each lane service of a list that has ended, once Kettle 0 runs. -/
def State.endServices (s : State) : List LaneSvc → State
  | [] => s
  | v :: t => (if s.coreUp 0 && v.lanes.all (fun l => ! s.testing l) then s.endService v else s).endServices t

/-- Lane service: SELFTEST of the lanes in A0[3:0], then REINSTATE of each that passes. -/
def State.laneService (s : State) (n : Nat) (t : Taken) : State :=
  let m := t.e.a0 % 16
  let w := s.compositeWrite n t Reg.mtrLaneCtrl (m * 2 ^ 4)
  if w.2 ≠ stOk then w.1.finishRecord n t w.2 0
  else
    let v : LaneSvc := { ring := n, index := t.index, lanes := (List.range 4).filter (fun l => bitAt m l == 1 && (s.lane l).fenced) }
    let s2 : State := { w.1 with laneSvc := w.1.laneSvc ++ [v] }
    (s2.onTaken n t.index (fun (x : Taken) => { x with ran := true })).endServices [v]

/-- LANE_SERVICE (R281). -/
def execLaneService (i : Issue) (s : State) : Host.Outcome State Fault Refusal := .next (s.ringOwn 0x83 i State.laneService)

/-- MORTAR_JOB_START (R188, R198). -/
def execMortarJobStart (lane : Nat) (s : State) : Host.Outcome State Fault Refusal :=
  .next (let s1 := s.jobStart lane
    s1.endServices s1.laneSvc)

/-- LANE_SELF_TEST_DONE (R191, R212). -/
def execLaneSelfTestDone (lane : Nat) (pass : Bool) (s : State) : Host.Outcome State Fault Refusal :=
  .next (let s1 := s.selfTestDone lane pass
    s1.endServices s1.laneSvc)

end Sys2Proof.Machine
end

