-- ==== Sys2Proof/Machine/Ports.lean ====
section
/-! DEFINITION. The responses of the memory ports (R452 to R457, R503), the TAP, the debug module (R476) and the TAP's selection
of the analogue test bus (R477). -/

namespace Sys2Proof.Machine

/-! ### Requests and identifiers (R452, R457) -/

/-- A memory port, 0 or 1. -/
def State.memPort (s : State) (k : Nat) : Port := if k = 0 then s.port0 else s.port1

/-- Writes a memory port. -/
def State.setMemPort (s : State) (k : Nat) (p : Port) : State := if k = 0 then { s with port0 := p } else { s with port1 := p }

/-- The outstanding request of an identifier. -/
def State.memReq (s : State) (k id : Nat) : Option MemReq := if k < 2 then (s.memPort k).reqs.find? (fun r => r.id == id) else none

/-- The request of an identifier leaves its port. -/
def State.endReq (s : State) (k id : Nat) : State :=
  s.setMemPort k { s.memPort k with reqs := (s.memPort k).reqs.filter (fun r => r.id != id) }

/-- A held identifier is released. -/
def State.releaseId (s : State) (k id : Nat) : State :=
  s.setMemPort k { s.memPort k with held := (s.memPort k).held.filter (fun h => h.id != id) }

/-- The identifier of a request that has timed out is held. -/
def State.holdId (s : State) (k id : Nat) : State :=
  s.setMemPort k { s.memPort k with held := (s.memPort k).held ++ [{ id := id, since := s.time }] }

/-- Identifiers of a port have become free: requests that wait for one are issued, and so are copies of journal entries (R286). -/
def State.refill (s : State) (k : Nat) : State := (s.setMemPort k ((s.memPort k).refill s.time)).copyJournal

/-- A write of a block is outstanding on a port. -/
def State.writing (s : State) (blk : Nat) : Bool := (s.port0.all ++ s.port1.all).any (fun r => r.blk == blk && r.op != .read)

/-- What a READ returned becomes the block's view of memory, unless a later write of the block to it is outstanding. -/
def State.learn (s : State) (r : MemReq) (data : Bytes) (sbv : Nat) : State :=
  if s.writing r.blk then s else (s.setBytes (r.blk * 4096 + r.line * 64) (data.take (r.len * 64))).setSb r.blk sbv

/-! ### Reseals (R206) -/

/-- Whether a reseal of a block of a region is outstanding. -/
def State.resealing (s : State) (out : Region) : Bool :=
  (s.port0.all ++ s.port1.all).any (fun r => match r.acc with
    | .reseal b => out.has b
    | _ => false)

/-- The ops that wait for the reseal of a block and for no other one. -/
def State.resealed (s : State) (blk : Nat) : List (Nat × Nat × Nat) :=
  s.ctxs.flatMap (fun p => (List.range 4).flatMap (fun k =>
    ((p.2.slot k).ops.filter (fun o => o.arbReseal && o.lay.out.has blk && ! s.resealing o.lay.out)).map (fun o => (p.1, k, o.d.opseq))))

/-- Those ops wait no longer. -/
def State.clearReseals (s : State) : List (Nat × Nat × Nat) → State
  | [] => s
  | (c, k, q) :: t => (s.onOp c k q (fun (o : OpRec) => { o with arbReseal := false })).clearReseals t

/-- The reseal of a block has ended. -/
def State.resealEnd (s : State) (blk : Nat) : State := s.clearReseals (s.resealed blk)

/-! ### Accesses that fail (R454, R503) -/

/-- A taken entry whose read failed: nothing of it has been issued, and it is refused (R503). -/
def State.entryFailed (s : State) (n index st : Nat) : State :=
  match s.taken n index with
  | none => s
  | some t =>
    if t.served || t.ran || t.final.isSome then s
    else
      ((s.setReg Reg.ktlCntTaken (s.reg Reg.ktlCntTaken - 1)).onTaken n index (fun (x : Taken) => { x with e := {}, handed := none })).refuseEntry
        n index st

/-- The write of an outgoing save record failed: the program stays on its thread, and the incoming one returns to the head of
the run queue (R503); a thread that had begun to load the outgoing program lets it go. -/
def State.swapOutFailed (s : State) (t p : Nat) : State :=
  let v := s.thread t
  if v.out ≠ some p then s
  else
    let s1 := (s.freeThread p).retire (fun a => match a with
      | .swapIn u q => u == t || q == p
      | _ => false)
    let q := (s1.runQ.filter (fun x => x != p))
    let s2 : State := { s1 with runQ := match v.prog with
      | some i => i :: q
      | none => q }
    let runs := ((s2.program p).map Program.runnable).getD true
    s2.setThread t { st := if runs then .ready else .waiting, prog := some p }

/-- The read of an incoming save record failed: the thread becomes IDLE once the outgoing record is saved (R503). -/
def State.swapInFailed (s : State) (t p : Nat) : State :=
  let v := s.thread t
  if v.prog ≠ some p ∨ v.st ≠ .swapping then s
  else ({ s with runQ := p :: s.runQ } : State).setThread t { v with prog := none, st := if v.out.isSome then .swapping else .idle }

/-- The outcome of an access whose request ended with UE, DECODE or TIMEOUT. -/
def State.accessFailed (s : State) (r : MemReq) (st : Nat) : State :=
  match r.acc with
  | .recipe slot =>
    match s.rcpLoads.find? (fun l => l.slot == slot && l.recipe.isNone) with
    | some l => s.loadFailed l st
    | none => s
  | .program id => s.endProgram id st true
  | .sealEngine => s.sealFailed st
  | .ringEntry n index => s.entryFailed n index st
  | .journal _ => s.journalLost
  | .swapOut t p => s.swapOutFailed t p
  | .swapIn t p => s.swapInFailed t p
  | .query t p => s.returned t p st
  | .scrub slot =>
    match s.teardown slot with
    | some v => s.setTeardown { v with failed := true }
    | none => s
  | .confirm blk =>
    match s.confirms.find? (fun c => c.blk == blk) with
    | some c => s.confirm c false
    | none => s
  | .reseal blk => s.resealEnd blk
  | .mortar lane => s.mortarFailed lane r.blk
  | .ckpt => if r.op == .read then s.ckptFailed st else s
  | .dump =>
    match s.dump with
    | some d => if d.copying && r.op != .read then s.dumpHeld d st else s
    | none => s
  | .content =>
    match s.tcLoad with
    | some l => s.endTcload l st
    | none => s
  | .bank tile =>
    match s.whisk.find? (fun w => w.tile == tile) with
    | some w => s.mapRun w.id (fun x => { x with failed := some st })
    | none => s
  | .curve => ({ s with trv := { s.trv with loaded := none } } : State).curveFailed st
  | .bring => if s.bring.stage = 5 ∧ s.bring.failed = false then s.stageFail st 0 [] else s
  | .firmware =>
    match s.kettle.staging with
    | some g => s.endStaging g st
    | none => s
  | _ => s

/-- SB_CWRITE found another sideband: the write is dropped (R171, R202, R206); the sideband that memory holds is not known. -/
def State.rewriteDropped (s : State) (blk : Nat) : State :=
  (((s.took 1).setSb blk s.freeNat).count Reg.hubCntRewriteDrop).setBits Reg.hubSealStatus (2 ^ 7)

/-- NOMATCH. -/
def State.accessNoMatch (s : State) (r : MemReq) : State :=
  match r.acc with
  | .poison blk => s.rewriteDropped blk
  | .reseal blk => (s.rewriteDropped blk).resealEnd blk
  | _ => if r.op == .sbCwrite then (s.took 1).setSb r.blk s.freeNat else s

/-- OK. -/
def State.accessOk (s : State) (r : MemReq) (data : Bytes) (sbv : Nat) : State :=
  match r.acc with
  | .reseal blk => s.resealEnd blk
  | .query t p => s.returned t p stOk
  | _ => if r.op == .read then s.learn r data sbv else s

/-- The counter of a status (R454). -/
def State.countStatusOf (s : State) : MemStatus → State
  | .ok => s
  | .nomatch => s.count Reg.hubCntMemNomatch
  | .ue => s.count Reg.hubCntMemUe
  | .decode => s.count Reg.hubCntMemDecode

/-- The outcome of a request whose completion the filter passes. -/
def State.delivered (s : State) (r : MemReq) (st : MemStatus) (data : Bytes) (sbv : Nat) : State :=
  match st with
  | .ok => s.accessOk r data sbv
  | .nomatch => s.accessNoMatch r
  | .ue => s.accessFailed r stMemoryError
  | .decode => s.accessFailed r stMemoryError

/-- The final response of an outstanding request passes the completion filter (R413). -/
def State.answered (s : State) (r : MemReq) (st : MemStatus) (data : Bytes) (sbv : Nat) : State :=
  let q := (s.countStatusOf st).cflComplete r.ctx r.gen
  if q.2 then q.1.delivered r st data sbv else q.1

/-- A request ends with TIMEOUT; that end passes the completion filter too. -/
def State.timedOut (s : State) (r : MemReq) : State :=
  let q := (s.count Reg.hubCntMemTimeout).cflComplete r.ctx r.gen
  if q.2 then q.1.accessFailed r stTimeout else q.1

/-- MEM_RESPONSE (R454, R457): a response to no outstanding request is late. -/
def execMemResponse (port id : Nat) (st : MemStatus) (data : Bytes) (sb : Nat) (s : State) : Host.Outcome State Fault Refusal :=
  .next (match s.memReq port id with
    | some r => ((s.endReq port id).answered r st data sb).refill port
    | none => (if port < 2 then (s.releaseId port id).refill port else s).count Reg.hubCntMemLate)

/-- MEM_REQUEST_TIMEOUT (R457): 2 µs after its issue; before that, nothing. -/
def execMemRequestTimeout (port id : Nat) (s : State) : Host.Outcome State Fault Refusal :=
  .next (match s.memReq port id with
    | some r => if r.since + usT 2 ≤ s.time then ((s.endReq port id).holdId port id).timedOut r else s
    | none => s)

/-- MEM_ID_HOLD_EXPIRY (R457): 1 ms after the timeout; before that, nothing. -/
def execMemIdHoldExpiry (port id : Nat) (s : State) : Host.Outcome State Fault Refusal :=
  .next (if port < 2 ∧ ((s.memPort port).held.any (fun h => h.id == id && decide (h.since + msT 1 ≤ s.time))) = true then (s.releaseId port id).refill port else s)

/-! ### The TAP (R476) -/

/-- Codes of the TAP instructions. -/
def irIdcode : Nat := 0b00001
def irDtmcs : Nat := 0b10000
def irDmi : Nat := 0b10001
def irAtb : Nat := 0b10010
def irBypass : Nat := 0b11111

/-- A TAP instruction is selected, and its data register shows a value. -/
def State.selectIr (s : State) (ir v : Nat) : State := ({ s with tapIr := ir } : State).emit (.tdo v false)

/-- IDCODE. -/
def State.idcode (s : State) : Nat := 3 * 2 ^ 28 + 0x005A * 2 ^ 12 + s.cfg.jedec % 2 ^ 11 * 2 + 1
def execIdcode (s : State) : Host.Outcome State Fault Refusal := .next (s.selectIr irIdcode s.idcode)

/-- DTMCS: what the debug transport shows in it is open. -/
def execDtmcs (s : State) : Host.Outcome State Fault Refusal := .next ((s.took 1).selectIr irDtmcs (s.freeNat % 2 ^ 32))

/-- BYPASS: the 1-bit register captures 0. -/
def execBypass (s : State) : Host.Outcome State Fault Refusal := .next (s.selectIr irBypass 0)

/-! ### DEBUG_LOCK -/

/-- DEBUG_LOCK: bit 0 of fuse word 14; while that word has not been read its effect is open. -/
def State.debugLock (s : State) : State × Bool :=
  match s.fuse.words[14]? with
  | some w => (s, w % 2 == 1)
  | none => (s.took 1, s.freeNat % 2 == 1)

/-- A debug request that DEBUG_LOCK refuses returns a debug error; another has its effect. -/
def State.unlessLocked (s : State) (f : State → State) : State :=
  let q := s.debugLock
  if q.2 then q.1.emit (.tdo 0 true) else f q.1

/-- The registers whose system bus reads are served while DEBUG_LOCK is 1. -/
def lockedReadOk (a : Nat) : Bool :=
  decide (a ≤ Reg.hubTimeHi) || (decide (Reg.hubJrnlWin ≤ a) && decide (a ≤ 0x5FFC)) || (decide (Reg.hubDumpAddr ≤ a) && decide (a ≤ Reg.hubDumpData))

/-! ### The debug module -/

/-- The debug module's registers of plain data: data0 and the two words of the program buffer. -/
def dmPlain (a : Nat) : Bool := a == 0x04 || a == 0x20 || a == 0x21

/-- The debug module's system bus registers, which carry the reads that DEBUG_LOCK lets pass. -/
def dmSystemBus (a : Nat) : Bool := a == 0x38 || a == 0x39 || a == 0x3C

/-- A DMI access. Registers other than those of plain data read as the debug module forms them, which is open here. -/
def State.dmiAccess (s : State) (addr data : Nat) (write : Bool) : State :=
  let s1 : State := { s with tapIr := irDmi }
  if write then ({ s1 with dm := Tab.set 0 s1.dm addr (data % 2 ^ 32) } : State).emit (.tdo 0 false)
  else if dmPlain addr then s1.emit (.tdo (Tab.get 0 s1.dm addr) false)
  else (s1.took 1).emit (.tdo (s1.freeNat % 2 ^ 32) false)

/-- DMI. -/
def execDmi (addr data : Nat) (write : Bool) (s : State) : Host.Outcome State Fault Refusal :=
  .next (if dmSystemBus addr then s.dmiAccess addr data write else s.unlessLocked (fun q => q.dmiAccess addr data write))

/-- ATB (R477): the data register is as HUB_ATB_CTRL; refused while DEBUG_LOCK is 1. -/
def execAtb (val : Nat) (s : State) : Host.Outcome State Fault Refusal :=
  .next (s.unlessLocked (fun q => (q.selectIr irAtb (q.regVal .tap Reg.hubAtbCtrl)).writeAtb (val % 2 ^ 32)))

/-! ### Harts -/

/-- Completions that waited for Kettle 0 are posted. -/
def State.postFinals (s : State) (n : Nat) : List Taken → State
  | [] => s
  | t :: ts =>
    (match t.final with
     | some (st, res, j) => s.writeCompletion n t.index st res j
     | none => s).postFinals n ts

/-- Every ring's. -/
def State.postAll (s : State) : List Nat → State
  | [] => s
  | n :: ns => (s.postFinals n (s.ring n).taken).postAll ns

/-- A hart is halted, or not; the time of the halt is not its watchdog's. -/
def State.setHalted (s : State) (k : Nat) (b : Bool) : State :=
  let c := s.core k
  s.setCore k { c with
    halted := b
    haltAt := if b && ! c.halted then s.time else c.haltAt
    halts := if ! b && c.halted then c.halts ++ [(c.haltAt, s.time)] else c.halts }

/-- DEBUG_HALT: a halted core's watchdog does not count. -/
def execDebugHalt (core : Nat) (s : State) : Host.Outcome State Fault Refusal :=
  .next (s.unlessLocked (fun q => (q.setHalted core true).emit (.tdo 0 false)))

/-- DEBUG_RESUME: what waited for Kettle 0 goes on. -/
def State.resume (s : State) (k : Nat) : State :=
  let s1 := (s.setHalted k false).emit (.tdo 0 false)
  if s1.coreUp 0 then
    let s2 := s1.postAll (List.range 16)
    s2.endServices s2.laneSvc
  else s1
def execDebugResume (core : Nat) (s : State) : Host.Outcome State Fault Refusal :=
  .next (s.unlessLocked (fun q => if (q.core core).halted then q.resume core else q.emit (.tdo 0 false)))

/-- DEBUG_SINGLE_STEP: a halted hart runs one instruction of its firmware and halts again; what that instruction does reaches
the block as a command of its own. -/
def execDebugSingleStep (core : Nat) (s : State) : Host.Outcome State Fault Refusal :=
  .next (s.unlessLocked (fun q => (if (q.core core).halted then q.setHalted core true else q).emit (.tdo 0 false)))

/-- DEBUG_TRIGGER_HIT: a trigger of a hart that runs halts it; under DEBUG_LOCK no trigger can be set. -/
def execDebugTriggerHit (core : Nat) (s : State) : Host.Outcome State Fault Refusal :=
  .next (let q := s.debugLock
    if q.2 then q.1 else q.1.setHalted core true)

/-- DEBUG_SYSTEM_BUS_ACCESS: a 32-bit access of the register map from the TAP. -/
def State.systemBus (s : State) (addr val : Nat) (write : Bool) : State :=
  if write then s.writeAccess .tap addr (fun q => q.writeReg .tap addr (val % 2 ^ 32)) else s.readAccess .tap addr (fun q => q.readReg .tap addr)
def execDebugSystemBusAccess (addr val : Nat) (write : Bool) (s : State) : Host.Outcome State Fault Refusal :=
  .next (if ! write && lockedReadOk addr then s.systemBus addr val write else s.unlessLocked (fun q => q.systemBus addr val write))

end Sys2Proof.Machine
end

