-- ==== Sys2Proof/Machine/Dispatch.lean ====
section
/-! DEFINITION. Dispatch: one arm per command, each one direct call of its meaning. -/

namespace Sys2Proof.Machine

/-- The effect of a command on everything but the queue. -/
def exec (i : Instr) (s : State) : Host.Outcome State Fault Refusal :=
  match i with
  | .powerOnReset => Sys2Proof.Machine.execPowerOnReset s
  | .blockReset => Sys2Proof.Machine.execBlockReset s
  | .resetCheckDone badUnit pinOk => Sys2Proof.Machine.execResetCheckDone badUnit pinOk s
  | .fuseWordAck data => Sys2Proof.Machine.execFuseWordAck data s
  | .fuseReadTimeout => Sys2Proof.Machine.execFuseReadTimeout s
  | .bringRomStageDone romOk memOk sfdp listA listB => Sys2Proof.Machine.execBringRomStageDone romOk memOk sfdp listA listB s
  | .firmwareImageVerified dirA dirB image => Sys2Proof.Machine.execFirmwareImageVerified dirA dirB image s
  | .flashReadTimeout => Sys2Proof.Machine.execFlashReadTimeout s
  | .bringBlockStageDone laneOk tablesOk corrected => Sys2Proof.Machine.execBringBlockStageDone laneOk tablesOk corrected s
  | .go src => Sys2Proof.Machine.execGo src s
  | .bringLinkMeasureEnd second => Sys2Proof.Machine.execBringLinkMeasureEnd second s
  | .bringTileRelease => Sys2Proof.Machine.execBringTileRelease s
  | .bringTileReadyTimeout tile => Sys2Proof.Machine.execBringTileReadyTimeout tile s
  | .bringTestDone => Sys2Proof.Machine.execBringTestDone s
  | .bringMapDone flashOk => Sys2Proof.Machine.execBringMapDone flashOk s
  | .defectListRewrite flashOk => Sys2Proof.Machine.execDefectListRewrite flashOk s
  | .hubDefectCtrlAdd src => Sys2Proof.Machine.execHubDefectCtrlAdd src s
  | .hubDefectCtrlClear src => Sys2Proof.Machine.execHubDefectCtrlClear src s
  | .hubPartMapWrite src hi val => Sys2Proof.Machine.execHubPartMapWrite src hi val s
  | .airasFrame tile atStation payload seq crc => Sys2Proof.Machine.execAirasFrame tile atStation payload seq crc s
  | .descriptorBeat tile tag data spA spB => Sys2Proof.Machine.execDescriptorBeat tile tag data spA spB s
  | .sealIngressBlock tile tag region blk data bcv cut => Sys2Proof.Machine.execSealIngressBlock tile tag region blk data bcv cut s
  | .egressBlockCompare tile tag blk data cut => Sys2Proof.Machine.execEgressBlockCompare tile tag blk data cut s
  | .operandBeat tile tag kind row col run => Sys2Proof.Machine.execOperandBeat tile tag kind row col run s
  | .outputBeat tile tag scale row col lanes => Sys2Proof.Machine.execOutputBeat tile tag scale row col lanes s
  | .outputLastBeat tile tag row col lanes flags => Sys2Proof.Machine.execOutputLastBeat tile tag row col lanes flags s
  | .converterMaxBeat tile tag m => Sys2Proof.Machine.execConverterMaxBeat tile tag m s
  | .converterMaxDeadline tile tag => Sys2Proof.Machine.execConverterMaxDeadline tile tag s
  | .routeBeat tile tag triples last => Sys2Proof.Machine.execRouteBeat tile tag triples last s
  | .lidAcceptance tile tag => Sys2Proof.Machine.execLidAcceptance tile tag s
  | .ladleVerdict tile tag late => Sys2Proof.Machine.execLadleVerdict tile tag late s
  | .bcvHandshake tile blk => Sys2Proof.Machine.execBcvHandshake tile blk s
  | .tileResetEntry tile => Sys2Proof.Machine.execTileResetEntry tile s
  | .ladleSelfCheckStart tile => Sys2Proof.Machine.execLadleSelfCheckStart tile s
  | .ladleSelfCheckDone tile pass => Sys2Proof.Machine.execLadleSelfCheckDone tile pass s
  | .ladleReport => Sys2Proof.Machine.execLadleReport s
  | .opAccept => Sys2Proof.Machine.execOpAccept s
  | .sealConfirmation blk data bcv reached => Sys2Proof.Machine.execSealConfirmation blk data bcv reached s
  | .patrolRead => Sys2Proof.Machine.execPatrolRead s
  | .routeReport => Sys2Proof.Machine.execRouteReport s
  | .mortarJobStart lane => Sys2Proof.Machine.execMortarJobStart lane s
  | .mortarJobEnd lane halvesAgree => Sys2Proof.Machine.execMortarJobEnd lane halvesAgree s
  | .sampleAgeDrop ctx step opseq => Sys2Proof.Machine.execSampleAgeDrop ctx step opseq s
  | .spillReturn => Sys2Proof.Machine.execSpillReturn s
  | .arbitrationDecision ctx step opseq => Sys2Proof.Machine.execArbitrationDecision ctx step opseq s
  | .arbSelfCheckTimeout ctx step opseq => Sys2Proof.Machine.execArbSelfCheckTimeout ctx step opseq s
  | .katVectorRun slot halvesAgree => Sys2Proof.Machine.execKatVectorRun slot halvesAgree s
  | .laneSelfTestDone lane pass => Sys2Proof.Machine.execLaneSelfTestDone lane pass s
  | .sieveBoundRecompute => Sys2Proof.Machine.execSieveBoundRecompute s
  | .haltAck m => Sys2Proof.Machine.execHaltAck m s
  | .replay ctx slot => Sys2Proof.Machine.execReplay ctx slot s
  | .bucketRelease ctx slot bucket => Sys2Proof.Machine.execBucketRelease ctx slot bucket s
  | .commitGrant ctx slot => Sys2Proof.Machine.execCommitGrant ctx slot s
  | .stepSlotFree ctx slot => Sys2Proof.Machine.execStepSlotFree ctx slot s
  | .provenanceDigestDone ctx slot => Sys2Proof.Machine.execProvenanceDigestDone ctx slot s
  | .trvHeldApply => Sys2Proof.Machine.execTrvHeldApply s
  | .programDispatch t => Sys2Proof.Machine.execProgramDispatch t s
  | .swapComplete t => Sys2Proof.Machine.execSwapComplete t s
  | .waitConditionMet prog => Sys2Proof.Machine.execWaitConditionMet prog s
  | .nop q => Sys2Proof.Machine.execNop q s
  | .end_ q => Sys2Proof.Machine.execEnd q s
  | .ldi q => Sys2Proof.Machine.execLdi q s
  | .alu q => Sys2Proof.Machine.execAlu q s
  | .br q => Sys2Proof.Machine.execBr q s
  | .ld q => Sys2Proof.Machine.execLd q s
  | .wait q => Sys2Proof.Machine.execWait q s
  | .st q => Sys2Proof.Machine.execSt q s
  | .yield_ q => Sys2Proof.Machine.execYield q s
  | .ctxbind q => Sys2Proof.Machine.execCtxbind q s
  | .ctxkill q => Sys2Proof.Machine.execCtxkill q s
  | .ctxdown q => Sys2Proof.Machine.execCtxdown q s
  | .teardownDrainEnd slot => Sys2Proof.Machine.execTeardownDrainEnd slot s
  | .teardownScrubDone slot => Sys2Proof.Machine.execTeardownScrubDone slot s
  | .rcpload q => Sys2Proof.Machine.execRcpload q s
  | .recipeLoadDone slot => Sys2Proof.Machine.execRecipeLoadDone slot s
  | .rcpdrop q => Sys2Proof.Machine.execRcpdrop q s
  | .stepopen q => Sys2Proof.Machine.execStepopen q s
  | .stepend q => Sys2Proof.Machine.execStepend q s
  | .bktend q => Sys2Proof.Machine.execBktend q s
  | .stepabort q => Sys2Proof.Machine.execStepabort q s
  | .sckset q => Sys2Proof.Machine.execSckset q s
  | .sckread q => Sys2Proof.Machine.execSckread q s
  | .sckfree q => Sys2Proof.Machine.execSckfree q s
  | .lidstat q => Sys2Proof.Machine.execLidstat q s
  | .sealrgn q => Sys2Proof.Machine.execSealrgn q s
  | .sealcpy q => Sys2Proof.Machine.execSealcpy q s
  | .sealchk q => Sys2Proof.Machine.execSealchk q s
  | .sealEngineDone => Sys2Proof.Machine.execSealEngineDone s
  | .ldlcnt q => Sys2Proof.Machine.execLdlcnt q s
  | .taptest q => Sys2Proof.Machine.execTaptest q s
  | .sievecfg q => Sys2Proof.Machine.execSievecfg q s
  | .mtrsamp q => Sys2Proof.Machine.execMtrsamp q s
  | .arbstat q => Sys2Proof.Machine.execArbstat q s
  | .rdreg q => Sys2Proof.Machine.execRdreg q s
  | .wrreg q => Sys2Proof.Machine.execWrreg q s
  | .modeset q => Sys2Proof.Machine.execModeset q s
  | .provcfg q => Sys2Proof.Machine.execProvcfg q s
  | .paircfg q => Sys2Proof.Machine.execPaircfg q s
  | .ckptman q => Sys2Proof.Machine.execCkptman q s
  | .ckptmanDone => Sys2Proof.Machine.execCkptmanDone s
  | .ckptchk q => Sys2Proof.Machine.execCkptchk q s
  | .ckptchkDone => Sys2Proof.Machine.execCkptchkDone s
  | .buddycfg q => Sys2Proof.Machine.execBuddycfg q s
  | .peersend q => Sys2Proof.Machine.execPeersend q s
  | .whiskrun q => Sys2Proof.Machine.execWhiskrun q s
  | .tcload q => Sys2Proof.Machine.execTcload q s
  | .tcloadDone => Sys2Proof.Machine.execTcloadDone s
  | .tcBankSwitch => Sys2Proof.Machine.execTcBankSwitch s
  | .suspread q => Sys2Proof.Machine.execSuspread q s
  | .quarant q => Sys2Proof.Machine.execQuarant q s
  | .tilemap q => Sys2Proof.Machine.execTilemap q s
  | .reset q => Sys2Proof.Machine.execReset q s
  | .dump q => Sys2Proof.Machine.execDump q s
  | .dumpReadResult answer => Sys2Proof.Machine.execDumpReadResult answer s
  | .dumpCopyDone => Sys2Proof.Machine.execDumpCopyDone s
  | .trvset q => Sys2Proof.Machine.execTrvset q s
  | .budget q => Sys2Proof.Machine.execBudget q s
  | .fwact q => Sys2Proof.Machine.execFwact q s
  | .deferredActivationStart => Sys2Proof.Machine.execDeferredActivationStart s
  | .activationCoreReady core => Sys2Proof.Machine.execActivationCoreReady core s
  | .ktlDbWrite src n val => Sys2Proof.Machine.execKtlDbWrite src n val s
  | .ktlCdbWrite src n val => Sys2Proof.Machine.execKtlCdbWrite src n val s
  | .ktlRingEnable src val => Sys2Proof.Machine.execKtlRingEnable src val s
  | .ringEntryTake n => Sys2Proof.Machine.execRingEntryTake n s
  | .ownerReturn n index e => Sys2Proof.Machine.execOwnerReturn n index e s
  | .submitProgram q => Sys2Proof.Machine.execSubmitProgram q s
  | .readSealStatus q => Sys2Proof.Machine.execReadSealStatus q s
  | .readCoverage q => Sys2Proof.Machine.execReadCoverage q s
  | .laneService q => Sys2Proof.Machine.execLaneService q s
  | .readSequencerStatus q => Sys2Proof.Machine.execReadSequencerStatus q s
  | .stageFirmware q => Sys2Proof.Machine.execStageFirmware q s
  | .stagingDone reread => Sys2Proof.Machine.execStagingDone reread s
  | .ktlStageGoStage src => Sys2Proof.Machine.execKtlStageGoStage src s
  | .ktlStageGoRun src => Sys2Proof.Machine.execKtlStageGoRun src s
  | .watchdogExpiry core kick => Sys2Proof.Machine.execWatchdogExpiry core kick s
  | .kettleCoreReady core copy => Sys2Proof.Machine.execKettleCoreReady core copy s
  | .pairOps m => Sys2Proof.Machine.execPairOps m s
  | .pairStep m => Sys2Proof.Machine.execPairStep m s
  | .pairTimeout ctx => Sys2Proof.Machine.execPairTimeout ctx s
  | .mirrorCopyDone ctx => Sys2Proof.Machine.execMirrorCopyDone ctx s
  | .mirrorDone m => Sys2Proof.Machine.execMirrorDone m s
  | .mirrorAck m => Sys2Proof.Machine.execMirrorAck m s
  | .mirrorAckTimeout ctx => Sys2Proof.Machine.execMirrorAckTimeout ctx s
  | .hostMessage m => Sys2Proof.Machine.execHostMessage m s
  | .peerMessageDiscard m => Sys2Proof.Machine.execPeerMessageDiscard m s
  | .peerCreditReturn cls => Sys2Proof.Machine.execPeerCreditReturn cls s
  | .hubPeerRxConsWrite src val => Sys2Proof.Machine.execHubPeerRxConsWrite src val s
  | .whiskRunStart tile test idle => Sys2Proof.Machine.execWhiskRunStart tile test idle s
  | .whiskRunEnd tile same => Sys2Proof.Machine.execWhiskRunEnd tile same s
  | .whiskRunAbandon tile => Sys2Proof.Machine.execWhiskRunAbandon tile s
  | .whiskRunTimeout tile test => Sys2Proof.Machine.execWhiskRunTimeout tile test s
  | .whiskSchedule => Sys2Proof.Machine.execWhiskSchedule s
  | .suspectScoreHalving => Sys2Proof.Machine.execSuspectScoreHalving s
  | .tileSubstitution logical empty => Sys2Proof.Machine.execTileSubstitution logical empty s
  | .pairTransition station pair wire cycle => Sys2Proof.Machine.execPairTransition station pair wire cycle s
  | .pairArmTimeout station pair cycle => Sys2Proof.Machine.execPairArmTimeout station pair cycle s
  | .captureBeat station pair addr master access cycle => Sys2Proof.Machine.execCaptureBeat station pair addr master access cycle s
  | .captureDetailTimeout station pair cycle => Sys2Proof.Machine.execCaptureDetailTimeout station pair cycle s
  | .colanderSelfFault unit word => Sys2Proof.Machine.execColanderSelfFault unit word s
  | .colSafeExit src => Sys2Proof.Machine.execColSafeExit src s
  | .colStnEnWrite src station hi val => Sys2Proof.Machine.execColStnEnWrite src station hi val s
  | .w1cClear src addr val => Sys2Proof.Machine.execW1cClear src addr val s
  | .watchWindowEnd samples => Sys2Proof.Machine.execWatchWindowEnd samples s
  | .verdictAgeHang tile => Sys2Proof.Machine.execVerdictAgeHang tile s
  | .quiesceAck slot => Sys2Proof.Machine.execQuiesceAck slot s
  | .quiesceTimeout slot => Sys2Proof.Machine.execQuiesceTimeout slot s
  | .resetDrained slot => Sys2Proof.Machine.execResetDrained slot s
  | .drainLimitExpiry slot => Sys2Proof.Machine.execDrainLimitExpiry slot s
  | .resetHoldEnd slot => Sys2Proof.Machine.execResetHoldEnd slot s
  | .resetReady slot => Sys2Proof.Machine.execResetReady slot s
  | .readyLimitExpiry slot => Sys2Proof.Machine.execReadyLimitExpiry slot s
  | .absorbWindowClose slot => Sys2Proof.Machine.execAbsorbWindowClose slot s
  | .cflIssue lane ctx gen tag => Sys2Proof.Machine.execCflIssue lane ctx gen tag s
  | .cflComplete lane ctx gen tag => Sys2Proof.Machine.execCflComplete lane ctx gen tag s
  | .stateReadAnswer data err => Sys2Proof.Machine.execStateReadAnswer data err s
  | .sensorSample sensor word => Sys2Proof.Machine.execSensorSample sensor word s
  | .fastSamplingExit zone => Sys2Proof.Machine.execFastSamplingExit zone s
  | .throttleStep => Sys2Proof.Machine.execThrottleStep s
  | .powerPoll words => Sys2Proof.Machine.execPowerPoll words s
  | .pmbusTimeout rail => Sys2Proof.Machine.execPmbusTimeout rail s
  | .smbalert => Sys2Proof.Machine.execSmbalert s
  | .trvAvsWrite src val => Sys2Proof.Machine.execTrvAvsWrite src val s
  | .trvDomLevelFloor src val => Sys2Proof.Machine.execTrvDomLevelFloor src val s
  | .trvCurveLoad src => Sys2Proof.Machine.execTrvCurveLoad src s
  | .trvCurveSelect src => Sys2Proof.Machine.execTrvCurveSelect src s
  | .trvTripClr src => Sys2Proof.Machine.execTrvTripClr src s
  | .mtrLaneCtrlFence src lanes => Sys2Proof.Machine.execMtrLaneCtrlFence src lanes s
  | .mtrLaneCtrlSelftest src lanes => Sys2Proof.Machine.execMtrLaneCtrlSelftest src lanes s
  | .mtrLaneCtrlReinstate src lanes => Sys2Proof.Machine.execMtrLaneCtrlReinstate src lanes s
  | .hubSieveSeedLoWrite src val => Sys2Proof.Machine.execHubSieveSeedLoWrite src val s
  | .hubSieveSeedHiWrite src val => Sys2Proof.Machine.execHubSieveSeedHiWrite src val s
  | .hubSieveClr src => Sys2Proof.Machine.execHubSieveClr src s
  | .hubTimeLoRead src => Sys2Proof.Machine.execHubTimeLoRead src s
  | .hubJrnlNextLoRead src => Sys2Proof.Machine.execHubJrnlNextLoRead src s
  | .hubProvNextLoRead src => Sys2Proof.Machine.execHubProvNextLoRead src s
  | .hubDumpDataRead src => Sys2Proof.Machine.execHubDumpDataRead src s
  | .hubAtbCtrlWrite src val => Sys2Proof.Machine.execHubAtbCtrlWrite src val s
  | .ldlCntClr src tile val => Sys2Proof.Machine.execLdlCntClr src tile val s
  | .hubSealCntClr src val => Sys2Proof.Machine.execHubSealCntClr src val s
  | .mtrCntClr src val => Sys2Proof.Machine.execMtrCntClr src val s
  | .lidCntClr src val => Sys2Proof.Machine.execLidCntClr src val s
  | .sckCntClr src val => Sys2Proof.Machine.execSckCntClr src val s
  | .hubSisCntClr src val => Sys2Proof.Machine.execHubSisCntClr src val s
  | .ktlCntClr src val => Sys2Proof.Machine.execKtlCntClr src val s
  | .hubJrnlCntClr src val => Sys2Proof.Machine.execHubJrnlCntClr src val s
  | .hubPairCntClr src val => Sys2Proof.Machine.execHubPairCntClr src val s
  | .hubCkptCntClr src val => Sys2Proof.Machine.execHubCkptCntClr src val s
  | .hubFtCntClr src val => Sys2Proof.Machine.execHubFtCntClr src val s
  | .colCntClr src val => Sys2Proof.Machine.execColCntClr src val s
  | .hubRcvCntClr src val => Sys2Proof.Machine.execHubRcvCntClr src val s
  | .trvCntClr src val => Sys2Proof.Machine.execTrvCntClr src val s
  | .hubPortCntClr src val => Sys2Proof.Machine.execHubPortCntClr src val s
  | .hubBringCntClr src val => Sys2Proof.Machine.execHubBringCntClr src val s
  | .registerWrite src addr val => Sys2Proof.Machine.execRegisterWrite src addr val s
  | .memResponse port id st data sb => Sys2Proof.Machine.execMemResponse port id st data sb s
  | .memRequestTimeout port id => Sys2Proof.Machine.execMemRequestTimeout port id s
  | .memIdHoldExpiry port id => Sys2Proof.Machine.execMemIdHoldExpiry port id s
  | .idcode => Sys2Proof.Machine.execIdcode s
  | .dtmcs => Sys2Proof.Machine.execDtmcs s
  | .dmi addr data write => Sys2Proof.Machine.execDmi addr data write s
  | .atb val => Sys2Proof.Machine.execAtb val s
  | .bypass => Sys2Proof.Machine.execBypass s
  | .debugHalt core => Sys2Proof.Machine.execDebugHalt core s
  | .debugResume core => Sys2Proof.Machine.execDebugResume core s
  | .debugSingleStep core => Sys2Proof.Machine.execDebugSingleStep core s
  | .debugTriggerHit core => Sys2Proof.Machine.execDebugTriggerHit core s
  | .debugSystemBusAccess addr val write => Sys2Proof.Machine.execDebugSystemBusAccess addr val write s
  | .glitchDiscard station pair => Sys2Proof.Machine.execGlitchDiscard station pair s
  | .pairReturnOk station pair => Sys2Proof.Machine.execPairReturnOk station pair s
  | .hubJrnlBaseWrite src val => Sys2Proof.Machine.execHubJrnlBaseWrite src val s

end Sys2Proof.Machine
end

