-- ==== Sys2Proof/Safety.lean ====
section
/-! DEFINITION. What counts as a sound state of the block: its tables in the one form in which equal contents are equal data,
and every stored value within its width. -/

namespace Sys2Proof.Machine

/-- The canonical form of device memory (R453): addresses strictly rising, no byte listed that an unlisted one reads as. -/
def Memory.wf (m : List Host.Cell) : Bool := Tab.wf 0 m

/-- The canonical form of the sideband, each word of 64 bits (R159). -/
def sidebandWf (b : List (Nat × Nat)) : Bool := Tab.wf 0 b && b.all (fun p => decide (p.2 < 2 ^ 64))

/-- The canonical form of the register file: addresses strictly rising, each value of 32 bits, none at its reset value (R9). -/
def regsWf : List (Nat × Nat) → Bool
  | [] => true
  | [(a, v)] => decide (v ≠ regReset a) && decide (v < 2 ^ 32)
  | (a, v) :: (b, w) :: t => decide (v ≠ regReset a) && decide (v < 2 ^ 32) && decide (a < b) && regsWf ((b, w) :: t)

/-- The invariant of the block: device memory, its sideband and the register file are in canonical form. -/
def State.Inv (s : State) : Prop := Memory.wf s.mem = true ∧ sidebandWf s.sb = true ∧ regsWf s.regs = true

/-! ### Terms in which the statements speak of commands -/

/-- Every command and query of the command port (R262): how it is written as a command of the block, and what R262 says of it. -/
def sisCommands : List ((Issue → Instr) × CmdSpec) :=
  [(.ctxbind, specCtxbind), (.ctxkill, specCtxkill), (.ctxdown, specCtxdown), (.stepopen, specStepopen), (.stepend, specStepend),
   (.bktend, specBktend), (.stepabort, specStepabort), (.sckset, specSckset), (.sckread, specSckread), (.sckfree, specSckfree),
   (.lidstat, specLidstat), (.sievecfg, specSievecfg), (.mtrsamp, specMtrsamp), (.arbstat, specArbstat), (.modeset, specModeset),
   (.provcfg, specProvcfg), (.paircfg, specPaircfg), (.sealrgn, specSealrgn), (.sealcpy, specSealcpy), (.sealchk, specSealchk),
   (.rcpload, specRcpload), (.rcpdrop, specRcpdrop), (.ldlcnt, specLdlcnt), (.ckptman, specCkptman), (.ckptchk, specCkptchk),
   (.buddycfg, specBuddycfg), (.peersend, specPeersend), (.tcload, specTcload), (.tilemap, specTilemap), (.quarant, specQuarant),
   (.suspread, specSuspread), (.whiskrun, specWhiskrun), (.taptest, specTaptest), (.trvset, specTrvset), (.budget, specBudget),
   (.fwact, specFwact), (.rdreg, specRdreg), (.reset, specReset), (.dump, specDump), (.wrreg, specWrreg)]

/-- A command that Kettle core `k` issues: its opcode, context, operands, MOD and IMM. -/
structure CoreCmd where
  k : Nat := 0
  opc : Nat := 0
  ctx : Nat := 0
  a : Nat := 0
  b : Nat := 0
  c : Nat := 0
  mod : Nat := 0
  imm : Nat := 0

/-- The command as it is issued. -/
def CoreCmd.issue (q : CoreCmd) : Issue := { by_ := .kettle q.k q.ctx q.a q.b q.c, mod := q.mod, imm := q.imm }

/-- Its SERVED entry (R260, R283) with a status and a ticket. -/
def CoreCmd.entry (q : CoreCmd) (st tk : Nat) : JEntry :=
  { type := jServed, status := st, opc := q.opc, source := srcCore q.k, ctx := q.ctx, ticket := tk, a := q.a, b := q.b, c := q.c, imm := q.imm,
    mod := q.mod }

/-- The state in which a command has its effect: its entry stands (R285). -/
def State.noted (s : State) (q : CoreCmd) (st : Nat := stOk) (tk : Nat := 0) : State := s.record (q.entry st tk)

/-- A command served with OK and no other effect: its entry, and the count of it. -/
def State.served (s : State) (q : CoreCmd) : State := (s.noted q).count Reg.hubCntCmd

/-- A command rejected with a status: its entry, and the count of it. -/
def State.rejected (s : State) (q : CoreCmd) (st : Nat) : State := (s.record (q.entry st 0)).count Reg.hubCntRejected

/-- A command that state `s` accepts under ticket `tk` with PENDING or DEFERRED: its effect has led to `u`; it is counted, and its ticket is
open. -/
def State.heldUnder (u s : State) (q : CoreCmd) (st tk : Nat) : State :=
  (u.count Reg.hubCntCmd).setTicket tk { owner := .kettle q.k, served := { q.entry st tk with jseq := s.jseq, time := s.time } }

/-- Core `k` runs its firmware, bring-up has ended, and no safe state is held. -/
def State.serving (s : State) (k : Nat) : Bool := s.coreUp k && s.bring.stage == 8 && s.safe.isNone

/-- A ticket is free for another command (R259). -/
def State.hasTicket (s : State) : Bool := decide (s.openTickets < 256)

/-- The lowest free ticket number. -/
def State.nextTicket (s : State) : Nat := freeTicket s.tickets

/-- Thread `t` holds program `id` and is the one that issues, at the instruction word `w` in a code block already verified (R245, R248). -/
def State.runsWord (s : State) (t id : Nat) (p : Program) (w : Nat) : Prop :=
  t < 32 ∧ s.selected t = true ∧ (s.thread t).prog = some id ∧ s.program id = some p ∧ (p.ctx ≠ 0 → (s.ctx p.ctx).gen = p.gen) ∧
    p.verified.contains p.codeBlk = true ∧ leNat (s.bytes p.codeAt 8) = w ∧ p.pc + 1 < p.length

end Sys2Proof.Machine
end

