-- ==== Sys2Proof/Certificates/Slice0/Obligations.lean ====
section
/-! DEFINITION. The statements about the block, family by family. Each names the rows of the table it speaks of; `exec` is the
effect of a command on everything but the queue. -/

open Sys2Proof Sys2Proof.Machine

/-! ### The queue and the machine as a whole -/

/-- The command at the front of the queue runs on the rest of the queue. -/
def Obligations.StepRunsFrontOfQueue : Prop :=
  ∀ (c : Instr) (rest : List Instr) (s : State), s.pending = c :: rest → step s = exec c { s with pending := rest }

/-- With an empty queue one cycle of the reference clock passes (the model's choice, log entry 2): the time base counts; a reset that waits in READY while a
clock of its part is stopped, and an op without a verdict on a tile that does not run, are one cycle older without it counting against them (R408, R405); at every
64th cycle the progress watch marks the units that are excluded (R402, R403); and nothing else changes. -/
def Obligations.IdleStepAdvancesTimeBase : Prop :=
  (∀ s : State, s.pending = [] → ∃ t, step s = .next t ∧ t.time = s.time + 1 ∧
    t.rsts = s.rsts.map (fun r => { r with stopped := r.stopped +
      (if r.active = true ∧ r.phase = .ready ∧ (∃ p ∈ r.tiles, s.domStopped (s.clkOf p) = true) then 1 else 0) }) ∧
    (∀ c k, (t.slot c k).ops = (s.slot c k).ops.map (fun o => { o with downFor := o.downFor +
      (if o.notAccepted = false ∧ o.verdict = none ∧ s.tileRuns o.tile = false then 1 else 0) })) ∧
    t = { s with time := t.time, rsts := t.rsts, ctxs := t.ctxs, watched := t.watched }) ∧
  (∀ s t : State, s.pending = [] → step s = .next t → (s.time + 1) % 64 ≠ 0 → t.watched = s.watched) ∧
  (∀ (s t : State) u, s.pending = [] → step s = .next t → (s.time + 1) % 64 = 0 → u < 256 → s.isWatched u = true → s.excluded u = true →
    (t.watchedUnit u).exLast = s.time + 1)

/-- Every command of the table has its effect in every state: exec answers a next state, with the queue and the integration of the instance as they were. -/
def Obligations.CommandsAnswerNextAndKeepQueue : Prop :=
  ∀ (c : Instr) (s : State), ∃ t, exec c s = .next t ∧ t.pending = s.pending ∧ t.cfg = s.cfg

/-- The invariant of the block is kept by every step, from every state that has it. -/
def Obligations.StepKeepsCanonicalForm : Prop :=
∀ s t : State, s.Inv → step s = .next t → t.Inv

/-- What block reset leaves: a state with the invariant, the reset values of the register tables, no context, program, ticket, ring or journal entry, 4 idle
lanes and reset slots, every Ladle in reset, every slot of the reset control port in quiesce and reset, bring-up in stage 0x1. -/
def Obligations.ResetValues : Prop :=
  State.reset.Inv ∧
  let s := State.reset
  (∀ a, s.reg a = regReset a) ∧
  (∀ p ∈ [(Reg.hubScrubCtrl, 0x1000), (Reg.hubSieveRate, 0x40000400), (Reg.hubSieveRate64, 0x100), (Reg.hubSieveCfg, 8), (Reg.hubPairCtrl, 0x1064),
      (Reg.hubBuddyCtrl, 0x32), (Reg.hubWhiskCtrl, 0x3C00C8), (Reg.hubSuspCfg, 0x83C), (Reg.hubWatchCtrl, 0x2140A64), (Reg.colCtrl, 1),
      (Reg.lidCtrl, 2), (Reg.ktlWdog, 0x32), (Reg.mtrStatus, 0), (Reg.lidStatus, 0), (Reg.hubJrnlBase, 0)], s.reg p.1 = p.2) ∧
  (∀ c, (s.ctx c).st = .free ∧ (s.ctx c).gen = 1) ∧ (∀ t, (s.thread t).st = .idle) ∧ s.progs = [] ∧ s.tickets = [] ∧ s.rings = [] ∧ s.journal = [] ∧
  s.jseq = 1 ∧ s.fixed = false ∧ s.time = 0 ∧ s.safe = none ∧ s.bring.stage = 1 ∧ s.lanes = [{}, {}, {}, {}] ∧
  (∀ k, (s.rst k).active = false) ∧ (∀ p, (s.ladle p).inReset = true) ∧ (∀ i, s.rout i = 3) ∧ s.pending = [] ∧ s.trv.tripped = false

/-! ### Access to the registers -/

/-- R27 whole: the read of HUB_TIME_LO gives bits 31 to 0 of the time base and captures the others, which the same source then
reads in HUB_TIME_HI; both are zero after reset and a write changes neither.
Conditions on the state and the operands alone under which exec answers a next state with the command's own effect are given for: hubTimeLoRead. -/
def Obligations.TimeBaseReads : Prop :=
  (∀ src (s : State), ∃ t, exec (.hubTimeLoRead src) s = .next t ∧ t.out = s.out ++ [.regRsp src Reg.hubTimeLo (s.time % 2 ^ 32) 0] ∧
    (∀ u : State, u.sel = t.sel → (u.readReg src Reg.hubTimeHi).2 = s.time / 2 ^ 32 % 2 ^ 32) ∧
    t = { s with sel := t.sel, out := t.out }) ∧
  (∀ src, (State.reset.readReg src Reg.hubTimeLo).2 = 0 ∧ (State.reset.readReg src Reg.hubTimeHi).2 = 0) ∧
  (∀ a ∈ [Reg.hubTimeLo, Reg.hubTimeHi], ∀ src v (s : State), ∃ t, exec (.registerWrite src a v) s = .next t ∧ t.time = s.time ∧ t.sel = s.sel)

/-! ### Resets, fuses and bring-up -/

/-- POWER_ON_RESET resets everything in the block: only what lies outside it stays, which is device memory and the flash, with the queue, the integration and the model's own counters;
BLOCK_RESET keeps the trip capture fields beside. RESET_CHECK_DONE: a check that passes is recorded, and one that found copies that disagree enters the safe state with their names.
FUSE_WORD_ACK takes the next word until word 14 has been read; FUSE_READ_TIMEOUT ends a reader that has waited 10 ms, as failed.
Conditions on the state and the operands alone under which exec answers a next state with the command's own effect are given for: powerOnReset,
blockReset, resetCheckDone, fuseWordAck, fuseReadTimeout. -/
def Obligations.ResetsAndFuses : Prop :=
  ((∀ s : State, ∃ t, exec .powerOnReset s = .next t ∧ (∀ a, t.reg a = regReset a) ∧ t.mem = s.mem ∧ t.sb = s.sb ∧
    t.kettle = { dirA := s.kettle.dirA, dirB := s.kettle.dirB, dirActive := s.kettle.dirActive, slotSize := s.kettle.slotSize,
                 slotA := { s.kettle.slotA with status := 0 }, slotB := { s.kettle.slotB with status := 0 } } ∧
    t = { State.reset with pending := s.pending, cfg := s.cfg, mem := s.mem, sb := s.sb, out := s.out, free := s.free, kettle := t.kettle }) ∧
  (∀ s : State, ∃ t u, exec .blockReset s = .next t ∧ exec .powerOnReset s = .next u ∧
    (∀ a, t.reg a = if a = Reg.trvTripCap ∨ a = Reg.trvTripTimeLo ∨ a = Reg.trvTripTimeHi then s.reg a % 2 ^ 32 else regReset a) ∧
    t = { u with regs := t.regs }) ∧
  (∀ s : State, s.bring.resetCheck = none →
    exec (.resetCheckDone none true) s = .next { s with bring := { s.bring with resetCheck := some true } } ∧
    (∀ u w pin, s.safe = none → s.liveCtxs = [] → ∃ t, exec (.resetCheckDone (some (u, w)) pin) s = .next t ∧ t.bring.resetCheck = some false ∧ t.safe = some 3 ∧
      t.reg Reg.colSelf = 2 ^ 31 + u % 2 ^ 8 * 2 ^ 16 + w % 2 ^ 12))) ∧
  ((∀ (s : State) d, s.fuse.done = false → d < 2 ^ 64 → exec (.fuseWordAck d) s = .next { s with fuse :=
    { words := s.fuse.words ++ [d], since := s.time, done := decide (14 ≤ s.fuse.words.length), failed := false } }) ∧
  (∀ s : State, s.fuse.done = false → s.fuse.since + 1000000 ≤ s.time →
    exec .fuseReadTimeout s = .next { s with fuse := { s.fuse with done := true, failed := true } }) ∧
  (∀ s : State, s.fuse.done = false → s.time < s.fuse.since + 1000000 → exec .fuseReadTimeout s = .next s))

/-- The report of a stage: 32 bytes with the stage, its result, its flags, the time and its detail, while the log has room. The stages that the ROM and Kettle 0 run on their own.
BRING_ROM_STAGE_DONE with everything in order ends stage 0x1 with the fuse-bad map as its detail, takes the defect list with the higher SEQ, and the SFDP table with its signature.
FIRMWARE_IMAGE_VERIFIED first takes the directory with the higher SEQ, whose ACTIVE slot is verified; an image that R295 accepts runs: its slot is the running one, the four cores run, and
stage 0x2 ends. FLASH_READ_TIMEOUT refuses the slot that the directory names with TIMEOUT, and the ROM goes on with the other; outside boot the next read finds the flash silent.
BRING_BLOCK_STAGE_DONE with good lanes and tables draws the table key and the signing key and ends stage 0x3. GO in stage 0x4 ends it; the record's checks then start stage 0x5.
Conditions on the state and the operands alone under which exec answers a next state with the command's own effect are given for: bringRomStageDone,
firmwareImageVerified, flashReadTimeout, bringBlockStageDone, go. -/
def Obligations.EarlyBringUpStages : Prop :=
  (∀ (s : State) (r f : Nat) (d : Bytes), s.bring.log.length < 16 →
    (s.report r f d).bring.log = s.bring.log ++ [toLe 1 s.bring.stage ++ toLe 1 r ++ toLe 2 f ++ zeros 4 ++ toLe 8 s.time ++ slice (d ++ zeros 16) 0 16] ∧
    (s.stagePass f d).bring.stage = s.bring.stage + 1 ∧ (s.stagePass f d).bring.failed = false ∧ (s.stagePass f d).bring.result = 0 ∧
    s.stagePass f d = { s with bring := (s.stagePass f d).bring } ∧
    s.stageFail r f d = { s with bring := { (s.report r f d).bring with failed := true } }) ∧
  ((∀ (s : State) (tb : Sfdp) (listA listB l : Bytes), s.bring.stage = 1 → s.bring.failed = false → s.fuse.done = true → s.fuse.failed = false →
    s.bring.resetCheck = some true → s.time ≤ 2000000 → tb.signature = 0x50444653 → chooseCopy 0x210 4 listA listB = some l →
    ∃ t, exec (.bringRomStageDone true true (some tb) listA listB) s = .next t ∧ t.bring.stage = 2 ∧ t.bring.failed = false ∧
      t.bring.seq = leAt l 4 4 ∧ t.bring.boots = leAt l 8 4 ∧ t.bring.defects = defectsOf l ∧
      t.kettle = { s.kettle with flash := tb.config, bootStage := 1 } ∧
      t.bring.log = (s.report stOk 0 (toLe 16 s.fuseBadMap)).bring.log ∧ t = { s with bring := t.bring, kettle := t.kettle }) ∧
  (∀ (s u : State) dirA dirB img, (s.bootVerifying = true ∧ u = s) ∨ (∃ x, s.bootReading = true ∧ chooseCopy 0x3C 0x14 dirA dirB = some x ∧
        u = { s with kettle := { s.kettle with dirA := dirA, dirB := dirB, dirActive := leAt x 4 1 % 2, verifying := leAt x 4 1 % 2
                                               slotSize := leAt x 0x10 4, bootStage := 2 } }) → u.checkFw img = stOk →
      ∃ t, exec (.firmwareImageVerified dirA dirB img) s = .next t ∧
      t.kettle.slot = u.kettle.verifying ∧ t.kettle.bootStage = 3 ∧ t.kettle.fwMajor = leAt img 7 1 ∧ t.kettle.fwMinor = leAt img 6 1 ∧
      t.kettle.fwBuild = leAt img 8 2 ∧ t.kettle.pub = slice img 0x40 96 ∧ (∀ c ∈ t.kettle.cores, c.running = true ∧ c.held = false ∧ c.restarting = false) ∧
      t.kettle.dirActive = u.kettle.dirActive ∧ t.bring.stage = 3 ∧ t = { s with bring := t.bring, kettle := t.kettle }) ∧
  (∀ s : State, s.bootVerifying = true → s.kettle.verifying = s.kettle.dirActive → s.kettle.dirActive ≤ 1 → ∃ t, exec .flashReadTimeout s = .next t ∧
      t.kettle.verifying = 1 - s.kettle.dirActive ∧ (t.fwSlot s.kettle.dirActive).status = stTimeout ∧ t.kettle.bootStage = 2 ∧
      t.reg Reg.ktlCntRefused = min (2 ^ 32 - 1) (s.reg Reg.ktlCntRefused + 1) ∧
      (∀ a, a ≠ Reg.ktlCntRefused → t.reg a = s.reg a) ∧ t = { s with regs := t.regs, kettle := t.kettle }) ∧
  (∀ s : State, s.bootVerifying = false → s.bootReading = false →
      exec .flashReadTimeout s = .next { s with kettle := { s.kettle with silent := true } }) ∧
  (∀ s : State, s.bring.stage = 3 → s.bring.failed = false → s.coreUp 0 = true → s.time ≤ s.bring.started + 5000000 →
    ∃ t, exec (.bringBlockStageDone 15 true 0) s = .next t ∧ t.bring.stage = 4 ∧ t.bring.signingKey = true ∧
      t.bring.tableKey = s.freeNat ∧ t.lanes = s.lanes ∧ (s.bring.seedWritten = true → t.seed = s.seed) ∧
      t = { s with seed := t.seed, free := t.free, bring := t.bring }) ∧
  (∀ src (s : State), s.bring.stage = 4 → ∃ t u : State, exec (.go src) s = .next t ∧ u = s.stagePass 0 (toLe 8 s.expBlk) ∧ u.bring.stage = 5 ∧
      t = (u.topology).emit (.regRsp src Reg.hubBringCtrl 0 0)))

/-- The later stages. BRING_LINK_MEASURE_END judges every link LINK_MS after its first reads, by R488: unreadable where a read is missing, else down by its state, else by the
quotient of its two differences against its limit; it reports how many are which, and ends stage 0x5, which fails where 100 ms beside LINK_MS have passed. BRING_TILE_RELEASE lowers reset on the compute part slot, every cluster slot and
every tile that is not fuse-bad, and on no other tile, and asks each released tile for its self-check. BRING_TILE_READY_TIMEOUT fails a tile whose self-check neither runs nor has ended 38 ms
after that, with cause 0x10, and resets it again. BRING_TEST_DONE ends stage 0x6 when every tile has ended, with a state for each tile. BRING_MAP_DONE ends stage 0x7 with the defect list
written and BOOTS and SEQ raised.
Conditions on the state and the operands alone under which exec answers a next state with the command's own effect are given for: bringLinkMeasureEnd,
bringTileRelease, bringTileReadyTimeout, bringTestDone, bringMapDone. -/
def Obligations.LateBringUpStages : Prop :=
  (∀ (s : State) second, s.bring.stage = 5 → s.bring.failed = false → s.bring.started + s.bring.linkMs * 100000 ≤ s.time →
    s.time ≤ s.bring.started + 10000000 + s.bring.linkMs * 100000 →
    ∃ t os d, exec (.bringLinkMeasureEnd second) s = .next t ∧ t.bring.stage = 6 ∧ t.bring.links = [] ∧ t.bring.reads = [] ∧
      os = linkOuts s.bring.links second s.bring.limits ∧ os.length = s.bring.links.length ∧
      t.bring.log = (s.report stOk s.bring.flags (toLe 2 (linksThat (fun o => o == .ok) os) ++ toLe 2 (linksThat (fun o => o == .unreadable) os) ++
        toLe 2 (linksThat (fun o => o == .down) os) ++ d)).bring.log ∧
      t = { s with bring := t.bring, regs := t.regs, free := t.free } ∧
      (∀ a, a ≠ Reg.hubCntLinkUnread → a ≠ Reg.hubCntLinkDown → a ≠ Reg.hubCntLinkHigh → t.reg a = s.reg a)) ∧
  (∀ (s : State) second, s.bring.stage = 5 → s.bring.failed = false → s.bring.started + 10000000 + s.bring.linkMs * 100000 < s.time →
    ∃ t, exec (.bringLinkMeasureEnd second) s = .next t ∧ t.bring.stage = 5 ∧ t.bring.failed = true) ∧
  (∀ u e d e' d' limit, linkJudge { up := some u, err := some e, data := some d } (some e') (some d') limit =
    if u % 2 = 0 then .down
    else if (d' % 2 ^ 32 + 2 ^ 32 - d) % 2 ^ 32 ≠ 0 ∧ limit * ((d' % 2 ^ 32 + 2 ^ 32 - d) % 2 ^ 32) < (e' % 2 ^ 32 + 2 ^ 32 - e) % 2 ^ 32 * 2 ^ 32 then
      .high ((e' % 2 ^ 32 + 2 ^ 32 - e) % 2 ^ 32 * 2 ^ 32 / ((d' % 2 ^ 32 + 2 ^ 32 - d) % 2 ^ 32))
    else .ok) ∧
  (∀ m e2 d2 limit, (m.up = none ∨ m.err = none ∨ m.data = none ∨ e2 = none ∨ d2 = none) → linkJudge m e2 d2 limit = .unreadable) ∧
  (∀ s : State, s.bring.stage = 6 → s.bring.released = false → ∃ t, exec .bringTileRelease s = .next t ∧ t.bring.released = true ∧
      t.bring.started = s.time ∧ (∀ p ∈ s.goodTiles, (t.ladle p).inReset = false ∧ bitAt (t.rout p) 1 = 0 ∧ (t.tileTest p).released = true) ∧
      (∀ p ∈ s.goodTiles, (s.ladle p).kat = .idle → (s.ladle p).gateShut = false → (t.ladle p).kat = .requested) ∧
      (∀ p, p ∉ s.goodTiles → t.ladle p = s.ladle p ∧ (p < 128 → t.rout p = s.rout p)) ∧
      (∀ c, c < 16 → bitAt (t.rout (128 + c)) 1 = 0) ∧ bitAt (t.rout 144) 1 = 0) ∧
  (∀ (s : State) p, s.bring.stage = 6 → (s.tileTest p).released = true → (s.tileTest p).failed = none → (s.ladle p).checked = none → (s.ladle p).kat ≠ .running →
    s.bring.started + 3800000 ≤ s.time → ∃ t, exec (.bringTileReadyTimeout p) s = .next t ∧ (t.tileTest p).failed = some 0x10 ∧
      bitAt (t.rout p) 1 = 1 ∧ (t.ladle p).inReset = true ∧ (∀ q, q ≠ p → t.ladle q = s.ladle q ∧ t.rout q = s.rout q ∧ t.tileTest q = s.tileTest q)) ∧
  (∀ s : State, s.bring.stage = 6 → s.bring.released = true → s.goodTiles.all s.tileEnded = true → (∀ p, (s.tileTest p).failed = none) →
    (∀ p, (s.ladle p).checked ≠ some false) → ∃ t, exec .bringTestDone s = .next t ∧ t.bring.stage = 7 ∧
      (∀ p, p < s.cfg.ladles → t.tileState p = if s.fuseBad p then .fuseBad else if (s.defect p).origin ≠ 0 then .testBad else .spare) ∧
      t = { s with bring := t.bring, regs := t.regs, tileStates := t.tileStates, whisk := t.whisk }) ∧
  (∀ s : State, s.bring.stage = 7 → ∃ t, exec (.bringMapDone true) s = .next t ∧ t.bring.stage = 8 ∧
      t.bring.boots = (s.bring.boots + 1) % 2 ^ 32 ∧ t.bring.seq = (s.bring.seq + 1) % 2 ^ 32 ∧ t.bring.written = s.bring.defects ∧
      t = { s with bring := t.bring, tileMap := t.tileMap, tmapSeq := t.tmapSeq, tileStates := t.tileStates, rstOut := t.rstOut })

/-- The defect list, the partition map and the journal area. DEFECT_LIST_REWRITE writes the entries and raises SEQ; ADD names the
source's selected tile with ORIGIN 3 and CLEAR sets its ORIGIN to 0; a partition write takes effect in stage 0x8 where it moves no
cluster with an open step, and is ignored otherwise; the first write of HUB_JRNL_BASE sets it, later ones change nothing.
Conditions on the state and the operands alone under which exec answers a next state with the command's own effect are given for: defectListRewrite,
hubDefectCtrlAdd, hubDefectCtrlClear, hubPartMapWrite, hubJrnlBaseWrite. -/
def Obligations.DefectsPartitionsJournalArea : Prop :=
  (∀ s : State, s.bring.rewrite = true → s.kettle.staging = none → exec (.defectListRewrite true) s = .next { s with bring :=
    { s.bring with seq := (s.bring.seq + 1) % 2 ^ 32, written := s.bring.defects, rewrite := false } }) ∧
  (∀ src (s : State), ∃ t, exec (.hubDefectCtrlAdd src) s = .next t ∧ (t.defect (s.banked src .defectSel % 128)).origin = 3 ∧
    (t.defect (s.banked src .defectSel % 128)).cause = 0x13 ∧ t.out = s.out ++ [.regRsp src Reg.hubDefectCtrl 0 0] ∧
    t = { s with bring := t.bring, out := t.out }) ∧
  (∀ src (s : State), ∃ t, exec (.hubDefectCtrlClear src) s = .next t ∧ (t.defect (s.banked src .defectSel % 128)).origin = 0 ∧
    t.out = s.out ++ [.regRsp src Reg.hubDefectCtrl 0 0] ∧ t = { s with bring := t.bring, out := t.out }) ∧
  (∀ src hi v (s : State), exec (.hubPartMapWrite src hi v) s = .next
    ((if s.bring.stage = 8 ∧ s.partBlocked hi (v % 2 ^ 32) = false then s.setReg (if hi then Reg.hubPartMapHi else Reg.hubPartMapLo) v else s).emit
      (.regRsp src (if hi then Reg.hubPartMapHi else Reg.hubPartMapLo) 0 0))) ∧
  (∀ src v (s : State), s.memOn = true → exec (.hubJrnlBaseWrite src v) s = .next (s.emit (.regRsp src Reg.hubJrnlBase 0 0))) ∧
  (∀ src v (s : State), s.memOn = false → s.journal = [] → s.kettle.refusals = [] → ∃ t, exec (.hubJrnlBaseWrite src v) s = .next t ∧
    t.memOn = true ∧ t.reg Reg.hubJrnlBase = v % 2 ^ 32 ∧ (∀ a, a ≠ Reg.hubJrnlBase → t.reg a = s.reg a) ∧
    t.out = s.out ++ [.regRsp src Reg.hubJrnlBase 0 0] ∧ t.jcopied = s.jseq ∧
    t = { s with regs := t.regs, rwl := t.rwl, out := t.out, kettle := t.kettle, jcopied := t.jcopied })

/-! ### The Ladles -/

/-- AIRAS_FRAME. At a Ladle's stop a frame with the right CRC is answered, with whether the tile can answer; a bad one is asked for again, three
times, and the next failure marks the stop unreachable with a fault of class ring. At the station's own stop a good frame is taken and a bad
one is asked for again, three times, after which the Ladle's stop is marked in the same way.
Conditions on the state and the operands alone under which exec answers a next state with the command's own effect are given for: airasFrame. -/
def Obligations.AirasRingFrames : Prop :=
  ∀ (s : State) p payload seq crc, p < s.cfg.ladles → (s.stop p).unreachable = false →
    let n := if (s.stnStop (p / 8)).tile = p then (s.stnStop (p / 8)).resends else 0
    (frameOk payload seq crc = true →
      exec (.airasFrame p false payload seq crc) s = .next ((s.setStop p { s.stop p with resends := 0 }).emit (.airas p seq (s.tileRuns p))) ∧
      exec (.airasFrame p true payload seq crc) s = .next (s.setStnStop (p / 8) {})) ∧
    (frameOk payload seq crc = false →
      ((s.stop p).resends < 3 → exec (.airasFrame p false payload seq crc) s =
        .next ((s.setStop p { s.stop p with resends := (s.stop p).resends + 1 }).emit (.airasResend p seq false))) ∧
      (3 ≤ (s.stop p).resends → exec (.airasFrame p false payload seq crc) s =
        .next ((s.setStop p { resends := 0, unreachable := true }).faultInt clsRing p)) ∧
      (n < 3 → exec (.airasFrame p true payload seq crc) s =
        .next ((s.setStnStop (p / 8) { tile := p, resends := n + 1 }).emit (.airasResend p seq true))) ∧
      (3 ≤ n → exec (.airasFrame p true payload seq crc) s =
        .next (((s.setStnStop (p / 8) {}).setStop p { resends := 0, unreachable := true }).faultInt clsRing p)))

/-- A descriptor with the next tag opens an op on a tile that runs: the op is last of the tile's ops, with the recipe that its slot holds, it goes to
the Lid, and nothing else changes. A tag out of order or in use is discarded as a breach, and so is a fifth open op; each row of R122 that
applies is counted.
Conditions on the state and the operands alone under which exec answers a next state with the command's own effect are given for: descriptorBeat. -/
def Obligations.DescriptorOpensOp : Prop :=
  ∀ (s : State) p tag w spA spB, s.tileRuns p = true → (s.ladle p).kat ≠ .running →
    ((s.ladle p).nextTag = tag → s.nameable p tag = none → (s.ladle p).open_ < 4 → s.descBad (Desc.ofWord w) spA spB = false → (∀ x ∈ s.whisk, x.tile ≠ p) →
      ∃ t o, exec (.descriptorBeat p tag w spA spB) s = .next t ∧ (t.ladle p).ops = (s.ladle p).ops ++ [o] ∧ o.tag = tag ∧ o.d = Desc.ofWord w ∧
        o.rcp = s.shadow o.d.slot ∧ o.closed = false ∧ o.done = false ∧ o.accept = .waiting ∧ o.found = [] ∧ o.id = (s.ladle p).nextId ∧
        (t.ladle p).nextTag = (tag + 1) % 16 ∧ t.lidQ = s.lidQ ++ [(p, o.id)] ∧ (∀ q, q ≠ p → t.ladle q = s.ladle q) ∧
        t = { s with ladles := t.ladles, lidQ := t.lidQ }) ∧
    ((s.ladle p).nextTag ≠ tag ∨ (s.nameable p tag).isSome = true → exec (.descriptorBeat p tag w spA spB) s =
      .next (s.discardBeat p tag (if 4 ≤ (s.ladle p).open_ then 2 else 1))) ∧
    ((s.ladle p).nextTag = tag → s.nameable p tag = none → 4 ≤ (s.ladle p).open_ → exec (.descriptorBeat p tag w spA spB) s = .next (s.discardBeat p tag 1))

/-- The beats that an op's tag names on a tile that runs: an ingress block inside its region, seen for the first time, is verified
and counted; an egress block enters device memory and its address range alone; the elements of an operand beat, consecutive from its first,
and those of an output beat, one a lane, enter the op, and so do the scale bytes of its outputs; a last beat closes it with its flags.
Conditions on the state and the operands alone under which exec answers a next state with the command's own effect are given for: sealIngressBlock,
egressBlockCompare, operandBeat, outputBeat, outputLastBeat. -/
def Obligations.BlockAndElementBeats : Prop :=
  ∀ (s : State) p tag (o : LOp), s.tileRuns p = true → s.nameable p tag = some o →
    (∀ region blk data bcv, o.consumed = false → blk < (o.lay.region region).blocks → (region, blk) ∉ o.ing → o.whisk = false → data.length = 4096 →
      bcv < 2 ^ 64 →
      let r := o.lay.region region
      let ib : InBlock := { region := region, off := blk, crc := crc32cRaw data, fmt := bcvFmt bcv, poison := bcvPoison bcv,
                            sha := if s.sealedProv o.d then sha384 data else [] }
      let o1 := { o.closeAt region (r.blockClosure blk data) with ing := (region, blk) :: o.ing, inBlocks := o.inBlocks ++ [ib] }
      (verifyBlock (crc32cRaw data) bcv (r.base + blk) o.d.gen (r.fmtAt blk) = .verified →
        exec (.sealIngressBlock p tag region blk data bcv none) s = .next (((s.count Reg.hubCntBlkVerified).putOp p o1).sweep p)) ∧
      (verifyBlock (crc32cRaw data) bcv (r.base + blk) o.d.gen (r.fmtAt blk) = .poisoned →
        exec (.sealIngressBlock p tag region blk data bcv none) s =
          .next (((s.count Reg.hubCntPoisoned).putOp p { o1.find .poisoned with poison := o1.poison ++ [r.base + blk] }).sweep p))) ∧
    (∀ blk data, blk < o.lay.out.blocks → lookup o.egr blk = none → o.whisk = false → data.length = 4096 →
      ∃ t, exec (.egressBlockCompare p tag blk data none) s = .next t ∧ t.mem = (s.setBytes ((o.lay.out.base + blk) * 4096) data).mem ∧
        (∀ a, a < (o.lay.out.base + blk) * 4096 ∨ (o.lay.out.base + blk) * 4096 + 4096 ≤ a → Tab.get 0 t.mem a = Tab.get 0 s.mem a) ∧
        (∀ q, q ≠ p → t.ladle q = s.ladle q) ∧ t = { s with regs := t.regs, mem := t.mem, ladles := t.ladles }) ∧
    (∀ kind row col run, o.closed = false → o.repeats kind (o.run kind row col run) = false → ∃ q : State × LOp,
      exec (.operandBeat p tag kind row col run) s = .next ((q.1.putOp p q.2).sweep p) ∧ q.1 = { s with regs := q.1.regs } ∧
      let x := o.addOperand kind (o.run kind row col run)
      q.2.elA = x.elA ∧ q.2.elB = x.elB ∧ q.2.elC = x.elC ∧ q.2.ixA = x.ixA ∧ q.2.ixB = x.ixB ∧ q.2.scA = x.scA ∧ q.2.scB = x.scB ∧ q.2.scC = x.scC) ∧
    (∀ row col lanes, o.closed = false → o.egr = [] →
      (let els := laneEls row col (s.laneCut p lanes)
       (∀ x ∈ els, o.lay.out.holds x.1 = true ∧ lookup o.outs x.1 = none) → (els.map Prod.fst).Nodup →
        exec (.outputBeat p tag false row col lanes) s = .next ((s.putOp p { o with outs := o.outs ++ els }).sweep p)) ∧
      (let scs := laneScales col (s.laneCut p lanes)
       (∀ x ∈ scs, x.1 < o.lay.out.groups ∧ lookup o.scOut x.1 = none) → (scs.map Prod.fst).Nodup →
        exec (.outputBeat p tag true row col lanes) s = .next ((s.putOp p { o with scOut := o.scOut ++ scs }).sweep p))) ∧
    (∀ row col lanes flags, o.closed = false → flags < 64 → ∃ q r : State × LOp,
      let els := laneEls row col (s.laneCut p lanes)
      q = s.compareBlocks p (o.addOuts els) o.egr ∧
      r = q.1.closeChecks p { q.2 with closed := true, flags := flags } (o.elsOutside els) (o.elsAgain els) ∧
      r.2.closed = true ∧ r.2.flags = flags ∧ r.2.outs = (o.addOuts els).outs ∧
      exec (.outputLastBeat p tag row col lanes flags) s = .next ((r.1.putOp p r.2).sweep p))

/-- A breach that fails one op counts LDL_CNT_TAPERR of its tile and adds the finding of the tap. The other taps and the Lid's answer. A converter max value is taken once, where the op needs
one and the tile has the tap; where it is still absent 16 tile cycles after the close, the op fails with a breach; on a tile with the route tap the route triples are folded into the
op's digest; an acceptance of the Lid gives the op its tensor scales.
Conditions on the state and the operands alone under which exec answers a next state with the command's own effect are given for: converterMaxBeat,
converterMaxDeadline, routeBeat, lidAcceptance. -/
def Obligations.TapFindingsAndAcceptance : Prop :=
  (∀ (s : State) p (o : LOp), (s.breach p o).2.found.contains .tap = true ∧
    (∀ f ∈ o.found, f ∈ (s.breach p o).2.found) ∧ (s.breach p o).1 = (((s.tapErr p 0 o.d.opseq o.tag).ldlCount p 19 1).faultInt clsTap o.d.ctx) ∧
    (s.breach p o).2.tag = o.tag ∧ (s.breach p o).2.d = o.d ∧ (s.breach p o).2.closed = o.closed) ∧
  (∀ (s : State) p tag (o : LOp), s.tileRuns p = true → s.nameable p tag = some o →
    (∀ m, (Tab.get {} s.cfg.tapId p).cmx = true → m < 2 ^ 32 → o.needCmx = true → o.cmx = none →
      exec (.converterMaxBeat p tag m) s = .next ((s.putOp p { o with cmx := some m }).sweep p)) ∧
    (o.closed = true → o.needCmx = true → o.cmx = none → o.cmxLate = false → ∃ q, q = s.breach p { o with cmxLate := true } ∧
      exec (.converterMaxDeadline p tag) s = .next (q.1.putOp p q.2)) ∧
    (∀ triples last, (Tab.get {} s.cfg.tapId p).route = true → o.closed = false → o.d.isRoute = true → o.rteLast = false →
      exec (.routeBeat p tag triples last) s =
        .next (((s.ldlCount p 26 1).putOp p { o.tally 26 1 with route := o.route.folds triples, rteLast := last }).sweep p)) ∧
    (∀ x y z, s.answers = [(p, o.id, .ok x y z)] → (s.ladle p).ops = [o] → o.tag = tag →
      exec (.lidAcceptance p tag) s =
        .next ((({ s with answers := [] } : State).ldlCount p 0 1).putOp p { o.tally 0 1 with accept := .ok x y z })))

/-- The verdict and what follows it. LADLE_VERDICT of a closed op that has all it waits for reports it once to the Lid; a refused op with output blocks is reported with the last of its BCVs,
and a stale one never. BCV_HANDSHAKE writes the check value of one output block into its sideband and changes no other block's. Reset of a tile closes its open ops as abandoned; a self-check
starts with no op open and its end is counted and answers who asked.
Conditions on the state and the operands alone under which exec answers a next state with the command's own effect are given for: ladleVerdict,
bcvHandshake, tileResetEntry, ladleSelfCheckStart, ladleSelfCheckDone. -/
def Obligations.VerdictSealsAndTileReset : Prop :=
  ((∀ (s : State) p tag late (o : LOp), s.tileRuns p = true → (s.ladle p).ops.find? (fun x => x.tag == tag && x.ready) = some o → o.whisk = false →
    (o.accept ≠ .stale → o.accept ≠ .refused → ∃ t r, exec (.ladleVerdict p tag late) s = .next t ∧ t.reports = s.reports ++ [r] ∧ r.tile = p ∧
      r.tag = o.tag ∧ r.d = o.d ∧ r.verdict = o.judge.1.verdictOf o.rcp ∧ (∀ q, q ≠ p → t.ladle q = s.ladle q) ∧
      t = { s with regs := t.regs, ladles := t.ladles, reports := t.reports }) ∧
    (o.accept = .stale ∨ (o.accept = .refused ∧ (s.ladle p).gateShut = false ∧ 0 < o.lay.out.blocks) → ∃ t, exec (.ladleVerdict p tag late) s = .next t ∧
      (∀ q, q ≠ p → t.ladle q = s.ladle q) ∧ t = { s with regs := t.regs, ladles := t.ladles })) ∧
  (∀ (s : State) p blk (o : LOp), s.tileRuns p = true → (s.ladle p).ops.find? (fun x => x.bcvLeft.any (fun k => x.lay.out.base + k == blk)) = some o →
    ∃ t, exec (.bcvHandshake p blk) s = .next t ∧ t.sbOf blk = o.bcvAt p (blk - o.lay.out.base) % 2 ^ 64 ∧ (∀ b, b ≠ blk → t.sbOf b = s.sbOf b) ∧
      t.out = s.out ++ [.bcv p blk (o.bcvAt p (blk - o.lay.out.base))] ∧ (∀ q, q ≠ p → t.ladle q = s.ladle q) ∧
      (o.accept ≠ .refused → t.reports = s.reports) ∧
      (o.accept = .refused → o.bcvLeft = [blk - o.lay.out.base] → ∃ r, t.reports = s.reports ++ [r] ∧ r.verdict = .refused ∧ r.d = o.d) ∧
      t = { s with sb := t.sb, ladles := t.ladles, out := t.out, reports := t.reports })) ∧
  ((∀ (s : State) p, p < s.cfg.ladles → (s.ladle p).inReset = false → (∀ w ∈ s.whisk, w.tile ≠ p) → ∃ t, exec (.tileResetEntry p) s = .next t ∧
    (t.ladle p).inReset = true ∧ (t.ladle p).ops = [] ∧ (t.ladle p).nextTag = 0 ∧ (t.ladle p).gateShut = false ∧
    (∀ q, q ≠ p → t.ladle q = s.ladle q) ∧ (∀ x ∈ t.lidQ, x.1 ≠ p) ∧ (t.pair (p / 8) (p % 8)).filt ≠ some .error ∧
    t = { s with regs := t.regs, ladles := t.ladles, reports := t.reports, lidQ := t.lidQ, answers := t.answers, pairs := t.pairs }) ∧
  (∀ (s : State) p, s.tileRuns p = true → (s.ladle p).kat = .requested → (s.ladle p).open_ = 0 →
    exec (.ladleSelfCheckStart p) s = .next (s.setLadle p { s.ladle p with kat := .running })) ∧
  (∀ (s : State) p, s.tileRuns p = true → (s.ladle p).kat = .running → (∀ k, (s.rst k).active = false) → ∃ t, exec (.ladleSelfCheckDone p true) s = .next t ∧
    t.ladle p = { s.ladle p with kat := .idle, askers := 0, checked := some true } ∧ (∀ q, q ≠ p → t.ladle q = s.ladle q) ∧
    t.arbs = s.arbs.map (fun a => if a.rep.tile == p && a.check.isNone then { a with check := some true } else a) ∧
    t = { s with regs := t.regs, ladles := t.ladles, arbs := t.arbs }))

/-! ### The Lid -/

/-- OP_ACCEPT takes the oldest descriptor on its way to the Lid. An op of an open step of a LIVE context that no rule refuses gets its record, its answer is
its tensor scales, its 32 bytes of the ledger area are the only ones written, and no other slot or context changes; an op of another generation or of context 0 is answered as stale.
Conditions on the state and the operands alone under which exec answers a next state with the command's own effect are given for: opAccept. -/
def Obligations.LidAcceptsOps : Prop :=
  ∀ (s : State) p id rest (o : LOp), s.lidQ = (p, id) :: rest → (s.ladle p).ops.find? (fun x => x.id == id) = some o →
    (o.d.ctx = 0 ∨ o.d.gen ≠ (s.ctx o.d.ctx).gen → exec .opAccept s = .next { s with lidQ := rest, answers := s.answers ++ [(p, id, .stale)] }) ∧
    (∀ k, o.d.ctx ≠ 0 → o.d.gen = (s.ctx o.d.ctx).gen → (s.ctx o.d.ctx).st = .live → (s.ctx o.d.ctx).find (fun x => x.live && x.step == o.d.step) = some k →
      s.lidDescErr (s.ctx o.d.ctx) (s.slot o.d.ctx k) o.d = false → ({ s with lidQ := rest } : State).acceptRow (s.ctx o.d.ctx) (s.slot o.d.ctx k) o.d o.lay = 0 →
      ∃ t r, exec .opAccept s = .next t ∧ (t.slot o.d.ctx k).op o.d.opseq = some r ∧ r.d = o.d ∧ r.tile = p ∧ r.tag = o.tag ∧ r.st = .accepted ∧
        r.verdict = none ∧ r.notAccepted = false ∧ t.answers = s.answers ++ [(p, id, .ok r.tsA r.tsB r.tsOut)] ∧ t.lidQ = rest ∧
        (∀ c, c ≠ o.d.ctx → t.ctx c = s.ctx c) ∧ (∀ j, j ≠ k → t.slot o.d.ctx j = s.slot o.d.ctx j) ∧
        (∀ a, a < s.reg Reg.lidLedgerBase * 64 * 4096 + 32 * r.place ∨ s.reg Reg.lidLedgerBase * 64 * 4096 + 32 * r.place + 32 ≤ a →
          Tab.get 0 t.mem a = Tab.get 0 s.mem a) ∧
        t = { s with lidQ := rest, answers := t.answers, ctxs := t.ctxs, lidSeq := s.lidSeq + 1, pastBounds := t.pastBounds, mem := t.mem, sb := t.sb
                     port0 := t.port0, port1 := t.port1, free := t.free, regs := t.regs })

/-- LADLE_REPORT takes the oldest report. A passing op that the Sieve does not select, that nothing else holds and whose context is not
paired becomes CLEAR and adds its escape contribution once; an op that failed on the tap halts an open step that has a replay left,
with the op as origin; a report of another generation changes nothing.
Conditions on the state and the operands alone under which exec answers a next state with the command's own effect are given for: ladleReport. -/
def Obligations.LidTakesReports : Prop :=
  ∀ (s : State) (r : Report) rest, s.reports = r :: rest → r.d.ctx ≠ 0 →
    ((s.ctx r.d.ctx).gen ≠ r.d.gen → s.tearing r.d.ctx r.d.gen = none → exec .ladleReport s = .next { s with reports := rest }) ∧
    (∀ i (o : OpRec), (s.ctx r.d.ctx).gen = r.d.gen → (s.ctx r.d.ctx).st = .live → (s.ctx r.d.ctx).stepSlot r.d.step = some i →
      (s.slot r.d.ctx i).st = .open_ → (s.slot r.d.ctx i).op r.d.opseq = some o → r.d.isRoute = false →
      (r.verdict = .pass → o.d = r.d → o.notAccepted = false → o.verdict = none → o.tile = r.tile → o.st = .accepted → o.samples = 0 → o.arb = false →
        o.arbReseal = false → o.routeHold = false → o.escaped = false → o.asked = [] → r.cmx = none → s.pairing r.d.ctx = none →
        (s.slot r.d.ctx i).sieve.selects r.d (s.rcp r.d.slot).recipe (r.compared && ! r.resOff) r.resOff = false →
        ∃ t, exec .ladleReport s = .next t ∧ (t.slot r.d.ctx i).op r.d.opseq = some { r.into o with escaped := true, st := .clear } ∧
          (∀ c, c ≠ r.d.ctx → t.ctx c = s.ctx c) ∧ t = { s with reports := rest, ctxs := t.ctxs, escTotal := t.escTotal }) ∧
      (r.verdict = .failed → r.found = [.tap] → r.seals = [] → r.poison = [] → 0 < (s.slot r.d.ctx i).replays →
        ∃ t, exec .ladleReport s = .next t ∧ (t.slot r.d.ctx i).st = .halted ∧ (t.slot r.d.ctx i).prev = .open_ ∧
          (t.slot r.d.ctx i).origin = r.d.opseq ∧ ((t.slot r.d.ctx i).op r.d.opseq).map OpRec.st = some .failed ∧
          (∀ c, c ≠ r.d.ctx → t.ctx c = s.ctx c)))

/-- HALT_ACK of a halted step is noted with its next OPSEQ, one that names no halted step is dropped and counted, and another good message of class 0 is
counted alone; REPLAY of a step that has all it waits for returns it to its former state with one replay used and the ops at or above the origin reset, but for those of released
buckets, which are CLEAR.
Conditions on the state and the operands alone under which exec answers a next state with the command's own effect are given for: haltAck, replay. -/
def Obligations.HaltAckAndReplay : Prop :=
  (∀ (s : State) (m : PeerMsg), s.accepts m = true → m.cls = 0 → m.kind = gkHaltAck →
    let c := leAt m.body 2 2
    let step := leAt m.body 8 4
    (∀ k, (s.ctx c).st = .live → (s.ctx c).gen = leAt m.body 4 2 → (s.ctx c).find (fun x => x.st == .halted && x.step == step) = some k →
      exec (.haltAck m) s = .next (((s.count Reg.hubCntPeerRx).emit (.credit 0)).setSlot c k { s.slot c k with ack := some (leAt m.body 12 4) })) ∧
    ((s.ctx c).st ≠ .live ∨ (s.ctx c).gen ≠ leAt m.body 4 2 ∨ (s.ctx c).find (fun x => x.st == .halted && x.step == step) = none →
      exec (.haltAck m) s = .next (((s.count Reg.hubCntPeerRx).emit (.credit 0)).count Reg.lidCntGateDrop))) ∧
  (∀ (s : State) (m : PeerMsg), s.accepts m = true → m.cls = 0 → m.kind ≠ gkHaltAck →
    exec (.haltAck m) s = .next ((s.count Reg.hubCntPeerRx).emit (.credit 0))) ∧
  (∀ (s : State) c k, s.replayReady c k = true → ∃ t, exec (.replay c k) s = .next t ∧ (t.slot c k).st = (s.slot c k).prev ∧
    (t.slot c k).replays = (s.slot c k).replays - 1 ∧ (t.slot c k).replaysUsed = (s.slot c k).replaysUsed + 1 ∧ (t.slot c k).ack = none ∧
    (t.slot c k).ops = (s.slot c k).ops.map (fun o =>
      if o.d.opseq < (s.slot c k).origin then o
      else if o.d.bktValid && ((s.slot c k).bucket o.d.bucket).released then { o with st := .clear } else o.reset) ∧
    (∀ d, d ≠ c → t.ctx d = s.ctx d) ∧ t = { s with ctxs := t.ctxs, routes := t.routes, peer := t.peer, out := t.out, regs := t.regs } ∧
    (∀ a, a ≠ Reg.lidCntReplays → t.reg a = s.reg a))

/-- BUCKET_RELEASE releases a releasable bucket and tells the collective agent; COMMIT_GRANT of a step of an unpaired context without
provenance, once R233 holds, commits it: its number becomes the last committed one and its slot is free; STEP_SLOT_FREE frees the slot of an abandoned step once every accepted op has its
verdict; PROVENANCE_DIGEST_DONE gives a step the digest that its commit waits for.
Conditions on the state and the operands alone under which exec answers a next state with the command's own effect are given for: bucketRelease,
commitGrant, stepSlotFree, provenanceDigestDone. -/
def Obligations.ReleaseCommitAndFree : Prop :=
  (∀ (s : State) c k b, s.releasable c k b = true → ∃ t, exec (.bucketRelease c k b) s = .next t ∧ ((t.slot c k).bucket b).released = true ∧
    (t.slot c k).released = (s.slot c k).released + 1 ∧ t.reg Reg.lidCntReleased = min (2 ^ 32 - 1) (s.reg Reg.lidCntReleased + 1) ∧
    (∀ a, a ≠ Reg.lidCntReleased → t.reg a = s.reg a) ∧ (∀ x, x ≠ b → (t.slot c k).bucket x = (s.slot c k).bucket x) ∧
    (∀ d, d ≠ c → t.ctx d = s.ctx d) ∧ t = { s with ctxs := t.ctxs, peer := t.peer, out := t.out, regs := t.regs }) ∧
  (∀ (s : State) c k, s.commitReady c k = true → (s.stepRoutes c (s.ctx c).gen (s.slot c k).step).all (fun r => r.closed) = true →
    (s.slot c k).provMode = 0 → (s.slot c k).provDigest = none → s.pairing c = none → (s.ctx c).buddy = none →
    ∃ t, exec (.commitGrant c k) s = .next t ∧ (t.ctx c).committed = (s.slot c k).step ∧ (t.slot c k) = {} ∧ (t.ctx c).st = .live ∧
      (t.ctx c).stats = (s.slot c k).stats s.time false ∧ (∀ j, j ≠ k → t.slot c j = s.slot c j) ∧ (∀ d, d ≠ c → t.ctx d = s.ctx d)) ∧
  (∀ (s : State) c k, k < 4 → (s.slot c k).st = .abandoned → (s.slot c k).ops.all (fun o => o.notAccepted || o.verdict.isSome) = true →
    exec (.stepSlotFree c k) s = .next (s.setCtx c { s.ctx c with
      slots := setAt (s.ctx c).slots k {}, stats := (s.slot c k).stats (s.slot c k).granted true })) ∧
  (∀ (s : State) c k, s.commitReady c k = true → (s.slot c k).provMode ≠ 0 → (s.slot c k).provDigest = none →
    exec (.provenanceDigestDone c k) s = .next (s.setSlot c k { s.slot c k with provDigest := some (s.stepDigest c k) }))

/-! ### Mortar, Sieve, seals and routes -/

/-- A lane takes the head of the queue when it is the lane that R198 gives and the job is in time, and keeps it until its end. At the end of
a sample that agrees with the engine's output both its counters advance and the op has one sample less to wait for; an arbitration job ends with its decision.
Conditions on the state and the operands alone under which exec answers a next state with the command's own effect are given for: mortarJobStart,
mortarJobEnd. -/
def Obligations.MortarRunsJobs : Prop :=
  (∀ (s : State) l j rest, s.queue = j :: rest → j.kind ≠ .selfTest → s.laneFor j = some l → (j.kind = .arb ∨ s.inTime j = true) → s.laneSvc = [] →
    l < s.lanes.length → ∃ t, exec (.mortarJobStart l) s = .next t ∧ (t.lane l).job = some j ∧ t.queue = s.queue.filter (fun x => x.id != j.id) ∧
      t.turn = (if s.fixed then (l + 1) % 4 else s.turn) ∧ (∀ m, m ≠ l → t.lane m = s.lane m) ∧
      t = { s with lanes := t.lanes, queue := t.queue, turn := t.turn, port0 := t.port0, port1 := t.port1, regs := t.regs, cfl := t.cfl }) ∧
  (∀ (s u : State) l j r, (s.lane l).job = some j → j.kind = .sample → j.ignored = false → j.first = none → s.bothStalled = false → u = s.laneFree l →
    u.heldRecipe j = some r → u.badFetch j = none → u.rcpGood (u.rcpBlk j.op.d.slot) (ceilDiv (u.rcp j.op.d.slot).len 4096) = true →
    ((u.runOut j r).flagsOk && j.els.all (u.runOut j r).bits) = true →
    exec (.mortarJobEnd l true) s = .next (((u.count Reg.mtrCntSamples).count Reg.mtrCntSmpAgree).endSample j true)) ∧
  (∀ (s u : State) l j r a, (s.lane l).job = some j → j.kind = .arb → s.bothStalled = false → u = s.laneFree l → u.heldRecipe j = some r →
    u.badFetch j = none → u.rcpGood (u.rcpBlk j.op.d.slot) (ceilDiv (u.rcp j.op.d.slot).len 4096) = true →
    u.arbs.find? (fun x => x.job.id == j.id) = some a →
    exec (.mortarJobEnd l true) s = .next ((u.took (j.op.d.dimM * j.op.d.dimN)).endArb j.id l (arbDecide u.free a.rep (u.runOut j r))))

/-- Samples and lanes apart from their runs: a sample that cannot start in time is dropped and counted; the oldest spilled one returns to a queue with room; a self-test that passes leaves its
lane marked as tested; the bound is recomputed from the escape total and the time since it was cleared. An arbitration whose job has ended and whose self-check has answered is decided: it
leaves the table, its observations are made, and its decision acts on the op. The self-check's time is over 50 µs after its command. The next vector of a loading recipe runs on
the lane that R198 gives, while no sample is pending; where the lane's halves disagree the lane is fenced with a fault and the vector waits for another.
Conditions on the state and the operands alone under which exec answers a next state with the command's own effect are given for: sampleAgeDrop,
spillReturn, laneSelfTestDone, sieveBoundRecompute, arbitrationDecision, arbSelfCheckTimeout, katVectorRun. -/
def Obligations.SamplesAndArbitrations : Prop :=
  ((∀ (s : State) c n q j, s.inService ≠ [] → s.queue.find? (fun x => x.kind == .sample && x.ctx == c && x.step == n && x.opseq == q && ! s.inTime x) = some j →
    exec (.sampleAgeDrop c n q) s =
      .next ((({ s with queue := s.queue.filter (fun x => x.id != j.id) } : State).count Reg.mtrCntDropAge).dropSample j)) ∧
  (∀ (s : State) j rest, s.spill = j :: rest → s.queue.length < 1024 →
    exec .spillReturn s = .next { s.request .read (s.spillBlk j.place) (j.place % 64) 1 .spill with spill := rest, queue := enqueue j s.queue }) ∧
  (∀ (s : State) l j, (s.lane l).job = some j → j.kind = .selfTest → s.laneSvc = [] →
    exec (.laneSelfTestDone l true) s = .next (s.setLane l { s.lane l with job := none, tested := true })) ∧
  (∀ s : State, ∃ t, exec .sieveBoundRecompute s = .next t ∧ t.reg Reg.hubSieveBound = boundOf s.escTotal (s.time - s.sieveT) ∧ t.boundAt = s.time ∧
    (∀ a, a ≠ Reg.hubSieveBound → t.reg a = s.reg a) ∧ t = { s with regs := t.regs, boundAt := s.time })) ∧
  ((∀ (s : State) c n q a d, s.arbs.find? (fun x => x.job.ctx == c && x.job.step == n && x.job.opseq == q && x.ended.isSome &&
      (x.check.isSome || x.checkOver || decide (x.since + 5000 ≤ s.time))) = some a → a.ended = some d → a.job.ignored = false →
    exec (.arbitrationDecision c n q) s =
      .next ((({ s with arbs := s.arbs.filter (fun x => x.job.id != a.job.id) } : State).observeDecision a d).arbAct a d)) ∧
  (∀ (s : State) c n q, ∃ t, exec (.arbSelfCheckTimeout c n q) s = .next t ∧ t = { s with arbs := t.arbs } ∧ t.arbs.length = s.arbs.length ∧
    (∀ a ∈ s.arbs, a.job.ctx = c → a.job.step = n → a.job.opseq = q → a.since + 5000 ≤ s.time → { a with checkOver := true } ∈ t.arbs) ∧
    (∀ a ∈ s.arbs, (a.job.ctx ≠ c ∨ a.job.step ≠ n ∨ a.job.opseq ≠ q ∨ s.time < a.since + 5000) → a ∈ t.arbs)) ∧
  (∀ (s u : State) k l r v rest lane, s.rcpLoads.find? (fun x => x.slot == k) = some l → l.recipe = some r → l.vectors = v :: rest → l.katBad = false →
    s.laneFor { avoid := l.avoid } = some lane → s.samplePending = false → u = { s with turn := if s.fixed then (lane + 1) % 4 else s.turn } →
    exec (.katVectorRun k true) s = .next { u.count Reg.mtrCntKatVectors with rcpLoads := s.rcpLoads.map (fun x =>
      if x.slot == k then { x with vectors := rest, katBad := ! ((r.kats[v]?).map (katPass r)).getD false, avoid := none } else x) } ∧
    exec (.katVectorRun k false) s = .next ((u.fence lane true).onLoad k (fun x => { x with avoid := some lane }))))

/-- A confirmation reads the block again: what it read becomes the block, and the class is decided on it (R169). A patrol read goes over the
next 64 blocks of its range, which are not all sealed, and a sealed one that verifies is counted. A report of a route op opens a routing op, or joins one that is not yet full.
Conditions on the state and the operands alone under which exec answers a next state with the command's own effect are given for: sealConfirmation,
routeReport, patrolRead. -/
def Obligations.ConfirmationsPatrolAndRoutes : Prop :=
  (∀ (s u : State) blk data v c, s.confirms.find? (fun x => x.blk == blk) = some c → data.length = 4096 → v < 2 ^ 64 →
    u = ((s.retire (fun a => a == .confirm blk)).setBytes (blk * 4096) data).setSb blk v →
    exec (.sealConfirmation blk data v true) s = .next (u.confirm c true) ∧ u.sbOf blk = v ∧
    exec (.sealConfirmation blk data v false) s = .next ((s.retire (fun a => a == .confirm blk)).confirm c false)) ∧
  (∀ (s : State) (r : Report) rest, s.routeQ = r :: rest →
    (s.routes.find? (fun e => e.is r.d.ctx r.d.gen r.d.step r.d.dimM) = none → s.openRoutes < 512 → ∃ t e, exec .routeReport s = .next t ∧
      e ∈ t.routes ∧ e.is r.d.ctx r.d.gen r.d.step r.d.dimM = true ∧ e.closed = false ∧ e.dimN = r.d.dimN ∧ e.members.map RMember.opseq = [r.d.opseq] ∧
      t = { s with routeQ := rest, routes := t.routes, lidSeq := s.lidSeq + 1 }) ∧
    (∀ e, s.routes.find? (fun e => e.is r.d.ctx r.d.gen r.d.step r.d.dimM) = some e → e.full = false → e.closed = false →
      e.members.length + 1 < e.dimN → ∃ t e1, exec .routeReport s = .next t ∧ e1 ∈ t.routes ∧
        e1.members.map RMember.opseq = e.members.map RMember.opseq ++ [r.d.opseq] ∧ e1.closed = false ∧ t = { s with routeQ := rest, routes := t.routes })) ∧
  (∀ s : State, s.bit Reg.hubScrubCtrl 0 = true → s.reg Reg.hubScrubFirst ≤ s.reg Reg.hubScrubPos → s.reg Reg.hubScrubPos ≤ s.reg Reg.hubScrubLast →
    (∀ b, s.reg Reg.hubScrubPos * 64 ≤ b → b < s.reg Reg.hubScrubPos * 64 + 64 → bcvSealed (s.sbOf b) = false) →
    (∀ x ∈ s.port0.all ++ s.port1.all, (∃ b, x.acc = .patrol b) → x.ctx = 0) → ∃ t, exec .patrolRead s = .next t ∧ t.reg Reg.hubScrubPos =
        (if s.reg Reg.hubScrubPos = s.reg Reg.hubScrubLast then s.reg Reg.hubScrubFirst else s.reg Reg.hubScrubPos + 1) % 2 ^ 32 ∧
      (∀ a, a ≠ Reg.hubScrubPos → a ≠ Reg.hubCntMemTimeout → t.reg a = s.reg a) ∧ t = { s with regs := t.regs, port0 := t.port0, port1 := t.port1 }) ∧
  (∀ s : State, s.bit Reg.hubScrubCtrl 0 = false → exec .patrolRead s = .next s) ∧
  (∀ (s : State) b, bcvSealed (s.sbOf b) = true → bcvPoison (s.sbOf b) = false → s.anyOutput b = false →
    s.verify b (bcvGen (s.sbOf b)) (bcvFmt (s.sbOf b)) = .verified → s.patrolOne b = s.count Reg.hubCntScrubBlocks)


/-! ### The sequencer -/

/-- How the command port decides (R257): for every command of a core, an illegal MOD or IMM ends in ILLEGAL_OPCODE, a TERMINATED context in
CONTEXT_GONE, a value wider than its field in BAD_OPERAND, and before the end of bring-up or in the safe state a command that may not run then in
ILLEGAL_STATE: each without any other effect than its SERVED entry and HUB_CNT_REJECTED. -/
def Obligations.CommandPortRejects : Prop :=
  ∀ p ∈ sisCommands, ∀ (s : State) (q : CoreCmd) (c : Cmd), s.coreUp q.k = true → q.opc = p.2.opc → q.a < 2 ^ 64 → q.b < 2 ^ 64 → q.c < 2 ^ 64 →
    q.mod < 16 → q.imm < 2 ^ 32 → c = { ctx := q.ctx, a := q.a, b := q.b, c := q.c, mod := q.mod, imm := q.imm, tk := s.nextTicket, src := .core q.k } →
    (p.2.query = false → p.2.row1 q.mod q.imm = true → exec (p.1 q.issue) s = .next (s.rejected q stIllegalOpcode)) ∧
    (p.2.row1 q.mod q.imm = false →
      (p.2.query = false →
        (p.2.gone = true → (s.ctx (p.2.named c)).st = .terminated → exec (p.1 q.issue) s = .next (s.rejected q stContextGone)) ∧
        ((p.2.gone = false ∨ (s.ctx (p.2.named c)).st ≠ .terminated) →
          (p.2.wide c = true → exec (p.1 q.issue) s = .next (s.rejected q stBadOperand)) ∧
          (p.2.wide c = false → (∀ own, ∀ v ∈ [s, s.record (q.entry stIllegalState 0)], (p.2.body c v).2 ≠ .no stBadOperand own) →
            ((s.bring.stage ≠ 8 ∧ p.2.early = false) ∨ (s.safe ≠ none ∧ p.2.safe c = true)) →
            exec (p.1 q.issue) s = .next (s.rejected q stIllegalState)))))

/-- A thread's command is decided like any other, and its program gets the status in ST: PRIVILEGE where only context 0 has the instruction, a result in gRD, a ticket in gRD and its list; its
PC advances. A query's record is written to the parameter block at IMM, and the thread is ISSUED until that write has ended. A form with an unused field other than zero ends the program. A
ring entry's command completes its entry with the status and result. -/
def Obligations.CommandsOfThreadsAndRings : Prop :=
  (∀ p ∈ sisCommands, ∀ (s : State) t id (g : Program) rd ra rb rc mod imm, rd < 16 → ra < 16 → rb < 16 → rc < 16 → mod < 16 → imm < 2 ^ 32 →
    s.runsWord t id g (encodeWord p.2.opc rd ra rb rc mod imm) → ∃ c : Cmd,
      c = { ctx := g.ctx, a := g.g ra, b := g.g rb, c := g.g rc, mod := mod, imm := imm, tk := s.nextTicket, src := .thread t, prog := some id } ∧
      ((p.2.row1 mod imm = true ∨ p.2.row1Regs mod rd ra rb rc = true) →
        exec (p.1 { by_ := .thread t rd ra rb rc, mod := mod, imm := imm }) s =
          .next ((if p.2.journaled c then (s.issues t).record (servedEntry p.2 c (srcThread t) id 0 stIllegalOpcode 0) else s.issues t).endProgram id
            stIllegalOpcode true)) ∧
      (p.2.row1 mod imm = false → p.2.row1Regs mod rd ra rb rc = false → ∀ u r j, (s.issues t).serve p.2 c (.program id) (srcThread t) id 0 = (u, r, j) →
        (p.2.ctx0 = true → g.ctx ≠ 0 → r = .no stPrivilege false) ∧
        exec (p.1 { by_ := .thread t rd ra rb rc, mod := mod, imm := imm }) s = .next (u.deliver t id rd s.nextTicket r imm))) ∧
  (∀ (u : State) n id (g : Program) rd tk imm, u.program id = some g → g.pc + 1 < g.length →
    (∀ st own, st ≠ stUnreachable → ∃ t, u.deliver n id rd tk (.no st own) imm = t ∧ t.program id = some { g with status := st, pc := g.pc + 1 } ∧
      t = { u with progs := t.progs }) ∧
    (∀ v, ∃ t, u.deliver n id rd tk (.ok v) imm = t ∧ t.program id = some { g.setG rd v with status := 0, pc := g.pc + 1 } ∧ t = { u with progs := t.progs }) ∧
    (∀ st, ∃ t, u.deliver n id rd tk (.later st) imm = t ∧
      t.program id = some { g.setG rd tk with status := st, pc := g.pc + 1, tickets := g.tickets ++ [tk] } ∧ t = { u with progs := t.progs }) ∧
    (∀ b, u.bothStalled = false →
      u.deliver n id rd tk (.rec_ b) imm = (u.writeZ (g.param * 4096 + imm) b (.query n id)).setThread n { u.thread n with st := .issued })) ∧
  (∀ p ∈ sisCommands, ∀ (s : State) n index (x : Taken), s.taken n index = some x → s.coreUp 0 = true → x.handed = none → x.served = false →
    x.ran = false → x.final = none → x.e.kind = p.2.opc → x.e.issued < 16 → x.e.imm < 2 ^ 32 → x.index = index → ∀ u r j,
    s.portCmd p.2 { ctx := x.e.ctx, a := x.e.a0, b := x.e.a1, c := x.e.a2, mod := x.e.issued, imm := x.e.imm, tk := s.nextTicket, src := .core 0,
                    ring := some (n, index) } (.ring n index x.e.cookie) (srcRing n) index x.e.cookie = (u, r, j) →
    exec (p.1 { by_ := .ring n index, mod := x.e.issued, imm := x.e.imm }) s = .next (match r with
      | .later _ => u.onTaken n index (fun y => { y with served := true, ticket := some s.nextTicket })
      | .rec_ b => (u.ringRecord x.e.ctx x.e.a4 x.e.imm b).finishEntry n index stOk 0 j
      | .ok v => (u.onTaken n index (fun y => { y with served := true })).finishEntry n index stOk v j
      | .no st _ => (u.onTaken n index (fun y => { y with served := true })).finishEntry n index st 0 j))

/-- The thread instructions of R254 that stay on their thread. NOP advances PC; LDI and ALU write gRD, where g0 discards; BR goes to the sum of PC and its offset where its condition holds, else
on; a target outside the program ends it with BAD_OPERAND. LD and ST reach the parameter block at gRA + IMM, a multiple of 8 inside the block, and any other offset ends the program with
BAD_OPERAND. ST writes the eight bytes of gRB and leaves the block without its seal; every other byte of memory stays as it was, and LD changes none.
Conditions on the state and the operands alone under which exec answers a next state with the command's own effect are given for: nop, ldi, alu, br,
ld, st. -/
def Obligations.ProgramInstructions : Prop :=
  ((∀ (s : State) t id p, s.runsWord t id p (encodeWord 0 0 0 0 0 0 0) →
    exec (.nop { by_ := .thread t 0 0 0 0, mod := 0, imm := 0 }) s = .next ((s.issues t).setProgram id { p with pc := p.pc + 1 })) ∧
  (∀ (s : State) t id p rd mod imm, rd < 16 → mod < 2 → imm < 2 ^ 32 → s.runsWord t id p (encodeWord 2 rd 0 0 0 mod imm) → ∃ v,
    v = (if mod = 0 then sext32 imm else imm * 2 ^ 32 + p.g rd % 2 ^ 32) ∧
    ∃ u, exec (.ldi { by_ := .thread t rd 0 0 0, mod := mod, imm := imm }) s = .next u ∧ u.program id = some { p.setG rd v with pc := p.pc + 1 } ∧
      u = { s.issues t with progs := u.progs }) ∧
  (∀ (s : State) t id p rd ra rb mod imm, rd < 16 → ra < 16 → rb < 16 → mod < 7 → imm < 2 ^ 32 → s.runsWord t id p (encodeWord 3 rd ra rb 0 mod imm) →
    ∃ b v, b = (p.g rb + sext32 imm) % 2 ^ 64 ∧ v = aluOp mod (p.g ra) b ∧ (mod = 0 → v = (p.g ra + b) % 2 ^ 64) ∧
    (mod = 1 → p.g ra < 2 ^ 64 → v = (p.g ra + 2 ^ 64 - b) % 2 ^ 64) ∧ (mod = 5 → v = p.g ra * 2 ^ (b % 64) % 2 ^ 64) ∧
    (mod = 6 → v = p.g ra / 2 ^ (b % 64)) ∧
    ∃ u, exec (.alu { by_ := .thread t rd ra rb 0, mod := mod, imm := imm }) s = .next u ∧ u.program id = some { p.setG rd v with pc := p.pc + 1 } ∧
      u = { s.issues t with progs := u.progs }) ∧
  (∀ (s : State) t id p ra rb mod imm, ra < 16 → rb < 16 → mod < 16 → imm < 2 ^ 32 → brBad mod imm 0 ra rb 0 = false →
    s.runsWord t id p (encodeWord 4 0 ra rb 0 mod imm) →
    exec (.br { by_ := .thread t 0 ra rb 0, mod := mod, imm := imm }) s = .next (
      if brTaken mod p.status imm (p.g ra) (p.g rb) then
        (if 0 ≤ (p.pc : Int) + signedOf 16 (imm / 2 ^ 16) ∧ ((p.pc : Int) + signedOf 16 (imm / 2 ^ 16)).toNat < p.length then
          (s.issues t).setProgram id { p with pc := ((p.pc : Int) + signedOf 16 (imm / 2 ^ 16)).toNat } else (s.issues t).endProgram id stBadOperand true)
      else (s.issues t).setProgram id { p with pc := p.pc + 1 })) ∧
  (∀ (p : Program) r v, r ≤ 15 → p.regs.length = 15 → v < 2 ^ 64 → (p.setG r v).g r = (if r = 0 then 0 else v) ∧
    (∀ q, q ≠ r → q ≤ 15 → (p.setG r v).g q = p.g q))) ∧
  (∀ (s : State) t id p ra imm o, ra < 16 → imm < 2 ^ 32 → o = (p.g ra + sext32 imm) % 2 ^ 64 →
    (∀ rd, rd < 16 → s.runsWord t id p (encodeWord 5 rd ra 0 0 0 imm) →
      (o % 8 = 0 → o < 4096 → ∃ u, exec (.ld { by_ := .thread t rd ra 0 0, mod := 0, imm := imm }) s = .next u ∧
        u.program id = some { p.setG rd (leNat (s.bytes (p.param * 4096 + o) 8)) with pc := p.pc + 1 } ∧ u = { s.issues t with progs := u.progs }) ∧
      ((o % 8 ≠ 0 ∨ 4096 ≤ o) → exec (.ld { by_ := .thread t rd ra 0 0, mod := 0, imm := imm }) s = .next ((s.issues t).endProgram id stBadOperand true))) ∧
    (∀ rb, rb < 16 → s.runsWord t id p (encodeWord 7 0 ra rb 0 0 imm) →
      (o % 8 = 0 → o < 4096 → s.bothStalled = false → ∃ u, exec (.st { by_ := .thread t 0 ra rb 0, mod := 0, imm := imm }) s = .next u ∧
        u.program id = some { p with pc := p.pc + 1 } ∧ u.bytes (p.param * 4096 + o) 8 = toLe 8 (p.g rb) ∧ u.sbOf p.param = 0 ∧
        (∀ a, a < p.param * 4096 + o ∨ p.param * 4096 + o + 8 ≤ a → Tab.get 0 u.mem a = Tab.get 0 s.mem a) ∧ (∀ b, b ≠ p.param → u.sbOf b = s.sbOf b) ∧
        u = { s.issues t with progs := u.progs, mem := u.mem, sb := u.sb, port0 := u.port0, port1 := u.port1 }) ∧
      ((o % 8 ≠ 0 ∨ 4096 ≤ o) → exec (.st { by_ := .thread t 0 ra rb 0, mod := 0, imm := imm }) s = .next ((s.issues t).endProgram id stBadOperand true))))

/-- WAIT, YIELD and END. WAIT of a complete ticket of the program gives ST and gRD and closes the ticket; one that is not complete leaves the program WAITING, as a time does and an open step; a
committed or abandoned step gives ST at once. YIELD keeps its thread while no program is runnable. END ends the program with ST, which is journaled as PROG_END. A program's block that fails
to verify ends it with SEAL_FAIL, and a word that is no instruction with ILLEGAL_OPCODE. An IDLE thread takes the program at the head of the run queue, whose record is read; once the
transfers have completed the thread is READY. A condition that holds makes the waiting program READY on its thread, with its effect and its PC behind the WAIT; one that does not changes
nothing.
Conditions on the state and the operands alone under which exec answers a next state with the command's own effect are given for: wait, yield_, end_,
programDispatch, swapComplete, waitConditionMet. -/
def Obligations.ThreadsAndPrograms : Prop :=
  ((∀ (s : State) t id p rd ra k, rd < 16 → ra < 16 → s.runsWord t id p (encodeWord 6 rd ra 0 0 0 0) → p.tickets.contains (p.g ra) = true →
    s.ticket (p.g ra) = some k →
    (k.done = true → ∃ u, exec (.wait { by_ := .thread t rd ra 0 0, mod := 0, imm := 0 }) s = .next u ∧ u.tickets = Tab.erase s.tickets (p.g ra) ∧
      u.program id = some { p.setG rd k.result with status := k.status, tickets := p.tickets.filter (fun x => x != p.g ra), wait := .nothing, pc := p.pc + 1 } ∧
      u = { s.issues t with tickets := u.tickets, progs := u.progs }) ∧
    (k.done = false → ∃ u, exec (.wait { by_ := .thread t rd ra 0 0, mod := 0, imm := 0 }) s = .next u ∧ (u.thread t).st = .waiting ∧
      u.program id = some { p with wait := .ticket (p.g ra) rd, runnable := false } ∧ u = { s.issues t with progs := u.progs, threads := u.threads })) ∧
  (∀ (s : State) t id p imm, 0 < imm → imm < 2 ^ 32 → s.runsWord t id p (encodeWord 6 0 0 0 0 1 imm) → ∃ u,
    exec (.wait { by_ := .thread t 0 0 0 0, mod := 1, imm := imm }) s = .next u ∧ (u.thread t).st = .waiting ∧
      u.program id = some { p with wait := .time s.time imm, runnable := false } ∧ u = { s.issues t with progs := u.progs, threads := u.threads }) ∧
  (∀ (s : State) t id p ra ok, ra < 16 → s.runsWord t id p (encodeWord 6 0 ra 0 0 2 0) → p.steps.find? (fun x => x.1 == p.g ra) = some (p.g ra, ok) → ∃ u,
    exec (.wait { by_ := .thread t 0 ra 0 0, mod := 2, imm := 0 }) s = .next u ∧
      u.program id = some { p with status := if ok then stOk else stStepAbandoned, pc := p.pc + 1 } ∧
      u = { (s.issues t).countStatus (if ok then stOk else stStepAbandoned) with progs := u.progs }) ∧
  (∀ (s : State) t id p, s.runsWord t id p (encodeWord 8 0 0 0 0 0 0) → s.runQ = [] →
    exec (.yield_ { by_ := .thread t 0 0 0 0, mod := 0, imm := 0 }) s = .next ((s.issues t).setProgram id { p with pc := p.pc + 1 })) ∧
  (∀ (s : State) t id p q rest, s.runsWord t id p (encodeWord 8 0 0 0 0 0 0) → s.runQ = q :: rest → q ∉ rest → q ≠ id →
    s.bothStalled = false → ∃ u, exec (.yield_ { by_ := .thread t 0 0 0 0, mod := 0, imm := 0 }) s = .next u ∧
      u.thread t = { st := .swapping, prog := some q, out := some id } ∧ u.runQ = rest ++ [id] ∧ u.program id = some { p with pc := p.pc + 1 } ∧
      (∀ a, a < s.saveAt id ∨ s.saveAt id + 256 ≤ a → Tab.get 0 u.mem a = Tab.get 0 s.mem a) ∧
      u = { s.issues t with progs := u.progs, runQ := u.runQ, threads := u.threads, port0 := u.port0, port1 := u.port1, mem := u.mem, sb := u.sb
                            free := u.free, cfl := u.cfl }) ∧
  (∀ (s : State) t id p, s.runsWord t id p (encodeWord 1 0 0 0 0 0 0) → s.memOn = false → s.coreUp 0 = false → ∃ u,
    exec (.end_ { by_ := .thread t 0 0 0 0, mod := 0, imm := 0 }) s = .next u ∧ u.program id = none ∧ id ∉ u.runQ ∧ u.jseq = s.jseq + 1 ∧
      (∃ e ∈ u.journal, e.jseq = s.jseq ∧ e.type = jProgEnd ∧ e.status = p.status ∧ e.ctx = p.ctx ∧ e.ref = p.index ∧ e.cookie = p.cookie) ∧
      (s.bothStalled = false → u.sbOf p.param = bcv (s.block p.param) p.param p.gen 0x3E false 0xFE % 2 ^ 64))) ∧
  ((∀ (s : State) t id p, t < 32 → s.selected t = true → (s.thread t).prog = some id → s.program id = some p → p.ctx = 0 → s.bothStalled = false →
    p.verified.contains p.codeBlk = false → s.progBlockOk 0 p.gen p.codeBlk = false →
    exec (.nop { by_ := .thread t 0 0 0 0, mod := 0, imm := 0 }) s =
      .next (((((s.issues t).request .read p.codeBlk 0 64 (.program id))).confirmProg 0 p.gen p.codeBlk).endProgram id stSealFail true)) ∧
  (∀ (s : State) t id p w, s.runsWord t id p w → (listedOpcodes.contains (w / 2 ^ 56) = false ∨ w / 2 ^ 32 % 16 ≠ 0) →
    exec (.nop { by_ := .thread t 0 0 0 0, mod := 0, imm := 0 }) s = .next (((s.issues t).recordBad t id w p).endProgram id stIllegalOpcode true)) ∧
  (∀ (s : State) t q rest, t < 32 → (s.thread t).st = .idle → s.runQ = q :: rest → q ∉ rest → s.bothStalled = false → ∃ u,
    exec (.programDispatch t) s = .next u ∧ u.thread t = { st := .swapping, prog := some q } ∧ u.runQ = rest ∧ (∀ k, k ≠ t → u.thread k = s.thread k) ∧
      u = { s with runQ := u.runQ, threads := u.threads, port0 := u.port0, port1 := u.port1, cfl := u.cfl }) ∧
  (∀ (s : State) t q, (s.thread t).st = .swapping → (s.thread t).prog = some q → ∃ u, exec (.swapComplete t) s = .next u ∧
      u.thread t = { st := .ready, prog := some q } ∧ (∀ k, k ≠ t → u.thread k = s.thread k) ∧
      (∀ a, a ≠ Reg.hubCntSwaps → a ≠ Reg.hubCntCflPass → a ≠ Reg.hubCntCflDrop → a ≠ Reg.hubCntCflLate → u.reg a = s.reg a) ∧
      u.reg Reg.hubCntSwaps = (if (s.thread t).out = none then s.reg Reg.hubCntSwaps else min (2 ^ 32 - 1) (s.reg Reg.hubCntSwaps + 1)) ∧
      u = { s with threads := u.threads, port0 := u.port0, port1 := u.port1, regs := u.regs, cfl := u.cfl, teardowns := u.teardowns }) ∧
  (∀ (s : State) t id p start us, t < 32 → s.program id = some p → p.wait = .time start us → (s.thread t).prog = some id → (s.thread t).st = .waiting →
    (∀ k, k < t → (s.thread k).prog ≠ some id) → p.pc + 1 < p.length →
    (start + us * 100 ≤ s.time → ∃ u, exec (.waitConditionMet id) s = .next u ∧
      u.program id = some { p with wait := .nothing, runnable := true, pc := p.pc + 1 } ∧ (u.thread t).st = .ready ∧ (u.thread t).prog = some id ∧
      u = { s with progs := u.progs, threads := u.threads }) ∧
    (s.time < start + us * 100 → exec (.waitConditionMet id) s = .next s)))


/-! ### Contexts, steps and scales -/

/-- CTXBIND of a FREE entry makes it LIVE with its operands under its generation; CTXKILL terminates a LIVE context, whose open steps are abandoned. Each is refused in any other state. CTXDOWN
of a context that has no program takes the lowest free teardown slot, and the entry is FREE under its next generation, 1 after 0xFFFF. A teardown whose programs have ended and whose count is zero begins its scrub; when
the scrub is done its slot is free and its ticket completes.
Conditions on the state and the operands alone under which exec answers a next state with the command's own effect are given for: ctxbind, ctxkill,
ctxdown, teardownDrainEnd, teardownScrubDone. -/
def Obligations.ContextLifeCycle : Prop :=
  ((∀ (s : State) (q : CoreCmd), q.opc = 0x10 → s.serving q.k = true → q.ctx = 0 → q.a < 2 ^ 16 → q.b < 2 ^ 64 → q.c < 2 ^ 32 → q.mod = 0 → 0 < q.imm → q.imm < 2 ^ 16 →
    ((s.ctx q.a).st = .free → q.a ≠ 0 → exec (.ctxbind q.issue) s = .next (((s.noted q).setCtx q.a
      { gen := (s.ctx q.a).gen, st := .live, seed := q.b, mb := q.imm, collective := q.c % 2 ^ 16, command := q.c / 2 ^ 16 }).count Reg.hubCntCmd)) ∧
    ((s.ctx q.a).st = .live ∨ (q.a = 0 ∧ (s.ctx 0).st ≠ .terminated) → exec (.ctxbind q.issue) s = .next (s.rejected q stIllegalState))) ∧
  (∀ (s : State) (q : CoreCmd), q.opc = 0x11 → s.serving q.k = true → q.ctx = 0 → q.a < 2 ^ 16 → q.mod = 0 → q.imm = 0 → q.b < 2 ^ 64 → q.c < 2 ^ 64 →
    ((s.ctx q.a).st = .live → exec (.ctxkill q.issue) s = .next (((s.noted q).terminate q.a).count Reg.hubCntCmd)) ∧
    ((s.ctx q.a).st = .free → exec (.ctxkill q.issue) s = .next (s.rejected q stIllegalState))) ∧
  (∀ (s : State) c, (s.ctx c).st = .live → (s.ctx c).liveSlots = [] → s.terminate c = (s.setCtx c { s.ctx c with st := .terminated }).setBits Reg.hubSealStatus 32) ∧
  (∀ (s : State) c, (s.ctx c).st = .live → ((s.terminate c).ctx c).st = .terminated ∧ ((s.terminate c).ctx c).gen = (s.ctx c).gen ∧
    (∀ d, d ≠ c → (s.terminate c).ctx d = s.ctx d) ∧ (∀ k ∈ (s.ctx c).liveSlots, ((s.terminate c).slot c k).st = .abandoned))) ∧
  ((∀ (s : State) (q : CoreCmd) k, q.opc = 0x12 → s.serving q.k = true → s.hasTicket = true → q.ctx = 0 → q.a < 2 ^ 16 → q.mod = 0 → q.imm = 0 → q.b < 2 ^ 64 → q.c < 2 ^ 64 →
    (s.ctx q.a).st = .terminated → (∀ p ∈ s.progs, p.2.ctx ≠ q.a) → s.freeTeardown = some k → ∃ (u : State) (v : Teardown), exec (.ctxdown q.issue) s = .next (u.heldUnder s q stPending s.nextTicket) ∧
      u.ctx q.a = { gen := if (s.ctx q.a).gen = 0xFFFF then 1 else (s.ctx q.a).gen + 1 } ∧ (∀ c, c ≠ q.a → u.ctx c = s.ctx c) ∧
      u.teardowns = s.teardowns ++ [v] ∧ v.slot = k ∧ v.ctx = q.a ∧ v.gen = (s.ctx q.a).gen ∧ v.ticket = s.nextTicket ∧ v.since = s.time ∧
      v.count = Tab.get 0 s.cfl q.a + (s.ctx q.a).pendingOps ∧ u.cfl = Tab.set 0 s.cfl q.a 0 ∧ (∀ p ∈ u.pairings, p.ctx ≠ q.a) ∧
      u = { s.noted q stPending s.nextTicket with ctxs := u.ctxs, teardowns := u.teardowns, cfl := u.cfl, sck := u.sck, routes := u.routes, pairings := u.pairings }) ∧
  (∀ (s : State) k v, s.teardown k = some v → v.phase = .drain → s.oldPrograms v = false → v.count = 0 → v.scrub = [] →
    exec (.teardownDrainEnd k) s = .next (s.setTeardown { v with phase := .scrub })) ∧
  (∀ (s : State) k v, s.teardown k = some v → v.phase = .drain → s.oldPrograms v = true ∨ (0 < v.count ∧ s.time < v.since + 100000) →
    exec (.teardownDrainEnd k) s = .next s) ∧
  (∀ (s : State) k v tk, s.teardown k = some v → v.phase = .scrub → v.failed = false → s.ticket v.ticket = some tk → tk.owner = .kettle 1 → s.memOn = false → ∃ u : State,
    exec (.teardownScrubDone k) s = .next u ∧ u.teardown k = none ∧ u.ticket v.ticket = none ∧ u.reg Reg.hubCntTeardown = min (2 ^ 32 - 1) (s.reg Reg.hubCntTeardown + 1) ∧
      (∃ e ∈ u.journal, e.jseq = s.jseq ∧ e.type = jCompleted ∧ e.status = stOk ∧ e.ticket = v.ticket)))

/-- STEPOPEN opens the step that R219 gives in slot n modulo 4, with the replays, the Sieve settings and the provenance mode in force. STEPEND with its n and U ends it. BKTEND ends a bucket of
an open step with the OPSEQ of its last op, by IMM or by gRC; STEPABORT abandons the step: its slot is ABANDONED with CAUSE 1.
Conditions on the state and the operands alone under which exec answers a next state with the command's own effect are given for: stepopen, stepend,
bktend, stepabort. -/
def Obligations.StepsAndBuckets : Prop :=
  ((∀ (s : State) (q : CoreCmd), q.opc = 0x20 → s.serving q.k = true → q.ctx ≠ 0 → q.a < 2 ^ 32 → q.mod = 0 → q.imm = 0 → q.b < 2 ^ 64 → q.c < 2 ^ 64 → (s.ctx q.ctx).st = .live →
    (s.ctx q.ctx).buddy = none →
    ((s.ctx q.ctx).mayOpen q.a = true → ∃ u : State, exec (.stepopen q.issue) s = .next (u.count Reg.hubCntCmd) ∧ u.slot q.ctx (q.a % 4) = (if q.a % 4 < (s.ctx q.ctx).slots.length then
        { st := .open_, step := q.a, replays := s.reg Reg.lidCtrl % 16, sieve := s.sieveLatch, opened := s.time, provMode := (s.ctx q.ctx).provMode } else {}) ∧
      (∀ j, j ≠ q.a % 4 → u.slot q.ctx j = s.slot q.ctx j) ∧ (∀ c, c ≠ q.ctx → u.ctx c = s.ctx c) ∧
      u = { ((s.noted q).count Reg.lidCntOpened) with ctxs := u.ctxs, progs := u.progs } ∧
      u.progs = s.progs.map (fun p => if p.2.ctx = q.ctx then (p.1, { p.2 with steps := p.2.steps.filter (fun x => x.1 ≠ q.a) }) else p)) ∧
    ((s.ctx q.ctx).mayOpen q.a = false → exec (.stepopen q.issue) s = .next (s.rejected q stIllegalState))) ∧
  (∀ e : Ctx, e.anyStep = false → e.liveSlots = [] → (e.slot ((e.committed + 1) % 2 ^ 32 % 4)).st = .free → ∀ n, n < 2 ^ 32 →
    (e.mayOpen n = true ↔ n = (e.committed + 1) % 2 ^ 32)) ∧
  (∀ (s : State) (q : CoreCmd) k, q.opc = 0x21 → s.serving q.k = true → q.ctx ≠ 0 → q.a < 2 ^ 32 → 0 < q.b → q.b ≤ 2 ^ 24 → q.c ≤ q.b → q.mod = 0 → q.imm = 0 →
    s.stepOf q.ctx q.a = some k → (s.slot q.ctx k).st = .open_ → (s.slot q.ctx k).provMode = 0 → s.pairing q.ctx = none →
    (∀ o ∈ (s.slot q.ctx k).ops, o.notAccepted = false → o.d.opseq < q.b) → (∀ p ∈ (s.slot q.ctx k).buckets, ∀ l, p.2.last = some l → l < q.c) →
    exec (.stepend q.issue) s = .next (((s.noted q).setSlot q.ctx k { s.slot q.ctx k with st := .ended, n := q.b, u := q.c, prog := [] }).count Reg.hubCntCmd))) ∧
  ((∀ (s : State) (q : CoreCmd) k b, q.opc = 0x22 → s.serving q.k = true → q.ctx ≠ 0 → q.a < 2 ^ 32 → q.b < 2 ^ 24 → q.mod < 2 → b < 4096 →
    (q.mod = 0 → q.imm = b ∧ q.c < 2 ^ 64) → (q.mod = 1 → q.c = b ∧ q.imm = 0) → (s.ctx q.ctx).st ≠ .terminated →
    s.stepOf q.ctx q.a = some k → (s.slot q.ctx k).live = true → (s.slot q.ctx k).nulled = false →
    (((s.slot q.ctx k).bucket b).last = none → ((s.slot q.ctx k).bucket b).released = false → ((s.slot q.ctx k).bucket b).nulled = false →
      ((s.slot q.ctx k).n = 0 ∨ q.b < (s.slot q.ctx k).u) →
      exec (.bktend q.issue) s = .next (((s.noted q).setSlot q.ctx k ((s.slot q.ctx k).setBucket b { (s.slot q.ctx k).bucket b with last := some q.b })).count Reg.hubCntCmd)) ∧
    (((s.slot q.ctx k).bucket b).last ≠ none → exec (.bktend q.issue) s = .next (s.rejected q stIllegalState))) ∧
  (∀ (s : State) (q : CoreCmd) k, q.opc = 0x23 → s.serving q.k = true → q.ctx ≠ 0 → q.a < 2 ^ 32 → q.mod = 0 → q.imm = 0 → q.b < 2 ^ 64 → q.c < 2 ^ 64 →
    s.stepOf q.ctx q.a = some k → (s.slot q.ctx k).live = true → k < (s.ctx q.ctx).slots.length → (s.ctx q.ctx).later (s.slot q.ctx k).step = [] → ∃ u : State,
    exec (.stepabort q.issue) s = .next (u.count Reg.hubCntCmd) ∧ (u.slot q.ctx k).st = .abandoned ∧ (u.slot q.ctx k).cause = 1 ∧ (u.slot q.ctx k).pins = [] ∧
      (∀ c, c ≠ q.ctx → u.ctx c = s.ctx c)))

/-- SCKSET binds an entry with its scale in all four copies; SCKFREE frees it; SCKREAD and LIDSTAT give records, at an offset that
is a multiple of 16 and leaves room for them in the block.
Conditions on the state and the operands alone under which exec answers a next state with the command's own effect are given for: sckset, sckfree,
sckread, lidstat. -/
def Obligations.ScalesAndStepStatus : Prop :=
  (∀ (s : State) (q : CoreCmd) f m v, q.opc = 0x24 → s.serving q.k = true → q.mod = 0 → q.imm < 2 ^ 15 → q.a < 2 ^ 64 → q.c < 2 ^ 64 →
    (s.ctx q.ctx).st ≠ .terminated → (fmtOf f).isSome = true → f < 64 → (∀ x, fmtOf f = some x → x.kind ≠ .ieee) → m < 16 → v < 256 → v ≠ 128 → q.b = f + m * 2 ^ 8 + v * 2 ^ 16 →
    (s.sckLegal q.ctx q.imm = true → exec (.sckset q.issue) s = .next (((s.noted q).setSck q.imm
      { bound := true, fmt := f, margin := m, ctx := q.ctx, scales := [signedOf 8 v, signedOf 8 v, signedOf 8 v, signedOf 8 v] }).count Reg.hubCntCmd)) ∧
    (s.sckLegal q.ctx q.imm = false → exec (.sckset q.issue) s = .next (s.rejected q stIllegalState))) ∧
  (∀ (s : State) (q : CoreCmd), q.opc = 0x26 → s.serving q.k = true → q.mod = 0 → q.imm < 2 ^ 15 → q.a < 2 ^ 64 → q.b < 2 ^ 64 → q.c < 2 ^ 64 → (s.ctx q.ctx).st ≠ .terminated →
    exec (.sckfree q.issue) s = .next (if s.sckLegal q.ctx q.imm then ((s.noted q).setSck q.imm {}).count Reg.hubCntCmd else s.rejected q stIllegalState)) ∧
  (∀ (s : State) (q : CoreCmd), q.opc = 0x25 → s.coreUp q.k = true → s.safe = none → s.bring.stage = 8 → q.mod = 0 → q.a < 2 ^ 15 → q.imm % 16 = 0 → q.imm + (s.sckEnt q.a).record.length ≤ 4096 →
    exec (.sckread q.issue) s = .next (s.count Reg.hubCntCmd) ∧
    ∀ c : Cmd, c.a = q.a → c.imm = q.imm → c.mod = 0 → s.decideCmd specSckread c = (s, .rec_ (s.sckEnt q.a).record)) ∧
  (∀ (s : State) (q : CoreCmd) k, q.opc = 0x27 → s.coreUp q.k = true → s.safe = none → s.bring.stage = 8 → q.a < 2 ^ 32 → q.ctx ≠ 0 → q.mod < 2 → q.imm % 16 = 0 →
    (q.mod = 0 → q.imm ≤ 3936 → (s.ctx q.ctx).stats.valid = true → (s.ctx q.ctx).stats.step = q.a → exec (.lidstat q.issue) s = .next (s.count Reg.hubCntCmd) ∧
      ∀ c : Cmd, c.ctx = q.ctx → c.a = q.a → c.imm = q.imm → c.mod = 0 → s.decideCmd specLidstat c = (s, .rec_ (s.ctx q.ctx).stats.record)) ∧
    (q.mod = 1 → q.imm ≤ 4080 → (s.ctx q.ctx).stepSlot q.a = some k → (s.slot q.ctx k).live = true → exec (.lidstat q.issue) s = .next (s.count Reg.hubCntCmd) ∧
      ∀ c : Cmd, c.ctx = q.ctx → c.a = q.a → c.imm = q.imm → c.mod = 1 → s.decideCmd specLidstat c = (s, .rec_ (s.slotRecord q.ctx k))))

/-! ### Recipes, the seal engine, the Sieve and modes -/

/-- RCPLOAD of an EMPTY slot starts its load under a ticket; RECIPE_LOAD_DONE of an image that a check refuses makes the slot REFUSED; of one that passes, its vectors are to run; once they have passed the slot is
ACTIVE with its digest;
RCPDROP empties a slot that no step pins. The seal engine's commands queue their block range with the generation and format of IMM; one is served at a time. A SEALCHK of one block that
verifies counts it and ends with result 0; a SEALRGN of one unsealed block seals it; a SEALCPY of a block that verifies copies it and seals the copy.
Conditions on the state and the operands alone under which exec answers a next state with the command's own effect are given for: rcpload,
recipeLoadDone, rcpdrop, sealrgn, sealcpy, sealchk, sealEngineDone. -/
def Obligations.RecipesAndSealEngine : Prop :=
  ((∀ (s : State) (q : CoreCmd), q.opc = 0x18 → s.serving q.k = true → s.hasTicket = true → q.ctx = 0 → q.mod = 0 → q.a + (q.b + 4095) / 4096 ≤ 2 ^ 38 → q.a < 2 ^ 38 →
    256 ≤ q.b → q.b ≤ 65536 → q.b % 16 = 0 → q.imm < 256 → q.c < 2 ^ 64 → (s.ctx 0).st ≠ .terminated → s.rwl.contains Reg.hubRcpBase = true →
    ((s.rcp q.imm).st = .empty → s.bothStalled = false → ∃ u : State, exec (.rcpload q.issue) s = .next (u.heldUnder s q stPending s.nextTicket) ∧
      u.rcp q.imm = { s.rcp q.imm with st := .loading } ∧ (∀ n, n ≠ q.imm → u.rcp n = s.rcp n) ∧
      u.rcpLoads = s.rcpLoads ++ [{ slot := q.imm, blk := q.a, len := q.b, ticket := s.nextTicket }] ∧
      u = { s.noted q stPending s.nextTicket with rcps := u.rcps, rcpLoads := u.rcpLoads, port0 := u.port0, port1 := u.port1 }) ∧
    ((s.rcp q.imm).st = .loading → exec (.rcpload q.issue) s = .next (s.rejected q stIllegalState))) ∧
  (∀ (s : State) n l, s.rcpLoads.find? (fun x => x.slot == n) = some l → l.slot = n → s.memOn = false →
    (∀ k, s.ticket l.ticket = some k → k.owner = .kettle 0) →
    (∀ st, l.recipe = none → s.bothStalled = false → checkImage (s.bytes (l.blk * 4096) l.len) l.pinned = .error st → ∃ u, exec (.recipeLoadDone n) s = .next u ∧
      (u.rcp n).st = .refused ∧ (u.rcp n).recipe = (s.rcp n).recipe ∧ (∀ m, m ≠ n → u.rcp m = s.rcp m) ∧ (∀ x ∈ u.rcpLoads, x.slot ≠ n) ∧
      u.ticket l.ticket = none) ∧
    (∀ r, l.recipe = none → s.bothStalled = false → checkImage (s.bytes (l.blk * 4096) l.len) l.pinned = .ok r → ∃ u, exec (.recipeLoadDone n) s = .next u ∧
      (∀ m, u.rcp m = s.rcp m) ∧ ∃ x ∈ u.rcpLoads, x.slot = n ∧ x.recipe = some r ∧ x.digest = sha384 (s.bytes (l.blk * 4096) l.len) ∧
        x.vectors = List.range r.kats.length) ∧
    (∀ r, l.recipe = some r → l.katBad = false → l.vectors = [] → ∃ u, exec (.recipeLoadDone n) s = .next u ∧ (u.rcp n).st = .active ∧
      (u.rcp n).recipe = some r ∧ (u.rcp n).digest = l.digest ∧ (u.rcp n).id = l.id ∧ (∀ m, m ≠ n → u.rcp m = s.rcp m) ∧ (∀ x ∈ u.rcpLoads, x.slot ≠ n) ∧ u.ticket l.ticket = none)) ∧
  (∀ (s : State) (q : CoreCmd), q.opc = 0x19 → s.serving q.k = true → q.ctx = 0 → q.mod = 0 → q.a < 2 ^ 64 → q.b < 2 ^ 64 → q.c < 2 ^ 64 → q.imm < 256 → (s.ctx 0).st ≠ .terminated →
    ((s.rcp q.imm).st = .active → exec (.rcpdrop q.issue) s = .next (if s.rcpPins q.imm = 0 then ((s.noted q).setRcp q.imm {}).count Reg.hubCntCmd else s.rejected q stIllegalState)) ∧
    ((s.rcp q.imm).st = .loading → exec (.rcpdrop q.issue) s = .next (s.rejected q stIllegalState)))) ∧
  ((∀ (s : State) (q : CoreCmd) src n gen fmt, s.serving q.k = true → s.hasTicket = true → q.ctx = 0 → q.mod = 0 → (s.ctx 0).st ≠ .terminated → gen < 2 ^ 16 → fmt < 64 →
    fmtListed fmt = true → q.imm = gen + fmt * 2 ^ 16 → q.a = src → 0 < n → n < 2 ^ 24 → src + n ≤ 2 ^ 38 → s.sealQ.length < 9 →
    (q.opc = 0x30 → q.b = n → q.c < 2 ^ 64 → s.inIndex src n = false → exec (.sealrgn q.issue) s = .next (((s.noted q stPending s.nextTicket).queueSeal
      { op := 0x30, src := src, dst := src, count := n, gen := gen, fmt := fmt, ticket := s.nextTicket }).heldUnder s q stPending s.nextTicket)) ∧
    (q.opc = 0x31 → q.b + n ≤ 2 ^ 38 → q.c = n → s.inIndex q.b n = false → exec (.sealcpy q.issue) s = .next (((s.noted q stPending s.nextTicket).queueSeal
      { op := 0x31, src := src, dst := q.b, count := n, gen := gen, fmt := fmt, ticket := s.nextTicket }).heldUnder s q stPending s.nextTicket)) ∧
    (q.opc = 0x32 → q.b = n → q.c < 2 ^ 64 → exec (.sealchk q.issue) s = .next (((s.noted q stPending s.nextTicket).queueSeal
      { op := 0x32, src := src, dst := src, count := n, gen := gen, fmt := fmt, ticket := s.nextTicket }).heldUnder s q stPending s.nextTicket))) ∧
  (∀ (s : State) j, (s.queueSeal j).sealQ = s.sealQ ++ [j] ∧ (∀ a, a ≠ Reg.hubCntMemTimeout → (s.queueSeal j).reg a = s.reg a) ∧ s.queueSeal j =
    { s with sealQ := (s.queueSeal j).sealQ, port0 := (s.queueSeal j).port0, port1 := (s.queueSeal j).port1, regs := (s.queueSeal j).regs, cfl := (s.queueSeal j).cfl }) ∧
  (∀ (s : State) j, s.sealQ = [j] → j.count = 1 → s.bothStalled = false →
    (j.op = 0x32 → s.verify j.src j.gen j.fmt = .verified →
      exec .sealEngineDone s = .next ((s.count Reg.hubCntBlkVerified).nextSeal.complete j.ticket stOk 0 false)) ∧
    (j.op = 0x30 → bcvSealed (s.sbOf j.src) = false →
      exec .sealEngineDone s = .next ((s.setSb j.src (bcv (s.block j.src) j.src j.gen j.fmt false 0xFE)).nextSeal.complete j.ticket stOk 0 false)) ∧
    (j.op = 0x31 → s.verify j.src j.gen j.fmt = .verified → exec .sealEngineDone s = .next (((((s.setBytes (j.dst * 4096) (s.block j.src)).setSb j.dst
      (bcv (s.block j.src) j.dst j.gen (bcvFmt (s.sbOf j.src)) false 0xFE)).count Reg.hubCntBlkVerified).nextSeal).complete j.ticket stOk 0 false))) ∧
  (∀ (s : State) (q : CoreCmd) op, q.mod = 0 → q.ctx = 0 → q.imm / 2 ^ 16 < 64 → q.imm < 2 ^ 22 → s.serving q.k = true → (s.ctx 0).st ≠ .terminated → q.a < 2 ^ 38 → q.b = 0 → q.c < 2 ^ 24 → q.opc = op →
    (op = 0x30 → exec (.sealrgn q.issue) s = .next (s.rejected q stBadOperand)) ∧ (op = 0x32 → exec (.sealchk q.issue) s = .next (s.rejected q stBadOperand))))

/-- SIEVECFG sets the three rate registers. MTRSAMP asks for a sample of an accepted op that has no verdict yet. ARBSTAT gives the record of
the last arbitration, and its clear clears MTR_STATUS bit 16.
Conditions on the state and the operands alone under which exec answers a next state with the command's own effect are given for: sievecfg, mtrsamp,
arbstat. -/
def Obligations.SieveCommands : Prop :=
  (∀ (s : State) (q : CoreCmd), q.opc = 0x40 → s.coreUp q.k = true → s.safe = none → q.ctx = 0 → q.mod = 0 → q.a < 2 ^ 64 → q.b < 2 ^ 32 → q.c < 2 ^ 16 → q.imm < 128 →
    (s.ctx 0).st ≠ .terminated → ∃ u : State, exec (.sievecfg q.issue) s = .next (u.count Reg.hubCntCmd) ∧ u.reg Reg.hubSieveRate = q.b ∧ u.reg Reg.hubSieveRate64 = q.c ∧ u.reg Reg.hubSieveCfg = q.imm ∧
      (∀ a, a ≠ Reg.hubSieveRate → a ≠ Reg.hubSieveRate64 → a ≠ Reg.hubSieveCfg → u.reg a = (s.noted q).reg a) ∧ u = { s.noted q with regs := u.regs }) ∧
  (∀ (s : State) (q : CoreCmd) k o, q.opc = 0x41 → s.serving q.k = true → q.ctx ≠ 0 → q.a < 2 ^ 32 → q.b < 2 ^ 24 → q.c < 2 ^ 64 → q.mod < 2 → (q.mod = 1 → q.imm = 0) → q.imm < 128 →
    s.stepOf q.ctx q.a = some k → ((s.slot q.ctx k).st = .open_ ∨ (s.slot q.ctx k).st = .ended) → (s.slot q.ctx k).op q.b = some o → o.notAccepted = false → o.d.isRoute = false →
    o.verdict = none → (o.st = .accepted ∨ o.st = .pending) → ∃ els, (q.mod = 1 → els = List.range (o.d.dimM * o.d.dimN)) ∧
      (q.mod = 0 → els = (s.slot q.ctx k).sieve.elements o.d (max 1 (min 64 q.imm))) ∧
      exec (.mtrsamp q.issue) s = .next (((s.noted q).setSlot q.ctx k ((s.slot q.ctx k).onOp q.b (fun p => { p with asked := p.asked ++ [els] }))).count Reg.hubCntCmd)) ∧
  (∀ (s : State) (q : CoreCmd), q.opc = 0x41 → s.serving q.k = true → q.ctx ≠ 0 → q.a < 2 ^ 32 → q.b < 2 ^ 24 → q.c < 2 ^ 64 → q.mod = 0 → q.imm < 128 → (s.ctx q.ctx).st ≠ .terminated →
    s.stepOf q.ctx q.a = none → exec (.mtrsamp q.issue) s = .next (s.rejected q stIllegalState)) ∧
  (∀ (s : State) (q : CoreCmd), q.opc = 0x42 → s.coreUp q.k = true → s.bring.stage = 8 → s.safe = none → q.ctx = 0 → q.a < 2 ^ 64 → q.b < 2 ^ 64 → q.c < 2 ^ 64 → q.imm % 16 = 0 → q.imm ≤ 4000 →
    (q.mod = 0 → exec (.arbstat q.issue) s = .next (s.count Reg.hubCntCmd)) ∧
    (q.mod = 1 → exec (.arbstat q.issue) s = .next (((s.noted q).clrBits Reg.mtrStatus (2 ^ 16)).count Reg.hubCntCmd)) ∧
    ∀ c : Cmd, c.ctx = 0 → c.imm = q.imm → c.mod = 0 → s.decideCmd specArbstat c = (s, .rec_ s.arbRecord))

/-- R311: MODESET changes the mode only while no context has a step and the Mortar's queue and spill ring are empty, which is when MTR_QUEUE reads zero;
HUB_MODE.FIXED shows the mode, and IMM 1 is Fixed mode. The served record and the rejection are those of R260.
Conditions on the state and the operands alone under which exec answers a next state with the command's own effect are given for: modeset. -/
def Obligations.ModeChange : Prop :=
  (∀ (s : State) (q : CoreCmd), q.opc = 0x50 → s.serving q.k = true → q.ctx = 0 → q.mod = 0 → q.imm < 2 → q.a < 2 ^ 64 → q.b < 2 ^ 64 → q.c < 2 ^ 64 → (s.ctx 0).st ≠ .terminated →
    (s.anyStep = false → s.queue = [] → s.spill = [] → exec (.modeset q.issue) s = .next (({ s.noted q with fixed := decide (q.imm = 1) } : State).count Reg.hubCntCmd)) ∧
    ((s.anyStep = true ∨ s.queue ≠ [] ∨ s.spill ≠ []) → exec (.modeset q.issue) s = .next (s.rejected q stIllegalState))) ∧
  (∀ (s : State) (src : Src), s.regVal src Reg.hubMode % 2 = if s.fixed then 1 else 0) ∧
  (∀ (s : State) (src : Src), s.queue.length ≤ 1024 → s.spill.length ≤ 1048576 → (s.regVal src Reg.mtrQueue = 0 ↔ s.queue = [] ∧ s.spill = []))

/-- PROVCFG sets the provenance mode of a LIVE context without steps, while the provenance area has a size; PAIRCFG with IMM 1 pairs a LIVE
context with a partner agent under the lowest free index, and IMM 0 unpairs it.
Conditions on the state and the operands alone under which exec answers a next state with the command's own effect are given for: provcfg, paircfg. -/
def Obligations.ProvenanceAndPairing : Prop :=
  (∀ (s : State) (q : CoreCmd), q.opc = 0x51 → s.serving q.k = true → q.ctx ≠ 0 → q.mod = 0 → q.imm < 4 → q.a < 2 ^ 64 → q.b < 2 ^ 64 → q.c < 2 ^ 64 → (s.ctx q.ctx).st = .live →
    (q.imm = 3 → exec (.provcfg q.issue) s = .next (s.rejected q stBadOperand)) ∧
    (q.imm ≠ 3 → (s.ctx q.ctx).anySlot = false → s.reg Reg.hubProvSize % 2 ^ 16 ≠ 0 →
      exec (.provcfg q.issue) s = .next (((s.noted q).setCtx q.ctx { s.ctx q.ctx with provMode := q.imm }).count Reg.hubCntCmd)) ∧
    (q.imm ≠ 3 → ((s.ctx q.ctx).anySlot = true ∨ s.reg Reg.hubProvSize % 2 ^ 16 = 0) → exec (.provcfg q.issue) s = .next (s.rejected q stIllegalState))) ∧
  (∀ (s : State) (q : CoreCmd), q.opc = 0x52 → s.serving q.k = true → q.ctx = 0 → q.mod = 0 → q.imm < 2 → q.a < 2 ^ 16 → q.b < 2 ^ 16 → q.c < 2 ^ 64 → (s.ctx q.a).st = .live →
    (s.ctx q.a).anySlot = false →
    (q.imm = 0 → ∃ u : State, exec (.paircfg q.issue) s = .next (u.count Reg.hubCntCmd) ∧ (∀ p ∈ u.pairings, p.ctx ≠ q.a) ∧ u.pairings = s.pairings.filter (fun p => p.ctx != q.a) ∧
      (∀ c, c ≠ q.a → u.ctx c = s.ctx c) ∧ u = { s.noted q with pairings := u.pairings, ctxs := u.ctxs }) ∧
    (∀ i, q.imm = 1 → (∀ p ∈ s.pairings, p.ctx = q.a ∨ p.partner ≠ q.b) → s.rwl.contains Reg.hubPairBase = true → (s.unpair q.a).freePairIdx = some i → ∃ u : State,
      exec (.paircfg q.issue) s = .next (u.count Reg.hubCntCmd) ∧ u.pairings = s.pairings.filter (fun p => p.ctx != q.a) ++ [{ idx := i, ctx := q.a, partner := q.b }] ∧
      (∀ c, c ≠ q.a → u.ctx c = s.ctx c) ∧ u = { s.noted q with pairings := u.pairings, ctxs := u.ctxs }) ∧
    (q.imm = 1 → (∃ p ∈ s.pairings, p.ctx ≠ q.a ∧ p.partner = q.b) → exec (.paircfg q.issue) s = .next (s.rejected q stIllegalState)))

/-! ### Registers, checkpoints, messages -/

/-- RDREG reads a register of the map as its source reads it, and WRREG writes one; an address that is no register is BAD_OPERAND, and a Ladle that cannot
answer UNREACHABLE. REGISTER_WRITE has the write's effect on an OK response and none but HUB_CNT_REG_ERR on any other.
Conditions on the state and the operands alone under which exec answers a next state with the command's own effect are given for: rdreg, wrreg,
registerWrite. -/
def Obligations.RegisterAccess : Prop :=
  (∀ (s : State) (q : CoreCmd), q.opc = 0x48 → s.serving q.k = true → q.ctx = 0 → q.mod = 0 → q.imm < 2 ^ 24 → q.a < 2 ^ 64 → q.b < 2 ^ 64 → q.c < 2 ^ 64 →
    exec (.rdreg q.issue) s = .next (if s.respCode q.imm = 0 then (s.readReg (.core q.k) q.imm).1.count Reg.hubCntCmd else s.count Reg.hubCntRejected) ∧
    ∀ c : Cmd, c.ctx = 0 → c.mod = 0 → c.imm = q.imm → s.decideCmd specRdreg c =
      if s.respCode q.imm = 0 then ((s.readReg c.src q.imm).1, .ok (s.readReg c.src q.imm).2) else (s, .no (if s.respCode q.imm = 2 then stUnreachable else stBadOperand) false)) ∧
  (∀ (s : State) (q : CoreCmd), q.opc = 0x49 → s.serving q.k = true → q.ctx = 0 → q.mod = 0 → q.imm < 2 ^ 24 → q.a < 2 ^ 32 → q.b < 2 ^ 64 → q.c < 2 ^ 64 → (s.ctx 0).st ≠ .terminated →
    (s.respCode q.imm = 0 → s.wrBlocked q.imm q.a = false → exec (.wrreg q.issue) s = .next (((s.noted q).writeReg (.core q.k) q.imm q.a).count Reg.hubCntCmd)) ∧
    (s.respCode q.imm = 2 → exec (.wrreg q.issue) s = .next (s.rejected q stUnreachable)) ∧
    ((s.respCode q.imm = 1 ∨ s.respCode q.imm = 3) → exec (.wrreg q.issue) s = .next (s.rejected q stBadOperand))) ∧
  (∀ (s : State) src a v, (s.respCode a = 0 → exec (.registerWrite src a v) s = .next ((s.writeReg src a (v % 2 ^ 32)).emit (.regRsp src a 0 0))) ∧
    (s.respCode a ≠ 0 → exec (.registerWrite src a v) s = .next ((s.count Reg.hubCntRegErr).emit (.regRsp src a 0 (s.respCode a))))) ∧
  (∀ (s : State) src a, a % 4 ≠ 0 → s.respCode a = 3 ∧ exec (.registerWrite src a 0) s = .next ((s.count Reg.hubCntRegErr).emit (.regRsp src a 0 3))) ∧
  (∀ (s : State) src v, exec (.registerWrite src Reg.hubScrubCtrl v) s = .next ((s.setReg Reg.hubScrubCtrl
    (mergeBits (s.reg Reg.hubScrubCtrl) (v % 2 ^ 32) (((regRow Reg.hubScrubCtrl).map RegRow.rw).getD 0) 0)).emit (.regRsp src Reg.hubScrubCtrl 0 0)))

/-- R92: HUB_RCP_INFO, and every register behind a selector, shows to each source what its own selector names: a write of a selector changes that source's copy and no other. The reads with an
effect: HUB_JRNL_NEXT_LO and HUB_PROV_NEXT_LO capture their high halves for the source, and HUB_DUMP_DATA gives the word at OFFSET and advances OFFSET by 4.
Conditions on the state and the operands alone under which exec answers a next state with the command's own effect are given for: registerWrite,
hubJrnlNextLoRead, hubProvNextLoRead, hubDumpDataRead. -/
def Obligations.SelectorsAndReadsWithEffect : Prop :=
  ((∀ (s : State) (src : Src) v, ∃ t, exec (.registerWrite src Reg.hubRcpSel v) s = .next t ∧ t.banked src .rcpSel = v % 2 ^ 8 ∧
    t.regVal src Reg.hubRcpInfo = (s.rcpInfoVal (v % 2 ^ 8)) % 2 ^ 32 ∧ (∀ d : Src, d.num ≠ src.num → ∀ b, t.banked d b = s.banked d b) ∧ t = { s with sel := t.sel, out := t.out }) ∧
  (∀ (s : State) (src : Src) v, ∃ t, exec (.registerWrite src Reg.lidCtxSel v) s = .next t ∧
    t.regVal src Reg.lidCtxInfo = s.lidCtxInfoVal (t.banked src .lidCtxSel % 2 ^ 16) % 2 ^ 32 ∧ (∀ d : Src, d.num ≠ src.num → ∀ b, t.banked d b = s.banked d b) ∧
    t = { s with sel := t.sel, out := t.out })) ∧
  ((∀ (s : State) src, ∃ t, exec (.hubJrnlNextLoRead src) s = .next t ∧ t.out = s.out ++ [.regRsp src Reg.hubJrnlNextLo (s.jseq % 2 ^ 32) 0] ∧
    (t.readReg src Reg.hubJrnlNextHi).2 = s.jseq / 2 ^ 32 % 2 ^ 32 ∧ t = { s with sel := t.sel, out := t.out }) ∧
  (∀ (s : State) src, ∃ t, exec (.hubProvNextLoRead src) s = .next t ∧ t.out = s.out ++ [.regRsp src Reg.hubProvNextLo (s.provNext % 2 ^ 32) 0] ∧
    (t.readReg src Reg.hubProvNextHi).2 = s.provNext / 2 ^ 32 % 2 ^ 32 ∧ t = { s with sel := t.sel, out := t.out }) ∧
  (∀ (s : State) src, ∃ t, exec (.hubDumpDataRead src) s = .next t ∧
    t.out = s.out ++ [.regRsp src Reg.hubDumpData (Tab.get 0 s.dumpSram (s.banked src .dumpAddr / 4) % 2 ^ 32) 0] ∧
    t.banked src .dumpAddr = (s.banked src .dumpAddr + 4) % 2 ^ 16 ∧ t = { s with sel := t.sel, out := t.out }))

/-- CKPTMAN and CKPTCHK queue a command of the hash unit: CKPTMAN of the last committed step of a LIVE context without an open step, from a
draft of this shape, with what the context held at that step's commit. A manifest that does not verify leaves its context as it was, counted and held in HUB_CKPT_STATUS; a draft without a scale shard is MANIFEST_INCONSISTENT.
Conditions on the state and the operands alone under which exec answers a next state with the command's own effect are given for: ckptman, ckptchk,
ckptmanDone, ckptchkDone. -/
def Obligations.CheckpointCommands : Prop :=
  (∀ (s : State) (q : CoreCmd), q.opc = 0x58 → s.serving q.k = true → s.hasTicket = true → q.ctx ≠ 0 → q.mod = 0 → q.imm = 0 → q.a < 2 ^ 32 → q.b < 2 ^ 38 → q.c < 2 ^ 64 →
    (s.ctx q.ctx).st = .live → (s.ctx q.ctx).anyStep = false → (s.ctx q.ctx).committed = q.a → s.ckptQ.length < 9 →
    (∀ w ∈ [s, s.noted q stPending s.nextTicket], leAt (w.block q.b) 0x10 2 = s.chipsM1 ∧ leAt (w.block q.b) 0x12 2 = s.rank ∧
      ∀ x ∈ manShards (w.block q.b), s.inIndex x.blk (x.blocks + 1) = false) →
    exec (.ckptman q.issue) s = .next (((s.noted q stPending s.nextTicket).queueCkpt
      { ctx := q.ctx, step := q.a, blk := q.b, ticket := some s.nextTicket
        extents := (manShards ((s.noted q stPending s.nextTicket).block q.b)).map (fun x => (x.blk, x.blocks + 1))
        wman := (s.ctx q.ctx).wman, prev := (s.ctx q.ctx).prev, scales := (s.ctx q.ctx).stood }).heldUnder s q stPending s.nextTicket)) ∧
  (∀ (s : State) (q : CoreCmd), q.opc = 0x59 → s.serving q.k = true → s.hasTicket = true → q.mod < 2 → q.imm = 0 → q.a < 2 ^ 64 → q.b < 2 ^ 38 → q.c < 2 ^ 64 → (s.ctx q.ctx).st ≠ .terminated →
    s.ckptQ.length < 9 → (q.mod = 1 → ∀ w ∈ [s, s.noted q stPending s.nextTicket], w.mayRestore q.ctx (w.block q.b) = true) → exec (.ckptchk q.issue) s = .next (((s.noted q stPending s.nextTicket).queueCkpt
      { kind := if q.mod = 1 then .restore else .chk, ctx := q.ctx, blk := q.b, ticket := some s.nextTicket }).heldUnder s q stPending s.nextTicket)) ∧
  (∀ (s : State) j rest, s.ckptQ = j :: rest → j.kind = .man → s.bothStalled = false →
    (draftOk j.scales (s.block j.blk) = false → exec .ckptmanDone s = .next (s.endCkpt.completeOpt j.ticket stManifestInconsistent 0 false)) ∧
    (∀ u, draftOk j.scales (s.block j.blk) = true → s.endCkpt.writeManifest j.ctx j.blk (draftOf (s.block j.blk) j) = (u, none) →
      exec .ckptmanDone s = .next (u.completeOpt j.ticket stOk 0 false))) ∧
  (∀ (s : State) j rest, s.ckptQ = j :: rest → s.bothStalled = false →
    (j.kind = .chk → (s.ckptCheck j.ctx false (s.block j.blk)).1 = stOk → exec .ckptchkDone s = .next (s.endCkpt.completeOpt j.ticket stOk (s.ckptCheck j.ctx false (s.block j.blk)).2.1 true)) ∧
    (j.kind = .chk → manOk (s.block j.blk) = false → ∃ u : State, exec .ckptchkDone s = .next (u.completeOpt j.ticket stManifestInconsistent 0 true) ∧
      u.reg Reg.hubCntCkptRefused = min (2 ^ 32 - 1) (s.reg Reg.hubCntCkptRefused + 1) ∧ u.bit Reg.hubCkptStatus 1 = true ∧ u.ckptQ = rest ∧
      u = (s.endCkpt.count Reg.hubCntCkptRefused).setBits Reg.hubCkptStatus 2) ∧
    (j.kind = .restore → s.mayRestore j.ctx (s.block j.blk) = true → (s.ckptCheck j.ctx true (s.block j.blk)).1 = stOk → ∃ u : State,
      u = s.endCkpt.restore j.ctx (s.block j.blk) ∧ exec .ckptchkDone s = .next (u.completeOpt j.ticket stOk (s.ckptCheck j.ctx true (s.block j.blk)).2.1 true) ∧
      (u.ctx j.ctx).committed = leAt (s.block j.blk) 8 4 ∧ (u.ctx j.ctx).anyStep = false ∧ (u.ctx j.ctx).gen = (s.ctx j.ctx).gen ∧ (∀ c, c ≠ j.ctx → u.ctx c = s.ctx c))) ∧
  (∀ (s : State) j, (s.queueCkpt j).ckptQ = s.ckptQ ++ [j] ∧ s.endCkpt.ckptQ = s.ckptQ.drop 1 ∧ ∀ u ∈ [s.queueCkpt j, s.endCkpt],
    u = { s with ckptQ := u.ckptQ, port0 := u.port0, port1 := u.port1, regs := u.regs, cfl := u.cfl, teardowns := u.teardowns }) ∧
  (∀ s : State, s.ckptQ = [] → exec .ckptmanDone s = .next s ∧ exec .ckptchkDone s = .next s)

/-- BUDDYCFG binds a LIVE context without steps to a buddy agent under a state map that verifies, or removes its buddy. PEERSEND sends the 64 bytes of a host
message to an agent, with the CRC of its envelope, at once where a credit is held and none waits, else at the end of its class's queue.
Conditions on the state and the operands alone under which exec answers a next state with the command's own effect are given for: buddycfg, peersend. -/
def Obligations.BuddyAndHostMessages : Prop :=
  (∀ (s : State) (q : CoreCmd), q.opc = 0x5A → s.serving q.k = true → q.ctx = 0 → q.mod = 0 → q.imm = 0 → q.a < 2 ^ 16 → q.b < 2 ^ 16 → q.c < 2 ^ 64 → (s.ctx q.a).st = .live →
    (s.ctx q.a).anySlot = false →
    (q.b = 0xFFFF → exec (.buddycfg q.issue) s = .next (((s.noted q).setCtx q.a { s.ctx q.a with buddy := none }).count Reg.hubCntCmd)) ∧
    (q.b ≠ 0xFFFF → (∀ w ∈ [s, s.noted q], w.mapOk (s.reg Reg.hubBuddyMap * 64) = true) → ((s.ctx q.a).buddy.isSome = true ∨ s.buddied.length < 256) → exec (.buddycfg q.issue) s = .next (((s.noted q).setCtx q.a
      { s.ctx q.a with buddy := some { agent := q.b, map := s.reg Reg.hubBuddyMap * 64 } }).count Reg.hubCntCmd)) ∧
    (q.b ≠ 0xFFFF → s.mapOk (s.reg Reg.hubBuddyMap * 64) = false → exec (.buddycfg q.issue) s = .next (s.rejected q stIllegalState))) ∧
  (∀ (s : State) (q : CoreCmd) m, q.opc = 0x5B → s.serving q.k = true → q.ctx = 0 → q.mod = 0 → q.a < 2 ^ 38 → q.b < 2 ^ 16 → q.c < 2 ^ 64 → q.imm < 4096 → q.imm % 64 = 0 →
    (s.ctx 0).st ≠ .terminated → (∀ w ∈ [s, s.noted q], 0x80 ≤ leAt (w.bytes (q.a * 4096 + q.imm) 64) 0 1) →
    m = s.envelope 3 q.b ((s.noted q).bytes (q.a * 4096 + q.imm) 64) →
    (s.peer.queue 3 = [] → 0 < s.peer.credit 3 → ∃ u : State, exec (.peersend q.issue) s = .next (u.count Reg.hubCntCmd) ∧ u.out = (s.noted q).out ++ [.peer m] ∧ u.peer.queues = s.peer.queues ∧
      u.peer.credits = setAt s.peer.credits 3 (s.peer.credit 3 - 1) ∧ u = { s.noted q with peer := u.peer, out := u.out }) ∧
    ((s.peer.queue 3 ≠ [] ∨ s.peer.credit 3 = 0) → (s.peer.queue 3).length < 64 → ∃ u : State, exec (.peersend q.issue) s = .next (u.count Reg.hubCntCmd) ∧
      u.peer.queues = setAt s.peer.queues 3 (s.peer.queue 3 ++ [m]) ∧ u.peer.credits = s.peer.credits ∧ u = { s.noted q with peer := u.peer }) ∧
    (64 ≤ (s.peer.queue 3).length → exec (.peersend q.issue) s = .next (s.rejected q stFull))) ∧
  (∀ (s : State) cls dst body, (s.envelope cls dst body).crc = (s.envelope cls dst body).crcOf ∧ (s.envelope cls dst body).src = s.agent ∧
    (s.envelope cls dst body).dst = dst ∧ (s.envelope cls dst body).cls = cls ∧ (s.envelope cls dst body).body = body)

/-- The messages of buddies and hosts. A region copy that has completed sends MIRROR_DONE and waits; the buddy's MIRROR_ACK with OK ends the mirror; a missing one is a failure, repeated once. A
MIRROR_DONE outside the hold range is answered at once. A host message enters the receive ring while it has room, and CONS written up to PROD makes room. A message with a bad CRC, not for this
agent or of a foreign kind is discarded; a returned credit sends the oldest queued message. Pair mode's messages: a group of digests or an end of step from a partner that no context is paired
with, or of a step already passed, is discarded; one that comes before its step is open is held; a group that the context has sent is compared, and counted where the digests agree, and so is the
end of a step; where one differs the step is abandoned with CAUSE 9. A partner that does not answer in time loses the pairing.
Conditions on the state and the operands alone under which exec answers a next state with the command's own effect are given for: mirrorCopyDone,
mirrorAck, mirrorAckTimeout, mirrorDone, hostMessage, hubPeerRxConsWrite, peerMessageDiscard, peerCreditReturn, pairOps, pairStep, pairTimeout. -/
def Obligations.PeerAndPairMessages : Prop :=
  ((∀ (s : State) c b step again, (s.ctx c).buddy = some b → b.mirror = .copying step again → ∃ u m, exec (.mirrorCopyDone c) s = .next u ∧
    (u.ctx c).buddy = some { b with mirror := .waiting step again s.time } ∧ m.dst = b.agent ∧ m.kind = 0x30 ∧ m.cls = 2 ∧
    (u.out = s.out ++ [.peer m] ∨ (u.out = s.out ∧ m ∈ u.peer.queue 2) ∨ s.peer.queues.length ≤ 2) ∧ (∀ d, d ≠ c → u.ctx d = s.ctx d)) ∧
  (∀ (s : State) m c b step again t, s.accepts m = true → m.kind = 0x31 → leAt m.body 2 2 = c → (s.ctx c).buddy = some b → b.mirror = .waiting step again t →
    m.src = b.agent → leAt m.body 4 4 = step → leAt m.body 1 1 = stOk →
    exec (.mirrorAck m) s = .next ((s.takePeer m).setCtx c { s.ctx c with buddy := some { b with mirror := .none } })) ∧
  (∀ (s : State) c b step t, (s.ctx c).buddy = some b → b.mirror = .waiting step false t → s.reg Reg.hubBuddyCtrl % 256 ≠ 0 →
    (t + s.reg Reg.hubBuddyCtrl % 256 * 100000 ≤ s.time → exec (.mirrorAckTimeout c) s =
      .next ((s.count Reg.hubCntMirrorNak).setCtx c { s.ctx c with buddy := some { b with mirror := .copying step true } })) ∧
    (s.time < t + s.reg Reg.hubBuddyCtrl % 256 * 100000 → exec (.mirrorAckTimeout c) s = .next s)) ∧
  (∀ (s : State) m, s.accepts m = true → m.kind = 0x30 → s.inHold (leAt m.body 8 8) = false →
    exec (.mirrorDone m) s = .next ((s.takePeer m).ackMirror m.src (leAt m.body 2 2) (leAt m.body 4 4) stIllegalState)) ∧
  (∀ (s : State) m, s.accepts m = true → m.kind = 0x30 → s.inHold (leAt m.body 8 8) = true →
    exec (.mirrorDone m) s = .next ((s.takePeer m).queueCkpt { kind := .mirror m.src, ctx := leAt m.body 2 2, step := leAt m.body 4 4, blk := leAt m.body 8 8 })) ∧
  (∀ (s : State) m a, s.accepts m = true → m.cls = 3 → m.body.length = 64 → s.rxUsed < 256 → s.bothStalled = false →
    a = s.reg Reg.hubPeerRxBase * 64 * 4096 + 64 * (s.peer.prod % 256) → ∃ u, exec (.hostMessage m) s = .next u ∧ u.bytes a 64 = m.body ∧
      u.peer.prod = (s.peer.prod + 1) % 2 ^ 16 ∧ u.out = s.out ++ [.credit 3] ∧ (∀ x, x < a ∨ a + 64 ≤ x → Tab.get 0 u.mem x = Tab.get 0 s.mem x)) ∧
  (∀ (s : State) m, s.accepts m = true → m.cls = 3 → 256 ≤ s.rxUsed →
    exec (.hostMessage m) s = .next { s with peer := { s.peer with rxWait := s.peer.rxWait ++ [m] } }) ∧
  (∀ (s : State) src v, s.peer.rxWait = [] → (v % 2 ^ 16 + 2 ^ 16 - s.rxCons) % 2 ^ 16 ≤ s.rxUsed →
    exec (.hubPeerRxConsWrite src v) s = .next ((s.setReg Reg.hubPeerRxPtr (v % 2 ^ 16)).emit (.regRsp src Reg.hubPeerRxPtr 0 0))) ∧
  (∀ (s : State) src v, s.rxUsed < (v % 2 ^ 16 + 2 ^ 16 - s.rxCons) % 2 ^ 16 → exec (.hubPeerRxConsWrite src v) s = .next (s.emit (.regRsp src Reg.hubPeerRxPtr 0 0))) ∧
  (∀ (s : State) m, (m.crc ≠ m.crcOf ∨ m.dst ≠ s.agent ∨ m.kindOk = false) →
    exec (.peerMessageDiscard m) s = .next ((s.count Reg.hubCntPeerDiscard).emit (.credit (m.cls % 4)))) ∧
  (∀ (s : State) k m rest, k < 4 → s.peer.queue k = m :: rest → exec (.peerCreditReturn k) s =
    .next { s with peer := { s.peer with queues := setAt s.peer.queues k rest }, out := s.out ++ [.peer m] }) ∧
  (∀ (s : State) k, k < 4 → s.peer.queue k = [] → exec (.peerCreditReturn k) s =
    .next { s with peer := { s.peer with credits := setAt s.peer.credits k (s.peer.credit k + 1) } })) ∧
  ((∀ (s : State) m, s.accepts m = true → (∀ p ∈ s.pairings, p.partner ≠ m.src) →
    (m.kind = 0x20 → exec (.pairOps m) s = .next ((s.takePeer m).count Reg.hubCntPairDiscard)) ∧
    (m.kind = 0x21 → exec (.pairStep m) s = .next ((s.takePeer m).count Reg.hubCntPairDiscard))) ∧
  (∀ (s : State) m p, s.accepts m = true → s.pairings.find? (fun p => p.partner == m.src) = some p → (s.ctx p.ctx).passed m.pairMsg.step = false →
    (s.ctx p.ctx).stepSlot m.pairMsg.step = none → (m.kind = 0x20 ∨ m.kind = 0x21) → ∃ u, u = { s.takePeer m with
      pairings := s.pairings.map (fun x => if x.ctx == p.ctx then { x with held := x.held ++ [m.pairMsg] } else x) } ∧
      (m.kind = 0x20 → exec (.pairOps m) s = .next u) ∧ (m.kind = 0x21 → exec (.pairStep m) s = .next u)) ∧
  (∀ (s : State) m p k sl, s.accepts m = true → s.pairings = [p] → p.partner = m.src → p.held = [] → (s.ctx p.ctx).passed m.pairMsg.step = false →
    (s.ctx p.ctx).stepSlot m.pairMsg.step = some k → sl = s.slot p.ctx k → sl.live = true → (∀ j, j ≠ k → (s.slot p.ctx j).live = false) →
    (∀ g, sl.grpSent.contains g = true ∨ sl.group g = none) →
    (∀ base ds, m.kind = 0x20 → m.pairMsg = .ops sl.step base ds → sl.grpSent.contains (base / 6) = true → sl.grpOk.contains (base / 6) = false →
      (ds = sl.stored (base / 6) → exec (.pairOps m) s = .next (((s.takePeer m).setSlot p.ctx k { sl with
        grpOk := sl.grpOk ++ [base / 6], sentAt := sl.sentAt.filter (fun x => x.1 != base / 6) }).count Reg.hubCntPairGroups)) ∧
      (∀ i a b, firstDiff (sl.stored (base / 6)) ds 0 = some (i, a, b) → ∃ u, exec (.pairOps m) s = .next u ∧ (u.slot p.ctx k).st = .abandoned ∧ (u.slot p.ctx k).cause = 9 ∧
        u.bit Reg.hubPairStatus 1 = true ∧ u.reg Reg.hubCntPairDiverge = min (2 ^ 32 - 1) (s.reg Reg.hubCntPairDiverge + 1) ∧ (∀ d, d ≠ p.ctx → u.ctx d = s.ctx d))) ∧
    (∀ n nulled, m.kind = 0x21 → m.pairMsg = .stepEnd sl.step n nulled → sl.stepSent = true → sl.stepOk = false →
      (n = sl.n → nulled = sl.nulled → exec (.pairStep m) s = .next ((s.takePeer m).setSlot p.ctx k { sl with
        stepOk := true, sentAt := sl.sentAt.filter (fun x => x.1 != stepMark) })) ∧
      (n ≠ sl.n ∨ nulled ≠ sl.nulled → ∃ u, exec (.pairStep m) s = .next u ∧ (u.slot p.ctx k).st = .abandoned ∧ (u.slot p.ctx k).cause = 9 ∧
        u.bit Reg.hubPairStatus 1 = true ∧ u.reg Reg.hubCntPairDiverge = min (2 ^ 32 - 1) (s.reg Reg.hubCntPairDiverge + 1) ∧ (∀ d, d ≠ p.ctx → u.ctx d = s.ctx d)))) ∧
  (∀ (s : State) c p k g, s.pairing c = some p → s.pairLate c = some (k, g) → ∃ u, exec (.pairTimeout c) s = .next u ∧ u.pairing c = none ∧ u.bit Reg.hubPairStatus 2 = true ∧
    u.reg Reg.hubCntPairLost = min (2 ^ 32 - 1) (s.reg Reg.hubCntPairLost + 1) ∧ (∀ d, d ≠ c → u.ctx d = s.ctx d)) ∧
  (∀ (s : State) c, (s.pairing c = none ∨ s.pairLate c = none) → exec (.pairTimeout c) s = .next s))

/-! ### Field tests, suspects and the tile map -/

/-- TCLOAD starts one load; TCLOAD_DONE of an image that a check refuses ends it with that status and leaves the content in use; one that
passes is in the bank that is not active; the loaded bank becomes active while no run is in progress.
Conditions on the state and the operands alone under which exec answers a next state with the command's own effect are given for: tcload, tcloadDone,
tcBankSwitch. -/
def Obligations.TestContent : Prop :=
  (∀ (s : State) (q : CoreCmd), q.opc = 0x61 → s.serving q.k = true → s.hasTicket = true → q.ctx = 0 → q.mod = 0 → q.imm = 0 → q.a < 2 ^ 38 → q.b < 2 ^ 64 → q.c < 2 ^ 64 → (s.ctx 0).st ≠ .terminated →
    (s.tcLoad = none → exec (.tcload q.issue) s = .next ((({ s.noted q stPending s.nextTicket with tcLoad := some { blk := q.a, len := q.b, ticket := s.nextTicket } } : State).request
      .read q.a 0 64 .content).heldUnder s q stPending s.nextTicket)) ∧
    (s.tcLoad ≠ none → exec (.tcload q.issue) s = .next (s.rejected q stBusy))) ∧
  (∀ (s : State) l st, s.tcLoad = some l → s.bothStalled = false → st = s.checkContent (s.bytes (l.blk * 4096) (min l.len (4194304 + 16))) → st ≠ stOk →
    s.memOn = false → (∀ k, s.ticket l.ticket = some k → k.owner = .kettle 1) → ∃ u, exec .tcloadDone s = .next u ∧ u.tcLoad = none ∧ u.banks = s.banks ∧ u.bank = s.bank ∧
      u.tcReady = s.tcReady ∧ u.reg Reg.hubCntTcRefused = min (2 ^ 32 - 1) (s.reg Reg.hubCntTcRefused + 1) ∧ u.ticket l.ticket = none) ∧
  (∀ (s : State) l b, s.tcLoad = some l → s.bothStalled = false → b = s.bytes (l.blk * 4096) (min l.len (4194304 + 16)) → s.checkContent b = stOk →
    s.memOn = false → (∀ k, s.ticket l.ticket = some k → k.owner = .kettle 1) → ∃ u, exec .tcloadDone s = .next u ∧ u.tcLoad = none ∧
      u.banks = setAt s.banks (1 - s.bank) (contentOf b) ∧ u.bank = s.bank ∧ u.tcReady = true ∧ u.ticket l.ticket = none) ∧
  (∀ s : State, s.tcLoad = none → exec .tcloadDone s = .next s) ∧
  (∀ s : State, s.tcReady = true → s.whisk = [] → ∃ u, exec .tcBankSwitch s = .next u ∧ u.bank = 1 - s.bank ∧ u.tcReady = false ∧ u.banks = s.banks ∧
    u = { s with bank := u.bank, tcReady := false, models := u.models, sel := u.sel }) ∧
  (∀ s : State, (s.tcReady = false ∨ s.whisk ≠ []) → exec .tcBankSwitch s = .next s)

/-- WHISKRUN and TAPTEST queue a run for a tile; WHISKRUN on a spare that may start at once starts there; of a tile without such a test it is BAD_OPERAND, of one
that has a run BUSY, and with 16 runs queued FULL. WHISK_SCHEDULE issues WHISKRUN for the tile whose period has elapsed, with its test, under a ticket of Kettle 1. A run that starts, once the queue-empty level of a mapped tile has been
high for IDLE_MIN cycles, takes its request out of the queue, with the vectors that its test's blocks hold; one whose blocks could not be fetched ends with that status; at its end the outcome is counted and its ticket completes; a run given up returns to
its place; a run that takes longer than WAIT_MAX ends with TIMEOUT.
Conditions on the state and the operands alone under which exec answers a next state with the command's own effect are given for: whiskrun, taptest,
whiskRunStart, whiskRunEnd, whiskRunAbandon, whiskRunTimeout, whiskSchedule. -/
def Obligations.WhiskRuns : Prop :=
  (∀ (s : State) (q : CoreCmd), q.opc = 0x60 → s.serving q.k = true → s.hasTicket = true → q.ctx = 0 → q.mod = 0 → q.imm < 2 ^ 16 → q.a < 128 → q.b < 2 ^ 64 → q.c < 2 ^ 64 → (s.ctx 0).st ≠ .terminated →
    (s.testEnt q.imm = none → exec (.whiskrun q.issue) s = .next (s.rejected q stBadOperand)) ∧
    (∀ e, q.a < s.cfg.ladles → s.testEnt q.imm = some e → e.plan = s.planOf q.a → (s.tileState q.a = .spare ∨ s.tileState q.a = .mapped) →
      (s.hasRun q.a (fun _ => true) = true → exec (.whiskrun q.issue) s = .next (s.rejected q stBusy)) ∧
      (s.hasRun q.a (fun _ => true) = false → 16 ≤ s.whiskQ.length → exec (.whiskrun q.issue) s = .next (s.rejected q stFull)) ∧
      (∀ w, s.hasRun q.a (fun _ => true) = false → s.whiskQ.length < 16 → s.isMapped q.a = false → s.bit Reg.hubWhiskCtrl 31 = false →
        w = { id := s.nextWhisk, tile := q.a, test := q.imm, ticket := some s.nextTicket, accepted := s.time } →
        exec (.whiskrun q.issue) s = .next (({ s.noted q stDeferred s.nextTicket with nextWhisk := s.nextWhisk + 1, whiskQ := s.whiskQ ++ [w] } : State).heldUnder s q stDeferred s.nextTicket)) ∧
      (∀ w, s.hasRun q.a (fun _ => true) = false → s.whiskQ = [] → s.isMapped q.a = false →
        w = { id := s.nextWhisk, tile := q.a, test := q.imm, ticket := some s.nextTicket, accepted := s.time } →
        (∀ v ∈ [s, s.noted q stPending s.nextTicket], v.mayStart w = true) →
        exec (.whiskrun q.issue) s = .next ((({ s.noted q stPending s.nextTicket with nextWhisk := s.nextWhisk + 1, whiskQ := [w] } : State).whiskStart
          w).heldUnder s q stPending s.nextTicket)))) ∧
  (∀ (s : State) (q : CoreCmd) p w, q.opc = 0x39 → s.serving q.k = true → s.hasTicket = true → q.ctx = 0 → q.mod = 0 → q.imm = 0 → q.a < 128 → q.b < 2 ^ 64 → q.c < 2 ^ 64 → (s.ctx 0).st ≠ .terminated →
    s.physOf q.a = some p → s.hasRun p WhiskRun.tap = false → s.whiskQ.length < 16 → s.bit Reg.hubWhiskCtrl 31 = false →
    w = { id := s.nextWhisk, tile := p, ticket := some s.nextTicket, accepted := s.time, tap := true } → ∃ n, n ≤ 1 ∧ exec (.taptest q.issue) s = .next
      (({ s.noted q stDeferred s.nextTicket with nextWhisk := s.nextWhisk + 1, whiskQ := s.whiskQ ++ [w], free := s.free + n } : State).heldUnder s q stDeferred s.nextTicket)) ∧
  (∀ (s : State) tile test idle w, s.bring.stage ≠ 6 → s.whiskQ.find? (fun w => w.tile == tile && w.test == test) = some w → s.mayStart w = true → s.before w = false →
    (s.isMapped tile = true → s.reg Reg.hubWhiskCtrl % 2 ^ 16 ≤ idle) →
    (w.tap = true → exec (.whiskRunStart tile test idle) s =
      .next { s with whisk := s.whisk ++ [{ w with res := [], failed := none }], whiskQ := s.whiskQ.filter (fun x => x.id != w.id) }) ∧
    (∀ t, w.tap = false → s.testEnt w.test = some t → s.bothStalled = false →
      (∀ b, (s.vectorBlks t).1 ≤ b → b < (s.vectorBlks t).1 + (s.vectorBlks t).2 → s.verify b 0 0x3E = .verified) → ∃ u,
      exec (.whiskRunStart tile test idle) s = .next u ∧ u.whisk = s.whisk ++ [{ w with res := [], failed := none, vecs := s.vecsOf t }] ∧
        u.whiskQ = s.whiskQ.filter (fun x => x.id != w.id) ∧ u.out = s.out ++ (s.vecsOf t).map (fun v => .whiskDesc w.tile v.desc) ∧
        u = { s with whisk := u.whisk, whiskQ := u.whiskQ, out := u.out, regs := u.regs, port0 := u.port0, port1 := u.port1 })) ∧
  (∀ (s : State) tile test idle w, s.bring.stage ≠ 6 → s.whiskQ.find? (fun w => w.tile == tile && w.test == test) = some w →
    (s.mayStart w = false ∨ (s.isMapped tile = true ∧ idle < s.reg Reg.hubWhiskCtrl % 2 ^ 16)) → exec (.whiskRunStart tile test idle) s = .next s) ∧
  (∀ (s : State) tile same w st, s.whisk.find? (fun w => w.tile == tile) = some w → w.startup = false → w.failed = some st →
    exec (.whiskRunEnd tile same) s = .next (s.whiskStop w st 0)) ∧
  (∀ (s : State) tile same w o, s.whisk.find? (fun w => w.tile == tile) = some w → w.startup = false → w.failed = none → s.outcome w same = some o →
    exec (.whiskRunEnd tile same) s = .next (((s.countOutcome o).observeOutcome tile (((s.testEnt w.test).map TestEnt.cls).getD 0) o).whiskStop w stOk o)) ∧
  (∀ (s : State) tile same w, s.whisk.find? (fun w => w.tile == tile) = some w → w.failed = none → s.outcome w same = none → exec (.whiskRunEnd tile same) s = .next s) ∧
  (∀ (s : State) tile w, s.whisk.find? (fun w => w.tile == tile && ! w.startup) = some w → ∃ u, exec (.whiskRunAbandon tile) s = .next u ∧ { w with res := [] } ∈ u.whiskQ ∧
    (∀ x ∈ u.whisk, x.id ≠ w.id) ∧ u.reg Reg.hubCntWhiskAbandoned = min (2 ^ 32 - 1) (s.reg Reg.hubCntWhiskAbandoned + 1) ∧
    u = { s with whisk := u.whisk, whiskQ := u.whiskQ, port0 := u.port0, port1 := u.port1, regs := u.regs, cfl := u.cfl, teardowns := u.teardowns }) ∧
  (∀ (s : State) tile test w, (s.whisk ++ s.whiskQ).find? (fun w => w.tile == tile && w.test == test && ! w.startup && decide (w.accepted + s.waitMax ≤ s.time)) = some w →
    exec (.whiskRunTimeout tile test) s = .next (s.whiskStop w stTimeout 0)) ∧
  (∀ s : State, (s.coreUp 1 = false ∨ s.content.tests = []) → exec .whiskSchedule s = .next s) ∧
  (∀ (s : State) p t w (q : CoreCmd), s.serving 1 = true → s.hasTicket = true → (s.ctx 0).st ≠ .terminated → p < s.cfg.ladles → p < 128 → s.candidates p = [t] →
    s.testEnt t.id = some t → t.id < 2 ^ 16 → (s.tileState p = .spare ∨ s.tileState p = .mapped) → s.hasRun p (fun _ => true) = false → s.whiskQ.length < 16 →
    s.isMapped p = false → s.bit Reg.hubWhiskCtrl 31 = false → Tab.get 0 s.testedAt p + s.testPeriod p ≤ s.time →
    (∀ x, x < s.cfg.ladles → x ≠ p → s.candidates x = [] ∨ s.time < Tab.get 0 s.testedAt x + s.testPeriod x) →
    w = { id := s.nextWhisk, tile := p, test := t.id, ticket := some s.nextTicket, accepted := s.time } → q = { k := 1, opc := 0x60, a := p, imm := t.id } →
    ∃ v : State, v = s.took 1 ∧ exec .whiskSchedule s = .next { ({ v.noted q stDeferred s.nextTicket with nextWhisk := s.nextWhisk + 1, whiskQ := s.whiskQ ++ [w] } : State).heldUnder
      v q stDeferred s.nextTicket with testedAt := Tab.set 0 s.testedAt p s.time })

/-- The suspect table: SUSPREAD gives an entry's record, and its clear returns a unit entry to CLEAR with no score; QUARANT makes a spare QUARANTINED
with its units and a mapped tile PENDING, both named in the defect list; at a step boundary, with its queue-empty level high, a PENDING
tile's logical number goes to the lowest spare of its row that is eligible and that no tile whose QUARANT came earlier takes. Scores are halved once per HALF minutes. TILEMAP gives the map.
Conditions on the state and the operands alone under which exec answers a next state with the command's own effect are given for: suspread, quarant,
tileSubstitution, suspectScoreHalving, tilemap, ldlcnt. -/
def Obligations.SuspectsAndTileMap : Prop :=
  (∀ (s : State) (q : CoreCmd), q.opc = 0x62 → s.serving q.k = true → q.ctx = 0 → q.imm % 16 = 0 → q.imm ≤ 4064 → q.b < 2 ^ 64 → q.c < 2 ^ 64 → q.a < 0x104 →
    (q.mod = 0 → exec (.suspread q.issue) s = .next (s.count Reg.hubCntCmd)) ∧
    (q.mod = 1 → (s.suspEnt q.a).st ≠ .quarantined → exec (.suspread q.issue) s = .next (((s.noted q).setSusp q.a
      { s.suspEnt q.a with st := .clear, score := 0, count := 0, passes := 0 }).count Reg.hubCntCmd)) ∧
    (q.mod = 1 → (s.suspEnt q.a).st = .quarantined → exec (.suspread q.issue) s = .next (s.served q)) ∧
    ∀ c : Cmd, c.ctx = 0 → c.a = q.a → c.imm = q.imm → c.mod = 0 → s.decideCmd specSuspread c = (s, .rec_ (s.suspEnt q.a).record)) ∧
  (∀ (s : State) (q : CoreCmd), q.opc = 0x63 → s.serving q.k = true → q.ctx = 0 → q.mod = 0 → q.imm = 0 → q.a < 128 → q.a < s.cfg.ladles → q.b < 2 ^ 64 → q.c < 2 ^ 64 → (s.ctx 0).st ≠ .terminated →
    (s.tileState q.a = .spare → ∃ u : State, exec (.quarant q.issue) s = .next (u.count Reg.hubCntCmd) ∧ u.tileState q.a = .quarantined ∧ (u.suspEnt (unitTile q.a)).st = .quarantined ∧
      (u.suspEnt (unitLadle q.a)).st = .quarantined ∧ (u.defect q.a).origin = 2 ∧ u.bring.rewrite = true ∧ (∀ p, p ≠ q.a → u.tileState p = s.tileState p) ∧
      u = { s.noted q with tileStates := u.tileStates, susp := u.susp, bring := u.bring, regs := u.regs }) ∧
    (s.tileState q.a = .mapped → ∃ u : State, exec (.quarant q.issue) s = .next (u.count Reg.hubCntCmd) ∧ u.tileState q.a = .pending ∧ (u.defect q.a).origin = 2 ∧
      u.pendingOrder = s.pendingOrder ++ [q.a] ∧ u = { s.noted q with tileStates := u.tileStates, bring := u.bring, regs := u.regs, pendingOrder := u.pendingOrder }) ∧
    (s.tileState q.a ≠ .spare → s.tileState q.a ≠ .mapped → exec (.quarant q.issue) s = .next (s.rejected q stIllegalState))) ∧
  (∀ (s : State) l empty p r, s.physOf l = some p → s.tileState p = .pending → s.boundary p = true → p ∈ empty →
    (∀ x ∈ s.rsts, x.active = false ∨ x.tiles.contains p = false) → s.spareFor p = some r → s.outranked empty p r = false →
    (∀ w ∈ s.whisk, w.tile ≠ r) → ∃ u, exec (.tileSubstitution l empty) s = .next u ∧ u.physOf l = some r ∧ u.tileState p = .quarantined ∧
      (r ≠ p → u.tileState r = .mapped) ∧ u.tmapSeq = (s.tmapSeq + 1) % 256 ∧
      p ∉ u.pendingOrder ∧
      u = { s with tileMap := u.tileMap, tmapSeq := u.tmapSeq, quarLast := u.quarLast, tileStates := u.tileStates, susp := u.susp, regs := u.regs, pendingOrder := u.pendingOrder }) ∧
  (∀ (s : State) l empty, (s.physOf l = none ∨ (∃ p, s.physOf l = some p ∧ (s.tileState p ≠ .pending ∨ s.boundary p = false ∨ p ∉ empty ∨
    s.spareFor p = none ∨ ∃ r, s.spareFor p = some r ∧ s.outranked empty p r = true))) → exec (.tileSubstitution l empty) s = .next s) ∧
  (∀ s : State, s.time < s.halvedAt + max 1 (s.reg Reg.hubSuspCfg % 2 ^ 8) * 6000000000 → exec .suspectScoreHalving s = .next s) ∧
  (∀ s : State, s.halvedAt + max 1 (s.reg Reg.hubSuspCfg % 2 ^ 8) * 6000000000 ≤ s.time → ∃ u, exec .suspectScoreHalving s = .next u ∧
    u.halvedAt = s.halvedAt + max 1 (s.reg Reg.hubSuspCfg % 2 ^ 8) * 6000000000 ∧ (∀ e, (u.suspEnt e).score = (s.suspEnt e).score / 2) ∧
    u = { s with halvedAt := u.halvedAt, susp := u.susp, regs := u.regs }) ∧
  (∀ (s : State) (q : CoreCmd), q.opc = 0x64 → s.serving q.k = true → q.mod = 0 → q.imm % 16 = 0 → q.imm + s.mapRecord.length ≤ 4096 → q.imm < 4096 →
    exec (.tilemap q.issue) s = .next (s.count Reg.hubCntCmd) ∧ ∀ c : Cmd, c.mod = 0 → c.imm = q.imm → s.decideCmd specTilemap c = (s, .rec_ s.mapRecord)) ∧
  (∀ (s : State) (q : CoreCmd) p, q.opc = 0x38 → s.serving q.k = true → q.imm % 16 = 0 → q.imm ≤ 3984 → q.a < 128 → s.physOf q.a = some p →
    s.tileRuns p = true → (s.stop p).unreachable = false →
    (q.mod = 0 → exec (.ldlcnt q.issue) s = .next (s.count Reg.hubCntCmd)) ∧
    (q.mod = 1 → q.b < 2 ^ 64 → q.c < 2 ^ 64 → exec (.ldlcnt q.issue) s = .next (((s.noted q).zeroRun (atTile p Reg.ldlCntOps) 27).count Reg.hubCntCmd)) ∧
    ∀ c : Cmd, c.a = q.a → c.imm = q.imm → c.mod = 0 → s.decideCmd specLdlcnt c = (s, .rec_ (s.ldlRecord p)))

/-! ### Resets, hangs, teardown counts and dumps -/

/-- RESET of a tile whose domain lies within no reset in progress takes the lowest idle reset slot and begins with QUIESCE on the tile's slot; an identifier
outside the instance is BAD_OPERAND, and a tile that lies within a reset in progress ILLEGAL_STATE, but for its own HELD one.
Conditions on the state and the operands alone under which exec answers a next state with the command's own effect are given for: reset. -/
def Obligations.ResetCommand : Prop :=
  (∀ (s : State) (q : CoreCmd) k, q.opc = 0x70 → s.serving q.k = true → s.hasTicket = true → q.ctx = 0 → q.mod = 0 → q.imm = 0 → q.a < 256 → q.b < 2 ^ 64 → q.c < 2 ^ 64 → (s.ctx 0).st ≠ .terminated →
    (s.cfg.ladles ≤ q.a → exec (.reset q.issue) s = .next (s.rejected q stBadOperand)) ∧
    (q.a < s.cfg.ladles → (∃ j, j < 4 ∧ (s.rst j).active = true ∧ (((s.rst j).level = 0 ∧ (s.rst j).id = q.a ∧ (s.rst j).phase ≠ .held) ∨
      (0 < (s.rst j).level ∧ q.a ∈ (s.rst j).raised))) → exec (.reset q.issue) s = .next (s.rejected q stIllegalState)) ∧
    (q.a < s.cfg.ladles → (∀ j, j < 4 → (s.rst j).active = true → ((s.rst j).level = 0 → (s.rst j).id ≠ q.a) ∧ (0 < (s.rst j).level → q.a ∉ (s.rst j).raised)) → s.idleRst = some k → s.stepsOn [q.a] = [] → s.rsts.length = 4 →
      ∃ u : State, exec (.reset q.issue) s = .next (u.heldUnder s q stPending s.nextTicket) ∧ (u.rst k).active = true ∧ (u.rst k).phase = .quiesce ∧ (u.rst k).level = 0 ∧ (u.rst k).id = q.a ∧
        (u.rst k).tiles = [q.a] ∧ (u.rst k).tickets = [s.nextTicket] ∧ (u.rst k).since = s.time ∧ bitAt (u.rout q.a) 0 = 1 ∧ (∀ j, j ≠ k → u.rst j = s.rst j) ∧
        u = { s.noted q stPending s.nextTicket with rsts := u.rsts, rstOut := u.rstOut })) ∧
  (∀ (s : State) (q : CoreCmd), q.opc = 0x70 → s.serving q.k = true → q.ctx = 0 → q.mod = 3 → q.imm = 0 → 0 < q.a → q.a < 256 → q.b < 2 ^ 64 → q.c < 2 ^ 64 → (s.ctx 0).st ≠ .terminated →
    exec (.reset q.issue) s = .next (s.rejected q stBadOperand))

/-- The phases of a reset: the acknowledge ends QUIESCE, and its absence for 2 µs opens the absorb window; the drain ends in RESET, or at its limit in ABSORB; reset is released after 64 cycles of the
reference clock, and in READY, once every ready level is high, each tile's self-check is asked for; READY ends when every one has passed, with the tickets
completed, in HELD when one failed or the limit, without the time of stopped clocks, has passed. Before its time a limit has no effect.
Conditions on the state and the operands alone under which exec answers a next state with the command's own effect are given for: quiesceAck,
quiesceTimeout, resetDrained, drainLimitExpiry, resetHoldEnd, resetReady, readyLimitExpiry, absorbWindowClose. -/
def Obligations.ResetPhases : Prop :=
  (∀ (s : State) k, (s.rst k).active = true → (s.rst k).phase = .quiesce →
    exec (.quiesceAck k) s = .next (s.setRst k { s.rst k with phase := .drain, since := s.time }) ∧
    ((s.rst k).since + 200 ≤ s.time → exec (.quiesceTimeout k) s = .next (s.absorb k)) ∧ (s.time < (s.rst k).since + 200 → exec (.quiesceTimeout k) s = .next s)) ∧
  (∀ (s : State) k, (s.rst k).active = true → (s.rst k).phase = .drain →
    ((s.rst k).safe = false → exec (.resetDrained k) s = .next (s.enterReset k)) ∧
    ((s.rst k).safe = true → exec (.resetDrained k) s = .next (s.setRst k { s.rst k with phase := .held })) ∧
    ((s.rst k).since + drainLimit (s.rst k).level ≤ s.time → exec (.drainLimitExpiry k) s = .next (s.absorb k)) ∧
    (s.time < (s.rst k).since + drainLimit (s.rst k).level → exec (.drainLimitExpiry k) s = .next s)) ∧
  drainLimit 0 = 2000 ∧ drainLimit 1 = 5000 ∧ drainLimit 2 = 20000 ∧ drainLimit 3 = 100000 ∧
  (∀ (s : State) k, k < s.rsts.length → (s.rst k).active = true → (s.rst k).phase = .drain → (s.rst k).safe = false → (∀ t ∈ (s.rst k).tiles, (s.ladle t).inReset = true) →
    (∀ w ∈ s.windows, w.slot ≠ k) → ∃ u, exec (.resetDrained k) s = .next u ∧ (u.rst k).phase = .reset ∧ (u.rst k).since = s.time ∧
      (∀ i ∈ (s.rst k).raised, bitAt (u.rout i) 1 = 1) ∧ (∀ j, j ≠ k → u.rst j = s.rst j)) ∧
  (∀ (s : State) k, k < s.rsts.length → (s.rst k).active = true → (s.rst k).phase = .reset →
    ((s.rst k).since + 64 ≤ s.time → ∃ u, exec (.resetHoldEnd k) s = .next u ∧ (u.rst k).phase = .ready ∧ (∀ t ∈ (s.rst k).tiles, (u.ladle t).inReset = false) ∧
      (∀ i ∈ (s.rst k).raised, bitAt (u.rout i) 1 = 0) ∧
      (u.rst k).high = false ∧ u = { s with rsts := u.rsts, rstOut := u.rstOut, ladles := u.ladles }) ∧
    (s.time < (s.rst k).since + 64 → exec (.resetHoldEnd k) s = .next s)) ∧
  (∀ (s : State) k, (s.rst k).active = true → (s.rst k).phase = .ready →
    ((∀ t ∈ (s.rst k).tiles, (s.ladle t).checked = some true) →
      exec (.resetReady k) s = .next ((s.setRst k { s.rst k with high := true }).rstReturn k)) ∧
    ((∀ t ∈ (s.rst k).tiles, (s.ladle t).checked ≠ none) → (∃ t ∈ (s.rst k).tiles, (s.ladle t).checked = some false) →
      exec (.resetReady k) s = .next ((s.setRst k { s.rst k with high := true }).rstHold k stHwFault)) ∧
    (k < s.rsts.length → (s.rst k).tiles ≠ [] → (∀ t ∈ (s.rst k).tiles, (s.ladle t).checked = none ∧ (s.ladle t).kat = .idle ∧ (s.ladle t).gateShut = false) →
      ∃ u, exec (.resetReady k) s = .next u ∧ (u.rst k).high = true ∧ (u.rst k).phase = .ready ∧ (∀ t ∈ (s.rst k).tiles, (u.ladle t).kat = .requested) ∧
        u = { s with rsts := u.rsts, ladles := u.ladles }) ∧
    ((s.rst k).since + readyLimit (s.rst k).level + (s.rst k).stopped ≤ s.time → exec (.readyLimitExpiry k) s = .next (s.rstHold k stTimeout)) ∧
    (s.time < (s.rst k).since + readyLimit (s.rst k).level + (s.rst k).stopped → exec (.readyLimitExpiry k) s = .next s)) ∧
  readyLimit 0 = 15000 ∧ readyLimit 1 = 90000 ∧ readyLimit 2 = 450000 ∧ readyLimit 3 = 3800000 ∧
  (∀ (s : State) k, k < s.rsts.length → (s.rst k).tickets = [] → ∃ u, u = s.rstReturn k ∧ (u.rst k).active = false ∧ (u.rst k).last = stOk ∧ (∀ i ∈ (s.rst k).raised, bitAt (u.rout i) 0 = 0) ∧
    (∀ t ∈ (s.rst k).tiles, (u.stop t).unreachable = false) ∧ u.reg (rstCounter (s.rst k).level) = min (2 ^ 32 - 1) (s.reg (rstCounter (s.rst k).level) + 1)) ∧
  (∀ (s : State) k w, s.windows.find? (fun w => w.slot == k && decide (w.since + 100000 ≤ s.time)) = some w → w.scrub = [] →
    exec (.absorbWindowClose k) s = .next (({ s with windows := s.windows.erase w } : State).drive 2 false w.raised)) ∧
  (∀ (s : State) k, (∀ w ∈ s.windows, w.slot = k → s.time < w.since + 100000) → exec (.absorbWindowClose k) s = .next s)

/-- The progress watch: at the end of a window a watched unit that no sample found excluded counts one without progress, where its count did not move between samples and it was busy at
each, and hangs at its limit, once; an op without a verdict for OPAGE, without the time in which its tile did not run, hangs its tile, once. The completion filter: an ISSUE of a LIVE
generation passes and counts one outstanding, and another is dropped; a COMPLETE takes one back, is dropped for a TERMINATED context or a teardown, and is late for any other generation;
context 0 always passes and is not counted.
Conditions on the state and the operands alone under which exec answers a next state with the command's own effect are given for: watchWindowEnd,
verdictAgeHang, cflIssue, cflComplete. -/
def Obligations.HangsAndCompletionFilter : Prop :=
  ((∀ (s : State) l, s.time < s.windowAt + 100 * max 1 (s.reg Reg.hubWatchCtrl % 2 ^ 8) → exec (.watchWindowEnd l) s = .next s) ∧
  (∀ (s : State) l fin, fin = s.windowAt + 100 * max 1 (s.reg Reg.hubWatchCtrl % 2 ^ 8) → fin ≤ s.time → ∃ u, exec (.watchWindowEnd l) s = .next u ∧
    u.windowAt = fin ∧ u = { s with windowAt := u.windowAt, watched := u.watched, regs := u.regs, out := u.out } ∧
    ∀ t, t < 256 →
      ((s.isWatched t = false ∨ (s.watchedUnit t).excludedBy fin = true) → u.watchedUnit t = (s.watchedUnit t).nextWindow fin) ∧
      (s.isWatched t = true → (s.watchedUnit t).excludedBy fin = false →
        ((lookup l t = none ∨ ∃ x, lookup l t = some x ∧ madeProgress x = true) →
          u.watchedUnit t = { (s.watchedUnit t).nextWindow fin with idleWindows := 0, hung := false, verdictHung := false }) ∧
        (∀ x, lookup l t = some x → madeProgress x = false → (u.watchedUnit t).idleWindows = (s.watchedUnit t).idleWindows + 1))) ∧
  (∀ x : List (Nat × Bool), madeProgress x = true ↔ (∃ y ∈ x, y.2 = false) ∨ ∃ (i : Nat) (a b : Nat × Bool), x[i]? = some a ∧ x[i + 1]? = some b ∧ a.1 ≠ b.1) ∧
  (∀ (s : State) l fin t x, s.isWatched t = true → (s.watchedUnit t).excludedBy fin = false → lookup l t = some x → madeProgress x = false → t < 128 →
    (s.watchedUnit t).hung = false → (s.watchedUnit t).verdictHung = false → (s.watchedUnit t).idleWindows + 1 = max 1 (fieldOf (s.reg Reg.hubWatchCtrl) 15 8) →
    ∃ u, u = s.watchOne fin l t ∧ (u.watchedUnit t).hung = true ∧ u.reg Reg.hubCntHang = min (2 ^ 32 - 1) (s.reg Reg.hubCntHang + 1) ∧
      u.bit Reg.hubWatchStatus 0 = true ∧ u.out = s.out ++ [.notice 2]) ∧
  (∀ (s : State) t o u, s.recs.find? (fun o => o.overdue t (100000 * max 1 (s.reg Reg.hubWatchCtrl / 2 ^ 24)) s.time) = some o →
    u = (s.setCtx o.d.ctx ((s.ctx o.d.ctx).markAged o)).setWatched t { s.watchedUnit t with verdictHung := true } →
    ((s.watchedUnit t).hung = false → (s.watchedUnit t).verdictHung = false → exec (.verdictAgeHang t) s = .next (u.hang 2 o.d.ctx t)) ∧
    ((s.watchedUnit t).hung = true ∨ (s.watchedUnit t).verdictHung = true → exec (.verdictAgeHang t) s = .next u)) ∧
  (∀ (o : OpRec) t age now, o.overdue t age now = true ↔ o.tile = t ∧ o.notAccepted = false ∧ o.verdict = none ∧ o.aged = false ∧ o.acceptedAt + age + o.downFor ≤ now) ∧
  (∀ (s : State) t, s.recs.find? (fun o => o.overdue t (100000 * max 1 (s.reg Reg.hubWatchCtrl / 2 ^ 24)) s.time) = none → exec (.verdictAgeHang t) s = .next s)) ∧
  (∀ (s : State) lane c gen tag,
    (c = 0 → exec (.cflIssue lane c gen tag) s = .next (s.emit (.cfl lane tag true)) ∧
      exec (.cflComplete lane c gen tag) s = .next (s.emit (.cfl lane tag true))) ∧
    (c ≠ 0 → (s.ctx c).gen = gen →
      ((s.ctx c).st = .live → ∃ u v, exec (.cflIssue lane c gen tag) s = .next u ∧ u.cfl = Tab.set 0 s.cfl c (Tab.get 0 s.cfl c + 1) ∧ u.out = s.out ++ [.cfl lane tag true] ∧
        exec (.cflComplete lane c gen tag) s = .next v ∧ v.cfl = Tab.set 0 s.cfl c (Tab.get 0 s.cfl c - 1) ∧ v.out = s.out ++ [.cfl lane tag true]) ∧
      ((s.ctx c).st = .terminated → ∃ u, exec (.cflComplete lane c gen tag) s = .next u ∧ u.out = s.out ++ [.cfl lane tag false] ∧
        u.cfl = Tab.set 0 s.cfl c (Tab.get 0 s.cfl c - 1) ∧ exec (.cflIssue lane c gen tag) s = .next ((s.count Reg.hubCntCflDrop).emit (.cfl lane tag false)))) ∧
    (c ≠ 0 → (s.ctx c).gen ≠ gen → exec (.cflIssue lane c gen tag) s = .next ((s.count Reg.hubCntCflDrop).emit (.cfl lane tag false)) ∧
      (s.tearing c gen = none → exec (.cflComplete lane c gen tag) s = .next ((s.count Reg.hubCntCflLate).emit (.cfl lane tag false))) ∧
      (∀ v, s.tearing c gen = some v → ∃ u, exec (.cflComplete lane c gen tag) s = .next u ∧ u.out = s.out ++ [.cfl lane tag false] ∧
        u.teardowns = s.teardowns.map (fun t => if t.ctx == c && t.gen == gen then { t with count := t.count - 1 } else t) ∧ u.cfl = s.cfl)))

/-- DUMP of the block alone collects its registers and begins its copy; of a scope that is none it is BAD_OPERAND, and while an image is held BUSY. An answer within 2 µs
gives a record its value, and the copy's end completes the ticket. A read of the state-read channel that stage 5 waits for is answered first.
Conditions on the state and the operands alone under which exec answers a next state with the command's own effect are given for: dump,
stateReadAnswer, dumpReadResult, dumpCopyDone. -/
def Obligations.Dumps : Prop :=
  (∀ (s : State) (q : CoreCmd), q.opc = 0x71 → s.coreUp q.k = true → s.safe = none → s.hasTicket = true → q.ctx = 0 → q.mod = 0 → q.imm < 256 → q.a + 16 ≤ 2 ^ 38 → q.b < 2 ^ 64 → q.c < 2 ^ 64 →
    (s.ctx 0).st ≠ .terminated →
    (scopeOk q.imm = false → exec (.dump q.issue) s = .next (s.rejected q stBadOperand)) ∧
    (scopeOk q.imm = true → (s.dump.isSome = true ∨ s.bit Reg.hubDumpStatus 30 = true) → exec (.dump q.issue) s = .next (s.rejected q stBusy)) ∧
    (q.imm = 0xFE → s.dump = none → s.bit Reg.hubDumpStatus 30 = false → s.bothStalled = false → ∃ (u : State) (d : Dump), exec (.dump q.issue) s = .next (u.heldUnder s q stPending s.nextTicket) ∧
      u.dump = some d ∧ d.copying = true ∧ d.reads = [] ∧ d.ticket = s.nextTicket ∧ d.dst = q.a ∧ d.recs = (s.noted q stPending s.nextTicket).blockRecs ∧
      (∀ a, a ≠ Reg.hubCntCflPass → a ≠ Reg.hubCntCflDrop → a ≠ Reg.hubCntCflLate → u.reg a = (s.noted q stPending s.nextTicket).reg a) ∧
      u = { s.noted q stPending s.nextTicket with dump := u.dump, dumpSram := u.dumpSram, free := u.free, mem := u.mem, sb := u.sb, port0 := u.port0, port1 := u.port1, regs := u.regs, cfl := u.cfl, teardowns := u.teardowns })) ∧
  (∀ (s : State) d r v, s.dump = some d → d.reads = [r] → r.state = true → d.skips r.unit = false → s.unitInReset r.unit = false → s.time ≤ d.since + 200 → s.bring.reads = [] →
    d.recs.length < 4092 → exec (.stateReadAnswer v false) s = .next (s.dumpCopy { d with recs := d.recs ++ [{ addr := r.addr, value := v % 2 ^ 32, unit := r.unit }] })) ∧
  (∀ (s : State) d r rest, s.dump = some d → d.reads = r :: rest → d.skips r.unit = false → s.unitInReset r.unit = false → s.time < d.since + 200 → exec (.dumpReadResult none) s = .next s) ∧
  (∀ (s : State) d r v, s.dump = some d → d.reads = [r] → r.state = false → s.tileRuns r.tile = true → (s.stop r.tile).unreachable = false → d.skips r.unit = false →
    s.unitInReset r.unit = false → s.time ≤ d.since + 200 → exec (.dumpReadResult (some v)) s = .next (s.dumpCopy { d with recs := d.recs ++
      [{ addr := r.addr, value := s.regVal .port (r.addr % 2 ^ 24), unit := r.unit }] })) ∧
  (∀ (s : State) d, s.dump = some d → d.copying = true → (∀ k, s.ticket d.ticket = some k → k.owner = .kettle 2) → s.memOn = false → ∃ u, exec .dumpCopyDone s = .next u ∧ u.dump = none ∧
    u.reg Reg.hubCntDump = min (2 ^ 32 - 1) (s.reg Reg.hubCntDump + 1) ∧ u.ticket d.ticket = none ∧ u.bit Reg.hubDumpStatus 30 = s.bit Reg.hubDumpStatus 30) ∧
  (∀ (s : State) r i w m v, s.bring.reads = [r] → s.time < r.since + 200 → r.link = some (i, w) → s.bring.links[i]? = some m → exec (.stateReadAnswer v false) s =
    .next { s with bring := { s.bring with reads := [], links := setAt s.bring.links i (m.put w (v % 2 ^ 32)) } }) ∧
  (∀ s : State, s.dump = none → exec .dumpCopyDone s = .next s ∧ ∀ a, exec (.dumpReadResult a) s = .next s)

/-! ### Fault collection -/

/-- An ERROR that the filter of a decoded pair passes sets its ERR bit, is counted by the pair's class and captured; one of a pair that is not decoded
has no effect but on the filter. OK decodes an enabled pair; a Ladle's pair in ERROR stays so until its tile is reset. A capture awaits its detail for 40 hub
cycles.
Conditions on the state and the operands alone under which exec answers a next state with the command's own effect are given for: pairTransition,
pairReturnOk, pairArmTimeout, captureBeat, captureDetailTimeout, glitchDiscard. -/
def Obligations.PairsAndCaptures : Prop :=
  (∀ (s : State) stn i cyc, s.hasPair stn i = true → (s.pair stn i).decoded = true → (s.pair stn i).lvl = .ok → 8 ≤ i → s.pairClass stn i = 2 → s.bit Reg.colStatus 16 = false → s.capBeats = [] →
    ∃ u, exec (.pairTransition stn i false cyc) s = .next u ∧ (u.pair stn i).lvl = .error ∧ u.errBit stn i = true ∧ u.reg Reg.colCntUc = min (2 ^ 32 - 1) (s.reg Reg.colCntUc + 1) ∧
      u.bit Reg.colStatus 16 = true ∧ u.reg Reg.colCapSrc = (2 * 2 ^ 30 + stn * 2 ^ 16 + i) % 2 ^ 32 ∧
      u.capWaits = s.capWaits ++ [{ station := stn, pair := i, ce := false, cycle := cyc }] ∧ u = { s with regs := u.regs, pairs := u.pairs, capWaits := u.capWaits }) ∧
  (∀ (s : State) stn i w cyc, s.hasPair stn i = true → (s.pair stn i).decoded = false → exec (.pairTransition stn i w cyc) s = .next (s.setPair stn i
    { s.pair stn i with filt := some (if w then .wire else .error) })) ∧
  (∀ (s : State) stn i, s.hasPair stn i = true → (i < 8 → (s.pair stn i).filt ≠ some .error) → exec (.pairReturnOk stn i) s = .next (s.setPair stn i
    { s.pair stn i with filt := some .ok, lvl := .ok, decoded := (s.pair stn i).decoded || s.pairOn stn i })) ∧
  (∀ (s : State) stn i, i < 8 → (s.pair stn i).filt = some .error → exec (.pairReturnOk stn i) s = .next s) ∧
  (∀ (s : State) stn i cyc, s.hasPair stn i = true → s.pairOn stn i = true → (s.pair stn i).armed = true → (s.pair stn i).decoded = false →
    ((s.pair stn i).armedAt + 100000 ≤ s.time → exec (.pairArmTimeout stn i cyc) s = .next ((s.setPair stn i { s.pair stn i with lvl := .wire, armed := false }).transition stn i cyc true)) ∧
    (s.time < (s.pair stn i).armedAt + 100000 → exec (.pairArmTimeout stn i cyc) s = .next s)) ∧
  (∀ (s : State) stn i a m acc cyc w, s.hasPair stn i = true → s.capWaits = [w] → w.station = stn → w.pair = i → w.cycle ≤ cyc → cyc ≤ w.cycle + 40 → ∃ u, exec (.captureBeat stn i a m acc cyc) s = .next u ∧
    u.capWaits = [] ∧ u = { s with capWaits := [], regs := u.regs } ∧ u.reg ((if w.ce then 0x10030 else Reg.colCapSrc) + 4) = a % 2 ^ 32 ∧
    u.reg ((if w.ce then 0x10030 else Reg.colCapSrc) + 12) = m % 2 ^ 16) ∧
  (∀ (s : State) stn i cyc w, s.capWaits = [w] → w.station = stn → w.pair = i →
    (w.cycle + 40 < cyc → exec (.captureDetailTimeout stn i cyc) s = .next (({ s with capWaits := [] } : State).count Reg.colCntNoinfo)) ∧
    (cyc ≤ w.cycle + 40 → exec (.captureDetailTimeout stn i cyc) s = .next s)) ∧
  (∀ (s : State) stn i, s.hasPair stn i = true → exec (.glitchDiscard stn i) s = .next (s.count (atStn stn Reg.colCntGlitch))) ∧
  (∀ (s : State) stn i cyc, s.hasPair stn i = false → exec (.pairReturnOk stn i) s = .next s ∧ exec (.glitchDiscard stn i) s = .next s ∧
    exec (.pairTransition stn i true cyc) s = .next s ∧ exec (.pairArmTimeout stn i cyc) s = .next s)

/-- The collector's own fault enters the safe state and is named in COL_SELF; the safe state ends every LIVE context and quiesces the compute part, and COL_SAFE.EXIT
leaves it only for an FA source whose bits are clear after a reset of the compute part. Writing an enable bit that does not change leaves its pair; a W1C write clears bits.
Conditions on the state and the operands alone under which exec answers a next state with the command's own effect are given for: colanderSelfFault,
colSafeExit, colStnEnWrite, w1cClear. -/
def Obligations.SafeStateAndClears : Prop :=
  (∀ (s : State) u w, s.safe = none → s.rsts = [{}, {}, {}, {}] → ∃ t, exec (.colanderSelfFault u w) s = .next t ∧ t.safe = some 2 ∧ (∀ c, (t.ctx c).st ≠ .live) ∧
    (t.rst 0).active = true ∧ (t.rst 0).level = 3 ∧ (t.rst 0).safe = true ∧ (t.rst 0).phase = .quiesce ∧ t.reg Reg.colSelf = 2 ^ 31 + u % 2 ^ 8 * 2 ^ 16 + w % 2 ^ 12) ∧
  (∀ (s : State) src, s.safe = some 1 → s.faAny = false → s.safeReset = true → exec (.colSafeExit src) s =
    .next (({ s with safe := none, safeReset := false } : State).emit (.regRsp src Reg.colSafe 0 0))) ∧
  (∀ (s : State) src, (s.safe ≠ some 1 ∨ s.faAny = true ∨ s.safeReset = false) → exec (.colSafeExit src) s = .next (s.emit (.regRsp src Reg.colSafe 0 0))) ∧
  (∀ (s : State) src stn v, stn < 16 → stn < s.cfg.stations → v < 2 ^ 32 → ∃ u, exec (.colStnEnWrite src stn false v) s = .next u ∧ u.reg (atStn stn Reg.colStnEnLo) = v ∧
    (∀ i, i < 32 → bitAt v i = bitAt (s.reg (atStn stn Reg.colStnEnLo)) i → u.pair stn i = s.pair stn i) ∧
    (∀ i, i < 32 → bitAt v i = 1 → bitAt (s.reg (atStn stn Reg.colStnEnLo)) i = 0 → (u.pair stn i).armed = true ∧ (u.pair stn i).armedAt = s.time ∧ (u.pair stn i).lvl = .ok ∧
      ((u.pair stn i).decoded = true ↔ (s.pair stn i).filt = some .ok)) ∧
    u = { s with regs := u.regs, pairs := u.pairs, out := u.out }) ∧
  (∀ (s : State) src a v r, s.respCode a = 0 → regRow a = some r → (a = Reg.colStatus → s.capWaits = []) → ¬ (0x11000 ≤ a ∧ a < 0x12000) →
    exec (.w1cClear src a v) s = .next ((s.clrBits a (v % 2 ^ 32 &&& r.w1c)).emit (.regRsp src a 0 0))) ∧
  (∀ (s : State) src, exec (.w1cClear src Reg.hubWatchStatus 3) s = .next ((s.clrBits Reg.hubWatchStatus 3).emit (.regRsp src Reg.hubWatchStatus 0 0))) ∧
  (∀ (s : State) src a v, s.respCode a ≠ 0 → exec (.w1cClear src a v) s = .next ((s.count Reg.hubCntRegErr).emit (.regRsp src a 0 (s.respCode a))))

/-! ### Trivet -/

/-- A valid sample is its sensor's value and its zone is evaluated at once, under the thresholds that a TRVSET before the sample has set (R429): R428's states of a logic zone with their hysteresis, the level one higher on the way into
THROTTLE; a sample at the strap's limit trips. The third invalid sample in a row makes the sensor FAILED. Fast sampling ends 4 ms after its
condition last held. A level moves by one each STEP_US.
Conditions on the state and the operands alone under which exec answers a next state with the command's own effect are given for: sensorSample,
fastSamplingExit, throttleStep. -/
def Obligations.SensorsAndZones : Prop :=
  (∀ (s : State) i w, i < min 256 s.cfg.sensors → sampleOk i w = true → ∃ t, exec (.sensorSample i w) s = .next t ∧
    t.sensor i = (s.sensor i).take s.time (sampleValue w) ∧ (∀ j, j ≠ i → t.sensor j = s.sensor j) ∧
    (t.trv.tripped = true ↔ (s.trv.tripped = true ∨ degC (if s.memFirst ≤ i then s.hardMem else s.hardLogic) ≤ sampleValue w)) ∧
    (∀ z, s.trv.curve.zoneOf i ≠ some z → t.zone z = s.zone z) ∧
    (∀ z T h, s.trv.curve.zoneOf i = some z → (s.zoneDef z).mem = false → (∀ v ∈ t.zoneSensors z, v.failed = false) → maxTemp (t.zoneSensors z) = some T →
      (s.takeThr z).thr z = h → t.thr z = h ∧
      (t.zone z).temp = T ∧
      ((s.zone z).st = .normal → (t.zone z).st = (if degC h.shutdown ≤ T then .shutdown else if degC h.throttle ≤ T then .throttle
          else if degC h.warn ≤ T then .warn else .normal) ∧
        (t.zone z).level = if (t.zone z).st.rank < 2 then (s.zone z).level else min 15 ((s.zone z).level + 1)) ∧
      ((s.zone z).st = .throttle → degC h.throttle - degC h.hyst ≤ T → T < degC h.shutdown →
        (t.zone z).st = .throttle ∧ (t.zone z).level = (s.zone z).level)) ∧
    (∀ a, a ∉ [Reg.trvStatus, Reg.trvTripCap, Reg.trvTripTimeLo, Reg.trvTripTimeHi, Reg.trvCntWarn, Reg.trvCntThrottle, Reg.trvCntShutdown, Reg.trvCntRise] →
      t.reg a = s.reg a) ∧ t = { s with trv := t.trv, regs := t.regs }) ∧
  (∀ (s : State) i w, i < min 256 s.cfg.sensors → sampleOk i w = false → ∃ t, exec (.sensorSample i w) s = .next t ∧
    t.sensor i = { s.sensor i with invalid := min 3 ((s.sensor i).invalid + 1), failed := (s.sensor i).failed || decide (2 ≤ (s.sensor i).invalid) } ∧
    (∀ j, j ≠ i → t.sensor j = s.sensor j) ∧ t.trv.tripped = s.trv.tripped ∧
    ((s.sensor i).failed = false → 2 ≤ (s.sensor i).invalid →
      t.reg Reg.trvCntSensorFail = min (2 ^ 32 - 1) (s.reg Reg.trvCntSensorFail + 1) ∧ t.bit Reg.trvStatus 5 = true) ∧
    (((s.sensor i).failed = true ∨ (s.sensor i).invalid < 2) → t.reg Reg.trvCntSensorFail = s.reg Reg.trvCntSensorFail) ∧
    (∀ z, s.trv.curve.zoneOf i = some z → (∀ v ∈ t.zoneSensors z, v.valid = false ∨ v.failed = true) → (t.zone z).st = .shutdown) ∧
    t = { s with trv := t.trv, regs := t.regs }) ∧
  (∀ (s : State) i w, min 256 s.cfg.sensors ≤ i → exec (.sensorSample i w) s = .next s) ∧
  (∀ (s : State) z, (s.zone z).fast = true → s.fastCond z = false → (s.zone z).fastHeld + 400000 ≤ s.time →
    exec (.fastSamplingExit z) s = .next (s.setZone z { s.zone z with fast := false })) ∧
  (∀ (s : State) z, (s.fastCond z = true ∨ s.time < (s.zone z).fastHeld + 400000) → exec (.fastSamplingExit z) s = .next s) ∧
  (∀ s : State, ∃ t, exec .throttleStep s = .next t ∧ t = { s with trv := { s.trv with zones := t.trv.zones } } ∧ (∀ z, s.zoneCount ≤ z → t.zone z = s.zone z) ∧
    (∀ z, z < s.zoneCount → s.time < (s.zone z).stepped + s.stepTime → t.zone z = s.zone z) ∧
    (∀ z, z < s.zoneCount → (s.zone z).stepped + s.stepTime ≤ s.time → (t.zone z).st = (s.zone z).st ∧ (t.zone z).level =
      match (s.zone z).st with
      | .throttle => min 15 ((s.zone z).level + 1)
      | .rise => min 15 ((s.zone z).level + 1)
      | .shutdown => (s.zone z).level
      | _ => (s.zone z).level - 1))

/-- A poll round takes the power limit of a TRVSET before it (R429), gives each rail the value of its READ_POUT word and the die power their sum over the counted rails, and moves the power level: up where the power is over the limit, down
where it is under 15/16 of it. A transaction that times out is one failure, and 3 in a row take the whole POWER_MAX. SMBALERT reads each rail's
STATUS_WORD and clears its faults. BUDGET gives the record of R443, 64 bytes.
Conditions on the state and the operands alone under which exec answers a next state with the command's own effect are given for: powerPoll,
pmbusTimeout, smbalert, budget. -/
def Obligations.RegulatorsAndBudget : Prop :=
  (∀ (s : State) (ws : List Nat), ws.length = s.trv.curve.rails.length → ∃ t, exec (.powerPoll (ws.map some)) s = .next t ∧
    (∀ k, k < ws.length → t.rail k = { mw := linear11 (ws[k]?.getD 0), fails := 0 }) ∧
    t.trv.power = ((s.trv.curve.rails.zip ws).map (fun p => if p.1.counted then linear11 p.2 else 0)).sum ∧
    t.out = s.out ++ s.trv.curve.rails.map (fun r => .pmb r.addr r.page pmbReadPout) ∧ t.limitW = s.takeLimit.limitW ∧
    (∀ l, s.trv.limitNext = some l → t.limitW = l) ∧ (s.trv.limitNext = none → t.limitW = s.limitW) ∧ t.trv.limitNext = none ∧
    (t.limitW * 1000 < t.trv.power → s.trv.powerLevel < 15 → t.trv.powerLevel = s.trv.powerLevel + 1 ∧ t.bit Reg.trvStatus 4 = true ∧
      t.reg Reg.trvCntPower = min (2 ^ 32 - 1) (s.reg Reg.trvCntPower + 1)) ∧
    (16 * t.trv.power < 15 * (t.limitW * 1000) → t.trv.powerLevel = s.trv.powerLevel - 1) ∧
    (t.trv.power ≤ t.limitW * 1000 → 15 * (t.limitW * 1000) ≤ 16 * t.trv.power → t.trv.powerLevel = s.trv.powerLevel) ∧
    (∀ a, a ≠ Reg.trvStatus → a ≠ Reg.trvCntPower → t.reg a = s.reg a) ∧
    t = { s with trv := { s.trv with rails := t.trv.rails, power := t.trv.power, limit := t.trv.limit, limitNext := none, powerLevel := t.trv.powerLevel, budget := t.trv.budget }, regs := t.regs, out := t.out }) ∧
  (∀ (s : State) k, k < s.trv.curve.rails.length → ∃ t, exec (.pmbusTimeout k) s = .next t ∧
    t.rail k = { s.rail k with fails := min 3 ((s.rail k).fails + 1) } ∧ (∀ j, j ≠ k → t.rail j = s.rail j) ∧ t.bit Reg.trvStatus 6 = true ∧
    t.reg Reg.trvCntPmbErr = min (2 ^ 32 - 1) (s.reg Reg.trvCntPmbErr + 1) ∧ (∀ a, a ≠ Reg.trvStatus → a ≠ Reg.trvCntPmbErr → t.reg a = s.reg a) ∧
    t = { s with trv := { s.trv with rails := t.trv.rails }, regs := t.regs }) ∧
  (∀ (s : State) k r, (s.rail k).fails = 3 → r.counted = true → s.railPower k r = 8 * s.powerMax * 1000) ∧
  (∀ s : State, ∃ t, exec .smbalert s = .next t ∧ t.out = s.out ++ s.trv.curve.rails.flatMap (fun r => [.pmb r.addr r.page pmbStatusWord, .pmb r.addr r.page pmbClearFaults]) ∧
    t = { s with out := t.out }) ∧
  (∀ (s : State) (q : CoreCmd), q.opc = 0x79 → s.serving q.k = true → q.mod = 0 → q.imm % 16 = 0 → q.imm ≤ 4032 → q.a < 2 ^ 64 → q.b < 2 ^ 64 → q.c < 2 ^ 64 →
    (∃ t, exec (.budget q.issue) s = .next t ∧ t = { s with regs := t.regs, free := t.free } ∧ (s.hotZone ≠ none → t.free = s.free) ∧
      t.reg Reg.hubCntCmd = min (2 ^ 32 - 1) (s.reg Reg.hubCntCmd + 1) ∧ (∀ a, a ≠ Reg.hubCntCmd → t.reg a = s.reg a)) ∧
    (∀ c : Cmd, c.ctx = q.ctx → c.a = 0 → c.b = 0 → c.c = 0 → c.mod = 0 → c.imm = q.imm → (s.decideCmd specBudget c).2 = .rec_ s.budgetRecord)) ∧
  (∀ s : State, s.budgetRecord.length = 64 ∧ leAt s.budgetRecord 0 4 = s.trv.power % 2 ^ 32 ∧ leAt s.budgetRecord 4 4 = s.limitW * 1000 % 2 ^ 32 ∧
    leAt s.budgetRecord 16 8 = s.time % 2 ^ 64 ∧ (∀ z, s.hotZone = some z → leAt s.budgetRecord 12 1 = z % 256 ∧ leAt s.budgetRecord 13 1 = (s.zone z).st.code))

/-- Policy changes: in Fixed mode each is held in place of any held before and counted, and none changes its target; else it takes effect at once. TRV_HELD_APPLY
makes a held one take effect after a commit grant or when no context has a step slot in use. What each does: TRVSET sets a zone's thresholds as of its next sample or
the power limit as of the next poll, FLOOR a domain's floor, TRV_AVS a rail's voltage within its range, SELECT the loaded curve, HUB_ATB_CTRL the two lines.
Conditions on the state and the operands alone under which exec answers a next state with the command's own effect are given for: trvset,
trvHeldApply, trvDomLevelFloor, trvAvsWrite, trvCurveLoad, trvCurveSelect, trvTripClr, hubAtbCtrlWrite. -/
def Obligations.PolicyChanges : Prop :=
  (∀ (s : State) c, (s.fixed = true → ∃ t, s.policy c = t ∧ t.trv = { s.trv with held := some c, heldDue := false } ∧
      t.reg Reg.trvCntHeld = min (2 ^ 32 - 1) (s.reg Reg.trvCntHeld + 1) ∧ (∀ a, a ≠ Reg.trvCntHeld → t.reg a = s.reg a) ∧ t = { s with trv := t.trv, regs := t.regs }) ∧
    (s.fixed = false → s.policy c = s.applyChange c)) ∧
  (∀ (s : State) (q : CoreCmd), q.opc = 0x78 → s.serving q.k = true → q.ctx = 0 → (s.ctx 0).st ≠ .terminated → q.mod = 0 → q.imm = 0 → q.a < 256 → q.b < 2 ^ 64 → q.c < 2 ^ 64 →
    (s.thrBad q.a q.b = false → exec (.trvset q.issue) s = .next (((s.noted q).policy (.thr q.a q.b)).count Reg.hubCntCmd)) ∧
    (s.thrBad q.a q.b = true → exec (.trvset q.issue) s = .next (s.rejected q stBadOperand))) ∧
  (∀ (s : State) z w t u h, z < s.zoneCount → z ≠ 0xFF → (s.zoneDef z).mem = false → w < 2 ^ 8 → t < 2 ^ 8 → u < 2 ^ 8 → h < 2 ^ 4 →
    (s.thrBad z (w + t * 2 ^ 8 + u * 2 ^ 16 + h * 2 ^ 24) = false ↔ w < t ∧ t < u ∧ u + 5 ≤ s.hardLogic ∧ h ≠ 0) ∧
    (∃ v, s.applyChange (.thr z (w + t * 2 ^ 8 + u * 2 ^ 16 + h * 2 ^ 24)) = v ∧
      (v.takeThr z).thr z = { s.thr z with warn := w, throttle := t, shutdown := u, hyst := h, set := true } ∧
      (∀ y, v.thr y = s.thr y) ∧ (∀ y, y ≠ z → (v.takeThr y).thr y = (s.takeThr y).thr y) ∧
      v = { s with trv := { s.trv with thrNext := v.trv.thrNext } })) ∧
  (∀ (s : State) l, l < 2 ^ 16 → s.applyChange (.thr 0xFF l) = { s with trv := { s.trv with limitNext := some l } }) ∧
  (∀ s : State, (s.trv.held = none → exec .trvHeldApply s = .next s) ∧
    (∀ c, s.trv.held = some c → (s.trv.heldDue = true ∨ s.anyStep = false) →
      exec .trvHeldApply s = .next (({ s with trv := { s.trv with held := none, heldDue := false } } : State).applyChange c)) ∧
    (∀ c, s.trv.held = some c → s.trv.heldDue = false → s.anyStep = true → exec .trvHeldApply s = .next s)) ∧
  (∀ (s : State) src v, exec (.trvDomLevelFloor src v) s =
      .next ((s.policy (.floor (s.banked src .domSel) (v / 2 ^ 16 % 16))).emit (.regRsp src Reg.trvDomLevel 0 0))) ∧
  (∀ (s : State) d v, d < 32 → ∃ t, s.applyChange (.floor d v) = t ∧ t.floorOf d = v % 16 ∧ v % 16 ≤ t.domLevel d ∧ (∀ e, e ≠ d → t.floorOf e = s.floorOf e) ∧
    t = { s with trv := { s.trv with floors := t.trv.floors } }) ∧
  (∀ (s : State) src v, (s.avsOk v = true → exec (.trvAvsWrite src v) s = .next ((s.policy (.avs v)).emit (.regRsp src Reg.trvAvs 0 0))) ∧
    (s.avsOk v = false → exec (.trvAvsWrite src v) s = .next (s.pmbErr.emit (.regRsp src Reg.trvAvs 0 0)))) ∧
  (∀ (s : State) v, s.avsOk v = true → ∃ t, s.applyChange (.avs v) = t ∧ t.out = s.out ++ [.avs (v / 2 ^ 28 % 16) (v % 2 ^ 16)] ∧ t.trv.avsRail = v / 2 ^ 28 % 16 ∧
    t = { s with trv := { s.trv with avs := t.trv.avs, avsRail := t.trv.avsRail }, free := t.free, out := t.out }) ∧
  (∀ (s : State) src c, s.bothStalled = false → checkCurve (s.bytes (s.reg Reg.trvCurveBlk * 64 * 4096) 65536) s.cfg.sensors = .ok c →
    ∃ t, exec (.trvCurveLoad src) s = .next t ∧ t.trv = { s.trv with loaded := some c, lastLoad := stOk } ∧
      t.reg Reg.trvCntCurveLoaded = min (2 ^ 32 - 1) (s.reg Reg.trvCntCurveLoaded + 1) ∧ (∀ a, a ≠ Reg.trvCntCurveLoaded → t.reg a = s.reg a) ∧
      t = { s with trv := t.trv, regs := t.regs, port0 := t.port0, port1 := t.port1, out := t.out }) ∧
  (∀ (s : State) src st, s.bothStalled = false → checkCurve (s.bytes (s.reg Reg.trvCurveBlk * 64 * 4096) 65536) s.cfg.sensors = .error st →
    ∃ t, exec (.trvCurveLoad src) s = .next t ∧ t.trv = { s.trv with lastLoad := st } ∧
      t.reg Reg.trvCntCurveRefused = min (2 ^ 32 - 1) (s.reg Reg.trvCntCurveRefused + 1)) ∧
  (∀ (s : State) src, exec (.trvCurveSelect src) s = .next ((if s.trv.loaded = none then s else s.policy .select).emit (.regRsp src Reg.trvCurveCtrl 0 0))) ∧
  (∀ (s : State) c, s.trv.loaded = some c → ∃ t, s.applyChange .select = t ∧ t.trv.curve = c ∧ t.trv.bank = 1 - s.trv.bank ∧
    t.trv.loaded = (if s.trv.curve.builtin = true then none else some s.trv.curve) ∧ t = { s with trv := t.trv }) ∧
  (∀ (s : State) src, exec (.trvTripClr src) s = .next ((if s.trv.tripped = true then s else
      ((s.setReg Reg.trvTripCap 0).setReg Reg.trvTripTimeLo 0).setReg Reg.trvTripTimeHi 0).emit (.regRsp src Reg.trvTripClr 0 0))) ∧
  (∀ (s : State) src v, v < 2 ^ 32 → (bitAt v 6 = 1 → bitAt v 14 = 1 → v % 64 = v / 256 % 64 → exec (.hubAtbCtrlWrite src v) s = .next (s.emit (.regRsp src Reg.hubAtbCtrl 0 0))) ∧
    ((bitAt v 6 = 0 ∨ bitAt v 14 = 0 ∨ v % 64 ≠ v / 256 % 64) → exec (.hubAtbCtrlWrite src v) s =
      .next ((s.policy (.atb (v &&& 0x7F7F))).emit (.regRsp src Reg.hubAtbCtrl 0 0)))) ∧
  (∀ (s : State) v, ∃ t, s.applyChange (.atb (v &&& 0x7F7F)) = t ∧ t.atb.line0 = (if bitAt v 6 = 1 then some (v % 64) else none) ∧
    t.atb.line1 = (if bitAt v 14 = 1 then some (v / 256 % 64) else none) ∧ t.reg Reg.hubAtbCtrl = (v &&& 0x7F7F) ∧
    (∀ a, a ≠ Reg.hubAtbCtrl → t.reg a = s.reg a) ∧ t = { s with regs := t.regs, atb := t.atb })

/-! ### Kettle: firmware, staging, rings -/

/-- FWACT of the slot that does not run, with an image that verifies, starts an activation with core 1, or is DEFERRED while a zone is at or above
THROTTLE; its start then waits 1 s after the last such cycle. Each core restarts in turn, 1, 2, 3, 0; the last one's readiness ends the
activation: its slot runs and is the directory's. A core whose last kick is a period old restarts, is held at its fourth restart within 10 s, and in an activation
rolls it back; it is ready once its memory is loaded from the copy in context 0 or, where that does not verify, from a flash image that does.
Conditions on the state and the operands alone under which exec answers a next state with the command's own effect are given for: fwact,
deferredActivationStart, activationCoreReady, watchdogExpiry, kettleCoreReady. -/
def Obligations.FirmwareActivation : Prop :=
  (∀ (s : State) (q : CoreCmd), q.opc = 0x7C → s.serving q.k = true → s.hasTicket = true → q.ctx = 0 → (s.ctx 0).st ≠ .terminated → q.mod = 0 → q.a < 2 ^ 64 → q.b < 2 ^ 64 → q.c < 2 ^ 64 →
    s.kettle.act = .idle → s.kettle.slot ≤ 1 → q.imm = 1 - s.kettle.slot →
    (s.kettle.silent = false → leAt (s.slotImage q.imm) 7 1 = s.kettle.fwMajor → s.checkFw (s.slotImage q.imm) = stOk →
      (s.anyHot = false → exec (.fwact q.issue) s = .next ((({ s.noted q stPending s.nextTicket with kettle := { s.kettle with actSlot := q.imm } } : State).startActivation
        q.imm s.nextTicket).heldUnder s q stPending s.nextTicket)) ∧
      (s.anyHot = true → exec (.fwact q.issue) s = .next ((({ s.noted q stDeferred s.nextTicket with kettle :=
        { s.kettle with actSlot := q.imm, act := .deferred q.imm s.nextTicket } } : State).count Reg.ktlCntDefer).heldUnder s q stDeferred s.nextTicket))) ∧
    (s.kettle.silent = true → exec (.fwact q.issue) s = .next ((((({ s with kettle := { s.kettle with silent := false } } : State).slotStatus q.imm
      stTimeout).fwRefused stTimeout).record (q.entry stTimeout 0)).count Reg.hubCntRejected)) ∧
    exec (.fwact { q with imm := 1 - q.imm }.issue) s = .next (s.rejected { q with imm := 1 - q.imm } stIllegalState)) ∧
  (∀ (s : State) slot tk, s.kettle.cores.length = 4 → ∃ u, s.startActivation slot tk = u ∧ u.kettle.act = .running slot tk 1 ∧ (u.core 1).restarting = true ∧ (∀ k, k ≠ 1 → u.core k = s.core k) ∧
    u.bit Reg.ktlStatus 21 = true) ∧
  (∀ (s : State) slot tk, s.kettle.act = .deferred slot tk →
    (s.anyHot = false → s.trv.hotAt.getD 0 + 100000000 ≤ s.time → exec .deferredActivationStart s = .next (s.startActivation slot tk)) ∧
    ((s.anyHot = true ∨ s.time < s.trv.hotAt.getD 0 + 100000000) → exec .deferredActivationStart s = .next s)) ∧
  (∀ (s : State) slot tk k m, s.kettle.cores.length = 4 → s.kettle.act = .running slot tk k → (k, m) ∈ [(1, 2), (2, 3), (3, 0)] → ∃ t, exec (.activationCoreReady k) s = .next t ∧
    t.kettle.act = .running slot tk m ∧ (t.core k).running = true ∧ (t.core k).restarting = false ∧ (t.core m).restarting = true ∧ t.kettle.slot = s.kettle.slot ∧
    (∀ j, j ≠ k → j ≠ m → t.core j = s.core j)) ∧
  (∀ (s : State) slot tk, s.kettle.act = .running slot tk 0 → (∀ n, (s.ring n).taken = []) → ∃ t, exec (.activationCoreReady 0) s = .next t ∧ t.kettle.act = .idle ∧
    t.kettle.actLast = stOk ∧ t.kettle.slot = slot ∧ t.kettle.dirActive = slot ∧ t.kettle.fwMajor = leAt (s.slotImage slot) 7 1 ∧
    t.kettle.pub = slice (s.slotImage slot) 0x40 96 ∧ t.reg Reg.ktlCntFwact = min (2 ^ 32 - 1) (s.reg Reg.ktlCntFwact + 1)) ∧
  (∀ (s : State) k kick, s.kettle.cores.length = 4 → s.wdogOver k kick = true →
    ((∀ slot tk m, s.kettle.act ≠ .running slot tk m) → ((s.core k).recent s.time).length < 3 → ∃ t, exec (.watchdogExpiry k kick) s = .next t ∧ (∀ j, j ≠ k → t.core j = s.core j) ∧
      (t.core k).restarts = (s.core k).restarts.filter (fun x => decide (s.time < x + 1000000000)) ++ [s.time] ∧
      (t.core k).restarting = true ∧ (t.core k).held = false ∧ t.bit Reg.ktlStatus (20 + k) = true ∧
        t.reg Reg.ktlCntRestart = min (2 ^ 32 - 1) (s.reg Reg.ktlCntRestart + 1)) ∧
    ((∀ slot tk m, s.kettle.act ≠ .running slot tk m) → 3 ≤ ((s.core k).recent s.time).length → ∃ t, exec (.watchdogExpiry k kick) s = .next t ∧ (∀ j, j ≠ k → t.core j = s.core j) ∧
      (t.core k).held = true ∧ (t.core k).running = false) ∧
    (∀ slot tk m, s.kettle.act = .running slot tk m → ∃ t, exec (.watchdogExpiry k kick) s = .next t ∧ t.kettle.act = .idle ∧ t.kettle.actLast = stHwFault ∧
      t.kettle.slot = s.kettle.slot ∧ (∀ j, j = k ∨ j ∈ actDone m → (t.core j).restarting = true ∨ (t.core j).held = true))) ∧
  (∀ (s : State) k kick, (s.wdogOver k kick = true ↔ k < 4 ∧ (s.core k).running = true ∧ (s.core k).held = false ∧ (s.core k).halted = false ∧ (s.core k).upAt ≤ kick ∧
      s.wdogPeriod kick ≤ (s.core k).counted kick s.time) ∧
    (s.wdogOver k kick = false → exec (.watchdogExpiry k kick) s = .next s)) ∧
  (∀ (s : State) k copy, k ≠ 0 → k < 4 → s.kettle.cores.length = 4 → s.kettle.act = .idle → (s.core k).restarting = true → (s.core k).held = false → (∀ n, (s.ring n).taken = []) →
    (s.copyGood copy = true ∨ s.checkFw (s.slotImage s.kettle.slot) = stOk → ∃ t, exec (.kettleCoreReady k copy) s = .next t ∧ (t.core k).running = true ∧
      (t.core k).restarting = false ∧ (∀ j, j ≠ k → t.core j = s.core j) ∧ (∀ a, a ≠ Reg.hubCntBlkVerified → t.reg a = s.reg a) ∧
      t = { s with kettle := t.kettle, regs := t.regs }) ∧
    (∀ st, s.copyGood copy = false → s.checkFw (s.slotImage s.kettle.slot) = st → st ≠ stOk → ∃ t, exec (.kettleCoreReady k copy) s = .next t ∧ (∀ j, t.core j = s.core j) ∧
      t.reg Reg.ktlCntRefused = min (2 ^ 32 - 1) (s.reg Reg.ktlCntRefused + 1) ∧ t = { s with kettle := t.kettle, regs := t.regs })) ∧
  (∀ (s : State) k copy, (s.core k).restarting = false → exec (.kettleCoreReady k copy) s = .next s)

/-- Staging: the registers and KIND 0x85 start one, BUSY while one runs; when it is done the image is written to the slot that does not run, once verified both in memory
and as read back, and LAST holds its status. RUN in stage 0x2 after a failed boot, or while Kettle 0 is held, runs the image itself.
Conditions on the state and the operands alone under which exec answers a next state with the command's own effect are given for: ktlStageGoStage,
ktlStageGoRun, stageFirmware, stagingDone. -/
def Obligations.FirmwareStaging : Prop :=
  (∀ (s : State) src, s.kettle.staging = none → s.kettle.act = .idle → s.coreUp 0 = true → ∃ t, exec (.ktlStageGoStage src) s = .next t ∧
    t.kettle = { s.kettle with staging := some { blk := s.reg Reg.ktlStageBlk * 64, len := s.reg Reg.ktlStageLen % 2 ^ 23 } } ∧
    t = { s with kettle := t.kettle, regs := t.regs, port0 := t.port0, port1 := t.port1, out := s.out ++ [.regRsp src Reg.ktlStageGo 0 0] }) ∧
  (∀ (s : State) src, s.kettle.staging ≠ none →
    exec (.ktlStageGoStage src) s = .next ({ s with kettle := { s.kettle with stageLast := stBusy } }.emit (.regRsp src Reg.ktlStageGo 0 0)) ∧
    exec (.ktlStageGoRun src) s = .next ({ s with kettle := { s.kettle with stageLast := stBusy } }.emit (.regRsp src Reg.ktlStageGo 0 0))) ∧
  (∀ (s : State) src, s.kettle.staging = none → ((s.bring.stage ≠ 2 ∨ s.kettle.bootStage ≠ 4) ∧ (s.core 0).held = false) →
    exec (.ktlStageGoRun src) s = .next (s.emit (.regRsp src Reg.ktlStageGo 0 0))) ∧
  (∀ (s : State) src img, s.kettle.staging = none → s.bring.stage = 2 → s.kettle.bootStage = 4 → img = s.bytes (s.reg Reg.ktlStageBlk * 64 * 4096) (s.reg Reg.ktlStageLen % 2 ^ 23) →
    s.checkFw img = stOk → (∀ n, (s.ring n).taken = []) → ∃ t, exec (.ktlStageGoRun src) s = .next t ∧ t.kettle.bootStage = 5 ∧ t.kettle.stageLast = stOk ∧
      t.kettle.slot = s.kettle.slot ∧ t.kettle.fwMajor = leAt img 7 1 ∧ (∀ c ∈ t.kettle.cores, c.running = true ∧ c.held = false ∧ c.restarting = false) ∧ t.bring.stage = 3) ∧
  (∀ (s : State) n index (x : Taken), s.taken n index = some x → s.coreUp 0 = true → x.handed = none → x.served = false → x.ran = false → x.final = none →
    x.index = index → x.e.kind = 0x85 → x.e.issued < 16 → x.e.imm < 2 ^ 32 → s.kettle.staging = none →
    (s.kettle.act = .idle → ∃ t, exec (.stageFirmware { by_ := .ring n index, mod := x.e.issued, imm := x.e.imm }) s = .next t ∧
      t.kettle = { s.kettle with staging := some { blk := x.e.a0, len := x.e.a1, rewrite := x.e.a2 % 2 == 1, ring := some (n, index) } } ∧
      t = { s with kettle := t.kettle, regs := t.regs, port0 := t.port0, port1 := t.port1 }) ∧
    (s.kettle.act ≠ .idle → exec (.stageFirmware { by_ := .ring n index, mod := x.e.issued, imm := x.e.imm }) s = .next (s.finishRecord n x stIllegalState 0))) ∧
  (∀ (s : State) (g : Staging) img, s.kettle.staging = some g → g.ring = none → s.bothStalled = false → s.kettle.slot ≤ 1 →
    (s.checkFw (s.bytes (g.blk * 4096) (min g.len 4194320)) = stOk → s.checkFw img = stOk → ∃ t, exec (.stagingDone (some img)) s = .next t ∧ t.kettle.staging = none ∧
      t.kettle.stageLast = stOk ∧ t.fwSlot (1 - s.kettle.slot) = { image := some img, status := stOk } ∧ t.fwSlot s.kettle.slot = s.fwSlot s.kettle.slot ∧
      t.kettle.dirActive = (if g.rewrite = true then 1 - s.kettle.slot else s.kettle.dirActive) ∧ t.kettle.slot = s.kettle.slot ∧
      t = { s with kettle := t.kettle, port0 := t.port0, port1 := t.port1, regs := t.regs, cfl := t.cfl, teardowns := t.teardowns }) ∧
    (∀ st, s.checkFw (s.bytes (g.blk * 4096) (min g.len 4194320)) = st → st ≠ stOk → st ≠ stVersionMismatch → ∃ t, exec (.stagingDone (some img)) s = .next t ∧
      t.kettle = { s.kettle with staging := none, stageLast := st } ∧ t.reg Reg.ktlCntRefused = min (2 ^ 32 - 1) (s.reg Reg.ktlCntRefused + 1) ∧
      (∀ a, a ∉ [Reg.ktlCntRefused, Reg.hubCntCflPass, Reg.hubCntCflDrop, Reg.hubCntCflLate] → t.reg a = s.reg a) ∧
      t = { s with kettle := t.kettle, regs := t.regs, port0 := t.port0, port1 := t.port1, cfl := t.cfl, teardowns := t.teardowns })) ∧
  (∀ (s : State) b, s.kettle.staging = none → exec (.stagingDone b) s = .next s)

/-- A submission doorbell sets its ring's TAIL and a completion doorbell its CONS, modulo 2^16, unless that would pass the ring's entries or its PROD:
then the write is counted in KTL_CNT_DBERR and ignored. Setting EN zeroes the four indices, while no taken entry lacks its completion; LOG2 changes only while EN is 0.
Conditions on the state and the operands alone under which exec answers a next state with the command's own effect are given for: ktlDbWrite,
ktlCdbWrite, ktlRingEnable. -/
def Obligations.DoorbellsAndRingEnable : Prop :=
  (∀ (s : State) src n v, n < 16 →
    ((v % 2 ^ 16 + 2 ^ 16 - (s.ring n).head) % 2 ^ 16 ≤ (s.ring n).size →
      exec (.ktlDbWrite src n v) s = .next ((s.setRing n { s.ring n with tail := v % 2 ^ 16 }).emit (.regRsp src (0x50100 + 8 * n) 0 0))) ∧
    ((s.ring n).size < (v % 2 ^ 16 + 2 ^ 16 - (s.ring n).head) % 2 ^ 16 →
      exec (.ktlDbWrite src n v) s = .next ((s.count Reg.ktlCntDberr).emit (.regRsp src (0x50100 + 8 * n) 0 0)))) ∧
  (∀ (s : State) src n v, n < 16 →
    ((v % 2 ^ 16 + 2 ^ 16 - (s.ring n).cons) % 2 ^ 16 ≤ ((s.ring n).prod + 2 ^ 16 - (s.ring n).cons) % 2 ^ 16 →
      exec (.ktlCdbWrite src n v) s = .next ((s.setRing n { s.ring n with cons := v % 2 ^ 16 }).emit (.regRsp src (0x50104 + 8 * n) 0 0))) ∧
    (((s.ring n).prod + 2 ^ 16 - (s.ring n).cons) % 2 ^ 16 < (v % 2 ^ 16 + 2 ^ 16 - (s.ring n).cons) % 2 ^ 16 →
      exec (.ktlCdbWrite src n v) s = .next ((s.count Reg.ktlCntDberr).emit (.regRsp src (0x50104 + 8 * n) 0 0)))) ∧
  (∀ (s : State) src v n, n = s.banked src .ringSel % 16 → ∃ t, exec (.ktlRingEnable src v) s = .next t ∧ t.out = s.out ++ [.regRsp src 0x50028 0 0] ∧
    (∀ m, m ≠ n → t.ring m = s.ring m) ∧ t = { s with rings := t.rings, out := t.out } ∧
    ((s.ring n).en = true → t.ring n = { s.ring n with en := bitAt v 31 == 1 }) ∧
    ((s.ring n).en = false → bitAt v 31 = 0 → t.ring n = { s.ring n with log2 := v % 16 }) ∧
    ((s.ring n).en = false → bitAt v 31 = 1 → (s.ring n).taken = [] → t.ring n = { s.ring n with en := true, log2 := v % 16, head := 0, tail := 0, prod := 0, cons := 0 }) ∧
    ((s.ring n).en = false → bitAt v 31 = 1 → (s.ring n).taken ≠ [] → t.ring n = s.ring n))

/-- The ring whose turn it is gives its next entry: HEAD advances, a completion slot is reserved, and the entry is refused under R279 or taken, and handed to the core that owns its
KIND. The owner's return makes it Kettle 0's again, the thresholds of KIND 0x40 lowered at most. Submit program takes a well-formed program into the
run queue under a free save record, and ends another, its parameter block sealed, with the status of the first row of R246 that
it fails.
Conditions on the state and the operands alone under which exec answers a next state with the command's own effect are given for: ringEntryTake,
ownerReturn, submitProgram. -/
def Obligations.RingEntriesAndPrograms : Prop :=
  (∀ (s : State) n, s.ringsServed = true → s.ringTurn = some n → s.bothStalled = false → ∃ (t : State) (x : Taken), exec (.ringEntryTake n) s = .next t ∧
    (t.ring n).head = ((s.ring n).head + 1) % 2 ^ 16 ∧ (t.ring n).tail = (s.ring n).tail ∧ (∀ m, m ≠ n → t.ring m = s.ring m) ∧
    (s.entryRefused n (s.bytes ((s.ring n).entryAt (s.ring n).head) 64) = none → (s.ring n).taken = [] → (t.ring n).taken = [x] ∧ x.index = (s.ring n).head ∧
      x.e = parseEntry (s.bytes ((s.ring n).entryAt (s.ring n).head) 64) ∧ x.handed = (if ownerOf x.e.kind = 0 then none else some (ownerOf x.e.kind)) ∧
      (t.ring n).reserved = (s.ring n).reserved + 1 ∧ t.reg Reg.ktlCntTaken = min (2 ^ 32 - 1) (s.reg Reg.ktlCntTaken + 1)) ∧
    (∀ st, s.entryRefused n (s.bytes ((s.ring n).entryAt (s.ring n).head) 64) = some st → (s.ring n).taken = [] →
      (t.ring n).taken = [] ∧ (t.ring n).prod = ((s.ring n).prod + 1) % 2 ^ 16 ∧ t.reg Reg.ktlCntRefused = min (2 ^ 32 - 1) (s.reg Reg.ktlCntRefused + 1) ∧
      (∃ e ∈ t.journal, e.type = jFinished ∧ e.status = st))) ∧
  (∀ (s : State) n, (s.ringsServed = false ∨ s.ringTurn ≠ some n) → exec (.ringEntryTake n) s = .next s) ∧
  (∀ (s : State) n index (x : Taken) k e, s.taken n index = some x → x.handed = some k → s.coreUp k = true → s.coreUp 0 = true → x.final = none → returnOk x.e e = true →
    exec (.ownerReturn n index e) s = .next (s.onTaken n index (fun y => { y with handed := none, e := e }))) ∧
  (∀ (s : State) n index (x : Taken) e, s.taken n index = some x → (x.handed = none ∨ returnOk x.e e = false) → exec (.ownerReturn n index e) s = .next s) ∧
  (∀ (s : State) n index (x : Taken) h, s.taken n index = some x → s.coreUp 0 = true → x.handed = none → x.served = false → x.ran = false → x.final = none →
    x.index = index → x.e.kind = 0x80 → x.e.issued < 16 → x.e.imm < 2 ^ 32 → h = s.bytes (x.e.a0 % 2 ^ 38 * 4096) 64 → (leAt h 6 2 ≠ 0 ∨ n = 0) →
    (s.submitCheck x.e.a0 h = stOk → s.progsFull (leAt h 6 2) = false → s.bothStalled = false →
      s.progBlockOk (leAt h 6 2) (leAt h 8 2) x.e.a0 = true → s.progBlockOk (leAt h 6 2) (leAt h 8 2) (leAt h 16 8) = true → s.memOn = false →
      ∃ t, exec (.submitProgram { by_ := .ring n index, mod := x.e.issued, imm := x.e.imm }) s = .next t ∧ t.program s.freeProgram = some (progOf n x h) ∧
        t.runQ = s.runQ ++ [s.freeProgram] ∧ (∀ id, id ≠ s.freeProgram → t.program id = s.program id) ∧
        t.reg Reg.hubCntPrograms = min (2 ^ 32 - 1) (s.reg Reg.hubCntPrograms + 1) ∧ (∀ a, a ≠ Reg.hubCntPrograms → t.reg a = s.reg a) ∧
        t = { s with regs := t.regs, port0 := t.port0, port1 := t.port1, progs := t.progs, runQ := t.runQ, rings := t.rings, jseq := t.jseq, journal := t.journal }) ∧
    (∀ st, s.submitCheck x.e.a0 h = st → st ≠ stOk →
      exec (.submitProgram { by_ := .ring n index, mod := x.e.issued, imm := x.e.imm }) s = .next ((s.progFailed.writeSealed (progOf n x h).param
        (s.block (progOf n x h).param) (progOf n x h).gen 0x3E .record).endEntry (progOf n x h) 0 st)) ∧
    (s.submitCheck x.e.a0 h = stOk → s.progsFull (leAt h 6 2) = true →
      exec (.submitProgram { by_ := .ring n index, mod := x.e.issued, imm := x.e.imm }) s = .next (((s.count Reg.hubCntRejected).writeSealed (progOf n x h).param
        (s.block (progOf n x h).param) (progOf n x h).gen 0x3E .record).endEntry (progOf n x h) 0 stFull)))

/-- The composite commands of Kettle 0: a record that does not fit its block is BAD_OPERAND, and else the record has R281's length and the entry completes with
OK; without CLEAR they change no register but HUB_CNT_CMD. Lane service of lanes that are all in service completes at once with RESULT 0, and of fenced ones
waits for their self-tests.
Conditions on the state and the operands alone under which exec answers a next state with the command's own effect are given for: readSealStatus,
readCoverage, readSequencerStatus, laneService. -/
def Obligations.CompositeCommands : Prop :=
  ∀ (s : State) n index (x : Taken) (i : Issue), s.taken n index = some x → s.coreUp 0 = true → x.handed = none → x.served = false → x.ran = false → x.final = none →
    x.index = index → x.e.issued < 16 → x.e.imm < 2 ^ 32 → i = { by_ := .ring n index, mod := x.e.issued, imm := x.e.imm } →
    (x.e.kind = 0x81 → x.fits 120 = false → exec (.readSealStatus i) s = .next (s.finishRecord n x stBadOperand 0)) ∧
    (x.e.kind = 0x82 → x.fits 104 = false → exec (.readCoverage i) s = .next (s.finishRecord n x stBadOperand 0)) ∧
    (x.e.kind = 0x84 → x.fits 292 = false → exec (.readSequencerStatus i) s = .next (s.finishRecord n x stBadOperand 0)) ∧
    (x.e.kind = 0x81 → x.e.flags % 2 = 0 → x.fits 120 = true → ∃ (u : State) (b : Bytes), exec (.readSealStatus i) s = .next (u.compositeEnd n x b stOk) ∧
      b = (regRun 0x200 11 ++ regRun 0x240 19).flatMap (fun a => toLe 4 (s.regVal (.core 0) a)) ∧ (∀ a, a ≠ Reg.hubCntCmd → u.reg a = s.reg a) ∧ u = { s with regs := u.regs }) ∧
    (x.e.kind = 0x82 → x.e.flags % 2 = 0 → x.fits 104 = true → ∃ (u : State) (b : Bytes), exec (.readCoverage i) s = .next (u.compositeEnd n x b stOk) ∧
      b = toLe 4 (s.regVal (.core 0) Reg.hubSieveBound) ++ toLe 4 (s.regVal (.core 0) Reg.hubSieveDeficit) ++ s.arbRecord ∧
      (∀ a, a ≠ Reg.hubCntCmd → u.reg a = s.reg a) ∧ u = { s with regs := u.regs }) ∧
    (x.e.kind = 0x84 → (s.ctx x.e.ctx).st ≠ .terminated → x.fits 292 = true → ∃ (u : State) (b : Bytes), exec (.readSequencerStatus i) s = .next (u.compositeEnd n x b stOk) ∧
      b.length = 292 ∧ leAt b 0 4 = s.regVal (.core 0) Reg.hubSisStatus) ∧
    (x.e.kind = 0x83 → (s.ctx x.e.ctx).st ≠ .terminated → s.memOn = false →
      ((∀ l, l < 4 → (s.lane l).fenced = false) → ∃ u, exec (.laneService i) s = .next u ∧ u.lanes = s.lanes ∧ u.queue = s.queue ∧
        (u.ring n).taken = (s.ring n).taken.filter (fun y => y.index != index) ∧ (∃ e ∈ u.journal, e.type = jFinished ∧ e.status = stOk ∧ e.a = 0)) ∧
      (x.e.a0 = 1 → (s.lane 0).fenced = true → ∃ u, exec (.laneService i) s = .next u ∧ u.lanes = s.lanes ∧ (∃ j ∈ u.queue, j.kind = .selfTest ∧ j.lane = 0) ∧
        u.laneSvc = s.laneSvc ++ [{ ring := n, index := index, lanes := [0] }]))

/-! ### Mortar and Sieve registers, counters -/

/-- MTR_LANE_CTRL: FENCE of an idle lane in service fences it, a busy one when its job ends; SELFTEST queues a self-test of each fenced lane; REINSTATE returns a
fenced lane whose self-test passed, and is counted in MTR_CNT_LANE_FAULT and ignored for another. The Sieve seed is formed of the staged low half of the source and
the high half; HUB_SIEVE_CLR zeroes ESC_TOTAL, the deficit and t, and with t the bound.
Conditions on the state and the operands alone under which exec answers a next state with the command's own effect are given for: mtrLaneCtrlFence,
mtrLaneCtrlSelftest, mtrLaneCtrlReinstate, hubSieveSeedLoWrite, hubSieveSeedHiWrite, hubSieveClr. -/
def Obligations.LaneControlAndSieveSeed : Prop :=
  (∀ (s : State) src l, l < 4 → s.lanes.length = 4 → (s.lane l).fenced = false → (s.lane l).job ≠ none → ∃ t, exec (.mtrLaneCtrlFence src (2 ^ l)) s = .next t ∧
    t.lane l = { s.lane l with fencePending := true } ∧ (∀ j, j ≠ l → t.lane j = s.lane j) ∧ t = { s with lanes := t.lanes, out := s.out ++ [.regRsp src Reg.mtrLaneCtrl 0 0] }) ∧
  (∀ (s : State) src l, l < 4 → s.lanes.length = 4 → (s.lane l).fenced = false → (s.lane l).job = none → ∃ t, exec (.mtrLaneCtrlFence src (2 ^ l)) s = .next t ∧
    (t.lane l).fenced = true ∧ (t.lane l).tested = false ∧ (∀ j, j ≠ l → t.lane j = s.lane j)) ∧
  (∀ (s : State) src m, (∀ l, l < 4 → (s.lane l).fenced = true) → exec (.mtrLaneCtrlFence src m) s = .next (s.emit (.regRsp src Reg.mtrLaneCtrl 0 0))) ∧
  (∀ (s : State) src l, l < 4 → (s.lane l).fenced = true → exec (.mtrLaneCtrlSelftest src (2 ^ l)) s =
    .next { s with nextJob := s.nextJob + 1, queue := enqueue { id := s.nextJob, kind := .selfTest, lane := l, reported := s.time } s.queue,
                   out := s.out ++ [.regRsp src Reg.mtrLaneCtrl 0 0] }) ∧
  (∀ (s : State) src m, (∀ l, l < 4 → (s.lane l).fenced = false) →
    exec (.mtrLaneCtrlSelftest src m) s = .next (s.emit (.regRsp src Reg.mtrLaneCtrl 0 0)) ∧
    exec (.mtrLaneCtrlReinstate src m) s = .next (s.emit (.regRsp src Reg.mtrLaneCtrl 0 0))) ∧
  (∀ (s : State) src l, l < 4 → s.lanes.length = 4 → (s.lane l).fenced = true →
    ((s.lane l).tested = true → ∃ t, exec (.mtrLaneCtrlReinstate src (2 ^ l)) s = .next t ∧ t.lane l = { s.lane l with fenced := false, tested := false } ∧
      (∀ j, j ≠ l → t.lane j = s.lane j) ∧ t = { s with lanes := t.lanes, out := s.out ++ [.regRsp src Reg.mtrLaneCtrl 0 0] }) ∧
    ((s.lane l).tested = false → exec (.mtrLaneCtrlReinstate src (2 ^ l)) s = .next ((s.count Reg.mtrCntLaneFault).emit (.regRsp src Reg.mtrLaneCtrl 0 0)))) ∧
  (∀ (s : State) src lo hi, ∃ t u, exec (.hubSieveSeedLoWrite src lo) s = .next t ∧ t.seed = s.seed ∧ t.banked src .seedLo = lo % 2 ^ 32 ∧ t = { s with sel := t.sel, out := t.out } ∧
    exec (.hubSieveSeedHiWrite src hi) t = .next u ∧ u.seed = hi % 2 ^ 32 * 2 ^ 32 + lo % 2 ^ 32 ∧ u.bring.seedWritten = true ∧
    u = { t with seed := u.seed, bring := u.bring, out := u.out }) ∧
  (∀ (s : State) src, ∃ t, exec (.hubSieveClr src) s = .next t ∧ t.escTotal = 0 ∧ t.sieveT = s.time ∧ t.reg Reg.hubSieveDeficit = 0 ∧
    t.reg Reg.hubSieveBound = 0 ∧ (∀ a, a ≠ Reg.hubSieveDeficit → a ≠ Reg.hubSieveBound → t.reg a = s.reg a) ∧
    t = { s with regs := t.regs, escTotal := 0, sieveT := s.time, boundAt := s.time, out := t.out })

/-- Writing `v` by command `i` to the clear register `a` answers: bit 0 zeroes the `n` counters from `first` on, every other bit is reserved, and nothing else
changes. -/
def clearsRun (i : Instr) (s : State) (src : Src) (v a first n : Nat) : Prop :=
  ∃ t, exec i s = .next t ∧ (v % 2 = 1 → ∀ b, t.reg b = if first ≤ b ∧ b < first + 4 * n ∧ b % 4 = 0 then 0 else s.reg b) ∧
    (v % 2 = 0 → ∀ b, t.reg b = s.reg b) ∧ t = { s with regs := t.regs, out := s.out ++ [.regRsp src a 0 0] }

/-- R183: writing 1 to bit 0 of HUB_SEAL_CNT_CLR sets every counter of R182 to zero, every other bit is reserved, and nothing else changes; and so for each clear
register with its layout, COL_CNT_CLR also clearing every COL_CNT_GLITCH, and a Ladle's only where its tile can be reached.
Conditions on the state and the operands alone under which exec answers a next state with the command's own effect are given for: hubSealCntClr,
mtrCntClr, lidCntClr, sckCntClr, hubSisCntClr, ktlCntClr, hubJrnlCntClr, hubPairCntClr, hubCkptCntClr, hubFtCntClr, hubRcvCntClr, trvCntClr,
hubPortCntClr, hubBringCntClr, colCntClr, ldlCntClr. -/
def Obligations.CounterClears : Prop :=
  (∀ (s : State) src v,
    clearsRun (.hubSealCntClr src v) s src v Reg.hubSealCntClr 0x240 19 ∧
    clearsRun (.mtrCntClr src v) s src v Reg.mtrCntClr 0x40100 18 ∧
    clearsRun (.lidCntClr src v) s src v Reg.lidCntClr 0x30100 11 ∧
    clearsRun (.sckCntClr src v) s src v Reg.sckCntClr 0x60100 3 ∧
    clearsRun (.hubSisCntClr src v) s src v Reg.hubSisCntClr 0x440 8 ∧
    clearsRun (.ktlCntClr src v) s src v Reg.ktlCntClr 0x50080 6 ∧
    clearsRun (.hubJrnlCntClr src v) s src v Reg.hubJrnlCntClr 0x510 1 ∧
    clearsRun (.hubPairCntClr src v) s src v Reg.hubPairCntClr 0x640 5 ∧
    clearsRun (.hubCkptCntClr src v) s src v Reg.hubCkptCntClr 0x800 8 ∧
    clearsRun (.hubFtCntClr src v) s src v Reg.hubFtCntClr 0x940 12 ∧
    clearsRun (.hubRcvCntClr src v) s src v Reg.hubRcvCntClr 0xC40 12 ∧
    clearsRun (.trvCntClr src v) s src v Reg.trvCntClr 0x20100 10 ∧
    clearsRun (.hubPortCntClr src v) s src v Reg.hubPortCntClr 0xD40 6 ∧
    clearsRun (.hubBringCntClr src v) s src v Reg.hubBringCntClr 0xE40 7) ∧
  (∀ src v (s : State), ∃ t, exec (.colCntClr src v) s = .next t ∧
    (v % 2 = 1 → ∀ a, t.reg a = if (0x10100 ≤ a ∧ a < 0x1011C ∧ a % 4 = 0) ∨ a ∈ (List.range 17).map (fun k => atStn k Reg.colCntGlitch) then 0 else s.reg a) ∧ (v % 2 = 0 → ∀ a, t.reg a = s.reg a) ∧
    t = { s with regs := t.regs, out := s.out ++ [.regRsp src Reg.colCntClr 0 0] }) ∧
  (∀ src p v (s : State), p < 128 → s.respCode (atTile p Reg.ldlCntClr) = 0 → ∃ t, exec (.ldlCntClr src p v) s = .next t ∧
    (v % 2 = 1 → ∀ a, t.reg a = if atTile p Reg.ldlCntOps ≤ a ∧ a < atTile p Reg.ldlCntOps + 108 ∧ a % 4 = 0 then 0 else s.reg a) ∧ (v % 2 = 0 → ∀ a, t.reg a = s.reg a) ∧
    t = { s with regs := t.regs, out := s.out ++ [.regRsp src (atTile p Reg.ldlCntClr) 0 0] }) ∧
  (∀ src p v (s : State), s.respCode (atTile p Reg.ldlCntClr) ≠ 0 →
    exec (.ldlCntClr src p v) s = .next ((s.count Reg.hubCntRegErr).emit (.regRsp src (atTile p Reg.ldlCntClr) 0 (s.respCode (atTile p Reg.ldlCntClr)))))

/-! ### Ports -/

/-- The responses of a memory port, each through the completion filter: what a READ returned is the block's view of memory; UE, NOMATCH and DECODE are counted and an access without an
outcome of its own ends with that; one whose completion the filter drops has no other effect; a response to no outstanding request is late. A request times out 2 µs after its issue and not
before, and its identifier is held until its response or for 1 ms. With an identifier free again, the oldest request that waits for one is issued (the model's choice, log entry 125).
Conditions on the state and the operands alone under which exec answers a next state with the command's own effect are given for: memResponse,
memRequestTimeout, memIdHoldExpiry. -/
def Obligations.MemoryResponses : Prop :=
  (∀ (s : State) k id st data v, s.memReq k id = none → k < 2 → exec (.memResponse k id st data v) s = .next (((s.releaseId k id).refill k).count Reg.hubCntMemLate)) ∧
  (∀ (s : State) k id, k < 2 → ∃ t, s.releaseId k id = t ∧ (t.memPort k).held = (s.memPort k).held.filter (fun x => x.id != id) ∧ (t.memPort k).reqs = (s.memPort k).reqs ∧
    (t.memPort k).waits = (s.memPort k).waits ∧ t.memPort (1 - k) = s.memPort (1 - k) ∧ t = { s with port0 := t.port0, port1 := t.port1 }) ∧
  (∀ (s : State) k, k < 2 → s.memOn = false → ((s.memPort k).waits = [] → s.refill k = s) ∧
    (∀ r i, (s.memPort k).waits = [r] → (s.memPort k).freeId = some i →
      s.refill k = s.setMemPort k { s.memPort k with reqs := (s.memPort k).reqs ++ [{ r with id := i, since := s.time }], waits := [] })) ∧
  (∀ (s : State) k id r data v, s.memReq k id = some r → (r.ctx = 0 ∨ ((s.ctx r.ctx).st = .live ∧ (s.ctx r.ctx).gen = r.gen)) → r.op = .read →
    (∀ b, r.acc ≠ .reseal b) → (∀ t p, r.acc ≠ .query t p) → (s.endReq k id).writing r.blk = false → data.length = r.len * 64 → v < 2 ^ 64 →
    ∃ t : State, exec (.memResponse k id .ok data v) s = .next (t.refill k) ∧ t.bytes (r.blk * 4096 + r.line * 64) (r.len * 64) = data ∧ t.sbOf r.blk = v ∧
      (∀ a, (a < r.blk * 4096 + r.line * 64 ∨ r.blk * 4096 + r.line * 64 + r.len * 64 ≤ a) → t.bytes a 1 = s.bytes a 1) ∧ (∀ b, b ≠ r.blk → t.sbOf b = s.sbOf b) ∧ t.memReq k id = none ∧
      (∀ a, a ≠ Reg.hubCntCflPass → t.reg a = s.reg a) ∧ t = { s with mem := t.mem, sb := t.sb, port0 := t.port0, port1 := t.port1, regs := t.regs, cfl := t.cfl }) ∧
  (∀ (s : State) k id r data v, s.memReq k id = some r → (s.endReq k id).writing r.blk = true → r.op = .read → (∀ b, r.acc ≠ .reseal b) → (∀ t p, r.acc ≠ .query t p) →
    exec (.memResponse k id .ok data v) s = .next (((s.endReq k id).cflComplete r.ctx r.gen).1.refill k)) ∧
  (∀ (s : State) k id r data v st, s.memReq k id = some r → r.ctx ≠ 0 → ((s.ctx r.ctx).st ≠ .live ∨ (s.ctx r.ctx).gen ≠ r.gen) →
    exec (.memResponse k id st data v) s = .next ((((s.endReq k id).countStatusOf st).cflComplete r.ctx r.gen).1.refill k)) ∧
  (∀ (s : State) k id r data v, s.memReq k id = some r → r.acc = .record →
    exec (.memResponse k id .ue data v) s = .next ((((s.endReq k id).count Reg.hubCntMemUe).cflComplete r.ctx r.gen).1.refill k) ∧
    exec (.memResponse k id .decode data v) s = .next ((((s.endReq k id).count Reg.hubCntMemDecode).cflComplete r.ctx r.gen).1.refill k) ∧
    (r.op ≠ .sbCwrite → exec (.memResponse k id .nomatch data v) s = .next ((((s.endReq k id).count Reg.hubCntMemNomatch).cflComplete r.ctx r.gen).1.refill k))) ∧
  (∀ (s : State) k id r data v b, s.memReq k id = some r → r.acc = .poison b → r.ctx = 0 → ∃ t : State, exec (.memResponse k id .nomatch data v) s = .next (t.refill k) ∧
    t.bit Reg.hubSealStatus 7 = true ∧ t.reg Reg.hubCntRewriteDrop = min (2 ^ 32 - 1) (s.reg Reg.hubCntRewriteDrop + 1)) ∧
  (∀ (s : State) k id r, s.memReq k id = some r →
    (s.time < r.since + 200 → exec (.memRequestTimeout k id) s = .next s) ∧
    (r.since + 200 ≤ s.time → r.acc = .record →
      exec (.memRequestTimeout k id) s = .next ((((s.endReq k id).holdId k id).count Reg.hubCntMemTimeout).cflComplete r.ctx r.gen).1)) ∧
  (∀ (s : State) k id, s.memReq k id = none → exec (.memRequestTimeout k id) s = .next s) ∧
  (∀ (s : State) k id, (∀ h ∈ (s.memPort k).held, h.id = id → s.time < h.since + 100000) → exec (.memIdHoldExpiry k id) s = .next s) ∧
  (∀ (s : State) k id h, k < 2 → h ∈ (s.memPort k).held → h.id = id → h.since + 100000 ≤ s.time → exec (.memIdHoldExpiry k id) s = .next ((s.releaseId k id).refill k))

/-- The TAP and the debug module. IDCODE shows version 3, part 0x005A and the JEDEC code; BYPASS captures 0. DEBUG_LOCK refuses the debug module's registers, the harts, the analogue
test bus and every register access but the reads it names. Without the lock halt, resume, step and trigger act on their core, and a system bus access is one of the register map.
Conditions on the state and the operands alone under which exec answers a next state with the command's own effect are given for: idcode, bypass,
dtmcs, dmi, atb, debugHalt, debugResume, debugSingleStep, debugTriggerHit, debugSystemBusAccess. -/
def Obligations.TapAndDebug : Prop :=
  (∀ s : State, ∃ t, exec .idcode s = .next t ∧ t.tapIr = 1 ∧ t.out = s.out ++ [.tdo (0x3005A001 + s.cfg.jedec % 2 ^ 11 * 2) false] ∧ t = { s with tapIr := 1, out := t.out }) ∧
  (∀ s : State, ∃ t, exec .bypass s = .next t ∧ t.tapIr = 31 ∧ t.out = s.out ++ [.tdo 0 false] ∧ t = { s with tapIr := 31, out := t.out }) ∧
  (∀ s : State, ∃ t v, exec .dtmcs s = .next t ∧ t.tapIr = 16 ∧ t.out = s.out ++ [.tdo v false] ∧ t = { s with tapIr := 16, free := s.free + 1, out := t.out }) ∧
  (∀ (s : State) w, s.fuse.words[14]? = some w → w % 2 = 1 →
    (∀ a d wr, a ≠ 0x38 → a ≠ 0x39 → a ≠ 0x3C → exec (.dmi a d wr) s = .next (s.emit (.tdo 0 true))) ∧ (∀ v, exec (.atb v) s = .next (s.emit (.tdo 0 true))) ∧
    (∀ k, exec (.debugHalt k) s = .next (s.emit (.tdo 0 true)) ∧ exec (.debugResume k) s = .next (s.emit (.tdo 0 true)) ∧
      exec (.debugSingleStep k) s = .next (s.emit (.tdo 0 true)) ∧ exec (.debugTriggerHit k) s = .next s) ∧
    (∀ a v, exec (.debugSystemBusAccess a v true) s = .next (s.emit (.tdo 0 true))) ∧
    (∀ a v, lockedReadOk a = false → exec (.debugSystemBusAccess a v false) s = .next (s.emit (.tdo 0 true)))) ∧
  (∀ (s : State) a v, lockedReadOk a = true → s.respCode a = 0 →
    exec (.debugSystemBusAccess a v false) s = .next ((s.readReg .tap a).1.emit (.regRsp .tap a (s.readReg .tap a).2 0))) ∧
  (∀ (s : State) w, s.fuse.words[14]? = some w → w % 2 = 0 →
    (∀ a d, d < 2 ^ 32 → ∃ t, exec (.dmi a d true) s = .next t ∧ t.tapIr = 17 ∧ Tab.get 0 t.dm a = d ∧ (∀ b, b ≠ a → Tab.get 0 t.dm b = Tab.get 0 s.dm b) ∧
      t.out = s.out ++ [.tdo 0 false] ∧ t = { s with tapIr := 17, dm := t.dm, out := t.out }) ∧
    (∀ a d, a ∈ [0x04, 0x20, 0x21] → exec (.dmi a d false) s = .next { s with tapIr := 17, out := s.out ++ [.tdo (Tab.get 0 s.dm a) false] }) ∧
    (∀ a d, a ∉ [0x04, 0x20, 0x21] → ∃ v, exec (.dmi a d false) s = .next { s with tapIr := 17, free := s.free + 1, out := s.out ++ [.tdo v false] }) ∧
    (∀ v, exec (.atb v) s = .next ((({ s with tapIr := 18 } : State).emit (.tdo (s.regVal .tap Reg.hubAtbCtrl) false)).writeAtb (v % 2 ^ 32))) ∧
    (∀ k, k < 4 → s.kettle.cores.length = 4 →
      (∃ t, exec (.debugHalt k) s = .next t ∧ t.core k = { s.core k with halted := true, haltAt := if (s.core k).halted then (s.core k).haltAt else s.time } ∧ (∀ j, j ≠ k → t.core j = s.core j) ∧
        t = { s with kettle := { s.kettle with cores := t.kettle.cores }, out := s.out ++ [.tdo 0 false] }) ∧
      (∃ t, exec (.debugTriggerHit k) s = .next t ∧ t.core k = { s.core k with halted := true, haltAt := if (s.core k).halted then (s.core k).haltAt else s.time } ∧ (∀ j, j ≠ k → t.core j = s.core j) ∧
        t = { s with kettle := { s.kettle with cores := t.kettle.cores } }) ∧
      exec (.debugSingleStep k) s = .next (s.emit (.tdo 0 false)) ∧
      ((s.core k).halted = false → exec (.debugResume k) s = .next (s.emit (.tdo 0 false))) ∧
      ((s.core k).halted = true → (∀ n, (s.ring n).taken = []) → s.laneSvc = [] → ∃ t, exec (.debugResume k) s = .next t ∧ t.core k = { s.core k with halted := false, halts := (s.core k).halts ++ [((s.core k).haltAt, s.time)] } ∧
        (∀ j, j ≠ k → t.core j = s.core j) ∧ t = { s with kettle := { s.kettle with cores := t.kettle.cores }, out := s.out ++ [.tdo 0 false] })) ∧
    (∀ a v, s.respCode a = 0 → exec (.debugSystemBusAccess a v true) s = .next ((s.writeReg .tap a (v % 2 ^ 32)).emit (.regRsp .tap a 0 0)) ∧
      exec (.debugSystemBusAccess a v false) s = .next ((s.readReg .tap a).1.emit (.regRsp .tap a (s.readReg .tap a).2 0))))
end

