-- ==== Sys2Proof/Laws/KeepsOps.lean ====
section
/-! SUPPORT. The operations of Machine/Ops.lean keep the queue, the integration and the canonical forms. -/

namespace Sys2Proof.Machine

variable {pq : List Instr} {pg : Cfg}

/-- The queue is `q`, the integration is `g`, and memory, sideband and registers are in canonical form. -/
def Held (pq : List Instr) (pg : Cfg) (p : List Instr) (c : Cfg) (m : List Host.Cell) (b r : List (Nat × Nat)) : Prop :=
  p = pq ∧ c = pg ∧ Memory.wf m = true ∧ sidebandWf b = true ∧ regsWf r = true

/-- The same of a state. -/
def State.Keeps (pq : List Instr) (pg : Cfg) (s : State) : Prop := Held pq pg s.pending s.cfg s.mem s.sb s.regs

@[simp] theorem held_keeps (s : State) : Held pq pg s.pending s.cfg s.mem s.sb s.regs ↔ s.Keeps pq pg := Iff.rfl

@[simp] theorem keeps_mk (pending : List Instr) (cfg : Cfg) (time : Nat) (free : Nat) (out : List Out) (regs : List (Nat × Nat)) (sel : List
    (Nat × Nat)) (rwl : List Nat) (mem : List Host.Cell) (sb : List (Nat × Nat)) (port0 : Port) (port1 : Port) (stops :
    List (Nat × AirasStop)) (stnStops : List (Nat × StnStop)) (fuse : Fuse) (atb : Atb) (peer : Peer) (tapIr : Nat) (dm :
    List (Nat × Nat)) (bring : Bring) (ladles : List (Nat × Ladle)) (lidQ : List (Nat × Nat)) (answers : List (Nat × Nat ×
    Accept)) (reports : List Report) (rcps : List (Nat × RcpSlot)) (rcpLoads : List RcpLoad) (confirms : List Confirm)
    (sealQ : List SealJob) (routes : List RouteEnt) (routeQ : List Report) (lanes : List Lane) (queue : List Job) (spill :
    List Job) (arbs : List Arb) (nextJob : Nat) (turn : Nat) (seed : Nat) (models : List (Nat × Model)) (escTotal : Nat)
    (sieveT : Nat) (boundAt : Nat) (ctxs : List (Nat × Ctx)) (sck : List (Nat × SckEntry)) (lidSeq : Nat) (threads : List
    (Nat × Thread)) (progs : List (Nat × Program)) (runQ : List Nat) (lastIssued : Nat) (readySeen : List Nat) (tickets :
    List (Nat × Ticket)) (rings : List (Nat × Ring)) (laneSvc : List LaneSvc) (jseq : Nat) (journal : List JEntry)
    (jcopied : Nat) (kettle : Kettle) (fixed : Bool) (pairings : List Pairing) (provNext : Nat) (ckptQ : List CkptJob)
    (banks : List Content) (bank : Nat) (tcLoad : Option TcLoad) (tcReady : Bool) (whiskQ : List WhiskRun) (whisk : List
    WhiskRun) (nextWhisk : Nat) (testedAt : List (Nat × Nat)) (susp : List (Nat × Susp)) (halvedAt : Nat) (tileMap : List
    (Nat × Nat)) (tmapSeq : Nat) (tileStates : List (Nat × TileState)) (pendingOrder : List Nat) (stepEnded : Bool)
    (pastBounds : List Nat) (quarLast : Nat) (pairs : List (Nat × StnPair)) (capWaits : List CapWait) (capBeats : List
    CapBeat) (safe : Option Nat) (safeReset : Bool) (watched : List (Nat × Watched)) (watchDoms : List (Nat × WatchDom))
    (windowAt : Nat) (rsts : List Rst) (windows : List Window) (epochs : List (Nat × Nat)) (rstOut : List (Nat × Nat))
    (cfl : List (Nat × Nat)) (teardowns : List Teardown) (dump : Option Dump) (dumpSram : List (Nat × Nat)) (trv : Trivet) :
    (State.mk pending cfg time free out regs sel rwl mem sb port0 port1 stops stnStops fuse atb peer tapIr dm bring ladles lidQ
      answers reports rcps rcpLoads confirms sealQ routes routeQ lanes queue spill arbs nextJob turn seed models escTotal
      sieveT boundAt ctxs sck lidSeq threads progs runQ lastIssued readySeen tickets rings laneSvc jseq journal jcopied
      kettle fixed pairings provNext ckptQ banks bank tcLoad tcReady whiskQ whisk nextWhisk testedAt susp halvedAt tileMap
      tmapSeq tileStates pendingOrder stepEnded pastBounds quarLast pairs capWaits capBeats safe safeReset watched watchDoms
      windowAt rsts windows epochs rstOut cfl teardowns dump dumpSram trv).Keeps pq pg ↔
      Held pq pg pending cfg mem sb regs := Iff.rfl

/-- An outcome whose next state, if it has one, keeps them. -/
def OKeeps (pq : List Instr) (pg : Cfg) : Host.Outcome State Fault Refusal → Prop
  | .next t => t.Keeps pq pg
  | _ => True

@[simp] theorem okeeps_next (s : State) : OKeeps pq pg (.next s) ↔ s.Keeps pq pg := Iff.rfl

@[simp] theorem keeps_ite {p : Prop} [Decidable p] {a b : State} (ha : a.Keeps pq pg) (hb : b.Keeps pq pg) : (if p then a else b).Keeps pq pg := by
  split <;> assumption

@[simp] theorem keeps_ite_fst {α : Type} {p : Prop} [Decidable p] {a b : State × α} (ha : a.1.Keeps pq pg) (hb : b.1.Keeps pq pg) :
    (if p then a else b).1.Keeps pq pg := by
  split <;> assumption

theorem tab_erase_mem {α : Type} {t : List (Nat × α)} {k : Nat} {p : Nat × α} (h : p ∈ Tab.erase t k) : p ∈ t := by
  induction t with
  | nil => simp [Tab.erase] at h
  | cons x t ih =>
    obtain ⟨j, v⟩ := x
    by_cases hj : j = k
    · simp [Tab.erase, hj] at h; simp [ih h]
    · simp [Tab.erase, hj] at h
      rcases h with h | h
      · simp [h]
      · simp [ih h]

theorem tab_place_mem {α : Type} {t : List (Nat × α)} {k : Nat} {v : α} {p : Nat × α} (h : p ∈ Tab.place t k v) : p ∈ t ∨ p = (k, v) := by
  induction t with
  | nil => right; simpa [Tab.place] using h
  | cons x t ih =>
    obtain ⟨j, w⟩ := x
    unfold Tab.place at h
    split at h
    · rcases List.mem_cons.1 h with h | h
      · exact .inr h
      · exact .inl h
    · split at h
      · rcases List.mem_cons.1 h with h | h
        · exact .inr h
        · exact .inl (by simp [h])
      · rcases List.mem_cons.1 h with h | h
        · exact .inl (by simp [h])
        · rcases ih h with h | h
          · exact .inl (by simp [h])
          · exact .inr h

/-- Canonical form by a property of each entry: keys strictly rising, every entry satisfying `P`. -/
def Canon {α : Type} (P : Nat × α → Prop) : List (Nat × α) → Prop
  | [] => True
  | x :: t => P x ∧ (∀ y ∈ t, x.1 < y.1) ∧ Canon P t

theorem canon_erase {α : Type} {P : Nat × α → Prop} {t : List (Nat × α)} (h : Canon P t) (k : Nat) : Canon P (Tab.erase t k) := by
  induction t with
  | nil => simp [Tab.erase, Canon]
  | cons x t ih =>
    obtain ⟨j, v⟩ := x
    obtain ⟨h1, h2, h3⟩ := h
    by_cases hj : j = k
    · simpa [Tab.erase, hj] using ih h3
    · simp only [Tab.erase, hj, if_false]
      exact ⟨h1, fun y hy => h2 y (tab_erase_mem hy), ih h3⟩

theorem canon_place {α : Type} {P : Nat × α → Prop} {t : List (Nat × α)} (h : Canon P t) {k : Nat} {v : α} (hv : P (k, v)) :
    Canon P (Tab.place t k v) := by
  induction t with
  | nil => simp [Tab.place, Canon, hv]
  | cons x t ih =>
    obtain ⟨j, w⟩ := x
    obtain ⟨h1, h2, h3⟩ := h
    unfold Tab.place
    split
    · next hk =>
      refine ⟨hv, ?_, h1, h2, h3⟩
      intro y hy
      rcases List.mem_cons.1 hy with hy | hy
      · simpa [hy] using hk
      · exact Nat.lt_trans hk (h2 y hy)
    · split
      · next hk =>
        refine ⟨hv, ?_, h3⟩
        intro y hy
        have := h2 y hy
        simp_all
      · next hk hk' =>
        refine ⟨h1, ?_, ih h3⟩
        intro y hy
        rcases tab_place_mem hy with hy | hy
        · exact h2 y hy
        · simp only [hy]; omega

theorem canon_set {α : Type} [DecidableEq α] {P : Nat × α → Prop} {t : List (Nat × α)} (h : Canon P t) (d : α) {k : Nat} {v : α}
    (hv : v ≠ d → P (k, v)) : Canon P (Tab.set d t k v) := by
  unfold Tab.set
  split
  · exact canon_erase h k
  · next hd => exact canon_place h (hv hd)

theorem canon_head {α : Type} {P : Nat × α → Prop} {x y : Nat × α} {t : List (Nat × α)} (hx : P x) (hk : x.1 < y.1) (h : Canon P (y :: t)) :
    Canon P (x :: y :: t) := by
  refine ⟨hx, ?_, h⟩
  intro z hz
  rcases List.mem_cons.1 hz with hz | hz
  · simpa [hz] using hk
  · exact Nat.lt_trans hk (h.2.1 z hz)

theorem tab_wf_iff {α : Type} [DecidableEq α] (d : α) (t : List (Nat × α)) : Tab.wf d t = true ↔ Canon (fun p => p.2 ≠ d) t := by
  induction t with
  | nil => simp [Tab.wf, Canon]
  | cons x t ih =>
    obtain ⟨j, v⟩ := x
    cases t with
    | nil => simp [Tab.wf, Canon]
    | cons y t =>
      obtain ⟨k, w⟩ := y
      simp only [Tab.wf, Bool.and_eq_true, decide_eq_true_eq]
      constructor
      · rintro ⟨⟨h1, h2⟩, h3⟩
        exact canon_head h1 h2 (ih.1 h3)
      · intro h
        exact ⟨⟨h.1, h.2.1 (k, w) (by simp)⟩, ih.2 h.2.2⟩

theorem regs_wf_iff (t : List (Nat × Nat)) : regsWf t = true ↔ Canon (fun p => p.2 ≠ regReset p.1 ∧ p.2 < 2 ^ 32) t := by
  induction t with
  | nil => simp [regsWf, Canon]
  | cons x t ih =>
    obtain ⟨j, v⟩ := x
    cases t with
    | nil => simp [regsWf, Canon]
    | cons y t =>
      obtain ⟨k, w⟩ := y
      simp only [regsWf, Bool.and_eq_true, decide_eq_true_eq]
      constructor
      · rintro ⟨⟨⟨h1, h2⟩, h3⟩, h4⟩
        exact canon_head ⟨h1, h2⟩ h3 (ih.1 h4)
      · intro h
        exact ⟨⟨h.1, h.2.1 (k, w) (by simp)⟩, ih.2 h.2.2⟩

/-- Every operation over device memory keeps its canonical form. -/
theorem memory_wf_set {m : List Host.Cell} (h : Memory.wf m = true) (a : Nat) (b : Byte) : Memory.wf (Tab.set 0 m a b) = true :=
  (tab_wf_iff 0 _).2 (canon_set ((tab_wf_iff 0 m).1 h) 0 (fun hv => hv))

theorem memory_wf_setRun {m : List Host.Cell} (h : Memory.wf m = true) (a : Nat) (b : Bytes) : Memory.wf (Tab.setRun 0 m a b) = true := by
  induction b generalizing m a with
  | nil => exact h
  | cons x t ih => exact ih (memory_wf_set h a x) (a + 1)

theorem sideband_canon (b : List (Nat × Nat)) : sidebandWf b = true ↔ Canon (fun p => p.2 ≠ 0) b ∧ ∀ p ∈ b, p.2 < 2 ^ 64 := by
  simp [sidebandWf, tab_wf_iff]

theorem sideband_wf_set {b : List (Nat × Nat)} (h : sidebandWf b = true) (k v : Nat) : sidebandWf (Tab.set 0 b k (v % 2 ^ 64)) = true := by
  obtain ⟨h1, h2⟩ := (sideband_canon b).1 h
  refine (sideband_canon _).2 ⟨canon_set h1 0 (fun hv => hv), ?_⟩
  intro p hp
  unfold Tab.set at hp
  split at hp
  · exact h2 p (tab_erase_mem hp)
  · rcases tab_place_mem hp with hp | hp
    · exact h2 p hp
    · rw [hp]; exact Nat.mod_lt _ (by decide)

theorem regs_wf_set {r : List (Nat × Nat)} (h : regsWf r = true) (a v : Nat) : regsWf (Tab.set (regReset a) r a (v % 2 ^ 32)) = true :=
  (regs_wf_iff _).2 (canon_set ((regs_wf_iff r).1 h) _ (fun hv => ⟨hv, Nat.mod_lt _ (by decide)⟩))

@[simp] theorem keeps_foldl {α : Type} (f : State → α → State) (l : List α) (s : State) (h : s.Keeps pq pg)
    (hf : ∀ u x, u.Keeps pq pg → (f u x).Keeps pq pg) : (l.foldl f s).Keeps pq pg := by
  induction l generalizing s with
  | nil => exact h
  | cons x t ih => exact ih _ (hf _ _ h)

@[simp] theorem keeps_setReg (s : State) (a v : Nat) (h : s.Keeps pq pg) : (s.setReg a v).Keeps pq pg :=
  ⟨h.1, h.2.1, h.2.2.1, h.2.2.2.1, regs_wf_set h.2.2.2.2 a v⟩

@[simp] theorem keeps_setBits (s : State) (a m : Nat) (h : s.Keeps pq pg) :
    (s.setBits a m).Keeps pq pg := by
  unfold State.setBits
  simp [h]

@[simp] theorem keeps_clrBits (s : State) (a m : Nat) (h : s.Keeps pq pg) :
    (s.clrBits a m).Keeps pq pg := by
  unfold State.clrBits
  simp [h]

@[simp] theorem keeps_countN (s : State) (a n : Nat) (h : s.Keeps pq pg) :
    (s.countN a n).Keeps pq pg := by
  unfold State.countN
  simp [h]

@[simp] theorem keeps_count (s : State) (a : Nat) (h : s.Keeps pq pg) :
    (s.count a).Keeps pq pg := by
  unfold State.count
  simp [h]

@[simp] theorem keeps_zeroRun (s : State) (x0 : Nat) (x1 : Nat) (h : s.Keeps pq pg) :
    (s.zeroRun x0 x1).Keeps pq pg := by
  induction x1 generalizing s x0 with
  | zero => first | with_reducible exact h | (simp (maxDischargeDepth := 40) [State.zeroRun, h]; done)
  | succ n ih =>
    unfold State.zeroRun
    simp [h, ih]

@[simp] theorem keeps_took (s : State) (n : Nat) (h : s.Keeps pq pg) :
    (s.took n).Keeps pq pg := by
  unfold State.took
  exact h

@[simp] theorem keeps_emit (s : State) (o : Out) (h : s.Keeps pq pg) :
    (s.emit o).Keeps pq pg := by
  unfold State.emit
  exact h

@[simp] theorem keeps_emits (s : State) (os : List Out) (h : s.Keeps pq pg) :
    (s.emits os).Keeps pq pg := by
  unfold State.emits
  exact h

@[simp] theorem keeps_setBanked (s : State) (src : Src) (b : Bank) (v : Nat) (h : s.Keeps pq pg) :
    (s.setBanked src b v).Keeps pq pg := by
  unfold State.setBanked
  exact h

@[simp] theorem keeps_setLadle (s : State) (t : Nat) (v : Ladle) (h : s.Keeps pq pg) :
    (s.setLadle t v).Keeps pq pg := by
  unfold State.setLadle
  exact h

@[simp] theorem keeps_setCtx (s : State) (c : Nat) (v : Ctx) (h : s.Keeps pq pg) :
    (s.setCtx c v).Keeps pq pg := by
  unfold State.setCtx
  exact h

@[simp] theorem keeps_setSck (s : State) (e : Nat) (v : SckEntry) (h : s.Keeps pq pg) :
    (s.setSck e v).Keeps pq pg := by
  unfold State.setSck
  exact h

@[simp] theorem keeps_setRcp (s : State) (n : Nat) (v : RcpSlot) (h : s.Keeps pq pg) :
    (s.setRcp n v).Keeps pq pg := by
  unfold State.setRcp
  exact h

@[simp] theorem keeps_setThread (s : State) (t : Nat) (v : Thread) (h : s.Keeps pq pg) :
    (s.setThread t v).Keeps pq pg := by
  unfold State.setThread
  exact h

@[simp] theorem keeps_setRing (s : State) (n : Nat) (v : Ring) (h : s.Keeps pq pg) :
    (s.setRing n v).Keeps pq pg := by
  unfold State.setRing
  exact h

@[simp] theorem keeps_setModel (s : State) (k : Nat) (v : Model) (h : s.Keeps pq pg) :
    (s.setModel k v).Keeps pq pg := by
  unfold State.setModel
  exact h

@[simp] theorem keeps_setPair (s : State) (stn i : Nat) (v : StnPair) (h : s.Keeps pq pg) :
    (s.setPair stn i v).Keeps pq pg := by
  unfold State.setPair
  exact h

@[simp] theorem keeps_setSlot (s : State) (c k : Nat) (v : Slot) (h : s.Keeps pq pg) :
    (s.setSlot c k v).Keeps pq pg := by
  unfold State.setSlot
  exact h

@[simp] theorem keeps_setBytes (s : State) (a : Nat) (b : Bytes) (h : s.Keeps pq pg) : (s.setBytes a b).Keeps pq pg :=
  ⟨h.1, h.2.1, memory_wf_setRun h.2.2.1 a b, h.2.2.2.1, h.2.2.2.2⟩

@[simp] theorem keeps_setSb (s : State) (k v : Nat) (h : s.Keeps pq pg) : (s.setSb k v).Keeps pq pg :=
  ⟨h.1, h.2.1, h.2.2.1, sideband_wf_set h.2.2.2.1 k v, h.2.2.2.2⟩

@[simp] theorem keeps_cflDone (s : State) (c : Nat) (h : s.Keeps pq pg) :
    (s.cflDone c).Keeps pq pg := by
  unfold State.cflDone
  first
    | with_reducible exact h
    | (simp (maxDischargeDepth := 40) [h]; done)
    | ((try dsimp only) <;> (repeat' split) <;> first | with_reducible exact h | (simp (maxDischargeDepth := 40) [h]; done) | simp_all (maxDischargeDepth := 40))

@[simp] theorem keeps_cflMore (s : State) (c : Nat) (h : s.Keeps pq pg) :
    (s.cflMore c).Keeps pq pg := by
  unfold State.cflMore
  first
    | with_reducible exact h
    | (simp (maxDischargeDepth := 40) [h]; done)
    | ((try dsimp only) <;> (repeat' split) <;> first | with_reducible exact h | (simp (maxDischargeDepth := 40) [h]; done) | simp_all (maxDischargeDepth := 40))

@[simp] theorem keeps_tearDone (s : State) (c gen : Nat) (h : s.Keeps pq pg) :
    (s.tearDone c gen).Keeps pq pg := by
  unfold State.tearDone
  first
    | with_reducible exact h
    | (simp (maxDischargeDepth := 40) [h]; done)
    | ((try dsimp only) <;> (repeat' split) <;> first | with_reducible exact h | (simp (maxDischargeDepth := 40) [h]; done) | simp_all (maxDischargeDepth := 40))

@[simp] theorem keeps_cflComplete (s : State) (c gen : Nat) (h : s.Keeps pq pg) :
    (s.cflComplete c gen).1.Keeps pq pg := by
  unfold State.cflComplete
  first
    | with_reducible exact h
    | (simp (maxDischargeDepth := 40) [h]; done)
    | ((try dsimp only) <;> (repeat' split) <;> first | with_reducible exact h | (simp (maxDischargeDepth := 40) [h]; done) | simp_all (maxDischargeDepth := 40))

@[simp] theorem keeps_cflCompletes (s : State) (x0 : List MemReq) (h : s.Keeps pq pg) :
    (s.cflCompletes x0).Keeps pq pg := by
  induction x0 generalizing s with
  | nil => first | with_reducible exact h | (simp (maxDischargeDepth := 40) [State.cflCompletes, h]; done)
  | cons x t ih =>
    unfold State.cflCompletes
    first
      | (simp (maxDischargeDepth := 40) [h, ih]; done)
      | ((try dsimp only) <;> (repeat' split) <;> first | (simp (maxDischargeDepth := 40) [h, ih]; done) | simp_all (maxDischargeDepth := 40))

@[simp] theorem keeps_request (s : State) (op : MemOp) (blk line len : Nat) (acc : Access) (h : s.Keeps pq pg) :
    (s.request op blk line len acc).Keeps pq pg := by
  unfold State.request
  first
    | with_reducible exact h
    | (simp (maxDischargeDepth := 40) [h]; done)
    | ((try dsimp only) <;> (repeat' split) <;> first | with_reducible exact h | (simp (maxDischargeDepth := 40) [h]; done) | simp_all (maxDischargeDepth := 40))

@[simp] theorem keeps_requestReads (s : State) (blk : Nat) (acc : Access) (x0 : Nat) (h : s.Keeps pq pg) :
    (s.requestReads blk acc x0).Keeps pq pg := by
  induction x0 generalizing s blk acc with
  | zero => first | with_reducible exact h | (simp (maxDischargeDepth := 40) [State.requestReads, h]; done)
  | succ n ih =>
    unfold State.requestReads
    simp [h, ih]

@[simp] theorem keeps_retire (s : State) (p : Access → Bool) (h : s.Keeps pq pg) :
    (s.retire p).Keeps pq pg := by
  unfold State.retire
  first
    | with_reducible exact h
    | (simp (maxDischargeDepth := 40) [h]; done)
    | ((try dsimp only) <;> (repeat' split) <;> first | with_reducible exact h | (simp (maxDischargeDepth := 40) [h]; done) | simp_all (maxDischargeDepth := 40))

@[simp] theorem keeps_writeZ (s : State) (addr : Nat) (b : Bytes) (acc : Access) (h : s.Keeps pq pg) :
    (s.writeZ addr b acc).Keeps pq pg := by
  unfold State.writeZ
  simp (maxDischargeDepth := 40) [h]

@[simp] theorem keeps_writeS (s : State) (blk : Nat) (b : Bytes) (sbv : Nat) (acc : Access) (h : s.Keeps pq pg) :
    (s.writeS blk b sbv acc).Keeps pq pg := by
  unfold State.writeS
  simp (maxDischargeDepth := 40) [h]

@[simp] theorem keeps_sbCwrite (s : State) (blk cmp sbv : Nat) (acc : Access) (h : s.Keeps pq pg) :
    (s.sbCwrite blk cmp sbv acc).Keeps pq pg := by
  unfold State.sbCwrite
  (repeat' split) <;> simp [h]

@[simp] theorem keeps_writeSealed (s : State) (blk : Nat) (b : Bytes) (gen fmt : Nat) (acc : Access) (h : s.Keeps pq pg) :
    (s.writeSealed blk b gen fmt acc).Keeps pq pg := by
  unfold State.writeSealed
  simp [h]

@[simp] theorem keeps_capture (s : State) (base src addr access master : Nat) (h : s.Keeps pq pg) :
    (s.capture base src addr access master).Keeps pq pg := by
  unfold State.capture
  simp (maxDischargeDepth := 40) [h]

@[simp] theorem keeps_capUc (s : State) (cls : Nat) (wire info : Bool) (stn i addr access master : Nat) (h : s.Keeps pq pg) :
    (s.capUc cls wire info stn i addr access master).Keeps pq pg := by
  unfold State.capUc
  (repeat' split) <;> simp [h]

@[simp] theorem keeps_capCe (s : State) (info : Bool) (stn i addr access master : Nat) (h : s.Keeps pq pg) :
    (s.capCe info stn i addr access master).Keeps pq pg := by
  unfold State.capCe
  (repeat' split) <;> simp [h]

@[simp] theorem keeps_raiseFault (s : State) (i addr access master : Nat) (h : s.Keeps pq pg) :
    (s.raiseFault i addr access master).Keeps pq pg := by
  unfold State.raiseFault
  simp (maxDischargeDepth := 40) [h]

@[simp] theorem keeps_faultBlk (s : State) (i blk access ctx : Nat) (h : s.Keeps pq pg) :
    (s.faultBlk i blk access ctx).Keeps pq pg := by
  unfold State.faultBlk
  simp [h]

@[simp] theorem keeps_faultInt (s : State) (i ctx : Nat) (h : s.Keeps pq pg) :
    (s.faultInt i ctx).Keeps pq pg := by
  unfold State.faultInt
  simp [h]

end Sys2Proof.Machine
end

