-- ==== Sys2Proof/Laws/KeepsPeer.lean ====
section
/-! SUPPORT. The operations of Machine/Peer.lean keep the queue, the integration and the canonical forms. -/

namespace Sys2Proof.Machine

variable {pq : List Instr} {pg : Cfg}

@[simp] theorem keeps_sendPeer (s : State) (cls dst : Nat) (body : Bytes) (h : s.Keeps pq pg) :
    (s.sendPeer cls dst body).Keeps pq pg := by
  unfold State.sendPeer
  simp [h]

@[simp] theorem keeps_discardPeer (s : State) (m : PeerMsg) (h : s.Keeps pq pg) :
    (s.discardPeer m).Keeps pq pg := by
  unfold State.discardPeer
  simp [h]

@[simp] theorem keeps_takePeer (s : State) (m : PeerMsg) (h : s.Keeps pq pg) :
    (s.takePeer m).Keeps pq pg := by
  unfold State.takePeer
  simp [h]

@[simp] theorem keeps_creditReturn (s : State) (cls : Nat) (h : s.Keeps pq pg) :
    (s.creditReturn cls).Keeps pq pg := by
  unfold State.creditReturn
  (repeat' split) <;> simp [h]

@[simp] theorem keeps_execPeerCreditReturn (cls : Nat) (s : State) (h : s.Keeps pq pg) :
    OKeeps pq pg (execPeerCreditReturn cls s) := by
  unfold execPeerCreditReturn
  simp [h]

@[simp] theorem keeps_execPeerMessageDiscard (m : PeerMsg) (s : State) (h : s.Keeps pq pg) :
    OKeeps pq pg (execPeerMessageDiscard m s) := by
  unfold execPeerMessageDiscard
  first
    | with_reducible exact h
    | (simp (maxDischargeDepth := 40) [h]; done)
    | ((try dsimp only) <;> (repeat' split) <;> first | with_reducible exact h | (simp (maxDischargeDepth := 40) [h]; done) | simp_all (maxDischargeDepth := 40))

end Sys2Proof.Machine
end

