-- ==== Sys2Proof/Laws/KeepsJournal.lean ====
section
/-! SUPPORT. The operations of Machine/Journal.lean keep the queue, the integration and the canonical forms. -/

namespace Sys2Proof.Machine

variable {pq : List Instr} {pg : Cfg}

@[simp] theorem keeps_journalLost (s : State) (h : s.Keeps pq pg) :
    s.journalLost.Keeps pq pg := by
  unfold State.journalLost
  simp (maxDischargeDepth := 40) [h]

@[simp] theorem keeps_copyEntry (s : State) (e : JEntry) (h : s.Keeps pq pg) :
    (s.copyEntry e).Keeps pq pg := by
  unfold State.copyEntry
  (repeat' split) <;> simp [h]

@[simp] theorem keeps_copyEntries (s : State) (x0 : List JEntry) (h : s.Keeps pq pg) :
    (s.copyEntries x0).Keeps pq pg := by
  induction x0 generalizing s with
  | nil => first | with_reducible exact h | (simp (maxDischargeDepth := 40) [State.copyEntries, h]; done)
  | cons x t ih =>
    unfold State.copyEntries
    first
      | (simp (maxDischargeDepth := 40) [h, ih]; done)
      | ((try dsimp only) <;> (repeat' split) <;> first | (simp (maxDischargeDepth := 40) [h, ih]; done) | simp_all (maxDischargeDepth := 40))

@[simp] theorem keeps_copyJournal (s : State) (h : s.Keeps pq pg) :
    s.copyJournal.Keeps pq pg := by
  unfold State.copyJournal
  first
    | with_reducible exact h
    | (simp (maxDischargeDepth := 40) [h]; done)
    | ((try dsimp only) <;> (repeat' split) <;> first | with_reducible exact h | (simp (maxDischargeDepth := 40) [h]; done) | simp_all (maxDischargeDepth := 40))

@[simp] theorem keeps_replaced (s : State) (h : s.Keeps pq pg) :
    s.replaced.Keeps pq pg := by
  unfold State.replaced
  first
    | with_reducible exact h
    | (simp (maxDischargeDepth := 40) [h]; done)
    | ((try dsimp only) <;> (repeat' split) <;> first | with_reducible exact h | (simp (maxDischargeDepth := 40) [h]; done) | simp_all (maxDischargeDepth := 40))

@[simp] theorem keeps_record (s : State) (e : JEntry) (h : s.Keeps pq pg) :
    (s.record e).Keeps pq pg := by
  unfold State.record
  simp [h]

@[simp] theorem keeps_kettleEvent (s : State) (ev core : Nat) (h : s.Keeps pq pg) :
    (s.kettleEvent ev core).Keeps pq pg := by
  unfold State.kettleEvent
  simp [h]

@[simp] theorem keeps_setTicket (s : State) (t : Nat) (v : Ticket) (h : s.Keeps pq pg) :
    (s.setTicket t v).Keeps pq pg := by
  unfold State.setTicket
  exact h

@[simp] theorem keeps_dropTicket (s : State) (t : Nat) (h : s.Keeps pq pg) :
    (s.dropTicket t).Keeps pq pg := by
  unfold State.dropTicket
  exact h

end Sys2Proof.Machine
end

