-- ==== Sys2Proof/Laws/KeepsLid.lean ====
section
/-! SUPPORT. The operations of Machine/Lid.lean keep the queue, the integration and the canonical forms. -/

namespace Sys2Proof.Machine

variable {pq : List Instr} {pg : Cfg}

@[simp] theorem keeps_gate (s : State) (c kind cause bucket step opseq count : Nat) (h : s.Keeps pq pg) :
    (s.gate c kind cause bucket step opseq count).Keeps pq pg := by
  unfold State.gate
  simp [h]

@[simp] theorem keeps_dropSamples (s : State) (c step origin : Nat) (h : s.Keeps pq pg) :
    (s.dropSamples c step origin).Keeps pq pg := by
  unfold State.dropSamples
  exact h

@[simp] theorem keeps_nullBucket (s : State) (c k b : Nat) (h : s.Keeps pq pg) :
    (s.nullBucket c k b).Keeps pq pg := by
  unfold State.nullBucket
  simp (maxDischargeDepth := 40) [h]

@[simp] theorem keeps_nullBuckets (s : State) (c k : Nat) (x0 : List Nat) (h : s.Keeps pq pg) :
    (s.nullBuckets c k x0).Keeps pq pg := by
  induction x0 generalizing s c k with
  | nil => simp [State.nullBuckets, h]
  | cons x t ih =>
    unfold State.nullBuckets
    simp [h, ih]

@[simp] theorem keeps_noteStep (s : State) (c step : Nat) (ok : Bool) (h : s.Keeps pq pg) :
    (s.noteStep c step ok).Keeps pq pg := by
  unfold State.noteStep
  exact h

@[simp] theorem keeps_forgetStep (s : State) (c step : Nat) (h : s.Keeps pq pg) :
    (s.forgetStep c step).Keeps pq pg := by
  unfold State.forgetStep
  first
    | with_reducible exact h
    | (simp (maxDischargeDepth := 40) [h]; done)
    | ((try dsimp only) <;> (repeat' split) <;> first | with_reducible exact h | (simp (maxDischargeDepth := 40) [h]; done) | simp_all (maxDischargeDepth := 40))

@[simp] theorem keeps_endsStep (s : State) (h : s.Keeps pq pg) :
    s.endsStep.Keeps pq pg := by
  unfold State.endsStep
  first
    | with_reducible exact h
    | (simp (maxDischargeDepth := 40) [h]; done)
    | ((try dsimp only) <;> (repeat' split) <;> first | with_reducible exact h | (simp (maxDischargeDepth := 40) [h]; done) | simp_all (maxDischargeDepth := 40))

@[simp] theorem keeps_leaveBoundary (s : State) (t : Nat) (h : s.Keeps pq pg) :
    (s.leaveBoundary t).Keeps pq pg := by
  unfold State.leaveBoundary
  first
    | with_reducible exact h
    | (simp (maxDischargeDepth := 40) [h]; done)
    | ((try dsimp only) <;> (repeat' split) <;> first | with_reducible exact h | (simp (maxDischargeDepth := 40) [h]; done) | simp_all (maxDischargeDepth := 40))

@[simp] theorem keeps_dropPending (s : State) (c step : Nat) (h : s.Keeps pq pg) :
    (s.dropPending c step).Keeps pq pg := by
  unfold State.dropPending
  exact h

@[simp] theorem keeps_abandonOne (s : State) (c k cause opseq : Nat) (h : s.Keeps pq pg) :
    (s.abandonOne c k cause opseq).Keeps pq pg := by
  unfold State.abandonOne
  simp (maxDischargeDepth := 40) [h]

@[simp] theorem keeps_abandonAll (s : State) (c cause : Nat) (x0 : List Nat) (h : s.Keeps pq pg) :
    (s.abandonAll c cause x0).Keeps pq pg := by
  induction x0 generalizing s c cause with
  | nil => simp [State.abandonAll, h]
  | cons x t ih =>
    unfold State.abandonAll
    simp [h, ih]

@[simp] theorem keeps_abandon (s : State) (c k cause opseq : Nat) (h : s.Keeps pq pg) :
    (s.abandon c k cause opseq).Keeps pq pg := by
  unfold State.abandon
  (repeat' split) <;> simp [h]

@[simp] theorem keeps_terminate (s : State) (c : Nat) (h : s.Keeps pq pg) :
    (s.terminate c).Keeps pq pg := by
  unfold State.terminate
  simp (maxDischargeDepth := 40) [h]

@[simp] theorem keeps_terminateAll (s : State) (x0 : List Nat) (h : s.Keeps pq pg) :
    (s.terminateAll x0).Keeps pq pg := by
  induction x0 generalizing s with
  | nil => simp [State.terminateAll, h]
  | cons x t ih =>
    unfold State.terminateAll
    simp [h, ih]

@[simp] theorem keeps_pairCapture (s : State) (c k kind q loc ptn : Nat) (h : s.Keeps pq pg) :
    (s.pairCapture c k kind q loc ptn).Keeps pq pg := by
  unfold State.pairCapture
  simp (maxDischargeDepth := 40) [h]

@[simp] theorem keeps_pairDiverge (s : State) (c k kind q loc ptn : Nat) (h : s.Keeps pq pg) :
    (s.pairDiverge c k kind q loc ptn).Keeps pq pg := by
  unfold State.pairDiverge
  simp (maxDischargeDepth := 40) [h]

@[simp] theorem keeps_pairSend (s : State) (c k : Nat) (p : Pairing) (x0 : List Nat) (h : s.Keeps pq pg) :
    (s.pairSend c k p x0).Keeps pq pg := by
  induction x0 generalizing s c k p with
  | nil => simp [State.pairSend, h]
  | cons x t ih =>
    unfold State.pairSend
    dsimp only
    (repeat' split) <;> simp (maxDischargeDepth := 40) [h, ih]

@[simp] theorem keeps_unhold (s : State) (c : Nat) (m : PairMsg) (h : s.Keeps pq pg) :
    (s.unhold c m).Keeps pq pg := by
  unfold State.unhold
  exact h

@[simp] theorem keeps_pairMatch (s : State) (c k : Nat) (x0 : List PairMsg) (h : s.Keeps pq pg) :
    (s.pairMatch c k x0).Keeps pq pg := by
  induction x0 generalizing s c k with
  | nil => simp [State.pairMatch, h]
  | cons x t ih =>
    unfold State.pairMatch
    dsimp only
    (repeat' split) <;> simp (maxDischargeDepth := 40) [h, ih]

@[simp] theorem keeps_pairSendStep (s : State) (p : Pairing) (k : Nat) (h : s.Keeps pq pg) :
    (s.pairSendStep p k).Keeps pq pg := by
  unfold State.pairSendStep
  first
    | with_reducible exact h
    | (simp (maxDischargeDepth := 40) [h]; done)
    | ((try dsimp only) <;> (repeat' split) <;> first | with_reducible exact h | (simp (maxDischargeDepth := 40) [h]; done) | simp_all (maxDischargeDepth := 40))

@[simp] theorem keeps_pairSendAll (s : State) (x0 : List (Pairing × Nat)) (h : s.Keeps pq pg) :
    (s.pairSendAll x0).Keeps pq pg := by
  induction x0 generalizing s with
  | nil => first | with_reducible exact h | (simp (maxDischargeDepth := 40) [State.pairSendAll, h]; done)
  | cons x t ih =>
    unfold State.pairSendAll
    first
      | (simp (maxDischargeDepth := 40) [h, ih]; done)
      | ((try dsimp only) <;> (repeat' split) <;> first | (simp (maxDischargeDepth := 40) [h, ih]; done) | simp_all (maxDischargeDepth := 40))

@[simp] theorem keeps_pairFlush (s : State) (c k : Nat) (h : s.Keeps pq pg) :
    (s.pairFlush c k).Keeps pq pg := by
  unfold State.pairFlush
  (repeat' split) <;> simp (maxDischargeDepth := 40) [h]

@[simp] theorem keeps_pairForm (s : State) (c k q : Nat) (h : s.Keeps pq pg) :
    (s.pairForm c k q).Keeps pq pg := by
  unfold State.pairForm
  (repeat' split) <;> simp (maxDischargeDepth := 40) [h]

@[simp] theorem keeps_failOp (s : State) (c k q : Nat) (h : s.Keeps pq pg) :
    (s.failOp c k q).Keeps pq pg := by
  unfold State.failOp
  simp [h]

@[simp] theorem keeps_halt (s : State) (c k origin : Nat) (h : s.Keeps pq pg) :
    (s.halt c k origin).Keeps pq pg := by
  unfold State.halt
  simp (maxDischargeDepth := 40) [h]

@[simp] theorem keeps_nullStep (s : State) (c k : Nat) (h : s.Keeps pq pg) :
    (s.nullStep c k).Keeps pq pg := by
  unfold State.nullStep
  simp (maxDischargeDepth := 40) [h]

@[simp] theorem keeps_detect (s : State) (c k q origin : Nat) (h : s.Keeps pq pg) :
    (s.detect c k q origin).Keeps pq pg := by
  unfold State.detect
  dsimp only
  (repeat' split) <;> simp (maxDischargeDepth := 40) [h]

@[simp] theorem keeps_detectStep (s : State) (c gen step q origin : Nat) (h : s.Keeps pq pg) :
    (s.detectStep c gen step q origin).Keeps pq pg := by
  unfold State.detectStep
  dsimp only
  (repeat' split) <;> simp [h]

@[simp] theorem keeps_mergeMax (s : State) (e step m : Nat) (h : s.Keeps pq pg) :
    (s.mergeMax e step m).Keeps pq pg := by
  unfold State.mergeMax
  simp [h]

@[simp] theorem keeps_settle (s : State) (c k q : Nat) (h : s.Keeps pq pg) :
    (s.settle c k q).Keeps pq pg := by
  unfold State.settle
  (repeat' split) <;> simp (maxDischargeDepth := 40) [h]

@[simp] theorem keeps_onOp (s : State) (c k q : Nat) (f : OpRec → OpRec) (h : s.Keeps pq pg) :
    (s.onOp c k q f).Keeps pq pg := by
  unfold State.onOp
  simp [h]

end Sys2Proof.Machine
end

