-- ==== Sys2Proof/Laws/KeepsSuspects.lean ====
section
/-! SUPPORT. The operations of Machine/Suspects.lean keep the queue, the integration and the canonical forms. -/

namespace Sys2Proof.Machine

variable {pq : List Instr} {pg : Cfg}

@[simp] theorem keeps_setSusp (s : State) (e : Nat) (v : Susp) (h : s.Keeps pq pg) :
    (s.setSusp e v).Keeps pq pg := by
  unfold State.setSusp
  exact h

@[simp] theorem keeps_evalUnit (s : State) (u : Nat) (h : s.Keeps pq pg) :
    (s.evalUnit u).Keeps pq pg := by
  unfold State.evalUnit
  simp (maxDischargeDepth := 40) [h]

@[simp] theorem keeps_evalUnits (s : State) (u : Nat) (x0 : Nat) (h : s.Keeps pq pg) :
    (s.evalUnits u x0).Keeps pq pg := by
  induction x0 generalizing s u with
  | zero => first | with_reducible exact h | (simp (maxDischargeDepth := 40) [State.evalUnits, h]; done)
  | succ n ih =>
    unfold State.evalUnits
    simp [h, ih]

@[simp] theorem keeps_observe (s : State) (k u sig : Nat) (h : s.Keeps pq pg) :
    (s.observe k u sig).Keeps pq pg := by
  unfold State.observe
  simp (maxDischargeDepth := 40) [h]

@[simp] theorem keeps_passUnit (s : State) (u : Nat) (h : s.Keeps pq pg) :
    (s.passUnit u).Keeps pq pg := by
  unfold State.passUnit
  simp [h]

@[simp] theorem keeps_execSuspectScoreHalving (s : State) (h : s.Keeps pq pg) :
    OKeeps pq pg (execSuspectScoreHalving s) := by
  unfold execSuspectScoreHalving
  simp [h]

end Sys2Proof.Machine
end

