-- ==== Sys2Proof/Laws/KeepsLadle.lean ====
section
/-! SUPPORT. The operations of Machine/Ladle.lean keep the queue, the integration and the canonical forms. -/

namespace Sys2Proof.Machine

variable {pq : List Instr} {pg : Cfg}

@[simp] theorem keeps_mapOps (s : State) (t : Nat) (f : LOp → LOp) (h : s.Keeps pq pg) :
    (s.mapOps t f).Keeps pq pg := by
  unfold State.mapOps
  exact h

@[simp] theorem keeps_putOp (s : State) (t : Nat) (v : LOp) (h : s.Keeps pq pg) :
    (s.putOp t v).Keeps pq pg := by
  unfold State.putOp
  exact h

@[simp] theorem keeps_sweep (s : State) (t : Nat) (h : s.Keeps pq pg) :
    (s.sweep t).Keeps pq pg := by
  unfold State.sweep
  exact h

@[simp] theorem keeps_ldlCount (s : State) (t k n : Nat) (h : s.Keeps pq pg) :
    (s.ldlCount t k n).Keeps pq pg := by
  unfold State.ldlCount
  simp [h]

@[simp] theorem keeps_tapErr (s : State) (t bit opseq tag : Nat) (h : s.Keeps pq pg) :
    (s.tapErr t bit opseq tag).Keeps pq pg := by
  unfold State.tapErr
  dsimp only
  (repeat' split) <;> simp [h]

@[simp] theorem keeps_breachN (s : State) (t : Nat) (o : LOp) (rows : Nat) (h : s.Keeps pq pg) :
    (s.breachN t o rows).1.Keeps pq pg := by
  unfold State.breachN
  first
    | with_reducible exact h
    | (simp (maxDischargeDepth := 40) [h]; done)
    | ((try dsimp only) <;> (repeat' split) <;> first | with_reducible exact h | (simp (maxDischargeDepth := 40) [h]; done) | simp_all (maxDischargeDepth := 40))

@[simp] theorem keeps_breach (s : State) (t : Nat) (o : LOp) (h : s.Keeps pq pg) :
    (s.breach t o).1.Keeps pq pg := by
  unfold State.breach
  simp (maxDischargeDepth := 40) [h]

@[simp] theorem keeps_discardBeat (s : State) (t tag rows : Nat) (h : s.Keeps pq pg) :
    (s.discardBeat t tag rows).Keeps pq pg := by
  unfold State.discardBeat
  first
    | with_reducible exact h
    | (simp (maxDischargeDepth := 40) [h]; done)
    | ((try dsimp only) <;> (repeat' split) <;> first | with_reducible exact h | (simp (maxDischargeDepth := 40) [h]; done) | simp_all (maxDischargeDepth := 40))

@[simp] theorem keeps_softBreach (s : State) (t : Nat) (o : LOp) (bit k : Nat) (f : Finding) (h : s.Keeps pq pg) :
    (s.softBreach t o bit k f).1.Keeps pq pg := by
  unfold State.softBreach
  simp [h]

@[simp] theorem keeps_descError (s : State) (t : Nat) (o : LOp) (h : s.Keeps pq pg) :
    (s.descError t o).1.Keeps pq pg := by
  unfold State.descError
  simp (maxDischargeDepth := 40) [h]

@[simp] theorem keeps_onBeatWith (s : State) (t tag more : Nat) (f : LOp → State × LOp) (h : s.Keeps pq pg)
    (hf : s.tileRuns t = true → ∀ o, (f o).1.Keeps pq pg) : (s.onBeatWith t tag more f).Keeps pq pg := by
  unfold State.onBeatWith
  (repeat' split) <;> simp_all (maxDischargeDepth := 40)

@[simp] theorem keeps_onBeat (s : State) (t tag : Nat) (f : LOp → State × LOp) (h : s.Keeps pq pg) (hf : ∀ o, (f o).1.Keeps pq pg) :
    (s.onBeat t tag f).Keeps pq pg := by
  unfold State.onBeat
  (repeat' split) <;> simp (maxDischargeDepth := 40) [h, hf]

@[simp] theorem keeps_cutBy (s : State) (t : Nat) (cut : Option Nat) (h : s.Keeps pq pg) :
    (s.cutBy t cut).Keeps pq pg := by
  unfold State.cutBy
  first
    | with_reducible exact h
    | (simp (maxDischargeDepth := 40) [h]; done)
    | ((try dsimp only) <;> (repeat' split) <;> first | with_reducible exact h | (simp (maxDischargeDepth := 40) [h]; done) | simp_all (maxDischargeDepth := 40))

@[simp] theorem keeps_openOp (s : State) (t tag : Nat) (d : Desc) (spA spB : Option Sparse) (h : s.Keeps pq pg) :
    (s.openOp t tag d spA spB).Keeps pq pg := by
  unfold State.openOp
  simp (maxDischargeDepth := 40) [h]

@[simp] theorem keeps_execDescriptorBeat (tile tag data : Nat) (spA spB : Option Sparse) (s : State) (h : s.Keeps pq pg) :
    OKeeps pq pg (execDescriptorBeat tile tag data spA spB s) := by
  unfold execDescriptorBeat
  first
    | with_reducible exact h
    | (simp (maxDischargeDepth := 40) [h]; done)
    | ((try dsimp only) <;> (repeat' split) <;> first | with_reducible exact h | (simp (maxDischargeDepth := 40) [h]; done) | simp_all (maxDischargeDepth := 40))

@[simp] theorem keeps_ingress (s : State) (t : Nat) (o : LOp) (region off : Nat) (data : Bytes) (sbv : Nat) (h : s.Keeps pq pg) :
    (s.ingress t o region off data sbv).1.Keeps pq pg := by
  unfold State.ingress
  dsimp only
  (repeat' split) <;> simp [h]

@[simp] theorem keeps_execSealIngressBlock (tile tag region blk : Nat) (data : Bytes) (bcv : Nat) (cut : Option Nat) (s : State) (h : s.Keeps pq pg) :
    OKeeps pq pg (execSealIngressBlock tile tag region blk data bcv cut s) := by
  unfold execSealIngressBlock
  first
    | with_reducible exact h
    | (simp (maxDischargeDepth := 40) [h]; done)
    | ((try dsimp only) <;> (repeat' split) <;> first | with_reducible exact h | (simp (maxDischargeDepth := 40) [h]; done) | simp_all (maxDischargeDepth := 40))

@[simp] theorem keeps_compareBlocks (s : State) (t : Nat) (o : LOp) (x0 : List (Nat × Bytes)) (h : s.Keeps pq pg) :
    (s.compareBlocks t o x0).1.Keeps pq pg := by
  induction x0 generalizing s t o with
  | nil => simp [State.compareBlocks, h]
  | cons x t ih =>
    unfold State.compareBlocks
    (repeat' split) <;> simp [h, ih]

@[simp] theorem keeps_execEgressBlockCompare (tile tag blk : Nat) (data : Bytes) (cut : Option Nat) (s : State) (h : s.Keeps pq pg) :
    OKeeps pq pg (execEgressBlockCompare tile tag blk data cut s) := by
  unfold execEgressBlockCompare
  first
    | with_reducible exact h
    | (simp (maxDischargeDepth := 40) [h]; done)
    | ((try dsimp only) <;> (repeat' split) <;> first | with_reducible exact h | (simp (maxDischargeDepth := 40) [h]; done) | simp_all (maxDischargeDepth := 40))

@[simp] theorem keeps_bufferCheck (s : State) (t : Nat) (o : LOp) (was : Nat) (h : s.Keeps pq pg) :
    (s.bufferCheck t o was).1.Keeps pq pg := by
  unfold State.bufferCheck
  simp [h]

@[simp] theorem keeps_indexCheck (s : State) (t : Nat) (o : LOp) (atEnd : Bool) (h : s.Keeps pq pg) :
    (s.indexCheck t o atEnd).1.Keeps pq pg := by
  unfold State.indexCheck
  (repeat' split) <;> simp [h]

@[simp] theorem keeps_execOperandBeat (tile tag kind row col : Nat) (run : List Nat) (s : State) (h : s.Keeps pq pg) :
    OKeeps pq pg (execOperandBeat tile tag kind row col run s) := by
  unfold execOperandBeat
  first
    | with_reducible exact h
    | (simp (maxDischargeDepth := 40) [h]; done)
    | ((try dsimp only) <;> (repeat' split) <;> first | with_reducible exact h | (simp (maxDischargeDepth := 40) [h]; done) | simp_all (maxDischargeDepth := 40))

@[simp] theorem keeps_outBreach (s : State) (t : Nat) (o : LOp) (rows : Nat) (h : s.Keeps pq pg) :
    (s.outBreach t o rows).1.Keeps pq pg := by
  unfold State.outBreach
  first
    | with_reducible exact h
    | (simp (maxDischargeDepth := 40) [h]; done)
    | ((try dsimp only) <;> (repeat' split) <;> first | with_reducible exact h | (simp (maxDischargeDepth := 40) [h]; done) | simp_all (maxDischargeDepth := 40))

@[simp] theorem keeps_execOutputBeat (tile tag : Nat) (scale : Bool) (row col : Nat) (lanes : List (Option OutEl)) (s : State) (h : s.Keeps pq pg) :
    OKeeps pq pg (execOutputBeat tile tag scale row col lanes s) := by
  unfold execOutputBeat
  first
    | with_reducible exact h
    | (simp (maxDischargeDepth := 40) [h]; done)
    | ((try dsimp only) <;> (repeat' split) <;> first | with_reducible exact h | (simp (maxDischargeDepth := 40) [h]; done) | simp_all (maxDischargeDepth := 40))

@[simp] theorem keeps_closeChecks (s : State) (t : Nat) (o : LOp) (outside again : Bool) (h : s.Keeps pq pg) :
    (s.closeChecks t o outside again).1.Keeps pq pg := by
  unfold State.closeChecks
  first
    | with_reducible exact h
    | (simp (maxDischargeDepth := 40) [h]; done)
    | ((try dsimp only) <;> (repeat' split) <;> first | with_reducible exact h | (simp (maxDischargeDepth := 40) [h]; done) | simp_all (maxDischargeDepth := 40))

@[simp] theorem keeps_execOutputLastBeat (tile tag row col : Nat) (lanes : List (Option OutEl)) (flags : Nat) (s : State) (h : s.Keeps pq pg) :
    OKeeps pq pg (execOutputLastBeat tile tag row col lanes flags s) := by
  unfold execOutputLastBeat
  first
    | with_reducible exact h
    | (simp (maxDischargeDepth := 40) [h]; done)
    | ((try dsimp only) <;> (repeat' split) <;> first | with_reducible exact h | (simp (maxDischargeDepth := 40) [h]; done) | simp_all (maxDischargeDepth := 40))

@[simp] theorem keeps_execConverterMaxBeat (tile tag m : Nat) (s : State) (h : s.Keeps pq pg) :
    OKeeps pq pg (execConverterMaxBeat tile tag m s) := by
  unfold execConverterMaxBeat
  simp (maxDischargeDepth := 40) [h]

@[simp] theorem keeps_execConverterMaxDeadline (tile tag : Nat) (s : State) (h : s.Keeps pq pg) :
    OKeeps pq pg (execConverterMaxDeadline tile tag s) := by
  unfold execConverterMaxDeadline
  (repeat' split) <;> simp [h]

@[simp] theorem keeps_execRouteBeat (tile tag : Nat) (triples : List (Nat × Nat × Nat)) (last : Bool) (s : State) (h : s.Keeps pq pg) :
    OKeeps pq pg (execRouteBeat tile tag triples last s) := by
  unfold execRouteBeat
  simp (maxDischargeDepth := 40) [h]

@[simp] theorem keeps_takeAnswer (s : State) (t : Nat) (o : LOp) (a : Accept) (h : s.Keeps pq pg) :
    (s.takeAnswer t o a).Keeps pq pg := by
  unfold State.takeAnswer
  (repeat' split) <;> simp [h]

@[simp] theorem keeps_lidAnswer (s : State) (t tag : Nat) (h : s.Keeps pq pg) :
    (s.lidAnswer t tag).Keeps pq pg := by
  unfold State.lidAnswer
  dsimp only
  (repeat' split) <;> simp [h]

@[simp] theorem keeps_execLidAcceptance (tile tag : Nat) (s : State) (h : s.Keeps pq pg) :
    OKeeps pq pg (execLidAcceptance tile tag s) := by
  unfold execLidAcceptance
  simp [h]

@[simp] theorem keeps_ldlCounts (s : State) (t : Nat) (o : LOp) (x0 : List (Nat × Nat)) (h : s.Keeps pq pg) :
    (s.ldlCounts t o x0).1.Keeps pq pg := by
  induction x0 generalizing s t o with
  | nil => simp [State.ldlCounts, h]
  | cons x t ih =>
    unfold State.ldlCounts
    (repeat' split) <;> simp [h, ih]

@[simp] theorem keeps_locCapture (s : State) (t : Nat) (o : LOp) (loc : Location) (h : s.Keeps pq pg) :
    (s.locCapture t o loc).Keeps pq pg := by
  unfold State.locCapture
  (repeat' split) <;> simp (maxDischargeDepth := 40) [h]

@[simp] theorem keeps_whiskResult (s : State) (t : Nat) (r : WhiskRes) (h : s.Keeps pq pg) :
    (s.whiskResult t r).Keeps pq pg := by
  unfold State.whiskResult
  first
    | with_reducible exact h
    | (simp (maxDischargeDepth := 40) [h]; done)
    | ((try dsimp only) <;> (repeat' split) <;> first | with_reducible exact h | (simp (maxDischargeDepth := 40) [h]; done) | simp_all (maxDischargeDepth := 40))

@[simp] theorem keeps_verdict (s : State) (t : Nat) (o : LOp) (late' : Bool) (h : s.Keeps pq pg) :
    (s.verdict t o late').Keeps pq pg := by
  unfold State.verdict
  first
    | with_reducible exact h
    | (simp (maxDischargeDepth := 40) [h]; done)
    | ((try dsimp only) <;> (repeat' split) <;> first | with_reducible exact h | (simp (maxDischargeDepth := 40) [h]; done) | simp_all (maxDischargeDepth := 40))

@[simp] theorem keeps_execLadleVerdict (tile tag : Nat) (late : Bool) (s : State) (h : s.Keeps pq pg) :
    OKeeps pq pg (execLadleVerdict tile tag late s) := by
  unfold execLadleVerdict
  (repeat' split) <;> simp [h]

@[simp] theorem keeps_refusedReport (s : State) (t : Nat) (o : LOp) (h : s.Keeps pq pg) :
    (s.refusedReport t o).Keeps pq pg := by
  unfold State.refusedReport
  first
    | with_reducible exact h
    | (simp (maxDischargeDepth := 40) [h]; done)
    | ((try dsimp only) <;> (repeat' split) <;> first | with_reducible exact h | (simp (maxDischargeDepth := 40) [h]; done) | simp_all (maxDischargeDepth := 40))

@[simp] theorem keeps_execBcvHandshake (tile blk : Nat) (s : State) (h : s.Keeps pq pg) :
    OKeeps pq pg (execBcvHandshake tile blk s) := by
  unfold execBcvHandshake
  (repeat' split) <;> simp (maxDischargeDepth := 40) [h]

@[simp] theorem keeps_abandonOps (s : State) (t : Nat) (x0 : List LOp) (h : s.Keeps pq pg) :
    (s.abandonOps t x0).Keeps pq pg := by
  induction x0 generalizing s t with
  | nil => simp [State.abandonOps, h]
  | cons x t ih =>
    unfold State.abandonOps
    (repeat' split) <;> simp [h, ih]

@[simp] theorem keeps_ladleOk (s : State) (t : Nat) (h : s.Keeps pq pg) :
    (s.ladleOk t).Keeps pq pg := by
  unfold State.ladleOk
  first
    | with_reducible exact h
    | (simp (maxDischargeDepth := 40) [h]; done)
    | ((try dsimp only) <;> (repeat' split) <;> first | with_reducible exact h | (simp (maxDischargeDepth := 40) [h]; done) | simp_all (maxDischargeDepth := 40))

@[simp] theorem keeps_ladleReset (s : State) (t : Nat) (h : s.Keeps pq pg) :
    (s.ladleReset t).Keeps pq pg := by
  unfold State.ladleReset
  simp [h]

@[simp] theorem keeps_ladleFault (s : State) (t : Nat) (h : s.Keeps pq pg) :
    (s.ladleFault t).Keeps pq pg := by
  unfold State.ladleFault
  exact h

@[simp] theorem keeps_katAnswer (s : State) (t : Nat) (pass : Bool) (h : s.Keeps pq pg) :
    (s.katAnswer t pass).Keeps pq pg := by
  unfold State.katAnswer
  exact h

@[simp] theorem keeps_observeChecker (s : State) (t : Nat) (x0 : Nat) (h : s.Keeps pq pg) :
    (s.observeChecker t x0).Keeps pq pg := by
  induction x0 generalizing s t with
  | zero => first | with_reducible exact h | (simp (maxDischargeDepth := 40) [State.observeChecker, h]; done)
  | succ n ih =>
    unfold State.observeChecker
    simp [h, ih]

@[simp] theorem keeps_katEnd (s : State) (t : Nat) (pass : Bool) (h : s.Keeps pq pg) :
    (s.katEnd t pass).Keeps pq pg := by
  unfold State.katEnd
  simp (maxDischargeDepth := 40) [h]

@[simp] theorem keeps_requestKat (s : State) (t : Nat) (h : s.Keeps pq pg) :
    (s.requestKat t).Keeps pq pg := by
  unfold State.requestKat
  (repeat' split) <;> simp [h]

@[simp] theorem keeps_execLadleSelfCheckStart (tile : Nat) (s : State) (h : s.Keeps pq pg) :
    OKeeps pq pg (execLadleSelfCheckStart tile s) := by
  unfold execLadleSelfCheckStart
  simp [h]

@[simp] theorem keeps_setStop (s : State) (t : Nat) (v : AirasStop) (h : s.Keeps pq pg) :
    (s.setStop t v).Keeps pq pg := by
  unfold State.setStop
  exact h

@[simp] theorem keeps_setStnStop (s : State) (c : Nat) (v : StnStop) (h : s.Keeps pq pg) :
    (s.setStnStop c v).Keeps pq pg := by
  unfold State.setStnStop
  first
    | with_reducible exact h
    | (simp (maxDischargeDepth := 40) [h]; done)
    | ((try dsimp only) <;> (repeat' split) <;> first | with_reducible exact h | (simp (maxDischargeDepth := 40) [h]; done) | simp_all (maxDischargeDepth := 40))

@[simp] theorem keeps_unreach (s : State) (t : Nat) (h : s.Keeps pq pg) :
    (s.unreach t).Keeps pq pg := by
  unfold State.unreach
  first
    | with_reducible exact h
    | (simp (maxDischargeDepth := 40) [h]; done)
    | ((try dsimp only) <;> (repeat' split) <;> first | with_reducible exact h | (simp (maxDischargeDepth := 40) [h]; done) | simp_all (maxDischargeDepth := 40))

@[simp] theorem keeps_ladleFrame (s : State) (t seq : Nat) (ok : Bool) (h : s.Keeps pq pg) :
    (s.ladleFrame t seq ok).Keeps pq pg := by
  unfold State.ladleFrame
  first
    | with_reducible exact h
    | (simp (maxDischargeDepth := 40) [h]; done)
    | ((try dsimp only) <;> (repeat' split) <;> first | with_reducible exact h | (simp (maxDischargeDepth := 40) [h]; done) | simp_all (maxDischargeDepth := 40))

@[simp] theorem keeps_stationFrame (s : State) (t seq : Nat) (ok : Bool) (h : s.Keeps pq pg) :
    (s.stationFrame t seq ok).Keeps pq pg := by
  unfold State.stationFrame
  first
    | with_reducible exact h
    | (simp (maxDischargeDepth := 40) [h]; done)
    | ((try dsimp only) <;> (repeat' split) <;> first | with_reducible exact h | (simp (maxDischargeDepth := 40) [h]; done) | simp_all (maxDischargeDepth := 40))

@[simp] theorem keeps_execAirasFrame (tile : Nat) (atStation : Bool) (payload seq crc : Nat) (s : State) (h : s.Keeps pq pg) :
    OKeeps pq pg (execAirasFrame tile atStation payload seq crc s) := by
  unfold execAirasFrame
  first
    | with_reducible exact h
    | (simp (maxDischargeDepth := 40) [h]; done)
    | ((try dsimp only) <;> (repeat' split) <;> first | with_reducible exact h | (simp (maxDischargeDepth := 40) [h]; done) | simp_all (maxDischargeDepth := 40))

end Sys2Proof.Machine
end

