-- ==== Sys2Proof/Laws/KeepsSeals.lean ====
section
/-! SUPPORT. The operations of Machine/Seals.lean keep the queue, the integration and the canonical forms. -/

namespace Sys2Proof.Machine

variable {pq : List Instr} {pg : Cfg}

@[simp] theorem keeps_poisonBlock (s : State) (blk : Nat) (h : s.Keeps pq pg) :
    (s.poisonBlock blk).Keeps pq pg := by
  unfold State.poisonBlock
  simp [h]

@[simp] theorem keeps_resealBlock (s : State) (blk : Nat) (h : s.Keeps pq pg) :
    (s.resealBlock blk).Keeps pq pg := by
  unfold State.resealBlock
  simp [h]

@[simp] theorem keeps_overBlocks (s : State) (f : State → Nat → State) (b n : Nat) (h : s.Keeps pq pg)
    (hf : ∀ u k, u.Keeps pq pg → (f u k).Keeps pq pg) : (s.overBlocks f b n).Keeps pq pg := by
  induction n generalizing s b with
  | zero => exact h
  | succ n ih => exact ih _ _ (hf _ _ h)

@[simp] theorem keeps_poisonOuts (s : State) (o : OpRec) (h : s.Keeps pq pg) :
    (s.poisonOuts o).Keeps pq pg := by
  unfold State.poisonOuts
  (repeat' split) <;> simp_all

@[simp] theorem keeps_resealOuts (s : State) (o : OpRec) (h : s.Keeps pq pg) :
    (s.resealOuts o).Keeps pq pg := by
  unfold State.resealOuts
  (repeat' split) <;> simp_all

@[simp] theorem keeps_poisonedInput (s : State) (c gen step q : Nat) (counted : Bool) (blk : Nat) (h : s.Keeps pq pg) :
    (s.poisonedInput c gen step q counted blk).Keeps pq pg := by
  unfold State.poisonedInput
  first
    | with_reducible exact h
    | (simp (maxDischargeDepth := 40) [h]; done)
    | ((try dsimp only) <;> (repeat' split) <;> first | with_reducible exact h | (simp (maxDischargeDepth := 40) [h]; done) | simp_all (maxDischargeDepth := 40))

@[simp] theorem keeps_poisonedInputs (s : State) (c gen step q : Nat) (x0 : List Nat) (h : s.Keeps pq pg) :
    (s.poisonedInputs c gen step q x0).Keeps pq pg := by
  induction x0 generalizing s c gen step q with
  | nil => simp [State.poisonedInputs, h]
  | cons x t ih =>
    unfold State.poisonedInputs
    simp [h, ih]

@[simp] theorem keeps_startConfirm (s : State) (blk : Nat) (own : Bool) (gen fmt : Nat) (r : ConfRep) (h : s.Keeps pq pg) :
    (s.startConfirm blk own gen fmt r).Keeps pq pg := by
  unfold State.startConfirm
  simp [h]

@[simp] theorem keeps_sealCapture (s : State) (k blk : Nat) (r : ConfRep) (h : s.Keeps pq pg) :
    (s.sealCapture k blk r).Keeps pq pg := by
  unfold State.sealCapture
  simp (maxDischargeDepth := 40) [h]

@[simp] theorem keeps_abandonStep (s : State) (c gen step cause q : Nat) (h : s.Keeps pq pg) :
    (s.abandonStep c gen step cause q).Keeps pq pg := by
  unfold State.abandonStep
  dsimp only
  (repeat' split) <;> simp [h]

@[simp] theorem keeps_confAct (s : State) (k blk : Nat) (r : ConfRep) (h : s.Keeps pq pg) :
    (s.confAct k blk r).Keeps pq pg := by
  unfold State.confAct
  (repeat' split) <;> simp [h]

@[simp] theorem keeps_confActs (s : State) (k blk : Nat) (x0 : List ConfRep) (h : s.Keeps pq pg) :
    (s.confActs k blk x0).Keeps pq pg := by
  induction x0 generalizing s k blk with
  | nil => simp [State.confActs, h]
  | cons x t ih =>
    unfold State.confActs
    simp [h, ih]

@[simp] theorem keeps_confirm (s : State) (c : Confirm) (reached : Bool) (h : s.Keeps pq pg) :
    (s.confirm c reached).Keeps pq pg := by
  unfold State.confirm
  simp (maxDischargeDepth := 40) [h]

@[simp] theorem keeps_execSealConfirmation (blk : Nat) (data : Bytes) (bcv : Nat) (reached : Bool) (s : State) (h : s.Keeps pq pg) :
    OKeeps pq pg (execSealConfirmation blk data bcv reached s) := by
  unfold execSealConfirmation
  (repeat' split) <;> simp (maxDischargeDepth := 40) [h]

@[simp] theorem keeps_putRoute (s : State) (e : RouteEnt) (h : s.Keeps pq pg) :
    (s.putRoute e).Keeps pq pg := by
  unfold State.putRoute
  simp [h]

@[simp] theorem keeps_detectMembers (s : State) (c gen step origin : Nat) (x0 : List RMember) (h : s.Keeps pq pg) :
    (s.detectMembers c gen step origin x0).Keeps pq pg := by
  induction x0 generalizing s c gen step origin with
  | nil => simp [State.detectMembers, h]
  | cons x t ih =>
    unfold State.detectMembers
    simp [h, ih]

@[simp] theorem keeps_routeFail (s : State) (e : RouteEnt) (k : Nat) (h : s.Keeps pq pg) :
    (s.routeFail e k).Keeps pq pg := by
  unfold State.routeFail
  simp (maxDischargeDepth := 40) [h]

@[simp] theorem keeps_routePass (s : State) (c k : Nat) (x0 : List RMember) (h : s.Keeps pq pg) :
    (s.routePass c k x0).Keeps pq pg := by
  induction x0 generalizing s c k with
  | nil => simp [State.routePass, h]
  | cons x t ih =>
    unfold State.routePass
    simp [h, ih]

@[simp] theorem keeps_routeClose (s : State) (e : RouteEnt) (k : Nat) (h : s.Keeps pq pg) :
    (s.routeClose e k).Keeps pq pg := by
  unfold State.routeClose
  dsimp only
  (repeat' split) <;> simp (maxDischargeDepth := 40) [h]

@[simp] theorem keeps_routeTake (s : State) (r : Report) (h : s.Keeps pq pg) :
    (s.routeTake r).Keeps pq pg := by
  unfold State.routeTake
  dsimp only
  (repeat' split) <;> simp [h]

@[simp] theorem keeps_execRouteReport (s : State) (h : s.Keeps pq pg) :
    OKeeps pq pg (execRouteReport s) := by
  unfold execRouteReport
  (repeat' split) <;> simp [h]

@[simp] theorem keeps_routesIncomplete (s : State) (x0 : List RouteEnt) (h : s.Keeps pq pg) :
    (s.routesIncomplete x0).Keeps pq pg := by
  induction x0 generalizing s with
  | nil => simp [State.routesIncomplete, h]
  | cons x t ih =>
    unfold State.routesIncomplete
    simp [h, ih]

@[simp] theorem keeps_routesReset (s : State) (c gen step : Nat) (resets : Nat → Bool) (h : s.Keeps pq pg) :
    (s.routesReset c gen step resets).Keeps pq pg := by
  unfold State.routesReset
  first
    | with_reducible exact h
    | (simp (maxDischargeDepth := 40) [h]; done)
    | ((try dsimp only) <;> (repeat' split) <;> first | with_reducible exact h | (simp (maxDischargeDepth := 40) [h]; done) | simp_all (maxDischargeDepth := 40))

end Sys2Proof.Machine
end

