-- ==== Sys2Proof/Laws/KeepsSieve.lean ====
section
/-! SUPPORT. The operations of Machine/Sieve.lean keep the queue, the integration and the canonical forms. -/

namespace Sys2Proof.Machine

variable {pq : List Instr} {pg : Cfg}

@[simp] theorem keeps_addEscape (s : State) (c k q : Nat) (h : s.Keeps pq pg) :
    (s.addEscape c k q).Keeps pq pg := by
  unfold State.addEscape
  (repeat' split) <;> simp [h]

@[simp] theorem keeps_rebound (s : State) (h : s.Keeps pq pg) :
    s.rebound.Keeps pq pg := by
  unfold State.rebound
  simp [h]

@[simp] theorem keeps_execSieveBoundRecompute (s : State) (h : s.Keeps pq pg) :
    OKeeps pq pg (execSieveBoundRecompute s) := by
  unfold execSieveBoundRecompute
  simp [h]

@[simp] theorem keeps_endSample (s : State) (j : Job) (executed : Bool) (h : s.Keeps pq pg) :
    (s.endSample j executed).Keeps pq pg := by
  unfold State.endSample
  (repeat' split) <;> simp (maxDischargeDepth := 40) [h]

@[simp] theorem keeps_dropSample (s : State) (j : Job) (h : s.Keeps pq pg) :
    (s.dropSample j).Keeps pq pg := by
  unfold State.dropSample
  dsimp only
  (repeat' split) <;> simp (maxDischargeDepth := 40) [h]

@[simp] theorem keeps_spillSample (s : State) (j : Job) (h : s.Keeps pq pg) :
    (s.spillSample j).Keeps pq pg := by
  unfold State.spillSample
  first
    | with_reducible exact h
    | (simp (maxDischargeDepth := 40) [h]; done)
    | ((try dsimp only) <;> (repeat' split) <;> first | with_reducible exact h | (simp (maxDischargeDepth := 40) [h]; done) | simp_all (maxDischargeDepth := 40))

@[simp] theorem keeps_queueSample (s : State) (j : Job) (h : s.Keeps pq pg) :
    (s.queueSample j).Keeps pq pg := by
  unfold State.queueSample
  simp (maxDischargeDepth := 40) [h]

@[simp] theorem keeps_newSample (s : State) (c k : Nat) (o : OpRec) (els : List Nat) (h : s.Keeps pq pg) :
    (s.newSample c k o els).Keeps pq pg := by
  unfold State.newSample
  simp [h]

@[simp] theorem keeps_execSpillReturn (s : State) (h : s.Keeps pq pg) :
    OKeeps pq pg (execSpillReturn s) := by
  unfold execSpillReturn
  (repeat' split) <;> simp [h]

end Sys2Proof.Machine
end

