-- ==== Sys2Proof/Laws/KeepsMortar.lean ====
section
/-! SUPPORT. The operations of Machine/Mortar.lean keep the queue, the integration and the canonical forms. -/

namespace Sys2Proof.Machine

variable {pq : List Instr} {pg : Cfg}

@[simp] theorem keeps_setLane (s : State) (l : Nat) (v : Lane) (h : s.Keeps pq pg) :
    (s.setLane l v).Keeps pq pg := by
  unfold State.setLane
  exact h

@[simp] theorem keeps_countNoLane (s : State) (j : Job) (h : s.Keeps pq pg) :
    (s.countNoLane j).Keeps pq pg := by
  unfold State.countNoLane
  simp [h]

@[simp] theorem keeps_endArb (s : State) (id lane : Nat) (d : Decision) (h : s.Keeps pq pg) :
    (s.endArb id lane d).Keeps pq pg := by
  unfold State.endArb
  exact h

@[simp] theorem keeps_noLaneJobs (s : State) (x0 : List Job) (h : s.Keeps pq pg) :
    (s.noLaneJobs x0).Keeps pq pg := by
  induction x0 generalizing s with
  | nil => simp [State.noLaneJobs, h]
  | cons x t ih =>
    unfold State.noLaneJobs
    dsimp only
    (repeat' split) <;> simp (maxDischargeDepth := 40) [h, ih]

@[simp] theorem keeps_serveNoLane (s : State) (h : s.Keeps pq pg) :
    s.serveNoLane.Keeps pq pg := by
  unfold State.serveNoLane
  (repeat' split) <;> simp [h]

@[simp] theorem keeps_fence (s : State) (l : Nat) (fault : Bool) (h : s.Keeps pq pg) :
    (s.fence l fault).Keeps pq pg := by
  unfold State.fence
  simp (maxDischargeDepth := 40) [h]

@[simp] theorem keeps_fetchBlocks (s : State) (l base : Nat) (x0 : List Nat) (h : s.Keeps pq pg) :
    (s.fetchBlocks l base x0).Keeps pq pg := by
  induction x0 generalizing s l base with
  | nil => first | with_reducible exact h | (simp (maxDischargeDepth := 40) [State.fetchBlocks, h]; done)
  | cons x t ih =>
    unfold State.fetchBlocks
    first
      | (simp (maxDischargeDepth := 40) [h, ih]; done)
      | ((try dsimp only) <;> (repeat' split) <;> first | (simp (maxDischargeDepth := 40) [h, ih]; done) | simp_all (maxDischargeDepth := 40))

@[simp] theorem keeps_fetchRegions (s : State) (l : Nat) (x0 : List (Region × List Nat)) (h : s.Keeps pq pg) :
    (s.fetchRegions l x0).Keeps pq pg := by
  induction x0 generalizing s l with
  | nil => first | with_reducible exact h | (simp (maxDischargeDepth := 40) [State.fetchRegions, h]; done)
  | cons x t ih =>
    unfold State.fetchRegions
    first
      | (simp (maxDischargeDepth := 40) [h, ih]; done)
      | ((try dsimp only) <;> (repeat' split) <;> first | (simp (maxDischargeDepth := 40) [h, ih]; done) | simp_all (maxDischargeDepth := 40))

@[simp] theorem keeps_runOn (s : State) (l : Nat) (j : Job) (h : s.Keeps pq pg) :
    (s.runOn l j).Keeps pq pg := by
  unfold State.runOn
  simp (maxDischargeDepth := 40) [h]

@[simp] theorem keeps_jobStart (s : State) (lane : Nat) (h : s.Keeps pq pg) :
    (s.jobStart lane).Keeps pq pg := by
  unfold State.jobStart
  (repeat' split) <;> simp [h]

@[simp] theorem keeps_execSampleAgeDrop (ctx step opseq : Nat) (s : State) (h : s.Keeps pq pg) :
    OKeeps pq pg (execSampleAgeDrop ctx step opseq s) := by
  unfold execSampleAgeDrop
  (repeat' split) <;> simp [h]

@[simp] theorem keeps_refuseSlot (s : State) (slot : Nat) (h : s.Keeps pq pg) :
    (s.refuseSlot slot).Keeps pq pg := by
  unfold State.refuseSlot
  simp [h]

@[simp] theorem keeps_arbOver (s : State) (j : Job) (h : s.Keeps pq pg) :
    (s.arbOver j).Keeps pq pg := by
  unfold State.arbOver
  first
    | with_reducible exact h
    | (simp (maxDischargeDepth := 40) [h]; done)
    | ((try dsimp only) <;> (repeat' split) <;> first | with_reducible exact h | (simp (maxDischargeDepth := 40) [h]; done) | simp_all (maxDischargeDepth := 40))

@[simp] theorem keeps_dropArb (s : State) (j : Job) (h : s.Keeps pq pg) :
    (s.dropArb j).Keeps pq pg := by
  unfold State.dropArb
  dsimp only
  (repeat' split) <;> simp [h]

@[simp] theorem keeps_fetchFail (s : State) (j : Job) (blk kind fmt : Nat) (h : s.Keeps pq pg) :
    (s.fetchFail j blk kind fmt).Keeps pq pg := by
  unfold State.fetchFail
  simp (maxDischargeDepth := 40) [h]

@[simp] theorem keeps_recipeFail (s : State) (j : Job) (lane : Nat) (h : s.Keeps pq pg) :
    (s.recipeFail j lane).Keeps pq pg := by
  unfold State.recipeFail
  (repeat' split) <;> simp [h]

@[simp] theorem keeps_recipeGone (s : State) (j : Job) (lane : Nat) (h : s.Keeps pq pg) :
    (s.recipeGone j lane).Keeps pq pg := by
  unfold State.recipeGone
  first
    | with_reducible exact h
    | (simp (maxDischargeDepth := 40) [h]; done)
    | ((try dsimp only) <;> (repeat' split) <;> first | with_reducible exact h | (simp (maxDischargeDepth := 40) [h]; done) | simp_all (maxDischargeDepth := 40))

@[simp] theorem keeps_arbCapture (s : State) (o : OpRec) (dec : Decision) (lane src : Nat) (h : s.Keeps pq pg) :
    (s.arbCapture o dec lane src).Keeps pq pg := by
  unfold State.arbCapture
  simp (maxDischargeDepth := 40) [h]

@[simp] theorem keeps_again (s : State) (j : Job) (lane : Nat) (h : s.Keeps pq pg) :
    (s.again j lane).Keeps pq pg := by
  unfold State.again
  simp [h]

@[simp] theorem keeps_sampleWrong (s : State) (j : Job) (lane cnt : Nat) (dec : Decision) (h : s.Keeps pq pg) :
    (s.sampleWrong j lane cnt dec).Keeps pq pg := by
  unfold State.sampleWrong
  simp (maxDischargeDepth := 40) [h]

@[simp] theorem keeps_engineWrong (s : State) (j : Job) (lane : Nat) (h : s.Keeps pq pg) :
    (s.engineWrong j lane).Keeps pq pg := by
  unfold State.engineWrong
  first
    | with_reducible exact h
    | (simp (maxDischargeDepth := 40) [h]; done)
    | ((try dsimp only) <;> (repeat' split) <;> first | with_reducible exact h | (simp (maxDischargeDepth := 40) [h]; done) | simp_all (maxDischargeDepth := 40))

@[simp] theorem keeps_fenceBoth (s : State) (first : Option Nat) (lane : Nat) (h : s.Keeps pq pg) :
    (s.fenceBoth first lane).Keeps pq pg := by
  unfold State.fenceBoth
  first
    | with_reducible exact h
    | (simp (maxDischargeDepth := 40) [h]; done)
    | ((try dsimp only) <;> (repeat' split) <;> first | with_reducible exact h | (simp (maxDischargeDepth := 40) [h]; done) | simp_all (maxDischargeDepth := 40))

@[simp] theorem keeps_sampleEnd (s : State) (j : Job) (lane : Nat) (halves : Bool) (x : RunOut) (h : s.Keeps pq pg) :
    (s.sampleEnd j lane halves x).Keeps pq pg := by
  unfold State.sampleEnd
  (repeat' split) <;> simp (maxDischargeDepth := 40) [h]

@[simp] theorem keeps_jobEnd (s : State) (j : Job) (lane : Nat) (halves : Bool) (h : s.Keeps pq pg) :
    (s.jobEnd j lane halves).Keeps pq pg := by
  unfold State.jobEnd
  dsimp only
  (repeat' split) <;> simp [h]

@[simp] theorem keeps_laneFree (s : State) (lane : Nat) (h : s.Keeps pq pg) :
    (s.laneFree lane).Keeps pq pg := by
  unfold State.laneFree
  simp (maxDischargeDepth := 40) [h]

@[simp] theorem keeps_mortarFailed (s : State) (lane blk : Nat) (h : s.Keeps pq pg) :
    (s.mortarFailed lane blk).Keeps pq pg := by
  unfold State.mortarFailed
  (repeat' split) <;> simp [h]

@[simp] theorem keeps_execMortarJobEnd (lane : Nat) (halvesAgree : Bool) (s : State) (h : s.Keeps pq pg) :
    OKeeps pq pg (execMortarJobEnd lane halvesAgree s) := by
  unfold execMortarJobEnd
  (repeat' split) <;> simp [h]

@[simp] theorem keeps_selfTestDone (s : State) (lane : Nat) (pass : Bool) (h : s.Keeps pq pg) :
    (s.selfTestDone lane pass).Keeps pq pg := by
  unfold State.selfTestDone
  (repeat' split) <;> simp [h]

@[simp] theorem keeps_arbitrate (s : State) (c k : Nat) (o : OpRec) (r : Report) (h : s.Keeps pq pg) :
    (s.arbitrate c k o r).Keeps pq pg := by
  unfold State.arbitrate
  simp (maxDischargeDepth := 40) [h]

@[simp] theorem keeps_execArbSelfCheckTimeout (ctx step opseq : Nat) (s : State) (h : s.Keeps pq pg) :
    OKeeps pq pg (execArbSelfCheckTimeout ctx step opseq s) := by
  unfold execArbSelfCheckTimeout
  exact h

@[simp] theorem keeps_observeDecision (s : State) (a : Arb) (d : Decision) (h : s.Keeps pq pg) :
    (s.observeDecision a d).Keeps pq pg := by
  unfold State.observeDecision
  (repeat' split) <;> simp [h]

@[simp] theorem keeps_arbStands (s : State) (c k : Nat) (o : OpRec) (h : s.Keeps pq pg) :
    (s.arbStands c k o).Keeps pq pg := by
  unfold State.arbStands
  simp (maxDischargeDepth := 40) [h]

@[simp] theorem keeps_arbAct (s : State) (a : Arb) (d : Decision) (h : s.Keeps pq pg) :
    (s.arbAct a d).Keeps pq pg := by
  unfold State.arbAct
  dsimp only
  (repeat' split) <;> simp (maxDischargeDepth := 40) [h]

@[simp] theorem keeps_execArbitrationDecision (ctx step opseq : Nat) (s : State) (h : s.Keeps pq pg) :
    OKeeps pq pg (execArbitrationDecision ctx step opseq s) := by
  unfold execArbitrationDecision
  (repeat' split) <;> simp [h]

@[simp] theorem keeps_onLoad (s : State) (slot : Nat) (f : RcpLoad → RcpLoad) (h : s.Keeps pq pg) :
    (s.onLoad slot f).Keeps pq pg := by
  unfold State.onLoad
  first
    | with_reducible exact h
    | (simp (maxDischargeDepth := 40) [h]; done)
    | ((try dsimp only) <;> (repeat' split) <;> first | with_reducible exact h | (simp (maxDischargeDepth := 40) [h]; done) | simp_all (maxDischargeDepth := 40))

@[simp] theorem keeps_katRan (s : State) (slot lane : Nat) (r : Recipe) (v : Nat) (rest : List Nat) (halves : Bool) (h : s.Keeps pq pg) :
    (s.katRan slot lane r v rest halves).Keeps pq pg := by
  unfold State.katRan
  first
    | with_reducible exact h
    | (simp (maxDischargeDepth := 40) [h]; done)
    | ((try dsimp only) <;> (repeat' split) <;> first | with_reducible exact h | (simp (maxDischargeDepth := 40) [h]; done) | simp_all (maxDischargeDepth := 40))

@[simp] theorem keeps_execKatVectorRun (slot : Nat) (halves : Bool) (s : State) (h : s.Keeps pq pg) :
    OKeeps pq pg (execKatVectorRun slot halves s) := by
  unfold execKatVectorRun
  first
    | with_reducible exact h
    | (simp (maxDischargeDepth := 40) [h]; done)
    | ((try dsimp only) <;> (repeat' split) <;> first | with_reducible exact h | (simp (maxDischargeDepth := 40) [h]; done) | simp_all (maxDischargeDepth := 40))

@[simp] theorem keeps_fenceLanes (s : State) (m : Nat) (x0 : List Nat) (h : s.Keeps pq pg) :
    (s.fenceLanes m x0).Keeps pq pg := by
  induction x0 generalizing s m with
  | nil => simp [State.fenceLanes, h]
  | cons x t ih =>
    unfold State.fenceLanes
    dsimp only
    (repeat' split) <;> simp [h, ih]

@[simp] theorem keeps_selfTestLanes (s : State) (m : Nat) (x0 : List Nat) (h : s.Keeps pq pg) :
    (s.selfTestLanes m x0).Keeps pq pg := by
  induction x0 generalizing s m with
  | nil => simp [State.selfTestLanes, h]
  | cons x t ih =>
    unfold State.selfTestLanes
    simp [h, ih]

@[simp] theorem keeps_reinstateLanes (s : State) (m : Nat) (x0 : List Nat) (h : s.Keeps pq pg) :
    (s.reinstateLanes m x0).Keeps pq pg := by
  induction x0 generalizing s m with
  | nil => simp [State.reinstateLanes, h]
  | cons x t ih =>
    unfold State.reinstateLanes
    dsimp only
    (repeat' split) <;> simp [h, ih]

@[simp] theorem keeps_laneCtrl (s : State) (v : Nat) (h : s.Keeps pq pg) :
    (s.laneCtrl v).Keeps pq pg := by
  unfold State.laneCtrl
  simp (maxDischargeDepth := 40) [h]

end Sys2Proof.Machine
end

