-- ==== Sys2Proof/Laws/KeepsAccess.lean ====
section
/-! SUPPORT. The operations of Machine/Access.lean keep the queue, the integration and the canonical forms. -/

namespace Sys2Proof.Machine

variable {pq : List Instr} {pg : Cfg}

@[simp] theorem keeps_writeAccess (s : State) (src : Src) (a : Nat) (f : State → State) (h : s.Keeps pq pg)
    (hf : ∀ u, u.Keeps pq pg → (f u).Keeps pq pg) : (s.writeAccess src a f).Keeps pq pg := by
  unfold State.writeAccess
  simp (maxDischargeDepth := 40) [h, hf]

@[simp] theorem keeps_readAccess (s : State) (src : Src) (a : Nat) (f : State → State × Nat) (h : s.Keeps pq pg)
    (hf : ∀ u, u.Keeps pq pg → (f u).1.Keeps pq pg) : (s.readAccess src a f).Keeps pq pg := by
  unfold State.readAccess
  simp (maxDischargeDepth := 40) [h, hf]

end Sys2Proof.Machine
end

