-- ==== Sys2Proof/Laws/KeepsCounters.lean ====
section
/-! SUPPORT. The operations of Machine/Counters.lean keep the queue, the integration and the canonical forms. -/

namespace Sys2Proof.Machine

variable {pq : List Instr} {pg : Cfg}

@[simp] theorem keeps_clearRun (s : State) (v a n : Nat) (h : s.Keeps pq pg) :
    (s.clearRun v a n).Keeps pq pg := by
  unfold State.clearRun
  simp [h]

@[simp] theorem keeps_zeroGlitch (s : State) (x0 : List Nat) (h : s.Keeps pq pg) :
    (s.zeroGlitch x0).Keeps pq pg := by
  induction x0 generalizing s with
  | nil => simp [State.zeroGlitch, h]
  | cons x t ih =>
    unfold State.zeroGlitch
    simp [h, ih]

@[simp] theorem keeps_clearCol (s : State) (v : Nat) (h : s.Keeps pq pg) :
    (s.clearCol v).Keeps pq pg := by
  unfold State.clearCol
  (repeat' split) <;> simp [h]

@[simp] theorem keeps_execLdlCntClr (src : Src) (tile val : Nat) (s : State) (h : s.Keeps pq pg) :
    OKeeps pq pg (execLdlCntClr src tile val s) := by
  unfold execLdlCntClr
  (repeat' split) <;> simp_all

@[simp] theorem keeps_execHubSealCntClr (src : Src) (val : Nat) (s : State) (h : s.Keeps pq pg) :
    OKeeps pq pg (execHubSealCntClr src val s) := by
  unfold execHubSealCntClr
  (repeat' split) <;> simp_all

@[simp] theorem keeps_execMtrCntClr (src : Src) (val : Nat) (s : State) (h : s.Keeps pq pg) :
    OKeeps pq pg (execMtrCntClr src val s) := by
  unfold execMtrCntClr
  (repeat' split) <;> simp_all

@[simp] theorem keeps_execLidCntClr (src : Src) (val : Nat) (s : State) (h : s.Keeps pq pg) :
    OKeeps pq pg (execLidCntClr src val s) := by
  unfold execLidCntClr
  (repeat' split) <;> simp_all

@[simp] theorem keeps_execSckCntClr (src : Src) (val : Nat) (s : State) (h : s.Keeps pq pg) :
    OKeeps pq pg (execSckCntClr src val s) := by
  unfold execSckCntClr
  (repeat' split) <;> simp_all

@[simp] theorem keeps_execHubSisCntClr (src : Src) (val : Nat) (s : State) (h : s.Keeps pq pg) :
    OKeeps pq pg (execHubSisCntClr src val s) := by
  unfold execHubSisCntClr
  (repeat' split) <;> simp_all

@[simp] theorem keeps_execKtlCntClr (src : Src) (val : Nat) (s : State) (h : s.Keeps pq pg) :
    OKeeps pq pg (execKtlCntClr src val s) := by
  unfold execKtlCntClr
  (repeat' split) <;> simp_all

@[simp] theorem keeps_execHubJrnlCntClr (src : Src) (val : Nat) (s : State) (h : s.Keeps pq pg) :
    OKeeps pq pg (execHubJrnlCntClr src val s) := by
  unfold execHubJrnlCntClr
  (repeat' split) <;> simp_all

@[simp] theorem keeps_execHubPairCntClr (src : Src) (val : Nat) (s : State) (h : s.Keeps pq pg) :
    OKeeps pq pg (execHubPairCntClr src val s) := by
  unfold execHubPairCntClr
  (repeat' split) <;> simp_all

@[simp] theorem keeps_execHubCkptCntClr (src : Src) (val : Nat) (s : State) (h : s.Keeps pq pg) :
    OKeeps pq pg (execHubCkptCntClr src val s) := by
  unfold execHubCkptCntClr
  (repeat' split) <;> simp_all

@[simp] theorem keeps_execHubFtCntClr (src : Src) (val : Nat) (s : State) (h : s.Keeps pq pg) :
    OKeeps pq pg (execHubFtCntClr src val s) := by
  unfold execHubFtCntClr
  (repeat' split) <;> simp_all

@[simp] theorem keeps_execColCntClr (src : Src) (val : Nat) (s : State) (h : s.Keeps pq pg) :
    OKeeps pq pg (execColCntClr src val s) := by
  unfold execColCntClr
  (repeat' split) <;> simp_all

@[simp] theorem keeps_execHubRcvCntClr (src : Src) (val : Nat) (s : State) (h : s.Keeps pq pg) :
    OKeeps pq pg (execHubRcvCntClr src val s) := by
  unfold execHubRcvCntClr
  (repeat' split) <;> simp_all

@[simp] theorem keeps_execTrvCntClr (src : Src) (val : Nat) (s : State) (h : s.Keeps pq pg) :
    OKeeps pq pg (execTrvCntClr src val s) := by
  unfold execTrvCntClr
  (repeat' split) <;> simp_all

@[simp] theorem keeps_execHubPortCntClr (src : Src) (val : Nat) (s : State) (h : s.Keeps pq pg) :
    OKeeps pq pg (execHubPortCntClr src val s) := by
  unfold execHubPortCntClr
  (repeat' split) <;> simp_all

@[simp] theorem keeps_execHubBringCntClr (src : Src) (val : Nat) (s : State) (h : s.Keeps pq pg) :
    OKeeps pq pg (execHubBringCntClr src val s) := by
  unfold execHubBringCntClr
  (repeat' split) <;> simp_all

end Sys2Proof.Machine
end

