-- ==== Sys2Proof/Laws/KeepsFinish.lean ====
section
/-! SUPPORT. The operations of Machine/Finish.lean keep the queue, the integration and the canonical forms. -/

namespace Sys2Proof.Machine

variable {pq : List Instr} {pg : Cfg}

@[simp] theorem keeps_setCore (s : State) (k : Nat) (v : Core) (h : s.Keeps pq pg) :
    (s.setCore k v).Keeps pq pg := by
  unfold State.setCore
  exact h

@[simp] theorem keeps_onTaken (s : State) (n index : Nat) (f : Taken → Taken) (h : s.Keeps pq pg) :
    (s.onTaken n index f).Keeps pq pg := by
  unfold State.onTaken
  exact h

@[simp] theorem keeps_writeCompletion (s : State) (n index st res jseq : Nat) (h : s.Keeps pq pg) :
    (s.writeCompletion n index st res jseq).Keeps pq pg := by
  unfold State.writeCompletion
  (repeat' split) <;> simp [h]

@[simp] theorem keeps_finishEntry (s : State) (n index st res jseq : Nat) (h : s.Keeps pq pg) :
    (s.finishEntry n index st res jseq).Keeps pq pg := by
  unfold State.finishEntry
  simp [h]

@[simp] theorem keeps_finishRecord (s : State) (n : Nat) (t : Taken) (st res : Nat) (h : s.Keeps pq pg) :
    (s.finishRecord n t st res).Keeps pq pg := by
  unfold State.finishRecord
  simp [h]

@[simp] theorem keeps_countFinal (s : State) (st : Nat) (own : Bool) (h : s.Keeps pq pg) :
    (s.countFinal st own).Keeps pq pg := by
  unfold State.countFinal
  simp [h]

@[simp] theorem keeps_complete (s : State) (t st res : Nat) (own : Bool) (h : s.Keeps pq pg) :
    (s.complete t st res own).Keeps pq pg := by
  unfold State.complete
  (repeat' split) <;> simp (maxDischargeDepth := 40) [h]

@[simp] theorem keeps_completeAll (s : State) (st res : Nat) (own : Bool) (x0 : List Nat) (h : s.Keeps pq pg) :
    (s.completeAll st res own x0).Keeps pq pg := by
  induction x0 generalizing s st res own with
  | nil => simp [State.completeAll, h]
  | cons x t ih =>
    unfold State.completeAll
    simp [h, ih]

@[simp] theorem keeps_completeOpt (s : State) (t : Option Nat) (st res : Nat) (own : Bool) (h : s.Keeps pq pg) :
    (s.completeOpt t st res own).Keeps pq pg := by
  unfold State.completeOpt
  (repeat' split) <;> simp [h]

@[simp] theorem keeps_closeTickets (s : State) (x0 : List Nat) (h : s.Keeps pq pg) :
    (s.closeTickets x0).Keeps pq pg := by
  induction x0 generalizing s with
  | nil => simp [State.closeTickets, h]
  | cons x t ih =>
    unfold State.closeTickets
    (repeat' split) <;> simp [h, ih]

@[simp] theorem keeps_setProgram (s : State) (p : Nat) (v : Program) (h : s.Keeps pq pg) :
    (s.setProgram p v).Keeps pq pg := by
  unfold State.setProgram
  exact h

@[simp] theorem keeps_onProgram (s : State) (p : Nat) (f : Program → Program) (h : s.Keeps pq pg) :
    (s.onProgram p f).Keeps pq pg := by
  unfold State.onProgram
  (repeat' split) <;> simp [h]

@[simp] theorem keeps_freeThread (s : State) (p : Nat) (h : s.Keeps pq pg) :
    (s.freeThread p).Keeps pq pg := by
  unfold State.freeThread
  (repeat' split) <;> simp [h]

@[simp] theorem keeps_progFailed (s : State) (h : s.Keeps pq pg) :
    s.progFailed.Keeps pq pg := by
  unfold State.progFailed
  simp [h]

@[simp] theorem keeps_endEntry (s : State) (p : Program) (rec st : Nat) (h : s.Keeps pq pg) :
    (s.endEntry p rec st).Keeps pq pg := by
  unfold State.endEntry
  simp [h]

@[simp] theorem keeps_endProgram (s : State) (id st : Nat) (failed : Bool) (h : s.Keeps pq pg) :
    (s.endProgram id st failed).Keeps pq pg := by
  unfold State.endProgram
  (repeat' split) <;> simp (maxDischargeDepth := 40) [h]

@[simp] theorem keeps_endPrograms (s : State) (st : Nat) (failed : Bool) (x0 : List Nat) (h : s.Keeps pq pg) :
    (s.endPrograms st failed x0).Keeps pq pg := by
  induction x0 generalizing s st failed with
  | nil => simp [State.endPrograms, h]
  | cons x t ih =>
    unfold State.endPrograms
    simp [h, ih]

@[simp] theorem keeps_goto (s : State) (id pc : Nat) (h : s.Keeps pq pg) :
    (s.goto id pc).Keeps pq pg := by
  unfold State.goto
  (repeat' split) <;> simp [h]

@[simp] theorem keeps_advance (s : State) (id : Nat) (h : s.Keeps pq pg) :
    (s.advance id).Keeps pq pg := by
  unfold State.advance
  (repeat' split) <;> simp [h]

@[simp] theorem keeps_countStatus (s : State) (st : Nat) (h : s.Keeps pq pg) :
    (s.countStatus st).Keeps pq pg := by
  unfold State.countStatus
  first
    | with_reducible exact h
    | (simp (maxDischargeDepth := 40) [h]; done)
    | ((try dsimp only) <;> (repeat' split) <;> first | with_reducible exact h | (simp (maxDischargeDepth := 40) [h]; done) | simp_all (maxDischargeDepth := 40))

@[simp] theorem keeps_returned (s : State) (t id st : Nat) (h : s.Keeps pq pg) :
    (s.returned t id st).Keeps pq pg := by
  unfold State.returned
  first
    | with_reducible exact h
    | (simp (maxDischargeDepth := 40) [h]; done)
    | ((try dsimp only) <;> (repeat' split) <;> first | with_reducible exact h | (simp (maxDischargeDepth := 40) [h]; done) | simp_all (maxDischargeDepth := 40))

end Sys2Proof.Machine
end

