-- ==== Sys2Proof/Laws/KeepsRecovery.lean ====
section
/-! SUPPORT. The operations of Machine/Recovery.lean keep the queue, the integration and the canonical forms. -/

namespace Sys2Proof.Machine

variable {pq : List Instr} {pg : Cfg}

@[simp] theorem keeps_drive1 (s : State) (i bit : Nat) (on : Bool) (h : s.Keeps pq pg) :
    (s.drive1 i bit on).Keeps pq pg := by
  unfold State.drive1
  exact h

@[simp] theorem keeps_drive (s : State) (bit : Nat) (on : Bool) (x0 : List Nat) (h : s.Keeps pq pg) :
    (s.drive bit on x0).Keeps pq pg := by
  induction x0 generalizing s bit on with
  | nil => simp [State.drive, h]
  | cons x t ih =>
    unfold State.drive
    simp [h, ih]

@[simp] theorem keeps_bumpEpochs (s : State) (x0 : List Nat) (h : s.Keeps pq pg) :
    (s.bumpEpochs x0).Keeps pq pg := by
  induction x0 generalizing s with
  | nil => simp [State.bumpEpochs, h]
  | cons x t ih =>
    unfold State.bumpEpochs
    simp [h, ih]

@[simp] theorem keeps_setRst (s : State) (k : Nat) (v : Rst) (h : s.Keeps pq pg) :
    (s.setRst k v).Keeps pq pg := by
  unfold State.setRst
  exact h

@[simp] theorem keeps_whiskUnreachable (s : State) (t : Nat) (h : s.Keeps pq pg) :
    (s.whiskUnreachable t).Keeps pq pg := by
  unfold State.whiskUnreachable
  (repeat' split) <;> simp [h]

@[simp] theorem keeps_tileEnter (s : State) (t : Nat) (h : s.Keeps pq pg) :
    (s.tileEnter t).Keeps pq pg := by
  unfold State.tileEnter
  first
    | with_reducible exact h
    | (simp (maxDischargeDepth := 40) [h]; done)
    | ((try dsimp only) <;> (repeat' split) <;> first | with_reducible exact h | (simp (maxDischargeDepth := 40) [h]; done) | simp_all (maxDischargeDepth := 40))

@[simp] theorem keeps_tilesEnter (s : State) (x0 : List Nat) (h : s.Keeps pq pg) :
    (s.tilesEnter x0).Keeps pq pg := by
  induction x0 generalizing s with
  | nil => simp [State.tilesEnter, h]
  | cons x t ih =>
    unfold State.tilesEnter
    simp [h, ih]

@[simp] theorem keeps_execTileResetEntry (tile : Nat) (s : State) (h : s.Keeps pq pg) :
    OKeeps pq pg (execTileResetEntry tile s) := by
  unfold execTileResetEntry
  simp [h]

@[simp] theorem keeps_tileLeave (s : State) (t : Nat) (h : s.Keeps pq pg) :
    (s.tileLeave t).Keeps pq pg := by
  unfold State.tileLeave
  simp [h]

@[simp] theorem keeps_tilesLeave (s : State) (x0 : List Nat) (h : s.Keeps pq pg) :
    (s.tilesLeave x0).Keeps pq pg := by
  induction x0 generalizing s with
  | nil => simp [State.tilesLeave, h]
  | cons x t ih =>
    unfold State.tilesLeave
    simp [h, ih]

@[simp] theorem keeps_askKat (s : State) (t : Nat) (h : s.Keeps pq pg) :
    (s.askKat t).Keeps pq pg := by
  unfold State.askKat
  first
    | with_reducible exact h
    | (simp (maxDischargeDepth := 40) [h]; done)
    | ((try dsimp only) <;> (repeat' split) <;> first | with_reducible exact h | (simp (maxDischargeDepth := 40) [h]; done) | simp_all (maxDischargeDepth := 40))

@[simp] theorem keeps_askKats (s : State) (x0 : List Nat) (h : s.Keeps pq pg) :
    (s.askKats x0).Keeps pq pg := by
  induction x0 generalizing s with
  | nil => first | with_reducible exact h | (simp (maxDischargeDepth := 40) [State.askKats, h]; done)
  | cons x t ih =>
    unfold State.askKats
    first
      | (simp (maxDischargeDepth := 40) [h, ih]; done)
      | ((try dsimp only) <;> (repeat' split) <;> first | (simp (maxDischargeDepth := 40) [h, ih]; done) | simp_all (maxDischargeDepth := 40))

@[simp] theorem keeps_detectAll (s : State) (x0 : List (Nat × Nat × Nat)) (h : s.Keeps pq pg) :
    (s.detectAll x0).Keeps pq pg := by
  induction x0 generalizing s with
  | nil => simp [State.detectAll, h]
  | cons x t ih =>
    unfold State.detectAll
    simp [h, ih]

@[simp] theorem keeps_mergeRsts (s : State) (x0 : List Nat) (h : s.Keeps pq pg) :
    (s.mergeRsts x0).1.Keeps pq pg := by
  induction x0 generalizing s with
  | nil => simp [State.mergeRsts, h]
  | cons x t ih =>
    unfold State.mergeRsts
    simp [h, ih]

@[simp] theorem keeps_quiesce (s : State) (k : Nat) (v : Rst) (h : s.Keeps pq pg) :
    (s.quiesce k v).Keeps pq pg := by
  unfold State.quiesce
  simp (maxDischargeDepth := 40) [h]

@[simp] theorem keeps_enterReset (s : State) (k : Nat) (h : s.Keeps pq pg) :
    (s.enterReset k).Keeps pq pg := by
  unfold State.enterReset
  dsimp only
  (repeat' split) <;> first | (simp (maxDischargeDepth := 40) [h]; done) | simp_all (maxDischargeDepth := 40)

@[simp] theorem keeps_pastDrain (s : State) (k : Nat) (h : s.Keeps pq pg) :
    (s.pastDrain k).Keeps pq pg := by
  unfold State.pastDrain
  simp [h]

@[simp] theorem keeps_absorb (s : State) (k : Nat) (h : s.Keeps pq pg) :
    (s.absorb k).Keeps pq pg := by
  unfold State.absorb
  simp (maxDischargeDepth := 40) [h]

@[simp] theorem keeps_unhang (s : State) (x0 : List Nat) (h : s.Keeps pq pg) :
    (s.unhang x0).Keeps pq pg := by
  induction x0 generalizing s with
  | nil => simp [State.unhang, h]
  | cons x t ih =>
    unfold State.unhang
    simp [h, ih]

@[simp] theorem keeps_reviveStops (s : State) (x0 : List Nat) (h : s.Keeps pq pg) :
    (s.reviveStops x0).Keeps pq pg := by
  induction x0 generalizing s with
  | nil => simp [State.reviveStops, h]
  | cons x t ih =>
    unfold State.reviveStops
    simp [h, ih]

@[simp] theorem keeps_rstReturn (s : State) (k : Nat) (h : s.Keeps pq pg) :
    (s.rstReturn k).Keeps pq pg := by
  unfold State.rstReturn
  simp (maxDischargeDepth := 40) [h]

@[simp] theorem keeps_rstHold (s : State) (k st : Nat) (h : s.Keeps pq pg) :
    (s.rstHold k st).Keeps pq pg := by
  unfold State.rstHold
  simp (maxDischargeDepth := 40) [h]

@[simp] theorem keeps_execQuiesceAck (slot : Nat) (s : State) (h : s.Keeps pq pg) :
    OKeeps pq pg (execQuiesceAck slot s) := by
  unfold execQuiesceAck
  simp [h]

@[simp] theorem keeps_execQuiesceTimeout (slot : Nat) (s : State) (h : s.Keeps pq pg) :
    OKeeps pq pg (execQuiesceTimeout slot s) := by
  unfold execQuiesceTimeout
  simp [h]

@[simp] theorem keeps_execResetDrained (slot : Nat) (s : State) (h : s.Keeps pq pg) :
    OKeeps pq pg (execResetDrained slot s) := by
  unfold execResetDrained
  simp [h]

@[simp] theorem keeps_execDrainLimitExpiry (slot : Nat) (s : State) (h : s.Keeps pq pg) :
    OKeeps pq pg (execDrainLimitExpiry slot s) := by
  unfold execDrainLimitExpiry
  simp [h]

@[simp] theorem keeps_execResetHoldEnd (slot : Nat) (s : State) (h : s.Keeps pq pg) :
    OKeeps pq pg (execResetHoldEnd slot s) := by
  unfold execResetHoldEnd
  simp (maxDischargeDepth := 40) [h]

@[simp] theorem keeps_readyOn (s : State) (k : Nat) (h : s.Keeps pq pg) :
    (s.readyOn k).Keeps pq pg := by
  unfold State.readyOn
  first
    | with_reducible exact h
    | (simp (maxDischargeDepth := 40) [h]; done)
    | ((try dsimp only) <;> (repeat' split) <;> first | with_reducible exact h | (simp (maxDischargeDepth := 40) [h]; done) | simp_all (maxDischargeDepth := 40))

@[simp] theorem keeps_execResetReady (slot : Nat) (s : State) (h : s.Keeps pq pg) :
    OKeeps pq pg (execResetReady slot s) := by
  unfold execResetReady
  first
    | with_reducible exact h
    | (simp (maxDischargeDepth := 40) [h]; done)
    | ((try dsimp only) <;> (repeat' split) <;> first | with_reducible exact h | (simp (maxDischargeDepth := 40) [h]; done) | simp_all (maxDischargeDepth := 40))

@[simp] theorem keeps_execLadleSelfCheckDone (tile : Nat) (pass : Bool) (s : State) (h : s.Keeps pq pg) :
    OKeeps pq pg (execLadleSelfCheckDone tile pass s) := by
  unfold execLadleSelfCheckDone
  first
    | with_reducible exact h
    | (simp (maxDischargeDepth := 40) [h]; done)
    | ((try dsimp only) <;> (repeat' split) <;> first | with_reducible exact h | (simp (maxDischargeDepth := 40) [h]; done) | simp_all (maxDischargeDepth := 40))

@[simp] theorem keeps_execReadyLimitExpiry (slot : Nat) (s : State) (h : s.Keeps pq pg) :
    OKeeps pq pg (execReadyLimitExpiry slot s) := by
  unfold execReadyLimitExpiry
  simp [h]

@[simp] theorem keeps_execAbsorbWindowClose (slot : Nat) (s : State) (h : s.Keeps pq pg) :
    OKeeps pq pg (execAbsorbWindowClose slot s) := by
  unfold execAbsorbWindowClose
  (repeat' split) <;> simp_all

@[simp] theorem keeps_resetCmd (s : State) (level id tk : Nat) (h : s.Keeps pq pg) :
    (s.resetCmd level id tk).1.Keeps pq pg := by
  unfold State.resetCmd
  dsimp only
  (repeat' split) <;> simp [h]

@[simp] theorem keeps_enterSafe (s : State) (cause : Nat) (h : s.Keeps pq pg) :
    (s.enterSafe cause).Keeps pq pg := by
  unfold State.enterSafe
  dsimp only
  (repeat' split) <;> simp (maxDischargeDepth := 40) [h]

@[simp] theorem keeps_setWatched (s : State) (u : Nat) (v : Watched) (h : s.Keeps pq pg) :
    (s.setWatched u v).Keeps pq pg := by
  unfold State.setWatched
  exact h

@[simp] theorem keeps_hangCapture (s : State) (kind c u : Nat) (h : s.Keeps pq pg) :
    (s.hangCapture kind c u).Keeps pq pg := by
  unfold State.hangCapture
  simp (maxDischargeDepth := 40) [h]

@[simp] theorem keeps_hang (s : State) (kind c u : Nat) (h : s.Keeps pq pg) :
    (s.hang kind c u).Keeps pq pg := by
  unfold State.hang
  simp (maxDischargeDepth := 40) [h]

@[simp] theorem keeps_watchOne (s : State) (fin : Nat) (samples : List (Nat × List (Nat × Bool))) (u : Nat) (h : s.Keeps pq pg) :
    (s.watchOne fin samples u).Keeps pq pg := by
  unfold State.watchOne
  first
    | with_reducible exact h
    | (simp (maxDischargeDepth := 40) [h]; done)
    | ((try dsimp only) <;> (repeat' split) <;> first | with_reducible exact h | (simp (maxDischargeDepth := 40) [h]; done) | simp_all (maxDischargeDepth := 40))

@[simp] theorem keeps_watchAll (s : State) (fin : Nat) (samples : List (Nat × List (Nat × Bool))) (x0 : List Nat) (h : s.Keeps pq pg) :
    (s.watchAll fin samples x0).Keeps pq pg := by
  induction x0 generalizing s fin samples with
  | nil => first | with_reducible exact h | (simp (maxDischargeDepth := 40) [State.watchAll, h]; done)
  | cons x t ih =>
    unfold State.watchAll
    first
      | (simp (maxDischargeDepth := 40) [h, ih]; done)
      | ((try dsimp only) <;> (repeat' split) <;> first | (simp (maxDischargeDepth := 40) [h, ih]; done) | simp_all (maxDischargeDepth := 40))

@[simp] theorem keeps_execWatchWindowEnd (samples : List (Nat × List (Nat × Bool))) (s : State) (h : s.Keeps pq pg) :
    OKeeps pq pg (execWatchWindowEnd samples s) := by
  unfold execWatchWindowEnd
  first
    | with_reducible exact h
    | (simp (maxDischargeDepth := 40) [h]; done)
    | ((try dsimp only) <;> (repeat' split) <;> first | with_reducible exact h | (simp (maxDischargeDepth := 40) [h]; done) | simp_all (maxDischargeDepth := 40))

@[simp] theorem keeps_execVerdictAgeHang (tile : Nat) (s : State) (h : s.Keeps pq pg) :
    OKeeps pq pg (execVerdictAgeHang tile s) := by
  unfold execVerdictAgeHang
  first
    | with_reducible exact h
    | (simp (maxDischargeDepth := 40) [h]; done)
    | ((try dsimp only) <;> (repeat' split) <;> first | with_reducible exact h | (simp (maxDischargeDepth := 40) [h]; done) | simp_all (maxDischargeDepth := 40))

@[simp] theorem keeps_markExcluded (s : State) (x0 : List Nat) (h : s.Keeps pq pg) :
    (s.markExcluded x0).Keeps pq pg := by
  induction x0 generalizing s with
  | nil => first | with_reducible exact h | (simp (maxDischargeDepth := 40) [State.markExcluded, h]; done)
  | cons x t ih =>
    unfold State.markExcluded
    first
      | (simp (maxDischargeDepth := 40) [h, ih]; done)
      | ((try dsimp only) <;> (repeat' split) <;> first | (simp (maxDischargeDepth := 40) [h, ih]; done) | simp_all (maxDischargeDepth := 40))

@[simp] theorem keeps_tick (s : State) (h : s.Keeps pq pg) :
    s.tick.Keeps pq pg := by
  unfold State.tick
  first
    | with_reducible exact h
    | (simp (maxDischargeDepth := 40) [h]; done)
    | ((try dsimp only) <;> (repeat' split) <;> first | with_reducible exact h | (simp (maxDischargeDepth := 40) [h]; done) | simp_all (maxDischargeDepth := 40))

@[simp] theorem keeps_execCflIssue (lane ctx gen tag : Nat) (s : State) (h : s.Keeps pq pg) :
    OKeeps pq pg (execCflIssue lane ctx gen tag s) := by
  unfold execCflIssue
  first
    | with_reducible exact h
    | (simp (maxDischargeDepth := 40) [h]; done)
    | ((try dsimp only) <;> (repeat' split) <;> first | with_reducible exact h | (simp (maxDischargeDepth := 40) [h]; done) | simp_all (maxDischargeDepth := 40))

@[simp] theorem keeps_execCflComplete (lane ctx gen tag : Nat) (s : State) (h : s.Keeps pq pg) :
    OKeeps pq pg (execCflComplete lane ctx gen tag s) := by
  unfold execCflComplete
  simp (maxDischargeDepth := 40) [h]

@[simp] theorem keeps_setTeardown (s : State) (v : Teardown) (h : s.Keeps pq pg) :
    (s.setTeardown v).Keeps pq pg := by
  unfold State.setTeardown
  exact h

@[simp] theorem keeps_quietResets (s : State) (x0 : List Nat) (h : s.Keeps pq pg) :
    (s.quietResets x0).Keeps pq pg := by
  induction x0 generalizing s with
  | nil => simp [State.quietResets, h]
  | cons x t ih =>
    unfold State.quietResets
    (repeat' split) <;> simp [h, ih]

@[simp] theorem keeps_scrubRun (s : State) (k b : Nat) (x0 : Nat) (h : s.Keeps pq pg) :
    (s.scrubRun k b x0).Keeps pq pg := by
  induction x0 generalizing s k b with
  | zero => first | with_reducible exact h | (simp (maxDischargeDepth := 40) [State.scrubRun, h]; done)
  | succ n ih =>
    unfold State.scrubRun
    simp [h, ih]

@[simp] theorem keeps_scrubAll (s : State) (k : Nat) (x0 : List (Nat × Nat)) (h : s.Keeps pq pg) :
    (s.scrubAll k x0).Keeps pq pg := by
  induction x0 generalizing s k with
  | nil => simp [State.scrubAll, h]
  | cons x t ih =>
    unfold State.scrubAll
    simp [h, ih]

@[simp] theorem keeps_drainStep (s : State) (v : Teardown) (h : s.Keeps pq pg) :
    (s.drainStep v).Keeps pq pg := by
  unfold State.drainStep
  dsimp only
  (repeat' split) <;> simp [h]

@[simp] theorem keeps_execTeardownDrainEnd (slot : Nat) (s : State) (h : s.Keeps pq pg) :
    OKeeps pq pg (execTeardownDrainEnd slot s) := by
  unfold execTeardownDrainEnd
  (repeat' split) <;> simp [h]

@[simp] theorem keeps_execTeardownScrubDone (slot : Nat) (s : State) (h : s.Keeps pq pg) :
    OKeeps pq pg (execTeardownScrubDone slot s) := by
  unfold execTeardownScrubDone
  (repeat' split) <;> simp (maxDischargeDepth := 40) [h]

end Sys2Proof.Machine
end

