-- ==== Sys2Proof/Laws/KeepsColander.lean ====
section
/-! SUPPORT. The operations of Machine/Colander.lean keep the queue, the integration and the canonical forms. -/

namespace Sys2Proof.Machine

variable {pq : List Instr} {pg : Cfg}

@[simp] theorem keeps_latchErr (s : State) (stn i : Nat) (wire : Bool) (h : s.Keeps pq pg) :
    (s.latchErr stn i wire).Keeps pq pg := by
  unfold State.latchErr
  simp [h]

@[simp] theorem keeps_capDetail (s : State) (base addr access master : Nat) (h : s.Keeps pq pg) :
    (s.capDetail base addr access master).Keeps pq pg := by
  unfold State.capDetail
  simp (maxDischargeDepth := 40) [h]

@[simp] theorem keeps_awaitDetail (s : State) (stn i cycle : Nat) (ce : Bool) (h : s.Keeps pq pg) :
    (s.awaitDetail stn i cycle ce).Keeps pq pg := by
  unfold State.awaitDetail
  first
    | with_reducible exact h
    | (simp (maxDischargeDepth := 40) [h]; done)
    | ((try dsimp only) <;> (repeat' split) <;> first | with_reducible exact h | (simp (maxDischargeDepth := 40) [h]; done) | simp_all (maxDischargeDepth := 40))

@[simp] theorem keeps_pairCaptured (s : State) (stn i cls cycle : Nat) (wire : Bool) (h : s.Keeps pq pg) :
    (s.pairCaptured stn i cls cycle wire).Keeps pq pg := by
  unfold State.pairCaptured
  first
    | with_reducible exact h
    | (simp (maxDischargeDepth := 40) [h]; done)
    | ((try dsimp only) <;> (repeat' split) <;> first | with_reducible exact h | (simp (maxDischargeDepth := 40) [h]; done) | simp_all (maxDischargeDepth := 40))

@[simp] theorem keeps_transition (s : State) (stn i cycle : Nat) (wire : Bool) (h : s.Keeps pq pg) :
    (s.transition stn i cycle wire).Keeps pq pg := by
  unfold State.transition
  first
    | with_reducible exact h
    | (simp (maxDischargeDepth := 40) [h]; done)
    | ((try dsimp only) <;> (repeat' split) <;> first | with_reducible exact h | (simp (maxDischargeDepth := 40) [h]; done) | simp_all (maxDischargeDepth := 40))

@[simp] theorem keeps_filterBad (s : State) (stn i cycle : Nat) (wire : Bool) (h : s.Keeps pq pg) :
    (s.filterBad stn i cycle wire).Keeps pq pg := by
  unfold State.filterBad
  first
    | with_reducible exact h
    | (simp (maxDischargeDepth := 40) [h]; done)
    | ((try dsimp only) <;> (repeat' split) <;> first | with_reducible exact h | (simp (maxDischargeDepth := 40) [h]; done) | simp_all (maxDischargeDepth := 40))

@[simp] theorem keeps_execPairTransition (station pair : Nat) (wire : Bool) (cycle : Nat) (s : State) (h : s.Keeps pq pg) :
    OKeeps pq pg (execPairTransition station pair wire cycle s) := by
  unfold execPairTransition
  first
    | with_reducible exact h
    | (simp (maxDischargeDepth := 40) [h]; done)
    | ((try dsimp only) <;> (repeat' split) <;> first | with_reducible exact h | (simp (maxDischargeDepth := 40) [h]; done) | simp_all (maxDischargeDepth := 40))

@[simp] theorem keeps_filterOk (s : State) (stn i : Nat) (h : s.Keeps pq pg) :
    (s.filterOk stn i).Keeps pq pg := by
  unfold State.filterOk
  exact h

@[simp] theorem keeps_execPairReturnOk (station pair : Nat) (s : State) (h : s.Keeps pq pg) :
    OKeeps pq pg (execPairReturnOk station pair s) := by
  unfold execPairReturnOk
  simp [h]

@[simp] theorem keeps_armOut (s : State) (stn i cycle : Nat) (h : s.Keeps pq pg) :
    (s.armOut stn i cycle).Keeps pq pg := by
  unfold State.armOut
  first
    | with_reducible exact h
    | (simp (maxDischargeDepth := 40) [h]; done)
    | ((try dsimp only) <;> (repeat' split) <;> first | with_reducible exact h | (simp (maxDischargeDepth := 40) [h]; done) | simp_all (maxDischargeDepth := 40))

@[simp] theorem keeps_execPairArmTimeout (station pair cycle : Nat) (s : State) (h : s.Keeps pq pg) :
    OKeeps pq pg (execPairArmTimeout station pair cycle s) := by
  unfold execPairArmTimeout
  first
    | with_reducible exact h
    | (simp (maxDischargeDepth := 40) [h]; done)
    | ((try dsimp only) <;> (repeat' split) <;> first | with_reducible exact h | (simp (maxDischargeDepth := 40) [h]; done) | simp_all (maxDischargeDepth := 40))

@[simp] theorem keeps_beat (s : State) (b : CapBeat) (h : s.Keeps pq pg) :
    (s.beat b).Keeps pq pg := by
  unfold State.beat
  (repeat' split) <;> simp [h]

@[simp] theorem keeps_execCaptureBeat (station pair addr master access cycle : Nat) (s : State) (h : s.Keeps pq pg) :
    OKeeps pq pg (execCaptureBeat station pair addr master access cycle s) := by
  unfold execCaptureBeat
  first
    | with_reducible exact h
    | (simp (maxDischargeDepth := 40) [h]; done)
    | ((try dsimp only) <;> (repeat' split) <;> first | with_reducible exact h | (simp (maxDischargeDepth := 40) [h]; done) | simp_all (maxDischargeDepth := 40))

@[simp] theorem keeps_execCaptureDetailTimeout (station pair cycle : Nat) (s : State) (h : s.Keeps pq pg) :
    OKeeps pq pg (execCaptureDetailTimeout station pair cycle s) := by
  unfold execCaptureDetailTimeout
  first
    | with_reducible exact h
    | (simp (maxDischargeDepth := 40) [h]; done)
    | ((try dsimp only) <;> (repeat' split) <;> first | with_reducible exact h | (simp (maxDischargeDepth := 40) [h]; done) | simp_all (maxDischargeDepth := 40))

@[simp] theorem keeps_selfFault (s : State) (unit word : Nat) (h : s.Keeps pq pg) :
    (s.selfFault unit word).Keeps pq pg := by
  unfold State.selfFault
  simp [h]

@[simp] theorem keeps_execColanderSelfFault (unit word : Nat) (s : State) (h : s.Keeps pq pg) :
    OKeeps pq pg (execColanderSelfFault unit word s) := by
  unfold execColanderSelfFault
  simp [h]

@[simp] theorem keeps_exitSafe (s : State) (h : s.Keeps pq pg) :
    s.exitSafe.Keeps pq pg := by
  unfold State.exitSafe
  simp [h]

@[simp] theorem keeps_execColSafeExit (src : Src) (s : State) (h : s.Keeps pq pg) :
    OKeeps pq pg (execColSafeExit src s) := by
  unfold execColSafeExit
  (repeat' split) <;> simp_all

@[simp] theorem keeps_enablePair (s : State) (stn i : Nat) (old new : Bool) (h : s.Keeps pq pg) :
    (s.enablePair stn i old new).Keeps pq pg := by
  unfold State.enablePair
  (repeat' split) <;> simp [h]

@[simp] theorem keeps_enablePairs (s : State) (stn base old new : Nat) (x0 : List Nat) (h : s.Keeps pq pg) :
    (s.enablePairs stn base old new x0).Keeps pq pg := by
  induction x0 generalizing s stn base old new with
  | nil => simp [State.enablePairs, h]
  | cons x t ih =>
    unfold State.enablePairs
    simp [h, ih]

@[simp] theorem keeps_writeEn (s : State) (stn : Nat) (hi : Bool) (val : Nat) (h : s.Keeps pq pg) :
    (s.writeEn stn hi val).Keeps pq pg := by
  unfold State.writeEn
  (repeat' split) <;> simp [h]

@[simp] theorem keeps_execColStnEnWrite (src : Src) (station : Nat) (hi : Bool) (val : Nat) (s : State) (h : s.Keeps pq pg) :
    OKeeps pq pg (execColStnEnWrite src station hi val s) := by
  unfold execColStnEnWrite
  (repeat' split) <;> simp_all

@[simp] theorem keeps_execGlitchDiscard (station pair : Nat) (s : State) (h : s.Keeps pq pg) :
    OKeeps pq pg (execGlitchDiscard station pair s) := by
  unfold execGlitchDiscard
  simp [h]

@[simp] theorem keeps_reassertPairs (s : State) (x0 : List (Nat × StnPair)) (h : s.Keeps pq pg) :
    (s.reassertPairs x0).Keeps pq pg := by
  induction x0 generalizing s with
  | nil => simp [State.reassertPairs, h]
  | cons x t ih =>
    unfold State.reassertPairs
    (repeat' split) <;> simp [h, ih]

@[simp] theorem keeps_reassert (s : State) (h : s.Keeps pq pg) :
    s.reassert.Keeps pq pg := by
  unfold State.reassert
  simp [h]

end Sys2Proof.Machine
end

