-- ==== Sys2Proof/Laws/KeepsLedger.lean ====
section
/-! SUPPORT. The operations of Machine/Ledger.lean keep the queue, the integration and the canonical forms. -/

namespace Sys2Proof.Machine

variable {pq : List Instr} {pg : Cfg}

@[simp] theorem keeps_refuseOp (s : State) (k row : Nat) (d : Desc) (h : s.Keeps pq pg) :
    (s.refuseOp k row d).Keeps pq pg := by
  unfold State.refuseOp
  simp (maxDischargeDepth := 40) [h]

@[simp] theorem keeps_writeRecord (s : State) (place : Nat) (h : s.Keeps pq pg) :
    (s.writeRecord place).Keeps pq pg := by
  unfold State.writeRecord
  first
    | with_reducible exact h
    | (simp (maxDischargeDepth := 40) [h]; done)
    | ((try dsimp only) <;> (repeat' split) <;> first | with_reducible exact h | (simp (maxDischargeDepth := 40) [h]; done) | simp_all (maxDischargeDepth := 40))

@[simp] theorem keeps_acceptOp (s : State) (k t : Nat) (o : LOp) (h : s.Keeps pq pg) :
    (s.acceptOp k t o).Keeps pq pg := by
  unfold State.acceptOp
  first
    | with_reducible exact h
    | (simp (maxDischargeDepth := 40) [h]; done)
    | ((try dsimp only) <;> (repeat' split) <;> first | with_reducible exact h | (simp (maxDischargeDepth := 40) [h]; done) | simp_all (maxDischargeDepth := 40))

@[simp] theorem keeps_lidDecide (s : State) (t : Nat) (o : LOp) (h : s.Keeps pq pg) :
    (s.lidDecide t o).1.Keeps pq pg := by
  unfold State.lidDecide
  dsimp only
  (repeat' split) <;> simp [h]

@[simp] theorem keeps_takeDesc (s : State) (h : s.Keeps pq pg) :
    s.takeDesc.Keeps pq pg := by
  unfold State.takeDesc
  dsimp only
  (repeat' split) <;> simp [h]

@[simp] theorem keeps_execOpAccept (s : State) (h : s.Keeps pq pg) :
    OKeeps pq pg (execOpAccept s) := by
  unfold execOpAccept
  simp [h]

@[simp] theorem keeps_askedSamples (s : State) (c k : Nat) (o : OpRec) (x0 : List (List Nat)) (h : s.Keeps pq pg) :
    (s.askedSamples c k o x0).Keeps pq pg := by
  induction x0 generalizing s c k o with
  | nil => simp [State.askedSamples, h]
  | cons x t ih =>
    unfold State.askedSamples
    simp [h, ih]

@[simp] theorem keeps_passOp (s : State) (c k : Nat) (o : OpRec) (h : s.Keeps pq pg) :
    (s.passOp c k o).Keeps pq pg := by
  unfold State.passOp
  simp (maxDischargeDepth := 40) [h]

@[simp] theorem keeps_confirmAll (s : State) (r : Report) (x0 : List SealFail) (h : s.Keeps pq pg) :
    (s.confirmAll r x0).Keeps pq pg := by
  induction x0 generalizing s r with
  | nil => simp [State.confirmAll, h]
  | cons x t ih =>
    unfold State.confirmAll
    simp [h, ih]

@[simp] theorem keeps_arbitrateOp (s : State) (r : Report) (k : Option Nat) (h : s.Keeps pq pg) :
    (s.arbitrateOp r k).Keeps pq pg := by
  unfold State.arbitrateOp
  first
    | with_reducible exact h
    | (simp (maxDischargeDepth := 40) [h]; done)
    | ((try dsimp only) <;> (repeat' split) <;> first | with_reducible exact h | (simp (maxDischargeDepth := 40) [h]; done) | simp_all (maxDischargeDepth := 40))

@[simp] theorem keeps_failedOp (s : State) (r : Report) (k : Option Nat) (h : s.Keeps pq pg) :
    (s.failedOp r k).Keeps pq pg := by
  unfold State.failedOp
  dsimp only
  (repeat' split) <;> simp (maxDischargeDepth := 40) [h]

@[simp] theorem keeps_takeReport (s : State) (r : Report) (h : s.Keeps pq pg) :
    (s.takeReport r).Keeps pq pg := by
  unfold State.takeReport
  dsimp only
  (repeat' split) <;> simp [h]

@[simp] theorem keeps_execLadleReport (s : State) (h : s.Keeps pq pg) :
    OKeeps pq pg (execLadleReport s) := by
  unfold execLadleReport
  (repeat' split) <;> simp [h]

@[simp] theorem keeps_haltAck (s : State) (c gen step next : Nat) (h : s.Keeps pq pg) :
    (s.haltAck c gen step next).Keeps pq pg := by
  unfold State.haltAck
  dsimp only
  (repeat' split) <;> simp [h]

@[simp] theorem keeps_execHaltAck (m : PeerMsg) (s : State) (h : s.Keeps pq pg) :
    OKeeps pq pg (execHaltAck m s) := by
  unfold execHaltAck
  first
    | with_reducible exact h
    | (simp (maxDischargeDepth := 40) [h]; done)
    | ((try dsimp only) <;> (repeat' split) <;> first | with_reducible exact h | (simp (maxDischargeDepth := 40) [h]; done) | simp_all (maxDischargeDepth := 40))

@[simp] theorem keeps_replay (s : State) (c k : Nat) (h : s.Keeps pq pg) :
    (s.replay c k).Keeps pq pg := by
  unfold State.replay
  simp (maxDischargeDepth := 40) [h]

@[simp] theorem keeps_execReplay (ctx slot : Nat) (s : State) (h : s.Keeps pq pg) :
    OKeeps pq pg (execReplay ctx slot s) := by
  unfold execReplay
  simp [h]

@[simp] theorem keeps_release (s : State) (c k b : Nat) (h : s.Keeps pq pg) :
    (s.release c k b).Keeps pq pg := by
  unfold State.release
  simp (maxDischargeDepth := 40) [h]

@[simp] theorem keeps_execBucketRelease (ctx slot bucket : Nat) (s : State) (h : s.Keeps pq pg) :
    OKeeps pq pg (execBucketRelease ctx slot bucket s) := by
  unfold execBucketRelease
  simp [h]

@[simp] theorem keeps_freeSlot (s : State) (c k : Nat) (h : s.Keeps pq pg) :
    (s.freeSlot c k).Keeps pq pg := by
  unfold State.freeSlot
  simp [h]

@[simp] theorem keeps_execStepSlotFree (ctx slot : Nat) (s : State) (h : s.Keeps pq pg) :
    OKeeps pq pg (execStepSlotFree ctx slot s) := by
  unfold execStepSlotFree
  simp [h]

@[simp] theorem keeps_pairTake (s : State) (m : PeerMsg) (h : s.Keeps pq pg) :
    (s.pairTake m).Keeps pq pg := by
  unfold State.pairTake
  dsimp only
  (repeat' split) <;> simp [h]

@[simp] theorem keeps_execPairOps (m : PeerMsg) (s : State) (h : s.Keeps pq pg) :
    OKeeps pq pg (execPairOps m s) := by
  unfold execPairOps
  (repeat' split) <;> simp [h]

@[simp] theorem keeps_execPairStep (m : PeerMsg) (s : State) (h : s.Keeps pq pg) :
    OKeeps pq pg (execPairStep m s) := by
  unfold execPairStep
  (repeat' split) <;> simp [h]

@[simp] theorem keeps_unpair (s : State) (c : Nat) (h : s.Keeps pq pg) :
    (s.unpair c).Keeps pq pg := by
  unfold State.unpair
  exact h

@[simp] theorem keeps_execPairTimeout (ctx : Nat) (s : State) (h : s.Keeps pq pg) :
    OKeeps pq pg (execPairTimeout ctx s) := by
  unfold execPairTimeout
  (repeat' split) <;> simp (maxDischargeDepth := 40) [h]

end Sys2Proof.Machine
end

