-- ==== Sys2Proof/Laws/KeepsSis.lean ====
section
/-! SUPPORT. The operations of Machine/Sis.lean keep the queue, the integration and the canonical forms. -/

namespace Sys2Proof.Machine

variable {pq : List Instr} {pg : Cfg}

@[simp] theorem keeps_confirmProg (s : State) (ctx gen blk : Nat) (h : s.Keeps pq pg) :
    (s.confirmProg ctx gen blk).Keeps pq pg := by
  unfold State.confirmProg
  (repeat' split) <;> simp [h]

@[simp] theorem keeps_issues (s : State) (t : Nat) (h : s.Keeps pq pg) :
    (s.issues t).Keeps pq pg := by
  unfold State.issues
  first
    | with_reducible exact h
    | (simp (maxDischargeDepth := 40) [h]; done)
    | ((try dsimp only) <;> (repeat' split) <;> first | with_reducible exact h | (simp (maxDischargeDepth := 40) [h]; done) | simp_all (maxDischargeDepth := 40))

@[simp] theorem keeps_recordBad (s : State) (t id w : Nat) (p : Program) (h : s.Keeps pq pg) :
    (s.recordBad t id w p).Keeps pq pg := by
  unfold State.recordBad
  first
    | with_reducible exact h
    | (simp (maxDischargeDepth := 40) [h]; done)
    | ((try dsimp only) <;> (repeat' split) <;> first | with_reducible exact h | (simp (maxDischargeDepth := 40) [h]; done) | simp_all (maxDischargeDepth := 40))

@[simp] theorem keeps_fetch (s : State) (t word : Nat) (h : s.Keeps pq pg) :
    (s.fetch t word).1.Keeps pq pg := by
  unfold State.fetch
  dsimp only
  (repeat' split) <;> simp (maxDischargeDepth := 40) [h]

@[simp] theorem keeps_saveRecord (s : State) (t id : Nat) (h : s.Keeps pq pg) :
    (s.saveRecord t id).Keeps pq pg := by
  unfold State.saveRecord
  first
    | with_reducible exact h
    | (simp (maxDischargeDepth := 40) [h]; done)
    | ((try dsimp only) <;> (repeat' split) <;> first | with_reducible exact h | (simp (maxDischargeDepth := 40) [h]; done) | simp_all (maxDischargeDepth := 40))

@[simp] theorem keeps_swap (s : State) (t : Nat) (out : Option Nat) (p : Nat) (h : s.Keeps pq pg) :
    (s.swap t out p).Keeps pq pg := by
  unfold State.swap
  (repeat' split) <;> simp (maxDischargeDepth := 40) [h]

@[simp] theorem keeps_execProgramDispatch (t : Nat) (s : State) (h : s.Keeps pq pg) :
    OKeeps pq pg (execProgramDispatch t s) := by
  unfold execProgramDispatch
  dsimp only
  (repeat' split) <;> simp [h]

@[simp] theorem keeps_execSwapComplete (t : Nat) (s : State) (h : s.Keeps pq pg) :
    OKeeps pq pg (execSwapComplete t s) := by
  unfold execSwapComplete
  simp (maxDischargeDepth := 40) [h]

@[simp] theorem keeps_badOperand (s : State) (id : Nat) (h : s.Keeps pq pg) :
    (s.badOperand id).Keeps pq pg := by
  unfold State.badOperand
  simp [h]

@[simp] theorem keeps_badOpcode (s : State) (id : Nat) (h : s.Keeps pq pg) :
    (s.badOpcode id).Keeps pq pg := by
  unfold State.badOpcode
  simp [h]

@[simp] theorem keeps_local' (s : State) (opc : Nat) (i : Issue) (bad : Nat → Nat → Nat → Nat → Bool)
    (f : State → Nat → Nat → Program → Nat → Nat → Nat → State) (h : s.Keeps pq pg)
    (hf : ∀ u t id p x y z, u.Keeps pq pg → (f u t id p x y z).Keeps pq pg) : (s.local' opc i bad f).Keeps pq pg := by
  unfold State.local'
  split
  · next t rd ra rb rc _ =>
    have hk := keeps_fetch s t (encodeWord opc rd ra rb rc i.mod i.imm) h
    split
    · next s1 he => rw [he] at hk; exact hk
    · next s1 id p he =>
      rw [he] at hk
      split
      · simp [State.badOpcode]; exact keeps_endProgram _ _ _ _ hk
      · exact hf _ _ _ _ _ _ _ hk
  · exact h

@[simp] theorem keeps_execNop (i : Issue) (s : State) (h : s.Keeps pq pg) :
    OKeeps pq pg (execNop i s) := by
  unfold execNop
  refine (okeeps_next _).2 (keeps_local' _ _ _ _ _ h ?_)
  intro u t id p x y z hu
  try dsimp only
  (repeat' split) <;> first | with_reducible exact hu | (simp (maxDischargeDepth := 40) [hu]; done) | simp_all (maxDischargeDepth := 40)

@[simp] theorem keeps_execEnd (i : Issue) (s : State) (h : s.Keeps pq pg) :
    OKeeps pq pg (execEnd i s) := by
  unfold execEnd
  refine (okeeps_next _).2 (keeps_local' _ _ _ _ _ h ?_)
  intro u t id p x y z hu
  try dsimp only
  (repeat' split) <;> first | with_reducible exact hu | (simp (maxDischargeDepth := 40) [hu]; done) | simp_all (maxDischargeDepth := 40)

@[simp] theorem keeps_execLdi (i : Issue) (s : State) (h : s.Keeps pq pg) :
    OKeeps pq pg (execLdi i s) := by
  unfold execLdi
  refine (okeeps_next _).2 (keeps_local' _ _ _ _ _ h ?_)
  intro u t id p x y z hu
  try dsimp only
  (repeat' split) <;> first | with_reducible exact hu | (simp (maxDischargeDepth := 40) [hu]; done) | simp_all (maxDischargeDepth := 40)

@[simp] theorem keeps_execAlu (i : Issue) (s : State) (h : s.Keeps pq pg) :
    OKeeps pq pg (execAlu i s) := by
  unfold execAlu
  refine (okeeps_next _).2 (keeps_local' _ _ _ _ _ h ?_)
  intro u t id p x y z hu
  try dsimp only
  (repeat' split) <;> first | with_reducible exact hu | (simp (maxDischargeDepth := 40) [hu]; done) | simp_all (maxDischargeDepth := 40)

@[simp] theorem keeps_execBr (i : Issue) (s : State) (h : s.Keeps pq pg) :
    OKeeps pq pg (execBr i s) := by
  unfold execBr
  refine (okeeps_next _).2 (keeps_local' _ _ _ _ _ h ?_)
  intro u t id p x y z hu
  try dsimp only
  (repeat' split) <;> first | with_reducible exact hu | (simp (maxDischargeDepth := 40) [hu]; done) | simp_all (maxDischargeDepth := 40)

@[simp] theorem keeps_execLd (i : Issue) (s : State) (h : s.Keeps pq pg) :
    OKeeps pq pg (execLd i s) := by
  unfold execLd
  refine (okeeps_next _).2 (keeps_local' _ _ _ _ _ h ?_)
  intro u t id p x y z hu
  try dsimp only
  (repeat' split) <;> first | with_reducible exact hu | (simp (maxDischargeDepth := 40) [hu]; done) | simp_all (maxDischargeDepth := 40)

@[simp] theorem keeps_execSt (i : Issue) (s : State) (h : s.Keeps pq pg) :
    OKeeps pq pg (execSt i s) := by
  unfold execSt
  refine (okeeps_next _).2 (keeps_local' _ _ _ _ _ h ?_)
  intro u t id p x y z hu
  try dsimp only
  (repeat' split) <;> first | with_reducible exact hu | (simp (maxDischargeDepth := 40) [hu]; done) | simp_all (maxDischargeDepth := 40)

@[simp] theorem keeps_execYield (i : Issue) (s : State) (h : s.Keeps pq pg) :
    OKeeps pq pg (execYield i s) := by
  unfold execYield
  refine (okeeps_next _).2 (keeps_local' _ _ _ _ _ h ?_)
  intro u t id p x y z hu
  try dsimp only
  (repeat' split) <;> first | with_reducible exact hu | (simp (maxDischargeDepth := 40) [hu]; done) | simp_all (maxDischargeDepth := 40)

@[simp] theorem keeps_collect (s : State) (id : Nat) (p : Program) (tk rd : Nat) (k : Ticket) (h : s.Keeps pq pg) :
    (s.collect id p tk rd k).Keeps pq pg := by
  unfold State.collect
  exact h

@[simp] theorem keeps_startWait (s : State) (t id : Nat) (p : Program) (w : WaitFor) (h : s.Keeps pq pg) :
    (s.startWait t id p w).Keeps pq pg := by
  unfold State.startWait
  exact h

@[simp] theorem keeps_execWait (i : Issue) (s : State) (h : s.Keeps pq pg) :
    OKeeps pq pg (execWait i s) := by
  unfold execWait
  refine (okeeps_next _).2 (keeps_local' _ _ _ _ _ h ?_)
  intro u t id p x y z hu
  try dsimp only
  (repeat' split) <;> first | with_reducible exact hu | (simp (maxDischargeDepth := 40) [hu]; done) | simp_all (maxDischargeDepth := 40)

theorem keeps_waitMet (s : State) (id : Nat) (p : Program) (t : State) (h : s.Keeps pq pg) (e : s.waitMet id p = some t) : t.Keeps pq pg := by
  unfold State.waitMet at e
  split at e
  · cases e
  · split at e
    · split at e
      · cases e; simp [h]
      · cases e
    · cases e
  · split at e
    · cases e; simp [h]
    · cases e
  · rename_i n _
    cases hw : s.waitStep p n with
    | none => simp [hw] at e
    | some st => simp [hw] at e; subst e; simp [h]

@[simp] theorem keeps_runAgain (s : State) (id : Nat) (h : s.Keeps pq pg) :
    (s.runAgain id).Keeps pq pg := by
  unfold State.runAgain
  dsimp only
  (repeat' split) <;> simp (maxDischargeDepth := 40) [h]

@[simp] theorem keeps_execWaitConditionMet (prog : Nat) (s : State) (h : s.Keeps pq pg) : OKeeps pq pg (execWaitConditionMet prog s) := by
  unfold execWaitConditionMet
  split
  · exact h
  · split
    · exact h
    · next p hp s1 he => exact keeps_runAgain _ _ (keeps_waitMet _ _ _ _ h he)

@[simp] theorem keeps_decideCmd (s : State) (sp : CmdSpec) (c : Cmd) (h : s.Keeps pq pg) (hb : (sp.body c s).1.Keeps pq pg) :
    (s.decideCmd sp c).1.Keeps pq pg := by
  unfold State.decideCmd
  dsimp only
  (repeat' split) <;> first | with_reducible exact h | with_reducible exact hb | simp_all

@[simp] theorem keeps_countReply (s : State) (c : Cmd) (x0 : Reply) (h : s.Keeps pq pg) :
    (s.countReply c x0).Keeps pq pg := by
  unfold State.countReply
  first
    | with_reducible exact h
    | (simp (maxDischargeDepth := 40) [h]; done)
    | ((try dsimp only) <;> (repeat' split) <;> first | with_reducible exact h | (simp (maxDischargeDepth := 40) [h]; done) | simp_all (maxDischargeDepth := 40))

@[simp] theorem keeps_note (s : State) (sp : CmdSpec) (c : Cmd) (e : JEntry) (h : s.Keeps pq pg) :
    (s.note sp c e).Keeps pq pg := by
  unfold State.note
  first
    | with_reducible exact h
    | (simp (maxDischargeDepth := 40) [h]; done)
    | ((try dsimp only) <;> (repeat' split) <;> first | with_reducible exact h | (simp (maxDischargeDepth := 40) [h]; done) | simp_all (maxDischargeDepth := 40))

@[simp] theorem keeps_serve (s : State) (sp : CmdSpec) (c : Cmd) (owner : Owner) (source ref cookie : Nat) (h : s.Keeps pq pg)
    (hb : ∀ u, u.Keeps pq pg → (sp.body c u).1.Keeps pq pg) : (s.serve sp c owner source ref cookie).1.Keeps pq pg := by
  have hd : ∀ e, ((s.note sp c e).decideCmd sp c).1.Keeps pq pg := fun e => keeps_decideCmd _ _ _ (keeps_note s sp c e h) (hb _ (keeps_note s sp c e h))
  have hn : ∀ e, ((s.decideCmd sp c).1.note sp c e).Keeps pq pg := fun e => keeps_note _ sp c e (keeps_decideCmd s sp c h (hb s h))
  unfold State.serve
  dsimp only
  generalize servedEntry _ _ _ _ _ _ _ = e
  have h1 : (match (s.decideCmd sp c).2 with
    | .no _ _ => (s.decideCmd sp c).1.note sp c e
    | _ => ((s.note sp c e).decideCmd sp c).1).Keeps pq pg := by
    split
    · exact hn e
    · exact hd e
  have h2 := keeps_countReply _ c (s.decideCmd sp c).2 h1
  split
  · split
    · exact h2
    · exact keeps_setTicket _ _ _ h2
  · exact h2

@[simp] theorem keeps_writeResult (s : State) (t id addr : Nat) (b : Bytes) (h : s.Keeps pq pg) :
    (s.writeResult t id addr b).Keeps pq pg := by
  unfold State.writeResult
  first
    | with_reducible exact h
    | (simp (maxDischargeDepth := 40) [h]; done)
    | ((try dsimp only) <;> (repeat' split) <;> first | with_reducible exact h | (simp (maxDischargeDepth := 40) [h]; done) | simp_all (maxDischargeDepth := 40))

@[simp] theorem keeps_deliver (s : State) (t id rd tk : Nat) (r : Reply) (imm : Nat) (h : s.Keeps pq pg) :
    (s.deliver t id rd tk r imm).Keeps pq pg := by
  unfold State.deliver
  first
    | with_reducible exact h
    | (simp (maxDischargeDepth := 40) [h]; done)
    | ((try dsimp only) <;> (repeat' split) <;> first | with_reducible exact h | (simp (maxDischargeDepth := 40) [h]; done) | simp_all (maxDischargeDepth := 40))

@[simp] theorem keeps_threadCmd (s : State) (sp : CmdSpec) (t id : Nat) (p : Program) (rd ra rb rc mod imm : Nat) (h : s.Keeps pq pg)
    (hb : ∀ c u, u.Keeps pq pg → (sp.body c u).1.Keeps pq pg) : (s.threadCmd sp t id p rd ra rb rc mod imm).Keeps pq pg := by
  unfold State.threadCmd
  dsimp only
  split
  · simp (maxDischargeDepth := 40) [h]
  · exact keeps_deliver _ _ _ _ _ _ _ (keeps_serve _ _ _ _ _ _ _ h (hb _))

@[simp] theorem keeps_portCmd (s : State) (sp : CmdSpec) (c : Cmd) (owner : Owner) (source ref cookie : Nat) (h : s.Keeps pq pg)
    (hb : ∀ u, u.Keeps pq pg → (sp.body c u).1.Keeps pq pg) : (s.portCmd sp c owner source ref cookie).1.Keeps pq pg := by
  unfold State.portCmd
  split
  · split <;> simp (maxDischargeDepth := 40) [h]
  · exact keeps_serve s sp c owner source ref cookie h hb

@[simp] theorem keeps_ringRecord (s : State) (ctx blk imm : Nat) (b : Bytes) (h : s.Keeps pq pg) :
    (s.ringRecord ctx blk imm b).Keeps pq pg := by
  unfold State.ringRecord
  simp [h]

@[simp] theorem keeps_ringCmd (s : State) (sp : CmdSpec) (n : Nat) (t : Taken) (h : s.Keeps pq pg)
    (hb : ∀ c u, u.Keeps pq pg → (sp.body c u).1.Keeps pq pg) : (s.ringCmd sp n t).Keeps pq pg := by
  have hp := fun c o a r k => keeps_portCmd s sp c o a r k h (hb c)
  unfold State.ringCmd
  dsimp only
  split <;> simp (maxDischargeDepth := 40) [hp]

theorem keeps_runCmd (s : State) (sp : CmdSpec) (i : Issue) (h : s.Keeps pq pg)
    (hb : ∀ c u, u.Keeps pq pg → (sp.body c u).1.Keeps pq pg) : (s.runCmd sp i).Keeps pq pg := by
  unfold State.runCmd
  dsimp only
  split
  · next t rd ra rb rc _ =>
    have hk := keeps_fetch s t (encodeWord sp.opc rd ra rb rc i.mod i.imm) h
    split
    · next s1 he => rw [he] at hk; exact hk
    · next s1 id p he =>
      rw [he] at hk
      exact keeps_threadCmd _ _ _ _ _ _ _ _ _ _ _ hk hb
  · have hp := fun c o a r k => keeps_portCmd s sp c o a r k h (hb c)
    split
    · exact hp _ _ _ _ _
    · exact h
  · split
    · exact h
    · split
      · exact h
      · exact keeps_ringCmd _ _ _ _ h hb

@[simp] theorem keeps_reject (s : State) (st : Nat) (h : s.Keeps pq pg) :
    (reject s st).1.Keeps pq pg := by
  unfold reject
  exact h

end Sys2Proof.Machine
end

