-- ==== Sys2Proof/Laws/KeepsCommands.lean ====
section
/-! SUPPORT. The operations of Machine/Commands.lean keep the queue, the integration and the canonical forms. -/

namespace Sys2Proof.Machine

variable {pq : List Instr} {pg : Cfg}

@[simp] theorem keeps_bindCtx (c : Cmd) (s : State) (h : s.Keeps pq pg) :
    (bindCtx c s).1.Keeps pq pg := by
  unfold bindCtx
  (repeat' split) <;> simp [h]

@[simp] theorem keeps_execCtxbind (i : Issue) (s : State) (h : s.Keeps pq pg) :
    OKeeps pq pg (execCtxbind i s) := by
  unfold execCtxbind
  exact keeps_runCmd _ _ _ h (fun c u hu => by simp (maxDischargeDepth := 40) [specCtxbind, hu])

@[simp] theorem keeps_killCtx (c : Cmd) (s : State) (h : s.Keeps pq pg) :
    (killCtx c s).1.Keeps pq pg := by
  unfold killCtx
  simp [h]

@[simp] theorem keeps_execCtxkill (i : Issue) (s : State) (h : s.Keeps pq pg) :
    OKeeps pq pg (execCtxkill i s) := by
  unfold execCtxkill
  exact keeps_runCmd _ _ _ h (fun c u hu => by simp (maxDischargeDepth := 40) [specCtxkill, hu])

@[simp] theorem keeps_startTeardown (s : State) (k c tk : Nat) (h : s.Keeps pq pg) :
    (s.startTeardown k c tk).Keeps pq pg := by
  unfold State.startTeardown
  simp (maxDischargeDepth := 40) [h]

@[simp] theorem keeps_downCtx (c : Cmd) (s : State) (h : s.Keeps pq pg) :
    (downCtx c s).1.Keeps pq pg := by
  unfold downCtx
  (repeat' split) <;> simp [h]

@[simp] theorem keeps_execCtxdown (i : Issue) (s : State) (h : s.Keeps pq pg) :
    OKeeps pq pg (execCtxdown i s) := by
  unfold execCtxdown
  exact keeps_runCmd _ _ _ h (fun c u hu => by simp (maxDischargeDepth := 40) [specCtxdown, hu])

@[simp] theorem keeps_openStep (c : Cmd) (s : State) (h : s.Keeps pq pg) :
    (openStep c s).1.Keeps pq pg := by
  unfold openStep
  dsimp only
  split
  · exact h
  · split
    · exact h
    · exact keeps_count _ _ (keeps_forgetStep _ _ _ (keeps_setCtx _ _ _ h))

@[simp] theorem keeps_execStepopen (i : Issue) (s : State) (h : s.Keeps pq pg) :
    OKeeps pq pg (execStepopen i s) := by
  unfold execStepopen
  exact keeps_runCmd _ _ _ h (fun c u hu => by simp (maxDischargeDepth := 40) [specStepopen, hu])

@[simp] theorem keeps_stepProg (s : State) (c : Cmd) (h : s.Keeps pq pg) :
    (s.stepProg c).1.Keeps pq pg := by
  unfold State.stepProg
  (repeat' split) <;> simp [h]

@[simp] theorem keeps_endStep (c : Cmd) (s : State) (h : s.Keeps pq pg) :
    (endStep c s).1.Keeps pq pg := by
  unfold endStep
  (repeat' split) <;> simp (maxDischargeDepth := 40) [h]

@[simp] theorem keeps_execStepend (i : Issue) (s : State) (h : s.Keeps pq pg) :
    OKeeps pq pg (execStepend i s) := by
  unfold execStepend
  exact keeps_runCmd _ _ _ h (fun c u hu => by simp (maxDischargeDepth := 40) [specStepend, hu])

@[simp] theorem keeps_endBucket (c : Cmd) (s : State) (h : s.Keeps pq pg) :
    (endBucket c s).1.Keeps pq pg := by
  unfold endBucket
  dsimp only
  (repeat' split) <;> simp [h]

@[simp] theorem keeps_execBktend (i : Issue) (s : State) (h : s.Keeps pq pg) :
    OKeeps pq pg (execBktend i s) := by
  unfold execBktend
  exact keeps_runCmd _ _ _ h (fun c u hu => by simp (maxDischargeDepth := 40) [specBktend, hu])

@[simp] theorem keeps_abortStep (c : Cmd) (s : State) (h : s.Keeps pq pg) :
    (abortStep c s).1.Keeps pq pg := by
  unfold abortStep
  (repeat' split) <;> simp [h]

@[simp] theorem keeps_execStepabort (i : Issue) (s : State) (h : s.Keeps pq pg) :
    OKeeps pq pg (execStepabort i s) := by
  unfold execStepabort
  exact keeps_runCmd _ _ _ h (fun c u hu => by simp (maxDischargeDepth := 40) [specStepabort, hu])

@[simp] theorem keeps_setScale (c : Cmd) (s : State) (h : s.Keeps pq pg) :
    (setScale c s).1.Keeps pq pg := by
  unfold setScale
  (repeat' split) <;> simp [h]

@[simp] theorem keeps_execSckset (i : Issue) (s : State) (h : s.Keeps pq pg) :
    OKeeps pq pg (execSckset i s) := by
  unfold execSckset
  exact keeps_runCmd _ _ _ h (fun c u hu => by simp (maxDischargeDepth := 40) [specSckset, hu])

@[simp] theorem keeps_readScale (c : Cmd) (s : State) (h : s.Keeps pq pg) :
    (readScale c s).1.Keeps pq pg := by
  unfold readScale
  exact h

@[simp] theorem keeps_execSckread (i : Issue) (s : State) (h : s.Keeps pq pg) :
    OKeeps pq pg (execSckread i s) := by
  unfold execSckread
  exact keeps_runCmd _ _ _ h (fun c u hu => by simp (maxDischargeDepth := 40) [specSckread, hu])

@[simp] theorem keeps_freeScale (c : Cmd) (s : State) (h : s.Keeps pq pg) :
    (freeScale c s).1.Keeps pq pg := by
  unfold freeScale
  simp [h]

@[simp] theorem keeps_execSckfree (i : Issue) (s : State) (h : s.Keeps pq pg) :
    OKeeps pq pg (execSckfree i s) := by
  unfold execSckfree
  exact keeps_runCmd _ _ _ h (fun c u hu => by simp (maxDischargeDepth := 40) [specSckfree, hu])

@[simp] theorem keeps_lidStat (c : Cmd) (s : State) (h : s.Keeps pq pg) :
    (lidStat c s).1.Keeps pq pg := by
  unfold lidStat
  dsimp only
  (repeat' split) <;> simp [h]

@[simp] theorem keeps_execLidstat (i : Issue) (s : State) (h : s.Keeps pq pg) :
    OKeeps pq pg (execLidstat i s) := by
  unfold execLidstat
  exact keeps_runCmd _ _ _ h (fun c u hu => by simp (maxDischargeDepth := 40) [specLidstat, hu])

@[simp] theorem keeps_sieveCfg (s : State) (b c e : Nat) (h : s.Keeps pq pg) :
    (s.sieveCfg b c e).Keeps pq pg := by
  unfold State.sieveCfg
  simp (maxDischargeDepth := 40) [h]

@[simp] theorem keeps_setSieve (c : Cmd) (s : State) (h : s.Keeps pq pg) :
    (setSieve c s).1.Keeps pq pg := by
  unfold setSieve
  simp [h]

@[simp] theorem keeps_execSievecfg (i : Issue) (s : State) (h : s.Keeps pq pg) :
    OKeeps pq pg (execSievecfg i s) := by
  unfold execSievecfg
  exact keeps_runCmd _ _ _ h (fun c u hu => by simp (maxDischargeDepth := 40) [specSievecfg, hu])

@[simp] theorem keeps_askSample (c : Cmd) (s : State) (h : s.Keeps pq pg) :
    (askSample c s).1.Keeps pq pg := by
  unfold askSample
  dsimp only
  (repeat' split) <;> simp (maxDischargeDepth := 40) [h]

@[simp] theorem keeps_execMtrsamp (i : Issue) (s : State) (h : s.Keeps pq pg) :
    OKeeps pq pg (execMtrsamp i s) := by
  unfold execMtrsamp
  exact keeps_runCmd _ _ _ h (fun c u hu => by simp (maxDischargeDepth := 40) [specMtrsamp, hu])

@[simp] theorem keeps_arbStat (c : Cmd) (s : State) (h : s.Keeps pq pg) :
    (arbStat c s).1.Keeps pq pg := by
  unfold arbStat
  (repeat' split) <;> simp [h]

@[simp] theorem keeps_execArbstat (i : Issue) (s : State) (h : s.Keeps pq pg) :
    OKeeps pq pg (execArbstat i s) := by
  unfold execArbstat
  exact keeps_runCmd _ _ _ h (fun c u hu => by simp (maxDischargeDepth := 40) [specArbstat, hu])

@[simp] theorem keeps_setMode (c : Cmd) (s : State) (h : s.Keeps pq pg) :
    (setMode c s).1.Keeps pq pg := by
  unfold setMode
  simp [h]

@[simp] theorem keeps_execModeset (i : Issue) (s : State) (h : s.Keeps pq pg) :
    OKeeps pq pg (execModeset i s) := by
  unfold execModeset
  exact keeps_runCmd _ _ _ h (fun c u hu => by simp (maxDischargeDepth := 40) [specModeset, hu])

@[simp] theorem keeps_setProv (c : Cmd) (s : State) (h : s.Keeps pq pg) :
    (setProv c s).1.Keeps pq pg := by
  unfold setProv
  (repeat' split) <;> simp [h]

@[simp] theorem keeps_execProvcfg (i : Issue) (s : State) (h : s.Keeps pq pg) :
    OKeeps pq pg (execProvcfg i s) := by
  unfold execProvcfg
  exact keeps_runCmd _ _ _ h (fun c u hu => by simp (maxDischargeDepth := 40) [specProvcfg, hu])

@[simp] theorem keeps_setPair' (c : Cmd) (s : State) (h : s.Keeps pq pg) :
    (setPair' c s).1.Keeps pq pg := by
  unfold setPair'
  dsimp only
  (repeat' split) <;> simp [h]

@[simp] theorem keeps_execPaircfg (i : Issue) (s : State) (h : s.Keeps pq pg) :
    OKeeps pq pg (execPaircfg i s) := by
  unfold execPaircfg
  exact keeps_runCmd _ _ _ h (fun c u hu => by simp (maxDischargeDepth := 40) [specPaircfg, hu])

end Sys2Proof.Machine
end

