-- ==== Sys2Proof/Laws/KeepsEngine.lean ====
section
/-! SUPPORT. The operations of Machine/Engine.lean keep the queue, the integration and the canonical forms. -/

namespace Sys2Proof.Machine

variable {pq : List Instr} {pg : Cfg}

@[simp] theorem keeps_queueSeal (s : State) (j : SealJob) (h : s.Keeps pq pg) :
    (s.queueSeal j).Keeps pq pg := by
  unfold State.queueSeal
  simp [h]

@[simp] theorem keeps_nextSeal (s : State) (h : s.Keeps pq pg) :
    s.nextSeal.Keeps pq pg := by
  unfold State.nextSeal
  dsimp only
  (repeat' split) <;> simp [h]

@[simp] theorem keeps_sealConfirm (s : State) (blk : Nat) (own : Bool) (gen fmt kind bcv : Nat) (h : s.Keeps pq pg) :
    (s.sealConfirm blk own gen fmt kind bcv).Keeps pq pg := by
  unfold State.sealConfirm
  first
    | with_reducible exact h
    | (simp (maxDischargeDepth := 40) [h]; done)
    | ((try dsimp only) <;> (repeat' split) <;> first | with_reducible exact h | (simp (maxDischargeDepth := 40) [h]; done) | simp_all (maxDischargeDepth := 40))

@[simp] theorem keeps_sealOne (s : State) (gen fmt blk : Nat) (h : s.Keeps pq pg) :
    (s.sealOne gen fmt blk).Keeps pq pg := by
  unfold State.sealOne
  dsimp only
  (repeat' split) <;> simp [h]

@[simp] theorem keeps_copyOne (s : State) (gen fmt src dst : Nat) (h : s.Keeps pq pg) :
    (s.copyOne gen fmt src dst).Keeps pq pg := by
  unfold State.copyOne
  (repeat' split) <;> simp (maxDischargeDepth := 40) [h]

@[simp] theorem keeps_checkOne (s : State) (gen fmt blk : Nat) (h : s.Keeps pq pg) :
    (s.checkOne gen fmt blk).1.Keeps pq pg := by
  unfold State.checkOne
  (repeat' split) <;> simp [h]

@[simp] theorem keeps_sealRun (s : State) (j : SealJob) (i bad : Nat) (x0 : Nat) (h : s.Keeps pq pg) :
    (s.sealRun j i bad x0).1.Keeps pq pg := by
  induction x0 generalizing s j i bad with
  | zero => first | with_reducible exact h | (simp (maxDischargeDepth := 40) [State.sealRun, h]; done)
  | succ n ih =>
    unfold State.sealRun
    (repeat' split) <;> simp [h, ih]

@[simp] theorem keeps_sealFailed (s : State) (st : Nat) (h : s.Keeps pq pg) :
    (s.sealFailed st).Keeps pq pg := by
  unfold State.sealFailed
  (repeat' split) <;> simp [h]

@[simp] theorem keeps_execSealEngineDone (s : State) (h : s.Keeps pq pg) :
    OKeeps pq pg (execSealEngineDone s) := by
  unfold execSealEngineDone
  (repeat' split) <;> simp (maxDischargeDepth := 40) [h]

@[simp] theorem keeps_sealCmd (op dst count : Nat) (written : Nat → Nat → Bool) (c : Cmd) (s : State) (h : s.Keeps pq pg) :
    (sealCmd op dst count written c s).1.Keeps pq pg := by
  unfold sealCmd
  (repeat' split) <;> simp [h]

@[simp] theorem keeps_sealRgn (c : Cmd) (s : State) (h : s.Keeps pq pg) :
    (sealRgn c s).1.Keeps pq pg := by
  unfold sealRgn
  (repeat' split) <;> simp [h]

@[simp] theorem keeps_execSealrgn (i : Issue) (s : State) (h : s.Keeps pq pg) :
    OKeeps pq pg (execSealrgn i s) := by
  unfold execSealrgn
  exact keeps_runCmd _ _ _ h (fun c u hu => by simp (maxDischargeDepth := 40) [specSealrgn, hu])

@[simp] theorem keeps_sealCpy (c : Cmd) (s : State) (h : s.Keeps pq pg) :
    (sealCpy c s).1.Keeps pq pg := by
  unfold sealCpy
  simp [h]

@[simp] theorem keeps_execSealcpy (i : Issue) (s : State) (h : s.Keeps pq pg) :
    OKeeps pq pg (execSealcpy i s) := by
  unfold execSealcpy
  exact keeps_runCmd _ _ _ h (fun c u hu => by simp (maxDischargeDepth := 40) [specSealcpy, hu])

@[simp] theorem keeps_sealChk (c : Cmd) (s : State) (h : s.Keeps pq pg) :
    (sealChk c s).1.Keeps pq pg := by
  unfold sealChk
  simp [h]

@[simp] theorem keeps_execSealchk (i : Issue) (s : State) (h : s.Keeps pq pg) :
    OKeeps pq pg (execSealchk i s) := by
  unfold execSealchk
  exact keeps_runCmd _ _ _ h (fun c u hu => by simp (maxDischargeDepth := 40) [specSealchk, hu])

@[simp] theorem keeps_patrolOne (s : State) (blk : Nat) (h : s.Keeps pq pg) :
    (s.patrolOne blk).Keeps pq pg := by
  unfold State.patrolOne
  dsimp only
  (repeat' split) <;> simp (maxDischargeDepth := 40) [h]

@[simp] theorem keeps_patrol (s : State) (h : s.Keeps pq pg) :
    s.patrol.Keeps pq pg := by
  unfold State.patrol
  dsimp only
  (repeat' split) <;> first | (simp (maxDischargeDepth := 40) [h]; done) | simp_all (maxDischargeDepth := 40)

@[simp] theorem keeps_execPatrolRead (s : State) (h : s.Keeps pq pg) :
    OKeeps pq pg (execPatrolRead s) := by
  unfold execPatrolRead
  simp [h]

@[simp] theorem keeps_loadRecipe (c : Cmd) (s : State) (h : s.Keeps pq pg) :
    (loadRecipe c s).1.Keeps pq pg := by
  unfold loadRecipe
  (repeat' split) <;> simp [h]

@[simp] theorem keeps_execRcpload (i : Issue) (s : State) (h : s.Keeps pq pg) :
    OKeeps pq pg (execRcpload i s) := by
  unfold execRcpload
  exact keeps_runCmd _ _ _ h (fun c u hu => by simp (maxDischargeDepth := 40) [specRcpload, hu])

@[simp] theorem keeps_dropRecipe (c : Cmd) (s : State) (h : s.Keeps pq pg) :
    (dropRecipe c s).1.Keeps pq pg := by
  unfold dropRecipe
  simp [h]

@[simp] theorem keeps_execRcpdrop (i : Issue) (s : State) (h : s.Keeps pq pg) :
    OKeeps pq pg (execRcpdrop i s) := by
  unfold execRcpdrop
  exact keeps_runCmd _ _ _ h (fun c u hu => by simp (maxDischargeDepth := 40) [specRcpdrop, hu])

@[simp] theorem keeps_storeCopy (s : State) (blk : Nat) (img : Bytes) (x0 : Nat) (h : s.Keeps pq pg) :
    (s.storeCopy blk img x0).Keeps pq pg := by
  induction x0 generalizing s blk img with
  | zero => first | with_reducible exact h | (simp (maxDischargeDepth := 40) [State.storeCopy, h]; done)
  | succ n ih =>
    unfold State.storeCopy
    simp [h, ih]

@[simp] theorem keeps_endLoad (s : State) (l : RcpLoad) (st : Nat) (r : Option Recipe) (h : s.Keeps pq pg) :
    (s.endLoad l st r).Keeps pq pg := by
  unfold State.endLoad
  (repeat' split) <;> simp (maxDischargeDepth := 40) [h]

@[simp] theorem keeps_checkLoad (s : State) (l : RcpLoad) (h : s.Keeps pq pg) :
    (s.checkLoad l).Keeps pq pg := by
  unfold State.checkLoad
  dsimp only
  (repeat' split) <;> simp [h]

@[simp] theorem keeps_loadFailed (s : State) (l : RcpLoad) (st : Nat) (h : s.Keeps pq pg) :
    (s.loadFailed l st).Keeps pq pg := by
  unfold State.loadFailed
  simp (maxDischargeDepth := 40) [h]

@[simp] theorem keeps_execRecipeLoadDone (slot : Nat) (s : State) (h : s.Keeps pq pg) :
    OKeeps pq pg (execRecipeLoadDone slot s) := by
  unfold execRecipeLoadDone
  (repeat' split) <;> simp [h]

@[simp] theorem keeps_ldlCnt (c : Cmd) (s : State) (h : s.Keeps pq pg) :
    (ldlCnt c s).1.Keeps pq pg := by
  unfold ldlCnt
  (repeat' split) <;> simp [h]

@[simp] theorem keeps_execLdlcnt (i : Issue) (s : State) (h : s.Keeps pq pg) :
    OKeeps pq pg (execLdlcnt i s) := by
  unfold execLdlcnt
  exact keeps_runCmd _ _ _ h (fun c u hu => by simp (maxDischargeDepth := 40) [specLdlcnt, hu])

@[simp] theorem keeps_execMtrLaneCtrlFence (src : Src) (lanes : Nat) (s : State) (h : s.Keeps pq pg) :
    OKeeps pq pg (execMtrLaneCtrlFence src lanes s) := by
  unfold execMtrLaneCtrlFence
  (repeat' split) <;> simp_all

@[simp] theorem keeps_execMtrLaneCtrlSelftest (src : Src) (lanes : Nat) (s : State) (h : s.Keeps pq pg) :
    OKeeps pq pg (execMtrLaneCtrlSelftest src lanes s) := by
  unfold execMtrLaneCtrlSelftest
  (repeat' split) <;> simp_all

@[simp] theorem keeps_execMtrLaneCtrlReinstate (src : Src) (lanes : Nat) (s : State) (h : s.Keeps pq pg) :
    OKeeps pq pg (execMtrLaneCtrlReinstate src lanes s) := by
  unfold execMtrLaneCtrlReinstate
  (repeat' split) <;> simp_all

@[simp] theorem keeps_stageSeed (s : State) (src : Src) (v : Nat) (h : s.Keeps pq pg) :
    (s.stageSeed src v).Keeps pq pg := by
  unfold State.stageSeed
  exact h

@[simp] theorem keeps_formSeed (s : State) (src : Src) (v : Nat) (h : s.Keeps pq pg) :
    (s.formSeed src v).Keeps pq pg := by
  unfold State.formSeed
  exact h

@[simp] theorem keeps_execHubSieveSeedLoWrite (src : Src) (val : Nat) (s : State) (h : s.Keeps pq pg) :
    OKeeps pq pg (execHubSieveSeedLoWrite src val s) := by
  unfold execHubSieveSeedLoWrite
  exact h

@[simp] theorem keeps_execHubSieveSeedHiWrite (src : Src) (val : Nat) (s : State) (h : s.Keeps pq pg) :
    OKeeps pq pg (execHubSieveSeedHiWrite src val s) := by
  unfold execHubSieveSeedHiWrite
  exact h

@[simp] theorem keeps_clearSieve (s : State) (h : s.Keeps pq pg) :
    s.clearSieve.Keeps pq pg := by
  unfold State.clearSieve
  simp [h]

@[simp] theorem keeps_execHubSieveClr (src : Src) (s : State) (h : s.Keeps pq pg) :
    OKeeps pq pg (execHubSieveClr src s) := by
  unfold execHubSieveClr
  (repeat' split) <;> simp_all

end Sys2Proof.Machine
end

