-- ==== Sys2Proof/Laws/KeepsCkpt.lean ====
section
/-! SUPPORT. The operations of Machine/Ckpt.lean keep the queue, the integration and the canonical forms. -/

namespace Sys2Proof.Machine

variable {pq : List Instr} {pg : Cfg}

/-- The state of a pair that a match has taken apart. -/
theorem keeps_of_fst {α : Type} {p : State × α} {u : State} {a : α} (e : p = (u, a)) (h : p.1.Keeps pq pg) : u.Keeps pq pg := by
  rw [e] at h; exact h

@[simp] theorem keeps_writeRun (s : State) (blk : Nat) (b : Bytes) (gen fmt : Nat) (x0 : Nat) (h : s.Keeps pq pg) :
    (s.writeRun blk b gen fmt x0).Keeps pq pg := by
  induction x0 generalizing s blk b gen fmt with
  | zero => unfold State.writeRun; exact h
  | succ n ih =>
    unfold State.writeRun
    simp [h, ih]

@[simp] theorem keeps_writeShards (s : State) (body : Bytes) (gen job step i : Nat) (x0 : List Shard) (h : s.Keeps pq pg) :
    (s.writeShards body gen job step i x0).Keeps pq pg := by
  induction x0 generalizing s body gen job step i with
  | nil => first | with_reducible exact h | (simp (maxDischargeDepth := 40) [State.writeShards, h]; done)
  | cons x t ih =>
    unfold State.writeShards
    first
      | (simp (maxDischargeDepth := 40) [h, ih]; done)
      | ((try dsimp only) <;> (repeat' split) <;> first | (simp (maxDischargeDepth := 40) [h, ih]; done) | simp_all (maxDischargeDepth := 40))

@[simp] theorem keeps_badRun (s : State) (gen fmt b : Nat) (x0 : Nat) (h : s.Keeps pq pg) :
    (s.badRun gen fmt b x0).1.Keeps pq pg := by
  induction x0 generalizing s gen fmt b with
  | zero => first | with_reducible exact h | (simp (maxDischargeDepth := 40) [State.badRun, h]; done)
  | succ n ih =>
    unfold State.badRun
    first
      | (simp (maxDischargeDepth := 40) [h, ih]; done)
      | ((try dsimp only) <;> (repeat' split) <;> first | (simp (maxDischargeDepth := 40) [h, ih]; done) | simp_all (maxDischargeDepth := 40))

@[simp] theorem keeps_badShard (s : State) (gen : Nat) (x0 : List Shard) (h : s.Keeps pq pg) :
    (s.badShard gen x0).1.Keeps pq pg := by
  induction x0 generalizing s gen with
  | nil => exact h
  | cons x t ih =>
    unfold State.badShard
    have h1 := keeps_badRun s gen x.fmt (x.blk + 1) x.blocks h
    split
    · next e => rw [e] at h1; exact h1
    · next e =>
      rw [e] at h1
      have h2 := keeps_badRun _ gen 0x3E x.blk 1 h1
      split
      · next e2 => rw [e2] at h2; exact h2
      · next e2 => rw [e2] at h2; exact ih _ _ h2

@[simp] theorem keeps_writeManifest (s : State) (c blk : Nat) (m : Draft) (h : s.Keeps pq pg) :
    (s.writeManifest c blk m).1.Keeps pq pg := by
  have h1 := keeps_badShard _ (s.ctx c).gen m.shards (keeps_writeShards s (scaleBody m.scales) (s.ctx c).gen m.job m.step 0 m.shards h)
  unfold State.writeManifest
  dsimp only
  split
  · next e => rw [e] at h1; exact h1
  · next e => rw [e] at h1; simp (maxDischargeDepth := 40) [h1]

@[simp] theorem keeps_queueCkpt (s : State) (j : CkptJob) (h : s.Keeps pq pg) :
    (s.queueCkpt j).Keeps pq pg := by
  unfold State.queueCkpt
  simp [h]

@[simp] theorem keeps_endCkpt (s : State) (h : s.Keeps pq pg) :
    s.endCkpt.Keeps pq pg := by
  unfold State.endCkpt
  first
    | with_reducible exact h
    | (simp (maxDischargeDepth := 40) [h]; done)
    | ((try dsimp only) <;> (repeat' split) <;> first | with_reducible exact h | (simp (maxDischargeDepth := 40) [h]; done) | simp_all (maxDischargeDepth := 40))

@[simp] theorem keeps_ckptMan (c : Cmd) (s : State) (h : s.Keeps pq pg) :
    (ckptMan c s).1.Keeps pq pg := by
  unfold ckptMan
  (repeat' split) <;> simp [h]

@[simp] theorem keeps_execCkptman (i : Issue) (s : State) (h : s.Keeps pq pg) :
    OKeeps pq pg (execCkptman i s) := by
  unfold execCkptman
  exact keeps_runCmd _ _ _ h (fun c u hu => by simp (maxDischargeDepth := 40) [specCkptman, hu])

@[simp] theorem keeps_execCkptmanDone (s : State) (h : s.Keeps pq pg) :
    OKeeps pq pg (execCkptmanDone s) := by
  unfold execCkptmanDone
  first
    | with_reducible exact h
    | (simp (maxDischargeDepth := 40) [h]; done)
    | ((try dsimp only) <;> (repeat' split) <;> first | with_reducible exact h | (simp (maxDischargeDepth := 40) [h]; done) | (have hq := keeps_of_fst (pq := pq) (pg := pg) (α := _) (by assumption) (by simp (maxDischargeDepth := 40) [h]); simp (maxDischargeDepth := 40) [hq]; done) | simp_all (maxDischargeDepth := 40))

@[simp] theorem keeps_ckptCapture (s : State) (kind shard c step : Nat) (h : s.Keeps pq pg) :
    (s.ckptCapture kind shard c step).Keeps pq pg := by
  unfold State.ckptCapture
  simp (maxDischargeDepth := 40) [h]

@[simp] theorem keeps_sealBlocks (s : State) (gen fmt b : Nat) (x0 : Nat) (h : s.Keeps pq pg) :
    (s.sealBlocks gen fmt b x0).Keeps pq pg := by
  induction x0 generalizing s gen fmt b with
  | zero => unfold State.sealBlocks; exact h
  | succ n ih =>
    unfold State.sealBlocks
    simp [h, ih]

@[simp] theorem keeps_sealShards (s : State) (gen : Nat) (x0 : List Shard) (h : s.Keeps pq pg) :
    (s.sealShards gen x0).Keeps pq pg := by
  induction x0 generalizing s gen with
  | nil => simp [State.sealShards, h]
  | cons x t ih =>
    unfold State.sealShards
    simp (maxDischargeDepth := 40) [h, ih]

@[simp] theorem keeps_bindScales (s : State) (c : Nat) (x0 : List (Nat × Bytes)) (h : s.Keeps pq pg) :
    (s.bindScales c x0).Keeps pq pg := by
  induction x0 generalizing s c with
  | nil => simp [State.bindScales, h]
  | cons x t ih =>
    unfold State.bindScales
    simp [h, ih]

@[simp] theorem keeps_restore (s : State) (c : Nat) (b : Bytes) (h : s.Keeps pq pg) :
    (s.restore c b).Keeps pq pg := by
  unfold State.restore
  simp (maxDischargeDepth := 40) [h]

@[simp] theorem keeps_ckptChk (c : Cmd) (s : State) (h : s.Keeps pq pg) :
    (ckptChk c s).1.Keeps pq pg := by
  unfold ckptChk
  (repeat' split) <;> simp [h]

@[simp] theorem keeps_execCkptchk (i : Issue) (s : State) (h : s.Keeps pq pg) :
    OKeeps pq pg (execCkptchk i s) := by
  unfold execCkptchk
  exact keeps_runCmd _ _ _ h (fun c u hu => by simp (maxDischargeDepth := 40) [specCkptchk, hu])

@[simp] theorem keeps_endChk (s : State) (j : CkptJob) (b : Bytes) (r : Nat × Nat × Option Nat) (h : s.Keeps pq pg) :
    (s.endChk j b r).Keeps pq pg := by
  unfold State.endChk
  (repeat' split) <;> simp (maxDischargeDepth := 40) [h]

@[simp] theorem keeps_ackMirror (s : State) (agent ctx step st : Nat) (h : s.Keeps pq pg) :
    (s.ackMirror agent ctx step st).Keeps pq pg := by
  unfold State.ackMirror
  simp [h]

@[simp] theorem keeps_ckptFailed (s : State) (st : Nat) (h : s.Keeps pq pg) :
    (s.ckptFailed st).Keeps pq pg := by
  unfold State.ckptFailed
  (repeat' split) <;> simp (maxDischargeDepth := 40) [h]

@[simp] theorem keeps_execCkptchkDone (s : State) (h : s.Keeps pq pg) :
    OKeeps pq pg (execCkptchkDone s) := by
  unfold execCkptchkDone
  (repeat' split) <;> simp (maxDischargeDepth := 40) [h]

@[simp] theorem keeps_buddyCfg (c : Cmd) (s : State) (h : s.Keeps pq pg) :
    (buddyCfg c s).1.Keeps pq pg := by
  unfold buddyCfg
  dsimp only
  (repeat' split) <;> simp [h]

@[simp] theorem keeps_execBuddycfg (i : Issue) (s : State) (h : s.Keeps pq pg) :
    OKeeps pq pg (execBuddycfg i s) := by
  unfold execBuddycfg
  exact keeps_runCmd _ _ _ h (fun c u hu => by simp (maxDischargeDepth := 40) [specBuddycfg, hu])

@[simp] theorem keeps_startMirror (s : State) (c step : Nat) (h : s.Keeps pq pg) :
    (s.startMirror c step).Keeps pq pg := by
  unfold State.startMirror
  dsimp only
  (repeat' split) <;> simp (maxDischargeDepth := 40) [h]

@[simp] theorem keeps_copyRun (s : State) (c src dst : Nat) (x0 : Nat) (h : s.Keeps pq pg) :
    (s.copyRun c src dst x0).Keeps pq pg := by
  induction x0 generalizing s c src dst with
  | zero => unfold State.copyRun; exact h
  | succ n ih =>
    unfold State.copyRun
    simp [h, ih]

@[simp] theorem keeps_copyShards (s : State) (c : Nat) (x0 : List (Shard × Nat)) (h : s.Keeps pq pg) :
    (s.copyShards c x0).Keeps pq pg := by
  induction x0 generalizing s c with
  | nil => simp [State.copyShards, h]
  | cons x t ih =>
    unfold State.copyShards
    simp [h, ih]

@[simp] theorem keeps_execMirrorCopyDone (ctx : Nat) (s : State) (h : s.Keeps pq pg) :
    OKeeps pq pg (execMirrorCopyDone ctx s) := by
  unfold execMirrorCopyDone
  (repeat' split) <;> simp (maxDischargeDepth := 40) [h]

@[simp] theorem keeps_mirrorCheck (s : State) (m : PeerMsg) (h : s.Keeps pq pg) :
    (s.mirrorCheck m).Keeps pq pg := by
  unfold State.mirrorCheck
  simp [h]

@[simp] theorem keeps_execMirrorDone (m : PeerMsg) (s : State) (h : s.Keeps pq pg) :
    OKeeps pq pg (execMirrorDone m s) := by
  unfold execMirrorDone
  (repeat' split) <;> simp [h]

@[simp] theorem keeps_mirrorFail (s : State) (c step : Nat) (b : Buddy) (again : Bool) (h : s.Keeps pq pg) :
    (s.mirrorFail c step b again).Keeps pq pg := by
  unfold State.mirrorFail
  simp (maxDischargeDepth := 40) [h]

@[simp] theorem keeps_mirrorAnswer (s : State) (m : PeerMsg) (h : s.Keeps pq pg) :
    (s.mirrorAnswer m).Keeps pq pg := by
  unfold State.mirrorAnswer
  dsimp only
  (repeat' split) <;> simp [h]

@[simp] theorem keeps_execMirrorAck (m : PeerMsg) (s : State) (h : s.Keeps pq pg) :
    OKeeps pq pg (execMirrorAck m s) := by
  unfold execMirrorAck
  (repeat' split) <;> simp [h]

@[simp] theorem keeps_execMirrorAckTimeout (ctx : Nat) (s : State) (h : s.Keeps pq pg) :
    OKeeps pq pg (execMirrorAckTimeout ctx s) := by
  unfold execMirrorAckTimeout
  (repeat' split) <;> simp [h]

@[simp] theorem keeps_peerSend (c : Cmd) (s : State) (h : s.Keeps pq pg) :
    (peerSend c s).1.Keeps pq pg := by
  unfold peerSend
  (repeat' split) <;> simp [h]

@[simp] theorem keeps_execPeersend (i : Issue) (s : State) (h : s.Keeps pq pg) :
    OKeeps pq pg (execPeersend i s) := by
  unfold execPeersend
  exact keeps_runCmd _ _ _ h (fun c u hu => by simp (maxDischargeDepth := 40) [specPeersend, hu])

@[simp] theorem keeps_rxTake (s : State) (m : PeerMsg) (h : s.Keeps pq pg) :
    (s.rxTake m).Keeps pq pg := by
  unfold State.rxTake
  (repeat' split) <;> simp [h]

@[simp] theorem keeps_execHostMessage (m : PeerMsg) (s : State) (h : s.Keeps pq pg) :
    OKeeps pq pg (execHostMessage m s) := by
  unfold execHostMessage
  (repeat' split) <;> simp [h]

@[simp] theorem keeps_rxDrain (s : State) (x0 : List PeerMsg) (h : s.Keeps pq pg) :
    (s.rxDrain x0).Keeps pq pg := by
  induction x0 generalizing s with
  | nil => simp [State.rxDrain, h]
  | cons x t ih =>
    unfold State.rxDrain
    simp [h, ih]

@[simp] theorem keeps_writeCons (s : State) (v : Nat) (h : s.Keeps pq pg) :
    (s.writeCons v).Keeps pq pg := by
  unfold State.writeCons
  (repeat' split) <;> simp [h]

@[simp] theorem keeps_execHubPeerRxConsWrite (src : Src) (val : Nat) (s : State) (h : s.Keeps pq pg) :
    OKeeps pq pg (execHubPeerRxConsWrite src val s) := by
  unfold execHubPeerRxConsWrite
  (repeat' split) <;> simp_all

end Sys2Proof.Machine
end

