-- ==== Sys2Proof/Laws/KeepsCommit.lean ====
section
/-! SUPPORT. The operations of Machine/Commit.lean keep the queue, the integration and the canonical forms. -/

namespace Sys2Proof.Machine

variable {pq : List Instr} {pg : Cfg}

@[simp] theorem keeps_evalRoutes (s : State) (c k : Nat) (h : s.Keeps pq pg) :
    (s.evalRoutes c k).Keeps pq pg := by
  unfold State.evalRoutes
  simp [h]

@[simp] theorem keeps_sendStep (s : State) (c k : Nat) (h : s.Keeps pq pg) :
    (s.sendStep c k).Keeps pq pg := by
  unfold State.sendStep
  (repeat' split) <;> simp (maxDischargeDepth := 40) [h]

@[simp] theorem keeps_commitScales (s : State) (c t : Nat) (nulled : Bool) (x0 : List (Nat × SckEntry)) (h : s.Keeps pq pg) :
    (s.commitScales c t nulled x0).Keeps pq pg := by
  induction x0 generalizing s c t nulled with
  | nil => simp [State.commitScales, h]
  | cons x t ih =>
    unfold State.commitScales
    simp (maxDischargeDepth := 40) [h, ih]

@[simp] theorem keeps_execProvenanceDigestDone (ctx slot : Nat) (s : State) (h : s.Keeps pq pg) :
    OKeeps pq pg (execProvenanceDigestDone ctx slot s) := by
  unfold execProvenanceDigestDone
  simp [h]

@[simp] theorem keeps_provRecord (s : State) (c : Nat) (sl : Slot) (h : s.Keeps pq pg) :
    (s.provRecord c sl).Keeps pq pg := by
  unfold State.provRecord
  (repeat' split) <;> simp (maxDischargeDepth := 40) [h]

@[simp] theorem keeps_commit (s : State) (c k : Nat) (h : s.Keeps pq pg) :
    (s.commit c k).Keeps pq pg := by
  unfold State.commit
  simp (maxDischargeDepth := 40) [h]

@[simp] theorem keeps_grant (s : State) (c k : Nat) (h : s.Keeps pq pg) :
    (s.grant c k).Keeps pq pg := by
  unfold State.grant
  simp (maxDischargeDepth := 40) [h]

@[simp] theorem keeps_execCommitGrant (ctx slot : Nat) (s : State) (h : s.Keeps pq pg) :
    OKeeps pq pg (execCommitGrant ctx slot s) := by
  unfold execCommitGrant
  simp [h]

end Sys2Proof.Machine
end

