-- ==== Sys2Proof/Laws/KeepsFieldTest.lean ====
section
/-! SUPPORT. The operations of Machine/FieldTest.lean keep the queue, the integration and the canonical forms. -/

namespace Sys2Proof.Machine

variable {pq : List Instr} {pg : Cfg}

@[simp] theorem keeps_loadContent (c : Cmd) (s : State) (h : s.Keeps pq pg) :
    (loadContent c s).1.Keeps pq pg := by
  unfold loadContent
  simp [h]

@[simp] theorem keeps_execTcload (i : Issue) (s : State) (h : s.Keeps pq pg) :
    OKeeps pq pg (execTcload i s) := by
  unfold execTcload
  exact keeps_runCmd _ _ _ h (fun c u hu => by simp (maxDischargeDepth := 40) [specTcload, hu])

@[simp] theorem keeps_versionRefused (s : State) (st : Nat) (h : s.Keeps pq pg) :
    (s.versionRefused st).Keeps pq pg := by
  unfold State.versionRefused
  simp [h]

@[simp] theorem keeps_endTcload (s : State) (l : TcLoad) (st : Nat) (h : s.Keeps pq pg) :
    (s.endTcload l st).Keeps pq pg := by
  unfold State.endTcload
  simp (maxDischargeDepth := 40) [h]

@[simp] theorem keeps_execTcloadDone (s : State) (h : s.Keeps pq pg) :
    OKeeps pq pg (execTcloadDone s) := by
  unfold execTcloadDone
  dsimp only
  (repeat' split) <;> simp [h]

@[simp] theorem keeps_writeModels (s : State) (k : Nat) (x0 : List Model) (h : s.Keeps pq pg) :
    (s.writeModels k x0).Keeps pq pg := by
  induction x0 generalizing s k with
  | nil => simp [State.writeModels, h]
  | cons x t ih =>
    unfold State.writeModels
    simp (maxDischargeDepth := 40) [h, ih]

@[simp] theorem keeps_execTcBankSwitch (s : State) (h : s.Keeps pq pg) :
    OKeeps pq pg (execTcBankSwitch s) := by
  unfold execTcBankSwitch
  simp [h]

@[simp] theorem keeps_setTileState (s : State) (p : Nat) (v : TileState) (h : s.Keeps pq pg) :
    (s.setTileState p v).Keeps pq pg := by
  unfold State.setTileState
  exact h

@[simp] theorem keeps_readMap (c : Cmd) (s : State) (h : s.Keeps pq pg) :
    (readMap c s).1.Keeps pq pg := by
  unfold readMap
  exact h

@[simp] theorem keeps_execTilemap (i : Issue) (s : State) (h : s.Keeps pq pg) :
    OKeeps pq pg (execTilemap i s) := by
  unfold execTilemap
  exact keeps_runCmd _ _ _ h (fun c u hu => by simp (maxDischargeDepth := 40) [specTilemap, hu])

@[simp] theorem keeps_quarantineUnits (s : State) (p : Nat) (h : s.Keeps pq pg) :
    (s.quarantineUnits p).Keeps pq pg := by
  unfold State.quarantineUnits
  exact h

@[simp] theorem keeps_setOrigin (s : State) (p origin : Nat) (h : s.Keeps pq pg) :
    (s.setOrigin p origin).Keeps pq pg := by
  unfold State.setOrigin
  exact h

@[simp] theorem keeps_quarantine (c : Cmd) (s : State) (h : s.Keeps pq pg) :
    (quarantine c s).1.Keeps pq pg := by
  unfold quarantine
  (repeat' split) <;> simp (maxDischargeDepth := 40) [h]

@[simp] theorem keeps_execQuarant (i : Issue) (s : State) (h : s.Keeps pq pg) :
    OKeeps pq pg (execQuarant i s) := by
  unfold execQuarant
  exact keeps_runCmd _ _ _ h (fun c u hu => by simp (maxDischargeDepth := 40) [specQuarant, hu])

@[simp] theorem keeps_clearSusp (s : State) (e : Nat) (h : s.Keeps pq pg) :
    (s.clearSusp e).Keeps pq pg := by
  unfold State.clearSusp
  (repeat' split) <;> simp [h]

@[simp] theorem keeps_readSusp (c : Cmd) (s : State) (h : s.Keeps pq pg) :
    (readSusp c s).1.Keeps pq pg := by
  unfold readSusp
  (repeat' split) <;> simp [h]

@[simp] theorem keeps_execSuspread (i : Issue) (s : State) (h : s.Keeps pq pg) :
    OKeeps pq pg (execSuspread i s) := by
  unfold execSuspread
  exact keeps_runCmd _ _ _ h (fun c u hu => by simp (maxDischargeDepth := 40) [specSuspread, hu])

@[simp] theorem keeps_startupFail (s : State) (p cause : Nat) (h : s.Keeps pq pg) :
    (s.startupFail p cause).Keeps pq pg := by
  unfold State.startupFail
  exact h

@[simp] theorem keeps_whiskStop (s : State) (w : WhiskRun) (st res : Nat) (h : s.Keeps pq pg) :
    (s.whiskStop w st res).Keeps pq pg := by
  unfold State.whiskStop
  simp [h]

@[simp] theorem keeps_mapRun (s : State) (id : Nat) (f : WhiskRun → WhiskRun) (h : s.Keeps pq pg) :
    (s.mapRun id f).Keeps pq pg := by
  unfold State.mapRun
  first
    | with_reducible exact h
    | (simp (maxDischargeDepth := 40) [h]; done)
    | ((try dsimp only) <;> (repeat' split) <;> first | with_reducible exact h | (simp (maxDischargeDepth := 40) [h]; done) | simp_all (maxDischargeDepth := 40))

@[simp] theorem keeps_whiskStart (s : State) (w : WhiskRun) (h : s.Keeps pq pg) :
    (s.whiskStart w).Keeps pq pg := by
  have h1 : ({ s with whiskQ := s.whiskQ.filter (fun x => x.id != w.id), whisk := s.whisk ++ [{ w with res := [], failed := none }] } :
      State).Keeps pq pg := h
  unfold State.whiskStart
  dsimp only
  generalize ({ s with whiskQ := s.whiskQ.filter (fun x => x.id != w.id), whisk := s.whisk ++ [{ w with res := [], failed := none }] } :
      State) = s1 at h1 ⊢
  split
  · exact h1
  · next t _ =>
    have h3 := keeps_request s1 .read (s1.vectorBlks t).1 0 64 (.bank w.tile) h1
    split
    · simp (maxDischargeDepth := 40) [h3]
    · have h4 := keeps_badRun _ 0 0x3E (s1.vectorBlks t).1 (s1.vectorBlks t).2 h3
      split <;> next e => rw [e] at h4; simp (maxDischargeDepth := 40) [h4]

@[simp] theorem keeps_queueRun (s : State) (w : WhiskRun) (idle : Bool) (h : s.Keeps pq pg) :
    (s.queueRun w idle).1.Keeps pq pg := by
  unfold State.queueRun
  simp [h]

@[simp] theorem keeps_idleLevel (s : State) (p : Nat) (h : s.Keeps pq pg) :
    (s.idleLevel p).1.Keeps pq pg := by
  unfold State.idleLevel
  simp [h]

@[simp] theorem keeps_runWhisk (c : Cmd) (s : State) (h : s.Keeps pq pg) :
    (runWhisk c s).1.Keeps pq pg := by
  unfold runWhisk
  dsimp only
  (repeat' split) <;> simp [h]

@[simp] theorem keeps_execWhiskrun (i : Issue) (s : State) (h : s.Keeps pq pg) :
    OKeeps pq pg (execWhiskrun i s) := by
  unfold execWhiskrun
  exact keeps_runCmd _ _ _ h (fun c u hu => by simp (maxDischargeDepth := 40) [specWhiskrun, hu])

@[simp] theorem keeps_tapTest (c : Cmd) (s : State) (h : s.Keeps pq pg) :
    (tapTest c s).1.Keeps pq pg := by
  unfold tapTest
  (repeat' split) <;> simp [h]

@[simp] theorem keeps_execTaptest (i : Issue) (s : State) (h : s.Keeps pq pg) :
    OKeeps pq pg (execTaptest i s) := by
  unfold execTaptest
  exact keeps_runCmd _ _ _ h (fun c u hu => by simp (maxDischargeDepth := 40) [specTaptest, hu])

@[simp] theorem keeps_execWhiskRunStart (tile test idle : Nat) (s : State) (h : s.Keeps pq pg) :
    OKeeps pq pg (execWhiskRunStart tile test idle s) := by
  unfold execWhiskRunStart
  first
    | with_reducible exact h
    | (simp (maxDischargeDepth := 40) [h]; done)
    | ((try dsimp only) <;> (repeat' split) <;> first | with_reducible exact h | (simp (maxDischargeDepth := 40) [h]; done) | simp_all (maxDischargeDepth := 40))

@[simp] theorem keeps_countOutcome (s : State) (o : Nat) (h : s.Keeps pq pg) :
    (s.countOutcome o).Keeps pq pg := by
  unfold State.countOutcome
  simp (maxDischargeDepth := 40) [h]

@[simp] theorem keeps_observeOutcome (s : State) (p cls o : Nat) (h : s.Keeps pq pg) :
    (s.observeOutcome p cls o).Keeps pq pg := by
  unfold State.observeOutcome
  (repeat' split) <;> simp [h]

@[simp] theorem keeps_startupOutcome (s : State) (w : WhiskRun) (o : Nat) (h : s.Keeps pq pg) :
    (s.startupOutcome w o).Keeps pq pg := by
  unfold State.startupOutcome
  simp [h]

@[simp] theorem keeps_execWhiskRunEnd (tile : Nat) (same : List Bool) (s : State) (h : s.Keeps pq pg) :
    OKeeps pq pg (execWhiskRunEnd tile same s) := by
  unfold execWhiskRunEnd
  (repeat' split) <;> simp (maxDischargeDepth := 40) [h]

@[simp] theorem keeps_whiskAbandon (s : State) (p : Nat) (h : s.Keeps pq pg) :
    (s.whiskAbandon p).Keeps pq pg := by
  unfold State.whiskAbandon
  (repeat' split) <;> simp [h]

@[simp] theorem keeps_execWhiskRunAbandon (tile : Nat) (s : State) (h : s.Keeps pq pg) :
    OKeeps pq pg (execWhiskRunAbandon tile s) := by
  unfold execWhiskRunAbandon
  simp [h]

@[simp] theorem keeps_execWhiskRunTimeout (tile test : Nat) (s : State) (h : s.Keeps pq pg) :
    OKeeps pq pg (execWhiskRunTimeout tile test s) := by
  unfold execWhiskRunTimeout
  (repeat' split) <;> simp [h]

@[simp] theorem keeps_scheduleTile (s : State) (p : Nat) (h : s.Keeps pq pg) :
    (s.scheduleTile p).Keeps pq pg := by
  unfold State.scheduleTile
  dsimp only
  split
  · exact h
  · exact keeps_portCmd _ _ _ _ _ _ _ (keeps_took s 1 h) (fun u hu => keeps_runWhisk _ u hu)

@[simp] theorem keeps_scheduleTiles (s : State) (x0 : List Nat) (h : s.Keeps pq pg) :
    (s.scheduleTiles x0).Keeps pq pg := by
  induction x0 generalizing s with
  | nil => simp [State.scheduleTiles, h]
  | cons x t ih =>
    unfold State.scheduleTiles
    simp [h, ih]

@[simp] theorem keeps_execWhiskSchedule (s : State) (h : s.Keeps pq pg) :
    OKeeps pq pg (execWhiskSchedule s) := by
  unfold execWhiskSchedule
  simp [h]

@[simp] theorem keeps_substitute (s : State) (l p q : Nat) (h : s.Keeps pq pg) :
    (s.substitute l p q).Keeps pq pg := by
  unfold State.substitute
  simp (maxDischargeDepth := 40) [h]

@[simp] theorem keeps_execTileSubstitution (logical : Nat) (empty : List Nat) (s : State) (h : s.Keeps pq pg) :
    OKeeps pq pg (execTileSubstitution logical empty s) := by
  unfold execTileSubstitution
  first
    | with_reducible exact h
    | (simp (maxDischargeDepth := 40) [h]; done)
    | ((try dsimp only) <;> (repeat' split) <;> first | with_reducible exact h | (simp (maxDischargeDepth := 40) [h]; done) | simp_all (maxDischargeDepth := 40))

end Sys2Proof.Machine
end

