-- ==== Sys2Proof/Laws/KeepsTrivet.lean ====
section
/-! SUPPORT. The operations of Machine/Trivet.lean keep the queue, the integration and the canonical forms. -/

namespace Sys2Proof.Machine

variable {pq : List Instr} {pg : Cfg}

@[simp] theorem keeps_setZone (s : State) (z : Nat) (v : Zone) (h : s.Keeps pq pg) :
    (s.setZone z v).Keeps pq pg := by
  unfold State.setZone
  exact h

@[simp] theorem keeps_setSensor (s : State) (i : Nat) (v : Sensor) (h : s.Keeps pq pg) :
    (s.setSensor i v).Keeps pq pg := by
  unfold State.setSensor
  exact h

@[simp] theorem keeps_takeThr (s : State) (z : Nat) (h : s.Keeps pq pg) :
    (s.takeThr z).Keeps pq pg := by
  unfold State.takeThr
  first
    | with_reducible exact h
    | (simp (maxDischargeDepth := 40) [h]; done)
    | ((try dsimp only) <;> (repeat' split) <;> first | with_reducible exact h | (simp (maxDischargeDepth := 40) [h]; done) | simp_all (maxDischargeDepth := 40))

@[simp] theorem keeps_takeLimit (s : State) (h : s.Keeps pq pg) :
    s.takeLimit.Keeps pq pg := by
  unfold State.takeLimit
  first
    | with_reducible exact h
    | (simp (maxDischargeDepth := 40) [h]; done)
    | ((try dsimp only) <;> (repeat' split) <;> first | with_reducible exact h | (simp (maxDischargeDepth := 40) [h]; done) | simp_all (maxDischargeDepth := 40))

@[simp] theorem keeps_invalidSample (s : State) (i : Nat) (h : s.Keeps pq pg) :
    (s.invalidSample i).Keeps pq pg := by
  unfold State.invalidSample
  simp (maxDischargeDepth := 40) [h]

@[simp] theorem keeps_hardTrip (s : State) (i : Nat) (t : Int) (h : s.Keeps pq pg) :
    (s.hardTrip i t).Keeps pq pg := by
  unfold State.hardTrip
  simp (maxDischargeDepth := 40) [h]

@[simp] theorem keeps_enterState (s : State) (x0 : ZoneState) (h : s.Keeps pq pg) :
    (s.enterState x0).Keeps pq pg := by
  unfold State.enterState
  (repeat' split) <;> simp [h]

@[simp] theorem keeps_enterStates (s : State) (x0 : List ZoneState) (h : s.Keeps pq pg) :
    (s.enterStates x0).Keeps pq pg := by
  induction x0 generalizing s with
  | nil => simp [State.enterStates, h]
  | cons x t ih =>
    unfold State.enterStates
    simp [h, ih]

@[simp] theorem keeps_evalZone (s : State) (z : Nat) (was dark : Bool) (h : s.Keeps pq pg) :
    (s.evalZone z was dark).Keeps pq pg := by
  unfold State.evalZone
  first
    | with_reducible exact h
    | (simp (maxDischargeDepth := 40) [h]; done)
    | ((try dsimp only) <;> (repeat' split) <;> first | with_reducible exact h | (simp (maxDischargeDepth := 40) [h]; done) | simp_all (maxDischargeDepth := 40))

@[simp] theorem keeps_rebudget (s : State) (h : s.Keeps pq pg) :
    s.rebudget.Keeps pq pg := by
  unfold State.rebudget
  exact h

@[simp] theorem keeps_sample (s : State) (i w : Nat) (h : s.Keeps pq pg) :
    (s.sample i w).Keeps pq pg := by
  unfold State.sample
  dsimp only
  (repeat' split) <;> simp (maxDischargeDepth := 40) [h]

@[simp] theorem keeps_execSensorSample (sensor word : Nat) (s : State) (h : s.Keeps pq pg) :
    OKeeps pq pg (execSensorSample sensor word s) := by
  unfold execSensorSample
  simp [h]

@[simp] theorem keeps_execFastSamplingExit (zone : Nat) (s : State) (h : s.Keeps pq pg) :
    OKeeps pq pg (execFastSamplingExit zone s) := by
  unfold execFastSamplingExit
  simp [h]

@[simp] theorem keeps_stepZone (s : State) (z : Nat) (h : s.Keeps pq pg) :
    (s.stepZone z).Keeps pq pg := by
  unfold State.stepZone
  dsimp only
  (repeat' split) <;> simp [h]

@[simp] theorem keeps_stepZones (s : State) (x0 : List Nat) (h : s.Keeps pq pg) :
    (s.stepZones x0).Keeps pq pg := by
  induction x0 generalizing s with
  | nil => simp [State.stepZones, h]
  | cons x t ih =>
    unfold State.stepZones
    simp [h, ih]

@[simp] theorem keeps_execThrottleStep (s : State) (h : s.Keeps pq pg) :
    OKeeps pq pg (execThrottleStep s) := by
  unfold execThrottleStep
  simp [h]

@[simp] theorem keeps_setRail (s : State) (i : Nat) (v : Rail) (h : s.Keeps pq pg) :
    (s.setRail i v).Keeps pq pg := by
  unfold State.setRail
  exact h

@[simp] theorem keeps_pmbErr (s : State) (h : s.Keeps pq pg) :
    s.pmbErr.Keeps pq pg := by
  unfold State.pmbErr
  simp [h]

@[simp] theorem keeps_railFail (s : State) (i : Nat) (h : s.Keeps pq pg) :
    (s.railFail i).Keeps pq pg := by
  unfold State.railFail
  simp [h]

@[simp] theorem keeps_pollRails (s : State) (i : Nat) (x0 : List (Option Nat)) (h : s.Keeps pq pg) :
    (s.pollRails i x0).Keeps pq pg := by
  induction x0 generalizing s i with
  | nil => simp [State.pollRails, h]
  | cons x t ih =>
    unfold State.pollRails
    (repeat' split) <;> simp_all

@[simp] theorem keeps_stepPower (s : State) (h : s.Keeps pq pg) :
    s.stepPower.Keeps pq pg := by
  unfold State.stepPower
  dsimp only
  (repeat' split) <;> simp [h]

@[simp] theorem keeps_execPowerPoll (words : List (Option Nat)) (s : State) (h : s.Keeps pq pg) :
    OKeeps pq pg (execPowerPoll words s) := by
  unfold execPowerPoll
  first
    | with_reducible exact h
    | (simp (maxDischargeDepth := 40) [h]; done)
    | ((try dsimp only) <;> (repeat' split) <;> first | with_reducible exact h | (simp (maxDischargeDepth := 40) [h]; done) | simp_all (maxDischargeDepth := 40))

@[simp] theorem keeps_execPmbusTimeout (rail : Nat) (s : State) (h : s.Keeps pq pg) :
    OKeeps pq pg (execPmbusTimeout rail s) := by
  unfold execPmbusTimeout
  simp [h]

@[simp] theorem keeps_execSmbalert (s : State) (h : s.Keeps pq pg) :
    OKeeps pq pg (execSmbalert s) := by
  unfold execSmbalert
  exact h

@[simp] theorem keeps_avsWrite (s : State) (v : Nat) (h : s.Keeps pq pg) :
    (s.avsWrite v).Keeps pq pg := by
  unfold State.avsWrite
  (repeat' split) <;> simp [h]

@[simp] theorem keeps_applyThr (s : State) (z v : Nat) (h : s.Keeps pq pg) :
    (s.applyThr z v).Keeps pq pg := by
  unfold State.applyThr
  simp [h]

@[simp] theorem keeps_selectCurve (s : State) (h : s.Keeps pq pg) :
    s.selectCurve.Keeps pq pg := by
  unfold State.selectCurve
  (repeat' split) <;> simp [h]

@[simp] theorem keeps_connectAtb (s : State) (v : Nat) (h : s.Keeps pq pg) :
    (s.connectAtb v).Keeps pq pg := by
  unfold State.connectAtb
  simp [h]

@[simp] theorem keeps_applyChange (s : State) (x0 : HeldChange) (h : s.Keeps pq pg) :
    (s.applyChange x0).Keeps pq pg := by
  unfold State.applyChange
  (repeat' split) <;> simp [h]

@[simp] theorem keeps_policy (s : State) (c : HeldChange) (h : s.Keeps pq pg) :
    (s.policy c).Keeps pq pg := by
  unfold State.policy
  simp [h]

@[simp] theorem keeps_execTrvHeldApply (s : State) (h : s.Keeps pq pg) :
    OKeeps pq pg (execTrvHeldApply s) := by
  unfold execTrvHeldApply
  (repeat' split) <;> simp [h]

@[simp] theorem keeps_setTrv (c : Cmd) (s : State) (h : s.Keeps pq pg) :
    (setTrv c s).1.Keeps pq pg := by
  unfold setTrv
  simp [h]

@[simp] theorem keeps_execTrvset (i : Issue) (s : State) (h : s.Keeps pq pg) :
    OKeeps pq pg (execTrvset i s) := by
  unfold execTrvset
  exact keeps_runCmd _ _ _ h (fun c u hu => by simp (maxDischargeDepth := 40) [specTrvset, hu])

@[simp] theorem keeps_writeAvs (s : State) (v : Nat) (h : s.Keeps pq pg) :
    (s.writeAvs v).Keeps pq pg := by
  unfold State.writeAvs
  simp [h]

@[simp] theorem keeps_execTrvAvsWrite (src : Src) (val : Nat) (s : State) (h : s.Keeps pq pg) :
    OKeeps pq pg (execTrvAvsWrite src val s) := by
  unfold execTrvAvsWrite
  (repeat' split) <;> simp_all

@[simp] theorem keeps_writeFloor (s : State) (src : Src) (v : Nat) (h : s.Keeps pq pg) :
    (s.writeFloor src v).Keeps pq pg := by
  unfold State.writeFloor
  simp [h]

@[simp] theorem keeps_execTrvDomLevelFloor (src : Src) (val : Nat) (s : State) (h : s.Keeps pq pg) :
    OKeeps pq pg (execTrvDomLevelFloor src val s) := by
  unfold execTrvDomLevelFloor
  (repeat' split) <;> simp_all

@[simp] theorem keeps_curveFailed (s : State) (st : Nat) (h : s.Keeps pq pg) :
    (s.curveFailed st).Keeps pq pg := by
  unfold State.curveFailed
  simp [h]

@[simp] theorem keeps_loadCurve (s : State) (h : s.Keeps pq pg) :
    s.loadCurve.Keeps pq pg := by
  unfold State.loadCurve
  dsimp only
  (repeat' split) <;> simp [h]

@[simp] theorem keeps_execTrvCurveLoad (src : Src) (s : State) (h : s.Keeps pq pg) :
    OKeeps pq pg (execTrvCurveLoad src s) := by
  unfold execTrvCurveLoad
  (repeat' split) <;> simp_all

@[simp] theorem keeps_askSelect (s : State) (h : s.Keeps pq pg) :
    s.askSelect.Keeps pq pg := by
  unfold State.askSelect
  simp [h]

@[simp] theorem keeps_execTrvCurveSelect (src : Src) (s : State) (h : s.Keeps pq pg) :
    OKeeps pq pg (execTrvCurveSelect src s) := by
  unfold execTrvCurveSelect
  (repeat' split) <;> simp_all

@[simp] theorem keeps_clearTrip (s : State) (h : s.Keeps pq pg) :
    s.clearTrip.Keeps pq pg := by
  unfold State.clearTrip
  simp (maxDischargeDepth := 40) [h]

@[simp] theorem keeps_execTrvTripClr (src : Src) (s : State) (h : s.Keeps pq pg) :
    OKeeps pq pg (execTrvTripClr src s) := by
  unfold execTrvTripClr
  (repeat' split) <;> simp_all

@[simp] theorem keeps_readBudget (c : Cmd) (s : State) (h : s.Keeps pq pg) :
    (readBudget c s).1.Keeps pq pg := by
  unfold readBudget
  simp [h]

@[simp] theorem keeps_execBudget (i : Issue) (s : State) (h : s.Keeps pq pg) :
    OKeeps pq pg (execBudget i s) := by
  unfold execBudget
  exact keeps_runCmd _ _ _ h (fun c u hu => by simp (maxDischargeDepth := 40) [specBudget, hu])

end Sys2Proof.Machine
end

