-- ==== Sys2Proof/Laws/KeepsKettle.lean ====
section
/-! SUPPORT. The operations of Machine/Kettle.lean keep the queue, the integration and the canonical forms. -/

namespace Sys2Proof.Machine

variable {pq : List Instr} {pg : Cfg}

@[simp] theorem keeps_setFwSlot (s : State) (k : Nat) (v : FwSlot) (h : s.Keeps pq pg) :
    (s.setFwSlot k v).Keeps pq pg := by
  unfold State.setFwSlot
  exact h

@[simp] theorem keeps_slotStatus (s : State) (k st : Nat) (h : s.Keeps pq pg) :
    (s.slotStatus k st).Keeps pq pg := by
  unfold State.slotStatus
  first
    | with_reducible exact h
    | (simp (maxDischargeDepth := 40) [h]; done)
    | ((try dsimp only) <;> (repeat' split) <;> first | with_reducible exact h | (simp (maxDischargeDepth := 40) [h]; done) | simp_all (maxDischargeDepth := 40))

@[simp] theorem keeps_rewriteDir (s : State) (k : Nat) (h : s.Keeps pq pg) :
    (s.rewriteDir k).Keeps pq pg := by
  unfold State.rewriteDir
  first
    | with_reducible exact h
    | (simp (maxDischargeDepth := 40) [h]; done)
    | ((try dsimp only) <;> (repeat' split) <;> first | with_reducible exact h | (simp (maxDischargeDepth := 40) [h]; done) | simp_all (maxDischargeDepth := 40))

@[simp] theorem keeps_runs (s : State) (img : Bytes) (h : s.Keeps pq pg) :
    (s.runs img).Keeps pq pg := by
  unfold State.runs
  exact h

@[simp] theorem keeps_journalRefusal (s : State) (slot : Nat) (h : s.Keeps pq pg) :
    (s.journalRefusal slot).Keeps pq pg := by
  unfold State.journalRefusal
  simp [h]

@[simp] theorem keeps_fwRefused (s : State) (st : Nat) (h : s.Keeps pq pg) :
    (s.fwRefused st).Keeps pq pg := by
  unfold State.fwRefused
  simp [h]

@[simp] theorem keeps_doorbell (s : State) (n v : Nat) (h : s.Keeps pq pg) :
    (s.doorbell n v).Keeps pq pg := by
  unfold State.doorbell
  simp [h]

@[simp] theorem keeps_cdoorbell (s : State) (n v : Nat) (h : s.Keeps pq pg) :
    (s.cdoorbell n v).Keeps pq pg := by
  unfold State.cdoorbell
  simp [h]

@[simp] theorem keeps_execKtlDbWrite (src : Src) (n val : Nat) (s : State) (h : s.Keeps pq pg) :
    OKeeps pq pg (execKtlDbWrite src n val s) := by
  unfold execKtlDbWrite
  (repeat' split) <;> simp_all

@[simp] theorem keeps_execKtlCdbWrite (src : Src) (n val : Nat) (s : State) (h : s.Keeps pq pg) :
    OKeeps pq pg (execKtlCdbWrite src n val s) := by
  unfold execKtlCdbWrite
  (repeat' split) <;> simp_all

@[simp] theorem keeps_ringCfg (s : State) (src : Src) (v : Nat) (h : s.Keeps pq pg) :
    (s.ringCfg src v).Keeps pq pg := by
  unfold State.ringCfg
  dsimp only
  (repeat' split) <;> simp [h]

@[simp] theorem keeps_execKtlRingEnable (src : Src) (val : Nat) (s : State) (h : s.Keeps pq pg) :
    OKeeps pq pg (execKtlRingEnable src val s) := by
  unfold execKtlRingEnable
  (repeat' split) <;> simp_all

@[simp] theorem keeps_ringField (s : State) (src : Src) (f : Ring → Ring) (h : s.Keeps pq pg) :
    (s.ringField src f).Keeps pq pg := by
  unfold State.ringField
  simp [h]

@[simp] theorem keeps_handRecord (s : State) (n : Nat) (t : Taken) (k : Nat) (h : s.Keeps pq pg) :
    (s.handRecord n t k).Keeps pq pg := by
  unfold State.handRecord
  simp [h]

@[simp] theorem keeps_settleEntry (s : State) (n : Nat) (t : Taken) (h : s.Keeps pq pg) :
    (s.settleEntry n t).Keeps pq pg := by
  unfold State.settleEntry
  (repeat' split) <;> simp [h]

@[simp] theorem keeps_settleEntries (s : State) (n : Nat) (x0 : List Taken) (h : s.Keeps pq pg) :
    (s.settleEntries n x0).Keeps pq pg := by
  induction x0 generalizing s n with
  | nil => simp [State.settleEntries, h]
  | cons x t ih =>
    unfold State.settleEntries
    simp [h, ih]

@[simp] theorem keeps_settleRings (s : State) (x0 : List Nat) (h : s.Keeps pq pg) :
    (s.settleRings x0).Keeps pq pg := by
  induction x0 generalizing s with
  | nil => simp [State.settleRings, h]
  | cons x t ih =>
    unfold State.settleRings
    simp [h, ih]

@[simp] theorem keeps_handAgain (s : State) (k n : Nat) (x0 : List Taken) (h : s.Keeps pq pg) :
    (s.handAgain k n x0).Keeps pq pg := by
  induction x0 generalizing s k n with
  | nil => simp [State.handAgain, h]
  | cons x t ih =>
    unfold State.handAgain
    (repeat' split) <;> simp [h, ih]

@[simp] theorem keeps_handAll (s : State) (k : Nat) (x0 : List Nat) (h : s.Keeps pq pg) :
    (s.handAll k x0).Keeps pq pg := by
  induction x0 generalizing s k with
  | nil => simp [State.handAll, h]
  | cons x t ih =>
    unfold State.handAll
    simp [h, ih]

@[simp] theorem keeps_coreReady (s : State) (k : Nat) (h : s.Keeps pq pg) :
    (s.coreReady k).Keeps pq pg := by
  unfold State.coreReady
  dsimp only
  (repeat' split) <;> simp [h]

@[simp] theorem keeps_countCopy (s : State) (copy : List Nat) (h : s.Keeps pq pg) :
    (s.countCopy copy).Keeps pq pg := by
  unfold State.countCopy
  first
    | with_reducible exact h
    | (simp (maxDischargeDepth := 40) [h]; done)
    | ((try dsimp only) <;> (repeat' split) <;> first | with_reducible exact h | (simp (maxDischargeDepth := 40) [h]; done) | simp_all (maxDischargeDepth := 40))

@[simp] theorem keeps_reload (s : State) (core : Nat) (copy : List Nat) (h : s.Keeps pq pg) :
    (s.reload core copy).Keeps pq pg := by
  unfold State.reload
  first
    | with_reducible exact h
    | (simp (maxDischargeDepth := 40) [h]; done)
    | ((try dsimp only) <;> (repeat' split) <;> first | with_reducible exact h | (simp (maxDischargeDepth := 40) [h]; done) | simp_all (maxDischargeDepth := 40))

@[simp] theorem keeps_execKettleCoreReady (core : Nat) (copy : List Nat) (s : State) (h : s.Keeps pq pg) :
    OKeeps pq pg (execKettleCoreReady core copy s) := by
  unfold execKettleCoreReady
  first
    | with_reducible exact h
    | (simp (maxDischargeDepth := 40) [h]; done)
    | ((try dsimp only) <;> (repeat' split) <;> first | with_reducible exact h | (simp (maxDischargeDepth := 40) [h]; done) | simp_all (maxDischargeDepth := 40))

@[simp] theorem keeps_resetCore (s : State) (k : Nat) (h : s.Keeps pq pg) :
    (s.resetCore k).Keeps pq pg := by
  unfold State.resetCore
  dsimp only
  (repeat' split) <;> simp [h]

@[simp] theorem keeps_watchdogRestart (s : State) (k : Nat) (h : s.Keeps pq pg) :
    (s.watchdogRestart k).Keeps pq pg := by
  unfold State.watchdogRestart
  simp (maxDischargeDepth := 40) [h]

@[simp] theorem keeps_resetCores (s : State) (x0 : List Nat) (h : s.Keeps pq pg) :
    (s.resetCores x0).Keeps pq pg := by
  induction x0 generalizing s with
  | nil => simp [State.resetCores, h]
  | cons x t ih =>
    unfold State.resetCores
    simp [h, ih]

@[simp] theorem keeps_rollback (s : State) (ticket k core : Nat) (h : s.Keeps pq pg) :
    (s.rollback ticket k core).Keeps pq pg := by
  unfold State.rollback
  first
    | with_reducible exact h
    | (simp (maxDischargeDepth := 40) [h]; done)
    | ((try dsimp only) <;> (repeat' split) <;> first | with_reducible exact h | (simp (maxDischargeDepth := 40) [h]; done) | simp_all (maxDischargeDepth := 40))

@[simp] theorem keeps_execWatchdogExpiry (core kick : Nat) (s : State) (h : s.Keeps pq pg) :
    OKeeps pq pg (execWatchdogExpiry core kick s) := by
  unfold execWatchdogExpiry
  first
    | with_reducible exact h
    | (simp (maxDischargeDepth := 40) [h]; done)
    | ((try dsimp only) <;> (repeat' split) <;> first | with_reducible exact h | (simp (maxDischargeDepth := 40) [h]; done) | simp_all (maxDischargeDepth := 40))

@[simp] theorem keeps_startActivation (s : State) (slot ticket : Nat) (h : s.Keeps pq pg) :
    (s.startActivation slot ticket).Keeps pq pg := by
  unfold State.startActivation
  simp [h]

@[simp] theorem keeps_activate (c : Cmd) (s : State) (h : s.Keeps pq pg) :
    (activate c s).1.Keeps pq pg := by
  unfold activate
  simp (maxDischargeDepth := 40) [h]

@[simp] theorem keeps_execFwact (i : Issue) (s : State) (h : s.Keeps pq pg) :
    OKeeps pq pg (execFwact i s) := by
  unfold execFwact
  exact keeps_runCmd _ _ _ h (fun c u hu => by simp (maxDischargeDepth := 40) [specFwact, hu])

@[simp] theorem keeps_execDeferredActivationStart (s : State) (h : s.Keeps pq pg) :
    OKeeps pq pg (execDeferredActivationStart s) := by
  unfold execDeferredActivationStart
  (repeat' split) <;> simp [h]

@[simp] theorem keeps_endActivation (s : State) (slot ticket : Nat) (h : s.Keeps pq pg) :
    (s.endActivation slot ticket).Keeps pq pg := by
  unfold State.endActivation
  simp (maxDischargeDepth := 40) [h]

@[simp] theorem keeps_execActivationCoreReady (core : Nat) (s : State) (h : s.Keeps pq pg) :
    OKeeps pq pg (execActivationCoreReady core s) := by
  unfold execActivationCoreReady
  (repeat' split) <;> simp [h]

@[simp] theorem keeps_endStaging (s : State) (g : Staging) (st : Nat) (h : s.Keeps pq pg) :
    (s.endStaging g st).Keeps pq pg := by
  unfold State.endStaging
  dsimp only
  (repeat' split) <;> simp [h]

@[simp] theorem keeps_execStagingDone (reread : Option Bytes) (s : State) (h : s.Keeps pq pg) :
    OKeeps pq pg (execStagingDone reread s) := by
  unfold execStagingDone
  (repeat' split) <;> simp (maxDischargeDepth := 40) [h]

@[simp] theorem keeps_setStageLast (s : State) (st : Nat) (h : s.Keeps pq pg) :
    (s.setStageLast st).Keeps pq pg := by
  unfold State.setStageLast
  exact h

@[simp] theorem keeps_startStaging (s : State) (g : Staging) (h : s.Keeps pq pg) :
    (s.startStaging g).1.Keeps pq pg := by
  unfold State.startStaging
  (repeat' split) <;> simp [h]

@[simp] theorem keeps_stageImage (s : State) (h : s.Keeps pq pg) :
    s.stageImage.Keeps pq pg := by
  unfold State.stageImage
  first
    | with_reducible exact h
    | (simp (maxDischargeDepth := 40) [h]; done)
    | ((try dsimp only) <;> (repeat' split) <;> first | with_reducible exact h | (simp (maxDischargeDepth := 40) [h]; done) | simp_all (maxDischargeDepth := 40))

@[simp] theorem keeps_goStage (s : State) (h : s.Keeps pq pg) :
    s.goStage.Keeps pq pg := by
  unfold State.goStage
  first
    | with_reducible exact h
    | (simp (maxDischargeDepth := 40) [h]; done)
    | ((try dsimp only) <;> (repeat' split) <;> first | with_reducible exact h | (simp (maxDischargeDepth := 40) [h]; done) | simp_all (maxDischargeDepth := 40))

@[simp] theorem keeps_execKtlStageGoStage (src : Src) (s : State) (h : s.Keeps pq pg) :
    OKeeps pq pg (execKtlStageGoStage src s) := by
  unfold execKtlStageGoStage
  (repeat' split) <;> simp_all

@[simp] theorem keeps_report (s : State) (result flags : Nat) (detail : Bytes) (h : s.Keeps pq pg) :
    (s.report result flags detail).Keeps pq pg := by
  unfold State.report
  exact h

@[simp] theorem keeps_stagePass (s : State) (flags : Nat) (detail : Bytes) (h : s.Keeps pq pg) :
    (s.stagePass flags detail).Keeps pq pg := by
  unfold State.stagePass
  exact h

@[simp] theorem keeps_stageFail (s : State) (st flags : Nat) (detail : Bytes) (h : s.Keeps pq pg) :
    (s.stageFail st flags detail).Keeps pq pg := by
  unfold State.stageFail
  exact h

@[simp] theorem keeps_stageFailOpen (s : State) (flags : Nat) (detail : Bytes) (h : s.Keeps pq pg) :
    (s.stageFailOpen flags detail).Keeps pq pg := by
  unfold State.stageFailOpen
  exact h

@[simp] theorem keeps_bootImage (s : State) (img : Bytes) (stage : Nat) (h : s.Keeps pq pg) :
    (s.bootImage img stage).Keeps pq pg := by
  unfold State.bootImage
  dsimp only
  (repeat' split) <;> simp [h]

@[simp] theorem keeps_slotRefused (s : State) (st : Nat) (h : s.Keeps pq pg) :
    (s.slotRefused st).Keeps pq pg := by
  unfold State.slotRefused
  first
    | with_reducible exact h
    | (simp (maxDischargeDepth := 40) [h]; done)
    | ((try dsimp only) <;> (repeat' split) <;> first | with_reducible exact h | (simp (maxDischargeDepth := 40) [h]; done) | simp_all (maxDischargeDepth := 40))

@[simp] theorem keeps_bootStops (s : State) (h : s.Keeps pq pg) :
    s.bootStops.Keeps pq pg := by
  unfold State.bootStops
  first
    | with_reducible exact h
    | (simp (maxDischargeDepth := 40) [h]; done)
    | ((try dsimp only) <;> (repeat' split) <;> first | with_reducible exact h | (simp (maxDischargeDepth := 40) [h]; done) | simp_all (maxDischargeDepth := 40))

@[simp] theorem keeps_readDir (s : State) (a b : Bytes) (h : s.Keeps pq pg) :
    (s.readDir a b).Keeps pq pg := by
  unfold State.readDir
  first
    | with_reducible exact h
    | (simp (maxDischargeDepth := 40) [h]; done)
    | ((try dsimp only) <;> (repeat' split) <;> first | with_reducible exact h | (simp (maxDischargeDepth := 40) [h]; done) | simp_all (maxDischargeDepth := 40))

@[simp] theorem keeps_imageVerified (s : State) (image : Bytes) (h : s.Keeps pq pg) :
    (s.imageVerified image).Keeps pq pg := by
  unfold State.imageVerified
  first
    | with_reducible exact h
    | (simp (maxDischargeDepth := 40) [h]; done)
    | ((try dsimp only) <;> (repeat' split) <;> first | with_reducible exact h | (simp (maxDischargeDepth := 40) [h]; done) | simp_all (maxDischargeDepth := 40))

@[simp] theorem keeps_execFirmwareImageVerified (dirA dirB image : Bytes) (s : State) (h : s.Keeps pq pg) :
    OKeeps pq pg (execFirmwareImageVerified dirA dirB image s) := by
  unfold execFirmwareImageVerified
  first
    | with_reducible exact h
    | (simp (maxDischargeDepth := 40) [h]; done)
    | ((try dsimp only) <;> (repeat' split) <;> first | with_reducible exact h | (simp (maxDischargeDepth := 40) [h]; done) | simp_all (maxDischargeDepth := 40))

@[simp] theorem keeps_execFlashReadTimeout (s : State) (h : s.Keeps pq pg) :
    OKeeps pq pg (execFlashReadTimeout s) := by
  unfold execFlashReadTimeout
  first
    | with_reducible exact h
    | (simp (maxDischargeDepth := 40) [h]; done)
    | ((try dsimp only) <;> (repeat' split) <;> first | with_reducible exact h | (simp (maxDischargeDepth := 40) [h]; done) | simp_all (maxDischargeDepth := 40))

@[simp] theorem keeps_runImage (s : State) (h : s.Keeps pq pg) :
    s.runImage.Keeps pq pg := by
  unfold State.runImage
  first
    | with_reducible exact h
    | (simp (maxDischargeDepth := 40) [h]; done)
    | ((try dsimp only) <;> (repeat' split) <;> first | with_reducible exact h | (simp (maxDischargeDepth := 40) [h]; done) | simp_all (maxDischargeDepth := 40))

@[simp] theorem keeps_goRun (s : State) (h : s.Keeps pq pg) :
    s.goRun.Keeps pq pg := by
  unfold State.goRun
  simp (maxDischargeDepth := 40) [h]

@[simp] theorem keeps_execKtlStageGoRun (src : Src) (s : State) (h : s.Keeps pq pg) :
    OKeeps pq pg (execKtlStageGoRun src s) := by
  unfold execKtlStageGoRun
  (repeat' split) <;> simp_all

end Sys2Proof.Machine
end

