-- ==== Sys2Proof/Laws/KeepsBring.lean ====
section
/-! SUPPORT. The operations of Machine/Bring.lean keep the queue, the integration and the canonical forms. -/

namespace Sys2Proof.Machine

variable {pq : List Instr} {pg : Cfg}

@[simp] theorem keeps_blankBlock (s : State) (h : s.Keeps pq pg) :
    s.blankBlock.Keeps pq pg := by
  obtain ⟨h1, h2, h3, h4, h5⟩ := h
  exact ⟨h1, h2, h3, h4, (rfl : regsWf [] = true)⟩

@[simp] theorem keeps_execPowerOnReset (s : State) (h : s.Keeps pq pg) :
    OKeeps pq pg (execPowerOnReset s) := by
  unfold execPowerOnReset
  simp [h]

@[simp] theorem keeps_blockReset (s : State) (h : s.Keeps pq pg) :
    s.blockReset.Keeps pq pg := by
  unfold State.blockReset
  simp (maxDischargeDepth := 40) [h]

@[simp] theorem keeps_execBlockReset (s : State) (h : s.Keeps pq pg) :
    OKeeps pq pg (execBlockReset s) := by
  unfold execBlockReset
  simp [h]

@[simp] theorem keeps_execResetCheckDone (badUnit : Option (Nat × Nat)) (pinOk : Bool) (s : State) (h : s.Keeps pq pg) :
    OKeeps pq pg (execResetCheckDone badUnit pinOk s) := by
  unfold execResetCheckDone
  (repeat' split) <;> simp [h]

@[simp] theorem keeps_execFuseWordAck (data : Nat) (s : State) (h : s.Keeps pq pg) :
    OKeeps pq pg (execFuseWordAck data s) := by
  unfold execFuseWordAck
  simp [h]

@[simp] theorem keeps_execFuseReadTimeout (s : State) (h : s.Keeps pq pg) :
    OKeeps pq pg (execFuseReadTimeout s) := by
  unfold execFuseReadTimeout
  simp [h]

@[simp] theorem keeps_readList (s : State) (a b : Bytes) (h : s.Keeps pq pg) :
    (s.readList a b).Keeps pq pg := by
  unfold State.readList
  (repeat' split) <;> simp [h]

@[simp] theorem keeps_readSfdp (s : State) (sfdp : Option Sfdp) (h : s.Keeps pq pg) :
    (s.readSfdp sfdp).Keeps pq pg := by
  unfold State.readSfdp
  first
    | with_reducible exact h
    | (simp (maxDischargeDepth := 40) [h]; done)
    | ((try dsimp only) <;> (repeat' split) <;> first | with_reducible exact h | (simp (maxDischargeDepth := 40) [h]; done) | simp_all (maxDischargeDepth := 40))

@[simp] theorem keeps_execBringRomStageDone (romOk memOk : Bool) (sfdp : Option Sfdp) (listA listB : Bytes) (s : State) (h : s.Keeps pq pg) :
    OKeeps pq pg (execBringRomStageDone romOk memOk sfdp listA listB s) := by
  unfold execBringRomStageDone
  first
    | with_reducible exact h
    | (simp (maxDischargeDepth := 40) [h]; done)
    | ((try dsimp only) <;> (repeat' split) <;> first | with_reducible exact h | (simp (maxDischargeDepth := 40) [h]; done) | simp_all (maxDischargeDepth := 40))

@[simp] theorem keeps_fenceBad (s : State) (ok : Nat) (x0 : List Nat) (h : s.Keeps pq pg) :
    (s.fenceBad ok x0).Keeps pq pg := by
  induction x0 generalizing s ok with
  | nil => simp [State.fenceBad, h]
  | cons x t ih =>
    unfold State.fenceBad
    (repeat' split) <;> simp [h, ih]

@[simp] theorem keeps_drawKey (s : State) (h : s.Keeps pq pg) :
    s.drawKey.Keeps pq pg := by
  unfold State.drawKey
  first
    | with_reducible exact h
    | (simp (maxDischargeDepth := 40) [h]; done)
    | ((try dsimp only) <;> (repeat' split) <;> first | with_reducible exact h | (simp (maxDischargeDepth := 40) [h]; done) | simp_all (maxDischargeDepth := 40))

@[simp] theorem keeps_drawSeed (s : State) (h : s.Keeps pq pg) :
    s.drawSeed.Keeps pq pg := by
  unfold State.drawSeed
  simp [h]

@[simp] theorem keeps_tableFaults (s : State) (tablesOk : Bool) (corrected : Nat) (h : s.Keeps pq pg) :
    (s.tableFaults tablesOk corrected).Keeps pq pg := by
  unfold State.tableFaults
  simp (maxDischargeDepth := 40) [h]

@[simp] theorem keeps_execBringBlockStageDone (laneOk : Nat) (tablesOk : Bool) (corrected : Nat) (s : State) (h : s.Keeps pq pg) :
    OKeeps pq pg (execBringBlockStageDone laneOk tablesOk corrected s) := by
  unfold execBringBlockStageDone
  simp (maxDischargeDepth := 40) [h]

@[simp] theorem keeps_askState (s : State) (x0 : List StateRead) (h : s.Keeps pq pg) :
    (s.askState x0).Keeps pq pg := by
  unfold State.askState
  (repeat' split) <;> simp [h]

@[simp] theorem keeps_stopFails (s : State) (x0 : List Nat) (h : s.Keeps pq pg) :
    (s.stopFails x0).Keeps pq pg := by
  induction x0 generalizing s with
  | nil => simp [State.stopFails, h]
  | cons x t ih =>
    unfold State.stopFails
    (repeat' split) <;> simp [h, ih]

@[simp] theorem keeps_topology (s : State) (h : s.Keeps pq pg) :
    s.topology.Keeps pq pg := by
  unfold State.topology
  simp (maxDischargeDepth := 40) [h]

@[simp] theorem keeps_go (s : State) (h : s.Keeps pq pg) :
    s.go.Keeps pq pg := by
  unfold State.go
  (repeat' split) <;> simp [h]

@[simp] theorem keeps_execGo (src : Src) (s : State) (h : s.Keeps pq pg) :
    OKeeps pq pg (execGo src s) := by
  unfold execGo
  (repeat' split) <;> simp_all

@[simp] theorem keeps_linkAnswer (s : State) (data : Nat) (err : Bool) (h : s.Keeps pq pg) :
    (s.linkAnswer data err).Keeps pq pg := by
  unfold State.linkAnswer
  (repeat' split) <;> simp [h]

@[simp] theorem keeps_countLink (s : State) (x0 : LinkOut) (h : s.Keeps pq pg) :
    (s.countLink x0).Keeps pq pg := by
  unfold State.countLink
  (repeat' split) <;> simp [h]

@[simp] theorem keeps_countLinks (s : State) (x0 : List LinkOut) (h : s.Keeps pq pg) :
    (s.countLinks x0).Keeps pq pg := by
  induction x0 generalizing s with
  | nil => simp [State.countLinks, h]
  | cons x t ih =>
    unfold State.countLinks
    simp [h, ih]

@[simp] theorem keeps_linkDetail (s : State) (os : List LinkOut) (h : s.Keeps pq pg) :
    (s.linkDetail os).1.Keeps pq pg := by
  unfold State.linkDetail
  (repeat' split) <;> simp [h]

@[simp] theorem keeps_execBringLinkMeasureEnd (second : List (Option Nat × Option Nat)) (s : State) (h : s.Keeps pq pg) :
    OKeeps pq pg (execBringLinkMeasureEnd second s) := by
  unfold execBringLinkMeasureEnd
  simp (maxDischargeDepth := 40) [h]

@[simp] theorem keeps_setTileTest (s : State) (p : Nat) (v : TileTest) (h : s.Keeps pq pg) :
    (s.setTileTest p v).Keeps pq pg := by
  unfold State.setTileTest
  exact h

@[simp] theorem keeps_markReleased (s : State) (x0 : List Nat) (h : s.Keeps pq pg) :
    (s.markReleased x0).Keeps pq pg := by
  induction x0 generalizing s with
  | nil => simp [State.markReleased, h]
  | cons x t ih =>
    unfold State.markReleased
    simp [h, ih]

@[simp] theorem keeps_execBringTileRelease (s : State) (h : s.Keeps pq pg) :
    OKeeps pq pg (execBringTileRelease s) := by
  unfold execBringTileRelease
  simp (maxDischargeDepth := 40) [h]

@[simp] theorem keeps_resetAgain (s : State) (p : Nat) (h : s.Keeps pq pg) :
    (s.resetAgain p).Keeps pq pg := by
  unfold State.resetAgain
  simp [h]

@[simp] theorem keeps_execBringTileReadyTimeout (tile : Nat) (s : State) (h : s.Keeps pq pg) :
    OKeeps pq pg (execBringTileReadyTimeout tile s) := by
  unfold execBringTileReadyTimeout
  dsimp only
  (repeat' split) <;> simp [h]

@[simp] theorem keeps_judgeTile (s : State) (p : Nat) (h : s.Keeps pq pg) :
    (s.judgeTile p).Keeps pq pg := by
  unfold State.judgeTile
  (repeat' split) <;> simp [h]

@[simp] theorem keeps_judgeTiles (s : State) (x0 : List Nat) (h : s.Keeps pq pg) :
    (s.judgeTiles x0).Keeps pq pg := by
  induction x0 generalizing s with
  | nil => simp [State.judgeTiles, h]
  | cons x t ih =>
    unfold State.judgeTiles
    simp [h, ih]

@[simp] theorem keeps_setDefect (s : State) (p : Nat) (d : Defect) (h : s.Keeps pq pg) :
    (s.setDefect p d).Keeps pq pg := by
  unfold State.setDefect
  exact h

@[simp] theorem keeps_decideTile (s : State) (p : Nat) (h : s.Keeps pq pg) :
    (s.decideTile p).Keeps pq pg := by
  unfold State.decideTile
  dsimp only
  (repeat' split) <;> simp (maxDischargeDepth := 40) [h]

@[simp] theorem keeps_decideTiles (s : State) (x0 : List Nat) (h : s.Keeps pq pg) :
    (s.decideTiles x0).Keeps pq pg := by
  induction x0 generalizing s with
  | nil => simp [State.decideTiles, h]
  | cons x t ih =>
    unfold State.decideTiles
    simp [h, ih]

@[simp] theorem keeps_execBringTestDone (s : State) (h : s.Keeps pq pg) :
    OKeeps pq pg (execBringTestDone s) := by
  unfold execBringTestDone
  simp (maxDischargeDepth := 40) [h]

@[simp] theorem keeps_mapPairs (s : State) (x0 : List (Nat × Nat)) (h : s.Keeps pq pg) :
    (s.mapPairs x0).Keeps pq pg := by
  induction x0 generalizing s with
  | nil => simp [State.mapPairs, h]
  | cons x t ih =>
    unfold State.mapPairs
    simp [h, ih]

@[simp] theorem keeps_listWritten (s : State) (ok : Bool) (h : s.Keeps pq pg) :
    (s.listWritten ok).Keeps pq pg := by
  unfold State.listWritten
  simp [h]

@[simp] theorem keeps_lowerQuiesce (s : State) (h : s.Keeps pq pg) :
    s.lowerQuiesce.Keeps pq pg := by
  unfold State.lowerQuiesce
  simp [h]

@[simp] theorem keeps_execBringMapDone (flashOk : Bool) (s : State) (h : s.Keeps pq pg) :
    OKeeps pq pg (execBringMapDone flashOk s) := by
  unfold execBringMapDone
  simp (maxDischargeDepth := 40) [h]

@[simp] theorem keeps_execDefectListRewrite (flashOk : Bool) (s : State) (h : s.Keeps pq pg) :
    OKeeps pq pg (execDefectListRewrite flashOk s) := by
  unfold execDefectListRewrite
  simp [h]

@[simp] theorem keeps_addDefect (s : State) (src : Src) (h : s.Keeps pq pg) :
    (s.addDefect src).Keeps pq pg := by
  unfold State.addDefect
  exact h

@[simp] theorem keeps_execHubDefectCtrlAdd (src : Src) (s : State) (h : s.Keeps pq pg) :
    OKeeps pq pg (execHubDefectCtrlAdd src s) := by
  unfold execHubDefectCtrlAdd
  exact h

@[simp] theorem keeps_clearDefect (s : State) (src : Src) (h : s.Keeps pq pg) :
    (s.clearDefect src).Keeps pq pg := by
  unfold State.clearDefect
  exact h

@[simp] theorem keeps_execHubDefectCtrlClear (src : Src) (s : State) (h : s.Keeps pq pg) :
    OKeeps pq pg (execHubDefectCtrlClear src s) := by
  unfold execHubDefectCtrlClear
  exact h

@[simp] theorem keeps_partWrite (s : State) (hi : Bool) (v : Nat) (h : s.Keeps pq pg) :
    (s.partWrite hi v).Keeps pq pg := by
  unfold State.partWrite
  simp [h]

@[simp] theorem keeps_execHubPartMapWrite (src : Src) (hi : Bool) (val : Nat) (s : State) (h : s.Keeps pq pg) :
    OKeeps pq pg (execHubPartMapWrite src hi val s) := by
  unfold execHubPartMapWrite
  (repeat' split) <;> simp_all

@[simp] theorem keeps_journalRefusals (s : State) (x0 : List Nat) (h : s.Keeps pq pg) :
    (s.journalRefusals x0).Keeps pq pg := by
  induction x0 generalizing s with
  | nil => exact h
  | cons x t ih =>
    have h1 := ih (s.journalRefusal x) (keeps_journalRefusal s x h)
    unfold State.journalRefusals
    exact h1

@[simp] theorem keeps_jrnlBase (s : State) (v : Nat) (h : s.Keeps pq pg) :
    (s.jrnlBase v).Keeps pq pg := by
  unfold State.jrnlBase
  simp (maxDischargeDepth := 40) [h]

@[simp] theorem keeps_execHubJrnlBaseWrite (src : Src) (val : Nat) (s : State) (h : s.Keeps pq pg) :
    OKeeps pq pg (execHubJrnlBaseWrite src val s) := by
  unfold execHubJrnlBaseWrite
  (repeat' split) <;> simp_all

end Sys2Proof.Machine
end

