-- ==== Sys2Proof/Laws/KeepsRegRead.lean ====
section
/-! SUPPORT. The operations of Machine/RegRead.lean keep the queue, the integration and the canonical forms. -/

namespace Sys2Proof.Machine

variable {pq : List Instr} {pg : Cfg}

@[simp] theorem keeps_readReg (s : State) (src : Src) (a : Nat) (h : s.Keeps pq pg) :
    (s.readReg src a).1.Keeps pq pg := by
  unfold State.readReg
  (repeat' split) <;> simp [h]

@[simp] theorem keeps_execHubTimeLoRead (src : Src) (s : State) (h : s.Keeps pq pg) :
    OKeeps pq pg (execHubTimeLoRead src s) := by
  unfold execHubTimeLoRead
  exact h

@[simp] theorem keeps_execHubJrnlNextLoRead (src : Src) (s : State) (h : s.Keeps pq pg) :
    OKeeps pq pg (execHubJrnlNextLoRead src s) := by
  unfold execHubJrnlNextLoRead
  exact h

@[simp] theorem keeps_execHubProvNextLoRead (src : Src) (s : State) (h : s.Keeps pq pg) :
    OKeeps pq pg (execHubProvNextLoRead src s) := by
  unfold execHubProvNextLoRead
  exact h

@[simp] theorem keeps_execHubDumpDataRead (src : Src) (s : State) (h : s.Keeps pq pg) :
    OKeeps pq pg (execHubDumpDataRead src s) := by
  unfold execHubDumpDataRead
  exact h

@[simp] theorem keeps_readRegister (c : Cmd) (s : State) (h : s.Keeps pq pg) :
    (readRegister c s).1.Keeps pq pg := by
  unfold readRegister
  dsimp only
  (repeat' split) <;> simp [h]

@[simp] theorem keeps_execRdreg (i : Issue) (s : State) (h : s.Keeps pq pg) :
    OKeeps pq pg (execRdreg i s) := by
  unfold execRdreg
  exact keeps_runCmd _ _ _ h (fun c u hu => by simp (maxDischargeDepth := 40) [specRdreg, hu])

end Sys2Proof.Machine
end

