-- ==== Sys2Proof/Laws/KeepsDump.lean ====
section
/-! SUPPORT. The operations of Machine/Dump.lean keep the queue, the integration and the canonical forms. -/

namespace Sys2Proof.Machine

variable {pq : List Instr} {pg : Cfg}

@[simp] theorem keeps_resetBody (c : Cmd) (s : State) (h : s.Keeps pq pg) :
    (resetBody c s).1.Keeps pq pg := by
  unfold resetBody
  simp [h]

@[simp] theorem keeps_execReset (i : Issue) (s : State) (h : s.Keeps pq pg) :
    OKeeps pq pg (execReset i s) := by
  unfold execReset
  exact keeps_runCmd _ _ _ h (fun c u hu => by simp (maxDischargeDepth := 40) [specReset, hu])

@[simp] theorem keeps_copySram (s : State) (dst k : Nat) (x0 : Nat) (h : s.Keeps pq pg) :
    (s.copySram dst k x0).Keeps pq pg := by
  induction x0 generalizing s dst k with
  | zero => unfold State.copySram; exact h
  | succ n ih =>
    unfold State.copySram
    simp [h, ih]

@[simp] theorem keeps_dumpLast (s : State) (d : Dump) (st : Nat) (h : s.Keeps pq pg) :
    (s.dumpLast d st).Keeps pq pg := by
  unfold State.dumpLast
  simp [h]

@[simp] theorem keeps_dumpHeld (s : State) (d : Dump) (st : Nat) (h : s.Keeps pq pg) :
    (s.dumpHeld d st).Keeps pq pg := by
  unfold State.dumpHeld
  simp (maxDischargeDepth := 40) [h]

@[simp] theorem keeps_dumpCopy (s : State) (d : Dump) (h : s.Keeps pq pg) :
    (s.dumpCopy d).Keeps pq pg := by
  unfold State.dumpCopy
  simp (maxDischargeDepth := 40) [h]

@[simp] theorem keeps_blankRec (s : State) (r : DumpRead) (st : Nat) (h : s.Keeps pq pg) :
    (s.blankRec r st).1.Keeps pq pg := by
  unfold State.blankRec
  (repeat' split) <;> simp [h]

@[simp] theorem keeps_dumpNext (s : State) (d : Dump) (x0 : List DumpRead) (h : s.Keeps pq pg) :
    (s.dumpNext d x0).Keeps pq pg := by
  induction x0 generalizing s d with
  | nil => simp [State.dumpNext, h]
  | cons x t ih =>
    unfold State.dumpNext
    (repeat' split) <;> simp [h, ih]

@[simp] theorem keeps_dumpBody (c : Cmd) (s : State) (h : s.Keeps pq pg) :
    (dumpBody c s).1.Keeps pq pg := by
  unfold dumpBody
  simp (maxDischargeDepth := 40) [h]

@[simp] theorem keeps_execDump (i : Issue) (s : State) (h : s.Keeps pq pg) :
    OKeeps pq pg (execDump i s) := by
  unfold execDump
  exact keeps_runCmd _ _ _ h (fun c u hu => by simp (maxDischargeDepth := 40) [specDump, hu])

@[simp] theorem keeps_dumpAnswer (s : State) (d : Dump) (answer : Option Nat) (err : Bool) (h : s.Keeps pq pg) :
    (s.dumpAnswer d answer err).Keeps pq pg := by
  unfold State.dumpAnswer
  (repeat' split) <;> simp [h]

@[simp] theorem keeps_execDumpReadResult (answer : Option Nat) (s : State) (h : s.Keeps pq pg) :
    OKeeps pq pg (execDumpReadResult answer s) := by
  unfold execDumpReadResult
  (repeat' split) <;> simp [h]

@[simp] theorem keeps_execDumpCopyDone (s : State) (h : s.Keeps pq pg) :
    OKeeps pq pg (execDumpCopyDone s) := by
  unfold execDumpCopyDone
  (repeat' split) <;> simp (maxDischargeDepth := 40) [h]

@[simp] theorem keeps_execStateReadAnswer (data : Nat) (err : Bool) (s : State) (h : s.Keeps pq pg) :
    OKeeps pq pg (execStateReadAnswer data err s) := by
  unfold execStateReadAnswer
  (repeat' split) <;> simp [h]

end Sys2Proof.Machine
end

