-- ==== Sys2Proof/Laws/KeepsRegWrite.lean ====
section
/-! SUPPORT. The operations of Machine/RegWrite.lean keep the queue, the integration and the canonical forms. -/

namespace Sys2Proof.Machine

variable {pq : List Instr} {pg : Cfg}

@[simp] theorem keeps_plainWrite (s : State) (a v : Nat) (h : s.Keeps pq pg) :
    (s.plainWrite a v).Keeps pq pg := by
  unfold State.plainWrite
  (repeat' split) <;> simp [h]

@[simp] theorem keeps_unlessBusy (s : State) (busy : Bool) (a v : Nat) (h : s.Keeps pq pg) :
    (s.unlessBusy busy a v).Keeps pq pg := by
  unfold State.unlessBusy
  simp [h]

@[simp] theorem keeps_writeBase (s : State) (busy : Bool) (a v : Nat) (h : s.Keeps pq pg) :
    (s.writeBase busy a v).Keeps pq pg := by
  unfold State.writeBase
  simp [h]

@[simp] theorem keeps_dropWaits (s : State) (a v : Nat) (h : s.Keeps pq pg) :
    (s.dropWaits a v).Keeps pq pg := by
  unfold State.dropWaits
  simp [h]

@[simp] theorem keeps_clearW1c (s : State) (a v : Nat) (h : s.Keeps pq pg) :
    (s.clearW1c a v).Keeps pq pg := by
  unfold State.clearW1c
  (repeat' split) <;> simp (maxDischargeDepth := 40) [h]

@[simp] theorem keeps_execW1cClear (src : Src) (addr val : Nat) (s : State) (h : s.Keeps pq pg) :
    OKeeps pq pg (execW1cClear src addr val s) := by
  unfold execW1cClear
  (repeat' split) <;> simp_all

@[simp] theorem keeps_writeModel (s : State) (src : Src) (a v : Nat) (h : s.Keeps pq pg) :
    (s.writeModel src a v).Keeps pq pg := by
  unfold State.writeModel
  (repeat' split) <;> simp [h]

@[simp] theorem keeps_writeWatchDom (s : State) (src : Src) (v : Nat) (h : s.Keeps pq pg) :
    (s.writeWatchDom src v).Keeps pq pg := by
  unfold State.writeWatchDom
  simp [h]

@[simp] theorem keeps_writeAtb (s : State) (v : Nat) (h : s.Keeps pq pg) :
    (s.writeAtb v).Keeps pq pg := by
  unfold State.writeAtb
  simp [h]

@[simp] theorem keeps_execHubAtbCtrlWrite (src : Src) (val : Nat) (s : State) (h : s.Keeps pq pg) :
    OKeeps pq pg (execHubAtbCtrlWrite src val s) := by
  unfold execHubAtbCtrlWrite
  (repeat' split) <;> simp_all

@[simp] theorem keeps_defectCtrl (s : State) (src : Src) (v : Nat) (h : s.Keeps pq pg) :
    (s.defectCtrl src v).Keeps pq pg := by
  unfold State.defectCtrl
  (repeat' split) <;> simp [h]

@[simp] theorem keeps_writeHub0 (s : State) (src : Src) (a v : Nat) (h : s.Keeps pq pg) :
    (s.writeHub0 src a v).Keeps pq pg := by
  unfold State.writeHub0
  simp (maxDischargeDepth := 40) [h]

@[simp] theorem keeps_writeHub1 (s : State) (src : Src) (a v : Nat) (h : s.Keeps pq pg) :
    (s.writeHub1 src a v).Keeps pq pg := by
  unfold State.writeHub1
  (repeat' split) <;> simp [h]

@[simp] theorem keeps_writeClass (s : State) (a v : Nat) (h : s.Keeps pq pg) :
    (s.writeClass a v).Keeps pq pg := by
  unfold State.writeClass
  (repeat' split) <;> simp [h]

@[simp] theorem keeps_writeCol (s : State) (a v : Nat) (h : s.Keeps pq pg) :
    (s.writeCol a v).Keeps pq pg := by
  unfold State.writeCol
  dsimp only
  (repeat' split) <;> simp [h]

@[simp] theorem keeps_writePart (s : State) (src : Src) (v : Nat) (h : s.Keeps pq pg) :
    (s.writePart src v).Keeps pq pg := by
  unfold State.writePart
  exact h

@[simp] theorem keeps_writeCap (s : State) (src : Src) (v : Nat) (h : s.Keeps pq pg) :
    (s.writeCap src v).Keeps pq pg := by
  unfold State.writeCap
  exact h

@[simp] theorem keeps_curveCtrl (s : State) (v : Nat) (h : s.Keeps pq pg) :
    (s.curveCtrl v).Keeps pq pg := by
  unfold State.curveCtrl
  (repeat' split) <;> simp [h]

@[simp] theorem keeps_writeTrv (s : State) (src : Src) (a v : Nat) (h : s.Keeps pq pg) :
    (s.writeTrv src a v).Keeps pq pg := by
  unfold State.writeTrv
  (repeat' split) <;> simp [h]

@[simp] theorem keeps_stageGo (s : State) (v : Nat) (h : s.Keeps pq pg) :
    (s.stageGo v).Keeps pq pg := by
  unfold State.stageGo
  (repeat' split) <;> simp [h]

@[simp] theorem keeps_writeWdog (s : State) (v : Nat) (h : s.Keeps pq pg) :
    (s.writeWdog v).Keeps pq pg := by
  unfold State.writeWdog
  first
    | with_reducible exact h
    | (simp (maxDischargeDepth := 40) [h]; done)
    | ((try dsimp only) <;> (repeat' split) <;> first | with_reducible exact h | (simp (maxDischargeDepth := 40) [h]; done) | simp_all (maxDischargeDepth := 40))

@[simp] theorem keeps_writeKtl (s : State) (src : Src) (a v : Nat) (h : s.Keeps pq pg) :
    (s.writeKtl src a v).Keeps pq pg := by
  unfold State.writeKtl
  (repeat' split) <;> simp [h]

@[simp] theorem keeps_writeLid (s : State) (a v : Nat) (h : s.Keeps pq pg) :
    (s.writeLid a v).Keeps pq pg := by
  unfold State.writeLid
  simp [h]

@[simp] theorem keeps_writeLdl (s : State) (a v : Nat) (h : s.Keeps pq pg) :
    (s.writeLdl a v).Keeps pq pg := by
  unfold State.writeLdl
  simp [h]

@[simp] theorem keeps_writeReg (s : State) (src : Src) (a v : Nat) (h : s.Keeps pq pg) :
    (s.writeReg src a v).Keeps pq pg := by
  unfold State.writeReg
  (repeat' split) <;> simp [h]

@[simp] theorem keeps_execRegisterWrite (src : Src) (addr val : Nat) (s : State) (h : s.Keeps pq pg) :
    OKeeps pq pg (execRegisterWrite src addr val s) := by
  unfold execRegisterWrite
  (repeat' split) <;> simp_all

@[simp] theorem keeps_writeRegister (c : Cmd) (s : State) (h : s.Keeps pq pg) :
    (writeRegister c s).1.Keeps pq pg := by
  unfold writeRegister
  dsimp only
  (repeat' split) <;> simp [h]

@[simp] theorem keeps_execWrreg (i : Issue) (s : State) (h : s.Keeps pq pg) :
    OKeeps pq pg (execWrreg i s) := by
  unfold execWrreg
  exact keeps_runCmd _ _ _ h (fun c u hu => by simp (maxDischargeDepth := 40) [specWrreg, hu])

end Sys2Proof.Machine
end

