-- ==== Sys2Proof/Laws/KeepsRings.lean ====
section
/-! SUPPORT. The operations of Machine/Rings.lean keep the queue, the integration and the canonical forms. -/

namespace Sys2Proof.Machine

variable {pq : List Instr} {pg : Cfg}

@[simp] theorem keeps_takenRecord (s : State) (n index : Nat) (e : RingEntry) (h : s.Keeps pq pg) :
    (s.takenRecord n index e).Keeps pq pg := by
  unfold State.takenRecord
  simp [h]

@[simp] theorem keeps_takeSlot (s : State) (n : Nat) (e : RingEntry) (h : s.Keeps pq pg) :
    (s.takeSlot n e).Keeps pq pg := by
  unfold State.takeSlot
  exact h

@[simp] theorem keeps_refuseEntry (s : State) (n index st : Nat) (h : s.Keeps pq pg) :
    (s.refuseEntry n index st).Keeps pq pg := by
  unfold State.refuseEntry
  (repeat' split) <;> simp [h]

@[simp] theorem keeps_acceptEntry (s : State) (n index : Nat) (h : s.Keeps pq pg) :
    (s.acceptEntry n index).Keeps pq pg := by
  unfold State.acceptEntry
  dsimp only
  (repeat' split) <;> simp (maxDischargeDepth := 40) [h]

@[simp] theorem keeps_takeEntry (s : State) (n : Nat) (h : s.Keeps pq pg) :
    (s.takeEntry n).Keeps pq pg := by
  unfold State.takeEntry
  dsimp only
  (repeat' split) <;> simp (maxDischargeDepth := 40) [h]

@[simp] theorem keeps_execRingEntryTake (n : Nat) (s : State) (h : s.Keeps pq pg) :
    OKeeps pq pg (execRingEntryTake n s) := by
  unfold execRingEntryTake
  simp [h]

@[simp] theorem keeps_execOwnerReturn (n index : Nat) (e : RingEntry) (s : State) (h : s.Keeps pq pg) :
    OKeeps pq pg (execOwnerReturn n index e s) := by
  unfold execOwnerReturn
  (repeat' split) <;> simp [h]

@[simp] theorem keeps_ringOwn (s : State) (kind : Nat) (i : Issue) (f : State → Nat → Taken → State) (h : s.Keeps pq pg)
    (hf : ∀ n t, (f s n t).Keeps pq pg) : (s.ringOwn kind i f).Keeps pq pg := by
  unfold State.ringOwn
  (repeat' split) <;> simp [h, hf]

@[simp] theorem keeps_submitRefused (s : State) (n : Nat) (t : Taken) (hd : Bytes) (st : Nat) (h : s.Keeps pq pg) :
    (s.submitRefused n t hd st).Keeps pq pg := by
  unfold State.submitRefused
  first
    | with_reducible exact h
    | (simp (maxDischargeDepth := 40) [h]; done)
    | ((try dsimp only) <;> (repeat' split) <;> first | with_reducible exact h | (simp (maxDischargeDepth := 40) [h]; done) | simp_all (maxDischargeDepth := 40))

@[simp] theorem keeps_submitAccepted (s : State) (n : Nat) (t : Taken) (hd : Bytes) (id : Nat) (h : s.Keeps pq pg) :
    (s.submitAccepted n t hd id).Keeps pq pg := by
  unfold State.submitAccepted
  first
    | with_reducible exact h
    | (simp (maxDischargeDepth := 40) [h]; done)
    | ((try dsimp only) <;> (repeat' split) <;> first | with_reducible exact h | (simp (maxDischargeDepth := 40) [h]; done) | simp_all (maxDischargeDepth := 40))

@[simp] theorem keeps_submit (s : State) (n : Nat) (t : Taken) (h : s.Keeps pq pg) :
    (s.submit n t).Keeps pq pg := by
  unfold State.submit
  first
    | with_reducible exact h
    | (simp (maxDischargeDepth := 40) [h]; done)
    | ((try dsimp only) <;> (repeat' split) <;> first | with_reducible exact h | (simp (maxDischargeDepth := 40) [h]; done) | simp_all (maxDischargeDepth := 40))

@[simp] theorem keeps_execSubmitProgram (i : Issue) (s : State) (h : s.Keeps pq pg) :
    OKeeps pq pg (execSubmitProgram i s) := by
  unfold execSubmitProgram
  simp [h]

@[simp] theorem keeps_compositeCmd (s : State) (sp : CmdSpec) (n : Nat) (t : Taken) (a imm : Nat) (h : s.Keeps pq pg)
    (hb : ∀ c u, u.Keeps pq pg → (sp.body c u).1.Keeps pq pg) : (s.compositeCmd sp n t a imm).1.Keeps pq pg := by
  unfold State.compositeCmd
  first
    | (simp (maxDischargeDepth := 40) [h, hb]; done)
    | ((try dsimp only) <;> (repeat' split) <;> first | with_reducible exact h | (simp (maxDischargeDepth := 40) [h, hb]; done) | simp_all (maxDischargeDepth := 40))

@[simp] theorem keeps_compositeRead (s : State) (n : Nat) (t : Taken) (a : Nat) (h : s.Keeps pq pg) :
    (s.compositeRead n t a).1.Keeps pq pg := by
  unfold State.compositeRead
  exact keeps_compositeCmd _ _ _ _ _ _ h (fun c u hu => by simp (maxDischargeDepth := 40) [specRdreg, hu])

@[simp] theorem keeps_compositeReads (s : State) (n : Nat) (t : Taken) (x0 : List Nat) (h : s.Keeps pq pg) :
    (s.compositeReads n t x0).1.Keeps pq pg := by
  induction x0 generalizing s n t with
  | nil => simp [State.compositeReads, h]
  | cons x t ih =>
    unfold State.compositeReads
    simp [h, ih]

@[simp] theorem keeps_compositeWrite (s : State) (n : Nat) (t : Taken) (a v : Nat) (h : s.Keeps pq pg) :
    (s.compositeWrite n t a v).1.Keeps pq pg := by
  unfold State.compositeWrite
  exact keeps_compositeCmd _ _ _ _ _ _ h (fun c u hu => by simp (maxDischargeDepth := 40) [specWrreg, hu])

@[simp] theorem keeps_compositeEnd (s : State) (n : Nat) (t : Taken) (b : Bytes) (st : Nat) (h : s.Keeps pq pg) :
    (s.compositeEnd n t b st).Keeps pq pg := by
  unfold State.compositeEnd
  split <;> simp [h]

@[simp] theorem keeps_compositeClear (s : State) (n : Nat) (t : Taken) (a v b w : Nat) (h : s.Keeps pq pg) :
    (s.compositeClear n t a v b w).1.Keeps pq pg := by
  unfold State.compositeClear
  first
    | with_reducible exact h
    | (simp (maxDischargeDepth := 40) [h]; done)
    | ((try dsimp only) <;> (repeat' split) <;> first | with_reducible exact h | (simp (maxDischargeDepth := 40) [h]; done) | simp_all (maxDischargeDepth := 40))

@[simp] theorem keeps_readSeal (s : State) (n : Nat) (t : Taken) (h : s.Keeps pq pg) :
    (s.readSeal n t).Keeps pq pg := by
  unfold State.readSeal
  simp (maxDischargeDepth := 40) [h]

@[simp] theorem keeps_execReadSealStatus (i : Issue) (s : State) (h : s.Keeps pq pg) :
    OKeeps pq pg (execReadSealStatus i s) := by
  unfold execReadSealStatus
  simp [h]

@[simp] theorem keeps_readCover (s : State) (n : Nat) (t : Taken) (h : s.Keeps pq pg) :
    (s.readCover n t).Keeps pq pg := by
  have ha : ((s.compositeReads n t [Reg.hubSieveBound, Reg.hubSieveDeficit]).1.compositeCmd specArbstat n t 0 0).1.Keeps pq pg :=
    keeps_compositeCmd _ _ _ _ _ _ (keeps_compositeReads _ _ _ _ h) (fun c u hu => by simp (maxDischargeDepth := 40) [specArbstat, hu])
  unfold State.readCover
  (try dsimp only) <;> (repeat' split) <;> simp (maxDischargeDepth := 40) [h, ha]

@[simp] theorem keeps_execReadCoverage (i : Issue) (s : State) (h : s.Keeps pq pg) :
    OKeeps pq pg (execReadCoverage i s) := by
  unfold execReadCoverage
  simp [h]

@[simp] theorem keeps_readThreads (s : State) (n : Nat) (t : Taken) (x0 : List Nat) (h : s.Keeps pq pg) :
    (s.readThreads n t x0).1.Keeps pq pg := by
  induction x0 generalizing s n t with
  | nil => first | with_reducible exact h | (simp (maxDischargeDepth := 40) [State.readThreads, h]; done)
  | cons x t ih =>
    unfold State.readThreads
    first
      | (simp (maxDischargeDepth := 40) [h, ih]; done)
      | ((try dsimp only) <;> (repeat' split) <;> first | (simp (maxDischargeDepth := 40) [h, ih]; done) | simp_all (maxDischargeDepth := 40))

@[simp] theorem keeps_readSeq (s : State) (n : Nat) (t : Taken) (h : s.Keeps pq pg) :
    (s.readSeq n t).Keeps pq pg := by
  unfold State.readSeq
  simp (maxDischargeDepth := 40) [h]

@[simp] theorem keeps_execReadSequencerStatus (i : Issue) (s : State) (h : s.Keeps pq pg) :
    OKeeps pq pg (execReadSequencerStatus i s) := by
  unfold execReadSequencerStatus
  simp [h]

@[simp] theorem keeps_stageEntry (s : State) (n : Nat) (t : Taken) (h : s.Keeps pq pg) :
    (s.stageEntry n t).Keeps pq pg := by
  unfold State.stageEntry
  dsimp only
  (repeat' split) <;> simp [h]

@[simp] theorem keeps_execStageFirmware (i : Issue) (s : State) (h : s.Keeps pq pg) :
    OKeeps pq pg (execStageFirmware i s) := by
  unfold execStageFirmware
  simp [h]

@[simp] theorem keeps_endService (s : State) (v : LaneSvc) (h : s.Keeps pq pg) :
    (s.endService v).Keeps pq pg := by
  unfold State.endService
  first
    | with_reducible exact h
    | (simp (maxDischargeDepth := 40) [h]; done)
    | ((try dsimp only) <;> (repeat' split) <;> first | with_reducible exact h | (simp (maxDischargeDepth := 40) [h]; done) | simp_all (maxDischargeDepth := 40))

@[simp] theorem keeps_endServices (s : State) (x0 : List LaneSvc) (h : s.Keeps pq pg) :
    (s.endServices x0).Keeps pq pg := by
  induction x0 generalizing s with
  | nil => simp [State.endServices, h]
  | cons x t ih =>
    unfold State.endServices
    (repeat' split) <;> simp [h, ih]

@[simp] theorem keeps_laneService (s : State) (n : Nat) (t : Taken) (h : s.Keeps pq pg) :
    (s.laneService n t).Keeps pq pg := by
  unfold State.laneService
  first
    | with_reducible exact h
    | (simp (maxDischargeDepth := 40) [h]; done)
    | ((try dsimp only) <;> (repeat' split) <;> first | with_reducible exact h | (simp (maxDischargeDepth := 40) [h]; done) | simp_all (maxDischargeDepth := 40))

@[simp] theorem keeps_execLaneService (i : Issue) (s : State) (h : s.Keeps pq pg) :
    OKeeps pq pg (execLaneService i s) := by
  unfold execLaneService
  simp [h]

@[simp] theorem keeps_execMortarJobStart (lane : Nat) (s : State) (h : s.Keeps pq pg) :
    OKeeps pq pg (execMortarJobStart lane s) := by
  unfold execMortarJobStart
  simp [h]

@[simp] theorem keeps_execLaneSelfTestDone (lane : Nat) (pass : Bool) (s : State) (h : s.Keeps pq pg) :
    OKeeps pq pg (execLaneSelfTestDone lane pass s) := by
  unfold execLaneSelfTestDone
  simp [h]

end Sys2Proof.Machine
end

