-- ==== Sys2Proof/Laws/KeepsPorts.lean ====
section
/-! SUPPORT. The operations of Machine/Ports.lean keep the queue, the integration and the canonical forms. -/

namespace Sys2Proof.Machine

variable {pq : List Instr} {pg : Cfg}

@[simp] theorem keeps_setMemPort (s : State) (k : Nat) (p : Port) (h : s.Keeps pq pg) :
    (s.setMemPort k p).Keeps pq pg := by
  unfold State.setMemPort
  simp [h]

@[simp] theorem keeps_endReq (s : State) (k id : Nat) (h : s.Keeps pq pg) :
    (s.endReq k id).Keeps pq pg := by
  unfold State.endReq
  simp [h]

@[simp] theorem keeps_releaseId (s : State) (k id : Nat) (h : s.Keeps pq pg) :
    (s.releaseId k id).Keeps pq pg := by
  unfold State.releaseId
  simp [h]

@[simp] theorem keeps_holdId (s : State) (k id : Nat) (h : s.Keeps pq pg) :
    (s.holdId k id).Keeps pq pg := by
  unfold State.holdId
  simp [h]

@[simp] theorem keeps_refill (s : State) (k : Nat) (h : s.Keeps pq pg) :
    (s.refill k).Keeps pq pg := by
  unfold State.refill
  first
    | with_reducible exact h
    | (simp (maxDischargeDepth := 40) [h]; done)
    | ((try dsimp only) <;> (repeat' split) <;> first | with_reducible exact h | (simp (maxDischargeDepth := 40) [h]; done) | simp_all (maxDischargeDepth := 40))

@[simp] theorem keeps_learn (s : State) (r : MemReq) (data : Bytes) (sbv : Nat) (h : s.Keeps pq pg) :
    (s.learn r data sbv).Keeps pq pg := by
  unfold State.learn
  (repeat' split) <;> simp [h]

@[simp] theorem keeps_clearReseals (s : State) (x0 : List (Nat × Nat × Nat)) (h : s.Keeps pq pg) :
    (s.clearReseals x0).Keeps pq pg := by
  induction x0 generalizing s with
  | nil => simp [State.clearReseals, h]
  | cons x t ih =>
    unfold State.clearReseals
    simp [h, ih]

@[simp] theorem keeps_resealEnd (s : State) (blk : Nat) (h : s.Keeps pq pg) :
    (s.resealEnd blk).Keeps pq pg := by
  unfold State.resealEnd
  simp [h]

@[simp] theorem keeps_entryFailed (s : State) (n index st : Nat) (h : s.Keeps pq pg) :
    (s.entryFailed n index st).Keeps pq pg := by
  unfold State.entryFailed
  (repeat' split) <;> simp (maxDischargeDepth := 40) [h]

@[simp] theorem keeps_swapOutFailed (s : State) (t p : Nat) (h : s.Keeps pq pg) :
    (s.swapOutFailed t p).Keeps pq pg := by
  unfold State.swapOutFailed
  first
    | with_reducible exact h
    | (simp (maxDischargeDepth := 40) [h]; done)
    | ((try dsimp only) <;> (repeat' split) <;> first | with_reducible exact h | (simp (maxDischargeDepth := 40) [h]; done) | simp_all (maxDischargeDepth := 40))

@[simp] theorem keeps_swapInFailed (s : State) (t p : Nat) (h : s.Keeps pq pg) :
    (s.swapInFailed t p).Keeps pq pg := by
  unfold State.swapInFailed
  simp [h]

@[simp] theorem keeps_accessFailed (s : State) (r : MemReq) (st : Nat) (h : s.Keeps pq pg) :
    (s.accessFailed r st).Keeps pq pg := by
  unfold State.accessFailed
  (repeat' split) <;> simp [h]

@[simp] theorem keeps_rewriteDropped (s : State) (blk : Nat) (h : s.Keeps pq pg) :
    (s.rewriteDropped blk).Keeps pq pg := by
  unfold State.rewriteDropped
  simp (maxDischargeDepth := 40) [h]

@[simp] theorem keeps_accessNoMatch (s : State) (r : MemReq) (h : s.Keeps pq pg) :
    (s.accessNoMatch r).Keeps pq pg := by
  unfold State.accessNoMatch
  (repeat' split) <;> simp [h]

@[simp] theorem keeps_accessOk (s : State) (r : MemReq) (data : Bytes) (sbv : Nat) (h : s.Keeps pq pg) :
    (s.accessOk r data sbv).Keeps pq pg := by
  unfold State.accessOk
  (repeat' split) <;> simp [h]

@[simp] theorem keeps_countStatusOf (s : State) (x0 : MemStatus) (h : s.Keeps pq pg) :
    (s.countStatusOf x0).Keeps pq pg := by
  unfold State.countStatusOf
  first
    | with_reducible exact h
    | (simp (maxDischargeDepth := 40) [h]; done)
    | ((try dsimp only) <;> (repeat' split) <;> first | with_reducible exact h | (simp (maxDischargeDepth := 40) [h]; done) | simp_all (maxDischargeDepth := 40))

@[simp] theorem keeps_delivered (s : State) (r : MemReq) (st : MemStatus) (data : Bytes) (sbv : Nat) (h : s.Keeps pq pg) :
    (s.delivered r st data sbv).Keeps pq pg := by
  unfold State.delivered
  first
    | with_reducible exact h
    | (simp (maxDischargeDepth := 40) [h]; done)
    | ((try dsimp only) <;> (repeat' split) <;> first | with_reducible exact h | (simp (maxDischargeDepth := 40) [h]; done) | simp_all (maxDischargeDepth := 40))

@[simp] theorem keeps_answered (s : State) (r : MemReq) (st : MemStatus) (data : Bytes) (sbv : Nat) (h : s.Keeps pq pg) :
    (s.answered r st data sbv).Keeps pq pg := by
  unfold State.answered
  first
    | with_reducible exact h
    | (simp (maxDischargeDepth := 40) [h]; done)
    | ((try dsimp only) <;> (repeat' split) <;> first | with_reducible exact h | (simp (maxDischargeDepth := 40) [h]; done) | simp_all (maxDischargeDepth := 40))

@[simp] theorem keeps_timedOut (s : State) (r : MemReq) (h : s.Keeps pq pg) :
    (s.timedOut r).Keeps pq pg := by
  unfold State.timedOut
  first
    | with_reducible exact h
    | (simp (maxDischargeDepth := 40) [h]; done)
    | ((try dsimp only) <;> (repeat' split) <;> first | with_reducible exact h | (simp (maxDischargeDepth := 40) [h]; done) | simp_all (maxDischargeDepth := 40))

@[simp] theorem keeps_execMemResponse (port id : Nat) (st : MemStatus) (data : Bytes) (sb : Nat) (s : State) (h : s.Keeps pq pg) :
    OKeeps pq pg (execMemResponse port id st data sb s) := by
  unfold execMemResponse
  first
    | with_reducible exact h
    | (simp (maxDischargeDepth := 40) [h]; done)
    | ((try dsimp only) <;> (repeat' split) <;> first | with_reducible exact h | (simp (maxDischargeDepth := 40) [h]; done) | simp_all (maxDischargeDepth := 40))

@[simp] theorem keeps_execMemRequestTimeout (port id : Nat) (s : State) (h : s.Keeps pq pg) :
    OKeeps pq pg (execMemRequestTimeout port id s) := by
  unfold execMemRequestTimeout
  (repeat' split) <;> simp (maxDischargeDepth := 40) [h]

@[simp] theorem keeps_execMemIdHoldExpiry (port id : Nat) (s : State) (h : s.Keeps pq pg) :
    OKeeps pq pg (execMemIdHoldExpiry port id s) := by
  unfold execMemIdHoldExpiry
  first
    | with_reducible exact h
    | (simp (maxDischargeDepth := 40) [h]; done)
    | ((try dsimp only) <;> (repeat' split) <;> first | with_reducible exact h | (simp (maxDischargeDepth := 40) [h]; done) | simp_all (maxDischargeDepth := 40))

@[simp] theorem keeps_selectIr (s : State) (ir v : Nat) (h : s.Keeps pq pg) :
    (s.selectIr ir v).Keeps pq pg := by
  unfold State.selectIr
  exact h

@[simp] theorem keeps_execIdcode (s : State) (h : s.Keeps pq pg) :
    OKeeps pq pg (execIdcode s) := by
  unfold execIdcode
  exact h

@[simp] theorem keeps_execDtmcs (s : State) (h : s.Keeps pq pg) :
    OKeeps pq pg (execDtmcs s) := by
  unfold execDtmcs
  exact h

@[simp] theorem keeps_execBypass (s : State) (h : s.Keeps pq pg) :
    OKeeps pq pg (execBypass s) := by
  unfold execBypass
  exact h

@[simp] theorem keeps_debugLock (s : State) (h : s.Keeps pq pg) :
    (s.debugLock).1.Keeps pq pg := by
  unfold State.debugLock
  (repeat' split) <;> simp [h]

@[simp] theorem keeps_unlessLocked (s : State) (f : State → State) (h : s.Keeps pq pg) (hf : ∀ u, u.Keeps pq pg → (f u).Keeps pq pg) :
    (s.unlessLocked f).Keeps pq pg := by
  unfold State.unlessLocked
  simp (maxDischargeDepth := 40) [h, hf]

@[simp] theorem keeps_dmiAccess (s : State) (addr data : Nat) (write : Bool) (h : s.Keeps pq pg) :
    (s.dmiAccess addr data write).Keeps pq pg := by
  unfold State.dmiAccess
  (repeat' split) <;> simp [h]

@[simp] theorem keeps_execDmi (addr data : Nat) (write : Bool) (s : State) (h : s.Keeps pq pg) :
    OKeeps pq pg (execDmi addr data write s) := by
  unfold execDmi
  (repeat' split) <;> simp_all

@[simp] theorem keeps_execAtb (val : Nat) (s : State) (h : s.Keeps pq pg) :
    OKeeps pq pg (execAtb val s) := by
  unfold execAtb
  first
    | with_reducible exact h
    | (simp (maxDischargeDepth := 40) [h]; done)
    | ((try dsimp only) <;> (repeat' split) <;> first | with_reducible exact h | (simp (maxDischargeDepth := 40) [h]; done) | (have hq := keeps_of_fst (pq := pq) (pg := pg) (α := _) (by assumption) (by simp (maxDischargeDepth := 40) [h]); simp (maxDischargeDepth := 40) [hq]; done) | simp_all (maxDischargeDepth := 40))

@[simp] theorem keeps_postFinals (s : State) (n : Nat) (x0 : List Taken) (h : s.Keeps pq pg) :
    (s.postFinals n x0).Keeps pq pg := by
  induction x0 generalizing s n with
  | nil => simp [State.postFinals, h]
  | cons x t ih =>
    unfold State.postFinals
    (repeat' split) <;> simp [h, ih]

@[simp] theorem keeps_postAll (s : State) (x0 : List Nat) (h : s.Keeps pq pg) :
    (s.postAll x0).Keeps pq pg := by
  induction x0 generalizing s with
  | nil => simp [State.postAll, h]
  | cons x t ih =>
    unfold State.postAll
    simp [h, ih]

@[simp] theorem keeps_setHalted (s : State) (k : Nat) (b : Bool) (h : s.Keeps pq pg) :
    (s.setHalted k b).Keeps pq pg := by
  unfold State.setHalted
  first
    | with_reducible exact h
    | (simp (maxDischargeDepth := 40) [h]; done)
    | ((try dsimp only) <;> (repeat' split) <;> first | with_reducible exact h | (simp (maxDischargeDepth := 40) [h]; done) | simp_all (maxDischargeDepth := 40))

@[simp] theorem keeps_execDebugHalt (core : Nat) (s : State) (h : s.Keeps pq pg) :
    OKeeps pq pg (execDebugHalt core s) := by
  unfold execDebugHalt
  first
    | with_reducible exact h
    | (simp (maxDischargeDepth := 40) [h]; done)
    | ((try dsimp only) <;> (repeat' split) <;> first | with_reducible exact h | (simp (maxDischargeDepth := 40) [h]; done) | simp_all (maxDischargeDepth := 40))

@[simp] theorem keeps_resume (s : State) (k : Nat) (h : s.Keeps pq pg) :
    (s.resume k).Keeps pq pg := by
  unfold State.resume
  first
    | with_reducible exact h
    | (simp (maxDischargeDepth := 40) [h]; done)
    | ((try dsimp only) <;> (repeat' split) <;> first | with_reducible exact h | (simp (maxDischargeDepth := 40) [h]; done) | simp_all (maxDischargeDepth := 40))

@[simp] theorem keeps_execDebugResume (core : Nat) (s : State) (h : s.Keeps pq pg) :
    OKeeps pq pg (execDebugResume core s) := by
  unfold execDebugResume
  first
    | with_reducible exact h
    | (simp (maxDischargeDepth := 40) [h]; done)
    | ((try dsimp only) <;> (repeat' split) <;> first | with_reducible exact h | (simp (maxDischargeDepth := 40) [h]; done) | (have hq := keeps_of_fst (pq := pq) (pg := pg) (α := _) (by assumption) (by simp (maxDischargeDepth := 40) [h]); simp (maxDischargeDepth := 40) [hq]; done) | simp_all (maxDischargeDepth := 40))

@[simp] theorem keeps_execDebugSingleStep (core : Nat) (s : State) (h : s.Keeps pq pg) :
    OKeeps pq pg (execDebugSingleStep core s) := by
  unfold execDebugSingleStep
  first
    | with_reducible exact h
    | (simp (maxDischargeDepth := 40) [h]; done)
    | ((try dsimp only) <;> (repeat' split) <;> first | with_reducible exact h | (simp (maxDischargeDepth := 40) [h]; done) | simp_all (maxDischargeDepth := 40))

@[simp] theorem keeps_execDebugTriggerHit (core : Nat) (s : State) (h : s.Keeps pq pg) :
    OKeeps pq pg (execDebugTriggerHit core s) := by
  unfold execDebugTriggerHit
  first
    | with_reducible exact h
    | (simp (maxDischargeDepth := 40) [h]; done)
    | ((try dsimp only) <;> (repeat' split) <;> first | with_reducible exact h | (simp (maxDischargeDepth := 40) [h]; done) | simp_all (maxDischargeDepth := 40))

@[simp] theorem keeps_systemBus (s : State) (addr val : Nat) (write : Bool) (h : s.Keeps pq pg) :
    (s.systemBus addr val write).Keeps pq pg := by
  unfold State.systemBus
  (repeat' split) <;> simp_all

@[simp] theorem keeps_execDebugSystemBusAccess (addr val : Nat) (write : Bool) (s : State) (h : s.Keeps pq pg) :
    OKeeps pq pg (execDebugSystemBusAccess addr val write s) := by
  unfold execDebugSystemBusAccess
  (repeat' split) <;> simp_all

end Sys2Proof.Machine
end

