-- ==== Sys2Proof/Laws/Tab.lean ====
section
/-! SUPPORT. Sparse tables read back what is written to them, and other keys keep their entries. -/

namespace Sys2Proof.Machine

@[simp] theorem tab_get_place {α : Type} (d : α) (t : List (Nat × α)) (k : Nat) (v : α) (j : Nat) :
    Tab.get d (Tab.place t k v) j = if k = j then v else Tab.get d t j := by
  induction t with
  | nil => simp [Tab.place, Tab.get]
  | cons x t ih =>
    obtain ⟨i, w⟩ := x
    unfold Tab.place
    split
    · simp [Tab.get]
    · split
      · next h1 h2 => subst h2; simp only [Tab.get]; split <;> simp_all
      · next h1 h2 =>
        simp only [Tab.get, ih]
        split
        · next h3 => subst h3; simp [h2]
        · rfl

@[simp] theorem tab_get_erase {α : Type} (d : α) (t : List (Nat × α)) (k j : Nat) :
    Tab.get d (Tab.erase t k) j = if k = j then d else Tab.get d t j := by
  induction t with
  | nil => simp [Tab.erase, Tab.get]
  | cons x t ih =>
    obtain ⟨i, w⟩ := x
    unfold Tab.erase
    split
    · next h => subst h; rw [ih]; simp only [Tab.get]; split <;> rfl
    · next h =>
      simp only [Tab.get, ih]
      split
      · next h3 => subst h3; simp [Ne.symm h]
      · rfl

@[simp] theorem tab_get_set {α : Type} [DecidableEq α] (d : α) (t : List (Nat × α)) (k : Nat) (v : α) (j : Nat) :
    Tab.get d (Tab.set d t k v) j = if k = j then v else Tab.get d t j := by
  unfold Tab.set
  split
  · next h => simp [h]
  · simp

/-- A run of bytes is written over its own keys and no other. -/
theorem tab_get_setRun {α : Type} [DecidableEq α] (d : α) (t : List (Nat × α)) (k : Nat) (b : List α) (j : Nat) :
    Tab.get d (Tab.setRun d t k b) j = if k ≤ j ∧ j < k + b.length then (b[j - k]?).getD d else Tab.get d t j := by
  induction b generalizing t k with
  | nil => simp [Tab.setRun] <;> omega
  | cons x b ih =>
    simp only [Tab.setRun, ih, tab_get_set, List.length_cons]
    by_cases h : k = j
    · subst h; rw [if_neg (by omega), if_pos rfl, if_pos (by omega)]; simp
    · by_cases h2 : k + 1 ≤ j ∧ j < k + 1 + b.length
      · have : j - k = (j - (k + 1)) + 1 := by omega
        rw [if_pos h2, if_pos (by omega), this, List.getElem?_cons_succ]
      · rw [if_neg h2, if_neg h, if_neg (by omega)]

end Sys2Proof.Machine
end

