-- ==== Sys2Proof/Laws/State.lean ====
section
/-! SUPPORT. What the named updates of State leave alone, one lemma per field per update, and what each reads back. -/

namespace Sys2Proof.Machine

/-! ### Reading back -/

@[simp] theorem reg_setReg (s : State) (a v b : Nat) : (s.setReg a v).reg b = if a = b then v % 2 ^ 32 else s.reg b := by
  unfold State.reg State.setReg
  split
  · next h => subst h; simp
  · next h =>
    dsimp only
    by_cases hr : regReset a = regReset b
    · rw [← hr]; simp [h]
    · simp only [Tab.set]; split
      · rw [tab_get_erase, if_neg h]
      · rw [tab_get_place, if_neg h]

@[simp] theorem reg_count (s : State) (a b : Nat) :
    (s.count a).reg b = if a = b then min (2 ^ 32 - 1) (s.reg a + 1) else s.reg b := by
  unfold State.count State.countN
  rw [reg_setReg]
  split
  · exact Nat.mod_eq_of_lt (by omega)
  · rfl

@[simp] theorem ctx_setCtx (s : State) (c : Nat) (v : Ctx) (d : Nat) : (s.setCtx c v).ctx d = if c = d then v else s.ctx d := by
  simp [State.ctx, State.setCtx]

@[simp] theorem ladle_setLadle (s : State) (t : Nat) (v : Ladle) (u : Nat) : (s.setLadle t v).ladle u = if t = u then v else s.ladle u := by
  simp [State.ladle, State.setLadle]

@[simp] theorem thread_setThread (s : State) (t : Nat) (v : Thread) (u : Nat) : (s.setThread t v).thread u = if t = u then v else s.thread u := by
  simp [State.thread, State.setThread]

@[simp] theorem ring_setRing (s : State) (n : Nat) (v : Ring) (m : Nat) : (s.setRing n v).ring m = if n = m then v else s.ring m := by
  simp [State.ring, State.setRing]

@[simp] theorem sbOf_setSb (s : State) (k v j : Nat) : (s.setSb k v).sbOf j = if k = j then v % 2 ^ 64 else s.sbOf j := by
  simp [State.sbOf, State.setSb]

theorem lookup_place {α : Type} (t : List (Nat × α)) (k : Nat) (v : α) : lookup (Tab.place t k v) k = some v := by
  induction t with
  | nil => simp [Tab.place, lookup]
  | cons x t ih =>
    obtain ⟨j, w⟩ := x
    unfold Tab.place
    split
    · simp [lookup]
    · split
      · simp [lookup]
      · next h1 h2 => simp [lookup, ih]; intro h; exact absurd h.symm h2

theorem lookup_erase {α : Type} (t : List (Nat × α)) (k j : Nat) : lookup (Tab.erase t k) j = if k = j then none else lookup t j := by
  induction t with
  | nil => simp [Tab.erase, lookup]
  | cons x t ih =>
    obtain ⟨i, w⟩ := x
    unfold Tab.erase
    split
    · next h => subst h; rw [ih]; simp only [lookup]; split <;> rfl
    · next h =>
      simp only [lookup, ih]
      split
      · next h3 => subst h3; simp [Ne.symm h]
      · rfl

@[simp] theorem program_setProgram (s : State) (k : Nat) (v : Program) : (s.setProgram k v).program k = some v := by
  simp [State.program, State.setProgram, lookup_place]

@[simp] theorem ticket_setTicket (s : State) (k : Nat) (v : Ticket) : (s.setTicket k v).ticket k = some v := by
  simp [State.ticket, State.setTicket, lookup_place]

@[simp] theorem ticket_dropTicket (s : State) (k j : Nat) : (s.dropTicket k).ticket j = if k = j then none else s.ticket j := by
  simp [State.ticket, State.dropTicket, lookup_erase]

/-! ### setReg changes `regs` alone -/

@[simp] theorem setReg_pending (s : State) (a v : Nat) : (s.setReg a v).pending = s.pending := rfl
@[simp] theorem setReg_cfg (s : State) (a v : Nat) : (s.setReg a v).cfg = s.cfg := rfl
@[simp] theorem setReg_time (s : State) (a v : Nat) : (s.setReg a v).time = s.time := rfl
@[simp] theorem setReg_free (s : State) (a v : Nat) : (s.setReg a v).free = s.free := rfl
@[simp] theorem setReg_out (s : State) (a v : Nat) : (s.setReg a v).out = s.out := rfl
@[simp] theorem setReg_sel (s : State) (a v : Nat) : (s.setReg a v).sel = s.sel := rfl
@[simp] theorem setReg_rwl (s : State) (a v : Nat) : (s.setReg a v).rwl = s.rwl := rfl
@[simp] theorem setReg_mem (s : State) (a v : Nat) : (s.setReg a v).mem = s.mem := rfl
@[simp] theorem setReg_sb (s : State) (a v : Nat) : (s.setReg a v).sb = s.sb := rfl
@[simp] theorem setReg_port0 (s : State) (a v : Nat) : (s.setReg a v).port0 = s.port0 := rfl
@[simp] theorem setReg_port1 (s : State) (a v : Nat) : (s.setReg a v).port1 = s.port1 := rfl
@[simp] theorem setReg_stops (s : State) (a v : Nat) : (s.setReg a v).stops = s.stops := rfl
@[simp] theorem setReg_stnStops (s : State) (a v : Nat) : (s.setReg a v).stnStops = s.stnStops := rfl
@[simp] theorem setReg_fuse (s : State) (a v : Nat) : (s.setReg a v).fuse = s.fuse := rfl
@[simp] theorem setReg_atb (s : State) (a v : Nat) : (s.setReg a v).atb = s.atb := rfl
@[simp] theorem setReg_peer (s : State) (a v : Nat) : (s.setReg a v).peer = s.peer := rfl
@[simp] theorem setReg_tapIr (s : State) (a v : Nat) : (s.setReg a v).tapIr = s.tapIr := rfl
@[simp] theorem setReg_dm (s : State) (a v : Nat) : (s.setReg a v).dm = s.dm := rfl
@[simp] theorem setReg_bring (s : State) (a v : Nat) : (s.setReg a v).bring = s.bring := rfl
@[simp] theorem setReg_ladles (s : State) (a v : Nat) : (s.setReg a v).ladles = s.ladles := rfl
@[simp] theorem setReg_lidQ (s : State) (a v : Nat) : (s.setReg a v).lidQ = s.lidQ := rfl
@[simp] theorem setReg_answers (s : State) (a v : Nat) : (s.setReg a v).answers = s.answers := rfl
@[simp] theorem setReg_reports (s : State) (a v : Nat) : (s.setReg a v).reports = s.reports := rfl
@[simp] theorem setReg_rcps (s : State) (a v : Nat) : (s.setReg a v).rcps = s.rcps := rfl
@[simp] theorem setReg_rcpLoads (s : State) (a v : Nat) : (s.setReg a v).rcpLoads = s.rcpLoads := rfl
@[simp] theorem setReg_confirms (s : State) (a v : Nat) : (s.setReg a v).confirms = s.confirms := rfl
@[simp] theorem setReg_sealQ (s : State) (a v : Nat) : (s.setReg a v).sealQ = s.sealQ := rfl
@[simp] theorem setReg_routes (s : State) (a v : Nat) : (s.setReg a v).routes = s.routes := rfl
@[simp] theorem setReg_routeQ (s : State) (a v : Nat) : (s.setReg a v).routeQ = s.routeQ := rfl
@[simp] theorem setReg_lanes (s : State) (a v : Nat) : (s.setReg a v).lanes = s.lanes := rfl
@[simp] theorem setReg_queue (s : State) (a v : Nat) : (s.setReg a v).queue = s.queue := rfl
@[simp] theorem setReg_spill (s : State) (a v : Nat) : (s.setReg a v).spill = s.spill := rfl
@[simp] theorem setReg_arbs (s : State) (a v : Nat) : (s.setReg a v).arbs = s.arbs := rfl
@[simp] theorem setReg_nextJob (s : State) (a v : Nat) : (s.setReg a v).nextJob = s.nextJob := rfl
@[simp] theorem setReg_turn (s : State) (a v : Nat) : (s.setReg a v).turn = s.turn := rfl
@[simp] theorem setReg_seed (s : State) (a v : Nat) : (s.setReg a v).seed = s.seed := rfl
@[simp] theorem setReg_models (s : State) (a v : Nat) : (s.setReg a v).models = s.models := rfl
@[simp] theorem setReg_escTotal (s : State) (a v : Nat) : (s.setReg a v).escTotal = s.escTotal := rfl
@[simp] theorem setReg_sieveT (s : State) (a v : Nat) : (s.setReg a v).sieveT = s.sieveT := rfl
@[simp] theorem setReg_boundAt (s : State) (a v : Nat) : (s.setReg a v).boundAt = s.boundAt := rfl
@[simp] theorem setReg_ctxs (s : State) (a v : Nat) : (s.setReg a v).ctxs = s.ctxs := rfl
@[simp] theorem setReg_sck (s : State) (a v : Nat) : (s.setReg a v).sck = s.sck := rfl
@[simp] theorem setReg_lidSeq (s : State) (a v : Nat) : (s.setReg a v).lidSeq = s.lidSeq := rfl
@[simp] theorem setReg_threads (s : State) (a v : Nat) : (s.setReg a v).threads = s.threads := rfl
@[simp] theorem setReg_progs (s : State) (a v : Nat) : (s.setReg a v).progs = s.progs := rfl
@[simp] theorem setReg_runQ (s : State) (a v : Nat) : (s.setReg a v).runQ = s.runQ := rfl
@[simp] theorem setReg_lastIssued (s : State) (a v : Nat) : (s.setReg a v).lastIssued = s.lastIssued := rfl
@[simp] theorem setReg_readySeen (s : State) (a v : Nat) : (s.setReg a v).readySeen = s.readySeen := rfl
@[simp] theorem setReg_tickets (s : State) (a v : Nat) : (s.setReg a v).tickets = s.tickets := rfl
@[simp] theorem setReg_rings (s : State) (a v : Nat) : (s.setReg a v).rings = s.rings := rfl
@[simp] theorem setReg_laneSvc (s : State) (a v : Nat) : (s.setReg a v).laneSvc = s.laneSvc := rfl
@[simp] theorem setReg_jseq (s : State) (a v : Nat) : (s.setReg a v).jseq = s.jseq := rfl
@[simp] theorem setReg_journal (s : State) (a v : Nat) : (s.setReg a v).journal = s.journal := rfl
@[simp] theorem setReg_jcopied (s : State) (a v : Nat) : (s.setReg a v).jcopied = s.jcopied := rfl
@[simp] theorem setReg_kettle (s : State) (a v : Nat) : (s.setReg a v).kettle = s.kettle := rfl
@[simp] theorem setReg_fixed (s : State) (a v : Nat) : (s.setReg a v).fixed = s.fixed := rfl
@[simp] theorem setReg_pairings (s : State) (a v : Nat) : (s.setReg a v).pairings = s.pairings := rfl
@[simp] theorem setReg_provNext (s : State) (a v : Nat) : (s.setReg a v).provNext = s.provNext := rfl
@[simp] theorem setReg_ckptQ (s : State) (a v : Nat) : (s.setReg a v).ckptQ = s.ckptQ := rfl
@[simp] theorem setReg_banks (s : State) (a v : Nat) : (s.setReg a v).banks = s.banks := rfl
@[simp] theorem setReg_bank (s : State) (a v : Nat) : (s.setReg a v).bank = s.bank := rfl
@[simp] theorem setReg_tcLoad (s : State) (a v : Nat) : (s.setReg a v).tcLoad = s.tcLoad := rfl
@[simp] theorem setReg_tcReady (s : State) (a v : Nat) : (s.setReg a v).tcReady = s.tcReady := rfl
@[simp] theorem setReg_whiskQ (s : State) (a v : Nat) : (s.setReg a v).whiskQ = s.whiskQ := rfl
@[simp] theorem setReg_whisk (s : State) (a v : Nat) : (s.setReg a v).whisk = s.whisk := rfl
@[simp] theorem setReg_nextWhisk (s : State) (a v : Nat) : (s.setReg a v).nextWhisk = s.nextWhisk := rfl
@[simp] theorem setReg_testedAt (s : State) (a v : Nat) : (s.setReg a v).testedAt = s.testedAt := rfl
@[simp] theorem setReg_susp (s : State) (a v : Nat) : (s.setReg a v).susp = s.susp := rfl
@[simp] theorem setReg_halvedAt (s : State) (a v : Nat) : (s.setReg a v).halvedAt = s.halvedAt := rfl
@[simp] theorem setReg_tileMap (s : State) (a v : Nat) : (s.setReg a v).tileMap = s.tileMap := rfl
@[simp] theorem setReg_tmapSeq (s : State) (a v : Nat) : (s.setReg a v).tmapSeq = s.tmapSeq := rfl
@[simp] theorem setReg_tileStates (s : State) (a v : Nat) : (s.setReg a v).tileStates = s.tileStates := rfl
@[simp] theorem setReg_pendingOrder (s : State) (a v : Nat) : (s.setReg a v).pendingOrder = s.pendingOrder := rfl
@[simp] theorem setReg_stepEnded (s : State) (a v : Nat) : (s.setReg a v).stepEnded = s.stepEnded := rfl
@[simp] theorem setReg_pastBounds (s : State) (a v : Nat) : (s.setReg a v).pastBounds = s.pastBounds := rfl
@[simp] theorem setReg_quarLast (s : State) (a v : Nat) : (s.setReg a v).quarLast = s.quarLast := rfl
@[simp] theorem setReg_pairs (s : State) (a v : Nat) : (s.setReg a v).pairs = s.pairs := rfl
@[simp] theorem setReg_capWaits (s : State) (a v : Nat) : (s.setReg a v).capWaits = s.capWaits := rfl
@[simp] theorem setReg_capBeats (s : State) (a v : Nat) : (s.setReg a v).capBeats = s.capBeats := rfl
@[simp] theorem setReg_safe (s : State) (a v : Nat) : (s.setReg a v).safe = s.safe := rfl
@[simp] theorem setReg_safeReset (s : State) (a v : Nat) : (s.setReg a v).safeReset = s.safeReset := rfl
@[simp] theorem setReg_watched (s : State) (a v : Nat) : (s.setReg a v).watched = s.watched := rfl
@[simp] theorem setReg_watchDoms (s : State) (a v : Nat) : (s.setReg a v).watchDoms = s.watchDoms := rfl
@[simp] theorem setReg_windowAt (s : State) (a v : Nat) : (s.setReg a v).windowAt = s.windowAt := rfl
@[simp] theorem setReg_rsts (s : State) (a v : Nat) : (s.setReg a v).rsts = s.rsts := rfl
@[simp] theorem setReg_windows (s : State) (a v : Nat) : (s.setReg a v).windows = s.windows := rfl
@[simp] theorem setReg_epochs (s : State) (a v : Nat) : (s.setReg a v).epochs = s.epochs := rfl
@[simp] theorem setReg_rstOut (s : State) (a v : Nat) : (s.setReg a v).rstOut = s.rstOut := rfl
@[simp] theorem setReg_cfl (s : State) (a v : Nat) : (s.setReg a v).cfl = s.cfl := rfl
@[simp] theorem setReg_teardowns (s : State) (a v : Nat) : (s.setReg a v).teardowns = s.teardowns := rfl
@[simp] theorem setReg_dump (s : State) (a v : Nat) : (s.setReg a v).dump = s.dump := rfl
@[simp] theorem setReg_dumpSram (s : State) (a v : Nat) : (s.setReg a v).dumpSram = s.dumpSram := rfl
@[simp] theorem setReg_trv (s : State) (a v : Nat) : (s.setReg a v).trv = s.trv := rfl

/-! ### count changes `regs` alone -/

@[simp] theorem count_pending (s : State) (a : Nat) : (s.count a).pending = s.pending := rfl
@[simp] theorem count_cfg (s : State) (a : Nat) : (s.count a).cfg = s.cfg := rfl
@[simp] theorem count_time (s : State) (a : Nat) : (s.count a).time = s.time := rfl
@[simp] theorem count_free (s : State) (a : Nat) : (s.count a).free = s.free := rfl
@[simp] theorem count_out (s : State) (a : Nat) : (s.count a).out = s.out := rfl
@[simp] theorem count_sel (s : State) (a : Nat) : (s.count a).sel = s.sel := rfl
@[simp] theorem count_rwl (s : State) (a : Nat) : (s.count a).rwl = s.rwl := rfl
@[simp] theorem count_mem (s : State) (a : Nat) : (s.count a).mem = s.mem := rfl
@[simp] theorem count_sb (s : State) (a : Nat) : (s.count a).sb = s.sb := rfl
@[simp] theorem count_port0 (s : State) (a : Nat) : (s.count a).port0 = s.port0 := rfl
@[simp] theorem count_port1 (s : State) (a : Nat) : (s.count a).port1 = s.port1 := rfl
@[simp] theorem count_stops (s : State) (a : Nat) : (s.count a).stops = s.stops := rfl
@[simp] theorem count_stnStops (s : State) (a : Nat) : (s.count a).stnStops = s.stnStops := rfl
@[simp] theorem count_fuse (s : State) (a : Nat) : (s.count a).fuse = s.fuse := rfl
@[simp] theorem count_atb (s : State) (a : Nat) : (s.count a).atb = s.atb := rfl
@[simp] theorem count_peer (s : State) (a : Nat) : (s.count a).peer = s.peer := rfl
@[simp] theorem count_tapIr (s : State) (a : Nat) : (s.count a).tapIr = s.tapIr := rfl
@[simp] theorem count_dm (s : State) (a : Nat) : (s.count a).dm = s.dm := rfl
@[simp] theorem count_bring (s : State) (a : Nat) : (s.count a).bring = s.bring := rfl
@[simp] theorem count_ladles (s : State) (a : Nat) : (s.count a).ladles = s.ladles := rfl
@[simp] theorem count_lidQ (s : State) (a : Nat) : (s.count a).lidQ = s.lidQ := rfl
@[simp] theorem count_answers (s : State) (a : Nat) : (s.count a).answers = s.answers := rfl
@[simp] theorem count_reports (s : State) (a : Nat) : (s.count a).reports = s.reports := rfl
@[simp] theorem count_rcps (s : State) (a : Nat) : (s.count a).rcps = s.rcps := rfl
@[simp] theorem count_rcpLoads (s : State) (a : Nat) : (s.count a).rcpLoads = s.rcpLoads := rfl
@[simp] theorem count_confirms (s : State) (a : Nat) : (s.count a).confirms = s.confirms := rfl
@[simp] theorem count_sealQ (s : State) (a : Nat) : (s.count a).sealQ = s.sealQ := rfl
@[simp] theorem count_routes (s : State) (a : Nat) : (s.count a).routes = s.routes := rfl
@[simp] theorem count_routeQ (s : State) (a : Nat) : (s.count a).routeQ = s.routeQ := rfl
@[simp] theorem count_lanes (s : State) (a : Nat) : (s.count a).lanes = s.lanes := rfl
@[simp] theorem count_queue (s : State) (a : Nat) : (s.count a).queue = s.queue := rfl
@[simp] theorem count_spill (s : State) (a : Nat) : (s.count a).spill = s.spill := rfl
@[simp] theorem count_arbs (s : State) (a : Nat) : (s.count a).arbs = s.arbs := rfl
@[simp] theorem count_nextJob (s : State) (a : Nat) : (s.count a).nextJob = s.nextJob := rfl
@[simp] theorem count_turn (s : State) (a : Nat) : (s.count a).turn = s.turn := rfl
@[simp] theorem count_seed (s : State) (a : Nat) : (s.count a).seed = s.seed := rfl
@[simp] theorem count_models (s : State) (a : Nat) : (s.count a).models = s.models := rfl
@[simp] theorem count_escTotal (s : State) (a : Nat) : (s.count a).escTotal = s.escTotal := rfl
@[simp] theorem count_sieveT (s : State) (a : Nat) : (s.count a).sieveT = s.sieveT := rfl
@[simp] theorem count_boundAt (s : State) (a : Nat) : (s.count a).boundAt = s.boundAt := rfl
@[simp] theorem count_ctxs (s : State) (a : Nat) : (s.count a).ctxs = s.ctxs := rfl
@[simp] theorem count_sck (s : State) (a : Nat) : (s.count a).sck = s.sck := rfl
@[simp] theorem count_lidSeq (s : State) (a : Nat) : (s.count a).lidSeq = s.lidSeq := rfl
@[simp] theorem count_threads (s : State) (a : Nat) : (s.count a).threads = s.threads := rfl
@[simp] theorem count_progs (s : State) (a : Nat) : (s.count a).progs = s.progs := rfl
@[simp] theorem count_runQ (s : State) (a : Nat) : (s.count a).runQ = s.runQ := rfl
@[simp] theorem count_lastIssued (s : State) (a : Nat) : (s.count a).lastIssued = s.lastIssued := rfl
@[simp] theorem count_readySeen (s : State) (a : Nat) : (s.count a).readySeen = s.readySeen := rfl
@[simp] theorem count_tickets (s : State) (a : Nat) : (s.count a).tickets = s.tickets := rfl
@[simp] theorem count_rings (s : State) (a : Nat) : (s.count a).rings = s.rings := rfl
@[simp] theorem count_laneSvc (s : State) (a : Nat) : (s.count a).laneSvc = s.laneSvc := rfl
@[simp] theorem count_jseq (s : State) (a : Nat) : (s.count a).jseq = s.jseq := rfl
@[simp] theorem count_journal (s : State) (a : Nat) : (s.count a).journal = s.journal := rfl
@[simp] theorem count_jcopied (s : State) (a : Nat) : (s.count a).jcopied = s.jcopied := rfl
@[simp] theorem count_kettle (s : State) (a : Nat) : (s.count a).kettle = s.kettle := rfl
@[simp] theorem count_fixed (s : State) (a : Nat) : (s.count a).fixed = s.fixed := rfl
@[simp] theorem count_pairings (s : State) (a : Nat) : (s.count a).pairings = s.pairings := rfl
@[simp] theorem count_provNext (s : State) (a : Nat) : (s.count a).provNext = s.provNext := rfl
@[simp] theorem count_ckptQ (s : State) (a : Nat) : (s.count a).ckptQ = s.ckptQ := rfl
@[simp] theorem count_banks (s : State) (a : Nat) : (s.count a).banks = s.banks := rfl
@[simp] theorem count_bank (s : State) (a : Nat) : (s.count a).bank = s.bank := rfl
@[simp] theorem count_tcLoad (s : State) (a : Nat) : (s.count a).tcLoad = s.tcLoad := rfl
@[simp] theorem count_tcReady (s : State) (a : Nat) : (s.count a).tcReady = s.tcReady := rfl
@[simp] theorem count_whiskQ (s : State) (a : Nat) : (s.count a).whiskQ = s.whiskQ := rfl
@[simp] theorem count_whisk (s : State) (a : Nat) : (s.count a).whisk = s.whisk := rfl
@[simp] theorem count_nextWhisk (s : State) (a : Nat) : (s.count a).nextWhisk = s.nextWhisk := rfl
@[simp] theorem count_testedAt (s : State) (a : Nat) : (s.count a).testedAt = s.testedAt := rfl
@[simp] theorem count_susp (s : State) (a : Nat) : (s.count a).susp = s.susp := rfl
@[simp] theorem count_halvedAt (s : State) (a : Nat) : (s.count a).halvedAt = s.halvedAt := rfl
@[simp] theorem count_tileMap (s : State) (a : Nat) : (s.count a).tileMap = s.tileMap := rfl
@[simp] theorem count_tmapSeq (s : State) (a : Nat) : (s.count a).tmapSeq = s.tmapSeq := rfl
@[simp] theorem count_tileStates (s : State) (a : Nat) : (s.count a).tileStates = s.tileStates := rfl
@[simp] theorem count_pendingOrder (s : State) (a : Nat) : (s.count a).pendingOrder = s.pendingOrder := rfl
@[simp] theorem count_stepEnded (s : State) (a : Nat) : (s.count a).stepEnded = s.stepEnded := rfl
@[simp] theorem count_pastBounds (s : State) (a : Nat) : (s.count a).pastBounds = s.pastBounds := rfl
@[simp] theorem count_quarLast (s : State) (a : Nat) : (s.count a).quarLast = s.quarLast := rfl
@[simp] theorem count_pairs (s : State) (a : Nat) : (s.count a).pairs = s.pairs := rfl
@[simp] theorem count_capWaits (s : State) (a : Nat) : (s.count a).capWaits = s.capWaits := rfl
@[simp] theorem count_capBeats (s : State) (a : Nat) : (s.count a).capBeats = s.capBeats := rfl
@[simp] theorem count_safe (s : State) (a : Nat) : (s.count a).safe = s.safe := rfl
@[simp] theorem count_safeReset (s : State) (a : Nat) : (s.count a).safeReset = s.safeReset := rfl
@[simp] theorem count_watched (s : State) (a : Nat) : (s.count a).watched = s.watched := rfl
@[simp] theorem count_watchDoms (s : State) (a : Nat) : (s.count a).watchDoms = s.watchDoms := rfl
@[simp] theorem count_windowAt (s : State) (a : Nat) : (s.count a).windowAt = s.windowAt := rfl
@[simp] theorem count_rsts (s : State) (a : Nat) : (s.count a).rsts = s.rsts := rfl
@[simp] theorem count_windows (s : State) (a : Nat) : (s.count a).windows = s.windows := rfl
@[simp] theorem count_epochs (s : State) (a : Nat) : (s.count a).epochs = s.epochs := rfl
@[simp] theorem count_rstOut (s : State) (a : Nat) : (s.count a).rstOut = s.rstOut := rfl
@[simp] theorem count_cfl (s : State) (a : Nat) : (s.count a).cfl = s.cfl := rfl
@[simp] theorem count_teardowns (s : State) (a : Nat) : (s.count a).teardowns = s.teardowns := rfl
@[simp] theorem count_dump (s : State) (a : Nat) : (s.count a).dump = s.dump := rfl
@[simp] theorem count_dumpSram (s : State) (a : Nat) : (s.count a).dumpSram = s.dumpSram := rfl
@[simp] theorem count_trv (s : State) (a : Nat) : (s.count a).trv = s.trv := rfl

/-! ### emit changes `out` alone -/

@[simp] theorem emit_pending (s : State) (o : Out) : (s.emit o).pending = s.pending := rfl
@[simp] theorem emit_cfg (s : State) (o : Out) : (s.emit o).cfg = s.cfg := rfl
@[simp] theorem emit_time (s : State) (o : Out) : (s.emit o).time = s.time := rfl
@[simp] theorem emit_free (s : State) (o : Out) : (s.emit o).free = s.free := rfl
@[simp] theorem emit_regs (s : State) (o : Out) : (s.emit o).regs = s.regs := rfl
@[simp] theorem emit_sel (s : State) (o : Out) : (s.emit o).sel = s.sel := rfl
@[simp] theorem emit_rwl (s : State) (o : Out) : (s.emit o).rwl = s.rwl := rfl
@[simp] theorem emit_mem (s : State) (o : Out) : (s.emit o).mem = s.mem := rfl
@[simp] theorem emit_sb (s : State) (o : Out) : (s.emit o).sb = s.sb := rfl
@[simp] theorem emit_port0 (s : State) (o : Out) : (s.emit o).port0 = s.port0 := rfl
@[simp] theorem emit_port1 (s : State) (o : Out) : (s.emit o).port1 = s.port1 := rfl
@[simp] theorem emit_stops (s : State) (o : Out) : (s.emit o).stops = s.stops := rfl
@[simp] theorem emit_stnStops (s : State) (o : Out) : (s.emit o).stnStops = s.stnStops := rfl
@[simp] theorem emit_fuse (s : State) (o : Out) : (s.emit o).fuse = s.fuse := rfl
@[simp] theorem emit_atb (s : State) (o : Out) : (s.emit o).atb = s.atb := rfl
@[simp] theorem emit_peer (s : State) (o : Out) : (s.emit o).peer = s.peer := rfl
@[simp] theorem emit_tapIr (s : State) (o : Out) : (s.emit o).tapIr = s.tapIr := rfl
@[simp] theorem emit_dm (s : State) (o : Out) : (s.emit o).dm = s.dm := rfl
@[simp] theorem emit_bring (s : State) (o : Out) : (s.emit o).bring = s.bring := rfl
@[simp] theorem emit_ladles (s : State) (o : Out) : (s.emit o).ladles = s.ladles := rfl
@[simp] theorem emit_lidQ (s : State) (o : Out) : (s.emit o).lidQ = s.lidQ := rfl
@[simp] theorem emit_answers (s : State) (o : Out) : (s.emit o).answers = s.answers := rfl
@[simp] theorem emit_reports (s : State) (o : Out) : (s.emit o).reports = s.reports := rfl
@[simp] theorem emit_rcps (s : State) (o : Out) : (s.emit o).rcps = s.rcps := rfl
@[simp] theorem emit_rcpLoads (s : State) (o : Out) : (s.emit o).rcpLoads = s.rcpLoads := rfl
@[simp] theorem emit_confirms (s : State) (o : Out) : (s.emit o).confirms = s.confirms := rfl
@[simp] theorem emit_sealQ (s : State) (o : Out) : (s.emit o).sealQ = s.sealQ := rfl
@[simp] theorem emit_routes (s : State) (o : Out) : (s.emit o).routes = s.routes := rfl
@[simp] theorem emit_routeQ (s : State) (o : Out) : (s.emit o).routeQ = s.routeQ := rfl
@[simp] theorem emit_lanes (s : State) (o : Out) : (s.emit o).lanes = s.lanes := rfl
@[simp] theorem emit_queue (s : State) (o : Out) : (s.emit o).queue = s.queue := rfl
@[simp] theorem emit_spill (s : State) (o : Out) : (s.emit o).spill = s.spill := rfl
@[simp] theorem emit_arbs (s : State) (o : Out) : (s.emit o).arbs = s.arbs := rfl
@[simp] theorem emit_nextJob (s : State) (o : Out) : (s.emit o).nextJob = s.nextJob := rfl
@[simp] theorem emit_turn (s : State) (o : Out) : (s.emit o).turn = s.turn := rfl
@[simp] theorem emit_seed (s : State) (o : Out) : (s.emit o).seed = s.seed := rfl
@[simp] theorem emit_models (s : State) (o : Out) : (s.emit o).models = s.models := rfl
@[simp] theorem emit_escTotal (s : State) (o : Out) : (s.emit o).escTotal = s.escTotal := rfl
@[simp] theorem emit_sieveT (s : State) (o : Out) : (s.emit o).sieveT = s.sieveT := rfl
@[simp] theorem emit_boundAt (s : State) (o : Out) : (s.emit o).boundAt = s.boundAt := rfl
@[simp] theorem emit_ctxs (s : State) (o : Out) : (s.emit o).ctxs = s.ctxs := rfl
@[simp] theorem emit_sck (s : State) (o : Out) : (s.emit o).sck = s.sck := rfl
@[simp] theorem emit_lidSeq (s : State) (o : Out) : (s.emit o).lidSeq = s.lidSeq := rfl
@[simp] theorem emit_threads (s : State) (o : Out) : (s.emit o).threads = s.threads := rfl
@[simp] theorem emit_progs (s : State) (o : Out) : (s.emit o).progs = s.progs := rfl
@[simp] theorem emit_runQ (s : State) (o : Out) : (s.emit o).runQ = s.runQ := rfl
@[simp] theorem emit_lastIssued (s : State) (o : Out) : (s.emit o).lastIssued = s.lastIssued := rfl
@[simp] theorem emit_readySeen (s : State) (o : Out) : (s.emit o).readySeen = s.readySeen := rfl
@[simp] theorem emit_tickets (s : State) (o : Out) : (s.emit o).tickets = s.tickets := rfl
@[simp] theorem emit_rings (s : State) (o : Out) : (s.emit o).rings = s.rings := rfl
@[simp] theorem emit_laneSvc (s : State) (o : Out) : (s.emit o).laneSvc = s.laneSvc := rfl
@[simp] theorem emit_jseq (s : State) (o : Out) : (s.emit o).jseq = s.jseq := rfl
@[simp] theorem emit_journal (s : State) (o : Out) : (s.emit o).journal = s.journal := rfl
@[simp] theorem emit_jcopied (s : State) (o : Out) : (s.emit o).jcopied = s.jcopied := rfl
@[simp] theorem emit_kettle (s : State) (o : Out) : (s.emit o).kettle = s.kettle := rfl
@[simp] theorem emit_fixed (s : State) (o : Out) : (s.emit o).fixed = s.fixed := rfl
@[simp] theorem emit_pairings (s : State) (o : Out) : (s.emit o).pairings = s.pairings := rfl
@[simp] theorem emit_provNext (s : State) (o : Out) : (s.emit o).provNext = s.provNext := rfl
@[simp] theorem emit_ckptQ (s : State) (o : Out) : (s.emit o).ckptQ = s.ckptQ := rfl
@[simp] theorem emit_banks (s : State) (o : Out) : (s.emit o).banks = s.banks := rfl
@[simp] theorem emit_bank (s : State) (o : Out) : (s.emit o).bank = s.bank := rfl
@[simp] theorem emit_tcLoad (s : State) (o : Out) : (s.emit o).tcLoad = s.tcLoad := rfl
@[simp] theorem emit_tcReady (s : State) (o : Out) : (s.emit o).tcReady = s.tcReady := rfl
@[simp] theorem emit_whiskQ (s : State) (o : Out) : (s.emit o).whiskQ = s.whiskQ := rfl
@[simp] theorem emit_whisk (s : State) (o : Out) : (s.emit o).whisk = s.whisk := rfl
@[simp] theorem emit_nextWhisk (s : State) (o : Out) : (s.emit o).nextWhisk = s.nextWhisk := rfl
@[simp] theorem emit_testedAt (s : State) (o : Out) : (s.emit o).testedAt = s.testedAt := rfl
@[simp] theorem emit_susp (s : State) (o : Out) : (s.emit o).susp = s.susp := rfl
@[simp] theorem emit_halvedAt (s : State) (o : Out) : (s.emit o).halvedAt = s.halvedAt := rfl
@[simp] theorem emit_tileMap (s : State) (o : Out) : (s.emit o).tileMap = s.tileMap := rfl
@[simp] theorem emit_tmapSeq (s : State) (o : Out) : (s.emit o).tmapSeq = s.tmapSeq := rfl
@[simp] theorem emit_tileStates (s : State) (o : Out) : (s.emit o).tileStates = s.tileStates := rfl
@[simp] theorem emit_pendingOrder (s : State) (o : Out) : (s.emit o).pendingOrder = s.pendingOrder := rfl
@[simp] theorem emit_stepEnded (s : State) (o : Out) : (s.emit o).stepEnded = s.stepEnded := rfl
@[simp] theorem emit_pastBounds (s : State) (o : Out) : (s.emit o).pastBounds = s.pastBounds := rfl
@[simp] theorem emit_quarLast (s : State) (o : Out) : (s.emit o).quarLast = s.quarLast := rfl
@[simp] theorem emit_pairs (s : State) (o : Out) : (s.emit o).pairs = s.pairs := rfl
@[simp] theorem emit_capWaits (s : State) (o : Out) : (s.emit o).capWaits = s.capWaits := rfl
@[simp] theorem emit_capBeats (s : State) (o : Out) : (s.emit o).capBeats = s.capBeats := rfl
@[simp] theorem emit_safe (s : State) (o : Out) : (s.emit o).safe = s.safe := rfl
@[simp] theorem emit_safeReset (s : State) (o : Out) : (s.emit o).safeReset = s.safeReset := rfl
@[simp] theorem emit_watched (s : State) (o : Out) : (s.emit o).watched = s.watched := rfl
@[simp] theorem emit_watchDoms (s : State) (o : Out) : (s.emit o).watchDoms = s.watchDoms := rfl
@[simp] theorem emit_windowAt (s : State) (o : Out) : (s.emit o).windowAt = s.windowAt := rfl
@[simp] theorem emit_rsts (s : State) (o : Out) : (s.emit o).rsts = s.rsts := rfl
@[simp] theorem emit_windows (s : State) (o : Out) : (s.emit o).windows = s.windows := rfl
@[simp] theorem emit_epochs (s : State) (o : Out) : (s.emit o).epochs = s.epochs := rfl
@[simp] theorem emit_rstOut (s : State) (o : Out) : (s.emit o).rstOut = s.rstOut := rfl
@[simp] theorem emit_cfl (s : State) (o : Out) : (s.emit o).cfl = s.cfl := rfl
@[simp] theorem emit_teardowns (s : State) (o : Out) : (s.emit o).teardowns = s.teardowns := rfl
@[simp] theorem emit_dump (s : State) (o : Out) : (s.emit o).dump = s.dump := rfl
@[simp] theorem emit_dumpSram (s : State) (o : Out) : (s.emit o).dumpSram = s.dumpSram := rfl
@[simp] theorem emit_trv (s : State) (o : Out) : (s.emit o).trv = s.trv := rfl

/-! ### setCtx changes `ctxs` alone -/

@[simp] theorem setCtx_pending (s : State) (c : Nat) (v : Ctx) : (s.setCtx c v).pending = s.pending := rfl
@[simp] theorem setCtx_cfg (s : State) (c : Nat) (v : Ctx) : (s.setCtx c v).cfg = s.cfg := rfl
@[simp] theorem setCtx_time (s : State) (c : Nat) (v : Ctx) : (s.setCtx c v).time = s.time := rfl
@[simp] theorem setCtx_free (s : State) (c : Nat) (v : Ctx) : (s.setCtx c v).free = s.free := rfl
@[simp] theorem setCtx_out (s : State) (c : Nat) (v : Ctx) : (s.setCtx c v).out = s.out := rfl
@[simp] theorem setCtx_regs (s : State) (c : Nat) (v : Ctx) : (s.setCtx c v).regs = s.regs := rfl
@[simp] theorem setCtx_sel (s : State) (c : Nat) (v : Ctx) : (s.setCtx c v).sel = s.sel := rfl
@[simp] theorem setCtx_rwl (s : State) (c : Nat) (v : Ctx) : (s.setCtx c v).rwl = s.rwl := rfl
@[simp] theorem setCtx_mem (s : State) (c : Nat) (v : Ctx) : (s.setCtx c v).mem = s.mem := rfl
@[simp] theorem setCtx_sb (s : State) (c : Nat) (v : Ctx) : (s.setCtx c v).sb = s.sb := rfl
@[simp] theorem setCtx_port0 (s : State) (c : Nat) (v : Ctx) : (s.setCtx c v).port0 = s.port0 := rfl
@[simp] theorem setCtx_port1 (s : State) (c : Nat) (v : Ctx) : (s.setCtx c v).port1 = s.port1 := rfl
@[simp] theorem setCtx_stops (s : State) (c : Nat) (v : Ctx) : (s.setCtx c v).stops = s.stops := rfl
@[simp] theorem setCtx_stnStops (s : State) (c : Nat) (v : Ctx) : (s.setCtx c v).stnStops = s.stnStops := rfl
@[simp] theorem setCtx_fuse (s : State) (c : Nat) (v : Ctx) : (s.setCtx c v).fuse = s.fuse := rfl
@[simp] theorem setCtx_atb (s : State) (c : Nat) (v : Ctx) : (s.setCtx c v).atb = s.atb := rfl
@[simp] theorem setCtx_peer (s : State) (c : Nat) (v : Ctx) : (s.setCtx c v).peer = s.peer := rfl
@[simp] theorem setCtx_tapIr (s : State) (c : Nat) (v : Ctx) : (s.setCtx c v).tapIr = s.tapIr := rfl
@[simp] theorem setCtx_dm (s : State) (c : Nat) (v : Ctx) : (s.setCtx c v).dm = s.dm := rfl
@[simp] theorem setCtx_bring (s : State) (c : Nat) (v : Ctx) : (s.setCtx c v).bring = s.bring := rfl
@[simp] theorem setCtx_ladles (s : State) (c : Nat) (v : Ctx) : (s.setCtx c v).ladles = s.ladles := rfl
@[simp] theorem setCtx_lidQ (s : State) (c : Nat) (v : Ctx) : (s.setCtx c v).lidQ = s.lidQ := rfl
@[simp] theorem setCtx_answers (s : State) (c : Nat) (v : Ctx) : (s.setCtx c v).answers = s.answers := rfl
@[simp] theorem setCtx_reports (s : State) (c : Nat) (v : Ctx) : (s.setCtx c v).reports = s.reports := rfl
@[simp] theorem setCtx_rcps (s : State) (c : Nat) (v : Ctx) : (s.setCtx c v).rcps = s.rcps := rfl
@[simp] theorem setCtx_rcpLoads (s : State) (c : Nat) (v : Ctx) : (s.setCtx c v).rcpLoads = s.rcpLoads := rfl
@[simp] theorem setCtx_confirms (s : State) (c : Nat) (v : Ctx) : (s.setCtx c v).confirms = s.confirms := rfl
@[simp] theorem setCtx_sealQ (s : State) (c : Nat) (v : Ctx) : (s.setCtx c v).sealQ = s.sealQ := rfl
@[simp] theorem setCtx_routes (s : State) (c : Nat) (v : Ctx) : (s.setCtx c v).routes = s.routes := rfl
@[simp] theorem setCtx_routeQ (s : State) (c : Nat) (v : Ctx) : (s.setCtx c v).routeQ = s.routeQ := rfl
@[simp] theorem setCtx_lanes (s : State) (c : Nat) (v : Ctx) : (s.setCtx c v).lanes = s.lanes := rfl
@[simp] theorem setCtx_queue (s : State) (c : Nat) (v : Ctx) : (s.setCtx c v).queue = s.queue := rfl
@[simp] theorem setCtx_spill (s : State) (c : Nat) (v : Ctx) : (s.setCtx c v).spill = s.spill := rfl
@[simp] theorem setCtx_arbs (s : State) (c : Nat) (v : Ctx) : (s.setCtx c v).arbs = s.arbs := rfl
@[simp] theorem setCtx_nextJob (s : State) (c : Nat) (v : Ctx) : (s.setCtx c v).nextJob = s.nextJob := rfl
@[simp] theorem setCtx_turn (s : State) (c : Nat) (v : Ctx) : (s.setCtx c v).turn = s.turn := rfl
@[simp] theorem setCtx_seed (s : State) (c : Nat) (v : Ctx) : (s.setCtx c v).seed = s.seed := rfl
@[simp] theorem setCtx_models (s : State) (c : Nat) (v : Ctx) : (s.setCtx c v).models = s.models := rfl
@[simp] theorem setCtx_escTotal (s : State) (c : Nat) (v : Ctx) : (s.setCtx c v).escTotal = s.escTotal := rfl
@[simp] theorem setCtx_sieveT (s : State) (c : Nat) (v : Ctx) : (s.setCtx c v).sieveT = s.sieveT := rfl
@[simp] theorem setCtx_boundAt (s : State) (c : Nat) (v : Ctx) : (s.setCtx c v).boundAt = s.boundAt := rfl
@[simp] theorem setCtx_sck (s : State) (c : Nat) (v : Ctx) : (s.setCtx c v).sck = s.sck := rfl
@[simp] theorem setCtx_lidSeq (s : State) (c : Nat) (v : Ctx) : (s.setCtx c v).lidSeq = s.lidSeq := rfl
@[simp] theorem setCtx_threads (s : State) (c : Nat) (v : Ctx) : (s.setCtx c v).threads = s.threads := rfl
@[simp] theorem setCtx_progs (s : State) (c : Nat) (v : Ctx) : (s.setCtx c v).progs = s.progs := rfl
@[simp] theorem setCtx_runQ (s : State) (c : Nat) (v : Ctx) : (s.setCtx c v).runQ = s.runQ := rfl
@[simp] theorem setCtx_lastIssued (s : State) (c : Nat) (v : Ctx) : (s.setCtx c v).lastIssued = s.lastIssued := rfl
@[simp] theorem setCtx_readySeen (s : State) (c : Nat) (v : Ctx) : (s.setCtx c v).readySeen = s.readySeen := rfl
@[simp] theorem setCtx_tickets (s : State) (c : Nat) (v : Ctx) : (s.setCtx c v).tickets = s.tickets := rfl
@[simp] theorem setCtx_rings (s : State) (c : Nat) (v : Ctx) : (s.setCtx c v).rings = s.rings := rfl
@[simp] theorem setCtx_laneSvc (s : State) (c : Nat) (v : Ctx) : (s.setCtx c v).laneSvc = s.laneSvc := rfl
@[simp] theorem setCtx_jseq (s : State) (c : Nat) (v : Ctx) : (s.setCtx c v).jseq = s.jseq := rfl
@[simp] theorem setCtx_journal (s : State) (c : Nat) (v : Ctx) : (s.setCtx c v).journal = s.journal := rfl
@[simp] theorem setCtx_jcopied (s : State) (c : Nat) (v : Ctx) : (s.setCtx c v).jcopied = s.jcopied := rfl
@[simp] theorem setCtx_kettle (s : State) (c : Nat) (v : Ctx) : (s.setCtx c v).kettle = s.kettle := rfl
@[simp] theorem setCtx_fixed (s : State) (c : Nat) (v : Ctx) : (s.setCtx c v).fixed = s.fixed := rfl
@[simp] theorem setCtx_pairings (s : State) (c : Nat) (v : Ctx) : (s.setCtx c v).pairings = s.pairings := rfl
@[simp] theorem setCtx_provNext (s : State) (c : Nat) (v : Ctx) : (s.setCtx c v).provNext = s.provNext := rfl
@[simp] theorem setCtx_ckptQ (s : State) (c : Nat) (v : Ctx) : (s.setCtx c v).ckptQ = s.ckptQ := rfl
@[simp] theorem setCtx_banks (s : State) (c : Nat) (v : Ctx) : (s.setCtx c v).banks = s.banks := rfl
@[simp] theorem setCtx_bank (s : State) (c : Nat) (v : Ctx) : (s.setCtx c v).bank = s.bank := rfl
@[simp] theorem setCtx_tcLoad (s : State) (c : Nat) (v : Ctx) : (s.setCtx c v).tcLoad = s.tcLoad := rfl
@[simp] theorem setCtx_tcReady (s : State) (c : Nat) (v : Ctx) : (s.setCtx c v).tcReady = s.tcReady := rfl
@[simp] theorem setCtx_whiskQ (s : State) (c : Nat) (v : Ctx) : (s.setCtx c v).whiskQ = s.whiskQ := rfl
@[simp] theorem setCtx_whisk (s : State) (c : Nat) (v : Ctx) : (s.setCtx c v).whisk = s.whisk := rfl
@[simp] theorem setCtx_nextWhisk (s : State) (c : Nat) (v : Ctx) : (s.setCtx c v).nextWhisk = s.nextWhisk := rfl
@[simp] theorem setCtx_testedAt (s : State) (c : Nat) (v : Ctx) : (s.setCtx c v).testedAt = s.testedAt := rfl
@[simp] theorem setCtx_susp (s : State) (c : Nat) (v : Ctx) : (s.setCtx c v).susp = s.susp := rfl
@[simp] theorem setCtx_halvedAt (s : State) (c : Nat) (v : Ctx) : (s.setCtx c v).halvedAt = s.halvedAt := rfl
@[simp] theorem setCtx_tileMap (s : State) (c : Nat) (v : Ctx) : (s.setCtx c v).tileMap = s.tileMap := rfl
@[simp] theorem setCtx_tmapSeq (s : State) (c : Nat) (v : Ctx) : (s.setCtx c v).tmapSeq = s.tmapSeq := rfl
@[simp] theorem setCtx_tileStates (s : State) (c : Nat) (v : Ctx) : (s.setCtx c v).tileStates = s.tileStates := rfl
@[simp] theorem setCtx_pendingOrder (s : State) (c : Nat) (v : Ctx) : (s.setCtx c v).pendingOrder = s.pendingOrder := rfl
@[simp] theorem setCtx_stepEnded (s : State) (c : Nat) (v : Ctx) : (s.setCtx c v).stepEnded = s.stepEnded := rfl
@[simp] theorem setCtx_pastBounds (s : State) (c : Nat) (v : Ctx) : (s.setCtx c v).pastBounds = s.pastBounds := rfl
@[simp] theorem setCtx_quarLast (s : State) (c : Nat) (v : Ctx) : (s.setCtx c v).quarLast = s.quarLast := rfl
@[simp] theorem setCtx_pairs (s : State) (c : Nat) (v : Ctx) : (s.setCtx c v).pairs = s.pairs := rfl
@[simp] theorem setCtx_capWaits (s : State) (c : Nat) (v : Ctx) : (s.setCtx c v).capWaits = s.capWaits := rfl
@[simp] theorem setCtx_capBeats (s : State) (c : Nat) (v : Ctx) : (s.setCtx c v).capBeats = s.capBeats := rfl
@[simp] theorem setCtx_safe (s : State) (c : Nat) (v : Ctx) : (s.setCtx c v).safe = s.safe := rfl
@[simp] theorem setCtx_safeReset (s : State) (c : Nat) (v : Ctx) : (s.setCtx c v).safeReset = s.safeReset := rfl
@[simp] theorem setCtx_watched (s : State) (c : Nat) (v : Ctx) : (s.setCtx c v).watched = s.watched := rfl
@[simp] theorem setCtx_watchDoms (s : State) (c : Nat) (v : Ctx) : (s.setCtx c v).watchDoms = s.watchDoms := rfl
@[simp] theorem setCtx_windowAt (s : State) (c : Nat) (v : Ctx) : (s.setCtx c v).windowAt = s.windowAt := rfl
@[simp] theorem setCtx_rsts (s : State) (c : Nat) (v : Ctx) : (s.setCtx c v).rsts = s.rsts := rfl
@[simp] theorem setCtx_windows (s : State) (c : Nat) (v : Ctx) : (s.setCtx c v).windows = s.windows := rfl
@[simp] theorem setCtx_epochs (s : State) (c : Nat) (v : Ctx) : (s.setCtx c v).epochs = s.epochs := rfl
@[simp] theorem setCtx_rstOut (s : State) (c : Nat) (v : Ctx) : (s.setCtx c v).rstOut = s.rstOut := rfl
@[simp] theorem setCtx_cfl (s : State) (c : Nat) (v : Ctx) : (s.setCtx c v).cfl = s.cfl := rfl
@[simp] theorem setCtx_teardowns (s : State) (c : Nat) (v : Ctx) : (s.setCtx c v).teardowns = s.teardowns := rfl
@[simp] theorem setCtx_dump (s : State) (c : Nat) (v : Ctx) : (s.setCtx c v).dump = s.dump := rfl
@[simp] theorem setCtx_dumpSram (s : State) (c : Nat) (v : Ctx) : (s.setCtx c v).dumpSram = s.dumpSram := rfl
@[simp] theorem setCtx_trv (s : State) (c : Nat) (v : Ctx) : (s.setCtx c v).trv = s.trv := rfl

/-! ### setLadle changes `ladles` alone -/

@[simp] theorem setLadle_pending (s : State) (t : Nat) (v : Ladle) : (s.setLadle t v).pending = s.pending := rfl
@[simp] theorem setLadle_cfg (s : State) (t : Nat) (v : Ladle) : (s.setLadle t v).cfg = s.cfg := rfl
@[simp] theorem setLadle_time (s : State) (t : Nat) (v : Ladle) : (s.setLadle t v).time = s.time := rfl
@[simp] theorem setLadle_free (s : State) (t : Nat) (v : Ladle) : (s.setLadle t v).free = s.free := rfl
@[simp] theorem setLadle_out (s : State) (t : Nat) (v : Ladle) : (s.setLadle t v).out = s.out := rfl
@[simp] theorem setLadle_regs (s : State) (t : Nat) (v : Ladle) : (s.setLadle t v).regs = s.regs := rfl
@[simp] theorem setLadle_sel (s : State) (t : Nat) (v : Ladle) : (s.setLadle t v).sel = s.sel := rfl
@[simp] theorem setLadle_rwl (s : State) (t : Nat) (v : Ladle) : (s.setLadle t v).rwl = s.rwl := rfl
@[simp] theorem setLadle_mem (s : State) (t : Nat) (v : Ladle) : (s.setLadle t v).mem = s.mem := rfl
@[simp] theorem setLadle_sb (s : State) (t : Nat) (v : Ladle) : (s.setLadle t v).sb = s.sb := rfl
@[simp] theorem setLadle_port0 (s : State) (t : Nat) (v : Ladle) : (s.setLadle t v).port0 = s.port0 := rfl
@[simp] theorem setLadle_port1 (s : State) (t : Nat) (v : Ladle) : (s.setLadle t v).port1 = s.port1 := rfl
@[simp] theorem setLadle_stops (s : State) (t : Nat) (v : Ladle) : (s.setLadle t v).stops = s.stops := rfl
@[simp] theorem setLadle_stnStops (s : State) (t : Nat) (v : Ladle) : (s.setLadle t v).stnStops = s.stnStops := rfl
@[simp] theorem setLadle_fuse (s : State) (t : Nat) (v : Ladle) : (s.setLadle t v).fuse = s.fuse := rfl
@[simp] theorem setLadle_atb (s : State) (t : Nat) (v : Ladle) : (s.setLadle t v).atb = s.atb := rfl
@[simp] theorem setLadle_peer (s : State) (t : Nat) (v : Ladle) : (s.setLadle t v).peer = s.peer := rfl
@[simp] theorem setLadle_tapIr (s : State) (t : Nat) (v : Ladle) : (s.setLadle t v).tapIr = s.tapIr := rfl
@[simp] theorem setLadle_dm (s : State) (t : Nat) (v : Ladle) : (s.setLadle t v).dm = s.dm := rfl
@[simp] theorem setLadle_bring (s : State) (t : Nat) (v : Ladle) : (s.setLadle t v).bring = s.bring := rfl
@[simp] theorem setLadle_lidQ (s : State) (t : Nat) (v : Ladle) : (s.setLadle t v).lidQ = s.lidQ := rfl
@[simp] theorem setLadle_answers (s : State) (t : Nat) (v : Ladle) : (s.setLadle t v).answers = s.answers := rfl
@[simp] theorem setLadle_reports (s : State) (t : Nat) (v : Ladle) : (s.setLadle t v).reports = s.reports := rfl
@[simp] theorem setLadle_rcps (s : State) (t : Nat) (v : Ladle) : (s.setLadle t v).rcps = s.rcps := rfl
@[simp] theorem setLadle_rcpLoads (s : State) (t : Nat) (v : Ladle) : (s.setLadle t v).rcpLoads = s.rcpLoads := rfl
@[simp] theorem setLadle_confirms (s : State) (t : Nat) (v : Ladle) : (s.setLadle t v).confirms = s.confirms := rfl
@[simp] theorem setLadle_sealQ (s : State) (t : Nat) (v : Ladle) : (s.setLadle t v).sealQ = s.sealQ := rfl
@[simp] theorem setLadle_routes (s : State) (t : Nat) (v : Ladle) : (s.setLadle t v).routes = s.routes := rfl
@[simp] theorem setLadle_routeQ (s : State) (t : Nat) (v : Ladle) : (s.setLadle t v).routeQ = s.routeQ := rfl
@[simp] theorem setLadle_lanes (s : State) (t : Nat) (v : Ladle) : (s.setLadle t v).lanes = s.lanes := rfl
@[simp] theorem setLadle_queue (s : State) (t : Nat) (v : Ladle) : (s.setLadle t v).queue = s.queue := rfl
@[simp] theorem setLadle_spill (s : State) (t : Nat) (v : Ladle) : (s.setLadle t v).spill = s.spill := rfl
@[simp] theorem setLadle_arbs (s : State) (t : Nat) (v : Ladle) : (s.setLadle t v).arbs = s.arbs := rfl
@[simp] theorem setLadle_nextJob (s : State) (t : Nat) (v : Ladle) : (s.setLadle t v).nextJob = s.nextJob := rfl
@[simp] theorem setLadle_turn (s : State) (t : Nat) (v : Ladle) : (s.setLadle t v).turn = s.turn := rfl
@[simp] theorem setLadle_seed (s : State) (t : Nat) (v : Ladle) : (s.setLadle t v).seed = s.seed := rfl
@[simp] theorem setLadle_models (s : State) (t : Nat) (v : Ladle) : (s.setLadle t v).models = s.models := rfl
@[simp] theorem setLadle_escTotal (s : State) (t : Nat) (v : Ladle) : (s.setLadle t v).escTotal = s.escTotal := rfl
@[simp] theorem setLadle_sieveT (s : State) (t : Nat) (v : Ladle) : (s.setLadle t v).sieveT = s.sieveT := rfl
@[simp] theorem setLadle_boundAt (s : State) (t : Nat) (v : Ladle) : (s.setLadle t v).boundAt = s.boundAt := rfl
@[simp] theorem setLadle_ctxs (s : State) (t : Nat) (v : Ladle) : (s.setLadle t v).ctxs = s.ctxs := rfl
@[simp] theorem setLadle_sck (s : State) (t : Nat) (v : Ladle) : (s.setLadle t v).sck = s.sck := rfl
@[simp] theorem setLadle_lidSeq (s : State) (t : Nat) (v : Ladle) : (s.setLadle t v).lidSeq = s.lidSeq := rfl
@[simp] theorem setLadle_threads (s : State) (t : Nat) (v : Ladle) : (s.setLadle t v).threads = s.threads := rfl
@[simp] theorem setLadle_progs (s : State) (t : Nat) (v : Ladle) : (s.setLadle t v).progs = s.progs := rfl
@[simp] theorem setLadle_runQ (s : State) (t : Nat) (v : Ladle) : (s.setLadle t v).runQ = s.runQ := rfl
@[simp] theorem setLadle_lastIssued (s : State) (t : Nat) (v : Ladle) : (s.setLadle t v).lastIssued = s.lastIssued := rfl
@[simp] theorem setLadle_readySeen (s : State) (t : Nat) (v : Ladle) : (s.setLadle t v).readySeen = s.readySeen := rfl
@[simp] theorem setLadle_tickets (s : State) (t : Nat) (v : Ladle) : (s.setLadle t v).tickets = s.tickets := rfl
@[simp] theorem setLadle_rings (s : State) (t : Nat) (v : Ladle) : (s.setLadle t v).rings = s.rings := rfl
@[simp] theorem setLadle_laneSvc (s : State) (t : Nat) (v : Ladle) : (s.setLadle t v).laneSvc = s.laneSvc := rfl
@[simp] theorem setLadle_jseq (s : State) (t : Nat) (v : Ladle) : (s.setLadle t v).jseq = s.jseq := rfl
@[simp] theorem setLadle_journal (s : State) (t : Nat) (v : Ladle) : (s.setLadle t v).journal = s.journal := rfl
@[simp] theorem setLadle_jcopied (s : State) (t : Nat) (v : Ladle) : (s.setLadle t v).jcopied = s.jcopied := rfl
@[simp] theorem setLadle_kettle (s : State) (t : Nat) (v : Ladle) : (s.setLadle t v).kettle = s.kettle := rfl
@[simp] theorem setLadle_fixed (s : State) (t : Nat) (v : Ladle) : (s.setLadle t v).fixed = s.fixed := rfl
@[simp] theorem setLadle_pairings (s : State) (t : Nat) (v : Ladle) : (s.setLadle t v).pairings = s.pairings := rfl
@[simp] theorem setLadle_provNext (s : State) (t : Nat) (v : Ladle) : (s.setLadle t v).provNext = s.provNext := rfl
@[simp] theorem setLadle_ckptQ (s : State) (t : Nat) (v : Ladle) : (s.setLadle t v).ckptQ = s.ckptQ := rfl
@[simp] theorem setLadle_banks (s : State) (t : Nat) (v : Ladle) : (s.setLadle t v).banks = s.banks := rfl
@[simp] theorem setLadle_bank (s : State) (t : Nat) (v : Ladle) : (s.setLadle t v).bank = s.bank := rfl
@[simp] theorem setLadle_tcLoad (s : State) (t : Nat) (v : Ladle) : (s.setLadle t v).tcLoad = s.tcLoad := rfl
@[simp] theorem setLadle_tcReady (s : State) (t : Nat) (v : Ladle) : (s.setLadle t v).tcReady = s.tcReady := rfl
@[simp] theorem setLadle_whiskQ (s : State) (t : Nat) (v : Ladle) : (s.setLadle t v).whiskQ = s.whiskQ := rfl
@[simp] theorem setLadle_whisk (s : State) (t : Nat) (v : Ladle) : (s.setLadle t v).whisk = s.whisk := rfl
@[simp] theorem setLadle_nextWhisk (s : State) (t : Nat) (v : Ladle) : (s.setLadle t v).nextWhisk = s.nextWhisk := rfl
@[simp] theorem setLadle_testedAt (s : State) (t : Nat) (v : Ladle) : (s.setLadle t v).testedAt = s.testedAt := rfl
@[simp] theorem setLadle_susp (s : State) (t : Nat) (v : Ladle) : (s.setLadle t v).susp = s.susp := rfl
@[simp] theorem setLadle_halvedAt (s : State) (t : Nat) (v : Ladle) : (s.setLadle t v).halvedAt = s.halvedAt := rfl
@[simp] theorem setLadle_tileMap (s : State) (t : Nat) (v : Ladle) : (s.setLadle t v).tileMap = s.tileMap := rfl
@[simp] theorem setLadle_tmapSeq (s : State) (t : Nat) (v : Ladle) : (s.setLadle t v).tmapSeq = s.tmapSeq := rfl
@[simp] theorem setLadle_tileStates (s : State) (t : Nat) (v : Ladle) : (s.setLadle t v).tileStates = s.tileStates := rfl
@[simp] theorem setLadle_pendingOrder (s : State) (t : Nat) (v : Ladle) : (s.setLadle t v).pendingOrder = s.pendingOrder := rfl
@[simp] theorem setLadle_stepEnded (s : State) (t : Nat) (v : Ladle) : (s.setLadle t v).stepEnded = s.stepEnded := rfl
@[simp] theorem setLadle_pastBounds (s : State) (t : Nat) (v : Ladle) : (s.setLadle t v).pastBounds = s.pastBounds := rfl
@[simp] theorem setLadle_quarLast (s : State) (t : Nat) (v : Ladle) : (s.setLadle t v).quarLast = s.quarLast := rfl
@[simp] theorem setLadle_pairs (s : State) (t : Nat) (v : Ladle) : (s.setLadle t v).pairs = s.pairs := rfl
@[simp] theorem setLadle_capWaits (s : State) (t : Nat) (v : Ladle) : (s.setLadle t v).capWaits = s.capWaits := rfl
@[simp] theorem setLadle_capBeats (s : State) (t : Nat) (v : Ladle) : (s.setLadle t v).capBeats = s.capBeats := rfl
@[simp] theorem setLadle_safe (s : State) (t : Nat) (v : Ladle) : (s.setLadle t v).safe = s.safe := rfl
@[simp] theorem setLadle_safeReset (s : State) (t : Nat) (v : Ladle) : (s.setLadle t v).safeReset = s.safeReset := rfl
@[simp] theorem setLadle_watched (s : State) (t : Nat) (v : Ladle) : (s.setLadle t v).watched = s.watched := rfl
@[simp] theorem setLadle_watchDoms (s : State) (t : Nat) (v : Ladle) : (s.setLadle t v).watchDoms = s.watchDoms := rfl
@[simp] theorem setLadle_windowAt (s : State) (t : Nat) (v : Ladle) : (s.setLadle t v).windowAt = s.windowAt := rfl
@[simp] theorem setLadle_rsts (s : State) (t : Nat) (v : Ladle) : (s.setLadle t v).rsts = s.rsts := rfl
@[simp] theorem setLadle_windows (s : State) (t : Nat) (v : Ladle) : (s.setLadle t v).windows = s.windows := rfl
@[simp] theorem setLadle_epochs (s : State) (t : Nat) (v : Ladle) : (s.setLadle t v).epochs = s.epochs := rfl
@[simp] theorem setLadle_rstOut (s : State) (t : Nat) (v : Ladle) : (s.setLadle t v).rstOut = s.rstOut := rfl
@[simp] theorem setLadle_cfl (s : State) (t : Nat) (v : Ladle) : (s.setLadle t v).cfl = s.cfl := rfl
@[simp] theorem setLadle_teardowns (s : State) (t : Nat) (v : Ladle) : (s.setLadle t v).teardowns = s.teardowns := rfl
@[simp] theorem setLadle_dump (s : State) (t : Nat) (v : Ladle) : (s.setLadle t v).dump = s.dump := rfl
@[simp] theorem setLadle_dumpSram (s : State) (t : Nat) (v : Ladle) : (s.setLadle t v).dumpSram = s.dumpSram := rfl
@[simp] theorem setLadle_trv (s : State) (t : Nat) (v : Ladle) : (s.setLadle t v).trv = s.trv := rfl

/-! ### setThread changes `threads` alone -/

@[simp] theorem setThread_pending (s : State) (t : Nat) (v : Thread) : (s.setThread t v).pending = s.pending := rfl
@[simp] theorem setThread_cfg (s : State) (t : Nat) (v : Thread) : (s.setThread t v).cfg = s.cfg := rfl
@[simp] theorem setThread_time (s : State) (t : Nat) (v : Thread) : (s.setThread t v).time = s.time := rfl
@[simp] theorem setThread_free (s : State) (t : Nat) (v : Thread) : (s.setThread t v).free = s.free := rfl
@[simp] theorem setThread_out (s : State) (t : Nat) (v : Thread) : (s.setThread t v).out = s.out := rfl
@[simp] theorem setThread_regs (s : State) (t : Nat) (v : Thread) : (s.setThread t v).regs = s.regs := rfl
@[simp] theorem setThread_sel (s : State) (t : Nat) (v : Thread) : (s.setThread t v).sel = s.sel := rfl
@[simp] theorem setThread_rwl (s : State) (t : Nat) (v : Thread) : (s.setThread t v).rwl = s.rwl := rfl
@[simp] theorem setThread_mem (s : State) (t : Nat) (v : Thread) : (s.setThread t v).mem = s.mem := rfl
@[simp] theorem setThread_sb (s : State) (t : Nat) (v : Thread) : (s.setThread t v).sb = s.sb := rfl
@[simp] theorem setThread_port0 (s : State) (t : Nat) (v : Thread) : (s.setThread t v).port0 = s.port0 := rfl
@[simp] theorem setThread_port1 (s : State) (t : Nat) (v : Thread) : (s.setThread t v).port1 = s.port1 := rfl
@[simp] theorem setThread_stops (s : State) (t : Nat) (v : Thread) : (s.setThread t v).stops = s.stops := rfl
@[simp] theorem setThread_stnStops (s : State) (t : Nat) (v : Thread) : (s.setThread t v).stnStops = s.stnStops := rfl
@[simp] theorem setThread_fuse (s : State) (t : Nat) (v : Thread) : (s.setThread t v).fuse = s.fuse := rfl
@[simp] theorem setThread_atb (s : State) (t : Nat) (v : Thread) : (s.setThread t v).atb = s.atb := rfl
@[simp] theorem setThread_peer (s : State) (t : Nat) (v : Thread) : (s.setThread t v).peer = s.peer := rfl
@[simp] theorem setThread_tapIr (s : State) (t : Nat) (v : Thread) : (s.setThread t v).tapIr = s.tapIr := rfl
@[simp] theorem setThread_dm (s : State) (t : Nat) (v : Thread) : (s.setThread t v).dm = s.dm := rfl
@[simp] theorem setThread_bring (s : State) (t : Nat) (v : Thread) : (s.setThread t v).bring = s.bring := rfl
@[simp] theorem setThread_ladles (s : State) (t : Nat) (v : Thread) : (s.setThread t v).ladles = s.ladles := rfl
@[simp] theorem setThread_lidQ (s : State) (t : Nat) (v : Thread) : (s.setThread t v).lidQ = s.lidQ := rfl
@[simp] theorem setThread_answers (s : State) (t : Nat) (v : Thread) : (s.setThread t v).answers = s.answers := rfl
@[simp] theorem setThread_reports (s : State) (t : Nat) (v : Thread) : (s.setThread t v).reports = s.reports := rfl
@[simp] theorem setThread_rcps (s : State) (t : Nat) (v : Thread) : (s.setThread t v).rcps = s.rcps := rfl
@[simp] theorem setThread_rcpLoads (s : State) (t : Nat) (v : Thread) : (s.setThread t v).rcpLoads = s.rcpLoads := rfl
@[simp] theorem setThread_confirms (s : State) (t : Nat) (v : Thread) : (s.setThread t v).confirms = s.confirms := rfl
@[simp] theorem setThread_sealQ (s : State) (t : Nat) (v : Thread) : (s.setThread t v).sealQ = s.sealQ := rfl
@[simp] theorem setThread_routes (s : State) (t : Nat) (v : Thread) : (s.setThread t v).routes = s.routes := rfl
@[simp] theorem setThread_routeQ (s : State) (t : Nat) (v : Thread) : (s.setThread t v).routeQ = s.routeQ := rfl
@[simp] theorem setThread_lanes (s : State) (t : Nat) (v : Thread) : (s.setThread t v).lanes = s.lanes := rfl
@[simp] theorem setThread_queue (s : State) (t : Nat) (v : Thread) : (s.setThread t v).queue = s.queue := rfl
@[simp] theorem setThread_spill (s : State) (t : Nat) (v : Thread) : (s.setThread t v).spill = s.spill := rfl
@[simp] theorem setThread_arbs (s : State) (t : Nat) (v : Thread) : (s.setThread t v).arbs = s.arbs := rfl
@[simp] theorem setThread_nextJob (s : State) (t : Nat) (v : Thread) : (s.setThread t v).nextJob = s.nextJob := rfl
@[simp] theorem setThread_turn (s : State) (t : Nat) (v : Thread) : (s.setThread t v).turn = s.turn := rfl
@[simp] theorem setThread_seed (s : State) (t : Nat) (v : Thread) : (s.setThread t v).seed = s.seed := rfl
@[simp] theorem setThread_models (s : State) (t : Nat) (v : Thread) : (s.setThread t v).models = s.models := rfl
@[simp] theorem setThread_escTotal (s : State) (t : Nat) (v : Thread) : (s.setThread t v).escTotal = s.escTotal := rfl
@[simp] theorem setThread_sieveT (s : State) (t : Nat) (v : Thread) : (s.setThread t v).sieveT = s.sieveT := rfl
@[simp] theorem setThread_boundAt (s : State) (t : Nat) (v : Thread) : (s.setThread t v).boundAt = s.boundAt := rfl
@[simp] theorem setThread_ctxs (s : State) (t : Nat) (v : Thread) : (s.setThread t v).ctxs = s.ctxs := rfl
@[simp] theorem setThread_sck (s : State) (t : Nat) (v : Thread) : (s.setThread t v).sck = s.sck := rfl
@[simp] theorem setThread_lidSeq (s : State) (t : Nat) (v : Thread) : (s.setThread t v).lidSeq = s.lidSeq := rfl
@[simp] theorem setThread_progs (s : State) (t : Nat) (v : Thread) : (s.setThread t v).progs = s.progs := rfl
@[simp] theorem setThread_runQ (s : State) (t : Nat) (v : Thread) : (s.setThread t v).runQ = s.runQ := rfl
@[simp] theorem setThread_lastIssued (s : State) (t : Nat) (v : Thread) : (s.setThread t v).lastIssued = s.lastIssued := rfl
@[simp] theorem setThread_readySeen (s : State) (t : Nat) (v : Thread) : (s.setThread t v).readySeen = s.readySeen := rfl
@[simp] theorem setThread_tickets (s : State) (t : Nat) (v : Thread) : (s.setThread t v).tickets = s.tickets := rfl
@[simp] theorem setThread_rings (s : State) (t : Nat) (v : Thread) : (s.setThread t v).rings = s.rings := rfl
@[simp] theorem setThread_laneSvc (s : State) (t : Nat) (v : Thread) : (s.setThread t v).laneSvc = s.laneSvc := rfl
@[simp] theorem setThread_jseq (s : State) (t : Nat) (v : Thread) : (s.setThread t v).jseq = s.jseq := rfl
@[simp] theorem setThread_journal (s : State) (t : Nat) (v : Thread) : (s.setThread t v).journal = s.journal := rfl
@[simp] theorem setThread_jcopied (s : State) (t : Nat) (v : Thread) : (s.setThread t v).jcopied = s.jcopied := rfl
@[simp] theorem setThread_kettle (s : State) (t : Nat) (v : Thread) : (s.setThread t v).kettle = s.kettle := rfl
@[simp] theorem setThread_fixed (s : State) (t : Nat) (v : Thread) : (s.setThread t v).fixed = s.fixed := rfl
@[simp] theorem setThread_pairings (s : State) (t : Nat) (v : Thread) : (s.setThread t v).pairings = s.pairings := rfl
@[simp] theorem setThread_provNext (s : State) (t : Nat) (v : Thread) : (s.setThread t v).provNext = s.provNext := rfl
@[simp] theorem setThread_ckptQ (s : State) (t : Nat) (v : Thread) : (s.setThread t v).ckptQ = s.ckptQ := rfl
@[simp] theorem setThread_banks (s : State) (t : Nat) (v : Thread) : (s.setThread t v).banks = s.banks := rfl
@[simp] theorem setThread_bank (s : State) (t : Nat) (v : Thread) : (s.setThread t v).bank = s.bank := rfl
@[simp] theorem setThread_tcLoad (s : State) (t : Nat) (v : Thread) : (s.setThread t v).tcLoad = s.tcLoad := rfl
@[simp] theorem setThread_tcReady (s : State) (t : Nat) (v : Thread) : (s.setThread t v).tcReady = s.tcReady := rfl
@[simp] theorem setThread_whiskQ (s : State) (t : Nat) (v : Thread) : (s.setThread t v).whiskQ = s.whiskQ := rfl
@[simp] theorem setThread_whisk (s : State) (t : Nat) (v : Thread) : (s.setThread t v).whisk = s.whisk := rfl
@[simp] theorem setThread_nextWhisk (s : State) (t : Nat) (v : Thread) : (s.setThread t v).nextWhisk = s.nextWhisk := rfl
@[simp] theorem setThread_testedAt (s : State) (t : Nat) (v : Thread) : (s.setThread t v).testedAt = s.testedAt := rfl
@[simp] theorem setThread_susp (s : State) (t : Nat) (v : Thread) : (s.setThread t v).susp = s.susp := rfl
@[simp] theorem setThread_halvedAt (s : State) (t : Nat) (v : Thread) : (s.setThread t v).halvedAt = s.halvedAt := rfl
@[simp] theorem setThread_tileMap (s : State) (t : Nat) (v : Thread) : (s.setThread t v).tileMap = s.tileMap := rfl
@[simp] theorem setThread_tmapSeq (s : State) (t : Nat) (v : Thread) : (s.setThread t v).tmapSeq = s.tmapSeq := rfl
@[simp] theorem setThread_tileStates (s : State) (t : Nat) (v : Thread) : (s.setThread t v).tileStates = s.tileStates := rfl
@[simp] theorem setThread_pendingOrder (s : State) (t : Nat) (v : Thread) : (s.setThread t v).pendingOrder = s.pendingOrder := rfl
@[simp] theorem setThread_stepEnded (s : State) (t : Nat) (v : Thread) : (s.setThread t v).stepEnded = s.stepEnded := rfl
@[simp] theorem setThread_pastBounds (s : State) (t : Nat) (v : Thread) : (s.setThread t v).pastBounds = s.pastBounds := rfl
@[simp] theorem setThread_quarLast (s : State) (t : Nat) (v : Thread) : (s.setThread t v).quarLast = s.quarLast := rfl
@[simp] theorem setThread_pairs (s : State) (t : Nat) (v : Thread) : (s.setThread t v).pairs = s.pairs := rfl
@[simp] theorem setThread_capWaits (s : State) (t : Nat) (v : Thread) : (s.setThread t v).capWaits = s.capWaits := rfl
@[simp] theorem setThread_capBeats (s : State) (t : Nat) (v : Thread) : (s.setThread t v).capBeats = s.capBeats := rfl
@[simp] theorem setThread_safe (s : State) (t : Nat) (v : Thread) : (s.setThread t v).safe = s.safe := rfl
@[simp] theorem setThread_safeReset (s : State) (t : Nat) (v : Thread) : (s.setThread t v).safeReset = s.safeReset := rfl
@[simp] theorem setThread_watched (s : State) (t : Nat) (v : Thread) : (s.setThread t v).watched = s.watched := rfl
@[simp] theorem setThread_watchDoms (s : State) (t : Nat) (v : Thread) : (s.setThread t v).watchDoms = s.watchDoms := rfl
@[simp] theorem setThread_windowAt (s : State) (t : Nat) (v : Thread) : (s.setThread t v).windowAt = s.windowAt := rfl
@[simp] theorem setThread_rsts (s : State) (t : Nat) (v : Thread) : (s.setThread t v).rsts = s.rsts := rfl
@[simp] theorem setThread_windows (s : State) (t : Nat) (v : Thread) : (s.setThread t v).windows = s.windows := rfl
@[simp] theorem setThread_epochs (s : State) (t : Nat) (v : Thread) : (s.setThread t v).epochs = s.epochs := rfl
@[simp] theorem setThread_rstOut (s : State) (t : Nat) (v : Thread) : (s.setThread t v).rstOut = s.rstOut := rfl
@[simp] theorem setThread_cfl (s : State) (t : Nat) (v : Thread) : (s.setThread t v).cfl = s.cfl := rfl
@[simp] theorem setThread_teardowns (s : State) (t : Nat) (v : Thread) : (s.setThread t v).teardowns = s.teardowns := rfl
@[simp] theorem setThread_dump (s : State) (t : Nat) (v : Thread) : (s.setThread t v).dump = s.dump := rfl
@[simp] theorem setThread_dumpSram (s : State) (t : Nat) (v : Thread) : (s.setThread t v).dumpSram = s.dumpSram := rfl
@[simp] theorem setThread_trv (s : State) (t : Nat) (v : Thread) : (s.setThread t v).trv = s.trv := rfl

/-! ### setProgram changes `progs` alone -/

@[simp] theorem setProgram_pending (s : State) (p : Nat) (v : Program) : (s.setProgram p v).pending = s.pending := rfl
@[simp] theorem setProgram_cfg (s : State) (p : Nat) (v : Program) : (s.setProgram p v).cfg = s.cfg := rfl
@[simp] theorem setProgram_time (s : State) (p : Nat) (v : Program) : (s.setProgram p v).time = s.time := rfl
@[simp] theorem setProgram_free (s : State) (p : Nat) (v : Program) : (s.setProgram p v).free = s.free := rfl
@[simp] theorem setProgram_out (s : State) (p : Nat) (v : Program) : (s.setProgram p v).out = s.out := rfl
@[simp] theorem setProgram_regs (s : State) (p : Nat) (v : Program) : (s.setProgram p v).regs = s.regs := rfl
@[simp] theorem setProgram_sel (s : State) (p : Nat) (v : Program) : (s.setProgram p v).sel = s.sel := rfl
@[simp] theorem setProgram_rwl (s : State) (p : Nat) (v : Program) : (s.setProgram p v).rwl = s.rwl := rfl
@[simp] theorem setProgram_mem (s : State) (p : Nat) (v : Program) : (s.setProgram p v).mem = s.mem := rfl
@[simp] theorem setProgram_sb (s : State) (p : Nat) (v : Program) : (s.setProgram p v).sb = s.sb := rfl
@[simp] theorem setProgram_port0 (s : State) (p : Nat) (v : Program) : (s.setProgram p v).port0 = s.port0 := rfl
@[simp] theorem setProgram_port1 (s : State) (p : Nat) (v : Program) : (s.setProgram p v).port1 = s.port1 := rfl
@[simp] theorem setProgram_stops (s : State) (p : Nat) (v : Program) : (s.setProgram p v).stops = s.stops := rfl
@[simp] theorem setProgram_stnStops (s : State) (p : Nat) (v : Program) : (s.setProgram p v).stnStops = s.stnStops := rfl
@[simp] theorem setProgram_fuse (s : State) (p : Nat) (v : Program) : (s.setProgram p v).fuse = s.fuse := rfl
@[simp] theorem setProgram_atb (s : State) (p : Nat) (v : Program) : (s.setProgram p v).atb = s.atb := rfl
@[simp] theorem setProgram_peer (s : State) (p : Nat) (v : Program) : (s.setProgram p v).peer = s.peer := rfl
@[simp] theorem setProgram_tapIr (s : State) (p : Nat) (v : Program) : (s.setProgram p v).tapIr = s.tapIr := rfl
@[simp] theorem setProgram_dm (s : State) (p : Nat) (v : Program) : (s.setProgram p v).dm = s.dm := rfl
@[simp] theorem setProgram_bring (s : State) (p : Nat) (v : Program) : (s.setProgram p v).bring = s.bring := rfl
@[simp] theorem setProgram_ladles (s : State) (p : Nat) (v : Program) : (s.setProgram p v).ladles = s.ladles := rfl
@[simp] theorem setProgram_lidQ (s : State) (p : Nat) (v : Program) : (s.setProgram p v).lidQ = s.lidQ := rfl
@[simp] theorem setProgram_answers (s : State) (p : Nat) (v : Program) : (s.setProgram p v).answers = s.answers := rfl
@[simp] theorem setProgram_reports (s : State) (p : Nat) (v : Program) : (s.setProgram p v).reports = s.reports := rfl
@[simp] theorem setProgram_rcps (s : State) (p : Nat) (v : Program) : (s.setProgram p v).rcps = s.rcps := rfl
@[simp] theorem setProgram_rcpLoads (s : State) (p : Nat) (v : Program) : (s.setProgram p v).rcpLoads = s.rcpLoads := rfl
@[simp] theorem setProgram_confirms (s : State) (p : Nat) (v : Program) : (s.setProgram p v).confirms = s.confirms := rfl
@[simp] theorem setProgram_sealQ (s : State) (p : Nat) (v : Program) : (s.setProgram p v).sealQ = s.sealQ := rfl
@[simp] theorem setProgram_routes (s : State) (p : Nat) (v : Program) : (s.setProgram p v).routes = s.routes := rfl
@[simp] theorem setProgram_routeQ (s : State) (p : Nat) (v : Program) : (s.setProgram p v).routeQ = s.routeQ := rfl
@[simp] theorem setProgram_lanes (s : State) (p : Nat) (v : Program) : (s.setProgram p v).lanes = s.lanes := rfl
@[simp] theorem setProgram_queue (s : State) (p : Nat) (v : Program) : (s.setProgram p v).queue = s.queue := rfl
@[simp] theorem setProgram_spill (s : State) (p : Nat) (v : Program) : (s.setProgram p v).spill = s.spill := rfl
@[simp] theorem setProgram_arbs (s : State) (p : Nat) (v : Program) : (s.setProgram p v).arbs = s.arbs := rfl
@[simp] theorem setProgram_nextJob (s : State) (p : Nat) (v : Program) : (s.setProgram p v).nextJob = s.nextJob := rfl
@[simp] theorem setProgram_turn (s : State) (p : Nat) (v : Program) : (s.setProgram p v).turn = s.turn := rfl
@[simp] theorem setProgram_seed (s : State) (p : Nat) (v : Program) : (s.setProgram p v).seed = s.seed := rfl
@[simp] theorem setProgram_models (s : State) (p : Nat) (v : Program) : (s.setProgram p v).models = s.models := rfl
@[simp] theorem setProgram_escTotal (s : State) (p : Nat) (v : Program) : (s.setProgram p v).escTotal = s.escTotal := rfl
@[simp] theorem setProgram_sieveT (s : State) (p : Nat) (v : Program) : (s.setProgram p v).sieveT = s.sieveT := rfl
@[simp] theorem setProgram_boundAt (s : State) (p : Nat) (v : Program) : (s.setProgram p v).boundAt = s.boundAt := rfl
@[simp] theorem setProgram_ctxs (s : State) (p : Nat) (v : Program) : (s.setProgram p v).ctxs = s.ctxs := rfl
@[simp] theorem setProgram_sck (s : State) (p : Nat) (v : Program) : (s.setProgram p v).sck = s.sck := rfl
@[simp] theorem setProgram_lidSeq (s : State) (p : Nat) (v : Program) : (s.setProgram p v).lidSeq = s.lidSeq := rfl
@[simp] theorem setProgram_threads (s : State) (p : Nat) (v : Program) : (s.setProgram p v).threads = s.threads := rfl
@[simp] theorem setProgram_runQ (s : State) (p : Nat) (v : Program) : (s.setProgram p v).runQ = s.runQ := rfl
@[simp] theorem setProgram_lastIssued (s : State) (p : Nat) (v : Program) : (s.setProgram p v).lastIssued = s.lastIssued := rfl
@[simp] theorem setProgram_readySeen (s : State) (p : Nat) (v : Program) : (s.setProgram p v).readySeen = s.readySeen := rfl
@[simp] theorem setProgram_tickets (s : State) (p : Nat) (v : Program) : (s.setProgram p v).tickets = s.tickets := rfl
@[simp] theorem setProgram_rings (s : State) (p : Nat) (v : Program) : (s.setProgram p v).rings = s.rings := rfl
@[simp] theorem setProgram_laneSvc (s : State) (p : Nat) (v : Program) : (s.setProgram p v).laneSvc = s.laneSvc := rfl
@[simp] theorem setProgram_jseq (s : State) (p : Nat) (v : Program) : (s.setProgram p v).jseq = s.jseq := rfl
@[simp] theorem setProgram_journal (s : State) (p : Nat) (v : Program) : (s.setProgram p v).journal = s.journal := rfl
@[simp] theorem setProgram_jcopied (s : State) (p : Nat) (v : Program) : (s.setProgram p v).jcopied = s.jcopied := rfl
@[simp] theorem setProgram_kettle (s : State) (p : Nat) (v : Program) : (s.setProgram p v).kettle = s.kettle := rfl
@[simp] theorem setProgram_fixed (s : State) (p : Nat) (v : Program) : (s.setProgram p v).fixed = s.fixed := rfl
@[simp] theorem setProgram_pairings (s : State) (p : Nat) (v : Program) : (s.setProgram p v).pairings = s.pairings := rfl
@[simp] theorem setProgram_provNext (s : State) (p : Nat) (v : Program) : (s.setProgram p v).provNext = s.provNext := rfl
@[simp] theorem setProgram_ckptQ (s : State) (p : Nat) (v : Program) : (s.setProgram p v).ckptQ = s.ckptQ := rfl
@[simp] theorem setProgram_banks (s : State) (p : Nat) (v : Program) : (s.setProgram p v).banks = s.banks := rfl
@[simp] theorem setProgram_bank (s : State) (p : Nat) (v : Program) : (s.setProgram p v).bank = s.bank := rfl
@[simp] theorem setProgram_tcLoad (s : State) (p : Nat) (v : Program) : (s.setProgram p v).tcLoad = s.tcLoad := rfl
@[simp] theorem setProgram_tcReady (s : State) (p : Nat) (v : Program) : (s.setProgram p v).tcReady = s.tcReady := rfl
@[simp] theorem setProgram_whiskQ (s : State) (p : Nat) (v : Program) : (s.setProgram p v).whiskQ = s.whiskQ := rfl
@[simp] theorem setProgram_whisk (s : State) (p : Nat) (v : Program) : (s.setProgram p v).whisk = s.whisk := rfl
@[simp] theorem setProgram_nextWhisk (s : State) (p : Nat) (v : Program) : (s.setProgram p v).nextWhisk = s.nextWhisk := rfl
@[simp] theorem setProgram_testedAt (s : State) (p : Nat) (v : Program) : (s.setProgram p v).testedAt = s.testedAt := rfl
@[simp] theorem setProgram_susp (s : State) (p : Nat) (v : Program) : (s.setProgram p v).susp = s.susp := rfl
@[simp] theorem setProgram_halvedAt (s : State) (p : Nat) (v : Program) : (s.setProgram p v).halvedAt = s.halvedAt := rfl
@[simp] theorem setProgram_tileMap (s : State) (p : Nat) (v : Program) : (s.setProgram p v).tileMap = s.tileMap := rfl
@[simp] theorem setProgram_tmapSeq (s : State) (p : Nat) (v : Program) : (s.setProgram p v).tmapSeq = s.tmapSeq := rfl
@[simp] theorem setProgram_tileStates (s : State) (p : Nat) (v : Program) : (s.setProgram p v).tileStates = s.tileStates := rfl
@[simp] theorem setProgram_pendingOrder (s : State) (p : Nat) (v : Program) : (s.setProgram p v).pendingOrder = s.pendingOrder := rfl
@[simp] theorem setProgram_stepEnded (s : State) (p : Nat) (v : Program) : (s.setProgram p v).stepEnded = s.stepEnded := rfl
@[simp] theorem setProgram_pastBounds (s : State) (p : Nat) (v : Program) : (s.setProgram p v).pastBounds = s.pastBounds := rfl
@[simp] theorem setProgram_quarLast (s : State) (p : Nat) (v : Program) : (s.setProgram p v).quarLast = s.quarLast := rfl
@[simp] theorem setProgram_pairs (s : State) (p : Nat) (v : Program) : (s.setProgram p v).pairs = s.pairs := rfl
@[simp] theorem setProgram_capWaits (s : State) (p : Nat) (v : Program) : (s.setProgram p v).capWaits = s.capWaits := rfl
@[simp] theorem setProgram_capBeats (s : State) (p : Nat) (v : Program) : (s.setProgram p v).capBeats = s.capBeats := rfl
@[simp] theorem setProgram_safe (s : State) (p : Nat) (v : Program) : (s.setProgram p v).safe = s.safe := rfl
@[simp] theorem setProgram_safeReset (s : State) (p : Nat) (v : Program) : (s.setProgram p v).safeReset = s.safeReset := rfl
@[simp] theorem setProgram_watched (s : State) (p : Nat) (v : Program) : (s.setProgram p v).watched = s.watched := rfl
@[simp] theorem setProgram_watchDoms (s : State) (p : Nat) (v : Program) : (s.setProgram p v).watchDoms = s.watchDoms := rfl
@[simp] theorem setProgram_windowAt (s : State) (p : Nat) (v : Program) : (s.setProgram p v).windowAt = s.windowAt := rfl
@[simp] theorem setProgram_rsts (s : State) (p : Nat) (v : Program) : (s.setProgram p v).rsts = s.rsts := rfl
@[simp] theorem setProgram_windows (s : State) (p : Nat) (v : Program) : (s.setProgram p v).windows = s.windows := rfl
@[simp] theorem setProgram_epochs (s : State) (p : Nat) (v : Program) : (s.setProgram p v).epochs = s.epochs := rfl
@[simp] theorem setProgram_rstOut (s : State) (p : Nat) (v : Program) : (s.setProgram p v).rstOut = s.rstOut := rfl
@[simp] theorem setProgram_cfl (s : State) (p : Nat) (v : Program) : (s.setProgram p v).cfl = s.cfl := rfl
@[simp] theorem setProgram_teardowns (s : State) (p : Nat) (v : Program) : (s.setProgram p v).teardowns = s.teardowns := rfl
@[simp] theorem setProgram_dump (s : State) (p : Nat) (v : Program) : (s.setProgram p v).dump = s.dump := rfl
@[simp] theorem setProgram_dumpSram (s : State) (p : Nat) (v : Program) : (s.setProgram p v).dumpSram = s.dumpSram := rfl
@[simp] theorem setProgram_trv (s : State) (p : Nat) (v : Program) : (s.setProgram p v).trv = s.trv := rfl

/-! ### setRing changes `rings` alone -/

@[simp] theorem setRing_pending (s : State) (n : Nat) (v : Ring) : (s.setRing n v).pending = s.pending := rfl
@[simp] theorem setRing_cfg (s : State) (n : Nat) (v : Ring) : (s.setRing n v).cfg = s.cfg := rfl
@[simp] theorem setRing_time (s : State) (n : Nat) (v : Ring) : (s.setRing n v).time = s.time := rfl
@[simp] theorem setRing_free (s : State) (n : Nat) (v : Ring) : (s.setRing n v).free = s.free := rfl
@[simp] theorem setRing_out (s : State) (n : Nat) (v : Ring) : (s.setRing n v).out = s.out := rfl
@[simp] theorem setRing_regs (s : State) (n : Nat) (v : Ring) : (s.setRing n v).regs = s.regs := rfl
@[simp] theorem setRing_sel (s : State) (n : Nat) (v : Ring) : (s.setRing n v).sel = s.sel := rfl
@[simp] theorem setRing_rwl (s : State) (n : Nat) (v : Ring) : (s.setRing n v).rwl = s.rwl := rfl
@[simp] theorem setRing_mem (s : State) (n : Nat) (v : Ring) : (s.setRing n v).mem = s.mem := rfl
@[simp] theorem setRing_sb (s : State) (n : Nat) (v : Ring) : (s.setRing n v).sb = s.sb := rfl
@[simp] theorem setRing_port0 (s : State) (n : Nat) (v : Ring) : (s.setRing n v).port0 = s.port0 := rfl
@[simp] theorem setRing_port1 (s : State) (n : Nat) (v : Ring) : (s.setRing n v).port1 = s.port1 := rfl
@[simp] theorem setRing_stops (s : State) (n : Nat) (v : Ring) : (s.setRing n v).stops = s.stops := rfl
@[simp] theorem setRing_stnStops (s : State) (n : Nat) (v : Ring) : (s.setRing n v).stnStops = s.stnStops := rfl
@[simp] theorem setRing_fuse (s : State) (n : Nat) (v : Ring) : (s.setRing n v).fuse = s.fuse := rfl
@[simp] theorem setRing_atb (s : State) (n : Nat) (v : Ring) : (s.setRing n v).atb = s.atb := rfl
@[simp] theorem setRing_peer (s : State) (n : Nat) (v : Ring) : (s.setRing n v).peer = s.peer := rfl
@[simp] theorem setRing_tapIr (s : State) (n : Nat) (v : Ring) : (s.setRing n v).tapIr = s.tapIr := rfl
@[simp] theorem setRing_dm (s : State) (n : Nat) (v : Ring) : (s.setRing n v).dm = s.dm := rfl
@[simp] theorem setRing_bring (s : State) (n : Nat) (v : Ring) : (s.setRing n v).bring = s.bring := rfl
@[simp] theorem setRing_ladles (s : State) (n : Nat) (v : Ring) : (s.setRing n v).ladles = s.ladles := rfl
@[simp] theorem setRing_lidQ (s : State) (n : Nat) (v : Ring) : (s.setRing n v).lidQ = s.lidQ := rfl
@[simp] theorem setRing_answers (s : State) (n : Nat) (v : Ring) : (s.setRing n v).answers = s.answers := rfl
@[simp] theorem setRing_reports (s : State) (n : Nat) (v : Ring) : (s.setRing n v).reports = s.reports := rfl
@[simp] theorem setRing_rcps (s : State) (n : Nat) (v : Ring) : (s.setRing n v).rcps = s.rcps := rfl
@[simp] theorem setRing_rcpLoads (s : State) (n : Nat) (v : Ring) : (s.setRing n v).rcpLoads = s.rcpLoads := rfl
@[simp] theorem setRing_confirms (s : State) (n : Nat) (v : Ring) : (s.setRing n v).confirms = s.confirms := rfl
@[simp] theorem setRing_sealQ (s : State) (n : Nat) (v : Ring) : (s.setRing n v).sealQ = s.sealQ := rfl
@[simp] theorem setRing_routes (s : State) (n : Nat) (v : Ring) : (s.setRing n v).routes = s.routes := rfl
@[simp] theorem setRing_routeQ (s : State) (n : Nat) (v : Ring) : (s.setRing n v).routeQ = s.routeQ := rfl
@[simp] theorem setRing_lanes (s : State) (n : Nat) (v : Ring) : (s.setRing n v).lanes = s.lanes := rfl
@[simp] theorem setRing_queue (s : State) (n : Nat) (v : Ring) : (s.setRing n v).queue = s.queue := rfl
@[simp] theorem setRing_spill (s : State) (n : Nat) (v : Ring) : (s.setRing n v).spill = s.spill := rfl
@[simp] theorem setRing_arbs (s : State) (n : Nat) (v : Ring) : (s.setRing n v).arbs = s.arbs := rfl
@[simp] theorem setRing_nextJob (s : State) (n : Nat) (v : Ring) : (s.setRing n v).nextJob = s.nextJob := rfl
@[simp] theorem setRing_turn (s : State) (n : Nat) (v : Ring) : (s.setRing n v).turn = s.turn := rfl
@[simp] theorem setRing_seed (s : State) (n : Nat) (v : Ring) : (s.setRing n v).seed = s.seed := rfl
@[simp] theorem setRing_models (s : State) (n : Nat) (v : Ring) : (s.setRing n v).models = s.models := rfl
@[simp] theorem setRing_escTotal (s : State) (n : Nat) (v : Ring) : (s.setRing n v).escTotal = s.escTotal := rfl
@[simp] theorem setRing_sieveT (s : State) (n : Nat) (v : Ring) : (s.setRing n v).sieveT = s.sieveT := rfl
@[simp] theorem setRing_boundAt (s : State) (n : Nat) (v : Ring) : (s.setRing n v).boundAt = s.boundAt := rfl
@[simp] theorem setRing_ctxs (s : State) (n : Nat) (v : Ring) : (s.setRing n v).ctxs = s.ctxs := rfl
@[simp] theorem setRing_sck (s : State) (n : Nat) (v : Ring) : (s.setRing n v).sck = s.sck := rfl
@[simp] theorem setRing_lidSeq (s : State) (n : Nat) (v : Ring) : (s.setRing n v).lidSeq = s.lidSeq := rfl
@[simp] theorem setRing_threads (s : State) (n : Nat) (v : Ring) : (s.setRing n v).threads = s.threads := rfl
@[simp] theorem setRing_progs (s : State) (n : Nat) (v : Ring) : (s.setRing n v).progs = s.progs := rfl
@[simp] theorem setRing_runQ (s : State) (n : Nat) (v : Ring) : (s.setRing n v).runQ = s.runQ := rfl
@[simp] theorem setRing_lastIssued (s : State) (n : Nat) (v : Ring) : (s.setRing n v).lastIssued = s.lastIssued := rfl
@[simp] theorem setRing_readySeen (s : State) (n : Nat) (v : Ring) : (s.setRing n v).readySeen = s.readySeen := rfl
@[simp] theorem setRing_tickets (s : State) (n : Nat) (v : Ring) : (s.setRing n v).tickets = s.tickets := rfl
@[simp] theorem setRing_laneSvc (s : State) (n : Nat) (v : Ring) : (s.setRing n v).laneSvc = s.laneSvc := rfl
@[simp] theorem setRing_jseq (s : State) (n : Nat) (v : Ring) : (s.setRing n v).jseq = s.jseq := rfl
@[simp] theorem setRing_journal (s : State) (n : Nat) (v : Ring) : (s.setRing n v).journal = s.journal := rfl
@[simp] theorem setRing_jcopied (s : State) (n : Nat) (v : Ring) : (s.setRing n v).jcopied = s.jcopied := rfl
@[simp] theorem setRing_kettle (s : State) (n : Nat) (v : Ring) : (s.setRing n v).kettle = s.kettle := rfl
@[simp] theorem setRing_fixed (s : State) (n : Nat) (v : Ring) : (s.setRing n v).fixed = s.fixed := rfl
@[simp] theorem setRing_pairings (s : State) (n : Nat) (v : Ring) : (s.setRing n v).pairings = s.pairings := rfl
@[simp] theorem setRing_provNext (s : State) (n : Nat) (v : Ring) : (s.setRing n v).provNext = s.provNext := rfl
@[simp] theorem setRing_ckptQ (s : State) (n : Nat) (v : Ring) : (s.setRing n v).ckptQ = s.ckptQ := rfl
@[simp] theorem setRing_banks (s : State) (n : Nat) (v : Ring) : (s.setRing n v).banks = s.banks := rfl
@[simp] theorem setRing_bank (s : State) (n : Nat) (v : Ring) : (s.setRing n v).bank = s.bank := rfl
@[simp] theorem setRing_tcLoad (s : State) (n : Nat) (v : Ring) : (s.setRing n v).tcLoad = s.tcLoad := rfl
@[simp] theorem setRing_tcReady (s : State) (n : Nat) (v : Ring) : (s.setRing n v).tcReady = s.tcReady := rfl
@[simp] theorem setRing_whiskQ (s : State) (n : Nat) (v : Ring) : (s.setRing n v).whiskQ = s.whiskQ := rfl
@[simp] theorem setRing_whisk (s : State) (n : Nat) (v : Ring) : (s.setRing n v).whisk = s.whisk := rfl
@[simp] theorem setRing_nextWhisk (s : State) (n : Nat) (v : Ring) : (s.setRing n v).nextWhisk = s.nextWhisk := rfl
@[simp] theorem setRing_testedAt (s : State) (n : Nat) (v : Ring) : (s.setRing n v).testedAt = s.testedAt := rfl
@[simp] theorem setRing_susp (s : State) (n : Nat) (v : Ring) : (s.setRing n v).susp = s.susp := rfl
@[simp] theorem setRing_halvedAt (s : State) (n : Nat) (v : Ring) : (s.setRing n v).halvedAt = s.halvedAt := rfl
@[simp] theorem setRing_tileMap (s : State) (n : Nat) (v : Ring) : (s.setRing n v).tileMap = s.tileMap := rfl
@[simp] theorem setRing_tmapSeq (s : State) (n : Nat) (v : Ring) : (s.setRing n v).tmapSeq = s.tmapSeq := rfl
@[simp] theorem setRing_tileStates (s : State) (n : Nat) (v : Ring) : (s.setRing n v).tileStates = s.tileStates := rfl
@[simp] theorem setRing_pendingOrder (s : State) (n : Nat) (v : Ring) : (s.setRing n v).pendingOrder = s.pendingOrder := rfl
@[simp] theorem setRing_stepEnded (s : State) (n : Nat) (v : Ring) : (s.setRing n v).stepEnded = s.stepEnded := rfl
@[simp] theorem setRing_pastBounds (s : State) (n : Nat) (v : Ring) : (s.setRing n v).pastBounds = s.pastBounds := rfl
@[simp] theorem setRing_quarLast (s : State) (n : Nat) (v : Ring) : (s.setRing n v).quarLast = s.quarLast := rfl
@[simp] theorem setRing_pairs (s : State) (n : Nat) (v : Ring) : (s.setRing n v).pairs = s.pairs := rfl
@[simp] theorem setRing_capWaits (s : State) (n : Nat) (v : Ring) : (s.setRing n v).capWaits = s.capWaits := rfl
@[simp] theorem setRing_capBeats (s : State) (n : Nat) (v : Ring) : (s.setRing n v).capBeats = s.capBeats := rfl
@[simp] theorem setRing_safe (s : State) (n : Nat) (v : Ring) : (s.setRing n v).safe = s.safe := rfl
@[simp] theorem setRing_safeReset (s : State) (n : Nat) (v : Ring) : (s.setRing n v).safeReset = s.safeReset := rfl
@[simp] theorem setRing_watched (s : State) (n : Nat) (v : Ring) : (s.setRing n v).watched = s.watched := rfl
@[simp] theorem setRing_watchDoms (s : State) (n : Nat) (v : Ring) : (s.setRing n v).watchDoms = s.watchDoms := rfl
@[simp] theorem setRing_windowAt (s : State) (n : Nat) (v : Ring) : (s.setRing n v).windowAt = s.windowAt := rfl
@[simp] theorem setRing_rsts (s : State) (n : Nat) (v : Ring) : (s.setRing n v).rsts = s.rsts := rfl
@[simp] theorem setRing_windows (s : State) (n : Nat) (v : Ring) : (s.setRing n v).windows = s.windows := rfl
@[simp] theorem setRing_epochs (s : State) (n : Nat) (v : Ring) : (s.setRing n v).epochs = s.epochs := rfl
@[simp] theorem setRing_rstOut (s : State) (n : Nat) (v : Ring) : (s.setRing n v).rstOut = s.rstOut := rfl
@[simp] theorem setRing_cfl (s : State) (n : Nat) (v : Ring) : (s.setRing n v).cfl = s.cfl := rfl
@[simp] theorem setRing_teardowns (s : State) (n : Nat) (v : Ring) : (s.setRing n v).teardowns = s.teardowns := rfl
@[simp] theorem setRing_dump (s : State) (n : Nat) (v : Ring) : (s.setRing n v).dump = s.dump := rfl
@[simp] theorem setRing_dumpSram (s : State) (n : Nat) (v : Ring) : (s.setRing n v).dumpSram = s.dumpSram := rfl
@[simp] theorem setRing_trv (s : State) (n : Nat) (v : Ring) : (s.setRing n v).trv = s.trv := rfl

/-! ### setBytes changes `mem` alone -/

@[simp] theorem setBytes_pending (s : State) (a : Nat) (b : Bytes) : (s.setBytes a b).pending = s.pending := rfl
@[simp] theorem setBytes_cfg (s : State) (a : Nat) (b : Bytes) : (s.setBytes a b).cfg = s.cfg := rfl
@[simp] theorem setBytes_time (s : State) (a : Nat) (b : Bytes) : (s.setBytes a b).time = s.time := rfl
@[simp] theorem setBytes_free (s : State) (a : Nat) (b : Bytes) : (s.setBytes a b).free = s.free := rfl
@[simp] theorem setBytes_out (s : State) (a : Nat) (b : Bytes) : (s.setBytes a b).out = s.out := rfl
@[simp] theorem setBytes_regs (s : State) (a : Nat) (b : Bytes) : (s.setBytes a b).regs = s.regs := rfl
@[simp] theorem setBytes_sel (s : State) (a : Nat) (b : Bytes) : (s.setBytes a b).sel = s.sel := rfl
@[simp] theorem setBytes_rwl (s : State) (a : Nat) (b : Bytes) : (s.setBytes a b).rwl = s.rwl := rfl
@[simp] theorem setBytes_sb (s : State) (a : Nat) (b : Bytes) : (s.setBytes a b).sb = s.sb := rfl
@[simp] theorem setBytes_port0 (s : State) (a : Nat) (b : Bytes) : (s.setBytes a b).port0 = s.port0 := rfl
@[simp] theorem setBytes_port1 (s : State) (a : Nat) (b : Bytes) : (s.setBytes a b).port1 = s.port1 := rfl
@[simp] theorem setBytes_stops (s : State) (a : Nat) (b : Bytes) : (s.setBytes a b).stops = s.stops := rfl
@[simp] theorem setBytes_stnStops (s : State) (a : Nat) (b : Bytes) : (s.setBytes a b).stnStops = s.stnStops := rfl
@[simp] theorem setBytes_fuse (s : State) (a : Nat) (b : Bytes) : (s.setBytes a b).fuse = s.fuse := rfl
@[simp] theorem setBytes_atb (s : State) (a : Nat) (b : Bytes) : (s.setBytes a b).atb = s.atb := rfl
@[simp] theorem setBytes_peer (s : State) (a : Nat) (b : Bytes) : (s.setBytes a b).peer = s.peer := rfl
@[simp] theorem setBytes_tapIr (s : State) (a : Nat) (b : Bytes) : (s.setBytes a b).tapIr = s.tapIr := rfl
@[simp] theorem setBytes_dm (s : State) (a : Nat) (b : Bytes) : (s.setBytes a b).dm = s.dm := rfl
@[simp] theorem setBytes_bring (s : State) (a : Nat) (b : Bytes) : (s.setBytes a b).bring = s.bring := rfl
@[simp] theorem setBytes_ladles (s : State) (a : Nat) (b : Bytes) : (s.setBytes a b).ladles = s.ladles := rfl
@[simp] theorem setBytes_lidQ (s : State) (a : Nat) (b : Bytes) : (s.setBytes a b).lidQ = s.lidQ := rfl
@[simp] theorem setBytes_answers (s : State) (a : Nat) (b : Bytes) : (s.setBytes a b).answers = s.answers := rfl
@[simp] theorem setBytes_reports (s : State) (a : Nat) (b : Bytes) : (s.setBytes a b).reports = s.reports := rfl
@[simp] theorem setBytes_rcps (s : State) (a : Nat) (b : Bytes) : (s.setBytes a b).rcps = s.rcps := rfl
@[simp] theorem setBytes_rcpLoads (s : State) (a : Nat) (b : Bytes) : (s.setBytes a b).rcpLoads = s.rcpLoads := rfl
@[simp] theorem setBytes_confirms (s : State) (a : Nat) (b : Bytes) : (s.setBytes a b).confirms = s.confirms := rfl
@[simp] theorem setBytes_sealQ (s : State) (a : Nat) (b : Bytes) : (s.setBytes a b).sealQ = s.sealQ := rfl
@[simp] theorem setBytes_routes (s : State) (a : Nat) (b : Bytes) : (s.setBytes a b).routes = s.routes := rfl
@[simp] theorem setBytes_routeQ (s : State) (a : Nat) (b : Bytes) : (s.setBytes a b).routeQ = s.routeQ := rfl
@[simp] theorem setBytes_lanes (s : State) (a : Nat) (b : Bytes) : (s.setBytes a b).lanes = s.lanes := rfl
@[simp] theorem setBytes_queue (s : State) (a : Nat) (b : Bytes) : (s.setBytes a b).queue = s.queue := rfl
@[simp] theorem setBytes_spill (s : State) (a : Nat) (b : Bytes) : (s.setBytes a b).spill = s.spill := rfl
@[simp] theorem setBytes_arbs (s : State) (a : Nat) (b : Bytes) : (s.setBytes a b).arbs = s.arbs := rfl
@[simp] theorem setBytes_nextJob (s : State) (a : Nat) (b : Bytes) : (s.setBytes a b).nextJob = s.nextJob := rfl
@[simp] theorem setBytes_turn (s : State) (a : Nat) (b : Bytes) : (s.setBytes a b).turn = s.turn := rfl
@[simp] theorem setBytes_seed (s : State) (a : Nat) (b : Bytes) : (s.setBytes a b).seed = s.seed := rfl
@[simp] theorem setBytes_models (s : State) (a : Nat) (b : Bytes) : (s.setBytes a b).models = s.models := rfl
@[simp] theorem setBytes_escTotal (s : State) (a : Nat) (b : Bytes) : (s.setBytes a b).escTotal = s.escTotal := rfl
@[simp] theorem setBytes_sieveT (s : State) (a : Nat) (b : Bytes) : (s.setBytes a b).sieveT = s.sieveT := rfl
@[simp] theorem setBytes_boundAt (s : State) (a : Nat) (b : Bytes) : (s.setBytes a b).boundAt = s.boundAt := rfl
@[simp] theorem setBytes_ctxs (s : State) (a : Nat) (b : Bytes) : (s.setBytes a b).ctxs = s.ctxs := rfl
@[simp] theorem setBytes_sck (s : State) (a : Nat) (b : Bytes) : (s.setBytes a b).sck = s.sck := rfl
@[simp] theorem setBytes_lidSeq (s : State) (a : Nat) (b : Bytes) : (s.setBytes a b).lidSeq = s.lidSeq := rfl
@[simp] theorem setBytes_threads (s : State) (a : Nat) (b : Bytes) : (s.setBytes a b).threads = s.threads := rfl
@[simp] theorem setBytes_progs (s : State) (a : Nat) (b : Bytes) : (s.setBytes a b).progs = s.progs := rfl
@[simp] theorem setBytes_runQ (s : State) (a : Nat) (b : Bytes) : (s.setBytes a b).runQ = s.runQ := rfl
@[simp] theorem setBytes_lastIssued (s : State) (a : Nat) (b : Bytes) : (s.setBytes a b).lastIssued = s.lastIssued := rfl
@[simp] theorem setBytes_readySeen (s : State) (a : Nat) (b : Bytes) : (s.setBytes a b).readySeen = s.readySeen := rfl
@[simp] theorem setBytes_tickets (s : State) (a : Nat) (b : Bytes) : (s.setBytes a b).tickets = s.tickets := rfl
@[simp] theorem setBytes_rings (s : State) (a : Nat) (b : Bytes) : (s.setBytes a b).rings = s.rings := rfl
@[simp] theorem setBytes_laneSvc (s : State) (a : Nat) (b : Bytes) : (s.setBytes a b).laneSvc = s.laneSvc := rfl
@[simp] theorem setBytes_jseq (s : State) (a : Nat) (b : Bytes) : (s.setBytes a b).jseq = s.jseq := rfl
@[simp] theorem setBytes_journal (s : State) (a : Nat) (b : Bytes) : (s.setBytes a b).journal = s.journal := rfl
@[simp] theorem setBytes_jcopied (s : State) (a : Nat) (b : Bytes) : (s.setBytes a b).jcopied = s.jcopied := rfl
@[simp] theorem setBytes_kettle (s : State) (a : Nat) (b : Bytes) : (s.setBytes a b).kettle = s.kettle := rfl
@[simp] theorem setBytes_fixed (s : State) (a : Nat) (b : Bytes) : (s.setBytes a b).fixed = s.fixed := rfl
@[simp] theorem setBytes_pairings (s : State) (a : Nat) (b : Bytes) : (s.setBytes a b).pairings = s.pairings := rfl
@[simp] theorem setBytes_provNext (s : State) (a : Nat) (b : Bytes) : (s.setBytes a b).provNext = s.provNext := rfl
@[simp] theorem setBytes_ckptQ (s : State) (a : Nat) (b : Bytes) : (s.setBytes a b).ckptQ = s.ckptQ := rfl
@[simp] theorem setBytes_banks (s : State) (a : Nat) (b : Bytes) : (s.setBytes a b).banks = s.banks := rfl
@[simp] theorem setBytes_bank (s : State) (a : Nat) (b : Bytes) : (s.setBytes a b).bank = s.bank := rfl
@[simp] theorem setBytes_tcLoad (s : State) (a : Nat) (b : Bytes) : (s.setBytes a b).tcLoad = s.tcLoad := rfl
@[simp] theorem setBytes_tcReady (s : State) (a : Nat) (b : Bytes) : (s.setBytes a b).tcReady = s.tcReady := rfl
@[simp] theorem setBytes_whiskQ (s : State) (a : Nat) (b : Bytes) : (s.setBytes a b).whiskQ = s.whiskQ := rfl
@[simp] theorem setBytes_whisk (s : State) (a : Nat) (b : Bytes) : (s.setBytes a b).whisk = s.whisk := rfl
@[simp] theorem setBytes_nextWhisk (s : State) (a : Nat) (b : Bytes) : (s.setBytes a b).nextWhisk = s.nextWhisk := rfl
@[simp] theorem setBytes_testedAt (s : State) (a : Nat) (b : Bytes) : (s.setBytes a b).testedAt = s.testedAt := rfl
@[simp] theorem setBytes_susp (s : State) (a : Nat) (b : Bytes) : (s.setBytes a b).susp = s.susp := rfl
@[simp] theorem setBytes_halvedAt (s : State) (a : Nat) (b : Bytes) : (s.setBytes a b).halvedAt = s.halvedAt := rfl
@[simp] theorem setBytes_tileMap (s : State) (a : Nat) (b : Bytes) : (s.setBytes a b).tileMap = s.tileMap := rfl
@[simp] theorem setBytes_tmapSeq (s : State) (a : Nat) (b : Bytes) : (s.setBytes a b).tmapSeq = s.tmapSeq := rfl
@[simp] theorem setBytes_tileStates (s : State) (a : Nat) (b : Bytes) : (s.setBytes a b).tileStates = s.tileStates := rfl
@[simp] theorem setBytes_pendingOrder (s : State) (a : Nat) (b : Bytes) : (s.setBytes a b).pendingOrder = s.pendingOrder := rfl
@[simp] theorem setBytes_stepEnded (s : State) (a : Nat) (b : Bytes) : (s.setBytes a b).stepEnded = s.stepEnded := rfl
@[simp] theorem setBytes_pastBounds (s : State) (a : Nat) (b : Bytes) : (s.setBytes a b).pastBounds = s.pastBounds := rfl
@[simp] theorem setBytes_quarLast (s : State) (a : Nat) (b : Bytes) : (s.setBytes a b).quarLast = s.quarLast := rfl
@[simp] theorem setBytes_pairs (s : State) (a : Nat) (b : Bytes) : (s.setBytes a b).pairs = s.pairs := rfl
@[simp] theorem setBytes_capWaits (s : State) (a : Nat) (b : Bytes) : (s.setBytes a b).capWaits = s.capWaits := rfl
@[simp] theorem setBytes_capBeats (s : State) (a : Nat) (b : Bytes) : (s.setBytes a b).capBeats = s.capBeats := rfl
@[simp] theorem setBytes_safe (s : State) (a : Nat) (b : Bytes) : (s.setBytes a b).safe = s.safe := rfl
@[simp] theorem setBytes_safeReset (s : State) (a : Nat) (b : Bytes) : (s.setBytes a b).safeReset = s.safeReset := rfl
@[simp] theorem setBytes_watched (s : State) (a : Nat) (b : Bytes) : (s.setBytes a b).watched = s.watched := rfl
@[simp] theorem setBytes_watchDoms (s : State) (a : Nat) (b : Bytes) : (s.setBytes a b).watchDoms = s.watchDoms := rfl
@[simp] theorem setBytes_windowAt (s : State) (a : Nat) (b : Bytes) : (s.setBytes a b).windowAt = s.windowAt := rfl
@[simp] theorem setBytes_rsts (s : State) (a : Nat) (b : Bytes) : (s.setBytes a b).rsts = s.rsts := rfl
@[simp] theorem setBytes_windows (s : State) (a : Nat) (b : Bytes) : (s.setBytes a b).windows = s.windows := rfl
@[simp] theorem setBytes_epochs (s : State) (a : Nat) (b : Bytes) : (s.setBytes a b).epochs = s.epochs := rfl
@[simp] theorem setBytes_rstOut (s : State) (a : Nat) (b : Bytes) : (s.setBytes a b).rstOut = s.rstOut := rfl
@[simp] theorem setBytes_cfl (s : State) (a : Nat) (b : Bytes) : (s.setBytes a b).cfl = s.cfl := rfl
@[simp] theorem setBytes_teardowns (s : State) (a : Nat) (b : Bytes) : (s.setBytes a b).teardowns = s.teardowns := rfl
@[simp] theorem setBytes_dump (s : State) (a : Nat) (b : Bytes) : (s.setBytes a b).dump = s.dump := rfl
@[simp] theorem setBytes_dumpSram (s : State) (a : Nat) (b : Bytes) : (s.setBytes a b).dumpSram = s.dumpSram := rfl
@[simp] theorem setBytes_trv (s : State) (a : Nat) (b : Bytes) : (s.setBytes a b).trv = s.trv := rfl

/-! ### setSb changes `sb` alone -/

@[simp] theorem setSb_pending (s : State) (k v : Nat) : (s.setSb k v).pending = s.pending := rfl
@[simp] theorem setSb_cfg (s : State) (k v : Nat) : (s.setSb k v).cfg = s.cfg := rfl
@[simp] theorem setSb_time (s : State) (k v : Nat) : (s.setSb k v).time = s.time := rfl
@[simp] theorem setSb_free (s : State) (k v : Nat) : (s.setSb k v).free = s.free := rfl
@[simp] theorem setSb_out (s : State) (k v : Nat) : (s.setSb k v).out = s.out := rfl
@[simp] theorem setSb_regs (s : State) (k v : Nat) : (s.setSb k v).regs = s.regs := rfl
@[simp] theorem setSb_sel (s : State) (k v : Nat) : (s.setSb k v).sel = s.sel := rfl
@[simp] theorem setSb_rwl (s : State) (k v : Nat) : (s.setSb k v).rwl = s.rwl := rfl
@[simp] theorem setSb_mem (s : State) (k v : Nat) : (s.setSb k v).mem = s.mem := rfl
@[simp] theorem setSb_port0 (s : State) (k v : Nat) : (s.setSb k v).port0 = s.port0 := rfl
@[simp] theorem setSb_port1 (s : State) (k v : Nat) : (s.setSb k v).port1 = s.port1 := rfl
@[simp] theorem setSb_stops (s : State) (k v : Nat) : (s.setSb k v).stops = s.stops := rfl
@[simp] theorem setSb_stnStops (s : State) (k v : Nat) : (s.setSb k v).stnStops = s.stnStops := rfl
@[simp] theorem setSb_fuse (s : State) (k v : Nat) : (s.setSb k v).fuse = s.fuse := rfl
@[simp] theorem setSb_atb (s : State) (k v : Nat) : (s.setSb k v).atb = s.atb := rfl
@[simp] theorem setSb_peer (s : State) (k v : Nat) : (s.setSb k v).peer = s.peer := rfl
@[simp] theorem setSb_tapIr (s : State) (k v : Nat) : (s.setSb k v).tapIr = s.tapIr := rfl
@[simp] theorem setSb_dm (s : State) (k v : Nat) : (s.setSb k v).dm = s.dm := rfl
@[simp] theorem setSb_bring (s : State) (k v : Nat) : (s.setSb k v).bring = s.bring := rfl
@[simp] theorem setSb_ladles (s : State) (k v : Nat) : (s.setSb k v).ladles = s.ladles := rfl
@[simp] theorem setSb_lidQ (s : State) (k v : Nat) : (s.setSb k v).lidQ = s.lidQ := rfl
@[simp] theorem setSb_answers (s : State) (k v : Nat) : (s.setSb k v).answers = s.answers := rfl
@[simp] theorem setSb_reports (s : State) (k v : Nat) : (s.setSb k v).reports = s.reports := rfl
@[simp] theorem setSb_rcps (s : State) (k v : Nat) : (s.setSb k v).rcps = s.rcps := rfl
@[simp] theorem setSb_rcpLoads (s : State) (k v : Nat) : (s.setSb k v).rcpLoads = s.rcpLoads := rfl
@[simp] theorem setSb_confirms (s : State) (k v : Nat) : (s.setSb k v).confirms = s.confirms := rfl
@[simp] theorem setSb_sealQ (s : State) (k v : Nat) : (s.setSb k v).sealQ = s.sealQ := rfl
@[simp] theorem setSb_routes (s : State) (k v : Nat) : (s.setSb k v).routes = s.routes := rfl
@[simp] theorem setSb_routeQ (s : State) (k v : Nat) : (s.setSb k v).routeQ = s.routeQ := rfl
@[simp] theorem setSb_lanes (s : State) (k v : Nat) : (s.setSb k v).lanes = s.lanes := rfl
@[simp] theorem setSb_queue (s : State) (k v : Nat) : (s.setSb k v).queue = s.queue := rfl
@[simp] theorem setSb_spill (s : State) (k v : Nat) : (s.setSb k v).spill = s.spill := rfl
@[simp] theorem setSb_arbs (s : State) (k v : Nat) : (s.setSb k v).arbs = s.arbs := rfl
@[simp] theorem setSb_nextJob (s : State) (k v : Nat) : (s.setSb k v).nextJob = s.nextJob := rfl
@[simp] theorem setSb_turn (s : State) (k v : Nat) : (s.setSb k v).turn = s.turn := rfl
@[simp] theorem setSb_seed (s : State) (k v : Nat) : (s.setSb k v).seed = s.seed := rfl
@[simp] theorem setSb_models (s : State) (k v : Nat) : (s.setSb k v).models = s.models := rfl
@[simp] theorem setSb_escTotal (s : State) (k v : Nat) : (s.setSb k v).escTotal = s.escTotal := rfl
@[simp] theorem setSb_sieveT (s : State) (k v : Nat) : (s.setSb k v).sieveT = s.sieveT := rfl
@[simp] theorem setSb_boundAt (s : State) (k v : Nat) : (s.setSb k v).boundAt = s.boundAt := rfl
@[simp] theorem setSb_ctxs (s : State) (k v : Nat) : (s.setSb k v).ctxs = s.ctxs := rfl
@[simp] theorem setSb_sck (s : State) (k v : Nat) : (s.setSb k v).sck = s.sck := rfl
@[simp] theorem setSb_lidSeq (s : State) (k v : Nat) : (s.setSb k v).lidSeq = s.lidSeq := rfl
@[simp] theorem setSb_threads (s : State) (k v : Nat) : (s.setSb k v).threads = s.threads := rfl
@[simp] theorem setSb_progs (s : State) (k v : Nat) : (s.setSb k v).progs = s.progs := rfl
@[simp] theorem setSb_runQ (s : State) (k v : Nat) : (s.setSb k v).runQ = s.runQ := rfl
@[simp] theorem setSb_lastIssued (s : State) (k v : Nat) : (s.setSb k v).lastIssued = s.lastIssued := rfl
@[simp] theorem setSb_readySeen (s : State) (k v : Nat) : (s.setSb k v).readySeen = s.readySeen := rfl
@[simp] theorem setSb_tickets (s : State) (k v : Nat) : (s.setSb k v).tickets = s.tickets := rfl
@[simp] theorem setSb_rings (s : State) (k v : Nat) : (s.setSb k v).rings = s.rings := rfl
@[simp] theorem setSb_laneSvc (s : State) (k v : Nat) : (s.setSb k v).laneSvc = s.laneSvc := rfl
@[simp] theorem setSb_jseq (s : State) (k v : Nat) : (s.setSb k v).jseq = s.jseq := rfl
@[simp] theorem setSb_journal (s : State) (k v : Nat) : (s.setSb k v).journal = s.journal := rfl
@[simp] theorem setSb_jcopied (s : State) (k v : Nat) : (s.setSb k v).jcopied = s.jcopied := rfl
@[simp] theorem setSb_kettle (s : State) (k v : Nat) : (s.setSb k v).kettle = s.kettle := rfl
@[simp] theorem setSb_fixed (s : State) (k v : Nat) : (s.setSb k v).fixed = s.fixed := rfl
@[simp] theorem setSb_pairings (s : State) (k v : Nat) : (s.setSb k v).pairings = s.pairings := rfl
@[simp] theorem setSb_provNext (s : State) (k v : Nat) : (s.setSb k v).provNext = s.provNext := rfl
@[simp] theorem setSb_ckptQ (s : State) (k v : Nat) : (s.setSb k v).ckptQ = s.ckptQ := rfl
@[simp] theorem setSb_banks (s : State) (k v : Nat) : (s.setSb k v).banks = s.banks := rfl
@[simp] theorem setSb_bank (s : State) (k v : Nat) : (s.setSb k v).bank = s.bank := rfl
@[simp] theorem setSb_tcLoad (s : State) (k v : Nat) : (s.setSb k v).tcLoad = s.tcLoad := rfl
@[simp] theorem setSb_tcReady (s : State) (k v : Nat) : (s.setSb k v).tcReady = s.tcReady := rfl
@[simp] theorem setSb_whiskQ (s : State) (k v : Nat) : (s.setSb k v).whiskQ = s.whiskQ := rfl
@[simp] theorem setSb_whisk (s : State) (k v : Nat) : (s.setSb k v).whisk = s.whisk := rfl
@[simp] theorem setSb_nextWhisk (s : State) (k v : Nat) : (s.setSb k v).nextWhisk = s.nextWhisk := rfl
@[simp] theorem setSb_testedAt (s : State) (k v : Nat) : (s.setSb k v).testedAt = s.testedAt := rfl
@[simp] theorem setSb_susp (s : State) (k v : Nat) : (s.setSb k v).susp = s.susp := rfl
@[simp] theorem setSb_halvedAt (s : State) (k v : Nat) : (s.setSb k v).halvedAt = s.halvedAt := rfl
@[simp] theorem setSb_tileMap (s : State) (k v : Nat) : (s.setSb k v).tileMap = s.tileMap := rfl
@[simp] theorem setSb_tmapSeq (s : State) (k v : Nat) : (s.setSb k v).tmapSeq = s.tmapSeq := rfl
@[simp] theorem setSb_tileStates (s : State) (k v : Nat) : (s.setSb k v).tileStates = s.tileStates := rfl
@[simp] theorem setSb_pendingOrder (s : State) (k v : Nat) : (s.setSb k v).pendingOrder = s.pendingOrder := rfl
@[simp] theorem setSb_stepEnded (s : State) (k v : Nat) : (s.setSb k v).stepEnded = s.stepEnded := rfl
@[simp] theorem setSb_pastBounds (s : State) (k v : Nat) : (s.setSb k v).pastBounds = s.pastBounds := rfl
@[simp] theorem setSb_quarLast (s : State) (k v : Nat) : (s.setSb k v).quarLast = s.quarLast := rfl
@[simp] theorem setSb_pairs (s : State) (k v : Nat) : (s.setSb k v).pairs = s.pairs := rfl
@[simp] theorem setSb_capWaits (s : State) (k v : Nat) : (s.setSb k v).capWaits = s.capWaits := rfl
@[simp] theorem setSb_capBeats (s : State) (k v : Nat) : (s.setSb k v).capBeats = s.capBeats := rfl
@[simp] theorem setSb_safe (s : State) (k v : Nat) : (s.setSb k v).safe = s.safe := rfl
@[simp] theorem setSb_safeReset (s : State) (k v : Nat) : (s.setSb k v).safeReset = s.safeReset := rfl
@[simp] theorem setSb_watched (s : State) (k v : Nat) : (s.setSb k v).watched = s.watched := rfl
@[simp] theorem setSb_watchDoms (s : State) (k v : Nat) : (s.setSb k v).watchDoms = s.watchDoms := rfl
@[simp] theorem setSb_windowAt (s : State) (k v : Nat) : (s.setSb k v).windowAt = s.windowAt := rfl
@[simp] theorem setSb_rsts (s : State) (k v : Nat) : (s.setSb k v).rsts = s.rsts := rfl
@[simp] theorem setSb_windows (s : State) (k v : Nat) : (s.setSb k v).windows = s.windows := rfl
@[simp] theorem setSb_epochs (s : State) (k v : Nat) : (s.setSb k v).epochs = s.epochs := rfl
@[simp] theorem setSb_rstOut (s : State) (k v : Nat) : (s.setSb k v).rstOut = s.rstOut := rfl
@[simp] theorem setSb_cfl (s : State) (k v : Nat) : (s.setSb k v).cfl = s.cfl := rfl
@[simp] theorem setSb_teardowns (s : State) (k v : Nat) : (s.setSb k v).teardowns = s.teardowns := rfl
@[simp] theorem setSb_dump (s : State) (k v : Nat) : (s.setSb k v).dump = s.dump := rfl
@[simp] theorem setSb_dumpSram (s : State) (k v : Nat) : (s.setSb k v).dumpSram = s.dumpSram := rfl
@[simp] theorem setSb_trv (s : State) (k v : Nat) : (s.setSb k v).trv = s.trv := rfl

end Sys2Proof.Machine
end

