-- ==== Sys2Proof/Laws/Tickets.lean ====
section
/-! SUPPORT. Some ticket number is always free (R259). -/

namespace Sys2Proof.Machine
/-- A number that is looked up is among the keys. -/
theorem mem_keys_of_lookup {α : Type} (t : List (Nat × α)) (k : Nat) (h : (lookup t k).isSome = true) : k ∈ t.map Prod.fst := by
  induction t with
  | nil => simp [lookup] at h
  | cons x t ih =>
    obtain ⟨j, v⟩ := x
    simp only [lookup] at h
    split at h
    · next e => simp [e]
    · exact List.mem_cons_of_mem _ (ih h)
/-- Some ticket number is always free. -/
theorem freeTicket_pos (ts : List (Nat × Ticket)) : freeTicket ts ≠ 0 ∧ lookup ts (freeTicket ts) = none := by
  have : ((List.range (ts.length + 2)).find? (fun k => decide (0 < k) && (lookup ts k).isNone)).isSome = true := by
    rw [List.find?_isSome]
    by_contra hn
    push Not at hn
    have sub : List.range' 1 (ts.length + 1) ⊆ ts.map Prod.fst := by
      intro k hk
      rw [List.mem_range'_1] at hk
      have := hn k (List.mem_range.2 (by omega))
      refine mem_keys_of_lookup ts k ?_
      cases hl : lookup ts k with
      | some _ => rfl
      | none => exact absurd (by simp [hl]; omega) this
    have := (List.subperm_of_subset List.nodup_range' sub).length_le
    simp at this
  unfold freeTicket
  cases hf : (List.range (ts.length + 2)).find? (fun k => decide (0 < k) && (lookup ts k).isNone) with
  | none => simp [hf] at this
  | some k =>
    have := List.find?_some hf
    simp only [Bool.and_eq_true, decide_eq_true_eq, Option.isNone_iff_eq_none] at this
    exact ⟨by simp; omega, by simpa using this.2⟩
end Sys2Proof.Machine
end

