-- ==== Sys2Proof/WellFormed.lean ====
section
/-! DEFINITION. Well-formedness of a command: every operand lies in the field that the port or the register map gives it
(R102, R159, R252, R276, R329, R379, R400 to R402, R450 to R480, R498, R500). The meanings are total: a command that is not
well formed is one that no port of the block can carry. -/

namespace Sys2Proof
open Sys2Proof.Machine

/-- A value of an `n`-bit field. -/
def fits (n v : Nat) : Bool := decide (v < 2 ^ n)

/-- A number below `n`. -/
def below (n v : Nat) : Bool := decide (v < n)

/-- A byte string of `n` bytes. -/
def sized (n : Nat) (b : Bytes) : Bool := decide (b.length = n)

/-- A source of R500. -/
def srcOk : Src → Bool
  | .core k => below 4 k
  | .thread t => below 32 t
  | _ => true

/-- An instruction word's fields (R252), a Kettle core's operands (R256), or a ring entry's place (R277). -/
def issueOk (i : Issue) : Bool :=
  below 16 i.mod && fits 32 i.imm && (match i.by_ with
    | .thread t rd ra rb rc => below 32 t && below 16 rd && below 16 ra && below 16 rb && below 16 rc
    | .kettle k c x y z => below 4 k && fits 16 c && fits 64 x && fits 64 y && fits 64 z
    | .ring n index => below 16 n && fits 16 index)

/-- The envelope of R329. -/
def msgOk (m : PeerMsg) : Bool := fits 16 m.dst && fits 16 m.src && below 4 m.cls && fits 32 m.crc && sized 64 m.body

/-- The fields of a submission entry (R276). -/
def entryOk (e : RingEntry) : Bool :=
  below 256 e.kind && below 256 e.flags && fits 16 e.ctx && fits 32 e.cookie && fits 64 e.a0 && fits 64 e.a1 && fits 64 e.a2 && fits 32 e.imm
    && below 16 e.mod && fits 64 e.a4

/-- A sparse operand's counts (R143). -/
def sparseOk (p : Sparse) : Bool := fits 48 p.stored && fits 48 p.entries

/-- An output lane: its value, and its delta residue modulo 2^31 - 1 (R99, R112). -/
def outOk (e : OutEl) : Bool := fits 64 e.code && fits 31 e.delta

/-- The lanes of an output beat: at most 64 (R99), from a coordinate of 16 bits each way (log entry 129). -/
def lanesOk (row col : Nat) (lanes : List (Option OutEl)) : Bool :=
  fits 16 row && fits 16 col && decide (lanes.length ≤ 64) && lanes.all (fun l => l.all outOk)

/-- The fields of an SFDP table (R293). -/
def sfdpOk (f : Sfdp) : Bool :=
  fits 32 f.signature && fits 64 f.density && f.reads.all (fun r => below 32 r.2) && f.erases.all (fun e => fits 32 e.1 && below 256 e.2)

/-- Whether a port of the block can carry a command. -/
def Instr.wellFormed : Instr → Bool
  | .powerOnReset => true
  | .blockReset => true
  | .resetCheckDone badUnit _ => badUnit.all (fun p => below 256 p.1 && fits 16 p.2)
  | .fuseWordAck data => fits 64 data
  | .fuseReadTimeout => true
  | .bringRomStageDone _ _ sfdp listA listB => sfdp.all sfdpOk && sized 532 listA && sized 532 listB
  | .firmwareImageVerified dirA dirB _ => sized 64 dirA && sized 64 dirB
  | .flashReadTimeout => true
  | .bringBlockStageDone laneOk _ corrected => below 16 laneOk && fits 32 corrected
  | .go src => srcOk src
  | .bringLinkMeasureEnd second => second.all (fun p => p.1.all (fits 32) && p.2.all (fits 32))
  | .bringTileRelease => true
  | .bringTileReadyTimeout tile => below 128 tile
  | .bringTestDone => true
  | .bringMapDone _ => true
  | .defectListRewrite _ => true
  | .hubDefectCtrlAdd src => srcOk src
  | .hubDefectCtrlClear src => srcOk src
  | .hubPartMapWrite src _ val => srcOk src && fits 32 val
  | .airasFrame tile _ payload seq crc => below 128 tile && fits 64 payload && below 16 seq && below 256 crc
  | .descriptorBeat tile tag data spA spB => below 128 tile && below 16 tag && fits 512 data && spA.all sparseOk && spB.all sparseOk
  | .sealIngressBlock tile tag region blk data bcv cut =>
    below 128 tile && below 16 tag && below 4 region && fits 22 blk && sized 4096 data && fits 64 bcv && cut.all (below 16)
  | .egressBlockCompare tile tag blk data cut => below 128 tile && below 16 tag && fits 22 blk && sized 4096 data && cut.all (below 16)
  | .operandBeat tile tag kind row col run =>
    below 128 tile && below 16 tag && below 8 kind && fits 16 row && fits 16 col && decide (run.length ≤ 128) && run.all (fits 64)
  | .outputBeat tile tag _ row col lanes => below 128 tile && below 16 tag && lanesOk row col lanes
  | .outputLastBeat tile tag row col lanes flags => below 128 tile && below 16 tag && lanesOk row col lanes && fits 6 flags
  | .converterMaxBeat tile tag m => below 128 tile && below 16 tag && fits 32 m
  | .converterMaxDeadline tile tag => below 128 tile && below 16 tag
  | .routeBeat tile tag triples _ => below 128 tile && below 16 tag && decide (triples.length ≤ 4) && triples.all (fun p => fits 32 p.1 && fits 16 p.2.1 && fits 16 p.2.2)
  | .lidAcceptance tile tag => below 128 tile && below 16 tag
  | .ladleVerdict tile tag _ => below 128 tile && below 16 tag
  | .bcvHandshake tile blk => below 128 tile && fits 38 blk
  | .tileResetEntry tile => below 128 tile
  | .ladleSelfCheckStart tile => below 128 tile
  | .ladleSelfCheckDone tile _ => below 128 tile
  | .ladleReport => true
  | .opAccept => true
  | .sealConfirmation blk data bcv _ => fits 38 blk && sized 4096 data && fits 64 bcv
  | .patrolRead => true
  | .routeReport => true
  | .mortarJobStart lane => below 4 lane
  | .mortarJobEnd lane _ => below 4 lane
  | .sampleAgeDrop ctx step opseq => fits 16 ctx && fits 32 step && fits 24 opseq
  | .spillReturn => true
  | .arbitrationDecision ctx step opseq => fits 16 ctx && fits 32 step && fits 24 opseq
  | .arbSelfCheckTimeout ctx step opseq => fits 16 ctx && fits 32 step && fits 24 opseq
  | .katVectorRun slot _ => below 256 slot
  | .laneSelfTestDone lane _ => below 4 lane
  | .sieveBoundRecompute => true
  | .haltAck m => msgOk m
  | .replay ctx slot => fits 16 ctx && below 4 slot
  | .bucketRelease ctx slot bucket => fits 16 ctx && below 4 slot && fits 12 bucket
  | .commitGrant ctx slot => fits 16 ctx && below 4 slot
  | .stepSlotFree ctx slot => fits 16 ctx && below 4 slot
  | .provenanceDigestDone ctx slot => fits 16 ctx && below 4 slot
  | .trvHeldApply => true
  | .programDispatch t => below 32 t
  | .swapComplete t => below 32 t
  | .waitConditionMet prog => below 4096 prog
  | .nop i => issueOk i
  | .end_ i => issueOk i
  | .ldi i => issueOk i
  | .alu i => issueOk i
  | .br i => issueOk i
  | .ld i => issueOk i
  | .wait i => issueOk i
  | .st i => issueOk i
  | .yield_ i => issueOk i
  | .ctxbind i => issueOk i
  | .ctxkill i => issueOk i
  | .ctxdown i => issueOk i
  | .teardownDrainEnd slot => below 16 slot
  | .teardownScrubDone slot => below 16 slot
  | .rcpload i => issueOk i
  | .recipeLoadDone slot => below 256 slot
  | .rcpdrop i => issueOk i
  | .stepopen i => issueOk i
  | .stepend i => issueOk i
  | .bktend i => issueOk i
  | .stepabort i => issueOk i
  | .sckset i => issueOk i
  | .sckread i => issueOk i
  | .sckfree i => issueOk i
  | .lidstat i => issueOk i
  | .sealrgn i => issueOk i
  | .sealcpy i => issueOk i
  | .sealchk i => issueOk i
  | .sealEngineDone => true
  | .ldlcnt i => issueOk i
  | .taptest i => issueOk i
  | .sievecfg i => issueOk i
  | .mtrsamp i => issueOk i
  | .arbstat i => issueOk i
  | .rdreg i => issueOk i
  | .wrreg i => issueOk i
  | .modeset i => issueOk i
  | .provcfg i => issueOk i
  | .paircfg i => issueOk i
  | .ckptman i => issueOk i
  | .ckptmanDone => true
  | .ckptchk i => issueOk i
  | .ckptchkDone => true
  | .buddycfg i => issueOk i
  | .peersend i => issueOk i
  | .whiskrun i => issueOk i
  | .tcload i => issueOk i
  | .tcloadDone => true
  | .tcBankSwitch => true
  | .suspread i => issueOk i
  | .quarant i => issueOk i
  | .tilemap i => issueOk i
  | .reset i => issueOk i
  | .dump i => issueOk i
  | .dumpReadResult answer => answer.all (fits 32)
  | .dumpCopyDone => true
  | .trvset i => issueOk i
  | .budget i => issueOk i
  | .fwact i => issueOk i
  | .deferredActivationStart => true
  | .activationCoreReady core => below 4 core
  | .ktlDbWrite src n val => srcOk src && below 16 n && fits 32 val
  | .ktlCdbWrite src n val => srcOk src && below 16 n && fits 32 val
  | .ktlRingEnable src val => srcOk src && fits 32 val
  | .ringEntryTake n => below 16 n
  | .ownerReturn n index e => below 16 n && fits 16 index && entryOk e
  | .submitProgram i => issueOk i
  | .readSealStatus i => issueOk i
  | .readCoverage i => issueOk i
  | .laneService i => issueOk i
  | .readSequencerStatus i => issueOk i
  | .stageFirmware i => issueOk i
  | .stagingDone _ => true
  | .ktlStageGoStage src => srcOk src
  | .ktlStageGoRun src => srcOk src
  | .watchdogExpiry core kick => below 4 core && below (2 ^ 64) kick
  | .kettleCoreReady core copy => below 4 core && copy.all (below (2 ^ 38))
  | .pairOps m => msgOk m
  | .pairStep m => msgOk m
  | .pairTimeout ctx => fits 16 ctx
  | .mirrorCopyDone ctx => fits 16 ctx
  | .mirrorDone m => msgOk m
  | .mirrorAck m => msgOk m
  | .mirrorAckTimeout ctx => fits 16 ctx
  | .hostMessage m => msgOk m
  | .peerMessageDiscard m => msgOk m
  | .peerCreditReturn cls => below 4 cls
  | .hubPeerRxConsWrite src val => srcOk src && fits 32 val
  | .whiskRunStart tile test idle => below 128 tile && fits 16 test && fits 32 idle
  | .whiskRunEnd tile _ => below 128 tile
  | .whiskRunAbandon tile => below 128 tile
  | .whiskRunTimeout tile test => below 128 tile && fits 16 test
  | .whiskSchedule => true
  | .suspectScoreHalving => true
  | .tileSubstitution logical empty => below 128 logical && empty.all (below 128)
  | .pairTransition station pair _ cycle => below 17 station && below 64 pair && fits 64 cycle
  | .pairArmTimeout station pair cycle => below 17 station && below 64 pair && fits 64 cycle
  | .captureBeat station pair addr master access cycle =>
    below 17 station && below 64 pair && fits 48 addr && fits 16 master && below 16 access && fits 64 cycle
  | .captureDetailTimeout station pair cycle => below 17 station && below 64 pair && fits 64 cycle
  | .colanderSelfFault unit word => below 256 unit && fits 16 word
  | .colSafeExit src => srcOk src
  | .colStnEnWrite src station _ val => srcOk src && below 17 station && fits 32 val
  | .w1cClear src addr val => srcOk src && fits 24 addr && fits 32 val
  | .watchWindowEnd samples => samples.all (fun p => below 256 p.1 && p.2.all (fun x => fits 16 x.1))
  | .verdictAgeHang tile => below 128 tile
  | .quiesceAck slot => below 4 slot
  | .quiesceTimeout slot => below 4 slot
  | .resetDrained slot => below 4 slot
  | .drainLimitExpiry slot => below 4 slot
  | .resetHoldEnd slot => below 4 slot
  | .resetReady slot => below 4 slot
  | .readyLimitExpiry slot => below 4 slot
  | .absorbWindowClose slot => below 4 slot
  | .cflIssue lane ctx gen tag => below 8 lane && fits 16 ctx && fits 16 gen && below 256 tag
  | .cflComplete lane ctx gen tag => below 8 lane && fits 16 ctx && fits 16 gen && below 256 tag
  | .stateReadAnswer data _ => fits 32 data
  | .sensorSample sensor word => below 256 sensor && fits 32 word
  | .fastSamplingExit zone => below 32 zone
  | .throttleStep => true
  | .powerPoll words => words.all (fun x => x.all (fits 16))
  | .pmbusTimeout rail => below 16 rail
  | .smbalert => true
  | .trvAvsWrite src val => srcOk src && fits 32 val
  | .trvDomLevelFloor src val => srcOk src && fits 32 val
  | .trvCurveLoad src => srcOk src
  | .trvCurveSelect src => srcOk src
  | .trvTripClr src => srcOk src
  | .mtrLaneCtrlFence src lanes => srcOk src && below 16 lanes
  | .mtrLaneCtrlSelftest src lanes => srcOk src && below 16 lanes
  | .mtrLaneCtrlReinstate src lanes => srcOk src && below 16 lanes
  | .hubSieveSeedLoWrite src val => srcOk src && fits 32 val
  | .hubSieveSeedHiWrite src val => srcOk src && fits 32 val
  | .hubSieveClr src => srcOk src
  | .hubTimeLoRead src => srcOk src
  | .hubJrnlNextLoRead src => srcOk src
  | .hubProvNextLoRead src => srcOk src
  | .hubDumpDataRead src => srcOk src
  | .hubAtbCtrlWrite src val => srcOk src && fits 32 val
  | .ldlCntClr src tile val => srcOk src && below 128 tile && fits 32 val
  | .hubSealCntClr src val => srcOk src && fits 32 val
  | .mtrCntClr src val => srcOk src && fits 32 val
  | .lidCntClr src val => srcOk src && fits 32 val
  | .sckCntClr src val => srcOk src && fits 32 val
  | .hubSisCntClr src val => srcOk src && fits 32 val
  | .ktlCntClr src val => srcOk src && fits 32 val
  | .hubJrnlCntClr src val => srcOk src && fits 32 val
  | .hubPairCntClr src val => srcOk src && fits 32 val
  | .hubCkptCntClr src val => srcOk src && fits 32 val
  | .hubFtCntClr src val => srcOk src && fits 32 val
  | .colCntClr src val => srcOk src && fits 32 val
  | .hubRcvCntClr src val => srcOk src && fits 32 val
  | .trvCntClr src val => srcOk src && fits 32 val
  | .hubPortCntClr src val => srcOk src && fits 32 val
  | .hubBringCntClr src val => srcOk src && fits 32 val
  | .registerWrite src addr val => srcOk src && fits 24 addr && fits 32 val
  | .memResponse port id _ data sb => below 2 port && below 64 id && decide (data.length ≤ 4096) && fits 64 sb
  | .memRequestTimeout port id => below 2 port && below 64 id
  | .memIdHoldExpiry port id => below 2 port && below 64 id
  | .idcode => true
  | .dtmcs => true
  | .dmi addr data _ => fits 7 addr && fits 32 data
  | .atb val => fits 32 val
  | .bypass => true
  | .debugHalt core => below 4 core
  | .debugResume core => below 4 core
  | .debugSingleStep core => below 4 core
  | .debugTriggerHit core => below 4 core
  | .debugSystemBusAccess addr val _ => fits 24 addr && fits 32 val
  | .glitchDiscard station pair => below 17 station && below 64 pair
  | .pairReturnOk station pair => below 17 station && below 64 pair
  | .hubJrnlBaseWrite src val => srcOk src && fits 32 val

end Sys2Proof
end

