-- ==== Sys2Proof/Tests/Slice0.lean ====
section
/-! SUPPORT. The author's own tests: ill-formed commands that WellFormed refuses, single commands on small states, and for every
obligation with hypotheses a state and operands that meet them, clause by clause. -/

namespace Sys2Proof.Tests
set_option Elab.async false
open Sys2Proof Sys2Proof.Machine

/-- The bytes of an image that R295 accepts: FW 0.0.0 that needs register map version 0x0300, without code, signed with the private key 1 and the nonce 1. -/
def fwHead : Bytes := toLe 4 0x5A4B4657 ++ toLe 2 0x0300 ++ zeros 6 ++ toLe 4 512 ++
  toBe 48 0xa7a0798bb2e0cbd77b6820b7b33eaa32dfe3a303b0514d96c2c696fa73529ad27a950c807e721db8c25b4e48d893604b ++
  toLe 48 p384Gx ++ toLe 48 p384Gy ++ zeros 32
def fwImage : Bytes := fwHead ++ toLe 48 p384Gx ++
  toLe 48 0x6399b5297ef6e88f2c6780a100fbca651ee3a65c052a87ad6156368a37b124db202c32fe5faaf78c2910afcd10fe22c9 ++ zeros 224

/-- The fuse words of a licensee with the public key of `fwImage`. -/
def fleetFuses : List Nat := [0x4a43434c202d8e6e, 0x9ee64fc2b6c8dbc2, 0xc7597084f8ce2731, 0xc657dc792eb8d970, 0x39da8dcafbca306c, 0x6b36f46e385e98d3]

def bootFw : State := { fuse := { words := fleetFuses }, bring := { stage := 2 }, kettle := { bootStage := 2 } }
/-- The block in operation: bring-up done, the four Kettle cores run. -/
def up : State := { bring := { stage := 8 }, kettle := { cores := List.replicate 4 { running := true } } }

/-- The raw CRC of zeros is zero. -/
theorem crc_zeros (n : Nat) : crc32cRaw (zeros n) = 0 := by
  induction n with
  | zero => rfl
  | succ n ih => exact ih

/-- A copy of zeros has a valid CRC. -/
theorem zeroCopy_ok (n : Nat) : copyOk (zeros (n + 4)) n = true := by
  have h : slice (zeros (n + 4)) 0 n = zeros n := by simp [slice, zeros]
  have h2 : slice (zeros (n + 4)) n 4 = zeros 4 := by simp [slice, zeros]
  simp [copyOk, h, crc_zeros, leAt, h2]
  exact ⟨by simp [zeros], rfl⟩

theorem zeros_length (n : Nat) : (zeros n).length = n := by simp [zeros]

theorem zeroCopies (n o : Nat) : chooseCopy n o (zeros (n + 4)) (zeros (n + 4)) = some (zeros (n + 4)) := by
  simp [chooseCopy, zeroCopy_ok]

/-- A recipe with one conversion from FP32 to FP32, and an op of it with one element. -/
def convRecipe : Recipe := { id := 1, cls := 1, sections := [.conv [{ src := 2, dst := 2, mask := 1 }]], kats := [] }
def convDesc : Desc := { kind := 3, ctx := 1, gen := 1, aFmt := 2, outFmt := 2, dimM := 1, dimN := 1, dimK := 1, rowStride := 1, aBlk := 1, outBlk := 2 }
def convLay : Layout := convDesc.layout (some convRecipe) none none false

/-- A tile out of reset with an op, the recipe in slot 0. -/
def tileWith (p : Nat) (ops : List LOp) : State :=
  { rcps := [(0, { st := .active, recipe := some convRecipe, len := 4096 })], ladles := [(p, { inReset := false, ops := ops })] }
def convOp : LOp := { d := convDesc, lay := convLay }

/-- A LIVE context 1 with one step slot, and a ledger area of 64 blocks. -/
def ctxWith (sl : Slot) : State := { ctxs := [(1, { st := .live, slots := [sl, {}, {}, {}] })], regs := [(Reg.lidLedgerSize, 1)] }
def openStep (ops : List OpRec) : Slot := { st := .open_, ops := ops, replays := 1 }
def convRec : OpRec := { d := convDesc, lay := convLay }
def convReport (v : Verdict) (f : List Finding) : Report := { d := convDesc, verdict := v, found := f }

def convWord : Nat := 1 + 2 ^ 16 + 3 * 2 ^ 88 + 2 ^ 128 + 2 ^ 144 + 2 ^ 160 + 2 * 2 ^ 320 + 2 ^ 358 + 2 ^ 434 + 2 * 2 ^ 493 + 2 * 2 ^ 505

/-- A message with the CRC of its envelope. -/
def sent (m : PeerMsg) : PeerMsg := { m with crc := m.crcOf }

/-- Memory that nothing has written reads as zeros, and verifies by its sideband alone. -/
theorem block_zero (s : State) (b : Nat) (h : s.mem = []) : s.block b = zeros 4096 := by
  unfold State.block State.bytes Tab.getRun zeros
  rw [h]
  exact List.eq_replicate_iff.2 ⟨by simp, fun x hx => by obtain ⟨i, -, rfl⟩ := List.mem_map.1 hx; rfl⟩

theorem verify_zero (s : State) (b g f : Nat) (h : s.mem = []) : s.verify b g f = verifyBlock 0 (s.sbOf b) b g f := by
  simp [State.verify, block_zero s b h, crc_zeros]

/-- A sample job and an arbitration job of the op `convRec`. -/
def sampleJob : Job := { kind := .sample, op := convRec, els := [0], ctx := 1, gen := 1 }
def arbJob : Job := { kind := .arb, op := convRec, els := [0], ctx := 1, gen := 1 }

/-- Lane 3 runs a job of the op `convRec`, whose blocks and whose recipe's copy are sealed zeros. -/
def mortarAt (j : Job) : State :=
  { tileWith 0 [] with
    lanes := [{}, {}, {}, { job := some j }]
    arbs := [{ job := arbJob }]
    sb := [(0, bcvOfCrc 0 0 0 0x3E false 0xFE), (1, bcvOfCrc 0 1 1 2 false 0), (2, bcvOfCrc 0 2 1 2 false 0)] }

theorem mortar_verify (j : Job) (b g f : Nat) :
    ((mortarAt j).laneFree 3).verify b g f = verifyBlock 0 (((mortarAt j).laneFree 3).sbOf b) b g f := verify_zero _ _ _ _ rfl

theorem mortar_sb (j : Job) (b : Nat) : ((mortarAt j).laneFree 3).sbOf b = (mortarAt sampleJob).sbOf b := rfl
theorem mortar_verifyA (j : Job) : ((mortarAt j).laneFree 3).verify (convRec.lay.a.base + 0) convRec.d.gen (convRec.lay.a.fmtAt 0) = .verified := by
  rw [mortar_verify, mortar_sb]; decide +kernel
theorem mortar_verifyOut (j : Job) : ((mortarAt j).laneFree 3).verify (convRec.lay.out.base + 0) convRec.d.gen (convRec.lay.out.fmtAt 0) = .verified := by
  rw [mortar_verify, mortar_sb]; decide +kernel
theorem mortar_blockA (j : Job) : ((mortarAt j).laneFree 3).badBlock convRec.lay.a convRec.d.gen false [0] = none := by
  rw [State.badBlock, mortar_verifyA]; rfl
theorem mortar_blockOut (j : Job) (f : Bool) : ((mortarAt j).laneFree 3).badBlock convRec.lay.out convRec.d.gen f [0] = none := by
  rw [State.badBlock, mortar_verifyOut]; rfl
theorem fetch_of (s : State) (j : Job) (a b c o : Region) (h : j.fetches (s.heldRecipe j) = [(a, [0]), (b, []), (c, []), (o, [0])])
    (ha : s.badBlock a j.op.d.gen (j.ofFailed && a == j.op.lay.out) [0] = none)
    (ho : s.badBlock o j.op.d.gen (j.ofFailed && o == j.op.lay.out) [0] = none) : s.badFetch j = none := by
  have n : ∀ r f, s.badBlock r j.op.d.gen f [] = none := fun _ _ => rfl
  simp only [State.badFetch, h, List.foldl, n, ha, ho, Option.or]
theorem sample_fetches : sampleJob.fetches (some convRecipe) = [(convLay.a, [0]), (convLay.b, []), (convLay.c, []), (convLay.out, [0])] := by decide +kernel
theorem arb_fetches : arbJob.fetches (some convRecipe) = [(convLay.a, [0]), (convLay.b, []), (convLay.c, []), (convLay.out, [0])] := by decide +kernel
theorem not_out : (convLay.a == convLay.out) = false := by decide +kernel
theorem sample_fetch : ((mortarAt sampleJob).laneFree 3).badFetch sampleJob = none := by
  refine fetch_of _ _ convLay.a convLay.b convLay.c convLay.out sample_fetches ?_ (mortar_blockOut _ _)
  rw [show sampleJob.op.lay.out = convLay.out from rfl, not_out, Bool.and_false]
  exact mortar_blockA _
theorem arb_fetch : ((mortarAt arbJob).laneFree 3).badFetch arbJob = none := by
  refine fetch_of _ _ convLay.a convLay.b convLay.c convLay.out arb_fetches ?_ (mortar_blockOut _ _)
  rw [show arbJob.op.lay.out = convLay.out from rfl, not_out, Bool.and_false]
  exact mortar_blockA _
theorem mortar_rcp (j : Job) : ((mortarAt j).laneFree 3).rcp = (mortarAt sampleJob).rcp := rfl
theorem mortar_rcpBlk (j : Job) : ((mortarAt j).laneFree 3).rcpBlk = (mortarAt sampleJob).rcpBlk := rfl
theorem mortar_recipe (j : Job) : ((mortarAt j).laneFree 3).rcpGood (((mortarAt j).laneFree 3).rcpBlk 0)
    (ceilDiv (((mortarAt j).laneFree 3).rcp 0).len 4096) = true := by
  have e : ceilDiv ((mortarAt sampleJob).rcp 0).len 4096 = 1 := by decide +kernel
  have v : ((mortarAt j).laneFree 3).verify ((mortarAt sampleJob).rcpBlk 0) 0 0x3E = .verified := by
    rw [mortar_verify, mortar_sb]; decide +kernel
  rw [mortar_rcp, mortar_rcpBlk, e, State.rcpGood, v]; rfl

/-- Thread 31 holds program 0, which is READY at the instruction word `w` of its first code block. -/
def runner (p : Program) (w : Nat) : State :=
  { up with threads := [(31, { st := .ready, prog := some 0 })], progs := [(0, p)], mem := Tab.setRun 0 [] p.codeAt (toLe 8 w) }
def prog2 : Program := { length := 2, verified := [0] }

/-- Ring `n` holds a taken entry that Kettle 0 has not yet served. -/
def ringWith (n : Nat) (e : RingEntry) : State :=
  { up with rings := [(n, { en := true, head := 1, tail := 1, reserved := 1, taken := [{ e := e }] })] }

/-- A run reads back as it was written, and a write elsewhere leaves it. -/
theorem run_same {α : Type} [DecidableEq α] (d : α) (t : List (Nat × α)) (a n : Nat) (b : List α) (h : b.length = n) :
    Tab.getRun d (Tab.setRun d t a b) a n = b := by
  subst h
  apply List.ext_getElem (by simp [Tab.getRun])
  intro i h1 h2
  simp [Tab.getRun, tab_get_setRun, h2]

theorem run_other {α : Type} [DecidableEq α] (d : α) (t : List (Nat × α)) (a c n : Nat) (b : List α) (h : c + n ≤ a ∨ a + b.length ≤ c) :
    Tab.getRun d (Tab.setRun d t a b) c n = Tab.getRun d t c n := by
  unfold Tab.getRun
  apply List.map_congr_left
  intro i hi
  have := List.mem_range.1 hi
  rw [tab_get_setRun, if_neg (by omega)]

/-- A function of a number that is computed first. -/
def force {α : Type} (f : Nat → α) : Nat → α
  | 0 => f 0
  | k + 1 => f (k + 1)

theorem force_eq {α : Type} (f : Nat → α) (n : Nat) : force f n = f n := by cases n <;> rfl

/-- The raw CRC with the register computed at every byte. -/
def crcEager : Bytes → Nat → Nat
  | [], r => r
  | b :: t, r => force (crcEager t) (crcByte r b)

theorem crcEager_eq (b : Bytes) (r : Nat) : crcEager b r = b.foldl crcByte r := by
  induction b generalizing r with
  | nil => rfl
  | cons x t ih => rw [crcEager, force_eq, ih, List.foldl_cons]

theorem verify_of (s : State) (b g f : Nat) (d : Bytes) (h : s.block b = d) :
    s.verify b g f = verifyBlock (crcEager d 0) (s.sbOf b) b g f := by
  subst h
  unfold State.verify
  rw [crcEager_eq, ← crc32cRaw]

/-- A short run in memory that nothing else has written near it. -/
theorem run_zeros (t : List (Nat × Byte)) (a n m : Nat) (b : Bytes) (h : b.length = m) (hz : ∀ j, a ≤ j → Tab.get 0 t j = 0) :
    Tab.getRun 0 (Tab.setRun 0 t a b) a (m + n) = b ++ zeros n := by
  subst h
  apply List.ext_getElem
  · simp [Tab.getRun, zeros]
  intro i h1 h2
  simp only [Tab.getRun, List.getElem_map, List.getElem_range, tab_get_setRun]
  by_cases hi : i < b.length
  · rw [if_pos (by omega), List.getElem_append_left hi]
    simp [hi]
  · rw [if_neg (by omega), List.getElem_append_right (by omega), hz _ (by omega)]
    simp [zeros]

theorem block_first (s : State) (t : List (Nat × Byte)) (a b : Nat) (x y : Bytes)
    (hm : s.mem = Tab.setRun 0 (Tab.setRun 0 t (a * 4096) x) (b * 4096) y) (hx : x.length = 4096) (h : a < b) : s.block a = x := by
  unfold State.block State.bytes
  rw [hm, run_other _ _ _ _ _ _ (.inl (by omega)), run_same _ _ _ _ _ hx]

theorem block_last (s : State) (t : List (Nat × Byte)) (a : Nat) (x : Bytes)
    (hm : s.mem = Tab.setRun 0 t (a * 4096) x) (hx : x.length = 4096) : s.block a = x := by
  unfold State.block State.bytes
  rw [hm, run_same _ _ _ _ _ hx]

theorem bytes_last (s : State) (t : List (Nat × Byte)) (a m n : Nat) (x : Bytes) (hm : s.mem = Tab.setRun 0 t a x) (hx : x.length = m)
    (hz : ∀ j, a ≤ j → Tab.get 0 t j = 0) : s.bytes a (m + n) = x ++ zeros n := by
  unfold State.bytes
  rw [hm, run_zeros _ _ _ _ _ hx hz]

theorem none_after (a b : Nat) (x : Bytes) (h : a + x.length ≤ b) (j : Nat) (hj : b ≤ j) : Tab.get 0 (Tab.setRun 0 [] a x) j = 0 := by
  rw [tab_get_setRun, if_neg (by omega)]
  rfl

/-- A shard header (R337) with one block behind it, and a manifest (R336) of step 5 that names it, whose fleet key and signer are the
public key of the private key 1. -/
def shardHead : Bytes :=
  [toLe 4 0x5A534844, toLe 1 3, toLe 1 0x3E, toLe 2 0, toLe 8 7, toLe 4 5, toLe 4 1].flatten
def keyG : Bytes := toLe 48 p384Gx ++ toLe 48 p384Gy
def manifest : Bytes :=
  [toLe 4 0x5A4D4E46, toLe 2 0x0302, toLe 2 0, toLe 4 5, toLe 2 1, zeros 2, zeros 4, toLe 2 2, toLe 2 1, zeros 12, toLe 4 6, toLe 8 12, toLe 8 7,
   zeros 8, zeros 192, toLe 1 3, toLe 1 0x3E, zeros 2, toLe 4 1, toLe 8 8,
   toBe 48 0xe7969f21aa367ae3dae301496096540ccd08ccabd2a97d91c467569ff46969e90726cc14792d4cc40e4acc8352d7a5e7, zeros 3264, keyG, keyG,
   toLe 48 p384Gx, toLe 48 0x1915f7430ace4882518d8fd5b57094129f450a5b1017f560036dac8d07f9541f6919afa741325c2b2100a30614a517af, toLe 48 p384Gx,
   toLe 48 0xd67f4adfb8531acad1f7757779c3aa897f0a00aabbb17c6d84d660d0c774253325da7e690e3a1610084553c3c01acf67, zeros 128].flatten

theorem cflMore_same (s : State) (c : Nat) : (s.cflMore c).mem = s.mem ∧ (s.cflMore c).sb = s.sb ∧ (s.cflMore c).port0 = s.port0 := by
  unfold State.cflMore
  exact ⟨rfl, rfl, rfl⟩

theorem issue_held (p : Port) (r : MemReq) : (p.issue r).held = p.held := by
  unfold Port.issue
  split <;> rfl

theorem request_same (s : State) (op : MemOp) (blk line len : Nat) (acc : Access) :
    (s.request op blk line len acc).mem = s.mem ∧ (s.request op blk line len acc).sb = s.sb ∧
      (s.request op blk line len acc).port0.held = s.port0.held := by
  obtain ⟨m, b, p⟩ := cflMore_same s (s.accessCtx acc).1
  unfold State.request
  split
  · exact ⟨rfl, rfl, rfl⟩
  · dsimp only
    split <;> split <;> simp [m, b, p, issue_held]

theorem request_mem (s : State) (op : MemOp) (blk line len : Nat) (acc : Access) : (s.request op blk line len acc).mem = s.mem :=
  (request_same s op blk line len acc).1
theorem request_sb (s : State) (op : MemOp) (blk line len : Nat) (acc : Access) : (s.request op blk line len acc).sb = s.sb :=
  (request_same s op blk line len acc).2.1
theorem request_held (s : State) (op : MemOp) (blk line len : Nat) (acc : Access) : (s.request op blk line len acc).port0.held = s.port0.held :=
  (request_same s op blk line len acc).2.2

theorem not_stalled (s : State) (h : s.port0.held = []) : s.bothStalled = false := by
  simp [State.bothStalled, Port.stalled, h, portIds]

/-- A sealed write of a whole block: its data, its sideband and every other one's. -/
theorem sealed_mem (s : State) (blk : Nat) (b : Bytes) (g f : Nat) (acc : Access) (h : s.port0.held = []) :
    (s.writeSealed blk b g f acc).mem = Tab.setRun 0 s.mem (blk * 4096) b := by
  rw [State.writeSealed, State.writeS, not_stalled s h, if_neg (by decide), request_mem]
  rfl

theorem setSb_sb (s : State) (blk v k : Nat) : (s.setSb blk v).sbOf k = if blk = k then v % 2 ^ 64 else s.sbOf k := by
  rw [State.sbOf, State.setSb, tab_get_set]
  rfl

theorem sealed_sb (s : State) (blk : Nat) (b : Bytes) (g f k : Nat) (acc : Access) (h : s.port0.held = []) :
    (s.writeSealed blk b g f acc).sbOf k = if blk = k then bcv b blk g f false 0xFE % 2 ^ 64 else s.sbOf k := by
  rw [State.writeSealed, State.writeS, not_stalled s h, if_neg (by decide), State.sbOf, request_sb, ← State.sbOf, setSb_sb]
  rfl

theorem sealed_held (s : State) (blk : Nat) (b : Bytes) (g f : Nat) (acc : Access) (h : s.port0.held = []) :
    (s.writeSealed blk b g f acc).port0.held = [] := by
  rw [State.writeSealed, State.writeS, not_stalled s h, if_neg (by decide), request_held]
  exact h

/-- The manifest and its shard in memory, of a LIVE context 1. -/
def manState (k : CkptKind) : State :=
  { ctxs := [(1, { st := .live, mb := 2 })], fuse := { words := fleetFuses },
    mem := Tab.setRun 0 (Tab.setRun 0 [] (1 * 4096) manifest) (8 * 4096) shardHead, ckptQ := [{ blk := 1, ctx := 1, kind := k }] }

theorem manifest_length : manifest.length = 4096 := by decide +kernel
theorem shardHead_length : shardHead.length = 24 := by decide +kernel

theorem man_block (k : CkptKind) : (manState k).block 1 = manifest :=
  block_first _ [] 1 8 manifest shardHead (by simp only [manState]) manifest_length (by decide)

theorem man_shard (k : CkptKind) (n : Nat) : (manState k).bytes (8 * 4096) (24 + n) = shardHead ++ zeros n :=
  bytes_last (manState k) (Tab.setRun 0 [] (1 * 4096) manifest) (8 * 4096) 24 n shardHead (by simp only [manState]) shardHead_length
    (none_after (1 * 4096) (8 * 4096) manifest (by rw [manifest_length]; decide))

/-! SHA-384 of a long message in parts, so that each kernel evaluation stays short. -/

/-- The blocks of a padded message, sixteen words each. -/
def shaBlocks (m : Bytes) : List (List Nat) :=
  (List.range ((shaPad m).length / 128)).map (fun k => (List.range 16).map (fun i => beWord ((shaPad m).drop (128 * k)) i))

theorem absorb_foldr (bs : List (List Nat)) : absorb bs = bs.foldr (fun b h => absorbBlock h b) shaH0 := by
  induction bs with
  | nil => rfl
  | cons b bs ih => rw [absorb, ih]; rfl

theorem absorb_reverse (bs : List (List Nat)) : absorb bs.reverse = bs.foldl absorbBlock shaH0 := by
  rw [absorb_foldr, List.foldr_reverse]

theorem sha_part (bs : List (List Nat)) (n k : Nat) (h0 h1 : List Nat) (a : (bs.take n).foldl absorbBlock shaH0 = h0)
    (b : ((bs.drop n).take k).foldl absorbBlock h0 = h1) : (bs.take (n + k)).foldl absorbBlock shaH0 = h1 := by
  rw [List.take_add, List.foldl_append, a, b]

theorem sha_of (m : Bytes) (n : Nat) (h : List Nat) (l : (shaPad m).length / 128 ≤ n)
    (e : ((shaBlocks m).take n).foldl absorbBlock shaH0 = h) : sha384 m = (h.take 6).flatMap (toBe 8) := by
  rw [List.take_of_length_le (by simpa [shaBlocks] using l), ← absorb_reverse] at e
  rw [← e]
  rfl

def shardShaH1 : List Nat :=
  [0x58750d8976652b43, 0x8ac0b6fa9767ec50, 0xe795c6f5c3034c0c, 0xa7faadab3952b0cf,
  0x20fca399aefd6ab8, 0xedabb57a44c61d98, 0x3980e5548164a684, 0x14c97b9024dba4cd]
def shardShaH2 : List Nat :=
  [0x0fe9f858e2f592e3, 0xa0d37ee7f43180e0, 0x86547c14789eb6c2, 0xa0cb39e864e9bbda,
  0xd58c17f3c68f411b, 0x913b3aa35a04b09c, 0xcc5153b5d3cff870, 0x5d8b78bfa6d91a80]
def shardShaH3 : List Nat :=
  [0x7b456e8efc0b7a5e, 0xa3f60baf372f8c92, 0x98e1ba990d961814, 0xb817ccc0c66a8a10,
  0x34f5a236fa145627, 0xfb5c4d57932ff284, 0x7ed567d086bdc706, 0x672977a2d2b7ea6d]
def shardShaH4 : List Nat :=
  [0xcb336c2adb837dfd, 0xd56d3997e784f03d, 0x175c38fdd8684a7d, 0xf8cda9624e5de1ce,
  0xb8e5e99b101ee59a, 0xa8d3bebf52cca782, 0x3598a1dde7028fa2, 0x04a960a72ef1a085]
def shardShaH5 : List Nat :=
  [0xcc577914a0319ed1, 0x2da80997cd2482bb, 0xec9eaf3e74837a21, 0xd5adf61680366ad2,
  0xb6b34e8e35b4a7e2, 0x6e193f670f8b0fcd, 0x8bcaf73a644b7ead, 0x5b67c721872518b2]
def shardShaH6 : List Nat :=
  [0x807f2e365398fb65, 0x0ec8e8c1535a9121, 0xf5675a751a05d80c, 0xc1311d5fe1f24d9b,
  0x619e922b1374bc60, 0x72bc3d22d2fc443f, 0x211b94cfee922cf8, 0xc749e14d06290e33]
def shardShaH7 : List Nat :=
  [0xf0669ec9e5a2de8e, 0xa1813112be1f8a91, 0xbdf893efb02af884, 0x9f073bf40242891c,
  0xfd1bcc618cf4719e, 0x91d31b5ba9cea39a, 0x2ae0be270f062bf3, 0x15c894ab81426856]
def shardShaH8 : List Nat :=
  [0xe7969f21aa367ae3, 0xdae301496096540c, 0xcd08ccabd2a97d91, 0xc467569ff46969e9,
  0x0726cc14792d4cc4, 0x0e4acc8352d7a5e7, 0xa1538fc594c2cbca, 0xffc8131657513495]
theorem shardSha_1 : (((shaBlocks (shardHead ++ zeros 8168)).drop 0).take 9).foldl absorbBlock shaH0 = shardShaH1 := by decide +kernel
theorem shardSha_2 : (((shaBlocks (shardHead ++ zeros 8168)).drop 9).take 9).foldl absorbBlock shardShaH1 = shardShaH2 := by decide +kernel
theorem shardSha_3 : (((shaBlocks (shardHead ++ zeros 8168)).drop 18).take 9).foldl absorbBlock shardShaH2 = shardShaH3 := by decide +kernel
theorem shardSha_4 : (((shaBlocks (shardHead ++ zeros 8168)).drop 27).take 9).foldl absorbBlock shardShaH3 = shardShaH4 := by decide +kernel
theorem shardSha_5 : (((shaBlocks (shardHead ++ zeros 8168)).drop 36).take 9).foldl absorbBlock shardShaH4 = shardShaH5 := by decide +kernel
theorem shardSha_6 : (((shaBlocks (shardHead ++ zeros 8168)).drop 45).take 9).foldl absorbBlock shardShaH5 = shardShaH6 := by decide +kernel
theorem shardSha_7 : (((shaBlocks (shardHead ++ zeros 8168)).drop 54).take 9).foldl absorbBlock shardShaH6 = shardShaH7 := by decide +kernel
theorem shardSha_8 : (((shaBlocks (shardHead ++ zeros 8168)).drop 63).take 9).foldl absorbBlock shardShaH7 = shardShaH8 := by decide +kernel
theorem shardSha_digest : sha384 (shardHead ++ zeros 8168) = (shardShaH8.take 6).flatMap (toBe 8) := by
  have p1 := sha_part (shaBlocks (shardHead ++ zeros 8168)) 0 9 _ _ rfl shardSha_1
  have p2 := sha_part _ _ 9 _ _ p1 shardSha_2
  have p3 := sha_part _ _ 9 _ _ p2 shardSha_3
  have p4 := sha_part _ _ 9 _ _ p3 shardSha_4
  have p5 := sha_part _ _ 9 _ _ p4 shardSha_5
  have p6 := sha_part _ _ 9 _ _ p5 shardSha_6
  have p7 := sha_part _ _ 9 _ _ p6 shardSha_7
  have p8 := sha_part _ _ 9 _ _ p7 shardSha_8
  exact sha_of _ _ _ (by decide +kernel) p8

def manShaH1 : List Nat :=
  [0xd99504cd36c61681, 0xacb51a1718506b59, 0xd66b740376549945, 0xbda9817d1f1c1f9d,
  0xbae5c632a3234474, 0x618c13b1deab4078, 0xaf05baad4463a591, 0xe04b263314892959]
def manShaH2 : List Nat :=
  [0xadd88289beb5bcf5, 0x98c8c83aabe6c5db, 0x88c82d5db92b01e2, 0x70835ade24e75b16,
  0x03d2453e4e985683, 0x191d548474a3cef9, 0x31130d478903ae7a, 0x28f9af991564434d]
def manShaH3 : List Nat :=
  [0xb276e12528a42930, 0xbbee1bf083b5f904, 0xd58a80d8163f455f, 0x2cacdf0723fa929d,
  0xef5470b71a2cb8a3, 0x7b90eba7c7a049bd, 0x969669c157b1842f, 0x5e872fe7492bc494]
def manShaH4 : List Nat :=
  [0x2bf780bcf9c81593, 0x4345ae5886a2fd15, 0x10ecc5483009e0d5, 0x2adf1ef0451ffafa,
  0xd0d78c0b4ee4eca3, 0xcdf0f58b4da4c4b0, 0xa680d742f02ae1ff, 0x663d473466e9e0c8]
theorem manSha_1 : (((shaBlocks (slice manifest 0 0xF20)).drop 0).take 8).foldl absorbBlock shaH0 = manShaH1 := by decide +kernel
theorem manSha_2 : (((shaBlocks (slice manifest 0 0xF20)).drop 8).take 8).foldl absorbBlock manShaH1 = manShaH2 := by decide +kernel
theorem manSha_3 : (((shaBlocks (slice manifest 0 0xF20)).drop 16).take 8).foldl absorbBlock manShaH2 = manShaH3 := by decide +kernel
theorem manSha_4 : (((shaBlocks (slice manifest 0 0xF20)).drop 24).take 8).foldl absorbBlock manShaH3 = manShaH4 := by decide +kernel
theorem manSha_digest : sha384 (slice manifest 0 0xF20) = (manShaH4.take 6).flatMap (toBe 8) := by
  have p1 := sha_part (shaBlocks (slice manifest 0 0xF20)) 0 8 _ _ rfl manSha_1
  have p2 := sha_part _ _ 8 _ _ p1 manSha_2
  have p3 := sha_part _ _ 8 _ _ p2 manSha_3
  have p4 := sha_part _ _ 8 _ _ p3 manSha_4
  exact sha_of _ _ _ (by decide +kernel) p4

theorem man_ok : manOk manifest = true := by
  have n : leAt manifest 0xC 2 = 1 := by decide +kernel
  simp only [manOk, n]
  decide +kernel

theorem man_signed (k : CkptKind) : (manState k).manSigned manifest = true := by
  have h : (manState k).fleetHash = (manState .chk).fleetHash := rfl
  unfold State.manSigned ecdsaVerify
  rw [h, manSha_digest]
  decide +kernel

theorem man_shape (k : CkptKind) : (manState k).manShape 1 manifest = true := by
  have h : (manState k).manShape 1 manifest = (manState .chk).manShape 1 manifest := rfl
  rw [h]
  decide +kernel

theorem man_shard0 : manShard manifest 0 = { kind := 3, fmt := 0x3E, blocks := 1, blk := 8 } := by
  have h1 : leAt manifest (0x100 + 64 * 0) 1 = 3 := by decide +kernel
  have h2 : leAt manifest (0x100 + 64 * 0 + 1) 1 = 0x3E := by decide +kernel
  have h3 : leAt manifest (0x100 + 64 * 0 + 4) 4 = 1 := by decide +kernel
  have h4 : leAt manifest (0x100 + 64 * 0 + 8) 8 % 2 ^ 38 = 8 := by decide +kernel
  simp only [manShard, h1, h2, h3, h4]

theorem man_head8 (k : CkptKind) : (manState k).block 8 = shardHead ++ zeros 4072 := man_shard k 4072
theorem man_digest8 (k : CkptKind) :
    (manState k).shardDigest { kind := 3, fmt := 0x3E, blocks := 1, blk := 8 } = sha384 (shardHead ++ zeros 8168) := by
  rw [State.shardDigest]
  exact congrArg sha384 (man_shard k 8168)
theorem man_kind0 (k : CkptKind) : (manState k).shardKind manifest 0 = 0 := by
  simp only [State.shardKind, man_shard0, man_head8, man_digest8, shardSha_digest]
  decide +kernel
theorem man_shards (k : CkptKind) : (manState k).badShards manifest = [] := by
  have n : leAt manifest 0xC 2 = 1 := by decide +kernel
  simp [State.badShards, n, man_kind0]

theorem man_check (k : CkptKind) (r : Bool) : ((manState k).ckptCheck 1 r manifest).1 = stOk := by
  have v : versionOk (leAt manifest 4 2) = true := by decide +kernel
  have c : manConsistent manifest = true := by decide +kernel
  simp [State.ckptCheck, man_ok, v, man_signed, c, man_shape, man_shards]

theorem pair_of {α β : Type} (p : α × Option β) (h : p.2 = none) : ∃ u, p = (u, none) := ⟨p.1, Prod.ext rfl h⟩

theorem eq_zeros (b : Bytes) (n : Nat) (h : b.all (· == 0) = true) (hl : b.length = n) : b = zeros n := by
  refine List.eq_replicate_iff.2 ⟨hl, fun x hx => ?_⟩
  simpa using List.all_eq_true.1 h x hx

/-- The header that CKPTMAN writes for the shard of the manifest. -/
def newHead : Bytes := shardHeader { kind := 3, fmt := 0x3E, blocks := 1, blk := 8 } 0 7 0

theorem newHead_length : newHead.length = 4096 := by decide +kernel

/-- Before the write, with the scale shard's body written and sealed, and with its header. -/
def ck0 : State := (manState .man).endCkpt
def ck1 : State := ck0.writeSealed 9 (zeros 4096) 1 0x3E .manifest
def ck2 : State := ck1.writeSealed 8 newHead 1 0x3E .manifest

theorem ck0_held : ck0.port0.held = [] := by decide +kernel
theorem ck1_held : ck1.port0.held = [] := sealed_held _ _ _ _ _ _ ck0_held
theorem ck2_mem : ck2.mem = Tab.setRun 0 (Tab.setRun 0 ck0.mem (9 * 4096) (zeros 4096)) (8 * 4096) newHead := by
  rw [ck2, sealed_mem _ _ _ _ _ _ ck1_held, ck1, sealed_mem _ _ _ _ _ _ ck0_held]
theorem ck0_body : padTo 4096 (slice (scaleBody []) 0 (min 4096 (scaleBody []).length)) ++
    (if (scaleBody []).isEmpty then zeros 4096 else []) = zeros 4096 := eq_zeros _ _ (by decide +kernel) (by decide +kernel)

theorem ck_write : ck0.writeShards (scaleBody []) 1 7 0 0 [{ kind := 3, fmt := 0x3E, blocks := 1, blk := 8 }] = ck2 := by
  simp only [State.writeShards, State.writeRun, ck0_body, if_true, newHead, ck2, ck1]

theorem ck2_head : ck2.verify 8 1 0x3E = .verified := by
  have b : ck2.block 8 = newHead := block_last ck2 _ 8 newHead ck2_mem newHead_length
  have c : crcEager newHead 0 = crc32cRaw newHead := crcEager_eq _ _
  rw [verify_of ck2 8 1 0x3E _ b, ck2, sealed_sb _ _ _ _ _ _ _ ck1_held, if_pos rfl, bcv, ← c]
  decide +kernel

theorem ck2_body : ck2.verify 9 1 0x3E = .verified := by
  have b : ck2.block 9 = zeros 4096 := by
    unfold State.block State.bytes
    rw [ck2_mem, run_other _ _ _ _ _ _ (.inr (by rw [newHead_length] <;> decide)), run_same _ _ _ _ _ (zeros_length 4096)]
  unfold State.verify
  rw [b, crc_zeros, ck2, sealed_sb _ _ _ _ _ _ _ ck1_held, if_neg (by decide), ck1, sealed_sb _ _ _ _ _ _ _ ck0_held, if_pos rfl, bcv, crc_zeros]
  decide +kernel

def theShard : Shard := { kind := 3, fmt := 0x3E, blocks := 1, blk := 8 }

def manJob (k : CkptKind) : CkptJob := { blk := 1, ctx := 1, kind := k }

theorem man_draft (k : CkptKind) : draftOf manifest (manJob k) =
    { flags := 0, step := 0, stepZero := 0, job := 7, shards := [theShard], wman := [], prev := [], scales := [] } := by
  have n : leAt manifest 0xC 2 = 1 := by decide +kernel
  have h1 : leAt manifest 0x20 4 = 0 := by decide +kernel
  have h2 : leAt manifest 0x30 8 = 7 := by decide +kernel
  simp only [draftOf, manJob, h1, h2, manShards, n, show List.range (min 52 1) = [0] by decide, List.map_cons, List.map_nil, man_shard0, theShard]

theorem badRun_one (s : State) (g f b : Nat) (h : s.verify b g f = .verified) : s.badRun g f b 1 = (s.count Reg.hubCntBlkVerified, none) := by
  rw [State.badRun, h]
  rfl

theorem badShard_one (s : State) (g k f b c : Nat) (h : s.verify b g 0x3E = .verified) (h2 : s.verify c g f = .verified) (hc : b + 1 = c) :
    (s.badShard g [{ kind := k, fmt := f, blocks := 1, blk := b }]).2 = none := by
  subst hc
  have h3 : (s.count Reg.hubCntBlkVerified).verify b g 0x3E = .verified := h
  rw [State.badShard, badRun_one s g f (b + 1) h2]
  simp only
  rw [badRun_one _ g 0x3E b h3]
  rfl

theorem ck2_shard : (ck2.badShard 1 [theShard]).2 = none := badShard_one ck2 1 3 0x3E 8 9 ck2_head ck2_body rfl

theorem write_ok (s u : State) (c blk g : Nat) (m : Draft) (hg : (s.ctx c).gen = g) (hw : s.writeShards (scaleBody m.scales) g m.job m.step 0 m.shards = u)
    (hb : (u.badShard g m.shards).2 = none) : ∃ v, s.writeManifest c blk m = (v, none) := by
  obtain ⟨v, e⟩ := pair_of _ hb
  refine pair_of _ ?_
  subst hg hw
  simp only [State.writeManifest, e]

theorem man_write : ∃ u, (manState .man).endCkpt.writeManifest 1 1 (draftOf manifest (manJob .man)) = (u, none) := by
  rw [man_draft]
  exact write_ok (manState .man).endCkpt ck2 1 1 1 _ rfl ck_write ck2_shard

/-- Before MEM_ON an entry is only placed in the window. -/
theorem copy_off (s : State) (h : s.memOn = false) : s.replaced.copyJournal = s := by
  have r : s.replaced = s := by
    unfold State.replaced
    split
    · simp [h]
    · rfl
  rw [r, State.copyJournal, h]
  rfl

theorem record_off (s : State) (e : JEntry) (h : s.memOn = false) : ∃ l, s.record e = { s with jseq := s.jseq + 1, journal := l } :=
  ⟨_, copy_off _ h⟩

theorem noted_mem (s : State) (q : CoreCmd) (h : s.memOn = false) : (s.noted q).mem = s.mem := by
  obtain ⟨l, e⟩ := record_off s (q.entry stOk 0) h
  rw [State.noted, e]
theorem noted_sb (s : State) (q : CoreCmd) (b : Nat) (h : s.memOn = false) : (s.noted q).sbOf b = s.sbOf b := by
  obtain ⟨l, e⟩ := record_off s (q.entry stOk 0) h
  rw [State.noted, e]
  rfl

theorem man_draftOk : draftOk [] manifest = true := by
  have n : leAt manifest 0xC 2 = 1 := by decide +kernel
  have m : manShards manifest = [theShard] := by
    simp only [manShards, n, show List.range (min 52 1) = [0] by decide, List.map_cons, List.map_nil, man_shard0, theShard]
  simp only [draftOk, n, m]
  decide +kernel

theorem man_restore : (manState .restore).mayRestore 1 manifest = true := by
  have n : leAt manifest 0xC 2 = 1 := by decide +kernel
  have m : manShards manifest = [theShard] := by
    simp only [manShards, n, show List.range (min 52 1) = [0] by decide, List.map_cons, List.map_nil, man_shard0, theShard]
  have b : (manState .restore).bytes ((theShard.blk + 1) * 4096) (theShard.blocks * 4096) = zeros 4096 := by
    unfold State.bytes
    rw [show (manState .restore).mem = Tab.setRun 0 (Tab.setRun 0 [] (1 * 4096) manifest) (8 * 4096) shardHead by simp only [manState],
      run_other _ _ _ _ _ _ (.inr (by rw [shardHead_length]; decide)), run_other _ _ _ _ _ _ (.inr (by rw [manifest_length]; decide))]
    exact block_zero {} 9 rfl
  simp only [State.mayRestore, State.scaleShard, m, List.find?, theShard, beq_self_eq_true] at b ⊢
  rw [b]
  decide +kernel

/-- A state map (R346) with one shard, of KIND 0x3, in block 64, sealed. -/
def stateMap : Bytes := [toLe 4 0x5A534D50, toLe 2 1, zeros 122, toLe 1 3, toLe 1 0x3E, zeros 3966].flatten
def mapState : State :=
  { up with ctxs := [(1, { st := .live })], regs := [(Reg.hubBuddyMap, 1)], mem := Tab.setRun 0 [] (64 * 4096) stateMap,
            sb := [(64, bcvOfCrc (crcEager stateMap 0) 64 0 0x3E false 0xFE)] }

theorem stateMap_length : stateMap.length = 4096 := by decide +kernel

theorem map_ok_of (w : State) (hm : w.mem = Tab.setRun 0 [] (64 * 4096) stateMap)
    (hs : w.sbOf 64 = bcvOfCrc (crcEager stateMap 0) 64 0 0x3E false 0xFE) : w.mapOk 64 = true := by
  have b : w.block 64 = stateMap := block_last _ [] 64 stateMap hm stateMap_length
  have v : w.verify 64 0 0x3E = .verified := by
    rw [verify_of w 64 0 0x3E stateMap b, hs]
    decide +kernel
  have n : leAt stateMap 4 2 = 1 := by decide +kernel
  simp only [State.mapOk, v, b, n]
  decide +kernel

theorem map_ok (q : CoreCmd) : ∀ w, w ∈ [mapState, mapState.noted q] → w.mapOk (mapState.reg Reg.hubBuddyMap * 64) = true := by
  have r : mapState.reg Reg.hubBuddyMap * 64 = 64 := by decide +kernel
  have hm : mapState.mem = Tab.setRun 0 [] (64 * 4096) stateMap := by simp only [mapState]
  have off : mapState.memOn = false := rfl
  have hs : mapState.sbOf 64 = bcvOfCrc (crcEager stateMap 0) 64 0 0x3E false 0xFE := rfl
  rw [r]
  exact List.forall_mem_cons.2 ⟨map_ok_of _ hm hs, List.forall_mem_singleton.2 (map_ok_of _ ((noted_mem _ _ off).trans hm) ((noted_sb _ _ _ off).trans hs))⟩
/-- A curve image (R439) with one logic zone, 16 levels and no rail. -/
def curveImage : Bytes :=
  [toLe 4 0x5A524350, toLe 2 3, toLe 2 0x0300, toLe 2 5, toLe 1 0, toLe 1 3, toLe 4 560,
   toBe 48 0xe33ff752e65c1a49344a21afadd27483d6c849ed5779ee75365f8d0e9f3597bd972f95051a9763950b189b669f7d2798, zeros 64,
   toLe 2 0x101, zeros 2, toLe 4 0xB0, toLe 4 280, zeros 4, toLe 2 0x102, zeros 2, toLe 4 464, toLe 4 80, zeros 4,
   toLe 2 0x103, zeros 2, toLe 4 544, toLe 4 16, zeros 4,
   toLe 1 1, zeros 15, toLe 1 0, List.replicate 255 0xFF, zeros 4, toLe 4 0xFFFFFFFF, zeros 8,
   toLe 2 200, zeros 14, (List.range 16).flatMap (fun k => toLe 4 k), zeros 16].flatten

theorem ok_of {ε α : Type} (x : Except ε α) (h : (match x with | .ok _ => true | .error _ => false) = true) : ∃ a, x = .ok a := by
  cases x with
  | ok a => exact ⟨a, rfl⟩
  | error e => cases h

def curveState : State := { mem := Tab.setRun 0 [] 0 curveImage }

theorem curve_length : curveImage.length = 560 := by decide +kernel
theorem curve_bytes : curveState.bytes (curveState.reg Reg.trvCurveBlk * 64 * 4096) 65536 = curveImage ++ zeros 64976 := by
  have r : curveState.reg Reg.trvCurveBlk * 64 * 4096 = 0 := by decide +kernel
  rw [r]
  exact bytes_last curveState [] 0 560 64976 curveImage (by simp only [curveState]) curve_length (fun _ _ => rfl)

theorem curve_ok : ∃ c, checkCurve (curveState.bytes (curveState.reg Reg.trvCurveBlk * 64 * 4096) 65536) curveState.cfg.sensors = .ok c := by
  refine ok_of _ ?_
  rw [curve_bytes]
  decide +kernel

theorem err_of {ε α : Type} (x : Except ε α) (h : (match x with | .ok _ => true | .error _ => false) = false) : ∃ e, x = .error e := by
  cases x with
  | ok a => cases h
  | error e => exact ⟨e, rfl⟩

theorem curve_bad : ∃ e, checkCurve (({} : State).bytes (({} : State).reg Reg.trvCurveBlk * 64 * 4096) 65536) ({} : State).cfg.sensors = .error e :=
  err_of _ (by decide +kernel)

theorem fw_ok (s : State) (h : s.fleetHash = fleetFuses.flatMap (toLe 8)) (z : s.kettle.slotSize = 4194304) : s.checkFw fwImage = stOk := by
  have n : leAt fwImage 12 4 = 512 := by decide +kernel
  have l : fwImage.length = 512 := by decide +kernel
  have k : sha384 (slice fwImage 0x40 96) = fleetFuses.flatMap (toLe 8) := by decide +kernel
  have e : ecdsaVerify (slice fwImage 0x40 96) (slice fwImage 0xC0 96) (slice fwImage 0 0xC0) = true := by decide +kernel
  have c : sha384 (fwImage.drop 0x120) = slice fwImage 0x10 48 := by decide +kernel
  have m : leAt fwImage 0 4 = 0x5A4B4657 := by decide +kernel
  have r : leAt fwImage 10 2 = 0 := by decide +kernel
  have v : versionOk (leAt fwImage 4 2) = true := by decide +kernel
  simp [State.checkFw, n, l, k, e, c, m, r, v, h, z]

/-- The image in device memory: for the staging registers, and for a staging under way. -/
def stagedFw : State :=
  { fuse := { words := fleetFuses }, mem := Tab.setRun 0 [] 0 fwImage, regs := [(Reg.ktlStageLen, 512)], bring := { stage := 2 },
    kettle := { bootStage := 4 } }
def stagingFw : State :=
  { fuse := { words := fleetFuses }, mem := Tab.setRun 0 [] 0 fwImage, kettle := { staging := some { len := 512 } } }

theorem fw_length : fwImage.length = 512 := by decide +kernel
theorem staged_bytes : stagedFw.bytes (stagedFw.reg Reg.ktlStageBlk * 64 * 4096) (stagedFw.reg Reg.ktlStageLen % 2 ^ 23) = fwImage := by
  have a : stagedFw.reg Reg.ktlStageBlk * 64 * 4096 = 0 := by decide +kernel
  have n : stagedFw.reg Reg.ktlStageLen % 2 ^ 23 = 512 := by decide +kernel
  rw [a, n]
  exact bytes_last stagedFw [] 0 512 0 fwImage (by simp only [stagedFw]) fw_length (fun _ _ => rfl) |>.trans (by simp [zeros])
theorem staging_bytes : stagingFw.bytes (0 * 4096) (min 512 4194320) = fwImage :=
  bytes_last stagingFw [] 0 512 0 fwImage (by simp only [stagingFw]) fw_length (fun _ _ => rfl) |>.trans (by simp [zeros])


/-- The header of a program of context 1 (R246) with one instruction, in block 16, its parameter block 8, both sealed. -/
def progHead : Bytes := [toLe 4 0x5A535052, toLe 2 0x0300, toLe 2 1, toLe 2 1, toLe 2 1, zeros 4, toLe 8 8].flatten
def progImage : Bytes := progHead ++ zeros 4072
def progState : State :=
  { ringWith 1 { kind := 0x80, a0 := 16 } with
    ctxs := [(1, { st := .live, gen := 1 })], mem := Tab.setRun 0 [] (16 * 4096) progHead,
    sb := [(8, bcvOfCrc 0 8 1 0x3E false 0), (16, bcvOfCrc (crcEager progImage 0) 16 1 0x3E false 0)] }
def progFull : State :=
  { ringWith 1 { kind := 0x80, a0 := 16 } with
    ctxs := [(1, { st := .live, gen := 1 })], mem := Tab.setRun 0 [] (16 * 4096) progHead,
    progs := (List.range 16).map (fun k => (k, { ctx := 1 })) }
theorem progHead_length : progHead.length = 24 := by decide +kernel
theorem prog_bytes : progState.bytes (16 % 2 ^ 38 * 4096) 64 = progHead ++ zeros 40 :=
  bytes_last progState [] (16 * 4096) 24 40 progHead (by simp only [progState]) progHead_length (fun _ _ => rfl)
theorem full_bytes : progFull.bytes (16 % 2 ^ 38 * 4096) 64 = progHead ++ zeros 40 :=
  bytes_last progFull [] (16 * 4096) 24 40 progHead (by simp only [progFull]) progHead_length (fun _ _ => rfl)
theorem prog_check : progState.submitCheck 16 (progHead ++ zeros 40) = stOk := by decide +kernel
theorem full_check : progFull.submitCheck 16 (progHead ++ zeros 40) = stOk := by decide +kernel
theorem prog_block : progState.block 16 = progImage :=
  bytes_last progState [] (16 * 4096) 24 4072 progHead (by simp only [progState]) progHead_length (fun _ _ => rfl)
theorem prog_param : progState.block 8 = zeros 4096 := by
  have m : progState.mem = Tab.setRun 0 [] (16 * 4096) progHead := by simp only [progState]
  unfold State.block State.bytes
  rw [m, run_other _ _ _ _ _ _ (.inl (by decide))]
  exact List.eq_replicate_iff.2 ⟨by simp [Tab.getRun], fun x hx => by obtain ⟨i, -, rfl⟩ := List.mem_map.1 hx; rfl⟩
theorem prog_okA : progState.progBlockOk (leAt (progHead ++ zeros 40) 6 2) (leAt (progHead ++ zeros 40) 8 2) 16 = true := by
  have g : leAt (progHead ++ zeros 40) 8 2 = 1 := by decide +kernel
  have c : leAt (progHead ++ zeros 40) 6 2 = 1 := by decide +kernel
  have v : progState.verify 16 1 0x3E = .verified := by
    rw [verify_of progState 16 1 0x3E progImage prog_block]
    decide +kernel
  rw [g, c, State.progBlockOk, v]
  rfl
theorem prog_okB : progState.progBlockOk (leAt (progHead ++ zeros 40) 6 2) (leAt (progHead ++ zeros 40) 8 2)
    (leAt (progHead ++ zeros 40) 16 8) = true := by
  have g : leAt (progHead ++ zeros 40) 8 2 = 1 := by decide +kernel
  have c : leAt (progHead ++ zeros 40) 6 2 = 1 := by decide +kernel
  have p : leAt (progHead ++ zeros 40) 16 8 = 8 := by decide +kernel
  have v : progState.verify 8 1 0x3E = .verified := by
    rw [State.verify, prog_param, crc_zeros]
    decide +kernel
  rw [g, c, p, State.progBlockOk, v]
  rfl
/-- A recipe image (R69) with the conversion from FP32 to FP32 and one vector that converts 1.0. -/
def recipeImage : Bytes :=
  [toLe 4 0x5A524350, toLe 2 1, toLe 2 0x0300, toLe 2 1, toLe 1 1, toLe 1 2, toLe 4 240,
   toBe 48 0x06bfdb49e650c5f15f312560fef5135833cdadecb629002eb581b025b37915458cf1256af69c5508e2ae6ff2fbc76492, zeros 64,
   toLe 2 3, zeros 2, toLe 4 0xA0, toLe 4 16, zeros 4, toLe 2 6, zeros 2, toLe 4 0xB0, toLe 4 64, zeros 4,
   toLe 2 1, [2, 2, 1, 0], zeros 10, toLe 2 1, zeros 22, toLe 4 4, toLe 4 4, toLe 4 0x3F800000, zeros 12, toLe 4 0x3F800000, zeros 12].flatten

def rcpState : State := { mem := Tab.setRun 0 [] 0 recipeImage, rcpLoads := [{ len := 240 }] }

theorem rcp_length : recipeImage.length = 240 := by decide +kernel
theorem rcp_bytes : rcpState.bytes (0 * 4096) 240 = recipeImage := by
  exact (bytes_last rcpState [] 0 240 0 recipeImage (by simp only [rcpState]) rcp_length (fun _ _ => rfl)).trans (by simp [zeros])

theorem rcp_image : ∃ r, checkImage recipeImage none = .ok r := ok_of _ (by decide +kernel)
theorem rcp_ok : checkImage (rcpState.bytes (0 * 4096) 240) none = .ok rcp_image.choose := by
  rw [rcp_bytes]
  exact rcp_image.choose_spec

/-- An empty memory holds a draft without shards, of one chip. -/
theorem zero_draft (w : State) (b : Nat) (h : w.mem = []) :
    leAt (w.block b) 16 2 = 0 ∧ leAt (w.block b) 18 2 = 0 ∧ manShards (w.block b) = [] := by
  rw [block_zero w b h]
  refine ⟨by decide +kernel, by decide +kernel, ?_⟩
  rw [manShards, show leAt (zeros 4096) 0xC 2 = 0 by decide +kernel]
  rfl

theorem zero_drafts (l : List State) (a r b : Nat) (h : l.all (fun w => w.mem == []) = true) (ha : a = 0) (hr : r = 0) (s : State) :
    ∀ w, w ∈ l → leAt (w.block b) 16 2 = a ∧ leAt (w.block b) 18 2 = r ∧ ∀ x, x ∈ manShards (w.block b) → s.inIndex x.blk (x.blocks + 1) = false := by
  intro w hw
  have m : w.mem = [] := by simpa using List.all_eq_true.1 h w hw
  obtain ⟨h1, h2, h3⟩ := zero_draft w b m
  subst ha hr
  exact ⟨h1, h2, by rw [h3]; nofun⟩

/-- A step of a paired context whose group 0 and whose end the block has sent, and a message of the partner about it. -/
def pairSlot : Slot := { st := .open_, step := 1, grpSent := [0], stepSent := true }
def pairState : State := { ctxs := [(1, { st := .live, slots := [pairSlot, {}, {}, {}] })], pairings := [{ ctx := 1, partner := 7 }] }
def pairMsg (kind count n flags : Nat) (ds : List Nat) : PeerMsg := sent { src := 7, cls := 1, body := pairBody kind count 1 1 n flags ds }

theorem pair_group (g : Nat) : pairSlot.grpSent.contains g = true ∨ pairSlot.group g = none := by
  right
  have h : pairSlot.groupOps g = [6 * g + 0, 6 * g + 1, 6 * g + 2, 6 * g + 3, 6 * g + 4, 6 * g + 5] := by
    simp [Slot.groupOps, pairSlot, List.range, List.range.loop]
  rw [Slot.group, h, List.mapM_cons]
  rfl

theorem pair_slot (j : Nat) (h : j ≠ 0) : (pairState.slot 1 j).live = false :=
  match j with
  | 0 => absurd rfl h
  | 1 => rfl
  | 2 => rfl
  | 3 => rfl
  | _ + 4 => rfl

/-- A test-content image (R358) of version 1 with one test, signed with the private key 1 and the nonce 1. -/
def tcHead : Bytes :=
  [toLe 4 0x5A544354, toLe 2 0x0300, toLe 2 1, toLe 2 1, toLe 2 0, toLe 4 1024, toBe 48 0xfb215ee8e97264a731aa50305b6cc5bc25a05942aabd4dc4ff6eb40add8d8c2f685b7eb6784cd180f1c938a1afab291c,
   toLe 48 p384Gx, toLe 48 p384Gy, zeros 96].flatten
def tcBody : Bytes := [toLe 2 3, [1, 1], toLe 4 0, toLe 4 1, toLe 4 0, toLe 4 128, toLe 4 64, zeros 648].flatten
def tcImage : Bytes := tcHead ++ toLe 48 p384Gx ++ toLe 48 0xc4f46f45d472ba4b07a8c1d9d89913698cc4a4a0cd12436bd5c4be3fab9efe211fd9751414c4abcbd4b495abf6c377f6 ++ tcBody
def tcState : State := { fuse := { words := fleetFuses }, mem := Tab.setRun 0 [] 0 tcImage, tcLoad := some { len := 1024 } }

theorem tc_length : tcImage.length = 1024 := by decide +kernel
theorem tc_bytes : tcState.bytes (0 * 4096) (min 1024 (4194304 + 16)) = tcImage :=
  (bytes_last tcState [] 0 1024 0 tcImage (by simp only [tcState]) tc_length (fun _ _ => rfl)).trans (by simp [zeros])

theorem tc_ok (s : State) (h : s.fleetHash = fleetFuses.flatMap (toLe 8)) (v : s.content.version = 0) : s.checkContent tcImage = stOk := by
  have l := tc_length
  have k : sha384 (slice tcImage 0x40 96) = fleetFuses.flatMap (toLe 8) := by decide +kernel
  have e : ecdsaVerify (slice tcImage 0x40 96) (slice tcImage 0x100 96) (slice tcImage 0 0x100) = true := by decide +kernel
  have c : sha384 (tcImage.drop 0x160) = slice tcImage 0x10 48 := by decide +kernel
  have m : leAt tcImage 0 4 = 0x5A544354 := by decide +kernel
  have n : leAt tcImage 12 4 = 1024 := by decide +kernel
  have t : leAt tcImage 8 2 = 1 := by decide +kernel
  have z : (leAt tcImage 10 2 == 0 && leAt tcImage 0xF0 16 == 0 && (List.range 5).all (fun k => leAt tcImage (0xAE + 16 * k) 2 == 0)) = true := by
    decide +kernel
  have r : versionOk (leAt tcImage 4 2) = true := by decide +kernel
  have o : (testPlaces 1).all (testOk tcImage 1) = true := by decide +kernel
  have d : ((contentOf tcImage).tests.map TestEnt.id).Nodup := by decide +kernel
  have u : leAt tcImage 6 2 = 1 := by decide +kernel
  unfold State.checkContent
  simp only [l, k, e, c, m, n, t, z, r, o, u, h, v]
  simp [d]

/-- The hypotheses of StepRunsFrontOfQueue can be met, clause by clause. -/
theorem witness_StepRunsFrontOfQueue :
    (∃ (c : Instr) (rest : List Instr) (s : State), s.pending = c :: rest) :=
  ⟨.powerOnReset, [], { pending := [.powerOnReset] }, rfl⟩

/-- The hypotheses of ResetValues can be met, clause by clause. -/
theorem witness_ResetValues :
    (∃ (p : Nat × Nat), p ∈ [(Reg.hubScrubCtrl, 4096), (Reg.hubSieveRate, 1073742848), (Reg.hubSieveRate64, 256), (Reg.hubSieveCfg, 8), (Reg.hubPairCtrl, 4196), (Reg.hubBuddyCtrl, 50), (Reg.hubWhiskCtrl, 3932360), (Reg.hubSuspCfg, 2108), (Reg.hubWatchCtrl, 34867812), (Reg.colCtrl, 1), (Reg.lidCtrl, 2), (Reg.ktlWdog, 50), (Reg.mtrStatus, 0), (Reg.lidStatus, 0), (Reg.hubJrnlBase, 0)]) :=
  ⟨(Reg.hubJrnlBase, 0), by decide +kernel⟩

/-- The hypotheses of IdleStepAdvancesTimeBase can be met, clause by clause. -/
theorem witness_IdleStepAdvancesTimeBase :
    (∃ (s : State), s.pending = []) ∧
    (∃ (s : State) (t : State), s.pending = [] ∧ step s = Host.Outcome.next t ∧ (s.time + 1) % 64 ≠ 0) ∧
    (∃ (s : State) (t : State) (u : Nat), s.pending = [] ∧ step s = Host.Outcome.next t ∧ (s.time + 1) % 64 = 0 ∧ u < 256 ∧ s.isWatched u = true ∧ s.excluded u = true) :=
  ⟨⟨{}, rfl⟩,
   ⟨{}, _, rfl, rfl, by decide⟩,
   ⟨{ time := 63 }, _, 127, rfl, rfl, by decide +kernel, by decide, by decide +kernel, by decide +kernel⟩⟩

/-- The hypotheses of StepKeepsCanonicalForm can be met, clause by clause. -/
theorem witness_StepKeepsCanonicalForm :
    (∃ (s : State) (t : State), s.Inv ∧ step s = Host.Outcome.next t) :=
  ⟨{}, { time := 1 }, ⟨rfl, rfl, rfl⟩, rfl⟩

/-- The hypotheses of TimeBaseReads can be met, clause by clause. -/
theorem witness_TimeBaseReads :
    (∃ (a : Nat), a ∈ [Reg.hubTimeLo, Reg.hubTimeHi]) :=
  ⟨Reg.hubTimeLo, by decide +kernel⟩

/-- The hypotheses of ResetsAndFuses can be met, clause by clause. -/
theorem witness_ResetsAndFuses :
    (∃ (s : State), s.bring.resetCheck = none) ∧
    (∃ (s : State), s.bring.resetCheck = none ∧ s.safe = none ∧ s.liveCtxs = []) ∧
    (∃ (s : State) (d : Nat), s.fuse.done = false ∧ d < 2 ^ 64) ∧
    (∃ (s : State), s.fuse.done = false ∧ s.fuse.since + 1000000 ≤ s.time) ∧
    (∃ (s : State), s.fuse.done = false ∧ s.time < s.fuse.since + 1000000) :=
  ⟨⟨{}, by decide +kernel⟩,
   ⟨{}, by decide +kernel⟩,
   ⟨{}, 2 ^ 64 - 1, by decide +kernel⟩,
   ⟨{ time := 1000000 }, by decide +kernel⟩,
   ⟨{ time := 999999 }, by decide +kernel⟩⟩

/-- The hypotheses of EarlyBringUpStages can be met, clause by clause. -/
theorem witness_EarlyBringUpStages :
    (∃ (s : State), s.bring.log.length < 16) ∧
    (∃ (s : State) (tb : Sfdp) (listA : Bytes) (listB : Bytes) (l : Bytes), s.bring.stage = 1 ∧ s.bring.failed = false ∧ s.fuse.done = true ∧ s.fuse.failed = false ∧ s.bring.resetCheck = some true ∧ s.time ≤ 2000000 ∧ tb.signature = 1346651731 ∧ chooseCopy 528 4 listA listB = some l) ∧
    (∃ (s : State) (u : State) (dirA : Bytes) (dirB : Bytes) (img : Bytes), (s.bootVerifying = true ∧ u = s ∨ ∃ x, s.bootReading = true ∧ chooseCopy 60 20 dirA dirB = some x ∧ u = { s with kettle := { s.kettle with dirA := dirA, dirB := dirB, dirActive := leAt x 4 1 % 2, verifying := leAt x 4 1 % 2, slotSize := leAt x 0x10 4, bootStage := 2 } }) ∧ u.checkFw img = stOk) ∧
    (∃ (s : State), s.bootVerifying = true ∧ s.kettle.verifying = s.kettle.dirActive ∧ s.kettle.dirActive ≤ 1) ∧
    (∃ (s : State), s.bootVerifying = false ∧ s.bootReading = false) ∧
    (∃ (s : State), s.bring.stage = 3 ∧ s.bring.failed = false ∧ s.coreUp 0 = true ∧ s.time ≤ s.bring.started + 5000000) ∧
    (∃ (s : State), s.bring.stage = 4) :=
  ⟨⟨{ bring := { log := List.replicate 15 [] } }, by decide +kernel⟩,
   ⟨{ time := 2000000, fuse := { done := true }, bring := { resetCheck := some true } }, { signature := 0x50444653 }, zeros 532, zeros 532, zeros 532, rfl, rfl, rfl, rfl, rfl, by decide, rfl, zeroCopies 528 4⟩,
   ⟨bootFw, bootFw, [], [], fwImage, .inl ⟨rfl, rfl⟩, fw_ok _ (by decide +kernel) (by decide +kernel)⟩,
   ⟨{ bring := { stage := 2 }, kettle := { bootStage := 2, verifying := 1, dirActive := 1 } }, by decide +kernel⟩,
   ⟨{}, by decide +kernel⟩,
   ⟨{ up with time := 5000000, bring := { stage := 3 } }, by decide +kernel⟩,
   ⟨{ bring := { stage := 4 } }, by decide +kernel⟩⟩

/-- The hypotheses of LateBringUpStages can be met, clause by clause. -/
theorem witness_LateBringUpStages :
    (∃ (s : State), s.bring.stage = 5 ∧ s.bring.failed = false ∧ s.bring.started + s.bring.linkMs * 100000 ≤ s.time ∧ s.time ≤ s.bring.started + 10000000 + s.bring.linkMs * 100000) ∧
    (∃ (s : State), s.bring.stage = 5 ∧ s.bring.failed = false ∧ s.bring.started + 10000000 + s.bring.linkMs * 100000 < s.time) ∧
    (∃ (m : LinkMeas) (e2 : Option Nat) (d2 : Option Nat), (m.up = none ∨ m.err = none ∨ m.data = none ∨ e2 = none ∨ d2 = none)) ∧
    (∃ (s : State), s.bring.stage = 6 ∧ s.bring.released = false) ∧
    (∃ (s : State) (p : Nat), s.bring.stage = 6 ∧ (s.tileTest p).released = true ∧ (s.tileTest p).failed = none ∧ (s.ladle p).checked = none ∧ (s.ladle p).kat ≠ KatState.running ∧ s.bring.started + 3800000 ≤ s.time) ∧
    (∃ (s : State), s.bring.stage = 6 ∧ s.bring.released = true ∧ s.goodTiles.all s.tileEnded = true ∧ (∀ (p : Nat), (s.tileTest p).failed = none) ∧ (∀ (p : Nat), (s.ladle p).checked ≠ some false)) ∧
    (∃ (s : State), s.bring.stage = 7) :=
  ⟨⟨{ time := 200000, bring := { stage := 5, started := 100000, linkMs := 1 } }, by decide +kernel⟩,
   ⟨{ time := 10200001, bring := { stage := 5, started := 100000, linkMs := 1 } }, by decide +kernel⟩,
   ⟨{ up := some 1, err := some 0 }, some 0, some 0, by decide +kernel⟩,
   ⟨{ bring := { stage := 6 } }, by decide +kernel⟩,
   ⟨{ time := 3800000, bring := { stage := 6, tiles := [(127, { released := true })] } }, 127, by decide +kernel⟩,
   ⟨{ cfg := { ladles := 1 }, bring := { stage := 6, released := true, tiles := [(0, { released := true })] }, ladles := [(0, { checked := some true, inReset := false })] }, rfl, rfl, by decide +kernel, by intro p; rcases p with _ | p <;> rfl, fun p => match p with | 0 => (by decide +kernel) | _ + 1 => (by decide : (none : Option Bool) ≠ some false)⟩,
   ⟨{ bring := { stage := 7 } }, by decide +kernel⟩⟩

/-- The hypotheses of DefectsPartitionsJournalArea can be met, clause by clause. -/
theorem witness_DefectsPartitionsJournalArea :
    (∃ (s : State), s.bring.rewrite = true ∧ s.kettle.staging = none) ∧
    (∃ (s : State), s.memOn = true) ∧
    (∃ (s : State), s.memOn = false ∧ s.journal = [] ∧ s.kettle.refusals = []) :=
  ⟨⟨{ bring := { rewrite := true } }, by decide +kernel⟩,
   ⟨{ rwl := [Reg.hubJrnlBase] }, by decide +kernel⟩,
   ⟨{}, by decide +kernel⟩⟩

/-- The hypotheses of AirasRingFrames can be met, clause by clause. -/
theorem witness_AirasRingFrames :
    (∃ (s : State) (p : Nat) (payload : Nat) (seq : Nat) (crc : Nat), p < s.cfg.ladles ∧ (s.stop p).unreachable = false ∧ frameOk payload seq crc = true) ∧
    (∃ (s : State) (p : Nat) (payload : Nat) (seq : Nat) (crc : Nat), p < s.cfg.ladles ∧ (s.stop p).unreachable = false ∧ frameOk payload seq crc = false ∧ (s.stop p).resends < 3) ∧
    (∃ (s : State) (p : Nat) (payload : Nat) (seq : Nat) (crc : Nat), p < s.cfg.ladles ∧ (s.stop p).unreachable = false ∧ frameOk payload seq crc = false ∧ 3 ≤ (s.stop p).resends) ∧
    (∃ (s : State) (p : Nat) (payload : Nat) (seq : Nat) (crc : Nat), p < s.cfg.ladles ∧ (s.stop p).unreachable = false ∧ frameOk payload seq crc = false ∧ (if (s.stnStop (p / 8)).tile = p then (s.stnStop (p / 8)).resends else 0) < 3) ∧
    (∃ (s : State) (p : Nat) (payload : Nat) (seq : Nat) (crc : Nat), p < s.cfg.ladles ∧ (s.stop p).unreachable = false ∧ frameOk payload seq crc = false ∧ 3 ≤ if (s.stnStop (p / 8)).tile = p then (s.stnStop (p / 8)).resends else 0) :=
  ⟨⟨{  }, 127, 0, 0, (Config.airasCrc 0 0).toNat, by decide, rfl, by simp [frameOk]⟩,
   ⟨{ stops := [(127, { resends := 2 })] }, 127, 0, 0, 256, by decide, rfl, (by have h := (Config.airasCrc 0 0).isLt; simp [frameOk]; omega), by decide⟩,
   ⟨{ stops := [(127, { resends := 3 })] }, 127, 0, 0, 256, by decide, rfl, (by have h := (Config.airasCrc 0 0).isLt; simp [frameOk]; omega), by decide⟩,
   ⟨{ stnStops := [(15, { tile := 127, resends := 2 })] }, 127, 0, 0, 256, by decide, rfl, (by have h := (Config.airasCrc 0 0).isLt; simp [frameOk]; omega), by decide +kernel⟩,
   ⟨{ stnStops := [(15, { tile := 127, resends := 3 })] }, 127, 0, 0, 256, by decide, rfl, (by have h := (Config.airasCrc 0 0).isLt; simp [frameOk]; omega), by decide +kernel⟩⟩

/-- The hypotheses of DescriptorOpensOp can be met, clause by clause. -/
theorem witness_DescriptorOpensOp :
    (∃ (s : State) (p : Nat) (tag : Nat) (w : Nat) (spA : Option Sparse) (spB : Option Sparse), s.tileRuns p = true ∧ (s.ladle p).kat ≠ KatState.running ∧ (s.ladle p).nextTag = tag ∧ s.nameable p tag = none ∧ (s.ladle p).open_ < 4 ∧ s.descBad (Desc.ofWord w) spA spB = false ∧ (∀ (x : WhiskRun), x ∈ s.whisk → x.tile ≠ p)) ∧
    (∃ (s : State) (p : Nat) (tag : Nat), s.tileRuns p = true ∧ (s.ladle p).kat ≠ KatState.running ∧ ((s.ladle p).nextTag ≠ tag ∨ (s.nameable p tag).isSome = true)) ∧
    (∃ (s : State) (p : Nat) (tag : Nat), s.tileRuns p = true ∧ (s.ladle p).kat ≠ KatState.running ∧ (s.ladle p).nextTag = tag ∧ s.nameable p tag = none ∧ 4 ≤ (s.ladle p).open_) :=
  ⟨⟨{ tileWith 127 [] with ladles := [(127, { inReset := false, nextTag := 15 })] }, 127, 15, convWord, none, none, by decide +kernel⟩,
   ⟨tileWith 127 [], 127, 15, by decide +kernel⟩,
   ⟨{ tileWith 127 [] with ladles := [(127, { inReset := false, nextTag := 4, ops := (List.range 4).map (fun k => { convOp with tag := k }) })] }, 127, 4, by decide +kernel⟩⟩


/-- The hypotheses of BlockAndElementBeats can be met, clause by clause. -/
theorem witness_BlockAndElementBeats :
    (∃ (s : State) (p : Nat) (tag : Nat) (o : LOp) (region : Nat) (blk : Nat) (data : Bytes) (bcv : Nat), s.tileRuns p = true ∧ s.nameable p tag = some o ∧ o.consumed = false ∧ blk < (o.lay.region region).blocks ∧ ¬(region, blk) ∈ o.ing ∧ o.whisk = false ∧ List.length data = 4096 ∧ bcv < 2 ^ 64 ∧ verifyBlock (crc32cRaw data) bcv ((o.lay.region region).base + blk) o.d.gen ((o.lay.region region).fmtAt blk) = Verify.verified) ∧
    (∃ (s : State) (p : Nat) (tag : Nat) (o : LOp) (region : Nat) (blk : Nat) (data : Bytes) (bcv : Nat), s.tileRuns p = true ∧ s.nameable p tag = some o ∧ o.consumed = false ∧ blk < (o.lay.region region).blocks ∧ ¬(region, blk) ∈ o.ing ∧ o.whisk = false ∧ List.length data = 4096 ∧ bcv < 2 ^ 64 ∧ verifyBlock (crc32cRaw data) bcv ((o.lay.region region).base + blk) o.d.gen ((o.lay.region region).fmtAt blk) = Verify.poisoned) ∧
    (∃ (s : State) (p : Nat) (tag : Nat) (o : LOp) (blk : Nat) (data : Bytes), s.tileRuns p = true ∧ s.nameable p tag = some o ∧ blk < o.lay.out.blocks ∧ lookup o.egr blk = none ∧ o.whisk = false ∧ List.length data = 4096) ∧
    (∃ (s : State) (p : Nat) (tag : Nat) (o : LOp) (kind : Nat) (row : Nat) (col : Nat) (run : List Nat), s.tileRuns p = true ∧ s.nameable p tag = some o ∧ o.closed = false ∧ o.repeats kind (o.run kind row col run) = false) ∧
    (∃ (s : State) (p : Nat) (tag : Nat) (o : LOp) (row : Nat) (col : Nat) (lanes : List (Option OutEl)), s.tileRuns p = true ∧ s.nameable p tag = some o ∧ o.closed = false ∧ o.egr = [] ∧ (∀ (x : Nat × OutEl), x ∈ laneEls row col (s.laneCut p lanes) → o.lay.out.holds x.fst = true ∧ lookup o.outs x.fst = none) ∧ (List.map Prod.fst (laneEls row col (s.laneCut p lanes))).Nodup) ∧
    (∃ (s : State) (p : Nat) (tag : Nat) (o : LOp) (col : Nat) (lanes : List (Option OutEl)), s.tileRuns p = true ∧ s.nameable p tag = some o ∧ o.closed = false ∧ o.egr = [] ∧ (∀ (x : Nat × Nat), x ∈ laneScales col (s.laneCut p lanes) → x.fst < o.lay.out.groups ∧ lookup o.scOut x.fst = none) ∧ (List.map Prod.fst (laneScales col (s.laneCut p lanes))).Nodup) ∧
    (∃ (s : State) (p : Nat) (tag : Nat) (o : LOp) (flags : Nat), s.tileRuns p = true ∧ s.nameable p tag = some o ∧ o.closed = false ∧ flags < 64) :=
  ⟨⟨tileWith 127 [convOp], 127, 0, convOp, 0, 0, zeros 4096, bcvOfCrc 0 1 1 2 false 0, by decide +kernel, by decide +kernel, by decide +kernel, by decide +kernel, by decide +kernel, rfl, zeros_length 4096, by decide +kernel, by rw [crc_zeros]; decide +kernel⟩,
   ⟨tileWith 127 [convOp], 127, 0, convOp, 0, 0, zeros 4096, bcvOfCrc 0 1 1 2 true 0, by decide +kernel, by decide +kernel, by decide +kernel, by decide +kernel, by decide +kernel, rfl, zeros_length 4096, by decide +kernel, by rw [crc_zeros]; decide +kernel⟩,
   ⟨tileWith 127 [convOp], 127, 0, convOp, 0, zeros 4096, by decide +kernel, by decide +kernel, by decide +kernel, by decide +kernel, rfl, zeros_length 4096⟩,
   ⟨tileWith 127 [convOp], 127, 0, convOp, 0, 0, 0, [2 ^ 32 - 1], by decide +kernel⟩,
   ⟨tileWith 127 [convOp], 127, 0, convOp, 0, 0, [some { code := 1, delta := 0, spec := false }], by decide +kernel⟩,
   ⟨tileWith 127 [convOp], 127, 0, convOp, 63, [none], by decide +kernel⟩,
   ⟨tileWith 127 [convOp], 127, 0, convOp, 63, by decide +kernel⟩⟩

/-- The hypotheses of TapFindingsAndAcceptance can be met, clause by clause. -/
theorem witness_TapFindingsAndAcceptance :
    (∃ (o : LOp) (f : Finding), f ∈ o.found) ∧
    (∃ (s : State) (p : Nat) (tag : Nat) (o : LOp) (m : Nat), s.tileRuns p = true ∧ s.nameable p tag = some o ∧ (Tab.get { } s.cfg.tapId p).cmx = true ∧ m < 2 ^ 32 ∧ o.needCmx = true ∧ o.cmx = none) ∧
    (∃ (s : State) (p : Nat) (tag : Nat) (o : LOp), s.tileRuns p = true ∧ s.nameable p tag = some o ∧ o.closed = true ∧ o.needCmx = true ∧ o.cmx = none ∧ o.cmxLate = false) ∧
    (∃ (s : State) (p : Nat) (tag : Nat) (o : LOp), s.tileRuns p = true ∧ s.nameable p tag = some o ∧ (Tab.get { } s.cfg.tapId p).route = true ∧ o.closed = false ∧ o.d.isRoute = true ∧ o.rteLast = false) ∧
    (∃ (s : State) (p : Nat) (tag : Nat) (o : LOp) (x : Int) (y : Int) (z : Int), s.tileRuns p = true ∧ s.nameable p tag = some o ∧ s.answers = [(p, o.id, Accept.ok x y z)] ∧ (s.ladle p).ops = [o] ∧ o.tag = tag) :=
  ⟨⟨{ found := [.tap] }, .tap, by decide +kernel⟩,
   ⟨tileWith 0 [{ convOp with d := { convDesc with outFmt := 8 } }], 0, 0, { convOp with d := { convDesc with outFmt := 8 } }, 2 ^ 32 - 1, by decide +kernel⟩,
   ⟨tileWith 0 [{ { convOp with d := { convDesc with outFmt := 8 } } with closed := true }], 0, 0, { { convOp with d := { convDesc with outFmt := 8 } } with closed := true }, by decide +kernel⟩,
   ⟨tileWith 0 [{ d := { kind := 6 } }], 0, 0, { d := { kind := 6 } }, by decide +kernel⟩,
   ⟨{ tileWith 0 [convOp] with answers := [(0, 0, .ok 127 (-127) 0)] }, 0, 0, convOp, 127, -127, 0, by decide +kernel⟩⟩

/-- The hypotheses of VerdictSealsAndTileReset can be met, clause by clause. -/
theorem witness_VerdictSealsAndTileReset :
    (∃ (s : State) (p : Nat) (tag : Nat) (o : LOp), s.tileRuns p = true ∧ List.find? (fun x ↦ x.tag == tag && x.ready) (s.ladle p).ops = some o ∧ o.whisk = false ∧ o.accept ≠ Accept.stale ∧ o.accept ≠ Accept.refused) ∧
    (∃ (s : State) (p : Nat) (tag : Nat) (o : LOp), s.tileRuns p = true ∧ List.find? (fun x ↦ x.tag == tag && x.ready) (s.ladle p).ops = some o ∧ o.whisk = false ∧ (o.accept = Accept.stale ∨ o.accept = Accept.refused ∧ (s.ladle p).gateShut = false ∧ 0 < o.lay.out.blocks)) ∧
    (∃ (s : State) (p : Nat) (blk : Nat) (o : LOp), s.tileRuns p = true ∧ List.find? (fun x ↦ x.bcvLeft.any fun k ↦ x.lay.out.base + k == blk) (s.ladle p).ops = some o) ∧
    (∃ (s : State) (p : Nat), p < s.cfg.ladles ∧ (s.ladle p).inReset = false ∧ (∀ (w : WhiskRun), w ∈ s.whisk → w.tile ≠ p)) ∧
    (∃ (s : State) (p : Nat), s.tileRuns p = true ∧ (s.ladle p).kat = KatState.requested ∧ (s.ladle p).open_ = 0) ∧
    (∃ (s : State) (p : Nat), s.tileRuns p = true ∧ (s.ladle p).kat = KatState.running ∧ (∀ (k : Nat), (s.rst k).active = false)) :=
  ⟨⟨tileWith 0 [{ convOp with closed := true, rcp := some convRecipe, accept := .ok 0 0 0, outs := [(crd 0 0, { code := 0, delta := 0, spec := false })], egr := [(0, [])], egrDone := [0] }], 0, 0, { convOp with closed := true, rcp := some convRecipe, accept := .ok 0 0 0, outs := [(crd 0 0, { code := 0, delta := 0, spec := false })], egr := [(0, [])], egrDone := [0] }, by decide +kernel⟩,
   ⟨tileWith 0 [{ convOp with accept := .stale, closed := true, egr := [(0, [])], egrDone := [0] }], 0, 0, { convOp with accept := .stale, closed := true, egr := [(0, [])], egrDone := [0] }, by decide +kernel⟩,
   ⟨tileWith 0 [{ convOp with bcvLeft := [0] }], 0, 2, { convOp with bcvLeft := [0] }, by decide +kernel⟩,
   ⟨tileWith 127 [], 127, by decide +kernel⟩,
   ⟨{ ladles := [(0, { inReset := false, kat := .requested })] }, 0, by decide +kernel⟩,
   ⟨{ ladles := [(0, { inReset := false, kat := .running })] }, 0, by decide +kernel, by decide +kernel, fun k => match k with | 0 => rfl | 1 => rfl | 2 => rfl | 3 => rfl | _ + 4 => rfl⟩⟩


/-- The hypotheses of LidAcceptsOps can be met, clause by clause. -/
theorem witness_LidAcceptsOps :
    (∃ (s : State) (p : Nat) (id : Nat) (rest : List (Nat × Nat)) (o : LOp), s.lidQ = (p, id) :: rest ∧ List.find? (fun x ↦ x.id == id) (s.ladle p).ops = some o ∧ (o.d.ctx = 0 ∨ o.d.gen ≠ (s.ctx o.d.ctx).gen)) ∧
    (∃ (s : State) (p id : Nat) (rest : List (Nat × Nat)) (o : LOp) (k : Nat), s.lidQ = (p, id) :: rest ∧ List.find? (fun x ↦ x.id == id) (s.ladle p).ops = some o ∧ o.d.ctx ≠ 0 ∧ o.d.gen = (s.ctx o.d.ctx).gen ∧ (s.ctx o.d.ctx).st = CtxState.live ∧ ((s.ctx o.d.ctx).find fun x ↦ x.live && x.step == o.d.step) = some k ∧ s.lidDescErr (s.ctx o.d.ctx) (s.slot o.d.ctx k) o.d = false ∧ ({ s with lidQ := rest } : State).acceptRow (s.ctx o.d.ctx) (s.slot o.d.ctx k) o.d o.lay = 0) :=
  ⟨⟨{ ladles := [(5, { inReset := false, ops := [{ convOp with d := { convDesc with gen := 2 } }] })], lidQ := [(5, 0)] }, 5, 0, [], { convOp with d := { convDesc with gen := 2 } }, by decide +kernel⟩,
   ⟨{ ctxWith (openStep []) with ladles := [(5, { inReset := false, ops := [convOp] })], lidQ := [(5, 0)] }, 5, 0, [], convOp, 0, by decide +kernel⟩⟩

/-- The hypotheses of LidTakesReports can be met, clause by clause. -/
theorem witness_LidTakesReports :
    (∃ (s : State) (r : Report) (rest : List Report), s.reports = r :: rest ∧ r.d.ctx ≠ 0 ∧ (s.ctx r.d.ctx).gen ≠ r.d.gen ∧ s.tearing r.d.ctx r.d.gen = none) ∧
    (∃ (s : State) (r : Report) (rest : List Report) (i : Nat) (o : OpRec), s.reports = r :: rest ∧ r.d.ctx ≠ 0 ∧ (s.ctx r.d.ctx).gen = r.d.gen ∧ (s.ctx r.d.ctx).st = CtxState.live ∧ (s.ctx r.d.ctx).stepSlot r.d.step = some i ∧ (s.slot r.d.ctx i).st = SlotState.open_ ∧ (s.slot r.d.ctx i).op r.d.opseq = some o ∧ r.d.isRoute = false ∧ r.verdict = Verdict.pass ∧ o.d = r.d ∧ o.notAccepted = false ∧ o.verdict = none ∧ o.tile = r.tile ∧ o.st = OpState.accepted ∧ o.samples = 0 ∧ o.arb = false ∧ o.arbReseal = false ∧ o.routeHold = false ∧ o.escaped = false ∧ o.asked = [] ∧ r.cmx = none ∧ s.pairing r.d.ctx = none ∧ (s.slot r.d.ctx i).sieve.selects r.d (s.rcp r.d.slot).recipe (r.compared && !r.resOff) r.resOff = false) ∧
    (∃ (s : State) (r : Report) (rest : List Report) (i : Nat) (o : OpRec), s.reports = r :: rest ∧ r.d.ctx ≠ 0 ∧ (s.ctx r.d.ctx).gen = r.d.gen ∧ (s.ctx r.d.ctx).st = CtxState.live ∧ (s.ctx r.d.ctx).stepSlot r.d.step = some i ∧ (s.slot r.d.ctx i).st = SlotState.open_ ∧ (s.slot r.d.ctx i).op r.d.opseq = some o ∧ r.d.isRoute = false ∧ r.verdict = Verdict.failed ∧ r.found = [Finding.tap] ∧ r.seals = [] ∧ r.poison = [] ∧ 0 < (s.slot r.d.ctx i).replays) :=
  ⟨⟨{ ctxs := [(1, { st := .live, gen := 2 })], reports := [convReport .pass []] }, convReport .pass [], [], by decide +kernel⟩,
   ⟨{ ctxWith (openStep [convRec]) with reports := [convReport .pass []] }, convReport .pass [], [], 0, convRec, by decide +kernel⟩,
   ⟨{ ctxWith (openStep [convRec]) with reports := [convReport .failed [.tap]] }, convReport .failed [.tap], [], 0, convRec, by decide +kernel⟩⟩

/-- The hypotheses of HaltAckAndReplay can be met, clause by clause. -/
theorem witness_HaltAckAndReplay :
    (∃ (s : State) (m : PeerMsg) (k : Nat), s.accepts m = true ∧ m.cls = 0 ∧ m.kind = gkHaltAck ∧ (s.ctx (leAt m.body 2 2)).st = CtxState.live ∧ (s.ctx (leAt m.body 2 2)).gen = leAt m.body 4 2 ∧ ((s.ctx (leAt m.body 2 2)).find fun x ↦ x.st == SlotState.halted && x.step == leAt m.body 8 4) = some k) ∧
    (∃ (s : State) (m : PeerMsg), s.accepts m = true ∧ m.cls = 0 ∧ m.kind = gkHaltAck ∧ ((s.ctx (leAt m.body 2 2)).st ≠ CtxState.live ∨ (s.ctx (leAt m.body 2 2)).gen ≠ leAt m.body 4 2 ∨ ((s.ctx (leAt m.body 2 2)).find fun x ↦ x.st == SlotState.halted && x.step == leAt m.body 8 4) = none)) ∧
    (∃ (s : State) (m : PeerMsg), s.accepts m = true ∧ m.cls = 0 ∧ m.kind ≠ gkHaltAck) ∧
    (∃ (s : State) (c : Nat) (k : Nat), s.replayReady c k = true) :=
  ⟨⟨ctxWith { st := .halted, step := 3 }, sent { cls := 0, body := toLe 2 gkHaltAck ++ toLe 2 1 ++ toLe 2 1 ++ zeros 2 ++ toLe 4 3 }, 0, by decide +kernel⟩,
   ⟨ctxWith { st := .halted, step := 3 }, sent { cls := 0, body := toLe 2 gkHaltAck ++ toLe 2 1 ++ toLe 2 1 ++ zeros 2 ++ toLe 4 4 }, by decide +kernel, rfl, rfl, .inr (.inr (by decide +kernel))⟩,
   ⟨{}, sent { cls := 0, body := [1] }, by decide +kernel⟩,
   ⟨ctxWith { st := .halted, step := 3, ack := some 0, replays := 1 }, 1, 0, by decide +kernel⟩⟩

/-- The hypotheses of ReleaseCommitAndFree can be met, clause by clause. -/
theorem witness_ReleaseCommitAndFree :
    (∃ (s : State) (c : Nat) (k : Nat) (b : Nat), s.releasable c k b = true) ∧
    (∃ (s : State) (c : Nat) (k : Nat), s.commitReady c k = true ∧ ((s.stepRoutes c (s.ctx c).gen (s.slot c k).step).all fun r ↦ r.closed) = true ∧ (s.slot c k).provMode = 0 ∧ (s.slot c k).provDigest = none ∧ s.pairing c = none ∧ (s.ctx c).buddy = none) ∧
    (∃ (s : State) (c : Nat) (k : Nat), k < 4 ∧ (s.slot c k).st = SlotState.abandoned ∧ ((s.slot c k).ops.all fun o ↦ o.notAccepted || o.verdict.isSome) = true) ∧
    (∃ (s : State) (c : Nat) (k : Nat), s.commitReady c k = true ∧ (s.slot c k).provMode ≠ 0 ∧ (s.slot c k).provDigest = none) :=
  ⟨⟨ctxWith { openStep [{ convRec with st := .clear, verdict := some .pass, escaped := true }] with buckets := [(0, { named := true, last := some 0 })] }, 1, 0, 0, by decide +kernel⟩,
   ⟨ctxWith { openStep [{ convRec with st := .clear, verdict := some .pass, escaped := true }] with st := .ended, step := 1, n := 1 }, 1, 0, by decide +kernel⟩,
   ⟨ctxWith { st := .abandoned }, 1, 0, by decide +kernel⟩,
   ⟨ctxWith { openStep [{ convRec with st := .clear, verdict := some .pass, escaped := true }] with st := .ended, step := 1, n := 1, provMode := 1 }, 1, 0, by decide +kernel⟩⟩

/-- The hypotheses of MortarRunsJobs can be met, clause by clause. -/
theorem witness_MortarRunsJobs :
    (∃ (s : State) (l : Nat) (j : Job) (rest : List Job), s.queue = j :: rest ∧ j.kind ≠ JobKind.selfTest ∧ s.laneFor j = some l ∧ (j.kind = JobKind.arb ∨ s.inTime j = true) ∧ s.laneSvc = [] ∧ l < s.lanes.length) ∧
    (∃ (s : State) (u : State) (l : Nat) (j : Job) (r : Recipe), (s.lane l).job = some j ∧ j.kind = JobKind.sample ∧ j.ignored = false ∧ j.first = none ∧ s.bothStalled = false ∧ u = s.laneFree l ∧ u.heldRecipe j = some r ∧ u.badFetch j = none ∧ u.rcpGood (u.rcpBlk j.op.d.slot) (ceilDiv (u.rcp j.op.d.slot).len 4096) = true ∧ ((u.runOut j r).flagsOk && j.els.all (u.runOut j r).bits) = true) ∧
    (∃ (s : State) (u : State) (l : Nat) (j : Job) (r : Recipe) (a : Arb), (s.lane l).job = some j ∧ j.kind = JobKind.arb ∧ s.bothStalled = false ∧ u = s.laneFree l ∧ u.heldRecipe j = some r ∧ u.badFetch j = none ∧ u.rcpGood (u.rcpBlk j.op.d.slot) (ceilDiv (u.rcp j.op.d.slot).len 4096) = true ∧ List.find? (fun x ↦ x.job.id == j.id) u.arbs = some a) :=
  ⟨⟨{ lanes := [{ fenced := true }, {}, {}, {}], queue := [sampleJob] }, 1, sampleJob, [], by decide +kernel⟩,
   ⟨mortarAt sampleJob, (mortarAt sampleJob).laneFree 3, 3, sampleJob, convRecipe, rfl, rfl, rfl, rfl, rfl, rfl, rfl, sample_fetch, mortar_recipe _, by decide +kernel⟩,
   ⟨mortarAt arbJob, (mortarAt arbJob).laneFree 3, 3, arbJob, convRecipe, { job := arbJob }, rfl, rfl, rfl, rfl, rfl, arb_fetch, mortar_recipe _, rfl⟩⟩

/-- The hypotheses of SamplesAndArbitrations can be met, clause by clause. -/
theorem witness_SamplesAndArbitrations :
    (∃ (s : State) (c : Nat) (n : Nat) (q : Nat) (j : Job), s.inService ≠ [] ∧ List.find? (fun x ↦ x.kind == JobKind.sample && x.ctx == c && x.step == n && x.opseq == q && !s.inTime x) s.queue = some j) ∧
    (∃ (s : State) (j : Job) (rest : List Job), s.spill = j :: rest ∧ s.queue.length < 1024) ∧
    (∃ (s : State) (l : Nat) (j : Job), (s.lane l).job = some j ∧ j.kind = JobKind.selfTest ∧ s.laneSvc = []) ∧
    (∃ (s : State) (c : Nat) (n : Nat) (q : Nat) (a : Arb) (d : Decision), List.find? (fun x ↦ x.job.ctx == c && x.job.step == n && x.job.opseq == q && x.ended.isSome && (x.check.isSome || x.checkOver || decide (x.since + 5000 ≤ s.time))) s.arbs = some a ∧ a.ended = some d ∧ a.job.ignored = false) ∧
    (∃ (s : State) (u : State) (k : Nat) (l : RcpLoad) (r : Recipe) (v : Nat) (rest : List Nat) (lane : Nat), List.find? (fun x ↦ x.slot == k) s.rcpLoads = some l ∧ l.recipe = some r ∧ l.vectors = v :: rest ∧ l.katBad = false ∧ s.laneFor { avoid := l.avoid } = some lane ∧ s.samplePending = false ∧ u = { s with turn := if s.fixed = true then (lane + 1) % 4 else s.turn }) :=
  ⟨⟨{ time := 100000, queue := [sampleJob] }, 1, 0, 0, sampleJob, by decide +kernel⟩,
   ⟨{ spill := [{}] }, {}, [], by decide +kernel⟩,
   ⟨{ lanes := [{ fenced := true, job := some { kind := .selfTest } }, {}, {}, {}] }, 0, { kind := .selfTest }, by decide +kernel⟩,
   ⟨{ time := 5000, arbs := [{ ended := some .mortar }] }, 0, 0, 0, { ended := some .mortar }, .mortar, by decide +kernel⟩,
   ⟨{ rcpLoads := [{ recipe := some convRecipe, vectors := [0] }] }, _, 0, { recipe := some convRecipe, vectors := [0] }, convRecipe, 0, [], 0, by decide +kernel, rfl, rfl, rfl, by decide +kernel, by decide +kernel, rfl⟩⟩

/-- The hypotheses of ConfirmationsPatrolAndRoutes can be met, clause by clause. -/
theorem witness_ConfirmationsPatrolAndRoutes :
    (∃ (s : State) (u : State) (blk : Nat) (data : Bytes) (v : Nat) (c : Confirm), List.find? (fun x ↦ x.blk == blk) s.confirms = some c ∧ List.length data = 4096 ∧ v < 2 ^ 64 ∧ u = ((s.retire fun a ↦ a == Access.confirm blk).setBytes (blk * 4096) data).setSb blk v) ∧
    (∃ (s : State) (r : Report) (rest : List Report), s.routeQ = r :: rest ∧ List.find? (fun e ↦ e.is r.d.ctx r.d.gen r.d.step r.d.dimM) s.routes = none ∧ s.openRoutes < 512) ∧
    (∃ (s : State) (r : Report) (rest : List Report) (e : RouteEnt), s.routeQ = r :: rest ∧ List.find? (fun e ↦ e.is r.d.ctx r.d.gen r.d.step r.d.dimM) s.routes = some e ∧ e.full = false ∧ e.closed = false ∧ e.members.length + 1 < e.dimN) ∧
    (∃ (s : State), s.bit Reg.hubScrubCtrl 0 = true ∧ s.reg Reg.hubScrubFirst ≤ s.reg Reg.hubScrubPos ∧ s.reg Reg.hubScrubPos ≤ s.reg Reg.hubScrubLast ∧ (∀ (b : Nat), s.reg Reg.hubScrubPos * 64 ≤ b → b < s.reg Reg.hubScrubPos * 64 + 64 → bcvSealed (s.sbOf b) = false) ∧ (∀ (x : MemReq), x ∈ s.port0.all ++ s.port1.all → (∃ b, x.acc = Access.patrol b) → x.ctx = 0)) ∧
    (∃ (s : State), s.bit Reg.hubScrubCtrl 0 = false) ∧
    (∃ (s : State) (b : Nat), bcvSealed (s.sbOf b) = true ∧ bcvPoison (s.sbOf b) = false ∧ s.anyOutput b = false ∧ s.verify b (bcvGen (s.sbOf b)) (bcvFmt (s.sbOf b)) = Verify.verified) :=
  ⟨⟨{ confirms := [{ blk := 2 ^ 38 - 1 }] }, _, 2 ^ 38 - 1, zeros 4096, 2 ^ 64 - 1, { blk := 2 ^ 38 - 1 }, by decide +kernel, zeros_length 4096, by decide, rfl⟩,
   ⟨{ routeQ := [{}] }, {}, [], by decide +kernel⟩,
   ⟨{ routeQ := [{ d := { dimN := 3 } }], routes := [{ gen := 0, dimN := 3 }] }, { d := { dimN := 3 } }, [], { gen := 0, dimN := 3 }, by decide +kernel⟩,
   ⟨{ regs := [(Reg.hubScrubCtrl, 0x1001)] }, by decide +kernel, by decide +kernel, by decide +kernel, fun _ _ _ => (by decide : bcvSealed 0 = false), by intro x hx; cases hx⟩,
   ⟨{}, by decide +kernel⟩,
   ⟨{ sb := [(1, bcvOfCrc 0 1 1 2 false 0)] }, 1, by decide +kernel, by decide +kernel, by decide +kernel, (verify_zero _ _ _ _ rfl).trans (by decide +kernel)⟩⟩


/-- The hypotheses of CommandPortRejects can be met, clause by clause. -/
theorem witness_CommandPortRejects :
    (∃ (p : (Issue → Instr) × CmdSpec) (s : State) (q : CoreCmd) (c : Cmd), p ∈ sisCommands ∧ s.coreUp q.k = true ∧ q.opc = p.snd.opc ∧ q.a < 2 ^ 64 ∧ q.b < 2 ^ 64 ∧ q.c < 2 ^ 64 ∧ q.mod < 16 ∧ q.imm < 2 ^ 32 ∧ c = { ctx := q.ctx, a := q.a, b := q.b, c := q.c, mod := q.mod, imm := q.imm, tk := s.nextTicket, src := Src.core q.k } ∧ p.snd.query = false ∧ p.snd.row1 q.mod q.imm = true) ∧
    (∃ (p : (Issue → Instr) × CmdSpec) (s : State) (q : CoreCmd) (c : Cmd), p ∈ sisCommands ∧ s.coreUp q.k = true ∧ q.opc = p.snd.opc ∧ q.a < 2 ^ 64 ∧ q.b < 2 ^ 64 ∧ q.c < 2 ^ 64 ∧ q.mod < 16 ∧ q.imm < 2 ^ 32 ∧ c = { ctx := q.ctx, a := q.a, b := q.b, c := q.c, mod := q.mod, imm := q.imm, tk := s.nextTicket, src := Src.core q.k } ∧ p.snd.row1 q.mod q.imm = false ∧ p.snd.query = false ∧ p.snd.gone = true ∧ (s.ctx (p.snd.named c)).st = CtxState.terminated) ∧
    (∃ (p : (Issue → Instr) × CmdSpec) (s : State) (q : CoreCmd) (c : Cmd), p ∈ sisCommands ∧ s.coreUp q.k = true ∧ q.opc = p.snd.opc ∧ q.a < 2 ^ 64 ∧ q.b < 2 ^ 64 ∧ q.c < 2 ^ 64 ∧ q.mod < 16 ∧ q.imm < 2 ^ 32 ∧ c = { ctx := q.ctx, a := q.a, b := q.b, c := q.c, mod := q.mod, imm := q.imm, tk := s.nextTicket, src := Src.core q.k } ∧ p.snd.row1 q.mod q.imm = false ∧ p.snd.query = false ∧ (p.snd.gone = false ∨ (s.ctx (p.snd.named c)).st ≠ CtxState.terminated) ∧ p.snd.wide c = true) ∧
    (∃ (p : (Issue → Instr) × CmdSpec) (s : State) (q : CoreCmd) (c : Cmd), p ∈ sisCommands ∧ s.coreUp q.k = true ∧ q.opc = p.snd.opc ∧ q.a < 2 ^ 64 ∧ q.b < 2 ^ 64 ∧ q.c < 2 ^ 64 ∧ q.mod < 16 ∧ q.imm < 2 ^ 32 ∧ c = { ctx := q.ctx, a := q.a, b := q.b, c := q.c, mod := q.mod, imm := q.imm, tk := s.nextTicket, src := Src.core q.k } ∧ p.snd.row1 q.mod q.imm = false ∧ p.snd.query = false ∧ (p.snd.gone = false ∨ (s.ctx (p.snd.named c)).st ≠ CtxState.terminated) ∧ p.snd.wide c = false ∧ (∀ (own : Bool) (v : State), v ∈ [s, s.record (q.entry stIllegalState 0)] → (p.snd.body c v).snd ≠ Reply.no stBadOperand own) ∧ (s.bring.stage ≠ 8 ∧ p.snd.early = false ∨ s.safe ≠ none ∧ p.snd.safe c = true)) :=
  ⟨⟨(.ctxkill, specCtxkill), up, { opc := 0x11, mod := 1 }, _, by simp [sisCommands], by decide +kernel, rfl, by decide, by decide, by decide, by decide, by decide, rfl, rfl, by decide +kernel⟩,
   ⟨(.sckset, specSckset), { up with ctxs := [(1, { st := .terminated })] }, { opc := 0x24, ctx := 1 }, _, by simp [sisCommands], by decide +kernel, rfl, by decide, by decide, by decide, by decide, by decide, rfl, by decide +kernel, rfl, rfl, rfl⟩,
   ⟨(.stepopen, specStepopen), up, { opc := 0x20, ctx := 1, a := 2 ^ 32 }, _, by simp [sisCommands], by decide +kernel, rfl, by decide, by decide, by decide, by decide, by decide, rfl, by decide +kernel, rfl, .inr (by decide +kernel), by decide +kernel⟩,
   ⟨(.ctxkill, specCtxkill), { up with bring := { stage := 7 } }, { opc := 0x11, ctx := 1 }, _, by simp [sisCommands], by decide +kernel, rfl, by decide, by decide, by decide, by decide, by decide, rfl, by decide +kernel, rfl, .inr (by decide +kernel), by decide +kernel, (fun own v _ h => by simp only [specCtxkill, killCtx, reject] at h; split at h <;> simp [stIllegalState, stBadOperand] at h), .inl (by decide +kernel)⟩⟩

/-- The hypotheses of CommandsOfThreadsAndRings can be met, clause by clause. -/
theorem witness_CommandsOfThreadsAndRings :
    (∃ (p : (Issue → Instr) × CmdSpec) (s : State) (t : Nat) (id : Nat) (g : Program) (rd : Nat) (ra : Nat) (rb : Nat) (rc : Nat) (mod : Nat) (imm : Nat), p ∈ sisCommands ∧ rd < 16 ∧ ra < 16 ∧ rb < 16 ∧ rc < 16 ∧ mod < 16 ∧ imm < 2 ^ 32 ∧ s.runsWord t id g (encodeWord p.snd.opc rd ra rb rc mod imm)) ∧
    (∃ (u : State) (id : Nat) (g : Program) (st : Nat), u.program id = some g ∧ g.pc + 1 < g.length ∧ st ≠ stUnreachable) ∧
    (∃ (u : State) (id : Nat) (g : Program), u.program id = some g ∧ g.pc + 1 < g.length) ∧
    (∃ (u : State) (id : Nat) (g : Program), u.program id = some g ∧ g.pc + 1 < g.length ∧ u.bothStalled = false) ∧
    (∃ (p : (Issue → Instr) × CmdSpec) (s : State) (n : Nat) (index : Nat) (x : Taken) (u : State) (r : Reply) (j : Nat), p ∈ sisCommands ∧ s.taken n index = some x ∧ s.coreUp 0 = true ∧ x.handed = none ∧ x.served = false ∧ x.ran = false ∧ x.final = none ∧ x.e.kind = p.snd.opc ∧ x.e.issued < 16 ∧ x.e.imm < 2 ^ 32 ∧ x.index = index ∧ s.portCmd p.snd { ctx := x.e.ctx, a := x.e.a0, b := x.e.a1, c := x.e.a2, mod := x.e.issued, imm := x.e.imm, tk := s.nextTicket, src := Src.core 0, ring := some (n, index) } (Owner.ring n index x.e.cookie) (srcRing n) index x.e.cookie = (u, r, j)) :=
  ⟨⟨(.ctxkill, specCtxkill), runner prog2 (encodeWord 0x11 0 15 0 0 0 0), 31, 0, prog2, 0, 15, 0, 0, 0, 0, by simp [sisCommands], by decide, by decide, by decide, by decide, by decide, by decide, by unfold State.runsWord; decide +kernel⟩,
   ⟨runner prog2 0, 0, prog2, stPrivilege, by decide +kernel⟩,
   ⟨runner prog2 0, 0, prog2, by decide +kernel⟩,
   ⟨runner prog2 0, 0, prog2, by decide +kernel⟩,
   ⟨(.ctxkill, specCtxkill), ringWith 1 { kind := 0x11, ctx := 1 }, 1, 0, { e := { kind := 0x11, ctx := 1 } }, _, _, _, by simp [sisCommands], by decide +kernel, by decide +kernel, rfl, rfl, rfl, rfl, rfl, by decide +kernel, by decide, rfl, rfl⟩⟩

/-- The hypotheses of ProgramInstructions can be met, clause by clause. -/
theorem witness_ProgramInstructions :
    (∃ (s : State) (t : Nat) (id : Nat) (p : Program), s.runsWord t id p (encodeWord 0 0 0 0 0 0 0)) ∧
    (∃ (s : State) (t : Nat) (id : Nat) (p : Program) (rd : Nat) (mod : Nat) (imm : Nat), rd < 16 ∧ mod < 2 ∧ imm < 2 ^ 32 ∧ s.runsWord t id p (encodeWord 2 rd 0 0 0 mod imm)) ∧
    (∃ (s : State) (t : Nat) (id : Nat) (p : Program) (rd : Nat) (ra : Nat) (rb : Nat) (mod : Nat) (imm : Nat), rd < 16 ∧ ra < 16 ∧ rb < 16 ∧ mod < 7 ∧ imm < 2 ^ 32 ∧ s.runsWord t id p (encodeWord 3 rd ra rb 0 mod imm)) ∧
    (∃ (s : State) (t : Nat) (id : Nat) (p : Program) (ra : Nat) (rb : Nat) (mod : Nat) (imm : Nat), ra < 16 ∧ rb < 16 ∧ mod < 16 ∧ imm < 2 ^ 32 ∧ brBad mod imm 0 ra rb 0 = false ∧ s.runsWord t id p (encodeWord 4 0 ra rb 0 mod imm)) ∧
    (∃ (p : Program) (r : Nat) (v : Nat), r ≤ 15 ∧ p.regs.length = 15 ∧ v < 2 ^ 64) ∧
    (∃ (p : Program) (r : Nat) (v : Nat) (q : Nat), r ≤ 15 ∧ p.regs.length = 15 ∧ v < 2 ^ 64 ∧ q ≠ r ∧ q ≤ 15) ∧
    (∃ (s : State) (t : Nat) (id : Nat) (p : Program) (ra : Nat) (imm : Nat) (o : Nat) (rd : Nat), ra < 16 ∧ imm < 2 ^ 32 ∧ o = (p.g ra + sext32 imm) % 2 ^ 64 ∧ rd < 16 ∧ s.runsWord t id p (encodeWord 5 rd ra 0 0 0 imm) ∧ o % 8 = 0 ∧ o < 4096) ∧
    (∃ (s : State) (t : Nat) (id : Nat) (p : Program) (ra : Nat) (imm : Nat) (o : Nat) (rd : Nat), ra < 16 ∧ imm < 2 ^ 32 ∧ o = (p.g ra + sext32 imm) % 2 ^ 64 ∧ rd < 16 ∧ s.runsWord t id p (encodeWord 5 rd ra 0 0 0 imm) ∧ (o % 8 ≠ 0 ∨ 4096 ≤ o)) ∧
    (∃ (s : State) (t : Nat) (id : Nat) (p : Program) (ra : Nat) (imm : Nat) (o : Nat) (rb : Nat), ra < 16 ∧ imm < 2 ^ 32 ∧ o = (p.g ra + sext32 imm) % 2 ^ 64 ∧ rb < 16 ∧ s.runsWord t id p (encodeWord 7 0 ra rb 0 0 imm) ∧ o % 8 = 0 ∧ o < 4096 ∧ s.bothStalled = false) ∧
    (∃ (s : State) (t : Nat) (id : Nat) (p : Program) (ra : Nat) (imm : Nat) (o : Nat) (rb : Nat), ra < 16 ∧ imm < 2 ^ 32 ∧ o = (p.g ra + sext32 imm) % 2 ^ 64 ∧ rb < 16 ∧ s.runsWord t id p (encodeWord 7 0 ra rb 0 0 imm) ∧ (o % 8 ≠ 0 ∨ 4096 ≤ o)) :=
  ⟨⟨runner prog2 (encodeWord 0 0 0 0 0 0 0), 31, 0, prog2, by unfold State.runsWord; decide +kernel⟩,
   ⟨runner prog2 (encodeWord 2 15 0 0 0 1 (2 ^ 32 - 1)), 31, 0, prog2, 15, 1, 2 ^ 32 - 1, by decide, by decide, by decide, by unfold State.runsWord; decide +kernel⟩,
   ⟨runner prog2 (encodeWord 3 15 15 15 0 6 0), 31, 0, prog2, 15, 15, 15, 6, 0, by decide, by decide, by decide, by decide, by decide, by unfold State.runsWord; decide +kernel⟩,
   ⟨runner prog2 (encodeWord 4 0 0 0 0 0 0x7FFF0000), 31, 0, prog2, 0, 0, 0, 0x7FFF0000, by decide, by decide, by decide, by decide, by decide +kernel, by unfold State.runsWord; decide +kernel⟩,
   ⟨prog2, 15, 2 ^ 64 - 1, by decide +kernel⟩,
   ⟨prog2, 15, 2 ^ 64 - 1, 0, by decide +kernel⟩,
   ⟨runner prog2 (encodeWord 5 15 0 0 0 0 4088), 31, 0, prog2, 0, 4088, 4088, 15, by decide, by decide, by decide +kernel, by decide, by unfold State.runsWord; decide +kernel, by decide, by decide⟩,
   ⟨runner prog2 (encodeWord 5 15 0 0 0 0 4096), 31, 0, prog2, 0, 4096, 4096, 15, by decide, by decide, by decide +kernel, by decide, by unfold State.runsWord; decide +kernel, by decide⟩,
   ⟨runner prog2 (encodeWord 7 0 0 15 0 0 4088), 31, 0, prog2, 0, 4088, 4088, 15, by decide, by decide, by decide +kernel, by decide, by unfold State.runsWord; decide +kernel, by decide, by decide, by decide +kernel⟩,
   ⟨runner prog2 (encodeWord 7 0 0 15 0 0 4), 31, 0, prog2, 0, 4, 4, 15, by decide, by decide, by decide +kernel, by decide, by unfold State.runsWord; decide +kernel, by decide⟩⟩

/-- The hypotheses of ThreadsAndPrograms can be met, clause by clause. -/
theorem witness_ThreadsAndPrograms :
    (∃ (s : State) (t : Nat) (id : Nat) (p : Program) (rd : Nat) (ra : Nat) (k : Ticket), rd < 16 ∧ ra < 16 ∧ s.runsWord t id p (encodeWord 6 rd ra 0 0 0 0) ∧ p.tickets.contains (p.g ra) = true ∧ s.ticket (p.g ra) = some k ∧ k.done = true) ∧
    (∃ (s : State) (t : Nat) (id : Nat) (p : Program) (rd : Nat) (ra : Nat) (k : Ticket), rd < 16 ∧ ra < 16 ∧ s.runsWord t id p (encodeWord 6 rd ra 0 0 0 0) ∧ p.tickets.contains (p.g ra) = true ∧ s.ticket (p.g ra) = some k ∧ k.done = false) ∧
    (∃ (s : State) (t : Nat) (id : Nat) (p : Program) (imm : Nat), 0 < imm ∧ imm < 2 ^ 32 ∧ s.runsWord t id p (encodeWord 6 0 0 0 0 1 imm)) ∧
    (∃ (s : State) (t : Nat) (id : Nat) (p : Program) (ra : Nat) (ok : Bool), ra < 16 ∧ s.runsWord t id p (encodeWord 6 0 ra 0 0 2 0) ∧ List.find? (fun x ↦ x.fst == p.g ra) p.steps = some (p.g ra, ok)) ∧
    (∃ (s : State) (t : Nat) (id : Nat) (p : Program), s.runsWord t id p (encodeWord 8 0 0 0 0 0 0) ∧ s.runQ = []) ∧
    (∃ (s : State) (t : Nat) (id : Nat) (p : Program) (q : Nat) (rest : List Nat), s.runsWord t id p (encodeWord 8 0 0 0 0 0 0) ∧ s.runQ = q :: rest ∧ ¬q ∈ rest ∧ q ≠ id ∧ s.bothStalled = false) ∧
    (∃ (s : State) (t : Nat) (id : Nat) (p : Program), s.runsWord t id p (encodeWord 1 0 0 0 0 0 0) ∧ s.memOn = false ∧ s.coreUp 0 = false) ∧
    (∃ (s : State) (t : Nat) (id : Nat) (p : Program), t < 32 ∧ s.selected t = true ∧ (s.thread t).prog = some id ∧ s.program id = some p ∧ p.ctx = 0 ∧ s.bothStalled = false ∧ p.verified.contains p.codeBlk = false ∧ s.progBlockOk 0 p.gen p.codeBlk = false) ∧
    (∃ (s : State) (t : Nat) (id : Nat) (p : Program) (w : Nat), s.runsWord t id p w ∧ (listedOpcodes.contains (w / 2 ^ 56) = false ∨ w / 2 ^ 32 % 16 ≠ 0)) ∧
    (∃ (s : State) (t : Nat) (q : Nat) (rest : List Nat), t < 32 ∧ (s.thread t).st = ThreadState.idle ∧ s.runQ = q :: rest ∧ ¬q ∈ rest ∧ s.bothStalled = false) ∧
    (∃ (s : State) (t : Nat) (q : Nat), (s.thread t).st = ThreadState.swapping ∧ (s.thread t).prog = some q) ∧
    (∃ (s : State) (t : Nat) (id : Nat) (p : Program) (start : Nat) (us : Nat), t < 32 ∧ s.program id = some p ∧ p.wait = WaitFor.time start us ∧ (s.thread t).prog = some id ∧ (s.thread t).st = ThreadState.waiting ∧ (∀ (k : Nat), k < t → (s.thread k).prog ≠ some id) ∧ p.pc + 1 < p.length ∧ start + us * 100 ≤ s.time) ∧
    (∃ (s : State) (t : Nat) (id : Nat) (p : Program) (start : Nat) (us : Nat), t < 32 ∧ s.program id = some p ∧ p.wait = WaitFor.time start us ∧ (s.thread t).prog = some id ∧ (s.thread t).st = ThreadState.waiting ∧ (∀ (k : Nat), k < t → (s.thread k).prog ≠ some id) ∧ p.pc + 1 < p.length ∧ s.time < start + us * 100) :=
  ⟨⟨{ runner { prog2 with tickets := [0] } (encodeWord 6 15 0 0 0 0 0) with tickets := [(0, { done := true })] }, 31, 0, { prog2 with tickets := [0] }, 15, 0, { done := true }, by decide, by decide, by unfold State.runsWord; decide +kernel, by decide +kernel, by decide +kernel, rfl⟩,
   ⟨{ runner { prog2 with tickets := [0] } (encodeWord 6 15 0 0 0 0 0) with tickets := [(0, { done := false })] }, 31, 0, { prog2 with tickets := [0] }, 15, 0, { done := false }, by decide, by decide, by unfold State.runsWord; decide +kernel, by decide +kernel, by decide +kernel, rfl⟩,
   ⟨runner prog2 (encodeWord 6 0 0 0 0 1 1), 31, 0, prog2, 1, by decide, by decide, by unfold State.runsWord; decide +kernel⟩,
   ⟨runner { prog2 with steps := [(0, true)] } (encodeWord 6 0 15 0 0 2 0), 31, 0, { prog2 with steps := [(0, true)] }, 15, true, by decide, by unfold State.runsWord; decide +kernel, by decide +kernel⟩,
   ⟨runner prog2 (encodeWord 8 0 0 0 0 0 0), 31, 0, prog2, by unfold State.runsWord; decide +kernel, rfl⟩,
   ⟨{ runner prog2 (encodeWord 8 0 0 0 0 0 0) with runQ := [1] }, 31, 0, prog2, 1, [], by unfold State.runsWord; decide +kernel, rfl, by decide, by decide, by decide +kernel⟩,
   ⟨{ runner prog2 (encodeWord 1 0 0 0 0 0 0) with kettle := {} }, 31, 0, prog2, by unfold State.runsWord; decide +kernel, by decide +kernel, by decide +kernel⟩,
   ⟨{ up with threads := [(31, { st := .ready, prog := some 0 })], progs := [(0, { length := 1 })] }, 31, 0, { length := 1 }, by decide, by decide +kernel, rfl, rfl, rfl, by decide +kernel, by decide +kernel, by unfold State.progBlockOk; rw [verify_zero _ _ _ _ rfl]; decide +kernel⟩,
   ⟨runner prog2 (encodeWord 9 0 0 0 0 0 0), 31, 0, prog2, encodeWord 9 0 0 0 0 0 0, by unfold State.runsWord; decide +kernel, by decide +kernel⟩,
   ⟨{ up with runQ := [0], progs := [(0, prog2)] }, 31, 0, [], by decide, rfl, rfl, by decide, by decide +kernel⟩,
   ⟨{ threads := [(0, { st := .swapping, prog := some 0 })] }, 0, 0, by decide +kernel⟩,
   ⟨{ up with time := 1000, threads := [(0, { st := .waiting, prog := some 0 })], progs := [(0, { prog2 with wait := .time 0 10 })] }, 0, 0, { prog2 with wait := .time 0 10 }, 0, 10, by decide, rfl, rfl, rfl, rfl, (fun _ h => absurd h (Nat.not_lt_zero _)), by decide, by decide⟩,
   ⟨{ up with time := 999, threads := [(0, { st := .waiting, prog := some 0 })], progs := [(0, { prog2 with wait := .time 0 10 })] }, 0, 0, { prog2 with wait := .time 0 10 }, 0, 10, by decide, rfl, rfl, rfl, rfl, (fun _ h => absurd h (Nat.not_lt_zero _)), by decide, by decide⟩⟩


/-- The hypotheses of ContextLifeCycle can be met, clause by clause. -/
theorem witness_ContextLifeCycle :
    (∃ (s : State) (q : CoreCmd), q.opc = 16 ∧ s.serving q.k = true ∧ q.ctx = 0 ∧ q.a < 2 ^ 16 ∧ q.b < 2 ^ 64 ∧ q.c < 2 ^ 32 ∧ q.mod = 0 ∧ 0 < q.imm ∧ q.imm < 2 ^ 16 ∧ (s.ctx q.a).st = CtxState.free ∧ q.a ≠ 0) ∧
    (∃ (s : State) (q : CoreCmd), q.opc = 16 ∧ s.serving q.k = true ∧ q.ctx = 0 ∧ q.a < 2 ^ 16 ∧ q.b < 2 ^ 64 ∧ q.c < 2 ^ 32 ∧ q.mod = 0 ∧ 0 < q.imm ∧ q.imm < 2 ^ 16 ∧ ((s.ctx q.a).st = CtxState.live ∨ q.a = 0 ∧ (s.ctx 0).st ≠ CtxState.terminated)) ∧
    (∃ (s : State) (q : CoreCmd), q.opc = 17 ∧ s.serving q.k = true ∧ q.ctx = 0 ∧ q.a < 2 ^ 16 ∧ q.mod = 0 ∧ q.imm = 0 ∧ q.b < 2 ^ 64 ∧ q.c < 2 ^ 64 ∧ (s.ctx q.a).st = CtxState.live) ∧
    (∃ (s : State) (q : CoreCmd), q.opc = 17 ∧ s.serving q.k = true ∧ q.ctx = 0 ∧ q.a < 2 ^ 16 ∧ q.mod = 0 ∧ q.imm = 0 ∧ q.b < 2 ^ 64 ∧ q.c < 2 ^ 64 ∧ (s.ctx q.a).st = CtxState.free) ∧
    (∃ (s : State) (c : Nat), (s.ctx c).st = CtxState.live ∧ (s.ctx c).liveSlots = []) ∧
    (∃ (s : State) (c : Nat), (s.ctx c).st = CtxState.live) ∧
    (∃ (s : State) (c : Nat), (s.ctx c).st = CtxState.live) ∧
    (∃ (s : State) (c : Nat) (d : Nat), (s.ctx c).st = CtxState.live ∧ d ≠ c) ∧
    (∃ (s : State) (c : Nat) (k : Nat), (s.ctx c).st = CtxState.live ∧ k ∈ (s.ctx c).liveSlots) ∧
    (∃ (s : State) (q : CoreCmd) (k : Nat), q.opc = 18 ∧ s.serving q.k = true ∧ s.hasTicket = true ∧ q.ctx = 0 ∧ q.a < 2 ^ 16 ∧ q.mod = 0 ∧ q.imm = 0 ∧ q.b < 2 ^ 64 ∧ q.c < 2 ^ 64 ∧ (s.ctx q.a).st = CtxState.terminated ∧ (∀ (p : Nat × Program), p ∈ s.progs → p.snd.ctx ≠ q.a) ∧ s.freeTeardown = some k) ∧
    (∃ (s : State) (k : Nat) (v : Teardown), s.teardown k = some v ∧ v.phase = TdPhase.drain ∧ s.oldPrograms v = false ∧ v.count = 0 ∧ v.scrub = []) ∧
    (∃ (s : State) (k : Nat) (v : Teardown), s.teardown k = some v ∧ v.phase = TdPhase.drain ∧ (s.oldPrograms v = true ∨ 0 < v.count ∧ s.time < v.since + 100000)) ∧
    (∃ (s : State) (k : Nat) (v : Teardown) (tk : Ticket), s.teardown k = some v ∧ v.phase = TdPhase.scrub ∧ v.failed = false ∧ s.ticket v.ticket = some tk ∧ tk.owner = Owner.kettle 1 ∧ s.memOn = false) :=
  ⟨⟨up, { opc := 0x10, a := 65535, b := 2 ^ 64 - 1, c := 2 ^ 32 - 1, imm := 65535 }, by decide +kernel⟩,
   ⟨{ up with ctxs := [(1, { st := .live })] }, { opc := 0x10, a := 1, imm := 1 }, by decide +kernel⟩,
   ⟨{ up with ctxs := [(1, { st := .live })] }, { opc := 0x11, a := 1 }, by decide +kernel⟩,
   ⟨up, { opc := 0x11, a := 65535 }, by decide +kernel⟩,
   ⟨{ up with ctxs := [(1, { st := .live })] }, 1, by decide +kernel⟩,
   ⟨{ up with ctxs := [(1, { st := .live })] }, 1, by decide +kernel⟩,
   ⟨{ up with ctxs := [(1, { st := .live })] }, 1, by decide +kernel⟩,
   ⟨{ up with ctxs := [(1, { st := .live })] }, 1, 2, by decide +kernel⟩,
   ⟨{ up with ctxs := [(1, { st := .live, slots := [{ st := .open_, step := 1 }, {}, {}, {}] })] }, 1, 0, by decide +kernel⟩,
   ⟨{ up with ctxs := [(1, { st := .terminated })], teardowns := [{ slot := 0 }] }, { opc := 0x12, a := 1 }, 1, by decide +kernel⟩,
   ⟨{ teardowns := [{}] }, 0, {}, by decide +kernel⟩,
   ⟨{ teardowns := [{ count := 1 }], time := 99999 }, 0, { count := 1 }, by decide +kernel, rfl, .inr (by decide +kernel)⟩,
   ⟨{ teardowns := [{ phase := .scrub }], tickets := [(0, { owner := .kettle 1 })] }, 0, { phase := .scrub }, { owner := .kettle 1 }, by decide +kernel⟩⟩

/-- The hypotheses of StepsAndBuckets can be met, clause by clause. -/
theorem witness_StepsAndBuckets :
    (∃ (s : State) (q : CoreCmd), q.opc = 32 ∧ s.serving q.k = true ∧ q.ctx ≠ 0 ∧ q.a < 2 ^ 32 ∧ q.mod = 0 ∧ q.imm = 0 ∧ q.b < 2 ^ 64 ∧ q.c < 2 ^ 64 ∧ (s.ctx q.ctx).st = CtxState.live ∧ (s.ctx q.ctx).buddy = none ∧ (s.ctx q.ctx).mayOpen q.a = true) ∧
    (∃ (s : State) (q : CoreCmd), q.opc = 32 ∧ s.serving q.k = true ∧ q.ctx ≠ 0 ∧ q.a < 2 ^ 32 ∧ q.mod = 0 ∧ q.imm = 0 ∧ q.b < 2 ^ 64 ∧ q.c < 2 ^ 64 ∧ (s.ctx q.ctx).st = CtxState.live ∧ (s.ctx q.ctx).buddy = none ∧ (s.ctx q.ctx).mayOpen q.a = false) ∧
    (∃ (e : Ctx) (n : Nat), e.anyStep = false ∧ e.liveSlots = [] ∧ (e.slot ((e.committed + 1) % 2 ^ 32 % 4)).st = SlotState.free ∧ n < 2 ^ 32) ∧
    (∃ (s : State) (q : CoreCmd) (k : Nat), q.opc = 33 ∧ s.serving q.k = true ∧ q.ctx ≠ 0 ∧ q.a < 2 ^ 32 ∧ 0 < q.b ∧ q.b ≤ 2 ^ 24 ∧ q.c ≤ q.b ∧ q.mod = 0 ∧ q.imm = 0 ∧ s.stepOf q.ctx q.a = some k ∧ (s.slot q.ctx k).st = SlotState.open_ ∧ (s.slot q.ctx k).provMode = 0 ∧ s.pairing q.ctx = none ∧ (∀ (o : OpRec), o ∈ (s.slot q.ctx k).ops → o.notAccepted = false → o.d.opseq < q.b) ∧ (∀ (p : Nat × Bucket), p ∈ (s.slot q.ctx k).buckets → ∀ (l : Nat), p.snd.last = some l → l < q.c)) ∧
    (∃ (s : State) (q : CoreCmd) (k : Nat) (b : Nat), q.opc = 34 ∧ s.serving q.k = true ∧ q.ctx ≠ 0 ∧ q.a < 2 ^ 32 ∧ q.b < 2 ^ 24 ∧ q.mod < 2 ∧ b < 4096 ∧ (q.mod = 0 → q.imm = b ∧ q.c < 2 ^ 64) ∧ (q.mod = 1 → q.c = b ∧ q.imm = 0) ∧ (s.ctx q.ctx).st ≠ CtxState.terminated ∧ s.stepOf q.ctx q.a = some k ∧ (s.slot q.ctx k).live = true ∧ (s.slot q.ctx k).nulled = false ∧ ((s.slot q.ctx k).bucket b).last = none ∧ ((s.slot q.ctx k).bucket b).released = false ∧ ((s.slot q.ctx k).bucket b).nulled = false ∧ ((s.slot q.ctx k).n = 0 ∨ q.b < (s.slot q.ctx k).u)) ∧
    (∃ (s : State) (q : CoreCmd) (k : Nat) (b : Nat), q.opc = 34 ∧ s.serving q.k = true ∧ q.ctx ≠ 0 ∧ q.a < 2 ^ 32 ∧ q.b < 2 ^ 24 ∧ q.mod < 2 ∧ b < 4096 ∧ (q.mod = 0 → q.imm = b ∧ q.c < 2 ^ 64) ∧ (q.mod = 1 → q.c = b ∧ q.imm = 0) ∧ (s.ctx q.ctx).st ≠ CtxState.terminated ∧ s.stepOf q.ctx q.a = some k ∧ (s.slot q.ctx k).live = true ∧ (s.slot q.ctx k).nulled = false ∧ ((s.slot q.ctx k).bucket b).last ≠ none) ∧
    (∃ (s : State) (q : CoreCmd) (k : Nat), q.opc = 35 ∧ s.serving q.k = true ∧ q.ctx ≠ 0 ∧ q.a < 2 ^ 32 ∧ q.mod = 0 ∧ q.imm = 0 ∧ q.b < 2 ^ 64 ∧ q.c < 2 ^ 64 ∧ s.stepOf q.ctx q.a = some k ∧ (s.slot q.ctx k).live = true ∧ k < (s.ctx q.ctx).slots.length ∧ (s.ctx q.ctx).later (s.slot q.ctx k).step = []) :=
  ⟨⟨{ up with ctxs := [(1, { st := .live })] }, { opc := 0x20, ctx := 1, a := 2 ^ 32 - 1 }, by decide +kernel⟩,
   ⟨{ up with ctxs := [(1, { st := .live, anyStep := false })] }, { opc := 0x20, ctx := 1, a := 2 }, by decide +kernel⟩,
   ⟨{ anyStep := false, committed := 2 ^ 32 - 1 }, 0, by decide +kernel⟩,
   ⟨{ up with ctxs := [(1, { st := .live, slots := [{ st := .open_ }, {}, {}, {}] })] }, { opc := 0x21, ctx := 1, b := 2 ^ 24, c := 2 ^ 24 }, 0, by decide +kernel⟩,
   ⟨{ up with ctxs := [(1, { st := .live, slots := [{ st := .open_ }, {}, {}, {}] })] }, { opc := 0x22, ctx := 1, b := 2 ^ 24 - 1, c := 4095, mod := 1 }, 0, 4095, by decide +kernel⟩,
   ⟨{ up with ctxs := [(1, { st := .live, slots := [{ st := .open_, buckets := [(0, { last := some 0 })] }, {}, {}, {}] })] }, { opc := 0x22, ctx := 1 }, 0, 0, by decide +kernel⟩,
   ⟨{ up with ctxs := [(1, { st := .live, slots := [{ st := .open_ }, {}, {}, {}] })] }, { opc := 0x23, ctx := 1 }, 0, by decide +kernel⟩⟩

/-- The hypotheses of ScalesAndStepStatus can be met, clause by clause. -/
theorem witness_ScalesAndStepStatus :
    (∃ (s : State) (q : CoreCmd) (f : Nat) (m : Nat) (v : Nat), q.opc = 36 ∧ s.serving q.k = true ∧ q.mod = 0 ∧ q.imm < 2 ^ 15 ∧ q.a < 2 ^ 64 ∧ q.c < 2 ^ 64 ∧ (s.ctx q.ctx).st ≠ CtxState.terminated ∧ (fmtOf f).isSome = true ∧ f < 64 ∧ (∀ (x : Fmt), fmtOf f = some x → x.kind ≠ FKind.ieee) ∧ m < 16 ∧ v < 256 ∧ v ≠ 128 ∧ q.b = f + m * 2 ^ 8 + v * 2 ^ 16 ∧ s.sckLegal q.ctx q.imm = true) ∧
    (∃ (s : State) (q : CoreCmd) (f : Nat) (m : Nat) (v : Nat), q.opc = 36 ∧ s.serving q.k = true ∧ q.mod = 0 ∧ q.imm < 2 ^ 15 ∧ q.a < 2 ^ 64 ∧ q.c < 2 ^ 64 ∧ (s.ctx q.ctx).st ≠ CtxState.terminated ∧ (fmtOf f).isSome = true ∧ f < 64 ∧ (∀ (x : Fmt), fmtOf f = some x → x.kind ≠ FKind.ieee) ∧ m < 16 ∧ v < 256 ∧ v ≠ 128 ∧ q.b = f + m * 2 ^ 8 + v * 2 ^ 16 ∧ s.sckLegal q.ctx q.imm = false) ∧
    (∃ (s : State) (q : CoreCmd), q.opc = 38 ∧ s.serving q.k = true ∧ q.mod = 0 ∧ q.imm < 2 ^ 15 ∧ q.a < 2 ^ 64 ∧ q.b < 2 ^ 64 ∧ q.c < 2 ^ 64 ∧ (s.ctx q.ctx).st ≠ CtxState.terminated) ∧
    (∃ (s : State) (q : CoreCmd), q.opc = 37 ∧ s.coreUp q.k = true ∧ s.safe = none ∧ s.bring.stage = 8 ∧ q.mod = 0 ∧ q.a < 2 ^ 15 ∧ q.imm % 16 = 0 ∧ q.imm + List.length (s.sckEnt q.a).record ≤ 4096) ∧
    (∃ (s : State) (q : CoreCmd) (c : Cmd), q.opc = 37 ∧ s.coreUp q.k = true ∧ s.safe = none ∧ s.bring.stage = 8 ∧ q.mod = 0 ∧ q.a < 2 ^ 15 ∧ q.imm % 16 = 0 ∧ q.imm + List.length (s.sckEnt q.a).record ≤ 4096 ∧ c.a = q.a ∧ c.imm = q.imm ∧ c.mod = 0) ∧
    (∃ (s : State) (q : CoreCmd), q.opc = 39 ∧ s.coreUp q.k = true ∧ s.safe = none ∧ s.bring.stage = 8 ∧ q.a < 2 ^ 32 ∧ q.ctx ≠ 0 ∧ q.mod < 2 ∧ q.imm % 16 = 0 ∧ q.mod = 0 ∧ q.imm ≤ 3936 ∧ (s.ctx q.ctx).stats.valid = true ∧ (s.ctx q.ctx).stats.step = q.a) ∧
    (∃ (s : State) (q : CoreCmd) (c : Cmd), q.opc = 39 ∧ s.coreUp q.k = true ∧ s.safe = none ∧ s.bring.stage = 8 ∧ q.a < 2 ^ 32 ∧ q.ctx ≠ 0 ∧ q.mod < 2 ∧ q.imm % 16 = 0 ∧ q.mod = 0 ∧ q.imm ≤ 3936 ∧ (s.ctx q.ctx).stats.valid = true ∧ (s.ctx q.ctx).stats.step = q.a ∧ c.ctx = q.ctx ∧ c.a = q.a ∧ c.imm = q.imm ∧ c.mod = 0) ∧
    (∃ (s : State) (q : CoreCmd) (k : Nat), q.opc = 39 ∧ s.coreUp q.k = true ∧ s.safe = none ∧ s.bring.stage = 8 ∧ q.a < 2 ^ 32 ∧ q.ctx ≠ 0 ∧ q.mod < 2 ∧ q.imm % 16 = 0 ∧ q.mod = 1 ∧ q.imm ≤ 4080 ∧ (s.ctx q.ctx).stepSlot q.a = some k ∧ (s.slot q.ctx k).live = true) ∧
    (∃ (s : State) (q : CoreCmd) (k : Nat) (c : Cmd), q.opc = 39 ∧ s.coreUp q.k = true ∧ s.safe = none ∧ s.bring.stage = 8 ∧ q.a < 2 ^ 32 ∧ q.ctx ≠ 0 ∧ q.mod < 2 ∧ q.imm % 16 = 0 ∧ q.mod = 1 ∧ q.imm ≤ 4080 ∧ (s.ctx q.ctx).stepSlot q.a = some k ∧ (s.slot q.ctx k).live = true ∧ c.ctx = q.ctx ∧ c.a = q.a ∧ c.imm = q.imm ∧ c.mod = 1) :=
  ⟨⟨{ up with ctxs := [(1, { st := .live })] }, { opc := 0x24, ctx := 1, imm := 2 ^ 15 - 1, b := 8 + 15 * 2 ^ 8 + 255 * 2 ^ 16 }, 8, 15, 255, rfl, by decide +kernel, rfl, by decide, by decide, by decide, by decide +kernel, rfl, by decide, (fun x h => by cases h; decide), by decide, by decide, by decide, by decide, by decide +kernel⟩,
   ⟨up, { opc := 0x24, ctx := 1, b := 8 }, 8, 0, 0, rfl, by decide +kernel, rfl, by decide, by decide, by decide, by decide +kernel, rfl, by decide, (fun x h => by cases h; decide), by decide, by decide, by decide, by decide, by decide +kernel⟩,
   ⟨up, { opc := 0x26, ctx := 1, imm := 2 ^ 15 - 1 }, by decide +kernel⟩,
   ⟨up, { opc := 0x25, a := 2 ^ 15 - 1, imm := 4016 }, by decide +kernel⟩,
   ⟨up, { opc := 0x25, a := 2 ^ 15 - 1, imm := 4016 }, { a := 2 ^ 15 - 1, imm := 4016 }, by decide +kernel⟩,
   ⟨{ up with ctxs := [(1, { stats := { valid := true } })] }, { opc := 0x27, ctx := 1, imm := 3936 }, by decide +kernel⟩,
   ⟨{ up with ctxs := [(1, { stats := { valid := true } })] }, { opc := 0x27, ctx := 1, imm := 3936 }, { ctx := 1, imm := 3936 }, by decide +kernel⟩,
   ⟨{ up with ctxs := [(1, { st := .live, slots := [{ st := .open_ }, {}, {}, {}] })] }, { opc := 0x27, ctx := 1, mod := 1, imm := 4080 }, 0, by decide +kernel⟩,
   ⟨{ up with ctxs := [(1, { st := .live, slots := [{ st := .open_ }, {}, {}, {}] })] }, { opc := 0x27, ctx := 1, mod := 1, imm := 4080 }, 0, { ctx := 1, mod := 1, imm := 4080 }, by decide +kernel⟩⟩

/-- The hypotheses of RecipesAndSealEngine can be met, clause by clause. -/
theorem witness_RecipesAndSealEngine :
    (∃ (s : State) (q : CoreCmd), q.opc = 24 ∧ s.serving q.k = true ∧ s.hasTicket = true ∧ q.ctx = 0 ∧ q.mod = 0 ∧ q.a + (q.b + 4095) / 4096 ≤ 2 ^ 38 ∧ q.a < 2 ^ 38 ∧ 256 ≤ q.b ∧ q.b ≤ 65536 ∧ q.b % 16 = 0 ∧ q.imm < 256 ∧ q.c < 2 ^ 64 ∧ (s.ctx 0).st ≠ CtxState.terminated ∧ s.rwl.contains Reg.hubRcpBase = true ∧ (s.rcp q.imm).st = RcpState.empty ∧ s.bothStalled = false) ∧
    (∃ (s : State) (q : CoreCmd), q.opc = 24 ∧ s.serving q.k = true ∧ s.hasTicket = true ∧ q.ctx = 0 ∧ q.mod = 0 ∧ q.a + (q.b + 4095) / 4096 ≤ 2 ^ 38 ∧ q.a < 2 ^ 38 ∧ 256 ≤ q.b ∧ q.b ≤ 65536 ∧ q.b % 16 = 0 ∧ q.imm < 256 ∧ q.c < 2 ^ 64 ∧ (s.ctx 0).st ≠ CtxState.terminated ∧ s.rwl.contains Reg.hubRcpBase = true ∧ (s.rcp q.imm).st = RcpState.loading) ∧
    (∃ (s : State) (n : Nat) (l : RcpLoad) (st : Nat), List.find? (fun x ↦ x.slot == n) s.rcpLoads = some l ∧ l.slot = n ∧ s.memOn = false ∧ (∀ (k : Ticket), s.ticket l.ticket = some k → k.owner = Owner.kettle 0) ∧ l.recipe = none ∧ s.bothStalled = false ∧ checkImage (s.bytes (l.blk * 4096) l.len) l.pinned = Except.error st) ∧
    (∃ (s : State) (n : Nat) (l : RcpLoad) (r : Recipe), List.find? (fun x ↦ x.slot == n) s.rcpLoads = some l ∧ l.slot = n ∧ s.memOn = false ∧ (∀ (k : Ticket), s.ticket l.ticket = some k → k.owner = Owner.kettle 0) ∧ l.recipe = none ∧ s.bothStalled = false ∧ checkImage (s.bytes (l.blk * 4096) l.len) l.pinned = Except.ok r) ∧
    (∃ (s : State) (n : Nat) (l : RcpLoad) (r : Recipe), List.find? (fun x ↦ x.slot == n) s.rcpLoads = some l ∧ l.slot = n ∧ s.memOn = false ∧ (∀ (k : Ticket), s.ticket l.ticket = some k → k.owner = Owner.kettle 0) ∧ l.recipe = some r ∧ l.katBad = false ∧ l.vectors = []) ∧
    (∃ (s : State) (q : CoreCmd), q.opc = 25 ∧ s.serving q.k = true ∧ q.ctx = 0 ∧ q.mod = 0 ∧ q.a < 2 ^ 64 ∧ q.b < 2 ^ 64 ∧ q.c < 2 ^ 64 ∧ q.imm < 256 ∧ (s.ctx 0).st ≠ CtxState.terminated ∧ (s.rcp q.imm).st = RcpState.active) ∧
    (∃ (s : State) (q : CoreCmd), q.opc = 25 ∧ s.serving q.k = true ∧ q.ctx = 0 ∧ q.mod = 0 ∧ q.a < 2 ^ 64 ∧ q.b < 2 ^ 64 ∧ q.c < 2 ^ 64 ∧ q.imm < 256 ∧ (s.ctx 0).st ≠ CtxState.terminated ∧ (s.rcp q.imm).st = RcpState.loading) ∧
    (∃ (s : State) (q : CoreCmd) (src : Nat) (n : Nat) (gen : Nat) (fmt : Nat), s.serving q.k = true ∧ s.hasTicket = true ∧ q.ctx = 0 ∧ q.mod = 0 ∧ (s.ctx 0).st ≠ CtxState.terminated ∧ gen < 2 ^ 16 ∧ fmt < 64 ∧ fmtListed fmt = true ∧ q.imm = gen + fmt * 2 ^ 16 ∧ q.a = src ∧ 0 < n ∧ n < 2 ^ 24 ∧ src + n ≤ 2 ^ 38 ∧ s.sealQ.length < 9 ∧ q.opc = 48 ∧ q.b = n ∧ q.c < 2 ^ 64 ∧ s.inIndex src n = false) ∧
    (∃ (s : State) (q : CoreCmd) (src : Nat) (n : Nat) (gen : Nat) (fmt : Nat), s.serving q.k = true ∧ s.hasTicket = true ∧ q.ctx = 0 ∧ q.mod = 0 ∧ (s.ctx 0).st ≠ CtxState.terminated ∧ gen < 2 ^ 16 ∧ fmt < 64 ∧ fmtListed fmt = true ∧ q.imm = gen + fmt * 2 ^ 16 ∧ q.a = src ∧ 0 < n ∧ n < 2 ^ 24 ∧ src + n ≤ 2 ^ 38 ∧ s.sealQ.length < 9 ∧ q.opc = 49 ∧ q.b + n ≤ 2 ^ 38 ∧ q.c = n ∧ s.inIndex q.b n = false) ∧
    (∃ (s : State) (q : CoreCmd) (src : Nat) (n : Nat) (gen : Nat) (fmt : Nat), s.serving q.k = true ∧ s.hasTicket = true ∧ q.ctx = 0 ∧ q.mod = 0 ∧ (s.ctx 0).st ≠ CtxState.terminated ∧ gen < 2 ^ 16 ∧ fmt < 64 ∧ fmtListed fmt = true ∧ q.imm = gen + fmt * 2 ^ 16 ∧ q.a = src ∧ 0 < n ∧ n < 2 ^ 24 ∧ src + n ≤ 2 ^ 38 ∧ s.sealQ.length < 9 ∧ q.opc = 50 ∧ q.b = n ∧ q.c < 2 ^ 64) ∧
    (∃ (a : Nat), a ≠ Reg.hubCntMemTimeout) ∧
    (∃ (s : State) (j : SealJob), s.sealQ = [j] ∧ j.count = 1 ∧ s.bothStalled = false ∧ j.op = 50 ∧ s.verify j.src j.gen j.fmt = Verify.verified) ∧
    (∃ (s : State) (j : SealJob), s.sealQ = [j] ∧ j.count = 1 ∧ s.bothStalled = false ∧ j.op = 48 ∧ bcvSealed (s.sbOf j.src) = false) ∧
    (∃ (s : State) (j : SealJob), s.sealQ = [j] ∧ j.count = 1 ∧ s.bothStalled = false ∧ j.op = 49 ∧ s.verify j.src j.gen j.fmt = Verify.verified) ∧
    (∃ (s : State) (q : CoreCmd) (op : Nat), q.mod = 0 ∧ q.ctx = 0 ∧ q.imm / 2 ^ 16 < 64 ∧ q.imm < 2 ^ 22 ∧ s.serving q.k = true ∧ (s.ctx 0).st ≠ CtxState.terminated ∧ q.a < 2 ^ 38 ∧ q.b = 0 ∧ q.c < 2 ^ 24 ∧ q.opc = op ∧ op = 48) ∧
    (∃ (s : State) (q : CoreCmd) (op : Nat), q.mod = 0 ∧ q.ctx = 0 ∧ q.imm / 2 ^ 16 < 64 ∧ q.imm < 2 ^ 22 ∧ s.serving q.k = true ∧ (s.ctx 0).st ≠ CtxState.terminated ∧ q.a < 2 ^ 38 ∧ q.b = 0 ∧ q.c < 2 ^ 24 ∧ q.opc = op ∧ op = 50) :=
  ⟨⟨{ up with rwl := [Reg.hubRcpBase] }, { opc := 0x18, a := 2 ^ 38 - 16, b := 65536, imm := 255 }, by decide +kernel⟩,
   ⟨{ up with rwl := [Reg.hubRcpBase], rcps := [(0, { st := .loading })] }, { opc := 0x18, b := 256 }, by decide +kernel⟩,
   ⟨{ rcpLoads := [{ len := 256 }] }, 0, { len := 256 }, _, rfl, rfl, rfl, nofun, rfl, rfl, rfl⟩,
   ⟨rcpState, 0, { len := 240 }, rcp_image.choose, rfl, rfl, rfl, nofun, rfl, rfl, rcp_ok⟩,
   ⟨{ rcpLoads := [{ recipe := some convRecipe }] }, 0, { recipe := some convRecipe }, convRecipe, rfl, rfl, rfl, nofun, rfl, rfl, rfl⟩,
   ⟨{ up with rcps := [(255, { st := .active })] }, { opc := 0x19, imm := 255 }, by decide +kernel⟩,
   ⟨{ up with rcps := [(0, { st := .loading })] }, { opc := 0x19 }, by decide +kernel⟩,
   ⟨up, { opc := 0x30, a := 2 ^ 38 - 1, b := 1, imm := 2 ^ 16 - 1 + 0x3E * 2 ^ 16 }, 2 ^ 38 - 1, 1, 2 ^ 16 - 1, 0x3E, by decide +kernel⟩,
   ⟨up, { opc := 0x31, b := 2 ^ 38 - 1, c := 1, imm := 1 + 2 * 2 ^ 16 }, 0, 1, 1, 2, by decide +kernel⟩,
   ⟨up, { opc := 0x32, b := 2 ^ 24 - 1, imm := 1 + 2 * 2 ^ 16 }, 0, 2 ^ 24 - 1, 1, 2, by decide +kernel⟩,
   ⟨0, by decide +kernel⟩,
   ⟨{ sealQ := [{ op := 50, count := 1, src := 1, gen := 1, fmt := 2 }], sb := [(1, bcvOfCrc 0 1 1 2 false 0)] }, { op := 50, count := 1, src := 1, gen := 1, fmt := 2 }, rfl, rfl, rfl, rfl, (verify_zero _ _ _ _ rfl).trans (by decide +kernel)⟩,
   ⟨{ sealQ := [{ op := 48, count := 1 }] }, { op := 48, count := 1 }, by decide +kernel⟩,
   ⟨{ sealQ := [{ op := 49, count := 1, src := 1, dst := 2, gen := 1, fmt := 2 }], sb := [(1, bcvOfCrc 0 1 1 2 false 0)] }, { op := 49, count := 1, src := 1, dst := 2, gen := 1, fmt := 2 }, rfl, rfl, rfl, rfl, (verify_zero _ _ _ _ rfl).trans (by decide +kernel)⟩,
   ⟨up, { opc := 0x30, imm := 1 + 2 * 2 ^ 16 }, 48, by decide +kernel⟩,
   ⟨up, { opc := 0x32, imm := 1 + 2 * 2 ^ 16 }, 50, by decide +kernel⟩⟩

/-- The hypotheses of SieveCommands can be met, clause by clause. -/
theorem witness_SieveCommands :
    (∃ (s : State) (q : CoreCmd), q.opc = 64 ∧ s.coreUp q.k = true ∧ s.safe = none ∧ q.ctx = 0 ∧ q.mod = 0 ∧ q.a < 2 ^ 64 ∧ q.b < 2 ^ 32 ∧ q.c < 2 ^ 16 ∧ q.imm < 128 ∧ (s.ctx 0).st ≠ CtxState.terminated) ∧
    (∃ (s : State) (q : CoreCmd) (k : Nat) (o : OpRec), q.opc = 65 ∧ s.serving q.k = true ∧ q.ctx ≠ 0 ∧ q.a < 2 ^ 32 ∧ q.b < 2 ^ 24 ∧ q.c < 2 ^ 64 ∧ q.mod < 2 ∧ (q.mod = 1 → q.imm = 0) ∧ q.imm < 128 ∧ s.stepOf q.ctx q.a = some k ∧ ((s.slot q.ctx k).st = SlotState.open_ ∨ (s.slot q.ctx k).st = SlotState.ended) ∧ (s.slot q.ctx k).op q.b = some o ∧ o.notAccepted = false ∧ o.d.isRoute = false ∧ o.verdict = none ∧ (o.st = OpState.accepted ∨ o.st = OpState.pending)) ∧
    (∃ (s : State) (q : CoreCmd), q.opc = 65 ∧ s.serving q.k = true ∧ q.ctx ≠ 0 ∧ q.a < 2 ^ 32 ∧ q.b < 2 ^ 24 ∧ q.c < 2 ^ 64 ∧ q.mod = 0 ∧ q.imm < 128 ∧ (s.ctx q.ctx).st ≠ CtxState.terminated ∧ s.stepOf q.ctx q.a = none) ∧
    (∃ (s : State) (q : CoreCmd), q.opc = 66 ∧ s.coreUp q.k = true ∧ s.bring.stage = 8 ∧ s.safe = none ∧ q.ctx = 0 ∧ q.a < 2 ^ 64 ∧ q.b < 2 ^ 64 ∧ q.c < 2 ^ 64 ∧ q.imm % 16 = 0 ∧ q.imm ≤ 4000 ∧ q.mod = 0) ∧
    (∃ (s : State) (q : CoreCmd), q.opc = 66 ∧ s.coreUp q.k = true ∧ s.bring.stage = 8 ∧ s.safe = none ∧ q.ctx = 0 ∧ q.a < 2 ^ 64 ∧ q.b < 2 ^ 64 ∧ q.c < 2 ^ 64 ∧ q.imm % 16 = 0 ∧ q.imm ≤ 4000 ∧ q.mod = 1) ∧
    (∃ (s : State) (q : CoreCmd) (c : Cmd), q.opc = 66 ∧ s.coreUp q.k = true ∧ s.bring.stage = 8 ∧ s.safe = none ∧ q.ctx = 0 ∧ q.a < 2 ^ 64 ∧ q.b < 2 ^ 64 ∧ q.c < 2 ^ 64 ∧ q.imm % 16 = 0 ∧ q.imm ≤ 4000 ∧ c.ctx = 0 ∧ c.imm = q.imm ∧ c.mod = 0) :=
  ⟨⟨up, { opc := 0x40, b := 2 ^ 32 - 1, c := 65535, imm := 127 }, by decide +kernel⟩,
   ⟨{ up with ctxs := [(1, { st := .live, slots := [{ st := .open_, ops := [convRec] }, {}, {}, {}] })] }, { opc := 0x41, ctx := 1, imm := 64 }, 0, convRec, by decide +kernel⟩,
   ⟨{ up with ctxs := [(1, { st := .live })] }, { opc := 0x41, ctx := 1 }, by decide +kernel⟩,
   ⟨up, { opc := 0x42, imm := 4000 }, by decide +kernel⟩,
   ⟨up, { opc := 0x42, mod := 1 }, by decide +kernel⟩,
   ⟨up, { opc := 0x42, imm := 4000 }, { imm := 4000 }, by decide +kernel⟩⟩

/-- The hypotheses of ModeChange can be met, clause by clause. -/
theorem witness_ModeChange :
    (∃ (s : State) (q : CoreCmd), q.opc = 80 ∧ s.serving q.k = true ∧ q.ctx = 0 ∧ q.mod = 0 ∧ q.imm < 2 ∧ q.a < 2 ^ 64 ∧ q.b < 2 ^ 64 ∧ q.c < 2 ^ 64 ∧ (s.ctx 0).st ≠ CtxState.terminated ∧ s.anyStep = false ∧ s.queue = [] ∧ s.spill = []) ∧
    (∃ (s : State) (q : CoreCmd), q.opc = 80 ∧ s.serving q.k = true ∧ q.ctx = 0 ∧ q.mod = 0 ∧ q.imm < 2 ∧ q.a < 2 ^ 64 ∧ q.b < 2 ^ 64 ∧ q.c < 2 ^ 64 ∧ (s.ctx 0).st ≠ CtxState.terminated ∧ (s.anyStep = true ∨ s.queue ≠ [] ∨ s.spill ≠ [])) ∧
    (∃ (s : State), s.queue.length ≤ 1024 ∧ s.spill.length ≤ 1048576) :=
  ⟨⟨up, { opc := 0x50, imm := 1 }, by decide +kernel⟩,
   ⟨{ up with spill := [{}] }, { opc := 0x50, imm := 1 }, by decide +kernel, by decide +kernel, rfl, rfl, by decide, by decide, by decide, by decide, by decide +kernel, .inr (.inr (by decide))⟩,
   ⟨{}, by decide +kernel⟩⟩

/-- The hypotheses of ProvenanceAndPairing can be met, clause by clause. -/
theorem witness_ProvenanceAndPairing :
    (∃ (s : State) (q : CoreCmd), q.opc = 81 ∧ s.serving q.k = true ∧ q.ctx ≠ 0 ∧ q.mod = 0 ∧ q.imm < 4 ∧ q.a < 2 ^ 64 ∧ q.b < 2 ^ 64 ∧ q.c < 2 ^ 64 ∧ (s.ctx q.ctx).st = CtxState.live ∧ q.imm = 3) ∧
    (∃ (s : State) (q : CoreCmd), q.opc = 81 ∧ s.serving q.k = true ∧ q.ctx ≠ 0 ∧ q.mod = 0 ∧ q.imm < 4 ∧ q.a < 2 ^ 64 ∧ q.b < 2 ^ 64 ∧ q.c < 2 ^ 64 ∧ (s.ctx q.ctx).st = CtxState.live ∧ q.imm ≠ 3 ∧ (s.ctx q.ctx).anySlot = false ∧ s.reg Reg.hubProvSize % 2 ^ 16 ≠ 0) ∧
    (∃ (s : State) (q : CoreCmd), q.opc = 81 ∧ s.serving q.k = true ∧ q.ctx ≠ 0 ∧ q.mod = 0 ∧ q.imm < 4 ∧ q.a < 2 ^ 64 ∧ q.b < 2 ^ 64 ∧ q.c < 2 ^ 64 ∧ (s.ctx q.ctx).st = CtxState.live ∧ q.imm ≠ 3 ∧ ((s.ctx q.ctx).anySlot = true ∨ s.reg Reg.hubProvSize % 2 ^ 16 = 0)) ∧
    (∃ (s : State) (q : CoreCmd), q.opc = 82 ∧ s.serving q.k = true ∧ q.ctx = 0 ∧ q.mod = 0 ∧ q.imm < 2 ∧ q.a < 2 ^ 16 ∧ q.b < 2 ^ 16 ∧ q.c < 2 ^ 64 ∧ (s.ctx q.a).st = CtxState.live ∧ (s.ctx q.a).anySlot = false ∧ q.imm = 0) ∧
    (∃ (s : State) (q : CoreCmd) (i : Nat), q.opc = 82 ∧ s.serving q.k = true ∧ q.ctx = 0 ∧ q.mod = 0 ∧ q.imm < 2 ∧ q.a < 2 ^ 16 ∧ q.b < 2 ^ 16 ∧ q.c < 2 ^ 64 ∧ (s.ctx q.a).st = CtxState.live ∧ (s.ctx q.a).anySlot = false ∧ q.imm = 1 ∧ (∀ (p : Pairing), p ∈ s.pairings → p.ctx = q.a ∨ p.partner ≠ q.b) ∧ s.rwl.contains Reg.hubPairBase = true ∧ (s.unpair q.a).freePairIdx = some i) ∧
    (∃ (s : State) (q : CoreCmd), q.opc = 82 ∧ s.serving q.k = true ∧ q.ctx = 0 ∧ q.mod = 0 ∧ q.imm < 2 ∧ q.a < 2 ^ 16 ∧ q.b < 2 ^ 16 ∧ q.c < 2 ^ 64 ∧ (s.ctx q.a).st = CtxState.live ∧ (s.ctx q.a).anySlot = false ∧ q.imm = 1 ∧ (∃ p, p ∈ s.pairings ∧ p.ctx ≠ q.a ∧ p.partner = q.b)) :=
  ⟨⟨{ up with ctxs := [(1, { st := .live })] }, { opc := 0x51, ctx := 1, imm := 3 }, by decide +kernel⟩,
   ⟨{ up with ctxs := [(1, { st := .live })], regs := [(Reg.hubProvSize, 1)] }, { opc := 0x51, ctx := 1, imm := 2 }, by decide +kernel⟩,
   ⟨{ up with ctxs := [(1, { st := .live })] }, { opc := 0x51, ctx := 1, imm := 1 }, by decide +kernel⟩,
   ⟨{ up with ctxs := [(1, { st := .live })] }, { opc := 0x52, a := 1 }, by decide +kernel⟩,
   ⟨{ up with ctxs := [(1, { st := .live })], rwl := [Reg.hubPairBase] }, { opc := 0x52, a := 1, b := 65535, imm := 1 }, 0, by decide +kernel⟩,
   ⟨{ up with ctxs := [(1, { st := .live })], pairings := [{ ctx := 2, partner := 7 }] }, { opc := 0x52, a := 1, b := 7, imm := 1 }, by decide +kernel⟩⟩

/-- The hypotheses of RegisterAccess can be met, clause by clause. -/
theorem witness_RegisterAccess :
    (∃ (s : State) (q : CoreCmd), q.opc = 72 ∧ s.serving q.k = true ∧ q.ctx = 0 ∧ q.mod = 0 ∧ q.imm < 2 ^ 24 ∧ q.a < 2 ^ 64 ∧ q.b < 2 ^ 64 ∧ q.c < 2 ^ 64) ∧
    (∃ (s : State) (q : CoreCmd) (c : Cmd), q.opc = 72 ∧ s.serving q.k = true ∧ q.ctx = 0 ∧ q.mod = 0 ∧ q.imm < 2 ^ 24 ∧ q.a < 2 ^ 64 ∧ q.b < 2 ^ 64 ∧ q.c < 2 ^ 64 ∧ c.ctx = 0 ∧ c.mod = 0 ∧ c.imm = q.imm) ∧
    (∃ (s : State) (q : CoreCmd), q.opc = 73 ∧ s.serving q.k = true ∧ q.ctx = 0 ∧ q.mod = 0 ∧ q.imm < 2 ^ 24 ∧ q.a < 2 ^ 32 ∧ q.b < 2 ^ 64 ∧ q.c < 2 ^ 64 ∧ (s.ctx 0).st ≠ CtxState.terminated ∧ s.respCode q.imm = 0 ∧ s.wrBlocked q.imm q.a = false) ∧
    (∃ (s : State) (q : CoreCmd), q.opc = 73 ∧ s.serving q.k = true ∧ q.ctx = 0 ∧ q.mod = 0 ∧ q.imm < 2 ^ 24 ∧ q.a < 2 ^ 32 ∧ q.b < 2 ^ 64 ∧ q.c < 2 ^ 64 ∧ (s.ctx 0).st ≠ CtxState.terminated ∧ s.respCode q.imm = 2) ∧
    (∃ (s : State) (q : CoreCmd), q.opc = 73 ∧ s.serving q.k = true ∧ q.ctx = 0 ∧ q.mod = 0 ∧ q.imm < 2 ^ 24 ∧ q.a < 2 ^ 32 ∧ q.b < 2 ^ 64 ∧ q.c < 2 ^ 64 ∧ (s.ctx 0).st ≠ CtxState.terminated ∧ (s.respCode q.imm = 1 ∨ s.respCode q.imm = 3)) ∧
    (∃ (s : State) (a : Nat), s.respCode a = 0) ∧
    (∃ (s : State) (a : Nat), s.respCode a ≠ 0) ∧
    (∃ (a : Nat), a % 4 ≠ 0) ∧
    (∃ (a : Nat), a % 4 ≠ 0) :=
  ⟨⟨up, { opc := 0x48, imm := 2 ^ 24 - 1 }, by decide +kernel⟩,
   ⟨up, { opc := 0x48, imm := 2 ^ 24 - 1 }, { imm := 2 ^ 24 - 1 }, by decide +kernel⟩,
   ⟨up, { opc := 0x49, a := 2 ^ 32 - 1, imm := Reg.hubJrnlBase }, by decide +kernel⟩,
   ⟨up, { opc := 0x49, imm := atTile 127 Reg.ldlTapErr }, by decide +kernel⟩,
   ⟨up, { opc := 0x49, imm := 2 }, by decide +kernel⟩,
   ⟨up, Reg.hubTimeLo, by decide +kernel⟩,
   ⟨up, 2, by decide +kernel⟩,
   ⟨1, by decide +kernel⟩,
   ⟨1, by decide +kernel⟩⟩


/-- The hypotheses of CheckpointCommands can be met, clause by clause. -/
theorem witness_CheckpointCommands :
    (∃ (s : State) (q : CoreCmd), q.opc = 88 ∧ s.serving q.k = true ∧ s.hasTicket = true ∧ q.ctx ≠ 0 ∧ q.mod = 0 ∧ q.imm = 0 ∧ q.a < 2 ^ 32 ∧ q.b < 2 ^ 38 ∧ q.c < 2 ^ 64 ∧ (s.ctx q.ctx).st = CtxState.live ∧ (s.ctx q.ctx).anyStep = false ∧ (s.ctx q.ctx).committed = q.a ∧ s.ckptQ.length < 9 ∧ (∀ (w : State), w ∈ [s, s.noted q stPending s.nextTicket] → leAt (w.block q.b) 16 2 = s.chipsM1 ∧ leAt (w.block q.b) 18 2 = s.rank ∧ ∀ (x : Shard), x ∈ manShards (w.block q.b) → s.inIndex x.blk (x.blocks + 1) = false)) ∧
    (∃ (s : State) (q : CoreCmd), q.opc = 89 ∧ s.serving q.k = true ∧ s.hasTicket = true ∧ q.mod < 2 ∧ q.imm = 0 ∧ q.a < 2 ^ 64 ∧ q.b < 2 ^ 38 ∧ q.c < 2 ^ 64 ∧ (s.ctx q.ctx).st ≠ CtxState.terminated ∧ s.ckptQ.length < 9 ∧ (q.mod = 1 → ∀ (w : State), w ∈ [s, s.noted q stPending s.nextTicket] → w.mayRestore q.ctx (w.block q.b) = true)) ∧
    (∃ (s : State) (j : CkptJob) (rest : List CkptJob), s.ckptQ = j :: rest ∧ j.kind = CkptKind.man ∧ s.bothStalled = false ∧ draftOk j.scales (s.block j.blk) = false) ∧
    (∃ (s : State) (j : CkptJob) (rest : List CkptJob) (u : State), s.ckptQ = j :: rest ∧ j.kind = CkptKind.man ∧ s.bothStalled = false ∧ draftOk j.scales (s.block j.blk) = true ∧ s.endCkpt.writeManifest j.ctx j.blk (draftOf (s.block j.blk) j) = (u, none)) ∧
    (∃ (s : State) (j : CkptJob) (rest : List CkptJob), s.ckptQ = j :: rest ∧ s.bothStalled = false ∧ j.kind = CkptKind.chk ∧ (s.ckptCheck j.ctx false (s.block j.blk)).fst = stOk) ∧
    (∃ (s : State) (j : CkptJob) (rest : List CkptJob), s.ckptQ = j :: rest ∧ s.bothStalled = false ∧ j.kind = CkptKind.chk ∧ manOk (s.block j.blk) = false) ∧
    (∃ (s : State) (j : CkptJob) (rest : List CkptJob), s.ckptQ = j :: rest ∧ s.bothStalled = false ∧ j.kind = CkptKind.restore ∧ s.mayRestore j.ctx (s.block j.blk) = true ∧ (s.ckptCheck j.ctx true (s.block j.blk)).fst = stOk) ∧
    (∃ (s : State) (j : CkptJob) (u : State), u ∈ [s.queueCkpt j, s.endCkpt]) ∧
    (∃ (s : State), s.ckptQ = []) ∧
    (∃ (s : State), s.ckptQ = []) :=
  ⟨⟨{ up with ctxs := [(1, { st := .live, anyStep := false, committed := 9 })] }, { opc := 0x58, ctx := 1, a := 9, b := 2 ^ 38 - 1 }, by decide +kernel, by decide +kernel, by decide +kernel, by decide +kernel, by decide +kernel, by decide +kernel, by decide +kernel, by decide +kernel, by decide +kernel, by decide +kernel, by decide +kernel, by decide +kernel, by decide +kernel, zero_drafts _ _ _ _ (by decide +kernel) (by decide +kernel) (by decide +kernel) _⟩,
   ⟨{ up with ctxs := [(1, { st := .live })] }, { opc := 0x59, ctx := 1, b := 2 ^ 38 - 1 }, by decide +kernel, by decide +kernel, by decide +kernel, by decide +kernel, by decide +kernel, by decide +kernel, by decide +kernel, by decide +kernel, by decide +kernel, by decide +kernel, (fun h => absurd h (by decide))⟩,
   ⟨{ ckptQ := [{}] }, {}, [], by decide +kernel⟩,
   ⟨manState .man, manJob .man, [], man_write.choose, rfl, rfl, rfl, (by rw [show (manJob .man).blk = 1 from rfl, man_block]; exact man_draftOk), (by rw [show (manJob .man).blk = 1 from rfl, man_block]; exact man_write.choose_spec)⟩,
   ⟨manState .chk, { blk := 1, ctx := 1, kind := .chk }, [], rfl, rfl, rfl, (by rw [man_block]; exact man_check _ _)⟩,
   ⟨{ ckptQ := [{ kind := .chk }] }, { kind := .chk }, [], by decide +kernel⟩,
   ⟨manState .restore, { blk := 1, ctx := 1, kind := .restore }, [], rfl, rfl, rfl, (by rw [man_block]; exact man_restore), (by rw [man_block]; exact man_check _ _)⟩,
   ⟨{}, {}, _, List.mem_cons_self⟩,
   ⟨{}, by decide +kernel⟩,
   ⟨{}, by decide +kernel⟩⟩

/-- The hypotheses of BuddyAndHostMessages can be met, clause by clause. -/
theorem witness_BuddyAndHostMessages :
    (∃ (s : State) (q : CoreCmd), q.opc = 90 ∧ s.serving q.k = true ∧ q.ctx = 0 ∧ q.mod = 0 ∧ q.imm = 0 ∧ q.a < 2 ^ 16 ∧ q.b < 2 ^ 16 ∧ q.c < 2 ^ 64 ∧ (s.ctx q.a).st = CtxState.live ∧ (s.ctx q.a).anySlot = false ∧ q.b = 65535) ∧
    (∃ (s : State) (q : CoreCmd), q.opc = 90 ∧ s.serving q.k = true ∧ q.ctx = 0 ∧ q.mod = 0 ∧ q.imm = 0 ∧ q.a < 2 ^ 16 ∧ q.b < 2 ^ 16 ∧ q.c < 2 ^ 64 ∧ (s.ctx q.a).st = CtxState.live ∧ (s.ctx q.a).anySlot = false ∧ q.b ≠ 65535 ∧ (∀ (w : State), w ∈ [s, s.noted q] → w.mapOk (s.reg Reg.hubBuddyMap * 64) = true) ∧ ((s.ctx q.a).buddy.isSome = true ∨ s.buddied.length < 256)) ∧
    (∃ (s : State) (q : CoreCmd), q.opc = 90 ∧ s.serving q.k = true ∧ q.ctx = 0 ∧ q.mod = 0 ∧ q.imm = 0 ∧ q.a < 2 ^ 16 ∧ q.b < 2 ^ 16 ∧ q.c < 2 ^ 64 ∧ (s.ctx q.a).st = CtxState.live ∧ (s.ctx q.a).anySlot = false ∧ q.b ≠ 65535 ∧ s.mapOk (s.reg Reg.hubBuddyMap * 64) = false) ∧
    (∃ (s : State) (q : CoreCmd) (m : PeerMsg), q.opc = 91 ∧ s.serving q.k = true ∧ q.ctx = 0 ∧ q.mod = 0 ∧ q.a < 2 ^ 38 ∧ q.b < 2 ^ 16 ∧ q.c < 2 ^ 64 ∧ q.imm < 4096 ∧ q.imm % 64 = 0 ∧ (s.ctx 0).st ≠ CtxState.terminated ∧ (∀ (w : State), w ∈ [s, s.noted q] → 128 ≤ leAt (w.bytes (q.a * 4096 + q.imm) 64) 0 1) ∧ m = s.envelope 3 q.b ((s.noted q).bytes (q.a * 4096 + q.imm) 64) ∧ s.peer.queue 3 = [] ∧ 0 < s.peer.credit 3) ∧
    (∃ (s : State) (q : CoreCmd) (m : PeerMsg), q.opc = 91 ∧ s.serving q.k = true ∧ q.ctx = 0 ∧ q.mod = 0 ∧ q.a < 2 ^ 38 ∧ q.b < 2 ^ 16 ∧ q.c < 2 ^ 64 ∧ q.imm < 4096 ∧ q.imm % 64 = 0 ∧ (s.ctx 0).st ≠ CtxState.terminated ∧ (∀ (w : State), w ∈ [s, s.noted q] → 128 ≤ leAt (w.bytes (q.a * 4096 + q.imm) 64) 0 1) ∧ m = s.envelope 3 q.b ((s.noted q).bytes (q.a * 4096 + q.imm) 64) ∧ (s.peer.queue 3 ≠ [] ∨ s.peer.credit 3 = 0) ∧ (s.peer.queue 3).length < 64) ∧
    (∃ (s : State) (q : CoreCmd) (m : PeerMsg), q.opc = 91 ∧ s.serving q.k = true ∧ q.ctx = 0 ∧ q.mod = 0 ∧ q.a < 2 ^ 38 ∧ q.b < 2 ^ 16 ∧ q.c < 2 ^ 64 ∧ q.imm < 4096 ∧ q.imm % 64 = 0 ∧ (s.ctx 0).st ≠ CtxState.terminated ∧ (∀ (w : State), w ∈ [s, s.noted q] → 128 ≤ leAt (w.bytes (q.a * 4096 + q.imm) 64) 0 1) ∧ m = s.envelope 3 q.b ((s.noted q).bytes (q.a * 4096 + q.imm) 64) ∧ 64 ≤ (s.peer.queue 3).length) :=
  ⟨⟨{ up with ctxs := [(1, { st := .live })] }, { opc := 0x5A, a := 1, b := 65535 }, by decide +kernel⟩,
   ⟨mapState, { opc := 0x5A, a := 1, b := 2 }, rfl, by decide +kernel, rfl, rfl, rfl, by decide, by decide, by decide, by decide +kernel, by decide +kernel, by decide, map_ok _, .inr (by decide +kernel)⟩,
   ⟨{ up with ctxs := [(1, { st := .live })] }, { opc := 0x5A, a := 1, b := 65534 }, by decide +kernel⟩,
   ⟨{ up with mem := [(4032, 128)], peer := { credits := [0, 0, 0, 1] } }, { opc := 0x5B, b := 3, imm := 4032 }, _, rfl, by decide +kernel, rfl, rfl, by decide, by decide, by decide, by decide, by decide, by decide +kernel, by decide +kernel, rfl, by decide +kernel, by decide +kernel⟩,
   ⟨{ up with mem := [(4032, 128)] }, { opc := 0x5B, b := 3, imm := 4032 }, _, rfl, by decide +kernel, rfl, rfl, by decide, by decide, by decide, by decide, by decide, by decide +kernel, by decide +kernel, rfl, .inr (by decide +kernel), by decide +kernel⟩,
   ⟨{ up with mem := [(4032, 128)], peer := { queues := [[], [], [], List.replicate 64 {}] } }, { opc := 0x5B, b := 3, imm := 4032 }, _, rfl, by decide +kernel, rfl, rfl, by decide, by decide, by decide, by decide, by decide, by decide +kernel, by decide +kernel, rfl, by decide +kernel⟩⟩


/-- The hypotheses of PeerAndPairMessages can be met, clause by clause. -/
theorem witness_PeerAndPairMessages :
    (∃ (s : State) (c : Nat) (b : Buddy) (step : Nat) (again : Bool), (s.ctx c).buddy = some b ∧ b.mirror = Mirror.copying step again) ∧
    (∃ (s : State) (m : PeerMsg) (c : Nat) (b : Buddy) (step : Nat) (again : Bool) (t : Nat), s.accepts m = true ∧ m.kind = 49 ∧ leAt m.body 2 2 = c ∧ (s.ctx c).buddy = some b ∧ b.mirror = Mirror.waiting step again t ∧ m.src = b.agent ∧ leAt m.body 4 4 = step ∧ leAt m.body 1 1 = stOk) ∧
    (∃ (s : State) (c : Nat) (b : Buddy) (step : Nat) (t : Nat), (s.ctx c).buddy = some b ∧ b.mirror = Mirror.waiting step false t ∧ s.reg Reg.hubBuddyCtrl % 256 ≠ 0 ∧ t + s.reg Reg.hubBuddyCtrl % 256 * 100000 ≤ s.time) ∧
    (∃ (s : State) (c : Nat) (b : Buddy) (step : Nat) (t : Nat), (s.ctx c).buddy = some b ∧ b.mirror = Mirror.waiting step false t ∧ s.reg Reg.hubBuddyCtrl % 256 ≠ 0 ∧ s.time < t + s.reg Reg.hubBuddyCtrl % 256 * 100000) ∧
    (∃ (s : State) (m : PeerMsg), s.accepts m = true ∧ m.kind = 48 ∧ s.inHold (leAt m.body 8 8) = false) ∧
    (∃ (s : State) (m : PeerMsg), s.accepts m = true ∧ m.kind = 48 ∧ s.inHold (leAt m.body 8 8) = true) ∧
    (∃ (s : State) (m : PeerMsg) (a : Nat), s.accepts m = true ∧ m.cls = 3 ∧ List.length m.body = 64 ∧ s.rxUsed < 256 ∧ s.bothStalled = false ∧ a = s.reg Reg.hubPeerRxBase * 64 * 4096 + 64 * (s.peer.prod % 256)) ∧
    (∃ (s : State) (m : PeerMsg), s.accepts m = true ∧ m.cls = 3 ∧ 256 ≤ s.rxUsed) ∧
    (∃ (s : State) (v : Nat), s.peer.rxWait = [] ∧ (v % 2 ^ 16 + 2 ^ 16 - s.rxCons) % 2 ^ 16 ≤ s.rxUsed) ∧
    (∃ (s : State) (v : Nat), s.rxUsed < (v % 2 ^ 16 + 2 ^ 16 - s.rxCons) % 2 ^ 16) ∧
    (∃ (s : State) (m : PeerMsg), (m.crc ≠ m.crcOf ∨ m.dst ≠ s.agent ∨ m.kindOk = false)) ∧
    (∃ (s : State) (k : Nat) (m : PeerMsg) (rest : List PeerMsg), k < 4 ∧ s.peer.queue k = m :: rest) ∧
    (∃ (s : State) (k : Nat), k < 4 ∧ s.peer.queue k = []) ∧
    (∃ (s : State) (m : PeerMsg), s.accepts m = true ∧ (∀ (p : Pairing), p ∈ s.pairings → p.partner ≠ m.src) ∧ m.kind = 32) ∧
    (∃ (s : State) (m : PeerMsg), s.accepts m = true ∧ (∀ (p : Pairing), p ∈ s.pairings → p.partner ≠ m.src) ∧ m.kind = 33) ∧
    (∃ (s : State) (m : PeerMsg) (p : Pairing), s.accepts m = true ∧ List.find? (fun p ↦ p.partner == m.src) s.pairings = some p ∧ (s.ctx p.ctx).passed m.pairMsg.step = false ∧ (s.ctx p.ctx).stepSlot m.pairMsg.step = none ∧ (m.kind = 32 ∨ m.kind = 33)) ∧
    (∃ (s : State) (m : PeerMsg) (p : Pairing) (k : Nat) (sl : Slot) (base : Nat) (ds : List Nat), s.accepts m = true ∧ s.pairings = [p] ∧ p.partner = m.src ∧ p.held = [] ∧ (s.ctx p.ctx).passed m.pairMsg.step = false ∧ (s.ctx p.ctx).stepSlot m.pairMsg.step = some k ∧ sl = s.slot p.ctx k ∧ sl.live = true ∧ (∀ (j : Nat), j ≠ k → (s.slot p.ctx j).live = false) ∧ (∀ (g : Nat), sl.grpSent.contains g = true ∨ sl.group g = none) ∧ m.kind = 32 ∧ m.pairMsg = PairMsg.ops sl.step base ds ∧ sl.grpSent.contains (base / 6) = true ∧ sl.grpOk.contains (base / 6) = false ∧ ds = sl.stored (base / 6)) ∧
    (∃ (s : State) (m : PeerMsg) (p : Pairing) (k : Nat) (sl : Slot) (base : Nat) (ds : List Nat) (i : Nat) (a : Nat) (b : Nat), s.accepts m = true ∧ s.pairings = [p] ∧ p.partner = m.src ∧ p.held = [] ∧ (s.ctx p.ctx).passed m.pairMsg.step = false ∧ (s.ctx p.ctx).stepSlot m.pairMsg.step = some k ∧ sl = s.slot p.ctx k ∧ sl.live = true ∧ (∀ (j : Nat), j ≠ k → (s.slot p.ctx j).live = false) ∧ (∀ (g : Nat), sl.grpSent.contains g = true ∨ sl.group g = none) ∧ m.kind = 32 ∧ m.pairMsg = PairMsg.ops sl.step base ds ∧ sl.grpSent.contains (base / 6) = true ∧ sl.grpOk.contains (base / 6) = false ∧ firstDiff (sl.stored (base / 6)) ds 0 = some (i, a, b)) ∧
    (∃ (s : State) (m : PeerMsg) (p : Pairing) (k : Nat) (sl : Slot) (n : Nat) (nulled : Bool), s.accepts m = true ∧ s.pairings = [p] ∧ p.partner = m.src ∧ p.held = [] ∧ (s.ctx p.ctx).passed m.pairMsg.step = false ∧ (s.ctx p.ctx).stepSlot m.pairMsg.step = some k ∧ sl = s.slot p.ctx k ∧ sl.live = true ∧ (∀ (j : Nat), j ≠ k → (s.slot p.ctx j).live = false) ∧ (∀ (g : Nat), sl.grpSent.contains g = true ∨ sl.group g = none) ∧ m.kind = 33 ∧ m.pairMsg = PairMsg.stepEnd sl.step n nulled ∧ sl.stepSent = true ∧ sl.stepOk = false ∧ n = sl.n ∧ nulled = sl.nulled) ∧
    (∃ (s : State) (m : PeerMsg) (p : Pairing) (k : Nat) (sl : Slot) (n : Nat) (nulled : Bool), s.accepts m = true ∧ s.pairings = [p] ∧ p.partner = m.src ∧ p.held = [] ∧ (s.ctx p.ctx).passed m.pairMsg.step = false ∧ (s.ctx p.ctx).stepSlot m.pairMsg.step = some k ∧ sl = s.slot p.ctx k ∧ sl.live = true ∧ (∀ (j : Nat), j ≠ k → (s.slot p.ctx j).live = false) ∧ (∀ (g : Nat), sl.grpSent.contains g = true ∨ sl.group g = none) ∧ m.kind = 33 ∧ m.pairMsg = PairMsg.stepEnd sl.step n nulled ∧ sl.stepSent = true ∧ sl.stepOk = false ∧ (n ≠ sl.n ∨ nulled ≠ sl.nulled)) ∧
    (∃ (s : State) (c : Nat) (p : Pairing) (k : Nat) (g : Nat), s.pairing c = some p ∧ s.pairLate c = some (k, g)) ∧
    (∃ (s : State) (c : Nat), (s.pairing c = none ∨ s.pairLate c = none)) :=
  ⟨⟨{ ctxs := [(1, { st := .live, buddy := some { agent := 7, mirror := .copying 9 false } })] }, 1, { agent := 7, mirror := .copying 9 false }, 9, false, by decide +kernel⟩,
   ⟨{ ctxs := [(1, { st := .live, buddy := some { agent := 7, mirror := .waiting 9 true 0 } })] }, (sent { src := 7, cls := 2, body := toLe 1 0x31 ++ toLe 1 0 ++ toLe 2 1 ++ toLe 4 9 ++ zeros 56 }), 1, { agent := 7, mirror := .waiting 9 true 0 }, 9, true, 0, by decide +kernel⟩,
   ⟨{ time := 5000000, ctxs := [(1, { st := .live, buddy := some { agent := 7, mirror := .waiting 9 false 0 } })] }, 1, { agent := 7, mirror := .waiting 9 false 0 }, 9, 0, by decide +kernel⟩,
   ⟨{ time := 4999999, ctxs := [(1, { st := .live, buddy := some { agent := 7, mirror := .waiting 9 false 0 } })] }, 1, { agent := 7, mirror := .waiting 9 false 0 }, 9, 0, by decide +kernel⟩,
   ⟨{ regs := [(Reg.hubHoldFirst, 1), (Reg.hubHoldLast, 1)] }, (sent { src := 7, cls := 2, body := toLe 1 0x30 ++ toLe 1 0 ++ toLe 2 1 ++ toLe 4 9 ++ toLe 8 128 ++ zeros 48 }), by decide +kernel⟩,
   ⟨{ regs := [(Reg.hubHoldFirst, 1), (Reg.hubHoldLast, 1)] }, (sent { src := 7, cls := 2, body := toLe 1 0x30 ++ toLe 1 0 ++ toLe 2 1 ++ toLe 4 9 ++ toLe 8 127 ++ zeros 48 }), by decide +kernel⟩,
   ⟨{ peer := { prod := 255 } }, (sent { src := 7, cls := 3, body := toLe 1 0x80 ++ zeros 63 }), _, by decide +kernel, rfl, by decide +kernel, by decide +kernel, by decide +kernel, rfl⟩,
   ⟨{ peer := { prod := 256 } }, (sent { src := 7, cls := 3, body := toLe 1 0x80 ++ zeros 63 }), by decide +kernel⟩,
   ⟨{ peer := { prod := 256 } }, 256, by decide +kernel⟩,
   ⟨{ peer := { prod := 256 } }, 257, by decide +kernel⟩,
   ⟨{}, { dst := 1 }, .inr (.inl (by decide +kernel))⟩,
   ⟨{ peer := { queues := [[], [], [], [{}]] } }, 3, {}, [], by decide +kernel⟩,
   ⟨{}, 3, by decide +kernel⟩,
   ⟨{ pairings := [{ partner := 8 }] }, (sent { src := 7, cls := 1, body := toLe 1 0x20 ++ zeros 63 }), by decide +kernel⟩,
   ⟨{ pairings := [{ partner := 8 }] }, (sent { src := 7, cls := 1, body := toLe 1 0x21 ++ zeros 63 }), by decide +kernel⟩,
   ⟨{ pairings := [{ ctx := 1, partner := 7 }] }, (sent { src := 7, cls := 1, body := toLe 1 0x21 ++ zeros 63 }), { ctx := 1, partner := 7 }, by decide +kernel⟩,
   ⟨pairState, pairMsg 0x20 6 0 0 [0, 0, 0, 0, 0, 0], { ctx := 1, partner := 7 }, 0, pairSlot, 0, [0, 0, 0, 0, 0, 0], by decide +kernel, rfl, by decide +kernel, rfl, by decide +kernel, by decide +kernel, by decide +kernel, by decide +kernel, pair_slot, pair_group, by decide +kernel, by decide +kernel, by decide +kernel, by decide +kernel, by decide +kernel⟩,
   ⟨pairState, pairMsg 0x20 6 0 0 [0, 5, 0, 0, 0, 0], { ctx := 1, partner := 7 }, 0, pairSlot, 0, [0, 5, 0, 0, 0, 0], 1, 0, 5, by decide +kernel, rfl, by decide +kernel, rfl, by decide +kernel, by decide +kernel, by decide +kernel, by decide +kernel, pair_slot, pair_group, by decide +kernel, by decide +kernel, by decide +kernel, by decide +kernel, by decide +kernel⟩,
   ⟨pairState, pairMsg 0x21 0 0 0 [], { ctx := 1, partner := 7 }, 0, pairSlot, 0, false, by decide +kernel, rfl, by decide +kernel, rfl, by decide +kernel, by decide +kernel, by decide +kernel, by decide +kernel, pair_slot, pair_group, by decide +kernel, by decide +kernel, by decide +kernel, by decide +kernel, by decide +kernel, by decide +kernel⟩,
   ⟨pairState, pairMsg 0x21 0 3 0 [], { ctx := 1, partner := 7 }, 0, pairSlot, 3, false, by decide +kernel, rfl, by decide +kernel, rfl, by decide +kernel, by decide +kernel, by decide +kernel, by decide +kernel, pair_slot, pair_group, by decide +kernel, by decide +kernel, by decide +kernel, by decide +kernel, .inl (by decide +kernel)⟩,
   ⟨{ ctxs := [(1, { st := .live, slots := [{ st := .open_, step := 1, sentAt := [(3, 0)] }, {}, {}, {}] })], pairings := [{ ctx := 1 }], time := 10000001 }, 1, { ctx := 1 }, 0, 3, by decide +kernel⟩,
   ⟨{ ctxs := [(1, { st := .live, slots := [{ st := .open_, step := 1, sentAt := [(3, 0)] }, {}, {}, {}] })], pairings := [{ ctx := 1 }], time := 10000000 }, 1, by decide +kernel⟩⟩

/-- The hypotheses of TestContent can be met, clause by clause. -/
theorem witness_TestContent :
    (∃ (s : State) (q : CoreCmd), q.opc = 97 ∧ s.serving q.k = true ∧ s.hasTicket = true ∧ q.ctx = 0 ∧ q.mod = 0 ∧ q.imm = 0 ∧ q.a < 2 ^ 38 ∧ q.b < 2 ^ 64 ∧ q.c < 2 ^ 64 ∧ (s.ctx 0).st ≠ CtxState.terminated ∧ s.tcLoad = none) ∧
    (∃ (s : State) (q : CoreCmd), q.opc = 97 ∧ s.serving q.k = true ∧ s.hasTicket = true ∧ q.ctx = 0 ∧ q.mod = 0 ∧ q.imm = 0 ∧ q.a < 2 ^ 38 ∧ q.b < 2 ^ 64 ∧ q.c < 2 ^ 64 ∧ (s.ctx 0).st ≠ CtxState.terminated ∧ s.tcLoad ≠ none) ∧
    (∃ (s : State) (l : TcLoad) (st : Nat), s.tcLoad = some l ∧ s.bothStalled = false ∧ st = s.checkContent (s.bytes (l.blk * 4096) (min l.len (4194304 + 16))) ∧ st ≠ stOk ∧ s.memOn = false ∧ (∀ (k : Ticket), s.ticket l.ticket = some k → k.owner = Owner.kettle 1)) ∧
    (∃ (s : State) (l : TcLoad) (b : Bytes), s.tcLoad = some l ∧ s.bothStalled = false ∧ b = s.bytes (l.blk * 4096) (min l.len (4194304 + 16)) ∧ s.checkContent b = stOk ∧ s.memOn = false ∧ (∀ (k : Ticket), s.ticket l.ticket = some k → k.owner = Owner.kettle 1)) ∧
    (∃ (s : State), s.tcLoad = none) ∧
    (∃ (s : State), s.tcReady = true ∧ s.whisk = []) ∧
    (∃ (s : State), (s.tcReady = false ∨ s.whisk ≠ [])) :=
  ⟨⟨up, { opc := 0x61, a := 2 ^ 38 - 1 }, by decide +kernel⟩,
   ⟨{ up with tcLoad := some {} }, { opc := 0x61 }, by decide +kernel⟩,
   ⟨{ tcLoad := some { len := 1024 } }, { len := 1024 }, stBadOperand, rfl, rfl, by decide +kernel, by decide, rfl, nofun⟩,
   ⟨tcState, { len := 1024 }, tcImage, rfl, rfl, tc_bytes.symm, tc_ok _ (by decide +kernel) rfl, rfl, nofun⟩,
   ⟨{}, by decide +kernel⟩,
   ⟨{ tcReady := true }, by decide +kernel⟩,
   ⟨{}, .inl rfl⟩⟩

/-- The hypotheses of WhiskRuns can be met, clause by clause. -/
theorem witness_WhiskRuns :
    (∃ (s : State) (q : CoreCmd), q.opc = 96 ∧ s.serving q.k = true ∧ s.hasTicket = true ∧ q.ctx = 0 ∧ q.mod = 0 ∧ q.imm < 2 ^ 16 ∧ q.a < 128 ∧ q.b < 2 ^ 64 ∧ q.c < 2 ^ 64 ∧ (s.ctx 0).st ≠ CtxState.terminated ∧ s.testEnt q.imm = none) ∧
    (∃ (s : State) (q : CoreCmd) (e : TestEnt), q.opc = 96 ∧ s.serving q.k = true ∧ s.hasTicket = true ∧ q.ctx = 0 ∧ q.mod = 0 ∧ q.imm < 2 ^ 16 ∧ q.a < 128 ∧ q.b < 2 ^ 64 ∧ q.c < 2 ^ 64 ∧ (s.ctx 0).st ≠ CtxState.terminated ∧ q.a < s.cfg.ladles ∧ s.testEnt q.imm = some e ∧ e.plan = s.planOf q.a ∧ (s.tileState q.a = TileState.spare ∨ s.tileState q.a = TileState.mapped) ∧ (s.hasRun q.a fun _ ↦ true) = true) ∧
    (∃ (s : State) (q : CoreCmd) (e : TestEnt), q.opc = 96 ∧ s.serving q.k = true ∧ s.hasTicket = true ∧ q.ctx = 0 ∧ q.mod = 0 ∧ q.imm < 2 ^ 16 ∧ q.a < 128 ∧ q.b < 2 ^ 64 ∧ q.c < 2 ^ 64 ∧ (s.ctx 0).st ≠ CtxState.terminated ∧ q.a < s.cfg.ladles ∧ s.testEnt q.imm = some e ∧ e.plan = s.planOf q.a ∧ (s.tileState q.a = TileState.spare ∨ s.tileState q.a = TileState.mapped) ∧ (s.hasRun q.a fun _ ↦ true) = false ∧ 16 ≤ s.whiskQ.length) ∧
    (∃ (s : State) (q : CoreCmd) (e : TestEnt) (w : WhiskRun), q.opc = 96 ∧ s.serving q.k = true ∧ s.hasTicket = true ∧ q.ctx = 0 ∧ q.mod = 0 ∧ q.imm < 2 ^ 16 ∧ q.a < 128 ∧ q.b < 2 ^ 64 ∧ q.c < 2 ^ 64 ∧ (s.ctx 0).st ≠ CtxState.terminated ∧ q.a < s.cfg.ladles ∧ s.testEnt q.imm = some e ∧ e.plan = s.planOf q.a ∧ (s.tileState q.a = TileState.spare ∨ s.tileState q.a = TileState.mapped) ∧ (s.hasRun q.a fun _ ↦ true) = false ∧ s.whiskQ.length < 16 ∧ s.isMapped q.a = false ∧ s.bit Reg.hubWhiskCtrl 31 = false ∧ w = { id := s.nextWhisk, tile := q.a, test := q.imm, ticket := some s.nextTicket, accepted := s.time }) ∧
    (∃ (s : State) (q : CoreCmd) (e : TestEnt) (w : WhiskRun), q.opc = 96 ∧ s.serving q.k = true ∧ s.hasTicket = true ∧ q.ctx = 0 ∧ q.mod = 0 ∧ q.imm < 2 ^ 16 ∧ q.a < 128 ∧ q.b < 2 ^ 64 ∧ q.c < 2 ^ 64 ∧ (s.ctx 0).st ≠ CtxState.terminated ∧ q.a < s.cfg.ladles ∧ s.testEnt q.imm = some e ∧ e.plan = s.planOf q.a ∧ (s.tileState q.a = TileState.spare ∨ s.tileState q.a = TileState.mapped) ∧ (s.hasRun q.a fun _ ↦ true) = false ∧ s.whiskQ = [] ∧ s.isMapped q.a = false ∧ w = { id := s.nextWhisk, tile := q.a, test := q.imm, ticket := some s.nextTicket, accepted := s.time } ∧ (∀ (v : State), v ∈ [s, s.noted q stPending s.nextTicket] → v.mayStart w = true)) ∧
    (∃ (s : State) (q : CoreCmd) (p : Nat) (w : WhiskRun), q.opc = 57 ∧ s.serving q.k = true ∧ s.hasTicket = true ∧ q.ctx = 0 ∧ q.mod = 0 ∧ q.imm = 0 ∧ q.a < 128 ∧ q.b < 2 ^ 64 ∧ q.c < 2 ^ 64 ∧ (s.ctx 0).st ≠ CtxState.terminated ∧ s.physOf q.a = some p ∧ s.hasRun p WhiskRun.tap = false ∧ s.whiskQ.length < 16 ∧ s.bit Reg.hubWhiskCtrl 31 = false ∧ w = { id := s.nextWhisk, tile := p, ticket := some s.nextTicket, accepted := s.time, tap := true }) ∧
    (∃ (s : State) (tile : Nat) (test : Nat) (idle : Nat) (w : WhiskRun), s.bring.stage ≠ 6 ∧ List.find? (fun w ↦ w.tile == tile && w.test == test) s.whiskQ = some w ∧ s.mayStart w = true ∧ s.before w = false ∧ (s.isMapped tile = true → s.reg Reg.hubWhiskCtrl % 2 ^ 16 ≤ idle) ∧ w.tap = true) ∧
    (∃ (s : State) (tile : Nat) (test : Nat) (idle : Nat) (w : WhiskRun) (t : TestEnt), s.bring.stage ≠ 6 ∧ List.find? (fun w ↦ w.tile == tile && w.test == test) s.whiskQ = some w ∧ s.mayStart w = true ∧ s.before w = false ∧ (s.isMapped tile = true → s.reg Reg.hubWhiskCtrl % 2 ^ 16 ≤ idle) ∧ w.tap = false ∧ s.testEnt w.test = some t ∧ s.bothStalled = false ∧ (∀ (b : Nat), (s.vectorBlks t).fst ≤ b → b < (s.vectorBlks t).fst + (s.vectorBlks t).snd → s.verify b 0 62 = Verify.verified)) ∧
    (∃ (s : State) (tile : Nat) (test : Nat) (idle : Nat) (w : WhiskRun), s.bring.stage ≠ 6 ∧ List.find? (fun w ↦ w.tile == tile && w.test == test) s.whiskQ = some w ∧ (s.mayStart w = false ∨ s.isMapped tile = true ∧ idle < s.reg Reg.hubWhiskCtrl % 2 ^ 16)) ∧
    (∃ (s : State) (tile : Nat) (w : WhiskRun) (st : Nat), List.find? (fun w ↦ w.tile == tile) s.whisk = some w ∧ w.startup = false ∧ w.failed = some st) ∧
    (∃ (s : State) (tile : Nat) (same : List Bool) (w : WhiskRun) (o : Nat), List.find? (fun w ↦ w.tile == tile) s.whisk = some w ∧ w.startup = false ∧ w.failed = none ∧ s.outcome w same = some o) ∧
    (∃ (s : State) (tile : Nat) (same : List Bool) (w : WhiskRun), List.find? (fun w ↦ w.tile == tile) s.whisk = some w ∧ w.failed = none ∧ s.outcome w same = none) ∧
    (∃ (s : State) (tile : Nat) (w : WhiskRun), List.find? (fun w ↦ w.tile == tile && !w.startup) s.whisk = some w) ∧
    (∃ (s : State) (tile : Nat) (test : Nat) (w : WhiskRun), List.find? (fun w ↦ w.tile == tile && w.test == test && !w.startup && decide (w.accepted + s.waitMax ≤ s.time)) (s.whisk ++ s.whiskQ) = some w) ∧
    (∃ (s : State), (s.coreUp 1 = false ∨ s.content.tests = [])) ∧
    (∃ (s : State) (p : Nat) (t : TestEnt) (w : WhiskRun) (q : CoreCmd), s.serving 1 = true ∧ s.hasTicket = true ∧ (s.ctx 0).st ≠ CtxState.terminated ∧ p < s.cfg.ladles ∧ p < 128 ∧ s.candidates p = [t] ∧ s.testEnt t.id = some t ∧ t.id < 2 ^ 16 ∧ (s.tileState p = TileState.spare ∨ s.tileState p = TileState.mapped) ∧ (s.hasRun p fun _ ↦ true) = false ∧ s.whiskQ.length < 16 ∧ s.isMapped p = false ∧ s.bit Reg.hubWhiskCtrl 31 = false ∧ Tab.get 0 s.testedAt p + s.testPeriod p ≤ s.time ∧ (∀ (x : Nat), x < s.cfg.ladles → x ≠ p → s.candidates x = [] ∨ s.time < Tab.get 0 s.testedAt x + s.testPeriod x) ∧ w = { id := s.nextWhisk, tile := p, test := t.id, ticket := some s.nextTicket, accepted := s.time } ∧ q = { k := 1, opc := 96, a := p, imm := t.id }) :=
  ⟨⟨up, { opc := 0x60, imm := 65535, a := 127 }, by decide +kernel⟩,
   ⟨{ up with banks := [{ tests := [{ id := 3, ops := 1 }] }, {}], tileStates := [(127, .spare)], whiskQ := [{ tile := 127 }] }, { opc := 0x60, imm := 3, a := 127 }, { id := 3, ops := 1 }, by decide +kernel⟩,
   ⟨{ up with banks := [{ tests := [{ id := 3, ops := 1 }] }, {}], tileStates := [(127, .mapped)], whiskQ := List.replicate 16 {} }, { opc := 0x60, imm := 3, a := 127 }, { id := 3, ops := 1 }, by decide +kernel⟩,
   ⟨{ up with banks := [{ tests := [{ id := 3, ops := 1 }] }, {}], tileStates := [(127, .spare)], whiskQ := List.replicate 15 {} }, { opc := 0x60, imm := 3, a := 127 }, { id := 3, ops := 1 }, _, rfl, by decide +kernel, by decide +kernel, rfl, rfl, by decide, by decide, by decide, by decide, by decide +kernel, by decide +kernel, by decide +kernel, by decide +kernel, .inl (by decide +kernel), by decide +kernel, by decide, by decide +kernel, by decide +kernel, rfl⟩,
   ⟨{ up with banks := [{ tests := [{ id := 3, ops := 1 }] }, {}], rcps := [(0, { st := .active })], regs := [(Reg.hubWhiskCtrl, 2 ^ 31)], tileStates := [(127, .spare)], ladles := [(127, { inReset := false })] }, { opc := 0x60, imm := 3, a := 127 }, { id := 3, ops := 1 }, _, rfl, by decide +kernel, by decide +kernel, rfl, rfl, by decide, by decide, by decide, by decide, by decide +kernel, by decide +kernel, by decide +kernel, by decide +kernel, .inl (by decide +kernel), by decide +kernel, by decide +kernel, by decide +kernel, rfl, by decide +kernel⟩,
   ⟨{ up with tileMap := [(127, 5)] }, { opc := 0x39, a := 127 }, 5, _, rfl, by decide +kernel, by decide +kernel, rfl, rfl, rfl, by decide, by decide, by decide, by decide +kernel, by decide +kernel, by decide +kernel, by decide +kernel, by decide +kernel, rfl⟩,
   ⟨{ up with ladles := [(5, { inReset := false })], regs := [(Reg.hubWhiskCtrl, 2 ^ 31)], whiskQ := [{ tile := 5, tap := true }] }, 5, 0, 0, { tile := 5, tap := true }, by decide +kernel⟩,
   ⟨{ up with banks := [{ tests := [{ id := 3, ops := 1 }] }, {}], rcps := [(0, { st := .active })], regs := [(Reg.hubWhiskCtrl, 2 ^ 31)], whiskQ := [{ tile := 5, test := 3 }], ladles := [(5, { inReset := false })], sb := [(0, bcvOfCrc 0 0 0 0x3E false 0xFE)] }, 5, 3, 0, { tile := 5, test := 3 }, { id := 3, ops := 1 }, by decide +kernel, by decide +kernel, by decide +kernel, by decide +kernel, by decide +kernel, rfl, by decide +kernel, rfl, (fun b _ h => (verify_zero _ b 0 0x3E rfl).trans (by have h0 : b < 0 + 1 := h; obtain rfl : b = 0 := (by omega); decide +kernel))⟩,
   ⟨{ up with whiskQ := [{ tile := 5 }] }, 5, 0, 0, { tile := 5 }, by decide +kernel, by decide +kernel, .inl (by decide +kernel)⟩,
   ⟨{ whisk := [{ tile := 5, failed := some 0x42 }] }, 5, { tile := 5, failed := some 0x42 }, 0x42, by decide +kernel⟩,
   ⟨{ whisk := [{ tile := 5, tap := true, res := [{ tap := false, pass := true }] }] }, 5, [true], { tile := 5, tap := true, res := [{ tap := false, pass := true }] }, 0, by decide +kernel⟩,
   ⟨{ whisk := [{ tile := 5 }] }, 5, [], { tile := 5 }, by decide +kernel⟩,
   ⟨{ whisk := [{ tile := 5 }] }, 5, { tile := 5 }, by decide +kernel⟩,
   ⟨{ time := 6000000000, whiskQ := [{ tile := 5, test := 2 }] }, 5, 2, { tile := 5, test := 2 }, by decide +kernel⟩,
   ⟨{}, by decide +kernel⟩,
   ⟨{ up with banks := [{ tests := [{ id := 3, ops := 1 }] }, {}], time := 2 ^ 60, cfg := { ladles := 1 }, tileStates := [(0, .spare)] }, 0, { id := 3, ops := 1 }, _, _, by decide +kernel, by decide +kernel, by decide +kernel, by decide +kernel, by decide, by decide +kernel, by decide +kernel, by decide, .inl (by decide +kernel), by decide +kernel, by decide, by decide +kernel, by decide +kernel, by decide +kernel, (fun x h n => absurd (show x < 1 from h) (by omega)), rfl, rfl⟩⟩

/-- The hypotheses of SuspectsAndTileMap can be met, clause by clause. -/
theorem witness_SuspectsAndTileMap :
    (∃ (s : State) (q : CoreCmd), q.opc = 98 ∧ s.serving q.k = true ∧ q.ctx = 0 ∧ q.imm % 16 = 0 ∧ q.imm ≤ 4064 ∧ q.b < 2 ^ 64 ∧ q.c < 2 ^ 64 ∧ q.a < 260 ∧ q.mod = 0) ∧
    (∃ (s : State) (q : CoreCmd), q.opc = 98 ∧ s.serving q.k = true ∧ q.ctx = 0 ∧ q.imm % 16 = 0 ∧ q.imm ≤ 4064 ∧ q.b < 2 ^ 64 ∧ q.c < 2 ^ 64 ∧ q.a < 260 ∧ q.mod = 1 ∧ (s.suspEnt q.a).st ≠ SuspState.quarantined) ∧
    (∃ (s : State) (q : CoreCmd), q.opc = 98 ∧ s.serving q.k = true ∧ q.ctx = 0 ∧ q.imm % 16 = 0 ∧ q.imm ≤ 4064 ∧ q.b < 2 ^ 64 ∧ q.c < 2 ^ 64 ∧ q.a < 260 ∧ q.mod = 1 ∧ (s.suspEnt q.a).st = SuspState.quarantined) ∧
    (∃ (s : State) (q : CoreCmd) (c : Cmd), q.opc = 98 ∧ s.serving q.k = true ∧ q.ctx = 0 ∧ q.imm % 16 = 0 ∧ q.imm ≤ 4064 ∧ q.b < 2 ^ 64 ∧ q.c < 2 ^ 64 ∧ q.a < 260 ∧ c.ctx = 0 ∧ c.a = q.a ∧ c.imm = q.imm ∧ c.mod = 0) ∧
    (∃ (s : State) (q : CoreCmd), q.opc = 99 ∧ s.serving q.k = true ∧ q.ctx = 0 ∧ q.mod = 0 ∧ q.imm = 0 ∧ q.a < 128 ∧ q.a < s.cfg.ladles ∧ q.b < 2 ^ 64 ∧ q.c < 2 ^ 64 ∧ (s.ctx 0).st ≠ CtxState.terminated ∧ s.tileState q.a = TileState.spare) ∧
    (∃ (s : State) (q : CoreCmd), q.opc = 99 ∧ s.serving q.k = true ∧ q.ctx = 0 ∧ q.mod = 0 ∧ q.imm = 0 ∧ q.a < 128 ∧ q.a < s.cfg.ladles ∧ q.b < 2 ^ 64 ∧ q.c < 2 ^ 64 ∧ (s.ctx 0).st ≠ CtxState.terminated ∧ s.tileState q.a = TileState.mapped) ∧
    (∃ (s : State) (q : CoreCmd), q.opc = 99 ∧ s.serving q.k = true ∧ q.ctx = 0 ∧ q.mod = 0 ∧ q.imm = 0 ∧ q.a < 128 ∧ q.a < s.cfg.ladles ∧ q.b < 2 ^ 64 ∧ q.c < 2 ^ 64 ∧ (s.ctx 0).st ≠ CtxState.terminated ∧ s.tileState q.a ≠ TileState.spare ∧ s.tileState q.a ≠ TileState.mapped) ∧
    (∃ (s : State) (l : Nat) (empty : List Nat) (p : Nat) (r : Nat), s.physOf l = some p ∧ s.tileState p = TileState.pending ∧ s.boundary p = true ∧ p ∈ empty ∧ (∀ (x : Rst), x ∈ s.rsts → x.active = false ∨ x.tiles.contains p = false) ∧ s.spareFor p = some r ∧ s.outranked empty p r = false ∧ (∀ (w : WhiskRun), w ∈ s.whisk → w.tile ≠ r)) ∧
    (∃ (s : State) (l : Nat) (empty : List Nat), (s.physOf l = none ∨ ∃ p, s.physOf l = some p ∧ (s.tileState p ≠ TileState.pending ∨ s.boundary p = false ∨ ¬p ∈ empty ∨ s.spareFor p = none ∨ ∃ r, s.spareFor p = some r ∧ s.outranked empty p r = true))) ∧
    (∃ (s : State), s.time < s.halvedAt + max 1 (s.reg Reg.hubSuspCfg % 2 ^ 8) * 6000000000) ∧
    (∃ (s : State), s.halvedAt + max 1 (s.reg Reg.hubSuspCfg % 2 ^ 8) * 6000000000 ≤ s.time) ∧
    (∃ (s : State) (q : CoreCmd), q.opc = 100 ∧ s.serving q.k = true ∧ q.mod = 0 ∧ q.imm % 16 = 0 ∧ q.imm + List.length s.mapRecord ≤ 4096 ∧ q.imm < 4096) ∧
    (∃ (s : State) (q : CoreCmd) (c : Cmd), q.opc = 100 ∧ s.serving q.k = true ∧ q.mod = 0 ∧ q.imm % 16 = 0 ∧ q.imm + List.length s.mapRecord ≤ 4096 ∧ q.imm < 4096 ∧ c.mod = 0 ∧ c.imm = q.imm) ∧
    (∃ (s : State) (q : CoreCmd) (p : Nat), q.opc = 56 ∧ s.serving q.k = true ∧ q.imm % 16 = 0 ∧ q.imm ≤ 3984 ∧ q.a < 128 ∧ s.physOf q.a = some p ∧ s.tileRuns p = true ∧ (s.stop p).unreachable = false ∧ q.mod = 0) ∧
    (∃ (s : State) (q : CoreCmd) (p : Nat), q.opc = 56 ∧ s.serving q.k = true ∧ q.imm % 16 = 0 ∧ q.imm ≤ 3984 ∧ q.a < 128 ∧ s.physOf q.a = some p ∧ s.tileRuns p = true ∧ (s.stop p).unreachable = false ∧ q.mod = 1 ∧ q.b < 2 ^ 64 ∧ q.c < 2 ^ 64) ∧
    (∃ (s : State) (q : CoreCmd) (p : Nat) (c : Cmd), q.opc = 56 ∧ s.serving q.k = true ∧ q.imm % 16 = 0 ∧ q.imm ≤ 3984 ∧ q.a < 128 ∧ s.physOf q.a = some p ∧ s.tileRuns p = true ∧ (s.stop p).unreachable = false ∧ c.a = q.a ∧ c.imm = q.imm ∧ c.mod = 0) :=
  ⟨⟨up, { opc := 0x62, a := 259, imm := 4064 }, by decide +kernel⟩,
   ⟨up, { opc := 0x62, a := 0, mod := 1 }, by decide +kernel⟩,
   ⟨{ up with susp := [(0, { st := .quarantined })] }, { opc := 0x62, mod := 1 }, by decide +kernel⟩,
   ⟨up, { opc := 0x62, a := 259, imm := 16 }, { a := 259, imm := 16 }, by decide +kernel⟩,
   ⟨{ up with tileStates := [(127, .spare)] }, { opc := 0x63, a := 127 }, by decide +kernel⟩,
   ⟨{ up with tileStates := [(127, .mapped)] }, { opc := 0x63, a := 127 }, by decide +kernel⟩,
   ⟨up, { opc := 0x63, a := 127 }, by decide +kernel⟩,
   ⟨{ tileMap := [(0, 5)], tileStates := [(5, .pending), (6, .spare)], stepEnded := true, susp := [(6, { st := .clear })] }, 0, [5], 5, 6, by decide +kernel, by decide +kernel, by decide +kernel, by decide +kernel, by decide +kernel, by decide +kernel, by decide +kernel, by nofun⟩,
   ⟨{ tileMap := [(0, 5)] }, 0, [], .inr ⟨5, by decide +kernel, .inl (by decide +kernel)⟩⟩,
   ⟨{ time := 359999999999 }, by decide +kernel⟩,
   ⟨{ time := 360000000000 }, by decide +kernel⟩,
   ⟨up, { opc := 0x64, imm := 3824 }, by decide +kernel⟩,
   ⟨up, { opc := 0x64, imm := 3824 }, { imm := 3824 }, by decide +kernel⟩,
   ⟨{ up with tileMap := [(127, 5)], ladles := [(5, { inReset := false })] }, { opc := 0x38, a := 127, imm := 3984 }, 5, by decide +kernel⟩,
   ⟨{ up with tileMap := [(127, 5)], ladles := [(5, { inReset := false })] }, { opc := 0x38, a := 127, mod := 1 }, 5, by decide +kernel⟩,
   ⟨{ up with tileMap := [(127, 5)], ladles := [(5, { inReset := false })] }, { opc := 0x38, a := 127, imm := 3984 }, 5, { a := 127, imm := 3984 }, by decide +kernel⟩⟩

/-- The hypotheses of ResetCommand can be met, clause by clause. -/
theorem witness_ResetCommand :
    (∃ (s : State) (q : CoreCmd), q.opc = 112 ∧ s.serving q.k = true ∧ s.hasTicket = true ∧ q.ctx = 0 ∧ q.mod = 0 ∧ q.imm = 0 ∧ q.a < 256 ∧ q.b < 2 ^ 64 ∧ q.c < 2 ^ 64 ∧ (s.ctx 0).st ≠ CtxState.terminated ∧ s.cfg.ladles ≤ q.a) ∧
    (∃ (s : State) (q : CoreCmd), q.opc = 112 ∧ s.serving q.k = true ∧ s.hasTicket = true ∧ q.ctx = 0 ∧ q.mod = 0 ∧ q.imm = 0 ∧ q.a < 256 ∧ q.b < 2 ^ 64 ∧ q.c < 2 ^ 64 ∧ (s.ctx 0).st ≠ CtxState.terminated ∧ q.a < s.cfg.ladles ∧ (∃ j, j < 4 ∧ (s.rst j).active = true ∧ ((s.rst j).level = 0 ∧ (s.rst j).id = q.a ∧ (s.rst j).phase ≠ RstPhase.held ∨ 0 < (s.rst j).level ∧ q.a ∈ (s.rst j).raised))) ∧
    (∃ (s : State) (q : CoreCmd) (k : Nat), q.opc = 112 ∧ s.serving q.k = true ∧ s.hasTicket = true ∧ q.ctx = 0 ∧ q.mod = 0 ∧ q.imm = 0 ∧ q.a < 256 ∧ q.b < 2 ^ 64 ∧ q.c < 2 ^ 64 ∧ (s.ctx 0).st ≠ CtxState.terminated ∧ q.a < s.cfg.ladles ∧ (∀ (j : Nat), j < 4 → (s.rst j).active = true → ((s.rst j).level = 0 → (s.rst j).id ≠ q.a) ∧ (0 < (s.rst j).level → ¬q.a ∈ (s.rst j).raised)) ∧ s.idleRst = some k ∧ s.stepsOn [q.a] = [] ∧ s.rsts.length = 4) ∧
    (∃ (s : State) (q : CoreCmd), q.opc = 112 ∧ s.serving q.k = true ∧ q.ctx = 0 ∧ q.mod = 3 ∧ q.imm = 0 ∧ 0 < q.a ∧ q.a < 256 ∧ q.b < 2 ^ 64 ∧ q.c < 2 ^ 64 ∧ (s.ctx 0).st ≠ CtxState.terminated) :=
  ⟨⟨{ up with cfg := { ladles := 100 } }, { opc := 0x70, a := 255 }, by decide +kernel⟩,
   ⟨{ up with rsts := [{}, {}, {}, { active := true, phase := .drain, id := 127, tiles := [127] }] }, { opc := 0x70, a := 127 }, rfl, by decide +kernel, by decide +kernel, rfl, rfl, rfl, by decide, by decide, by decide, by decide +kernel, by decide +kernel, 3, by decide, by decide +kernel, .inl (by decide +kernel)⟩,
   ⟨up, { opc := 0x70, a := 127 }, 0, rfl, by decide +kernel, by decide +kernel, rfl, rfl, rfl, by decide, by decide, by decide, by decide +kernel, by decide +kernel, (by decide +kernel), by decide +kernel, by decide +kernel, rfl⟩,
   ⟨up, { opc := 0x70, mod := 3, a := 1 }, by decide +kernel⟩⟩

/-- The hypotheses of ResetPhases can be met, clause by clause. -/
theorem witness_ResetPhases :
    (∃ (s : State) (k : Nat), (s.rst k).active = true ∧ (s.rst k).phase = RstPhase.quiesce) ∧
    (∃ (s : State) (k : Nat), (s.rst k).active = true ∧ (s.rst k).phase = RstPhase.quiesce ∧ (s.rst k).since + 200 ≤ s.time) ∧
    (∃ (s : State) (k : Nat), (s.rst k).active = true ∧ (s.rst k).phase = RstPhase.quiesce ∧ s.time < (s.rst k).since + 200) ∧
    (∃ (s : State) (k : Nat), (s.rst k).active = true ∧ (s.rst k).phase = RstPhase.drain ∧ (s.rst k).safe = false) ∧
    (∃ (s : State) (k : Nat), (s.rst k).active = true ∧ (s.rst k).phase = RstPhase.drain ∧ (s.rst k).safe = true) ∧
    (∃ (s : State) (k : Nat), (s.rst k).active = true ∧ (s.rst k).phase = RstPhase.drain ∧ (s.rst k).since + drainLimit (s.rst k).level ≤ s.time) ∧
    (∃ (s : State) (k : Nat), (s.rst k).active = true ∧ (s.rst k).phase = RstPhase.drain ∧ s.time < (s.rst k).since + drainLimit (s.rst k).level) ∧
    (∃ (s : State) (k : Nat), k < s.rsts.length ∧ (s.rst k).active = true ∧ (s.rst k).phase = RstPhase.drain ∧ (s.rst k).safe = false ∧ (∀ (t : Nat), t ∈ (s.rst k).tiles → (s.ladle t).inReset = true) ∧ (∀ (w : Window), w ∈ s.windows → w.slot ≠ k)) ∧
    (∃ (s : State) (k : Nat), k < s.rsts.length ∧ (s.rst k).active = true ∧ (s.rst k).phase = RstPhase.reset ∧ (s.rst k).since + 64 ≤ s.time) ∧
    (∃ (s : State) (k : Nat), k < s.rsts.length ∧ (s.rst k).active = true ∧ (s.rst k).phase = RstPhase.reset ∧ s.time < (s.rst k).since + 64) ∧
    (∃ (s : State) (k : Nat), (s.rst k).active = true ∧ (s.rst k).phase = RstPhase.ready ∧ (∀ (t : Nat), t ∈ (s.rst k).tiles → (s.ladle t).checked = some true)) ∧
    (∃ (s : State) (k : Nat), (s.rst k).active = true ∧ (s.rst k).phase = RstPhase.ready ∧ (∀ (t : Nat), t ∈ (s.rst k).tiles → (s.ladle t).checked ≠ none) ∧ (∃ t, t ∈ (s.rst k).tiles ∧ (s.ladle t).checked = some false)) ∧
    (∃ (s : State) (k : Nat), (s.rst k).active = true ∧ (s.rst k).phase = RstPhase.ready ∧ k < s.rsts.length ∧ (s.rst k).tiles ≠ [] ∧ (∀ (t : Nat), t ∈ (s.rst k).tiles → (s.ladle t).checked = none ∧ (s.ladle t).kat = KatState.idle ∧ (s.ladle t).gateShut = false)) ∧
    (∃ (s : State) (k : Nat), (s.rst k).active = true ∧ (s.rst k).phase = RstPhase.ready ∧ (s.rst k).since + readyLimit (s.rst k).level + (s.rst k).stopped ≤ s.time) ∧
    (∃ (s : State) (k : Nat), (s.rst k).active = true ∧ (s.rst k).phase = RstPhase.ready ∧ s.time < (s.rst k).since + readyLimit (s.rst k).level + (s.rst k).stopped) ∧
    (∃ (s : State) (k : Nat), k < s.rsts.length ∧ (s.rst k).tickets = []) ∧
    (∃ (s : State) (k : Nat) (w : Window), List.find? (fun w ↦ w.slot == k && decide (w.since + 100000 ≤ s.time)) s.windows = some w ∧ w.scrub = []) ∧
    (∃ (s : State) (k : Nat), (∀ (w : Window), w ∈ s.windows → w.slot = k → s.time < w.since + 100000)) :=
  ⟨⟨{ rsts := [{}, {}, {}, { active := true, phase := .quiesce }] }, 3, by decide +kernel⟩,
   ⟨{ rsts := [{}, {}, {}, { active := true, phase := .quiesce }], time := 200 }, 3, by decide +kernel⟩,
   ⟨{ rsts := [{}, {}, {}, { active := true, phase := .quiesce }], time := 199 }, 3, by decide +kernel⟩,
   ⟨{ rsts := [{}, {}, {}, { active := true, phase := .drain }] }, 3, by decide +kernel⟩,
   ⟨{ rsts := [{}, {}, {}, { active := true, phase := .drain, safe := true }] }, 3, by decide +kernel⟩,
   ⟨{ rsts := [{}, {}, {}, { active := true, phase := .drain }], time := 2 ^ 40 }, 3, by decide +kernel⟩,
   ⟨{ rsts := [{}, {}, {}, { active := true, phase := .drain }] }, 3, by decide +kernel⟩,
   ⟨{ rsts := [{}, {}, {}, { active := true, phase := .drain, tiles := [5] }] }, 3, by decide +kernel⟩,
   ⟨{ rsts := [{}, {}, {}, { active := true, phase := .reset }], time := 64 }, 3, by decide +kernel⟩,
   ⟨{ rsts := [{}, {}, {}, { active := true, phase := .reset }], time := 63 }, 3, by decide +kernel⟩,
   ⟨{ rsts := [{}, {}, {}, { active := true, phase := .ready, tiles := [5] }], ladles := [(5, { inReset := false, checked := some true })] }, 3, by decide +kernel⟩,
   ⟨{ rsts := [{}, {}, {}, { active := true, phase := .ready, tiles := [5] }], ladles := [(5, { inReset := false, checked := some false })] }, 3, by decide +kernel, by decide +kernel, by decide +kernel, 5, by decide +kernel, by decide +kernel⟩,
   ⟨{ rsts := [{}, {}, {}, { active := true, phase := .ready, tiles := [5] }], ladles := [(5, { inReset := false, checked := none })] }, 3, by decide +kernel⟩,
   ⟨{ rsts := [{}, {}, {}, { active := true, phase := .ready }], time := 2 ^ 40 }, 3, by decide +kernel⟩,
   ⟨{ rsts := [{}, {}, {}, { active := true, phase := .ready }] }, 3, by decide +kernel⟩,
   ⟨{}, 3, by decide +kernel⟩,
   ⟨{ time := 100000, windows := [{ slot := 1 }] }, 1, { slot := 1 }, by decide +kernel⟩,
   ⟨{ time := 99999, windows := [{ slot := 1 }] }, 1, by decide +kernel⟩⟩


/-- The hypotheses of HangsAndCompletionFilter can be met, clause by clause. -/
theorem witness_HangsAndCompletionFilter :
    (∃ (s : State), s.time < s.windowAt + 100 * max 1 (s.reg Reg.hubWatchCtrl % 2 ^ 8)) ∧
    (∃ (s : State) (fin : Nat), fin = s.windowAt + 100 * max 1 (s.reg Reg.hubWatchCtrl % 2 ^ 8) ∧ fin ≤ s.time) ∧
    (∃ (s : State) (l : List (Nat × List (Nat × Bool))) (fin : Nat) (t : Nat) (x : List (Nat × Bool)), s.isWatched t = true ∧ (s.watchedUnit t).excludedBy fin = false ∧ lookup l t = some x ∧ madeProgress x = false ∧ t < 128 ∧ (s.watchedUnit t).hung = false ∧ (s.watchedUnit t).verdictHung = false ∧ (s.watchedUnit t).idleWindows + 1 = max 1 (fieldOf (s.reg Reg.hubWatchCtrl) 15 8)) ∧
    (∃ (s : State) (t : Nat) (o : OpRec) (u : State), List.find? (fun o ↦ o.overdue t (100000 * max 1 (s.reg Reg.hubWatchCtrl / 2 ^ 24)) s.time) s.recs = some o ∧ u = (s.setCtx o.d.ctx ((s.ctx o.d.ctx).markAged o)).setWatched t { s.watchedUnit t with verdictHung := true } ∧ (s.watchedUnit t).hung = false ∧ (s.watchedUnit t).verdictHung = false) ∧
    (∃ (s : State) (t : Nat) (o : OpRec) (u : State), List.find? (fun o ↦ o.overdue t (100000 * max 1 (s.reg Reg.hubWatchCtrl / 2 ^ 24)) s.time) s.recs = some o ∧ u = (s.setCtx o.d.ctx ((s.ctx o.d.ctx).markAged o)).setWatched t { s.watchedUnit t with verdictHung := true } ∧ ((s.watchedUnit t).hung = true ∨ (s.watchedUnit t).verdictHung = true)) ∧
    (∃ (s : State) (t : Nat), List.find? (fun o ↦ o.overdue t (100000 * max 1 (s.reg Reg.hubWatchCtrl / 2 ^ 24)) s.time) s.recs = none) ∧
    (∃ (c : Nat), c = 0) ∧
    (∃ (c : Nat), c = 0) ∧
    (∃ (s : State) (c : Nat) (gen : Nat), c ≠ 0 ∧ (s.ctx c).gen = gen ∧ (s.ctx c).st = CtxState.live) ∧
    (∃ (s : State) (c : Nat) (gen : Nat), c ≠ 0 ∧ (s.ctx c).gen = gen ∧ (s.ctx c).st = CtxState.terminated) ∧
    (∃ (s : State) (c : Nat) (gen : Nat), c ≠ 0 ∧ (s.ctx c).gen ≠ gen) ∧
    (∃ (s : State) (c : Nat) (gen : Nat), c ≠ 0 ∧ (s.ctx c).gen ≠ gen ∧ s.tearing c gen = none) ∧
    (∃ (s : State) (c : Nat) (gen : Nat) (v : Teardown), c ≠ 0 ∧ (s.ctx c).gen ≠ gen ∧ s.tearing c gen = some v) :=
  ⟨⟨{ time := 9999 }, by decide +kernel⟩,
   ⟨{ time := 10000 }, _, rfl, by decide +kernel⟩,
   ⟨{ ladles := [(127, { inReset := false })], watched := [(127, { idleWindows := 9 })] }, [(127, [(7, true), (7, true)])], 0, 127, [(7, true), (7, true)], by decide +kernel⟩,
   ⟨{ ladles := [(0, { inReset := false })], ctxs := [(1, { slots := [{ st := .open_, ops := [{ d := { ctx := 1 } }] }, {}, {}, {}] })], time := 200000 }, 0, { d := { ctx := 1 } }, _, by decide +kernel, rfl, by decide +kernel, by decide +kernel⟩,
   ⟨{ ladles := [(0, { inReset := false })], ctxs := [(1, { slots := [{ st := .open_, ops := [{ d := { ctx := 1 } }] }, {}, {}, {}] })], time := 200000, watched := [(0, { hung := true })] }, 0, { d := { ctx := 1 } }, _, by decide +kernel, rfl, by decide +kernel⟩,
   ⟨{ ladles := [(0, { inReset := false })], ctxs := [(1, { slots := [{ st := .open_, ops := [{}] }, {}, {}, {}] })], time := 199999 }, 0, by decide +kernel⟩,
   ⟨0, by decide +kernel⟩,
   ⟨0, by decide +kernel⟩,
   ⟨{ ctxs := [(1, { st := .live })] }, 1, 1, by decide +kernel⟩,
   ⟨{ ctxs := [(1, { st := .terminated })] }, 1, 1, by decide +kernel⟩,
   ⟨{}, 1, 2, by decide +kernel⟩,
   ⟨{}, 1, 2, by decide +kernel⟩,
   ⟨{ teardowns := [{ ctx := 1, gen := 2 }] }, 1, 2, { ctx := 1, gen := 2 }, by decide +kernel⟩⟩

/-- The hypotheses of Dumps can be met, clause by clause. -/
theorem witness_Dumps :
    (∃ (s : State) (q : CoreCmd), q.opc = 113 ∧ s.coreUp q.k = true ∧ s.safe = none ∧ s.hasTicket = true ∧ q.ctx = 0 ∧ q.mod = 0 ∧ q.imm < 256 ∧ q.a + 16 ≤ 2 ^ 38 ∧ q.b < 2 ^ 64 ∧ q.c < 2 ^ 64 ∧ (s.ctx 0).st ≠ CtxState.terminated ∧ scopeOk q.imm = false) ∧
    (∃ (s : State) (q : CoreCmd), q.opc = 113 ∧ s.coreUp q.k = true ∧ s.safe = none ∧ s.hasTicket = true ∧ q.ctx = 0 ∧ q.mod = 0 ∧ q.imm < 256 ∧ q.a + 16 ≤ 2 ^ 38 ∧ q.b < 2 ^ 64 ∧ q.c < 2 ^ 64 ∧ (s.ctx 0).st ≠ CtxState.terminated ∧ scopeOk q.imm = true ∧ (s.dump.isSome = true ∨ s.bit Reg.hubDumpStatus 30 = true)) ∧
    (∃ (s : State) (q : CoreCmd), q.opc = 113 ∧ s.coreUp q.k = true ∧ s.safe = none ∧ s.hasTicket = true ∧ q.ctx = 0 ∧ q.mod = 0 ∧ q.imm < 256 ∧ q.a + 16 ≤ 2 ^ 38 ∧ q.b < 2 ^ 64 ∧ q.c < 2 ^ 64 ∧ (s.ctx 0).st ≠ CtxState.terminated ∧ q.imm = 254 ∧ s.dump = none ∧ s.bit Reg.hubDumpStatus 30 = false ∧ s.bothStalled = false) ∧
    (∃ (s : State) (d : Dump) (r : DumpRead), s.dump = some d ∧ d.reads = [r] ∧ r.state = true ∧ d.skips r.unit = false ∧ s.unitInReset r.unit = false ∧ s.time ≤ d.since + 200 ∧ s.bring.reads = [] ∧ d.recs.length < 4092) ∧
    (∃ (s : State) (d : Dump) (r : DumpRead) (rest : List DumpRead), s.dump = some d ∧ d.reads = r :: rest ∧ d.skips r.unit = false ∧ s.unitInReset r.unit = false ∧ s.time < d.since + 200) ∧
    (∃ (s : State) (d : Dump) (r : DumpRead), s.dump = some d ∧ d.reads = [r] ∧ r.state = false ∧ s.tileRuns r.tile = true ∧ (s.stop r.tile).unreachable = false ∧ d.skips r.unit = false ∧ s.unitInReset r.unit = false ∧ s.time ≤ d.since + 200) ∧
    (∃ (s : State) (d : Dump), s.dump = some d ∧ d.copying = true ∧ (∀ (k : Ticket), s.ticket d.ticket = some k → k.owner = Owner.kettle 2) ∧ s.memOn = false) ∧
    (∃ (s : State) (r : StateRead) (i : Nat) (w : Nat) (m : LinkMeas), s.bring.reads = [r] ∧ s.time < r.since + 200 ∧ r.link = some (i, w) ∧ s.bring.links[i]? = some m) ∧
    (∃ (s : State), s.dump = none) ∧
    (∃ (s : State), s.dump = none) :=
  ⟨⟨up, { opc := 0x71, imm := 255, a := 2 ^ 38 - 16 }, by decide +kernel⟩,
   ⟨{ up with dump := some {} }, { opc := 0x71, imm := 160 }, rfl, by decide +kernel, rfl, by decide +kernel, rfl, rfl, by decide, by decide, by decide, by decide, by decide +kernel, by decide +kernel, .inl rfl⟩,
   ⟨up, { opc := 0x71, imm := 254 }, by decide +kernel⟩,
   ⟨{ time := 200, dump := some { reads := [{ unit := 200, state := true }] } }, { reads := [{ unit := 200, state := true }] }, { unit := 200, state := true }, by decide +kernel⟩,
   ⟨{ time := 199, dump := some { reads := [{ unit := 200, state := true }] } }, { reads := [{ unit := 200, state := true }] }, { unit := 200, state := true }, [], by decide +kernel⟩,
   ⟨{ time := 200, ladles := [(5, { inReset := false })], dump := some { reads := [{ tile := 5, unit := 200 }] } }, { reads := [{ tile := 5, unit := 200 }] }, { tile := 5, unit := 200 }, by decide +kernel⟩,
   ⟨{ dump := some { copying := true } }, { copying := true }, rfl, rfl, nofun, rfl⟩,
   ⟨{ time := 199, bring := { reads := [{ link := some (0, 2) }], links := [{}] } }, { link := some (0, 2) }, 0, 2, {}, by decide +kernel⟩,
   ⟨{}, by decide +kernel⟩,
   ⟨{}, by decide +kernel⟩⟩

/-- The hypotheses of PairsAndCaptures can be met, clause by clause. -/
theorem witness_PairsAndCaptures :
    (∃ (s : State) (stn : Nat) (i : Nat), s.hasPair stn i = true ∧ (s.pair stn i).decoded = true ∧ (s.pair stn i).lvl = PairState.ok ∧ 8 ≤ i ∧ s.pairClass stn i = 2 ∧ s.bit Reg.colStatus 16 = false ∧ s.capBeats = []) ∧
    (∃ (s : State) (stn : Nat) (i : Nat), s.hasPair stn i = true ∧ (s.pair stn i).decoded = false) ∧
    (∃ (s : State) (stn : Nat) (i : Nat), s.hasPair stn i = true ∧ (i < 8 → (s.pair stn i).filt ≠ some PairState.error)) ∧
    (∃ (s : State) (stn : Nat) (i : Nat), i < 8 ∧ (s.pair stn i).filt = some PairState.error) ∧
    (∃ (s : State) (stn : Nat) (i : Nat), s.hasPair stn i = true ∧ s.pairOn stn i = true ∧ (s.pair stn i).armed = true ∧ (s.pair stn i).decoded = false ∧ (s.pair stn i).armedAt + 100000 ≤ s.time) ∧
    (∃ (s : State) (stn : Nat) (i : Nat), s.hasPair stn i = true ∧ s.pairOn stn i = true ∧ (s.pair stn i).armed = true ∧ (s.pair stn i).decoded = false ∧ s.time < (s.pair stn i).armedAt + 100000) ∧
    (∃ (s : State) (stn : Nat) (i : Nat) (cyc : Nat) (w : CapWait), s.hasPair stn i = true ∧ s.capWaits = [w] ∧ w.station = stn ∧ w.pair = i ∧ w.cycle ≤ cyc ∧ cyc ≤ w.cycle + 40) ∧
    (∃ (s : State) (stn : Nat) (i : Nat) (cyc : Nat) (w : CapWait), s.capWaits = [w] ∧ w.station = stn ∧ w.pair = i ∧ w.cycle + 40 < cyc) ∧
    (∃ (s : State) (stn : Nat) (i : Nat) (cyc : Nat) (w : CapWait), s.capWaits = [w] ∧ w.station = stn ∧ w.pair = i ∧ cyc ≤ w.cycle + 40) ∧
    (∃ (s : State) (stn : Nat) (i : Nat), s.hasPair stn i = true) ∧
    (∃ (s : State) (stn : Nat) (i : Nat), s.hasPair stn i = false) ∧
    (∃ (s : State) (stn : Nat) (i : Nat), s.hasPair stn i = false) ∧
    (∃ (s : State) (stn : Nat) (i : Nat), s.hasPair stn i = false) ∧
    (∃ (s : State) (stn : Nat) (i : Nat), s.hasPair stn i = false) :=
  ⟨⟨{ pairs := [(15 * 64 + 63, { decoded := true })] }, 15, 63, by decide +kernel⟩,
   ⟨{}, 15, 63, by decide +kernel⟩,
   ⟨{}, 15, 63, by decide +kernel⟩,
   ⟨{ pairs := [(15 * 64 + 7, { filt := some .error })] }, 15, 7, by decide +kernel⟩,
   ⟨{ time := 100000, regs := [(atStn 15 Reg.colStnEnLo + 4, 2 ^ 31)] }, 15, 63, by decide +kernel⟩,
   ⟨{ time := 99999, regs := [(atStn 15 Reg.colStnEnLo + 4, 2 ^ 31)] }, 15, 63, by decide +kernel⟩,
   ⟨{ capWaits := [{ station := 15, pair := 63, cycle := 100 }] }, 15, 63, 140, { station := 15, pair := 63, cycle := 100 }, by decide +kernel⟩,
   ⟨{ capWaits := [{ station := 15, pair := 63, cycle := 100 }] }, 15, 63, 141, { station := 15, pair := 63, cycle := 100 }, by decide +kernel⟩,
   ⟨{ capWaits := [{ station := 15, pair := 63, cycle := 100 }] }, 15, 63, 140, { station := 15, pair := 63, cycle := 100 }, by decide +kernel⟩,
   ⟨{}, 15, 63, by decide +kernel⟩,
   ⟨{}, 15, 64, by decide +kernel⟩,
   ⟨{}, 15, 64, by decide +kernel⟩,
   ⟨{}, 15, 64, by decide +kernel⟩,
   ⟨{}, 15, 64, by decide +kernel⟩⟩

/-- The hypotheses of SafeStateAndClears can be met, clause by clause. -/
theorem witness_SafeStateAndClears :
    (∃ (s : State), s.safe = none ∧ s.rsts = [{ }, { }, { }, { }]) ∧
    (∃ (s : State), s.safe = some 1 ∧ s.faAny = false ∧ s.safeReset = true) ∧
    (∃ (s : State), (s.safe ≠ some 1 ∨ s.faAny = true ∨ s.safeReset = false)) ∧
    (∃ (s : State) (stn : Nat) (v : Nat), stn < 16 ∧ stn < s.cfg.stations ∧ v < 2 ^ 32) ∧
    (∃ (s : State) (a : Nat) (r : RegRow), s.respCode a = 0 ∧ regRow a = some r ∧ (a = Reg.colStatus → s.capWaits = []) ∧ ¬(69632 ≤ a ∧ a < 73728)) ∧
    (∃ (s : State) (a : Nat), s.respCode a ≠ 0) :=
  ⟨⟨{}, by decide +kernel⟩,
   ⟨{ safe := some 1, safeReset := true }, by decide +kernel⟩,
   ⟨{ safe := some 2 }, .inl (by decide)⟩,
   ⟨{}, 15, 2 ^ 32 - 1, by decide +kernel⟩,
   ⟨{}, Reg.colStatus, _, by decide +kernel, rfl, (fun _ => rfl), by decide⟩,
   ⟨{}, 0x12100, by decide +kernel⟩⟩

/-- The hypotheses of SensorsAndZones can be met, clause by clause. -/
theorem witness_SensorsAndZones :
    (∃ (s : State) (i : Nat) (w : Nat), i < min 256 s.cfg.sensors ∧ sampleOk i w = true) ∧
    (∃ (s : State) (i : Nat) (w : Nat), i < min 256 s.cfg.sensors ∧ sampleOk i w = false) ∧
    (∃ (s : State) (i : Nat), min 256 s.cfg.sensors ≤ i) ∧
    (∃ (s : State) (z : Nat), (s.zone z).fast = true ∧ s.fastCond z = false ∧ (s.zone z).fastHeld + 400000 ≤ s.time) ∧
    (∃ (s : State) (z : Nat), (s.fastCond z = true ∨ s.time < (s.zone z).fastHeld + 400000)) :=
  ⟨⟨{}, 255, 53453849087, by decide +kernel⟩,
   ⟨{}, 255, 0, by decide +kernel⟩,
   ⟨{}, 256, by decide +kernel⟩,
   ⟨{ time := 400000, trv := { zones := [(0, { fast := true })] } }, 0, by decide +kernel⟩,
   ⟨{ time := 399999, trv := { zones := [(0, { fast := true })] } }, 0, by decide +kernel⟩⟩

/-- The hypotheses of RegulatorsAndBudget can be met, clause by clause. -/
theorem witness_RegulatorsAndBudget :
    (∃ (s : State) (ws : List Nat), ws.length = s.trv.curve.rails.length) ∧
    (∃ (s : State) (k : Nat), k < s.trv.curve.rails.length) ∧
    (∃ (s : State) (k : Nat) (r : RailDef), (s.rail k).fails = 3 ∧ r.counted = true) ∧
    (∃ (s : State) (q : CoreCmd), q.opc = 121 ∧ s.serving q.k = true ∧ q.mod = 0 ∧ q.imm % 16 = 0 ∧ q.imm ≤ 4032 ∧ q.a < 2 ^ 64 ∧ q.b < 2 ^ 64 ∧ q.c < 2 ^ 64) ∧
    (∃ (s : State) (q : CoreCmd) (c : Cmd), q.opc = 121 ∧ s.serving q.k = true ∧ q.mod = 0 ∧ q.imm % 16 = 0 ∧ q.imm ≤ 4032 ∧ q.a < 2 ^ 64 ∧ q.b < 2 ^ 64 ∧ q.c < 2 ^ 64 ∧ c.ctx = q.ctx ∧ c.a = 0 ∧ c.b = 0 ∧ c.c = 0 ∧ c.mod = 0 ∧ c.imm = q.imm) ∧
    (∃ (s : State) (z : Nat), s.hotZone = some z) ∧
    (∃ (s : State) (z : Nat), s.hotZone = some z) :=
  ⟨⟨{}, [], by decide +kernel⟩,
   ⟨{ trv := { curve := { rails := [{}] } } }, 0, by decide +kernel⟩,
   ⟨{ trv := { rails := [(0, { fails := 3 })] } }, 0, { counted := true }, by decide +kernel⟩,
   ⟨up, { opc := 0x79, ctx := 9, imm := 4032 }, by decide +kernel⟩,
   ⟨up, { opc := 0x79, ctx := 9, imm := 4032 }, { ctx := 9, imm := 4032 }, by decide +kernel⟩,
   ⟨{}, 0, by decide +kernel⟩,
   ⟨{}, 0, by decide +kernel⟩⟩

/-- The hypotheses of PolicyChanges can be met, clause by clause. -/
theorem witness_PolicyChanges :
    (∃ (s : State), s.fixed = true) ∧
    (∃ (s : State), s.fixed = false) ∧
    (∃ (s : State) (q : CoreCmd), q.opc = 120 ∧ s.serving q.k = true ∧ q.ctx = 0 ∧ (s.ctx 0).st ≠ CtxState.terminated ∧ q.mod = 0 ∧ q.imm = 0 ∧ q.a < 256 ∧ q.b < 2 ^ 64 ∧ q.c < 2 ^ 64 ∧ s.thrBad q.a q.b = false) ∧
    (∃ (s : State) (q : CoreCmd), q.opc = 120 ∧ s.serving q.k = true ∧ q.ctx = 0 ∧ (s.ctx 0).st ≠ CtxState.terminated ∧ q.mod = 0 ∧ q.imm = 0 ∧ q.a < 256 ∧ q.b < 2 ^ 64 ∧ q.c < 2 ^ 64 ∧ s.thrBad q.a q.b = true) ∧
    (∃ (s : State) (z : Nat) (w : Nat) (t : Nat) (u : Nat) (h : Nat), z < s.zoneCount ∧ z ≠ 255 ∧ (s.zoneDef z).mem = false ∧ w < 2 ^ 8 ∧ t < 2 ^ 8 ∧ u < 2 ^ 8 ∧ h < 2 ^ 4) ∧
    (∃ (s : State) (z : Nat) (w : Nat) (t : Nat) (u : Nat) (h : Nat), z < s.zoneCount ∧ z ≠ 255 ∧ (s.zoneDef z).mem = false ∧ w < 2 ^ 8 ∧ t < 2 ^ 8 ∧ u < 2 ^ 8 ∧ h < 2 ^ 4) ∧
    (∃ (l : Nat), l < 2 ^ 16) ∧
    (∃ (s : State), s.trv.held = none) ∧
    (∃ (s : State) (c : HeldChange), s.trv.held = some c ∧ (s.trv.heldDue = true ∨ s.anyStep = false)) ∧
    (∃ (s : State) (c : HeldChange), s.trv.held = some c ∧ s.trv.heldDue = false ∧ s.anyStep = true) ∧
    (∃ (d : Nat), d < 32) ∧
    (∃ (s : State) (v : Nat), s.avsOk v = true) ∧
    (∃ (s : State) (v : Nat), s.avsOk v = false) ∧
    (∃ (s : State) (v : Nat), s.avsOk v = true) ∧
    (∃ (s : State) (c : Curve), s.bothStalled = false ∧ checkCurve (s.bytes (s.reg Reg.trvCurveBlk * 64 * 4096) 65536) s.cfg.sensors = Except.ok c) ∧
    (∃ (s : State) (st : Nat), s.bothStalled = false ∧ checkCurve (s.bytes (s.reg Reg.trvCurveBlk * 64 * 4096) 65536) s.cfg.sensors = Except.error st) ∧
    (∃ (s : State) (c : Curve), s.trv.loaded = some c) ∧
    (∃ (v : Nat), v < 2 ^ 32 ∧ bitAt v 6 = 1 ∧ bitAt v 14 = 1 ∧ v % 64 = v / 256 % 64) ∧
    (∃ (v : Nat), v < 2 ^ 32 ∧ (bitAt v 6 = 0 ∨ bitAt v 14 = 0 ∨ v % 64 ≠ v / 256 % 64)) :=
  ⟨⟨{ fixed := true }, by decide +kernel⟩,
   ⟨{}, by decide +kernel⟩,
   ⟨up, { opc := 0x78, b := 90 + 100 * 2 ^ 8 + 120 * 2 ^ 16 + 3 * 2 ^ 24 }, by decide +kernel⟩,
   ⟨up, { opc := 0x78, a := 1 }, by decide +kernel⟩,
   ⟨{}, 0, 255, 255, 255, 15, by decide +kernel⟩,
   ⟨{}, 0, 255, 255, 255, 15, by decide +kernel⟩,
   ⟨2 ^ 16 - 1, by decide +kernel⟩,
   ⟨{}, by decide +kernel⟩,
   ⟨{ trv := { held := some .select } }, .select, by decide +kernel⟩,
   ⟨{ trv := { held := some .select }, ctxs := [(1, { slots := [{ st := .open_ }, {}, {}, {}] })] }, .select, by decide +kernel⟩,
   ⟨31, by decide +kernel⟩,
   ⟨{ trv := { curve := { rails := [{ avs := true, avsRail := 15, vmin := 700, vmax := 900 }] } } }, 15 * 2 ^ 28 + 900, by decide +kernel⟩,
   ⟨{ trv := { curve := { rails := [{ avs := true, avsRail := 15, vmin := 700, vmax := 900 }] } } }, 15 * 2 ^ 28 + 901, by decide +kernel⟩,
   ⟨{ trv := { curve := { rails := [{ avs := true, avsRail := 15, vmin := 700, vmax := 900 }] } } }, 15 * 2 ^ 28 + 900, by decide +kernel⟩,
   ⟨curveState, curve_ok.choose, by decide +kernel, curve_ok.choose_spec⟩,
   ⟨{}, curve_bad.choose, by decide +kernel, curve_bad.choose_spec⟩,
   ⟨{ trv := { loaded := some {} } }, {}, by decide +kernel⟩,
   ⟨2 ^ 15 + 2 ^ 14 + 2 ^ 6 + 63 + 63 * 2 ^ 8, by decide +kernel⟩,
   ⟨2 ^ 14 + 2 ^ 6 + 63 + 62 * 2 ^ 8, by decide +kernel⟩⟩


/-- The hypotheses of FirmwareActivation can be met, clause by clause. -/
theorem witness_FirmwareActivation :
    (∃ (s : State) (q : CoreCmd), q.opc = 124 ∧ s.serving q.k = true ∧ s.hasTicket = true ∧ q.ctx = 0 ∧ (s.ctx 0).st ≠ CtxState.terminated ∧ q.mod = 0 ∧ q.a < 2 ^ 64 ∧ q.b < 2 ^ 64 ∧ q.c < 2 ^ 64 ∧ s.kettle.act = Activation.idle ∧ s.kettle.slot ≤ 1 ∧ q.imm = 1 - s.kettle.slot ∧ s.kettle.silent = false ∧ leAt (s.slotImage q.imm) 7 1 = s.kettle.fwMajor ∧ s.checkFw (s.slotImage q.imm) = stOk ∧ s.anyHot = false) ∧
    (∃ (s : State) (q : CoreCmd), q.opc = 124 ∧ s.serving q.k = true ∧ s.hasTicket = true ∧ q.ctx = 0 ∧ (s.ctx 0).st ≠ CtxState.terminated ∧ q.mod = 0 ∧ q.a < 2 ^ 64 ∧ q.b < 2 ^ 64 ∧ q.c < 2 ^ 64 ∧ s.kettle.act = Activation.idle ∧ s.kettle.slot ≤ 1 ∧ q.imm = 1 - s.kettle.slot ∧ s.kettle.silent = false ∧ leAt (s.slotImage q.imm) 7 1 = s.kettle.fwMajor ∧ s.checkFw (s.slotImage q.imm) = stOk ∧ s.anyHot = true) ∧
    (∃ (s : State) (q : CoreCmd), q.opc = 124 ∧ s.serving q.k = true ∧ s.hasTicket = true ∧ q.ctx = 0 ∧ (s.ctx 0).st ≠ CtxState.terminated ∧ q.mod = 0 ∧ q.a < 2 ^ 64 ∧ q.b < 2 ^ 64 ∧ q.c < 2 ^ 64 ∧ s.kettle.act = Activation.idle ∧ s.kettle.slot ≤ 1 ∧ q.imm = 1 - s.kettle.slot ∧ s.kettle.silent = true) ∧
    (∃ (s : State) (q : CoreCmd), q.opc = 124 ∧ s.serving q.k = true ∧ s.hasTicket = true ∧ q.ctx = 0 ∧ (s.ctx 0).st ≠ CtxState.terminated ∧ q.mod = 0 ∧ q.a < 2 ^ 64 ∧ q.b < 2 ^ 64 ∧ q.c < 2 ^ 64 ∧ s.kettle.act = Activation.idle ∧ s.kettle.slot ≤ 1 ∧ q.imm = 1 - s.kettle.slot) ∧
    (∃ (s : State), s.kettle.cores.length = 4) ∧
    (∃ (s : State) (slot : Nat) (tk : Nat), s.kettle.act = Activation.deferred slot tk ∧ s.anyHot = false ∧ s.trv.hotAt.getD 0 + 100000000 ≤ s.time) ∧
    (∃ (s : State) (slot : Nat) (tk : Nat), s.kettle.act = Activation.deferred slot tk ∧ (s.anyHot = true ∨ s.time < s.trv.hotAt.getD 0 + 100000000)) ∧
    (∃ (s : State) (slot : Nat) (tk : Nat) (k : Nat) (m : Nat), s.kettle.cores.length = 4 ∧ s.kettle.act = Activation.running slot tk k ∧ (k, m) ∈ [(1, 2), (2, 3), (3, 0)]) ∧
    (∃ (s : State) (slot : Nat) (tk : Nat), s.kettle.act = Activation.running slot tk 0 ∧ (∀ (n : Nat), (s.ring n).taken = [])) ∧
    (∃ (s : State) (k : Nat) (kick : Nat), s.kettle.cores.length = 4 ∧ s.wdogOver k kick = true ∧ (∀ (slot tk m : Nat), s.kettle.act ≠ Activation.running slot tk m) ∧ ((s.core k).recent s.time).length < 3) ∧
    (∃ (s : State) (k : Nat) (kick : Nat), s.kettle.cores.length = 4 ∧ s.wdogOver k kick = true ∧ (∀ (slot tk m : Nat), s.kettle.act ≠ Activation.running slot tk m) ∧ 3 ≤ ((s.core k).recent s.time).length) ∧
    (∃ (s : State) (k : Nat) (kick : Nat) (slot : Nat) (tk : Nat) (m : Nat), s.kettle.cores.length = 4 ∧ s.wdogOver k kick = true ∧ s.kettle.act = Activation.running slot tk m) ∧
    (∃ (s : State) (k : Nat) (kick : Nat), s.wdogOver k kick = false) ∧
    (∃ (s : State) (k : Nat) (copy : List Nat), k ≠ 0 ∧ k < 4 ∧ s.kettle.cores.length = 4 ∧ s.kettle.act = Activation.idle ∧ (s.core k).restarting = true ∧ (s.core k).held = false ∧ (∀ (n : Nat), (s.ring n).taken = []) ∧ (s.copyGood copy = true ∨ s.checkFw (s.slotImage s.kettle.slot) = stOk)) ∧
    (∃ (s : State) (k : Nat) (copy : List Nat) (st : Nat), k ≠ 0 ∧ k < 4 ∧ s.kettle.cores.length = 4 ∧ s.kettle.act = Activation.idle ∧ (s.core k).restarting = true ∧ (s.core k).held = false ∧ (∀ (n : Nat), (s.ring n).taken = []) ∧ s.copyGood copy = false ∧ s.checkFw (s.slotImage s.kettle.slot) = st ∧ st ≠ stOk) ∧
    (∃ (s : State) (k : Nat), (s.core k).restarting = false) :=
  ⟨⟨{ up with fuse := { words := fleetFuses }, kettle := { up.kettle with slotB := { image := some fwImage } } }, { opc := 0x7C, imm := 1 }, rfl, by decide +kernel, by decide +kernel, rfl, by decide +kernel, rfl, by decide, by decide, by decide, rfl, by decide, rfl, rfl, by decide +kernel, fw_ok _ (by decide +kernel) rfl, by decide +kernel⟩,
   ⟨{ up with fuse := { words := fleetFuses }, kettle := { up.kettle with slotB := { image := some fwImage } }, trv := { zones := [(0, { st := .throttle })] } }, { opc := 0x7C, imm := 1 }, rfl, by decide +kernel, by decide +kernel, rfl, by decide +kernel, rfl, by decide, by decide, by decide, rfl, by decide, rfl, rfl, by decide +kernel, fw_ok _ (by decide +kernel) rfl, by decide +kernel⟩,
   ⟨{ up with kettle := { up.kettle with silent := true } }, { opc := 0x7C, imm := 1 }, by decide +kernel⟩,
   ⟨up, { opc := 0x7C, imm := 1 }, by decide +kernel⟩,
   ⟨{}, by decide +kernel⟩,
   ⟨{ kettle := { act := .deferred 1 5 }, time := 100000000 }, 1, 5, by decide +kernel⟩,
   ⟨{ kettle := { act := .deferred 1 5 }, time := 99999999 }, 1, 5, by decide +kernel⟩,
   ⟨{ kettle := { act := .running 1 5 3 } }, 1, 5, 3, 0, by decide +kernel⟩,
   ⟨{ kettle := { act := .running 1 5 0 } }, 1, 5, rfl, fun _ => rfl⟩,
   ⟨{ up with time := 2 ^ 60 }, 3, 0, by decide +kernel, by decide +kernel, (by intro _ _ _ h; cases h), by decide +kernel⟩,
   ⟨{ time := 2 ^ 60, kettle := { cores := List.replicate 4 { running := true, restarts := [2 ^ 60, 2 ^ 60, 2 ^ 60] } } }, 3, 0, by decide +kernel, by decide +kernel, (by intro _ _ _ h; cases h), by decide +kernel⟩,
   ⟨{ time := 2 ^ 60, kettle := { cores := List.replicate 4 { running := true }, act := .running 1 5 2 } }, 3, 0, 1, 5, 2, by decide +kernel⟩,
   ⟨up, 3, 0, by decide +kernel⟩,
   ⟨{ fuse := { words := fleetFuses }, kettle := { cores := List.replicate 4 { restarting := true }, slotA := { image := some fwImage }, slot := 0 } }, 3, [], by decide, by decide, rfl, rfl, rfl, rfl, fun _ => rfl, .inr (fw_ok _ (by decide +kernel) rfl)⟩,
   ⟨{ kettle := { cores := List.replicate 4 { restarting := true }, slotA := { image := some [] }, slot := 0 } }, 3, [], _, by decide, by decide, rfl, rfl, rfl, rfl, fun _ => rfl, rfl, rfl, by decide +kernel⟩,
   ⟨{}, 0, by decide +kernel⟩⟩

/-- The hypotheses of FirmwareStaging can be met, clause by clause. -/
theorem witness_FirmwareStaging :
    (∃ (s : State), s.kettle.staging = none ∧ s.kettle.act = Activation.idle ∧ s.coreUp 0 = true) ∧
    (∃ (s : State), s.kettle.staging ≠ none) ∧
    (∃ (s : State), s.kettle.staging ≠ none) ∧
    (∃ (s : State), s.kettle.staging = none ∧ ((s.bring.stage ≠ 2 ∨ s.kettle.bootStage ≠ 4) ∧ (s.core 0).held = false)) ∧
    (∃ (s : State) (img : Bytes), s.kettle.staging = none ∧ s.bring.stage = 2 ∧ s.kettle.bootStage = 4 ∧ img = s.bytes (s.reg Reg.ktlStageBlk * 64 * 4096) (s.reg Reg.ktlStageLen % 2 ^ 23) ∧ s.checkFw img = stOk ∧ (∀ (n : Nat), (s.ring n).taken = [])) ∧
    (∃ (s : State) (n : Nat) (index : Nat) (x : Taken), s.taken n index = some x ∧ s.coreUp 0 = true ∧ x.handed = none ∧ x.served = false ∧ x.ran = false ∧ x.final = none ∧ x.index = index ∧ x.e.kind = 133 ∧ x.e.issued < 16 ∧ x.e.imm < 2 ^ 32 ∧ s.kettle.staging = none ∧ s.kettle.act = Activation.idle) ∧
    (∃ (s : State) (n : Nat) (index : Nat) (x : Taken), s.taken n index = some x ∧ s.coreUp 0 = true ∧ x.handed = none ∧ x.served = false ∧ x.ran = false ∧ x.final = none ∧ x.index = index ∧ x.e.kind = 133 ∧ x.e.issued < 16 ∧ x.e.imm < 2 ^ 32 ∧ s.kettle.staging = none ∧ s.kettle.act ≠ Activation.idle) ∧
    (∃ (s : State) (g : Staging) (img : Bytes), s.kettle.staging = some g ∧ g.ring = none ∧ s.bothStalled = false ∧ s.kettle.slot ≤ 1 ∧ s.checkFw (s.bytes (g.blk * 4096) (min g.len 4194320)) = stOk ∧ s.checkFw img = stOk) ∧
    (∃ (s : State) (g : Staging) (st : Nat), s.kettle.staging = some g ∧ g.ring = none ∧ s.bothStalled = false ∧ s.kettle.slot ≤ 1 ∧ s.checkFw (s.bytes (g.blk * 4096) (min g.len 4194320)) = st ∧ st ≠ stOk ∧ st ≠ stVersionMismatch) ∧
    (∃ (s : State), s.kettle.staging = none) :=
  ⟨⟨up, by decide +kernel⟩,
   ⟨{ kettle := { staging := some {} } }, by decide +kernel⟩,
   ⟨{ kettle := { staging := some {} } }, by decide +kernel⟩,
   ⟨{}, by decide +kernel⟩,
   ⟨stagedFw, fwImage, rfl, rfl, rfl, staged_bytes.symm, fw_ok _ (by decide +kernel) rfl, fun _ => rfl⟩,
   ⟨ringWith 1 { kind := 0x85 }, 1, 0, { e := { kind := 0x85 } }, by decide +kernel⟩,
   ⟨{ ringWith 1 { kind := 0x85 } with kettle := { up.kettle with act := .deferred 0 0 } }, 1, 0, { e := { kind := 0x85 } }, by decide +kernel⟩,
   ⟨stagingFw, { len := 512 }, fwImage, rfl, rfl, rfl, by decide, (by rw [staging_bytes]; exact fw_ok _ (by decide +kernel) rfl), fw_ok _ (by decide +kernel) rfl⟩,
   ⟨{ kettle := { staging := some { len := 512 } } }, { len := 512 }, stBadOperand, by decide +kernel⟩,
   ⟨{}, by decide +kernel⟩⟩

/-- The hypotheses of DoorbellsAndRingEnable can be met, clause by clause. -/
theorem witness_DoorbellsAndRingEnable :
    (∃ (s : State) (n : Nat) (v : Nat), n < 16 ∧ (v % 2 ^ 16 + 2 ^ 16 - (s.ring n).head) % 2 ^ 16 ≤ (s.ring n).size) ∧
    (∃ (s : State) (n : Nat) (v : Nat), n < 16 ∧ (s.ring n).size < (v % 2 ^ 16 + 2 ^ 16 - (s.ring n).head) % 2 ^ 16) ∧
    (∃ (s : State) (n : Nat) (v : Nat), n < 16 ∧ (v % 2 ^ 16 + 2 ^ 16 - (s.ring n).cons) % 2 ^ 16 ≤ ((s.ring n).prod + 2 ^ 16 - (s.ring n).cons) % 2 ^ 16) ∧
    (∃ (s : State) (n : Nat) (v : Nat), n < 16 ∧ ((s.ring n).prod + 2 ^ 16 - (s.ring n).cons) % 2 ^ 16 < (v % 2 ^ 16 + 2 ^ 16 - (s.ring n).cons) % 2 ^ 16) ∧
    (∃ (s : State) (src : Src) (n : Nat), n = s.banked src Bank.ringSel % 16) :=
  ⟨⟨{}, 15, 16, by decide +kernel⟩,
   ⟨{}, 15, 17, by decide +kernel⟩,
   ⟨{ rings := [(0, { prod := 4 })] }, 0, 4, by decide +kernel⟩,
   ⟨{ rings := [(0, { prod := 4 })] }, 0, 5, by decide +kernel⟩,
   ⟨{}, .port, 0, by decide +kernel⟩⟩

/-- The hypotheses of RingEntriesAndPrograms can be met, clause by clause. -/
theorem witness_RingEntriesAndPrograms :
    (∃ (s : State) (n : Nat), s.ringsServed = true ∧ s.ringTurn = some n ∧ s.bothStalled = false) ∧
    (∃ (s : State) (n : Nat), (s.ringsServed = false ∨ s.ringTurn ≠ some n)) ∧
    (∃ (s : State) (n : Nat) (index : Nat) (x : Taken) (k : Nat) (e : RingEntry), s.taken n index = some x ∧ x.handed = some k ∧ s.coreUp k = true ∧ s.coreUp 0 = true ∧ x.final = none ∧ returnOk x.e e = true) ∧
    (∃ (s : State) (n : Nat) (index : Nat) (x : Taken) (e : RingEntry), s.taken n index = some x ∧ (x.handed = none ∨ returnOk x.e e = false)) ∧
    (∃ (s : State) (n : Nat) (index : Nat) (x : Taken) (h : Bytes), s.taken n index = some x ∧ s.coreUp 0 = true ∧ x.handed = none ∧ x.served = false ∧ x.ran = false ∧ x.final = none ∧ x.index = index ∧ x.e.kind = 128 ∧ x.e.issued < 16 ∧ x.e.imm < 2 ^ 32 ∧ h = s.bytes (x.e.a0 % 2 ^ 38 * 4096) 64 ∧ (leAt h 6 2 ≠ 0 ∨ n = 0) ∧ s.submitCheck x.e.a0 h = stOk ∧ s.progsFull (leAt h 6 2) = false ∧ s.bothStalled = false ∧ s.progBlockOk (leAt h 6 2) (leAt h 8 2) x.e.a0 = true ∧ s.progBlockOk (leAt h 6 2) (leAt h 8 2) (leAt h 16 8) = true ∧ s.memOn = false) ∧
    (∃ (s : State) (n : Nat) (index : Nat) (x : Taken) (h : Bytes) (st : Nat), s.taken n index = some x ∧ s.coreUp 0 = true ∧ x.handed = none ∧ x.served = false ∧ x.ran = false ∧ x.final = none ∧ x.index = index ∧ x.e.kind = 128 ∧ x.e.issued < 16 ∧ x.e.imm < 2 ^ 32 ∧ h = s.bytes (x.e.a0 % 2 ^ 38 * 4096) 64 ∧ (leAt h 6 2 ≠ 0 ∨ n = 0) ∧ s.submitCheck x.e.a0 h = st ∧ st ≠ stOk) ∧
    (∃ (s : State) (n : Nat) (index : Nat) (x : Taken) (h : Bytes), s.taken n index = some x ∧ s.coreUp 0 = true ∧ x.handed = none ∧ x.served = false ∧ x.ran = false ∧ x.final = none ∧ x.index = index ∧ x.e.kind = 128 ∧ x.e.issued < 16 ∧ x.e.imm < 2 ^ 32 ∧ h = s.bytes (x.e.a0 % 2 ^ 38 * 4096) 64 ∧ (leAt h 6 2 ≠ 0 ∨ n = 0) ∧ s.submitCheck x.e.a0 h = stOk ∧ s.progsFull (leAt h 6 2) = true) :=
  ⟨⟨{ up with rings := [(15, { en := true, tail := 1 })] }, 15, by decide +kernel⟩,
   ⟨{}, 15, .inl rfl⟩,
   ⟨{ up with rings := [(1, { taken := [{ e := { kind := 0x40, a1 := 7 }, handed := some 1 }] })] }, 1, 0, { e := { kind := 0x40, a1 := 7 }, handed := some 1 }, 1, { kind := 0x40, a1 := 6 }, by decide +kernel⟩,
   ⟨ringWith 1 {}, 1, 0, {}, {}, rfl, .inl rfl⟩,
   ⟨progState, 1, 0, { e := { kind := 0x80, a0 := 16 } }, progHead ++ zeros 40, rfl, rfl, rfl, rfl, rfl, rfl, rfl, rfl, by decide, by decide, prog_bytes.symm, .inl (by decide +kernel), prog_check, by decide +kernel, rfl, prog_okA, prog_okB, rfl⟩,
   ⟨ringWith 0 { kind := 0x80 }, 0, 0, { e := { kind := 0x80 } }, zeros 64, stBadOperand, rfl, rfl, rfl, rfl, rfl, rfl, rfl, rfl, by decide, by decide, (by decide +kernel), .inr (by decide), by decide +kernel, by decide⟩,
   ⟨progFull, 1, 0, { e := { kind := 0x80, a0 := 16 } }, progHead ++ zeros 40, rfl, rfl, rfl, rfl, rfl, rfl, rfl, rfl, by decide, by decide, full_bytes.symm, .inl (by decide +kernel), full_check, by decide +kernel⟩⟩


/-- The hypotheses of CompositeCommands can be met, clause by clause. -/
theorem witness_CompositeCommands :
    (∃ (s : State) (n : Nat) (index : Nat) (x : Taken) (i : Issue), s.taken n index = some x ∧ s.coreUp 0 = true ∧ x.handed = none ∧ x.served = false ∧ x.ran = false ∧ x.final = none ∧ x.index = index ∧ x.e.issued < 16 ∧ x.e.imm < 2 ^ 32 ∧ i = { by_ := Issuer.ring n index, mod := x.e.issued, imm := x.e.imm } ∧ x.e.kind = 129 ∧ x.fits 120 = false) ∧
    (∃ (s : State) (n : Nat) (index : Nat) (x : Taken) (i : Issue), s.taken n index = some x ∧ s.coreUp 0 = true ∧ x.handed = none ∧ x.served = false ∧ x.ran = false ∧ x.final = none ∧ x.index = index ∧ x.e.issued < 16 ∧ x.e.imm < 2 ^ 32 ∧ i = { by_ := Issuer.ring n index, mod := x.e.issued, imm := x.e.imm } ∧ x.e.kind = 130 ∧ x.fits 104 = false) ∧
    (∃ (s : State) (n : Nat) (index : Nat) (x : Taken) (i : Issue), s.taken n index = some x ∧ s.coreUp 0 = true ∧ x.handed = none ∧ x.served = false ∧ x.ran = false ∧ x.final = none ∧ x.index = index ∧ x.e.issued < 16 ∧ x.e.imm < 2 ^ 32 ∧ i = { by_ := Issuer.ring n index, mod := x.e.issued, imm := x.e.imm } ∧ x.e.kind = 132 ∧ x.fits 292 = false) ∧
    (∃ (s : State) (n : Nat) (index : Nat) (x : Taken) (i : Issue), s.taken n index = some x ∧ s.coreUp 0 = true ∧ x.handed = none ∧ x.served = false ∧ x.ran = false ∧ x.final = none ∧ x.index = index ∧ x.e.issued < 16 ∧ x.e.imm < 2 ^ 32 ∧ i = { by_ := Issuer.ring n index, mod := x.e.issued, imm := x.e.imm } ∧ x.e.kind = 129 ∧ x.e.flags % 2 = 0 ∧ x.fits 120 = true) ∧
    (∃ (s : State) (n : Nat) (index : Nat) (x : Taken) (i : Issue), s.taken n index = some x ∧ s.coreUp 0 = true ∧ x.handed = none ∧ x.served = false ∧ x.ran = false ∧ x.final = none ∧ x.index = index ∧ x.e.issued < 16 ∧ x.e.imm < 2 ^ 32 ∧ i = { by_ := Issuer.ring n index, mod := x.e.issued, imm := x.e.imm } ∧ x.e.kind = 130 ∧ x.e.flags % 2 = 0 ∧ x.fits 104 = true) ∧
    (∃ (s : State) (n : Nat) (index : Nat) (x : Taken) (i : Issue), s.taken n index = some x ∧ s.coreUp 0 = true ∧ x.handed = none ∧ x.served = false ∧ x.ran = false ∧ x.final = none ∧ x.index = index ∧ x.e.issued < 16 ∧ x.e.imm < 2 ^ 32 ∧ i = { by_ := Issuer.ring n index, mod := x.e.issued, imm := x.e.imm } ∧ x.e.kind = 132 ∧ (s.ctx x.e.ctx).st ≠ CtxState.terminated ∧ x.fits 292 = true) ∧
    (∃ (s : State) (n : Nat) (index : Nat) (x : Taken) (i : Issue), s.taken n index = some x ∧ s.coreUp 0 = true ∧ x.handed = none ∧ x.served = false ∧ x.ran = false ∧ x.final = none ∧ x.index = index ∧ x.e.issued < 16 ∧ x.e.imm < 2 ^ 32 ∧ i = { by_ := Issuer.ring n index, mod := x.e.issued, imm := x.e.imm } ∧ x.e.kind = 131 ∧ (s.ctx x.e.ctx).st ≠ CtxState.terminated ∧ s.memOn = false ∧ (∀ (l : Nat), l < 4 → (s.lane l).fenced = false)) ∧
    (∃ (s : State) (n : Nat) (index : Nat) (x : Taken) (i : Issue), s.taken n index = some x ∧ s.coreUp 0 = true ∧ x.handed = none ∧ x.served = false ∧ x.ran = false ∧ x.final = none ∧ x.index = index ∧ x.e.issued < 16 ∧ x.e.imm < 2 ^ 32 ∧ i = { by_ := Issuer.ring n index, mod := x.e.issued, imm := x.e.imm } ∧ x.e.kind = 131 ∧ (s.ctx x.e.ctx).st ≠ CtxState.terminated ∧ s.memOn = false ∧ x.e.a0 = 1 ∧ (s.lane 0).fenced = true) :=
  ⟨⟨ringWith 0 { kind := 0x81, imm := 4000 }, 0, 0, { e := { kind := 0x81, imm := 4000 } }, { by_ := .ring 0 0, mod := 0, imm := 4000 }, rfl, rfl, rfl, rfl, rfl, rfl, rfl, by decide, by decide, rfl, rfl, by decide⟩,
   ⟨ringWith 0 { kind := 0x82, imm := 4000 }, 0, 0, { e := { kind := 0x82, imm := 4000 } }, { by_ := .ring 0 0, mod := 0, imm := 4000 }, rfl, rfl, rfl, rfl, rfl, rfl, rfl, by decide, by decide, rfl, rfl, by decide⟩,
   ⟨ringWith 0 { kind := 0x84, imm := 4000 }, 0, 0, { e := { kind := 0x84, imm := 4000 } }, { by_ := .ring 0 0, mod := 0, imm := 4000 }, rfl, rfl, rfl, rfl, rfl, rfl, rfl, by decide, by decide, rfl, rfl, by decide⟩,
   ⟨ringWith 0 { kind := 0x81 }, 0, 0, { e := { kind := 0x81 } }, { by_ := .ring 0 0, mod := 0, imm := 0 }, rfl, rfl, rfl, rfl, rfl, rfl, rfl, by decide, by decide, rfl, rfl, by decide, by decide⟩,
   ⟨ringWith 0 { kind := 0x82 }, 0, 0, { e := { kind := 0x82 } }, { by_ := .ring 0 0, mod := 0, imm := 0 }, rfl, rfl, rfl, rfl, rfl, rfl, rfl, by decide, by decide, rfl, rfl, by decide, by decide⟩,
   ⟨ringWith 0 { kind := 0x84 }, 0, 0, { e := { kind := 0x84 } }, { by_ := .ring 0 0, mod := 0, imm := 0 }, rfl, rfl, rfl, rfl, rfl, rfl, rfl, by decide, by decide, rfl, rfl, by decide, by decide⟩,
   ⟨ringWith 0 { kind := 0x83 }, 0, 0, { e := { kind := 0x83 } }, { by_ := .ring 0 0, mod := 0, imm := 0 }, rfl, rfl, rfl, rfl, rfl, rfl, rfl, by decide, by decide, rfl, rfl, by decide, rfl, by decide⟩,
   ⟨{ ringWith 0 { kind := 0x83, a0 := 1 } with lanes := [{ fenced := true }, {}, {}, {}] }, 0, 0, { e := { kind := 0x83, a0 := 1 } }, { by_ := .ring 0 0, mod := 0, imm := 0 }, rfl, rfl, rfl, rfl, rfl, rfl, rfl, by decide, by decide, rfl, rfl, by decide, rfl, rfl, rfl⟩⟩

/-- The hypotheses of LaneControlAndSieveSeed can be met, clause by clause. -/
theorem witness_LaneControlAndSieveSeed :
    (∃ (s : State) (l : Nat), l < 4 ∧ s.lanes.length = 4 ∧ (s.lane l).fenced = false ∧ (s.lane l).job ≠ none) ∧
    (∃ (s : State) (l : Nat), l < 4 ∧ s.lanes.length = 4 ∧ (s.lane l).fenced = false ∧ (s.lane l).job = none) ∧
    (∃ (s : State), (∀ (l : Nat), l < 4 → (s.lane l).fenced = true)) ∧
    (∃ (s : State) (l : Nat), l < 4 ∧ (s.lane l).fenced = true) ∧
    (∃ (s : State), (∀ (l : Nat), l < 4 → (s.lane l).fenced = false)) ∧
    (∃ (s : State), (∀ (l : Nat), l < 4 → (s.lane l).fenced = false)) ∧
    (∃ (s : State) (l : Nat), l < 4 ∧ s.lanes.length = 4 ∧ (s.lane l).fenced = true ∧ (s.lane l).tested = true) ∧
    (∃ (s : State) (l : Nat), l < 4 ∧ s.lanes.length = 4 ∧ (s.lane l).fenced = true ∧ (s.lane l).tested = false) :=
  ⟨⟨mortarAt sampleJob, 3, by decide, rfl, rfl, by decide +kernel⟩,
   ⟨{}, 0, by decide +kernel⟩,
   ⟨{ lanes := List.replicate 4 { fenced := true } }, by decide +kernel⟩,
   ⟨{ lanes := List.replicate 4 { fenced := true } }, 3, by decide +kernel⟩,
   ⟨{}, by decide +kernel⟩,
   ⟨{}, by decide +kernel⟩,
   ⟨{ lanes := List.replicate 4 { fenced := true, tested := true } }, 0, by decide +kernel⟩,
   ⟨{ lanes := List.replicate 4 { fenced := true } }, 0, by decide +kernel⟩⟩

/-- The hypotheses of CounterClears can be met, clause by clause. -/
theorem witness_CounterClears :
    (∃ (p : Nat) (s : State), p < 128 ∧ s.respCode (atTile p Reg.ldlCntClr) = 0) ∧
    (∃ (p : Nat) (s : State), s.respCode (atTile p Reg.ldlCntClr) ≠ 0) :=
  ⟨⟨0, tileWith 0 [], by decide +kernel⟩,
   ⟨0, {}, by decide +kernel⟩⟩

/-- The hypotheses of MemoryResponses can be met, clause by clause. -/
theorem witness_MemoryResponses :
    (∃ (s : State) (k : Nat) (id : Nat), s.memReq k id = none ∧ k < 2) ∧
    (∃ (k : Nat), k < 2) ∧
    (∃ (s : State) (k : Nat), k < 2 ∧ s.memOn = false ∧ (s.memPort k).waits = []) ∧
    (∃ (s : State) (k : Nat) (r : MemReq) (i : Nat), k < 2 ∧ s.memOn = false ∧ (s.memPort k).waits = [r] ∧ (s.memPort k).freeId = some i) ∧
    (∃ (s : State) (k : Nat) (id : Nat) (r : MemReq) (data : Bytes) (v : Nat), s.memReq k id = some r ∧ (r.ctx = 0 ∨ (s.ctx r.ctx).st = CtxState.live ∧ (s.ctx r.ctx).gen = r.gen) ∧ r.op = MemOp.read ∧ (∀ (b : Nat), r.acc ≠ Access.reseal b) ∧ (∀ (t p : Nat), r.acc ≠ Access.query t p) ∧ (s.endReq k id).writing r.blk = false ∧ List.length data = r.len * 64 ∧ v < 2 ^ 64) ∧
    (∃ (s : State) (k : Nat) (id : Nat) (r : MemReq), s.memReq k id = some r ∧ (s.endReq k id).writing r.blk = true ∧ r.op = MemOp.read ∧ (∀ (b : Nat), r.acc ≠ Access.reseal b) ∧ (∀ (t p : Nat), r.acc ≠ Access.query t p)) ∧
    (∃ (s : State) (k : Nat) (id : Nat) (r : MemReq), s.memReq k id = some r ∧ r.ctx ≠ 0 ∧ ((s.ctx r.ctx).st ≠ CtxState.live ∨ (s.ctx r.ctx).gen ≠ r.gen)) ∧
    (∃ (s : State) (k : Nat) (id : Nat) (r : MemReq), s.memReq k id = some r ∧ r.acc = Access.record) ∧
    (∃ (s : State) (k : Nat) (id : Nat) (r : MemReq), s.memReq k id = some r ∧ r.acc = Access.record ∧ r.op ≠ MemOp.sbCwrite) ∧
    (∃ (s : State) (k : Nat) (id : Nat) (r : MemReq) (b : Nat), s.memReq k id = some r ∧ r.acc = Access.poison b ∧ r.ctx = 0) ∧
    (∃ (s : State) (k : Nat) (id : Nat) (r : MemReq), s.memReq k id = some r ∧ s.time < r.since + 200) ∧
    (∃ (s : State) (k : Nat) (id : Nat) (r : MemReq), s.memReq k id = some r ∧ r.since + 200 ≤ s.time ∧ r.acc = Access.record) ∧
    (∃ (s : State) (k : Nat) (id : Nat), s.memReq k id = none) ∧
    (∃ (s : State) (k : Nat) (id : Nat), (∀ (h : HeldId), h ∈ (s.memPort k).held → h.id = id → s.time < h.since + 100000)) ∧
    (∃ (s : State) (k : Nat) (id : Nat) (h : HeldId), k < 2 ∧ h ∈ (s.memPort k).held ∧ h.id = id ∧ h.since + 100000 ≤ s.time) :=
  ⟨⟨{}, 0, 0, by decide +kernel⟩,
   ⟨1, by decide +kernel⟩,
   ⟨{}, 1, by decide +kernel⟩,
   ⟨{ port1 := { waits := [{ blk := 5 }] } }, 1, { blk := 5 }, _, by decide, rfl, rfl, rfl⟩,
   ⟨{ port0 := { reqs := [{ id := 3, op := .read, blk := 5, line := 0, len := 1, acc := .record, since := 0 }] }, time := 0 }, 0, 3, { id := 3, op := .read, blk := 5, line := 0, len := 1, acc := .record, since := 0 }, zeros 64, 0, rfl, .inl rfl, rfl, (by intro _ h; cases h), (by intro _ _ h; cases h), by decide +kernel, by decide, by decide⟩,
   ⟨{ port0 := { reqs := [{ id := 3, op := .read, blk := 5, line := 0, len := 1, acc := .record, since := 0 }, { id := 4, op := .writeZ, blk := 5 }] }, time := 0 }, 0, 3, { id := 3, op := .read, blk := 5, line := 0, len := 1, acc := .record, since := 0 }, rfl, by decide +kernel, rfl, (by intro _ h; cases h), (by intro _ _ h; cases h)⟩,
   ⟨{ port0 := { reqs := [{ id := 3, op := .read, blk := 5, line := 0, len := 1, acc := .record, since := 0, ctx := 1 }] }, time := 0 }, 0, 3, { id := 3, op := .read, blk := 5, line := 0, len := 1, acc := .record, since := 0, ctx := 1 }, rfl, by decide, .inl (by decide +kernel)⟩,
   ⟨{ port0 := { reqs := [{ id := 3, op := .read, blk := 5, line := 0, len := 1, acc := .record, since := 0 }] }, time := 0 }, 0, 3, { id := 3, op := .read, blk := 5, line := 0, len := 1, acc := .record, since := 0 }, by decide +kernel⟩,
   ⟨{ port0 := { reqs := [{ id := 3, op := .read, blk := 5, line := 0, len := 1, acc := .record, since := 0 }] }, time := 0 }, 0, 3, { id := 3, op := .read, blk := 5, line := 0, len := 1, acc := .record, since := 0 }, rfl, rfl, by decide⟩,
   ⟨{ port0 := { reqs := [{ id := 3, op := .sbCwrite, blk := 5, line := 0, len := 1, acc := .poison 5, since := 0 }] }, time := 0 }, 0, 3, { id := 3, op := .sbCwrite, blk := 5, line := 0, len := 1, acc := .poison 5, since := 0 }, 5, rfl, rfl, rfl⟩,
   ⟨{ port0 := { reqs := [{ id := 3, op := .read, blk := 5, line := 0, len := 1, acc := .record, since := 0 }] }, time := 0 }, 0, 3, { id := 3, op := .read, blk := 5, line := 0, len := 1, acc := .record, since := 0 }, rfl, by decide⟩,
   ⟨{ port0 := { reqs := [{ id := 3, op := .read, blk := 5, line := 0, len := 1, acc := .record, since := 0 }] }, time := 200 }, 0, 3, { id := 3, op := .read, blk := 5, line := 0, len := 1, acc := .record, since := 0 }, rfl, by decide, rfl⟩,
   ⟨{}, 0, 3, by decide +kernel⟩,
   ⟨{}, 0, 3, by decide +kernel⟩,
   ⟨{ port0 := { held := [{ id := 3, since := 0 }] }, time := 100000 }, 0, 3, { id := 3, since := 0 }, by decide +kernel⟩⟩

/-- The hypotheses of TapAndDebug can be met, clause by clause. -/
theorem witness_TapAndDebug :
    (∃ (s : State) (w : Nat) (a : Nat), s.fuse.words[14]? = some w ∧ w % 2 = 1 ∧ a ≠ 56 ∧ a ≠ 57 ∧ a ≠ 60) ∧
    (∃ (s : State) (w : Nat), s.fuse.words[14]? = some w ∧ w % 2 = 1) ∧
    (∃ (s : State) (w : Nat), s.fuse.words[14]? = some w ∧ w % 2 = 1) ∧
    (∃ (s : State) (w : Nat), s.fuse.words[14]? = some w ∧ w % 2 = 1) ∧
    (∃ (s : State) (w : Nat), s.fuse.words[14]? = some w ∧ w % 2 = 1) ∧
    (∃ (s : State) (w : Nat), s.fuse.words[14]? = some w ∧ w % 2 = 1) ∧
    (∃ (s : State) (w : Nat), s.fuse.words[14]? = some w ∧ w % 2 = 1) ∧
    (∃ (s : State) (w : Nat) (a : Nat), s.fuse.words[14]? = some w ∧ w % 2 = 1 ∧ lockedReadOk a = false) ∧
    (∃ (s : State) (a : Nat), lockedReadOk a = true ∧ s.respCode a = 0) ∧
    (∃ (s : State) (w : Nat) (d : Nat), s.fuse.words[14]? = some w ∧ w % 2 = 0 ∧ d < 2 ^ 32) ∧
    (∃ (s : State) (w : Nat) (a : Nat), s.fuse.words[14]? = some w ∧ w % 2 = 0 ∧ a ∈ [4, 32, 33]) ∧
    (∃ (s : State) (w : Nat) (a : Nat), s.fuse.words[14]? = some w ∧ w % 2 = 0 ∧ ¬a ∈ [4, 32, 33]) ∧
    (∃ (s : State) (w : Nat), s.fuse.words[14]? = some w ∧ w % 2 = 0) ∧
    (∃ (s : State) (w : Nat) (k : Nat), s.fuse.words[14]? = some w ∧ w % 2 = 0 ∧ k < 4 ∧ s.kettle.cores.length = 4) ∧
    (∃ (s : State) (w : Nat) (k : Nat), s.fuse.words[14]? = some w ∧ w % 2 = 0 ∧ k < 4 ∧ s.kettle.cores.length = 4) ∧
    (∃ (s : State) (w : Nat) (k : Nat), s.fuse.words[14]? = some w ∧ w % 2 = 0 ∧ k < 4 ∧ s.kettle.cores.length = 4) ∧
    (∃ (s : State) (w : Nat) (k : Nat), s.fuse.words[14]? = some w ∧ w % 2 = 0 ∧ k < 4 ∧ s.kettle.cores.length = 4 ∧ (s.core k).halted = false) ∧
    (∃ (s : State) (w : Nat) (k : Nat), s.fuse.words[14]? = some w ∧ w % 2 = 0 ∧ k < 4 ∧ s.kettle.cores.length = 4 ∧ (s.core k).halted = true ∧ (∀ (n : Nat), (s.ring n).taken = []) ∧ s.laneSvc = []) ∧
    (∃ (s : State) (w : Nat) (a : Nat), s.fuse.words[14]? = some w ∧ w % 2 = 0 ∧ s.respCode a = 0) :=
  ⟨⟨{ fuse := { words := List.replicate 16 1 } }, 1, 0x10, rfl, by decide, by decide, by decide, by decide⟩,
   ⟨{ fuse := { words := List.replicate 16 1 } }, 1, by decide +kernel⟩,
   ⟨{ fuse := { words := List.replicate 16 1 } }, 1, by decide +kernel⟩,
   ⟨{ fuse := { words := List.replicate 16 1 } }, 1, by decide +kernel⟩,
   ⟨{ fuse := { words := List.replicate 16 1 } }, 1, by decide +kernel⟩,
   ⟨{ fuse := { words := List.replicate 16 1 } }, 1, by decide +kernel⟩,
   ⟨{ fuse := { words := List.replicate 16 1 } }, 1, by decide +kernel⟩,
   ⟨{ fuse := { words := List.replicate 16 1 } }, 1, 0x10000, rfl, by decide⟩,
   ⟨{}, 0, by decide +kernel⟩,
   ⟨{ fuse := { words := List.replicate 16 0 } }, 0, 5, rfl, by decide⟩,
   ⟨{ fuse := { words := List.replicate 16 0 } }, 0, 4, rfl, by decide⟩,
   ⟨{ fuse := { words := List.replicate 16 0 } }, 0, 5, rfl, by decide⟩,
   ⟨{ fuse := { words := List.replicate 16 0 } }, 0, by decide +kernel⟩,
   ⟨{ fuse := { words := List.replicate 16 0 } }, 0, 3, rfl, by decide, by decide, rfl⟩,
   ⟨{ fuse := { words := List.replicate 16 0 } }, 0, 3, rfl, by decide, by decide, rfl⟩,
   ⟨{ fuse := { words := List.replicate 16 0 } }, 0, 3, rfl, by decide, by decide, rfl⟩,
   ⟨{ fuse := { words := List.replicate 16 0 } }, 0, 1, rfl, by decide⟩,
   ⟨{ fuse := { words := List.replicate 16 0 }, kettle := { cores := List.replicate 4 { halted := true } } }, 0, 1, rfl, rfl, by decide, rfl, rfl, (fun _ => rfl), rfl⟩,
   ⟨{ fuse := { words := List.replicate 16 0 } }, 0, 0, rfl, by decide⟩⟩



/-! ### The spec's worked examples: expected values are the examples' own -/

/-- Skeleton Residue Checking, worked example (R132). -/
theorem test_residues_n8a :
    [0x00, 0x01, 0x30, 0x38, 0x3C, 0x40, 0x44, 0x48, 0x7F].map (resElem (fmtD 0x18) 0) =
      [0, 4194304, 1073741824, 1, 1073741825, 2, 3, 4, 480] := by decide +kernel

/-- rot(12, −3) moves bits 2 and 3 of 12 to bits 30 and 0 (R131). -/
theorem test_rot : rot31 12 (-3) = 2 ^ 30 + 1 := by decide +kernel

/-- The operands of the worked example: row, column and code; A's scale exponent is −3 and B's is +5. -/
def exampleA : List Cell3 :=
  [(0, 0, 0x38), (2, 0, 0x30), (1, 1, 0x7F), (2, 2, 0x44), (0, 3, 0x40), (1, 3, 0x01), (3, 3, 0x38)].map
    (fun x => ⟨x.1, x.2.1, resElem (fmtD 0x18) (-3) x.2.2⟩)
def exampleB : List Cell3 :=
  [(0, 0, 0x40), (0, 2, 0x38), (1, 1, 0x7F), (2, 3, 0x3C), (3, 0, 0x38), (3, 1, 0x01), (3, 3, 0x48)].map
    (fun x => ⟨x.1, x.2.1, resElem (fmtD 0x18) 5 x.2.2⟩)

/-- The example's binary32 outputs, with (2, 3) as `x`; the delta of (1, 1) is 32,768. -/
def exampleOut (x : Nat) : List Cell3 :=
  [(0, 0, 0x41800000, 0), (0, 1, 0x3C800000, 0), (0, 2, 0x40800000, 0), (0, 3, 0x42000000, 0), (1, 0, 0x3C000000, 0),
   (1, 1, 0x49610000, 32768), (1, 3, 0x3D000000, 0), (2, 0, 0x40800000, 0), (2, 2, 0x40000000, 0), (2, 3, x, 0),
   (3, 0, 0x40800000, 0), (3, 1, 0x3C000000, 0), (3, 3, 0x41800000, 0)].map
    (fun x => ⟨x.1, x.2.1, addM (resElem (fmtD 2) 0 x.2.2.1) x.2.2.2⟩)

/-- The predicted residues of rows 0 to 3 and of columns 0 to 3 (R136). -/
theorem test_predicted_classes :
    (predictDot exampleA exampleB []).rows.take 4 = [33554484, 84840448, 24, 16777236] ∧
    (predictDot exampleA exampleB []).cols.take 4 = [16777240, 51286016, 6, 67108930] := by decide +kernel

/-- The example's op passes; with 16 written for 18 at (2, 3) it is located there with syndrome 0x7FFF_FFFD (R147). -/
theorem test_located :
    locate (classesOf (exampleOut 0x41900000)) (predictDot exampleA exampleB []) = .pass ∧
    locate (classesOf (exampleOut 0x41800000)) (predictDot exampleA exampleB []) = .located [{ row := 2, col := 3, val := 0x7FFFFFFD }] := by
  decide +kernel

/-- Number Formats, conversion to N8A-S: the scale byte, and each element's code and flags (R50, R56). The sources are the
binary32 values nearest 3.7, −0.02 and 0.0001. -/
theorem test_block_scale : blockScale (fmtD 0x18) 0 ([0x406CCCCD, 0xBCA3D70A, 0x38D1B717].map (decode (fmtD 2))) = 0x78 := by decide +kernel
theorem test_conversion :
    [0x406CCCCD, 0xBCA3D70A, 0x38D1B717].map (fun c => encode (fmtD 0x18) dirRne 0 0 (-7) (decode (fmtD 2) c)) =
      [(0x7F, flInexact), (0xC2, flInexact), (0x07, flUnderflow ||| flInexact)] := by decide +kernel

/-- The first element under SR: a draw of 0x1234 rounds up to 480, a draw of 0xD000 truncates to 448 (R57). -/
theorem test_stochastic :
    [0x1234, 0xCCCC, 0xD000].map (fun r => (encode (fmtD 0x18) dirSr 0 r (-7) (decode (fmtD 2) 0x406CCCCD)).1) = [0x7F, 0x7E, 0x7E] := by
  decide +kernel

/-- The converter max of the example passes (R64). -/
theorem test_maxtap : maxtapOk 0x406CCCCD (some (decode (fmtD 2) 0x40700000)) 0 (fmtD 0x18) (-7) = true := by decide +kernel

/-- The largest finite codes and the NaN codes of the narrow formats (R34, R43). -/
theorem test_narrow_codes :
    [0x18, 0x19, 0x1A, 0x1B].map (fun c => ((fmtD c).maxCode false, (fmtD c).nanCode)) = [(0x7F, 0x80), (0x7F, 0x80), (0x1F, 0x20), (7, 8)] ∧
    (List.range 8).map (fun c => decode (fmtD 0x1B) c) =
      [.fin false 0 (-1), .fin false 1 (-1), .fin false 2 (-1), .fin false 3 (-1), .fin false 2 0, .fin false 3 0, .fin false 2 1, .fin false 3 1] := by
  decide +kernel

/-- Arithmetic Recipes: the vector engine's section and its node words (R72, R75). -/
def vectorDot : DotSec :=
  { aFmt := 3, bFmt := 3, outFmt := 3, accFmt := 0, prodFmt := 3, prodDir := 0, k := 4, window := 0, guard := 0, flags := 0, subn := 0,
    nodes := [0x000010C4, 0x008030C4, 0x802010C4].map nodeOf }
theorem test_node_words :
    vectorDot.nodes = [⟨0, 1, 3, 0⟩, ⟨2, 3, 3, 0⟩, ⟨0x200, 0x201, 3, 0⟩] := by decide +kernel

/-- The result of a dot product of binary16 codes, in Class S (1) and Class W (0). -/
def dot16 (cls : Nat) (a b : List Nat) : List Nat × Nat :=
  let r := finishOp (fmtD 3) 0 (fun _ => 0) [dotPre cls vectorDot (a.map (decode (fmtD 3))) (b.map (decode (fmtD 3))) none dirRne (fun _ => 0)]
  (r.codes, r.opFlags)

/-- (2,048, 1, 1, 1) · (1, 1, 1, 1): 0x6801 in Class S and 0x6802 in Class W, both inexact. -/
theorem test_dot_classes :
    dot16 1 [0x6800, 0x3C00, 0x3C00, 0x3C00] [0x3C00, 0x3C00, 0x3C00, 0x3C00] = ([0x6801], flInexact) ∧
    dot16 0 [0x6800, 0x3C00, 0x3C00, 0x3C00] [0x3C00, 0x3C00, 0x3C00, 0x3C00] = ([0x6802], flInexact) := by decide +kernel

/-- One overflowing product, one NaN and two ordinary products: the canonical NaN without a flag in both classes (R66, R67). -/
theorem test_dot_specials :
    dot16 1 [0x5CB0, 0x7E00, 0x3E00, 0x3800] [0x5E40, 0x4000, 0x4000, 0x4400] = ([0x7E00], 0) ∧
    dot16 0 [0x5CB0, 0x7E00, 0x3E00, 0x3800] [0x5E40, 0x4000, 0x4000, 0x4400] = ([0x7E00], 0) := by decide +kernel

/-- The span of the matrix engine's section is 1,058 (R74). -/
theorem test_span :
    spanOf { aFmt := 0x18, bFmt := 0x18, outFmt := 2, accFmt := 2, prodFmt := 0, prodDir := 0, k := 32, window := 1088, guard := 6, flags := 2,
             subn := 0, nodes := [] } = 1058 := by decide +kernel

/-- Seals and Route Digests: the send and the receive side of routing op 0x0031 (R177). -/
theorem test_route_fold :
    (RouteSum.fold (RouteSum.fold {} 0 2 4) 1 5 9) = { n := 2, s0 := 3, s1 := 786457 } ∧
    (RouteSum.fold (RouteSum.fold {} 0 5 9) 1 2 4) = { n := 2, s0 := 3, s1 := 589844 } := by decide +kernel

/-- The Mortar Referee: the contributions of an executed and of an unexecuted op, and the bound (R209, R210). -/
theorem test_escape :
    opEscape { u := 2 ^ 24, v := 2 ^ 40, f := 0xC000 } true true 4096 8 = 12559360 ∧
    opEscape { u := 2 ^ 24, v := 2 ^ 40, f := 0xC000 } true false 4096 0 = 16778240 ∧
    opEscape { u := 2 ^ 36, v := 0, f := 0x8000 } false true 4096 8 = 34292629504 ∧
    opEscape { u := 2 ^ 37, v := 0, f := 0x4000 } false true 4096 8 = 34292629504 := by decide +kernel
theorem test_bound : boundOf (30000 * 118893220200448) 360000000000 = 0xB87 ∧ boundOf (2 ^ 128 - 1) 99999999 = 0 := by decide +kernel

/-- The Step Ledger: entry 0x0412 writes −6 into its slot (R236). -/
theorem test_scale : scaleFor (fmtD 0x08) 1 0x406CCCCD = -6 := by decide +kernel

/-- The Screening Instruction Set: words of the example's program (R252). -/
theorem test_words :
    encodeWord 0x02 1 0 0 0 0 18204 = 0x021000000000471C ∧ encodeWord 0x20 0 1 0 0 0 0 = 0x2001000000000000 ∧
    encodeWord 0x22 0 1 3 7 1 0 = 0x2201371000000000 ∧ encodeWord 0x04 0 2 0 0 4 0xFFFB0000 = 0x04020040FFFB0000 ∧
    encodeWord 0x21 0 1 4 5 0 0 = 0x2101450000000000 ∧ encodeWord 0x06 0 1 0 0 2 0 = 0x0601002000000000 := by decide +kernel

/-- Checkpoints: DATA_POS of the example (R338). -/
theorem test_data_pos : dataPos 18204 0 4 1023 = 74567680 := by decide +kernel

/-- The Register Index: LDL_CNT_SEAL of physical tile 23 (R498). -/
theorem test_address : atTile 23 Reg.ldlCntSeal = 0x417158 := by decide +kernel

/-- The published Philox-4x32-10 known answer for a zero key and counter (R59). -/
theorem test_philox : draw 0 0 0 0 0 0 = 0xE8D5 ∧ draw 0 0 0 0 1 0 = 0x6627 := by decide +kernel

/-- The published SHA-384 known answer for an empty message (R324 takes SHA-384 from FIPS 180-4). -/
theorem test_sha384 : sha384 [] =
    toBe 48 0x38b060a751ac96384cd9327eb1b1e36a21fdb71114be07434c0cc7bf63f6e1da274edebfe76f65fbd51ad2f14898b95b := by decide +kernel

/-- Seals and Route Digests, test vectors 1 to 3 (R161): the raw CRC, the two block check values, and a block read in its neighbour's
place. -/
def sealData : Bytes := List.replicate 32 0xFF
theorem test_crc : crcEager sealData 0 = 0xE8399DE9 := by decide +kernel
theorem test_bcv :
    bcvOfCrc 0xE8399DE9 0x0280001234 7 0x08 false 0x17 = 0x492E8FD800072117 ∧
    bcvOfCrc 0xE8399DE9 0x0280001234 7 0x08 true 0x17 = 0x4B2E8FD800072317 ∧
    verifyBlock 0xE8399DE9 0x492E8FD800072117 0x0280001234 7 0x08 = .verified ∧
    verifyBlock 0xE8399DE9 0x492E8FD800072117 0x0280001235 7 0x08 ≠ .verified := by decide +kernel

/-! ### Ill-formed commands: one for each check of WellFormed -/

def okIssue : Issue := { by_ := .thread 0 0 0 0 0, mod := 0, imm := 0 }
def okMsg : PeerMsg := { dst := 0, src := 0, cls := 0, body := zeros 64 }

theorem test_issue_illformed :
    [okIssue].all issueOk = true ∧
    ([
      { by_ := .thread 32 0 0 0 0, mod := 0, imm := 0 },
      { by_ := .thread 0 16 0 0 0, mod := 0, imm := 0 },
      { by_ := .thread 0 0 16 0 0, mod := 0, imm := 0 },
      { by_ := .thread 0 0 0 16 0, mod := 0, imm := 0 },
      { by_ := .thread 0 0 0 0 16, mod := 0, imm := 0 },
      { by_ := .kettle 4 0 0 0 0, mod := 0, imm := 0 },
      { by_ := .kettle 0 (2 ^ 16) 0 0 0, mod := 0, imm := 0 },
      { by_ := .kettle 0 0 (2 ^ 64) 0 0, mod := 0, imm := 0 },
      { by_ := .kettle 0 0 0 (2 ^ 64) 0, mod := 0, imm := 0 },
      { by_ := .kettle 0 0 0 0 (2 ^ 64), mod := 0, imm := 0 },
      { by_ := .ring 16 0, mod := 0, imm := 0 },
      { by_ := .ring 0 (2 ^ 16), mod := 0, imm := 0 },
      { okIssue with mod := 16 },
      { okIssue with imm := 2 ^ 32 }] : List Issue).all (fun i => ! issueOk i) = true := by decide +kernel

theorem test_entry_illformed :
    entryOk {} = true ∧
    ([
      { kind := 2 ^ 8 },
      { flags := 2 ^ 8 },
      { ctx := 2 ^ 16 },
      { cookie := 2 ^ 32 },
      { a0 := 2 ^ 64 },
      { a1 := 2 ^ 64 },
      { a2 := 2 ^ 64 },
      { imm := 2 ^ 32 },
      { mod := 2 ^ 4 },
      { a4 := 2 ^ 64 }] : List RingEntry).all (fun e => ! entryOk e) = true := by decide +kernel

theorem test_message_illformed :
    msgOk okMsg = true ∧
    ([{ okMsg with dst := 2 ^ 16 }, { okMsg with src := 2 ^ 16 }, { okMsg with cls := 4 }, { okMsg with crc := 2 ^ 32 }, { okMsg with body := [] }] : List PeerMsg).all
      (fun m => ! msgOk m) = true := by decide +kernel

theorem test_source_illformed : srcOk (.core 4) = false ∧ srcOk (.thread 32) = false ∧ srcOk .port = true := by decide +kernel

theorem test_sparse_illformed : sparseOk { stored := 2 ^ 48, entries := 0 } = false ∧ sparseOk { stored := 0, entries := 2 ^ 48 } = false ∧
    sparseOk { stored := 0, entries := 0 } = true := by decide +kernel

theorem test_command_illformed_0 :
    ([
      .resetCheckDone (some (256, 0)) false,
      .resetCheckDone (some (0, 2 ^ 16)) false,
      .fuseWordAck (2 ^ 64),
      .bringRomStageDone false false (some { signature := 2 ^ 32 }) (zeros 532) (zeros 532),
      .bringRomStageDone false false (some { density := 2 ^ 64 }) (zeros 532) (zeros 532),
      .bringRomStageDone false false (some { reads := [(.r111, 32)] }) (zeros 532) (zeros 532),
      .bringRomStageDone false false (some { erases := [(2 ^ 32, 0)] }) (zeros 532) (zeros 532),
      .bringRomStageDone false false (some { erases := [(0, 256)] }) (zeros 532) (zeros 532),
      .bringRomStageDone false false none [] (zeros 532),
      .bringRomStageDone false false none (zeros 532) [],
      .firmwareImageVerified [] (zeros 64) [],
      .firmwareImageVerified (zeros 64) [] [],
      .bringBlockStageDone 16 false 0,
      .bringBlockStageDone 0 false (2 ^ 32),
      .go (.core 4),
      .bringLinkMeasureEnd [(some (2 ^ 32), none)],
      .bringLinkMeasureEnd [(none, some (2 ^ 32))],
      .bringTileReadyTimeout 128,
      .hubDefectCtrlAdd (.core 4),
      .hubDefectCtrlClear (.core 4),
      .hubPartMapWrite (.core 4) false 0,
      .hubPartMapWrite .port false (2 ^ 32),
      .airasFrame 128 false 0 0 0,
      .airasFrame 0 false (2 ^ 64) 0 0,
      .airasFrame 0 false 0 16 0,
      .airasFrame 0 false 0 0 256,
      .descriptorBeat 128 0 0 none none,
      .descriptorBeat 0 16 0 none none,
      .descriptorBeat 0 0 (2 ^ 512) none none,
      .descriptorBeat 0 0 0 (some { stored := 2 ^ 48, entries := 0 }) none,
      .descriptorBeat 0 0 0 none (some { stored := 2 ^ 48, entries := 0 }),
      .sealIngressBlock 128 0 0 0 (zeros 4096) 0 none,
      .sealIngressBlock 0 16 0 0 (zeros 4096) 0 none,
      .sealIngressBlock 0 0 4 0 (zeros 4096) 0 none,
      .sealIngressBlock 0 0 0 (2 ^ 22) (zeros 4096) 0 none,
      .sealIngressBlock 0 0 0 0 [] 0 none,
      .sealIngressBlock 0 0 0 0 (zeros 4096) (2 ^ 64) none,
      .sealIngressBlock 0 0 0 0 (zeros 4096) 0 (some (16)),
      .egressBlockCompare 128 0 0 (zeros 4096) none,
      .egressBlockCompare 0 16 0 (zeros 4096) none] : List Instr).all (fun c => ! c.wellFormed) = true := by decide +kernel

theorem test_command_illformed_1 :
    ([
      .egressBlockCompare 0 0 (2 ^ 22) (zeros 4096) none,
      .egressBlockCompare 0 0 0 [] none,
      .egressBlockCompare 0 0 0 (zeros 4096) (some (16)),
      .operandBeat 128 0 0 0 0 [],
      .operandBeat 0 16 0 0 0 [],
      .operandBeat 0 0 8 0 0 [],
      .operandBeat 0 0 0 (2 ^ 16) 0 [],
      .operandBeat 0 0 0 0 (2 ^ 16) [],
      .operandBeat 0 0 0 0 0 (List.replicate 129 0),
      .operandBeat 0 0 0 0 0 [2 ^ 64],
      .outputBeat 128 0 false 0 0 [],
      .outputBeat 0 16 false 0 0 [],
      .outputBeat 0 0 false (2 ^ 16) 0 [],
      .outputBeat 0 0 false 0 (2 ^ 16) [],
      .outputBeat 0 0 false 0 0 (List.replicate 65 none),
      .outputBeat 0 0 false 0 0 [some { code := 2 ^ 64, delta := 0, spec := false }],
      .outputBeat 0 0 false 0 0 [some { code := 0, delta := 2 ^ 31, spec := false }],
      .outputLastBeat 128 0 0 0 [] 0,
      .outputLastBeat 0 16 0 0 [] 0,
      .outputLastBeat 0 0 (2 ^ 16) 0 [] 0,
      .outputLastBeat 0 0 0 (2 ^ 16) [] 0,
      .outputLastBeat 0 0 0 0 (List.replicate 65 none) 0,
      .outputLastBeat 0 0 0 0 [some { code := 2 ^ 64, delta := 0, spec := false }] 0,
      .outputLastBeat 0 0 0 0 [some { code := 0, delta := 2 ^ 31, spec := false }] 0,
      .outputLastBeat 0 0 0 0 [] (2 ^ 6),
      .converterMaxBeat 128 0 0,
      .converterMaxBeat 0 16 0,
      .converterMaxBeat 0 0 (2 ^ 32),
      .converterMaxDeadline 128 0,
      .converterMaxDeadline 0 16,
      .routeBeat 128 0 [] false,
      .routeBeat 0 16 [] false,
      .routeBeat 0 0 (List.replicate 5 (0, 0, 0)) false,
      .routeBeat 0 0 [(2 ^ 32, 0, 0)] false,
      .routeBeat 0 0 [(0, 2 ^ 16, 0)] false,
      .routeBeat 0 0 [(0, 0, 2 ^ 16)] false,
      .lidAcceptance 128 0,
      .lidAcceptance 0 16,
      .ladleVerdict 128 0 false,
      .ladleVerdict 0 16 false] : List Instr).all (fun c => ! c.wellFormed) = true := by decide +kernel

theorem test_command_illformed_2 :
    ([
      .bcvHandshake 128 0,
      .bcvHandshake 0 (2 ^ 38),
      .tileResetEntry 128,
      .ladleSelfCheckStart 128,
      .ladleSelfCheckDone 128 false,
      .sealConfirmation (2 ^ 38) (zeros 4096) 0 false,
      .sealConfirmation 0 [] 0 false,
      .sealConfirmation 0 (zeros 4096) (2 ^ 64) false,
      .mortarJobStart 4,
      .mortarJobEnd 4 false,
      .sampleAgeDrop (2 ^ 16) 0 0,
      .sampleAgeDrop 0 (2 ^ 32) 0,
      .sampleAgeDrop 0 0 (2 ^ 24),
      .arbitrationDecision (2 ^ 16) 0 0,
      .arbitrationDecision 0 (2 ^ 32) 0,
      .arbitrationDecision 0 0 (2 ^ 24),
      .arbSelfCheckTimeout (2 ^ 16) 0 0,
      .arbSelfCheckTimeout 0 (2 ^ 32) 0,
      .arbSelfCheckTimeout 0 0 (2 ^ 24),
      .katVectorRun 256 false,
      .laneSelfTestDone 4 false,
      .haltAck { okMsg with cls := 4 },
      .replay (2 ^ 16) 0,
      .replay 0 4,
      .bucketRelease (2 ^ 16) 0 0,
      .bucketRelease 0 4 0,
      .bucketRelease 0 0 (2 ^ 12),
      .commitGrant (2 ^ 16) 0,
      .commitGrant 0 4,
      .stepSlotFree (2 ^ 16) 0,
      .stepSlotFree 0 4,
      .provenanceDigestDone (2 ^ 16) 0,
      .provenanceDigestDone 0 4,
      .programDispatch 32,
      .swapComplete 32,
      .waitConditionMet 4096,
      .nop { by_ := .thread 0 0 0 0 16, mod := 0, imm := 0 },
      .end_ { by_ := .kettle 4 0 0 0 0, mod := 0, imm := 0 },
      .ldi { by_ := .kettle 0 (2 ^ 16) 0 0 0, mod := 0, imm := 0 },
      .alu { by_ := .kettle 0 0 (2 ^ 64) 0 0, mod := 0, imm := 0 }] : List Instr).all (fun c => ! c.wellFormed) = true := by decide +kernel

theorem test_command_illformed_3 :
    ([
      .br { by_ := .kettle 0 0 0 (2 ^ 64) 0, mod := 0, imm := 0 },
      .ld { by_ := .kettle 0 0 0 0 (2 ^ 64), mod := 0, imm := 0 },
      .wait { by_ := .ring 16 0, mod := 0, imm := 0 },
      .st { by_ := .ring 0 (2 ^ 16), mod := 0, imm := 0 },
      .yield_ { okIssue with mod := 16 },
      .ctxbind { okIssue with imm := 2 ^ 32 },
      .ctxkill { by_ := .thread 32 0 0 0 0, mod := 0, imm := 0 },
      .ctxdown { by_ := .thread 0 16 0 0 0, mod := 0, imm := 0 },
      .teardownDrainEnd 16,
      .teardownScrubDone 16,
      .rcpload { by_ := .thread 0 0 0 0 16, mod := 0, imm := 0 },
      .recipeLoadDone 256,
      .rcpdrop { by_ := .kettle 0 (2 ^ 16) 0 0 0, mod := 0, imm := 0 },
      .stepopen { by_ := .kettle 0 0 (2 ^ 64) 0 0, mod := 0, imm := 0 },
      .stepend { by_ := .kettle 0 0 0 (2 ^ 64) 0, mod := 0, imm := 0 },
      .bktend { by_ := .kettle 0 0 0 0 (2 ^ 64), mod := 0, imm := 0 },
      .stepabort { by_ := .ring 16 0, mod := 0, imm := 0 },
      .sckset { by_ := .ring 0 (2 ^ 16), mod := 0, imm := 0 },
      .sckread { okIssue with mod := 16 },
      .sckfree { okIssue with imm := 2 ^ 32 },
      .lidstat { by_ := .thread 32 0 0 0 0, mod := 0, imm := 0 },
      .sealrgn { by_ := .thread 0 16 0 0 0, mod := 0, imm := 0 },
      .sealcpy { by_ := .thread 0 0 16 0 0, mod := 0, imm := 0 },
      .sealchk { by_ := .thread 0 0 0 16 0, mod := 0, imm := 0 },
      .ldlcnt { by_ := .thread 0 0 0 0 16, mod := 0, imm := 0 },
      .taptest { by_ := .kettle 4 0 0 0 0, mod := 0, imm := 0 },
      .sievecfg { by_ := .kettle 0 (2 ^ 16) 0 0 0, mod := 0, imm := 0 },
      .mtrsamp { by_ := .kettle 0 0 (2 ^ 64) 0 0, mod := 0, imm := 0 },
      .arbstat { by_ := .kettle 0 0 0 (2 ^ 64) 0, mod := 0, imm := 0 },
      .rdreg { by_ := .kettle 0 0 0 0 (2 ^ 64), mod := 0, imm := 0 },
      .wrreg { by_ := .ring 16 0, mod := 0, imm := 0 },
      .modeset { by_ := .ring 0 (2 ^ 16), mod := 0, imm := 0 },
      .provcfg { okIssue with mod := 16 },
      .paircfg { okIssue with imm := 2 ^ 32 },
      .ckptman { by_ := .thread 32 0 0 0 0, mod := 0, imm := 0 },
      .ckptchk { by_ := .thread 0 16 0 0 0, mod := 0, imm := 0 },
      .buddycfg { by_ := .thread 0 0 16 0 0, mod := 0, imm := 0 },
      .peersend { by_ := .thread 0 0 0 16 0, mod := 0, imm := 0 },
      .whiskrun { by_ := .thread 0 0 0 0 16, mod := 0, imm := 0 },
      .tcload { by_ := .kettle 4 0 0 0 0, mod := 0, imm := 0 }] : List Instr).all (fun c => ! c.wellFormed) = true := by decide +kernel

theorem test_command_illformed_4 :
    ([
      .suspread { by_ := .kettle 0 (2 ^ 16) 0 0 0, mod := 0, imm := 0 },
      .quarant { by_ := .kettle 0 0 (2 ^ 64) 0 0, mod := 0, imm := 0 },
      .tilemap { by_ := .kettle 0 0 0 (2 ^ 64) 0, mod := 0, imm := 0 },
      .reset { by_ := .kettle 0 0 0 0 (2 ^ 64), mod := 0, imm := 0 },
      .dump { by_ := .ring 16 0, mod := 0, imm := 0 },
      .dumpReadResult (some (2 ^ 32)),
      .trvset { okIssue with mod := 16 },
      .budget { okIssue with imm := 2 ^ 32 },
      .fwact { by_ := .thread 32 0 0 0 0, mod := 0, imm := 0 },
      .activationCoreReady 4,
      .ktlDbWrite (.core 4) 0 0,
      .ktlDbWrite .port 16 0,
      .ktlDbWrite .port 0 (2 ^ 32),
      .ktlCdbWrite (.core 4) 0 0,
      .ktlCdbWrite .port 16 0,
      .ktlCdbWrite .port 0 (2 ^ 32),
      .ktlRingEnable (.core 4) 0,
      .ktlRingEnable .port (2 ^ 32),
      .ringEntryTake 16,
      .ownerReturn 16 0 {},
      .ownerReturn 0 (2 ^ 16) {},
      .ownerReturn 0 0 { kind := 256 },
      .submitProgram { by_ := .thread 32 0 0 0 0, mod := 0, imm := 0 },
      .readSealStatus { by_ := .thread 0 16 0 0 0, mod := 0, imm := 0 },
      .readCoverage { by_ := .thread 0 0 16 0 0, mod := 0, imm := 0 },
      .laneService { by_ := .thread 0 0 0 16 0, mod := 0, imm := 0 },
      .readSequencerStatus { by_ := .thread 0 0 0 0 16, mod := 0, imm := 0 },
      .stageFirmware { by_ := .kettle 4 0 0 0 0, mod := 0, imm := 0 },
      .ktlStageGoStage (.core 4),
      .ktlStageGoRun (.core 4),
      .watchdogExpiry 4 0,
      .watchdogExpiry 0 (2 ^ 64),
      .kettleCoreReady 4 [],
      .kettleCoreReady 0 [2 ^ 38],
      .pairOps { okMsg with cls := 4 },
      .pairStep { okMsg with cls := 4 },
      .pairTimeout (2 ^ 16),
      .mirrorCopyDone (2 ^ 16),
      .mirrorDone { okMsg with cls := 4 },
      .mirrorAck { okMsg with cls := 4 }] : List Instr).all (fun c => ! c.wellFormed) = true := by decide +kernel

theorem test_command_illformed_5 :
    ([
      .mirrorAckTimeout (2 ^ 16),
      .hostMessage { okMsg with cls := 4 },
      .peerMessageDiscard { okMsg with cls := 4 },
      .peerCreditReturn 4,
      .hubPeerRxConsWrite (.core 4) 0,
      .hubPeerRxConsWrite .port (2 ^ 32),
      .whiskRunStart 128 0 0,
      .whiskRunStart 0 (2 ^ 16) 0,
      .whiskRunStart 0 0 (2 ^ 32),
      .whiskRunEnd 128 [],
      .whiskRunAbandon 128,
      .whiskRunTimeout 128 0,
      .whiskRunTimeout 0 (2 ^ 16),
      .tileSubstitution 128 [],
      .tileSubstitution 0 [128],
      .pairTransition 17 0 false 0,
      .pairTransition 0 64 false 0,
      .pairTransition 0 0 false (2 ^ 64),
      .pairArmTimeout 17 0 0,
      .pairArmTimeout 0 64 0,
      .pairArmTimeout 0 0 (2 ^ 64),
      .captureBeat 17 0 0 0 0 0,
      .captureBeat 0 64 0 0 0 0,
      .captureBeat 0 0 (2 ^ 48) 0 0 0,
      .captureBeat 0 0 0 (2 ^ 16) 0 0,
      .captureBeat 0 0 0 0 16 0,
      .captureBeat 0 0 0 0 0 (2 ^ 64),
      .captureDetailTimeout 17 0 0,
      .captureDetailTimeout 0 64 0,
      .captureDetailTimeout 0 0 (2 ^ 64),
      .colanderSelfFault 256 0,
      .colanderSelfFault 0 (2 ^ 16),
      .colSafeExit (.core 4),
      .colStnEnWrite (.core 4) 0 false 0,
      .colStnEnWrite .port 17 false 0,
      .colStnEnWrite .port 0 false (2 ^ 32),
      .w1cClear (.core 4) 0 0,
      .w1cClear .port (2 ^ 24) 0,
      .w1cClear .port 0 (2 ^ 32),
      .watchWindowEnd [(256, [])]] : List Instr).all (fun c => ! c.wellFormed) = true := by decide +kernel

theorem test_command_illformed_6 :
    ([
      .watchWindowEnd [(0, [(2 ^ 16, true)])],
      .verdictAgeHang 128,
      .quiesceAck 4,
      .quiesceTimeout 4,
      .resetDrained 4,
      .drainLimitExpiry 4,
      .resetHoldEnd 4,
      .resetReady 4,
      .readyLimitExpiry 4,
      .absorbWindowClose 4,
      .cflIssue 8 0 0 0,
      .cflIssue 0 (2 ^ 16) 0 0,
      .cflIssue 0 0 (2 ^ 16) 0,
      .cflIssue 0 0 0 256,
      .cflComplete 8 0 0 0,
      .cflComplete 0 (2 ^ 16) 0 0,
      .cflComplete 0 0 (2 ^ 16) 0,
      .cflComplete 0 0 0 256,
      .stateReadAnswer (2 ^ 32) false,
      .sensorSample 256 0,
      .sensorSample 0 (2 ^ 32),
      .fastSamplingExit 32,
      .powerPoll [some (2 ^ 16)],
      .pmbusTimeout 16,
      .trvAvsWrite (.core 4) 0,
      .trvAvsWrite .port (2 ^ 32),
      .trvDomLevelFloor (.core 4) 0,
      .trvDomLevelFloor .port (2 ^ 32),
      .trvCurveLoad (.core 4),
      .trvCurveSelect (.core 4),
      .trvTripClr (.core 4),
      .mtrLaneCtrlFence (.core 4) 0,
      .mtrLaneCtrlFence .port 16,
      .mtrLaneCtrlSelftest (.core 4) 0,
      .mtrLaneCtrlSelftest .port 16,
      .mtrLaneCtrlReinstate (.core 4) 0,
      .mtrLaneCtrlReinstate .port 16,
      .hubSieveSeedLoWrite (.core 4) 0,
      .hubSieveSeedLoWrite .port (2 ^ 32),
      .hubSieveSeedHiWrite (.core 4) 0] : List Instr).all (fun c => ! c.wellFormed) = true := by decide +kernel

theorem test_command_illformed_7 :
    ([
      .hubSieveSeedHiWrite .port (2 ^ 32),
      .hubSieveClr (.core 4),
      .hubTimeLoRead (.core 4),
      .hubJrnlNextLoRead (.core 4),
      .hubProvNextLoRead (.core 4),
      .hubDumpDataRead (.core 4),
      .hubAtbCtrlWrite (.core 4) 0,
      .hubAtbCtrlWrite .port (2 ^ 32),
      .ldlCntClr (.core 4) 0 0,
      .ldlCntClr .port 128 0,
      .ldlCntClr .port 0 (2 ^ 32),
      .hubSealCntClr (.core 4) 0,
      .hubSealCntClr .port (2 ^ 32),
      .mtrCntClr (.core 4) 0,
      .mtrCntClr .port (2 ^ 32),
      .lidCntClr (.core 4) 0,
      .lidCntClr .port (2 ^ 32),
      .sckCntClr (.core 4) 0,
      .sckCntClr .port (2 ^ 32),
      .hubSisCntClr (.core 4) 0,
      .hubSisCntClr .port (2 ^ 32),
      .ktlCntClr (.core 4) 0,
      .ktlCntClr .port (2 ^ 32),
      .hubJrnlCntClr (.core 4) 0,
      .hubJrnlCntClr .port (2 ^ 32),
      .hubPairCntClr (.core 4) 0,
      .hubPairCntClr .port (2 ^ 32),
      .hubCkptCntClr (.core 4) 0,
      .hubCkptCntClr .port (2 ^ 32),
      .hubFtCntClr (.core 4) 0,
      .hubFtCntClr .port (2 ^ 32),
      .colCntClr (.core 4) 0,
      .colCntClr .port (2 ^ 32),
      .hubRcvCntClr (.core 4) 0,
      .hubRcvCntClr .port (2 ^ 32),
      .trvCntClr (.core 4) 0,
      .trvCntClr .port (2 ^ 32),
      .hubPortCntClr (.core 4) 0,
      .hubPortCntClr .port (2 ^ 32),
      .hubBringCntClr (.core 4) 0] : List Instr).all (fun c => ! c.wellFormed) = true := by decide +kernel

theorem test_command_illformed_8 :
    ([
      .hubBringCntClr .port (2 ^ 32),
      .registerWrite (.core 4) 0 0,
      .registerWrite .port (2 ^ 24) 0,
      .registerWrite .port 0 (2 ^ 32),
      .memResponse 2 0 .ok [] 0,
      .memResponse 0 64 .ok [] 0,
      .memResponse 0 0 .ok (zeros 4097) 0,
      .memResponse 0 0 .ok [] (2 ^ 64),
      .memRequestTimeout 2 0,
      .memRequestTimeout 0 64,
      .memIdHoldExpiry 2 0,
      .memIdHoldExpiry 0 64,
      .dmi (2 ^ 7) 0 false,
      .dmi 0 (2 ^ 32) false,
      .atb (2 ^ 32),
      .debugHalt 4,
      .debugResume 4,
      .debugSingleStep 4,
      .debugTriggerHit 4,
      .debugSystemBusAccess (2 ^ 24) 0 false,
      .debugSystemBusAccess 0 (2 ^ 32) false,
      .glitchDiscard 17 0,
      .glitchDiscard 0 64,
      .pairReturnOk 17 0,
      .pairReturnOk 0 64,
      .hubJrnlBaseWrite (.core 4) 0,
      .hubJrnlBaseWrite .port (2 ^ 32)] : List Instr).all (fun c => ! c.wellFormed) = true := by decide +kernel

/-- The smallest term of each constructor is well formed. -/
theorem test_command_wellformed :
    ([
      .powerOnReset,
      .blockReset,
      .resetCheckDone none false,
      .fuseWordAck 0,
      .fuseReadTimeout,
      .bringRomStageDone false false none (zeros 532) (zeros 532),
      .firmwareImageVerified (zeros 64) (zeros 64) [],
      .flashReadTimeout,
      .bringBlockStageDone 0 false 0,
      .go .port,
      .bringLinkMeasureEnd [],
      .bringTileRelease,
      .bringTileReadyTimeout 0,
      .bringTestDone,
      .bringMapDone false,
      .defectListRewrite false,
      .hubDefectCtrlAdd .port,
      .hubDefectCtrlClear .port,
      .hubPartMapWrite .port false 0,
      .airasFrame 0 false 0 0 0,
      .descriptorBeat 0 0 0 none none,
      .sealIngressBlock 0 0 0 0 (zeros 4096) 0 none,
      .egressBlockCompare 0 0 0 (zeros 4096) none,
      .operandBeat 0 0 0 0 0 [],
      .outputBeat 0 0 false 0 0 [],
      .outputLastBeat 0 0 0 0 [] 0,
      .converterMaxBeat 0 0 0,
      .converterMaxDeadline 0 0,
      .routeBeat 0 0 [] false,
      .lidAcceptance 0 0,
      .ladleVerdict 0 0 false,
      .bcvHandshake 0 0,
      .tileResetEntry 0,
      .ladleSelfCheckStart 0,
      .ladleSelfCheckDone 0 false,
      .ladleReport,
      .opAccept,
      .sealConfirmation 0 (zeros 4096) 0 false,
      .patrolRead,
      .routeReport,
      .mortarJobStart 0,
      .mortarJobEnd 0 false,
      .sampleAgeDrop 0 0 0,
      .spillReturn,
      .arbitrationDecision 0 0 0,
      .arbSelfCheckTimeout 0 0 0,
      .katVectorRun 0 false,
      .laneSelfTestDone 0 false,
      .sieveBoundRecompute,
      .haltAck okMsg,
      .replay 0 0,
      .bucketRelease 0 0 0,
      .commitGrant 0 0,
      .stepSlotFree 0 0,
      .provenanceDigestDone 0 0,
      .trvHeldApply,
      .programDispatch 0,
      .swapComplete 0,
      .waitConditionMet 0,
      .nop okIssue,
      .end_ okIssue,
      .ldi okIssue,
      .alu okIssue,
      .br okIssue,
      .ld okIssue,
      .wait okIssue,
      .st okIssue,
      .yield_ okIssue,
      .ctxbind okIssue,
      .ctxkill okIssue,
      .ctxdown okIssue,
      .teardownDrainEnd 0,
      .teardownScrubDone 0,
      .rcpload okIssue,
      .recipeLoadDone 0,
      .rcpdrop okIssue,
      .stepopen okIssue,
      .stepend okIssue,
      .bktend okIssue,
      .stepabort okIssue,
      .sckset okIssue,
      .sckread okIssue,
      .sckfree okIssue,
      .lidstat okIssue,
      .sealrgn okIssue,
      .sealcpy okIssue,
      .sealchk okIssue,
      .sealEngineDone,
      .ldlcnt okIssue,
      .taptest okIssue,
      .sievecfg okIssue,
      .mtrsamp okIssue,
      .arbstat okIssue,
      .rdreg okIssue,
      .wrreg okIssue,
      .modeset okIssue,
      .provcfg okIssue,
      .paircfg okIssue,
      .ckptman okIssue,
      .ckptmanDone,
      .ckptchk okIssue,
      .ckptchkDone,
      .buddycfg okIssue,
      .peersend okIssue,
      .whiskrun okIssue,
      .tcload okIssue,
      .tcloadDone,
      .tcBankSwitch,
      .suspread okIssue,
      .quarant okIssue,
      .tilemap okIssue,
      .reset okIssue,
      .dump okIssue,
      .dumpReadResult none,
      .dumpCopyDone,
      .trvset okIssue,
      .budget okIssue,
      .fwact okIssue,
      .deferredActivationStart,
      .activationCoreReady 0,
      .ktlDbWrite .port 0 0,
      .ktlCdbWrite .port 0 0,
      .ktlRingEnable .port 0,
      .ringEntryTake 0,
      .ownerReturn 0 0 {},
      .submitProgram okIssue,
      .readSealStatus okIssue,
      .readCoverage okIssue,
      .laneService okIssue,
      .readSequencerStatus okIssue,
      .stageFirmware okIssue,
      .stagingDone none,
      .ktlStageGoStage .port,
      .ktlStageGoRun .port,
      .watchdogExpiry 0 0,
      .kettleCoreReady 0 [],
      .pairOps okMsg,
      .pairStep okMsg,
      .pairTimeout 0,
      .mirrorCopyDone 0,
      .mirrorDone okMsg,
      .mirrorAck okMsg,
      .mirrorAckTimeout 0,
      .hostMessage okMsg,
      .peerMessageDiscard okMsg,
      .peerCreditReturn 0,
      .hubPeerRxConsWrite .port 0,
      .whiskRunStart 0 0 0,
      .whiskRunEnd 0 [],
      .whiskRunAbandon 0,
      .whiskRunTimeout 0 0,
      .whiskSchedule,
      .suspectScoreHalving,
      .tileSubstitution 0 [],
      .pairTransition 0 0 false 0,
      .pairArmTimeout 0 0 0,
      .captureBeat 0 0 0 0 0 0,
      .captureDetailTimeout 0 0 0,
      .colanderSelfFault 0 0,
      .colSafeExit .port,
      .colStnEnWrite .port 0 false 0,
      .w1cClear .port 0 0,
      .watchWindowEnd [],
      .verdictAgeHang 0,
      .quiesceAck 0,
      .quiesceTimeout 0,
      .resetDrained 0,
      .drainLimitExpiry 0,
      .resetHoldEnd 0,
      .resetReady 0,
      .readyLimitExpiry 0,
      .absorbWindowClose 0,
      .cflIssue 0 0 0 0,
      .cflComplete 0 0 0 0,
      .stateReadAnswer 0 false,
      .sensorSample 0 0,
      .fastSamplingExit 0,
      .throttleStep,
      .powerPoll [],
      .pmbusTimeout 0,
      .smbalert,
      .trvAvsWrite .port 0,
      .trvDomLevelFloor .port 0,
      .trvCurveLoad .port,
      .trvCurveSelect .port,
      .trvTripClr .port,
      .mtrLaneCtrlFence .port 0,
      .mtrLaneCtrlSelftest .port 0,
      .mtrLaneCtrlReinstate .port 0,
      .hubSieveSeedLoWrite .port 0,
      .hubSieveSeedHiWrite .port 0,
      .hubSieveClr .port,
      .hubTimeLoRead .port,
      .hubJrnlNextLoRead .port,
      .hubProvNextLoRead .port,
      .hubDumpDataRead .port,
      .hubAtbCtrlWrite .port 0,
      .ldlCntClr .port 0 0,
      .hubSealCntClr .port 0,
      .mtrCntClr .port 0,
      .lidCntClr .port 0,
      .sckCntClr .port 0,
      .hubSisCntClr .port 0,
      .ktlCntClr .port 0,
      .hubJrnlCntClr .port 0,
      .hubPairCntClr .port 0,
      .hubCkptCntClr .port 0,
      .hubFtCntClr .port 0,
      .colCntClr .port 0,
      .hubRcvCntClr .port 0,
      .trvCntClr .port 0,
      .hubPortCntClr .port 0,
      .hubBringCntClr .port 0,
      .registerWrite .port 0 0,
      .memResponse 0 0 .ok [] 0,
      .memRequestTimeout 0 0,
      .memIdHoldExpiry 0 0,
      .idcode,
      .dtmcs,
      .dmi 0 0 false,
      .atb 0,
      .bypass,
      .debugHalt 0,
      .debugResume 0,
      .debugSingleStep 0,
      .debugTriggerHit 0,
      .debugSystemBusAccess 0 0 false,
      .glitchDiscard 0 0,
      .pairReturnOk 0 0,
      .hubJrnlBaseWrite .port 0] : List Instr).all Instr.wellFormed = true := by decide +kernel

/-! ### Single commands on small states: expected values are the rules' own -/

/-- The state a command answers. -/
def after (o : Host.Outcome State Fault Refusal) : State :=
  match o with
  | .next t => t
  | _ => {}

/-- An instruction of thread 31, and the state in which its word is next. -/
def isu (rd ra rb rc mod imm : Nat) : Issue := { by_ := .thread 31 rd ra rb rc, mod := mod, imm := imm }
def atWord (pc : Nat) (regs : List Nat) (opc rd ra rb rc mod imm : Nat) : State :=
  runner { length := 16, verified := [0], pc := pc, regs := regs } (encodeWord opc rd ra rb rc mod imm)
def prog0 (s : State) : Program := (s.program 0).getD {}

/-- LDI g1, 18204 of the example's program; and an immediate with bit 31 set is sign-extended (R254). -/
theorem test_ldi : (prog0 (after (exec (.ldi (isu 1 0 0 0 0 18204)) (atWord 0 [] 2 1 0 0 0 0 18204)))).pc = 1 ∧
    (prog0 (after (exec (.ldi (isu 1 0 0 0 0 18204)) (atWord 0 (List.replicate 15 0) 2 1 0 0 0 0 18204)))).g 1 = 18204 := by decide +kernel
theorem test_ldi_sign :
    (prog0 (after (exec (.ldi (isu 1 0 0 0 0 0x80000000)) (atWord 0 (List.replicate 15 0) 2 1 0 0 0 0 0x80000000)))).g 1 = 0xFFFFFFFF80000000 := by
  decide +kernel

/-- ALU with the source as its destination: g2 ← g2 − 1 wraps below zero (R254). -/
theorem test_alu_wraps :
    (prog0 (after (exec (.alu (isu 2 2 0 0 1 1)) (atWord 9 (List.replicate 15 0) 3 2 2 0 0 1 1)))).g 2 = 2 ^ 64 - 1 := by decide +kernel

/-- BR g2 ≠ 0, −5 at 10 loops to 5, and falls through where g2 is 0 (R254). -/
theorem test_br_taken :
    (prog0 (after (exec (.br (isu 0 2 0 0 4 0xFFFB0000)) (atWord 10 (List.replicate 15 7) 4 0 2 0 0 4 0xFFFB0000)))).pc = 5 := by decide +kernel
theorem test_br_falls :
    (prog0 (after (exec (.br (isu 0 2 0 0 4 0xFFFB0000)) (atWord 10 (List.replicate 15 0) 4 0 2 0 0 4 0xFFFB0000)))).pc = 11 := by decide +kernel

/-- A NOP with a nonzero unused field ends its program (R255). -/
theorem test_nop_unused : (after (exec (.nop (isu 1 0 0 0 0 0)) (atWord 0 [] 0 1 0 0 0 0 0))).program 0 = none := by decide +kernel

/-- STEPOPEN of 18,206 where 18,204 is the highest opened is rejected with ILLEGAL_STATE and counted (R219). -/
def opened : State :=
  { atWord 1 ((List.replicate 15 0).set 0 18206) 0x20 0 1 0 0 0 0 with
    progs := [(0, { ctx := 1, gen := 1, length := 16, verified := [0], pc := 1, regs := List.replicate 15 18206 })],
    ctxs := [(1, { st := .live, gen := 1, anyStep := false, committed := 18203, slots := [{ st := .open_, step := 18204 }, {}, {}, {}] })] }
theorem test_stepopen_order :
    (prog0 (after (exec (.stepopen (isu 0 1 0 0 0 0)) opened))).status = stIllegalState ∧
    (after (exec (.stepopen (isu 0 1 0 0 0 0)) opened)).reg Reg.hubCntRejected = 1 := by decide +kernel

/-- A licensee pair in ERROR: its ERR bit, its class's counter and the fault pin (R386, R390). -/
def armed : State := { pairs := [(2 * 64 + 21, { lvl := .ok, filt := some .ok, decoded := true })] }
theorem test_pair_error :
    (after (exec (.pairTransition 2 21 false 0) armed)).reg (atStn 2 Reg.colStnErrLo) = 2 ^ 21 ∧
    (after (exec (.pairTransition 2 21 false 0) armed)).reg Reg.colCntUc = 1 ∧
    (after (exec (.pairTransition 2 21 false 0) armed)).faultLow = true := by decide +kernel

/-- Sensor 203 of the block ports' example at 95.125 °C: TRV_TRIP_CAP with KIND 1, SENSOR 203 and TEMP 0x05F2 (R437, R469). -/
def word203 : Nat := 1 + 203 * 2 + 0x05F2 * 2 ^ 9 + 2 ^ 25
def hot : State := { cfg := { sensors := 256, memFirst := 200, hardMem := 95 } }
theorem test_hard_trip :
    (after (exec (.sensorSample 203 (word203 + 2 ^ 28 * crc8Of28 word203)) hot)).trv.tripped = true ∧
    (after (exec (.sensorSample 203 (word203 + 2 ^ 28 * crc8Of28 word203)) hot)).reg Reg.trvTripCap =
      2 ^ 31 + 2 ^ 25 + 203 * 2 ^ 16 + 0x05F2 := by decide +kernel

/-- The substitution of the field test's example: logical 36 moves from physical 41 to spare 47, and HUB_QUAR_STATUS reads
0x0024_292F (R374, R377). -/
def watched41 : State :=
  { stepEnded := true, tileMap := [(36, 41)], tileStates := [(41, .pending), (47, .spare)] }
theorem test_substitution :
    (after (exec (.tileSubstitution 36 [41]) watched41)).physOf 36 = some 47 ∧
    (after (exec (.tileSubstitution 36 [41]) watched41)).regVal .port Reg.hubQuarStatus = 0x0024292F := by decide +kernel

/-- An address in no extent, and one that is not a multiple of 4, are refused with their own response codes (R450). -/
theorem test_response_codes : ({} : State).respCode 0x10 = 0 ∧ ({} : State).respCode 0x13 = 3 ∧ ({} : State).respCode 0xFFFFFC = 1 := by decide +kernel

/-- A step takes the command at the front and leaves the rest (the model's queue). -/
theorem test_step : (after (step { pending := [.idcode, .bypass] })).pending = [.bypass] := by decide +kernel

/-- READ_POUT words of PMBus LINEAR11: 100 × 2^-2 W, -1 W, and a falling bit of a mW. -/
theorem test_linear11 : linear11 0xF064 = 25000 ∧ linear11 0x07FF = 0 ∧ linear11 0x8001 = 0 := by decide +kernel

end Sys2Proof.Tests
end

section
/-! Block architecture: how bits of registers and the table of pairs read back, the time base registers (R27) and the frames at
the stops of the Airas rings (R16, R17). -/

namespace Sys2Proof.Machine

/-! ### Bits of registers, and the table of pairs -/

@[simp] theorem reg_setBits (s : State) (a m b : Nat) :
    (s.setBits a m).reg b = if a = b then (s.reg a ||| m) % 2 ^ 32 else s.reg b := reg_setReg ..

theorem bitAt_or_two_pow (n : Nat) {i : Nat} (hi : i < 32) : bitAt ((n ||| 2 ^ i) % 2 ^ 32) i = 1 := by
  have h : ((n ||| 2 ^ i) % 2 ^ 32).testBit i = true := by
    rw [Nat.testBit_mod_two_pow]; simp [hi]
  simpa [Nat.testBit, bitAt, Nat.and_comm] using h

theorem bit_setBits_self (s : State) (a : Nat) {i : Nat} (hi : i < 32) : (s.setBits a (2 ^ i)).bit a i = true := by
  simp only [State.bit, reg_setBits, if_true, bitAt_or_two_pow _ hi, beq_self_eq_true]

/-- A bit reads from the register's value alone. -/
theorem bit_congr {s t : State} {a : Nat} (h : s.reg a = t.reg a) (i : Nat) : s.bit a i = t.bit a i := by
  simp only [State.bit, h]

/-- `t` is `s` with other stored registers: every other field is as it was. -/
def State.RegsOnly (s t : State) : Prop := ∃ r, t = { s with regs := r }

theorem State.RegsOnly.trans {s t u : State} (h1 : s.RegsOnly t) (h2 : t.RegsOnly u) : s.RegsOnly u := by
  obtain ⟨r1, rfl⟩ := h1
  obtain ⟨r2, rfl⟩ := h2
  exact ⟨r2, rfl⟩

theorem State.RegsOnly.eq_with_regs {s t : State} (h : s.RegsOnly t) : t = { s with regs := t.regs } := by
  obtain ⟨r, rfl⟩ := h
  rfl

theorem regsOnly_setReg (s : State) (a v : Nat) : s.RegsOnly (s.setReg a v) := ⟨_, rfl⟩
theorem regsOnly_setBits (s : State) (a m : Nat) : s.RegsOnly (s.setBits a m) := regsOnly_setReg ..
theorem regsOnly_count (s : State) (a : Nat) : s.RegsOnly (s.count a) := regsOnly_setReg ..

@[simp] theorem pair_setPair (s : State) (stn i : Nat) (v : StnPair) (stn' i' : Nat) :
    (s.setPair stn i v).pair stn' i' = if stn * 64 + i = stn' * 64 + i' then v else s.pair stn' i' := by
  simp [State.pair, State.setPair]

/-! ### The time base registers (R27) -/

theorem readReg_hubTimeLo (s : State) (src : Src) :
    s.readReg src Reg.hubTimeLo = (s.setBanked src .timeHi (s.time / 2 ^ 32 % 2 ^ 32), s.time % 2 ^ 32) := by
  have hval : s.regVal src Reg.hubTimeLo = s.time % 2 ^ 32 % 2 ^ 32 := rfl
  simp [State.readReg, hval]

theorem readReg_hubTimeHi (s : State) (src : Src) :
    s.readReg src Reg.hubTimeHi = (s, s.banked src .timeHi % 2 ^ 32) := rfl

@[simp] theorem banked_setBanked_same (s : State) (src : Src) (b : Bank) (v : Nat) : (s.setBanked src b v).banked src b = v := by
  simp [State.banked, State.setBanked]

/-- The selectors and shadows read from `sel` alone. -/
theorem banked_congr {s t : State} (h : s.sel = t.sel) (src : Src) (b : Bank) : s.banked src b = t.banked src b := by
  simp only [State.banked, h]

theorem exec_hubTimeLoRead (src : Src) (s : State) : exec (.hubTimeLoRead src) s =
    .next ((s.setBanked src .timeHi (s.time / 2 ^ 32 % 2 ^ 32)).emit (.regRsp src Reg.hubTimeLo (s.time % 2 ^ 32) 0)) := by
  have hexec : exec (.hubTimeLoRead src) s =
      .next ((s.readReg src Reg.hubTimeLo).1.emit (.regRsp src Reg.hubTimeLo (s.readReg src Reg.hubTimeLo).2 0)) := rfl
  rw [hexec, readReg_hubTimeLo]

/-- A write under the access codes changes the stored registers and nothing that the time base shows. -/
theorem plainWrite_time_sel (s : State) (a v : Nat) : (s.plainWrite a v).time = s.time ∧ (s.plainWrite a v).sel = s.sel := by
  unfold State.plainWrite
  cases regRow a with
  | none => exact ⟨rfl, rfl⟩
  | some r =>
    dsimp only
    split_ifs <;> exact ⟨rfl, rfl⟩

/-- The time base registers have no effect of their own on a write: the access codes alone decide. -/
theorem exec_registerWrite_timeBase (src : Src) (v : Nat) (s : State) {a : Nat} (ha : a ∈ [Reg.hubTimeLo, Reg.hubTimeHi]) :
    exec (.registerWrite src a v) s = .next ((s.plainWrite a (v % 2 ^ 32)).emit (.regRsp src a 0 0)) := by
  simp only [List.mem_cons, List.not_mem_nil, or_false] at ha
  rcases ha with rfl | rfl <;> rfl

/-- Settles O6: the read of LO leaves the high half in the shadow of its source, which the read of HI gives. -/
theorem timeBaseReads : Obligations.TimeBaseReads := by
  unfold Obligations.TimeBaseReads
  refine ⟨fun src s => ?_, fun src => ?_, fun a ha src v s => ?_⟩
  · refine ⟨_, exec_hubTimeLoRead src s, rfl, fun u hu => ?_, rfl⟩
    rw [readReg_hubTimeHi, banked_congr hu]
    exact (congrArg (· % 2 ^ 32) (banked_setBanked_same ..)).trans (Nat.mod_mod ..)
  · rw [readReg_hubTimeLo, readReg_hubTimeHi]
    exact ⟨rfl, rfl⟩
  · exact ⟨_, exec_registerWrite_timeBase src v s ha, plainWrite_time_sel ..⟩

/-! ### Frames at the ring stops (R16, R17) -/

/-- A stop of a tile that exists, and that is not marked, serves the frame. -/
theorem exec_airasFrame (s : State) {p : Nat} (atStation : Bool) (payload seq crc : Nat) (hp : p < s.cfg.ladles)
    (hu : (s.stop p).unreachable = false) : exec (.airasFrame p atStation payload seq crc) s =
      .next (if atStation then s.stationFrame p seq (frameOk payload seq crc) else s.ladleFrame p seq (frameOk payload seq crc)) := by
  have hexec : exec (.airasFrame p atStation payload seq crc) s = execAirasFrame p atStation payload seq crc s := rfl
  simp [hexec, execAirasFrame, hp, hu]

/-- Settles O11: the stop's own count of resends, and the station's for this tile, decide between a further request and the mark. -/
theorem airasRingFrames : Obligations.AirasRingFrames := by
  unfold Obligations.AirasRingFrames
  intro s p payload seq crc hp hu
  simp only [exec_airasFrame s _ payload seq crc hp hu, if_true, Bool.false_eq_true, if_false]
  refine ⟨fun hok => ?good, fun hok => ?bad⟩ <;> rw [hok]
  case good => exact ⟨rfl, rfl⟩
  case bad =>
    refine ⟨fun hn => ?_, fun hn => ?_, fun hn => ?_, fun hn => ?_⟩
    · simp [State.ladleFrame, hn]
    · simp [State.ladleFrame, State.unreach, Nat.not_lt.2 hn]
    · simp [State.stationFrame, hn]
    · simp [State.stationFrame, State.unreach, Nat.not_lt.2 hn]

end Sys2Proof.Machine
end

section
/-! The Colander's station pairs (R24, R381, R386 to R388): the transition of a UC pair into ERROR and its capture, what the
filter passes, and the detail that a capture awaits. -/

namespace Sys2Proof.Machine

/-! ### Captures -/

theorem regsOnly_capture (s : State) (base src addr access master : Nat) : s.RegsOnly (s.capture base src addr access master) :=
  (((((regsOnly_setReg ..).trans (regsOnly_setReg ..)).trans (regsOnly_setReg ..)).trans (regsOnly_setReg ..)).trans
    (regsOnly_setReg ..)).trans (regsOnly_setReg ..)

theorem regsOnly_capDetail (s : State) (base addr access master : Nat) : s.RegsOnly (s.capDetail base addr access master) :=
  (((regsOnly_setBits ..).trans (regsOnly_setReg ..)).trans (regsOnly_setReg ..)).trans (regsOnly_setReg ..)

theorem reg_capture_src (s : State) (base src addr access master : Nat) :
    (s.capture base src addr access master).reg base = src % 2 ^ 32 := by
  simp [State.capture]

theorem reg_capture_of_outside (s : State) {base : Nat} (src addr access master : Nat) {b : Nat} (h : b < base ∨ base + 20 < b) :
    (s.capture base src addr access master).reg b = s.reg b := by
  simp only [State.capture, reg_setReg]
  simp (disch := omega) only [if_neg]

/-- R387: the first UC or FA transition is captured. -/
theorem capUc_of_free (s : State) (cls : Nat) (wire info : Bool) (stn i addr access master : Nat) (h : s.bit Reg.colStatus 16 = false) :
    s.capUc cls wire info stn i addr access master =
      (s.capture Reg.colCapSrc (capSrc cls wire info stn i) addr access master).setBits Reg.colStatus colCapValid := by
  simp [State.capUc, h]

/-- A capture joins those that await their detail. -/
def State.addWait (s : State) (w : CapWait) : State := { s with capWaits := s.capWaits ++ [w] }

@[simp] theorem reg_addWait (s : State) (w : CapWait) (a : Nat) : (s.addWait w).reg a = s.reg a := rfl

/-- R388: without a beat before it a capture awaits its detail. -/
theorem awaitDetail_of_no_beats (s : State) (stn i cycle : Nat) (ce : Bool) (h : s.capBeats = []) :
    s.awaitDetail stn i cycle ce = s.addWait { station := stn, pair := i, ce := ce, cycle := cycle } := by
  simp [State.awaitDetail, h, State.addWait]

/-! ### The transition of a licensee pair of class UC into ERROR (R386) -/

/-- The first-error capture of a pair: its source word, with the valid bit of COL_STATUS. -/
def State.ucHeld (s : State) (stn i : Nat) : State :=
  (s.capture Reg.colCapSrc (capSrc 2 false false stn i) 0 0 0).setBits Reg.colStatus colCapValid

theorem regsOnly_ucHeld (s : State) (stn i : Nat) : s.RegsOnly (s.ucHeld stn i) := (regsOnly_capture ..).trans (regsOnly_setBits ..)

/-- The state once the transition is captured, and the capture awaits its detail. -/
def State.ucCaptured (s : State) (stn i cycle : Nat) : State :=
  (s.ucHeld stn i).addWait { station := stn, pair := i, ce := false, cycle := cycle }

theorem ucCaptured_eq (s : State) (stn i cycle : Nat) : s.ucCaptured stn i cycle =
    { s with regs := (s.ucHeld stn i).regs, capWaits := s.capWaits ++ [{ station := stn, pair := i, ce := false, cycle := cycle }] } := by
  obtain ⟨r, hr⟩ := regsOnly_ucHeld s stn i
  rw [State.ucCaptured, hr]; rfl

theorem pairCaptured_uc (s : State) (stn i cycle : Nat) (hi : 8 ≤ i) (hfree : s.bit Reg.colStatus 16 = false) (hb : s.capBeats = []) :
    s.pairCaptured stn i 2 cycle false = s.ucCaptured stn i cycle := by
  have hown : decide (i < 8) = false := decide_eq_false (by omega)
  have hbeats : (s.ucHeld stn i).capBeats = [] := by rw [(regsOnly_ucHeld s stn i).eq_with_regs, hb]
  have hwait := awaitDetail_of_no_beats (s.ucHeld stn i) stn i cycle false hbeats
  rw [State.ucHeld] at hwait
  simp [State.pairCaptured, hown, hfree, capUc_of_free (h := hfree), hwait, State.ucCaptured, State.ucHeld]

/-- The register of a pair's ERR bit lies behind the Colander's own. -/
theorem errAddr_bound (stn i : Nat) : 0x11000 ≤ atStn stn Reg.colStnErrLo + i / 32 * 4 := by
  simp only [atStn, Reg.colStnErrLo]; omega

/-- The ERR bit of the pair is set and the transition counted. -/
def State.ucCounted (s : State) (stn i : Nat) : State := (s.latchErr stn i false).count Reg.colCntUc

theorem regsOnly_ucCounted (s : State) (stn i : Nat) : s.RegsOnly (s.ucCounted stn i) := (regsOnly_setBits ..).trans (regsOnly_count ..)

theorem reg_ucCounted_of_low (s : State) (stn i : Nat) {a : Nat} (ha : a < 0x11000) (hc : a ≠ Reg.colCntUc) :
    (s.ucCounted stn i).reg a = s.reg a := by
  have := errAddr_bound stn i
  simp only [State.ucCounted, State.latchErr, reg_count, reg_setBits, if_neg hc.symm, Bool.false_eq_true, if_false]
  exact if_neg (by omega)

theorem reg_ucCounted_cnt (s : State) (stn i : Nat) :
    (s.ucCounted stn i).reg Reg.colCntUc = min (2 ^ 32 - 1) (s.reg Reg.colCntUc + 1) := by
  have := errAddr_bound stn i
  simp only [State.ucCounted, State.latchErr, reg_count, reg_setBits, if_true, Bool.false_eq_true, if_false]
  rw [if_neg (by simp only [Reg.colCntUc]; omega)]

theorem errBit_ucCounted (s : State) (stn i : Nat) : (s.ucCounted stn i).errBit stn i = true := by
  have hb := errAddr_bound stn i
  have hreg : (s.ucCounted stn i).reg (atStn stn Reg.colStnErrLo + i / 32 * 4) =
      (s.latchErr stn i false).reg (atStn stn Reg.colStnErrLo + i / 32 * 4) := by
    simp only [State.ucCounted, reg_count]
    exact if_neg (by simp only [Reg.colCntUc]; omega)
  rw [State.errBit, bit_congr hreg]
  exact bit_setBits_self _ _ (Nat.mod_lt _ (by decide))

/-- A transition changes stored registers and the captures that wait, and nothing else. -/
theorem exists_ucCaptured_ucCounted_eq (s : State) (stn i cycle : Nat) : ∃ r, (s.ucCounted stn i).ucCaptured stn i cycle =
    { s with regs := r, capWaits := s.capWaits ++ [{ station := stn, pair := i, ce := false, cycle := cycle }] } := by
  obtain ⟨r, hr⟩ := regsOnly_ucCounted s stn i
  exact ⟨_, by rw [ucCaptured_eq, hr]⟩

theorem pair_ucCaptured_ucCounted (s : State) (stn i cycle stn' i' : Nat) :
    ((s.ucCounted stn i).ucCaptured stn i cycle).pair stn' i' = s.pair stn' i' := by
  obtain ⟨r, hr⟩ := exists_ucCaptured_ucCounted_eq s stn i cycle
  rw [hr]; rfl

theorem transition_uc (s : State) (stn i cycle : Nat) (hi : 8 ≤ i) (hcls : s.pairClass stn i = 2) (hfree : s.bit Reg.colStatus 16 = false)
    (hb : s.capBeats = []) : s.transition stn i cycle false = (s.ucCounted stn i).ucCaptured stn i cycle := by
  have hstill : (s.ucCounted stn i).bit Reg.colStatus 16 = false :=
    (bit_congr (reg_ucCounted_of_low s stn i (by decide) (by decide)) 16).trans hfree
  have hcap := pairCaptured_uc (s.ucCounted stn i) stn i cycle hi hstill hb
  have hn : ¬ i < 8 := by omega
  rw [State.ucCounted] at hcap
  simp [State.transition, hcls, hn, errCounter, hcap, State.ucCounted]

/-! ### What the transition leaves in the registers -/

theorem reg_ucCaptured_of_outside (s : State) (stn i cycle : Nat) {a : Nat} (ha : Reg.colCapSrc + 20 < a) :
    (s.ucCaptured stn i cycle).reg a = s.reg a := by
  have h := reg_capture_of_outside s (capSrc 2 false false stn i) 0 0 0 (Or.inr ha)
  rw [State.ucCaptured, reg_addWait, State.ucHeld, reg_setBits, if_neg (by simp only [Reg.colCapSrc, Reg.colStatus] at ha ⊢; omega), h]

theorem reg_ucCaptured_src (s : State) (stn i cycle : Nat) :
    (s.ucCaptured stn i cycle).reg Reg.colCapSrc = (2 * 2 ^ 30 + stn * 2 ^ 16 + i) % 2 ^ 32 := by
  rw [State.ucCaptured, reg_addWait, State.ucHeld, reg_setBits, if_neg (by decide), reg_capture_src]
  simp [capSrc, b2n]

theorem bit_ucCaptured_valid (s : State) (stn i cycle : Nat) : (s.ucCaptured stn i cycle).bit Reg.colStatus 16 = true := by
  rw [State.ucCaptured, bit_congr (reg_addWait ..)]
  exact bit_setBits_self _ _ (by decide)

/-! ### What the filter passes (R381) -/

/-- The filter passes a level other than the pair's to a decoded pair. -/
theorem filterBad_of_change (s : State) (stn i cycle : Nat) (hd : (s.pair stn i).decoded = true) (hl : (s.pair stn i).lvl = .ok) :
    s.filterBad stn i cycle false =
      (s.setPair stn i { s.pair stn i with filt := some .error, lvl := .error }).transition stn i cycle false := by
  simp [State.filterBad, hd, hl]

theorem filterBad_of_not_decoded (s : State) (stn i cycle : Nat) (wire : Bool) (hd : (s.pair stn i).decoded = false) :
    s.filterBad stn i cycle wire = s.setPair stn i { s.pair stn i with filt := some (if wire then .wire else .error) } := by
  simp [State.filterBad, hd]

/-- R383: the pair of a Ladle whose filter has last passed ERROR stays in ERROR. -/
theorem heldError_eq_true_iff (s : State) (stn i : Nat) : s.heldError stn i = true ↔ i < 8 ∧ (s.pair stn i).filt = some .error := by
  simp [State.heldError]

/-- R381: a pair enters WIRE at the end of 1 ms, and not before. -/
theorem armOut_of_armed (s : State) (stn i cycle : Nat) (hon : s.pairOn stn i = true) (ha : (s.pair stn i).armed = true)
    (hd : (s.pair stn i).decoded = false) : s.armOut stn i cycle =
      if (s.pair stn i).armedAt + 100000 ≤ s.time then
        (s.setPair stn i { s.pair stn i with lvl := .wire, armed := false }).transition stn i cycle true
      else s := by
  simp [State.armOut, hon, ha, hd, msT]

/-! ### The detail of a capture (R388) -/

theorem CapWait.over_eq_true_iff (w : CapWait) (cycle : Nat) : w.over cycle = true ↔ w.cycle + 40 < cycle := by
  simp [CapWait.over]

/-- A beat of the pair of the one capture that waits, within 40 hub cycles, is its detail. -/
theorem beat_of_wait (s : State) (b : CapBeat) (w : CapWait) (hw : s.capWaits = [w]) (hs : w.station = b.station) (hp : w.pair = b.pair)
    (hlo : w.cycle ≤ b.cycle) (hhi : b.cycle ≤ w.cycle + 40) :
    s.beat b = ({ s with capWaits := [] } : State).capDetail (if w.ce then colCeCapSrc else Reg.colCapSrc) b.addr b.access b.master := by
  have hov : w.over b.cycle = false := by simpa [CapWait.over] using hhi
  simp [State.beat, hw, hs, hp, hlo, hov]

theorem reg_capDetail_addr (s : State) (base addr access master : Nat) :
    (s.capDetail base addr access master).reg (base + 4) = addr % 2 ^ 32 := by
  simp [State.capDetail]

theorem reg_capDetail_master (s : State) (base addr access master : Nat) :
    (s.capDetail base addr access master).reg (base + 12) = master % 2 ^ 16 := by
  simp only [State.capDetail, reg_setReg, if_true]
  exact Nat.mod_eq_of_lt (Nat.lt_trans (Nat.mod_lt _ (by decide)) (by decide))

/-- The detail of the one capture that waits is out of time, or not yet. -/
theorem exec_captureDetailTimeout (s : State) (cycle : Nat) (w : CapWait) (hw : s.capWaits = [w]) :
    exec (.captureDetailTimeout w.station w.pair cycle) s =
      .next (if w.over cycle then ({ s with capWaits := [] } : State).count Reg.colCntNoinfo else s) := by
  have hexec : exec (.captureDetailTimeout w.station w.pair cycle) s = execCaptureDetailTimeout w.station w.pair cycle s := rfl
  cases hov : w.over cycle <;> simp [hexec, execCaptureDetailTimeout, hw, hov]

/-! ### The commands of a pair -/

section
variable (s : State) (stn i : Nat)

theorem exec_pairTransition (wire : Bool) (cycle : Nat) : exec (.pairTransition stn i wire cycle) s =
    .next (if s.hasPair stn i then s.filterBad stn i cycle wire else s) := rfl

theorem exec_pairReturnOk : exec (.pairReturnOk stn i) s =
    .next (if s.hasPair stn i && ! s.heldError stn i then s.filterOk stn i else s) := rfl

theorem exec_pairArmTimeout (cycle : Nat) : exec (.pairArmTimeout stn i cycle) s =
    .next (if s.hasPair stn i then s.armOut stn i cycle else s) := rfl

theorem exec_captureBeat (addr master access cycle : Nat) (h : s.hasPair stn i = true) :
    exec (.captureBeat stn i addr master access cycle) s =
      .next (s.beat { station := stn, pair := i, addr := addr, master := master, access := access, cycle := cycle }) := by
  have hexec : exec (.captureBeat stn i addr master access cycle) s = execCaptureBeat stn i addr master access cycle s := rfl
  simp [hexec, execCaptureBeat, h]

theorem exec_glitchDiscard : exec (.glitchDiscard stn i) s =
    .next (if s.hasPair stn i then s.count (atStn stn Reg.colCntGlitch) else s) := rfl

end

/-- Settles O46: a UC transition goes through `transition_uc`; the other clauses are the branches of the pair's commands. -/
theorem pairsAndCaptures : Obligations.PairsAndCaptures := by
  unfold Obligations.PairsAndCaptures
  refine ⟨?error, ?notDecoded, ?returnOk, ?held, ?armOut, ?beat, ?noDetail, ?glitch, ?absent⟩
  case error =>
    intro s stn i cyc hp hd hl hi hcls hfree hb
    have hstep : exec (.pairTransition stn i false cyc) s =
        .next (((s.setPair stn i { s.pair stn i with filt := some .error, lvl := .error }).ucCounted stn i).ucCaptured stn i cyc) := by
      rw [exec_pairTransition, if_pos hp, filterBad_of_change s stn i cyc hd hl]
      exact congrArg _ (transition_uc _ stn i cyc hi hcls hfree hb)
    obtain ⟨r, hr⟩ := exists_ucCaptured_ucCounted_eq (s.setPair stn i { s.pair stn i with filt := some .error, lvl := .error }) stn i cyc
    refine ⟨_, hstep, ?_, ?_, ?_, bit_ucCaptured_valid .., reg_ucCaptured_src .., ?_⟩
    · rw [pair_ucCaptured_ucCounted, pair_setPair, if_pos rfl]
    · have haddr := errAddr_bound stn i
      rw [State.errBit, bit_congr (reg_ucCaptured_of_outside _ stn i cyc (by simp only [Reg.colCapSrc]; omega))]
      exact errBit_ucCounted _ stn i
    · rw [reg_ucCaptured_of_outside _ stn i cyc (by decide)]
      exact reg_ucCounted_cnt _ stn i
    · rw [hr]
      exact ⟨rfl, rfl⟩
  case notDecoded =>
    intro s stn i w cyc hp hd
    rw [exec_pairTransition, if_pos hp, filterBad_of_not_decoded s stn i cyc w hd]
  case returnOk =>
    intro s stn i hp hfilt
    have hh : s.heldError stn i = false := by
      rw [← Bool.not_eq_true, heldError_eq_true_iff]; exact fun h => hfilt h.1 h.2
    rw [exec_pairReturnOk, hp, hh]; rfl
  case held =>
    intro s stn i hi hfilt
    rw [exec_pairReturnOk, (heldError_eq_true_iff s stn i).2 ⟨hi, hfilt⟩]; simp
  case armOut =>
    intro s stn i cyc hp hon ha hd
    rw [exec_pairArmTimeout, if_pos hp, armOut_of_armed s stn i cyc hon ha hd]
    exact ⟨fun h => by rw [if_pos h], fun h => by rw [if_neg (by omega)]⟩
  case beat =>
    intro s stn i a m acc cyc w hp hw hs hpair hlo hhi
    refine ⟨_, (exec_captureBeat s stn i a m acc cyc hp).trans (congrArg _ (beat_of_wait s _ w hw hs hpair hlo hhi)), ?_, ?_, ?_, ?_⟩
    · rw [(regsOnly_capDetail ..).eq_with_regs]
    · exact (regsOnly_capDetail ..).eq_with_regs
    · exact reg_capDetail_addr ..
    · exact reg_capDetail_master ..
  case noDetail =>
    rintro s _ _ cyc w hw rfl rfl
    rw [exec_captureDetailTimeout s cyc w hw]
    exact ⟨fun h => by rw [if_pos ((w.over_eq_true_iff cyc).2 h)],
      fun h => by rw [if_neg (by rw [w.over_eq_true_iff]; omega)]⟩
  case glitch =>
    intro s stn i hp
    rw [exec_glitchDiscard, if_pos hp]
  case absent =>
    intro s stn i cyc hp
    simp [exec_pairReturnOk, exec_glitchDiscard, exec_pairTransition, exec_pairArmTimeout, hp]

end Sys2Proof.Machine
end

section
/-! Tap contract: the breach of one op, the beats that name an op of a running tile, and the Lid's answer to a tile
(R64, R122, R126, R138, R177, R504). -/

namespace Sys2Proof.Machine

/-! ### Findings and the breach of one op (R122) -/

/-- A finding changes the list of findings alone. -/
theorem find_eq_with_found (o : LOp) (f : Finding) : o.find f = { o with found := (o.find f).found } := by
  unfold LOp.find
  split <;> rfl

@[simp] theorem find_tag (o : LOp) (f : Finding) : (o.find f).tag = o.tag := by rw [find_eq_with_found]
@[simp] theorem find_d (o : LOp) (f : Finding) : (o.find f).d = o.d := by rw [find_eq_with_found]
@[simp] theorem find_closed (o : LOp) (f : Finding) : (o.find f).closed = o.closed := by rw [find_eq_with_found]

theorem mem_found_find_self (o : LOp) (f : Finding) : f ∈ (o.find f).found := by
  unfold LOp.find
  split
  case isTrue h => simpa using h
  case isFalse => simp

theorem mem_found_find_of_mem {o : LOp} {g : Finding} (hg : g ∈ o.found) (f : Finding) : g ∈ (o.find f).found := by
  unfold LOp.find
  split
  case isTrue => exact hg
  case isFalse => exact List.mem_append_left _ hg

/-- R123: one row of R122 applies, so the tile's counter and the op's own both take one. -/
theorem breach_eq (s : State) (t : Nat) (o : LOp) : s.breach t o =
    (((s.tapErr t 0 o.d.opseq o.tag).ldlCount t 19 1).faultInt clsTap o.d.ctx, (o.find .tap).tally 19 1) := rfl

/-! ### The beats of a running tile -/

/-- A beat whose tag names an op of a running tile acts on that op. -/
theorem onBeat_of_nameable {s : State} {t tag : Nat} {o : LOp} (hr : s.tileRuns t = true) (hn : s.nameable t tag = some o)
    (f : LOp → State × LOp) : s.onBeat t tag f = ((f o).1.putOp t (f o).2).sweep t := by
  simp [State.onBeat, State.onBeatWith, hr, hn]

section
variable {s : State} {t tag : Nat} {o : LOp} (hr : s.tileRuns t = true) (hn : s.nameable t tag = some o)
include hr hn

/-- R64: the max value of an op that still needs one is taken. -/
theorem exec_converterMaxBeat_of_absent {m : Nat} (htap : (Tab.get {} s.cfg.tapId t).cmx = true) (hm : m < 2 ^ 32)
    (hneed : o.needCmx = true) (habs : o.cmx = none) :
    exec (.converterMaxBeat t tag m) s = .next ((s.putOp t { o with cmx := some m }).sweep t) := by
  have hexec : exec (.converterMaxBeat t tag m) s = execConverterMaxBeat t tag m s := rfl
  have hmod : m % 2 ^ 32 = m := Nat.mod_eq_of_lt hm
  simp [hexec, execConverterMaxBeat, htap, onBeat_of_nameable hr hn, hneed, habs, hmod, -Nat.reducePow]

/-- R122: the deadline of a closed op whose max value is absent is a breach of that op. -/
theorem exec_converterMaxDeadline_of_absent (hclosed : o.closed = true) (hneed : o.needCmx = true) (habs : o.cmx = none)
    (hlate : o.cmxLate = false) : exec (.converterMaxDeadline t tag) s =
      .next ((s.breach t { o with cmxLate := true }).1.putOp t (s.breach t { o with cmxLate := true }).2) := by
  have hexec : exec (.converterMaxDeadline t tag) s = execConverterMaxDeadline t tag s := rfl
  simp [hexec, execConverterMaxDeadline, hr, hn, hclosed, hneed, habs, hlate]

/-- R177: the triples of an open route op are folded into its digest. -/
theorem exec_routeBeat_of_open (triples : List (Nat × Nat × Nat)) (last : Bool) (htap : (Tab.get {} s.cfg.tapId t).route = true)
    (hopen : o.closed = false) (hroute : o.d.isRoute = true) (hlast : o.rteLast = false) :
    exec (.routeBeat t tag triples last) s =
      .next (((s.ldlCount t 26 1).putOp t { o.tally 26 1 with route := o.route.folds triples, rteLast := last }).sweep t) := by
  have hexec : exec (.routeBeat t tag triples last) s = execRouteBeat t tag triples last s := rfl
  simp [hexec, execRouteBeat, htap, onBeat_of_nameable hr hn, hopen, hroute, hlast]

end

/-! ### The Lid's answer (R138, R504) -/

/-- The one answer on its way reaches the one op of its tile. -/
theorem exec_lidAcceptance_of_answer {s : State} {t : Nat} {o : LOp} {a : Accept} (hans : s.answers = [(t, o.id, a)])
    (hops : (s.ladle t).ops = [o]) : exec (.lidAcceptance t o.tag) s = .next (({ s with answers := [] } : State).takeAnswer t o a) := by
  have hexec : exec (.lidAcceptance t o.tag) s = .next (s.lidAnswer t o.tag) := rfl
  have hops' : (({ s with answers := [] } : State).ladle t).ops = [o] := hops
  simp [hexec, State.lidAnswer, hans, hops, hops']

theorem takeAnswer_ok (s : State) (t : Nat) (o : LOp) (x y z : Int) :
    s.takeAnswer t o (.ok x y z) = (s.ldlCount t 0 1).putOp t { o.tally 0 1 with accept := .ok x y z } := rfl

/-- Settles O14: a breach through `breach_eq` and what a finding leaves; each command through its own lemma. -/
theorem tapFindingsAndAcceptance : Obligations.TapFindingsAndAcceptance := by
  unfold Obligations.TapFindingsAndAcceptance
  refine ⟨fun s p o => ?breach, fun s p tag o hr hn => ⟨?maxBeat, ?deadline, ?route, ?acceptance⟩⟩
  case breach =>
    rw [breach_eq]
    exact ⟨List.contains_iff_mem.2 (mem_found_find_self o .tap), fun g hg => mem_found_find_of_mem hg .tap, rfl,
      find_tag o .tap, find_d o .tap, find_closed o .tap⟩
  case maxBeat => exact fun m htap hm hneed habs => exec_converterMaxBeat_of_absent hr hn htap hm hneed habs
  case deadline =>
    exact fun hclosed hneed habs hlate => ⟨_, rfl, exec_converterMaxDeadline_of_absent hr hn hclosed hneed habs hlate⟩
  case route =>
    exact fun triples last htap hopen hroute hlast => exec_routeBeat_of_open hr hn triples last htap hopen hroute hlast
  case acceptance =>
    rintro x y z hans hops rfl
    rw [exec_lidAcceptance_of_answer hans hops, takeAnswer_ok]

end Sys2Proof.Machine
end

section
/-! Selectors and reads with an effect (R92, R305, R327, R422, R500): a source's copy of a banked register is its own, and what
each of the reads captures for its source. -/

namespace Sys2Proof.Machine

/-! ### The banks of the sources (R500) -/

/-- A table's write keeps what another key reads, whatever value either treats as absent. -/
theorem tab_get_set_of_ne {α : Type} [DecidableEq α] (d e : α) (t : List (Nat × α)) (v : α) {k j : Nat} (h : k ≠ j) :
    Tab.get d (Tab.set e t k v) j = Tab.get d t j := by
  unfold Tab.set
  split <;> simp [h]

/-- A write of one source's copy leaves every copy of another source as it was. -/
theorem banked_setBanked_other (s : State) {src d : Src} (h : d.num ≠ src.num) (b c : Bank) (v : Nat) :
    (s.setBanked src b v).banked d c = s.banked d c := by
  have hb : b.num < 32 := by cases b <;> decide
  have hc : c.num < 32 := by cases c <;> decide
  have hkey : src.num * 32 + b.num ≠ d.num * 32 + c.num := by omega
  exact tab_get_set_of_ne _ _ s.sel v hkey

/-- A selector's write stores the bits that the map gives it, for its source alone. -/
theorem exec_registerWrite_hubRcpSel (s : State) (src : Src) (v : Nat) : exec (.registerWrite src Reg.hubRcpSel v) s =
    .next ((s.setBanked src .rcpSel (v % 2 ^ 32 &&& 0xFF)).emit (.regRsp src Reg.hubRcpSel 0 0)) := rfl

theorem exec_registerWrite_lidCtxSel (s : State) (src : Src) (v : Nat) : exec (.registerWrite src Reg.lidCtxSel v) s =
    .next ((s.setBanked src .lidCtxSel (v % 2 ^ 32 &&& 0x3FFFF)).emit (.regRsp src Reg.lidCtxSel 0 0)) := rfl

theorem regVal_hubRcpInfo (s : State) (src : Src) :
    s.regVal src Reg.hubRcpInfo = s.rcpInfoVal (s.banked src .rcpSel) % 2 ^ 32 := rfl

theorem regVal_lidCtxInfo (s : State) (src : Src) :
    s.regVal src Reg.lidCtxInfo = s.lidCtxInfoVal (s.banked src .lidCtxSel % 2 ^ 16) % 2 ^ 32 := rfl

/-- HUB_RCP_SEL holds the low byte of what is written. -/
theorem and_rcpSel_mask (v : Nat) : v % 2 ^ 32 &&& 0xFF = v % 2 ^ 8 := by
  have h : v % 2 ^ 32 &&& 2 ^ 8 - 1 = v % 2 ^ 32 % 2 ^ 8 := Nat.and_two_pow_sub_one_eq_mod ..
  rw [show (0xFF : Nat) = 2 ^ 8 - 1 from rfl, h]
  omega

/-! ### The reads with an effect -/

theorem exec_hubJrnlNextLoRead (s : State) (src : Src) : exec (.hubJrnlNextLoRead src) s =
    .next ((s.setBanked src .jrnlHi (s.jseq / 2 ^ 32 % 2 ^ 32)).emit (.regRsp src Reg.hubJrnlNextLo (s.jseq % 2 ^ 32 % 2 ^ 32) 0)) := rfl

theorem exec_hubProvNextLoRead (s : State) (src : Src) : exec (.hubProvNextLoRead src) s =
    .next ((s.setBanked src .provHi (s.provNext / 2 ^ 32 % 2 ^ 32)).emit
      (.regRsp src Reg.hubProvNextLo (s.provNext % 2 ^ 32 % 2 ^ 32) 0)) := rfl

theorem exec_hubDumpDataRead (s : State) (src : Src) : exec (.hubDumpDataRead src) s =
    .next ((s.setBanked src .dumpAddr ((s.banked src .dumpAddr + 4) % 2 ^ 16)).emit
      (.regRsp src Reg.hubDumpData (Tab.get 0 s.dumpSram (s.banked src .dumpAddr / 4) % 2 ^ 32) 0)) := rfl

theorem readReg_hubJrnlNextHi (s : State) (src : Src) : (s.readReg src Reg.hubJrnlNextHi).2 = s.banked src .jrnlHi % 2 ^ 32 := rfl

theorem readReg_hubProvNextHi (s : State) (src : Src) : (s.readReg src Reg.hubProvNextHi).2 = s.banked src .provHi % 2 ^ 32 := rfl

@[simp] theorem banked_emit (s : State) (o : Out) (src : Src) (b : Bank) : (s.emit o).banked src b = s.banked src b := rfl

/-- Settles O35: a selector's write through `exec_registerWrite_hubRcpSel` and `exec_registerWrite_lidCtxSel`, with
`banked_setBanked_other` for the other sources; each read through its own lemma. -/
theorem selectorsAndReadsWithEffect : Obligations.SelectorsAndReadsWithEffect := by
  unfold Obligations.SelectorsAndReadsWithEffect
  refine ⟨⟨fun s src v => ?rcpSel, fun s src v => ?ctxSel⟩, fun s src => ?jrnl, fun s src => ?prov, fun s src => ?dump⟩
  case rcpSel =>
    have hcopy : (s.setBanked src .rcpSel (v % 2 ^ 32 &&& 0xFF)).banked src .rcpSel = v % 2 ^ 8 := by
      rw [banked_setBanked_same, and_rcpSel_mask]
    refine ⟨_, exec_registerWrite_hubRcpSel s src v, hcopy, ?_, fun d hd b => banked_setBanked_other s hd .rcpSel b _, rfl⟩
    rw [regVal_hubRcpInfo, banked_emit, hcopy]
    rfl
  case ctxSel =>
    exact ⟨_, exec_registerWrite_lidCtxSel s src v, regVal_lidCtxInfo _ src, fun d hd b => banked_setBanked_other s hd .lidCtxSel b _, rfl⟩
  case jrnl =>
    refine ⟨_, exec_hubJrnlNextLoRead s src, by rw [Nat.mod_mod]; rfl, ?_, rfl⟩
    rw [readReg_hubJrnlNextHi, banked_emit, banked_setBanked_same, Nat.mod_mod]
  case prov =>
    refine ⟨_, exec_hubProvNextLoRead s src, by rw [Nat.mod_mod]; rfl, ?_, rfl⟩
    rw [readReg_hubProvNextHi, banked_emit, banked_setBanked_same, Nat.mod_mod]
  case dump =>
    exact ⟨_, exec_hubDumpDataRead s src, rfl, banked_setBanked_same .., rfl⟩

end Sys2Proof.Machine
end

section
/-! Samples and lanes apart from their runs, arbitration decisions and known-answer vectors (R88, R191, R198 to R206, R210). -/

namespace Sys2Proof.Machine

/-! ### Samples and the spill ring (R199, R200) -/

/-- R199: while a lane is in service, the first sample of the op that is out of time is dropped. -/
theorem exec_sampleAgeDrop_of_late (s : State) {c n q : Nat} {j : Job} (hlane : s.inService ≠ [])
    (hfind : s.queue.find? (fun x => x.kind == .sample && x.ctx == c && x.step == n && x.opseq == q && ! s.inTime x) = some j) :
    exec (.sampleAgeDrop c n q) s =
      .next ((({ s with queue := s.queue.filter (fun x => x.id != j.id) } : State).count Reg.mtrCntDropAge).dropSample j) := by
  have hexec : exec (.sampleAgeDrop c n q) s = execSampleAgeDrop c n q s := rfl
  simp [hexec, execSampleAgeDrop, hlane, hfind]

/-- R200: the oldest spilled sample is read back and queued while the queue has room. -/
theorem exec_spillReturn_of_room (s : State) {j : Job} {rest : List Job} (hspill : s.spill = j :: rest) (hroom : s.queue.length < 1024) :
    exec .spillReturn s = .next { s.request .read (s.spillBlk j.place) (j.place % 64) 1 .spill with
      spill := rest, queue := enqueue j s.queue } := by
  have hexec : exec .spillReturn s = execSpillReturn s := rfl
  simp [hexec, execSpillReturn, hspill, queueMax, hroom]

/-! ### Self-tests of lanes (R191, R212) -/

/-- A self-test that passes leaves its lane free and marked as tested. -/
theorem selfTestDone_of_pass (s : State) {l : Nat} {j : Job} (hjob : (s.lane l).job = some j) (hkind : j.kind = .selfTest) :
    s.selfTestDone l true = s.setLane l { s.lane l with job := none, tested := true } := by
  simp [State.selfTestDone, hjob, hkind]

/-- With no lane service that waits, the end of a self-test ends none. -/
theorem exec_laneSelfTestDone_of_pass (s : State) {l : Nat} {j : Job} (hjob : (s.lane l).job = some j) (hkind : j.kind = .selfTest)
    (hsvc : s.laneSvc = []) :
    exec (.laneSelfTestDone l true) s = .next (s.setLane l { s.lane l with job := none, tested := true }) := by
  have hexec : exec (.laneSelfTestDone l true) s =
      .next ((s.selfTestDone l true).endServices (s.selfTestDone l true).laneSvc) := rfl
  have hnone : (s.setLane l { s.lane l with job := none, tested := true }).laneSvc = [] := hsvc
  rw [hexec, selfTestDone_of_pass s hjob hkind, hnone]
  rfl

/-! ### The bound (R210) -/

/-- The bound fits its register. -/
theorem boundOf_lt (total t : Nat) : boundOf total t < 2 ^ 32 := by
  unfold boundOf
  split
  · decide
  · exact Nat.lt_of_le_of_lt (Nat.min_le_left ..) (by decide)

theorem reg_rebound (s : State) (a : Nat) : s.rebound.reg a =
    if Reg.hubSieveBound = a then boundOf s.escTotal (s.time - s.sieveT) else s.reg a := by
  have hset : s.rebound.reg a = (s.setReg Reg.hubSieveBound (boundOf s.escTotal (s.time - s.sieveT))).reg a := rfl
  rw [hset, reg_setReg, Nat.mod_eq_of_lt (boundOf_lt ..)]

/-! ### Arbitration decisions (R203, R206) -/

section
variable (s : State) (c n q : Nat)

/-- Once the job has ended and the self-check has answered, the arbitration is decided. -/
theorem exec_arbitrationDecision_of_ended {a : Arb} {d : Decision}
    (hfind : s.arbs.find? (fun x => x.job.ctx == c && x.job.step == n && x.job.opseq == q && x.ended.isSome &&
      (x.check.isSome || x.checkOver || decide (x.since + usT 50 ≤ s.time))) = some a) (hended : a.ended = some d)
    (hlive : a.job.ignored = false) : exec (.arbitrationDecision c n q) s =
      .next ((({ s with arbs := s.arbs.filter (fun x => x.job.id != a.job.id) } : State).observeDecision a d).arbAct a d) := by
  have hexec : exec (.arbitrationDecision c n q) s = execArbitrationDecision c n q s := rfl
  simp [hexec, execArbitrationDecision, hfind, hended, hlive]

/-- The arbitration of an op, 50 µs after its self-check command. -/
def Arb.overAt (c n q now : Nat) (a : Arb) : Bool :=
  a.job.ctx == c && a.job.step == n && a.job.opseq == q && decide (a.since + 5000 ≤ now)

theorem Arb.overAt_eq_true_iff (c n q now : Nat) (a : Arb) :
    a.overAt c n q now = true ↔ a.job.ctx = c ∧ a.job.step = n ∧ a.job.opseq = q ∧ a.since + 5000 ≤ now := by
  simp [Arb.overAt, and_assoc]

theorem exec_arbSelfCheckTimeout : exec (.arbSelfCheckTimeout c n q) s =
    .next { s with arbs := s.arbs.map (fun a => if a.overAt c n q s.time then { a with checkOver := true } else a) } := rfl

end

/-! ### Known-answer vectors (R88, R198) -/

/-- The next vector of a loading recipe runs on the lane that R198 gives, while no sample is pending. -/
theorem exec_katVectorRun_of_lane (s : State) {k v lane : Nat} {l : RcpLoad} {r : Recipe} {rest : List Nat} (halves : Bool)
    (hfind : s.rcpLoads.find? (fun x => x.slot == k) = some l) (hr : l.recipe = some r) (hv : l.vectors = v :: rest)
    (hbad : l.katBad = false) (hlane : s.laneFor { avoid := l.avoid } = some lane) (hpend : s.samplePending = false) :
    exec (.katVectorRun k halves) s = .next (s.katRan k lane r v rest halves) := by
  have hexec : exec (.katVectorRun k halves) s = execKatVectorRun k halves s := rfl
  simp [hexec, execKatVectorRun, hfind, hr, hv, hbad, hlane, hpend]

/-- Settles O21: each command by its own lemma above; the arbitrations of another op, or before 50 µs, keep their place
in the table through `Arb.overAt_eq_true_iff`. -/
theorem samplesAndArbitrations : Obligations.SamplesAndArbitrations := by
  unfold Obligations.SamplesAndArbitrations
  refine ⟨⟨fun s c n q j => ?ageDrop, fun s j rest => ?spill, fun s l j => ?selfTest, fun s => ?bound⟩,
    fun s c n q a d => ?decision, fun s c n q => ?timeout, fun s u k l r v rest lane => ?kat⟩
  case ageDrop => exact exec_sampleAgeDrop_of_late s
  case spill => exact exec_spillReturn_of_room s
  case selfTest => exact exec_laneSelfTestDone_of_pass s
  case bound =>
    refine ⟨s.rebound, rfl, ?_, rfl, fun a ha => ?_, rfl⟩
    · rw [reg_rebound, if_pos rfl]
    · rw [reg_rebound, if_neg (Ne.symm ha)]
  case decision => exact exec_arbitrationDecision_of_ended s c n q
  case timeout =>
    refine ⟨_, exec_arbSelfCheckTimeout s c n q, rfl, List.length_map .., fun a ha hc hn hq ht => ?_, fun a ha hother => ?_⟩
    · exact List.mem_map.2 ⟨a, ha, if_pos ((Arb.overAt_eq_true_iff ..).2 ⟨hc, hn, hq, ht⟩)⟩
    · refine List.mem_map.2 ⟨a, ha, if_neg fun hover => ?_⟩
      obtain ⟨hc, hn, hq, ht⟩ := (Arb.overAt_eq_true_iff ..).1 hover
      omega
  case kat =>
    rintro hfind hr hv hbad hlane hpend rfl
    exact ⟨exec_katVectorRun_of_lane s true hfind hr hv hbad hlane hpend, exec_katVectorRun_of_lane s false hfind hr hv hbad hlane hpend⟩

end Sys2Proof.Machine
end

section
/-! Accesses that the block makes on the memory ports and entries of its journal (R283 to R286, R413, R452 to R457): what they leave as
it was. -/

namespace Sys2Proof.Machine

/-! ### Ports keep the identifiers that they hold (R457) -/

@[simp] theorem held_issue (p : Port) (r : MemReq) : (p.issue r).held = p.held := by
  unfold Port.issue
  split <;> rfl

@[simp] theorem held_fill (p : Port) (now : Nat) : (p.fill now).held = p.held := by
  unfold Port.fill
  split <;> rfl

theorem held_refill (p : Port) (now : Nat) : (p.refill now).held = p.held := by
  have hfold : ∀ (l : List MemReq) (x : Port), (l.foldl (fun y _ => y.fill now) x).held = x.held := by
    intro l
    induction l with
    | nil => exact fun _ => rfl
    | cons _ l ih => exact fun x => (ih (x.fill now)).trans (held_fill x now)
  exact hfold p.waits p

@[simp] theorem held_retire (p : Port) (f : Access → Bool) (now : Nat) : (p.retire f now).held = p.held := held_refill ..

/-! ### A request and what it counts (R413, R452) -/

/-- The state in which the completion filter has counted a request of an access. -/
def State.cflCounted (s : State) (acc : Access) : State :=
  let o := s.accessCtx acc
  if o.1 ≠ 0 ∧ (s.ctx o.1).st = .live ∧ (s.ctx o.1).gen = o.2 then s.cflMore o.1 else s

/-- The request of an access. -/
def State.requestOf (s : State) (op : MemOp) (blk line len : Nat) (acc : Access) : MemReq :=
  { op := op, blk := blk, line := line, len := len, acc := acc, since := s.time, ctx := (s.accessCtx acc).1, gen := (s.accessCtx acc).2 }

theorem cflCounted_eq (s : State) (acc : Access) : s.cflCounted acc = { s with cfl := (s.cflCounted acc).cfl } := by
  unfold State.cflCounted
  dsimp only
  split_ifs <;> rfl

/-- The block's own accesses are not counted. -/
theorem cflCounted_of_own {s : State} {acc : Access} (h : (s.accessCtx acc).1 = 0) : s.cflCounted acc = s := by
  simp [State.cflCounted, h]

theorem request_eq {s : State} (h : s.bothStalled = false) (op : MemOp) (blk line len : Nat) (acc : Access) :
    s.request op blk line len acc =
      if s.portFor blk = 0 then { s.cflCounted acc with port0 := s.port0.issue (s.requestOf op blk line len acc) }
      else { s.cflCounted acc with port1 := s.port1.issue (s.requestOf op blk line len acc) } := by
  unfold State.request
  rw [if_neg (by simp [h])]
  rfl

theorem request_frame (s : State) (op : MemOp) (blk line len : Nat) (acc : Access) :
    ∃ r p0 p1 f, s.request op blk line len acc = { s with regs := r, port0 := p0, port1 := p1, cfl := f } := by
  cases hstall : s.bothStalled
  case true => exact ⟨_, s.port0, s.port1, s.cfl, if_pos hstall⟩
  case false =>
    rw [request_eq hstall, cflCounted_eq]
    split_ifs
    · exact ⟨s.regs, _, s.port1, _, rfl⟩
    · exact ⟨s.regs, s.port0, _, _, rfl⟩

/-- A request writes no stored register but the count of those that time out at once. -/
theorem reg_request_of_ne (s : State) (op : MemOp) (blk line len : Nat) (acc : Access) {a : Nat} (ha : a ≠ Reg.hubCntMemTimeout) :
    (s.request op blk line len acc).reg a = s.reg a := by
  cases hstall : s.bothStalled
  case true =>
    have hreq : s.request op blk line len acc = s.count Reg.hubCntMemTimeout := if_pos hstall
    rw [hreq, reg_count, if_neg (Ne.symm ha)]
  case false =>
    rw [request_eq hstall, cflCounted_eq]
    split_ifs <;> rfl

/-- An access of the block itself changes the ports alone. -/
theorem request_of_own {s : State} (hstall : s.bothStalled = false) (op : MemOp) (blk line len : Nat) {acc : Access}
    (hown : (s.accessCtx acc).1 = 0) : ∃ p0 p1, s.request op blk line len acc = { s with port0 := p0, port1 := p1 } := by
  rw [request_eq hstall, cflCounted_of_own hown]
  split_ifs
  · exact ⟨_, s.port1, rfl⟩
  · exact ⟨s.port0, _, rfl⟩

/-! ### What an access changes -/

/-- `t` is `s` after accesses of the block and entries of its journal: the stored registers, memory with its sideband, the requests on
the ports, the completion filter's counts and the journal may differ, nothing else; the ports hold the same identifiers. -/
structure State.IoOnly (s t : State) : Prop where
  frame : t =
    { s with
      regs := t.regs, mem := t.mem, sb := t.sb, port0 := t.port0, port1 := t.port1, cfl := t.cfl, teardowns := t.teardowns
      jseq := t.jseq, journal := t.journal, jcopied := t.jcopied }
  held0 : t.port0.held = s.port0.held
  held1 : t.port1.held = s.port1.held

namespace State.IoOnly

theorem refl (s : State) : s.IoOnly s := ⟨rfl, rfl, rfl⟩

theorem trans {s t u : State} (h1 : s.IoOnly t) (h2 : t.IoOnly u) : s.IoOnly u where
  frame := h2.frame.trans (by rw [h1.frame])
  held0 := h2.held0.trans h1.held0
  held1 := h2.held1.trans h1.held1

theorem of_regsOnly {s t : State} (h : s.RegsOnly t) : s.IoOnly t := by
  obtain ⟨r, rfl⟩ := h
  exact ⟨rfl, rfl, rfl⟩

section
variable {s t : State} (h : s.IoOnly t)
include h

theorem safe : t.safe = s.safe := (congrArg State.safe h.frame :)
theorem bring : t.bring = s.bring := (congrArg State.bring h.frame :)
theorem rwl : t.rwl = s.rwl := (congrArg State.rwl h.frame :)
theorem ctxs : t.ctxs = s.ctxs := (congrArg State.ctxs h.frame :)
theorem tickets : t.tickets = s.tickets := (congrArg State.tickets h.frame :)
theorem rcps : t.rcps = s.rcps := (congrArg State.rcps h.frame :)
theorem rcpLoads : t.rcpLoads = s.rcpLoads := (congrArg State.rcpLoads h.frame :)
theorem sealQ : t.sealQ = s.sealQ := (congrArg State.sealQ h.frame :)
theorem ckptQ : t.ckptQ = s.ckptQ := (congrArg State.ckptQ h.frame :)

theorem bothStalled : t.bothStalled = s.bothStalled := by
  simp only [State.bothStalled, Port.stalled, h.held0, h.held1]

theorem hasTicket : t.hasTicket = s.hasTicket := by
  unfold State.hasTicket State.openTickets
  rw [h.tickets]

end

/-! ### Requests and completions -/

theorem cflMore (s : State) (c : Nat) : s.IoOnly (s.cflMore c) := ⟨rfl, rfl, rfl⟩
theorem setBytes (s : State) (a : Nat) (b : Bytes) : s.IoOnly (s.setBytes a b) := ⟨rfl, rfl, rfl⟩
theorem setSb (s : State) (blk v : Nat) : s.IoOnly (s.setSb blk v) := ⟨rfl, rfl, rfl⟩
theorem count (s : State) (a : Nat) : s.IoOnly (s.count a) := of_regsOnly (regsOnly_count ..)

theorem request (s : State) (op : MemOp) (blk line len : Nat) (acc : Access) : s.IoOnly (s.request op blk line len acc) := by
  cases hstall : s.bothStalled
  case true =>
    have hreq : s.request op blk line len acc = s.count Reg.hubCntMemTimeout := if_pos hstall
    rw [hreq]
    exact count ..
  case false =>
    rw [request_eq hstall, cflCounted_eq]
    split_ifs
    · exact ⟨rfl, held_issue .., rfl⟩
    · exact ⟨rfl, rfl, held_issue ..⟩

theorem requestReads (s : State) (blk : Nat) (acc : Access) (n : Nat) : s.IoOnly (s.requestReads blk acc n) := by
  induction n generalizing s blk with
  | zero => exact refl s
  | succ n ih => exact (request ..).trans (ih ..)

theorem writeZ (s : State) (addr : Nat) (b : Bytes) (acc : Access) : s.IoOnly (s.writeZ addr b acc) := by
  unfold State.writeZ
  split_ifs
  · exact count ..
  · exact ((setBytes ..).trans (setSb ..)).trans (request ..)

theorem writeS (s : State) (blk : Nat) (b : Bytes) (sbv : Nat) (acc : Access) : s.IoOnly (s.writeS blk b sbv acc) := by
  unfold State.writeS
  split_ifs
  · exact count ..
  · exact ((setBytes ..).trans (setSb ..)).trans (request ..)

theorem cflComplete (s : State) (c gen : Nat) : s.IoOnly (s.cflComplete c gen).1 := by
  unfold State.cflComplete
  have hdone : s.IoOnly (s.cflDone c) := ⟨rfl, rfl, rfl⟩
  have htear : s.IoOnly (s.tearDone c gen) := ⟨rfl, rfl, rfl⟩
  dsimp only
  split_ifs
  · exact refl s
  · exact hdone.trans (count ..)
  · exact hdone.trans (count ..)
  · exact htear.trans (count ..)
  · exact count ..

theorem cflCompletes (s : State) (l : List MemReq) : s.IoOnly (s.cflCompletes l) := by
  induction l generalizing s with
  | nil => exact refl s
  | cons r l ih => exact (cflComplete ..).trans (ih ..)

theorem retire (s : State) (p : Access → Bool) : s.IoOnly (s.retire p) := by
  have hports : s.IoOnly { s with port0 := s.port0.retire p s.time, port1 := s.port1.retire p s.time } :=
    ⟨rfl, held_retire .., held_retire ..⟩
  exact hports.trans (cflCompletes ..)

end State.IoOnly

/-! ### Faults of the block's own state (R384, R387, R389) -/

theorem regsOnly_capUc (s : State) (cls : Nat) (wire info : Bool) (stn i addr access master : Nat) :
    s.RegsOnly (s.capUc cls wire info stn i addr access master) := by
  unfold State.capUc
  split_ifs
  · exact (regsOnly_setBits ..).trans (regsOnly_count ..)
  · exact (regsOnly_capture ..).trans (regsOnly_setBits ..)

theorem regsOnly_capCe (s : State) (info : Bool) (stn i addr access master : Nat) :
    s.RegsOnly (s.capCe info stn i addr access master) := by
  unfold State.capCe
  split_ifs
  · exact ⟨s.regs, rfl⟩
  · exact (regsOnly_capture ..).trans (regsOnly_setReg ..)

theorem regsOnly_raiseFault (s : State) (i addr access master : Nat) : s.RegsOnly (s.raiseFault i addr access master) := by
  unfold State.raiseFault
  have hbit : s.RegsOnly ((s.setBits (atStn 16 Reg.colStnErrLo) (2 ^ i)).count (errCounter (class16 i))) :=
    (regsOnly_setBits ..).trans (regsOnly_count ..)
  dsimp only
  split_ifs
  · exact ⟨s.regs, rfl⟩
  · exact hbit.trans (regsOnly_capCe ..)
  · exact hbit.trans (regsOnly_capUc ..)

/-! ### Entries of the journal (R285, R286) -/

namespace State.IoOnly

theorem journalLost (s : State) : s.IoOnly s.journalLost :=
  of_regsOnly (((regsOnly_setBits ..).trans (regsOnly_count ..)).trans (regsOnly_raiseFault ..))

theorem copyEntry (s : State) (e : JEntry) : s.IoOnly (s.copyEntry e) := by
  unfold State.copyEntry
  split_ifs
  · exact (count ..).trans (journalLost _)
  · exact writeZ ..

theorem copyEntries (s : State) (l : List JEntry) : s.IoOnly (s.copyEntries l) := by
  induction l generalizing s with
  | nil => exact refl s
  | cons e l ih =>
    have hcopied : (s.copyEntry e).IoOnly { s.copyEntry e with jcopied := e.jseq + 1 } := ⟨rfl, rfl, rfl⟩
    unfold State.copyEntries
    split_ifs
    · exact ((copyEntry s e).trans hcopied).trans (ih _)
    · exact refl s

theorem copyJournal (s : State) : s.IoOnly s.copyJournal := by
  unfold State.copyJournal
  split_ifs
  · exact copyEntries ..
  · exact refl s

theorem replaced (s : State) : s.IoOnly s.replaced := by
  unfold State.replaced
  split
  case h_1 e _ _ =>
    have hresumed : s.IoOnly { s with jcopied := e.jseq } := ⟨rfl, rfl, rfl⟩
    split_ifs
    · exact hresumed.trans (journalLost _)
    · exact refl s
  case h_2 => exact refl s

theorem record (s : State) (e : JEntry) : s.IoOnly (s.record e) := by
  unfold State.record
  have hplaced (n : Nat) (l : List JEntry) : s.IoOnly { s with jseq := n, journal := l } := ⟨rfl, rfl, rfl⟩
  exact ((hplaced ..).trans (replaced _)).trans (copyJournal _)

theorem noted (s : State) (q : CoreCmd) (st tk : Nat) : s.IoOnly (s.noted q st tk) := record ..

end State.IoOnly

end Sys2Proof.Machine
end

section
/-! Commands of a Kettle core at the command port (R256 to R261, R283 to R285): what a core's command leaves, by the answer of its
sub-block. -/

namespace Sys2Proof.Machine

/-- The command as its sub-block sees it, under the ticket that `s` offers. -/
def CoreCmd.cmd (q : CoreCmd) (s : State) : Cmd :=
  { ctx := q.ctx, a := q.a, b := q.b, c := q.c, mod := q.mod, imm := q.imm, tk := s.nextTicket, src := .core q.k }

/-- A core's command that passes rows 1 to 5 of R257: its answer is that of its sub-block. -/
structure State.Passes (s : State) (q : CoreCmd) (sp : CmdSpec) : Prop where
  up : s.coreUp q.k = true
  opc : q.opc = sp.opc
  command : sp.query = false
  a_lt : q.a < 2 ^ 64
  b_lt : q.b < 2 ^ 64
  c_lt : q.c < 2 ^ 64
  mod_lt : q.mod < 16
  imm_lt : q.imm < 2 ^ 32
  row1 : sp.row1 q.mod q.imm = false
  alive : sp.gone = false ∨ (s.ctx (sp.named (q.cmd s))).st ≠ .terminated
  narrow : sp.wide (q.cmd s) = false
  free : s.blocked sp (q.cmd s) = false

/-! ### The decision (R257) -/

/-- Row 4: every operand that the instruction uses fits its width. -/
theorem wide_eq_false_iff (sp : CmdSpec) (c : Cmd) : sp.wide c = false ↔
    (sp.aw c.mod ≠ 0 → c.a < 2 ^ sp.aw c.mod) ∧ (sp.bw c.mod ≠ 0 → c.b < 2 ^ sp.bw c.mod) ∧
      (sp.cw c.mod ≠ 0 → c.c < 2 ^ sp.cw c.mod) ∧ (sp.iw c.mod ≠ 0 → c.imm < 2 ^ sp.iw c.mod) := by
  have hfield (w x : Nat) : (w != 0 && decide (2 ^ w ≤ x)) = false ↔ (w ≠ 0 → x < 2 ^ w) := by
    by_cases hw : w = 0 <;> simp [hw]
  simp only [CmdSpec.wide, Bool.or_eq_false_iff, hfield, and_assoc]

/-- Rows 3 to 5 pass, so the sub-block answers; an answer with a ticket needs one that is free. -/
theorem decideCmd_of_rows {s : State} {sp : CmdSpec} {c : Cmd} (hprog : c.prog = none)
    (halive : sp.gone = false ∨ (s.ctx (sp.named c)).st ≠ .terminated) (hnarrow : sp.wide c = false) (hfree : s.blocked sp c = false)
    (hticket : ∀ st, (sp.body c s).2 = .later st → s.ticketsFull c = false) : s.decideCmd sp c = sp.body c s := by
  have hgone : (! sp.query && sp.gone && (s.ctx (sp.named c)).st == .terminated) = false := by
    rcases halive with h | h <;> simp [h]
  unfold State.decideCmd
  simp only [hprog, hgone, hnarrow, hfree, Option.isSome_none, Bool.and_false, Bool.false_eq_true, if_false]
  rcases hbody : sp.body c s with ⟨u, r⟩
  rw [hbody] at hticket
  cases r with
  | later st => simp [hticket st rfl]
  | no st own => simp
  | ok v => rfl
  | rec_ b => rfl

theorem ticketsFull_of_core {s : State} {c : Cmd} (hprog : c.prog = none) (h : s.hasTicket = true) : s.ticketsFull c = false := by
  simpa [State.ticketsFull, hprog, State.hasTicket] using h

/-- A core's operands fit the command port, so the port takes them as they are. -/
theorem runCmd_of_passes {s : State} {q : CoreCmd} {sp : CmdSpec} (h : s.Passes q sp) :
    s.runCmd sp q.issue = (s.serve sp (q.cmd s) (.kettle q.k) (srcCore q.k) 0 0).1 := by
  have ha := Nat.mod_eq_of_lt h.a_lt
  have hb := Nat.mod_eq_of_lt h.b_lt
  have hc := Nat.mod_eq_of_lt h.c_lt
  have hm := Nat.mod_eq_of_lt h.mod_lt
  have hi := Nat.mod_eq_of_lt h.imm_lt
  simp only [State.runCmd, CoreCmd.issue, ha, hb, hc, hm, hi, h.up, State.portCmd, h.row1, if_true, Bool.false_eq_true, if_false]
  rfl

theorem servedEntry_of_core {s : State} {q : CoreCmd} {sp : CmdSpec} (h : s.Passes q sp) (st tk : Nat) :
    servedEntry sp (q.cmd s) (srcCore q.k) 0 0 st tk = q.entry st tk := by
  rw [CoreCmd.entry, h.opc]
  rfl

theorem note_of_command {s t : State} {q : CoreCmd} {sp : CmdSpec} (h : s.Passes q sp) (e : JEntry) : t.note sp (q.cmd s) e = t.record e := by
  simp [State.note, CmdSpec.journaled, h.command]

/-- An entry of the journal leaves what rows 3 to 6 look at. -/
theorem decideCmd_noted {s : State} {q : CoreCmd} {sp : CmdSpec} (h : s.Passes q sp) (st tk : Nat)
    (hticket : ∀ st', (sp.body (q.cmd s) (s.noted q st tk)).2 = .later st' → s.hasTicket = true) :
    (s.noted q st tk).decideCmd sp (q.cmd s) = sp.body (q.cmd s) (s.noted q st tk) := by
  have hio := State.IoOnly.noted s q st tk
  refine decideCmd_of_rows rfl ?_ h.narrow ?_ fun st' h' => ticketsFull_of_core rfl ?_
  · simpa only [State.ctx, hio.ctxs] using h.alive
  · simpa only [State.blocked, hio.safe, hio.bring] using h.free
  · exact hio.hasTicket.trans (hticket st' h')

/-! ### Commands of context 0 in service -/

/-- A core that runs with bring-up ended and no safe state has its command of context 0 served, once its operands fit. -/
theorem passes_of_serving {s : State} {q : CoreCmd} {sp : CmdSpec} (hserve : s.serving q.k = true) (hopc : q.opc = sp.opc)
    (hcommand : sp.query = false) (ha : q.a < 2 ^ 64) (hb : q.b < 2 ^ 64) (hc : q.c < 2 ^ 64) (hmod : q.mod = 0) (himm : q.imm < 2 ^ 32)
    (hrow1 : sp.row1 0 q.imm = false) (hnamed : sp.named (q.cmd s) = 0) (halive : (s.ctx 0).st ≠ .terminated)
    (hnarrow : sp.wide (q.cmd s) = false) : s.Passes q sp := by
  simp only [State.serving, Bool.and_eq_true, beq_iff_eq, Option.isNone_iff_eq_none] at hserve
  obtain ⟨⟨hup, hstage⟩, hsafe⟩ := hserve
  exact
    { up := hup, opc := hopc, command := hcommand, a_lt := ha, b_lt := hb, c_lt := hc, mod_lt := by omega, imm_lt := himm
      row1 := by rw [hmod]; exact hrow1
      alive := .inr (by rw [hnamed]; exact halive)
      narrow := hnarrow
      free := by simp [State.blocked, hsafe, hstage] }

/-! ### What each answer leaves -/

section
variable {s : State} {q : CoreCmd} {sp : CmdSpec} (h : s.Passes q sp)
include h

/-- Rejected: its entry and the count of it. -/
theorem runCmd_of_rejected {st : Nat} (hbody : sp.body (q.cmd s) s = reject s st) : s.runCmd sp q.issue = s.rejected q st := by
  have hdec : s.decideCmd sp (q.cmd s) = reject s st :=
    (decideCmd_of_rows rfl h.alive h.narrow h.free fun st' h' => by simp [hbody, reject] at h').trans hbody
  rw [runCmd_of_passes h, State.serve, hdec]
  simp only [reject, note_of_command h, Reply.status, servedEntry_of_core h]
  rfl

/-- Done: its entry, its effect and the count of it. -/
theorem runCmd_of_ok {v w : Nat} {u : State} (hbody : (sp.body (q.cmd s) s).2 = .ok v)
    (hnoted : sp.body (q.cmd s) (s.noted q) = (u, .ok w)) : s.runCmd sp q.issue = u.count Reg.hubCntCmd := by
  have hdec : s.decideCmd sp (q.cmd s) = sp.body (q.cmd s) s :=
    decideCmd_of_rows rfl h.alive h.narrow h.free fun st' h' => by simp [hbody] at h'
  have hdec' := decideCmd_noted h stOk 0 fun st' h' => by simp [hnoted] at h'
  rw [runCmd_of_passes h, State.serve, hdec]
  simp only [hbody, note_of_command h, Reply.status, servedEntry_of_core h]
  have hu : ((s.record (q.entry stOk 0)).decideCmd sp (q.cmd s)).1 = u := congrArg Prod.fst (hdec'.trans hnoted)
  rw [if_pos trivial, hu]
  rfl

/-- Accepted under a ticket: its entry, its effect, the count of it and the ticket. -/
theorem runCmd_of_later {st : Nat} {u : State} (ht : s.hasTicket = true) (hbody : (sp.body (q.cmd s) s).2 = .later st)
    (hnoted : sp.body (q.cmd s) (s.noted q st s.nextTicket) = (u, .later st)) :
    s.runCmd sp q.issue = u.heldUnder s q st s.nextTicket := by
  have hdec : s.decideCmd sp (q.cmd s) = sp.body (q.cmd s) s :=
    decideCmd_of_rows rfl h.alive h.narrow h.free fun st' h' => ticketsFull_of_core rfl ht
  have hdec' := decideCmd_noted h st s.nextTicket fun st' h' => ht
  have htk : (q.cmd s).tk ≠ 0 := (freeTicket_pos s.tickets).1
  rw [runCmd_of_passes h, State.serve, hdec]
  simp only [hbody, note_of_command h, Reply.status, servedEntry_of_core h]
  have hu : ((s.record (q.entry st (q.cmd s).tk)).decideCmd sp (q.cmd s)).1 = u := congrArg Prod.fst (hdec'.trans hnoted)
  rw [if_neg htk, hu]
  rfl

end

/-! ### The ticket of a core (R259, R260) -/

/-- A ticket of a core that completes is gone, with its entry in the journal. -/
theorem complete_of_core {s : State} {t : Nat} (hown : ∀ k, s.ticket t = some k → ∃ core, k.owner = .kettle core) (st res : Nat)
    (own : Bool) : ∃ u ts, s.IoOnly u ∧ s.complete t st res own = { u with tickets := ts } ∧ lookup ts t = none := by
  unfold State.complete
  cases hk : s.ticket t with
  | none => exact ⟨s, s.tickets, .refl s, rfl, hk⟩
  | some k =>
    obtain ⟨core, hcore⟩ := hown k hk
    have hfinal (v : State) : v.IoOnly (v.countFinal st own) := by
      unfold State.countFinal
      split_ifs
      · exact .refl v
      · exact .count ..
    simp only [hcore]
    exact ⟨_, _, (State.IoOnly.record ..).trans (hfinal _), rfl, by simp [lookup_erase]⟩

end Sys2Proof.Machine
end

section
/-! Recipe slots and the seal engine (R90 to R94, R164, R167, R169, R175, R268): the commands RCPLOAD, RCPDROP, SEALRGN, SEALCPY and
SEALCHK of a Kettle core, and the ends of loads and of seal commands. -/

namespace Sys2Proof.Machine

/-! ### Recipe slots -/

@[simp] theorem rcp_setRcp (s : State) (n : Nat) (v : RcpSlot) (m : Nat) : (s.setRcp n v).rcp m = if n = m then v else s.rcp m := by
  simp [State.rcp, State.setRcp]

theorem State.IoOnly.rcp {s t : State} (h : s.IoOnly t) (n : Nat) : t.rcp n = s.rcp n := by
  simp only [State.rcp, h.rcps]

theorem State.IoOnly.rcpPins {s t : State} (h : s.IoOnly t) (n : Nat) : t.rcpPins n = s.rcpPins n := by
  simp only [State.rcpPins, h.ctxs]

theorem rcpLegal_of_empty {s : State} {n : Nat} (h : (s.rcp n).st = .empty) (load : Bool) : s.rcpLegal n load = true := by
  simp [State.rcpLegal, h]

theorem rcpLegal_of_loading {s : State} {n : Nat} (h : (s.rcp n).st = .loading) (load : Bool) : s.rcpLegal n load = false := by
  simp [State.rcpLegal, h]

theorem rcpLegal_of_active {s : State} {n : Nat} (h : (s.rcp n).st = .active) (load : Bool) :
    s.rcpLegal n load = (s.rcpPins n == 0) := by
  simp [State.rcpLegal, h]

/-! ### RCPLOAD (R90) -/

theorem requestReads_recipe {s : State} (hstall : s.bothStalled = false) (blk slot n : Nat) :
    ∃ p0 p1, s.requestReads blk (.recipe slot) n = { s with port0 := p0, port1 := p1 } := by
  induction n generalizing s blk with
  | zero => exact ⟨s.port0, s.port1, rfl⟩
  | succ n ih =>
    have hio := State.IoOnly.request s .read blk 0 64 (.recipe slot)
    obtain ⟨p0, p1, hreq⟩ := request_of_own hstall .read blk 0 64 (acc := .recipe slot) rfl
    obtain ⟨x0, x1, hrest⟩ := ih (hio.bothStalled.trans hstall) (blk + 1)
    refine ⟨x0, x1, ?_⟩
    rw [State.requestReads, hrest, hreq]

/-- The load of a slot that RCPLOAD names starts, with the reads of its image. -/
def State.startLoad (s : State) (c : Cmd) : State :=
  (({ s with rcpLoads := s.rcpLoads ++ [{ slot := c.imm, blk := c.a, len := c.b, ticket := c.tk }] } : State).setRcp c.imm
    { s.rcp c.imm with st := .loading }).requestReads c.a (.recipe c.imm) (ceilDiv c.b 4096)

/-- The sizes of an image that RCPLOAD takes: 256 to 65,536 bytes in units of 16, inside the memory. -/
structure Cmd.SizeOk (c : Cmd) : Prop where
  min : 256 ≤ c.b
  max : c.b ≤ 65536
  unit : c.b % 16 = 0
  inside : c.a + ceilDiv c.b 4096 ≤ 2 ^ 38

theorem Cmd.SizeOk.accepted {c : Cmd} (h : c.SizeOk) :
    ¬ (c.b < 256 ∨ 65536 < c.b ∨ c.b % 16 ≠ 0 ∨ 2 ^ 38 < c.a + ceilDiv c.b 4096) := by
  obtain ⟨hmin, hmax, hunit, hinside⟩ := h
  omega

theorem loadRecipe_of_empty {s : State} {c : Cmd} (hsize : c.SizeOk) (hempty : (s.rcp c.imm).st = .empty)
    (hbase : s.rwl.contains Reg.hubRcpBase = true) : loadRecipe c s = (s.startLoad c, .later stPending) := by
  have hlegal : ¬ (s.rcpLegal c.imm true = false ∨ s.rwl.contains Reg.hubRcpBase = false) := by
    simp [rcpLegal_of_empty hempty, hbase, -List.contains_eq_mem]
  have hnew : ¬ ((s.rcp c.imm).st = .refused ∧ s.rcpPins c.imm ≠ 0) := by simp [hempty]
  rw [loadRecipe, if_neg hsize.accepted, if_neg hlegal]
  simp only [if_neg hnew]
  rfl

theorem loadRecipe_of_loading {s : State} {c : Cmd} (hsize : c.SizeOk) (hloading : (s.rcp c.imm).st = .loading) :
    loadRecipe c s = reject s stIllegalState := by
  rw [loadRecipe, if_neg hsize.accepted, if_pos (.inl (rcpLegal_of_loading hloading true))]

theorem rcp_startLoad (s : State) (c : Cmd) (n : Nat) :
    (s.startLoad c).rcp n = if c.imm = n then { s.rcp c.imm with st := .loading } else s.rcp n :=
  ((State.IoOnly.requestReads ..).rcp n).trans (rcp_setRcp ..)

theorem rcpLoads_startLoad (s : State) (c : Cmd) :
    (s.startLoad c).rcpLoads = s.rcpLoads ++ [{ slot := c.imm, blk := c.a, len := c.b, ticket := c.tk }] :=
  (State.IoOnly.requestReads ..).rcpLoads

theorem startLoad_frame {s : State} (hstall : s.bothStalled = false) (c : Cmd) :
    ∃ r l p0 p1, s.startLoad c = { s with rcps := r, rcpLoads := l, port0 := p0, port1 := p1 } := by
  obtain ⟨p0, p1, hreads⟩ := requestReads_recipe (s := ({ s with
    rcpLoads := s.rcpLoads ++ [{ slot := c.imm, blk := c.a, len := c.b, ticket := c.tk }] } : State).setRcp c.imm
    { s.rcp c.imm with st := .loading }) hstall c.a c.imm (ceilDiv c.b 4096)
  exact ⟨_, _, p0, p1, hreads⟩

/-! ### RECIPE_LOAD_DONE (R90 to R94) -/

/-- A slot's load leaves the table, and the slot holds `v`. -/
def State.loadEnded (s : State) (l : RcpLoad) (v : RcpSlot) : State :=
  (({ s with rcpLoads := s.rcpLoads.filter (fun x => x.slot != l.slot) } : State).retire (fun a => a == .recipe l.slot)).setRcp l.slot v

theorem endLoad_refused (s : State) (l : RcpLoad) (st : Nat) : s.endLoad l st none =
    ((s.loadEnded l { s.rcp l.slot with st := .refused, id := l.id }).count
      (if st = stRecipeKatFail then Reg.hubCntRcpKatFail else Reg.hubCntRcpRefused)).complete l.ticket st 0 true := rfl

theorem endLoad_active (s : State) (l : RcpLoad) (st : Nat) (r : Recipe) : s.endLoad l st (some r) =
    ((s.loadEnded l { st := .active, recipe := some r, id := l.id, digest := l.digest, good := l.digest, len := l.len }).count
      Reg.hubCntRcpLoaded).complete l.ticket st 0 true := rfl

theorem rcp_loadEnded (s : State) (l : RcpLoad) (v : RcpSlot) (m : Nat) :
    (s.loadEnded l v).rcp m = if l.slot = m then v else s.rcp m := by
  rw [State.loadEnded, rcp_setRcp, (State.IoOnly.retire ..).rcp]
  rfl

theorem rcpLoads_loadEnded (s : State) (l : RcpLoad) (v : RcpSlot) :
    (s.loadEnded l v).rcpLoads = s.rcpLoads.filter (fun x => x.slot != l.slot) := (State.IoOnly.retire ..).rcpLoads

theorem tickets_loadEnded (s : State) (l : RcpLoad) (v : RcpSlot) : (s.loadEnded l v).tickets = s.tickets :=
  (State.IoOnly.retire ..).tickets

/-- The end of a load leaves the other slots as they were, and completes its ticket. -/
theorem complete_loadEnded {s : State} {l : RcpLoad} (hown : ∀ k, s.ticket l.ticket = some k → ∃ core, k.owner = .kettle core)
    (v : RcpSlot) (a st : Nat) : ∃ u, ((s.loadEnded l v).count a).complete l.ticket st 0 true = u ∧
    u.rcp l.slot = v ∧ (∀ m, m ≠ l.slot → u.rcp m = s.rcp m) ∧ (∀ x ∈ u.rcpLoads, x.slot ≠ l.slot) ∧ u.ticket l.ticket = none := by
  have hcount := State.IoOnly.count (s.loadEnded l v) a
  have hticket : ((s.loadEnded l v).count a).ticket l.ticket = s.ticket l.ticket := by
    rw [State.ticket, hcount.tickets, tickets_loadEnded]
    rfl
  obtain ⟨u, ts, hio, heq, hgone⟩ := complete_of_core (s := (s.loadEnded l v).count a) (hticket ▸ hown) st 0 true
  have hend := hcount.trans hio
  have hrcp (m : Nat) : u.rcp m = if l.slot = m then v else s.rcp m := (hend.rcp m).trans (rcp_loadEnded ..)
  refine ⟨_, heq, ?_, fun m hm => ?_, fun x hx => ?_, hgone⟩
  · exact (hrcp l.slot).trans (if_pos rfl)
  · exact (hrcp m).trans (if_neg (Ne.symm hm))
  · have hloads : u.rcpLoads = s.rcpLoads.filter (fun x => x.slot != l.slot) := hend.rcpLoads.trans (rcpLoads_loadEnded ..)
    have hkept : x ∈ s.rcpLoads.filter (fun x => x.slot != l.slot) := hloads ▸ hx
    simpa using (List.mem_filter.1 hkept).2

theorem exec_recipeLoadDone_of_read {s : State} {n : Nat} {l : RcpLoad} (hfind : s.rcpLoads.find? (fun x => x.slot == n) = some l)
    (hread : l.recipe = none) (hstall : s.bothStalled = false) : exec (.recipeLoadDone n) s = .next (s.checkLoad l) := by
  have hexec : exec (.recipeLoadDone n) s = execRecipeLoadDone n s := rfl
  simp [hexec, execRecipeLoadDone, hfind, hread, hstall]

theorem exec_recipeLoadDone_of_passed {s : State} {n : Nat} {l : RcpLoad} {r : Recipe}
    (hfind : s.rcpLoads.find? (fun x => x.slot == n) = some l) (hr : l.recipe = some r) (hkat : l.katBad = false)
    (hdone : l.vectors = []) :
    exec (.recipeLoadDone n) s = .next (s.endLoad l stOk (some r)) := by
  have hexec : exec (.recipeLoadDone n) s = execRecipeLoadDone n s := rfl
  simp [hexec, execRecipeLoadDone, hfind, hr, hkat, hdone]

theorem State.IoOnly.storeCopy (s : State) (blk : Nat) (img : Bytes) (n : Nat) : s.IoOnly (s.storeCopy blk img n) := by
  induction n generalizing s blk img with
  | zero => exact .refl s
  | succ n ih => exact (State.IoOnly.writeS ..).trans (ih ..)

/-- A load whose image has passed orders 2 to 6 of R90: its vectors are to run. -/
def RcpLoad.checked (l : RcpLoad) (img : Bytes) (r : Recipe) : RcpLoad :=
  { l with recipe := some r, id := leAt img 8 2, digest := sha384 img, vectors := List.range r.kats.length }

theorem checkLoad_of_ok {s : State} {l : RcpLoad} {r : Recipe} (hok : checkImage (s.bytes (l.blk * 4096) l.len) l.pinned = .ok r) :
    ({ s with rcpLoads := s.rcpLoads.map (fun x => if x.slot == l.slot then l.checked (s.bytes (l.blk * 4096) l.len) r else x) } :
      State).IoOnly (s.checkLoad l) := by
  unfold State.checkLoad
  simp only [hok]
  exact (State.IoOnly.retire ..).trans (.storeCopy ..)

theorem checkLoad_of_error {s : State} {l : RcpLoad} {st : Nat}
    (herr : checkImage (s.bytes (l.blk * 4096) l.len) l.pinned = .error st) :
    s.checkLoad l = s.endLoad { l with id := leAt (s.bytes (l.blk * 4096) l.len) 8 2 } st none := by
  unfold State.checkLoad
  simp only [herr]

/-! ### RCPDROP (R94) -/

theorem dropRecipe_of_active {s : State} {c : Cmd} (hactive : (s.rcp c.imm).st = .active) :
    dropRecipe c s = if s.rcpPins c.imm = 0 then (s.setRcp c.imm {}, .ok 0) else reject s stIllegalState := by
  simp [dropRecipe, rcpLegal_of_active hactive]

theorem dropRecipe_of_loading {s : State} {c : Cmd} (hloading : (s.rcp c.imm).st = .loading) :
    dropRecipe c s = reject s stIllegalState := by
  simp [dropRecipe, rcpLegal_of_loading hloading]

/-! ### The queue of the seal engine (R268) -/

/-- A command joins the queue; one that finds it empty has its first read issued. -/
theorem queueSeal_eq (s : State) (j : SealJob) : s.queueSeal j = if s.sealQ.isEmpty
    then ({ s with sealQ := s.sealQ ++ [j] } : State).request .read j.src 0 64 .sealEngine else { s with sealQ := s.sealQ ++ [j] } := rfl

theorem queueSeal_frame (s : State) (j : SealJob) :
    ∃ r p0 p1 f, s.queueSeal j = { s with sealQ := s.sealQ ++ [j], regs := r, port0 := p0, port1 := p1, cfl := f } := by
  rw [queueSeal_eq]
  split_ifs
  · exact request_frame { s with sealQ := s.sealQ ++ [j] } ..
  · exact ⟨s.regs, s.port0, s.port1, s.cfl, rfl⟩

theorem reg_queueSeal_of_ne (s : State) (j : SealJob) {a : Nat} (ha : a ≠ Reg.hubCntMemTimeout) : (s.queueSeal j).reg a = s.reg a := by
  rw [queueSeal_eq]
  split_ifs
  · exact reg_request_of_ne { s with sealQ := s.sealQ ++ [j] } _ _ _ _ _ ha
  · rfl

/-! ### SEALRGN, SEALCPY and SEALCHK (R164, R167, R175, R268) -/

/-- The job of a seal command. -/
def Cmd.sealJob (c : Cmd) (op dst count : Nat) : SealJob :=
  { op := op, src := c.a, dst := dst, count := count, gen := c.imm % 2 ^ 16, fmt := c.imm / 2 ^ 16, ticket := c.tk, ctx := c.ctx }

/-- The operands of a seal command of context 0: a range of blocks inside the memory and a listed format. -/
structure Cmd.SealOk (c : Cmd) (dst count : Nat) : Prop where
  ctx0 : c.ctx = 0
  pos : 0 < count
  src : c.a + count ≤ 2 ^ 38
  dst : dst + count ≤ 2 ^ 38
  fmt : fmtListed (c.imm / 2 ^ 16) = true

theorem sealCmd_of_room {s : State} {c : Cmd} {dst count : Nat} (h : c.SealOk dst count) (op : Nat) {written : Nat → Nat → Bool}
    (hfree : written dst count = false) (hroom : s.sealQ.length < 9) :
    sealCmd op dst count written c s = (s.queueSeal (c.sealJob op dst count), .later stPending) := by
  have hbad : ¬ (count = 0 ∨ 2 ^ 38 < c.a + count ∨ 2 ^ 38 < dst + count ∨ fmtListed (c.imm / 2 ^ 16) = false ∨
      (c.ctx ≠ 0 ∧ c.imm % 2 ^ 16 ≠ (s.ctx c.ctx).gen)) := by
    obtain ⟨hctx, hpos, hsrc, hdst, hfmt⟩ := h
    rw [hfmt, hctx]
    simp only [ne_eq, not_true_eq_false, false_and, or_false, reduceCtorEq]
    omega
  rw [sealCmd, if_neg hbad, hfree, if_neg Bool.false_ne_true, if_neg (Nat.not_le.2 hroom)]
  rfl

theorem sealCmd_of_none {count : Nat} (h : count = 0) (s : State) (c : Cmd) (op dst : Nat) (written : Nat → Nat → Bool) :
    sealCmd op dst count written c s = reject s stBadOperand := by
  rw [sealCmd, if_pos (.inl h)]

theorem sealRgn_of_mod0 {c : Cmd} (h : c.mod = 0) (s : State) : sealRgn c s = sealCmd 0x30 c.a c.b s.inIndex c s := by
  simp [sealRgn, h]

theorem sealCpy_eq (c : Cmd) (s : State) : sealCpy c s = sealCmd 0x31 c.b c.c s.inIndex c s := rfl
theorem sealChk_eq (c : Cmd) (s : State) : sealChk c s = sealCmd 0x32 c.a c.b (fun _ _ => false) c s := rfl

theorem State.IoOnly.inIndex {s t : State} (h : s.IoOnly t) : t.inIndex = s.inIndex := by
  funext b n
  simp only [State.inIndex, State.recs, h.ctxs, h.ckptQ]

/-! ### The end of a seal command -/

theorem exec_sealEngineDone_of_job {s : State} {j : SealJob} {rest : List SealJob} (hq : s.sealQ = j :: rest) (hstall : s.bothStalled = false) :
    exec .sealEngineDone s = .next ((s.sealRun j 0 0 j.count).1.nextSeal.complete j.ticket stOk
      (if j.op = 0x32 then min (2 ^ 32 - 1) (s.sealRun j 0 0 j.count).2 else 0) false) := by
  have hexec : exec .sealEngineDone s = execSealEngineDone s := rfl
  simp [hexec, execSealEngineDone, hq, hstall]

theorem checkOne_of_verified {s : State} {gen fmt blk : Nat} (h : s.verify blk gen fmt = .verified) :
    s.checkOne gen fmt blk = (s.count Reg.hubCntBlkVerified, 0) := by
  simp [State.checkOne, h]

theorem sealOne_of_unsealed {s : State} {gen fmt blk : Nat} (h : bcvSealed (s.sbOf blk) = false) :
    s.sealOne gen fmt blk = s.setSb blk (bcv (s.block blk) blk gen fmt false 0xFE) := by
  simp [State.sealOne, h]

theorem copyOne_of_verified {s : State} {gen fmt src : Nat} (h : s.verify src gen fmt = .verified) (dst : Nat) :
    s.copyOne gen fmt src dst = ((s.setBytes (dst * 4096) (s.block src)).setSb dst
      (bcv (s.block src) dst gen (bcvFmt (s.sbOf src)) false 0xFE)).count Reg.hubCntBlkVerified := by
  simp [State.copyOne, h]

section
variable {s : State} {j : SealJob}

theorem sealRun_check_one (hop : j.op = 0x32) (hv : s.verify j.src j.gen j.fmt = .verified) :
    s.sealRun j 0 0 1 = (s.count Reg.hubCntBlkVerified, 0) := by
  simp [State.sealRun, hop, checkOne_of_verified hv]

theorem sealRun_seal_one (hop : j.op = 0x30) (hu : bcvSealed (s.sbOf j.src) = false) :
    s.sealRun j 0 0 1 = (s.setSb j.src (bcv (s.block j.src) j.src j.gen j.fmt false 0xFE), 0) := by
  simp [State.sealRun, hop, sealOne_of_unsealed hu]

theorem sealRun_copy_one (hop : j.op = 0x31) (hv : s.verify j.src j.gen j.fmt = .verified) :
    s.sealRun j 0 0 1 = (((s.setBytes (j.dst * 4096) (s.block j.src)).setSb j.dst
      (bcv (s.block j.src) j.dst j.gen (bcvFmt (s.sbOf j.src)) false 0xFE)).count Reg.hubCntBlkVerified, 0) := by
  simp [State.sealRun, hop, copyOne_of_verified hv]

end

/-! ### The commands of a core -/

section
variable {s : State} {q : CoreCmd} (hserve : s.serving q.k = true) (hctx : q.ctx = 0) (hmod : q.mod = 0)
  (halive : (s.ctx 0).st ≠ .terminated)
include hserve hctx hmod halive

theorem passes_rcpload (hopc : q.opc = 0x18) (ha : q.a < 2 ^ 38) (hb : q.b < 2 ^ 64) (hc : q.c < 2 ^ 64) (himm : q.imm < 256) :
    s.Passes q specRcpload :=
  passes_of_serving hserve hopc rfl (by omega) hb hc hmod (by omega) rfl hctx halive
    ((wide_eq_false_iff ..).2 ⟨fun _ => ha, fun _ => hb, fun h => absurd rfl h, fun _ => himm⟩)

theorem passes_rcpdrop (hopc : q.opc = 0x19) (ha : q.a < 2 ^ 64) (hb : q.b < 2 ^ 64) (hc : q.c < 2 ^ 64) (himm : q.imm < 256) :
    s.Passes q specRcpdrop :=
  passes_of_serving hserve hopc rfl ha hb hc hmod (by omega) rfl hctx halive
    ((wide_eq_false_iff ..).2 ⟨fun h => absurd rfl h, fun h => absurd rfl h, fun h => absurd rfl h, fun _ => himm⟩)

theorem passes_sealrgn (hopc : q.opc = 0x30) (ha : q.a < 2 ^ 38) (hb : q.b < 2 ^ 24) (hc : q.c < 2 ^ 64) (himm : q.imm < 2 ^ 22) :
    s.Passes q specSealrgn :=
  passes_of_serving hserve hopc rfl (by omega) (by omega) hc hmod (by omega) rfl hctx halive
    ((wide_eq_false_iff ..).2 ⟨fun _ => ha, fun _ => hb, fun h => absurd rfl h, fun _ => himm⟩)

theorem passes_sealcpy (hopc : q.opc = 0x31) (ha : q.a < 2 ^ 38) (hb : q.b < 2 ^ 38) (hc : q.c < 2 ^ 24) (himm : q.imm < 2 ^ 22) :
    s.Passes q specSealcpy :=
  passes_of_serving hserve hopc rfl (by omega) (by omega) (by omega) hmod (by omega) rfl hctx halive
    ((wide_eq_false_iff ..).2 ⟨fun _ => ha, fun _ => hb, fun _ => hc, fun _ => himm⟩)

theorem passes_sealchk (hopc : q.opc = 0x32) (ha : q.a < 2 ^ 38) (hb : q.b < 2 ^ 24) (hc : q.c < 2 ^ 64) (himm : q.imm < 2 ^ 22) :
    s.Passes q specSealchk :=
  passes_of_serving hserve hopc rfl (by omega) (by omega) hc hmod (by omega) rfl hctx halive
    ((wide_eq_false_iff ..).2 ⟨fun _ => ha, fun _ => hb, fun h => absurd rfl h, fun _ => himm⟩)

end

section
variable {s : State} {q : CoreCmd}

theorem exec_rcpload (s : State) (i : Issue) : exec (.rcpload i) s = .next (s.runCmd specRcpload i) := rfl
theorem exec_rcpdrop (s : State) (i : Issue) : exec (.rcpdrop i) s = .next (s.runCmd specRcpdrop i) := rfl
theorem exec_sealrgn (s : State) (i : Issue) : exec (.sealrgn i) s = .next (s.runCmd specSealrgn i) := rfl
theorem exec_sealcpy (s : State) (i : Issue) : exec (.sealcpy i) s = .next (s.runCmd specSealcpy i) := rfl
theorem exec_sealchk (s : State) (i : Issue) : exec (.sealchk i) s = .next (s.runCmd specSealchk i) := rfl

theorem exec_rcpload_of_empty (h : s.Passes q specRcpload) (ht : s.hasTicket = true) (hsize : (q.cmd s).SizeOk)
    (hempty : (s.rcp q.imm).st = .empty) (hbase : s.rwl.contains Reg.hubRcpBase = true) :
    exec (.rcpload q.issue) s =
      .next (((s.noted q stPending s.nextTicket).startLoad (q.cmd s)).heldUnder s q stPending s.nextTicket) := by
  have hio := State.IoOnly.noted s q stPending s.nextTicket
  have hnoted := loadRecipe_of_empty (s := s.noted q stPending s.nextTicket) hsize
    ((congrArg RcpSlot.st (hio.rcp q.imm)).trans hempty) (by rw [hio.rwl]; exact hbase)
  rw [exec_rcpload, runCmd_of_later h ht (congrArg Prod.snd (loadRecipe_of_empty hsize hempty hbase)) hnoted]

theorem exec_rcpload_of_loading (h : s.Passes q specRcpload) (hsize : (q.cmd s).SizeOk) (hloading : (s.rcp q.imm).st = .loading) :
    exec (.rcpload q.issue) s = .next (s.rejected q stIllegalState) := by
  rw [exec_rcpload, runCmd_of_rejected h (loadRecipe_of_loading hsize hloading)]

theorem body_specRcpdrop : specRcpdrop.body = dropRecipe := rfl

theorem exec_rcpdrop_of_active (h : s.Passes q specRcpdrop) (hactive : (s.rcp q.imm).st = .active) :
    exec (.rcpdrop q.issue) s = .next (if s.rcpPins q.imm = 0 then ((s.noted q).setRcp q.imm {}).count Reg.hubCntCmd
      else s.rejected q stIllegalState) := by
  have hio := State.IoOnly.noted s q stOk 0
  have hbody (u : State) (hu : s.IoOnly u) : specRcpdrop.body (q.cmd s) u =
      if s.rcpPins q.imm = 0 then (u.setRcp q.imm {}, .ok 0) else reject u stIllegalState := by
    rw [body_specRcpdrop, ← hu.rcpPins q.imm]
    exact dropRecipe_of_active ((congrArg RcpSlot.st (hu.rcp q.imm)).trans hactive)
  have hs := hbody s (.refl s)
  have hnoted := hbody (s.noted q) hio
  rw [exec_rcpdrop]
  by_cases hfree : s.rcpPins q.imm = 0
  · rw [if_pos hfree] at hs hnoted ⊢
    rw [runCmd_of_ok h (congrArg Prod.snd hs) hnoted]
  · rw [if_neg hfree] at hs ⊢
    rw [runCmd_of_rejected h hs]

theorem exec_rcpdrop_of_loading (h : s.Passes q specRcpdrop) (hloading : (s.rcp q.imm).st = .loading) :
    exec (.rcpdrop q.issue) s = .next (s.rejected q stIllegalState) := by
  rw [exec_rcpdrop, runCmd_of_rejected h (dropRecipe_of_loading hloading)]

/-- A seal command with room in the queue joins it, where what its range may not meet is clear before and after its entry. -/
theorem runCmd_of_seal {sp : CmdSpec} (h : s.Passes q sp) (ht : s.hasTicket = true) (op dst n : Nat) (written : State → Nat → Nat → Bool)
    (hsp : ∀ t : State, sp.body (q.cmd s) t = sealCmd op dst n (written t) (q.cmd s) t) (hok : (q.cmd s).SealOk dst n)
    (hwritten : ∀ t : State, s.IoOnly t → written t dst n = false) (hroom : s.sealQ.length < 9) :
    s.runCmd sp q.issue = ((s.noted q stPending s.nextTicket).queueSeal ((q.cmd s).sealJob op dst n)).heldUnder s q stPending s.nextTicket := by
  have hio := State.IoOnly.noted s q stPending s.nextTicket
  have hbody := (hsp s).trans (sealCmd_of_room hok op (hwritten s (.refl s)) hroom)
  have hnoted := (hsp _).trans (sealCmd_of_room hok op (hwritten _ hio) (by rw [hio.sealQ]; exact hroom))
  exact runCmd_of_later h ht (congrArg Prod.snd hbody) hnoted

theorem exec_sealrgn_of_room (h : s.Passes q specSealrgn) (ht : s.hasTicket = true) (hmod : q.mod = 0) (hok : (q.cmd s).SealOk q.a q.b)
    (hfree : s.inIndex q.a q.b = false) (hroom : s.sealQ.length < 9) : exec (.sealrgn q.issue) s =
      .next (((s.noted q stPending s.nextTicket).queueSeal ((q.cmd s).sealJob 0x30 q.a q.b)).heldUnder s q stPending s.nextTicket) := by
  rw [exec_sealrgn, runCmd_of_seal h ht 0x30 q.a q.b State.inIndex (sealRgn_of_mod0 (c := q.cmd s) hmod) hok
    (fun t hio => by rw [hio.inIndex]; exact hfree) hroom]

theorem exec_sealcpy_of_room (h : s.Passes q specSealcpy) (ht : s.hasTicket = true) (hok : (q.cmd s).SealOk q.b q.c)
    (hfree : s.inIndex q.b q.c = false) (hroom : s.sealQ.length < 9) : exec (.sealcpy q.issue) s =
      .next (((s.noted q stPending s.nextTicket).queueSeal ((q.cmd s).sealJob 0x31 q.b q.c)).heldUnder s q stPending s.nextTicket) := by
  rw [exec_sealcpy, runCmd_of_seal h ht 0x31 q.b q.c State.inIndex (sealCpy_eq (q.cmd s)) hok
    (fun t hio => by rw [hio.inIndex]; exact hfree) hroom]

theorem exec_sealchk_of_room (h : s.Passes q specSealchk) (ht : s.hasTicket = true) (hok : (q.cmd s).SealOk q.a q.b)
    (hroom : s.sealQ.length < 9) : exec (.sealchk q.issue) s =
      .next (((s.noted q stPending s.nextTicket).queueSeal ((q.cmd s).sealJob 0x32 q.a q.b)).heldUnder s q stPending s.nextTicket) := by
  rw [exec_sealchk, runCmd_of_seal h ht 0x32 q.a q.b (fun _ _ _ => false) (sealChk_eq (q.cmd s)) hok (fun _ _ => rfl) hroom]

theorem exec_sealrgn_of_none (h : s.Passes q specSealrgn) (hmod : q.mod = 0) (hnone : q.b = 0) :
    exec (.sealrgn q.issue) s = .next (s.rejected q stBadOperand) := by
  have hbody : specSealrgn.body (q.cmd s) s = reject s stBadOperand :=
    (sealRgn_of_mod0 (c := q.cmd s) hmod s).trans (sealCmd_of_none hnone ..)
  rw [exec_sealrgn, runCmd_of_rejected h hbody]

theorem exec_sealchk_of_none (h : s.Passes q specSealchk) (hnone : q.b = 0) :
    exec (.sealchk q.issue) s = .next (s.rejected q stBadOperand) := by
  have hbody : specSealchk.body (q.cmd s) s = reject s stBadOperand :=
    (sealChk_eq (q.cmd s) s).trans (sealCmd_of_none hnone ..)
  rw [exec_sealchk, runCmd_of_rejected h hbody]

end

/-- Settles O30: a core's command through `runCmd_of_later`, `runCmd_of_ok` and `runCmd_of_rejected`, by what its sub-block answers before
and after its entry; the end of a load through `complete_loadEnded`; a seal command of one block through its `sealRun` lemma. -/
theorem recipesAndSealEngine : Obligations.RecipesAndSealEngine := by
  unfold Obligations.RecipesAndSealEngine
  refine ⟨⟨?load, ?done, ?drop⟩, ?commands, ?queue, ?engine, ?noBlock⟩
  case load =>
    intro s q hopc hserve ht hctx hmod hrange ha hmin hmax hunit himm hc halive hbase
    have hpass := passes_rcpload hserve hctx hmod halive hopc ha (by omega) hc himm
    have hsize : (q.cmd s).SizeOk := ⟨hmin, hmax, hunit, hrange⟩
    refine ⟨fun hempty hstall => ?_, exec_rcpload_of_loading hpass hsize⟩
    have hio := State.IoOnly.noted s q stPending s.nextTicket
    obtain ⟨r, loads, p0, p1, hstart⟩ := startLoad_frame (hio.bothStalled.trans hstall) (q.cmd s)
    have hrcp (n : Nat) : ((s.noted q stPending s.nextTicket).startLoad (q.cmd s)).rcp n =
        if q.imm = n then { s.rcp q.imm with st := .loading } else s.rcp n := by
      rw [rcp_startLoad, hio.rcp, hio.rcp]
      rfl
    refine ⟨_, exec_rcpload_of_empty hpass ht hsize hempty hbase, ?_, fun n hn => ?_, ?_, ?_⟩
    · rw [hrcp, if_pos rfl]
    · rw [hrcp, if_neg (Ne.symm hn)]
    · rw [rcpLoads_startLoad, hio.rcpLoads]
      rfl
    · rw [hstart]
  case done =>
    intro s n l hfind hslot _ hkettle
    have hown : ∀ k, s.ticket l.ticket = some k → ∃ core, k.owner = .kettle core := fun k hk => ⟨0, hkettle k hk⟩
    subst hslot
    refine ⟨fun st hread hstall herr => ?refused, fun r hread hstall hok => ?checked, fun r hr hkat hdone => ?active⟩
    case refused =>
      obtain ⟨u, hu, hslot, hrest⟩ := complete_loadEnded (l := { l with id := leAt (s.bytes (l.blk * 4096) l.len) 8 2 }) hown
        { s.rcp l.slot with st := .refused, id := leAt (s.bytes (l.blk * 4096) l.len) 8 2 }
        (if st = stRecipeKatFail then Reg.hubCntRcpKatFail else Reg.hubCntRcpRefused) st
      refine ⟨u, ?_, (congrArg RcpSlot.st hslot :), (congrArg RcpSlot.recipe hslot :), hrest⟩
      rw [exec_recipeLoadDone_of_read hfind hread hstall, checkLoad_of_error herr, endLoad_refused, hu]
    case checked =>
      have hio := checkLoad_of_ok hok
      refine ⟨_, exec_recipeLoadDone_of_read hfind hread hstall, hio.rcp, l.checked (s.bytes (l.blk * 4096) l.len) r, ?_, rfl, rfl, rfl, rfl⟩
      rw [hio.rcpLoads]
      exact List.mem_map.2 ⟨l, List.mem_of_find?_eq_some hfind, if_pos (beq_self_eq_true _)⟩
    case active =>
      obtain ⟨u, hu, hslot, hother, hloads, hticket⟩ := complete_loadEnded hown
        { st := .active, recipe := some r, id := l.id, digest := l.digest, good := l.digest, len := l.len } Reg.hubCntRcpLoaded stOk
      refine ⟨u, ?_, congrArg RcpSlot.st hslot, congrArg RcpSlot.recipe hslot, congrArg RcpSlot.digest hslot, congrArg RcpSlot.id hslot,
        hother, hloads, hticket⟩
      rw [exec_recipeLoadDone_of_passed hfind hr hkat hdone, endLoad_active, hu]
  case drop =>
    intro s q hopc hserve hctx hmod ha hb hc himm halive
    have hpass := passes_rcpdrop hserve hctx hmod halive hopc ha hb hc himm
    exact ⟨exec_rcpdrop_of_active hpass, exec_rcpdrop_of_loading hpass⟩
  case commands =>
    rintro s q src n gen fmt hserve ht hctx hmod halive hgen hfmt hlisted himm rfl hn hn24 hsrc hroom
    have hlo : q.imm % 2 ^ 16 = gen := by omega
    have hhi : q.imm / 2 ^ 16 = fmt := by omega
    have hjob (op dst : Nat) : (q.cmd s).sealJob op dst n =
        { op := op, src := q.a, dst := dst, count := n, gen := gen, fmt := fmt, ticket := s.nextTicket } := by
      simp only [Cmd.sealJob, CoreCmd.cmd, hlo, hhi, hctx]
    have hok (dst : Nat) (hdst : dst + n ≤ 2 ^ 38) : (q.cmd s).SealOk dst n :=
      ⟨hctx, hn, hsrc, hdst, (congrArg fmtListed hhi).trans hlisted⟩
    refine ⟨?rgn, ?cpy, ?chk⟩
    case rgn =>
      rintro hopc rfl hc hfree
      have hpass := passes_sealrgn hserve hctx hmod halive hopc (by omega) hn24 hc (by omega)
      rw [exec_sealrgn_of_room hpass ht hmod (hok q.a hsrc) hfree hroom, hjob]
    case cpy =>
      rintro hopc hdst rfl hfree
      have hpass := passes_sealcpy hserve hctx hmod halive hopc (by omega) (by omega) hn24 (by omega)
      rw [exec_sealcpy_of_room hpass ht (hok q.b hdst) hfree hroom, hjob]
    case chk =>
      rintro hopc rfl hc
      have hpass := passes_sealchk hserve hctx hmod halive hopc (by omega) hn24 hc (by omega)
      rw [exec_sealchk_of_room hpass ht (hok q.a hsrc) hroom, hjob]
  case queue =>
    intro s j
    obtain ⟨r, p0, p1, f, hq⟩ := queueSeal_frame s j
    exact ⟨by rw [hq], fun a ha => reg_queueSeal_of_ne s j ha, by rw [hq]⟩
  case engine =>
    intro s j hq hcount hstall
    have hexec := exec_sealEngineDone_of_job hq hstall
    rw [hcount] at hexec
    refine ⟨fun hop hv => ?_, fun hop hu => ?_, fun hop hv => ?_⟩
    · rw [hexec, sealRun_check_one hop hv, hop]; rfl
    · rw [hexec, sealRun_seal_one hop hu, hop]; rfl
    · rw [hexec, sealRun_copy_one hop hv, hop]; rfl
  case noBlock =>
    rintro s q _ hmod hctx - himm hserve halive ha hb hc rfl
    refine ⟨fun hopc => ?_, fun hopc => ?_⟩
    · exact exec_sealrgn_of_none (passes_sealrgn hserve hctx hmod halive hopc ha (by omega) (by omega) himm) hmod hb
    · exact exec_sealchk_of_none (passes_sealchk hserve hctx hmod halive hopc ha (by omega) (by omega) himm) hb

end Sys2Proof.Machine
end

section
/-! Tap contract: what the counters and the checks of a Ladle leave as it was (R122, R123, R128, R137, R144, R155, R157), and the place
of an op in its tile's table (R101). -/

namespace Sys2Proof.Machine

/-! ### Registers of a tile -/

theorem State.RegsOnly.refl (s : State) : s.RegsOnly s := ⟨s.regs, rfl⟩

theorem regsOnly_clrBits (s : State) (a m : Nat) : s.RegsOnly (s.clrBits a m) := regsOnly_setReg ..
theorem regsOnly_ldlCount (s : State) (t k n : Nat) : s.RegsOnly (s.ldlCount t k n) := regsOnly_setReg ..
theorem regsOnly_faultInt (s : State) (i ctx : Nat) : s.RegsOnly (s.faultInt i ctx) := regsOnly_raiseFault ..

theorem regsOnly_tapErr (s : State) (t bit opseq tag : Nat) : s.RegsOnly (s.tapErr t bit opseq tag) := by
  unfold State.tapErr
  dsimp only
  split_ifs
  · exact (regsOnly_setReg ..).trans (regsOnly_setBits ..)
  · exact regsOnly_setBits ..

theorem regsOnly_locCapture (s : State) (t : Nat) (o : LOp) (loc : Location) : s.RegsOnly (s.locCapture t o loc) := by
  unfold State.locCapture
  split_ifs
  · exact .refl s
  · split
    · exact .refl s
    · exact ((((regsOnly_setReg ..).trans (regsOnly_setReg ..)).trans (regsOnly_setReg ..)).trans (regsOnly_setReg ..)).trans
        (regsOnly_setBits ..)

/-- Stored registers are no part of a Ladle's own state. -/
theorem State.RegsOnly.ladle {s t : State} (h : s.RegsOnly t) (p : Nat) : t.ladle p = s.ladle p := by
  obtain ⟨r, rfl⟩ := h
  rfl

/-! ### Checks of an op -/

/-- `o'` is `o` after checks of its Ladle: what they find, what they count and what they have compared may differ, nothing else. -/
def LOp.Checked (o o' : LOp) : Prop := ∃ f sp dn off c ix,
  o' = { o with found := f, specEls := sp, egrDone := dn, resOff := off, counts := c, badIx := ix }

namespace LOp.Checked

theorem refl (o : LOp) : o.Checked o := ⟨_, _, _, _, _, _, rfl⟩

theorem trans {o x y : LOp} (h1 : o.Checked x) (h2 : x.Checked y) : o.Checked y := by
  obtain ⟨_, _, _, _, _, _, rfl⟩ := h1
  obtain ⟨f, sp, dn, off, c, ix, rfl⟩ := h2
  exact ⟨f, sp, dn, off, c, ix, rfl⟩

theorem find (o : LOp) (f : Finding) : o.Checked (o.find f) := ⟨_, _, _, _, _, _, find_eq_with_found o f⟩
theorem tally (o : LOp) (k n : Nat) : o.Checked (o.tally k n) := ⟨_, _, _, _, _, _, rfl⟩

theorem ite {o x y : LOp} {c : Prop} [Decidable c] (hx : o.Checked x) (hy : o.Checked y) :
    o.Checked (if c then x else y) := by
  split_ifs
  · exact hx
  · exact hy

section
variable {o o' : LOp} (h : o.Checked o')
include h

theorem tag : o'.tag = o.tag := by obtain ⟨_, _, _, _, _, _, rfl⟩ := h; rfl
theorem d : o'.d = o.d := by obtain ⟨_, _, _, _, _, _, rfl⟩ := h; rfl
theorem closed : o'.closed = o.closed := by obtain ⟨_, _, _, _, _, _, rfl⟩ := h; rfl
theorem flags : o'.flags = o.flags := by obtain ⟨_, _, _, _, _, _, rfl⟩ := h; rfl
theorem outs : o'.outs = o.outs := by obtain ⟨_, _, _, _, _, _, rfl⟩ := h; rfl

theorem operands : o'.elA = o.elA ∧ o'.elB = o.elB ∧ o'.elC = o.elC ∧ o'.ixA = o.ixA ∧ o'.ixB = o.ixB ∧ o'.scA = o.scA ∧
    o'.scB = o.scB ∧ o'.scC = o.scC := by
  obtain ⟨_, _, _, _, _, _, rfl⟩ := h
  exact ⟨rfl, rfl, rfl, rfl, rfl, rfl, rfl, rfl⟩

end

end LOp.Checked

/-- Checks lead from the state `s` and the op `o` to `q`. -/
structure State.Checks (s : State) (o : LOp) (q : State × LOp) : Prop where
  regs : s.RegsOnly q.1
  op : o.Checked q.2

namespace State.Checks

theorem refl (s : State) (o : LOp) : s.Checks o (s, o) := ⟨.refl s, .refl o⟩

theorem trans {s : State} {o : LOp} {q r : State × LOp} (h1 : s.Checks o q) (h2 : q.1.Checks q.2 r) : s.Checks o r :=
  ⟨h1.regs.trans h2.regs, h1.op.trans h2.op⟩

theorem breachN (s : State) (t : Nat) (o : LOp) (rows : Nat) : s.Checks o (s.breachN t o rows) := by
  unfold State.breachN
  split_ifs
  · exact refl s o
  · exact ⟨((regsOnly_tapErr ..).trans (regsOnly_ldlCount ..)).trans (regsOnly_faultInt ..), (LOp.Checked.find ..).trans (.tally ..)⟩

theorem softBreach (s : State) (t : Nat) (o : LOp) (bit k : Nat) (f : Finding) : s.Checks o (s.softBreach t o bit k f) :=
  ⟨(regsOnly_tapErr ..).trans (regsOnly_ldlCount ..), (LOp.Checked.find ..).trans (.tally ..)⟩

theorem compareBlocks (s : State) (t : Nat) (o : LOp) (bs : List (Nat × Bytes)) : s.Checks o (s.compareBlocks t o bs) := by
  induction bs generalizing s o with
  | nil => exact refl s o
  | cons b bs ih =>
    obtain ⟨off, data⟩ := b
    have hdone : s.Checks o (s, { o with egrDone := off :: o.egrDone }) := ⟨.refl s, _, _, _, _, _, _, rfl⟩
    unfold State.compareBlocks
    dsimp only
    split_ifs
    · exact ih s o
    · exact hdone.trans (ih ..)
    · exact (hdone.trans (softBreach ..)).trans (ih ..)

theorem indexCheck (s : State) (t : Nat) (o : LOp) (atEnd : Bool) : s.Checks o (s.indexCheck t o atEnd) := by
  unfold State.indexCheck
  split
  · exact ⟨regsOnly_ldlCount .., ((LOp.Checked.find o .index).trans (.tally ..)).trans ⟨_, _, _, _, _, _, rfl⟩⟩
  · exact refl s o

theorem bufferCheck (s : State) (t : Nat) (o : LOp) (was : Nat) : s.Checks o (s.bufferCheck t o was) := by
  unfold State.bufferCheck
  dsimp only
  split_ifs
  · exact refl s o
  · exact ⟨regsOnly_ldlCount .., _, _, _, _, _, _, rfl⟩

theorem closeChecks (s : State) (t : Nat) (o : LOp) (outside again : Bool) : s.Checks o (s.closeChecks t o outside again) := by
  unfold State.closeChecks
  dsimp only
  split_ifs
  · exact refl s o
  · exact (breachN ..).trans (indexCheck ..)
  · exact ((breachN ..).trans (softBreach ..)).trans (indexCheck ..)

theorem ldlCounts (s : State) (t : Nat) (o : LOp) (l : List (Nat × Nat)) : s.Checks o (s.ldlCounts t o l) := by
  induction l generalizing s o with
  | nil => exact refl s o
  | cons x l ih =>
    obtain ⟨k, n⟩ := x
    have hcount : s.Checks o (s.ldlCount t k n, o.tally k n) := ⟨regsOnly_ldlCount .., .tally ..⟩
    unfold State.ldlCounts
    split_ifs
    · exact ih s o
    · exact hcount.trans (ih ..)

end State.Checks

/-! ### The place of an op in its tile's table -/

theorem ladle_putOp_of_ne (s : State) (o : LOp) {t q : Nat} (h : q ≠ t) : (s.putOp t o).ladle q = s.ladle q := by
  simp [State.putOp, State.mapOps, Ne.symm h]

theorem ladle_sweep_of_ne (s : State) {t q : Nat} (h : q ≠ t) : (s.sweep t).ladle q = s.ladle q := by
  simp [State.sweep, Ne.symm h]

theorem sweep_frame (s : State) (t : Nat) : ∃ l, s.sweep t = { s with ladles := l } := ⟨_, rfl⟩

/-- R122: a beat that no row applies to leaves its op without a breach. -/
theorem breachN_zero (s : State) (t : Nat) (o : LOp) : s.breachN t o 0 = (s, o) := rfl

end Sys2Proof.Machine
end

section
/-! Tap contract: the descriptors of a tile, and the beats of an op whose tile runs (R101, R104, R106 to R112, R122, R154, R167). -/

namespace Sys2Proof.Machine

/-! ### Descriptors (R101, R104, R122) -/

section
variable {s : State} {p tag : Nat} (w : Nat) (spA spB : Option Sparse) (hr : s.tileRuns p = true) (hk : (s.ladle p).kat ≠ .running)
include hr hk

/-- Without a self-check to abandon, the rows of R122 that apply decide between the op and the breach. -/
theorem exec_descriptorBeat : exec (.descriptorBeat p tag w spA spB) s =
    .next (let rows := b2n (tag != (s.ladle p).nextTag || (s.nameable p tag).isSome) + b2n (decide (4 ≤ (s.ladle p).open_))
      if rows = 0 then s.openOp p tag (Desc.ofWord w) spA spB else s.discardBeat p tag rows) := by
  have hexec : exec (.descriptorBeat p tag w spA spB) s = execDescriptorBeat p tag w spA spB s := rfl
  have hkat : ((s.ladle p).kat == .running) = false := by simpa using hk
  simp only [hexec, execDescriptorBeat, hr, hkat, Bool.not_true, Bool.false_eq_true, if_false]

theorem exec_descriptorBeat_of_next (htag : (s.ladle p).nextTag = tag) (hfree : s.nameable p tag = none) :
    exec (.descriptorBeat p tag w spA spB) s =
      .next (if 4 ≤ (s.ladle p).open_ then s.discardBeat p tag 1 else s.openOp p tag (Desc.ofWord w) spA spB) := by
  rw [exec_descriptorBeat w spA spB hr hk]
  by_cases hopen : 4 ≤ (s.ladle p).open_ <;> simp [htag, hfree, hopen, b2n]

theorem exec_descriptorBeat_of_misplaced (htag : (s.ladle p).nextTag ≠ tag ∨ (s.nameable p tag).isSome = true) :
    exec (.descriptorBeat p tag w spA spB) s = .next (s.discardBeat p tag (if 4 ≤ (s.ladle p).open_ then 2 else 1)) := by
  have hrow : (tag != (s.ladle p).nextTag || (s.nameable p tag).isSome) = true := by
    rcases htag with h | h
    · simp [Ne.symm h]
    · simp [h]
  rw [exec_descriptorBeat w spA spB hr hk, hrow]
  by_cases hopen : 4 ≤ (s.ladle p).open_ <;> simp [hopen, b2n]

end

/-- A tile's Ladle once it has opened an op under a tag. -/
def Ladle.opened (l : Ladle) (tag : Nat) (o : LOp) : Ladle :=
  { l with nextTag := (tag + 1) % 16, nextId := l.nextId + 1, ops := l.ops ++ [o] }

section
variable (s : State) {p : Nat} (tag : Nat) {d : Desc} {spA spB : Option Sparse} (hgood : s.descBad d spA spB = false)
  (hw : ∀ x ∈ s.whisk, x.tile ≠ p)
include hgood hw

/-- A good descriptor of a tile without a Whisk run: its op joins the tile's ops and the descriptors on their way to the Lid. -/
theorem openOp_of_good : ∃ u : State, s.openOp p tag d spA spB = { u with lidQ := s.lidQ ++ [(p, (s.ladle p).nextId)] } ∧
    u = { s with ladles := u.ladles } ∧ u.ladle p = (s.ladle p).opened tag (s.newOp p tag d spA spB false) ∧
    ∀ q, q ≠ p → u.ladle q = s.ladle q := by
  have hown : s.whisk.any (fun x => x.tile == p) = false := by simpa using hw
  have hwhisk : (s.newOp p tag d spA spB false).whisk = false := hown
  refine ⟨(s.setLadle p { s.ladle p with nextTag := (tag + 1) % 16, nextId := (s.ladle p).nextId + 1 }).setLadle p
    ((s.ladle p).opened tag (s.newOp p tag d spA spB false)), ?_, rfl, ?_, fun q hq => ?_⟩
  · simp only [State.openOp, hgood, hwhisk, ladle_setLadle, if_true, Bool.false_eq_true, if_false]
    rfl
  · simp
  · simp [Ne.symm hq]

end

/-- Settles O12: by the rows of R122 that apply; an op that opens is the one of `openOp_of_good`. -/
theorem descriptorOpensOp : Obligations.DescriptorOpensOp := by
  unfold Obligations.DescriptorOpensOp
  intro s p tag w spA spB hr hk
  refine ⟨fun htag hfree hopen hgood hw => ?opens, exec_descriptorBeat_of_misplaced w spA spB hr hk, fun htag hfree hfull => ?full⟩
  case opens =>
    obtain ⟨u, hu, hframe, hself, hother⟩ := openOp_of_good s tag hgood hw
    have hexec := exec_descriptorBeat_of_next w spA spB hr hk htag hfree
    rw [if_neg (by omega), hu] at hexec
    have hself' : ({ u with lidQ := s.lidQ ++ [(p, (s.ladle p).nextId)] } : State).ladle p = _ := hself
    refine ⟨_, s.newOp p tag (Desc.ofWord w) spA spB false, hexec, ?_, rfl, rfl, rfl, rfl, rfl, rfl, rfl, rfl, ?_, rfl, hother, ?_⟩
    · rw [hself']; rfl
    · rw [hself']; rfl
    · rw [hframe]
  case full =>
    rw [exec_descriptorBeat_of_next w spA spB hr hk htag hfree, if_pos hfull]

/-! ### The beats of an op (R106 to R112, R122, R167) -/

/-- A block of 4,096 bytes is taken whole. -/
theorem slice_of_length {b : Bytes} {n : Nat} (h : b.length = n) : slice b 0 n = b := by
  simp [slice, zeros, List.take_of_length_le (Nat.le_of_eq h), h]

/-- Of a list in which every entry is kept and whose keys are all new, everything is new. -/
theorem fresh_filter_of_new {α : Type} {old new : List (Nat × α)} {keep : Nat × α → Bool}
    (h : ∀ x ∈ new, keep x = true ∧ lookup old x.1 = none) : fresh old (new.filter keep) = new := by
  rw [List.filter_eq_self.2 fun x hx => (h x hx).1]
  exact List.filter_eq_self.2 fun x hx => by simp [(h x hx).2]

section
variable {s : State} {p tag : Nat} {o : LOp} (hr : s.tileRuns p = true) (hn : s.nameable p tag = some o)
include hr hn

/-- As `onBeat_of_nameable`, for a beat to which other rows of R122 can apply. -/
theorem onBeatWith_of_nameable (more : Nat) (f : LOp → State × LOp) :
    s.onBeatWith p tag more f = ((f o).1.putOp p (f o).2).sweep p := by
  simp [State.onBeatWith, hr, hn]

/-- A block that arrives inside its region for the first time, between no other's beats, is verified. -/
theorem exec_sealIngressBlock_of_new {region blk bcv : Nat} {data : Bytes} (htaken : o.consumed = false)
    (hin : blk < (o.lay.region region).blocks) (hnew : (region, blk) ∉ o.ing) (hown : o.whisk = false) (hlen : data.length = 4096)
    (hbcv : bcv < 2 ^ 64) : exec (.sealIngressBlock p tag region blk data bcv none) s =
      .next (((s.ingress p o region blk data bcv).1.putOp p (s.ingress p o region blk data bcv).2).sweep p) := by
  have hexec : exec (.sealIngressBlock p tag region blk data bcv none) s = execSealIngressBlock p tag region blk data bcv none s := rfl
  have hing : o.ing.contains (region, blk) = false := by simpa using hnew
  rw [hexec, execSealIngressBlock]
  simp only [State.cutBy, ite_self, Option.isSome_none, b2n, Bool.false_eq_true, if_false, onBeatWith_of_nameable hr hn, htaken, hin, hown,
    hing, decide_true, Bool.not_true, Bool.or_false, Nat.add_zero, breachN_zero, slice_of_length hlen, Nat.mod_eq_of_lt hbcv]

/-- An egress block that arrives inside its region for the first time enters memory and is compared. -/
theorem exec_egressBlockCompare_of_new {blk : Nat} {data : Bytes} (hin : blk < o.lay.out.blocks) (hnew : lookup o.egr blk = none)
    (hown : o.whisk = false) (hlen : data.length = 4096) :
    ∃ q : State × LOp, (s.setBytes ((o.lay.out.base + blk) * 4096) data).RegsOnly q.1 ∧
      exec (.egressBlockCompare p tag blk data none) s = .next ((q.1.putOp p q.2).sweep p) := by
  have hexec : exec (.egressBlockCompare p tag blk data none) s = execEgressBlockCompare p tag blk data none s := rfl
  refine ⟨_, (State.Checks.compareBlocks (s.setBytes ((o.lay.out.base + blk) * 4096) data) p { o with egr := o.egr ++ [(blk, data)] }
    (o.egr ++ [(blk, data)])).regs, ?_⟩
  rw [hexec, execEgressBlockCompare]
  simp only [State.cutBy, ite_self, Option.isSome_none, b2n, Bool.false_eq_true, if_false, onBeatWith_of_nameable hr hn, hin, hown,
    hnew, decide_true, Bool.not_true, Bool.or_false, Nat.add_zero, breachN_zero, slice_of_length hlen]

/-- An operand beat of elements not yet seen enters the op before the checks of R137 and R144. -/
theorem exec_operandBeat_of_new {kind row col : Nat} {run : List Nat} (hopen : o.closed = false)
    (hnew : o.repeats kind (o.run kind row col run) = false) : ∃ q, s.Checks (o.addOperand kind (o.run kind row col run)) q ∧
      exec (.operandBeat p tag kind row col run) s = .next ((q.1.putOp p q.2).sweep p) := by
  have hexec : exec (.operandBeat p tag kind row col run) s = execOperandBeat p tag kind row col run s := rfl
  refine ⟨_, (State.Checks.indexCheck s p (o.addOperand kind (o.run kind row col run)) false).trans (.bufferCheck _ p _ o.waiting), ?_⟩
  rw [hexec, execOperandBeat]
  simp only [onBeat_of_nameable hr hn, hopen, hnew, b2n, Bool.and_false, Bool.false_eq_true, if_false, Nat.add_zero, breachN_zero]

/-- An output beat whose elements are the op's own and not yet seen, before any egress block. -/
theorem exec_outputBeat_elements {row col : Nat} {lanes : List (Option OutEl)} (hopen : o.closed = false) (hegr : o.egr = [])
    (hnew : ∀ x ∈ laneEls row col (s.laneCut p lanes), o.lay.out.holds x.1 = true ∧ lookup o.outs x.1 = none) :
    exec (.outputBeat p tag false row col lanes) s =
      .next ((s.putOp p { o with outs := o.outs ++ laneEls row col (s.laneCut p lanes) }).sweep p) := by
  have hexec : exec (.outputBeat p tag false row col lanes) s = execOutputBeat p tag false row col lanes s := rfl
  have houtside : o.elsOutside (laneEls row col (s.laneCut p lanes)) = false :=
    List.any_eq_false.2 fun x hx => by simp [(hnew x hx).1]
  have hagain : o.elsAgain (laneEls row col (s.laneCut p lanes)) = false :=
    List.any_eq_false.2 fun x hx => by simp [(hnew x hx).2]
  rw [hexec, execOutputBeat, onBeat_of_nameable hr hn]
  simp only [hopen, houtside, hagain, b2n, Bool.false_eq_true, if_false, Nat.add_zero, State.outBreach, ite_self, breachN_zero,
    LOp.addOuts, fresh_filter_of_new hnew, hegr, State.compareBlocks]

theorem exec_outputBeat_scales {row col : Nat} {lanes : List (Option OutEl)} (hopen : o.closed = false) (hegr : o.egr = [])
    (hnew : ∀ x ∈ laneScales col (s.laneCut p lanes), x.1 < o.lay.out.groups ∧ lookup o.scOut x.1 = none) :
    exec (.outputBeat p tag true row col lanes) s =
      .next ((s.putOp p { o with scOut := o.scOut ++ laneScales col (s.laneCut p lanes) }).sweep p) := by
  have hexec : exec (.outputBeat p tag true row col lanes) s = execOutputBeat p tag true row col lanes s := rfl
  have houtside : o.scsOutside (laneScales col (s.laneCut p lanes)) = false :=
    List.any_eq_false.2 fun x hx => by simp [(hnew x hx).1]
  have hagain : o.scsAgain (laneScales col (s.laneCut p lanes)) = false :=
    List.any_eq_false.2 fun x hx => by simp [(hnew x hx).2]
  have hfresh := fresh_filter_of_new (old := o.scOut) (keep := fun x => decide (x.1 < o.lay.out.groups)) fun x hx =>
    ⟨decide_eq_true (hnew x hx).1, (hnew x hx).2⟩
  rw [hexec, execOutputBeat, onBeat_of_nameable hr hn]
  simp only [hopen, houtside, hagain, b2n, Bool.false_eq_true, if_false, if_true, Nat.add_zero, State.outBreach, ite_self, breachN_zero,
    LOp.addScales, hfresh, hegr, State.compareBlocks]

/-- The last output beat of an open op closes it after its elements have entered. -/
theorem exec_outputLastBeat_of_open {row col flags : Nat} {lanes : List (Option OutEl)} (hopen : o.closed = false) (hflags : flags < 64) :
    let els := laneEls row col (s.laneCut p lanes)
    let q := s.compareBlocks p (o.addOuts els) o.egr
    let r := q.1.closeChecks p { q.2 with closed := true, flags := flags } (o.elsOutside els) (o.elsAgain els)
    exec (.outputLastBeat p tag row col lanes flags) s = .next ((r.1.putOp p r.2).sweep p) := by
  have hexec : exec (.outputLastBeat p tag row col lanes flags) s = execOutputLastBeat p tag row col lanes flags s := rfl
  have hegr : (o.addOuts (laneEls row col (s.laneCut p lanes))).egr = o.egr := rfl
  dsimp only
  rw [hexec, execOutputLastBeat]
  simp only [onBeat_of_nameable hr hn, hopen, Bool.false_eq_true, if_false, hegr, Nat.mod_eq_of_lt hflags]

end

/-- The bytes of an egress block are written over its own address range alone. -/
theorem mem_setBytes_of_outside (s : State) {a b : Nat} {data : Bytes} (h : b < a ∨ a + data.length ≤ b) :
    Tab.get 0 (s.setBytes a data).mem b = Tab.get 0 s.mem b :=
  (tab_get_setRun ..).trans (if_neg (by omega))

/-- Settles O13: each beat through its own lemma above, with what `State.Checks` says of the checks behind it. -/
theorem blockAndElementBeats : Obligations.BlockAndElementBeats := by
  unfold Obligations.BlockAndElementBeats
  intro s p tag o hr hn
  refine ⟨fun region blk data bcv htaken hin hnew hown hlen hbcv => ?ingress, fun blk data hin hnew hown hlen => ?egress,
    fun kind row col run hopen hnew => ?operand, fun row col lanes hopen hegr => ⟨fun hnew _ => ?elements, fun hnew _ => ?scales⟩,
    fun row col lanes flags hopen hflags => ?last⟩
  case ingress =>
    rw [exec_sealIngressBlock_of_new hr hn htaken hin hnew hown hlen hbcv]
    exact ⟨fun h => by simp only [State.ingress, h], fun h => by simp only [State.ingress, h]⟩
  case egress =>
    obtain ⟨⟨u, x⟩, ⟨r, hu⟩, hexec⟩ := exec_egressBlockCompare_of_new hr hn hin hnew hown hlen
    dsimp only at hu hexec
    subst hu
    refine ⟨_, hexec, rfl, fun a ha => mem_setBytes_of_outside s (by rwa [hlen]), fun q hq => ?_, rfl⟩
    rw [ladle_sweep_of_ne _ hq, ladle_putOp_of_ne _ _ hq]
    rfl
  case operand =>
    obtain ⟨q, hq, hexec⟩ := exec_operandBeat_of_new hr hn hopen hnew
    exact ⟨q, hexec, hq.regs.eq_with_regs, hq.op.operands⟩
  case elements => exact exec_outputBeat_elements hr hn hopen hegr hnew
  case scales => exact exec_outputBeat_scales hr hn hopen hegr hnew
  case last =>
    have hclose := (State.Checks.closeChecks (s.compareBlocks p (o.addOuts (laneEls row col (s.laneCut p lanes))) o.egr).1 p
      { (s.compareBlocks p (o.addOuts (laneEls row col (s.laneCut p lanes))) o.egr).2 with closed := true, flags := flags }
      (o.elsOutside (laneEls row col (s.laneCut p lanes))) (o.elsAgain (laneEls row col (s.laneCut p lanes)))).op
    exact ⟨_, _, rfl, rfl, hclose.closed, hclose.flags, hclose.outs.trans (State.Checks.compareBlocks ..).op.outs,
      exec_outputLastBeat_of_open hr hn hopen hflags⟩

end Sys2Proof.Machine
end

section
/-! Tap contract: the verdict of an op, its check values, and the reset and the self-check of a tile (R109, R124, R148, R154, R163, R407,
R504). -/

namespace Sys2Proof.Machine

/-! ### The verdict (R148, R504) -/

/-- What the checks of a verdict count does not change the verdict. -/
theorem verdictOf_ldlCounts (s : State) (t : Nat) (o : LOp) (l : List (Nat × Nat)) (r : Option Recipe) :
    (s.ldlCounts t o l).2.verdictOf r = o.verdictOf r := by
  induction l generalizing s o with
  | nil => rfl
  | cons x l ih =>
    obtain ⟨k, n⟩ := x
    unfold State.ldlCounts
    split_ifs
    · exact ih s o
    · exact ih ..

theorem checked_judge (o : LOp) : o.Checked o.judge.1 := by
  have hspec (x : LOp) (l : List (Nat × Nat)) : x.Checked { x.find .spec with specEls := l } :=
    (LOp.Checked.find x .spec).trans ⟨_, _, _, _, _, _, rfl⟩
  unfold LOp.judge
  split
  · have hres (c : Prop) [Decidable c] : o.Checked (if c then o else o.find .residue) := .ite (.refl o) (.find ..)
    have hels {x : LOp} (hx : o.Checked x) (c : Prop) [Decidable c] (l : List (Nat × Nat)) :
        o.Checked (if c then x else { x.find .spec with specEls := l }) := .ite hx (hx.trans (hspec ..))
    have hmax {x : LOp} (hx : o.Checked x) (c : Prop) [Decidable c] : o.Checked (if c then x.find .maxtap else x) :=
      .ite (hx.trans (.find ..)) hx
    exact hmax (hels (hres _) _ _) _
  · exact .refl o

section
variable (s : State) (t : Nat) (o : LOp) (late : Bool)

/-- What a verdict counts, with the op that it is of. -/
def State.verdictCounts : State × LOp :=
  s.ldlCounts t o.judge.1 (o.judge.2.2 ++ [(16, b2n (late && o.accept != .refused))])

/-- The registers of the tile behind a verdict: its counts, a late one's mark and the capture of R157. -/
def State.verdictRegs : State :=
  let q := s.verdictCounts t o late
  (if late && o.accept != .refused then q.1.setBits (atTile t Reg.ldlStatus) (2 ^ 5) else q.1).locCapture t q.2 o.judge.2.1

/-- The op behind a verdict: done, with the BCVs that an open seal gate forms. -/
def State.verdictOp : LOp :=
  let q := s.verdictCounts t o late
  let v := q.2.verdictOf o.rcp
  { q.2 with done := true, poisonOut := v != .pass && v != .mortarOnly,
             bcvLeft := if o.accept == .stale || o.whisk || (s.ladle t).gateShut then [] else List.range o.lay.out.blocks }

theorem checked_verdictCounts : o.Checked (s.verdictCounts t o late).2 := (checked_judge o).trans (State.Checks.ldlCounts ..).op

theorem regsOnly_verdictRegs : s.RegsOnly (s.verdictRegs t o late) := by
  have hcounts : s.RegsOnly (s.verdictCounts t o late).1 := (State.Checks.ldlCounts ..).regs
  unfold State.verdictRegs
  dsimp only
  split_ifs
  · exact (hcounts.trans (regsOnly_setBits ..)).trans (regsOnly_locCapture ..)
  · exact hcounts.trans (regsOnly_locCapture ..)

/-- The state behind a verdict, without its report. -/
def State.verdictState : State := ((s.verdictRegs t o late).putOp t (s.verdictOp t o late)).sweep t

theorem verdictState_frame : (∀ q, q ≠ t → (s.verdictState t o late).ladle q = s.ladle q) ∧
    ∃ r l, s.verdictState t o late = { s with regs := r, ladles := l } := by
  have hregs := regsOnly_verdictRegs s t o late
  refine ⟨fun q hq => ?_, ?_⟩
  · rw [State.verdictState, ladle_sweep_of_ne _ hq, ladle_putOp_of_ne _ _ hq, hregs.ladle]
  · obtain ⟨r, hr⟩ := hregs
    exact ⟨r, _, by rw [State.verdictState, hr]; rfl⟩

/-- The tensor scale of the output in the Lid's answer. -/
def LOp.tsOut (o : LOp) : Int :=
  match o.accept with
  | .ok _ _ z => z
  | _ => 0

/-- The report of a verdict. -/
def State.verdictReport : Report :=
  (s.verdictOp t o late).report t ((s.verdictCounts t o late).2.verdictOf o.rcp) (o.compared o.rcp) o.judge.2.1 o.tsOut

theorem verdict_verdictReport : (s.verdictReport t o late).verdict = o.judge.1.verdictOf o.rcp := verdictOf_ldlCounts ..

/-- The verdict of an op that the Whisk did not inject. -/
theorem verdict_of_own (hown : o.whisk = false) : s.verdict t o late =
    if o.accept == .stale || (o.accept == .refused && ! (s.verdictOp t o late).bcvLeft.isEmpty) then s.verdictState t o late
    else { s.verdictState t o late with reports := (s.verdictState t o late).reports ++ [s.verdictReport t o late] } := by
  unfold State.verdict
  dsimp only
  rw [if_neg (by simp [hown])]
  rfl

/-- An op that is neither stale nor refused is reported with its verdict. -/
theorem verdict_of_reported (hown : o.whisk = false) (hstale : o.accept ≠ .stale) (hrefused : o.accept ≠ .refused) :
    s.verdict t o late =
      { s.verdictState t o late with reports := (s.verdictState t o late).reports ++ [s.verdictReport t o late] } := by
  rw [verdict_of_own s t o late hown, if_neg (by simp [hstale, hrefused])]

/-- A stale op, and a refused one whose BCVs wait, gives no report. -/
theorem verdict_of_silent (hown : o.whisk = false)
    (h : o.accept = .stale ∨ (o.accept = .refused ∧ (s.ladle t).gateShut = false ∧ 0 < o.lay.out.blocks)) :
    s.verdict t o late = s.verdictState t o late := by
  rw [verdict_of_own s t o late hown, if_pos]
  rcases h with hstale | ⟨hrefused, hgate, hblocks⟩
  · simp [hstale]
  · simp [State.verdictOp, hrefused, hgate, hown, Nat.ne_of_gt hblocks]

theorem exec_ladleVerdict_of_ready {tag : Nat} (hr : s.tileRuns t = true)
    (hfind : (s.ladle t).ops.find? (fun x => x.tag == tag && x.ready) = some o) :
    exec (.ladleVerdict t tag late) s = .next (s.verdict t o late) := by
  have hexec : exec (.ladleVerdict t tag late) s = execLadleVerdict t tag late s := rfl
  simp [hexec, execLadleVerdict, hr, hfind]

end

/-! ### The BCV channel (R109, R163, R504) -/

/-- The report of a refused op is all that its last BCV adds. -/
theorem refusedReport_eq (s : State) (t : Nat) (o : LOp) : s.refusedReport t o =
    { s with reports := if o.accept == .refused && o.bcvLeft.isEmpty then s.reports ++ [o.report t .refused false .pass 0]
      else s.reports } := by
  unfold State.refusedReport
  split <;> rfl

/-- An op once the BCV of its output block at offset `off` is sent. -/
def LOp.bcvSent (o : LOp) (off : Nat) : LOp := { o with bcvLeft := o.bcvLeft.erase off }

/-- The transfer of the BCV `v` of block `blk`, which leaves the op `o` of tile `t`. -/
def State.sendBcv (s : State) (t blk v : Nat) (o : LOp) : State :=
  ((((s.putOp t o).setSb blk v).emit (.bcv t blk v)).refusedReport t o).sweep t

/-- The reports behind a transfer: that of a refused op whose last BCV it was is new. -/
def State.bcvReports (s : State) (t : Nat) (o : LOp) : List Report :=
  if o.accept == .refused && o.bcvLeft.isEmpty then s.reports ++ [o.report t .refused false .pass 0] else s.reports

section
variable (s : State) (t blk v : Nat) (o : LOp)

theorem sendBcv_eq : ∃ l, s.sendBcv t blk v o =
    { s.setSb blk v with ladles := l, out := s.out ++ [.bcv t blk v], reports := s.bcvReports t o } := by
  obtain ⟨l, hsweep⟩ := sweep_frame ((((s.putOp t o).setSb blk v).emit (.bcv t blk v)).refusedReport t o) t
  refine ⟨l, hsweep.trans ?_⟩
  simp only [refusedReport_eq, State.emit, State.setSb, State.putOp, State.mapOps, State.setLadle, State.bcvReports]

theorem sbOf_sendBcv (b : Nat) : (s.sendBcv t blk v o).sbOf b = if blk = b then v % 2 ^ 64 else s.sbOf b := by
  obtain ⟨l, h⟩ := sendBcv_eq s t blk v o
  rw [h]
  exact sbOf_setSb ..

theorem reports_sendBcv : (s.sendBcv t blk v o).reports = s.bcvReports t o := by
  obtain ⟨l, h⟩ := sendBcv_eq s t blk v o
  rw [h]

theorem sendBcv_frame : (s.sendBcv t blk v o).out = s.out ++ [.bcv t blk v] ∧ s.sendBcv t blk v o =
    { s with
      sb := (s.sendBcv t blk v o).sb, ladles := (s.sendBcv t blk v o).ladles, out := (s.sendBcv t blk v o).out
      reports := (s.sendBcv t blk v o).reports } := by
  obtain ⟨l, h⟩ := sendBcv_eq s t blk v o
  rw [h]
  exact ⟨rfl, by simp only [State.setSb]⟩

theorem ladle_sendBcv_of_ne {q : Nat} (h : q ≠ t) : (s.sendBcv t blk v o).ladle q = s.ladle q := by
  unfold State.sendBcv
  rw [ladle_sweep_of_ne _ h, refusedReport_eq]
  exact ladle_putOp_of_ne s o h

end

theorem exec_bcvHandshake_of_waiting {s : State} {p blk : Nat} {o : LOp} (hr : s.tileRuns p = true)
    (hfind : (s.ladle p).ops.find? (fun x => x.bcvLeft.any (fun k => x.lay.out.base + k == blk)) = some o) :
    exec (.bcvHandshake p blk) s =
      .next (s.sendBcv p blk (o.bcvAt p (blk - o.lay.out.base)) (o.bcvSent (blk - o.lay.out.base))) := by
  have hexec : exec (.bcvHandshake p blk) s = execBcvHandshake p blk s := rfl
  simp [hexec, execBcvHandshake, hr, hfind, LOp.bcvSent, State.sendBcv]

/-! ### Tile reset (R124, R383, R407) -/

/-- The ops that a reset closes are counted and reported. -/
theorem abandonOps_frame (s : State) (t : Nat) (l : List LOp) : ∃ r reps, s.abandonOps t l = { s with regs := r, reports := reps } := by
  induction l generalizing s with
  | nil => exact ⟨s.regs, s.reports, rfl⟩
  | cons o l ih =>
    obtain ⟨r, hr⟩ := regsOnly_ldlCount s t 23 1
    unfold State.abandonOps
    dsimp only
    split_ifs
    · obtain ⟨r', reps, h⟩ := ih (s.ldlCount t 23 1)
      exact ⟨r', reps, by rw [h, hr]⟩
    · obtain ⟨r', reps, h⟩ := ih { s.ldlCount t 23 1 with
        reports := (s.ldlCount t 23 1).reports ++ [(o.tally 23 1).report t .abandoned false .pass 0] }
      exact ⟨r', reps, by rw [h, hr]⟩

/-- A Ladle in reset. -/
def Ladle.cleared (l : Ladle) : Ladle :=
  { l with nextTag := 0, ops := [], inReset := true, kat := .idle, askers := 0, gateShut := false, checked := none }

theorem ladleReset_frame (s : State) (t : Nat) : ∃ r reps, s.ladleReset t =
    { ({ s with regs := r, reports := reps } : State).setLadle t (s.ladle t).cleared with
      lidQ := s.lidQ.filter (fun p => p.1 != t), answers := s.answers.filter (fun p => p.1 != t) } := by
  obtain ⟨r, reps, h⟩ := abandonOps_frame s t ((s.ladle t).ops.filter LOp.unsent)
  refine ⟨r, reps, ?_⟩
  unfold State.ladleReset
  dsimp only
  rw [h]
  rfl

theorem ladleOk_frame (s : State) (t : Nat) : ∃ ps, s.ladleOk t = { s with pairs := ps } := by
  unfold State.ladleOk
  dsimp only
  split_ifs
  · exact ⟨_, rfl⟩
  · exact ⟨s.pairs, rfl⟩

/-- R383: behind a tile reset the pair of its Ladle is no longer in ERROR. -/
theorem filt_ladleOk_ne_error (s : State) (t : Nat) : ((s.ladleOk t).pair (t / 8) (t % 8)).filt ≠ some .error := by
  unfold State.ladleOk
  dsimp only
  split_ifs with h
  · simp
  · exact h

/-- A tile without a Whisk run has none to complete. -/
theorem whiskUnreachable_of_none {s : State} {t : Nat} (h : ∀ w ∈ s.whisk, w.tile ≠ t) : s.whiskUnreachable t = s := by
  have hfind : s.whisk.find? (fun w => w.tile == t) = none := List.find?_eq_none.2 fun w hw => by simpa using h w hw
  simp [State.whiskUnreachable, hfind]

theorem exec_tileResetEntry_of_running {s : State} {p : Nat} (hp : p < s.cfg.ladles) (hout : (s.ladle p).inReset = false)
    (hw : ∀ w ∈ s.whisk, w.tile ≠ p) : exec (.tileResetEntry p) s = .next ((s.ladleReset p).ladleOk p) := by
  have hexec : exec (.tileResetEntry p) s = .next (if p < s.cfg.ladles then s.tileEnter p else s) := rfl
  have hwhisk : ((s.ladleReset p).ladleOk p).whisk = s.whisk := by
    obtain ⟨r, reps, hreset⟩ := ladleReset_frame s p
    obtain ⟨ps, hok⟩ := ladleOk_frame (s.ladleReset p) p
    rw [hok, hreset]
    rfl
  rw [hexec, if_pos hp, State.tileEnter, if_neg (by simp [hout]), whiskUnreachable_of_none (by rwa [hwhisk])]

/-! ### The self-check of a tile (R154, R407) -/

/-- The end of a self-check that passes: the counts, then the Ladle's own state and the answer to who asked. -/
theorem katEnd_pass (s : State) (t : Nat) : ∃ u, s.RegsOnly u ∧
    s.katEnd t true = (u.setLadle t { s.ladle t with kat := .idle, askers := 0, checked := some true }).katAnswer t true :=
  ⟨_, (((regsOnly_ldlCount s t 24 1).trans (regsOnly_ldlCount _ t 25 0)).trans (regsOnly_setBits ..)).trans (regsOnly_clrBits ..), rfl⟩

/-- A reset slot that is not in use does not go on. -/
theorem readyOn_of_idle {s : State} {k : Nat} (h : (s.rst k).active = false) : s.readyOn k = s := by
  simp [State.readyOn, h]

theorem exec_ladleSelfCheckDone_of_idle {s : State} {p : Nat} (hr : s.tileRuns p = true) (hk : (s.ladle p).kat = .running)
    (hidle : ∀ k, (s.rst k).active = false) : exec (.ladleSelfCheckDone p true) s = .next (s.katEnd p true) := by
  have hexec : exec (.ladleSelfCheckDone p true) s = execLadleSelfCheckDone p true s := rfl
  have hidle' (k : Nat) : ((s.katEnd p true).rst k).active = false := by
    obtain ⟨u, ⟨r, rfl⟩, hend⟩ := katEnd_pass s p
    rw [hend]
    exact hidle k
  simp only [hexec, execLadleSelfCheckDone, hr, hk, readyOn_of_idle (hidle' _), beq_self_eq_true, Bool.and_self, if_true]

theorem exec_ladleSelfCheckStart_of_requested {s : State} {p : Nat} (hr : s.tileRuns p = true) (hk : (s.ladle p).kat = .requested)
    (hopen : (s.ladle p).open_ = 0) :
    exec (.ladleSelfCheckStart p) s = .next (s.setLadle p { s.ladle p with kat := .running }) := by
  have hexec : exec (.ladleSelfCheckStart p) s = execLadleSelfCheckStart p s := rfl
  simp [hexec, execLadleSelfCheckStart, hr, hk, hopen]

/-- Settles O15: each command through its own lemma above and the frames of what it calls. -/
theorem verdictSealsAndTileReset : Obligations.VerdictSealsAndTileReset := by
  unfold Obligations.VerdictSealsAndTileReset
  refine ⟨⟨fun s p tag late o hr hfind hown => ⟨fun hstale hrefused => ?reported, fun hsilent => ?silent⟩,
    fun s p blk o hr hfind => ?bcv⟩, fun s p hp hout hw => ?reset, fun s p hr hk hopen => ?start, fun s p hr hk hidle => ?done⟩
  case reported =>
    have hexec := exec_ladleVerdict_of_ready s p o late hr hfind
    rw [verdict_of_reported s p o late hown hstale hrefused] at hexec
    obtain ⟨hother, r, l, hframe⟩ := verdictState_frame s p o late
    have hcounts := checked_verdictCounts s p o late
    refine ⟨_, s.verdictReport p o late, hexec, ?_, rfl, hcounts.tag, hcounts.d, verdict_verdictReport .., hother, ?_⟩
    · rw [hframe]
    · rw [hframe]
  case silent =>
    have hexec := exec_ladleVerdict_of_ready s p o late hr hfind
    rw [verdict_of_silent s p o late hown hsilent] at hexec
    obtain ⟨hother, r, l, hframe⟩ := verdictState_frame s p o late
    exact ⟨_, hexec, hother, by rw [hframe]⟩
  case bcv =>
    obtain ⟨hout, hframe⟩ := sendBcv_frame s p blk (o.bcvAt p (blk - o.lay.out.base)) (o.bcvSent (blk - o.lay.out.base))
    exact ⟨_, exec_bcvHandshake_of_waiting hr hfind, (sbOf_sendBcv ..).trans (if_pos rfl),
      fun b hb => (sbOf_sendBcv ..).trans (if_neg (Ne.symm hb)), hout, fun q hq => ladle_sendBcv_of_ne _ _ _ _ _ hq,
      fun hacc => (reports_sendBcv ..).trans (if_neg (by simp [LOp.bcvSent, hacc])),
      fun hacc hlast => ⟨_, (reports_sendBcv ..).trans (if_pos (by simp [LOp.bcvSent, hacc, hlast])), rfl, rfl⟩, hframe⟩
  case reset =>
    obtain ⟨r, reps, hreset⟩ := ladleReset_frame s p
    obtain ⟨ps, hok⟩ := ladleOk_frame (s.ladleReset p) p
    have hladle (q : Nat) : ((s.ladleReset p).ladleOk p).ladle q = if p = q then (s.ladle p).cleared else s.ladle q := by
      rw [hok, hreset]
      exact ladle_setLadle ..
    have hself := (hladle p).trans (if_pos rfl)
    refine ⟨_, exec_tileResetEntry_of_running hp hout hw, by rw [hself]; rfl, by rw [hself]; rfl, by rw [hself]; rfl, by rw [hself]; rfl,
      fun q hq => (hladle q).trans (if_neg (Ne.symm hq)), fun x hx => ?_, filt_ladleOk_ne_error (s.ladleReset p) p, ?_⟩
    · rw [hok, hreset] at hx
      simpa using (List.mem_filter.1 hx).2
    · rw [hok, hreset]
      rfl
  case start => exact exec_ladleSelfCheckStart_of_requested hr hk hopen
  case done =>
    obtain ⟨u, ⟨r, rfl⟩, hend⟩ := katEnd_pass s p
    have hexec := exec_ladleSelfCheckDone_of_idle hr hk hidle
    rw [hend] at hexec
    exact ⟨_, hexec, (ladle_setLadle ..).trans (if_pos rfl), fun q hq => (ladle_setLadle ..).trans (if_neg (Ne.symm hq)), rfl, rfl⟩

end Sys2Proof.Machine
end

section
/-! Clear registers (R158, R183, R400, R451): a write with bit 0 zeros the counters of its own layout and no other register. -/

namespace Sys2Proof.Machine

/-! ### Runs of counters -/

theorem reg_zeroRun (s : State) (n : Nat) {a : Nat} (ha : a % 4 = 0) (b : Nat) :
    (s.zeroRun a n).reg b = if a ≤ b ∧ b < a + 4 * n ∧ b % 4 = 0 then 0 else s.reg b := by
  induction n generalizing s a with
  | zero => rw [if_neg (by omega)]; rfl
  | succ n ih =>
    have hrun : s.zeroRun a (n + 1) = (s.setReg a 0).zeroRun (a + 4) n := rfl
    rw [hrun, ih _ (by omega), reg_setReg]
    by_cases hfirst : a = b
    · rw [if_neg (by omega), if_pos hfirst, if_pos (by omega), Nat.zero_mod]
    · rw [if_neg hfirst]
      exact if_congr (by omega) rfl rfl

theorem regsOnly_zeroRun (s : State) (a n : Nat) : s.RegsOnly (s.zeroRun a n) := by
  induction n generalizing s a with
  | zero => exact .refl s
  | succ n ih => exact (regsOnly_setReg ..).trans (ih ..)

theorem reg_zeroGlitch (s : State) (l : List Nat) (b : Nat) :
    (s.zeroGlitch l).reg b = if b ∈ l.map (fun k => atStn k Reg.colCntGlitch) then 0 else s.reg b := by
  induction l generalizing s with
  | nil => rfl
  | cons k l ih =>
    have hstation : s.zeroGlitch (k :: l) = (s.setReg (atStn k Reg.colCntGlitch) 0).zeroGlitch l := rfl
    rw [hstation, ih, reg_setReg, List.map_cons]
    by_cases hl : b ∈ l.map (fun k => atStn k Reg.colCntGlitch)
    · rw [if_pos hl, if_pos (List.mem_cons_of_mem _ hl)]
    · simp [hl, eq_comm]

theorem regsOnly_zeroGlitch (s : State) (l : List Nat) : s.RegsOnly (s.zeroGlitch l) := by
  induction l generalizing s with
  | nil => exact .refl s
  | cons k l ih => exact (regsOnly_setReg ..).trans (ih _)

/-! ### What a clear register's write does by its bit 0 -/

theorem bitAt_zero (v : Nat) : bitAt v 0 = v % 2 := rfl

theorem reg_clearRun (s : State) (v n : Nat) {a : Nat} (ha : a % 4 = 0) (b : Nat) :
    (s.clearRun v a n).reg b = if v % 2 = 1 ∧ a ≤ b ∧ b < a + 4 * n ∧ b % 4 = 0 then 0 else s.reg b := by
  unfold State.clearRun
  rw [bitAt_zero]
  by_cases hv : v % 2 = 1
  · simp only [hv, if_true, true_and, reg_zeroRun s n ha]
  · simp only [hv, if_false, false_and]

theorem regsOnly_clearRun (s : State) (v a n : Nat) : s.RegsOnly (s.clearRun v a n) := by
  unfold State.clearRun
  split_ifs
  · exact regsOnly_zeroRun ..
  · exact .refl s

theorem reg_clearCol (s : State) (v b : Nat) : (s.clearCol v).reg b =
    if v % 2 = 1 ∧ ((0x10100 ≤ b ∧ b < 0x1011C ∧ b % 4 = 0) ∨ b ∈ (List.range 17).map (fun k => atStn k Reg.colCntGlitch)) then 0
    else s.reg b := by
  unfold State.clearCol
  rw [bitAt_zero]
  by_cases hv : v % 2 = 1
  · simp only [hv, if_true, true_and, reg_zeroGlitch, reg_zeroRun s 7 (a := Reg.colCntCe) rfl]
    by_cases hg : b ∈ (List.range 17).map (fun k => atStn k Reg.colCntGlitch)
    · rw [if_pos hg, if_pos (.inr hg)]
    · rw [if_neg hg]
      exact if_congr (or_iff_left hg).symm rfl rfl
  · simp only [hv, if_false, false_and]

theorem regsOnly_clearCol (s : State) (v : Nat) : s.RegsOnly (s.clearCol v) := by
  unfold State.clearCol
  split_ifs
  · exact (regsOnly_zeroRun ..).trans (regsOnly_zeroGlitch ..)
  · exact .refl s

/-! ### The write itself -/

/-- A write of a register that responds OK leaves what its effect leaves in the registers, and its response as output. -/
theorem writeAccess_of_ok {s : State} {a : Nat} (src : Src) (hok : s.respCode a = 0) {f : State → State} (hf : s.RegsOnly (f s)) :
    (∀ b, (s.writeAccess src a f).reg b = (f s).reg b) ∧
      s.writeAccess src a f = { s with regs := (s.writeAccess src a f).regs, out := s.out ++ [.regRsp src a 0 0] } := by
  have hwrite : s.writeAccess src a f = (f s).emit (.regRsp src a 0 0) := by simp [State.writeAccess, hok]
  obtain ⟨r, hr⟩ := hf
  rw [hwrite, hr]
  exact ⟨fun _ => rfl, rfl⟩

theorem writeAccess_of_refused {s : State} {a : Nat} (src : Src) (hrefused : s.respCode a ≠ 0) (f : State → State) :
    s.writeAccess src a f = (s.count Reg.hubCntRegErr).emit (.regRsp src a 0 (s.respCode a)) := by
  simp [State.writeAccess, hrefused]

/-- A command that writes a clear register with an OK response clears the register's run. -/
theorem clearsRun_of_ok {i : Instr} {s : State} {src : Src} {v a first n : Nat} (hok : s.respCode a = 0) (hfirst : first % 4 = 0)
    (hexec : exec i s = .next (s.writeAccess src a (fun q => q.clearRun v first n))) : clearsRun i s src v a first n := by
  obtain ⟨hreg, hframe⟩ := writeAccess_of_ok src hok (f := fun q => q.clearRun v first n) (regsOnly_clearRun ..)
  refine ⟨_, hexec, fun hv b => ?_, fun hv b => ?_, hframe⟩
  · rw [hreg, reg_clearRun s v n hfirst]
    exact if_congr (and_iff_right hv) rfl rfl
  · rw [hreg, reg_clearRun s v n hfirst, if_neg (by omega)]

/-- The rows of the table of clear registers lie in extents that always respond, and their runs start at a register's address. -/
theorem responds_of_mem_clearTable {a first n : Nat} (h : (a, first, n) ∈ clearTable) (s : State) : s.respCode a = 0 ∧ first % 4 = 0 := by
  have hrows : ∀ p ∈ clearTable,
      (p.1 % 4 = 0 ∧ ¬ 0x400000 ≤ p.1 ∧ ¬ (0x11000 ≤ p.1 ∧ p.1 < 0x12100) ∧ inExtent p.1 = true) ∧ p.2.1 % 4 = 0 := by
    decide
  obtain ⟨⟨halign, hladle, hstation, hextent⟩, hfirst⟩ := hrows _ h
  refine ⟨?_, hfirst⟩
  unfold State.respCode
  rw [if_neg (by simpa using halign), if_neg hladle, if_neg hstation, if_pos hextent]

theorem clearsRun_of_mem_clearTable {i : Instr} {s : State} {src : Src} {v a first n : Nat} (h : (a, first, n) ∈ clearTable)
    (hexec : exec i s = .next (s.writeAccess src a (fun q => q.clearRun v first n))) : clearsRun i s src v a first n :=
  clearsRun_of_ok (responds_of_mem_clearTable h s).1 (responds_of_mem_clearTable h s).2 hexec

theorem exec_colCntClr (src : Src) (v : Nat) (s : State) :
    exec (.colCntClr src v) s = .next (s.writeAccess src Reg.colCntClr (fun q => q.clearCol v)) := rfl

theorem exec_ldlCntClr (src : Src) (p v : Nat) (s : State) : exec (.ldlCntClr src p v) s =
    .next (s.writeAccess src (atTile p Reg.ldlCntClr) (fun q => q.clearRun v (atTile p Reg.ldlCntOps) 27)) := rfl

/-- Settles O57: the hub's clear registers are the rows of one table; COL_CNT_CLR and a Ladle's have their own layouts. -/
theorem counterClears : Obligations.CounterClears := by
  unfold Obligations.CounterClears
  refine ⟨fun s src v => ?hub, fun src v s => ?col, fun src p v s _ hok => ?ladle, fun src p v s hrefused => ?refused⟩
  case hub =>
    and_intros <;> exact clearsRun_of_mem_clearTable (by decide) rfl
  case col =>
    obtain ⟨hreg, hframe⟩ := writeAccess_of_ok (a := Reg.colCntClr) src rfl (f := fun q => q.clearCol v) (regsOnly_clearCol s v)
    refine ⟨_, exec_colCntClr src v s, fun hv b => ?_, fun hv b => ?_, hframe⟩
    · rw [hreg, reg_clearCol]
      exact if_congr (and_iff_right hv) rfl rfl
    · rw [hreg, reg_clearCol, if_neg (by omega)]
  case ladle => exact clearsRun_of_ok hok (by simp only [atTile, Reg.ldlCntOps]; omega) (exec_ldlCntClr src p v s)
  case refused => rw [exec_ldlCntClr, writeAccess_of_refused src hrefused]

end Sys2Proof.Machine
end

section
/-! Seals and route digests (R169, R176, R179): the confirmation of a seal failure, a report of a route op, and the patrol. -/

namespace Sys2Proof.Machine

/-! ### Confirmations (R169) -/

theorem exec_sealConfirmation_of_find {s : State} {blk : Nat} {c : Confirm} (hfind : s.confirms.find? (fun x => x.blk == blk) = some c)
    (data : Bytes) (v : Nat) (reached : Bool) : exec (.sealConfirmation blk data v reached) s =
      .next ((if reached then ((s.retire (fun a => a == .confirm blk)).setBytes (blk * 4096) (slice data 0 4096)).setSb blk v
        else s.retire (fun a => a == .confirm blk)).confirm c reached) := by
  have hexec : exec (.sealConfirmation blk data v reached) s = execSealConfirmation blk data v reached s := rfl
  rw [hexec, execSealConfirmation, hfind]

/-! ### Reports of route ops (R179) -/

/-- The member of a routing op that a report tells of. -/
def Report.routeMember (r : Report) : RMember :=
  { opseq := r.d.opseq, send := r.d.kind == 6, sum := r.route, failed := r.verdict == .failed }

/-- The entry of a routing op that a report opens, at place `n` of the order of openings. -/
def Report.routeOpened (r : Report) (n : Nat) : RouteEnt :=
  { ctx := r.d.ctx, gen := r.d.gen, step := r.d.step, route := r.d.dimM, dimN := r.d.dimN, opened := n, members := [r.routeMember] }

/-- The entry of a routing op that a report has joined. -/
def RouteEnt.joined (e : RouteEnt) (r : Report) : RouteEnt :=
  { e with members := e.members ++ [r.routeMember], shape := e.shape || r.d.dimN != e.dimN }

theorem exec_routeReport_of_head {s : State} {r : Report} {rest : List Report} (hq : s.routeQ = r :: rest) :
    exec .routeReport s = .next (({ s with routeQ := rest } : State).routeTake r) := by
  have hexec : exec .routeReport s = execRouteReport s := rfl
  rw [hexec, execRouteReport, hq]

section
variable {s : State} {r : Report} {e : RouteEnt}

theorem putRoute_of_new (hnew : s.routes.find? (fun x => x.is e.ctx e.gen e.step e.route) = none) :
    s.putRoute e = { s with routes := s.routes ++ [e] } := by
  unfold State.putRoute
  rw [if_neg (by simpa using hnew)]

theorem routeTake_of_new (hnew : s.routes.find? (fun x => x.is r.d.ctx r.d.gen r.d.step r.d.dimM) = none) (hroom : s.openRoutes < 512) :
    s.routeTake r = { s with routes := s.routes ++ [r.routeOpened s.lidSeq], lidSeq := s.lidSeq + 1 } := by
  have hput := putRoute_of_new (e := r.routeOpened s.lidSeq) hnew
  simp only [Report.routeOpened, Report.routeMember] at hput
  simp only [State.routeTake, hnew, if_neg (Nat.not_le.2 hroom), hput]
  rfl

theorem routeTake_of_joining (hfind : s.routes.find? (fun x => x.is r.d.ctx r.d.gen r.d.step r.d.dimM) = some e) (hfull : e.full = false)
    (hopen : e.closed = false) (hroom : e.members.length + 1 < e.dimN) : s.routeTake r = s.putRoute (e.joined r) := by
  have hshort : ¬ e.dimN ≤ (e.members ++ [r.routeMember]).length := by
    rw [List.length_append]
    exact Nat.not_le.2 hroom
  unfold State.routeTake
  simp only [hfind]
  rw [if_neg (by simp [hfull]), if_neg (by simp [hopen])]
  exact if_neg hshort

/-- An entry with the key of one that the table holds takes its place. -/
theorem mem_routes_putRoute {x : RouteEnt} (hx : x ∈ s.routes) (hkey : x.is e.ctx e.gen e.step e.route = true) : e ∈ (s.putRoute e).routes := by
  unfold State.putRoute
  rw [if_pos (List.any_eq_true.2 ⟨x, hx, hkey⟩)]
  exact List.mem_map.2 ⟨x, hx, if_pos hkey⟩

theorem putRoute_frame (s : State) (e : RouteEnt) : s.putRoute e = { s with routes := (s.putRoute e).routes } := by
  unfold State.putRoute
  split_ifs <;> rfl

theorem RouteEnt.is_self (e : RouteEnt) : e.is e.ctx e.gen e.step e.route = true := by simp [RouteEnt.is]

end

/-! ### The patrol (R176) -/

/-- Completions of the block's own requests pass the filter uncounted. -/
theorem cflCompletes_of_own (s : State) (l : List MemReq) (h : ∀ x ∈ l, x.ctx = 0) : s.cflCompletes l = s := by
  induction l with
  | nil => rfl
  | cons r l ih =>
    have hpass : (s.cflComplete r.ctx r.gen).1 = s := by simp [State.cflComplete, h r List.mem_cons_self]
    have hcons : s.cflCompletes (r :: l) = (s.cflComplete r.ctx r.gen).1.cflCompletes l := rfl
    rw [hcons, hpass, ih fun x hx => h x (List.mem_cons_of_mem _ hx)]

/-- Retiring requests of the block itself changes the ports alone. -/
theorem retire_of_own {s : State} {p : Access → Bool} (h : ∀ x ∈ s.port0.all ++ s.port1.all, p x.acc = true → x.ctx = 0) :
    ∃ p0 p1, s.retire p = { s with port0 := p0, port1 := p1 } := by
  refine ⟨_, _, cflCompletes_of_own _ _ fun x hx => ?_⟩
  obtain ⟨hmem, hp⟩ := List.mem_filter.1 hx
  exact h x hmem hp

/-- A request of the block itself changes the ports, or counts as timed out at once. -/
theorem request_frame_of_own (s : State) (op : MemOp) (blk line len : Nat) {acc : Access} (hown : (s.accessCtx acc).1 = 0) :
    ∃ r p0 p1, s.request op blk line len acc = { s with regs := r, port0 := p0, port1 := p1 } := by
  cases hstall : s.bothStalled
  case true => exact ⟨_, s.port0, s.port1, if_pos hstall⟩
  case false =>
    obtain ⟨p0, p1, hreq⟩ := request_of_own hstall op blk line len hown
    exact ⟨s.regs, p0, p1, hreq⟩

/-- What does nothing on each of the blocks does nothing over them all. -/
theorem overBlocks_of_fixed {s : State} {f : State → Nat → State} {b n : Nat} (h : ∀ x, b ≤ x → x < b + n → f s x = s) :
    s.overBlocks f b n = s := by
  induction n generalizing b with
  | zero => rfl
  | succ n ih =>
    have hsucc : s.overBlocks f b (n + 1) = (f s b).overBlocks f (b + 1) n := rfl
    rw [hsucc, h b le_rfl (by omega), ih fun x h1 h2 => h x (by omega) (by omega)]

theorem patrolOne_of_unsealed {s : State} {b : Nat} (h : bcvSealed (s.sbOf b) = false) : s.patrolOne b = s := by
  simp [State.patrolOne, h]

theorem patrolOne_of_verified {s : State} {b : Nat} (hsealed : bcvSealed (s.sbOf b) = true) (hclean : bcvPoison (s.sbOf b) = false)
    (hout : s.anyOutput b = false) (hv : s.verify b (bcvGen (s.sbOf b)) (bcvFmt (s.sbOf b)) = .verified) :
    s.patrolOne b = s.count Reg.hubCntScrubBlocks := by
  have hcount : (s.count Reg.hubCntScrubBlocks).verify b (bcvGen (s.sbOf b)) (bcvFmt (s.sbOf b)) = .verified := hv
  simp [State.patrolOne, hsealed, hclean, hout, hcount]

/-- An access of the patrol. -/
def Access.isPatrol : Access → Bool
  | .patrol _ => true
  | _ => false

theorem Access.exists_of_isPatrol : ∀ {a : Access}, a.isPatrol = true → ∃ b, a = .patrol b
  | .patrol b, _ => ⟨b, rfl⟩

/-- The state in which the patrol has retired its last read and asked for the group `g`. -/
def State.patrolAsked (s : State) (g : Nat) : State :=
  (s.retire Access.isPatrol).request .read (g * 64) 0 64 (.patrol (g * 64))

theorem patrol_of_inside {s : State} (hon : s.bit Reg.hubScrubCtrl 0 = true) (hfirst : s.reg Reg.hubScrubFirst ≤ s.reg Reg.hubScrubPos)
    (hlast : s.reg Reg.hubScrubPos ≤ s.reg Reg.hubScrubLast) : s.patrol =
      ((s.patrolAsked (s.reg Reg.hubScrubPos)).overBlocks State.patrolOne (s.reg Reg.hubScrubPos * 64) 64).setReg Reg.hubScrubPos
        (if s.reg Reg.hubScrubPos = s.reg Reg.hubScrubLast then s.reg Reg.hubScrubFirst else s.reg Reg.hubScrubPos + 1) := by
  have hrange : ¬ s.reg Reg.hubScrubLast < s.reg Reg.hubScrubFirst := by omega
  simp only [State.patrol, hon, hrange, hfirst, hlast, Bool.true_eq_false, or_self, and_self, if_true, if_false]
  rfl

theorem patrol_of_off {s : State} (hoff : s.bit Reg.hubScrubCtrl 0 = false) : s.patrol = s := if_pos (.inl hoff)

theorem patrolAsked_frame {s : State} (hown : ∀ x ∈ s.port0.all ++ s.port1.all, (∃ b, x.acc = .patrol b) → x.ctx = 0) (g : Nat) :
    (∃ r p0 p1, s.patrolAsked g = { s with regs := r, port0 := p0, port1 := p1 }) ∧
      ∀ a, a ≠ Reg.hubCntMemTimeout → (s.patrolAsked g).reg a = s.reg a := by
  obtain ⟨p0, p1, hretire⟩ := retire_of_own (s := s) (p := Access.isPatrol) fun x hx hp => hown x hx (Access.exists_of_isPatrol hp)
  unfold State.patrolAsked
  rw [hretire]
  exact ⟨request_frame_of_own _ _ _ _ _ rfl, fun a ha => reg_request_of_ne _ _ _ _ _ _ ha⟩

/-- Settles O22: each command through its own lemma above. -/
theorem confirmationsPatrolAndRoutes : Obligations.ConfirmationsPatrolAndRoutes := by
  unfold Obligations.ConfirmationsPatrolAndRoutes
  refine ⟨fun s u blk data v c hfind hlen hv hu => ?confirm,
    fun s r rest hq => ⟨fun hnew hroom => ?opens, fun e hfind hfull hopen hroom => ?joins⟩,
    fun s hon hfirst hlast hunsealed hown => ?patrol, fun s hoff => ?off, fun s b => patrolOne_of_verified⟩
  case confirm =>
    subst hu
    refine ⟨?_, ?_, exec_sealConfirmation_of_find hfind data v false⟩
    · rw [exec_sealConfirmation_of_find hfind, slice_of_length hlen, if_pos rfl]
    · rw [sbOf_setSb, if_pos rfl, Nat.mod_eq_of_lt hv]
  case opens =>
    have htake := routeTake_of_new (s := { s with routeQ := rest }) hnew hroom
    refine ⟨_, r.routeOpened s.lidSeq, (exec_routeReport_of_head hq).trans (congrArg _ htake), ?_, RouteEnt.is_self _, rfl, rfl, rfl, rfl⟩
    exact List.mem_append_right _ (List.mem_singleton_self _)
  case joins =>
    have htake := routeTake_of_joining (s := { s with routeQ := rest }) hfind hfull hopen hroom
    refine ⟨_, e.joined r, (exec_routeReport_of_head hq).trans (congrArg _ htake), ?_, ?_, hopen, putRoute_frame ..⟩
    · exact mem_routes_putRoute (List.mem_of_find?_eq_some hfind) (RouteEnt.is_self e)
    · exact List.map_append
  case patrol =>
    obtain ⟨⟨r, p0, p1, hframe⟩, hreg⟩ := patrolAsked_frame hown (s.reg Reg.hubScrubPos)
    have hsb (b : Nat) : (s.patrolAsked (s.reg Reg.hubScrubPos)).sbOf b = s.sbOf b := by rw [hframe]; rfl
    have hblocks := overBlocks_of_fixed (f := State.patrolOne) (n := 64)
      fun b h1 h2 => patrolOne_of_unsealed ((congrArg bcvSealed (hsb b)).trans (hunsealed b h1 h2))
    have hpatrol := patrol_of_inside hon hfirst hlast
    rw [hblocks] at hpatrol
    have hexec : exec .patrolRead s = .next s.patrol := rfl
    refine ⟨_, hexec.trans (congrArg _ hpatrol), (reg_setReg ..).trans (if_pos rfl), fun a hpos htime => ?_, ?_⟩
    · rw [reg_setReg, if_neg (Ne.symm hpos), hreg a htime]
    · rw [hframe]
      rfl
  case off =>
    have hexec : exec .patrolRead s = .next s.patrol := rfl
    rw [hexec, patrol_of_off hoff]

end Sys2Proof.Machine
end

section
/-! Jobs of the Mortar on its lanes (R188 to R194, R198, R202, R205): what a lane reads back, a job's start with its fetches, and the
ends of a sample that agrees and of an arbitration. -/

namespace Sys2Proof.Machine

/-! ### Lanes -/

theorem setAt_eq_set {α : Type} (l : List α) (k : Nat) (v : α) : setAt l k v = l.set k v := by
  induction l generalizing k with
  | nil => rfl
  | cons x t ih =>
    cases k with
    | zero => rfl
    | succ k => exact congrArg (x :: ·) (ih k)

theorem lane_setLane_same {s : State} {l : Nat} (hl : l < s.lanes.length) (v : Lane) : (s.setLane l v).lane l = v := by
  simp [State.lane, State.setLane, setAt_eq_set, hl]

theorem lane_setLane_of_ne (s : State) {l m : Nat} (h : l ≠ m) (v : Lane) : (s.setLane l v).lane m = s.lane m := by
  simp [State.lane, State.setLane, setAt_eq_set, List.getElem?_set_ne h]

/-! ### What a job's fetches change (R193, R452) -/

/-- `t` is `s` after requests on the memory ports: those that wait there, the counts of the completion filter and the counter of
requests that time out at once may differ, nothing else. -/
def State.Requests (s t : State) : Prop := ∃ r p0 p1 f, t = { s with regs := r, port0 := p0, port1 := p1, cfl := f }

namespace State.Requests

theorem refl (s : State) : s.Requests s := ⟨s.regs, s.port0, s.port1, s.cfl, rfl⟩

theorem trans {s t u : State} (h1 : s.Requests t) (h2 : t.Requests u) : s.Requests u := by
  obtain ⟨_, _, _, _, rfl⟩ := h1
  obtain ⟨r, p0, p1, f, rfl⟩ := h2
  exact ⟨r, p0, p1, f, rfl⟩

theorem requestReads (s : State) (blk : Nat) (acc : Access) (n : Nat) : s.Requests (s.requestReads blk acc n) := by
  induction n generalizing s blk with
  | zero => exact refl s
  | succ n ih => exact (show s.Requests _ from request_frame ..).trans (ih ..)

theorem fetchBlocks (s : State) (l base : Nat) (offs : List Nat) : s.Requests (s.fetchBlocks l base offs) := by
  induction offs generalizing s with
  | nil => exact refl s
  | cons off offs ih => exact (requestReads ..).trans (ih _)

theorem fetchRegions (s : State) (l : Nat) (regions : List (Region × List Nat)) : s.Requests (s.fetchRegions l regions) := by
  induction regions generalizing s with
  | nil => exact refl s
  | cons p regions ih => exact (fetchBlocks ..).trans (ih _)

end State.Requests

/-! ### MORTAR_JOB_START (R193, R198) -/

/-- Lane `l` has taken job `j` out of the queue, and with it the turn of R198; nothing is fetched yet. -/
def State.jobTaken (s : State) (l : Nat) (j : Job) : State :=
  { s.setLane l { s.lane l with job := some j } with queue := s.queue.filter (fun x => x.id != j.id), turn := s.turnAfter l }

section
variable {s : State} {l : Nat} {j : Job}

theorem requests_runOn (hkind : j.kind ≠ .selfTest) : (s.jobTaken l j).Requests (s.runOn l j) := by
  unfold State.runOn
  rw [if_neg (by simpa using hkind)]
  exact (State.Requests.fetchRegions ..).trans (.requestReads ..)

theorem jobStart_of_head {rest : List Job} (hq : s.queue = j :: rest) (hkind : j.kind ≠ .selfTest) (hlane : s.laneFor j = some l)
    (htime : j.kind = .arb ∨ s.inTime j = true) : s.jobStart l = s.runOn l j := by
  simp [State.jobStart, hq, hkind, hlane, htime]

/-- With no lane service that waits, the start of a job ends none. -/
theorem exec_mortarJobStart_of_head {rest : List Job} (hq : s.queue = j :: rest) (hkind : j.kind ≠ .selfTest)
    (hlane : s.laneFor j = some l) (htime : j.kind = .arb ∨ s.inTime j = true) (hsvc : s.laneSvc = []) :
    exec (.mortarJobStart l) s = .next (s.runOn l j) := by
  have hexec : exec (.mortarJobStart l) s = .next ((s.jobStart l).endServices (s.jobStart l).laneSvc) := rfl
  have hnone : (s.runOn l j).laneSvc = [] := by
    obtain ⟨_, _, _, _, hrun⟩ := requests_runOn (s := s) (l := l) hkind
    rw [hrun]
    exact hsvc
  rw [hexec, jobStart_of_head hq hkind hlane htime, hnone]
  rfl

/-! ### MORTAR_JOB_END (R193, R194, R202, R205) -/

theorem exec_mortarJobEnd_of_job (hjob : (s.lane l).job = some j) (hkind : j.kind ≠ .selfTest) (hstall : s.bothStalled = false)
    (halves : Bool) : exec (.mortarJobEnd l halves) s = .next ((s.laneFree l).jobEnd j l halves) := by
  have hexec : exec (.mortarJobEnd l halves) s = execMortarJobEnd l halves s := rfl
  simp [hexec, execMortarJobEnd, hjob, hkind, hstall]

section
variable {r : Recipe} (hr : s.heldRecipe j = some r) (hfetch : s.badFetch j = none)
  (hcopy : s.rcpGood (s.rcpBlk j.op.d.slot) (ceilDiv (s.rcp j.op.d.slot).len 4096) = true)
include hr hfetch hcopy

/-- The blocks of a sample's job verify: its run decides (R202). -/
theorem jobEnd_of_sample (hkind : j.kind = .sample) (halves : Bool) :
    s.jobEnd j l halves = s.sampleEnd j l halves (s.runOut j r) := by
  simp [State.jobEnd, hr, hfetch, hcopy, hkind]

/-- The blocks of an arbitration's job verify and the lane's halves agree: it ends with its decision (R205). -/
theorem jobEnd_of_arb {a : Arb} (hkind : j.kind = .arb) (ha : s.arbs.find? (fun x => x.job.id == j.id) = some a) :
    s.jobEnd j l true = (s.took (j.op.d.dimM * j.op.d.dimN)).endArb j.id l (arbDecide s.free a.rep (s.runOut j r)) := by
  simp [State.jobEnd, hr, hfetch, hcopy, hkind, ha]

end

/-- Row 3 of R202: a first run that agrees with the engine in every bit and in its flags. -/
theorem sampleEnd_of_agreeing {x : RunOut} (hfirst : j.first = none) (hlive : j.ignored = false)
    (hagree : (x.flagsOk && j.els.all x.bits) = true) :
    s.sampleEnd j l true x = ((s.count Reg.mtrCntSamples).count Reg.mtrCntSmpAgree).endSample j true := by
  simp only [State.sampleEnd, hfirst, hlive, hagree, Bool.not_true, Bool.false_eq_true, if_true, if_false]

end

/-- Settles O20: a job's start by what its fetches leave as it was, its end by the run whose blocks verify. -/
theorem mortarRunsJobs : Obligations.MortarRunsJobs := by
  unfold Obligations.MortarRunsJobs
  refine ⟨fun s l j rest hq hkind hlane htime hsvc hl => ?start,
    fun s u l j r hjob hkind hlive hfirst hstall hu hr hfetch hcopy hagree => ?sample,
    fun s u l j r a hjob hkind hstall hu hr hfetch hcopy ha => ?arb⟩
  case start =>
    obtain ⟨regs, p0, p1, f, hrun⟩ := requests_runOn (s := s) (l := l) hkind
    refine ⟨_, exec_mortarJobStart_of_head hq hkind hlane htime hsvc, ?_⟩
    rw [hrun]
    refine ⟨?_, rfl, rfl, fun m hm => lane_setLane_of_ne s (Ne.symm hm) _, rfl⟩
    exact congrArg Lane.job (lane_setLane_same hl _)
  case sample =>
    subst hu
    rw [exec_mortarJobEnd_of_job hjob (by simp [hkind]) hstall, jobEnd_of_sample hr hfetch hcopy hkind,
      sampleEnd_of_agreeing hfirst hlive hagree]
  case arb =>
    subst hu
    rw [exec_mortarJobEnd_of_job hjob (by simp [hkind]) hstall, jobEnd_of_arb hr hfetch hcopy hkind ha]

end Sys2Proof.Machine
end

section
/-! FENCE of the last lane in service (R192, R212, R227, R228): the steps that it abandons reach the jobs of other lanes. -/

namespace Sys2Proof.Machine

/-- Fixed mode: lane 0 alone is in service, and idle. Lane 1, fenced by row 6 of R202 while it ran a job, still runs that sample of the
open step 0 of context 1; another sample of the step is queued. -/
def lastLaneIdle : State :=
  { fixed := true, ctxs := [(1, { st := .live, anyStep := false, slots := [{ st := .open_ }, {}, {}, {}] })]
    lanes := [{}, { fenced := true, job := some { ctx := 1, gen := 1 } }, { fenced := true }, { fenced := true }]
    queue := [{ id := 1, ctx := 1, gen := 1, opseq := 1 }], nextJob := 2 }

/-- FENCE of lane 0 leaves the queued sample without a lane, its step is abandoned, and so lane 1's job is ignored from then on. -/
theorem exec_fence_lastLaneIdle : ∃ t, exec (.mtrLaneCtrlFence .port (2 ^ 0)) lastLaneIdle = .next t ∧
    (t.lane 1).job = some { ctx := 1, gen := 1, ignored := true } := ⟨_, rfl, rfl⟩

/-- Refutes O56: its second clause says that FENCE of an idle lane leaves every other lane as it was. In Fixed mode FENCE of the last lane in
service abandons the step of each waiting sample (R192), which marks the jobs of that step on other lanes as ignored (R227). -/
theorem not_laneControlAndSieveSeed : ¬ Obligations.LaneControlAndSieveSeed := by
  unfold Obligations.LaneControlAndSieveSeed
  rintro ⟨-, hidle, -⟩
  obtain ⟨t, hexec, -, -, hothers⟩ := hidle lastLaneIdle .port 0 (by decide) rfl rfl rfl
  obtain ⟨u, hfence, hjob⟩ := exec_fence_lastLaneIdle
  obtain rfl : t = u := Host.Outcome.next.inj (hexec.symm.trans hfence)
  have hkept : (t.lane 1).job = some { ctx := 1, gen := 1 } := congrArg Lane.job (hothers 1 (by decide))
  rw [hkept] at hjob
  exact absurd hjob (by decide)

end Sys2Proof.Machine
end

section
/-! Reports of the Ladles at the Lid (R203, R209, R220, R224, R226, R227): what a step's slot and an op's record read back, an op that
becomes CLEAR at its report, and one whose failure halts its step. -/

namespace Sys2Proof.Machine

/-! ### Slots of a context and records of a slot -/

theorem ctx_setSlot_same (s : State) (c k : Nat) (v : Slot) :
    (s.setSlot c k v).ctx c = { s.ctx c with slots := (s.ctx c).slots.set k v } := by
  simp [State.setSlot, setAt_eq_set]

theorem ctx_setSlot_of_ne (s : State) {c d : Nat} (h : d ≠ c) (k : Nat) (v : Slot) : (s.setSlot c k v).ctx d = s.ctx d := by
  simp [State.setSlot, Ne.symm h]

theorem length_slots_setSlot (s : State) (c k : Nat) (v : Slot) :
    ((s.setSlot c k v).ctx c).slots.length = (s.ctx c).slots.length := by
  simp [ctx_setSlot_same]

theorem slot_setSlot_same {s : State} {c k : Nat} (hk : k < (s.ctx c).slots.length) (v : Slot) : (s.setSlot c k v).slot c k = v := by
  simp [State.slot, ctx_setSlot_same, Ctx.slot, hk]

theorem slot_setSlot_of_ne (s : State) (c : Nat) {k m : Nat} (h : k ≠ m) (v : Slot) : (s.setSlot c k v).slot c m = s.slot c m := by
  simp [State.slot, ctx_setSlot_same, Ctx.slot, List.getElem?_set_ne h]

/-- The slot that holds a step is one of the context's own. -/
theorem lt_length_of_stepSlot {e : Ctx} {n k : Nat} (h : e.stepSlot n = some k) : k < e.slots.length := by
  by_contra hout
  have hnone : e.slot k = {} := by simp [Ctx.slot, List.getElem?_eq_none (Nat.not_lt.1 hout)]
  have hused := List.find?_some h
  rw [hnone] at hused
  exact absurd hused (by simp [Slot.used])

/-- A step stays in the slot that holds it while no slot's step changes. -/
theorem stepSlot_setSlot {s : State} {c k : Nat} {v : Slot} (hk : k < (s.ctx c).slots.length) (hst : v.st = (s.slot c k).st)
    (hstep : v.step = (s.slot c k).step) (n : Nat) : ((s.setSlot c k v).ctx c).stepSlot n = (s.ctx c).stepSlot n := by
  have hslot (m : Nat) : (((s.setSlot c k v).slot c m).used && ((s.setSlot c k v).slot c m).step == n) =
      ((s.slot c m).used && (s.slot c m).step == n) := by
    by_cases hm : k = m
    · subst hm
      rw [slot_setSlot_same hk, Slot.used, hst, hstep, Slot.used]
    · rw [slot_setSlot_of_ne s c hm]
  exact congrArg (fun p => (List.range 4).find? p) (funext hslot)

/-- A change that leaves descriptors as they are reaches the record of its OPSEQ. -/
theorem op_onOp {sl : Slot} {q : Nat} {o : OpRec} (hop : sl.op q = some o) {f : OpRec → OpRec} (hf : ∀ p, (f p).d = p.d) :
    (sl.onOp q f).op q = some (f o) := by
  have hkey : ((fun p : OpRec => p.d.opseq == q) ∘ fun p => if p.d.opseq == q then f p else p) = fun p => p.d.opseq == q := by
    funext p
    dsimp only [Function.comp]
    split <;> simp [hf]
  have hq : o.d.opseq == q := List.find?_some (p := fun p : OpRec => p.d.opseq == q) hop
  have hfind : sl.ops.find? (fun p => p.d.opseq == q) = some o := hop
  rw [Slot.onOp, Slot.op, List.find?_map, hkey, hfind, Option.map_some, if_pos hq]

/-! ### What a report leaves in its step's slot -/

/-- A slot once a report has entered the record that waits for it. -/
def Slot.entered (sl : Slot) (r : Report) : Slot :=
  if sl.ops.any (fun o => o.d.opseq == r.d.opseq && ! o.notAccepted && o.verdict.isNone && o.tile == r.tile) then sl.onOp r.d.opseq r.into
  else sl

/-- A slot once a report has entered the step's counts, too. -/
def Slot.reported (sl : Slot) (r : Report) : Slot :=
  { sl.entered r with counts := addCounts (sl.entered r).counts r.counts }

/-- Whatever record waits for a report, no descriptor changes. -/
theorem exists_entered_eq (sl : Slot) (r : Report) : ∃ f, (∀ p, (f p).d = p.d) ∧ sl.entered r = sl.onOp r.d.opseq f := by
  unfold Slot.entered
  split
  · exact ⟨r.into, fun _ => rfl, rfl⟩
  · exact ⟨id, fun _ => rfl, by simp [Slot.onOp]⟩

section
variable {sl : Slot} {r : Report} {o : OpRec} (hop : sl.op r.d.opseq = some o)
include hop

theorem entered_of_waiting (hacc : o.notAccepted = false) (hwait : o.verdict = none) (htile : o.tile = r.tile) :
    sl.entered r = sl.onOp r.d.opseq r.into := by
  have hq := List.find?_some (p := fun p : OpRec => p.d.opseq == r.d.opseq) hop
  exact if_pos (List.any_eq_true.2 ⟨o, List.mem_of_find?_eq_some hop, by simpa [hacc, hwait, htile] using hq⟩)

theorem exists_op_reported : ∃ p, (sl.reported r).op r.d.opseq = some p := by
  obtain ⟨f, hf, henter⟩ := exists_entered_eq sl r
  have hsame : (sl.reported r).op r.d.opseq = (sl.entered r).op r.d.opseq := rfl
  exact ⟨f o, by rw [hsame, henter, op_onOp hop hf]⟩

/-- Of an op with a record, a failing report pins the slot that it names. -/
theorem tookReport_of_op : sl.tookReport r =
    if sl.live && (r.verdict == .failed || r.verdict == .abandoned) then (sl.reported r).pin r.d else sl.reported r := by
  obtain ⟨p, hp⟩ := exists_op_reported hop
  have htook : sl.tookReport r = if sl.live && (r.verdict == .failed || r.verdict == .abandoned) then
      (if ((sl.reported r).op r.d.opseq).isSome then sl.reported r
        else (sl.reported r).putOp { d := r.d, tile := r.tile, tag := r.tag, st := .failed, notAccepted := true }).pin r.d
      else sl.reported r := rfl
  rw [htook, if_pos (Option.isSome_of_eq_some hp)]

theorem tookReport_of_pass (hacc : o.notAccepted = false) (hwait : o.verdict = none) (htile : o.tile = r.tile) (hpass : r.verdict = .pass) :
    sl.tookReport r = { sl.onOp r.d.opseq r.into with counts := addCounts sl.counts r.counts } := by
  rw [tookReport_of_op hop, Slot.reported, entered_of_waiting hop hacc hwait htile, if_neg (by simp [hpass])]
  rfl

/-- A report of an op with a record leaves its step, and the state and the replays of that, as they were. -/
theorem tookReport_frame : (sl.tookReport r).st = sl.st ∧ (sl.tookReport r).step = sl.step ∧ (sl.tookReport r).replays = sl.replays ∧
    (sl.tookReport r).ops = (sl.entered r).ops := by
  have hpin (x : Slot) : (x.pin r.d).st = x.st ∧ (x.pin r.d).step = x.step ∧ (x.pin r.d).replays = x.replays ∧ (x.pin r.d).ops = x.ops := by
    unfold Slot.pin
    split <;> exact ⟨rfl, rfl, rfl, rfl⟩
  obtain ⟨f, -, henter⟩ := exists_entered_eq sl r
  have hrep : (sl.reported r).st = sl.st ∧ (sl.reported r).step = sl.step ∧ (sl.reported r).replays = sl.replays ∧
      (sl.reported r).ops = (sl.entered r).ops := by
    rw [Slot.reported, henter]
    exact ⟨rfl, rfl, rfl, rfl⟩
  rw [tookReport_of_op hop]
  split
  · obtain ⟨hst, hstep, hreplays, hops⟩ := hpin (sl.reported r)
    rwa [hst, hstep, hreplays, hops]
  · exact hrep

end

/-! ### An op becomes CLEAR (R209, R224) -/

/-- An op of a slot has added its contribution, which makes the step's escape value `e` (R209). -/
def Slot.escapedOp (sl : Slot) (q e : Nat) : Slot := { sl.onOp q (fun p => { p with escaped := true }) with escape := e }

section
variable {s : State} {c k q : Nat} {o : OpRec} (hop : (s.slot c k).op q = some o)
include hop

theorem addEscape_of_op (hnew : o.escaped = false) (hroute : o.d.isRoute = false) : ∃ e total, s.addEscape c k q =
    { s.setSlot c k ((s.slot c k).escapedOp q e) with escTotal := total } := by
  simp only [State.addEscape, hop, hnew, hroute, Bool.or_false, Bool.false_eq_true, if_false]
  exact ⟨_, _, rfl⟩

/-- An op without a converter max, of a context that is not paired, becomes CLEAR with nothing else (R224). -/
theorem settle_of_clearable (hclear : o.clearable = true) (hcmx : o.cmx = none) (hpair : s.pairing c = none) :
    s.settle c k q = s.setSlot c k ((s.slot c k).onOp q fun p => { p with st := .clear }) := by
  have hflush (u : State) (hu : u.pairings = s.pairings) : u.pairForm c k q = u := by
    have hnone : u.pairing c = none := by rwa [State.pairing, hu]
    simp [State.pairForm, hnone]
  simp only [State.settle, hop, hclear, hcmx, if_true]
  exact hflush _ rfl

end

/-- The Sieve does not select a passing op that nobody asked a sample of, and no halt voids it: it adds its contribution (R195, R209). -/
theorem passOp_of_unselected {s : State} {c k : Nat} {o : OpRec} (hvoid : (s.slot c k).voids o.d.opseq = false)
    (hsel : (s.slot c k).sieve.selects o.d (s.rcp o.d.slot).recipe o.compared o.resOff = false) (hasked : o.asked = []) :
    s.passOp c k o = (s.addEscape c k o.d.opseq).settle c k o.d.opseq := by
  simp [State.passOp, hvoid, hsel, hasked, State.askedSamples]

/-- An op that nothing holds adds its contribution and becomes CLEAR; beside its step and ESC_TOTAL nothing changes. -/
theorem settle_addEscape {s : State} {c k q : Nat} {o : OpRec} (hk : k < (s.ctx c).slots.length) (hop : (s.slot c k).op q = some o)
    (hnew : o.escaped = false) (hroute : o.d.isRoute = false) (hclear : o.clearable = true) (hcmx : o.cmx = none)
    (hpair : s.pairing c = none) : ∃ t, (s.addEscape c k q).settle c k q = t ∧
      (t.slot c k).op q = some { o with escaped := true, st := .clear } ∧ (∀ d, d ≠ c → t.ctx d = s.ctx d) ∧
      t = { s with ctxs := t.ctxs, escTotal := t.escTotal } := by
  obtain ⟨e, total, hesc⟩ := addEscape_of_op hop hnew hroute
  have hslot : (s.addEscape c k q).slot c k = (s.slot c k).escapedOp q e := by
    rw [hesc]
    exact slot_setSlot_same hk _
  have hk' : k < ((s.addEscape c k q).ctx c).slots.length := by
    rw [hesc]
    exact (length_slots_setSlot s c k _).symm ▸ hk
  have hop' : ((s.addEscape c k q).slot c k).op q = some { o with escaped := true } := by
    rw [hslot]
    exact op_onOp (f := fun p => { p with escaped := true }) hop fun _ => rfl
  have hpair' : (s.addEscape c k q).pairing c = none := by
    rw [hesc]
    exact hpair
  refine ⟨_, settle_of_clearable hop' hclear hcmx hpair', ?_, fun d hd => ?_, ?_⟩
  · rw [slot_setSlot_same hk']
    exact op_onOp hop' fun _ => rfl
  · rw [ctx_setSlot_of_ne _ hd, hesc]
    exact ctx_setSlot_of_ne s hd k _
  · rw [hesc]
    rfl

/-! ### A detected error halts a step (R220, R226, R227) -/

section
variable {s : State} {c k q : Nat}

/-- A halt changes no context but by the step that it halts. -/
theorem ctx_halt (origin d : Nat) : (s.halt c k origin).ctx d =
    (s.setSlot c k { s.slot c k with st := .halted, prev := (s.slot c k).st, origin := origin, ack := none }).ctx d := by
  have hdrop (u : State) (n : Nat) : (u.dropSamples c n origin).ctx d = u.ctx d := rfl
  have hgate (u : State) (n : Nat) : (u.gate c gkHalt 0 0 n 0 0).ctx d = u.ctx d := by
    unfold State.gate State.sendPeer
    dsimp only
    split <;> rfl
  exact (hdrop ..).trans (hgate ..)

theorem failOp_of_op {o : OpRec} (hop : (s.slot c k).op q = some o) :
    s.failOp c k q = s.setSlot c k ((s.slot c k).onOp q fun p => { p with st := .failed }) := by
  simp [State.failOp, hop]

/-- A detected error of an op of an open step that has a replay left. -/
theorem detect_of_open {o : OpRec} (hop : (s.slot c k).op q = some o) (hk : k < (s.ctx c).slots.length) (hopen : (s.slot c k).st = .open_)
    (hreplay : 0 < (s.slot c k).replays) (origin : Nat) : s.detect c k q origin =
      (s.setSlot c k ((s.slot c k).onOp q fun p => { p with st := .failed })).halt c k origin := by
  have hst : ((s.slot c k).onOp q fun p => { p with st := .failed }).st = .open_ := hopen
  have hrep : 0 < ((s.slot c k).onOp q fun p => { p with st := .failed }).replays := hreplay
  simp only [State.detect, failOp_of_op hop, slot_setSlot_same hk, hst, hrep, if_true]

/-- It leaves its op FAILED and its step HALTED, with the origin that it gives. -/
theorem detect_halts {o : OpRec} (hop : (s.slot c k).op q = some o) (hk : k < (s.ctx c).slots.length) (hopen : (s.slot c k).st = .open_)
    (hreplay : 0 < (s.slot c k).replays) (origin : Nat) : ∃ t, s.detect c k q origin = t ∧ (t.slot c k).st = .halted ∧
      (t.slot c k).prev = .open_ ∧ (t.slot c k).origin = origin ∧ ((t.slot c k).op q).map OpRec.st = some .failed ∧
      (∀ d, d ≠ c → t.ctx d = s.ctx d) := by
  let failed := (s.slot c k).onOp q fun p => { p with st := .failed }
  have hlen : k < ((s.setSlot c k failed).ctx c).slots.length := (length_slots_setSlot s c k failed).symm ▸ hk
  have hslot : ((s.setSlot c k failed).halt c k origin).slot c k =
      { failed with st := .halted, prev := failed.st, origin := origin, ack := none } := by
    rw [State.slot, ctx_halt, ← State.slot, slot_setSlot_same hlen, slot_setSlot_same hk]
  refine ⟨_, detect_of_open hop hk hopen hreplay origin, ?_, ?_, ?_, ?_, fun d hd => ?_⟩
  · rw [hslot]
  · rw [hslot]
    exact hopen
  · rw [hslot]
  · rw [hslot]
    exact congrArg (Option.map OpRec.st) (op_onOp (f := fun p => { p with st := .failed }) hop fun _ => rfl)
  · rw [ctx_halt, ctx_setSlot_of_ne _ hd, ctx_setSlot_of_ne _ hd]

theorem detectStep_of_stepSlot {gen step : Nat} (hlive : (s.ctx c).st = .live) (hgen : (s.ctx c).gen = gen)
    (hstep : (s.ctx c).stepSlot step = some k) (origin : Nat) : s.detectStep c gen step q origin = s.detect c k q origin := by
  simp [State.detectStep, hlive, hgen, hstep]

end

/-- A breach of the tap contract alone is a detected error with the op as its origin (R226). -/
theorem failedOp_of_tap {r : Report} (hfound : r.found = [.tap]) (hseals : r.seals = []) (hpoison : r.poison = []) (s : State)
    (k : Option Nat) : s.failedOp r k = s.detectStep r.d.ctx r.d.gen r.d.step r.d.opseq r.d.opseq := by
  have harb : s.arbitrateOp r k = s := by
    unfold State.arbitrateOp
    dsimp only
    split
    · simp [hfound, Finding.arbitrated]
    · rfl
  simp [State.failedOp, harb, hfound, hseals, hpoison, Finding.direct, State.confirmAll, State.poisonedInputs]

/-! ### LADLE_REPORT -/

theorem exec_ladleReport_of_head {s : State} {r : Report} {rest : List Report} (hq : s.reports = r :: rest) :
    exec .ladleReport s = .next (({ s with reports := rest } : State).takeReport r) := by
  have hexec : exec .ladleReport s = execLadleReport s := rfl
  rw [hexec, execLadleReport, hq]

/-- The state in which the slot of a report's step has taken it. -/
def State.slotTook (s : State) (r : Report) (k : Nat) : State := s.setSlot r.d.ctx k ((s.slot r.d.ctx k).tookReport r)

/-- What makes an op CLEAR at its report: it passes, it waits for the report, the Sieve does not select it, and nothing else holds it (R195,
R209, R224). -/
structure State.ClearedBy (s : State) (r : Report) (k : Nat) (o : OpRec) : Prop where
  pass : r.verdict = .pass
  desc : o.d = r.d
  accepted : o.notAccepted = false
  waiting : o.verdict = none
  tile : o.tile = r.tile
  fresh : o.escaped = false
  clearable : (r.into o).clearable = true
  unasked : o.asked = []
  noMax : r.cmx = none
  unpaired : s.pairing r.d.ctx = none
  unselected : (s.slot r.d.ctx k).sieve.selects r.d (s.rcp r.d.slot).recipe (r.compared && ! r.resOff) r.resOff = false

theorem takeReport_of_stale {s : State} {r : Report} (hgen : (s.ctx r.d.ctx).gen ≠ r.d.gen)
    (htear : s.tearing r.d.ctx r.d.gen = none) : s.takeReport r = s := by
  simp [State.takeReport, hgen, htear]

section
variable {s : State} {r : Report} {k : Nat} (hctx : r.d.ctx ≠ 0) (hgen : (s.ctx r.d.ctx).gen = r.d.gen)
  (hstep : (s.ctx r.d.ctx).stepSlot r.d.step = some k) (hroute : r.d.isRoute = false)
include hctx hgen hstep hroute

theorem takeReport_of_failed (hfail : r.verdict = .failed) : s.takeReport r = (s.slotTook r k).failedOp r (some k) := by
  simp only [State.takeReport, hctx, hgen, hstep, hroute, hfail, ne_eq, not_true_eq_false, or_self, if_false, Bool.false_and,
    Bool.false_eq_true]
  rfl

theorem takeReport_of_pass {o : OpRec} (hpass : r.verdict = .pass) (hop : ((s.slotTook r k).slot r.d.ctx k).op r.d.opseq = some o)
    (hlive : ((s.slotTook r k).slot r.d.ctx k).live = true) (hacc : o.notAccepted = false) :
    s.takeReport r = (s.slotTook r k).passOp r.d.ctx k o := by
  have htook : s.setSlot r.d.ctx k (((s.ctx r.d.ctx).slot k).tookReport r) = s.slotTook r k := rfl
  simp only [State.takeReport, hctx, hgen, hstep, hroute, hpass, htook, hop, hlive, hacc, ne_eq, not_true_eq_false, or_self, if_false,
    Bool.false_and, Bool.false_eq_true, Option.bind_some, Option.map_some, Bool.not_false, Bool.and_self, if_true]

variable (hlive : (s.ctx r.d.ctx).st = .live) (hopen : (s.slot r.d.ctx k).st = .open_) {o : OpRec}
  (hop : (s.slot r.d.ctx k).op r.d.opseq = some o)
include hopen hop

/-- The op adds its escape contribution and becomes CLEAR; beside its step and ESC_TOTAL nothing changes. -/
theorem takeReport_clears (h : s.ClearedBy r k o) :
    ∃ t, s.takeReport r = t ∧ (t.slot r.d.ctx k).op r.d.opseq = some { r.into o with escaped := true, st := .clear } ∧
      (∀ c, c ≠ r.d.ctx → t.ctx c = s.ctx c) ∧ t = { s with ctxs := t.ctxs, escTotal := t.escTotal } := by
  obtain ⟨hpass, hdesc, hacc, hwait, htile, hfresh, hclear, hasked, hcmx, hpair, hsel⟩ := h
  have hk := lt_length_of_stepSlot hstep
  have hlen : k < ((s.slotTook r k).ctx r.d.ctx).slots.length := (length_slots_setSlot ..).symm ▸ hk
  have hslot : (s.slotTook r k).slot r.d.ctx k =
      { (s.slot r.d.ctx k).onOp r.d.opseq r.into with counts := addCounts (s.slot r.d.ctx k).counts r.counts } :=
    (slot_setSlot_same hk _).trans (tookReport_of_pass hop hacc hwait htile hpass)
  have hinto : ((s.slotTook r k).slot r.d.ctx k).op r.d.opseq = some (r.into o) := by
    rw [hslot]
    exact op_onOp hop fun _ => rfl
  have hst : ((s.slotTook r k).slot r.d.ctx k).st = .open_ := by
    rw [hslot]
    exact hopen
  have hkept : (r.into o).d = r.d := hdesc
  have hvoid : ((s.slotTook r k).slot r.d.ctx k).voids (r.into o).d.opseq = false := by simp [Slot.voids, hst]
  have hpassed := passOp_of_unselected hvoid (by rw [hslot, hkept]; exact hsel) hasked
  rw [hkept] at hpassed
  obtain ⟨t, hsettle, hclr, hother, hframe⟩ := settle_addEscape hlen hinto hfresh (hdesc ▸ hroute) hclear hcmx hpair
  refine ⟨t, ?_, hclr, fun c hc => (hother c hc).trans (ctx_setSlot_of_ne s hc k _), hframe⟩
  rw [takeReport_of_pass hctx hgen hstep hroute hpass hinto (by simp [Slot.live, hst]) hacc, hpassed, hsettle]

include hlive in
/-- A failing report with a breach of the tap contract alone halts an open step that has a replay left (R220, R226, R227). -/
theorem takeReport_halts (hfail : r.verdict = .failed) (hfound : r.found = [.tap]) (hseals : r.seals = []) (hpoison : r.poison = [])
    (hreplay : 0 < (s.slot r.d.ctx k).replays) : ∃ t, s.takeReport r = t ∧ (t.slot r.d.ctx k).st = .halted ∧
      (t.slot r.d.ctx k).prev = .open_ ∧ (t.slot r.d.ctx k).origin = r.d.opseq ∧
      ((t.slot r.d.ctx k).op r.d.opseq).map OpRec.st = some .failed ∧ (∀ c, c ≠ r.d.ctx → t.ctx c = s.ctx c) := by
  have hk := lt_length_of_stepSlot hstep
  have hlen : k < ((s.slotTook r k).ctx r.d.ctx).slots.length := (length_slots_setSlot ..).symm ▸ hk
  have hslot : (s.slotTook r k).slot r.d.ctx k = (s.slot r.d.ctx k).tookReport r := slot_setSlot_same hk _
  obtain ⟨hst, hstepKept, hreplays, hops⟩ := tookReport_frame hop
  obtain ⟨p, hp⟩ : ∃ p, ((s.slotTook r k).slot r.d.ctx k).op r.d.opseq = some p := by
    obtain ⟨p, hp⟩ := exists_op_reported hop
    refine ⟨p, ?_⟩
    rw [hslot, Slot.op, hops]
    exact hp
  have hctxSame := ctx_setSlot_same s r.d.ctx k ((s.slot r.d.ctx k).tookReport r)
  have hdetects := detectStep_of_stepSlot (s := s.slotTook r k) (q := r.d.opseq) ((congrArg Ctx.st hctxSame).trans hlive)
    ((congrArg Ctx.gen hctxSame).trans hgen) ((stepSlot_setSlot hk hst hstepKept _).trans hstep) r.d.opseq
  obtain ⟨t, hdetect, hhalted, hprev, horigin, hfailed, hother⟩ :=
    detect_halts hp hlen (by rw [hslot, hst, hopen]) (by rw [hslot, hreplays]; exact hreplay) r.d.opseq
  refine ⟨t, ?_, hhalted, hprev, horigin, hfailed, fun c hc => (hother c hc).trans (ctx_setSlot_of_ne s hc k _)⟩
  rw [takeReport_of_failed hctx hgen hstep hroute hfail, failedOp_of_tap hfound hseals hpoison, hdetects, hdetect]

end

/-- Settles O17: a report of another generation is dropped; a passing op adds its contribution and settles; a tap breach is a detected
error of an open step. -/
theorem lidTakesReports : Obligations.LidTakesReports := by
  unfold Obligations.LidTakesReports
  refine fun s r rest hq hctx => ⟨fun hgen htear => ?stale, fun i o hgen hlive hstep hopen hop hroute =>
    ⟨fun hpass hdesc hacc hwait htile hst hsamples harb hreseal hhold hnew hasked hcmx hpair hsel => ?clear,
      fun hfail hfound hseals hpoison hreplay => ?halt⟩⟩
  all_goals have hexec := exec_ladleReport_of_head hq
  case stale => exact hexec.trans (congrArg _ (takeReport_of_stale hgen htear))
  case clear =>
    have hclear : (r.into o).clearable = true := by
      simp [OpRec.clearable, Report.into, hst, hacc, hpass, hsamples, harb, hreseal, hhold]
    obtain ⟨t, htake, hop', hother, hframe⟩ := takeReport_clears (s := { s with reports := rest }) hctx hgen hstep hroute hopen hop
      ⟨hpass, hdesc, hacc, hwait, htile, hnew, hclear, hasked, hcmx, hpair, hsel⟩
    exact ⟨t, hexec.trans (congrArg _ htake), hop', hother, hframe⟩
  case halt =>
    obtain ⟨t, htake, hhalted, hprev, horigin, hfailed, hother⟩ := takeReport_halts (s := { s with reports := rest }) hctx hgen hstep
      hroute hlive hopen hop hfail hfound hseals hpoison hreplay
    exact ⟨t, hexec.trans (congrArg _ htake), hhalted, hprev, horigin, hfailed, hother⟩

end Sys2Proof.Machine
end

section
/-! The Lid accepts an op (R104, R138, R223, R225, R504): the record that its slot then holds, and the 32 bytes of the ledger area that
are written. -/

namespace Sys2Proof.Machine

/-! ### WRITE_Z of the block itself (R223, R286) -/

theorem get_mem_writeZ_of_outside (s : State) {addr a : Nat} {b : Bytes} (acc : Access) (h : a < addr ∨ addr + b.length ≤ a) :
    Tab.get 0 (s.writeZ addr b acc).mem a = Tab.get 0 s.mem a := by
  unfold State.writeZ
  split_ifs
  · rfl
  · obtain ⟨_, _, _, _, hreq⟩ := request_frame ((s.setBytes addr b).setSb (addr / 4096) 0) .writeZ (addr / 4096) (addr % 4096 / 64)
      ((b.length + 63) / 64) acc
    rw [hreq]
    exact (tab_get_setRun 0 s.mem addr b a).trans (if_neg (by omega))

/-- On the block's own behalf it leaves the completion filter's counts. -/
theorem writeZ_frame_of_own (s : State) (addr : Nat) (b : Bytes) {acc : Access} (hown : ∀ t : State, (t.accessCtx acc).1 = 0) :
    ∃ r m sb p0 p1, s.writeZ addr b acc = { s with regs := r, mem := m, sb := sb, port0 := p0, port1 := p1 } := by
  unfold State.writeZ
  split_ifs with hstall
  · exact ⟨_, s.mem, s.sb, s.port0, s.port1, rfl⟩
  · obtain ⟨p0, p1, hreq⟩ := request_of_own (s := (s.setBytes addr b).setSb (addr / 4096) 0) (Bool.eq_false_of_not_eq_true hstall)
      .writeZ (addr / 4096) (addr % 4096 / 64) ((b.length + 63) / 64) (hown _)
    exact ⟨s.regs, _, _, p0, p1, hreq⟩

theorem reg_writeZ_of_ne (s : State) (addr : Nat) (b : Bytes) (acc : Access) {a : Nat} (ha : a ≠ Reg.hubCntMemTimeout) :
    (s.writeZ addr b acc).reg a = s.reg a := by
  unfold State.writeZ
  split_ifs
  · rw [reg_count, if_neg (Ne.symm ha)]
  · exact reg_request_of_ne ((s.setBytes addr b).setSb (addr / 4096) 0) _ _ _ _ _ ha

/-! ### The record of an accepted op -/

/-- The record that is put is the one of its OPSEQ. -/
theorem op_putOp (sl : Slot) (o : OpRec) : (sl.putOp o).op o.d.opseq = some o := by
  unfold Slot.putOp Slot.op
  split
  case isTrue hany =>
    have hkey : ((fun p : OpRec => p.d.opseq == o.d.opseq) ∘ fun p => if p.d.opseq == o.d.opseq then o else p) =
        fun p => p.d.opseq == o.d.opseq := by
      funext p
      dsimp only [Function.comp]
      split <;> simp_all
    obtain ⟨p, hp⟩ := Option.isSome_iff_exists.1 (List.find?_isSome.2 (List.any_eq_true.1 hany))
    rw [List.find?_map, hkey, hp, Option.map_some, if_pos (List.find?_some (p := fun p : OpRec => p.d.opseq == o.d.opseq) hp)]
  case isFalse hany =>
    have hnone : sl.ops.find? (fun p => p.d.opseq == o.d.opseq) = none :=
      List.find?_eq_none.2 fun p hp hq => hany (List.any_eq_true.2 ⟨p, hp, hq⟩)
    simp [List.find?_append, hnone]

/-- A slot that has taken the record of an accepted op: with its recipe pinned, and its bucket named. -/
def Slot.accepted (sl : Slot) (r : OpRec) (d : Desc) : Slot :=
  if d.bktValid then
    ((sl.putOp r).pin d).setBucket d.bucket { ((sl.putOp r).pin d).bucket d.bucket with named := true }
  else (sl.putOp r).pin d

theorem op_accepted (sl : Slot) (r : OpRec) (d : Desc) : (sl.accepted r d).op r.d.opseq = some r := by
  have hpin : ((sl.putOp r).pin d).ops = (sl.putOp r).ops := by
    unfold Slot.pin
    split <;> rfl
  have hops : (sl.accepted r d).ops = (sl.putOp r).ops := by
    unfold Slot.accepted
    split <;> exact hpin
  rw [Slot.op, hops]
  exact op_putOp sl r

/-- The state in which the slot of an accepted op's step has its record. -/
def State.slotAccepted (s : State) (k t : Nat) (o : LOp) : State :=
  (s.leaveBoundary t).setSlot o.d.ctx k ((s.slot o.d.ctx k).accepted (s.newRec (s.slot o.d.ctx k) t o) o.d)

theorem leaveBoundary_frame (s : State) (t : Nat) : ∃ b, s.leaveBoundary t = { s with pastBounds := b } := by
  unfold State.leaveBoundary
  split
  · exact ⟨_, rfl⟩
  · exact ⟨s.pastBounds, rfl⟩

theorem ctx_leaveBoundary (s : State) (t c : Nat) : (s.leaveBoundary t).ctx c = s.ctx c := by
  obtain ⟨b, hb⟩ := leaveBoundary_frame s t
  rw [hb]
  rfl

theorem acceptOp_eq (s : State) (k t : Nat) (o : LOp) : s.acceptOp k t o =
    { (s.slotAccepted k t o).writeRecord (s.newRec (s.slot o.d.ctx k) t o).place with lidSeq := s.lidSeq + 1 } := rfl

/-- The Lid writes the record's bytes at its place of the ledger area, and nothing of a context. -/
theorem writeRecord_frame (s : State) (place : Nat) : ∃ r m sb p0 p1 f, s.writeRecord place =
    { s with regs := r, mem := m, sb := sb, port0 := p0, port1 := p1, free := f } := by
  obtain ⟨r, m, sb, p0, p1, hw⟩ := writeZ_frame_of_own s (s.reg Reg.lidLedgerBase * 64 * 4096 + 32 * place) (freeBytes s.free 32)
    (acc := .ledger) fun _ => rfl
  exact ⟨r, m, sb, p0, p1, _, by rw [State.writeRecord, hw]; rfl⟩

theorem get_mem_writeRecord (s : State) (place : Nat) {a : Nat} (h : a < s.reg Reg.lidLedgerBase * 64 * 4096 + 32 * place ∨
    s.reg Reg.lidLedgerBase * 64 * 4096 + 32 * place + 32 ≤ a) : Tab.get 0 (s.writeRecord place).mem a = Tab.get 0 s.mem a :=
  get_mem_writeZ_of_outside s .ledger (by simpa [freeBytes] using h)

section
variable (s : State) (k t : Nat) (o : LOp)

/-- Beside the slot of its step an acceptance changes the ledger area and the tile's boundary. -/
theorem acceptOp_frame : ∃ b r m sb p0 p1 f, s.acceptOp k t o =
    { s.slotAccepted k t o with
      pastBounds := b, regs := r, mem := m, sb := sb, port0 := p0, port1 := p1, free := f, lidSeq := s.lidSeq + 1 } := by
  obtain ⟨r, m, sb, p0, p1, f, hw⟩ := writeRecord_frame (s.slotAccepted k t o) (s.newRec (s.slot o.d.ctx k) t o).place
  exact ⟨_, r, m, sb, p0, p1, f, by rw [acceptOp_eq, hw]⟩

theorem slotAccepted_frame : ∃ c b, s.slotAccepted k t o = { s with ctxs := c, pastBounds := b } := by
  obtain ⟨b, hb⟩ := leaveBoundary_frame s t
  exact ⟨_, b, by rw [State.slotAccepted, hb]; rfl⟩

theorem ctx_acceptOp (c : Nat) : (s.acceptOp k t o).ctx c = (s.slotAccepted k t o).ctx c := by
  obtain ⟨_, _, _, _, _, _, _, hacc⟩ := acceptOp_frame s k t o
  rw [hacc]
  rfl

theorem ctx_acceptOp_of_ne {c : Nat} (hc : c ≠ o.d.ctx) : (s.acceptOp k t o).ctx c = s.ctx c := by
  rw [ctx_acceptOp, State.slotAccepted, ctx_setSlot_of_ne _ hc, ctx_leaveBoundary]

theorem slot_acceptOp_of_ne {j : Nat} (hj : j ≠ k) : (s.acceptOp k t o).slot o.d.ctx j = s.slot o.d.ctx j := by
  rw [State.slot, ctx_acceptOp]
  exact (slot_setSlot_of_ne _ _ (Ne.symm hj) _).trans (congrArg (Ctx.slot · j) (ctx_leaveBoundary s t _))

theorem op_acceptOp {k : Nat} (hk : k < (s.ctx o.d.ctx).slots.length) :
    ((s.acceptOp k t o).slot o.d.ctx k).op o.d.opseq = some (s.newRec (s.slot o.d.ctx k) t o) := by
  have hslot : (s.acceptOp k t o).slot o.d.ctx k = (s.slot o.d.ctx k).accepted (s.newRec (s.slot o.d.ctx k) t o) o.d := by
    rw [State.slot, ctx_acceptOp]
    exact slot_setSlot_same (by rwa [ctx_leaveBoundary]) _
  rw [hslot]
  exact op_accepted _ (s.newRec (s.slot o.d.ctx k) t o) o.d

theorem get_mem_acceptOp {a : Nat}
    (h : a < s.reg Reg.lidLedgerBase * 64 * 4096 + 32 * (s.newRec (s.slot o.d.ctx k) t o).place ∨
      s.reg Reg.lidLedgerBase * 64 * 4096 + 32 * (s.newRec (s.slot o.d.ctx k) t o).place + 32 ≤ a) :
    Tab.get 0 (s.acceptOp k t o).mem a = Tab.get 0 s.mem a := by
  obtain ⟨_, _, hslot⟩ := slotAccepted_frame s k t o
  have hreg : (s.slotAccepted k t o).reg Reg.lidLedgerBase = s.reg Reg.lidLedgerBase := by
    rw [hslot]
    rfl
  have hmem : (s.slotAccepted k t o).mem = s.mem := by rw [hslot]
  exact (get_mem_writeRecord (s.slotAccepted k t o) _ (by rwa [hreg])).trans (congrArg (Tab.get 0 · a) hmem)

end

/-! ### OP_ACCEPT -/

/-- Row by row, an op of an open step of a LIVE context that no rule refuses. -/
theorem lidDecide_of_accepted {s : State} {t k : Nat} {o : LOp} (hctx : o.d.ctx ≠ 0) (hgen : o.d.gen = (s.ctx o.d.ctx).gen)
    (hlive : (s.ctx o.d.ctx).st = .live) (hfind : (s.ctx o.d.ctx).find (fun x => x.live && x.step == o.d.step) = some k)
    (herr : s.lidDescErr (s.ctx o.d.ctx) (s.slot o.d.ctx k) o.d = false)
    (hrow : s.acceptRow (s.ctx o.d.ctx) (s.slot o.d.ctx k) o.d o.lay = 0) : s.lidDecide t o =
      (s.acceptOp k t o, .ok (s.newRec (s.slot o.d.ctx k) t o).tsA (s.newRec (s.slot o.d.ctx k) t o).tsB
        (s.newRec (s.slot o.d.ctx k) t o).tsOut) := by
  rw [State.slot] at herr hrow
  simp only [State.lidDecide, hctx, hgen, hlive, hfind, herr, hrow, State.slot, ne_eq, not_true_eq_false, or_self, if_false,
    beq_self_eq_true, if_true, Bool.false_eq_true]

theorem lidDecide_of_stale {s : State} {o : LOp} (h : o.d.ctx = 0 ∨ o.d.gen ≠ (s.ctx o.d.ctx).gen) (t : Nat) :
    s.lidDecide t o = (s, .stale) := if_pos h

theorem exec_opAccept_of_head {s : State} {p id : Nat} {rest : List (Nat × Nat)} {o : LOp} (hq : s.lidQ = (p, id) :: rest)
    (hop : (s.ladle p).ops.find? (fun x => x.id == id) = some o) {u : State} {a : Accept}
    (hdec : ({ s with lidQ := rest } : State).lidDecide p o = (u, a)) :
    exec .opAccept s = .next { u with answers := u.answers ++ [(p, id, a)] } := by
  have hexec : exec .opAccept s = .next s.takeDesc := rfl
  have hop' : (({ s with lidQ := rest } : State).ladle p).ops.find? (fun x => x.id == id) = some o := hop
  simp only [hexec, State.takeDesc, hq, hop', hdec]

theorem of_find {e : Ctx} {p : Slot → Bool} {k : Nat} (h : e.find p = some k) : p (e.slot k) = true :=
  List.find?_some (p := fun k => p (e.slot k)) h

/-- A slot that is not FREE is one of the context's own. -/
theorem lt_length_of_used {e : Ctx} {k : Nat} (h : (e.slot k).st ≠ .free) : k < e.slots.length := by
  by_contra hout
  exact h (by simp [Ctx.slot, List.getElem?_eq_none (Nat.not_lt.1 hout)])

theorem lt_length_of_live {e : Ctx} {k : Nat} (h : (e.slot k).live = true) : k < e.slots.length :=
  lt_length_of_used fun hfree => by simp [Slot.live, hfree] at h

/-- Settles O16: the Lid's decision row by row, and what `acceptOp` leaves in the slot, the ledger area and everywhere else. -/
theorem lidAcceptsOps : Obligations.LidAcceptsOps := by
  unfold Obligations.LidAcceptsOps
  refine fun s p id rest o hq hop => ⟨fun hstale => ?stale, fun k hctx hgen hlive hfind herr hrow => ?accepted⟩
  case stale => exact exec_opAccept_of_head hq hop (lidDecide_of_stale (s := { s with lidQ := rest }) hstale p)
  case accepted =>
    let u : State := { s with lidQ := rest }
    have hdec : u.lidDecide p o = _ := lidDecide_of_accepted hctx hgen hlive hfind herr hrow
    have hused := (Bool.and_eq_true_iff.1 (of_find hfind)).1
    have hk : k < (u.ctx o.d.ctx).slots.length := lt_length_of_live hused
    obtain ⟨_, _, hslot⟩ := slotAccepted_frame u k p o
    obtain ⟨_, _, _, _, _, _, _, hacc⟩ := acceptOp_frame u k p o
    refine ⟨_, u.newRec (u.slot o.d.ctx k) p o, exec_opAccept_of_head hq hop hdec, op_acceptOp u p o hk, rfl, rfl, rfl, rfl, rfl, rfl,
      ?answers, ?lidQ, fun c hc => ctx_acceptOp_of_ne u k p o hc, fun j hj => slot_acceptOp_of_ne u k p o hj,
      fun a ha => get_mem_acceptOp u k p o ha, ?frame⟩
    all_goals rw [hacc, hslot]

end Sys2Proof.Machine
end

section
/-! HALT_ACK and the replay of a step (R227, R232, R331, R468): the gate messages of the block change its peer port alone. -/

namespace Sys2Proof.Machine

/-! ### Gate messages (R232, R468) -/

theorem gate_frame (s : State) (c kind cause bucket step opseq count : Nat) :
    ∃ p o, s.gate c kind cause bucket step opseq count = { s with peer := p, out := o } := by
  unfold State.gate State.sendPeer
  dsimp only
  split
  · exact ⟨_, _, rfl⟩
  · exact ⟨_, s.out, rfl⟩

theorem ctx_gate (s : State) (c kind cause bucket step opseq count d : Nat) :
    (s.gate c kind cause bucket step opseq count).ctx d = s.ctx d := by
  obtain ⟨_, _, h⟩ := gate_frame s c kind cause bucket step opseq count
  rw [h]
  rfl

theorem reg_gate (s : State) (c kind cause bucket step opseq count a : Nat) :
    (s.gate c kind cause bucket step opseq count).reg a = s.reg a := by
  obtain ⟨_, _, h⟩ := gate_frame s c kind cause bucket step opseq count
  rw [h]
  rfl

/-! ### HALT_ACK (R227) -/

section
variable {s : State} {c gen step : Nat}

theorem haltAck_of_halted {k : Nat} (hlive : (s.ctx c).st = .live) (hgen : (s.ctx c).gen = gen)
    (hfind : (s.ctx c).find (fun x => x.st == .halted && x.step == step) = some k) (next : Nat) :
    s.haltAck c gen step next = s.setSlot c k { s.slot c k with ack := some next } := by
  simp [State.haltAck, hlive, hgen, hfind, State.slot]

theorem haltAck_of_none (h : (s.ctx c).st ≠ .live ∨ (s.ctx c).gen ≠ gen ∨
    (s.ctx c).find (fun x => x.st == .halted && x.step == step) = none) (next : Nat) :
    s.haltAck c gen step next = s.count Reg.lidCntGateDrop := by
  unfold State.haltAck
  rcases h with h | h | h <;> simp [h]

end

/-- A good message of class 0 is delivered to the Lid, which acts on HALT_ACK alone (R331). -/
theorem exec_haltAck_of_accepts {s : State} {m : PeerMsg} (hok : s.accepts m = true) (hcls : m.cls = 0) : exec (.haltAck m) s =
    .next (if m.kind = gkHaltAck then ((s.count Reg.hubCntPeerRx).emit (.credit 0)).haltAck (leAt m.body 2 2) (leAt m.body 4 2)
        (leAt m.body 8 4) (leAt m.body 12 4)
      else (s.count Reg.hubCntPeerRx).emit (.credit 0)) := by
  have hexec : exec (.haltAck m) s = execHaltAck m s := rfl
  simp [hexec, execHaltAck, hok, hcls, State.takePeer]

/-! ### REPLAY (R227) -/

/-- The slot of a halted step once its replay has begun. -/
def Slot.replayed (sl : Slot) : Slot :=
  { sl with st := sl.prev, ops := sl.ops.map sl.cutRec, replays := sl.replays - 1, replaysUsed := sl.replaysUsed + 1, ack := none }

/-- A replay changes its slot, the routing ops, the peer port and one counter. -/
theorem replay_frame (s : State) (c k : Nat) : ∃ r p o, s.replay c k =
    ({ s.setSlot c k (s.slot c k).replayed with routes := r, peer := p, out := o } : State).count Reg.lidCntReplays := by
  obtain ⟨p, o, hgate⟩ := gate_frame ((s.setSlot c k (s.slot c k).replayed).routesReset c (s.ctx c).gen (s.slot c k).step
    (s.slot c k).resets) c gkReplay 0 0 (s.slot c k).step (s.slot c k).origin 0
  exact ⟨_, p, o, congrArg (State.count · Reg.lidCntReplays) hgate⟩

theorem halted_of_replayReady {s : State} {c k : Nat} (h : s.replayReady c k = true) : (s.slot c k).st = .halted := by
  simp only [State.replayReady, Bool.and_eq_true, beq_iff_eq, and_assoc] at h
  obtain ⟨hst, -⟩ := h
  exact hst

theorem cutRec_eq (sl : Slot) (o : OpRec) : sl.cutRec o = if o.d.opseq < sl.origin then o
    else if o.d.bktValid && (sl.bucket o.d.bucket).released then { o with st := .clear } else o.reset := rfl

/-- Settles O18: HALT_ACK by what its message names, and what a replay leaves in its slot and in the counters. -/
theorem haltAckAndReplay : Obligations.HaltAckAndReplay := by
  unfold Obligations.HaltAckAndReplay
  refine ⟨fun s m hok hcls hkind => ⟨fun k hlive hgen hfind => ?noted, fun hnone => ?dropped⟩, fun s m hok hcls hkind => ?counted,
    fun s c k hready => ?replay⟩
  case noted =>
    rw [exec_haltAck_of_accepts hok hcls, if_pos hkind]
    exact congrArg _ (haltAck_of_halted (s := (s.count Reg.hubCntPeerRx).emit (.credit 0)) hlive hgen hfind _)
  case dropped =>
    rw [exec_haltAck_of_accepts hok hcls, if_pos hkind]
    exact congrArg _ (haltAck_of_none (s := (s.count Reg.hubCntPeerRx).emit (.credit 0)) hnone _)
  case counted => rw [exec_haltAck_of_accepts hok hcls, if_neg hkind]
  case replay =>
    have hexec : exec (.replay c k) s = .next (if s.replayReady c k then s.replay c k else s) := rfl
    have hk : k < (s.ctx c).slots.length := lt_length_of_used fun hfree => by
      have hst := halted_of_replayReady hready
      rw [State.slot, hfree] at hst
      exact absurd hst (by decide)
    obtain ⟨r, p, o, hrep⟩ := replay_frame s c k
    have hslot : (s.replay c k).slot c k = (s.slot c k).replayed := by
      rw [hrep]
      exact slot_setSlot_same hk _
    refine ⟨_, by rw [hexec, if_pos hready], ?_⟩
    simp only [hslot]
    refine ⟨rfl, rfl, rfl, rfl, List.map_congr_left fun o _ => cutRec_eq _ o, fun d hd => ?_, ?_, fun a ha => ?_⟩
    · rw [hrep]
      exact ctx_setSlot_of_ne s hd k _
    · rw [hrep]
      rfl
    · rw [hrep, reg_count, if_neg (Ne.symm ha)]
      rfl

end Sys2Proof.Machine
end

section
/-! The release of a bucket, the commit of a step, the end of an abandoned one and the provenance digest (R220, R229, R233, R234, R238,
R325). -/

namespace Sys2Proof.Machine

theorem bucket_setBucket (sl : Slot) (b : Nat) (v : Bucket) (x : Nat) : (sl.setBucket b v).bucket x = if b = x then v else sl.bucket x := by
  simp [Slot.bucket, Slot.setBucket]

/-! ### BUCKET_RELEASE (R229) -/

/-- A slot whose bucket `b` is released. -/
def Slot.releaseOf (sl : Slot) (b : Nat) : Slot :=
  { sl.setBucket b { sl.bucket b with released := true } with released := sl.released + 1 }

theorem bucket_releaseOf (sl : Slot) (b x : Nat) : (sl.releaseOf b).bucket x =
    if b = x then { sl.bucket b with released := true } else sl.bucket x := bucket_setBucket sl b _ x

/-- A release changes its slot, the peer port and one counter. -/
theorem release_frame (s : State) (c k b : Nat) : ∃ p o, s.release c k b =
    ({ s.setSlot c k ((s.slot c k).releaseOf b) with peer := p, out := o } : State).count Reg.lidCntReleased := by
  obtain ⟨p, o, hgate⟩ := gate_frame (s.setSlot c k ((s.slot c k).releaseOf b)) c gkRelease 0 b (s.slot c k).step 0 (s.ctx c).mb
  exact ⟨p, o, congrArg (State.count · Reg.lidCntReleased) hgate⟩

/-- A bucket is releasable in a step that is OPEN or ENDED. -/
theorem lt_length_of_releasable {s : State} {c k b : Nat} (h : s.releasable c k b = true) : k < (s.ctx c).slots.length := by
  refine lt_length_of_used fun hfree => ?_
  unfold State.releasable at h
  cases hlast : (((s.ctx c).slot k).bucket b).last with
  | none => simp [hlast] at h
  | some l => simp [hlast, hfree] at h

/-! ### COMMIT_GRANT (R233, R234) -/

section
variable {s : State} {c k : Nat}

/-- R233 holds of an ENDED step of a LIVE context. -/
theorem ended_of_commitReady (h : s.commitReady c k = true) : (s.ctx c).st = .live ∧ (s.slot c k).st = .ended := by
  simp only [State.commitReady, State.commitBase, Bool.and_eq_true, beq_iff_eq, and_assoc] at h
  obtain ⟨hlive, hended, -⟩ := h
  exact ⟨hlive, hended⟩

/-- No routing op of the step is open, so none is INCOMPLETE (R179). -/
theorem evalRoutes_of_closed (h : (s.stepRoutes c (s.ctx c).gen (s.slot c k).step).all (fun r => r.closed) = true) :
    s.evalRoutes c k = s := by
  have hnone : (s.stepRoutes c (s.ctx c).gen (s.slot c k).step).filter (fun r => ! r.closed) = [] :=
    List.filter_eq_nil_iff.2 fun r hr => by simpa using List.all_eq_true.1 h r hr
  unfold State.evalRoutes
  rw [hnone]
  exact ite_self s

/-- In a context that is not paired, R233 alone grants the commit of a step without provenance. -/
theorem grant_of_unpaired (hready : s.commitReady c k = true)
    (hroutes : (s.stepRoutes c (s.ctx c).gen (s.slot c k).step).all (fun r => r.closed) = true) (hmode : (s.slot c k).provMode = 0)
    (hpair : s.pairing c = none) : s.grant c k = s.commit c k := by
  have hsend : s.sendStep c k = s := by simp [State.sendStep, hpair]
  have hpaired : s.pairOk c k = true := by simp [State.pairOk, hpair]
  simp [State.grant, evalRoutes_of_closed hroutes, hready, hmode, hsend, hpaired]

end

/-- The updates of the Scale Keeper leave every context. -/
theorem ctx_commitScales (s : State) (c t : Nat) (nulled : Bool) (l : List (Nat × SckEntry)) (d : Nat) :
    (s.commitScales c t nulled l).ctx d = s.ctx d := by
  induction l generalizing s with
  | nil => rfl
  | cons p l ih =>
    unfold State.commitScales
    dsimp only
    split
    · exact ih _
    · exact ih s

theorem provRecord_of_none {sl : Slot} (h : sl.provDigest = none) (s : State) (c : Nat) : s.provRecord c sl = s := by
  simp [State.provRecord, h]

theorem startMirror_of_none {s : State} {c : Nat} (h : (s.ctx c).buddy = none) (step : Nat) : s.startMirror c step = s := by
  simp [State.startMirror, h]

/-- COMMIT is sent and the scales of the context are updated (R234, R236). -/
def State.scalesCommitted (s : State) (c k : Nat) : State :=
  (s.gate c gkCommit 0 0 (s.slot c k).step 0 (s.slot c k).n).commitScales c (s.slot c k).step (s.slot c k).nulled s.sck

theorem ctx_scalesCommitted (s : State) (c k d : Nat) : (s.scalesCommitted c k).ctx d = s.ctx d := (ctx_commitScales ..).trans (ctx_gate ..)

/-- The entry of a context once the step `sl` in slot `k` has committed at `now`, with its scales as they then stand. -/
def Ctx.committing (e : Ctx) (k : Nat) (sl : Slot) (now : Nat) (scales : List (Nat × SckEntry)) : Ctx :=
  { e with committed := sl.step, slots := setAt e.slots k {}, stats := sl.stats now false, stood := scales }

/-- The state in which a context has its entry after a commit. -/
def State.entryCommitted (s : State) (c k : Nat) : State :=
  (s.scalesCommitted c k).setCtx c
    (((s.scalesCommitted c k).ctx c).committing k (s.slot c k) s.time ((s.scalesCommitted c k).boundScales c))

theorem ctx_entryCommitted (s : State) (c k d : Nat) : (s.entryCommitted c k).ctx d =
    if c = d then (s.ctx c).committing k (s.slot c k) s.time ((s.scalesCommitted c k).boundScales c) else s.ctx d := by
  rw [State.entryCommitted, ctx_setCtx, ctx_scalesCommitted, ctx_scalesCommitted]

/-- The routing ops and the held messages of a step that has committed are gone, and a policy change that waited is due (R314). -/
def State.stepLeft (s : State) (c gen step : Nat) : State :=
  { s with
    routes := s.routes.filter (fun r => ! r.is c gen step r.route)
    pairings := s.pairings.map (fun p => if p.ctx == c then { p with held := p.held.filter (fun m => m.step != step) } else p)
    trv := { s.trv with heldDue := s.trv.held.isSome } }

theorem commit_eq {s : State} {c k : Nat} (hprov : (s.slot c k).provDigest = none) : s.commit c k =
    ((((((s.entryCommitted c k).stepLeft c ((s.scalesCommitted c k).ctx c).gen (s.slot c k).step).endsStep.noteStep c (s.slot c k).step
      true).count Reg.lidCntCommitted).rebound).startMirror c (s.slot c k).step) := by
  unfold State.commit
  dsimp only
  rw [provRecord_of_none hprov]
  rfl

theorem ctx_stepLeft (s : State) (c gen step d : Nat) : (s.stepLeft c gen step).ctx d = s.ctx d := rfl

/-- A step that ends is noted in the programs and the counters, and in no context. -/
theorem ctx_stepNoted (s : State) (c step a d : Nat) : (((s.endsStep.noteStep c step true).count a).rebound).ctx d = s.ctx d := rfl

/-- The commit of a step without provenance, in a context without a buddy, changes no context but its own. -/
theorem ctx_commit {s : State} {c k : Nat} (hprov : (s.slot c k).provDigest = none) (hbuddy : (s.ctx c).buddy = none) (d : Nat) :
    (s.commit c k).ctx d = (s.entryCommitted c k).ctx d := by
  have hown : ((s.entryCommitted c k).ctx c).buddy = none := by
    rw [ctx_entryCommitted, if_pos rfl]
    exact hbuddy
  rw [commit_eq hprov, startMirror_of_none (by rw [ctx_stepNoted, ctx_stepLeft, hown]), ctx_stepNoted, ctx_stepLeft]

/-! ### STEP_SLOT_FREE and PROVENANCE_DIGEST_DONE (R220, R325) -/

theorem exec_stepSlotFree_of_abandoned {s : State} {c k : Nat} (hk : k < 4) (hst : (s.slot c k).st = .abandoned)
    (hdone : (s.slot c k).ops.all (fun o => o.notAccepted || o.verdict.isSome) = true) : exec (.stepSlotFree c k) s = .next (s.setCtx c
      { s.ctx c with slots := setAt (s.ctx c).slots k {}, stats := (s.slot c k).stats (s.slot c k).granted true }) := by
  have hexec : exec (.stepSlotFree c k) s = .next (if k < 4 then s.freeSlot c k else s) := rfl
  rw [State.slot] at hst hdone
  rw [hexec, if_pos hk, State.freeSlot, hst, hdone]
  rfl

theorem exec_provenanceDigestDone_of_ready {s : State} {c k : Nat} (hready : s.commitReady c k = true) (hmode : (s.slot c k).provMode ≠ 0)
    (hnone : (s.slot c k).provDigest = none) : exec (.provenanceDigestDone c k) s =
      .next (s.setSlot c k { s.slot c k with provDigest := some (s.stepDigest c k) }) := by
  have hexec : exec (.provenanceDigestDone c k) s = execProvenanceDigestDone c k s := rfl
  simp [hexec, execProvenanceDigestDone, hready, hmode, hnone]

/-- Settles O19: a release through `release_frame`, a commit through what it leaves of the contexts. -/
theorem releaseCommitAndFree : Obligations.ReleaseCommitAndFree := by
  unfold Obligations.ReleaseCommitAndFree
  refine ⟨fun s c k b hready => ?release, fun s c k hready hroutes hmode hprov hpair hbuddy => ?commit,
    fun s c k hk hst hdone => exec_stepSlotFree_of_abandoned hk hst hdone,
    fun s c k hready hmode hnone => exec_provenanceDigestDone_of_ready hready hmode hnone⟩
  case release =>
    have hexec : exec (.bucketRelease c k b) s = .next (if s.releasable c k b then s.release c k b else s) := rfl
    obtain ⟨p, o, hrel⟩ := release_frame s c k b
    have hslot : (s.release c k b).slot c k = (s.slot c k).releaseOf b := by
      rw [hrel]
      exact slot_setSlot_same (lt_length_of_releasable hready) _
    refine ⟨_, by rw [hexec, if_pos hready], ?_, ?_, ?_, fun a ha => ?_, fun x hx => ?_, fun d hd => ?_, ?_⟩
    · rw [hslot, bucket_releaseOf, if_pos rfl]
    · rw [hslot]
      rfl
    · rw [hrel, reg_count, if_pos rfl]
      rfl
    · rw [hrel, reg_count, if_neg (Ne.symm ha)]
      rfl
    · rw [hslot, bucket_releaseOf, if_neg (Ne.symm hx)]
    · rw [hrel]
      exact ctx_setSlot_of_ne s hd k _
    · rw [hrel]
      rfl
  case commit =>
    obtain ⟨hlive, hended⟩ := ended_of_commitReady hready
    have hk : k < (s.ctx c).slots.length := lt_length_of_used fun hfree => by
      rw [State.slot, hfree] at hended
      exact absurd hended (by decide)
    have hexec : exec (.commitGrant c k) s = .next (s.grant c k) := rfl
    have hctx (d : Nat) := (ctx_commit hprov hbuddy d).trans (ctx_entryCommitted s c k d)
    have hown := (hctx c).trans (if_pos rfl)
    refine ⟨_, hexec.trans (congrArg _ (grant_of_unpaired hready hroutes hmode hpair)), ?_, ?_, ?_, ?_, fun j hj => ?_, fun d hd => ?_⟩
    · rw [hown]
      rfl
    · simp [State.slot, hown, Ctx.committing, Ctx.slot, setAt_eq_set, hk]
    · rw [hown]
      exact hlive
    · rw [hown]
      rfl
    · simp [State.slot, hown, Ctx.committing, Ctx.slot, setAt_eq_set, List.getElem?_set_ne (Ne.symm hj)]
    · rw [hctx, if_neg (Ne.symm hd)]

end Sys2Proof.Machine
end

section
/-! Entries of the journal and the commands of a core that act on contexts and steps (R256 to R261, R283 to R286): an entry reaches the
journal, its copy in memory and a few registers, so a command's effect is that of its sub-block after the entry. -/

namespace Sys2Proof.Machine

/-! ### What an entry changes (R285, R286) -/

/-- The registers that an entry of the journal can write: the count of requests that time out, the loss of a copy, and the Colander's. -/
def journalReg (a : Nat) : Prop :=
  a = Reg.hubCntMemTimeout ∨ a = Reg.hubJrnlStatus ∨ a = Reg.hubCntJrnlLost ∨ (0x10000 ≤ a ∧ a ≤ 0x12000)

/-- `t` is `s` after entries of the journal: the journal, its copy in memory with the requests for it, and the registers of `journalReg`
may differ, nothing else. Where `IoOnly` speaks of accesses for any context, these are the block's own, which the completion filter and
the teardowns do not count (R413). -/
structure State.JournalOnly (s t : State) : Prop where
  frame : t =
    { s with
      regs := t.regs, mem := t.mem, sb := t.sb, port0 := t.port0, port1 := t.port1, jseq := t.jseq, journal := t.journal
      jcopied := t.jcopied }
  reg : ∀ a, ¬ journalReg a → t.reg a = s.reg a

theorem reg_faultInt_journal (s : State) {a : Nat} (ha : a < 0x10000 ∨ 0x12000 < a) : (s.faultInt clsJournal 0).reg a = s.reg a := by
  have hset (u : State) (b m : Nat) (hb : 0x10000 ≤ b ∧ b ≤ 0x12000) : (u.setBits b m).reg a = u.reg a :=
    (reg_setBits ..).trans (if_neg (by omega))
  have hcount (u : State) (b : Nat) (hb : 0x10000 ≤ b ∧ b ≤ 0x12000) : (u.count b).reg a = u.reg a :=
    (reg_count ..).trans (if_neg (by omega))
  have hcap (u : State) (src addr access master : Nat) : (u.capture Reg.colCapSrc src addr access master).reg a = u.reg a :=
    reg_capture_of_outside u src addr access master (by simp only [Reg.colCapSrc]; omega)
  have hclass : class16 clsJournal = 2 := rfl
  unfold State.faultInt State.raiseFault
  dsimp only
  rw [hclass]
  split_ifs with hheld hce
  · rfl
  · exact absurd hce (by decide)
  · unfold State.capUc
    split_ifs
    · rw [hcount _ _ (by decide), hset _ _ _ (by decide), hcount _ _ (by decide), hset _ _ _ (by decide)]
    · rw [hset _ _ _ (by decide), hcap, hcount _ _ (by decide), hset _ _ _ (by decide)]

namespace State.JournalOnly

theorem refl (s : State) : s.JournalOnly s := ⟨rfl, fun _ _ => rfl⟩

theorem trans {s t u : State} (h1 : s.JournalOnly t) (h2 : t.JournalOnly u) : s.JournalOnly u where
  frame := h2.frame.trans (by rw [h1.frame])
  reg := fun a ha => (h2.reg a ha).trans (h1.reg a ha)

theorem of_regsOnly {s t : State} (h : s.RegsOnly t) (hreg : ∀ a, ¬ journalReg a → t.reg a = s.reg a) : s.JournalOnly t := by
  refine ⟨?_, hreg⟩
  obtain ⟨r, rfl⟩ := h
  rfl

theorem count (s : State) {a : Nat} (ha : journalReg a) : s.JournalOnly (s.count a) :=
  of_regsOnly (regsOnly_count ..) fun b hb => by
    rw [reg_count, if_neg]
    rintro rfl
    exact hb ha

theorem setBits (s : State) {a : Nat} (m : Nat) (ha : journalReg a) : s.JournalOnly (s.setBits a m) :=
  of_regsOnly (regsOnly_setBits ..) fun b hb => by
    rw [reg_setBits, if_neg]
    rintro rfl
    exact hb ha

/-- The block's own write of a copy. -/
theorem writeZ (s : State) (addr : Nat) (b : Bytes) (n : Nat) : s.JournalOnly (s.writeZ addr b (.journal n)) where
  frame := by
    obtain ⟨_, _, _, _, _, hw⟩ := writeZ_frame_of_own s addr b (acc := .journal n) fun _ => rfl
    rw [hw]
  reg := fun _ ha => reg_writeZ_of_ne s addr b _ fun h => ha (.inl h)

theorem journalLost (s : State) : s.JournalOnly s.journalLost := by
  refine ((setBits s 2 ?_).trans (count _ ?_)).trans (of_regsOnly (regsOnly_faultInt ..) fun a ha => reg_faultInt_journal _ ?_)
  · exact .inr (.inl rfl)
  · exact .inr (.inr (.inl rfl))
  · by_contra hin
    exact ha (.inr (.inr (.inr (by omega))))

theorem copyEntry (s : State) (e : JEntry) : s.JournalOnly (s.copyEntry e) := by
  unfold State.copyEntry
  split_ifs
  · exact (count s (.inl rfl)).trans (journalLost _)
  · exact writeZ ..

theorem copyEntries (s : State) (l : List JEntry) : s.JournalOnly (s.copyEntries l) := by
  induction l generalizing s with
  | nil => exact refl s
  | cons e l ih =>
    have hcopied : (s.copyEntry e).JournalOnly { s.copyEntry e with jcopied := e.jseq + 1 } := ⟨rfl, fun _ _ => rfl⟩
    unfold State.copyEntries
    split_ifs
    · exact ((copyEntry s e).trans hcopied).trans (ih _)
    · exact refl s

theorem replaced (s : State) : s.JournalOnly s.replaced := by
  unfold State.replaced
  split
  case h_1 e _ _ =>
    have hresumed : s.JournalOnly { s with jcopied := e.jseq } := ⟨rfl, fun _ _ => rfl⟩
    split_ifs
    · exact hresumed.trans (journalLost _)
    · exact refl s
  case h_2 => exact refl s

theorem record (s : State) (e : JEntry) : s.JournalOnly (s.record e) := by
  have hplaced (n : Nat) (l : List JEntry) : s.JournalOnly { s with jseq := n, journal := l } := ⟨rfl, fun _ _ => rfl⟩
  unfold State.record State.copyJournal
  dsimp only
  split_ifs
  · exact ((hplaced ..).trans (replaced _)).trans (copyEntries ..)
  · exact (hplaced ..).trans (replaced _)

theorem noted (s : State) (q : CoreCmd) (st tk : Nat) : s.JournalOnly (s.noted q st tk) := record ..

section
variable {s t : State} (h : s.JournalOnly t)
include h

theorem time : t.time = s.time := (congrArg State.time h.frame :)
theorem seed : t.seed = s.seed := (congrArg State.seed h.frame :)
theorem models : t.models = s.models := (congrArg State.models h.frame :)
theorem ctxs : t.ctxs = s.ctxs := (congrArg State.ctxs h.frame :)
theorem progs : t.progs = s.progs := (congrArg State.progs h.frame :)
theorem pairings : t.pairings = s.pairings := (congrArg State.pairings h.frame :)
theorem cfl : t.cfl = s.cfl := (congrArg State.cfl h.frame :)
theorem teardowns : t.teardowns = s.teardowns := (congrArg State.teardowns h.frame :)

theorem ctx (c : Nat) : t.ctx c = s.ctx c := congrArg (fun x => Tab.get ({} : Ctx) x c) h.ctxs
theorem slot (c k : Nat) : t.slot c k = s.slot c k := congrArg (Ctx.slot · k) (h.ctx c)
theorem pairing (c : Nat) : t.pairing c = s.pairing c := congrArg (List.find? _) h.pairings

theorem stepOf (c n : Nat) : t.stepOf c n = s.stepOf c n := by
  simp only [State.stepOf, h.ctx]

theorem freeTeardown : t.freeTeardown = s.freeTeardown := by
  simp only [State.freeTeardown, State.teardown, h.teardowns]

end

end State.JournalOnly

/-- The window of the newest 256 entries, once an entry has joined it (R285). -/
def State.window (s : State) (e : JEntry) : List JEntry :=
  let l := s.journal ++ [{ e with jseq := s.jseq, time := s.time }]
  l.drop (l.length - 256)

theorem replaced_of_memOff {s : State} (h : s.memOn = false) : s.replaced = s := by
  unfold State.replaced
  rw [h]
  split <;> rfl

/-- Without MEM_ON an entry goes to the window alone. -/
theorem record_of_memOff {s : State} (h : s.memOn = false) (e : JEntry) :
    s.record e = { s with jseq := s.jseq + 1, journal := s.window e } := by
  have hplaced : ({ s with jseq := s.jseq + 1, journal := s.window e } : State).memOn = false := h
  have hrecord : s.record e = ({ s with jseq := s.jseq + 1, journal := s.window e } : State).replaced.copyJournal := rfl
  rw [hrecord, replaced_of_memOff hplaced, State.copyJournal, hplaced]
  rfl

/-- The newest entry is in the window. -/
theorem mem_window (s : State) (e : JEntry) : { e with jseq := s.jseq, time := s.time } ∈ s.window e := by
  unfold State.window
  dsimp only
  rw [List.drop_append_of_le_length (by simp)]
  exact List.mem_append_right _ (List.mem_singleton_self _)

/-! ### A command of a core in service -/

/-- A core that runs with bring-up ended and no safe state has its command served, once rows 1, 3 and 4 of R257 pass. -/
theorem passes_of_rows {s : State} {q : CoreCmd} {sp : CmdSpec} (hserve : s.serving q.k = true) (hopc : q.opc = sp.opc)
    (hcommand : sp.query = false) (ha : q.a < 2 ^ 64) (hb : q.b < 2 ^ 64) (hc : q.c < 2 ^ 64) (hmod : q.mod < 16) (himm : q.imm < 2 ^ 32)
    (hrow1 : sp.row1 q.mod q.imm = false) (halive : sp.gone = false ∨ (s.ctx (sp.named (q.cmd s))).st ≠ .terminated)
    (hnarrow : sp.wide (q.cmd s) = false) : s.Passes q sp := by
  simp only [State.serving, Bool.and_eq_true, beq_iff_eq, Option.isNone_iff_eq_none] at hserve
  obtain ⟨⟨hup, hstage⟩, hsafe⟩ := hserve
  exact
    { up := hup, opc := hopc, command := hcommand, a_lt := ha, b_lt := hb, c_lt := hc, mod_lt := hmod, imm_lt := himm, row1 := hrow1
      alive := halive, narrow := hnarrow, free := by simp [State.blocked, hsafe, hstage] }

/-- A command whose sub-block answers OK whatever entries stand has its effect after its own. -/
theorem runCmd_of_done {s : State} {q : CoreCmd} {sp : CmdSpec} (h : s.Passes q sp) {f : State → State} {v : State → Nat}
    (hbody : ∀ t, s.JournalOnly t → sp.body (q.cmd s) t = (f t, .ok (v t))) :
    s.runCmd sp q.issue = (f (s.noted q)).count Reg.hubCntCmd :=
  runCmd_of_ok h (congrArg Prod.snd (hbody s (.refl s))) (hbody _ (.noted ..))

end Sys2Proof.Machine
end

section
/-! Contexts (R218, R228, R240, R263, R264, R413, R415): the abandonment of steps, CTXBIND, CTXKILL and CTXDOWN of a core, and the end of
a teardown. -/

namespace Sys2Proof.Machine

/-! ### One abandoned step (R220, R228) -/

/-- A slot that is written over takes no trace of what was written before. -/
theorem ctx_setSlot_congr {s t : State} {c k : Nat} {v : Slot} (h : ∀ d, t.ctx d = (s.setSlot c k v).ctx d) (w : Slot) (d : Nat) :
    (t.setSlot c k w).ctx d = (s.setSlot c k w).ctx d := by
  by_cases hd : d = c
  · subst hd
    rw [ctx_setSlot_same, ctx_setSlot_same, h, ctx_setSlot_same]
    simp
  · rw [ctx_setSlot_of_ne t hd, ctx_setSlot_of_ne s hd, h, ctx_setSlot_of_ne s hd]

theorem ctx_setSlot_self {s : State} {c k : Nat} (hk : k < (s.ctx c).slots.length) (d : Nat) :
    (s.setSlot c k (s.slot c k)).ctx d = s.ctx d := by
  by_cases hd : d = c
  · subst hd
    rw [ctx_setSlot_same]
    simp [State.slot, Ctx.slot, hk]
  · exact ctx_setSlot_of_ne s hd k _

/-- A slot whose bucket `b` is nulled. -/
def Slot.nullOf (sl : Slot) (b : Nat) : Slot :=
  { sl.setBucket b { sl.bucket b with nulled := true } with nulledCount := sl.nulledCount + 1 }

theorem ctx_nullBucket (s : State) (c k b d : Nat) :
    (s.nullBucket c k b).ctx d = (s.setSlot c k ((s.slot c k).nullOf b)).ctx d := ctx_gate ..

/-- NULL for buckets changes the buckets of its slot and their count, and nothing else of any context. -/
theorem exists_ctx_nullBuckets {s : State} {c k : Nat} (hk : k < (s.ctx c).slots.length) (bs : List Nat) : ∃ v : Slot,
    v = { s.slot c k with buckets := v.buckets, nulledCount := v.nulledCount } ∧
      ∀ d, (s.nullBuckets c k bs).ctx d = (s.setSlot c k v).ctx d := by
  induction bs generalizing s with
  | nil => exact ⟨s.slot c k, rfl, fun d => (ctx_setSlot_self hk d).symm⟩
  | cons b bs ih =>
    have hslot : (s.nullBucket c k b).slot c k = (s.slot c k).nullOf b :=
      (congrArg (Ctx.slot · k) (ctx_nullBucket s c k b c)).trans (slot_setSlot_same hk _)
    obtain ⟨v, hv, hctx⟩ := ih (s := s.nullBucket c k b) (by rw [ctx_nullBucket, length_slots_setSlot]; exact hk)
    refine ⟨v, ?_, fun d => (hctx d).trans (ctx_setSlot_congr (ctx_nullBucket s c k b) v d)⟩
    rw [hslot] at hv
    exact hv

/-- The slot of a step that is abandoned with a cause at a time. -/
def Slot.abandonedAt (sl : Slot) (cause now : Nat) : Slot := { sl with st := .abandoned, cause := cause, pins := [], granted := now }

/-- The slot of a step is ABANDONED, and ABANDON is sent. -/
def State.slotAbandoned (s : State) (c k cause opseq : Nat) : State :=
  (s.setSlot c k ((s.slot c k).abandonedAt cause s.time)).gate c gkAbandon cause 0 (s.slot c k).step opseq 0

theorem ctx_slotAbandoned (s : State) (c k cause opseq d : Nat) :
    (s.slotAbandoned c k cause opseq).ctx d = (s.setSlot c k ((s.slot c k).abandonedAt cause s.time)).ctx d := ctx_gate ..

/-- Then NULL is sent for its unreleased buckets. -/
def State.slotNulled (s : State) (c k cause opseq : Nat) : State :=
  (s.slotAbandoned c k cause opseq).nullBuckets c k (s.slot c k).knownOpen

/-- What else ends with an abandoned step: its samples, pending maxima, routing ops and held messages. -/
def State.stepDropped (s : State) (c step : Nat) : State :=
  let u := ((s.dropSamples c step 0).dropPending c step).count Reg.lidCntAbandoned
  ({ u with
      routes := u.routes.filter (fun r => ! (r.ctx == c && r.step == step))
      pairings := u.pairings.map (fun p => if p.ctx == c then { p with held := p.held.filter (fun m => m.step != step) } else p) } :
    State).endsStep.noteStep c step false

theorem ctx_stepDropped (s : State) (c step d : Nat) : (s.stepDropped c step).ctx d = s.ctx d := rfl

/-- The statistics of the step in slot `k` are latched into its context (R238). -/
def State.latched (s : State) (c k : Nat) : State := s.setCtx c { s.ctx c with stats := (s.slot c k).stats s.time true }

theorem abandonOne_of_live {s : State} {c k : Nat} (h : (s.slot c k).live = true) (cause opseq : Nat) :
    s.abandonOne c k cause opseq = ((s.slotNulled c k cause opseq).stepDropped c (s.slot c k).step).latched c k := by
  unfold State.abandonOne
  dsimp only
  rw [h]
  rfl

theorem abandonOne_of_not_live {s : State} {c k : Nat} (h : (s.slot c k).live = false) (cause opseq : Nat) :
    s.abandonOne c k cause opseq = s := by
  unfold State.abandonOne
  dsimp only
  rw [h]
  rfl

/-- Of the contexts, an abandonment changes its slot, which is ABANDONED with its cause and without pins, and the statistics. -/
theorem exists_ctx_abandonOne {s : State} {c k : Nat} (h : (s.slot c k).live = true) (cause opseq : Nat) :
    ∃ (v : Slot) (stats : StepStats), v.st = .abandoned ∧ v.cause = cause ∧ v.pins = [] ∧
      ∀ d, (s.abandonOne c k cause opseq).ctx d =
      if c = d then { s.ctx c with slots := (s.ctx c).slots.set k v, stats := stats } else s.ctx d := by
  have hk : k < (s.ctx c).slots.length := lt_length_of_live h
  have hgate := ctx_slotAbandoned s c k cause opseq
  obtain ⟨v, hv, hnull⟩ := exists_ctx_nullBuckets (s := s.slotAbandoned c k cause opseq) (c := c) (k := k)
    (by rw [hgate, length_slots_setSlot]; exact hk) (s.slot c k).knownOpen
  have hslot : (s.slotAbandoned c k cause opseq).slot c k = (s.slot c k).abandonedAt cause s.time :=
    (congrArg (Ctx.slot · k) (hgate c)).trans (slot_setSlot_same hk _)
  let u := (s.slotNulled c k cause opseq).stepDropped c (s.slot c k).step
  have hctx (d : Nat) : u.ctx d = (s.setSlot c k v).ctx d :=
    (ctx_stepDropped ..).trans ((hnull d).trans (ctx_setSlot_congr hgate v d))
  rw [hslot] at hv
  refine ⟨v, (u.slot c k).stats u.time true, congrArg Slot.st hv, congrArg Slot.cause hv, congrArg Slot.pins hv, fun d => ?_⟩
  rw [abandonOne_of_live h, State.latched, ctx_setCtx, hctx, hctx, ctx_setSlot_same]
  split_ifs with hd
  · rfl
  · exact ctx_setSlot_of_ne s (Ne.symm hd) k v

/-! ### The abandonment of steps and the end of a context (R228, R240) -/

/-- `t` is `s` after steps of context `c` were abandoned, as far as its contexts show it: no other context differs, no slot of `c` became
FREE, and none left ABANDONED. -/
structure State.Abandons (c : Nat) (s t : State) : Prop where
  other : ∀ d, d ≠ c → t.ctx d = s.ctx d
  st : (t.ctx c).st = (s.ctx c).st
  gen : (t.ctx c).gen = (s.ctx c).gen
  used : ∀ j, (s.slot c j).st ≠ .free → (t.slot c j).st ≠ .free
  kept : ∀ j, (s.slot c j).st = .abandoned → (t.slot c j).st = .abandoned

namespace State.Abandons

variable {c : Nat}

theorem refl (s : State) : Abandons c s s := ⟨fun _ _ => rfl, rfl, rfl, fun _ h => h, fun _ h => h⟩

theorem trans {s t u : State} (h1 : Abandons c s t) (h2 : Abandons c t u) : Abandons c s u where
  other := fun d hd => (h2.other d hd).trans (h1.other d hd)
  st := h2.st.trans h1.st
  gen := h2.gen.trans h1.gen
  used := fun j hj => h2.used j (h1.used j hj)
  kept := fun j hj => h2.kept j (h1.kept j hj)

end State.Abandons

theorem slot_st_abandonOne {s : State} {c k : Nat} (h : (s.slot c k).st ≠ .free) (cause opseq : Nat) :
    ((s.abandonOne c k cause opseq).slot c k).st = .abandoned := by
  cases hlive : (s.slot c k).live with
  | true =>
    obtain ⟨v, stats, hst, -, -, hctx⟩ := exists_ctx_abandonOne hlive cause opseq
    have hk : k < (s.ctx c).slots.length := lt_length_of_live hlive
    simp [State.slot, hctx, Ctx.slot, hk, hst]
  | false =>
    rw [abandonOne_of_not_live hlive]
    cases hst : (s.slot c k).st <;> simp_all [Slot.live]

theorem slot_abandonOne_of_ne (s : State) (c : Nat) {k j : Nat} (h : k ≠ j) (cause opseq : Nat) :
    (s.abandonOne c k cause opseq).slot c j = s.slot c j := by
  cases hlive : (s.slot c k).live with
  | true =>
    obtain ⟨v, stats, -, -, -, hctx⟩ := exists_ctx_abandonOne hlive cause opseq
    simp [State.slot, hctx, Ctx.slot, List.getElem?_set_ne h]
  | false => rw [abandonOne_of_not_live hlive]

theorem abandons_abandonOne (s : State) (c k cause opseq : Nat) : State.Abandons c s (s.abandonOne c k cause opseq) := by
  cases hlive : (s.slot c k).live with
  | false =>
    rw [abandonOne_of_not_live hlive]
    exact .refl s
  | true =>
    obtain ⟨v, stats, -, -, -, hctx⟩ := exists_ctx_abandonOne hlive cause opseq
    refine ⟨fun d hd => (hctx d).trans (if_neg (Ne.symm hd)), ?_, ?_, fun j hj => ?_, fun j hj => ?_⟩
    · rw [hctx, if_pos rfl]
    · rw [hctx, if_pos rfl]
    · by_cases hkj : k = j
      · subst hkj
        rw [slot_st_abandonOne hj]
        decide
      · rwa [slot_abandonOne_of_ne s c hkj]
    · by_cases hkj : k = j
      · subst hkj
        exact slot_st_abandonOne (by rw [hj]; decide) cause opseq
      · rwa [slot_abandonOne_of_ne s c hkj]

theorem abandons_abandonAll (s : State) (c cause : Nat) (ks : List Nat) : State.Abandons c s (s.abandonAll c cause ks) := by
  induction ks generalizing s with
  | nil => exact .refl s
  | cons k ks ih => exact (abandons_abandonOne s c k cause 0).trans (ih _)

/-- Each step of a list is abandoned. -/
theorem slot_st_abandonAll {s : State} {c j : Nat} {ks : List Nat} (hj : j ∈ ks) (h : (s.slot c j).st ≠ .free) (cause : Nat) :
    ((s.abandonAll c cause ks).slot c j).st = .abandoned := by
  induction ks generalizing s with
  | nil => cases hj
  | cons k ks ih =>
    by_cases hkj : k = j
    · subst hkj
      exact (abandons_abandonAll _ c cause ks).kept k (slot_st_abandonOne h cause 0)
    · have hrest : j ∈ ks := (List.mem_cons.1 hj).resolve_left (Ne.symm hkj)
      exact ih hrest ((abandons_abandonOne s c k cause 0).used j h)

theorem terminate_of_live {s : State} {c : Nat} (h : (s.ctx c).st = .live) : s.terminate c =
    ((s.setCtx c { s.ctx c with st := .terminated }).abandonAll c 8 (s.ctx c).liveSlots).setBits Reg.hubSealStatus 32 := by
  simp [State.terminate, h]

theorem terminate_of_not_live {s : State} {c : Nat} (h : (s.ctx c).st ≠ .live) : s.terminate c = s := by
  simp [State.terminate, h]

theorem live_of_mem_liveSlots {e : Ctx} {k : Nat} (h : k ∈ e.liveSlots) : (e.slot k).live = true := by
  obtain ⟨d, -, hfind⟩ := List.mem_filterMap.1 h
  exact (Bool.and_eq_true_iff.1 (of_find hfind)).1

section
variable {s : State} {c : Nat} (hlive : (s.ctx c).st = .live)
include hlive

theorem ctx_terminate (d : Nat) : (s.terminate c).ctx d =
    ((s.setCtx c { s.ctx c with st := .terminated }).abandonAll c 8 (s.ctx c).liveSlots).ctx d := by
  rw [terminate_of_live hlive]
  rfl

/-- The context is TERMINATED under its generation, and no other context changes. -/
theorem terminate_leaves : ((s.terminate c).ctx c).st = .terminated ∧ ((s.terminate c).ctx c).gen = (s.ctx c).gen ∧
    ∀ d, d ≠ c → (s.terminate c).ctx d = s.ctx d := by
  have hab := abandons_abandonAll (s.setCtx c { s.ctx c with st := .terminated }) c 8 (s.ctx c).liveSlots
  refine ⟨?_, ?_, fun d hd => ?_⟩
  · rw [ctx_terminate hlive, hab.st, ctx_setCtx, if_pos rfl]
  · rw [ctx_terminate hlive, hab.gen, ctx_setCtx, if_pos rfl]
  · rw [ctx_terminate hlive, hab.other d hd, ctx_setCtx, if_neg (Ne.symm hd)]

theorem slot_st_terminate {k : Nat} (hk : k ∈ (s.ctx c).liveSlots) : ((s.terminate c).slot c k).st = .abandoned := by
  have hslot : (s.setCtx c { s.ctx c with st := .terminated }).slot c k = (s.ctx c).slot k := by
    rw [State.slot, ctx_setCtx, if_pos rfl]
    rfl
  rw [State.slot, ctx_terminate hlive]
  refine slot_st_abandonAll hk (fun hfree => ?_) 8
  have hused := live_of_mem_liveSlots hk
  rw [hslot] at hfree
  simp [Slot.live, hfree] at hused

end

/-! ### CTXBIND and CTXKILL (R263, R264) -/

section
variable {s : State} {q : CoreCmd} (hserve : s.serving q.k = true) (ha : q.a < 2 ^ 16) (hmod : q.mod = 0)
include hserve ha hmod

theorem passes_ctxbind (hopc : q.opc = 0x10) (hb : q.b < 2 ^ 64) (hc : q.c < 2 ^ 32) (himm : q.imm < 2 ^ 16)
    (halive : (s.ctx q.a).st ≠ .terminated) : s.Passes q specCtxbind :=
  passes_of_rows hserve hopc rfl (by omega) hb (by omega) (by omega) (by omega) (by rw [hmod]; rfl) (.inr halive)
    ((wide_eq_false_iff ..).2 ⟨fun _ => ha, fun _ => hb, fun _ => hc, fun _ => himm⟩)

theorem passes_ctxkill (hopc : q.opc = 0x11) (hb : q.b < 2 ^ 64) (hc : q.c < 2 ^ 64) (himm : q.imm = 0)
    (halive : (s.ctx q.a).st ≠ .terminated) : s.Passes q specCtxkill :=
  passes_of_rows hserve hopc rfl (by omega) hb hc (by omega) (by omega) (by rw [hmod, himm]; rfl) (.inr halive)
    ((wide_eq_false_iff ..).2 ⟨fun _ => ha, fun h => absurd rfl h, fun h => absurd rfl h, fun h => absurd rfl h⟩)

theorem passes_ctxdown (hopc : q.opc = 0x12) (hb : q.b < 2 ^ 64) (hc : q.c < 2 ^ 64) (himm : q.imm = 0) : s.Passes q specCtxdown :=
  passes_of_rows hserve hopc rfl (by omega) hb hc (by omega) (by omega) (by rw [hmod, himm]; rfl) (.inl rfl)
    ((wide_eq_false_iff ..).2 ⟨fun _ => ha, fun h => absurd rfl h, fun h => absurd rfl h, fun h => absurd rfl h⟩)

end

theorem exec_ctxbind (s : State) (i : Issue) : exec (.ctxbind i) s = .next (s.runCmd specCtxbind i) := rfl
theorem exec_ctxkill (s : State) (i : Issue) : exec (.ctxkill i) s = .next (s.runCmd specCtxkill i) := rfl
theorem exec_ctxdown (s : State) (i : Issue) : exec (.ctxdown i) s = .next (s.runCmd specCtxdown i) := rfl

theorem body_specCtxbind : specCtxbind.body = bindCtx := rfl
theorem body_specCtxkill : specCtxkill.body = killCtx := rfl
theorem body_specCtxdown : specCtxdown.body = downCtx := rfl

section
variable {s : State} {c : Cmd}

/-- The LIVE entry that CTXBIND makes of its operands, under a generation. -/
def Cmd.boundCtx (c : Cmd) (gen : Nat) : Ctx :=
  { gen := gen, st := .live, seed := c.b, mb := c.imm, collective := c.c % 2 ^ 16, command := c.c / 2 ^ 16 }

theorem bindCtx_of_free (himm : c.imm ≠ 0) (ha : c.a ≠ 0) (h : (s.ctx c.a).st = .free) : bindCtx c s =
    (s.setCtx c.a (c.boundCtx (s.ctx c.a).gen), .ok (s.ctx c.a).gen) := by
  simp [bindCtx, himm, ha, h, Cmd.boundCtx]

theorem bindCtx_of_used (himm : c.imm ≠ 0) (h : c.a = 0 ∨ (s.ctx c.a).st ≠ .free) : bindCtx c s = reject s stIllegalState := by
  simp [bindCtx, himm, h]

theorem killCtx_of_live (h : (s.ctx c.a).st = .live) : killCtx c s = (s.terminate c.a, .ok 0) := by
  simp [killCtx, h]

theorem killCtx_of_not_live (h : (s.ctx c.a).st ≠ .live) : killCtx c s = reject s stIllegalState := by
  simp [killCtx, h]

end

section
variable {s : State} {q : CoreCmd}

theorem exec_ctxbind_of_free (h : s.Passes q specCtxbind) (himm : q.imm ≠ 0) (ha : q.a ≠ 0) (hfree : (s.ctx q.a).st = .free) :
    exec (.ctxbind q.issue) s = .next (((s.noted q).setCtx q.a ((q.cmd s).boundCtx (s.ctx q.a).gen)).count Reg.hubCntCmd) := by
  rw [exec_ctxbind, runCmd_of_done h (f := fun t => t.setCtx q.a ((q.cmd s).boundCtx (s.ctx q.a).gen)) (v := fun _ => (s.ctx q.a).gen)]
  intro t ht
  rw [body_specCtxbind, ← ht.ctx]
  exact bindCtx_of_free (c := q.cmd s) himm ha ((congrArg Ctx.st (ht.ctx q.a)).trans hfree)

theorem exec_ctxbind_of_used (h : s.Passes q specCtxbind) (himm : q.imm ≠ 0) (hused : q.a = 0 ∨ (s.ctx q.a).st ≠ .free) :
    exec (.ctxbind q.issue) s = .next (s.rejected q stIllegalState) := by
  rw [exec_ctxbind, runCmd_of_rejected h (bindCtx_of_used (c := q.cmd s) himm hused)]

theorem exec_ctxkill_of_live (h : s.Passes q specCtxkill) (hlive : (s.ctx q.a).st = .live) :
    exec (.ctxkill q.issue) s = .next (((s.noted q).terminate q.a).count Reg.hubCntCmd) := by
  rw [exec_ctxkill, runCmd_of_done h (f := fun t => t.terminate q.a) (v := fun _ => 0)]
  intro t ht
  rw [body_specCtxkill]
  exact killCtx_of_live (c := q.cmd s) ((congrArg Ctx.st (ht.ctx q.a)).trans hlive)

theorem exec_ctxkill_of_not_live (h : s.Passes q specCtxkill) (hdead : (s.ctx q.a).st ≠ .live) :
    exec (.ctxkill q.issue) s = .next (s.rejected q stIllegalState) := by
  rw [exec_ctxkill, runCmd_of_rejected h (killCtx_of_not_live (c := q.cmd s) hdead)]

end

/-! ### CTXDOWN (R264, R415 orders 1 to 4) -/

/-- The teardown of a context that starts in slot `k` under ticket `tk`. -/
def State.newTeardown (s : State) (k c tk : Nat) : Teardown :=
  { slot := k, ctx := c, gen := (s.ctx c).gen, count := Tab.get 0 s.cfl c + (s.ctx c).pendingOps, ticket := tk, scrub := (s.ctx c).extents
    since := s.time }

/-- A context that is TERMINATED and has no program is torn down at once. -/
theorem startTeardown_of_quiet {s : State} {c : Nat} (hst : (s.ctx c).st = .terminated) (hprogs : ∀ p ∈ s.progs, p.2.ctx ≠ c)
    (k tk : Nat) : s.startTeardown k c tk = ({ s with
      teardowns := s.teardowns ++ [s.newTeardown k c tk]
      cfl := Tab.set 0 s.cfl c 0
      sck := s.sck.filter (fun p => ! (p.2.bound && p.2.ctx == c))
      routes := s.routes.filter (fun r => r.ctx != c)
      pairings := s.pairings.filter (fun p => p.ctx != c) } : State).setCtx c
        { gen := if (s.ctx c).gen = 0xFFFF then 1 else (s.ctx c).gen + 1 } := by
  have hterm : s.terminate c = s := terminate_of_not_live (by rw [hst]; decide)
  have hidle : s.idlePrograms c = [] := by
    rw [State.idlePrograms, List.map_eq_nil_iff, List.filter_eq_nil_iff]
    exact fun p hp => by simp [hprogs p hp]
  unfold State.startTeardown
  dsimp only
  rw [hterm, hidle]
  rfl

section
variable {s : State} {c : Nat} (hst : (s.ctx c).st = .terminated) (hprogs : ∀ p ∈ s.progs, p.2.ctx ≠ c) (k tk : Nat)
include hst hprogs

theorem startTeardown_frame : s.startTeardown k c tk = { s with
    ctxs := (s.startTeardown k c tk).ctxs, teardowns := (s.startTeardown k c tk).teardowns, cfl := (s.startTeardown k c tk).cfl
    sck := (s.startTeardown k c tk).sck, routes := (s.startTeardown k c tk).routes, pairings := (s.startTeardown k c tk).pairings } := by
  rw [startTeardown_of_quiet hst hprogs]
  rfl

/-- The entry is FREE under its next generation. -/
theorem ctx_startTeardown (d : Nat) : (s.startTeardown k c tk).ctx d =
    if c = d then { gen := if (s.ctx c).gen = 0xFFFF then 1 else (s.ctx c).gen + 1 } else s.ctx d := by
  rw [startTeardown_of_quiet hst hprogs, ctx_setCtx]
  rfl

theorem teardowns_cfl_startTeardown : (s.startTeardown k c tk).teardowns = s.teardowns ++ [s.newTeardown k c tk] ∧
    (s.startTeardown k c tk).cfl = Tab.set 0 s.cfl c 0 := by
  rw [startTeardown_of_quiet hst hprogs]
  exact ⟨rfl, rfl⟩

theorem unpaired_startTeardown {p : Pairing} (hp : p ∈ (s.startTeardown k c tk).pairings) : p.ctx ≠ c := by
  rw [startTeardown_of_quiet hst hprogs] at hp
  simpa using (List.mem_filter.1 hp).2

end

theorem downCtx_of_used {s : State} {c : Cmd} {k : Nat} (hst : (s.ctx c.a).st ≠ .free) (hk : s.freeTeardown = some k) :
    downCtx c s = (s.startTeardown k c.a c.tk, .later stPending) := by
  simp [downCtx, hst, hk]

theorem State.JournalOnly.newTeardown {s t : State} (h : s.JournalOnly t) (k c tk : Nat) : t.newTeardown k c tk = s.newTeardown k c tk := by
  simp only [State.newTeardown, h.ctx, h.cfl, h.time]

theorem exec_ctxdown_of_terminated {s : State} {q : CoreCmd} {k : Nat} (h : s.Passes q specCtxdown) (ht : s.hasTicket = true)
    (hst : (s.ctx q.a).st = .terminated) (hk : s.freeTeardown = some k) : exec (.ctxdown q.issue) s =
      .next (((s.noted q stPending s.nextTicket).startTeardown k q.a s.nextTicket).heldUnder s q stPending s.nextTicket) := by
  have hbody (t : State) (hjo : s.JournalOnly t) :
      specCtxdown.body (q.cmd s) t = (t.startTeardown k q.a s.nextTicket, .later stPending) := by
    have hused : (t.ctx q.a).st ≠ .free := by
      rw [hjo.ctx, hst]
      decide
    rw [body_specCtxdown]
    exact downCtx_of_used (c := q.cmd s) hused (hjo.freeTeardown.trans hk)
  rw [exec_ctxdown, runCmd_of_later h ht (congrArg Prod.snd (hbody s (.refl s))) (hbody _ (.noted ..))]

/-! ### The drain and the scrub of a teardown (R415 orders 5 to 8) -/

section
variable {s : State} {k : Nat} {v : Teardown} (hv : s.teardown k = some v)
include hv

theorem exec_teardownDrainEnd_of_slot : exec (.teardownDrainEnd k) s = .next (s.drainStep v) := by
  have hexec : exec (.teardownDrainEnd k) s = execTeardownDrainEnd k s := rfl
  simp [hexec, execTeardownDrainEnd, hv]

/-- The teardown of slot `k` is taken out of the table, and counted. -/
def State.teardownCounted (s : State) (k : Nat) : State :=
  ({ s with teardowns := s.teardowns.filter (fun t => t.slot != k) } : State).count Reg.hubCntTeardown

theorem exec_teardownScrubDone_of_scrubbed (hphase : v.phase = .scrub) (hok : v.failed = false) : exec (.teardownScrubDone k) s =
    .next (((s.retire (fun a => a == .scrub k)).teardownCounted k).complete v.ticket stOk 0 false) := by
  have hexec : exec (.teardownScrubDone k) s = execTeardownScrubDone k s := rfl
  simp [hexec, execTeardownScrubDone, hv, hphase, hok, State.teardownCounted]

end

theorem drainStep_of_empty {s : State} {v : Teardown} (hphase : v.phase = .drain) (hprogs : s.oldPrograms v = false) (hcount : v.count = 0)
    (hscrub : v.scrub = []) : s.drainStep v = s.setTeardown { v with phase := .scrub } := by
  simp [State.drainStep, hphase, hprogs, hcount, hscrub, State.scrubAll]

theorem drainStep_of_waiting {s : State} {v : Teardown} (h : s.oldPrograms v = true ∨ (0 < v.count ∧ s.time < v.since + 100000)) :
    s.drainStep v = s := by
  unfold State.drainStep
  dsimp only
  rcases h with h | ⟨hcount, htime⟩
  · simp [h]
  · have hlimit : s.time < v.since + msT 1 := htime
    simp [Nat.ne_of_gt hcount, hlimit]

theorem teardown_teardownCounted (s : State) (k : Nat) : (s.teardownCounted k).teardown k = none := by
  refine List.find?_eq_none.2 fun t ht => ?_
  simpa using (List.mem_filter.1 ht).2

/-- The completions of requests change the completion filter, the teardowns' counts and three counters. -/
theorem cflComplete_frame (s : State) (c gen : Nat) :
    (∃ r f d, (s.cflComplete c gen).1 = { s with regs := r, cfl := f, teardowns := d }) ∧
      ∀ a, a ∉ [Reg.hubCntCflPass, Reg.hubCntCflDrop, Reg.hubCntCflLate] → (s.cflComplete c gen).1.reg a = s.reg a := by
  have hcount (u : State) {b : Nat} (hb : b ∈ [Reg.hubCntCflPass, Reg.hubCntCflDrop, Reg.hubCntCflLate]) (a : Nat)
      (ha : a ∉ [Reg.hubCntCflPass, Reg.hubCntCflDrop, Reg.hubCntCflLate]) : (u.count b).reg a = u.reg a := by
    rw [reg_count, if_neg]
    rintro rfl
    exact ha hb
  unfold State.cflComplete
  dsimp only
  split_ifs
  · exact ⟨⟨s.regs, s.cfl, s.teardowns, rfl⟩, fun _ _ => rfl⟩
  · exact ⟨⟨_, _, s.teardowns, rfl⟩, hcount (s.cflDone c) (by decide)⟩
  · exact ⟨⟨_, _, s.teardowns, rfl⟩, hcount (s.cflDone c) (by decide)⟩
  · exact ⟨⟨_, s.cfl, _, rfl⟩, hcount (s.tearDone c gen) (by decide)⟩
  · exact ⟨⟨_, s.cfl, s.teardowns, rfl⟩, hcount s (by decide)⟩

theorem cflCompletes_frame (s : State) (l : List MemReq) :
    (∃ r f d, s.cflCompletes l = { s with regs := r, cfl := f, teardowns := d }) ∧
      ∀ a, a ∉ [Reg.hubCntCflPass, Reg.hubCntCflDrop, Reg.hubCntCflLate] → (s.cflCompletes l).reg a = s.reg a := by
  induction l generalizing s with
  | nil => exact ⟨⟨s.regs, s.cfl, s.teardowns, rfl⟩, fun _ _ => rfl⟩
  | cons x l ih =>
    obtain ⟨⟨r, f, d, hone⟩, hreg⟩ := cflComplete_frame s x.ctx x.gen
    obtain ⟨⟨r', f', d', hrest⟩, hreg'⟩ := ih (s.cflComplete x.ctx x.gen).1
    exact ⟨⟨r', f', d', hrest.trans (by rw [hone])⟩, fun a ha => (hreg' a ha).trans (hreg a ha)⟩

/-- The COMPLETED entry of a ticket with OK (R260, R284). -/
def Ticket.completed (tk : Ticket) (t res : Nat) : JEntry :=
  { tk.served with type := jCompleted, status := stOk, ticket := t, a := res }

/-- A ticket of a core completes without MEM_ON: its entry joins the window, and the ticket is gone. -/
theorem complete_of_kettle {s : State} {t core : Nat} {tk : Ticket} (htk : s.ticket t = some tk) (hown : tk.owner = .kettle core)
    (hmem : s.memOn = false) (res : Nat) (own : Bool) : s.complete t stOk res own =
      ({ s with jseq := s.jseq + 1, journal := s.window (tk.completed t res) } : State).dropTicket t := by
  have hfinal (u : State) : u.countFinal stOk own = u := if_pos (.inl (by decide))
  unfold State.complete
  simp only [htk, hown, hfinal, record_of_memOff hmem, Ticket.completed]

theorem complete_leaves_entry {s : State} {t core : Nat} {tk : Ticket} (htk : s.ticket t = some tk) (hown : tk.owner = .kettle core)
    (hmem : s.memOn = false) (res : Nat) (own : Bool) : ∃ u, s.complete t stOk res own = u ∧ u.teardowns = s.teardowns ∧
      u.regs = s.regs ∧ u.ticket t = none ∧
      ∃ e ∈ u.journal, e.jseq = s.jseq ∧ e.type = jCompleted ∧ e.status = stOk ∧ e.ticket = t := by
  have hentry := mem_window s (tk.completed t res)
  have hcomplete := complete_of_kettle htk hown hmem res own
  generalize s.window (tk.completed t res) = l at hentry hcomplete
  refine ⟨_, hcomplete, rfl, rfl, ?_, ?_⟩
  · rw [ticket_dropTicket, if_pos rfl]
  · exact ⟨_, hentry, rfl, rfl, rfl, rfl⟩

/-- The end of a scrub: the slot and the ticket of its teardown are free, the teardown is counted, and its entry stands. -/
theorem complete_teardownCounted {s : State} {k t core : Nat} {tk : Ticket} (htk : s.ticket t = some tk) (hown : tk.owner = .kettle core)
    (hmem : s.memOn = false) (p : Access → Bool) : ∃ u, ((s.retire p).teardownCounted k).complete t stOk 0 false = u ∧
      u.teardown k = none ∧ u.ticket t = none ∧ u.reg Reg.hubCntTeardown = min (2 ^ 32 - 1) (s.reg Reg.hubCntTeardown + 1) ∧
      ∃ e ∈ u.journal, e.jseq = s.jseq ∧ e.type = jCompleted ∧ e.status = stOk ∧ e.ticket = t := by
  obtain ⟨⟨r, f, d, hretire⟩, hreg⟩ := cflCompletes_frame
    { s with port0 := s.port0.retire p s.time, port1 := s.port1.retire p s.time } ((s.port0.all ++ s.port1.all).filter (fun x => p x.acc))
  have hframe : s.retire p =
      { s with port0 := s.port0.retire p s.time, port1 := s.port1.retire p s.time, regs := r, cfl := f, teardowns := d } := hretire
  have hcount : (s.retire p).reg Reg.hubCntTeardown = s.reg Reg.hubCntTeardown := hreg Reg.hubCntTeardown (by decide)
  have htk' : ((s.retire p).teardownCounted k).ticket t = some tk := by
    rw [hframe]
    exact htk
  have hmem' : ((s.retire p).teardownCounted k).memOn = false := by
    rw [hframe]
    exact hmem
  have hjseq : ((s.retire p).teardownCounted k).jseq = s.jseq := by
    rw [hframe]
    rfl
  obtain ⟨u, hu, htear, hregs, hticket, e, he, heseq, hrest⟩ := complete_leaves_entry htk' hown hmem' 0 false
  refine ⟨u, hu, ?_, hticket, ?_, e, he, heseq.trans hjseq, hrest⟩
  · rw [State.teardown, htear]
    exact teardown_teardownCounted ..
  · rw [State.reg, hregs, ← State.reg, ← hcount]
    exact (reg_count ..).trans (if_pos rfl)

/-- Settles O27: a core's command by what its sub-block answers whatever entries stand, a termination by the abandonment of its steps one by
one, a teardown by `startTeardown_of_quiet`, its drain and `complete_teardownCounted`. -/
theorem contextLifeCycle : Obligations.ContextLifeCycle := by
  unfold Obligations.ContextLifeCycle
  refine ⟨⟨?bind, ?kill, ?noSteps, ?terminate⟩, ?down, ?drained, ?draining, ?scrubbed⟩
  case bind =>
    intro s q hopc hserve _ ha hb hc hmod himm0 himm
    have hpass := passes_ctxbind hserve ha hmod hopc hb hc himm
    refine ⟨fun hfree hne => exec_ctxbind_of_free (hpass (by rw [hfree]; decide)) (by omega) hne hfree, ?_⟩
    rintro (hlive | ⟨hzero, hst⟩)
    · exact exec_ctxbind_of_used (hpass (by rw [hlive]; decide)) (by omega) (.inr (by rw [hlive]; decide))
    · exact exec_ctxbind_of_used (hpass (by rwa [hzero])) (by omega) (.inl hzero)
  case kill =>
    intro s q hopc hserve _ ha hmod himm hb hc
    have hpass := passes_ctxkill hserve ha hmod hopc hb hc himm
    exact ⟨fun hlive => exec_ctxkill_of_live (hpass (by rw [hlive]; decide)) hlive,
      fun hfree => exec_ctxkill_of_not_live (hpass (by rw [hfree]; decide)) (by rw [hfree]; decide)⟩
  case noSteps =>
    intro s c hlive hnone
    rw [terminate_of_live hlive, hnone]
    rfl
  case terminate =>
    intro s c hlive
    obtain ⟨hst, hgen, hother⟩ := terminate_leaves hlive
    exact ⟨hst, hgen, hother, fun k hk => slot_st_terminate hlive hk⟩
  case down =>
    intro s q k hopc hserve ht _ ha hmod himm hb hc hst hprogs hk
    have hjo := State.JournalOnly.noted s q stPending s.nextTicket
    have hst' : ((s.noted q stPending s.nextTicket).ctx q.a).st = .terminated := (congrArg Ctx.st (hjo.ctx q.a)).trans hst
    have hprogs' : ∀ p ∈ (s.noted q stPending s.nextTicket).progs, p.2.ctx ≠ q.a := by
      rw [hjo.progs]
      exact hprogs
    have hctx := ctx_startTeardown hst' hprogs' k s.nextTicket
    obtain ⟨htear, hcfl⟩ := teardowns_cfl_startTeardown hst' hprogs' k s.nextTicket
    rw [hjo.newTeardown, hjo.teardowns] at htear
    rw [hjo.cfl] at hcfl
    refine ⟨_, s.newTeardown k q.a s.nextTicket, exec_ctxdown_of_terminated (passes_ctxdown hserve ha hmod hopc hb hc himm) ht hst hk, ?_,
      fun c hc => ?_, htear, rfl, rfl, rfl, rfl, rfl, rfl, hcfl, fun p hp => unpaired_startTeardown hst' hprogs' k s.nextTicket hp,
      startTeardown_frame hst' hprogs' k s.nextTicket⟩
    · rw [hctx, if_pos rfl, hjo.ctx]
    · rw [hctx, if_neg (Ne.symm hc), hjo.ctx]
  case drained =>
    intro s k v hv hphase hprogs hcount hscrub
    rw [exec_teardownDrainEnd_of_slot hv, drainStep_of_empty hphase hprogs hcount hscrub]
  case draining =>
    intro s k v hv _ hwait
    rw [exec_teardownDrainEnd_of_slot hv, drainStep_of_waiting hwait]
  case scrubbed =>
    intro s k v tk hv hphase hok htk hown hmem
    obtain ⟨u, hu, hrest⟩ := complete_teardownCounted (k := k) htk hown hmem (fun a => a == .scrub k)
    exact ⟨u, by rw [exec_teardownScrubDone_of_scrubbed hv hphase hok, hu], hrest⟩

end Sys2Proof.Machine
end

section
/-! STEPOPEN, STEPEND, BKTEND and STEPABORT of a core (R197, R219, R220, R228, R231). -/

namespace Sys2Proof.Machine

theorem exec_stepopen (s : State) (i : Issue) : exec (.stepopen i) s = .next (s.runCmd specStepopen i) := rfl
theorem exec_stepend (s : State) (i : Issue) : exec (.stepend i) s = .next (s.runCmd specStepend i) := rfl
theorem exec_bktend (s : State) (i : Issue) : exec (.bktend i) s = .next (s.runCmd specBktend i) := rfl
theorem exec_stepabort (s : State) (i : Issue) : exec (.stepabort i) s = .next (s.runCmd specStepabort i) := rfl

theorem body_specStepopen : specStepopen.body = openStep := rfl
theorem body_specStepend : specStepend.body = endStep := rfl
theorem body_specBktend : specBktend.body = endBucket := rfl
theorem body_specStepabort : specStepabort.body = abortStep := rfl

/-- Only a LIVE context has the slot of a step. -/
theorem live_of_stepOf {s : State} {c n k : Nat} (h : s.stepOf c n = some k) : (s.ctx c).st = .live := by
  unfold State.stepOf at h
  split at h
  case isTrue hlive => exact hlive.2
  case isFalse => cases h

section
variable {s : State} {q : CoreCmd} (hserve : s.serving q.k = true) (ha : q.a < 2 ^ 32) (halive : (s.ctx q.ctx).st ≠ .terminated)
include hserve ha halive

theorem passes_stepopen (hopc : q.opc = 0x20) (hmod : q.mod = 0) (himm : q.imm = 0) (hb : q.b < 2 ^ 64) (hc : q.c < 2 ^ 64) :
    s.Passes q specStepopen :=
  passes_of_rows hserve hopc rfl (by omega) hb hc (by omega) (by omega) (by rw [hmod, himm]; rfl) (.inr halive)
    ((wide_eq_false_iff ..).2 ⟨fun _ => ha, fun h => absurd rfl h, fun h => absurd rfl h, fun h => absurd rfl h⟩)

theorem passes_stepend (hopc : q.opc = 0x21) (hmod : q.mod = 0) (himm : q.imm = 0) (hb : q.b ≤ 2 ^ 24) (hc : q.c ≤ 2 ^ 24) :
    s.Passes q specStepend :=
  passes_of_rows hserve hopc rfl (by omega) (by omega) (by omega) (by omega) (by omega) (by rw [hmod, himm]; rfl) (.inr halive)
    ((wide_eq_false_iff ..).2 ⟨fun _ => ha, fun _ => lt_of_le_of_lt hb (by simp [specStepend]),
      fun _ => lt_of_le_of_lt hc (by simp [specStepend]), fun h => absurd rfl h⟩)

theorem passes_stepabort (hopc : q.opc = 0x23) (hmod : q.mod = 0) (himm : q.imm = 0) (hb : q.b < 2 ^ 64) (hc : q.c < 2 ^ 64) :
    s.Passes q specStepabort :=
  passes_of_rows hserve hopc rfl (by omega) hb hc (by omega) (by omega) (by rw [hmod, himm]; rfl) (.inr halive)
    ((wide_eq_false_iff ..).2 ⟨fun _ => ha, fun h => absurd rfl h, fun h => absurd rfl h, fun h => absurd rfl h⟩)

/-- The bucket comes in IMM with MOD 0, and in gRC with MOD 1. -/
theorem passes_bktend {b : Nat} (hopc : q.opc = 0x22) (hmod : q.mod < 2) (hb : q.b < 2 ^ 24) (hbkt : b < 4096)
    (himm : q.mod = 0 → q.imm = b ∧ q.c < 2 ^ 64) (hreg : q.mod = 1 → q.c = b ∧ q.imm = 0) : s.Passes q specBktend := by
  obtain hzero | hone : q.mod = 0 ∨ q.mod = 1 := by omega
  · obtain ⟨rfl, hc⟩ := himm hzero
    refine passes_of_rows hserve hopc rfl (by omega) (by omega) hc (by omega) (by omega) ?_ (.inr halive)
      ((wide_eq_false_iff ..).2 ⟨fun _ => ha, fun _ => hb, fun h => absurd (if_pos hzero) h, fun _ => ?_⟩)
    · rw [hzero]
      rfl
    · have hmod0 : (q.cmd s).mod = 0 := hzero
      rw [hmod0]
      exact hbkt
  · obtain ⟨rfl, himm0⟩ := hreg hone
    have hmod1 : (q.cmd s).mod = 1 := hone
    refine passes_of_rows hserve hopc rfl (by omega) (by omega) (by omega) (by omega) (by omega) ?_ (.inr halive)
      ((wide_eq_false_iff ..).2 ⟨fun _ => ha, fun _ => hb, fun _ => ?_, fun h => absurd (if_neg (by rw [hmod1]; decide)) h⟩)
    · rw [hone, himm0]
      rfl
    · rw [hmod1]
      exact hbkt

end

/-! ### STEPOPEN (R197, R219) -/

/-- The slot of a step that opens, with the settings in force. -/
def State.openedSlot (s : State) (c n : Nat) : Slot :=
  { st := .open_, step := n, replays := s.reg Reg.lidCtrl % 16, sieve := s.sieveLatch, opened := s.time, provMode := (s.ctx c).provMode }

/-- The entry of a context that opens step `n`. -/
def State.openedCtx (s : State) (c n : Nat) : Ctx :=
  { s.ctx c with
    slots := setAt (s.ctx c).slots (n % 4) (s.openedSlot c n), anyStep := false
    committed := if (s.ctx c).anyStep then (n + 2 ^ 32 - 1) % 2 ^ 32 else (s.ctx c).committed
    stood := if (s.ctx c).anyStep then s.boundScales c else (s.ctx c).stood }

/-- The state in which a context has opened step `n`. -/
def State.stepOpened (s : State) (c n : Nat) : State :=
  ((s.setCtx c (s.openedCtx c n)).forgetStep c n).count Reg.lidCntOpened

theorem openStep_of_mayOpen {s : State} {c : Cmd} (hctx : c.ctx ≠ 0) (hlive : (s.ctx c.ctx).st = .live)
    (hbuddy : (s.ctx c.ctx).buddy = none) (hmay : (s.ctx c.ctx).mayOpen c.a = true) : openStep c s = (s.stepOpened c.ctx c.a, .ok 0) := by
  have hlegal : ¬ (c.ctx = 0 ∨ (s.ctx c.ctx).st ≠ .live ∨ (s.ctx c.ctx).mayOpen c.a = false ∨
      ((s.ctx c.ctx).buddy.isSome ∧ (s.ctx c.ctx).liveSlots ≠ [])) := by
    simp [hctx, hlive, hmay, hbuddy]
  have hmirror : ¬ (s.ctx c.ctx).mirrorBusy c.a = true := by simp [Ctx.mirrorBusy, hbuddy]
  unfold openStep
  rw [if_neg hlegal, if_neg hmirror]
  rfl

theorem openStep_of_not_mayOpen {s : State} {c : Cmd} (hmay : (s.ctx c.ctx).mayOpen c.a = false) :
    openStep c s = reject s stIllegalState := by
  simp [openStep, hmay]

theorem stepOpened_frame (s : State) (c n : Nat) :
    s.stepOpened c n = { s.count Reg.lidCntOpened with ctxs := (s.stepOpened c n).ctxs, progs := (s.stepOpened c n).progs } := rfl

theorem progs_stepOpened (s : State) (c n : Nat) : (s.stepOpened c n).progs = s.progs.map (fun p =>
    if p.2.ctx = c then (p.1, { p.2 with steps := p.2.steps.filter (fun x => x.1 ≠ n) }) else p) := by
  have hforget : (s.stepOpened c n).progs = s.progs.map (fun p =>
    if p.2.ctx == c then (p.1, { p.2 with steps := p.2.steps.filter (fun x => x.1 != n) }) else p) := rfl
  simp only [hforget, bne, beq_eq_decide, decide_not, decide_eq_true_eq]

theorem ctx_stepOpened (s : State) (c n d : Nat) : (s.stepOpened c n).ctx d = if c = d then s.openedCtx c n else s.ctx d :=
  ctx_setCtx ..

theorem slot_stepOpened_same (s : State) (c n : Nat) : (s.stepOpened c n).slot c (n % 4) =
    if n % 4 < (s.ctx c).slots.length then s.openedSlot c n else {} := by
  rw [State.slot, ctx_stepOpened, if_pos rfl, State.openedCtx, setAt_eq_set, Ctx.slot]
  by_cases hlen : n % 4 < (s.ctx c).slots.length <;> simp [hlen]

theorem slot_stepOpened_of_ne (s : State) (c n : Nat) {j : Nat} (hj : j ≠ n % 4) : (s.stepOpened c n).slot c j = s.slot c j := by
  rw [State.slot, ctx_stepOpened, if_pos rfl, State.openedCtx, setAt_eq_set, Ctx.slot, List.getElem?_set_ne (Ne.symm hj)]
  rfl

/-- An entry of the journal leaves the settings that a step takes over. -/
theorem State.JournalOnly.openedSlot {s t : State} (h : s.JournalOnly t) (c n : Nat) : t.openedSlot c n = s.openedSlot c n := by
  have hreg (a : Nat) (ha : a ∈ [Reg.lidCtrl, Reg.hubSieveCfg, Reg.hubSieveRate, Reg.hubSieveRate64]) : t.reg a = s.reg a := by
    refine h.reg a ?_
    simp only [List.mem_cons, List.not_mem_nil, or_false] at ha
    rcases ha with rfl | rfl | rfl | rfl <;> unfold journalReg <;> decide
  have hmodel : t.model = s.model := funext fun k => congrArg (fun x => Tab.get ({} : Model) x k) h.models
  simp only [State.openedSlot, State.sieveLatch, h.ctx, h.time, h.seed, hmodel, hreg Reg.lidCtrl (by decide),
    hreg Reg.hubSieveCfg (by decide), hreg Reg.hubSieveRate (by decide), hreg Reg.hubSieveRate64 (by decide)]

/-- R219: a context without an open step opens the one behind its last committed one. -/
theorem mayOpen_iff_of_idle {e : Ctx} (hany : e.anyStep = false) (hidle : e.liveSlots = [])
    (hfree : (e.slot ((e.committed + 1) % 2 ^ 32 % 4)).st = .free) (n : Nat) : e.mayOpen n = true ↔ n = (e.committed + 1) % 2 ^ 32 := by
  have hnext : e.nextStep = some ((e.committed + 1) % 2 ^ 32) := by simp [Ctx.nextStep, hidle, hany]
  have hmay : e.mayOpen n = (((e.committed + 1) % 2 ^ 32 == n) && (e.slot (n % 4)).st == .free) := by
    simp [Ctx.mayOpen, hnext, hidle]
  rw [hmay]
  refine ⟨fun h => ?_, fun h => ?_⟩
  · exact (beq_iff_eq.1 (Bool.and_eq_true_iff.1 h).1).symm
  · rw [h, hfree]
    simp

/-! ### STEPEND (R220) -/

/-- A step once its end has come with its `n` and `U`, without provenance. -/
def Slot.endedWith (sl : Slot) (n u : Nat) : Slot := { sl with st := .ended, n := n, u := u, prog := [] }

theorem pairFlush_of_unpaired {s : State} {c : Nat} (h : s.pairing c = none) (k : Nat) : s.pairFlush c k = s := by
  simp [State.pairFlush, h]

/-- The end of an open step fits when every accepted op lies below `n` and every ended bucket below `U` (R220). -/
structure Slot.Fits (sl : Slot) (n u : Nat) : Prop where
  open_ : sl.st = .open_
  le : u ≤ n
  ops : ∀ o ∈ sl.ops, o.notAccepted = false → o.d.opseq < n
  buckets : ∀ p ∈ sl.buckets, ∀ l, p.2.last = some l → l < u

theorem endStep_of_fits {s : State} {c : Cmd} {k : Nat} (hb : 0 < c.b) (hb24 : c.b ≤ 2 ^ 24) (hstep : s.stepOf c.ctx c.a = some k)
    (hfit : (s.slot c.ctx k).Fits c.b c.c) (hmode : (s.slot c.ctx k).provMode = 0) (hpair : s.pairing c.ctx = none) :
    endStep c s = (s.setSlot c.ctx k ((s.slot c.ctx k).endedWith c.b c.c), .ok 0) := by
  obtain ⟨hopen, hle, hops, hbuckets⟩ := hfit
  have hrange : ¬ (c.b = 0 ∨ 2 ^ 24 < c.b ∨ 2 ^ 24 < c.c) := by omega
  have hops' : (s.slot c.ctx k).ops.all (fun o => o.notAccepted || decide (o.d.opseq < c.b)) = true :=
    List.all_eq_true.2 fun o ho => by
      cases hacc : o.notAccepted
      · simpa using hops o ho hacc
      · rfl
  have hbuckets' : (s.slot c.ctx k).buckets.all (fun p => match p.2.last with
      | some l => decide (l < c.c)
      | none => true) = true :=
    List.all_eq_true.2 fun p hp => by
      cases hlast : p.2.last with
      | none => rfl
      | some l => simpa using hbuckets p hp l hlast
  have hflush := pairFlush_of_unpaired (s := s.setSlot c.ctx k ((s.slot c.ctx k).endedWith c.b c.c)) (c := c.ctx) hpair k
  unfold endStep
  rw [if_neg hrange, hstep]
  dsimp only
  rw [if_pos ⟨hopen, hle, hops', hbuckets'⟩, if_pos hmode]
  exact congrArg (·, Reply.ok 0) hflush

/-! ### BKTEND (R220, R231) -/

/-- The bucket that BKTEND names. -/
def Cmd.bucket (c : Cmd) : Nat := if c.mod = 0 then c.imm else c.c

section
variable {s : State} {c : Cmd} {k : Nat} (hstep : s.stepOf c.ctx c.a = some k)
include hstep

theorem endBucket_of_open (hlive : (s.slot c.ctx k).live = true) (hnulled : (s.slot c.ctx k).nulled = false)
    (hlast : ((s.slot c.ctx k).bucket c.bucket).last = none) (hrel : ((s.slot c.ctx k).bucket c.bucket).released = false)
    (hnull : ((s.slot c.ctx k).bucket c.bucket).nulled = false) (hu : (s.slot c.ctx k).n = 0 ∨ c.b < (s.slot c.ctx k).u) :
    endBucket c s = (s.setSlot c.ctx k ((s.slot c.ctx k).setBucket c.bucket
      { (s.slot c.ctx k).bucket c.bucket with last := some c.b }), .ok 0) := by
  rw [Cmd.bucket] at *
  have hin : ¬ ((s.slot c.ctx k).n ≠ 0 ∧ (s.slot c.ctx k).u ≤ c.b) := by omega
  simp only [endBucket, hstep, hlive, hnulled, hlast, hrel, hnull, hin, Option.isSome_none, Bool.true_eq_false, Bool.false_eq_true, or_self,
    if_false]

theorem endBucket_of_ended (hlast : ((s.slot c.ctx k).bucket c.bucket).last ≠ none) : endBucket c s = reject s stIllegalState := by
  rw [Cmd.bucket] at hlast
  simp [endBucket, hstep, Option.isSome_iff_ne_none.2 hlast]

/-! ### STEPABORT (R228) -/

theorem abortStep_of_live (hlive : (s.slot c.ctx k).live = true) (hlast : (s.ctx c.ctx).later (s.slot c.ctx k).step = []) :
    abortStep c s = (s.abandonOne c.ctx k 1 0, .ok 0) := by
  simp [abortStep, hstep, hlive, State.abandon, hlast, State.abandonAll]

end

/-! ### The commands of a core -/

section
variable {s : State} {q : CoreCmd} {k : Nat}

theorem exec_stepopen_of_mayOpen (h : s.Passes q specStepopen) (hctx : q.ctx ≠ 0) (hlive : (s.ctx q.ctx).st = .live)
    (hbuddy : (s.ctx q.ctx).buddy = none) (hmay : (s.ctx q.ctx).mayOpen q.a = true) :
    exec (.stepopen q.issue) s = .next (((s.noted q).stepOpened q.ctx q.a).count Reg.hubCntCmd) := by
  rw [exec_stepopen, runCmd_of_done h (f := fun t => t.stepOpened q.ctx q.a) (v := fun _ => 0)]
  intro t ht
  rw [← ht.ctx] at hlive hbuddy hmay
  rw [body_specStepopen]
  exact openStep_of_mayOpen (c := q.cmd s) hctx hlive hbuddy hmay

theorem exec_stepopen_of_not_mayOpen (h : s.Passes q specStepopen) (hmay : (s.ctx q.ctx).mayOpen q.a = false) :
    exec (.stepopen q.issue) s = .next (s.rejected q stIllegalState) := by
  rw [exec_stepopen, runCmd_of_rejected h (openStep_of_not_mayOpen (c := q.cmd s) hmay)]

theorem exec_stepend_of_fits (h : s.Passes q specStepend) (hb : 0 < q.b) (hb24 : q.b ≤ 2 ^ 24) (hstep : s.stepOf q.ctx q.a = some k)
    (hfit : (s.slot q.ctx k).Fits q.b q.c) (hmode : (s.slot q.ctx k).provMode = 0) (hpair : s.pairing q.ctx = none) :
    exec (.stepend q.issue) s =
      .next (((s.noted q).setSlot q.ctx k ((s.slot q.ctx k).endedWith q.b q.c)).count Reg.hubCntCmd) := by
  rw [exec_stepend, runCmd_of_done h (f := fun t => t.setSlot q.ctx k ((s.slot q.ctx k).endedWith q.b q.c)) (v := fun _ => 0)]
  intro t ht
  rw [← ht.slot] at hfit hmode ⊢
  rw [body_specStepend]
  exact endStep_of_fits (c := q.cmd s) hb hb24 ((ht.stepOf ..).trans hstep) hfit hmode ((ht.pairing _).trans hpair)

theorem exec_bktend_of_open (h : s.Passes q specBktend) (hstep : s.stepOf q.ctx q.a = some k) (hlive : (s.slot q.ctx k).live = true)
    (hnulled : (s.slot q.ctx k).nulled = false) {b : Nat} (hbkt : (q.cmd s).bucket = b) (hlast : ((s.slot q.ctx k).bucket b).last = none)
    (hrel : ((s.slot q.ctx k).bucket b).released = false) (hnull : ((s.slot q.ctx k).bucket b).nulled = false)
    (hu : (s.slot q.ctx k).n = 0 ∨ q.b < (s.slot q.ctx k).u) : exec (.bktend q.issue) s = .next (((s.noted q).setSlot q.ctx k
      ((s.slot q.ctx k).setBucket b { (s.slot q.ctx k).bucket b with last := some q.b })).count Reg.hubCntCmd) := by
  subst hbkt
  rw [exec_bktend, runCmd_of_done h (f := fun t => t.setSlot q.ctx k ((s.slot q.ctx k).setBucket (q.cmd s).bucket
    { (s.slot q.ctx k).bucket (q.cmd s).bucket with last := some q.b })) (v := fun _ => 0)]
  intro t ht
  rw [← ht.slot] at hlive hnulled hlast hrel hnull hu ⊢
  rw [body_specBktend]
  exact endBucket_of_open (c := q.cmd s) ((ht.stepOf ..).trans hstep) hlive hnulled hlast hrel hnull hu

theorem exec_bktend_of_ended (h : s.Passes q specBktend) (hstep : s.stepOf q.ctx q.a = some k) {b : Nat} (hbkt : (q.cmd s).bucket = b)
    (hlast : ((s.slot q.ctx k).bucket b).last ≠ none) : exec (.bktend q.issue) s = .next (s.rejected q stIllegalState) := by
  subst hbkt
  rw [exec_bktend, runCmd_of_rejected h (endBucket_of_ended (c := q.cmd s) hstep hlast)]

theorem exec_stepabort_of_live (h : s.Passes q specStepabort) (hstep : s.stepOf q.ctx q.a = some k) (hlive : (s.slot q.ctx k).live = true)
    (hlast : (s.ctx q.ctx).later (s.slot q.ctx k).step = []) :
    exec (.stepabort q.issue) s = .next (((s.noted q).abandonOne q.ctx k 1 0).count Reg.hubCntCmd) := by
  rw [exec_stepabort, runCmd_of_done h (f := fun t => t.abandonOne q.ctx k 1 0) (v := fun _ => 0)]
  intro t ht
  rw [← ht.slot, ← ht.ctx] at hlast
  rw [← ht.slot] at hlive
  rw [body_specStepabort]
  exact abortStep_of_live (c := q.cmd s) ((ht.stepOf ..).trans hstep) hlive hlast

end

/-- Settles O28: each command of a core by what its sub-block answers whatever entries stand; an aborted step by what `abandonOne` leaves of
the contexts. -/
theorem stepsAndBuckets : Obligations.StepsAndBuckets := by
  unfold Obligations.StepsAndBuckets
  refine ⟨⟨?stepopen, fun e hany hidle hfree n _ => mayOpen_iff_of_idle hany hidle hfree n, ?stepend⟩, ?bktend, ?stepabort⟩
  case stepopen =>
    intro s q hopc hserve hctx ha hmod himm hb hc hlive hbuddy
    have hpass := passes_stepopen hserve ha (by rw [hlive]; decide) hopc hmod himm hb hc
    refine ⟨fun hmay => ?_, exec_stepopen_of_not_mayOpen hpass⟩
    have hjo := State.JournalOnly.noted s q stOk 0
    refine ⟨(s.noted q).stepOpened q.ctx q.a, exec_stepopen_of_mayOpen hpass hctx hlive hbuddy hmay, ?_, fun j hj => ?_, fun c hc => ?_,
      stepOpened_frame .., ?_⟩
    · rw [slot_stepOpened_same, hjo.ctx, hjo.openedSlot]
      rfl
    · rw [slot_stepOpened_of_ne _ _ _ hj, hjo.slot]
    · rw [ctx_stepOpened, if_neg (Ne.symm hc), hjo.ctx]
    · rw [progs_stepOpened, hjo.progs]
  case stepend =>
    intro s q k hopc hserve _ ha hb hb24 hcb hmod himm hstep hopen hmode hpair hops hbuckets
    have hpass := passes_stepend hserve ha (by rw [live_of_stepOf hstep]; decide) hopc hmod himm hb24 (hcb.trans hb24)
    exact exec_stepend_of_fits hpass hb hb24 hstep ⟨hopen, hcb, hops, hbuckets⟩ hmode hpair
  case bktend =>
    intro s q k b hopc hserve _ ha hb hmod hbkt himm hreg halive hstep hlive hnulled
    have hpass := passes_bktend hserve ha halive hopc hmod hb hbkt himm hreg
    have hbucket : (q.cmd s).bucket = b := by
      obtain hzero | hone : q.mod = 0 ∨ q.mod = 1 := by omega
      · exact (if_pos hzero).trans (himm hzero).1
      · have hne : (q.cmd s).mod ≠ 0 := by
          rw [show (q.cmd s).mod = 1 from hone]
          decide
        exact (if_neg hne).trans (hreg hone).1
    exact ⟨fun hlast hrel hnull hu => exec_bktend_of_open hpass hstep hlive hnulled hbucket hlast hrel hnull hu,
      fun hlast => exec_bktend_of_ended hpass hstep hbucket hlast⟩
  case stepabort =>
    intro s q k hopc hserve _ ha hmod himm hb hc hstep hlive hk hlast
    have hpass := passes_stepabort hserve ha (by rw [live_of_stepOf hstep]; decide) hopc hmod himm hb hc
    have hjo := State.JournalOnly.noted s q stOk 0
    obtain ⟨v, stats, hst, hcause, hpins, hctx⟩ := exists_ctx_abandonOne (s := s.noted q) (by rw [hjo.slot]; exact hlive) 1 0
    rw [hjo.ctx] at hctx
    have hslot : ((s.noted q).abandonOne q.ctx k 1 0).slot q.ctx k = v := by simp [State.slot, hctx, Ctx.slot, hk]
    refine ⟨_, exec_stepabort_of_live hpass hstep hlive hlast, by rw [hslot, hst], by rw [hslot, hcause], by rw [hslot, hpins],
      fun c hc => ?_⟩
    rw [hctx, if_neg (Ne.symm hc), hjo.ctx]

end Sys2Proof.Machine
end

section
/-! Instructions on their thread (R245, R248, R252 to R255): the fetch of a word, the program that it leaves, and PC. -/

namespace Sys2Proof.Machine

/-! ### Programs in flight -/

theorem place_place {α : Type} (t : List (Nat × α)) (k : Nat) (v w : α) : Tab.place (Tab.place t k v) k w = Tab.place t k w := by
  induction t with
  | nil => simp [Tab.place]
  | cons x t ih =>
    obtain ⟨j, u⟩ := x
    by_cases hlt : k < j
    · simp [Tab.place, hlt]
    · by_cases heq : k = j
      · simp [Tab.place, heq]
      · simp [Tab.place, hlt, heq, ih]

theorem lookup_place_of_ne {α : Type} (t : List (Nat × α)) {k j : Nat} (h : j ≠ k) (v : α) : lookup (Tab.place t k v) j = lookup t j := by
  induction t with
  | nil => simp [Tab.place, lookup, Ne.symm h]
  | cons x t ih =>
    obtain ⟨i, u⟩ := x
    by_cases hlt : k < i
    · simp [Tab.place, hlt, lookup, Ne.symm h]
    · by_cases heq : k = i
      · subst heq
        simp [Tab.place, lookup, Ne.symm h]
      · simp [Tab.place, hlt, heq, lookup, ih]

theorem setProgram_setProgram (s : State) (k : Nat) (v w : Program) : (s.setProgram k v).setProgram k w = s.setProgram k w := by
  simp [State.setProgram, place_place]

/-- PC within the program (R255). -/
theorem goto_of_lt {s : State} {id pc : Nat} {p : Program} (hp : s.program id = some p) (hpc : pc < p.length) :
    s.goto id pc = s.setProgram id { p with pc := pc } := by
  simp [State.goto, hp, hpc]

theorem goto_of_ge {s : State} {id pc : Nat} {p : Program} (hp : s.program id = some p) (hpc : p.length ≤ pc) :
    s.goto id pc = s.endProgram id stBadOperand true := by
  simp [State.goto, hp, Nat.not_lt.2 hpc]

theorem advance_of_lt {s : State} {id : Nat} {p : Program} (hp : s.program id = some p) (hpc : p.pc + 1 < p.length) :
    s.advance id = s.setProgram id { p with pc := p.pc + 1 } := by
  simp [State.advance, hp, goto_of_lt hp hpc]

theorem advance_setProgram (s : State) (id : Nat) {p : Program} (hpc : p.pc + 1 < p.length) :
    (s.setProgram id p).advance id = s.setProgram id { p with pc := p.pc + 1 } :=
  (advance_of_lt (program_setProgram ..) hpc).trans (setProgram_setProgram ..)

/-- A write of a register keeps the other fields of its program (R253). -/
theorem setG_eq (p : Program) (r v : Nat) : p.setG r v = { p with regs := (p.setG r v).regs } := by
  unfold Program.setG
  split_ifs <;> rfl

@[simp] theorem pc_setG (p : Program) (r v : Nat) : (p.setG r v).pc = p.pc := by rw [setG_eq]
@[simp] theorem length_setG (p : Program) (r v : Nat) : (p.setG r v).length = p.length := by rw [setG_eq]

/-- A register reads back what was written to it, g0 zero, and the others keep their values (R253). -/
theorem g_setG (p : Program) {r v : Nat} (hr : r ≤ 15) (hlen : p.regs.length = 15) (hv : v < 2 ^ 64) (q : Nat) :
    (p.setG r v).g q = if q = r ∧ r ≠ 0 then v else p.g q := by
  by_cases hr0 : r = 0
  · simp [Program.setG, hr0]
  · by_cases hq0 : q = 0
    · simp [Program.g, hq0, Ne.symm hr0]
    · have hidx : (r - 1 = q - 1) = (q = r) := by
        rw [eq_iff_iff]
        omega
      have hlt : r - 1 < p.regs.length := by omega
      simp only [Program.setG, Program.g, hr0, hq0, if_false, setAt_eq_set, List.getElem?_set, hidx, Nat.mod_eq_of_lt hv]
      by_cases hqr : q = r <;> simp [hqr, hr0, hlt]

/-! ### The fetch of an instruction word (R245, R252, R257) -/

theorem encodeWord_opcode (opc rd ra rb rc mod imm : Nat) : encodeWord opc rd ra rb rc mod imm / 2 ^ 56 = opc % 256 := by
  unfold encodeWord
  omega

theorem encodeWord_reserved (opc rd ra rb rc mod imm : Nat) : encodeWord opc rd ra rb rc mod imm / 2 ^ 32 % 16 = 0 := by
  unfold encodeWord
  omega

theorem lt_of_listed {opc : Nat} (h : listedOpcodes.contains opc = true) : opc < 256 := by
  have hall : ∀ x ∈ listedOpcodes, x < 256 := by decide
  exact hall opc (by simpa using h)

section
variable {s : State} {t id w : Nat} {p : Program} (h : s.runsWord t id p w)
include h

/-- The word is one that the program's verified block holds, so that the fetch looks at the word alone. -/
theorem fetch_of_runsWord (word : Nat) : s.fetch t word =
    if listedOpcodes.contains (w / 2 ^ 56) = false ∨ w / 2 ^ 32 % 16 ≠ 0 then
      (((s.issues t).recordBad t id w p).endProgram id stIllegalOpcode true, none)
    else if w ≠ word then (s, none) else (s.issues t, some (id, p)) := by
  obtain ⟨ht, hsel, hprog, hp, hgen, hver, hw, -⟩ := h
  have htorn : s.tornDown p = false := by
    by_cases hctx : p.ctx = 0
    · simp [State.tornDown, hctx]
    · simp [State.tornDown, hgen hctx]
  unfold State.fetch
  simp only [ht, hsel, hprog, hp, htorn, hver, hw, decide_true, Bool.and_self, if_true, Option.bind_some, Option.map_some, Bool.not_true,
    Bool.false_and, Bool.false_eq_true, if_false]
  split_ifs with hbad hbad' hne hne' <;> simp_all

theorem fetch_of_unlisted (hbad : listedOpcodes.contains (w / 2 ^ 56) = false ∨ w / 2 ^ 32 % 16 ≠ 0) (word : Nat) :
    s.fetch t word = (((s.issues t).recordBad t id w p).endProgram id stIllegalOpcode true, none) := by
  rw [fetch_of_runsWord h, if_pos hbad]

end

section
variable {s : State} {t id opc rd ra rb rc mod imm : Nat} {p : Program} (h : s.runsWord t id p (encodeWord opc rd ra rb rc mod imm))
  (hopc : listedOpcodes.contains opc = true)
include h hopc

theorem fetch_of_listed : s.fetch t (encodeWord opc rd ra rb rc mod imm) = (s.issues t, some (id, p)) := by
  have hgood : ¬ (listedOpcodes.contains (encodeWord opc rd ra rb rc mod imm / 2 ^ 56) = false ∨
      encodeWord opc rd ra rb rc mod imm / 2 ^ 32 % 16 ≠ 0) := by
    rw [encodeWord_opcode, encodeWord_reserved, Nat.mod_eq_of_lt (lt_of_listed hopc), hopc]
    simp
  rw [fetch_of_runsWord h, if_neg hgood, if_neg (not_not.2 rfl)]

/-- A local instruction without an unused field set has its effect on its thread. -/
theorem local_of_runsWord (hrd : rd < 16) (hra : ra < 16) (hrb : rb < 16) (hrc : rc < 16) {bad : Nat → Nat → Nat → Nat → Bool}
    (hbad : bad rd ra rb rc = false) (f : State → Nat → Nat → Program → Nat → Nat → Nat → State) :
    s.local' opc { by_ := .thread t rd ra rb rc, mod := mod, imm := imm } bad f = f (s.issues t) t id p rd ra rb := by
  simp only [State.local', fetch_of_listed h hopc, Nat.mod_eq_of_lt hrd, Nat.mod_eq_of_lt hra, Nat.mod_eq_of_lt hrb, Nat.mod_eq_of_lt hrc,
    hbad, Bool.false_eq_true, if_false]

end

/-- The program on a thread that issues stands, with its next instruction inside it. -/
theorem program_of_runsWord {s : State} {t id w : Nat} {p : Program} (h : s.runsWord t id p w) :
    (s.issues t).program id = some p ∧ p.pc + 1 < p.length := by
  obtain ⟨-, -, -, hp, -, -, -, hpc⟩ := h
  exact ⟨hp, hpc⟩

end Sys2Proof.Machine
end

section
/-! NOP, LDI, ALU, BR, LD and ST of a thread (R253 to R255): what each leaves of its program, and the eight bytes that ST writes. -/

namespace Sys2Proof.Machine

/-! ### The instructions -/

section
variable {s : State} {t id : Nat} {p : Program}

theorem exec_nop_of_runsWord (h : s.runsWord t id p (encodeWord 0 0 0 0 0 0 0)) :
    exec (.nop { by_ := .thread t 0 0 0 0, mod := 0, imm := 0 }) s = .next ((s.issues t).setProgram id { p with pc := p.pc + 1 }) := by
  obtain ⟨hp, hpc⟩ := program_of_runsWord h
  have hexec (i : Issue) : exec (.nop i) s = execNop i s := rfl
  rw [hexec, execNop, local_of_runsWord h rfl (by decide) (by decide) (by decide) (by decide) rfl, advance_of_lt hp hpc]

/-- LDI and ALU leave a value in gRD, with PC behind them. -/
theorem advance_setG (hpc : p.pc + 1 < p.length) (s : State) (rd v : Nat) : ∃ u, (s.setProgram id (p.setG rd v)).advance id = u ∧
    u.program id = some { p.setG rd v with pc := p.pc + 1 } ∧ u = { s with progs := u.progs } := by
  have hadv := advance_setProgram s id (p := p.setG rd v) (by simpa using hpc)
  rw [pc_setG] at hadv
  exact ⟨_, hadv, program_setProgram .., rfl⟩

theorem exec_ldi_of_runsWord {rd mod imm : Nat} (hrd : rd < 16) (hmod : mod < 2) (himm : imm < 2 ^ 32)
    (h : s.runsWord t id p (encodeWord 2 rd 0 0 0 mod imm)) : exec (.ldi { by_ := .thread t rd 0 0 0, mod := mod, imm := imm }) s =
      .next (((s.issues t).setProgram id
        (p.setG rd (if mod = 0 then sext32 imm else imm * 2 ^ 32 + p.g rd % 2 ^ 32))).advance id) := by
  have hexec (i : Issue) : exec (.ldi i) s = execLdi i s := rfl
  have hmod' : mod % 16 = mod := Nat.mod_eq_of_lt (by omega)
  have hbad : (0 + 0 + 0 != 0 || decide (1 < mod % 16)) = false := by
    rw [hmod']
    simpa using Nat.le_of_lt_succ hmod
  rw [hexec, execLdi, local_of_runsWord h rfl hrd (by decide) (by decide) (by decide) hbad]
  simp only [hmod', Nat.mod_eq_of_lt himm]

theorem exec_alu_of_runsWord {rd ra rb mod imm : Nat} (hrd : rd < 16) (hra : ra < 16) (hrb : rb < 16) (hmod : mod < 7)
    (h : s.runsWord t id p (encodeWord 3 rd ra rb 0 mod imm)) : exec (.alu { by_ := .thread t rd ra rb 0, mod := mod, imm := imm }) s =
      .next (((s.issues t).setProgram id (p.setG rd (aluOp mod (p.g ra) ((p.g rb + sext32 imm) % 2 ^ 64)))).advance id) := by
  have hexec (i : Issue) : exec (.alu i) s = execAlu i s := rfl
  have hmod' : mod % 16 = mod := Nat.mod_eq_of_lt (by omega)
  have hbad : (0 != 0 || decide (6 < mod % 16)) = false := by
    rw [hmod']
    simpa using Nat.le_of_lt_succ hmod
  rw [hexec, execAlu, local_of_runsWord h rfl hrd hra hrb (by decide) hbad]
  simp only [hmod']

/-- BR goes to the sum of PC and its offset where its condition holds; a target outside the program ends it. -/
theorem exec_br_of_runsWord {ra rb mod imm : Nat} (hra : ra < 16) (hrb : rb < 16) (hmod : mod < 16) (himm : imm < 2 ^ 32)
    (hbad : brBad mod imm 0 ra rb 0 = false) (h : s.runsWord t id p (encodeWord 4 0 ra rb 0 mod imm)) :
    exec (.br { by_ := .thread t 0 ra rb 0, mod := mod, imm := imm }) s = .next (
      if brTaken mod p.status imm (p.g ra) (p.g rb) then
        (if 0 ≤ (p.pc : Int) + signedOf 16 (imm / 2 ^ 16) ∧ ((p.pc : Int) + signedOf 16 (imm / 2 ^ 16)).toNat < p.length then
          (s.issues t).setProgram id { p with pc := ((p.pc : Int) + signedOf 16 (imm / 2 ^ 16)).toNat }
        else (s.issues t).endProgram id stBadOperand true)
      else (s.issues t).setProgram id { p with pc := p.pc + 1 }) := by
  obtain ⟨hp, hpc⟩ := program_of_runsWord h
  have hexec (i : Issue) : exec (.br i) s = execBr i s := rfl
  have hoff : imm / 2 ^ 16 % 2 ^ 16 = imm / 2 ^ 16 := Nat.mod_eq_of_lt (by omega)
  rw [hexec, execBr, local_of_runsWord h rfl (by decide) hra hrb (by decide) (by rw [Nat.mod_eq_of_lt hmod]; exact hbad)]
  simp only [Nat.mod_eq_of_lt hmod, hoff, advance_of_lt hp hpc]
  generalize (p.pc : Int) + signedOf 16 (imm / 2 ^ 16) = pc
  split_ifs with htaken hneg hin hin
  · omega
  · rfl
  · exact congrArg _ (goto_of_lt hp hin.2)
  · exact congrArg _ (goto_of_ge hp (by omega))
  · rfl

/-! ### LD and ST (R255, R258) -/

theorem paramOff_of_legal {a imm o : Nat} (ho : o = (a + sext32 imm) % 2 ^ 64) (h8 : o % 8 = 0) (hlt : o < 4096) :
    paramOff a imm = some o := by
  subst ho
  exact if_pos ⟨h8, hlt⟩

theorem paramOff_of_illegal {a imm o : Nat} (ho : o = (a + sext32 imm) % 2 ^ 64) (hbad : o % 8 ≠ 0 ∨ 4096 ≤ o) :
    paramOff a imm = none := by
  subst ho
  exact if_neg (by omega)

section
variable {ra imm o : Nat} (hra : ra < 16) (ho : o = (p.g ra + sext32 imm) % 2 ^ 64)
include hra ho

section
variable {rd : Nat} (hrd : rd < 16) (h : s.runsWord t id p (encodeWord 5 rd ra 0 0 0 imm))
include hrd h

theorem exec_ld_of_legal (h8 : o % 8 = 0) (hlt : o < 4096) : exec (.ld { by_ := .thread t rd ra 0 0, mod := 0, imm := imm }) s =
    .next (((s.issues t).setProgram id (p.setG rd (leNat (s.bytes (p.param * 4096 + o) 8)))).advance id) := by
  have hexec (i : Issue) : exec (.ld i) s = execLd i s := rfl
  rw [hexec, execLd, local_of_runsWord h rfl hrd hra (by decide) (by decide) rfl]
  simp only [paramOff_of_legal ho h8 hlt]
  rfl

theorem exec_ld_of_illegal (hbad : o % 8 ≠ 0 ∨ 4096 ≤ o) : exec (.ld { by_ := .thread t rd ra 0 0, mod := 0, imm := imm }) s =
    .next ((s.issues t).endProgram id stBadOperand true) := by
  have hexec (i : Issue) : exec (.ld i) s = execLd i s := rfl
  rw [hexec, execLd, local_of_runsWord h rfl hrd hra (by decide) (by decide) rfl]
  simp only [paramOff_of_illegal ho hbad]
  rfl

end

section
variable {rb : Nat} (hrb : rb < 16) (h : s.runsWord t id p (encodeWord 7 0 ra rb 0 0 imm))
include hrb h

theorem exec_st_of_legal (h8 : o % 8 = 0) (hlt : o < 4096) : exec (.st { by_ := .thread t 0 ra rb 0, mod := 0, imm := imm }) s =
    .next (((s.issues t).writeZ (p.param * 4096 + o) (toLe 8 (p.g rb)) .record).advance id) := by
  have hexec (i : Issue) : exec (.st i) s = execSt i s := rfl
  rw [hexec, execSt, local_of_runsWord h rfl (by decide) hra hrb (by decide) rfl]
  simp only [paramOff_of_legal ho h8 hlt]

theorem exec_st_of_illegal (hbad : o % 8 ≠ 0 ∨ 4096 ≤ o) : exec (.st { by_ := .thread t 0 ra rb 0, mod := 0, imm := imm }) s =
    .next ((s.issues t).endProgram id stBadOperand true) := by
  have hexec (i : Issue) : exec (.st i) s = execSt i s := rfl
  rw [hexec, execSt, local_of_runsWord h rfl (by decide) hra hrb (by decide) rfl]
  simp only [paramOff_of_illegal ho hbad]
  rfl

end

end

end

/-! ### What WRITE_Z leaves in memory (R453) -/

@[simp] theorem length_toLe (n v : Nat) : (toLe n v).length = n := by
  induction n generalizing v with
  | zero => rfl
  | succ n ih => rw [toLe, List.length_cons, ih]

theorem bytes_setBytes_self (s : State) (a : Nat) (b : Bytes) : (s.setBytes a b).bytes a b.length = b := by
  refine List.ext_getElem (by simp [State.bytes, Tab.getRun]) fun i h1 h2 => ?_
  simp only [State.bytes, Tab.getRun, State.setBytes, List.getElem_map, List.getElem_range, tab_get_setRun]
  rw [if_pos (by omega), Nat.add_sub_cancel_left, List.getElem?_eq_getElem h2, Option.getD_some]

/-- A write on the block's own behalf, while a port takes it, changes memory, the sideband of its block and the ports. -/
theorem writeZ_of_own {s : State} (hstall : s.bothStalled = false) (addr : Nat) (b : Bytes) {acc : Access}
    (hown : ∀ t : State, (t.accessCtx acc).1 = 0) : ∃ p0 p1, s.writeZ addr b acc =
      { (s.setBytes addr b).setSb (addr / 4096) 0 with port0 := p0, port1 := p1 } := by
  obtain ⟨p0, p1, hreq⟩ := request_of_own (s := (s.setBytes addr b).setSb (addr / 4096) 0) hstall
    .writeZ (addr / 4096) (addr % 4096 / 64) ((b.length + 63) / 64) (hown _)
  refine ⟨p0, p1, ?_⟩
  rw [State.writeZ, if_neg (by simp [hstall])]
  exact hreq

/-- ST writes its eight bytes, takes the seal of its block, and leaves every other byte and seal. -/
theorem advance_writeZ_record {s : State} {id addr v : Nat} {p : Program} (hp : s.program id = some p) (hpc : p.pc + 1 < p.length)
    (hstall : s.bothStalled = false) : ∃ u, (s.writeZ addr (toLe 8 v) .record).advance id = u ∧
      u.program id = some { p with pc := p.pc + 1 } ∧ u.bytes addr 8 = toLe 8 v ∧ u.sbOf (addr / 4096) = 0 ∧
      (∀ a, a < addr ∨ addr + 8 ≤ a → Tab.get 0 u.mem a = Tab.get 0 s.mem a) ∧ (∀ b, b ≠ addr / 4096 → u.sbOf b = s.sbOf b) ∧
      u = { s with progs := u.progs, mem := u.mem, sb := u.sb, port0 := u.port0, port1 := u.port1 } := by
  obtain ⟨p0, p1, hw⟩ := writeZ_of_own hstall addr (toLe 8 v) (acc := .record) fun _ => rfl
  have hsb := sbOf_setSb s (addr / 4096) 0
  have hbytes := bytes_setBytes_self s addr (toLe 8 v)
  rw [length_toLe] at hbytes
  rw [hw]
  refine ⟨_, advance_of_lt (p := p) hp hpc, program_setProgram .., hbytes, (hsb _).trans (if_pos rfl), fun a ha => ?_, fun b hb => ?_, rfl⟩
  · exact mem_setBytes_of_outside s (by rw [length_toLe]; exact ha)
  · exact (hsb b).trans (if_neg (Ne.symm hb))

/-! ### The operations of ALU -/

theorem aluOp_sub {a b : Nat} (hb : b < 2 ^ 64) : aluOp 1 a b = (a + 2 ^ 64 - b) % 2 ^ 64 := by
  rw [aluOp, if_neg (by decide), if_pos rfl, Nat.mod_eq_of_lt hb]

/-- Settles O25: each instruction by its lemma above, with the program that it leaves; ST by `advance_writeZ_record`. -/
theorem programInstructions : Obligations.ProgramInstructions := by
  unfold Obligations.ProgramInstructions
  refine ⟨⟨fun s t id p h => exec_nop_of_runsWord h, ?ldi, ?alu, ?br, ?setG⟩, fun s t id p ra imm o hra himm ho => ⟨?ld, ?st⟩⟩
  case ldi =>
    intro s t id p rd mod imm hrd hmod himm h
    obtain ⟨u, hadv, hu⟩ := advance_setG (id := id) (program_of_runsWord h).2 (s.issues t) rd
      (if mod = 0 then sext32 imm else imm * 2 ^ 32 + p.g rd % 2 ^ 32)
    exact ⟨_, rfl, u, (exec_ldi_of_runsWord hrd hmod himm h).trans (congrArg _ hadv), hu⟩
  case alu =>
    intro s t id p rd ra rb mod imm hrd hra hrb hmod _ h
    obtain ⟨u, hadv, hu⟩ := advance_setG (id := id) (program_of_runsWord h).2 (s.issues t) rd
      (aluOp mod (p.g ra) ((p.g rb + sext32 imm) % 2 ^ 64))
    refine ⟨_, _, rfl, rfl, ?_, ?_, ?_, ?_, u, (exec_alu_of_runsWord hrd hra hrb hmod h).trans (congrArg _ hadv), hu⟩
    · rintro rfl
      rfl
    · rintro rfl _
      exact aluOp_sub (Nat.mod_lt _ (by decide))
    · rintro rfl
      rfl
    · rintro rfl
      rfl
  case br =>
    intro s t id p ra rb mod imm hra hrb hmod himm hbad h
    exact exec_br_of_runsWord hra hrb hmod himm hbad h
  case setG =>
    intro p r v hr hlen hv
    refine ⟨?_, fun q hq _ => ?_⟩
    · rw [g_setG p hr hlen hv]
      by_cases hr0 : r = 0 <;> simp [hr0, Program.g]
    · rw [g_setG p hr hlen hv, if_neg fun h => hq h.1]
  case ld =>
    intro rd hrd h
    refine ⟨fun h8 hlt => ?_, exec_ld_of_illegal hra ho hrd h⟩
    obtain ⟨u, hadv, hu⟩ := advance_setG (id := id) (program_of_runsWord h).2 (s.issues t) rd (leNat (s.bytes (p.param * 4096 + o) 8))
    exact ⟨u, (exec_ld_of_legal hra ho hrd h h8 hlt).trans (congrArg _ hadv), hu⟩
  case st =>
    intro rb hrb h
    refine ⟨fun h8 hlt hstall => ?_, exec_st_of_illegal hra ho hrb h⟩
    obtain ⟨hp, hpc⟩ := program_of_runsWord h
    have hblk : (p.param * 4096 + o) / 4096 = p.param := by omega
    obtain ⟨u, hadv, hprog, hbytes, hseal, hmem, hseals, hu⟩ := advance_writeZ_record (addr := p.param * 4096 + o) (v := p.g rb) hp hpc hstall
    rw [hblk] at hseal hseals
    exact ⟨u, (exec_st_of_legal hra ho hrb h h8 hlt).trans (congrArg _ hadv), hprog, hbytes, hseal, hmem, hseals, hu⟩

end Sys2Proof.Machine
end

section
/-! Commands of threads and ring entries (R252, R253, R255 to R259, R270, R281): the rows of R262 as the command port takes them, and the
status as it returns. -/

namespace Sys2Proof.Machine

/-! ### The commands of R262 -/

/-- Every command of the port is run by `runCmd` under what R262 says of it. -/
theorem exec_sisCommand {p : (Issue → Instr) × CmdSpec} (hp : p ∈ sisCommands) (i : Issue) (s : State) :
    exec (p.1 i) s = .next (s.runCmd p.2 i) := by
  have hall : ∀ q ∈ sisCommands, exec (q.1 i) s = .next (s.runCmd q.2 i) := by
    unfold sisCommands
    simp only [List.forall_mem_cons]
    exact ⟨rfl, rfl, rfl, rfl, rfl, rfl, rfl, rfl, rfl, rfl, rfl, rfl, rfl, rfl, rfl, rfl, rfl, rfl, rfl, rfl, rfl, rfl, rfl, rfl, rfl, rfl, rfl,
      rfl, rfl, rfl, rfl, rfl, rfl, rfl, rfl, rfl, rfl, rfl, rfl, rfl, fun _ h => absurd h List.not_mem_nil⟩
  exact hall p hp

theorem listed_of_sisCommand {p : (Issue → Instr) × CmdSpec} (hp : p ∈ sisCommands) : listedOpcodes.contains p.2.opc = true := by
  have hall : ∀ o ∈ sisCommands.map (fun q => q.2.opc), listedOpcodes.contains o = true := by decide
  exact hall _ (List.mem_map_of_mem hp)

/-! ### A thread's command (R252, R253, R257) -/

/-- The command of a thread as its sub-block sees it: the registers' values, under the ticket that the state offers. -/
def State.threadCmdOf (s : State) (t id : Nat) (g : Program) (ra rb rc mod imm : Nat) : Cmd :=
  { ctx := g.ctx, a := g.g ra, b := g.g rb, c := g.g rc, mod := mod, imm := imm, tk := s.nextTicket, src := .thread t, prog := some id }

section
variable {s : State} {sp : CmdSpec} {t id rd ra rb rc mod imm : Nat} {g : Program}

theorem runCmd_of_thread (hopc : listedOpcodes.contains sp.opc = true) (hrd : rd < 16) (hra : ra < 16) (hrb : rb < 16) (hrc : rc < 16)
    (hmod : mod < 16) (himm : imm < 2 ^ 32) (h : s.runsWord t id g (encodeWord sp.opc rd ra rb rc mod imm)) :
    s.runCmd sp { by_ := .thread t rd ra rb rc, mod := mod, imm := imm } = (s.issues t).threadCmd sp t id g rd ra rb rc mod imm := by
  simp only [State.runCmd, fetch_of_listed h hopc, Nat.mod_eq_of_lt hrd, Nat.mod_eq_of_lt hra, Nat.mod_eq_of_lt hrb, Nat.mod_eq_of_lt hrc,
    Nat.mod_eq_of_lt hmod, Nat.mod_eq_of_lt himm]

/-- Row 1: an illegal MOD, IMM or register field ends the program. -/
theorem threadCmd_of_row1 (h : sp.row1 mod imm = true ∨ sp.row1Regs mod rd ra rb rc = true) :
    s.threadCmd sp t id g rd ra rb rc mod imm =
      (s.note sp (s.threadCmdOf t id g ra rb rc mod imm)
        (servedEntry sp (s.threadCmdOf t id g ra rb rc mod imm) (srcThread t) id 0 stIllegalOpcode 0)).badOpcode id := by
  have hrow : (sp.row1 mod imm || sp.row1Regs mod rd ra rb rc) = true := by simpa using h
  rw [State.threadCmd, if_pos hrow]
  rfl

/-- Any other command is served, and its reply returns to its program. -/
theorem threadCmd_of_served (h1 : sp.row1 mod imm = false) (h2 : sp.row1Regs mod rd ra rb rc = false) {u : State} {r : Reply} {j : Nat}
    (hserve : s.serve sp (s.threadCmdOf t id g ra rb rc mod imm) (.program id) (srcThread t) id 0 = (u, r, j)) :
    s.threadCmd sp t id g rd ra rb rc mod imm = u.deliver t id rd s.nextTicket r imm := by
  have hrow : ¬ (sp.row1 mod imm || sp.row1Regs mod rd ra rb rc) = true := by simp [h1, h2]
  rw [State.threadCmd, if_neg hrow]
  exact congrArg (fun q : State × Reply × Nat => q.1.deliver t id rd s.nextTicket q.2.1 imm) hserve

/-- Row 2: only context 0 has the instruction. -/
theorem decideCmd_of_privilege {c : Cmd} (h0 : sp.ctx0 = true) (hctx : c.ctx ≠ 0) (hprog : c.prog = some id) :
    s.decideCmd sp c = (s, .no stPrivilege false) := by
  simp [State.decideCmd, h0, hctx, hprog]

theorem reply_of_serve {c : Cmd} {owner : Owner} {source ref cookie j : Nat} {u : State} {r : Reply}
    (hserve : s.serve sp c owner source ref cookie = (u, r, j)) : r = (s.decideCmd sp c).2 :=
  (congrArg (fun q : State × Reply × Nat => q.2.1) hserve).symm

end

/-! ### The return of a status (R253, R258, R259) -/

section
variable {u : State} {id : Nat} {g : Program} (hg : u.program id = some g) (hpc : g.pc + 1 < g.length) (n rd tk imm : Nat)
include hg hpc

theorem deliver_no {st : Nat} (hst : st ≠ stUnreachable) (own : Bool) :
    u.deliver n id rd tk (.no st own) imm = u.setProgram id { g with status := st, pc := g.pc + 1 } := by
  have hdeliver : u.deliver n id rd tk (.no st own) imm = (u.setProgram id { g with status := st }).advance id := by
    simp only [State.deliver, hg, if_neg hst]
    rfl
  exact hdeliver.trans (advance_setProgram u id (p := { g with status := st }) hpc)

theorem deliver_ok (v : Nat) :
    u.deliver n id rd tk (.ok v) imm = u.setProgram id { g.setG rd v with status := 0, pc := g.pc + 1 } := by
  have hdeliver : u.deliver n id rd tk (.ok v) imm = (u.setProgram id { g.setG rd v with status := 0 }).advance id := by
    simp only [State.deliver, hg, Program.setG]
    split_ifs <;> rfl
  rw [hdeliver, advance_setProgram u id (by simpa using hpc), pc_setG]

theorem deliver_later (st : Nat) : u.deliver n id rd tk (.later st) imm =
    u.setProgram id { g.setG rd tk with status := st, pc := g.pc + 1, tickets := g.tickets ++ [tk] } := by
  have hdeliver : u.deliver n id rd tk (.later st) imm =
      (u.setProgram id { g.setG rd tk with status := st, tickets := g.tickets ++ [tk] }).advance id := by
    simp only [State.deliver, hg, Program.setG]
    split_ifs <;> rfl
  rw [hdeliver, advance_setProgram u id (by simpa using hpc), pc_setG]

omit hpc in
theorem deliver_record (hstall : u.bothStalled = false) (b : Bytes) : u.deliver n id rd tk (.rec_ b) imm =
    (u.writeZ (g.param * 4096 + imm) b (.query n id)).setThread n { u.thread n with st := .issued } := by
  simp only [State.deliver, hg, State.writeResult, hstall, Bool.false_eq_true, if_false]

end

/-! ### A ring entry's command (R281) -/

/-- What the reply to a ring entry's command leaves of its entry. -/
def State.ringReply (u : State) (s : State) (n index : Nat) (e : RingEntry) (j : Nat) : Reply → State
  | .later _ => u.onTaken n index (fun y => { y with served := true, ticket := some s.nextTicket })
  | .rec_ b => (u.ringRecord e.ctx e.a4 e.imm b).finishEntry n index stOk 0 j
  | .ok v => (u.onTaken n index (fun y => { y with served := true })).finishEntry n index stOk v j
  | .no st _ => (u.onTaken n index (fun y => { y with served := true })).finishEntry n index st 0 j

/-- An entry that Kettle 0 may issue: taken, not handed to another core, and neither served nor ended. -/
structure State.Issuable (s : State) (n index : Nat) (x : Taken) : Prop where
  taken : s.taken n index = some x
  up : s.coreUp 0 = true
  handed : x.handed = none
  served : x.served = false
  ran : x.ran = false
  final : x.final = none
  index : x.index = index
  issued_lt : x.e.issued < 16
  imm_lt : x.e.imm < 2 ^ 32

/-- The command of a taken entry, under the ticket that the state offers. -/
def State.ringCmdOf (s : State) (n : Nat) (x : Taken) : Cmd :=
  { ctx := x.e.ctx, a := x.e.a0, b := x.e.a1, c := x.e.a2, mod := x.e.issued, imm := x.e.imm, tk := s.nextTicket, src := .core 0
    ring := some (n, x.index) }

theorem runCmd_of_ring {s : State} {sp : CmdSpec} {n index : Nat} {x : Taken} (h : s.Issuable n index x) (hkind : x.e.kind = sp.opc)
    {u : State} {r : Reply} {j : Nat}
    (hcmd : s.portCmd sp (s.ringCmdOf n x) (.ring n index x.e.cookie) (srcRing n) index x.e.cookie = (u, r, j)) :
    s.runCmd sp { by_ := .ring n index, mod := x.e.issued, imm := x.e.imm } = u.ringReply s n index x.e j r := by
  obtain ⟨htaken, hup, hhanded, hserved, hran, hfinal, rfl, hissued, himm⟩ := h
  have hrun : s.runCmd sp { by_ := .ring n x.index, mod := x.e.issued, imm := x.e.imm } = s.ringCmd sp n x := by
    simp only [State.runCmd, htaken, hup, hhanded, hserved, hran, hfinal, hkind, Nat.mod_eq_of_lt hissued, Nat.mod_eq_of_lt himm,
      bne_self_eq_false, Option.isSome_none, Bool.or_false, Bool.not_true, Bool.false_eq_true, if_false]
  rw [hrun, State.ringCmd]
  simp only [State.ringCmdOf, State.nextTicket] at hcmd
  simp only [hcmd]
  cases r <;> rfl

/-- Settles O24: a thread's command through its fetch, the reply through `deliver`, a ring entry's through `ringCmd`. -/
theorem commandsOfThreadsAndRings : Obligations.CommandsOfThreadsAndRings := by
  unfold Obligations.CommandsOfThreadsAndRings
  refine ⟨?thread, ?deliver, ?ring⟩
  case thread =>
    intro p hp s t id g rd ra rb rc mod imm hrd hra hrb hrc hmod himm h
    refine ⟨_, rfl, fun hrow => ?_, fun h1 h2 u r j hserve => ⟨fun h0 hctx => ?_, ?_⟩⟩
    · rw [exec_sisCommand hp, runCmd_of_thread (listed_of_sisCommand hp) hrd hra hrb hrc hmod himm h, threadCmd_of_row1 hrow]
      rfl
    · rw [reply_of_serve hserve, decideCmd_of_privilege h0 hctx rfl]
    · rw [exec_sisCommand hp, runCmd_of_thread (listed_of_sisCommand hp) hrd hra hrb hrc hmod himm h]
      exact congrArg _ (threadCmd_of_served (s := s.issues t) h1 h2 hserve)
  case deliver =>
    intro u n id g rd tk imm hg hpc
    refine ⟨fun st own hst => ?_, fun v => ?_, fun st => ?_, fun b hstall => deliver_record hg n rd tk imm hstall b⟩
    · exact ⟨_, deliver_no hg hpc n rd tk imm hst own, program_setProgram .., rfl⟩
    · exact ⟨_, deliver_ok hg hpc n rd tk imm v, program_setProgram .., rfl⟩
    · exact ⟨_, deliver_later hg hpc n rd tk imm st, program_setProgram .., rfl⟩
  case ring =>
    intro p hp s n index x htaken hup hhanded hserved hran hfinal hkind hissued himm hindex u r j hcmd
    subst hindex
    rw [exec_sisCommand hp, runCmd_of_ring ⟨htaken, hup, hhanded, hserved, hran, hfinal, rfl, hissued, himm⟩ hkind hcmd]
    cases r <;> rfl

end Sys2Proof.Machine
end

section
/-! WAIT, YIELD and END, dispatch, transfers of save records, and programs that end themselves (R245 to R251, R254, R255, R259). -/

namespace Sys2Proof.Machine

/-! ### Accesses while a port takes them (R413, R452) -/

/-- It changes the ports and the completion filter's counts alone. -/
theorem request_of_free {s : State} (hstall : s.bothStalled = false) (op : MemOp) (blk line len : Nat) (acc : Access) :
    ∃ p0 p1 f, s.request op blk line len acc = { s with port0 := p0, port1 := p1, cfl := f } := by
  rw [request_eq hstall, cflCounted_eq]
  split_ifs
  · exact ⟨_, s.port1, _, rfl⟩
  · exact ⟨s.port0, _, _, rfl⟩

theorem writeZ_of_free {s : State} (hstall : s.bothStalled = false) (addr : Nat) (b : Bytes) (acc : Access) :
    ∃ p0 p1 f, s.writeZ addr b acc = { (s.setBytes addr b).setSb (addr / 4096) 0 with port0 := p0, port1 := p1, cfl := f } := by
  obtain ⟨p0, p1, f, hreq⟩ := request_of_free (s := (s.setBytes addr b).setSb (addr / 4096) 0) hstall
    .writeZ (addr / 4096) (addr % 4096 / 64) ((b.length + 63) / 64) acc
  refine ⟨p0, p1, f, ?_⟩
  rw [State.writeZ, if_neg (by simp [hstall])]
  exact hreq

/-- A WRITE_S of the block itself, while a port takes it. -/
theorem writeS_of_own {s : State} (hstall : s.bothStalled = false) (blk : Nat) (b : Bytes) (v : Nat) {acc : Access}
    (hown : ∀ t : State, (t.accessCtx acc).1 = 0) : ∃ p0 p1, s.writeS blk b v acc =
      { (s.setBytes (blk * 4096) b).setSb blk v with port0 := p0, port1 := p1 } := by
  obtain ⟨p0, p1, hreq⟩ := request_of_own (s := (s.setBytes (blk * 4096) b).setSb blk v) hstall .writeS blk 0 64 (hown _)
  refine ⟨p0, p1, ?_⟩
  rw [State.writeS, if_neg (by simp [hstall])]
  exact hreq

theorem sbOf_writeS_of_own {s : State} (hstall : s.bothStalled = false) (blk : Nat) (b : Bytes) (v : Nat) {acc : Access}
    (hown : ∀ t : State, (t.accessCtx acc).1 = 0) : (s.writeS blk b v acc).sbOf blk = v % 2 ^ 64 := by
  obtain ⟨p0, p1, hw⟩ := writeS_of_own hstall blk b v hown
  rw [hw]
  exact (sbOf_setSb (s.setBytes (blk * 4096) b) blk v blk).trans (if_pos rfl)

theorem writeS_frame_of_own (s : State) (blk : Nat) (b : Bytes) (v : Nat) {acc : Access} (hown : ∀ t : State, (t.accessCtx acc).1 = 0) :
    ∃ r m sb p0 p1, s.writeS blk b v acc = { s with regs := r, mem := m, sb := sb, port0 := p0, port1 := p1 } := by
  cases hstall : s.bothStalled
  case true => exact ⟨_, s.mem, s.sb, s.port0, s.port1, if_pos hstall⟩
  case false =>
    obtain ⟨p0, p1, hw⟩ := writeS_of_own hstall blk b v hown
    exact ⟨s.regs, _, _, p0, p1, hw⟩

/-- Requests that leave the ports change them, what the completion filter and the teardowns count, and three counters. -/
theorem retire_frame (s : State) (p : Access → Bool) :
    (∃ p0 p1 r f d, s.retire p = { s with port0 := p0, port1 := p1, regs := r, cfl := f, teardowns := d }) ∧
      ∀ a, a ∉ [Reg.hubCntCflPass, Reg.hubCntCflDrop, Reg.hubCntCflLate] → (s.retire p).reg a = s.reg a := by
  obtain ⟨⟨r, f, d, hretire⟩, hreg⟩ := cflCompletes_frame
    { s with port0 := s.port0.retire p s.time, port1 := s.port1.retire p s.time } ((s.port0.all ++ s.port1.all).filter (fun x => p x.acc))
  exact ⟨⟨_, _, r, f, d, hretire⟩, hreg⟩

/-! ### WAIT (R254, R255, R259) -/

/-- The program that has collected a ticket. -/
def Program.collected (p : Program) (tk rd : Nat) (k : Ticket) : Program :=
  { p.setG rd k.result with status := k.status, tickets := p.tickets.filter (fun x => x != tk), wait := .nothing }

section
variable {s : State} {t id : Nat} {p : Program}

section
variable {rd ra : Nat} {k : Ticket} (hrd : rd < 16) (hra : ra < 16) (h : s.runsWord t id p (encodeWord 6 rd ra 0 0 0 0))
  (hmine : p.tickets.contains (p.g ra) = true) (hk : s.ticket (p.g ra) = some k)
include hrd hra h hmine hk

/-- WAIT of a ticket of the program looks at the ticket alone. -/
theorem exec_wait_of_ticket : exec (.wait { by_ := .thread t rd ra 0 0, mod := 0, imm := 0 }) s =
    .next (if k.done then ((s.issues t).collect id p (p.g ra) rd k).advance id
      else (s.issues t).startWait t id p (.ticket (p.g ra) rd)) := by
  have hexec (i : Issue) : exec (.wait i) s = execWait i s := rfl
  have hk' : (s.issues t).ticket (p.g ra) = some k := hk
  rw [hexec, execWait, local_of_runsWord h rfl hrd hra (by decide) (by decide) rfl]
  simp only [Nat.zero_mod, if_true, hmine, hk']

theorem exec_wait_of_done (hdone : k.done = true) : exec (.wait { by_ := .thread t rd ra 0 0, mod := 0, imm := 0 }) s =
    .next (((s.issues t).dropTicket (p.g ra)).setProgram id { p.collected (p.g ra) rd k with pc := p.pc + 1 }) := by
  have hadv := advance_setProgram ((s.issues t).dropTicket (p.g ra)) id (p := p.collected (p.g ra) rd k)
    (by simpa [Program.collected] using (program_of_runsWord h).2)
  rw [exec_wait_of_ticket hrd hra h hmine hk, if_pos hdone, State.collect, ← Program.collected, hadv]
  simp [Program.collected]

theorem exec_wait_of_pending (hdone : k.done = false) : exec (.wait { by_ := .thread t rd ra 0 0, mod := 0, imm := 0 }) s =
    .next ((s.issues t).startWait t id p (.ticket (p.g ra) rd)) := by
  rw [exec_wait_of_ticket hrd hra h hmine hk, if_neg (by simp [hdone])]

end

theorem exec_wait_of_time {imm : Nat} (hpos : 0 < imm) (himm : imm < 2 ^ 32) (h : s.runsWord t id p (encodeWord 6 0 0 0 0 1 imm)) :
    exec (.wait { by_ := .thread t 0 0 0 0, mod := 1, imm := imm }) s = .next ((s.issues t).startWait t id p (.time s.time imm)) := by
  have hexec (i : Issue) : exec (.wait i) s = execWait i s := rfl
  rw [hexec, execWait, local_of_runsWord h rfl (by decide) (by decide) (by decide) (by decide) rfl]
  simp only [Nat.mod_eq_of_lt himm]
  rw [if_neg (by decide), if_pos trivial, if_neg (by omega)]
  rfl

theorem exec_wait_of_step {ra : Nat} {ok : Bool} (hra : ra < 16) (h : s.runsWord t id p (encodeWord 6 0 ra 0 0 2 0))
    (hstep : p.steps.find? (fun x => x.1 == p.g ra) = some (p.g ra, ok)) :
    exec (.wait { by_ := .thread t 0 ra 0 0, mod := 2, imm := 0 }) s =
      .next (((s.issues t).countStatus (if ok then stOk else stStepAbandoned)).setProgram id
        { p with status := if ok then stOk else stStepAbandoned, pc := p.pc + 1 }) := by
  have hexec (i : Issue) : exec (.wait i) s = execWait i s := rfl
  have hwait : (s.issues t).waitStep p (p.g ra) = some (if ok then stOk else stStepAbandoned) := by
    simp only [State.waitStep, hstep]
  rw [hexec, execWait, local_of_runsWord h rfl (by decide) hra (by decide) (by decide) rfl]
  simp only [hwait]
  rw [if_neg (by decide), if_neg (by decide)]
  exact congrArg _ (advance_setProgram _ id (p := { p with status := if ok then stOk else stStepAbandoned }) (program_of_runsWord h).2)

/-! ### Swaps and YIELD (R250, R251) -/

/-- Thread `t` has taken program `q` out of the run queue and loads it, saving `out`. -/
def State.loading (s : State) (t : Nat) (out : Option Nat) (q : Nat) : State :=
  ({ s with runQ := s.runQ.filter (fun x => x != q) } : State).setThread t { st := .swapping, prog := some q, out := out }

theorem swap_in (hstall : s.bothStalled = false) (t q : Nat) : ∃ p0 p1 f, s.swap t none q =
    { s.loading t none q with port0 := p0, port1 := p1, cfl := f } := by
  obtain ⟨p0, p1, f, hreq⟩ := request_of_free (s := s.loading t none q) hstall .read (s.saveBlk q) (q % 16 * 4) 4 (.swapIn t q)
  refine ⟨p0, p1, f, ?_⟩
  rw [State.swap, if_neg (by simp [hstall])]
  exact hreq

theorem saveRecord_of_free (hstall : s.bothStalled = false) (t o : Nat) : ∃ p0 p1 f, s.saveRecord t o =
    { s with mem := (s.setBytes (s.saveAt o) (freeBytes s.free 256)).mem, sb := (s.setSb (s.saveAt o / 4096) 0).sb, port0 := p0
             port1 := p1, free := s.free + 256, cfl := f } := by
  obtain ⟨p0, p1, f, hwrite⟩ := writeZ_of_free hstall (s.saveAt o) (freeBytes s.free 256) (.swapOut t o)
  refine ⟨p0, p1, f, ?_⟩
  rw [State.saveRecord, hwrite, State.took]
  dsimp only [State.setBytes, State.setSb]

/-- The save of the program that gives up its thread writes its record and no other byte. -/
theorem swap_out (hstall : s.bothStalled = false) (t o q : Nat) : ∃ m b p0 p1 f, s.swap t (some o) q =
    { s.loading t (some o) q with mem := m, sb := b, port0 := p0, port1 := p1, free := s.free + 256, cfl := f } ∧
    ∀ a, a < s.saveAt o ∨ s.saveAt o + 256 ≤ a → Tab.get 0 m a = Tab.get 0 s.mem a := by
  obtain ⟨x0, x1, g, hsave⟩ := saveRecord_of_free (s := s.loading t (some o) q) hstall t o
  have hswap : s.swap t (some o) q = ((s.loading t (some o) q).saveRecord t o).request .read
      (((s.loading t (some o) q).saveRecord t o).saveBlk q) (q % 16 * 4) 4 (.swapIn t q) := by
    rw [State.swap, if_neg (by simp [hstall])]
    rfl
  have hio := State.IoOnly.writeZ (s.loading t (some o) q) (s.saveAt o) (freeBytes s.free 256) (.swapOut t o)
  obtain ⟨p0, p1, f, hreq⟩ := request_of_free (s := (s.loading t (some o) q).saveRecord t o) (hio.bothStalled.trans hstall)
    .read (((s.loading t (some o) q).saveRecord t o).saveBlk q) (q % 16 * 4) 4 (.swapIn t q)
  refine ⟨(s.setBytes (s.saveAt o) (freeBytes s.free 256)).mem, (s.setSb (s.saveAt o / 4096) 0).sb, p0, p1, f,
    hswap.trans (hreq.trans ?_), fun a ha => mem_setBytes_of_outside s (by simpa [freeBytes] using ha)⟩
  simp only [hsave]
  rfl

theorem exec_yield_of_runsWord (h : s.runsWord t id p (encodeWord 8 0 0 0 0 0 0)) :
    exec (.yield_ { by_ := .thread t 0 0 0 0, mod := 0, imm := 0 }) s = .next (
      let s1 := (s.issues t).setProgram id { p with pc := p.pc + 1 }
      match s.runQ.head? with
      | some q => let s2 := s1.swap t (some id) q
        if (s2.thread t).st == .swapping then { s2 with runQ := s2.runQ ++ [id] } else s2
      | none => s1) := by
  obtain ⟨hp, hpc⟩ := program_of_runsWord h
  have hexec (i : Issue) : exec (.yield_ i) s = execYield i s := rfl
  rw [hexec, execYield, local_of_runsWord h rfl (by decide) (by decide) (by decide) (by decide) rfl]
  have hnext (v : Program) : ((s.issues t).setProgram id v).nextProgram = s.runQ.head? := rfl
  simp only [advance_of_lt hp hpc, program_setProgram, hnext]
  cases s.runQ.head? <;> rfl

theorem filter_ne_head {q : Nat} {rest : List Nat} (hnew : q ∉ rest) : (q :: rest).filter (fun x => x != q) = rest := by
  rw [List.filter_cons_of_neg (by simp), List.filter_eq_self]
  intro x hx
  simpa using ne_of_mem_of_not_mem hx hnew

/-- YIELD gives up the thread to the head of the run queue, and its program is runnable behind the others. -/
theorem exec_yield_of_queue {q : Nat} {rest : List Nat} (h : s.runsWord t id p (encodeWord 8 0 0 0 0 0 0)) (hq : s.runQ = q :: rest)
    (hnew : q ∉ rest) (hstall : s.bothStalled = false) : ∃ m b p0 p1 f,
      exec (.yield_ { by_ := .thread t 0 0 0 0, mod := 0, imm := 0 }) s = .next
        { ((s.issues t).setProgram id { p with pc := p.pc + 1 }).setThread t { st := .swapping, prog := some q, out := some id } with
          runQ := rest ++ [id], mem := m, sb := b, port0 := p0, port1 := p1, free := s.free + 256, cfl := f } ∧
      ∀ a, a < s.saveAt id ∨ s.saveAt id + 256 ≤ a → Tab.get 0 m a = Tab.get 0 s.mem a := by
  let s1 : State := (s.issues t).setProgram id { p with pc := p.pc + 1 }
  obtain ⟨m, b, p0, p1, f, hswap, hmem⟩ := swap_out (s := s1) hstall t id q
  refine ⟨m, b, p0, p1, f, ?_, hmem⟩
  have hrun : s1.runQ.filter (fun x => x != q) = rest := (congrArg (List.filter _) hq).trans (filter_ne_head hnew)
  have hswapping : ((s1.swap t (some id) q).thread t).st == .swapping := by
    rw [hswap]
    simp [State.thread, State.loading, State.setThread]
  rw [exec_yield_of_runsWord h, hq, List.head?_cons]
  dsimp only
  rw [if_pos hswapping, hswap, State.loading, hrun]
  rfl

end

/-! ### The end of a program (R247, R251, R259) -/

theorem closeTickets_frame (s : State) (l : List Nat) : ∃ ts, s.closeTickets l = { s with tickets := ts } := by
  induction l generalizing s with
  | nil => exact ⟨s.tickets, rfl⟩
  | cons x l ih =>
    unfold State.closeTickets
    split
    · split_ifs
      · obtain ⟨ts, hts⟩ := ih (s.dropTicket x)
        exact ⟨ts, hts⟩
      · obtain ⟨ts, hts⟩ := ih (s.setTicket x _)
        exact ⟨ts, hts⟩
    · exact ih s

/-- The PROG_END entry of a program (R260, R284). -/
def Program.endRecord (p : Program) (rec st : Nat) : JEntry :=
  { type := jProgEnd, status := st, opc := 0x80, source := srcRing p.ring, ctx := p.ctx, ref := p.index, cookie := p.cookie, b := rec }

/-- The parameter block of a program is sealed (R247). -/
def State.paramSealed (s : State) (p : Program) : State := s.writeSealed p.param (s.block p.param) p.gen 0x3E .record

theorem paramSealed_frame (s : State) (p : Program) : ∃ r m b p0 p1,
    s.paramSealed p = { s with regs := r, mem := m, sb := b, port0 := p0, port1 := p1 } :=
  writeS_frame_of_own s p.param (s.block p.param) _ fun _ => rfl

theorem sbOf_paramSealed {s : State} (hstall : s.bothStalled = false) (p : Program) : (s.paramSealed p).sbOf p.param =
    bcv (s.block p.param) p.param p.gen 0x3E false 0xFE % 2 ^ 64 :=
  sbOf_writeS_of_own hstall p.param (s.block p.param) _ fun _ => rfl

/-- The program, its place in the run queue, its thread and its tickets are free (R247, R251, R259). -/
def State.programFreed (s : State) (id : Nat) (p : Program) : State :=
  (({ s with progs := Tab.erase s.progs id, runQ := s.runQ.filter (fun x => x != id) } : State).freeThread id).closeTickets p.tickets

theorem programFreed_frame (s : State) (id : Nat) (p : Program) : ∃ ths ts, s.programFreed id p =
    { s with progs := Tab.erase s.progs id, runQ := s.runQ.filter (fun x => x != id), threads := ths, tickets := ts } := by
  obtain ⟨ts, hts⟩ := closeTickets_frame
    (({ s with progs := Tab.erase s.progs id, runQ := s.runQ.filter (fun x => x != id) } : State).freeThread id) p.tickets
  exact ⟨_, ts, hts⟩

theorem endProgram_of_program {s : State} {id : Nat} {p : Program} (hp : s.program id = some p) (st : Nat) :
    s.endProgram id st false = ((s.paramSealed p).programFreed id p).endEntry p id st := by
  rw [State.endProgram, hp]
  rfl

/-- While Kettle 0 is down and without MEM_ON, the end of a program is its entry in the window, and its ring entry waits. -/
theorem endEntry_of_down {s : State} (hmem : s.memOn = false) (hdown : s.coreUp 0 = false) (p : Program) (rec st : Nat) :
    ∃ rs, s.endEntry p rec st = { s with jseq := s.jseq + 1, journal := s.window (p.endRecord rec st), rings := rs } := by
  have hentry : s.record (p.endRecord rec st) = { s with jseq := s.jseq + 1, journal := s.window (p.endRecord rec st) } :=
    record_of_memOff hmem _
  have hend : s.endEntry p rec st = (s.record (p.endRecord rec st)).finishEntry p.ring p.index st 0 s.jseq := rfl
  generalize s.window (p.endRecord rec st) = l at hentry
  have hdown' : ¬ ({ s with jseq := s.jseq + 1, journal := l } : State).coreUp 0 = true := by
    simpa [State.coreUp, State.core] using hdown
  rw [hend, hentry, State.finishEntry, if_neg hdown']
  exact ⟨_, rfl⟩

end Sys2Proof.Machine
end

section
/-! Programs that end, that a thread takes up, and that wait no more (R245 to R251, R254, R255). -/

namespace Sys2Proof.Machine

/-! ### END and programs that end themselves (R245, R247, R255) -/

section
variable {s : State} {t id : Nat} {p : Program}

theorem exec_end_of_runsWord (h : s.runsWord t id p (encodeWord 1 0 0 0 0 0 0)) :
    exec (.end_ { by_ := .thread t 0 0 0 0, mod := 0, imm := 0 }) s = .next ((s.issues t).endProgram id p.status false) := by
  have hexec (i : Issue) : exec (.end_ i) s = execEnd i s := rfl
  rw [hexec, execEnd, local_of_runsWord h rfl (by decide) (by decide) (by decide) (by decide) rfl]

/-- What the end of a program leaves while Kettle 0 is down and without MEM_ON: the program is gone, its end is journaled, and its
parameter block is sealed. -/
theorem endProgram_leaves (hp : s.program id = some p) (hmem : s.memOn = false) (hdown : s.coreUp 0 = false) (st : Nat) :
    ∃ u, s.endProgram id st false = u ∧ u.program id = none ∧ id ∉ u.runQ ∧ u.jseq = s.jseq + 1 ∧
      (∃ e ∈ u.journal, e.jseq = s.jseq ∧ e.type = jProgEnd ∧ e.status = st ∧ e.ctx = p.ctx ∧ e.ref = p.index ∧ e.cookie = p.cookie) ∧
      u.sb = (s.paramSealed p).sb := by
  obtain ⟨r, m, b, p0, p1, hseal⟩ := paramSealed_frame s p
  obtain ⟨ths, ts, hfree⟩ := programFreed_frame (s.paramSealed p) id p
  have hfreed : (s.paramSealed p).programFreed id p = { s with
      regs := r, mem := m, sb := b, port0 := p0, port1 := p1, progs := Tab.erase s.progs id
      runQ := s.runQ.filter (fun x => x != id), threads := ths, tickets := ts } := by
    rw [hfree, hseal]
  obtain ⟨rs, hend⟩ := endEntry_of_down (s := (s.paramSealed p).programFreed id p) (by rw [hfreed]; exact hmem) (by rw [hfreed]; exact hdown)
    p id st
  have hentry := mem_window ((s.paramSealed p).programFreed id p) (p.endRecord id st)
  generalize ((s.paramSealed p).programFreed id p).window (p.endRecord id st) = l at hend hentry
  rw [endProgram_of_program hp, hend]
  rw [hfreed] at hentry ⊢
  exact ⟨_, rfl, (lookup_erase ..).trans (if_pos rfl), by simp, rfl, ⟨_, hentry, rfl, rfl, rfl, rfl, rfl, rfl⟩, by rw [hseal]⟩

/-- A block of context 0 that does not verify ends its program (R245). -/
theorem fetch_of_unverified (ht : t < 32) (hsel : s.selected t = true) (hprog : (s.thread t).prog = some id) (hp : s.program id = some p)
    (hctx : p.ctx = 0) (hstall : s.bothStalled = false) (hnew : p.verified.contains p.codeBlk = false)
    (hbad : s.progBlockOk 0 p.gen p.codeBlk = false) (word : Nat) : s.fetch t word =
      (((((s.issues t).request .read p.codeBlk 0 64 (.program id))).confirmProg 0 p.gen p.codeBlk).endProgram id stSealFail true, none) := by
  have htorn : s.tornDown p = false := by simp [State.tornDown, hctx]
  unfold State.fetch
  simp only [ht, hsel, hprog, hp, htorn, hnew, hstall, hctx, hbad, decide_true, Bool.and_self, if_true, Option.bind_some, Option.map_some,
    Bool.not_false, Bool.and_false, Bool.false_eq_true, if_false]

theorem exec_nop_of_ended {u : State} (hfetch : ∀ word, s.fetch t word = (u, none)) :
    exec (.nop { by_ := .thread t 0 0 0 0, mod := 0, imm := 0 }) s = .next u := by
  have hexec (i : Issue) : exec (.nop i) s = execNop i s := rfl
  rw [hexec, execNop, State.local']
  simp only [hfetch]

end

/-! ### PROGRAM_DISPATCH and SWAP_COMPLETE (R250, R251) -/

section
variable {s : State} {t q : Nat}

theorem exec_programDispatch_of_idle {rest : List Nat} (ht : t < 32) (hidle : (s.thread t).st = .idle) (hq : s.runQ = q :: rest)
    (hnew : q ∉ rest) (hstall : s.bothStalled = false) : ∃ p0 p1 f, exec (.programDispatch t) s =
      .next { s.setThread t { st := .swapping, prog := some q } with runQ := rest, port0 := p0, port1 := p1, cfl := f } := by
  obtain ⟨p0, p1, f, hswap⟩ := swap_in hstall t q
  have hexec : exec (.programDispatch t) s = execProgramDispatch t s := rfl
  have hnext : s.nextProgram = some q := congrArg List.head? hq
  refine ⟨p0, p1, f, ?_⟩
  rw [hexec, execProgramDispatch]
  simp only [ht, hnext, hidle, hswap, State.loading, hq, filter_ne_head hnew, beq_self_eq_true, if_true]
  rfl

/-- The transfers of a swap on thread `t`. -/
def Access.swapsOn (t : Nat) : Access → Bool
  | .swapOut u _ => u == t
  | .swapIn u _ => u == t
  | _ => false

/-- The thread is READY; a swap that saved a record is counted. -/
theorem exec_swapComplete_of_swapping (hst : (s.thread t).st = .swapping) (hprog : (s.thread t).prog = some q) :
    exec (.swapComplete t) s = .next (
      let u := (s.retire (Access.swapsOn t)).setThread t { st := .ready, prog := some q }
      if (s.thread t).out = none then u else u.count Reg.hubCntSwaps) := by
  have hexec : exec (.swapComplete t) s = execSwapComplete t s := rfl
  rw [hexec, execSwapComplete]
  simp only [hst, hprog, bne_self_eq_false, Bool.false_eq_true, if_false, Option.isSome_some, if_true]
  cases (s.thread t).out <;> rfl

end

/-! ### WAIT_CONDITION_MET (R254) -/

/-- A program that waits on its thread is READY there, with its PC behind the WAIT. -/
theorem runAgain_of_waiting {s : State} {t id : Nat} {p : Program} (ht : t < 32) (hp : s.program id = some p)
    (hprog : (s.thread t).prog = some id) (hst : (s.thread t).st = .waiting) (hfirst : ∀ k, k < t → (s.thread k).prog ≠ some id)
    (hpc : p.pc + 1 < p.length) : s.runAgain id =
      (s.setProgram id { p with runnable := true, pc := p.pc + 1 }).setThread t { s.thread t with st := .ready } := by
  let s1 : State := s.setProgram id { p with runnable := true }
  have hon : s.onProgram id (fun p => { p with runnable := true }) = s1 := by simp only [State.onProgram, hp, s1]
  have hthread (k : Nat) : s1.thread k = s.thread k := rfl
  have hfind : (List.range 32).find? (fun k => (s1.thread k).prog == some id && (s1.thread k).st == .waiting) = some t := by
    rw [List.find?_range_eq_some]
    refine ⟨by simp [hthread, hprog, hst], List.mem_range.2 ht, fun k hk => ?_⟩
    simp [hthread, hfirst k hk]
  rw [State.runAgain, hon]
  simp only [hfind]
  have hadv := advance_of_lt (s := s1.setThread t { s1.thread t with st := .ready }) (id := id) (p := { p with runnable := true })
    (program_setProgram ..) hpc
  rw [hadv]
  exact congrArg (fun v : State => v.setThread t { s.thread t with st := .ready })
    (setProgram_setProgram s id { p with runnable := true } { p with runnable := true, pc := p.pc + 1 })

section
variable {s : State} {id start us : Nat} {p : Program} (hp : s.program id = some p) (hwait : p.wait = .time start us)
include hp hwait

theorem exec_waitConditionMet_of_over (hover : start + us * 100 ≤ s.time) : exec (.waitConditionMet id) s =
    .next ((s.setProgram id { p with wait := .nothing }).runAgain id) := by
  have hexec : exec (.waitConditionMet id) s = execWaitConditionMet id s := rfl
  have hmet : s.waitMet id p = some (s.setProgram id { p with wait := .nothing }) := by
    simp only [State.waitMet, hwait]
    exact if_pos hover
  rw [hexec, execWaitConditionMet]
  simp only [hp, hmet]

theorem exec_waitConditionMet_of_early (hearly : s.time < start + us * 100) : exec (.waitConditionMet id) s = .next s := by
  have hexec : exec (.waitConditionMet id) s = execWaitConditionMet id s := rfl
  have hmet : s.waitMet id p = none := by
    simp only [State.waitMet, hwait]
    exact if_neg (Nat.not_le.2 hearly)
  rw [hexec, execWaitConditionMet]
  simp only [hp, hmet]

end

/-- Settles O26: WAIT, YIELD and END each by its lemma above, a swap by the frame of its transfers, a met condition by
`runAgain_of_waiting`. -/
theorem threadsAndPrograms : Obligations.ThreadsAndPrograms := by
  unfold Obligations.ThreadsAndPrograms
  refine ⟨⟨?ticket, ?time, ?step, ?yieldAlone, ?yieldSwap, ?end_⟩, ?sealFail, ?illegal, ?dispatch, ?complete, ?met⟩
  case ticket =>
    intro s t id p rd ra k hrd hra h hmine hk
    refine ⟨fun hdone => ?_, fun hdone => ?_⟩
    · exact ⟨_, exec_wait_of_done hrd hra h hmine hk hdone, rfl, program_setProgram .., rfl⟩
    · refine ⟨_, exec_wait_of_pending hrd hra h hmine hk hdone, ?_, program_setProgram .., rfl⟩
      rw [State.startWait, thread_setThread, if_pos rfl]
  case time =>
    intro s t id p imm hpos himm h
    refine ⟨_, exec_wait_of_time hpos himm h, ?_, program_setProgram .., rfl⟩
    rw [State.startWait, thread_setThread, if_pos rfl]
  case step =>
    intro s t id p ra ok hra h hstep
    exact ⟨_, exec_wait_of_step hra h hstep, program_setProgram .., rfl⟩
  case yieldAlone =>
    intro s t id p h hq
    rw [exec_yield_of_runsWord h, hq]
    rfl
  case yieldSwap =>
    intro s t id p q rest h hq hnew _ hstall
    obtain ⟨m, b, p0, p1, f, hexec, hmem⟩ := exec_yield_of_queue h hq hnew hstall
    refine ⟨_, hexec, ?_, rfl, program_setProgram .., hmem, rfl⟩
    simp [State.thread, State.setThread]
  case end_ =>
    intro s t id p h hmem hdown
    obtain ⟨hp, -⟩ := program_of_runsWord h
    obtain ⟨u, hend, hgone, hrun, hjseq, hentry, hsb⟩ := endProgram_leaves (s := s.issues t) hp hmem hdown p.status
    refine ⟨u, (exec_end_of_runsWord h).trans (congrArg _ hend), hgone, hrun, hjseq, hentry, fun hstall => ?_⟩
    rw [State.sbOf, hsb]
    exact sbOf_paramSealed (s := s.issues t) hstall p
  case sealFail =>
    intro s t id p ht hsel hprog hp hctx hstall hnew hbad
    exact exec_nop_of_ended fun word => fetch_of_unverified ht hsel hprog hp hctx hstall hnew hbad word
  case illegal =>
    intro s t id p w h hbad
    exact exec_nop_of_ended fun word => fetch_of_unlisted h hbad word
  case dispatch =>
    intro s t q rest ht hidle hq hnew hstall
    obtain ⟨p0, p1, f, hexec⟩ := exec_programDispatch_of_idle ht hidle hq hnew hstall
    refine ⟨_, hexec, ?_, rfl, fun k hk => ?_, rfl⟩
    · simp [State.thread, State.setThread]
    · simp [State.thread, State.setThread, Ne.symm hk]
  case complete =>
    intro s t q hst hprog
    have hexec := exec_swapComplete_of_swapping hst hprog
    obtain ⟨⟨p0, p1, r, f, d, hretire⟩, hreg⟩ := retire_frame s (Access.swapsOn t)
    have hthread (k : Nat) : ((s.retire (Access.swapsOn t)).setThread t { st := .ready, prog := some q }).thread k =
        if t = k then { st := .ready, prog := some q } else s.thread k := by
      rw [thread_setThread, hretire]
      rfl
    have hswaps : (s.retire (Access.swapsOn t)).reg Reg.hubCntSwaps = s.reg Reg.hubCntSwaps := hreg _ (by decide)
    refine ⟨_, hexec, ?_, fun k hk => ?_, fun a ha hp hd hl => ?_, ?_, ?_⟩
    · dsimp only
      split_ifs
      · exact (hthread t).trans (if_pos rfl)
      · exact (hthread t).trans (if_pos rfl)
    · dsimp only
      split_ifs
      · exact (hthread k).trans (if_neg (Ne.symm hk))
      · exact (hthread k).trans (if_neg (Ne.symm hk))
    · have hkeep := hreg a (by simp [hp, hd, hl])
      dsimp only
      split_ifs
      · exact hkeep
      · exact (reg_count ..).trans ((if_neg (Ne.symm ha)).trans hkeep)
    · dsimp only
      split_ifs
      · exact hswaps
      · rw [reg_count, if_pos rfl]
        exact congrArg (fun n => min (2 ^ 32 - 1) (n + 1)) hswaps
    · dsimp only
      split_ifs
      · rw [hretire]
        rfl
      · rw [hretire]
        rfl
  case met =>
    intro s t id p start us ht hp hwait hprog hst hfirst hpc
    refine ⟨fun hover => ?_, exec_waitConditionMet_of_early hp hwait⟩
    have hagain := runAgain_of_waiting (s := s.setProgram id { p with wait := .nothing }) ht (program_setProgram ..) hprog hst hfirst hpc
    refine ⟨_, (exec_waitConditionMet_of_over hp hwait hover).trans (congrArg _ hagain), program_setProgram .., ?_, ?_, rfl⟩
    · rw [thread_setThread, if_pos rfl]
    · rw [thread_setThread, if_pos rfl]
      exact hprog

end Sys2Proof.Machine
end

section
/-! Queries of a Kettle core at the command port (R256 to R261, R267, R271): what a query leaves, by the answer of its sub-block, with
and without a clear. -/

namespace Sys2Proof.Machine

/-- A query as its sub-block sees it: the operands that reach the port. -/
def CoreCmd.asked (q : CoreCmd) (s : State) : Cmd :=
  { ctx := q.ctx, a := q.a % 2 ^ 64, b := q.b % 2 ^ 64, c := q.c % 2 ^ 64, mod := q.mod, imm := q.imm, tk := s.nextTicket, src := .core q.k }

/-- A core's query that passes the rows of R257: its answer is that of its sub-block. -/
structure State.Asks (s : State) (q : CoreCmd) (sp : CmdSpec) : Prop where
  up : s.coreUp q.k = true
  query : sp.query = true
  mod_lt : q.mod < 16
  imm_lt : q.imm < 2 ^ 32
  row1 : sp.row1 q.mod q.imm = false
  narrow : sp.wide (q.asked s) = false
  safe : s.safe = none

/-! ### The decision (R257) -/

/-- Without a safe state a query is not blocked, whatever stage bring-up has reached (R396, R484). -/
theorem blocked_of_query {s : State} {sp : CmdSpec} (hquery : sp.query = true) (hsafe : s.safe = none) (c : Cmd) :
    s.blocked sp c = false := by
  simp [State.blocked, hquery, hsafe]

/-- Nor is a command that is legal before bring-up has ended (R484). -/
theorem blocked_of_early {s : State} {sp : CmdSpec} (hearly : sp.early = true) (hsafe : s.safe = none) (c : Cmd) :
    s.blocked sp c = false := by
  simp [State.blocked, hearly, hsafe]

/-- A query of context 0, or one that every context has, is answered by its sub-block. -/
theorem decideCmd_of_query {s : State} {sp : CmdSpec} {c : Cmd} (hquery : sp.query = true) (hsafe : s.safe = none)
    (hpriv : sp.ctx0 = false ∨ c.ctx = 0 ∨ c.prog = none) (hnarrow : sp.wide c = false) (hnow : ∀ st, (sp.body c s).2 ≠ .later st) :
    s.decideCmd sp c = sp.body c s := by
  have hallowed : (sp.ctx0 && c.ctx != 0 && c.prog.isSome) = false := by
    rcases hpriv with h | h | h <;> simp [h]
  unfold State.decideCmd
  simp only [hallowed, hquery, hnarrow, blocked_of_query hquery hsafe, Bool.not_true, Bool.false_and, Bool.false_eq_true, and_false, if_false]
  rcases hbody : sp.body c s with ⟨u, r⟩
  rw [hbody] at hnow
  cases r with
  | later st => exact absurd rfl (hnow st)
  | no st own => rfl
  | ok v => rfl
  | rec_ b => rfl

theorem decideCmd_of_record {s u : State} {sp : CmdSpec} {c : Cmd} {b : Bytes} (hquery : sp.query = true) (hsafe : s.safe = none)
    (hpriv : sp.ctx0 = false ∨ c.ctx = 0 ∨ c.prog = none) (hnarrow : sp.wide c = false) (hbody : sp.body c s = (u, .rec_ b)) :
    s.decideCmd sp c = (u, .rec_ b) :=
  (decideCmd_of_query hquery hsafe hpriv hnarrow (by simp [hbody])).trans hbody

/-- A served command that is not journaled has its effect and is counted. -/
theorem serve_of_unjournaled {s : State} {sp : CmdSpec} {c : Cmd} (hquiet : sp.journaled c = false)
    (hnow : ∀ st, (s.decideCmd sp c).2 ≠ .later st) (owner : Owner) (source ref cookie : Nat) :
    (s.serve sp c owner source ref cookie).1 = (s.decideCmd sp c).1.countReply c (s.decideCmd sp c).2 := by
  have hnote (t : State) (e : JEntry) : t.note sp c e = t := by simp [State.note, hquiet]
  rcases hdec : s.decideCmd sp c with ⟨u, r⟩
  rw [hdec] at hnow
  simp only [State.serve, hdec, hnote]
  cases r with
  | later st => exact absurd rfl (hnow st)
  | no st own => rfl
  | ok v => rfl
  | rec_ b => rfl

/-- A served query with a clear has its entry, its effect after it, and the count of it. -/
theorem serve_of_journaled {s u : State} {sp : CmdSpec} {c : Cmd} (hjournal : sp.journaled c = true) (hprog : c.prog = none)
    {owner : Owner} {source ref cookie : Nat} {b b' : Bytes} (hdec : (s.decideCmd sp c).2 = .rec_ b)
    (hnoted : (s.record (servedEntry sp c source ref cookie stOk 0)).decideCmd sp c = (u, .rec_ b')) :
    (s.serve sp c owner source ref cookie).1 = u.count Reg.hubCntCmd := by
  rcases hpair : s.decideCmd sp c with ⟨v, r⟩
  rw [hpair] at hdec
  subst hdec
  simp only [State.serve, hpair, State.note, hjournal, if_true, Reply.status, hnoted, State.countReply, hprog, Option.isSome_none,
    Bool.false_eq_true, if_false]

/-! ### A core's query -/

section
variable {s : State} {q : CoreCmd} {sp : CmdSpec} (h : s.Asks q sp)
include h

theorem runCmd_of_asks : s.runCmd sp q.issue = (s.serve sp (q.asked s) (.kettle q.k) (srcCore q.k) 0 0).1 := by
  have hm := Nat.mod_eq_of_lt h.mod_lt
  have hi := Nat.mod_eq_of_lt h.imm_lt
  simp only [State.runCmd, CoreCmd.issue, hm, hi, h.up, State.portCmd, h.row1, if_true, Bool.false_eq_true, if_false]
  rfl

theorem decideCmd_of_asks (hnow : ∀ st, (sp.body (q.asked s) s).2 ≠ .later st) :
    s.decideCmd sp (q.asked s) = sp.body (q.asked s) s :=
  decideCmd_of_query h.query h.safe (.inr (.inr rfl)) h.narrow hnow

/-- Without a clear: what its sub-block leaves, and the count of its status. -/
theorem runCmd_of_quiet (hquiet : sp.journaled (q.asked s) = false) (hnow : ∀ st, (sp.body (q.asked s) s).2 ≠ .later st) :
    s.runCmd sp q.issue = (sp.body (q.asked s) s).1.countReply (q.asked s) (sp.body (q.asked s) s).2 := by
  have hdec := decideCmd_of_asks h hnow
  rw [runCmd_of_asks h, serve_of_unjournaled hquiet (by rw [hdec]; exact hnow), hdec]

/-- A record without a clear changes nothing but the count of the query. -/
theorem runCmd_of_record {u : State} {b : Bytes} (hquiet : sp.journaled (q.asked s) = false)
    (hbody : sp.body (q.asked s) s = (u, .rec_ b)) : s.runCmd sp q.issue = u.count Reg.hubCntCmd := by
  rw [runCmd_of_quiet h hquiet (by simp [hbody]), hbody]
  rfl

/-- A record with a clear: the entry stands, and the clear acts after it. -/
theorem runCmd_of_clear (hjournal : sp.journaled (q.asked s) = true) (hopc : q.opc = sp.opc) (ha : q.a < 2 ^ 64) (hb : q.b < 2 ^ 64)
    (hc : q.c < 2 ^ 64) {u : State} {b b' : Bytes} (hbody : (sp.body (q.asked s) s).2 = .rec_ b)
    (hnoted : sp.body (q.asked s) (s.noted q) = (u, .rec_ b')) : s.runCmd sp q.issue = u.count Reg.hubCntCmd := by
  have hentry : servedEntry sp (q.asked s) (srcCore q.k) 0 0 stOk 0 = q.entry stOk 0 := by
    simp only [servedEntry, CoreCmd.asked, CoreCmd.entry, hopc, Nat.mod_eq_of_lt ha, Nat.mod_eq_of_lt hb, Nat.mod_eq_of_lt hc]
  have hsafe : (s.noted q).safe = none := (State.IoOnly.noted s q stOk 0).safe.trans h.safe
  have hdec := decideCmd_of_asks h (by simp [hbody])
  have hdec' : (s.noted q).decideCmd sp (q.asked s) = (u, .rec_ b') :=
    (decideCmd_of_query h.query hsafe (.inr (.inr rfl)) h.narrow (by simp [hnoted])).trans hnoted
  rw [runCmd_of_asks h]
  exact serve_of_journaled hjournal rfl (by rw [hdec, hbody]) (by rw [hentry]; exact hdec')

end

/-- A core that runs, with bring-up ended and no safe state. -/
theorem of_serving {s : State} {k : Nat} (h : s.serving k = true) : s.coreUp k = true ∧ s.bring.stage = 8 ∧ s.safe = none := by
  simpa [State.serving, and_assoc] using h

theorem recOk_of_fits {c : Cmd} {len : Nat} (h16 : c.imm % 16 = 0) (hfit : c.imm + len ≤ 4096) : c.recOk len = true := by
  simp [Cmd.recOk, h16, hfit]

theorem Cmd.record_of_fits {c : Cmd} {b : Bytes} (h16 : c.imm % 16 = 0) (hfit : c.imm + b.length ≤ 4096) : c.record b = .rec_ b := by
  rw [Cmd.record, recOk_of_fits h16 hfit, if_pos rfl]

end Sys2Proof.Machine
end

section
/-! SCKSET, SCKFREE, SCKREAD and LIDSTAT (R265, R271, R272). -/

namespace Sys2Proof.Machine

theorem exec_sckset (s : State) (i : Issue) : exec (.sckset i) s = .next (s.runCmd specSckset i) := rfl
theorem exec_sckfree (s : State) (i : Issue) : exec (.sckfree i) s = .next (s.runCmd specSckfree i) := rfl
theorem exec_sckread (s : State) (i : Issue) : exec (.sckread i) s = .next (s.runCmd specSckread i) := rfl
theorem exec_lidstat (s : State) (i : Issue) : exec (.lidstat i) s = .next (s.runCmd specLidstat i) := rfl

theorem body_specSckread : specSckread.body = readScale := rfl
theorem body_specLidstat : specLidstat.body = lidStat := rfl

/-! ### SCKSET and SCKFREE (R265) -/

/-- An entry of the journal leaves the entries of the Scale Keeper, and what SCKSET and SCKFREE ask of them. -/
theorem State.JournalOnly.sckLegal {s t : State} (h : s.JournalOnly t) (c e : Nat) : t.sckLegal c e = s.sckLegal c e := by
  have hsck : t.sck = s.sck := (congrArg State.sck h.frame :)
  simp only [State.sckLegal, State.sckEnt, hsck, h.ctx]

/-- The operand of SCKSET: a listed format that is not of the IEEE kind, a margin, and an initial scale other than −128. -/
structure ScaleWord (b f m v : Nat) : Prop where
  fmt_lt : f < 64
  margin_lt : m < 16
  scale_lt : v < 256
  scale_ne : v ≠ 128
  fmt_isSome : (fmtOf f).isSome = true
  kind_ne : ∀ x, fmtOf f = some x → x.kind ≠ .ieee
  word : b = f + m * 2 ^ 8 + v * 2 ^ 16

theorem signedOf_ge {v : Nat} (hlt : v < 256) (hne : v ≠ 128) : ¬ signedOf 8 v < -127 := by
  unfold signedOf
  split_ifs <;> omega

/-- The entry that SCKSET binds, with its scale in all four copies. -/
def scaleBound (c f m v : Nat) : SckEntry :=
  { bound := true, fmt := f, margin := m, ctx := c, scales := [signedOf 8 v, signedOf 8 v, signedOf 8 v, signedOf 8 v] }

theorem setScale_of_word {c : Cmd} {f m v : Nat} (h : ScaleWord c.b f m v) (s : State) : setScale c s =
    if s.sckLegal c.ctx c.imm then (s.setSck c.imm (scaleBound c.ctx f m v), .ok 0) else reject s stIllegalState := by
  obtain ⟨hf, hm, hv, hne, hsome, hkind, hword⟩ := h
  obtain ⟨x, hx⟩ := Option.isSome_iff_exists.1 hsome
  have hfmt : c.b % 64 = f := by omega
  have hspare : c.b / 64 % 4 = 0 := by omega
  have hspare' : c.b / 2 ^ 12 % 16 = 0 := by omega
  have hmargin : c.b / 256 % 16 = m := by omega
  have hscale : c.b / 2 ^ 16 % 256 = v := by omega
  have hieee : (x.kind != .ieee) = true := by simpa using hkind x hx
  unfold setScale
  simp only [hfmt, hspare, hspare', hmargin, hscale, hx, hieee, signedOf_ge hv hne, Bool.not_true, Bool.false_eq_true, ne_eq,
    not_true_eq_false, or_false, if_false]
  rfl

section
variable {s : State} {q : CoreCmd}

theorem exec_sckset_of_word (h : s.Passes q specSckset) {f m v : Nat} (hword : ScaleWord q.b f m v) :
    (s.sckLegal q.ctx q.imm = true →
      exec (.sckset q.issue) s = .next (((s.noted q).setSck q.imm (scaleBound q.ctx f m v)).count Reg.hubCntCmd)) ∧
    (s.sckLegal q.ctx q.imm = false → exec (.sckset q.issue) s = .next (s.rejected q stIllegalState)) := by
  have hbody (t : State) : specSckset.body (q.cmd s) t =
      if t.sckLegal q.ctx q.imm then (t.setSck q.imm (scaleBound q.ctx f m v), .ok 0) else reject t stIllegalState :=
    setScale_of_word (c := q.cmd s) hword t
  refine ⟨fun hlegal => ?_, fun hlegal => ?_⟩
  · rw [exec_sckset, runCmd_of_done h (f := fun t => t.setSck q.imm (scaleBound q.ctx f m v)) (v := fun _ => 0)]
    intro t ht
    rw [hbody, if_pos (by rw [ht.sckLegal]; exact hlegal)]
  · rw [exec_sckset, runCmd_of_rejected h (st := stIllegalState) (by rw [hbody, if_neg (by simp [hlegal])])]

theorem exec_sckfree_of_passes (h : s.Passes q specSckfree) : exec (.sckfree q.issue) s =
    .next (if s.sckLegal q.ctx q.imm then ((s.noted q).setSck q.imm {}).count Reg.hubCntCmd else s.rejected q stIllegalState) := by
  have hbody (t : State) : specSckfree.body (q.cmd s) t =
      if t.sckLegal q.ctx q.imm then (t.setSck q.imm {}, .ok 0) else reject t stIllegalState := rfl
  by_cases hlegal : s.sckLegal q.ctx q.imm = true
  · rw [if_pos hlegal, exec_sckfree, runCmd_of_done h (f := fun t => t.setSck q.imm {}) (v := fun _ => 0)]
    intro t ht
    rw [hbody, if_pos (by rw [ht.sckLegal]; exact hlegal)]
  · rw [if_neg hlegal, exec_sckfree, runCmd_of_rejected h (st := stIllegalState) (by rw [hbody, if_neg hlegal])]

/-! ### SCKREAD and LIDSTAT (R271, R272) -/

theorem asks_sckread (hup : s.coreUp q.k = true) (hsafe : s.safe = none) (hmod : q.mod = 0) (ha : q.a < 2 ^ 15) (himm : q.imm < 2 ^ 12) :
    s.Asks q specSckread :=
  { up := hup, query := rfl, mod_lt := by omega, imm_lt := by omega, row1 := by rw [hmod]; rfl, safe := hsafe
    narrow := (wide_eq_false_iff ..).2
      ⟨fun _ => (Nat.mod_le q.a _).trans_lt ha, fun h => absurd rfl h, fun h => absurd rfl h, fun _ => himm⟩ }

theorem asks_lidstat (hup : s.coreUp q.k = true) (hsafe : s.safe = none) (hmod : q.mod < 2) (ha : q.a < 2 ^ 32) (himm : q.imm < 2 ^ 12) :
    s.Asks q specLidstat where
  up := hup
  query := rfl
  mod_lt := by omega
  imm_lt := by omega
  row1 := by
    obtain h | h : q.mod = 0 ∨ q.mod = 1 := by omega
    · rw [h]
      rfl
    · rw [h]
      rfl
  narrow := (wide_eq_false_iff ..).2
    ⟨fun _ => (Nat.mod_le q.a _).trans_lt ha, fun h => absurd rfl h, fun h => absurd rfl h, fun _ => himm⟩
  safe := hsafe

theorem length_record_pos (e : SckEntry) : 0 < e.record.length := by simp [SckEntry.record]

/-- LIDSTAT MOD 0: the record of the step that ended last. -/
theorem lidStat_of_ended {c : Cmd} (hmod : c.mod = 0) (hctx : c.ctx ≠ 0) (h16 : c.imm % 16 = 0) (hfit : c.imm ≤ 3936)
    (hvalid : (s.ctx c.ctx).stats.valid = true) (hstep : (s.ctx c.ctx).stats.step = c.a) :
    lidStat c s = (s, .rec_ (s.ctx c.ctx).stats.record) := by
  have hok : c.recOk 160 = true := recOk_of_fits h16 (by omega)
  simp [lidStat, hmod, hctx, hok, hvalid, hstep]

/-- LIDSTAT MOD 1: the record of an open step's slot. -/
theorem lidStat_of_open {c : Cmd} {k : Nat} (hmod : c.mod = 1) (hctx : c.ctx ≠ 0) (h16 : c.imm % 16 = 0) (hfit : c.imm ≤ 4080)
    (hstep : (s.ctx c.ctx).stepSlot c.a = some k) (hlive : (s.slot c.ctx k).live = true) :
    lidStat c s = (s, .rec_ (s.slotRecord c.ctx k)) := by
  have hok : c.recOk 16 = true := recOk_of_fits h16 (by omega)
  have hlive' : ((s.ctx c.ctx).slot k).live = true := hlive
  simp [lidStat, hmod, hctx, hok, hstep, hlive']

/-- LIDSTAT of a core whose operands name a record, and the answer to any command with those operands. -/
theorem exec_lidstat_of_record (hup : s.coreUp q.k = true) (hsafe : s.safe = none) (hmod : q.mod < 2) (ha : q.a < 2 ^ 32)
    (himm : q.imm < 2 ^ 12) {b : Bytes} (hbody : ∀ c : Cmd, c.ctx = q.ctx → c.a = q.a → c.imm = q.imm → c.mod = q.mod →
      specLidstat.body c s = (s, .rec_ b)) : exec (.lidstat q.issue) s = .next (s.count Reg.hubCntCmd) ∧
      ∀ c : Cmd, c.ctx = q.ctx → c.a = q.a → c.imm = q.imm → c.mod = q.mod → s.decideCmd specLidstat c = (s, .rec_ b) := by
  refine ⟨?_, fun c hctx hca hcimm hcmod => decideCmd_of_record rfl hsafe (.inl rfl) ?_ (hbody c hctx hca hcimm hcmod)⟩
  · rw [exec_lidstat, runCmd_of_record (asks_lidstat hup hsafe hmod ha himm) rfl (hbody _ rfl (Nat.mod_eq_of_lt (by omega)) rfl rfl)]
  · exact (wide_eq_false_iff ..).2 ⟨fun _ => hca ▸ ha, fun h => absurd rfl h, fun h => absurd rfl h, fun _ => hcimm ▸ himm⟩

end

/-- Settles O29: SCKSET and SCKFREE by what their sub-block answers whatever entries stand, the two queries by their records. -/
theorem scalesAndStepStatus : Obligations.ScalesAndStepStatus := by
  unfold Obligations.ScalesAndStepStatus
  refine ⟨?sckset, ?sckfree, ?sckread, ?lidstat⟩
  case sckset =>
    intro s q f m v hopc hserve hmod himm ha hc halive hsome hf hkind hm hv hne hb
    have hpass : s.Passes q specSckset := passes_of_rows hserve hopc rfl ha (by omega) hc (by omega) (by omega) (by rw [hmod]; rfl)
      (.inr halive) ((wide_eq_false_iff ..).2
        ⟨fun h => absurd rfl h, fun _ => show q.b < 2 ^ 24 by omega, fun h => absurd rfl h, fun _ => himm⟩)
    exact exec_sckset_of_word hpass ⟨hf, hm, hv, hne, hsome, hkind, hb⟩
  case sckfree =>
    intro s q hopc hserve hmod himm ha hb hc halive
    exact exec_sckfree_of_passes (passes_of_rows hserve hopc rfl ha hb hc (by omega) (by omega) (by rw [hmod]; rfl) (.inr halive)
      ((wide_eq_false_iff ..).2 ⟨fun h => absurd rfl h, fun h => absurd rfl h, fun h => absurd rfl h, fun _ => himm⟩))
  case sckread =>
    intro s q _ hup hsafe _ hmod ha h16 hfit
    have himm : q.imm < 2 ^ 12 := by
      have := length_record_pos (s.sckEnt q.a)
      omega
    have hbody (c : Cmd) (hca : c.a = q.a) (hcimm : c.imm = q.imm) :
        specSckread.body c s = (s, .rec_ (s.sckEnt q.a).record) := by
      rw [body_specSckread, readScale, hca, Cmd.record_of_fits (by rw [hcimm]; exact h16) (by rw [hcimm]; exact hfit)]
    refine ⟨?_, fun c hca hcimm hcmod => ?_⟩
    · rw [exec_sckread, runCmd_of_record (asks_sckread hup hsafe hmod ha himm) rfl (hbody _ (Nat.mod_eq_of_lt (by omega)) rfl)]
    · exact decideCmd_of_record rfl hsafe (.inl rfl) ((wide_eq_false_iff ..).2
        ⟨fun _ => hca ▸ ha, fun h => absurd rfl h, fun h => absurd rfl h, fun _ => hcimm ▸ himm⟩) (hbody c hca hcimm)
  case lidstat =>
    intro s q k _ hup hsafe _ ha hctx hmod h16
    refine ⟨fun hmod0 hfit hvalid hstep => ?_, fun hmod1 hfit hstep hlive => ?_⟩
    · have hrec := exec_lidstat_of_record hup hsafe hmod ha (by omega) (b := (s.ctx q.ctx).stats.record)
        fun c hcc hca hcimm hcmod => by
          rw [body_specLidstat, lidStat_of_ended (hcmod.trans hmod0) (hcc ▸ hctx) (hcimm ▸ h16) (hcimm ▸ hfit) (hcc ▸ hvalid)
            (by rw [hcc, hca, hstep]), hcc]
      rwa [hmod0] at hrec
    · have hrec := exec_lidstat_of_record hup hsafe hmod ha (by omega) (b := s.slotRecord q.ctx k) fun c hcc hca hcimm hcmod => by
        rw [body_specLidstat, lidStat_of_open (hcmod.trans hmod1) (hcc ▸ hctx) (hcimm ▸ h16) (hcimm ▸ hfit) (by rw [hcc, hca, hstep])
          (hcc ▸ hlive), hcc]
      rwa [hmod1] at hrec

end Sys2Proof.Machine
end

section
/-! SIEVECFG, MTRSAMP and ARBSTAT (R195, R262, R266, R271, R282). -/

namespace Sys2Proof.Machine

theorem exec_sievecfg (s : State) (i : Issue) : exec (.sievecfg i) s = .next (s.runCmd specSievecfg i) := rfl
theorem exec_mtrsamp (s : State) (i : Issue) : exec (.mtrsamp i) s = .next (s.runCmd specMtrsamp i) := rfl
theorem exec_arbstat (s : State) (i : Issue) : exec (.arbstat i) s = .next (s.runCmd specArbstat i) := rfl

theorem body_specMtrsamp : specMtrsamp.body = askSample := rfl
theorem body_specArbstat : specArbstat.body = arbStat := rfl

/-! ### SIEVECFG (R262) -/

/-- The three rate registers hold the operands, each within its width, and no other register changes. -/
theorem reg_sieveCfg (s : State) {b c e : Nat} (hb : b < 2 ^ 32) (hc : c < 2 ^ 32) (he : e < 2 ^ 32) :
    (s.sieveCfg b c e).reg Reg.hubSieveRate = b ∧ (s.sieveCfg b c e).reg Reg.hubSieveRate64 = c ∧ (s.sieveCfg b c e).reg Reg.hubSieveCfg = e ∧
      ∀ a, a ≠ Reg.hubSieveRate → a ≠ Reg.hubSieveRate64 → a ≠ Reg.hubSieveCfg → (s.sieveCfg b c e).reg a = s.reg a := by
  simp only [State.sieveCfg, reg_setReg, Nat.mod_eq_of_lt hb, Nat.mod_eq_of_lt hc, Nat.mod_eq_of_lt he]
  refine ⟨rfl, rfl, rfl, fun a h1 h2 h3 => ?_⟩
  rw [if_neg (Ne.symm h3), if_neg (Ne.symm h2), if_neg (Ne.symm h1)]

theorem frame_sieveCfg (s : State) (b c e : Nat) : s.sieveCfg b c e = { s with regs := (s.sieveCfg b c e).regs } := rfl

section
variable {s : State} {q : CoreCmd}

/-- SIEVECFG is legal before bring-up has ended. -/
theorem passes_sievecfg (hup : s.coreUp q.k = true) (hsafe : s.safe = none) (hopc : q.opc = 0x40) (hctx : q.ctx = 0) (hmod : q.mod = 0)
    (ha : q.a < 2 ^ 64) (hb : q.b < 2 ^ 32) (hc : q.c < 2 ^ 16) (himm : q.imm < 128) (halive : (s.ctx 0).st ≠ .terminated) :
    s.Passes q specSievecfg :=
  { up := hup, opc := hopc, command := rfl, a_lt := ha, b_lt := by omega, c_lt := by omega, mod_lt := by omega, imm_lt := by omega
    row1 := by rw [hmod]; rfl
    alive := .inr (by rw [← hctx] at halive; exact halive)
    narrow := (wide_eq_false_iff ..).2 ⟨fun h => absurd rfl h, fun _ => hb, fun _ => hc, fun _ => himm⟩
    free := blocked_of_early rfl hsafe _ }

theorem exec_sievecfg_of_passes (h : s.Passes q specSievecfg) :
    exec (.sievecfg q.issue) s = .next (((s.noted q).sieveCfg q.b q.c q.imm).count Reg.hubCntCmd) := by
  rw [exec_sievecfg, runCmd_of_done h (f := fun t => t.sieveCfg q.b q.c q.imm) (v := fun _ => 0) fun _ _ => rfl]

/-! ### MTRSAMP (R266) -/

theorem passes_mtrsamp (hserve : s.serving q.k = true) (hopc : q.opc = 0x41) (ha : q.a < 2 ^ 32) (hb : q.b < 2 ^ 24) (hc : q.c < 2 ^ 64)
    (hmod : q.mod < 2) (hmod1 : q.mod = 1 → q.imm = 0) (himm : q.imm < 128) (halive : (s.ctx q.ctx).st ≠ .terminated) :
    s.Passes q specMtrsamp := by
  refine passes_of_rows hserve hopc rfl (by omega) (by omega) hc (by omega) (by omega) ?_ (.inr halive)
    ((wide_eq_false_iff ..).2 ⟨fun _ => ha, fun _ => hb, fun h => absurd rfl h, fun hw => ?_⟩)
  · obtain h | h : q.mod = 0 ∨ q.mod = 1 := by omega
    · rw [h]
      rfl
    · rw [h, hmod1 h]
      rfl
  · obtain h | h : q.mod = 0 ∨ q.mod = 1 := by omega
    · have hwidth : specMtrsamp.iw (q.cmd s).mod = 7 := by
        rw [show (q.cmd s).mod = 0 from h]
        rfl
      rw [hwidth]
      exact himm
    · have hwidth : specMtrsamp.iw (q.cmd s).mod = 0 := by
        rw [show (q.cmd s).mod = 1 from h]
        rfl
      exact absurd hwidth hw

/-- The elements that MTRSAMP asks for: all of them, or as many as IMM says (R195, R266). -/
def sampleEls (sl : Slot) (o : OpRec) (mod imm : Nat) : List Nat :=
  if mod = 1 then List.range (o.d.dimM * o.d.dimN) else sl.sieve.elements o.d (max 1 (min 64 imm))

/-- The slot once a sample of op `opseq` has been asked for. -/
def Slot.sampleAsked (sl : Slot) (opseq : Nat) (els : List Nat) : Slot := sl.onOp opseq (fun p => { p with asked := p.asked ++ [els] })

/-- An accepted op of an open step that has no verdict yet: the sample waits for it. -/
structure Slot.Samples (sl : Slot) (opseq : Nat) (o : OpRec) : Prop where
  op : sl.op opseq = some o
  open_ : sl.st = .open_ ∨ sl.st = .ended
  accepted : o.notAccepted = false
  kind : o.d.isRoute = false
  waits : o.verdict = none
  st : o.st = .accepted ∨ o.st = .pending

theorem askSample_of_waiting {c : Cmd} {k : Nat} {o : OpRec} (hstep : s.stepOf c.ctx c.a = some k) (h : (s.slot c.ctx k).Samples c.b o) :
    askSample c s = (s.setSlot c.ctx k ((s.slot c.ctx k).sampleAsked c.b (sampleEls (s.slot c.ctx k) o c.mod c.imm)), .ok 0) := by
  obtain ⟨hop, hopen, hacc, hkind, hwait, hst⟩ := h
  simp only [askSample, hstep, hop, hopen, hacc, hkind, hwait, hst, and_self, if_true]
  rfl

theorem exec_mtrsamp_of_waiting {k : Nat} {o : OpRec} (hpass : s.Passes q specMtrsamp) (hstep : s.stepOf q.ctx q.a = some k)
    (h : (s.slot q.ctx k).Samples q.b o) : exec (.mtrsamp q.issue) s = .next (((s.noted q).setSlot q.ctx k
      ((s.slot q.ctx k).sampleAsked q.b (sampleEls (s.slot q.ctx k) o q.mod q.imm))).count Reg.hubCntCmd) := by
  rw [exec_mtrsamp, runCmd_of_done hpass (f := fun t => t.setSlot q.ctx k
    ((s.slot q.ctx k).sampleAsked q.b (sampleEls (s.slot q.ctx k) o q.mod q.imm))) (v := fun _ => 0)]
  intro t ht
  rw [body_specMtrsamp, ← ht.slot]
  rw [← ht.slot] at h
  exact askSample_of_waiting (c := q.cmd s) ((ht.stepOf ..).trans hstep) h

theorem exec_mtrsamp_of_no_step (hpass : s.Passes q specMtrsamp) (hstep : s.stepOf q.ctx q.a = none) :
    exec (.mtrsamp q.issue) s = .next (s.rejected q stIllegalState) := by
  have hbody : askSample (q.cmd s) s = reject s stIllegalState := by
    have hstep' : s.stepOf (q.cmd s).ctx (q.cmd s).a = none := hstep
    simp only [askSample, hstep']
  rw [exec_mtrsamp, runCmd_of_rejected hpass hbody]

/-! ### ARBSTAT (R271) -/

theorem asks_arbstat (hup : s.coreUp q.k = true) (hsafe : s.safe = none) (hmod : q.mod < 2) (himm : q.imm < 2 ^ 12) : s.Asks q specArbstat where
  up := hup
  query := rfl
  mod_lt := by omega
  imm_lt := by omega
  row1 := by
    obtain h | h : q.mod = 0 ∨ q.mod = 1 := by omega
    · rw [h]
      rfl
    · rw [h]
      rfl
  narrow := (wide_eq_false_iff ..).2 ⟨fun h => absurd rfl h, fun h => absurd rfl h, fun h => absurd rfl h, fun _ => himm⟩
  safe := hsafe

theorem arbStat_of_fits {c : Cmd} (h16 : c.imm % 16 = 0) (hfit : c.imm ≤ 4000) :
    arbStat c s = (if c.mod = 1 then s.clrBits Reg.mtrStatus (2 ^ 16) else s, .rec_ s.arbRecord) := by
  rw [arbStat, if_pos (recOk_of_fits h16 (by omega))]

end

/-- Settles O31: each command by its lemma above; ARBSTAT's clear acts after its entry. -/
theorem sieveCommands : Obligations.SieveCommands := by
  unfold Obligations.SieveCommands
  refine ⟨?sievecfg, ?waiting, ?noStep, ?arbstat⟩
  case sievecfg =>
    intro s q hopc hup hsafe hctx hmod ha hb hc himm halive
    obtain ⟨hrate, hrate64, hcfg, hother⟩ := reg_sieveCfg (s.noted q) (b := q.b) (c := q.c) (e := q.imm) hb (by omega) (by omega)
    exact ⟨(s.noted q).sieveCfg q.b q.c q.imm, exec_sievecfg_of_passes (passes_sievecfg hup hsafe hopc hctx hmod ha hb hc himm halive),
      hrate, hrate64, hcfg, hother, frame_sieveCfg ..⟩
  case waiting =>
    intro s q k o hopc hserve _ ha hb hc hmod hmod1 himm hstep hopen hop hacc hkind hwait hst
    have hpass := passes_mtrsamp hserve hopc ha hb hc hmod hmod1 himm (by rw [live_of_stepOf hstep]; decide)
    refine ⟨sampleEls (s.slot q.ctx k) o q.mod q.imm, fun h => if_pos h, fun h => if_neg (by omega), ?_⟩
    exact exec_mtrsamp_of_waiting hpass hstep ⟨hop, hopen, hacc, hkind, hwait, hst⟩
  case noStep =>
    intro s q hopc hserve _ ha hb hc hmod himm halive hstep
    exact exec_mtrsamp_of_no_step (passes_mtrsamp hserve hopc ha hb hc (by omega) (by omega) himm halive) hstep
  case arbstat =>
    intro s q hopc hup _ hsafe _ ha hb hc h16 hfit
    refine ⟨fun hmod => ?_, fun hmod => ?_, fun c hctx hcimm hcmod => ?_⟩
    · have hquiet : specArbstat.journaled (q.asked s) = false := by simp [CmdSpec.journaled, specArbstat, CoreCmd.asked, hmod]
      have hbody : specArbstat.body (q.asked s) s = (s, .rec_ s.arbRecord) := by
        rw [body_specArbstat, arbStat_of_fits h16 hfit]
        exact congrArg (·, Reply.rec_ s.arbRecord) (if_neg (show ¬ q.mod = 1 by omega))
      rw [exec_arbstat, runCmd_of_record (asks_arbstat hup hsafe (by omega) (by omega)) hquiet hbody]
    · have hjournal : specArbstat.journaled (q.asked s) = true := by simp [CmdSpec.journaled, specArbstat, CoreCmd.asked, hmod]
      have hbody (t : State) : specArbstat.body (q.asked s) t = (t.clrBits Reg.mtrStatus (2 ^ 16), .rec_ t.arbRecord) := by
        rw [body_specArbstat, arbStat_of_fits h16 hfit, if_pos (show (q.asked s).mod = 1 from hmod)]
      rw [exec_arbstat, runCmd_of_clear (asks_arbstat hup hsafe (by omega) (by omega)) hjournal hopc ha hb hc
        (congrArg Prod.snd (hbody s)) (hbody _)]
    · have hbody : specArbstat.body c s = (s, .rec_ s.arbRecord) := by
        rw [body_specArbstat, arbStat_of_fits (hcimm ▸ h16) (hcimm ▸ hfit), if_neg (by omega)]
      exact decideCmd_of_record rfl hsafe (.inr (.inl hctx)) ((wide_eq_false_iff ..).2
        ⟨fun h => absurd rfl h, fun h => absurd rfl h, fun h => absurd rfl h, fun _ => show c.imm < 2 ^ 12 by omega⟩) hbody

end Sys2Proof.Machine
end

section
/-! RDREG, WRREG and REGISTER_WRITE (R267, R451, R501). -/

namespace Sys2Proof.Machine

theorem exec_rdreg (s : State) (i : Issue) : exec (.rdreg i) s = .next (s.runCmd specRdreg i) := rfl
theorem exec_wrreg (s : State) (i : Issue) : exec (.wrreg i) s = .next (s.runCmd specWrreg i) := rfl

theorem body_specRdreg : specRdreg.body = readRegister := rfl
theorem body_specWrreg : specWrreg.body = writeRegister := rfl

/-! ### The response to an address (R451) -/

theorem respCode_lt (s : State) (a : Nat) : s.respCode a < 4 := by
  unfold State.respCode
  dsimp only
  split_ifs <;> decide

theorem respCode_of_misaligned (s : State) {a : Nat} (h : a % 4 ≠ 0) : s.respCode a = 3 := if_pos h

theorem readRegister_eq (c : Cmd) (s : State) : readRegister c s =
    if s.respCode c.imm = 0 then ((s.readReg c.src c.imm).1, .ok (s.readReg c.src c.imm).2)
    else (s, .no (if s.respCode c.imm = 2 then stUnreachable else stBadOperand) false) := by
  have hlt := respCode_lt s c.imm
  obtain h | h | h | h : s.respCode c.imm = 0 ∨ s.respCode c.imm = 1 ∨ s.respCode c.imm = 2 ∨ s.respCode c.imm = 3 := by omega
  all_goals simp [readRegister, reject, h]

theorem writeRegister_of_ok {c : Cmd} {s : State} (h : s.respCode c.imm = 0) (hfree : s.wrBlocked c.imm c.a = false) :
    writeRegister c s = (s.writeReg c.src c.imm c.a, .ok 0) := by
  simp [writeRegister, h, hfree]

theorem writeRegister_of_unreachable {c : Cmd} {s : State} (h : s.respCode c.imm = 2) : writeRegister c s = reject s stUnreachable := by
  simp [writeRegister, h]

theorem writeRegister_of_none {c : Cmd} {s : State} (h : s.respCode c.imm = 1 ∨ s.respCode c.imm = 3) :
    writeRegister c s = reject s stBadOperand := if_pos h

/-- An entry of the journal leaves the responses, and what holds a partition map. -/
theorem State.JournalOnly.respCode {s t : State} (h : s.JournalOnly t) (a : Nat) : t.respCode a = s.respCode a :=
  (congrArg (State.respCode · a) h.frame :)

theorem State.JournalOnly.wrBlocked {s t : State} (h : s.JournalOnly t) (a v : Nat) : t.wrBlocked a v = s.wrBlocked a v := by
  have hlo : t.reg Reg.hubPartMapLo = s.reg Reg.hubPartMapLo := h.reg _ (by unfold journalReg; decide)
  have hhi : t.reg Reg.hubPartMapHi = s.reg Reg.hubPartMapHi := h.reg _ (by unfold journalReg; decide)
  have hbring : t.bring = s.bring := (congrArg State.bring h.frame :)
  simp only [State.wrBlocked, State.partBlocked, State.clusterBusy, h.ctxs, hbring, Bool.false_eq_true, if_false, if_true, hlo, hhi]

/-! ### The commands of a core -/

section
variable {s : State} {q : CoreCmd}

theorem asks_rdreg (hserve : s.serving q.k = true) (hmod : q.mod = 0) (himm : q.imm < 2 ^ 24) : s.Asks q specRdreg :=
  { up := (of_serving hserve).1, query := rfl, mod_lt := by omega, imm_lt := by omega, row1 := by rw [hmod]; rfl
    safe := (of_serving hserve).2.2
    narrow := (wide_eq_false_iff ..).2 ⟨fun h => absurd rfl h, fun h => absurd rfl h, fun h => absurd rfl h, fun _ => himm⟩ }

theorem readRegister_now (c : Cmd) (st : Nat) : (readRegister c s).2 ≠ .later st := by
  rw [readRegister_eq]
  split_ifs <;> simp

theorem exec_rdreg_of_asks (h : s.Asks q specRdreg) : exec (.rdreg q.issue) s =
    .next (if s.respCode q.imm = 0 then (s.readReg (.core q.k) q.imm).1.count Reg.hubCntCmd else s.count Reg.hubCntRejected) := by
  rw [exec_rdreg, runCmd_of_quiet h rfl fun st => readRegister_now _ st, body_specRdreg, readRegister_eq]
  by_cases hok : s.respCode q.imm = 0
  · rw [if_pos hok, if_pos (show s.respCode (q.asked s).imm = 0 from hok)]
    rfl
  · rw [if_neg hok, if_neg (show ¬ s.respCode (q.asked s).imm = 0 from hok)]
    rfl

theorem passes_wrreg (hserve : s.serving q.k = true) (hopc : q.opc = 0x49) (hctx : q.ctx = 0) (hmod : q.mod = 0) (himm : q.imm < 2 ^ 24)
    (ha : q.a < 2 ^ 32) (hb : q.b < 2 ^ 64) (hc : q.c < 2 ^ 64) (halive : (s.ctx 0).st ≠ .terminated) : s.Passes q specWrreg :=
  passes_of_rows hserve hopc rfl (by omega) hb hc (by omega) (by omega) (by rw [hmod]; rfl) (.inr (by rw [← hctx] at halive; exact halive))
    ((wide_eq_false_iff ..).2 ⟨fun _ => ha, fun h => absurd rfl h, fun h => absurd rfl h, fun _ => himm⟩)

theorem exec_wrreg_of_ok (h : s.Passes q specWrreg) (hok : s.respCode q.imm = 0) (hfree : s.wrBlocked q.imm q.a = false) :
    exec (.wrreg q.issue) s = .next (((s.noted q).writeReg (.core q.k) q.imm q.a).count Reg.hubCntCmd) := by
  rw [exec_wrreg, runCmd_of_done h (f := fun t => t.writeReg (.core q.k) q.imm q.a) (v := fun _ => 0)]
  intro t ht
  rw [body_specWrreg]
  exact writeRegister_of_ok (c := q.cmd s) ((ht.respCode _).trans hok) ((ht.wrBlocked ..).trans hfree)

end

/-! ### REGISTER_WRITE (R451, R501) -/

theorem exec_registerWrite_of_ok (src : Src) (v : Nat) {s : State} {a : Nat} (h : s.respCode a = 0) :
    exec (.registerWrite src a v) s = .next ((s.writeReg src a (v % 2 ^ 32)).emit (.regRsp src a 0 0)) := by
  have hexec : exec (.registerWrite src a v) s = .next (s.writeAccess src a (fun q => q.writeReg src a (v % 2 ^ 32))) := rfl
  rw [hexec, State.writeAccess, h]
  rfl

theorem exec_registerWrite_of_error (src : Src) (v : Nat) {s : State} {a : Nat} (h : s.respCode a ≠ 0) :
    exec (.registerWrite src a v) s = .next ((s.count Reg.hubCntRegErr).emit (.regRsp src a 0 (s.respCode a))) := by
  have hexec : exec (.registerWrite src a v) s = .next (s.writeAccess src a (fun q => q.writeReg src a (v % 2 ^ 32))) := rfl
  rw [hexec, State.writeAccess, if_neg h]

/-- Settles O34: RDREG and WRREG by the response to their address, REGISTER_WRITE by its access. -/
theorem registerAccess : Obligations.RegisterAccess := by
  unfold Obligations.RegisterAccess
  refine ⟨?rdreg, ?wrreg, ?write, ?misaligned, fun s src v => rfl⟩
  case rdreg =>
    intro s q _ hserve _ hmod himm _ _ _
    refine ⟨exec_rdreg_of_asks (asks_rdreg hserve hmod himm), fun c hctx _ hcimm => ?_⟩
    have hnarrow : specRdreg.wide c = false := (wide_eq_false_iff ..).2
      ⟨fun h => absurd rfl h, fun h => absurd rfl h, fun h => absurd rfl h, fun _ => hcimm ▸ himm⟩
    rw [decideCmd_of_query rfl (of_serving hserve).2.2 (.inr (.inl hctx)) hnarrow fun st => readRegister_now c st, body_specRdreg,
      readRegister_eq, hcimm]
  case wrreg =>
    intro s q hopc hserve hctx hmod himm ha hb hc halive
    have hpass := passes_wrreg hserve hopc hctx hmod himm ha hb hc halive
    refine ⟨exec_wrreg_of_ok hpass, fun h => ?_, fun h => ?_⟩
    · rw [exec_wrreg, runCmd_of_rejected hpass (writeRegister_of_unreachable (c := q.cmd s) h)]
    · rw [exec_wrreg, runCmd_of_rejected hpass (writeRegister_of_none (c := q.cmd s) h)]
  case write => exact fun s src a v => ⟨exec_registerWrite_of_ok src v, exec_registerWrite_of_error src v⟩
  case misaligned =>
    intro s src a h
    have hcode := respCode_of_misaligned s h
    refine ⟨hcode, ?_⟩
    rw [exec_registerWrite_of_error src 0 (by rw [hcode]; decide), hcode]

end Sys2Proof.Machine
end

section
/-! The runs of the Whisk (R269, R362 to R366, R371): WHISKRUN and TAPTEST of a core, what starts, ends and gives up a run, and Kettle 1's
schedule. -/

namespace Sys2Proof.Machine

theorem exec_whiskrun (s : State) (i : Issue) : exec (.whiskrun i) s = .next (s.runCmd specWhiskrun i) := rfl
theorem exec_taptest (s : State) (i : Issue) : exec (.taptest i) s = .next (s.runCmd specTaptest i) := rfl

theorem body_specWhiskrun : specWhiskrun.body = runWhisk := rfl
theorem body_specTaptest : specTaptest.body = tapTest := rfl

/-! ### A command that the port keeps under a ticket -/

/-- A command that its sub-block keeps, whatever entries stand, has its effect after its own. -/
theorem runCmd_of_kept {s : State} {q : CoreCmd} {sp : CmdSpec} (h : s.Passes q sp) {f : State → State} {st : Nat} (ht : s.hasTicket = true)
    (hbody : ∀ t, s.JournalOnly t → sp.body (q.cmd s) t = (f t, .later st)) :
    s.runCmd sp q.issue = (f (s.noted q st s.nextTicket)).heldUnder s q st s.nextTicket :=
  runCmd_of_later h ht (congrArg Prod.snd (hbody s (.refl s))) (hbody _ (.noted ..))

namespace State.JournalOnly
variable {s t : State} (h : s.JournalOnly t)
include h

theorem testEnt (id : Nat) : t.testEnt id = s.testEnt id := (congrArg (State.testEnt · id) h.frame :)
theorem planOf (p : Nat) : t.planOf p = s.planOf p := (congrArg (State.planOf · p) h.frame :)
theorem tileState (p : Nat) : t.tileState p = s.tileState p := (congrArg (State.tileState · p) h.frame :)
theorem isMapped (p : Nat) : t.isMapped p = s.isMapped p := (congrArg (State.isMapped · p) h.frame :)
theorem physOf (l : Nat) : t.physOf l = s.physOf l := (congrArg (State.physOf · l) h.frame :)
theorem hasRun (p : Nat) (f : WhiskRun → Bool) : t.hasRun p f = s.hasRun p f := (congrArg (State.hasRun · p f) h.frame :)
theorem whiskQ : t.whiskQ = s.whiskQ := (congrArg State.whiskQ h.frame :)
theorem nextWhisk : t.nextWhisk = s.nextWhisk := (congrArg State.nextWhisk h.frame :)
theorem testedAt : t.testedAt = s.testedAt := (congrArg State.testedAt h.frame :)
theorem free : t.free = s.free := (congrArg State.free h.frame :)
theorem candidates (p : Nat) : t.candidates p = s.candidates p := (congrArg (State.candidates · p) h.frame :)
theorem watchedTile (p : Nat) : t.watchedTile p = s.watchedTile p := (congrArg (State.watchedTile · p) h.frame :)
theorem ladles : t.cfg.ladles = s.cfg.ladles := (congrArg (fun u : State => u.cfg.ladles) h.frame :)

/-- The enable of the Whisk is no register of the journal. -/
theorem whiskEnable : t.bit Reg.hubWhiskCtrl 31 = s.bit Reg.hubWhiskCtrl 31 := by
  rw [State.bit, h.reg _ (by unfold journalReg; decide), State.bit]

theorem mayStart (w : WhiskRun) : t.mayStart w = s.mayStart w := by
  have hrest : ({ t with regs := s.regs } : State).mayStart w = s.mayStart w := by rw [h.frame]; rfl
  rw [← hrest]
  unfold State.mayStart
  rw [h.whiskEnable]
  rfl

end State.JournalOnly

/-! ### A request joins the queue (R363, R365) -/

/-- The request as the queue holds it. -/
def State.accepted (s : State) (w : WhiskRun) : WhiskRun := { w with id := s.nextWhisk, accepted := s.time }

/-- The state with the request in its queue. -/
def State.queued (s : State) (w : WhiskRun) : State := { s with nextWhisk := s.nextWhisk + 1, whiskQ := s.whiskQ ++ [s.accepted w] }

theorem mayStart_of_disabled {s : State} (h : s.bit Reg.hubWhiskCtrl 31 = false) (w : WhiskRun) : s.mayStart w = false := by
  simp [State.mayStart, h]

theorem queueRun_of_disabled {s : State} (h : s.bit Reg.hubWhiskCtrl 31 = false) (w : WhiskRun) (idle : Bool) :
    s.queueRun w idle = (s.queued w, stDeferred) := by
  have hstart : (s.queued w).mayStart (s.accepted w) = false := mayStart_of_disabled h _
  refine if_neg ?_
  change ¬ (idle && (s.queued w).mayStart (s.accepted w) && ! (s.queued w).before (s.accepted w)) = true
  simp [hstart]

/-- Alone in the queue, no request comes before it. -/
theorem queueRun_of_ready {s : State} {w : WhiskRun} (hempty : s.whiskQ = []) (h : s.mayStart (s.accepted w) = true) :
    s.queueRun w true = ((s.queued w).whiskStart (s.accepted w), stPending) := by
  have hstart : (s.queued w).mayStart (s.accepted w) = true := h
  have hfirst : (s.queued w).before (s.accepted w) = false := by simp [State.before, State.queued, hempty]
  refine if_pos ?_
  change (true && (s.queued w).mayStart (s.accepted w) && ! (s.queued w).before (s.accepted w)) = true
  rw [hstart, hfirst]
  rfl

/-! ### WHISKRUN (R365) -/

/-- A tile that WHISKRUN may name with a test of its plan. -/
structure State.Testable (s : State) (tile test : Nat) : Prop where
  tile_lt : tile < s.cfg.ladles
  plan : (s.testEnt test).map TestEnt.plan = some (s.planOf tile)
  usable : s.tileState tile = .spare ∨ s.tileState tile = .mapped

theorem State.JournalOnly.testable {s t : State} (h : s.JournalOnly t) {tile test : Nat} (hs : s.Testable tile test) : t.Testable tile test where
  tile_lt := h.ladles ▸ hs.tile_lt
  plan := by rw [h.testEnt, h.planOf, hs.plan]
  usable := by rw [h.tileState]; exact hs.usable

theorem runWhisk_of_none {c : Cmd} {s : State} (h : s.testEnt c.imm = none) : runWhisk c s = reject s stBadOperand :=
  if_pos (.inr (by simp [h]))

section
variable {c : Cmd} {s : State} (h : s.Testable c.a c.imm)
include h

theorem runWhisk_of_testable : runWhisk c s =
    if s.hasRun c.a (fun _ => true) then reject s stBusy
    else if 16 ≤ s.whiskQ.length then reject s stFull
    else
      let q := (s.idleLevel c.a).1.queueRun { tile := c.a, test := c.imm, ticket := some c.tk } (s.idleLevel c.a).2
      (q.1, .later q.2) := by
  have hlt := h.tile_lt
  have hbad : ¬ (s.cfg.ladles ≤ c.a ∨ (s.testEnt c.imm).map TestEnt.plan ≠ some (s.planOf c.a)) := by
    rintro (hle | hplan)
    · omega
    · exact hplan h.plan
  have hstate : ¬ (s.tileState c.a = .fuseBad ∨ s.tileState c.a = .testBad ∨ s.tileState c.a = .absent) := by
    rcases h.usable with hst | hst <;> simp [hst]
  exact (if_neg hbad).trans (if_neg hstate)

theorem runWhisk_of_unmapped (hrun : s.hasRun c.a (fun _ => true) = false) (hroom : s.whiskQ.length < 16) (hspare : s.isMapped c.a = false) :
    runWhisk c s = ((s.queueRun { tile := c.a, test := c.imm, ticket := some c.tk } true).1,
      .later (s.queueRun { tile := c.a, test := c.imm, ticket := some c.tk } true).2) := by
  rw [runWhisk_of_testable h, if_neg (by simp [hrun]), if_neg (by omega), State.idleLevel, hspare]
  rfl

end

section
variable {s : State} {q : CoreCmd}

theorem passes_whiskrun (hserve : s.serving q.k = true) (hopc : q.opc = 0x60) (hctx : q.ctx = 0) (hmod : q.mod = 0) (himm : q.imm < 2 ^ 16)
    (ha : q.a < 128) (hb : q.b < 2 ^ 64) (hc : q.c < 2 ^ 64) (halive : (s.ctx 0).st ≠ .terminated) : s.Passes q specWhiskrun :=
  passes_of_serving hserve hopc rfl (by omega) hb hc hmod (by omega) rfl hctx halive
    ((wide_eq_false_iff ..).2 ⟨fun _ => ha, fun h => absurd rfl h, fun h => absurd rfl h, fun _ => himm⟩)

theorem passes_taptest (hserve : s.serving q.k = true) (hopc : q.opc = 0x39) (hctx : q.ctx = 0) (hmod : q.mod = 0) (himm : q.imm = 0)
    (ha : q.a < 128) (hb : q.b < 2 ^ 64) (hc : q.c < 2 ^ 64) (halive : (s.ctx 0).st ≠ .terminated) : s.Passes q specTaptest :=
  passes_of_serving hserve hopc rfl (by omega) hb hc hmod (by omega) (by rw [himm]; rfl) hctx halive
    ((wide_eq_false_iff ..).2 ⟨fun _ => ha, fun h => absurd rfl h, fun h => absurd rfl h, fun h => absurd rfl h⟩)

/-- The run that a core's WHISKRUN or TAPTEST asks for. -/
def State.runAsked (s : State) (tile test : Nat) (tap : Bool) : WhiskRun :=
  { id := s.nextWhisk, tile := tile, test := test, ticket := some s.nextTicket, accepted := s.time, tap := tap }

/-- The queue with one more request. -/
def State.enqueued (s : State) (n : Nat) (w : WhiskRun) : State := { s with nextWhisk := n + 1, whiskQ := s.whiskQ ++ [w] }

theorem queued_of_journalOnly {t : State} (h : s.JournalOnly t) (tile test : Nat) (tap : Bool) :
    t.accepted { tile := tile, test := test, ticket := some s.nextTicket, tap := tap } = s.runAsked tile test tap ∧
      t.queued { tile := tile, test := test, ticket := some s.nextTicket, tap := tap } = t.enqueued s.nextWhisk (s.runAsked tile test tap) := by
  have haccepted : t.accepted { tile := tile, test := test, ticket := some s.nextTicket, tap := tap } = s.runAsked tile test tap := by
    rw [State.accepted, h.nextWhisk, h.time]
    rfl
  refine ⟨haccepted, ?_⟩
  rw [State.queued, haccepted, h.nextWhisk]
  rfl

/-- While the Whisk is off, WHISKRUN on a spare is deferred. -/
theorem runCmd_whiskrun_deferred (hpass : s.Passes q specWhiskrun) (ht : s.hasTicket = true) (h : s.Testable q.a q.imm)
    (hrun : s.hasRun q.a (fun _ => true) = false) (hroom : s.whiskQ.length < 16) (hspare : s.isMapped q.a = false)
    (hoff : s.bit Reg.hubWhiskCtrl 31 = false) : s.runCmd specWhiskrun q.issue =
      ((s.noted q stDeferred s.nextTicket).enqueued s.nextWhisk (s.runAsked q.a q.imm false)).heldUnder s q stDeferred s.nextTicket := by
  refine runCmd_of_kept hpass ht (f := fun t => t.enqueued s.nextWhisk (s.runAsked q.a q.imm false)) fun t hjo => ?_
  rw [body_specWhiskrun, runWhisk_of_unmapped (c := q.cmd s) (hjo.testable h) ((hjo.hasRun ..).trans hrun) (by rw [hjo.whiskQ]; exact hroom)
    ((hjo.isMapped _).trans hspare), queueRun_of_disabled (hjo.whiskEnable.trans hoff)]
  exact congrArg (·, Reply.later stDeferred) (queued_of_journalOnly hjo q.a q.imm false).2

/-- Where R363 lets it, WHISKRUN on a spare starts at once. -/
theorem runCmd_whiskrun_pending (hpass : s.Passes q specWhiskrun) (ht : s.hasTicket = true) (h : s.Testable q.a q.imm)
    (hrun : s.hasRun q.a (fun _ => true) = false) (hempty : s.whiskQ = []) (hspare : s.isMapped q.a = false)
    (hstart : s.mayStart (s.runAsked q.a q.imm false) = true) : s.runCmd specWhiskrun q.issue =
      (((s.noted q stPending s.nextTicket).enqueued s.nextWhisk (s.runAsked q.a q.imm false)).whiskStart
        (s.runAsked q.a q.imm false)).heldUnder s q stPending s.nextTicket := by
  refine runCmd_of_kept hpass ht
    (f := fun t => (t.enqueued s.nextWhisk (s.runAsked q.a q.imm false)).whiskStart (s.runAsked q.a q.imm false)) fun t hjo => ?_
  obtain ⟨haccepted, hqueued⟩ := queued_of_journalOnly hjo q.a q.imm false
  have hready : t.mayStart (t.accepted { tile := q.a, test := q.imm, ticket := some s.nextTicket }) = true := by
    rw [haccepted, hjo.mayStart]
    exact hstart
  rw [body_specWhiskrun, runWhisk_of_unmapped (c := q.cmd s) (hjo.testable h) ((hjo.hasRun ..).trans hrun) (by rw [hjo.whiskQ, hempty]; decide)
    ((hjo.isMapped _).trans hspare)]
  have hqueue : t.queueRun { tile := q.a, test := q.imm, ticket := some s.nextTicket } true =
      ((t.enqueued s.nextWhisk (s.runAsked q.a q.imm false)).whiskStart (s.runAsked q.a q.imm false), stPending) := by
    rw [queueRun_of_ready (hjo.whiskQ.trans hempty) hready, haccepted, hqueued]
  exact congrArg (fun x : State × Nat => (x.1, Reply.later x.2)) hqueue

/-! ### TAPTEST (R269) -/

/-- A mapped tile's queue-empty level is an input, read as one free value. -/
theorem idleLevel_eq (t : State) (p : Nat) : ∃ b, t.idleLevel p = (t.took (if t.isMapped p then 1 else 0), b) := by
  unfold State.idleLevel
  split_ifs
  · exact ⟨_, rfl⟩
  · exact ⟨true, rfl⟩

theorem tapTest_of_disabled {c : Cmd} {t : State} {p : Nat} (hphys : t.physOf c.a = some p) (hrun : t.hasRun p WhiskRun.tap = false)
    (hroom : t.whiskQ.length < 16) (hoff : t.bit Reg.hubWhiskCtrl 31 = false) : tapTest c t =
      ((t.took (if t.isMapped p then 1 else 0)).queued { tile := p, ticket := some c.tk, tap := true }, .later stDeferred) := by
  obtain ⟨b, hlevel⟩ := idleLevel_eq t p
  have hoff' : (t.took (if t.isMapped p then 1 else 0)).bit Reg.hubWhiskCtrl 31 = false := hoff
  simp only [tapTest, hphys, hrun, hlevel, queueRun_of_disabled hoff', Bool.false_eq_true, if_false, if_neg (Nat.not_le.2 hroom)]

theorem runCmd_taptest_deferred {p : Nat} (hpass : s.Passes q specTaptest) (ht : s.hasTicket = true) (hphys : s.physOf q.a = some p)
    (hrun : s.hasRun p WhiskRun.tap = false) (hroom : s.whiskQ.length < 16) (hoff : s.bit Reg.hubWhiskCtrl 31 = false) :
    s.runCmd specTaptest q.issue = ((((s.noted q stDeferred s.nextTicket).took (if s.isMapped p then 1 else 0)).enqueued s.nextWhisk
      (s.runAsked p 0 true))).heldUnder s q stDeferred s.nextTicket := by
  refine runCmd_of_kept hpass ht (f := fun t => (t.took (if s.isMapped p then 1 else 0)).enqueued s.nextWhisk (s.runAsked p 0 true)) fun t hjo => ?_
  rw [body_specTaptest, tapTest_of_disabled (c := q.cmd s) ((hjo.physOf _).trans hphys) ((hjo.hasRun ..).trans hrun)
    (by rw [hjo.whiskQ]; exact hroom) (hjo.whiskEnable.trans hoff), hjo.isMapped]
  have hqueued := (queued_of_journalOnly hjo p 0 true).2
  exact congrArg (fun u : State => ({ u with free := t.free + (if s.isMapped p then 1 else 0) }, Reply.later stDeferred)) hqueued

end

end Sys2Proof.Machine
end

section
/-! The start, the end and the giving up of a run of the Whisk (R363, R364, R366), and Kettle 1's schedule (R371). -/

namespace Sys2Proof.Machine

/-! ### A run starts (R361, R363) -/

/-- Blocks that verify are counted, each one, and nothing else changes (R167). -/
theorem badRun_of_verified (s : State) (gen fmt b n : Nat) (h : ∀ i, b ≤ i → i < b + n → s.verify i gen fmt = .verified) :
    ∃ r, s.badRun gen fmt b n = ({ s with regs := r }, none) ∧
      ∀ a, a ≠ Reg.hubCntBlkVerified → ({ s with regs := r } : State).reg a = s.reg a := by
  induction n generalizing s b with
  | zero => exact ⟨s.regs, rfl, fun _ _ => rfl⟩
  | succ n ih =>
    obtain ⟨r, hrun, hreg⟩ := ih (s.count Reg.hubCntBlkVerified) (b + 1) fun i hb hi => h i (by omega) (by omega)
    refine ⟨r, ?_, fun a ha => ?_⟩
    · rw [State.badRun, h b (Nat.le_refl b) (by omega)]
      exact hrun
    · exact (hreg a ha).trans (by rw [reg_count, if_neg (Ne.symm ha)])

/-- The vectors depend on memory, the recipes and the bank alone. -/
theorem vecsFrom_congr {s u : State} (h : u.vecAt = s.vecAt) (b : Bytes) (n off : Nat) : u.vecsFrom b n off = s.vecsFrom b n off := by
  induction n generalizing off with
  | zero => rfl
  | succ n ih => rw [State.vecsFrom, State.vecsFrom, h, ih]

/-- The run as it stands once it has started. -/
def WhiskRun.started (w : WhiskRun) : WhiskRun := { w with res := [], failed := none }

/-- The state in which a run's vectors are fetched. -/
def State.starting (s : State) (w : WhiskRun) : State :=
  { s with whiskQ := s.whiskQ.filter (fun x => x.id != w.id), whisk := s.whisk ++ [w.started] }

theorem whiskStart_of_tap (s : State) {w : WhiskRun} (h : w.tap = true) : s.whiskStart w = s.starting w := by
  unfold State.whiskStart
  dsimp only
  rw [if_pos h]
  rfl

/-- A test's run starts once its vectors' blocks have verified. -/
theorem whiskStart_of_test {s s3 s4 : State} {w : WhiskRun} {t : TestEnt} (htap : w.tap = false) (htest : (s.starting w).testEnt w.test = some t)
    (hstall : s.bothStalled = false)
    (hreq : (s.starting w).request .read ((s.starting w).vectorBlks t).1 0 64 (.bank w.tile) = s3)
    (hrun : s3.badRun 0 0x3E ((s.starting w).vectorBlks t).1 ((s.starting w).vectorBlks t).2 = (s4, none)) : s.whiskStart w =
      (s4.mapRun w.id (fun x => { x with vecs := s4.vecsOf t })).emits ((s4.vecsOf t).map (fun q => .whiskDesc w.tile q.desc)) := by
  simp only [State.starting, WhiskRun.started, htap] at htest hreq hrun
  simp only [State.whiskStart, htap, htest, hstall, hreq, hrun, Bool.false_eq_true, if_false]

/-- What a test's run leaves as it starts, besides its vectors' descriptors. -/
structure State.Started (s u : State) (w : WhiskRun) (t : TestEnt) : Prop where
  whisk : u.whisk = s.whisk ++ [{ w with res := [], failed := none, vecs := s.vecsOf t }]
  whiskQ : u.whiskQ = s.whiskQ.filter (fun x => x.id != w.id)
  out : u.out = s.out ++ (s.vecsOf t).map (fun v => .whiskDesc w.tile v.desc)
  frame : u = { s with whisk := u.whisk, whiskQ := u.whiskQ, out := u.out, regs := u.regs, port0 := u.port0, port1 := u.port1 }

theorem whiskStart_of_verified {s : State} {w : WhiskRun} {t : TestEnt} (htap : w.tap = false) (htest : s.testEnt w.test = some t)
    (hidle : s.whisk = []) (hstall : s.bothStalled = false)
    (hver : ∀ b, (s.vectorBlks t).1 ≤ b → b < (s.vectorBlks t).1 + (s.vectorBlks t).2 → s.verify b 0 0x3E = .verified) :
    s.Started (s.whiskStart w) w t := by
  obtain ⟨p0, p1, hreq⟩ := request_of_own (s := s.starting w) hstall .read (s.vectorBlks t).1 0 64 (acc := .bank w.tile) rfl
  obtain ⟨r, hrun, hreg⟩ := badRun_of_verified ({ s.starting w with port0 := p0, port1 := p1 }) 0 0x3E (s.vectorBlks t).1 (s.vectorBlks t).2 hver
  have hblk : ({ s.starting w with port0 := p0, port1 := p1, regs := r } : State).bankBlk s.bank = s.bankBlk s.bank :=
    congrArg (· * 64 + s.bank * 1024) (hreg Reg.hubTcBase (by decide))
  have hvecs : ({ s.starting w with port0 := p0, port1 := p1, regs := r } : State).vecsOf t = s.vecsOf t := by
    refine (vecsFrom_congr (s := s) (by rfl) _ _ _).trans ?_
    exact congrArg (fun b => s.vecsFrom (s.bytes (b * 4096 + 0x160 + t.vecOff) t.vecLen) t.ops 0) hblk
  have hstart : s.whiskStart w = (({ s.starting w with port0 := p0, port1 := p1, regs := r } : State).mapRun w.id
      (fun x => { x with vecs := s.vecsOf t })).emits ((s.vecsOf t).map (fun q => .whiskDesc w.tile q.desc)) := by
    rw [whiskStart_of_test htap htest hstall hreq hrun, hvecs]
  rw [hstart]
  exact
    { whisk := by simp [State.emits, State.mapRun, State.starting, WhiskRun.started, hidle]
      whiskQ := rfl
      out := rfl
      frame := rfl }

theorem mayStart_idle {s : State} {w : WhiskRun} (h : s.mayStart w = true) : s.whisk = [] := by
  simp only [State.mayStart, Bool.and_eq_true, List.isEmpty_iff] at h
  exact h.1.1.1.1.2

/-- Out of stage 0x6 a queued run starts where R363 lets it. -/
theorem exec_whiskRunStart_of_queued {s : State} {tile test : Nat} {w : WhiskRun} (idle : Nat) (hstage : s.bring.stage ≠ 6)
    (hfind : s.whiskQ.find? (fun w => w.tile == tile && w.test == test) = some w) :
    exec (.whiskRunStart tile test idle) s = .next (if s.mayStart w && s.idleOk tile idle && ! s.before w then s.whiskStart w else s) := by
  have hexec : exec (.whiskRunStart tile test idle) s = execWhiskRunStart tile test idle s := rfl
  rw [hexec, execWhiskRunStart, if_neg hstage, hfind]

theorem exec_whiskRunStart_of_ready {s : State} {tile test idle : Nat} {w : WhiskRun} (hstage : s.bring.stage ≠ 6)
    (hfind : s.whiskQ.find? (fun w => w.tile == tile && w.test == test) = some w) (hmay : s.mayStart w = true) (hfirst : s.before w = false)
    (hidle : s.isMapped tile = true → s.reg Reg.hubWhiskCtrl % 2 ^ 16 ≤ idle) :
    exec (.whiskRunStart tile test idle) s = .next (s.whiskStart w) := by
  have hok : s.idleOk tile idle = true := by
    unfold State.idleOk
    cases hmapped : s.isMapped tile
    · rfl
    · exact decide_eq_true (hidle hmapped)
  rw [exec_whiskRunStart_of_queued idle hstage hfind, hmay, hok, hfirst]
  rfl

/-! ### The end of a run (R364, R366) -/

theorem exec_whiskRunEnd (tile : Nat) (same : List Bool) (s : State) : exec (.whiskRunEnd tile same) s = execWhiskRunEnd tile same s := rfl
theorem exec_whiskRunAbandon (tile : Nat) (s : State) : exec (.whiskRunAbandon tile) s = .next (s.whiskAbandon tile) := rfl
theorem exec_whiskRunTimeout (tile test : Nat) (s : State) : exec (.whiskRunTimeout tile test) s = execWhiskRunTimeout tile test s := rfl

/-- A request is back in the queue. -/
theorem mem_putBack (w : WhiskRun) (l : List WhiskRun) : w ∈ putBack w l := by
  induction l with
  | nil => exact List.mem_singleton_self w
  | cons x l ih =>
    unfold putBack
    split_ifs
    · exact List.mem_cons_self
    · exact List.mem_cons_of_mem x ih

/-- A run given up: back in the queue without its results, out of the runs, and counted. -/
theorem whiskAbandon_of_run {s : State} {p : Nat} {w : WhiskRun} (h : s.whisk.find? (fun w => w.tile == p && ! w.startup) = some w) :
    { w with res := [] } ∈ (s.whiskAbandon p).whiskQ ∧ (∀ x ∈ (s.whiskAbandon p).whisk, x.id ≠ w.id) ∧
      (s.whiskAbandon p).reg Reg.hubCntWhiskAbandoned = min (2 ^ 32 - 1) (s.reg Reg.hubCntWhiskAbandoned + 1) ∧
      ∃ q l p0 p1 r f d, s.whiskAbandon p = { s with whisk := q, whiskQ := l, port0 := p0, port1 := p1, regs := r, cfl := f, teardowns := d } := by
  obtain ⟨⟨p0, p1, r, f, d, hretire⟩, hreg⟩ := retire_frame
    ({ s with whisk := s.whisk.filter (fun x => x.id != w.id), whiskQ := putBack { w with res := [] } s.whiskQ }) (fun a => a == .bank p)
  have hgiven : s.whiskAbandon p = (State.retire { s with
      whisk := s.whisk.filter (fun x => x.id != w.id), whiskQ := putBack { w with res := [] } s.whiskQ } (fun a => a == .bank p)).count
        Reg.hubCntWhiskAbandoned := by
    rw [State.whiskAbandon, h]
  have hcount := hreg Reg.hubCntWhiskAbandoned (by decide)
  rw [hgiven, reg_count, if_pos rfl, hcount, hretire]
  refine ⟨mem_putBack .., fun x hx => ?_, rfl, _, _, _, _, _, _, _, rfl⟩
  have hkept : (x.id != w.id) = true := (List.mem_filter.1 hx).2
  simpa using hkept

/-! ### The schedule (R371) -/

theorem exec_whiskSchedule (s : State) :
    exec .whiskSchedule s = .next (if s.coreUp 1 then s.scheduleTiles (List.range s.cfg.ladles) else s) := rfl

theorem scheduleTiles_append (s : State) (l m : List Nat) : s.scheduleTiles (l ++ m) = (s.scheduleTiles l).scheduleTiles m := by
  induction l generalizing s with
  | nil => rfl
  | cons p l ih => exact ih _

/-- Tiles whose turn has not come leave the state. -/
theorem scheduleTiles_of_rest {s : State} {l : List Nat} (h : ∀ p ∈ l, s.scheduleTile p = s) : s.scheduleTiles l = s := by
  induction l with
  | nil => rfl
  | cons p l ih =>
    rw [State.scheduleTiles, h p List.mem_cons_self]
    exact ih fun x hx => h x (List.mem_cons_of_mem p hx)

/-- A tile has no test, or its period has not elapsed. -/
def State.NotDue (s : State) (p : Nat) : Prop := s.candidates p = [] ∨ s.time < Tab.get 0 s.testedAt p + s.testPeriod p

theorem scheduleTile_of_notDue {s : State} {p : Nat} (h : s.NotDue p) : s.scheduleTile p = s := by
  refine if_pos ?_
  rcases h with hnone | hearly
  · simp [hnone]
  · simp [hearly]

theorem scheduleTiles_of_no_test {s : State} (h : s.content.tests = []) (l : List Nat) : s.scheduleTiles l = s := by
  refine scheduleTiles_of_rest fun p _ => scheduleTile_of_notDue (.inl ?_)
  simp [State.candidates, h]

/-- One tile has its turn: the tiles before and after it leave the state. -/
theorem scheduleTiles_range {s u : State} {n p : Nat} (hp : p < n) (hturn : s.scheduleTile p = u)
    (hbefore : ∀ x, x < n → x ≠ p → s.NotDue x) (hafter : ∀ x, x < n → x ≠ p → u.NotDue x) : s.scheduleTiles (List.range n) = u := by
  obtain ⟨l, m, hl⟩ := List.append_of_mem (List.mem_range.2 hp)
  have hnodup : (l ++ p :: m).Nodup := hl ▸ List.nodup_range
  have hpl : p ∉ l := fun h => (List.nodup_append.1 hnodup).2.2 p h p List.mem_cons_self rfl
  have hpm : p ∉ m := (List.nodup_cons.1 (List.nodup_append.1 hnodup).2.1).1
  have hlt (x : Nat) (hx : x ∈ l ++ p :: m) : x < n := List.mem_range.1 (hl ▸ hx)
  rw [hl, scheduleTiles_append, scheduleTiles_of_rest fun x hx =>
    scheduleTile_of_notDue (hbefore x (hlt x (by simp [hx])) fun h => hpl (h ▸ hx)), State.scheduleTiles, hturn]
  exact scheduleTiles_of_rest fun x hx => scheduleTile_of_notDue (hafter x (hlt x (by simp [hx])) fun h => hpm (h ▸ hx))

/-- The command port takes a core's command that passes the rows as its Kettle's own. -/
theorem portCmd_of_passes {s : State} {q : CoreCmd} {sp : CmdSpec} (h : s.Passes q sp) :
    (s.portCmd sp (q.cmd s) (.kettle q.k) (srcCore q.k) 0 0).1 = s.runCmd sp q.issue := by
  rw [runCmd_of_passes h, State.portCmd, show sp.row1 (q.cmd s).mod (q.cmd s).imm = false from h.row1, if_neg (by decide)]

/-- The command that Kettle 1 issues for a tile. -/
def scheduledCmd (p test : Nat) : CoreCmd := { k := 1, opc := 0x60, a := p, imm := test }

theorem scheduleTile_of_due {s : State} {p : Nat} {t : TestEnt} (hone : s.candidates p = [t]) (husable : s.tileState p = .spare ∨ s.tileState p = .mapped)
    (hrun : s.hasRun p (fun _ => true) = false) (hroom : s.whiskQ.length < 16) (hdue : Tab.get 0 s.testedAt p + s.testPeriod p ≤ s.time)
    (hpass : (s.took 1).Passes (scheduledCmd p t.id) specWhiskrun) : s.scheduleTile p =
      { (s.took 1).runCmd specWhiskrun (scheduledCmd p t.id).issue with
        testedAt := Tab.set 0 ((s.took 1).runCmd specWhiskrun (scheduledCmd p t.id).issue).testedAt p s.time } := by
  have hstate : (s.tileState p == .fuseBad || s.tileState p == .testBad || s.tileState p == .absent) = false := by
    rcases husable with h | h <;> rw [h] <;> rfl
  have hskip : ((s.candidates p).isEmpty || s.hasRun p (fun _ => true) || decide (16 ≤ s.whiskQ.length) || s.tileState p == .fuseBad ||
      s.tileState p == .testBad || s.tileState p == .absent || decide (s.time < Tab.get 0 s.testedAt p + s.testPeriod p)) = false := by
    simp only [Bool.or_eq_false_iff] at hstate
    obtain ⟨⟨hfuse, htest⟩, habsent⟩ := hstate
    simp [hone, hrun, hfuse, htest, habsent, Nat.not_le.2 hroom, Nat.not_lt.2 hdue]
  have hpick : (((s.candidates p)[s.freeNat % (s.candidates p).length]?).getD {} : TestEnt) = t := by
    rw [hone, List.length_singleton, Nat.mod_one]
    rfl
  rw [← portCmd_of_passes hpass]
  refine (if_neg (by rw [hskip]; decide)).trans ?_
  rw [hpick]
  rfl

theorem enqueued_took (s : State) (n k : Nat) (w : WhiskRun) :
    (s.took n).enqueued k w = { s with nextWhisk := k + 1, whiskQ := s.whiskQ ++ [w], free := s.free + n } := rfl

section
variable {s : State} {p : Nat} {t : TestEnt}

/-- The state once Kettle 1's WHISKRUN for a tile stands in the queue. -/
def State.scheduled (s : State) (p test : Nat) : State :=
  { (((s.took 1).noted (scheduledCmd p test) stDeferred s.nextTicket).enqueued s.nextWhisk (s.runAsked p test false)).heldUnder (s.took 1)
      (scheduledCmd p test) stDeferred s.nextTicket with testedAt := Tab.set 0 s.testedAt p s.time }

theorem heldUnder_frame (u s : State) (q : CoreCmd) (st tk : Nat) :
    (∃ r k, u.heldUnder s q st tk = { u with regs := r, tickets := k }) ∧
      ∀ a, a ≠ Reg.hubCntCmd → (u.heldUnder s q st tk).reg a = u.reg a :=
  ⟨⟨_, _, rfl⟩, fun _ ha => (reg_count u ..).trans (if_neg (Ne.symm ha))⟩

/-- What the schedule reads, of a state that holds one more request under its ticket. -/
theorem schedule_reads_held (n u : State) (q : CoreCmd) (st tk k : Nat) (w : WhiskRun) (l : List (Nat × Nat)) (x : Nat) :
    ({ (n.enqueued k w).heldUnder u q st tk with testedAt := l } : State).candidates x = n.candidates x ∧
      ({ (n.enqueued k w).heldUnder u q st tk with testedAt := l } : State).watchedTile x = n.watchedTile x ∧
      ((n.enqueued k w).heldUnder u q st tk).testedAt = n.testedAt ∧
      ({ (n.enqueued k w).heldUnder u q st tk with testedAt := l } : State).time = n.time ∧
      ({ (n.enqueued k w).heldUnder u q st tk with testedAt := l } : State).reg Reg.hubWhiskRate = n.reg Reg.hubWhiskRate := by
  obtain ⟨⟨r, tks, hheld⟩, hreg⟩ := heldUnder_frame (n.enqueued k w) u q st tk
  have hrate := hreg Reg.hubWhiskRate (by decide)
  rw [hheld] at hrate ⊢
  exact ⟨rfl, rfl, rfl, rfl, hrate⟩

/-- The schedule reads nothing that a tile's turn changes for another tile. -/
theorem notDue_scheduled {x : Nat} (test : Nat) (hx : x ≠ p) (h : s.NotDue x) : (s.scheduled p test).NotDue x := by
  have hjo := State.JournalOnly.noted (s.took 1) (scheduledCmd p test) stDeferred s.nextTicket
  obtain ⟨hcand, hwatched, -, htime, hrate⟩ := schedule_reads_held ((s.took 1).noted (scheduledCmd p test) stDeferred s.nextTicket) (s.took 1)
    (scheduledCmd p test) stDeferred s.nextTicket s.nextWhisk (s.runAsked p test false) (Tab.set 0 s.testedAt p s.time) x
  replace hcand : (s.scheduled p test).candidates x = s.candidates x := hcand.trans (hjo.candidates x)
  replace hwatched : (s.scheduled p test).watchedTile x = s.watchedTile x := hwatched.trans (hjo.watchedTile x)
  replace htime : (s.scheduled p test).time = s.time := htime.trans hjo.time
  replace hrate : (s.scheduled p test).reg Reg.hubWhiskRate = s.reg Reg.hubWhiskRate :=
    hrate.trans (hjo.reg Reg.hubWhiskRate (by unfold journalReg; decide))
  have hperiod : (s.scheduled p test).testPeriod x = s.testPeriod x := by
    simp only [State.testPeriod, hwatched, hrate]
  have htested : Tab.get 0 (s.scheduled p test).testedAt x = Tab.get 0 s.testedAt x := tab_get_set_of_ne _ _ _ _ (Ne.symm hx)
  unfold State.NotDue at h ⊢
  rwa [hcand, hperiod, htested, htime]

/-- A spare whose period has elapsed, with one test, while the Whisk is off: its WHISKRUN is deferred. -/
theorem scheduleTile_deferred (hserve : s.serving 1 = true) (ht : s.hasTicket = true) (halive : (s.ctx 0).st ≠ .terminated) (hp : p < 128)
    (hone : s.candidates p = [t]) (hid : t.id < 2 ^ 16) (h : s.Testable p t.id) (hrun : s.hasRun p (fun _ => true) = false)
    (hroom : s.whiskQ.length < 16) (hspare : s.isMapped p = false) (hoff : s.bit Reg.hubWhiskCtrl 31 = false)
    (hdue : Tab.get 0 s.testedAt p + s.testPeriod p ≤ s.time) : s.scheduleTile p = s.scheduled p t.id := by
  have hpass : (s.took 1).Passes (scheduledCmd p t.id) specWhiskrun :=
    passes_whiskrun hserve rfl rfl rfl hid hp (Nat.two_pow_pos 64) (Nat.two_pow_pos 64) halive
  have htook : (s.took 1).Testable p t.id := ⟨h.tile_lt, h.plan, h.usable⟩
  rw [scheduleTile_of_due hone h.usable hrun hroom hdue hpass, runCmd_whiskrun_deferred hpass ht htook hrun hroom hspare hoff]
  have hjo := State.JournalOnly.noted (s.took 1) (scheduledCmd p t.id) stDeferred s.nextTicket
  obtain ⟨-, -, htested, -, -⟩ := schedule_reads_held ((s.took 1).noted (scheduledCmd p t.id) stDeferred s.nextTicket) (s.took 1)
    (scheduledCmd p t.id) stDeferred s.nextTicket s.nextWhisk (s.runAsked p t.id false) [] p
  replace htested := htested.trans hjo.testedAt
  exact congrArg (fun l => ({ (((s.took 1).noted (scheduledCmd p t.id) stDeferred s.nextTicket).enqueued s.nextWhisk
      (s.runAsked p t.id false)).heldUnder (s.took 1) (scheduledCmd p t.id) stDeferred s.nextTicket with testedAt := Tab.set 0 l p s.time } : State))
    htested

end

/-- A test of the plan of a tile is one of its candidates alone. -/
theorem plan_of_candidate {s : State} {p : Nat} {t : TestEnt} (h : t ∈ s.candidates p) : t.plan = s.planOf p := by
  have hfilter : t ∈ s.content.tests.filter (fun t => t.plan == s.planOf p) := by
    unfold State.candidates at h
    dsimp only at h
    split_ifs at h
    · exact (List.mem_filter.1 h).1
    · exact h
  simpa using (List.mem_filter.1 hfilter).2

/-- Settles O40: each command and each event by its lemma above. -/
theorem whiskRuns : Obligations.WhiskRuns := by
  unfold Obligations.WhiskRuns
  refine ⟨?whiskrun, ?taptest, ?start, ?waits, ?failed, ?ended, ?runs, ?abandon, ?timeout, ?idle, ?schedule⟩
  case whiskrun =>
    intro s q hopc hserve ht hctx hmod himm ha hb hc halive
    have hpass := passes_whiskrun hserve hopc hctx hmod himm ha hb hc halive
    refine ⟨fun hnone => ?_, fun e hlt htest hplan husable => ?_⟩
    · rw [exec_whiskrun, runCmd_of_rejected hpass (runWhisk_of_none (c := q.cmd s) hnone)]
    have h : s.Testable q.a q.imm := ⟨hlt, by rw [htest, ← hplan]; rfl, husable⟩
    refine ⟨fun hrun => ?_, fun hrun hfull => ?_, fun w hrun hroom hspare hoff hw => ?_, fun w hrun hempty hspare hw hmay => ?_⟩
    · have hbody : runWhisk (q.cmd s) s = reject s stBusy := (runWhisk_of_testable (c := q.cmd s) h).trans (if_pos hrun)
      rw [exec_whiskrun, runCmd_of_rejected hpass hbody]
    · have hbody : runWhisk (q.cmd s) s = reject s stFull :=
        (runWhisk_of_testable (c := q.cmd s) h).trans ((if_neg (by rw [show s.hasRun (q.cmd s).a _ = false from hrun]; decide)).trans (if_pos hfull))
      rw [exec_whiskrun, runCmd_of_rejected hpass hbody]
    · rw [exec_whiskrun, runCmd_whiskrun_deferred hpass ht h hrun hroom hspare hoff, hw]
      have hq := (State.JournalOnly.noted s q stDeferred s.nextTicket).whiskQ
      rw [State.enqueued, hq]
      rfl
    · have hstart : s.mayStart (s.runAsked q.a q.imm false) = true := by
        rw [← show w = s.runAsked q.a q.imm false from hw]
        exact hmay s List.mem_cons_self
      rw [exec_whiskrun, runCmd_whiskrun_pending hpass ht h hrun hempty hspare hstart, hw]
      have hq := (State.JournalOnly.noted s q stPending s.nextTicket).whiskQ
      rw [State.enqueued, hq, hempty]
      rfl
  case taptest =>
    intro s q p w hopc hserve ht hctx hmod himm ha hb hc halive hphys hrun hroom hoff hw
    have hjo := State.JournalOnly.noted s q stDeferred s.nextTicket
    refine ⟨if s.isMapped p then 1 else 0, by split_ifs <;> omega, ?_⟩
    rw [exec_taptest, runCmd_taptest_deferred (passes_taptest hserve hopc hctx hmod himm ha hb hc halive) ht hphys hrun hroom hoff, hw]
    rw [enqueued_took, hjo.whiskQ, hjo.free]
    rfl
  case start =>
    intro s tile test idle w hstage hfind hmay hfirst hidle
    have hexec := exec_whiskRunStart_of_ready hstage hfind hmay hfirst hidle
    refine ⟨fun htap => ?_, fun t htap htest hstall hver => ?_⟩
    · rw [hexec, whiskStart_of_tap s htap]
      rfl
    · obtain ⟨hwhisk, hqueue, hout, hframe⟩ := whiskStart_of_verified htap htest (mayStart_idle hmay) hstall hver
      exact ⟨_, hexec, hwhisk, hqueue, hout, hframe⟩
  case waits =>
    intro s tile test idle w hstage hfind h
    rw [exec_whiskRunStart_of_queued idle hstage hfind]
    rcases h with hmay | ⟨hmapped, hlow⟩
    · rw [hmay]
      rfl
    · have hidle : s.idleOk tile idle = false := by
        rw [State.idleOk, hmapped, decide_eq_false (Nat.not_le.2 hlow)]
        rfl
      simp [hidle]
  case failed =>
    intro s tile same w st hfind hstart hfail
    rw [exec_whiskRunEnd, execWhiskRunEnd]
    simp only [hfind, hfail, hstart, Bool.false_eq_true, if_false]
  case ended =>
    intro s tile same w o hfind hstart hfail hout
    rw [exec_whiskRunEnd, execWhiskRunEnd]
    simp only [hfind, hfail, hstart, hout, Bool.false_eq_true, if_false]
  case runs =>
    intro s tile same w hfind hfail hout
    rw [exec_whiskRunEnd, execWhiskRunEnd]
    simp only [hfind, hfail, hout]
  case abandon =>
    intro s tile w hfind
    obtain ⟨hback, hgone, hcount, q, l, p0, p1, r, f, d, hu⟩ := whiskAbandon_of_run hfind
    refine ⟨_, exec_whiskRunAbandon tile s, hback, hgone, hcount, ?_⟩
    rw [hu]
  case timeout =>
    intro s tile test w hfind
    rw [exec_whiskRunTimeout, execWhiskRunTimeout, hfind]
  case idle =>
    intro s h
    rw [exec_whiskSchedule]
    rcases h with hdown | hnone
    · rw [hdown]
      rfl
    · rw [scheduleTiles_of_no_test hnone, ite_self]
  case schedule =>
    intro s p t w q hserve ht halive hlt hp hone htest hid husable hrun hroom hspare hoff hdue hrest hw hq
    have h : s.Testable p t.id := ⟨hlt, by rw [htest, ← plan_of_candidate (hone ▸ List.mem_singleton_self t)]; rfl, husable⟩
    have hturn := scheduleTile_deferred hserve ht halive hp hone hid h hrun hroom hspare hoff hdue
    refine ⟨s.took 1, rfl, ?_⟩
    rw [exec_whiskSchedule, if_pos (of_serving hserve).1,
      scheduleTiles_range hlt hturn hrest fun x hxn hx => notDue_scheduled t.id hx (hrest x hxn hx), hw, hq]
    have hqueue := (State.JournalOnly.noted (s.took 1) (scheduledCmd p t.id) stDeferred s.nextTicket).whiskQ
    rw [State.scheduled, State.enqueued, hqueue]
    rfl

end Sys2Proof.Machine
end

section
/-! The suspect table, QUARANT, tile substitution, the halving of scores, TILEMAP and LDLCNT (R269, R271, R370 to R376). -/

namespace Sys2Proof.Machine

theorem exec_suspread (s : State) (i : Issue) : exec (.suspread i) s = .next (s.runCmd specSuspread i) := rfl
theorem exec_quarant (s : State) (i : Issue) : exec (.quarant i) s = .next (s.runCmd specQuarant i) := rfl
theorem exec_tilemap (s : State) (i : Issue) : exec (.tilemap i) s = .next (s.runCmd specTilemap i) := rfl
theorem exec_ldlcnt (s : State) (i : Issue) : exec (.ldlcnt i) s = .next (s.runCmd specLdlcnt i) := rfl
theorem exec_tileSubstitution (l : Nat) (empty : List Nat) (s : State) : exec (.tileSubstitution l empty) s = execTileSubstitution l empty s := rfl

theorem body_specSuspread : specSuspread.body = readSusp := rfl
theorem body_specLdlcnt : specLdlcnt.body = ldlCnt := rfl

/-! ### The entries of the suspect table (R367) -/

theorem suspEnt_setSusp (s : State) (e : Nat) (v : Susp) (j : Nat) : (s.setSusp e v).suspEnt j = if e = j then v else s.suspEnt j := by
  by_cases h : e = j
  · subst h
    rw [if_pos rfl]
    exact (tab_get_set ..).trans (if_pos rfl)
  · rw [if_neg h]
    exact tab_get_set_of_ne _ _ _ _ h

theorem State.JournalOnly.suspEnt {s t : State} (h : s.JournalOnly t) (e : Nat) : t.suspEnt e = s.suspEnt e :=
  (congrArg (State.suspEnt · e) h.frame :)

theorem suspEnt_congr {s t : State} (h : t.susp = s.susp) (e : Nat) : t.suspEnt e = s.suspEnt e := by
  rw [State.suspEnt, h, State.suspEnt]

theorem tileState_of_set {s : State} {l : List (Nat × TileState)} {p : Nat} {v : TileState} (h : s.tileStates = Tab.set .absent l p v) (j : Nat) :
    s.tileState j = if p = j then v else Tab.get .absent l j := by
  rw [State.tileState, h, tab_get_set]

/-- The defect list with an origin for a tile, and its rewrite asked for (R492). -/
def State.namedBad (s : State) (p origin : Nat) : Bring :=
  { s.bring with defects := Tab.set {} s.bring.defects p { s.defect p with origin := origin }, rewrite := true }

theorem origin_of_namedBad {s t : State} {p origin : Nat} (h : t.bring = s.namedBad p origin) : (t.defect p).origin = origin := by
  have hdefect : t.defect p = { s.defect p with origin := origin } := by
    rw [State.defect, h]
    exact (tab_get_set ..).trans (if_pos rfl)
  rw [hdefect]

/-! ### SUSPREAD (R371, R372) -/

theorem readSusp_of_unit {c : Cmd} (h16 : c.imm % 16 = 0) (hfit : c.imm ≤ 4064) (ha : c.a < 0x104) (s : State) :
    readSusp c s = (if c.mod = 1 then s.clearSusp c.a else s, .rec_ (s.suspEnt c.a).record) := by
  refine if_neg ?_
  rintro (hrec | ⟨hle, -⟩)
  · rw [recOk_of_fits h16 (by omega)] at hrec
    exact absurd hrec (by decide)
  · omega

theorem clearSusp_of_unit {s : State} {e : Nat} (he : e < 0x104) : s.clearSusp e =
    if (s.suspEnt e).st = .quarantined then s else s.setSusp e { s.suspEnt e with st := .clear, score := 0, count := 0, passes := 0 } := by
  unfold State.clearSusp
  dsimp only
  rw [if_neg (by omega)]
  simp only [beq_iff_eq]

section
variable {s : State} {q : CoreCmd}

theorem asks_suspread (hserve : s.serving q.k = true) (hmod : q.mod < 2) (ha : q.a < 0x104) (himm : q.imm < 2 ^ 12) : s.Asks q specSuspread where
  up := (of_serving hserve).1
  query := rfl
  mod_lt := by omega
  imm_lt := by omega
  row1 := by
    obtain h | h : q.mod = 0 ∨ q.mod = 1 := by omega
    · rw [h]
      rfl
    · rw [h]
      rfl
  narrow := (wide_eq_false_iff ..).2
    ⟨fun _ => show q.a % 2 ^ 64 < 2 ^ 12 by omega, fun h => absurd rfl h, fun h => absurd rfl h, fun _ => himm⟩
  safe := (of_serving hserve).2.2

/-- The operand of a query that fits the port, as its sub-block sees it. -/
theorem asked_a (s : State) {q : CoreCmd} (h : q.a < 2 ^ 64) : (q.asked s).a = q.a := Nat.mod_eq_of_lt h

theorem exec_suspread_of_read (hask : s.Asks q specSuspread) (hmod : q.mod = 0) (h16 : q.imm % 16 = 0) (hfit : q.imm ≤ 4064) (ha : q.a < 0x104) :
    exec (.suspread q.issue) s = .next (s.count Reg.hubCntCmd) := by
  have hquiet : specSuspread.journaled (q.asked s) = false := by simp [CmdSpec.journaled, specSuspread, CoreCmd.asked, hmod]
  have hbody : specSuspread.body (q.asked s) s = (s, .rec_ (s.suspEnt q.a).record) := by
    rw [body_specSuspread, readSusp_of_unit h16 hfit (by rw [asked_a s (by omega)]; exact ha), asked_a s (by omega)]
    exact congrArg (·, Reply.rec_ (s.suspEnt q.a).record) (if_neg (show ¬ q.mod = 1 by omega))
  rw [exec_suspread, runCmd_of_record hask hquiet hbody]

theorem exec_suspread_of_clear (hask : s.Asks q specSuspread) (hopc : q.opc = 0x62) (hmod : q.mod = 1) (h16 : q.imm % 16 = 0)
    (hfit : q.imm ≤ 4064) (ha : q.a < 0x104) (hb : q.b < 2 ^ 64) (hc : q.c < 2 ^ 64) :
    exec (.suspread q.issue) s = .next (((s.noted q).clearSusp q.a).count Reg.hubCntCmd) := by
  have hjournal : specSuspread.journaled (q.asked s) = true := by simp [CmdSpec.journaled, specSuspread, CoreCmd.asked, hmod]
  have hbody (t : State) : specSuspread.body (q.asked s) t = (t.clearSusp q.a, .rec_ (t.suspEnt q.a).record) := by
    rw [body_specSuspread, readSusp_of_unit h16 hfit (by rw [asked_a s (by omega)]; exact ha), asked_a s (by omega),
      if_pos (show (q.asked s).mod = 1 from hmod)]
  rw [exec_suspread, runCmd_of_clear hask hjournal hopc (by omega) hb hc (congrArg Prod.snd (hbody s)) (hbody _)]

/-! ### QUARANT (R371, R373) -/

theorem passes_quarant (hserve : s.serving q.k = true) (hopc : q.opc = 0x63) (hctx : q.ctx = 0) (hmod : q.mod = 0) (himm : q.imm = 0)
    (ha : q.a < 128) (hb : q.b < 2 ^ 64) (hc : q.c < 2 ^ 64) (halive : (s.ctx 0).st ≠ .terminated) : s.Passes q specQuarant :=
  passes_of_serving hserve hopc rfl (by omega) hb hc hmod (by omega) (by rw [himm]; rfl) hctx halive
    ((wide_eq_false_iff ..).2 ⟨fun _ => ha, fun h => absurd rfl h, fun h => absurd rfl h, fun h => absurd rfl h⟩)

/-- A spare with its units quarantined, and named in the defect list. -/
def State.spareQuarantined (s : State) (p : Nat) : State :=
  (((s.setTileState p .quarantined).quarantineUnits p).setOrigin p 2).count Reg.hubCntQuar

/-- A mapped tile that waits for its substitution, and is named in the defect list. -/
def State.mappedPending (s : State) (p : Nat) : State :=
  ((({ s with pendingOrder := s.pendingOrder ++ [p] } : State).setTileState p .pending).setOrigin p 2).count Reg.hubCntQuar

theorem quarantine_of_spare {c : Cmd} {s : State} (hlt : c.a < s.cfg.ladles) (h : s.tileState c.a = .spare) :
    quarantine c s = (s.spareQuarantined c.a, .ok 0) := by
  rw [quarantine, if_neg (Nat.not_le.2 hlt), h]
  rfl

theorem quarantine_of_mapped {c : Cmd} {s : State} (hlt : c.a < s.cfg.ladles) (h : s.tileState c.a = .mapped) :
    quarantine c s = (s.mappedPending c.a, .ok 0) := by
  rw [quarantine, if_neg (Nat.not_le.2 hlt), h]
  rfl

theorem quarantine_of_other {c : Cmd} {s : State} (hlt : c.a < s.cfg.ladles) (hspare : s.tileState c.a ≠ .spare)
    (hmapped : s.tileState c.a ≠ .mapped) : quarantine c s = reject s stIllegalState := by
  rw [quarantine, if_neg (Nat.not_le.2 hlt)]
  split
  case h_1 h => exact absurd h hspare
  case h_2 h => exact absurd h hmapped
  case h_3 => rfl

/-- The units of a tile become QUARANTINED, and no field but the table changes. -/
theorem quarantineUnits_leaves (s : State) (p : Nat) : ∃ m, s.quarantineUnits p = { s with susp := m } ∧
    ∀ t : State, t.susp = m → (t.suspEnt (unitTile p)).st = .quarantined ∧ (t.suspEnt (unitLadle p)).st = .quarantined := by
  have hne : unitLadle p ≠ unitTile p := by
    unfold unitLadle unitTile
    omega
  refine ⟨(s.quarantineUnits p).susp, rfl, fun t ht => ?_⟩
  rw [suspEnt_congr ht, suspEnt_congr ht, State.quarantineUnits]
  dsimp only
  rw [suspEnt_setSusp, if_neg hne, suspEnt_setSusp, if_pos rfl, suspEnt_setSusp, if_pos rfl]
  exact ⟨rfl, rfl⟩

theorem spareQuarantined_leaves (s : State) (p : Nat) :
    (s.spareQuarantined p).tileState p = .quarantined ∧ ((s.spareQuarantined p).suspEnt (unitTile p)).st = .quarantined ∧
      ((s.spareQuarantined p).suspEnt (unitLadle p)).st = .quarantined ∧ ((s.spareQuarantined p).defect p).origin = 2 ∧
      (s.spareQuarantined p).bring.rewrite = true ∧ (∀ j, j ≠ p → (s.spareQuarantined p).tileState j = s.tileState j) ∧
      s.spareQuarantined p = { s with
        tileStates := (s.spareQuarantined p).tileStates, susp := (s.spareQuarantined p).susp, bring := (s.spareQuarantined p).bring
        regs := (s.spareQuarantined p).regs } := by
  obtain ⟨m, hunits, hents⟩ := quarantineUnits_leaves (s.setTileState p .quarantined) p
  have hset : s.spareQuarantined p = ({ s with
      tileStates := Tab.set .absent s.tileStates p .quarantined, susp := m, bring := s.namedBad p 2 } : State).count Reg.hubCntQuar := by
    rw [State.spareQuarantined, hunits]
    rfl
  obtain ⟨htile, hladle⟩ := hents (s.spareQuarantined p) (congrArg State.susp hset)
  have hstates : (s.spareQuarantined p).tileStates = Tab.set .absent s.tileStates p .quarantined := congrArg State.tileStates hset
  have hbring : (s.spareQuarantined p).bring = s.namedBad p 2 := congrArg State.bring hset
  have hstate := tileState_of_set hstates
  refine ⟨(hstate p).trans (if_pos rfl), htile, hladle,
    origin_of_namedBad hbring, by rw [hbring]; rfl, fun j hj => (hstate j).trans (if_neg (Ne.symm hj)), ?_⟩
  rw [hset]
  rfl

theorem mappedPending_leaves (s : State) (p : Nat) :
    (s.mappedPending p).tileState p = .pending ∧ ((s.mappedPending p).defect p).origin = 2 ∧
      (s.mappedPending p).pendingOrder = s.pendingOrder ++ [p] ∧ s.mappedPending p = { s with
        tileStates := (s.mappedPending p).tileStates, bring := (s.mappedPending p).bring, regs := (s.mappedPending p).regs
        pendingOrder := (s.mappedPending p).pendingOrder } := by
  have hset : s.mappedPending p = ({ s with
      pendingOrder := s.pendingOrder ++ [p], tileStates := Tab.set .absent s.tileStates p .pending, bring := s.namedBad p 2 } : State).count
        Reg.hubCntQuar := rfl
  have hstates : (s.mappedPending p).tileStates = Tab.set .absent s.tileStates p .pending := congrArg State.tileStates hset
  have hbring : (s.mappedPending p).bring = s.namedBad p 2 := congrArg State.bring hset
  refine ⟨(tileState_of_set hstates p).trans (if_pos rfl), origin_of_namedBad hbring, congrArg State.pendingOrder hset, ?_⟩
  rw [hset]
  rfl

theorem exec_quarant_of_spare (hpass : s.Passes q specQuarant) (hlt : q.a < s.cfg.ladles) (h : s.tileState q.a = .spare) :
    exec (.quarant q.issue) s = .next (((s.noted q).spareQuarantined q.a).count Reg.hubCntCmd) := by
  rw [exec_quarant, runCmd_of_done hpass (f := fun t => t.spareQuarantined q.a) (v := fun _ => 0)]
  intro t ht
  exact quarantine_of_spare (c := q.cmd s) (by rw [ht.ladles]; exact hlt) ((ht.tileState q.a).trans h)

theorem exec_quarant_of_mapped (hpass : s.Passes q specQuarant) (hlt : q.a < s.cfg.ladles) (h : s.tileState q.a = .mapped) :
    exec (.quarant q.issue) s = .next (((s.noted q).mappedPending q.a).count Reg.hubCntCmd) := by
  rw [exec_quarant, runCmd_of_done hpass (f := fun t => t.mappedPending q.a) (v := fun _ => 0)]
  intro t ht
  exact quarantine_of_mapped (c := q.cmd s) (by rw [ht.ladles]; exact hlt) ((ht.tileState q.a).trans h)

theorem exec_quarant_of_other (hpass : s.Passes q specQuarant) (hlt : q.a < s.cfg.ladles) (hspare : s.tileState q.a ≠ .spare)
    (hmapped : s.tileState q.a ≠ .mapped) : exec (.quarant q.issue) s = .next (s.rejected q stIllegalState) := by
  rw [exec_quarant, runCmd_of_rejected hpass (quarantine_of_other (c := q.cmd s) hlt hspare hmapped)]

/-! ### TILEMAP (R376) and LDLCNT (R269, R271) -/

theorem asks_tilemap (hserve : s.serving q.k = true) (hmod : q.mod = 0) (himm : q.imm < 2 ^ 12) : s.Asks q specTilemap where
  up := (of_serving hserve).1
  query := rfl
  mod_lt := by omega
  imm_lt := by omega
  row1 := by
    rw [hmod]
    rfl
  narrow := (wide_eq_false_iff ..).2 ⟨fun h => absurd rfl h, fun h => absurd rfl h, fun h => absurd rfl h, fun _ => himm⟩
  safe := (of_serving hserve).2.2

theorem asks_ldlcnt (hserve : s.serving q.k = true) (hmod : q.mod < 2) (ha : q.a < 128) (himm : q.imm < 2 ^ 12) : s.Asks q specLdlcnt where
  up := (of_serving hserve).1
  query := rfl
  mod_lt := by omega
  imm_lt := by omega
  row1 := by
    obtain h | h : q.mod = 0 ∨ q.mod = 1 := by omega
    · rw [h]
      rfl
    · rw [h]
      rfl
  narrow := (wide_eq_false_iff ..).2
    ⟨fun _ => show q.a % 2 ^ 64 < 2 ^ 7 by omega, fun h => absurd rfl h, fun h => absurd rfl h, fun _ => himm⟩
  safe := (of_serving hserve).2.2

/-- The tile that LDLCNT reads: mapped, running, and within reach. -/
structure State.Reads (s : State) (l p : Nat) : Prop where
  phys : s.physOf l = some p
  runs : s.tileRuns p = true
  reach : (s.stop p).unreachable = false

theorem State.JournalOnly.reads {t : State} (h : s.JournalOnly t) {l p : Nat} (hr : s.Reads l p) : t.Reads l p where
  phys := (h.physOf l).trans hr.phys
  runs := (congrArg (State.tileRuns · p) h.frame :).trans hr.runs
  reach := (congrArg (fun u : State => (u.stop p).unreachable) h.frame :).trans hr.reach

theorem ldlCnt_of_reads {c : Cmd} {p : Nat} (h : s.Reads c.a p) (h16 : c.imm % 16 = 0) (hfit : c.imm ≤ 3984) :
    ldlCnt c s = (if c.mod = 1 then s.zeroRun (atTile p Reg.ldlCntOps) 27 else s, .rec_ (s.ldlRecord p)) := by
  obtain ⟨hphys, hruns, hreach⟩ := h
  simp only [ldlCnt, recOk_of_fits h16 (show c.imm + 112 ≤ 4096 by omega), if_true, hphys, hruns, hreach, Bool.true_eq_false, Bool.false_eq_true,
    or_self, if_false]

theorem exec_ldlcnt_of_read {p : Nat} (hask : s.Asks q specLdlcnt) (hmod : q.mod = 0) (h16 : q.imm % 16 = 0) (hfit : q.imm ≤ 3984)
    (ha : q.a < 128) (h : s.Reads q.a p) : exec (.ldlcnt q.issue) s = .next (s.count Reg.hubCntCmd) := by
  have hquiet : specLdlcnt.journaled (q.asked s) = false := by simp [CmdSpec.journaled, specLdlcnt, CoreCmd.asked, hmod]
  have hbody : specLdlcnt.body (q.asked s) s = (s, .rec_ (s.ldlRecord p)) := by
    rw [body_specLdlcnt, ldlCnt_of_reads (p := p) (by rw [asked_a s (by omega)]; exact h) h16 hfit]
    exact congrArg (·, Reply.rec_ (s.ldlRecord p)) (if_neg (show ¬ q.mod = 1 by omega))
  rw [exec_ldlcnt, runCmd_of_record hask hquiet hbody]

theorem exec_ldlcnt_of_clear {p : Nat} (hask : s.Asks q specLdlcnt) (hopc : q.opc = 0x38) (hmod : q.mod = 1) (h16 : q.imm % 16 = 0)
    (hfit : q.imm ≤ 3984) (ha : q.a < 128) (hb : q.b < 2 ^ 64) (hc : q.c < 2 ^ 64) (h : s.Reads q.a p) :
    exec (.ldlcnt q.issue) s = .next (((s.noted q).zeroRun (atTile p Reg.ldlCntOps) 27).count Reg.hubCntCmd) := by
  have hjournal : specLdlcnt.journaled (q.asked s) = true := by simp [CmdSpec.journaled, specLdlcnt, CoreCmd.asked, hmod]
  have hbody (t : State) (hr : t.Reads q.a p) :
      specLdlcnt.body (q.asked s) t = (t.zeroRun (atTile p Reg.ldlCntOps) 27, .rec_ (t.ldlRecord p)) := by
    rw [body_specLdlcnt, ldlCnt_of_reads (p := p) (by rw [asked_a s (by omega)]; exact hr) h16 hfit,
      if_pos (show (q.asked s).mod = 1 from hmod)]
  rw [exec_ldlcnt, runCmd_of_clear hask hjournal hopc (by omega) hb hc (congrArg Prod.snd (hbody s h))
    (hbody _ ((State.JournalOnly.noted s q stOk 0).reads h))]

end

/-! ### Substitution (R374, R375) -/

theorem tileState_spareFor {s : State} {p r : Nat} (h : s.spareFor p = some r) : s.tileState r = .spare := by
  have hr := List.find?_some h
  simp only [Bool.and_eq_true, beq_iff_eq] at hr
  exact hr.1.1.1.2

/-- Without a run on the spare, the logical tile moves to it, and the PENDING one becomes QUARANTINED. -/
theorem substitute_leaves {s : State} (l : Nat) {p r : Nat} (hruns : ∀ w ∈ s.whisk, w.tile ≠ r) :
    (s.substitute l p r).physOf l = some r ∧ (r ≠ p → (s.substitute l p r).tileState p = .quarantined) ∧
      (s.substitute l p r).tileState r = .mapped ∧ (s.substitute l p r).tmapSeq = (s.tmapSeq + 1) % 256 ∧
      p ∉ (s.substitute l p r).pendingOrder ∧ s.substitute l p r = { s with
        tileMap := (s.substitute l p r).tileMap, tmapSeq := (s.substitute l p r).tmapSeq, quarLast := (s.substitute l p r).quarLast
        tileStates := (s.substitute l p r).tileStates, susp := (s.substitute l p r).susp, regs := (s.substitute l p r).regs
        pendingOrder := (s.substitute l p r).pendingOrder } := by
  have hnone : s.whisk.find? (fun w => w.tile == r && ! w.startup) = none :=
    List.find?_eq_none.2 fun w hw => by simp [hruns w hw]
  have habandon : s.whiskAbandon r = s := by rw [State.whiskAbandon, hnone]
  obtain ⟨m, hunits, -⟩ := quarantineUnits_leaves ((s.setTileState p .quarantined).setTileState r .mapped) p
  have hsub : s.substitute l p r = ({ s with
      tileStates := Tab.set .absent (Tab.set .absent s.tileStates p .quarantined) r .mapped, susp := m
      pendingOrder := s.pendingOrder.filter (· != p), tileMap := Tab.place s.tileMap l r, tmapSeq := (s.tmapSeq + 1) % 256
      quarLast := l * 2 ^ 16 + p * 2 ^ 8 + r } : State).count Reg.hubCntSubst := by
    rw [State.substitute, habandon, hunits]
    rfl
  have hstates (j : Nat) : (s.substitute l p r).tileState j = if r = j then .mapped else if p = j then .quarantined else s.tileState j := by
    have hset : (s.substitute l p r).tileStates = Tab.set .absent (Tab.set .absent s.tileStates p .quarantined) r .mapped := by
      rw [hsub]
      rfl
    rw [tileState_of_set hset, tab_get_set]
    rfl
  refine ⟨by rw [hsub]; exact lookup_place .., fun hne => ?_, ?_, by rw [hsub]; rfl, fun hp => ?_, by rw [hsub]; rfl⟩
  · rw [hstates, if_neg hne, if_pos rfl]
  · rw [hstates, if_pos rfl]
  · rw [hsub] at hp
    simpa using (List.mem_filter.1 hp).2

theorem spareNow_eq (s : State) (empty : List Nat) (p : Nat) : s.spareNow empty p =
    if s.tileState p = .pending ∧ s.boundary p = true ∧ p ∈ empty ∧ ∀ x ∈ s.rsts, x.active = false ∨ x.tiles.contains p = false then s.spareFor p
    else none := by
  have hreset : (! s.rsts.any (fun r => r.active && r.tiles.contains p)) = true ↔
      ∀ x ∈ s.rsts, x.active = false ∨ x.tiles.contains p = false := by
    rw [Bool.not_eq_true', List.any_eq_false]
    refine forall₂_congr fun x _ => ?_
    rw [Bool.and_eq_true, not_and_or, Bool.not_eq_true, Bool.not_eq_true]
  unfold State.spareNow
  refine if_congr ?_ rfl rfl
  rw [Bool.and_eq_true, hreset, Bool.and_eq_true, List.contains_iff_mem, Bool.and_eq_true, beq_iff_eq, and_assoc, and_assoc]

/-- No spare is taken. -/
theorem exec_tileSubstitution_of_none {s : State} {l p : Nat} {empty : List Nat} (h : s.physOf l = some p) (hnow : s.spareNow empty p = none) :
    exec (.tileSubstitution l empty) s = .next s := by
  simp only [exec_tileSubstitution, execTileSubstitution, h, hnow]

theorem exec_tileSubstitution_of_spare {s : State} {l p r : Nat} {empty : List Nat} (h : s.physOf l = some p)
    (hnow : s.spareNow empty p = some r) :
    exec (.tileSubstitution l empty) s = .next (if s.outranked empty p r then s else s.substitute l p r) := by
  simp only [exec_tileSubstitution, execTileSubstitution, h, hnow]

/-! ### The halving of the scores (R370) -/

/-- `t` is `s` after rows of R371: states of units and their status bits may differ, no score and no other field. -/
structure State.Rated (s t : State) : Prop where
  score : ∀ e, (t.suspEnt e).score = (s.suspEnt e).score
  frame : t = { s with susp := t.susp, regs := t.regs }

namespace State.Rated

theorem refl (s : State) : s.Rated s := ⟨fun _ => rfl, rfl⟩

theorem trans {s t u : State} (h1 : s.Rated t) (h2 : t.Rated u) : s.Rated u where
  score e := (h2.score e).trans (h1.score e)
  frame := h2.frame.trans (by rw [h1.frame])

/-- A unit's state changes. -/
theorem setState (s : State) (u : Nat) (v : SuspState) : s.Rated (s.setSusp u { s.suspEnt u with st := v }) where
  score e := by
    rw [suspEnt_setSusp]
    split_ifs with h
    · rw [h]
    · rfl
  frame := rfl

/-- With its status bit. -/
theorem setBits {s t : State} (h : s.Rated t) (a m : Nat) : s.Rated (t.setBits a m) :=
  h.trans ⟨fun _ => rfl, rfl⟩

theorem evalUnit (s : State) (u : Nat) : s.Rated (s.evalUnit u) := by
  have hraised (t : State) : t.Rated (if (t.suspEnt u).st == .watch && decide (s.suspQuar ≤ (t.suspEnt u).score)
      then (t.setSusp u { t.suspEnt u with st := .quarReq }).setBits Reg.hubSuspStatus 2
      else if (t.suspEnt u).st == .watch && decide (s.clearPasses ≤ (t.suspEnt u).passes) && decide (2 * (t.suspEnt u).score < s.suspWatch)
        then t.setSusp u { t.suspEnt u with st := .clear }
      else t) := by
    split_ifs
    · exact (setState t u _).setBits ..
    · exact setState t u _
    · exact refl t
  have hwatched : s.Rated (if (s.suspEnt u).st == .clear && decide (s.suspWatch ≤ (s.suspEnt u).score)
      then (s.setSusp u { s.suspEnt u with st := .watch }).setBits Reg.hubSuspStatus 1 else s) := by
    split_ifs
    · exact (setState s u _).setBits ..
    · exact refl s
  refine hwatched.trans ?_
  exact hraised _

theorem evalUnits (s : State) (u n : Nat) : s.Rated (s.evalUnits u n) := by
  induction n generalizing s u with
  | zero => exact refl s
  | succ n ih => exact (evalUnit s u).trans (ih _ _)

end State.Rated

/-- The table with every score halved. -/
def halved (l : List (Nat × Susp)) : List (Nat × Susp) := l.map (fun p => (p.1, { p.2 with score := p.2.score / 2 }))

theorem score_halved (l : List (Nat × Susp)) (e : Nat) :
    (Tab.get (suspReset e) (halved l) e).score = (Tab.get (suspReset e) l e).score / 2 := by
  induction l with
  | nil =>
    have hreset : (suspReset e).score = 0 := by
      unfold suspReset
      split_ifs <;> rfl
    simp [halved, Tab.get, hreset]
  | cons x l ih =>
    obtain ⟨k, v⟩ := x
    simp only [halved, List.map_cons, Tab.get]
    split_ifs
    · rfl
    · exact ih

theorem exec_suspectScoreHalving_of_early {s : State} (h : s.time < s.halvedAt + max 1 (s.reg Reg.hubSuspCfg % 2 ^ 8) * secT 60) :
    exec .suspectScoreHalving s = .next s := congrArg Host.Outcome.next (if_pos h)

theorem exec_suspectScoreHalving_of_due {s : State} (h : s.halvedAt + max 1 (s.reg Reg.hubSuspCfg % 2 ^ 8) * secT 60 ≤ s.time) :
    exec .suspectScoreHalving s = .next (({ s with
      halvedAt := s.halvedAt + max 1 (s.reg Reg.hubSuspCfg % 2 ^ 8) * secT 60, susp := halved s.susp } : State).evalUnits 0 0x104) :=
  congrArg Host.Outcome.next (if_neg (Nat.not_lt.2 h))

/-- Settles O41: each command and each event by its lemma above. -/
theorem suspectsAndTileMap : Obligations.SuspectsAndTileMap := by
  unfold Obligations.SuspectsAndTileMap
  refine ⟨?suspread, ?quarant, ?moves, ?stays, ?early, ?halves, ?tilemap, ?ldlcnt⟩
  case suspread =>
    intro s q hopc hserve hctx h16 hfit hb hc ha
    have hent : (s.noted q).suspEnt q.a = s.suspEnt q.a := (State.JournalOnly.noted s q stOk 0).suspEnt q.a
    refine ⟨fun hmod => ?_, fun hmod hst => ?_, fun hmod hst => ?_, fun c hcctx hca hcimm hcmod => ?_⟩
    · exact exec_suspread_of_read (asks_suspread hserve (by omega) ha (by omega)) hmod h16 hfit ha
    · rw [exec_suspread_of_clear (asks_suspread hserve (by omega) ha (by omega)) hopc hmod h16 hfit ha hb hc, clearSusp_of_unit ha, hent,
        if_neg hst]
    · rw [exec_suspread_of_clear (asks_suspread hserve (by omega) ha (by omega)) hopc hmod h16 hfit ha hb hc, clearSusp_of_unit ha, hent,
        if_pos hst]
      rfl
    · have hbody : specSuspread.body c s = (s, .rec_ (s.suspEnt q.a).record) := by
        rw [body_specSuspread, readSusp_of_unit (by rw [hcimm]; exact h16) (by rw [hcimm]; exact hfit) (by rw [hca]; exact ha),
          if_neg (by omega), hca]
      exact decideCmd_of_record rfl (of_serving hserve).2.2 (.inr (.inl hcctx)) ((wide_eq_false_iff ..).2
        ⟨fun _ => show c.a < 2 ^ 12 by omega, fun h => absurd rfl h, fun h => absurd rfl h, fun _ => show c.imm < 2 ^ 12 by omega⟩) hbody
  case quarant =>
    intro s q hopc hserve hctx hmod himm ha hlt hb hc halive
    have hpass := passes_quarant hserve hopc hctx hmod himm ha hb hc halive
    have hjo := State.JournalOnly.noted s q stOk 0
    refine ⟨fun hspare => ?_, fun hmapped => ?_, exec_quarant_of_other hpass hlt⟩
    · obtain ⟨hstate, htile, hladle, hdefect, hrewrite, hother, hframe⟩ := spareQuarantined_leaves (s.noted q) q.a
      exact ⟨_, exec_quarant_of_spare hpass hlt hspare, hstate, htile, hladle, hdefect, hrewrite,
        fun p hp => (hother p hp).trans (hjo.tileState p), hframe⟩
    · obtain ⟨hstate, hdefect, horder, hframe⟩ := mappedPending_leaves (s.noted q) q.a
      have hpending : (s.noted q).pendingOrder = s.pendingOrder := (congrArg State.pendingOrder hjo.frame :)
      exact ⟨_, exec_quarant_of_mapped hpass hlt hmapped, hstate, hdefect, by rw [horder, hpending], hframe⟩
  case moves =>
    intro s l empty p r hphys hpending hbound hempty hreset hspare hrank hruns
    have hnow : s.spareNow empty p = some r := (spareNow_eq ..).trans ((if_pos ⟨hpending, hbound, hempty, hreset⟩).trans hspare)
    have hne : r ≠ p := by
      rintro rfl
      exact absurd (hpending.symm.trans (tileState_spareFor hspare)) (by decide)
    obtain ⟨hmap, hquar, hmapped, hseq, hgone, hframe⟩ := substitute_leaves l hruns (p := p)
    refine ⟨s.substitute l p r, ?_, hmap, hquar hne, fun _ => hmapped, hseq, hgone, hframe⟩
    rw [exec_tileSubstitution_of_spare hphys hnow, if_neg (by simp [hrank])]
  case stays =>
    intro s l empty h
    rcases h with hnone | ⟨p, hphys, h⟩
    · rw [exec_tileSubstitution, execTileSubstitution, hnone]
    cases hnow : s.spareNow empty p with
    | none => exact exec_tileSubstitution_of_none hphys hnow
    | some r =>
      rw [exec_tileSubstitution_of_spare hphys hnow]
      rw [spareNow_eq] at hnow
      split_ifs at hnow with hready
      obtain ⟨hpending, hbound, hempty, -⟩ := hready
      rcases h with h | h | h | h | ⟨r', hr', hrank⟩
      · exact absurd hpending h
      · simp [h] at hbound
      · exact absurd hempty h
      · simp [h] at hnow
      · obtain rfl : r' = r := Option.some.inj (hr'.symm.trans hnow)
        simp only [hrank, if_true]
  case early => exact fun s h => exec_suspectScoreHalving_of_early h
  case halves =>
    intro s h
    have hrated := State.Rated.evalUnits ({ s with
      halvedAt := s.halvedAt + max 1 (s.reg Reg.hubSuspCfg % 2 ^ 8) * secT 60, susp := halved s.susp }) 0 0x104
    refine ⟨_, exec_suspectScoreHalving_of_due h, ?_, fun e => (hrated.score e).trans (score_halved s.susp e), ?_⟩
    · exact (congrArg State.halvedAt hrated.frame :)
    · exact hrated.frame.trans (by rw [hrated.frame])
  case tilemap =>
    intro s q _ hserve hmod h16 hfit himm
    refine ⟨?_, fun c hcmod hcimm => ?_⟩
    · have hquiet : specTilemap.journaled (q.asked s) = false := rfl
      have hbody : specTilemap.body (q.asked s) s = (s, .rec_ s.mapRecord) :=
        congrArg (s, ·) (Cmd.record_of_fits (c := q.asked s) h16 hfit)
      rw [exec_tilemap, runCmd_of_record (asks_tilemap hserve hmod himm) hquiet hbody]
    · have hbody : specTilemap.body c s = (s, .rec_ s.mapRecord) :=
        congrArg (s, ·) (Cmd.record_of_fits (by rw [hcimm]; exact h16) (by rw [hcimm]; exact hfit))
      exact decideCmd_of_record rfl (of_serving hserve).2.2 (.inl rfl) ((wide_eq_false_iff ..).2
        ⟨fun h => absurd rfl h, fun h => absurd rfl h, fun h => absurd rfl h, fun _ => show c.imm < 2 ^ 12 by omega⟩) hbody
  case ldlcnt =>
    intro s q p hopc hserve h16 hfit ha hphys hruns hreach
    have hreads : s.Reads q.a p := ⟨hphys, hruns, hreach⟩
    refine ⟨fun hmod => ?_, fun hmod hb hc => ?_, fun c hca hcimm hcmod => ?_⟩
    · exact exec_ldlcnt_of_read (asks_ldlcnt hserve (by omega) ha (by omega)) hmod h16 hfit ha hreads
    · exact exec_ldlcnt_of_clear (asks_ldlcnt hserve (by omega) ha (by omega)) hopc hmod h16 hfit ha hb hc hreads
    · have hbody : specLdlcnt.body c s = (s, .rec_ (s.ldlRecord p)) := by
        rw [body_specLdlcnt, ldlCnt_of_reads (p := p) (by rw [hca]; exact hreads) (by rw [hcimm]; exact h16) (by rw [hcimm]; exact hfit),
          if_neg (by omega)]
      exact decideCmd_of_record rfl (of_serving hserve).2.2 (.inl rfl) ((wide_eq_false_iff ..).2
        ⟨fun _ => show c.a < 2 ^ 7 by omega, fun h => absurd rfl h, fun h => absurd rfl h, fun _ => show c.imm < 2 ^ 12 by omega⟩) hbody

end Sys2Proof.Machine
end

section
/-! Ring entries and programs (R246, R275 to R282): the taking of an entry, the owner's return, and the submission of a program. -/

namespace Sys2Proof.Machine

theorem exec_ringEntryTake (n : Nat) (s : State) :
    exec (.ringEntryTake n) s = .next (if s.ringsServed && s.ringTurn == some n then s.takeEntry n else s) := rfl
theorem exec_ownerReturn (n index : Nat) (e : RingEntry) (s : State) : exec (.ownerReturn n index e) s = execOwnerReturn n index e s := rfl
theorem exec_submitProgram (i : Issue) (s : State) : exec (.submitProgram i) s = .next (s.ringOwn 0x80 i State.submit) := rfl

/-! ### The journal after an entry (R285, R286) -/

theorem journal_journalLost (s : State) : s.journalLost.journal = s.journal := by
  have hregs := (regsOnly_faultInt ((s.setBits Reg.hubJrnlStatus 2).count Reg.hubCntJrnlLost) clsJournal 0).eq_with_regs
  rw [State.journalLost, hregs]
  rfl

theorem journal_writeZ_of_own (s : State) (addr : Nat) (b : Bytes) {acc : Access} (hown : ∀ t : State, (t.accessCtx acc).1 = 0) :
    (s.writeZ addr b acc).journal = s.journal := by
  obtain ⟨_, _, _, _, _, hwrite⟩ := writeZ_frame_of_own s addr b hown
  rw [hwrite]

theorem journal_copyEntry (s : State) (e : JEntry) : (s.copyEntry e).journal = s.journal := by
  unfold State.copyEntry
  split_ifs
  · exact journal_journalLost _
  · exact journal_writeZ_of_own s _ _ fun _ => rfl

theorem journal_copyEntries (s : State) (l : List JEntry) : (s.copyEntries l).journal = s.journal := by
  induction l generalizing s with
  | nil => rfl
  | cons e l ih =>
    unfold State.copyEntries
    split_ifs
    · exact (ih _).trans (journal_copyEntry s e)
    · rfl

theorem journal_replaced (s : State) : s.replaced.journal = s.journal := by
  unfold State.replaced
  split
  · split_ifs
    · exact journal_journalLost _
    · rfl
  · rfl

/-- The window holds the entry, whatever becomes of its copy in memory. -/
theorem journal_record (s : State) (e : JEntry) : (s.record e).journal = s.window e := by
  have hplaced (l : List JEntry) : ({ s with jseq := s.jseq + 1, journal := l } : State).replaced.journal = l := journal_replaced _
  have hrecord : s.record e = ({ s with jseq := s.jseq + 1, journal := s.window e } : State).replaced.copyJournal := rfl
  rw [hrecord, State.copyJournal]
  split_ifs
  · exact (journal_copyEntries ..).trans (hplaced _)
  · exact hplaced _

/-! ### What a step of an entry leaves of the rings (R278) -/

/-- HEAD and TAIL of ring `n`, and every other ring, stay as they were. -/
structure State.RingStep (n : Nat) (s t : State) : Prop where
  head : (t.ring n).head = (s.ring n).head
  tail : (t.ring n).tail = (s.ring n).tail
  other : ∀ m, m ≠ n → t.ring m = s.ring m

theorem State.JournalOnly.ring {s t : State} (h : s.JournalOnly t) (m : Nat) : t.ring m = s.ring m := (congrArg (State.ring · m) h.frame :)
theorem State.JournalOnly.coreUp {s t : State} (h : s.JournalOnly t) (k : Nat) : t.coreUp k = s.coreUp k :=
  (congrArg (State.coreUp · k) h.frame :)

theorem taken_congr {s t : State} {n : Nat} (h : t.ring n = s.ring n) (index : Nat) : t.taken n index = s.taken n index := by
  rw [State.taken, h, State.taken]

namespace State.RingStep
variable {n : Nat}

theorem of_ring_eq {s t : State} (h : ∀ m, t.ring m = s.ring m) : State.RingStep n s t :=
  ⟨by rw [h], by rw [h], fun m _ => h m⟩

theorem trans {s t u : State} (h1 : State.RingStep n s t) (h2 : State.RingStep n t u) : State.RingStep n s u where
  head := h2.head.trans h1.head
  tail := h2.tail.trans h1.tail
  other m hm := (h2.other m hm).trans (h1.other m hm)

/-- Ring `n` is written with its HEAD and TAIL as they were. -/
theorem setRing {s t : State} {v : Ring} (h : ∀ m, t.ring m = s.ring m) (hhead : v.head = (s.ring n).head) (htail : v.tail = (s.ring n).tail) :
    State.RingStep n s (t.setRing n v) where
  head := by rw [ring_setRing, if_pos rfl, hhead]
  tail := by rw [ring_setRing, if_pos rfl, htail]
  other m hm := by rw [ring_setRing, if_neg (Ne.symm hm), h]

theorem onTaken (s : State) (index : Nat) (f : Taken → Taken) : State.RingStep n s (s.onTaken n index f) := setRing (fun _ => rfl) rfl rfl

theorem writeCompletion (s : State) (index st res jseq : Nat) : State.RingStep n s (s.writeCompletion n index st res jseq) := by
  unfold State.writeCompletion
  split
  · exact of_ring_eq fun _ => rfl
  · dsimp only
    refine setRing (fun m => ?_) rfl rfl
    obtain ⟨_, _, _, _, _, hwrite⟩ := writeZ_frame_of_own s _ _ (acc := .completion n) fun _ => rfl
    rw [hwrite]
    rfl

theorem finishRecord (s : State) (t : Taken) (st res : Nat) : State.RingStep n s (s.finishRecord n t st res) := by
  unfold State.finishRecord State.finishEntry
  split_ifs
  · exact (of_ring_eq (State.JournalOnly.record s _).ring).trans (writeCompletion ..)
  · exact (of_ring_eq (State.JournalOnly.record s _).ring).trans (onTaken ..)

theorem refuseEntry (s : State) (index st : Nat) : State.RingStep n s (s.refuseEntry n index st) := by
  unfold State.refuseEntry
  split
  · exact (of_ring_eq (s := s) (t := s.count Reg.ktlCntRefused) fun _ => rfl).trans (finishRecord (s.count Reg.ktlCntRefused) _ st 0)
  · exact of_ring_eq fun _ => rfl

theorem acceptEntry (s : State) (index : Nat) : State.RingStep n s (s.acceptEntry n index) := by
  have hcount : State.RingStep n s (s.count Reg.ktlCntTaken) := of_ring_eq fun _ => rfl
  unfold State.acceptEntry
  dsimp only
  split
  · split_ifs
    · exact hcount
    · exact hcount.trans ((of_ring_eq (State.JournalOnly.record _ _).ring).trans (onTaken ..))
  · exact hcount

end State.RingStep

/-! ### The taking of an entry (R278, R279) -/

/-- The entry at HEAD, as a ring holds it once it is taken. -/
def State.headTaken (s : State) (n : Nat) : Taken :=
  { index := (s.ring n).head, e := parseEntry (s.bytes ((s.ring n).entryAt (s.ring n).head) 64) }

/-- An entry in the hands of the core that owns its KIND, of Kettle 0 where none does (R282). -/
def Taken.offered (x : Taken) : Taken := { x with handed := if ownerOf x.e.kind = 0 then none else some (ownerOf x.e.kind) }

/-- The state in which an entry has been taken, and is refused or accepted next. -/
def State.entryTaken (s : State) (n : Nat) : State :=
  let at_ := (s.ring n).entryAt (s.ring n).head
  let e := parseEntry (s.bytes at_ 64)
  ((s.request .read (at_ / 4096) (at_ % 4096 / 64) 1 (.ringEntry n (s.ring n).head)).takeSlot n e).takenRecord n (s.ring n).head e

section
variable {s : State} {n : Nat} (hstall : s.bothStalled = false)
include hstall

theorem takeEntry_of_refused {st : Nat} (h : s.entryRefused n (s.bytes ((s.ring n).entryAt (s.ring n).head) 64) = some st) :
    s.takeEntry n = (s.entryTaken n).refuseEntry n (s.ring n).head st := by
  simp only [State.takeEntry, hstall, h, Bool.false_eq_true, if_false]
  rfl

theorem takeEntry_of_accepted (h : s.entryRefused n (s.bytes ((s.ring n).entryAt (s.ring n).head) 64) = none) :
    s.takeEntry n = (s.entryTaken n).acceptEntry n (s.ring n).head := by
  simp only [State.takeEntry, hstall, h, Bool.false_eq_true, if_false]
  rfl

end

/-- The entry's read, HEAD, its slot, and its TAKEN record. -/
theorem entryTaken_leaves {s : State} (hstall : s.bothStalled = false) (hup : s.coreUp 0 = true) (n : Nat) :
    (s.entryTaken n).ring n = { s.ring n with
      head := ((s.ring n).head + 1) % 2 ^ 16, reserved := (s.ring n).reserved + 1
      taken := (s.ring n).taken ++ [s.headTaken n] } ∧
    (∀ m, m ≠ n → (s.entryTaken n).ring m = s.ring m) ∧ (s.entryTaken n).coreUp 0 = true ∧
      ∀ a, ¬ journalReg a → (s.entryTaken n).reg a = s.reg a := by
  obtain ⟨p0, p1, hreq⟩ := request_of_own hstall .read ((s.ring n).entryAt (s.ring n).head / 4096)
    ((s.ring n).entryAt (s.ring n).head % 4096 / 64) 1 (acc := .ringEntry n (s.ring n).head) rfl
  have hjo := State.JournalOnly.record
    (({ s with port0 := p0, port1 := p1 } : State).takeSlot n (parseEntry (s.bytes ((s.ring n).entryAt (s.ring n).head) 64)))
    { type := jTaken, opc := (parseEntry (s.bytes ((s.ring n).entryAt (s.ring n).head) 64)).kind, source := srcRing n
      ctx := (parseEntry (s.bytes ((s.ring n).entryAt (s.ring n).head) 64)).ctx, ref := (s.ring n).head
      cookie := (parseEntry (s.bytes ((s.ring n).entryAt (s.ring n).head) 64)).cookie }
  have hcores : (s.kettle.afterTake n).cores = s.kettle.cores := by
    unfold Kettle.afterTake
    split_ifs <;> rfl
  rw [State.entryTaken, hreq]
  refine ⟨(hjo.ring n).trans ?_, fun m hm => (hjo.ring m).trans ?_, (hjo.coreUp 0).trans ?_, fun a ha => (hjo.reg a ha).trans rfl⟩
  · exact (ring_setRing ..).trans (if_pos rfl)
  · exact (ring_setRing ..).trans (if_neg (Ne.symm hm))
  · rw [← hup]
    exact congrArg (fun l => (((l[0]?).getD {} : Core).running && ! ((l[0]?).getD {} : Core).restarting && ! ((l[0]?).getD {} : Core).held &&
      ! ((l[0]?).getD {} : Core).halted)) hcores

/-- The one entry that a ring has taken. -/
theorem taken_of_single {s : State} {n : Nat} {x : Taken} (h : (s.ring n).taken = [x]) : s.taken n x.index = some x := by
  rw [State.taken, h]
  simp

/-- An accepted entry is handed to the core that owns its KIND, and counted. -/
theorem acceptEntry_of_single {s : State} {n : Nat} {x : Taken} {index : Nat} (h : (s.ring n).taken = [x]) (hindex : x.index = index)
    (hnew : x.handed = none) :
    (s.acceptEntry n index).ring n =
      { s.ring n with taken := [x.offered] } ∧
    (s.acceptEntry n index).reg Reg.ktlCntTaken = min (2 ^ 32 - 1) (s.reg Reg.ktlCntTaken + 1) := by
  subst hindex
  have htaken : (s.count Reg.ktlCntTaken).taken n x.index = some x := (taken_congr rfl _).trans (taken_of_single h)
  have hcount : (s.count Reg.ktlCntTaken).reg Reg.ktlCntTaken = min (2 ^ 32 - 1) (s.reg Reg.ktlCntTaken + 1) :=
    (reg_count ..).trans (if_pos rfl)
  unfold State.acceptEntry
  simp only [htaken]
  by_cases hown : ownerOf x.e.kind = 0
  · rw [if_pos hown, Taken.offered, if_pos hown]
    refine ⟨?_, hcount⟩
    rw [← hnew, ← h]
    rfl
  · rw [if_neg hown, Taken.offered, if_neg hown]
    have hjo : (s.count Reg.ktlCntTaken).JournalOnly ((s.count Reg.ktlCntTaken).handRecord n x (ownerOf x.e.kind)) := .record ..
    have hring : ((s.count Reg.ktlCntTaken).handRecord n x (ownerOf x.e.kind)).ring n = s.ring n := (hjo.ring n).trans rfl
    generalize (s.count Reg.ktlCntTaken).handRecord n x (ownerOf x.e.kind) = u at hjo hring
    refine ⟨?_, (hjo.reg Reg.ktlCntTaken (by unfold journalReg; decide)).trans hcount⟩
    rw [State.onTaken, ring_setRing, if_pos rfl, hring, h]
    simp

/-- A refused entry is completed with its status, journaled as finished, and counted. -/
theorem refuseEntry_of_single {s : State} {n : Nat} {x : Taken} {index : Nat} (h : (s.ring n).taken = [x]) (hindex : x.index = index)
    (hup : s.coreUp 0 = true) (st : Nat) :
    ((s.refuseEntry n index st).ring n).taken = [] ∧ ((s.refuseEntry n index st).ring n).prod = ((s.ring n).prod + 1) % 2 ^ 16 ∧
      (s.refuseEntry n index st).reg Reg.ktlCntRefused = min (2 ^ 32 - 1) (s.reg Reg.ktlCntRefused + 1) ∧
      ∃ e ∈ (s.refuseEntry n index st).journal, e.type = jFinished ∧ e.status = st := by
  subst hindex
  have hrefuse : s.refuseEntry n x.index st = (s.count Reg.ktlCntRefused).finishRecord n x st 0 := by
    rw [State.refuseEntry, taken_of_single h]
  have hjo := State.JournalOnly.record (s.count Reg.ktlCntRefused)
    { type := jFinished, status := st, opc := x.e.kind, source := srcRing n, ctx := x.e.ctx, ref := x.index, cookie := x.e.cookie, a := 0 }
  have hjournal := journal_record (s.count Reg.ktlCntRefused)
    { type := jFinished, status := st, opc := x.e.kind, source := srcRing n, ctx := x.e.ctx, ref := x.index, cookie := x.e.cookie, a := 0 }
  have hmem := mem_window (s.count Reg.ktlCntRefused)
    { type := jFinished, status := st, opc := x.e.kind, source := srcRing n, ctx := x.e.ctx, ref := x.index, cookie := x.e.cookie, a := 0 }
  rw [hrefuse, State.finishRecord]
  generalize (s.count Reg.ktlCntRefused).record
    { type := jFinished, status := st, opc := x.e.kind, source := srcRing n, ctx := x.e.ctx, ref := x.index, cookie := x.e.cookie, a := 0 } = u
    at hjo hjournal
  have hring : u.ring n = s.ring n := hjo.ring n
  have hreg : u.reg Reg.ktlCntRefused = min (2 ^ 32 - 1) (s.reg Reg.ktlCntRefused + 1) :=
    (hjo.reg Reg.ktlCntRefused (by unfold journalReg; decide)).trans ((reg_count ..).trans (if_pos rfl))
  rw [State.finishEntry, if_pos ((hjo.coreUp 0).trans hup), State.writeCompletion, (taken_congr hring _).trans (taken_of_single h)]
  dsimp only
  have hkept := journal_writeZ_of_own u ((u.ring n).cbase * 64 * 4096 + 32 * ((u.ring n).prod % (u.ring n).size))
    (completionBytes x.e st 0 (s.count Reg.ktlCntRefused).jseq x.index ((u.ring n).prod / (u.ring n).size % 2)) (acc := .completion n) fun _ => rfl
  rw [← hjournal, ← hkept] at hmem
  refine ⟨?_, ?_, (reg_writeZ_of_ne u _ _ _ (by decide)).trans hreg, ⟨_, hmem, rfl, rfl⟩⟩
  · rw [ring_setRing, if_pos rfl, hring, h]
    simp
  · rw [ring_setRing, if_pos rfl, hring]

end Sys2Proof.Machine
end

section
/-! The submission of a program (R246, R247, R251), and the settling of O54. -/

namespace Sys2Proof.Machine

/-! ### A command of Kettle 0 for an entry of its own (R281) -/

theorem ringOwn_of_issuable {s : State} {n index : Nat} {x : Taken} (h : s.Issuable n index x) {kind : Nat} (hkind : x.e.kind = kind)
    (f : State → Nat → Taken → State) : s.ringOwn kind { by_ := .ring n index, mod := x.e.issued, imm := x.e.imm } f = f s n x := by
  obtain ⟨htaken, hup, hhanded, hserved, hran, hfinal, -, hissued, himm⟩ := h
  simp only [State.ringOwn, htaken, hup, hhanded, hserved, hran, hfinal, hkind, Nat.mod_eq_of_lt hissued, Nat.mod_eq_of_lt himm,
    Option.isSome_none, Bool.or_false, bne_self_eq_false, Bool.not_true, Bool.false_eq_true, if_false]

/-! ### The free save record (R246) -/

/-- While a save record is left, the lowest free one is free. -/
theorem program_freeProgram {s : State} (h : s.progs.length < 4096) : s.program s.freeProgram = none := by
  have hfree : ∃ k ∈ List.range 4096, (s.program k).isNone = true := by
    by_contra hall
    have hkeys : List.range 4096 ⊆ s.progs.map Prod.fst := fun k hk => by
      refine mem_keys_of_lookup s.progs k ?_
      cases hprog : lookup s.progs k with
      | some p => rfl
      | none => exact absurd ⟨k, hk, by rw [State.program, hprog]; rfl⟩ hall
    have hlen := (List.nodup_range.subperm hkeys).length_le
    rw [List.length_range, List.length_map] at hlen
    omega
  obtain ⟨k, hk⟩ := Option.isSome_iff_exists.1 (List.find?_isSome.2 hfree)
  have hnone := List.find?_some hk
  rw [State.freeProgram, hk]
  simpa using hnone

/-! ### Submit program (R246) -/

/-- A program of context 0 comes over ring 0 alone: any other is checked. -/
theorem submit_of_allowed {s : State} {n : Nat} {x : Taken} {h : Bytes} (hh : h = s.bytes (x.e.a0 % 2 ^ 38 * 4096) 64)
    (hallowed : leAt h 6 2 ≠ 0 ∨ n = 0) : s.submit n x =
      if s.submitCheck x.e.a0 h ≠ stOk then s.submitRefused n x h (s.submitCheck x.e.a0 h)
      else if s.progsFull (leAt h 6 2) then s.submitRefused n x h stFull
      else
        let s1 := (s.request .read x.e.a0 0 64 (.program s.freeProgram)).request .read (leAt h 16 8) 0 64 (.program s.freeProgram)
        if s.bothStalled then s1.submitRefused n x h stTimeout
        else if ! s.progBlockOk (leAt h 6 2) (leAt h 8 2) x.e.a0 then
          ((s1.retire (fun a => a == .program s.freeProgram)).confirmProg (leAt h 6 2) (leAt h 8 2) x.e.a0).submitRefused n x h stSealFail
        else if ! s.progBlockOk (leAt h 6 2) (leAt h 8 2) (leAt h 16 8) then
          ((s1.retire (fun a => a == .program s.freeProgram)).confirmProg (leAt h 6 2) (leAt h 8 2) (leAt h 16 8)).submitRefused n x h stSealFail
        else s1.submitAccepted n x h s.freeProgram := by
  subst hh
  refine if_neg ?_
  rintro ⟨hzero, hn⟩
  rcases hallowed with h | h
  · exact h hzero
  · exact hn h

/-- Rows 1 to 4 of R246 never give FULL. -/
theorem submitCheck_ne_full (s : State) (blk : Nat) (h : Bytes) : s.submitCheck blk h ≠ stFull := by
  unfold State.submitCheck
  dsimp only
  split_ifs <;> decide

/-- The two reads of a submission under a free save record change the ports alone. -/
theorem submitReads_frame {s : State} (hstall : s.bothStalled = false) {id : Nat} (hfree : s.program id = none) (blk param : Nat) :
    ∃ p0 p1, (s.request .read blk 0 64 (.program id)).request .read param 0 64 (.program id) = { s with port0 := p0, port1 := p1 } := by
  have hown : (s.accessCtx (.program id)).1 = 0 := by
    rw [State.accessCtx, show lookup s.progs id = none from hfree]
    rfl
  obtain ⟨p0, p1, hfirst⟩ := request_of_own hstall .read blk 0 64 hown
  have hstall' : ({ s with port0 := p0, port1 := p1 } : State).bothStalled = false := by
    rw [← hfirst, (State.IoOnly.request ..).bothStalled, hstall]
  obtain ⟨p0', p1', hsecond⟩ := request_of_own hstall' .read param 0 64 (acc := .program id) hown
  exact ⟨p0', p1', by rw [hfirst, hsecond]⟩

/-- The state with the program in the run queue, before its entry in the journal. -/
def State.runQueued (s : State) (id : Nat) (p : Program) : State :=
  { (s.count Reg.hubCntPrograms).setProgram id p with runQ := s.runQ ++ [id] }

/-- The entry of the journal for an accepted program (R260, R284). -/
def acceptEntryOf (n : Nat) (x : Taken) (h : Bytes) (id : Nat) : JEntry :=
  { type := jProgAccept, opc := 0x80, source := srcRing n, ctx := (progOf n x h).ctx, ref := x.index, cookie := x.e.cookie, a := x.e.a0, b := id }

theorem onTaken_frame (s : State) (n index : Nat) (f : Taken → Taken) : ∃ rs, s.onTaken n index f = { s with rings := rs } := ⟨_, rfl⟩

/-- What the acceptance of a program leaves. -/
structure State.Accepted (s t : State) (id : Nat) (p : Program) : Prop where
  program : t.program id = some p
  runQ : t.runQ = s.runQ ++ [id]
  other : ∀ j, j ≠ id → t.program j = s.program j
  count : t.reg Reg.hubCntPrograms = min (2 ^ 32 - 1) (s.reg Reg.hubCntPrograms + 1)
  reg : ∀ a, a ≠ Reg.hubCntPrograms → t.reg a = s.reg a
  frame : t = { s with
    regs := t.regs, port0 := t.port0, port1 := t.port1, progs := t.progs, runQ := t.runQ, rings := t.rings, jseq := t.jseq, journal := t.journal }

theorem submitAccepted_leaves {s : State} (hmem : s.memOn = false) (n : Nat) (x : Taken) (h : Bytes) (id : Nat) (p0 p1 : Port) :
    s.Accepted (({ s with port0 := p0, port1 := p1 } : State).submitAccepted n x h id) id (progOf n x h) := by
  have hrecord := record_of_memOff (s := ({ s with port0 := p0, port1 := p1 } : State).runQueued id (progOf n x h)) hmem (acceptEntryOf n x h id)
  have hsub : ({ s with port0 := p0, port1 := p1 } : State).submitAccepted n x h id =
      ((({ s with port0 := p0, port1 := p1 } : State).runQueued id (progOf n x h)).record (acceptEntryOf n x h id)).onTaken n x.index
        (fun y => { y with served := true }) := rfl
  rw [hrecord] at hsub
  generalize State.window _ _ = j at hsub
  obtain ⟨rs, htaken⟩ := onTaken_frame { ({ s with port0 := p0, port1 := p1 } : State).runQueued id (progOf n x h) with
    jseq := s.jseq + 1, journal := j } n x.index (fun y => { y with served := true })
  have hset : ({ s with port0 := p0, port1 := p1 } : State).submitAccepted n x h id =
      { s with regs := (s.count Reg.hubCntPrograms).regs, port0 := p0, port1 := p1, progs := Tab.place s.progs id (progOf n x h)
               runQ := s.runQ ++ [id], jseq := s.jseq + 1, journal := j, rings := rs } := hsub.trans htaken
  rw [hset]
  exact
    { program := lookup_place ..
      runQ := rfl
      other := fun k hk => lookup_place_of_ne s.progs hk _
      count := (reg_count s ..).trans (if_pos rfl)
      reg := fun a ha => (reg_count s ..).trans (if_neg (Ne.symm ha))
      frame := rfl }

theorem exec_submitProgram_of_issuable {s : State} {n index : Nat} {x : Taken} (h : s.Issuable n index x) (hkind : x.e.kind = 0x80) :
    exec (.submitProgram { by_ := .ring n index, mod := x.e.issued, imm := x.e.imm }) s = .next (s.submit n x) := by
  rw [exec_submitProgram, ringOwn_of_issuable h hkind]

theorem submit_of_accepted {s : State} {n : Nat} {x : Taken} {h : Bytes} (hh : h = s.bytes (x.e.a0 % 2 ^ 38 * 4096) 64)
    (hallowed : leAt h 6 2 ≠ 0 ∨ n = 0) (hcheck : s.submitCheck x.e.a0 h = stOk) (hroom : s.progsFull (leAt h 6 2) = false)
    (hstall : s.bothStalled = false) (himage : s.progBlockOk (leAt h 6 2) (leAt h 8 2) x.e.a0 = true)
    (hparam : s.progBlockOk (leAt h 6 2) (leAt h 8 2) (leAt h 16 8) = true) (hmem : s.memOn = false) :
    s.Accepted (s.submit n x) s.freeProgram (progOf n x h) := by
  have hlen : s.progs.length < 4096 := by
    simp only [State.progsFull, Bool.or_eq_false_iff, decide_eq_false_iff_not] at hroom
    omega
  obtain ⟨p0, p1, hreads⟩ := submitReads_frame hstall (program_freeProgram hlen) x.e.a0 (leAt h 16 8)
  have hsubmit : s.submit n x = ({ s with port0 := p0, port1 := p1 } : State).submitAccepted n x h s.freeProgram := by
    rw [submit_of_allowed hh hallowed, if_neg (not_not.2 hcheck), if_neg (by simp [hroom]), hreads]
    dsimp only
    rw [if_neg (by simp [hstall]), himage, hparam]
    rfl
  rw [hsubmit]
  exact submitAccepted_leaves hmem n x h s.freeProgram p0 p1

/-- Settles O54: the taking of an entry, the owner's return and the submission by their lemmas above. -/
theorem ringEntriesAndPrograms : Obligations.RingEntriesAndPrograms := by
  unfold Obligations.RingEntriesAndPrograms
  refine ⟨?take, ?notTurn, ?returned, ?kept, ?submit⟩
  case take =>
    intro s n hserved hturn hstall
    have hup : s.coreUp 0 = true := by
      simp only [State.ringsServed, Bool.and_eq_true] at hserved
      exact hserved.1
    have hexec : exec (.ringEntryTake n) s = .next (s.takeEntry n) := by
      rw [exec_ringEntryTake, hserved, hturn]
      simp
    obtain ⟨hring, hother, hup', hreg⟩ := entryTaken_leaves hstall hup n
    have hstep {t : State} (h : State.RingStep n (s.entryTaken n) t) : (t.ring n).head = ((s.ring n).head + 1) % 2 ^ 16 ∧
        (t.ring n).tail = (s.ring n).tail ∧ ∀ m, m ≠ n → t.ring m = s.ring m :=
      ⟨by rw [h.head, hring], by rw [h.tail, hring], fun m hm => (h.other m hm).trans (hother m hm)⟩
    have hsingle (hnone : (s.ring n).taken = []) : ((s.entryTaken n).ring n).taken = [s.headTaken n] := by
      rw [hring, hnone]
      rfl
    rw [hexec]
    cases hrefused : s.entryRefused n (s.bytes ((s.ring n).entryAt (s.ring n).head) 64) with
    | none =>
      obtain ⟨hhead, htail, hrest⟩ := hstep (.acceptEntry _ (s.ring n).head)
      rw [takeEntry_of_accepted hstall hrefused]
      refine ⟨_, (s.headTaken n).offered, rfl, hhead, htail, hrest, fun _ hnone => ?_, fun st hst => nomatch hst⟩
      obtain ⟨hacc, hcount⟩ := acceptEntry_of_single (index := (s.ring n).head) (hsingle hnone) rfl rfl
      exact ⟨congrArg Ring.taken hacc, rfl, rfl, rfl, by rw [hacc, hring],
        by rw [hcount, hreg _ (by unfold journalReg; decide)]⟩
    | some st =>
      obtain ⟨hhead, htail, hrest⟩ := hstep (.refuseEntry _ (s.ring n).head st)
      rw [takeEntry_of_refused hstall hrefused]
      refine ⟨_, {}, rfl, hhead, htail, hrest, fun hst => (nomatch hst), fun st' hst hnone => ?_⟩
      obtain rfl : st = st' := Option.some.inj hst
      obtain ⟨htaken, hprod, hcount, hjournal⟩ := refuseEntry_of_single (index := (s.ring n).head) (hsingle hnone) rfl hup' st
      exact ⟨htaken, by rw [hprod, hring], by rw [hcount, hreg _ (by unfold journalReg; decide)], hjournal⟩
  case notTurn =>
    intro s n h
    have hno : (s.ringsServed && s.ringTurn == some n) = false := by
      rcases h with h | h
      · simp [h]
      · simp [h]
    rw [exec_ringEntryTake, hno]
    rfl
  case returned =>
    intro s n index x k e htaken hhanded hup hup0 hfinal hok
    rw [exec_ownerReturn, execOwnerReturn]
    simp only [htaken, hhanded, hup, hup0, hfinal, hok, Option.isNone_none, Bool.and_self, if_true]
  case kept =>
    intro s n index x e htaken h
    rw [exec_ownerReturn, execOwnerReturn]
    rcases h with hnone | hbad
    · simp only [htaken, hnone]
    · simp only [htaken, hbad, Bool.and_false, Bool.false_eq_true, if_false]
      cases x.handed <;> rfl
  case submit =>
    intro s n index x h htaken hup hhanded hserved hran hfinal hindex hkind hissued himm hh hallowed
    have hissue : s.Issuable n index x := ⟨htaken, hup, hhanded, hserved, hran, hfinal, hindex, hissued, himm⟩
    rw [exec_submitProgram_of_issuable hissue hkind]
    refine ⟨fun hcheck hroom hstall himage hparam hmem => ?_, fun st hcheck hst => ?_, fun hcheck hfull => ?_⟩
    · obtain ⟨hprog, hrun, hother, hcount, hreg, hframe⟩ := submit_of_accepted hh hallowed hcheck hroom hstall himage hparam hmem
      exact ⟨_, rfl, hprog, hrun, hother, hcount, hreg, hframe⟩
    · have hfull : st ≠ stFull := hcheck ▸ submitCheck_ne_full s x.e.a0 h
      rw [submit_of_allowed hh hallowed, hcheck, if_pos hst, State.submitRefused, if_neg hfull]
      rfl
    · rw [submit_of_allowed hh hallowed, if_neg (not_not.2 hcheck), if_pos hfull, State.submitRefused, if_pos rfl]
      rfl

end Sys2Proof.Machine
end

section
/-! Doorbells of the rings, and the enabling of a ring (R277, R303). -/

namespace Sys2Proof.Machine

theorem exec_ktlDbWrite (src : Src) (n v : Nat) (s : State) : exec (.ktlDbWrite src n v) s =
    .next (s.writeAccess src (0x50100 + 8 * n) (fun q => if n < 16 then q.doorbell n v else q)) := rfl
theorem exec_ktlCdbWrite (src : Src) (n v : Nat) (s : State) : exec (.ktlCdbWrite src n v) s =
    .next (s.writeAccess src (0x50104 + 8 * n) (fun q => if n < 16 then q.cdoorbell n v else q)) := rfl
theorem exec_ktlRingEnable (src : Src) (v : Nat) (s : State) : exec (.ktlRingEnable src v) s =
    .next (s.writeAccess src 0x50028 (fun q => q.ringCfg src v)) := rfl

/-! ### Writes that are answered OK (R451, R498) -/

/-- A write that is answered OK has its effect, and its response goes out. -/
theorem writeAccess_eq_emit {s : State} {a : Nat} (src : Src) (hok : s.respCode a = 0) (f : State → State) :
    s.writeAccess src a f = (f s).emit (.regRsp src a 0 0) := by
  rw [State.writeAccess, hok]
  rfl

/-- The Kettle's mailbox registers, the doorbells among them, answer every aligned access. -/
theorem respCode_mailbox (s : State) {a : Nat} (halign : a % 4 = 0) (hlo : 0x50000 ≤ a) (hhi : a < 0x50180) : s.respCode a = 0 := by
  have hextent : inExtent a = true := by
    simp only [inExtent, Bool.or_eq_true, Bool.and_eq_true, decide_eq_true_eq]
    omega
  rw [State.respCode, if_neg (not_not.2 halign), if_neg (by omega), if_neg (by omega), if_pos hextent]

/-! ### Doorbells -/

section
variable {s : State} {n v : Nat}

theorem doorbell_of_fits (h : (v % 2 ^ 16 + 2 ^ 16 - (s.ring n).head) % 2 ^ 16 ≤ (s.ring n).size) :
    s.doorbell n v = s.setRing n { s.ring n with tail := v % 2 ^ 16 } := if_neg (not_lt.2 h)

theorem doorbell_of_beyond (h : (s.ring n).size < (v % 2 ^ 16 + 2 ^ 16 - (s.ring n).head) % 2 ^ 16) :
    s.doorbell n v = s.count Reg.ktlCntDberr := if_pos h

theorem cdoorbell_of_posted (h : (v % 2 ^ 16 + 2 ^ 16 - (s.ring n).cons) % 2 ^ 16 ≤ ((s.ring n).prod + 2 ^ 16 - (s.ring n).cons) % 2 ^ 16) :
    s.cdoorbell n v = s.setRing n { s.ring n with cons := v % 2 ^ 16 } := if_neg (not_lt.2 h)

theorem cdoorbell_of_beyond (h : ((s.ring n).prod + 2 ^ 16 - (s.ring n).cons) % 2 ^ 16 < (v % 2 ^ 16 + 2 ^ 16 - (s.ring n).cons) % 2 ^ 16) :
    s.cdoorbell n v = s.count Reg.ktlCntDberr := if_pos h

theorem exec_ktlDbWrite_of_lt (hn : n < 16) (src : Src) :
    exec (.ktlDbWrite src n v) s = .next ((s.doorbell n v).emit (.regRsp src (0x50100 + 8 * n) 0 0)) := by
  rw [exec_ktlDbWrite, writeAccess_eq_emit src (respCode_mailbox s (by omega) (by omega) (by omega)), if_pos hn]

theorem exec_ktlCdbWrite_of_lt (hn : n < 16) (src : Src) :
    exec (.ktlCdbWrite src n v) s = .next ((s.cdoorbell n v).emit (.regRsp src (0x50104 + 8 * n) 0 0)) := by
  rw [exec_ktlCdbWrite, writeAccess_eq_emit src (respCode_mailbox s (by omega) (by omega) (by omega)), if_pos hn]

end

/-! ### KTL_RING_CFG -/

/-- A ring after a write of its KTL_RING_CFG. -/
def Ring.configured (r : Ring) (v : Nat) : Ring :=
  if r.en then { r with en := bitAt v 31 == 1 }
  else if bitAt v 31 = 1 then
    if r.taken = [] then { r with en := true, log2 := v % 16, head := 0, tail := 0, prod := 0, cons := 0 } else r
  else { r with log2 := v % 16 }

/-- The write configures the source's selected ring, and changes nothing else. -/
theorem ringCfg_leaves (s : State) (src : Src) (v : Nat) {n : Nat} (hn : n = s.banked src .ringSel % 16) :
    (s.ringCfg src v).ring n = (s.ring n).configured v ∧ (∀ m, m ≠ n → (s.ringCfg src v).ring m = s.ring m) ∧
      s.ringCfg src v = { s with rings := (s.ringCfg src v).rings } := by
  have hset (r : Ring) : (s.setRing n r).ring n = r ∧ (∀ m, m ≠ n → (s.setRing n r).ring m = s.ring m) ∧
      s.setRing n r = { s with rings := (s.setRing n r).rings } :=
    ⟨(ring_setRing ..).trans (if_pos rfl), fun m hm => (ring_setRing ..).trans (if_neg (Ne.symm hm)), rfl⟩
  subst hn
  simp only [State.ringCfg, Ring.configured, beq_iff_eq, List.isEmpty_iff]
  split_ifs
  · exact hset _
  · exact hset _
  · exact ⟨rfl, fun _ _ => rfl, rfl⟩
  · exact hset _

/-- Settles O53: a doorbell by whether its value fits, the enabling by what `Ring.configured` makes of the ring. -/
theorem doorbellsAndRingEnable : Obligations.DoorbellsAndRingEnable := by
  unfold Obligations.DoorbellsAndRingEnable
  refine ⟨fun s src n v hn => ⟨fun hfits => ?_, fun hbeyond => ?_⟩, fun s src n v hn => ⟨fun hposted => ?_, fun hbeyond => ?_⟩,
    fun s src v n hn => ?enable⟩
  · rw [exec_ktlDbWrite_of_lt hn, doorbell_of_fits hfits]
  · rw [exec_ktlDbWrite_of_lt hn, doorbell_of_beyond hbeyond]
  · rw [exec_ktlCdbWrite_of_lt hn, cdoorbell_of_posted hposted]
  · rw [exec_ktlCdbWrite_of_lt hn, cdoorbell_of_beyond hbeyond]
  case enable =>
    obtain ⟨hring, hother, hframe⟩ := ringCfg_leaves s src v hn
    have hexec : exec (.ktlRingEnable src v) s = .next ((s.ringCfg src v).emit (.regRsp src 0x50028 0 0)) := by
      rw [exec_ktlRingEnable, writeAccess_eq_emit src (respCode_mailbox s (by omega) (by omega) (by omega))]
    refine ⟨_, hexec, by rw [hframe]; rfl, hother, by rw [hframe]; rfl, fun hon => ?_, fun hoff hlow => ?_, fun hoff hhigh hidle => ?_,
      fun hoff hhigh hbusy => ?_⟩ <;> refine hring.trans ?_
    · rw [Ring.configured, if_pos hon]
    · rw [Ring.configured, if_neg (by simp [hoff]), if_neg (by omega)]
    · rw [Ring.configured, if_neg (by simp [hoff]), if_pos hhigh, if_pos hidle]
    · rw [Ring.configured, if_neg (by simp [hoff]), if_pos hhigh, if_neg hbusy]

end Sys2Proof.Machine
end

section
/-! The defect list, the partition map and the first write of HUB_JRNL_BASE (R286, R305, R492, R494). -/

namespace Sys2Proof.Machine

theorem exec_defectListRewrite (ok : Bool) (s : State) : exec (.defectListRewrite ok) s =
    .next (if s.bring.rewrite && s.kettle.staging.isNone then s.listWritten ok else s) := rfl
theorem exec_hubDefectCtrlAdd (src : Src) (s : State) : exec (.hubDefectCtrlAdd src) s =
    .next (s.writeAccess src Reg.hubDefectCtrl (fun q => q.addDefect src)) := rfl
theorem exec_hubDefectCtrlClear (src : Src) (s : State) : exec (.hubDefectCtrlClear src) s =
    .next (s.writeAccess src Reg.hubDefectCtrl (fun q => q.clearDefect src)) := rfl
theorem exec_hubPartMapWrite (src : Src) (hi : Bool) (v : Nat) (s : State) : exec (.hubPartMapWrite src hi v) s =
    .next (s.writeAccess src (if hi then Reg.hubPartMapHi else Reg.hubPartMapLo) (fun q => q.partWrite hi (v % 2 ^ 32))) := rfl
theorem exec_hubJrnlBaseWrite (src : Src) (v : Nat) (s : State) : exec (.hubJrnlBaseWrite src v) s =
    .next (s.writeAccess src Reg.hubJrnlBase (fun q => q.jrnlBase v)) := rfl

/-- The hub's registers answer every aligned access. -/
theorem respCode_hub (s : State) {a : Nat} (halign : a % 4 = 0) (hlt : a < 0x6000) : s.respCode a = 0 := by
  have hextent : inExtent a = true := by
    simp only [inExtent, hlt, decide_true, Bool.true_or]
  rw [State.respCode, if_neg (not_not.2 halign), if_neg (by omega), if_neg (by omega), if_pos hextent]

/-! ### The defect list (R492) -/

theorem defect_setDefect (s : State) (p : Nat) (d : Defect) : (s.setDefect p d).defect p = d :=
  (tab_get_set ..).trans (if_pos rfl)

theorem defect_setOrigin (s : State) (p origin : Nat) : (s.setOrigin p origin).defect p = { s.defect p with origin := origin } :=
  (tab_get_set ..).trans (if_pos rfl)

/-- ADD gives the tile ORIGIN 3 and a host's cause, and asks for a rewrite of the list. -/
theorem addDefect_leaves (s : State) (src : Src) :
    ((s.addDefect src).defect (s.banked src .defectSel % 128)).origin = 3 ∧
      ((s.addDefect src).defect (s.banked src .defectSel % 128)).cause = 0x13 ∧
      s.addDefect src = { s with bring := (s.addDefect src).bring } := by
  have hdefect := defect_setOrigin (s.setDefect (s.banked src .defectSel % 128) { s.defect (s.banked src .defectSel % 128) with cause := 0x13 })
    (s.banked src .defectSel % 128) 3
  rw [defect_setDefect] at hdefect
  exact ⟨congrArg Defect.origin hdefect, congrArg Defect.cause hdefect, rfl⟩

/-! ### The partition map (R494) -/

theorem partWrite_eq (s : State) (hi : Bool) (v : Nat) : s.partWrite hi v =
    if s.bring.stage = 8 ∧ s.partBlocked hi v = false then s.setReg (if hi then Reg.hubPartMapHi else Reg.hubPartMapLo) v else s := by
  have hignored : (s.bring.stage != 8 || s.partBlocked hi v) = true ↔ ¬ (s.bring.stage = 8 ∧ s.partBlocked hi v = false) := by
    rw [Bool.or_eq_true, bne_iff_ne, not_and_or, Bool.not_eq_false]
  exact (if_congr hignored rfl rfl).trans (ite_not ..)

theorem setReg_mod (s : State) (a v : Nat) : s.setReg a (v % 2 ^ 32) = s.setReg a v := by
  rw [State.setReg, Nat.mod_mod, State.setReg]

/-! ### The journal area (R286, R305) -/

theorem copyJournal_of_empty {s : State} (h : s.journal = []) : s.copyJournal = s := by
  rw [State.copyJournal, h]
  exact ite_self _

/-- The journal area is set, and the copy is to start with the oldest entry on chip. -/
def State.areaSet (s : State) (v : Nat) : State :=
  { s.setReg Reg.hubJrnlBase v with
    rwl := s.rwl ++ [Reg.hubJrnlBase], jcopied := ((s.journal.head?).map (fun e => e.jseq)).getD s.jseq }

/-- No refusal of boot waits for its entry. -/
def State.refusalsTaken (s : State) : State := { s with kettle := { s.kettle with refusals := [] } }

theorem journalRefusals_nil (s : State) : s.journalRefusals [] = s := rfl

/-- With no entry on chip to copy and no refusal of boot to journal, the first write sets the area alone. -/
theorem jrnlBase_of_first {s : State} (hmem : s.memOn = false) (hjournal : s.journal = []) (hrefusals : s.kettle.refusals = []) (v : Nat) :
    s.jrnlBase v = (s.areaSet v).refusalsTaken := by
  have hcopy : (s.areaSet v).copyJournal = s.areaSet v := copyJournal_of_empty hjournal
  have hnone : (s.areaSet v).kettle.refusals = [] := hrefusals
  have hfirst : s.jrnlBase v = (s.areaSet v).copyJournal.refusalsTaken.journalRefusals (s.areaSet v).copyJournal.kettle.refusals :=
    if_neg (by simp [hmem])
  rw [hfirst, hcopy, hnone, journalRefusals_nil]

/-- Settles O10: each command by what its write leaves. -/
theorem defectsPartitionsJournalArea : Obligations.DefectsPartitionsJournalArea := by
  unfold Obligations.DefectsPartitionsJournalArea
  refine ⟨fun s hasked hidle => ?rewrite, fun src s => ?add, fun src s => ?clear, fun src hi v s => ?part, fun src v s hmem => ?later,
    fun src v s hmem hjournal hrefusals => ?first⟩
  case rewrite =>
    rw [exec_defectListRewrite, hasked, hidle]
    rfl
  case add =>
    obtain ⟨horigin, hcause, hframe⟩ := addDefect_leaves s src
    rw [exec_hubDefectCtrlAdd, writeAccess_eq_emit src (respCode_hub s (by decide) (by decide))]
    exact ⟨_, rfl, horigin, hcause, rfl, by rw [hframe]; rfl⟩
  case clear =>
    rw [exec_hubDefectCtrlClear, writeAccess_eq_emit src (respCode_hub s (by decide) (by decide))]
    exact ⟨_, rfl, congrArg Defect.origin (defect_setOrigin ..), rfl, rfl⟩
  case part =>
    rw [exec_hubPartMapWrite, writeAccess_eq_emit src (respCode_hub s (by cases hi <;> decide) (by cases hi <;> decide)), partWrite_eq, setReg_mod]
  case later =>
    rw [exec_hubJrnlBaseWrite, writeAccess_eq_emit src (respCode_hub s (by decide) (by decide)), State.jrnlBase, if_pos hmem]
  case first =>
    have hon : (s.rwl ++ [Reg.hubJrnlBase]).contains Reg.hubJrnlBase = true := by simp
    rw [exec_hubJrnlBaseWrite, writeAccess_eq_emit src (respCode_hub s (by decide) (by decide)), jrnlBase_of_first hmem hjournal hrefusals]
    exact ⟨_, rfl, hon, (reg_setReg s ..).trans (if_pos rfl), fun a ha => (reg_setReg s ..).trans (if_neg (Ne.symm ha)), rfl,
      by rw [State.areaSet, hjournal]; rfl, rfl⟩

end Sys2Proof.Machine
end

section
/-! Reports of bring-up, firmware slots, and the image that runs (R294, R295, R483, R495). -/

namespace Sys2Proof.Machine

/-! ### Reports (R483, R495) -/

/-- The 32 bytes of a report. -/
theorem log_report {s : State} (h : s.bring.log.length < 16) (r f : Nat) (d : Bytes) : (s.report r f d).bring.log = s.bring.log ++
    [toLe 1 s.bring.stage ++ toLe 1 r ++ toLe 2 f ++ zeros 4 ++ toLe 8 s.time ++ slice (d ++ zeros 16) 0 16] := if_pos h

theorem stagePass_frame (s : State) (f : Nat) (d : Bytes) : s.stagePass f d = { s with bring := (s.stagePass f d).bring } := rfl

/-! ### Firmware slots -/

theorem setFwSlot_frame (s : State) (k : Nat) (v : FwSlot) :
    ∃ a b, s.setFwSlot k v = { s with kettle := { s.kettle with slotA := a, slotB := b } } := by
  unfold State.setFwSlot
  split_ifs
  · exact ⟨v, s.kettle.slotB, rfl⟩
  · exact ⟨s.kettle.slotA, v, rfl⟩

theorem fwSlot_setFwSlot (s : State) {k j : Nat} (hk : k ≤ 1) (hj : j ≤ 1) (v : FwSlot) :
    (s.setFwSlot k v).fwSlot j = if k = j then v else s.fwSlot j := by
  obtain rfl | rfl : k = 0 ∨ k = 1 := by omega
  all_goals obtain rfl | rfl : j = 0 ∨ j = 1 := by omega
  all_goals rfl

/-! ### The image that runs -/

/-- The Kettle with an image that has been loaded at a time: its version and key, and the four cores started. -/
def Kettle.booted (k : Kettle) (img : Bytes) (stage now : Nat) : Kettle :=
  { k with
    fwMajor := leAt img 7 1, fwMinor := leAt img 6 1, fwBuild := leAt img 8 2, pub := slice img 0x40 96, bootStage := stage
    cores := k.cores.map (fun c => { c with running := true, restarting := false, held := false, upAt := now, halts := [] }) }

theorem up_of_mem_booted {k : Kettle} {img : Bytes} {stage now : Nat} {c : Core} (h : c ∈ (k.booted img stage now).cores) :
    c.running = true ∧ c.held = false ∧ c.restarting = false := by
  obtain ⟨_, _, rfl⟩ := List.mem_map.1 h
  exact ⟨rfl, rfl, rfl⟩

/-- The state with an image loaded. -/
def State.booted (s : State) (img : Bytes) (stage : Nat) : State := { s with kettle := s.kettle.booted img stage s.time }

/-- In stage 0x2 the image that runs ends the stage. -/
theorem bootImage_leaves {s : State} (h : s.bring.stage = 2) (img : Bytes) (stage : Nat) :
    (s.bootImage img stage).kettle = s.kettle.booted img stage s.time ∧ (s.bootImage img stage).bring.stage = 3 ∧
      s.bootImage img stage = { s with bring := (s.bootImage img stage).bring, kettle := (s.bootImage img stage).kettle } := by
  have hboot : s.bootImage img stage = (s.booted img stage).stagePass 0 (s.booted img stage).fwDetail := if_pos h
  rw [hboot]
  generalize (s.booted img stage).fwDetail = d
  exact ⟨rfl, congrArg (· + 1) h, rfl⟩

/-- A refusal other than VERSION_MISMATCH is counted alone. -/
theorem fwRefused_of_other {st : Nat} (h : st ≠ stVersionMismatch) (s : State) : s.fwRefused st = s.count Reg.ktlCntRefused := if_neg h

end Sys2Proof.Machine
end


section
/-! Stages 0x1 to 0x4 of bring-up (R293 to R295, R483, R491, R496). -/

namespace Sys2Proof.Machine

theorem exec_bringRomStageDone (romOk memOk : Bool) (sfdp : Option Sfdp) (a b : Bytes) (s : State) :
    exec (.bringRomStageDone romOk memOk sfdp a b) s = execBringRomStageDone romOk memOk sfdp a b s := rfl
theorem exec_firmwareImageVerified (a b img : Bytes) (s : State) :
    exec (.firmwareImageVerified a b img) s = execFirmwareImageVerified a b img s := rfl
theorem exec_flashReadTimeout (s : State) : exec .flashReadTimeout s = execFlashReadTimeout s := rfl
theorem exec_bringBlockStageDone (ok : Nat) (tablesOk : Bool) (corrected : Nat) (s : State) :
    exec (.bringBlockStageDone ok tablesOk corrected) s = execBringBlockStageDone ok tablesOk corrected s := rfl
theorem exec_go (src : Src) (s : State) : exec (.go src) s = .next (s.writeAccess src Reg.hubBringCtrl State.go) := rfl

/-! ### Stage 0x1 (R293, R491) -/

/-- The defect list in use is taken. -/
theorem readList_of_copy {s : State} {a b l : Bytes} (h : chooseCopy 0x210 4 a b = some l) : s.readList a b =
    { s with bring := { s.bring with seq := leAt l 4 4, boots := leAt l 8 4, defects := defectsOf l, written := defectsOf l } } := by
  rw [State.readList, h]

theorem readSfdp_of_signature {t : Sfdp} (h : t.signature = 0x50444653) (s : State) :
    s.readSfdp (some t) = { s with kettle := { s.kettle with flash := t.config, bootStage := 1 } } := if_pos h

/-- Stage 0x1 ends with everything in order. -/
theorem exec_bringRomStageDone_of_good {s : State} (hstage : s.bring.stage = 1) (hlive : s.bring.failed = false) (hdone : s.fuse.done = true)
    (hread : s.fuse.failed = false) (hcheck : s.bring.resetCheck = some true) (htime : s.time ≤ 2000000) (sfdp : Option Sfdp) (a b : Bytes) :
    exec (.bringRomStageDone true true sfdp a b) s = .next (((s.stagePass 0 (toLe 16 s.fuseBadMap)).readList a b).readSfdp sfdp) := by
  have hwithin : s.time ≤ msT 20 := htime
  rw [exec_bringRomStageDone, execBringRomStageDone, if_neg (by simp [hstage, hlive, hdone, hcheck]), hread, hcheck]
  exact congrArg Host.Outcome.next (if_pos (by simp [hwithin]))

/-! ### Stage 0x2 (R294, R295) -/

theorem bootVerifying_iff (s : State) : s.bootVerifying = true ↔ s.bring.stage = 2 ∧ s.kettle.bootStage = 2 := by
  rw [State.bootVerifying, Bool.and_eq_true, beq_iff_eq, beq_iff_eq]

theorem bootReading_of_verifying {s : State} (h : s.bootVerifying = true) : s.bootReading = false := by
  rw [State.bootReading, ((bootVerifying_iff s).1 h).2]
  exact Bool.and_false _

/-- The directory in use names the slot that is verified first. -/
theorem readDir_of_copy {a b x : Bytes} (h : chooseCopy 0x3C 0x14 a b = some x) (s : State) : s.readDir a b =
    { s with kettle := { s.kettle with
      dirA := a, dirB := b, dirActive := leAt x 4 1 % 2, verifying := leAt x 4 1 % 2, slotSize := leAt x 0x10 4, bootStage := 2 } } := by
  rw [State.readDir, h]

theorem stage_of_bootReading {s : State} (h : s.bootReading = true) : s.bring.stage = 2 := by
  rw [State.bootReading, Bool.and_eq_true, beq_iff_eq] at h
  exact h.1

theorem exec_firmwareImageVerified_of_verifying {s : State} (h : s.bootVerifying = true) (a b img : Bytes) :
    exec (.firmwareImageVerified a b img) s = .next (s.imageVerified img) := by
  rw [exec_firmwareImageVerified, execFirmwareImageVerified, bootReading_of_verifying h]
  exact congrArg Host.Outcome.next (if_pos h)

theorem exec_firmwareImageVerified_of_reading {s : State} {a b : Bytes} (hread : s.bootReading = true) (h : (s.readDir a b).bootVerifying = true)
    (img : Bytes) : exec (.firmwareImageVerified a b img) s = .next ((s.readDir a b).imageVerified img) := by
  rw [exec_firmwareImageVerified, execFirmwareImageVerified, hread]
  exact congrArg Host.Outcome.next (if_pos h)

/-- The slot under verification holds the image and is the one that runs. -/
def State.slotTaken (s : State) (img : Bytes) : State :=
  let s1 := (s.setFwSlot s.kettle.verifying { s.fwSlot s.kettle.verifying with image := some img }).slotStatus s.kettle.verifying stOk
  { s1 with kettle := { s1.kettle with slot := s.kettle.verifying } }

theorem slotTaken_frame (s : State) (img : Bytes) :
    ∃ a b, s.slotTaken img = { s with kettle := { s.kettle with slotA := a, slotB := b, slot := s.kettle.verifying } } := by
  obtain ⟨a, b, himage⟩ := setFwSlot_frame s s.kettle.verifying { s.fwSlot s.kettle.verifying with image := some img }
  rw [State.slotTaken, himage, State.slotStatus]
  generalize ({ s with kettle := { s.kettle with slotA := a, slotB := b } } : State).fwSlot s.kettle.verifying = w
  obtain ⟨c, d, hstatus⟩ := setFwSlot_frame { s with kettle := { s.kettle with slotA := a, slotB := b } } s.kettle.verifying { w with status := stOk }
  rw [hstatus]
  exact ⟨c, d, rfl⟩

/-- An accepted image runs. -/
theorem imageVerified_of_ok {s : State} {img : Bytes} (h : s.checkFw img = stOk) : s.imageVerified img = (s.slotTaken img).bootImage img 3 := if_pos h

/-- What an accepted image leaves, from a state in which its slot is under verification. -/
theorem imageVerified_leaves {s : State} {img : Bytes} (hstage : s.bring.stage = 2) (h : s.checkFw img = stOk) :
    (∃ a b, (s.imageVerified img).kettle =
      ({ s.kettle with slotA := a, slotB := b, slot := s.kettle.verifying } : Kettle).booted img 3 s.time) ∧
      (s.imageVerified img).bring.stage = 3 ∧
      s.imageVerified img = { s with bring := (s.imageVerified img).bring, kettle := (s.imageVerified img).kettle } := by
  obtain ⟨a, b, htaken⟩ := slotTaken_frame s img
  obtain ⟨hkettle, hthree, hframe⟩ := bootImage_leaves (s := s.slotTaken img) (by rw [htaken, hstage]) img 3
  rw [imageVerified_of_ok h]
  generalize (s.slotTaken img).bootImage img 3 = t at hkettle hthree hframe
  rw [htaken] at hkettle hframe
  exact ⟨⟨a, b, hkettle⟩, hthree, hframe⟩

/-- The first slot is refused: the other one is verified next. -/
theorem slotRefused_of_first {s : State} {st : Nat} (hfirst : s.kettle.verifying = s.kettle.dirActive) (hst : st ≠ stVersionMismatch) :
    s.slotRefused st = { (s.slotStatus s.kettle.verifying st).count Reg.ktlCntRefused with
      kettle := { (s.slotStatus s.kettle.verifying st).kettle with verifying := 1 - s.kettle.verifying } } := by
  obtain ⟨a, b, hslot⟩ := setFwSlot_frame s s.kettle.verifying { s.fwSlot s.kettle.verifying with status := st }
  have hactive : s.kettle.verifying = ((s.slotStatus s.kettle.verifying st).count Reg.ktlCntRefused).kettle.dirActive := by
    rw [State.slotStatus, hslot]
    exact hfirst
  rw [State.slotRefused, fwRefused_of_other hst]
  dsimp only
  rw [if_pos hst, if_pos hactive]
  rfl

/-! ### Stage 0x3 (R483) -/

theorem fenceBad_of_good {ok : Nat} {ls : List Nat} (h : ∀ l ∈ ls, bitAt ok l ≠ 0) (s : State) : s.fenceBad ok ls = s := by
  induction ls generalizing s with
  | nil => rfl
  | cons l ls ih =>
    rw [State.fenceBad, if_neg (h l List.mem_cons_self)]
    exact ih (fun m hm => h m (List.mem_cons_of_mem _ hm)) s

theorem drawSeed_frame (s : State) : ∃ f v, (s.bring.seedWritten = true → v = s.seed) ∧ s.drawSeed = { s with free := f, seed := v } := by
  unfold State.drawSeed
  split_ifs with hwritten
  · exact ⟨s.free, s.seed, fun _ => rfl, rfl⟩
  · exact ⟨_, _, fun h => absurd h hwritten, rfl⟩

/-- Stage 0x3 ends with every lane and table in order. -/
theorem exec_bringBlockStageDone_of_good {s : State} (hstage : s.bring.stage = 3) (hlive : s.bring.failed = false) (hup : s.coreUp 0 = true)
    (htime : s.time ≤ s.bring.started + 5000000) : exec (.bringBlockStageDone 15 true 0) s =
      .next (({ s.drawKey.drawSeed with bring := { s.drawKey.drawSeed.bring with signingKey := true } } : State).stagePass 0 (toLe 4 0)) := by
  have hwithin : s.time ≤ s.bring.started + msT 50 := htime
  have hlanes : (s.drawKey.drawSeed.tableFaults true 0).fenceBad 15 (List.range 4) = s.drawKey.drawSeed := fenceBad_of_good (by decide) _
  rw [exec_bringBlockStageDone, execBringBlockStageDone, if_neg (by simp [hstage, hlive, hup])]
  dsimp only
  rw [hlanes, if_pos ⟨by decide, rfl, hwithin⟩]

/-! ### Stage 0x4 (R496) -/

theorem go_of_stage {s : State} (h : s.bring.stage = 4) : s.go = (s.stagePass 0 (toLe 8 s.expBlk)).topology := if_pos h

/-- Settles O8: each stage's end by its lemma above and what `stagePass` leaves. -/
theorem earlyBringUpStages : Obligations.EarlyBringUpStages := by
  unfold Obligations.EarlyBringUpStages
  refine ⟨fun s r f d hroom => ⟨log_report hroom r f d, rfl, rfl, rfl, stagePass_frame s f d, rfl⟩, ?rom, ?image, ?silentSlot, ?silent, ?block, ?go⟩
  case rom =>
    intro s tb a b l hstage hlive hdone hread hcheck htime hsign hlist
    rw [exec_bringRomStageDone_of_good hstage hlive hdone hread hcheck htime, readList_of_copy hlist, readSfdp_of_signature hsign]
    exact ⟨_, rfl, congrArg (· + 1) hstage, rfl, rfl, rfl, rfl, rfl, rfl, rfl⟩
  case image =>
    intro s u dirA dirB img hu hok
    obtain ⟨hstage, hexec, k, rfl⟩ : u.bring.stage = 2 ∧ exec (.firmwareImageVerified dirA dirB img) s = .next (u.imageVerified img) ∧
        ∃ k, u = { s with kettle := k } := by
      rcases hu with ⟨hverify, rfl⟩ | ⟨x, hread, hdir, hu⟩
      · exact ⟨((bootVerifying_iff _).1 hverify).1, exec_firmwareImageVerified_of_verifying hverify .., _, rfl⟩
      · have hdirRead : u = s.readDir dirA dirB := hu.trans (readDir_of_copy hdir s).symm
        have hbring : u.bring = s.bring := by rw [hu]
        have hstage : u.bring.stage = 2 := by rw [hbring, stage_of_bootReading hread]
        have hverify : u.bootVerifying = true := (bootVerifying_iff u).2 ⟨hstage, by rw [hu]⟩
        refine ⟨hstage, ?_, _, hu⟩
        rw [hdirRead] at hverify ⊢
        exact exec_firmwareImageVerified_of_reading hread hverify img
    obtain ⟨⟨a, b, hkettle⟩, hthree, hframe⟩ := imageVerified_leaves hstage hok
    rw [hexec]
    generalize State.imageVerified _ img = t at hkettle hthree hframe ⊢
    refine ⟨t, rfl, (congrArg Kettle.slot hkettle :), (congrArg Kettle.bootStage hkettle :), (congrArg Kettle.fwMajor hkettle :),
      (congrArg Kettle.fwMinor hkettle :), (congrArg Kettle.fwBuild hkettle :), (congrArg Kettle.pub hkettle :), fun c hc => ?_,
      (congrArg Kettle.dirActive hkettle :), hthree, hframe⟩
    rw [hkettle] at hc
    exact up_of_mem_booted hc
  case silentSlot =>
    intro s hverify hfirst hle
    have hst : stTimeout ≠ stVersionMismatch := by decide
    have hexec : exec .flashReadTimeout s = .next (s.slotRefused stTimeout) := by
      rw [exec_flashReadTimeout, execFlashReadTimeout, bootReading_of_verifying hverify, hverify]
      rfl
    have hslot := fwSlot_setFwSlot s hle hle { s.fwSlot s.kettle.dirActive with status := stTimeout }
    rw [if_pos rfl] at hslot
    obtain ⟨a, b, hframe⟩ := setFwSlot_frame s s.kettle.dirActive { s.fwSlot s.kettle.dirActive with status := stTimeout }
    rw [hframe] at hslot
    rw [hexec, slotRefused_of_first hfirst hst, hfirst, State.slotStatus, hframe]
    exact ⟨_, rfl, rfl, congrArg FwSlot.status hslot, ((bootVerifying_iff s).1 hverify).2, (reg_count s ..).trans (if_pos rfl),
      fun a ha => (reg_count s ..).trans (if_neg (Ne.symm ha)), rfl⟩
  case silent =>
    intro s hverify hread
    rw [exec_flashReadTimeout, execFlashReadTimeout, hread, hverify]
    rfl
  case block =>
    intro s hstage hlive hup htime
    obtain ⟨f, v, hseed, hdraw⟩ := drawSeed_frame s.drawKey
    rw [exec_bringBlockStageDone_of_good hstage hlive hup htime, hdraw]
    exact ⟨_, rfl, congrArg (· + 1) hstage, rfl, rfl, rfl, hseed, rfl⟩
  case go =>
    intro src s hstage
    refine ⟨_, _, ?_, rfl, congrArg (· + 1) hstage, rfl⟩
    rw [exec_go, writeAccess_eq_emit src (respCode_hub s (by decide) (by decide)), go_of_stage hstage]

end Sys2Proof.Machine
end

section
/-! The staging of firmware, and the run of a staged image (R296 to R298, R304). -/

namespace Sys2Proof.Machine

theorem exec_ktlStageGoStage (src : Src) (s : State) : exec (.ktlStageGoStage src) s = .next (s.writeAccess src Reg.ktlStageGo State.goStage) := rfl
theorem exec_ktlStageGoRun (src : Src) (s : State) : exec (.ktlStageGoRun src) s = .next (s.writeAccess src Reg.ktlStageGo State.goRun) := rfl
theorem exec_stageFirmware (i : Issue) (s : State) : exec (.stageFirmware i) s = .next (s.ringOwn 0x85 i State.stageEntry) := rfl
theorem exec_stagingDone (b : Option Bytes) (s : State) : exec (.stagingDone b) s = execStagingDone b s := rfl

/-! ### The start of a staging (R298, R304) -/

/-- A staging in progress, before its first read. -/
def State.stagingOf (s : State) (g : Staging) : State := { s with kettle := { s.kettle with staging := some g } }

theorem startStaging_of_idle {s : State} (hidle : s.kettle.act = .idle) (hfree : s.kettle.staging = none) (g : Staging) :
    s.startStaging g = ((s.stagingOf g).request .read g.blk 0 64 .firmware, stOk) := by
  rw [State.startStaging, if_neg (not_not.2 hidle), hfree]
  rfl

theorem startStaging_of_activating {s : State} (h : s.kettle.act ≠ .idle) (g : Staging) : s.startStaging g = (s, stIllegalState) := if_pos h

/-- What the first read of a staging leaves. -/
theorem request_stagingOf_leaves (s : State) (g : Staging) :
    ∃ r p0 p1, (s.stagingOf g).request .read g.blk 0 64 .firmware =
      { s with kettle := { s.kettle with staging := some g }, regs := r, port0 := p0, port1 := p1 } :=
  request_frame_of_own (s.stagingOf g) .read g.blk 0 64 (acc := .firmware) rfl

theorem goStage_of_idle {s : State} (hfree : s.kettle.staging = none) (hidle : s.kettle.act = .idle) (hup : s.coreUp 0 = true) :
    s.goStage = (s.stagingOf { blk := s.stageBlk, len := s.stageLen }).request .read s.stageBlk 0 64 .firmware := by
  rw [State.goStage, hfree, State.stageImage, hup, startStaging_of_idle hidle hfree]
  rfl

theorem goStage_of_staging {s : State} (h : s.kettle.staging ≠ none) : s.goStage = s.setStageLast stBusy := if_pos (Option.isSome_iff_ne_none.2 h)
theorem goRun_of_staging {s : State} (h : s.kettle.staging ≠ none) : s.goRun = s.setStageLast stBusy := if_pos (Option.isSome_iff_ne_none.2 h)
theorem goRun_of_free {s : State} (h : s.kettle.staging = none) : s.goRun = s.runImage := if_neg (by simp [h])

theorem stageEntry_of_free {s : State} (hfree : s.kettle.staging = none) (n : Nat) (x : Taken) : s.stageEntry n x =
    let q := s.startStaging { blk := x.e.a0, len := x.e.a1, rewrite := x.e.a2 % 2 == 1, ring := some (n, x.index) }
    if q.2 = stOk then q.1 else q.1.finishRecord n x q.2 0 := if_neg (by simp [hfree])

/-! ### RUN (R296) -/

/-- RUN is ignored where boot has not stopped in stage 0x2 and Kettle 0 is not held. -/
theorem runImage_of_illegal {s : State} (hboot : s.bring.stage ≠ 2 ∨ s.kettle.bootStage ≠ 4) (hheld : (s.core 0).held = false) : s.runImage = s := by
  have hstopped : (s.bring.stage == 2 && s.kettle.bootStage == 4) = false := by
    rw [Bool.and_eq_false_iff, beq_eq_false_iff_ne, beq_eq_false_iff_ne]
    exact hboot
  rw [State.runImage, hstopped, hheld]
  rfl

/-- The state in which the image that the registers name is read. -/
def State.imageAsked (s : State) : State := s.request .read s.stageBlk 0 64 .firmware

theorem imageAsked_frame (s : State) : ∃ r p0 p1, s.imageAsked = { s with regs := r, port0 := p0, port1 := p1 } :=
  request_frame_of_own s .read s.stageBlk 0 64 (acc := .firmware) rfl

/-- The image is the one in memory, where the registers say. -/
theorem bytes_imageAsked (s : State) : s.imageAsked.bytes (s.imageAsked.stageBlk * 4096) s.imageAsked.stageLen =
    s.bytes (s.reg Reg.ktlStageBlk * 64 * 4096) (s.reg Reg.ktlStageLen % 2 ^ 23) := by
  have hblk : s.imageAsked.stageBlk = s.reg Reg.ktlStageBlk * 64 := congrArg (· * 64) (reg_request_of_ne s _ _ _ _ _ (by decide))
  have hlen : s.imageAsked.stageLen = s.reg Reg.ktlStageLen % 2 ^ 23 := congrArg (· % 2 ^ 23) (reg_request_of_ne s _ _ _ _ _ (by decide))
  obtain ⟨r, p0, p1, hframe⟩ := imageAsked_frame s
  rw [hblk, hlen, hframe]
  rfl

theorem checkFw_imageAsked (s : State) (img : Bytes) : s.imageAsked.checkFw img = s.checkFw img := by
  obtain ⟨r, p0, p1, hframe⟩ := imageAsked_frame s
  rw [hframe]
  rfl

/-- An image that R295 accepts runs, and Kettle 0 settles its entries. -/
theorem runImage_of_ok {s : State} {img : Bytes} (hstage : s.bring.stage = 2) (hboot : s.kettle.bootStage = 4)
    (himg : img = s.bytes (s.reg Reg.ktlStageBlk * 64 * 4096) (s.reg Reg.ktlStageLen % 2 ^ 23)) (hok : s.checkFw img = stOk) :
    s.runImage = ((s.imageAsked.setStageLast stOk).bootImage img 5).settleRings (List.range 16) := by
  have hread : s.imageAsked.bytes (s.imageAsked.stageBlk * 4096) s.imageAsked.stageLen = img := (bytes_imageAsked s).trans himg.symm
  have hcheck : s.imageAsked.checkFw img = stOk := (checkFw_imageAsked s img).trans hok
  have hrun : s.runImage =
      let img' := s.imageAsked.bytes (s.imageAsked.stageBlk * 4096) s.imageAsked.stageLen
      if s.imageAsked.checkFw img' ≠ stOk then
        let s2 := (s.imageAsked.setStageLast (s.imageAsked.checkFw img')).fwRefused (s.imageAsked.checkFw img')
        if s.imageAsked.checkFw img' = stVersionMismatch then s2.journalRefusal 2 else s2
      else ((s.imageAsked.setStageLast (s.imageAsked.checkFw img')).bootImage img' 5).settleRings (List.range 16) :=
    if_neg (by simp [hstage, hboot])
  rw [hrun, hread]
  dsimp only
  rw [hcheck, if_neg (not_not.2 rfl)]

theorem settleRings_of_empty {s : State} (h : ∀ n, (s.ring n).taken = []) (ns : List Nat) : s.settleRings ns = s := by
  induction ns with
  | nil => rfl
  | cons n ns ih =>
    rw [State.settleRings, h]
    exact ih

/-- What RUN leaves: the image's version, the cores started, and stage 0x2 passed; the slots are as they were. -/
theorem runImage_leaves {s : State} {img : Bytes} (hstage : s.bring.stage = 2) (hboot : s.kettle.bootStage = 4)
    (himg : img = s.bytes (s.reg Reg.ktlStageBlk * 64 * 4096) (s.reg Reg.ktlStageLen % 2 ^ 23)) (hok : s.checkFw img = stOk)
    (hrings : ∀ n, (s.ring n).taken = []) :
    s.runImage.kettle = ({ s.kettle with stageLast := stOk } : Kettle).booted img 5 s.time ∧ s.runImage.bring.stage = 3 := by
  rw [runImage_of_ok hstage hboot himg hok]
  obtain ⟨r, p0, p1, hasked⟩ := imageAsked_frame s
  generalize s.imageAsked = u at hasked ⊢
  subst hasked
  obtain ⟨hkettle, hthree, hframe⟩ := bootImage_leaves (s := ({ s with regs := r, port0 := p0, port1 := p1 } : State).setStageLast stOk) hstage img 5
  generalize State.bootImage _ img 5 = t at hkettle hthree hframe ⊢
  have hsame : t.rings = s.rings := (congrArg State.rings hframe :)
  have hempty (n : Nat) : (t.ring n).taken = [] := by
    rw [State.ring, hsame]
    exact hrings n
  rw [settleRings_of_empty hempty]
  exact ⟨hkettle, hthree⟩

/-! ### The end of a staging (R298) -/

theorem rewriteDir_frame (s : State) (k : Nat) :
    ∃ a b, s.rewriteDir k = { s with kettle := { s.kettle with dirA := a, dirB := b, dirActive := k } } := by
  unfold State.rewriteDir
  dsimp only
  split_ifs
  · exact ⟨_, s.kettle.dirB, rfl⟩
  · exact ⟨s.kettle.dirA, _, rfl⟩

/-- A staging that the registers asked for ends: its reads leave the ports, and LAST holds its status. -/
theorem endStaging_leaves {g : Staging} {st : Nat} (hring : g.ring = none) (hst : st ≠ stVersionMismatch) (s : State) :
    (s.endStaging g st).kettle = { s.kettle with staging := none, stageLast := st } ∧
      (∀ a, a ∉ [Reg.hubCntCflPass, Reg.hubCntCflDrop, Reg.hubCntCflLate] → (s.endStaging g st).reg a = s.reg a) ∧
      s.endStaging g st = { s with
        kettle := (s.endStaging g st).kettle, port0 := (s.endStaging g st).port0, port1 := (s.endStaging g st).port1
        regs := (s.endStaging g st).regs, cfl := (s.endStaging g st).cfl, teardowns := (s.endStaging g st).teardowns } := by
  have hend : s.endStaging g st = { s.retire (fun a => a == .firmware) with kettle := { s.kettle with staging := none, stageLast := st } } := by
    rw [State.endStaging, hring]
    exact if_neg hst
  obtain ⟨⟨p0, p1, r, f, d, hretire⟩, hreg⟩ := retire_frame s (fun a => a == .firmware)
  rw [hend]
  refine ⟨rfl, hreg, ?_⟩
  rw [hretire]

/-- An image accepted in memory and as read back, in the slot that does not run. -/
def State.slotWritten (s : State) (g : Staging) (img : Bytes) : State :=
  let s1 := s.setFwSlot (1 - s.kettle.slot) { image := some img, status := stOk }
  if g.rewrite then s1.rewriteDir (1 - s.kettle.slot) else s1

theorem slotWritten_leaves {s : State} (hslot : s.kettle.slot ≤ 1) (g : Staging) (img : Bytes) :
    (s.slotWritten g img).fwSlot (1 - s.kettle.slot) = { image := some img, status := stOk } ∧
      (s.slotWritten g img).fwSlot s.kettle.slot = s.fwSlot s.kettle.slot ∧
      (s.slotWritten g img).kettle.dirActive = (if g.rewrite = true then 1 - s.kettle.slot else s.kettle.dirActive) ∧
      (s.slotWritten g img).kettle.slot = s.kettle.slot ∧
      s.slotWritten g img = { s with kettle := (s.slotWritten g img).kettle } := by
  have hnew := fwSlot_setFwSlot s (k := 1 - s.kettle.slot) (j := 1 - s.kettle.slot) (by omega) (by omega) { image := some img, status := stOk }
  have hold := fwSlot_setFwSlot s (k := 1 - s.kettle.slot) (j := s.kettle.slot) (by omega) hslot { image := some img, status := stOk }
  rw [if_pos rfl] at hnew
  rw [if_neg (by omega)] at hold
  obtain ⟨a, b, hset⟩ := setFwSlot_frame s (1 - s.kettle.slot) { image := some img, status := stOk }
  rw [hset] at hnew hold
  rw [State.slotWritten, hset]
  dsimp only
  split_ifs
  · obtain ⟨c, d, hdir⟩ := rewriteDir_frame { s with kettle := { s.kettle with slotA := a, slotB := b } } (1 - s.kettle.slot)
    rw [hdir]
    exact ⟨hnew, hold, rfl, rfl, rfl⟩
  · exact ⟨hnew, hold, rfl, rfl, rfl⟩

/-- The staging that ends, while the ports take its reads. -/
theorem exec_stagingDone_of_staging {s : State} {g : Staging} (hg : s.kettle.staging = some g) (hstall : s.bothStalled = false) (img : Bytes) :
    exec (.stagingDone (some img)) s = .next
      (if s.checkFw (s.bytes (g.blk * 4096) (min g.len 4194320)) ≠ stOk then
        (s.fwRefused (s.checkFw (s.bytes (g.blk * 4096) (min g.len 4194320)))).endStaging g (s.checkFw (s.bytes (g.blk * 4096) (min g.len 4194320)))
      else if s.checkFw img ≠ stOk then
        ((s.setFwSlot (1 - s.kettle.slot) { image := some img, status := s.checkFw img }).fwRefused (s.checkFw img)).endStaging g (s.checkFw img)
      else
        let s1 := s.setFwSlot (1 - s.kettle.slot) { image := some img, status := s.checkFw img }
        (if g.rewrite then s1.rewriteDir (1 - s.kettle.slot) else s1).endStaging g stOk) := by
  rw [exec_stagingDone, execStagingDone, hg]
  simp only [hstall, Bool.false_eq_true, if_false, Option.getD_some, Option.isNone_some, Nat.reduceAdd]

theorem exec_stagingDone_of_accepted {s : State} {g : Staging} {img : Bytes} (hg : s.kettle.staging = some g) (hstall : s.bothStalled = false)
    (hfirst : s.checkFw (s.bytes (g.blk * 4096) (min g.len 4194320)) = stOk) (hsecond : s.checkFw img = stOk) :
    exec (.stagingDone (some img)) s = .next ((s.slotWritten g img).endStaging g stOk) := by
  rw [exec_stagingDone_of_staging hg hstall, hfirst, hsecond]
  rfl

/-- Settles O52: the starts, RUN and the end of a staging by their lemmas above. -/
theorem firmwareStaging : Obligations.FirmwareStaging := by
  unfold Obligations.FirmwareStaging
  refine ⟨?start, ?busy, ?ignored, ?run, ?entry, ?done, ?none⟩
  case start =>
    intro s src hfree hidle hup
    obtain ⟨r, p0, p1, hreq⟩ := request_stagingOf_leaves s { blk := s.stageBlk, len := s.stageLen }
    rw [exec_ktlStageGoStage, writeAccess_eq_emit src (respCode_mailbox s (by decide) (by decide) (by decide)), goStage_of_idle hfree hidle hup, hreq]
    exact ⟨_, rfl, rfl, rfl⟩
  case busy =>
    intro s src hbusy
    rw [exec_ktlStageGoStage, exec_ktlStageGoRun, writeAccess_eq_emit src (respCode_mailbox s (by decide) (by decide) (by decide)),
      writeAccess_eq_emit src (respCode_mailbox s (by decide) (by decide) (by decide)), goStage_of_staging hbusy, goRun_of_staging hbusy]
    exact ⟨rfl, rfl⟩
  case ignored =>
    intro s src hfree ⟨hboot, hheld⟩
    rw [exec_ktlStageGoRun, writeAccess_eq_emit src (respCode_mailbox s (by decide) (by decide) (by decide)), goRun_of_free hfree,
      runImage_of_illegal hboot hheld]
  case run =>
    intro s src img hfree hstage hboot himg hok hrings
    obtain ⟨hkettle, hthree⟩ := runImage_leaves hstage hboot himg hok hrings
    rw [exec_ktlStageGoRun, writeAccess_eq_emit src (respCode_mailbox s (by decide) (by decide) (by decide)), goRun_of_free hfree]
    generalize s.runImage = t at hkettle hthree
    refine ⟨_, rfl, (congrArg Kettle.bootStage hkettle :), (congrArg Kettle.stageLast hkettle :), (congrArg Kettle.slot hkettle :),
      (congrArg Kettle.fwMajor hkettle :), fun c hc => ?_, hthree⟩
    rw [emit_kettle, hkettle] at hc
    exact up_of_mem_booted hc
  case entry =>
    intro s n index x htaken hup hhanded hserved hran hfinal hindex hkind hissued himm hfree
    have hissue : s.Issuable n index x := ⟨htaken, hup, hhanded, hserved, hran, hfinal, hindex, hissued, himm⟩
    rw [exec_stageFirmware, ringOwn_of_issuable hissue hkind, stageEntry_of_free hfree, hindex]
    refine ⟨fun hidle => ?_, fun hact => ?_⟩
    · obtain ⟨r, p0, p1, hreq⟩ := request_stagingOf_leaves s { blk := x.e.a0, len := x.e.a1, rewrite := x.e.a2 % 2 == 1, ring := some (n, index) }
      rw [startStaging_of_idle hidle hfree]
      dsimp only
      rw [if_pos rfl, hreq]
      exact ⟨_, rfl, rfl, rfl⟩
    · rw [startStaging_of_activating hact]
      exact congrArg Host.Outcome.next (if_neg (show ¬ stIllegalState = stOk by decide))
  case done =>
    intro s g img hg hring hstall hslot
    refine ⟨fun hfirst hsecond => ?_, fun st hfirst hst hother => ?_⟩
    · obtain ⟨hnew, hold, hactive, hsame, hwritten⟩ := slotWritten_leaves hslot g img
      obtain ⟨hkettle, -, hframe⟩ := endStaging_leaves hring (show stOk ≠ stVersionMismatch by decide) (s.slotWritten g img)
      rw [exec_stagingDone_of_accepted hg hstall hfirst hsecond]
      generalize (s.slotWritten g img).endStaging g stOk = t at hkettle hframe ⊢
      generalize s.slotWritten g img = u at hnew hold hactive hsame hwritten hkettle hframe
      have hfw (j : Nat) : t.fwSlot j = u.fwSlot j := by rw [State.fwSlot, hkettle, State.fwSlot]
      obtain ⟨k, rfl⟩ : ∃ k, u = { s with kettle := k } := ⟨_, hwritten⟩
      exact ⟨t, rfl, (congrArg Kettle.staging hkettle :), (congrArg Kettle.stageLast hkettle :), (hfw _).trans hnew, (hfw _).trans hold,
        (congrArg Kettle.dirActive hkettle).trans hactive, (congrArg Kettle.slot hkettle).trans hsame, hframe⟩
    · obtain ⟨hkettle, hreg, hframe⟩ := endStaging_leaves hring hother (s.count Reg.ktlCntRefused)
      rw [exec_stagingDone_of_staging hg hstall, hfirst, if_pos hst, fwRefused_of_other hother]
      generalize (s.count Reg.ktlCntRefused).endStaging g st = t at hkettle hreg hframe ⊢
      refine ⟨t, rfl, hkettle, (hreg _ (by decide)).trans ((reg_count ..).trans (if_pos rfl)), fun a ha => ?_, hframe⟩
      rw [List.mem_cons, not_or] at ha
      exact (hreg a ha.2).trans ((reg_count ..).trans (if_neg (Ne.symm ha.1)))
  case none =>
    intro s b hnone
    rw [exec_stagingDone, execStagingDone, hnone]

end Sys2Proof.Machine
end

section
/-! The commands that a composite command of Kettle 0 issues (R257, R267, R271, R281): RDREG, WRREG and ARBSTAT for a ring entry, and
what a run of them leaves. -/

namespace Sys2Proof.Machine

/-! ### A command of a composite -/

/-- The command that a composite command issues through the port. -/
def State.compositeCmdOf (s : State) (n : Nat) (x : Taken) (a imm : Nat) : Cmd :=
  { ctx := x.e.ctx, a := a, imm := imm, tk := s.nextTicket, src := .core 0, ring := some (n, x.index) }

/-- A query that no safe state refuses is answered by its sub-block, for whatever context (R257, R396, R484). -/
theorem decideCmd_of_unguarded_query {s : State} {sp : CmdSpec} {c : Cmd} (hquery : sp.query = true) (hsafe : sp.safe c = false) (hprog : c.prog = none)
    (hnarrow : sp.wide c = false) (hnow : ∀ st, (sp.body c s).2 ≠ .later st) : s.decideCmd sp c = sp.body c s := by
  have hfree : s.blocked sp c = false := by simp [State.blocked, hquery, hsafe]
  unfold State.decideCmd
  simp only [hprog, hquery, hnarrow, hfree, Option.isSome_none, Bool.and_false, Bool.not_true, Bool.false_and, Bool.false_eq_true, and_false, if_false]
  rcases hbody : sp.body c s with ⟨u, r⟩
  rw [hbody] at hnow
  cases r with
  | later st => exact absurd rfl (hnow st)
  | no st own => rfl
  | ok v => rfl
  | rec_ b => rfl

/-- An answer with a value or a record. -/
def Reply.done : Reply → Bool
  | .ok _ => true
  | .rec_ _ => true
  | _ => false

section
variable {s : State} {sp : CmdSpec} {n : Nat} {x : Taken} {a imm : Nat} (hrow : sp.row1 0 imm = false)
include hrow

/-- Past row 1 the port serves the command. -/
theorem compositeCmd_of_row1 : s.compositeCmd sp n x a imm =
    ((s.serve sp (s.compositeCmdOf n x a imm) (.ring n x.index x.e.cookie) (srcRing n) x.index x.e.cookie).1,
      (s.serve sp (s.compositeCmdOf n x a imm) (.ring n x.index x.e.cookie) (srcRing n) x.index x.e.cookie).2.1) := by
  unfold State.compositeCmd State.portCmd
  dsimp only
  rw [hrow]
  rfl

/-- A query that its sub-block answers is counted, and leaves no entry. -/
theorem compositeCmd_of_query (hquery : sp.query = true) (hsafe : ∀ c, sp.safe c = false) (hnarrow : sp.wide (s.compositeCmdOf n x a imm) = false)
    {u : State} {r : Reply} (hbody : sp.body (s.compositeCmdOf n x a imm) s = (u, r)) (hdone : r.done = true) :
    s.compositeCmd sp n x a imm = (u.count Reg.hubCntCmd, r) := by
  have hnow (st : Nat) : (sp.body (s.compositeCmdOf n x a imm) s).2 ≠ .later st := by
    rw [hbody]
    rintro rfl
    exact Bool.false_ne_true hdone
  have hdec : s.decideCmd sp (s.compositeCmdOf n x a imm) = (u, r) :=
    (decideCmd_of_unguarded_query hquery (hsafe _) rfl hnarrow hnow).trans hbody
  have hnote (e : JEntry) : s.note sp (s.compositeCmdOf n x a imm) e = s := by
    simp [State.note, CmdSpec.journaled, hquery, State.compositeCmdOf]
  rw [compositeCmd_of_row1 hrow]
  simp only [State.serve, hdec, hnote]
  cases r with
  | ok v => rfl
  | rec_ b => rfl
  | no st own => exact absurd hdone Bool.false_ne_true
  | later st => exact absurd hdone Bool.false_ne_true

/-- A command that its sub-block carries out has its effect after its entry, and is counted. -/
theorem compositeCmd_of_command (hcommand : sp.query = false) (hfree : ∀ c, s.blocked sp c = false)
    (halive : (s.ctx (sp.named (s.compositeCmdOf n x a imm))).st ≠ .terminated) (hnarrow : sp.wide (s.compositeCmdOf n x a imm) = false)
    {f : State → State} {v : Nat} (hbody : ∀ t, s.JournalOnly t → sp.body (s.compositeCmdOf n x a imm) t = (f t, .ok v)) :
    ∃ u, s.JournalOnly u ∧ s.compositeCmd sp n x a imm = ((f u).count Reg.hubCntCmd, .ok v) := by
  have hdec (t : State) (ht : s.JournalOnly t) : t.decideCmd sp (s.compositeCmdOf n x a imm) = (f t, .ok v) := by
    have hfree' : t.blocked sp (s.compositeCmdOf n x a imm) = false := (congrArg (State.blocked · sp _) ht.frame).trans (hfree _)
    rw [decideCmd_of_rows rfl (.inr (by rw [ht.ctx]; exact halive)) hnarrow hfree' (by rw [hbody t ht]; simp), hbody t ht]
  have hentry := State.JournalOnly.record s (servedEntry sp (s.compositeCmdOf n x a imm) (srcRing n) x.index x.e.cookie stOk 0)
  refine ⟨_, hentry, ?_⟩
  rw [compositeCmd_of_row1 hrow]
  simp only [State.serve, hdec s (.refl s), State.note, CmdSpec.journaled, hcommand, Bool.not_false, Bool.true_or, if_true, Reply.status, hdec _ hentry]
  rfl

end

/-! ### RDREG and WRREG of a composite (R267) -/

/-- The registers whose read has an effect. -/
abbrev effectReads : List Nat := [Reg.hubTimeLo, Reg.hubJrnlNextLo, Reg.hubProvNextLo, Reg.hubDumpData]

/-- A register of the hub whose read has no effect. -/
abbrev HubReadable (a : Nat) : Prop := a % 4 = 0 ∧ a < 0x6000 ∧ a ∉ effectReads

theorem readReg_of_plain {a : Nat} (h : a ∉ effectReads) (s : State) (src : Src) : s.readReg src a = (s, s.regVal src a) := by
  simp only [List.mem_cons, List.not_mem_nil, or_false, not_or] at h
  obtain ⟨htime, hjrnl, hprov, hdump⟩ := h
  simp only [State.readReg, if_neg htime, if_neg hjrnl, if_neg hprov, if_neg hdump]

/-- RDREG gives the register's value, and is counted. -/
theorem compositeRead_of_readable {a : Nat} (ha : HubReadable a) (s : State) (n : Nat) (x : Taken) :
    s.compositeRead n x a = (s.count Reg.hubCntCmd, s.regVal (.core 0) a, stOk) := by
  obtain ⟨halign, hlt, hplain⟩ := ha
  have hbody : specRdreg.body (s.compositeCmdOf n x 0 a) s = (s, .ok (s.regVal (.core 0) a)) := by
    have hok : s.respCode (s.compositeCmdOf n x 0 a).imm = 0 := respCode_hub s halign hlt
    rw [body_specRdreg, readRegister_eq, if_pos hok]
    exact congrArg (fun q : State × Nat => (q.1, Reply.ok q.2)) (readReg_of_plain hplain s (.core 0))
  have hnarrow : specRdreg.wide (s.compositeCmdOf n x 0 a) = false := (wide_eq_false_iff ..).2
    ⟨fun h => absurd rfl h, fun h => absurd rfl h, fun h => absurd rfl h, fun _ => show a < 2 ^ 24 by omega⟩
  rw [State.compositeRead, compositeCmd_of_query rfl rfl (fun _ => rfl) hnarrow hbody rfl]
  rfl

theorem wrBlocked_of_other {a : Nat} (hlo : a ≠ Reg.hubPartMapLo) (hhi : a ≠ Reg.hubPartMapHi) (s : State) (v : Nat) : s.wrBlocked a v = false := by
  simp [State.wrBlocked, hlo, hhi]

/-- WRREG of a register outside the partition map writes it after its entry, and is counted. -/
theorem compositeWrite_of_ok {s : State} {n : Nat} {x : Taken} {a v : Nat} (halive : (s.ctx x.e.ctx).st ≠ .terminated) (hok : s.respCode a = 0)
    (ha : a < 2 ^ 24) (hv : v < 2 ^ 32) (hlo : a ≠ Reg.hubPartMapLo) (hhi : a ≠ Reg.hubPartMapHi) :
    ∃ u, s.JournalOnly u ∧ s.compositeWrite n x a v = ((u.writeReg (.core 0) a v).count Reg.hubCntCmd, stOk) := by
  have hbody (t : State) (ht : s.JournalOnly t) : specWrreg.body (s.compositeCmdOf n x v a) t = (t.writeReg (.core 0) a v, .ok 0) :=
    writeRegister_of_ok (c := s.compositeCmdOf n x v a) ((ht.respCode a).trans hok) (wrBlocked_of_other hlo hhi t v)
  have hnarrow : specWrreg.wide (s.compositeCmdOf n x v a) = false := (wide_eq_false_iff ..).2
    ⟨fun _ => hv, fun h => absurd rfl h, fun h => absurd rfl h, fun _ => ha⟩
  have hfree (c : Cmd) : s.blocked specWrreg c = false := by simp [State.blocked, specWrreg]
  obtain ⟨u, hu, hcmd⟩ := compositeCmd_of_command (sp := specWrreg) rfl rfl hfree halive hnarrow hbody
  exact ⟨u, hu, by rw [State.compositeWrite, hcmd]; rfl⟩

/-! ### Runs of reads (R281) -/

theorem firstStatus_stOk (st : Nat) : firstStatus stOk st = st := if_pos rfl

/-- The state with `k` more commands counted. -/
def State.commandsCounted (s : State) : Nat → State
  | 0 => s
  | k + 1 => (s.count Reg.hubCntCmd).commandsCounted k

theorem regsOnly_commandsCounted (s : State) (k : Nat) : s.RegsOnly (s.commandsCounted k) := by
  induction k generalizing s with
  | zero => exact .refl s
  | succ k ih => exact (regsOnly_count s _).trans (ih _)

/-- Reads of registers of the hub give 4 bytes each, and change nothing but their count. -/
theorem compositeReads_of_readable {as : List Nat} (has : ∀ a ∈ as, HubReadable a) (s : State) (n : Nat) (x : Taken) :
    ∃ b, b.length = 4 * as.length ∧ s.compositeReads n x as = (s.commandsCounted as.length, b, stOk) := by
  induction as generalizing s with
  | nil => exact ⟨[], rfl, rfl⟩
  | cons a as ih =>
    obtain ⟨b, hlen, hreads⟩ := ih (fun c hc => has c (List.mem_cons_of_mem _ hc)) (s.count Reg.hubCntCmd)
    refine ⟨toLe 4 (s.regVal (.core 0) a) ++ b, ?_, ?_⟩
    · rw [List.length_append, length_toLe, hlen, List.length_cons]
      omega
    · rw [State.compositeReads, compositeRead_of_readable (has a List.mem_cons_self)]
      dsimp only
      rw [hreads, firstStatus_stOk]
      rfl

/-- The registers below 0x600 whose value is not the stored one, the models apart. -/
abbrev computedRegs : List Nat :=
  [Reg.hubVersion, Reg.hubConfig, Reg.hubTimeLo, Reg.hubTimeHi, Reg.hubRcpInfo, Reg.hubSieveSpillSize, Reg.hubSisStatus, Reg.hubSisThread,
    Reg.hubSisThreadPc, Reg.hubJrnlNextLo, Reg.hubJrnlNextHi, Reg.hubJrnlStatus]

/-- A register of the hub that reads as it is stored, and does not count commands. -/
abbrev HubStored (a : Nat) : Prop :=
  HubReadable a ∧ a < 0x600 ∧ selOf a = none ∧ a ∉ computedRegs ∧ ¬ (Reg.hubSieveModelULo ≤ a ∧ a ≤ Reg.hubSieveModelF) ∧ a ≠ Reg.hubCntCmd

theorem regVal_of_stored {a : Nat} (ha : HubStored a) (s : State) (src : Src) : s.regVal src a = s.reg a % 2 ^ 32 := by
  obtain ⟨-, hlt, hsel, hstored, hmodel, -⟩ := ha
  have hval : s.hubVal0 src a = s.reg a := by
    simp only [List.mem_cons, List.not_mem_nil, or_false, not_or] at hstored
    simp only [State.hubVal0, hstored, hmodel, if_false]
  have hcol : a ≠ Reg.colStatus := by
    simp only [Reg.colStatus]
    omega
  rw [State.regVal, hsel]
  dsimp only
  rw [if_neg (by omega), if_neg (by omega), if_neg (by omega), if_neg (by omega), if_neg (by omega), if_neg (by omega), if_neg (by omega),
    if_neg hcol, if_neg (by omega), if_neg (by omega), hval]

theorem regVal_count_of_stored {a : Nat} (ha : HubStored a) (s : State) (src : Src) : (s.count Reg.hubCntCmd).regVal src a = s.regVal src a := by
  have hne : a ≠ Reg.hubCntCmd := ha.2.2.2.2.2
  rw [regVal_of_stored ha, regVal_of_stored ha, reg_count, if_neg (Ne.symm hne)]

/-- Reads of stored registers give the values that all of them have at the start. -/
theorem compositeReads_of_stored {as : List Nat} (has : ∀ a ∈ as, HubStored a) (s : State) (n : Nat) (x : Taken) : s.compositeReads n x as =
    (s.commandsCounted as.length, as.flatMap (fun a => toLe 4 (s.regVal (.core 0) a)), stOk) := by
  induction as generalizing s with
  | nil => rfl
  | cons a as ih =>
    have hrest : as.flatMap (fun c => toLe 4 ((s.count Reg.hubCntCmd).regVal (.core 0) c)) = as.flatMap (fun c => toLe 4 (s.regVal (.core 0) c)) :=
      List.flatMap_congr fun c hc => by rw [regVal_count_of_stored (has c (List.mem_cons_of_mem _ hc))]
    rw [State.compositeReads, compositeRead_of_readable (has a List.mem_cons_self).1]
    dsimp only
    rw [ih (fun c hc => has c (List.mem_cons_of_mem _ hc)), firstStatus_stOk, hrest]
    rfl

theorem reg_commandsCounted (s : State) (k : Nat) {a : Nat} (ha : a ≠ Reg.hubCntCmd) : (s.commandsCounted k).reg a = s.reg a := by
  induction k generalizing s with
  | zero => rfl
  | succ k ih => exact (ih _).trans ((reg_count ..).trans (if_neg (Ne.symm ha)))

/-! ### ARBSTAT of a composite (R271) -/

theorem regBytes_congr {s t : State} {a k : Nat} (h : ∀ b, a ≤ b → t.reg b = s.reg b) : t.regBytes a k = s.regBytes a k := by
  induction k generalizing a with
  | zero => rfl
  | succ k ih => rw [State.regBytes, State.regBytes, h a le_rfl, ih fun b hb => h b (by omega)]

/-- The record does not rest on the count of commands. -/
theorem arbRecord_commandsCounted (s : State) (k : Nat) : (s.commandsCounted k).arbRecord = s.arbRecord := by
  have hreg (b : Nat) (hb : Reg.hubCntCmd < b) : (s.commandsCounted k).reg b = s.reg b := reg_commandsCounted s k (by omega)
  have hcap : (s.commandsCounted k).regBytes Reg.mtrArbCapOp 4 = s.regBytes Reg.mtrArbCapOp 4 :=
    regBytes_congr fun b hb => hreg b (lt_of_lt_of_le (by decide) hb)
  have hcnt : (s.commandsCounted k).regBytes Reg.mtrCntSamples 18 = s.regBytes Reg.mtrCntSamples 18 :=
    regBytes_congr fun b hb => hreg b (lt_of_lt_of_le (by decide) hb)
  have hstatus : (s.commandsCounted k).mtrStatusVal = s.mtrStatusVal := by
    rw [State.mtrStatusVal, hreg Reg.mtrStatus (by decide), (regsOnly_commandsCounted s k).eq_with_regs]
    rfl
  rw [State.arbRecord, hcap, hcnt, hstatus, State.arbRecord]

theorem compositeCmd_arbstat (s : State) (n : Nat) (x : Taken) :
    s.compositeCmd specArbstat n x 0 0 = (s.count Reg.hubCntCmd, .rec_ s.arbRecord) :=
  compositeCmd_of_query rfl rfl (fun _ => rfl) rfl (arbStat_of_fits (c := s.compositeCmdOf n x 0 0) rfl (Nat.zero_le _)) rfl

/-! ### The threads of the sequencer -/

/-- The reads of a run of threads give 8 bytes each, for an entry whose context has not been terminated. -/
theorem readThreads_of_alive {ks : List Nat} (hks : ∀ k ∈ ks, k < 2 ^ 32) {s : State} {x : Taken} (halive : (s.ctx x.e.ctx).st ≠ .terminated) (n : Nat) :
    ∃ u b, b.length = 8 * ks.length ∧ s.readThreads n x ks = (u, b, stOk) := by
  induction ks generalizing s with
  | nil => exact ⟨s, [], rfl, rfl⟩
  | cons k ks ih =>
    obtain ⟨u, hu, hwrite⟩ := compositeWrite_of_ok (n := n) halive (respCode_hub s (a := Reg.hubSisThreadSel) (by decide) (by decide)) (by decide)
      (hks k List.mem_cons_self) (by decide) (by decide)
    obtain ⟨b, hlen, hreads⟩ := compositeReads_of_readable (as := [Reg.hubSisThread, Reg.hubSisThreadPc]) (by decide)
      ((u.writeReg (.core 0) Reg.hubSisThreadSel k).count Reg.hubCntCmd) n x
    have hctxs : (((u.writeReg (.core 0) Reg.hubSisThreadSel k).count Reg.hubCntCmd).commandsCounted 2).ctxs = s.ctxs := by
      rw [(regsOnly_commandsCounted _ 2).eq_with_regs]
      exact hu.ctxs
    generalize (u.writeReg (.core 0) Reg.hubSisThreadSel k).count Reg.hubCntCmd = w at hwrite hreads hctxs
    obtain ⟨t, b', hlen', hrest⟩ := ih (fun j hj => hks j (List.mem_cons_of_mem _ hj)) (s := w.commandsCounted 2)
      (by rw [State.ctx, hctxs]; exact halive)
    refine ⟨t, b ++ b', ?_, ?_⟩
    · rw [List.length_append, hlen, hlen']
      simp only [List.length_cons, List.length_nil]
      omega
    · rw [State.readThreads, hwrite]
      dsimp only
      rw [hreads]
      dsimp only
      rw [show ([Reg.hubSisThread, Reg.hubSisThreadPc] : List Nat).length = 2 from rfl, hrest, firstStatus_stOk, firstStatus_stOk]

/-! ### Little-endian fields -/

theorem leNat_toLe (k v : Nat) : leNat (toLe k v) = v % 256 ^ k := by
  induction k generalizing v with
  | zero => rw [pow_zero, Nat.mod_one, toLe, leNat]
  | succ k ih =>
    rw [toLe, leNat, ih, pow_succ', Nat.mod_mul, BitVec.toNat_ofNat, Nat.mod_mod]

/-- The field at the head of a record. -/
theorem leAt_toLe_append (k v : Nat) (b : Bytes) : leAt (toLe k v ++ b) 0 k = v % 256 ^ k := by
  have hslice : slice (toLe k v ++ b) 0 k = toLe k v := by
    simp [slice, zeros]
  rw [leAt, hslice, leNat_toLe]

end Sys2Proof.Machine
end

section
/-! Composite commands of Kettle 0 and lane service (R191, R281), and the settling of O55. -/

namespace Sys2Proof.Machine

theorem exec_readSealStatus (i : Issue) (s : State) : exec (.readSealStatus i) s = .next (s.ringOwn 0x81 i State.readSeal) := rfl
theorem exec_readCoverage (i : Issue) (s : State) : exec (.readCoverage i) s = .next (s.ringOwn 0x82 i State.readCover) := rfl
theorem exec_readSequencerStatus (i : Issue) (s : State) : exec (.readSequencerStatus i) s = .next (s.ringOwn 0x84 i State.readSeq) := rfl
theorem exec_laneService (i : Issue) (s : State) : exec (.laneService i) s = .next (s.ringOwn 0x83 i State.laneService) := rfl

/-! ### Records (R281) -/

section
variable {s : State} {n : Nat} {x : Taken}

theorem readSeal_of_unfit (h : x.fits 120 = false) : s.readSeal n x = s.finishRecord n x stBadOperand 0 := if_pos (by rw [h]; rfl)
theorem readCover_of_unfit (h : x.fits 104 = false) : s.readCover n x = s.finishRecord n x stBadOperand 0 := if_pos (by rw [h]; rfl)
theorem readSeq_of_unfit (h : x.fits 292 = false) : s.readSeq n x = s.finishRecord n x stBadOperand 0 := if_pos (by rw [h]; rfl)

theorem compositeClear_of_kept (h : x.e.flags % 2 = 0) (a v b w : Nat) : s.compositeClear n x a v b w = (s, stOk) := if_neg (by omega)

theorem readSeal_of_fits (hkept : x.e.flags % 2 = 0) (hfits : x.fits 120 = true) : s.readSeal n x = (s.commandsCounted 30).compositeEnd n x
    ((regRun 0x200 11 ++ regRun 0x240 19).flatMap (fun a => toLe 4 (s.regVal (.core 0) a))) stOk := by
  rw [State.readSeal, if_neg (by rw [hfits]; decide), compositeReads_of_stored (as := regRun 0x200 11 ++ regRun 0x240 19) (by decide)]
  dsimp only
  rw [compositeClear_of_kept hkept]
  rfl

theorem readCover_of_fits (hkept : x.e.flags % 2 = 0) (hfits : x.fits 104 = true) : s.readCover n x = (s.commandsCounted 3).compositeEnd n x
    (toLe 4 (s.regVal (.core 0) Reg.hubSieveBound) ++ toLe 4 (s.regVal (.core 0) Reg.hubSieveDeficit) ++ s.arbRecord) stOk := by
  have hcounted : (s.commandsCounted 2).count Reg.hubCntCmd = s.commandsCounted 3 := rfl
  rw [State.readCover, if_neg (by rw [hfits]; decide), compositeReads_of_stored (as := [Reg.hubSieveBound, Reg.hubSieveDeficit]) (by decide)]
  dsimp only
  rw [show ([Reg.hubSieveBound, Reg.hubSieveDeficit] : List Nat).length = 2 from rfl, compositeCmd_arbstat]
  dsimp only
  rw [compositeClear_of_kept hkept, arbRecord_commandsCounted, hcounted]
  rfl

theorem readSeq_of_fits (halive : (s.ctx x.e.ctx).st ≠ .terminated) (hfits : x.fits 292 = true) :
    ∃ (u : State) (b : Bytes), s.readSeq n x = u.compositeEnd n x (toLe 4 (s.regVal (.core 0) Reg.hubSisStatus) ++ b) stOk ∧ b.length = 288 := by
  have halive' : ((s.count Reg.hubCntCmd).ctx x.e.ctx).st ≠ .terminated := halive
  obtain ⟨u, b, hlen, hthreads⟩ := readThreads_of_alive (ks := List.range 32) (by decide) halive' n
  obtain ⟨b', hlen', hreads⟩ := compositeReads_of_readable (as := regRun 0x440 8) (by decide) u n x
  have hfirst : s.compositeReads n x [Reg.hubSisStatus] = (s.count Reg.hubCntCmd, toLe 4 (s.regVal (.core 0) Reg.hubSisStatus) ++ [], stOk) := by
    rw [State.compositeReads, compositeRead_of_readable (by decide)]
    rfl
  refine ⟨u.commandsCounted 8, b ++ b', ?_, ?_⟩
  · rw [State.readSeq, if_neg (by rw [hfits]; decide), hfirst]
    dsimp only
    rw [hthreads]
    dsimp only
    rw [hreads, List.append_nil, List.append_assoc]
    rfl
  · rw [List.length_append, hlen, hlen']
    rfl

end

/-! ### A taken entry and its end (R278, R280) -/

/-- A change to the entries of an index that keeps their index. -/
def changeAt (index : Nat) (f : Taken → Taken) (y : Taken) : Taken := if y.index == index then f y else y

theorem changeAt_of_ne {index : Nat} {y : Taken} (h : y.index ≠ index) (f : Taken → Taken) : changeAt index f y = y := if_neg (by simpa using h)

theorem index_changeAt {f : Taken → Taken} (hf : ∀ y, (f y).index = y.index) (index : Nat) (y : Taken) : (changeAt index f y).index = y.index := by
  unfold changeAt
  split_ifs
  · exact hf y
  · rfl

theorem taken_ring_onTaken (s : State) (n index : Nat) (f : Taken → Taken) :
    ((s.onTaken n index f).ring n).taken = (s.ring n).taken.map (changeAt index f) := by
  rw [State.onTaken, ring_setRing, if_pos rfl]
  rfl

theorem taken_onTaken (s : State) (n : Nat) {index : Nat} {f : Taken → Taken} (hf : ∀ y, (f y).index = y.index) {x : Taken}
    (h : s.taken n index = some x) : (s.onTaken n index f).taken n index = some (f x) := by
  have hsame : (fun y : Taken => y.index == index) ∘ changeAt index f = fun y => y.index == index :=
    funext fun y => congrArg (· == index) (index_changeAt hf index y)
  have hfind : (s.ring n).taken.find? (fun y => y.index == index) = some x := h
  rw [State.taken, taken_ring_onTaken, List.find?_map, hsame, hfind]
  exact congrArg some (if_pos (List.find?_some hfind :))

theorem others_onTaken (s : State) (n index : Nat) {f : Taken → Taken} (hf : ∀ y, (f y).index = y.index) :
    ((s.onTaken n index f).ring n).taken.filter (fun y => y.index != index) = (s.ring n).taken.filter (fun y => y.index != index) := by
  have hsame : (fun y : Taken => y.index != index) ∘ changeAt index f = fun y => y.index != index :=
    funext fun y => congrArg (· != index) (index_changeAt hf index y)
  rw [taken_ring_onTaken, List.filter_map, hsame]
  exact (List.map_congr_left fun y hy => changeAt_of_ne (by simpa using (List.mem_filter.1 hy).2) f).trans (List.map_id' _)

/-- What the end of a taken entry leaves while Kettle 0 runs: the other entries of its ring, and its FINISHED record. -/
theorem finishRecord_leaves {s : State} {n : Nat} {x y : Taken} (hup : s.coreUp 0 = true) (htaken : s.taken n x.index = some y) (st res : Nat) :
    (s.finishRecord n x st res).lanes = s.lanes ∧ (s.finishRecord n x st res).queue = s.queue ∧
      ((s.finishRecord n x st res).ring n).taken = (s.ring n).taken.filter (fun y => y.index != x.index) ∧
      ∃ e ∈ (s.finishRecord n x st res).journal, e.type = jFinished ∧ e.status = st ∧ e.a = res := by
  have hjo := State.JournalOnly.record s
    { type := jFinished, status := st, opc := x.e.kind, source := srcRing n, ctx := x.e.ctx, ref := x.index, cookie := x.e.cookie, a := res }
  have hjournal := journal_record s
    { type := jFinished, status := st, opc := x.e.kind, source := srcRing n, ctx := x.e.ctx, ref := x.index, cookie := x.e.cookie, a := res }
  have hmem := mem_window s
    { type := jFinished, status := st, opc := x.e.kind, source := srcRing n, ctx := x.e.ctx, ref := x.index, cookie := x.e.cookie, a := res }
  rw [State.finishRecord]
  generalize s.record
    { type := jFinished, status := st, opc := x.e.kind, source := srcRing n, ctx := x.e.ctx, ref := x.index, cookie := x.e.cookie, a := res } = u
    at hjo hjournal
  rw [State.finishEntry, if_pos ((hjo.coreUp 0).trans hup), State.writeCompletion, (taken_congr (hjo.ring n) _).trans htaken]
  dsimp only
  obtain ⟨r, m, b, p0, p1, hwrite⟩ := writeZ_frame_of_own u ((u.ring n).cbase * 64 * 4096 + 32 * ((u.ring n).prod % (u.ring n).size))
    (completionBytes y.e st res s.jseq x.index ((u.ring n).prod / (u.ring n).size % 2)) (acc := .completion n) fun _ => rfl
  rw [hwrite, ← hjo.ring n]
  refine ⟨(congrArg State.lanes hjo.frame :), (congrArg State.queue hjo.frame :), ?_, ⟨_, hjournal ▸ hmem, rfl, rfl, rfl⟩⟩
  rw [ring_setRing, if_pos rfl]

/-! ### Lane service (R191, R281) -/

theorem zero_bitAt (i : Nat) : bitAt 0 i = 0 := by simp [bitAt]

theorem fenceLanes_zero (s : State) (ls : List Nat) : s.fenceLanes 0 ls = s := by
  induction ls with
  | nil => rfl
  | cons l ls ih =>
    rw [State.fenceLanes]
    simp only [zero_bitAt, decide_true, Bool.true_or, if_true]
    exact ih

theorem reinstateLanes_zero (s : State) (ls : List Nat) : s.reinstateLanes 0 ls = s := by
  induction ls with
  | nil => rfl
  | cons l ls ih =>
    rw [State.reinstateLanes]
    simp only [zero_bitAt, decide_true, Bool.true_or, if_true]
    exact ih

/-- SELFTEST leaves lanes in service alone. -/
theorem selfTestLanes_of_inService {ls : List Nat} (m : Nat) {s : State} (h : ∀ l ∈ ls, (s.lane l).fenced = false) : s.selfTestLanes m ls = s := by
  induction ls with
  | nil => rfl
  | cons l ls ih =>
    rw [State.selfTestLanes]
    simp only [h l List.mem_cons_self, Bool.not_false, Bool.or_true, if_true]
    exact ih fun k hk => h k (List.mem_cons_of_mem _ hk)

theorem selfTestLanes_of_clear {m : Nat} {ls : List Nat} (h : ∀ l ∈ ls, bitAt m l = 0) (s : State) : s.selfTestLanes m ls = s := by
  induction ls with
  | nil => rfl
  | cons l ls ih =>
    rw [State.selfTestLanes]
    simp only [h l List.mem_cons_self, decide_true, Bool.true_or, if_true]
    exact ih fun k hk => h k (List.mem_cons_of_mem _ hk)

/-- The self-test of a lane is queued. -/
def State.selfTestQueued (s : State) (l : Nat) : State :=
  { s with nextJob := s.nextJob + 1, queue := enqueue { id := s.nextJob, kind := .selfTest, lane := l, reported := s.time } s.queue }

theorem mem_enqueue (j : Job) (l : List Job) : j ∈ enqueue j l := by
  induction l with
  | nil => exact List.mem_cons_self
  | cons x l ih =>
    rw [enqueue]
    split_ifs
    · exact List.mem_cons_self
    · exact List.mem_cons_of_mem _ ih

theorem testing_selfTestQueued {s : State} {l : Nat} (h : (s.lane l).fenced = true) : (s.selfTestQueued l).testing l = true := by
  have hqueued : (s.selfTestQueued l).queue.any (fun j => j.kind == .selfTest && j.lane == l) = true :=
    List.any_eq_true.2 ⟨_, mem_enqueue .., by simp⟩
  have hfenced : ((s.selfTestQueued l).lane l).fenced = true := h
  rw [State.testing, hqueued, hfenced]
  rfl

/-- SELFTEST of lane 0 alone, fenced. -/
theorem selfTestLanes_first {s : State} (h : (s.lane 0).fenced = true) : s.selfTestLanes (1 % 16) (List.range 4) = s.selfTestQueued 0 := by
  have hrest : (s.selfTestQueued 0).selfTestLanes (1 % 16) [1, 2, 3] = s.selfTestQueued 0 := selfTestLanes_of_clear (by decide) _
  rw [show List.range 4 = [0, 1, 2, 3] from rfl, State.selfTestLanes, if_neg (by simp [h, bitAt])]
  exact hrest

/-- A write of SELFTEST bits alone. -/
theorem laneCtrl_selfTest (s : State) {m : Nat} (hm : m < 16) : s.laneCtrl (m * 2 ^ 4) = s.selfTestLanes m (List.range 4) := by
  rw [State.laneCtrl, show m * 2 ^ 4 % 16 = 0 by omega, show m * 2 ^ 4 / 16 % 16 = m by omega, show m * 2 ^ 4 / 256 % 16 = 0 by omega]
  rw [fenceLanes_zero, reinstateLanes_zero]

theorem writeReg_mtrLaneCtrl (s : State) (src : Src) (v : Nat) : s.writeReg src Reg.mtrLaneCtrl v = s.laneCtrl v := rfl

/-- The lanes that a lane service tests. -/
def State.serviceOf (s : State) (n : Nat) (x : Taken) : LaneSvc :=
  { ring := n, index := x.index, lanes := (List.range 4).filter (fun l => bitAt (x.e.a0 % 16) l == 1 && (s.lane l).fenced) }

/-- The state of a lane service once its self-tests have been asked for: its entry is begun. -/
def State.serviceBegun (s : State) (n : Nat) (x : Taken) (v : LaneSvc) : State :=
  ({ s with laneSvc := s.laneSvc ++ [v] } : State).onTaken n x.index (fun y => { y with ran := true })

theorem taken_serviceBegun {s : State} {n : Nat} {x : Taken} (h : s.taken n x.index = some x) (v : LaneSvc) :
    (s.serviceBegun n x v).taken n x.index = some { x with ran := true } :=
  taken_onTaken { s with laneSvc := s.laneSvc ++ [v] } n (f := fun y => { y with ran := true }) (fun _ => rfl) h

theorem others_serviceBegun (s : State) (n : Nat) (x : Taken) (v : LaneSvc) :
    ((s.serviceBegun n x v).ring n).taken.filter (fun y => y.index != x.index) = (s.ring n).taken.filter (fun y => y.index != x.index) :=
  others_onTaken { s with laneSvc := s.laneSvc ++ [v] } n x.index fun _ => rfl

/-- The self-tests are asked for after an entry of the journal, and are counted as one command. -/
theorem laneService_of_alive {s : State} {x : Taken} (halive : (s.ctx x.e.ctx).st ≠ .terminated) (n : Nat) : ∃ u, s.JournalOnly u ∧
    s.laneService n x = ((((u.selfTestLanes (x.e.a0 % 16) (List.range 4)).count Reg.hubCntCmd).serviceBegun n x (s.serviceOf n x)).endServices
      [s.serviceOf n x]) := by
  have hok : s.respCode Reg.mtrLaneCtrl = 0 := rfl
  obtain ⟨u, hu, hwrite⟩ := compositeWrite_of_ok (n := n) (v := x.e.a0 % 16 * 2 ^ 4) halive hok (by decide) (by omega) (by decide) (by decide)
  refine ⟨u, hu, ?_⟩
  rw [State.laneService]
  dsimp only
  rw [hwrite, writeReg_mtrLaneCtrl, laneCtrl_selfTest u (by omega)]
  exact if_neg (not_not.2 rfl)

/-- The service no longer waits. -/
def State.serviceEnded (s : State) (v : LaneSvc) : State := { s with laneSvc := s.laneSvc.filter (fun w => w != v) }

/-- A service of no lane ends once Kettle 0 runs, with RESULT 0. -/
theorem endServices_of_none {s : State} {v : LaneSvc} {x : Taken} (hup : s.coreUp 0 = true) (hlanes : v.lanes = [])
    (htaken : s.taken v.ring v.index = some x) : s.endServices [v] = (s.serviceEnded v).finishRecord v.ring x stOk 0 := by
  have hend : s.endServices [v] = s.endService v := by
    rw [State.endServices, hup, hlanes]
    rfl
  have htaken' : (s.serviceEnded v).taken v.ring v.index = some x := htaken
  rw [hend, State.endService]
  dsimp only
  rw [← State.serviceEnded, htaken', hlanes]
  rfl

/-- A service with a lane whose self-test waits or runs goes on. -/
theorem endServices_of_testing {s : State} {v : LaneSvc} {l : Nat} (hl : l ∈ v.lanes) (htest : s.testing l = true) : s.endServices [v] = s := by
  have hwaits : v.lanes.all (fun k => ! s.testing k) = false := by
    rw [List.all_eq_false]
    exact ⟨l, hl, by simp [htest]⟩
  rw [State.endServices, hwaits, Bool.and_false]
  rfl

section
variable {s : State} {n index : Nat} {x : Taken} (halive : (s.ctx x.e.ctx).st ≠ .terminated)
include halive

/-- With every lane in service the service ends at once, and reinstates none. -/
theorem laneService_of_inService (h : s.Issuable n index x) (hlanes : ∀ l, l < 4 → (s.lane l).fenced = false) :
    (s.laneService n x).lanes = s.lanes ∧ (s.laneService n x).queue = s.queue ∧
      ((s.laneService n x).ring n).taken = (s.ring n).taken.filter (fun y => y.index != index) ∧
      ∃ e ∈ (s.laneService n x).journal, e.type = jFinished ∧ e.status = stOk ∧ e.a = 0 := by
  obtain ⟨htaken, hup, -, -, -, -, rfl, -, -⟩ := h
  obtain ⟨u, hu, hservice⟩ := laneService_of_alive halive n
  have hlane (l : Nat) : u.lane l = s.lane l := (congrArg (State.lane · l) hu.frame :)
  have hnone : (s.serviceOf n x).lanes = [] := List.filter_eq_nil_iff.2 fun l hl => by simp [hlanes l (List.mem_range.1 hl)]
  have hidle : u.selfTestLanes (x.e.a0 % 16) (List.range 4) = u :=
    selfTestLanes_of_inService _ fun l hl => by rw [hlane, hlanes l (List.mem_range.1 hl)]
  have htaken' := taken_serviceBegun (s := u.count Reg.hubCntCmd) ((taken_congr (hu.ring n) x.index).trans htaken) (s.serviceOf n x)
  have hothers := others_serviceBegun (u.count Reg.hubCntCmd) n x (s.serviceOf n x)
  have hup' : ((u.count Reg.hubCntCmd).serviceBegun n x (s.serviceOf n x)).coreUp 0 = true := (hu.coreUp 0).trans hup
  rw [hservice, hidle, endServices_of_none hup' hnone htaken']
  obtain ⟨hl, hq, hring, hjournal⟩ := finishRecord_leaves (s := ((u.count Reg.hubCntCmd).serviceBegun n x (s.serviceOf n x)).serviceEnded (s.serviceOf n x))
    (x := { x with ran := true }) hup' htaken' stOk 0
  refine ⟨hl.trans (congrArg State.lanes hu.frame :), hq.trans (congrArg State.queue hu.frame :), hring.trans (hothers.trans ?_), hjournal⟩
  exact congrArg (fun r : Ring => r.taken.filter (fun y => y.index != x.index)) (hu.ring n)

/-- With lane 0 fenced and asked for, its self-test is queued and the service waits for it. -/
theorem laneService_of_fenced (hlane : x.e.a0 = 1) (hfenced : (s.lane 0).fenced = true) : (s.laneService n x).lanes = s.lanes ∧
    (∃ j ∈ (s.laneService n x).queue, j.kind = .selfTest ∧ j.lane = 0) ∧
      (s.laneService n x).laneSvc = s.laneSvc ++ [{ ring := n, index := x.index, lanes := [0] }] := by
  obtain ⟨u, hu, hservice⟩ := laneService_of_alive halive n
  have hfenced' : (u.lane 0).fenced = true := (congrArg (fun t : State => (t.lane 0).fenced) hu.frame).trans hfenced
  have hlanes : s.serviceOf n x = { ring := n, index := x.index, lanes := [0] } := by
    have hmask : (List.range 4).filter (fun l => bitAt (1 % 16) l == 1 && (s.lane l).fenced) = [0] := by
      rw [show List.range 4 = [0, 1, 2, 3] from rfl]
      simp [bitAt, hfenced]
    rw [State.serviceOf, hlane, hmask]
  rw [hlane, selfTestLanes_first hfenced', hlanes] at hservice
  have htest : (((u.selfTestQueued 0).count Reg.hubCntCmd).serviceBegun n x { ring := n, index := x.index, lanes := [0] }).testing 0 = true :=
    testing_selfTestQueued hfenced'
  rw [hservice, endServices_of_testing List.mem_cons_self htest]
  exact ⟨(congrArg State.lanes hu.frame :), ⟨_, mem_enqueue .., rfl, rfl⟩,
    congrArg (· ++ [({ ring := n, index := x.index, lanes := [0] } : LaneSvc)]) (congrArg State.laneSvc hu.frame :)⟩

end

/-- Settles O55: the records by the runs of reads above, lane service by whether a lane is fenced. -/
theorem compositeCommands : Obligations.CompositeCommands := by
  unfold Obligations.CompositeCommands
  intro s n index x i htaken hup hhanded hserved hran hfinal hindex hissued himm hi
  have hissue : s.Issuable n index x := ⟨htaken, hup, hhanded, hserved, hran, hfinal, hindex, hissued, himm⟩
  subst hi
  have hframe (k : Nat) : (∀ a, a ≠ Reg.hubCntCmd → (s.commandsCounted k).reg a = s.reg a) ∧
      s.commandsCounted k = { s with regs := (s.commandsCounted k).regs } :=
    ⟨fun a ha => reg_commandsCounted s k ha, (regsOnly_commandsCounted s k).eq_with_regs⟩
  refine ⟨fun hkind hfits => ?_, fun hkind hfits => ?_, fun hkind hfits => ?_, fun hkind hkept hfits => ?_, fun hkind hkept hfits => ?_,
    fun hkind halive hfits => ?_, fun hkind halive hmem => ⟨fun hlanes => ?_, fun hlane hfenced => ?_⟩⟩
  · rw [exec_readSealStatus, ringOwn_of_issuable hissue hkind, readSeal_of_unfit hfits]
  · rw [exec_readCoverage, ringOwn_of_issuable hissue hkind, readCover_of_unfit hfits]
  · rw [exec_readSequencerStatus, ringOwn_of_issuable hissue hkind, readSeq_of_unfit hfits]
  · rw [exec_readSealStatus, ringOwn_of_issuable hissue hkind, readSeal_of_fits hkept hfits]
    exact ⟨_, _, rfl, rfl, hframe 30⟩
  · rw [exec_readCoverage, ringOwn_of_issuable hissue hkind, readCover_of_fits hkept hfits]
    exact ⟨_, _, rfl, rfl, hframe 3⟩
  · obtain ⟨u, b, hread, hlen⟩ := readSeq_of_fits (n := n) halive hfits
    have hlt : s.regVal (.core 0) Reg.hubSisStatus < 256 ^ 4 := Nat.mod_lt _ (by decide)
    rw [exec_readSequencerStatus, ringOwn_of_issuable hissue hkind, hread]
    refine ⟨u, _, rfl, ?_, ?_⟩
    · rw [List.length_append, length_toLe, hlen]
    · rw [leAt_toLe_append, Nat.mod_eq_of_lt hlt]
  · rw [exec_laneService, ringOwn_of_issuable hissue hkind]
    exact ⟨_, rfl, laneService_of_inService halive hissue hlanes⟩
  · rw [exec_laneService, ringOwn_of_issuable hissue hkind, ← hindex]
    exact ⟨_, rfl, laneService_of_fenced halive hlane hfenced⟩

end Sys2Proof.Machine
end

section
/-! MODESET, PROVCFG and PAIRCFG of a core (R311, R317, R323), and the registers that show the mode and the Mortar's queue. -/

namespace Sys2Proof.Machine

theorem exec_modeset (s : State) (i : Issue) : exec (.modeset i) s = .next (s.runCmd specModeset i) := rfl
theorem exec_provcfg (s : State) (i : Issue) : exec (.provcfg i) s = .next (s.runCmd specProvcfg i) := rfl
theorem exec_paircfg (s : State) (i : Issue) : exec (.paircfg i) s = .next (s.runCmd specPaircfg i) := rfl

theorem body_specModeset : specModeset.body = setMode := rfl
theorem body_specProvcfg : specProvcfg.body = setProv := rfl
theorem body_specPaircfg : specPaircfg.body = setPair' := rfl

/-! ### MODESET (R311) -/

section
variable {s : State} {q : CoreCmd}

theorem passes_modeset (hserve : s.serving q.k = true) (hopc : q.opc = 0x50) (hctx : q.ctx = 0) (hmod : q.mod = 0) (himm : q.imm < 2)
    (ha : q.a < 2 ^ 64) (hb : q.b < 2 ^ 64) (hc : q.c < 2 ^ 64) (halive : (s.ctx 0).st ≠ .terminated) : s.Passes q specModeset :=
  passes_of_rows hserve hopc rfl ha hb hc (by omega) (by omega) (by rw [hmod]; rfl) (.inr (by rw [← hctx] at halive; exact halive))
    ((wide_eq_false_iff ..).2 ⟨fun h => absurd rfl h, fun h => absurd rfl h, fun h => absurd rfl h, fun _ => himm⟩)

theorem setMode_of_quiet {c : Cmd} (hstep : s.anyStep = false) (hqueue : s.queue = []) (hspill : s.spill = []) :
    setMode c s = ({ s with fixed := c.imm == 1 }, .ok 0) := by
  simp [setMode, hstep, hqueue, hspill]

theorem setMode_of_busy {c : Cmd} (h : s.anyStep = true ∨ s.queue ≠ [] ∨ s.spill ≠ []) : setMode c s = reject s stIllegalState := if_pos h

/-- An entry of the journal leaves the steps and the Mortar's queue, on which the mode depends. -/
theorem exec_modeset_of_quiet (h : s.Passes q specModeset) (hstep : s.anyStep = false) (hqueue : s.queue = []) (hspill : s.spill = []) :
    exec (.modeset q.issue) s = .next (({ s.noted q with fixed := decide (q.imm = 1) } : State).count Reg.hubCntCmd) := by
  rw [exec_modeset, runCmd_of_done h (f := fun t => { t with fixed := q.imm == 1 }) (v := fun _ => 0)]
  · rfl
  · intro t ht
    rw [body_specModeset]
    refine setMode_of_quiet (c := q.cmd s) ?_ ?_ ?_
    · rw [State.anyStep, ht.ctxs]
      exact hstep
    · exact (congrArg State.queue ht.frame).trans hqueue
    · exact (congrArg State.spill ht.frame).trans hspill

end

/-! ### HUB_MODE and MTR_QUEUE (R213, R327) -/

theorem regVal_hubMode (s : State) (src : Src) : s.regVal src Reg.hubMode = (b2n s.trv.held.isSome * 2 + b2n s.fixed) % 2 ^ 32 := rfl
theorem regVal_mtrQueue (s : State) (src : Src) : s.regVal src Reg.mtrQueue = s.mtrQueueVal % 2 ^ 32 := rfl

/-- FIXED is bit 0. -/
theorem regVal_hubMode_mod_two (s : State) (src : Src) : s.regVal src Reg.hubMode % 2 = if s.fixed then 1 else 0 := by
  rw [regVal_hubMode]
  cases s.fixed <;> simp only [b2n, Bool.false_eq_true, if_false, if_true] <;> omega

/-- The two fields of MTR_QUEUE hold the lengths of a full queue and a full spill ring, so it reads zero for the empty ones alone. -/
theorem regVal_mtrQueue_eq_zero_iff {s : State} (src : Src) (hqueue : s.queue.length ≤ 1024) (hspill : s.spill.length ≤ 1048576) :
    s.regVal src Reg.mtrQueue = 0 ↔ s.queue = [] ∧ s.spill = [] := by
  rw [regVal_mtrQueue, State.mtrQueueVal, ← List.length_eq_zero_iff, ← List.length_eq_zero_iff]
  omega

/-- Settles O32: MODESET by the steps and the Mortar's queue, the registers by their fields. -/
theorem modeChange : Obligations.ModeChange := by
  unfold Obligations.ModeChange
  refine ⟨fun s q hopc hserve hctx hmod himm ha hb hc halive => ?_, regVal_hubMode_mod_two,
    fun s src hqueue hspill => regVal_mtrQueue_eq_zero_iff src hqueue hspill⟩
  have hpass := passes_modeset hserve hopc hctx hmod himm ha hb hc halive
  refine ⟨exec_modeset_of_quiet hpass, fun hbusy => ?_⟩
  rw [exec_modeset, runCmd_of_rejected hpass (setMode_of_busy (c := q.cmd s) hbusy)]

/-! ### PROVCFG (R323) -/

section
variable {s : State} {q : CoreCmd}

theorem passes_provcfg (hserve : s.serving q.k = true) (hopc : q.opc = 0x51) (hmod : q.mod = 0) (himm : q.imm < 4)
    (ha : q.a < 2 ^ 64) (hb : q.b < 2 ^ 64) (hc : q.c < 2 ^ 64) (hlive : (s.ctx q.ctx).st = .live) : s.Passes q specProvcfg :=
  passes_of_rows hserve hopc rfl ha hb hc (by omega) (by omega) (by rw [hmod]; rfl)
    (.inr (by rw [show specProvcfg.named (q.cmd s) = q.ctx from rfl, hlive]; decide))
    ((wide_eq_false_iff ..).2 ⟨fun h => absurd rfl h, fun h => absurd rfl h, fun h => absurd rfl h, fun _ => himm⟩)

theorem setProv_of_reserved {c : Cmd} (h : c.imm = 3) : setProv c s = reject s stBadOperand := if_pos h

theorem setProv_of_ready {c : Cmd} (himm : c.imm ≠ 3) (hctx : c.ctx ≠ 0) (hlive : (s.ctx c.ctx).st = .live)
    (hslot : (s.ctx c.ctx).anySlot = false) (hsize : s.reg Reg.hubProvSize % 2 ^ 16 ≠ 0) :
    setProv c s = (s.setCtx c.ctx { s.ctx c.ctx with provMode := c.imm }, .ok 0) := by
  unfold setProv
  rw [if_neg himm, if_neg (not_or.2 ⟨hctx, not_or.2 ⟨not_not.2 hlive, not_or.2 ⟨by rw [hslot]; decide, hsize⟩⟩⟩)]

theorem setProv_of_illegal {c : Cmd} (himm : c.imm ≠ 3) (h : (s.ctx c.ctx).anySlot = true ∨ s.reg Reg.hubProvSize % 2 ^ 16 = 0) :
    setProv c s = reject s stIllegalState := by
  unfold setProv
  rw [if_neg himm, if_pos (.inr (.inr h))]

theorem exec_provcfg_of_ready (h : s.Passes q specProvcfg) (himm : q.imm ≠ 3) (hctx : q.ctx ≠ 0) (hlive : (s.ctx q.ctx).st = .live)
    (hslot : (s.ctx q.ctx).anySlot = false) (hsize : s.reg Reg.hubProvSize % 2 ^ 16 ≠ 0) : exec (.provcfg q.issue) s =
      .next (((s.noted q).setCtx q.ctx { s.ctx q.ctx with provMode := q.imm }).count Reg.hubCntCmd) := by
  rw [exec_provcfg, runCmd_of_done h (f := fun t => t.setCtx q.ctx { s.ctx q.ctx with provMode := q.imm }) (v := fun _ => 0)]
  intro t ht
  have hreg : t.reg Reg.hubProvSize = s.reg Reg.hubProvSize := ht.reg _ (by unfold journalReg; decide)
  rw [body_specProvcfg, ← ht.ctx]
  exact setProv_of_ready (c := q.cmd s) himm hctx ((congrArg Ctx.st (ht.ctx _)).trans hlive)
    ((congrArg Ctx.anySlot (ht.ctx _)).trans hslot) (by rw [hreg]; exact hsize)

end

/-! ### PAIRCFG (R317) -/

theorem ctx_unpair (s : State) (c d : Nat) : (s.unpair c).ctx d =
    if c = d then { s.ctx c with slots := (s.ctx c).slots.map (fun k => { k with sentAt := [] }) } else s.ctx d := ctx_setCtx ..

theorem ctx_unpair_of_ne (s : State) {c d : Nat} (h : d ≠ c) : (s.unpair c).ctx d = s.ctx d := by
  rw [ctx_unpair, if_neg (Ne.symm h)]

theorem pairings_unpair (s : State) (c : Nat) : (s.unpair c).pairings = s.pairings.filter (fun p => p.ctx != c) := rfl

theorem ne_of_mem_unpair {s : State} {c : Nat} {p : Pairing} (h : p ∈ (s.unpair c).pairings) : p.ctx ≠ c := by
  rw [pairings_unpair] at h
  simpa using (List.mem_filter.1 h).2

theorem unpair_frame (s : State) (c : Nat) : s.unpair c = { s with pairings := (s.unpair c).pairings, ctxs := (s.unpair c).ctxs } := rfl

theorem freePairIdx_congr {s t : State} (h : t.pairings = s.pairings) : t.freePairIdx = s.freePairIdx := by
  rw [State.freePairIdx, h]
  rfl

/-- The pairing of context `c` with a partner under index `i`, in place of any that it had. -/
def State.paired (s : State) (c partner i : Nat) : State :=
  { s.unpair c with pairings := (s.unpair c).pairings ++ [{ idx := i, ctx := c, partner := partner }] }

theorem paired_frame (s : State) (c partner i : Nat) :
    s.paired c partner i = { s with pairings := (s.paired c partner i).pairings, ctxs := (s.paired c partner i).ctxs } := rfl

theorem ctx_paired_of_ne (s : State) {c d : Nat} (h : d ≠ c) (partner i : Nat) : (s.paired c partner i).ctx d = s.ctx d := ctx_unpair_of_ne s h

section
variable {s : State} {q : CoreCmd}

theorem passes_paircfg (hserve : s.serving q.k = true) (hopc : q.opc = 0x52) (hmod : q.mod = 0) (himm : q.imm < 2)
    (ha : q.a < 2 ^ 16) (hb : q.b < 2 ^ 16) (hc : q.c < 2 ^ 64) (hlive : (s.ctx q.a).st = .live) : s.Passes q specPaircfg :=
  passes_of_rows hserve hopc rfl (by omega) (by omega) hc (by omega) (by omega) (by rw [hmod]; rfl)
    (.inr (by rw [show specPaircfg.named (q.cmd s) = q.a from rfl, hlive]; decide))
    ((wide_eq_false_iff ..).2 ⟨fun _ => ha, fun _ => hb, fun h => absurd rfl h, fun _ => himm⟩)

section
variable {c : Cmd} (hlive : (s.ctx c.a).st = .live) (hslot : (s.ctx c.a).anySlot = false)
include hlive hslot

theorem setPair_of_ending (himm : c.imm = 0) : setPair' c s = (s.unpair c.a, .ok 0) := by
  simp [setPair', hlive, hslot, himm]

theorem setPair_of_taken (himm : c.imm = 1) (h : ∃ p ∈ s.pairings, p.ctx ≠ c.a ∧ p.partner = c.b) :
    setPair' c s = reject s stIllegalState := by
  simp [setPair', hlive, hslot, himm, h]

theorem setPair_of_free (himm : c.imm = 1) (hnew : ∀ p ∈ s.pairings, p.ctx = c.a ∨ p.partner ≠ c.b)
    (hbase : s.rwl.contains Reg.hubPairBase = true) {i : Nat} (hidx : (s.unpair c.a).freePairIdx = some i) :
    setPair' c s = (s.paired c.a c.b i, .ok 0) := by
  have hany : s.pairings.any (fun p => p.ctx != c.a && p.partner == c.b) = false := by
    simpa [List.any_eq_false, imp_iff_not_or] using hnew
  unfold setPair'
  dsimp only
  rw [if_neg (by simp [hlive, hslot]), if_neg (by omega), if_neg (by rw [hany, hbase]; decide), hidx]
  rfl

end

theorem exec_paircfg_of_ending (h : s.Passes q specPaircfg) (hlive : (s.ctx q.a).st = .live) (hslot : (s.ctx q.a).anySlot = false)
    (himm : q.imm = 0) : exec (.paircfg q.issue) s = .next (((s.noted q).unpair q.a).count Reg.hubCntCmd) := by
  rw [exec_paircfg, runCmd_of_done h (f := fun t => t.unpair q.a) (v := fun _ => 0)]
  intro t ht
  rw [body_specPaircfg]
  exact setPair_of_ending (c := q.cmd s) ((congrArg Ctx.st (ht.ctx _)).trans hlive) ((congrArg Ctx.anySlot (ht.ctx _)).trans hslot) himm

theorem exec_paircfg_of_free (h : s.Passes q specPaircfg) (hlive : (s.ctx q.a).st = .live) (hslot : (s.ctx q.a).anySlot = false)
    (himm : q.imm = 1) (hnew : ∀ p ∈ s.pairings, p.ctx = q.a ∨ p.partner ≠ q.b) (hbase : s.rwl.contains Reg.hubPairBase = true) {i : Nat}
    (hidx : (s.unpair q.a).freePairIdx = some i) : exec (.paircfg q.issue) s = .next (((s.noted q).paired q.a q.b i).count Reg.hubCntCmd) := by
  rw [exec_paircfg, runCmd_of_done h (f := fun t => t.paired q.a q.b i) (v := fun _ => 0)]
  intro t ht
  have hpairs : (t.unpair q.a).pairings = (s.unpair q.a).pairings := by rw [pairings_unpair, pairings_unpair, ht.pairings]
  have hrwl : t.rwl = s.rwl := (congrArg State.rwl ht.frame :)
  rw [body_specPaircfg]
  exact setPair_of_free (c := q.cmd s) ((congrArg Ctx.st (ht.ctx _)).trans hlive) ((congrArg Ctx.anySlot (ht.ctx _)).trans hslot) himm
    (by rw [ht.pairings]; exact hnew) (by rw [hrwl]; exact hbase) ((freePairIdx_congr hpairs).trans hidx)

end

/-- Settles O33: each command by its own condition, which an entry of the journal leaves. -/
theorem provenanceAndPairing : Obligations.ProvenanceAndPairing := by
  unfold Obligations.ProvenanceAndPairing
  refine ⟨fun s q hopc hserve hctx hmod himm ha hb hc hlive => ?prov, fun s q hopc hserve _ hmod himm ha hb hc hlive hslot => ?pair⟩
  case prov =>
    have hpass := passes_provcfg hserve hopc hmod himm ha hb hc hlive
    refine ⟨fun h => ?_, fun h => exec_provcfg_of_ready hpass h hctx hlive, fun h hillegal => ?_⟩
    · rw [exec_provcfg, runCmd_of_rejected hpass (setProv_of_reserved (c := q.cmd s) h)]
    · rw [exec_provcfg, runCmd_of_rejected hpass (setProv_of_illegal (c := q.cmd s) h hillegal)]
  case pair =>
    have hpass := passes_paircfg hserve hopc hmod himm ha hb hc hlive
    have hnoted := State.JournalOnly.noted s q stOk 0
    refine ⟨fun hend => ⟨_, exec_paircfg_of_ending hpass hlive hslot hend, fun p hp => ne_of_mem_unpair hp, ?_, fun c hc => ?_,
        unpair_frame ..⟩,
      fun i hone hnew hbase hidx => ⟨_, exec_paircfg_of_free hpass hlive hslot hone hnew hbase hidx, ?_, fun c hc => ?_, paired_frame ..⟩,
      fun hone htaken => ?_⟩
    · rw [pairings_unpair, hnoted.pairings]
    · rw [ctx_unpair_of_ne _ hc, hnoted.ctx]
    · rw [State.paired, pairings_unpair, hnoted.pairings]
    · rw [ctx_paired_of_ne _ hc, hnoted.ctx]
    · rw [exec_paircfg, runCmd_of_rejected hpass (setPair_of_taken (c := q.cmd s) hlive hslot hone htaken)]

end Sys2Proof.Machine
end

section
/-! Messages of mirrors and hosts at the peer message port (R329 to R333, R348 to R350, R468): what a message sent or taken leaves, the
copy that a mirror makes, and the receive ring. -/

namespace Sys2Proof.Machine

/-! ### Messages sent (R468) -/

theorem sendPeer_frame (s : State) (cls dst : Nat) (body : Bytes) : ∃ p o, s.sendPeer cls dst body = { s with peer := p, out := o } := by
  unfold State.sendPeer
  dsimp only
  split_ifs
  · exact ⟨_, _, rfl⟩
  · exact ⟨_, s.out, rfl⟩

theorem ctx_sendPeer (s : State) (cls dst : Nat) (body : Bytes) (c : Nat) : (s.sendPeer cls dst body).ctx c = s.ctx c := by
  obtain ⟨_, _, hsend⟩ := sendPeer_frame s cls dst body
  rw [hsend]
  rfl

/-- A message leaves at once or joins the queue of its class, where the port has one. -/
theorem sendPeer_sends (s : State) (cls dst : Nat) (body : Bytes) :
    (s.sendPeer cls dst body).out = s.out ++ [.peer (s.envelope cls dst body)] ∨
      ((s.sendPeer cls dst body).out = s.out ∧ s.envelope cls dst body ∈ (s.sendPeer cls dst body).peer.queue cls) ∨
      s.peer.queues.length ≤ cls := by
  unfold State.sendPeer
  dsimp only
  split_ifs
  · exact .inl rfl
  · refine .inr ((Nat.lt_or_ge cls s.peer.queues.length).imp (fun hcls => ⟨rfl, ?_⟩) id)
    simp [Peer.queue, setAt_eq_set, hcls]

/-- KIND of a message between buddies is its first byte. -/
theorem kind_buddyBody (s : State) (cls dst : Nat) {kind : Nat} (hkind : kind < 256) (status ctx step blk : Nat) :
    (s.envelope cls dst (buddyBody kind status ctx step blk)).kind = kind := by
  have hassoc : buddyBody kind status ctx step blk = toLe 1 kind ++ (toLe 1 status ++ toLe 2 ctx ++ toLe 4 step ++ toLe 8 blk ++ zeros 48) := by
    simp only [buddyBody, List.append_assoc]
  rw [PeerMsg.kind, State.envelope, hassoc, leAt_toLe_append]
  exact Nat.mod_eq_of_lt hkind

/-! ### Messages taken (R331) -/

theorem accepts_eq_false {s : State} {m : PeerMsg} (h : m.crc ≠ m.crcOf ∨ m.dst ≠ s.agent ∨ m.kindOk = false) : s.accepts m = false := by
  simpa [State.accepts, imp_iff_not_or, or_assoc] using h

theorem reg_takePeer_of_ne (s : State) (m : PeerMsg) {a : Nat} (ha : a ≠ Reg.hubCntPeerRx) : (s.takePeer m).reg a = s.reg a :=
  (reg_count ..).trans (if_neg (Ne.symm ha))

theorem inHold_takePeer (s : State) (m : PeerMsg) (blk : Nat) : (s.takePeer m).inHold blk = s.inHold blk := by
  rw [State.inHold, reg_takePeer_of_ne s m (by decide), reg_takePeer_of_ne s m (by decide)]
  rfl

theorem exec_peerMessageDiscard_of_bad {s : State} {m : PeerMsg} (h : s.accepts m = false) : exec (.peerMessageDiscard m) s =
    .next ((s.count Reg.hubCntPeerDiscard).emit (.credit (m.cls % 4))) := by
  have hexec : exec (.peerMessageDiscard m) s = .next (if s.accepts m then s else s.discardPeer m) := rfl
  rw [hexec, h]
  rfl

theorem exec_peerCreditReturn {k : Nat} (hk : k < 4) (s : State) : exec (.peerCreditReturn k) s = .next (s.creditReturn k) :=
  congrArg (fun x => Host.Outcome.next (s.creditReturn x)) (Nat.mod_eq_of_lt hk)

theorem creditReturn_of_waiting {s : State} {k : Nat} {m : PeerMsg} {rest : List PeerMsg} (h : s.peer.queue k = m :: rest) :
    s.creditReturn k = { s with peer := { s.peer with queues := setAt s.peer.queues k rest }, out := s.out ++ [.peer m] } := by
  rw [State.creditReturn, h]

theorem creditReturn_of_empty {s : State} {k : Nat} (h : s.peer.queue k = []) :
    s.creditReturn k = { s with peer := { s.peer with credits := setAt s.peer.credits k (s.peer.credit k + 1) } } := by
  rw [State.creditReturn, h]

/-! ### The copy of a mirror (R348) -/

theorem ioOnly_copyRun (s : State) (c src dst n : Nat) : s.IoOnly (s.copyRun c src dst n) := by
  induction n generalizing s src dst with
  | zero => exact .refl s
  | succ n ih => exact (State.IoOnly.writeZ ..).trans (ih ..)

theorem ioOnly_copyShards (s : State) (c : Nat) (l : List (Shard × Nat)) : s.IoOnly (s.copyShards c l) := by
  induction l generalizing s with
  | nil => exact .refl s
  | cons x l ih => exact (ioOnly_copyRun ..).trans (ih _)

/-- The state once every region of the step's parity and the manifest have been copied. -/
def State.mirrorCopied (s : State) (c step : Nat) (b : Buddy) : State :=
  let m := s.block b.map
  let p := step % 2
  ((s.copyShards c ((mapShards m p).zip (mapHolds m p))).copyRun c (mapMan m p) (mapHman m p) 1).retire (fun a => a == .mirror c)

theorem ioOnly_mirrorCopied (s : State) (c step : Nat) (b : Buddy) : s.IoOnly (s.mirrorCopied c step b) :=
  ((ioOnly_copyShards ..).trans (ioOnly_copyRun ..)).trans (State.IoOnly.retire ..)

/-- The buddy's answer to the copy is awaited as of now. -/
def State.mirrorWaiting (s : State) (c step : Nat) (again : Bool) (b : Buddy) : State :=
  (s.mirrorCopied c step b).setCtx c { s.ctx c with buddy := some { b with mirror := .waiting step again s.time } }

theorem mirrorWaiting_leaves (s : State) (c step : Nat) (again : Bool) (b : Buddy) :
    (s.mirrorWaiting c step again b).out = s.out ∧ (s.mirrorWaiting c step again b).peer = s.peer ∧
      ∀ d, (s.mirrorWaiting c step again b).ctx d =
        if c = d then { s.ctx c with buddy := some { b with mirror := .waiting step again s.time } } else s.ctx d := by
  have hio := ioOnly_mirrorCopied s c step b
  have hout : (s.mirrorCopied c step b).out = s.out := (congrArg State.out hio.frame :)
  have hpeer : (s.mirrorCopied c step b).peer = s.peer := (congrArg State.peer hio.frame :)
  have hctx (d : Nat) : (s.mirrorCopied c step b).ctx d = s.ctx d := congrArg (fun t => Tab.get ({} : Ctx) t d) hio.ctxs
  refine ⟨by rw [State.mirrorWaiting, setCtx_out, hout], by rw [State.mirrorWaiting, setCtx_peer, hpeer], fun d => ?_⟩
  rw [State.mirrorWaiting, ctx_setCtx, hctx]

theorem exec_mirrorCopyDone_of_copying {s : State} {c step : Nat} {b : Buddy} {again : Bool} (hbuddy : (s.ctx c).buddy = some b)
    (hmirror : b.mirror = .copying step again) : exec (.mirrorCopyDone c) s = .next ((s.mirrorWaiting c step again b).sendPeer 2 b.agent
      (buddyBody 0x30 0 c step (mapHman (s.block b.map) (step % 2)))) := by
  have hctx : (s.mirrorCopied c step b).ctx c = s.ctx c := congrArg (fun t => Tab.get ({} : Ctx) t c) (ioOnly_mirrorCopied s c step b).ctxs
  have hexec : exec (.mirrorCopyDone c) s = execMirrorCopyDone c s := rfl
  rw [hexec, execMirrorCopyDone, hbuddy]
  dsimp only
  rw [hmirror, State.mirrorWaiting, ← hctx]
  rfl

/-- MIRROR_DONE leaves or waits in its class, and the mirror waits for the answer. -/
theorem mirrorCopyDone_leaves {s : State} {c step : Nat} {b : Buddy} {again : Bool} (hbuddy : (s.ctx c).buddy = some b)
    (hmirror : b.mirror = .copying step again) : ∃ u m, exec (.mirrorCopyDone c) s = .next u ∧
      (u.ctx c).buddy = some { b with mirror := .waiting step again s.time } ∧ m.dst = b.agent ∧ m.kind = 0x30 ∧ m.cls = 2 ∧
      (u.out = s.out ++ [.peer m] ∨ (u.out = s.out ∧ m ∈ u.peer.queue 2) ∨ s.peer.queues.length ≤ 2) ∧
      (∀ d, d ≠ c → u.ctx d = s.ctx d) := by
  obtain ⟨hout, hpeer, hctx⟩ := mirrorWaiting_leaves s c step again b
  have hsends := sendPeer_sends (s.mirrorWaiting c step again b) 2 b.agent (buddyBody 0x30 0 c step (mapHman (s.block b.map) (step % 2)))
  rw [hout, hpeer] at hsends
  refine ⟨_, _, exec_mirrorCopyDone_of_copying hbuddy hmirror, ?_, rfl, kind_buddyBody _ 2 b.agent (by decide) .., rfl, hsends,
    fun d hd => ?_⟩
  · rw [ctx_sendPeer, hctx, if_pos rfl]
  · rw [ctx_sendPeer, hctx, if_neg (Ne.symm hd)]

/-! ### MIRROR_ACK and MIRROR_DONE (R349, R350) -/

theorem exec_mirrorAck_of_accepts {s : State} {m : PeerMsg} (hok : s.accepts m = true) (hkind : m.kind = 0x31) :
    exec (.mirrorAck m) s = .next ((s.takePeer m).mirrorAnswer m) := by
  have hexec : exec (.mirrorAck m) s = .next (if ! s.accepts m then s.discardPeer m
    else if m.kind = 0x31 then (s.takePeer m).mirrorAnswer m else s) := rfl
  rw [hexec, hok, if_pos hkind]
  rfl

theorem mirrorAnswer_of_ok {s : State} {m : PeerMsg} {c step t : Nat} {b : Buddy} {again : Bool} (hc : leAt m.body 2 2 = c)
    (hbuddy : (s.ctx c).buddy = some b) (hmirror : b.mirror = .waiting step again t) (hsrc : m.src = b.agent)
    (hstep : leAt m.body 4 4 = step) (hst : leAt m.body 1 1 = stOk) :
    s.mirrorAnswer m = s.setCtx c { s.ctx c with buddy := some { b with mirror := .none } } := by
  unfold State.mirrorAnswer
  dsimp only
  rw [hc, hbuddy]
  dsimp only
  rw [hmirror]
  exact (if_pos ⟨hsrc, hstep⟩).trans (if_pos hst)

/-- The answer is awaited for HUB_BUDDY_CTRL.TIMEOUT milliseconds. -/
theorem exec_mirrorAckTimeout_of_waiting {s : State} {c step t : Nat} {b : Buddy} (hbuddy : (s.ctx c).buddy = some b)
    (hmirror : b.mirror = .waiting step false t) (hlimit : s.reg Reg.hubBuddyCtrl % 256 ≠ 0) : exec (.mirrorAckTimeout c) s =
      .next (if t + s.reg Reg.hubBuddyCtrl % 256 * 100000 ≤ s.time then s.mirrorFail c step b false else s) := by
  have hexec : exec (.mirrorAckTimeout c) s = execMirrorAckTimeout c s := rfl
  rw [hexec, execMirrorAckTimeout, hbuddy]
  dsimp only
  rw [hmirror, Nat.max_eq_right (Nat.pos_of_ne_zero hlimit)]
  rfl

theorem exec_mirrorDone_of_accepts {s : State} {m : PeerMsg} (hok : s.accepts m = true) (hkind : m.kind = 0x30) :
    exec (.mirrorDone m) s = .next ((s.takePeer m).mirrorCheck m) := by
  have hexec : exec (.mirrorDone m) s = .next (if ! s.accepts m then s.discardPeer m
    else if m.kind = 0x30 then (s.takePeer m).mirrorCheck m else s) := rfl
  rw [hexec, hok, if_pos hkind]
  rfl

theorem mirrorCheck_of_outside {s : State} {m : PeerMsg} (h : s.inHold (leAt m.body 8 8) = false) :
    s.mirrorCheck m = s.ackMirror m.src (leAt m.body 2 2) (leAt m.body 4 4) stIllegalState := if_pos (by rw [h]; rfl)

theorem mirrorCheck_of_inside {s : State} {m : PeerMsg} (h : s.inHold (leAt m.body 8 8) = true) : s.mirrorCheck m =
    s.queueCkpt { kind := .mirror m.src, ctx := leAt m.body 2 2, step := leAt m.body 4 4, blk := leAt m.body 8 8 } :=
  if_neg (by rw [h]; decide)

/-! ### The receive ring (R333) -/

theorem exec_hostMessage_of_accepts {s : State} {m : PeerMsg} (hok : s.accepts m = true) (hcls : m.cls = 3) :
    exec (.hostMessage m) s = .next (s.rxTake m) := by
  have hexec : exec (.hostMessage m) s = .next (if ! s.accepts m then s.discardPeer m else if m.cls = 3 then s.rxTake m else s) := rfl
  rw [hexec, hok, if_pos hcls]
  rfl

theorem rxTake_of_full {s : State} (h : 256 ≤ s.rxUsed) (m : PeerMsg) :
    s.rxTake m = { s with peer := { s.peer with rxWait := s.peer.rxWait ++ [m] } } := if_pos h

/-- The entry of the ring at PROD. -/
def State.rxPlace (s : State) : Nat := s.reg Reg.hubPeerRxBase * 64 * 4096 + 64 * (s.peer.prod % 256)

theorem rxTake_of_room {s : State} {m : PeerMsg} (hroom : s.rxUsed < 256) (hlen : m.body.length = 64) (hstall : s.bothStalled = false) :
    ∃ p0 p1 f, s.rxTake m = ({ (s.setBytes s.rxPlace m.body).setSb (s.rxPlace / 4096) 0 with
      port0 := p0, port1 := p1, cfl := f, peer := { s.peer with prod := (s.peer.prod + 1) % 2 ^ 16 } } : State).takePeer m := by
  obtain ⟨p0, p1, f, hw⟩ := writeZ_of_free hstall s.rxPlace m.body .peerRx
  have hbody : slice (m.body ++ zeros 64) 0 64 = m.body := by
    simp [slice, hlen, zeros]
  refine ⟨p0, p1, f, ?_⟩
  unfold State.rxTake
  rw [if_neg (Nat.not_le.2 hroom), hbody]
  dsimp only
  rw [show s.writeZ (s.reg Reg.hubPeerRxBase * 64 * 4096 + 64 * (s.peer.prod % 256)) m.body .peerRx = _ from hw]
  rfl

theorem hostMessage_leaves {s : State} {m : PeerMsg} (hok : s.accepts m = true) (hcls : m.cls = 3) (hlen : m.body.length = 64)
    (hroom : s.rxUsed < 256) (hstall : s.bothStalled = false) : ∃ u, exec (.hostMessage m) s = .next u ∧ u.bytes s.rxPlace 64 = m.body ∧
      u.peer.prod = (s.peer.prod + 1) % 2 ^ 16 ∧ u.out = s.out ++ [.credit 3] ∧
      (∀ x, x < s.rxPlace ∨ s.rxPlace + 64 ≤ x → Tab.get 0 u.mem x = Tab.get 0 s.mem x) := by
  obtain ⟨p0, p1, f, htake⟩ := rxTake_of_room hroom hlen hstall
  rw [exec_hostMessage_of_accepts hok hcls, htake]
  refine ⟨_, rfl, ?_, rfl, ?_, fun x hx => ?_⟩
  · rw [← hlen]
    exact bytes_setBytes_self s s.rxPlace m.body
  · have hcredit : m.cls % 4 = 3 := by rw [hcls]
    rw [← hcredit]
    rfl
  · exact (tab_get_setRun 0 s.mem s.rxPlace m.body x).trans (if_neg (by omega))

theorem exec_hubPeerRxConsWrite (src : Src) (v : Nat) (s : State) : exec (.hubPeerRxConsWrite src v) s =
    .next ((s.writeCons v).emit (.regRsp src Reg.hubPeerRxPtr 0 0)) :=
  congrArg Host.Outcome.next (writeAccess_eq_emit src (respCode_hub s (by decide) (by decide)) fun q => q.writeCons v)

theorem writeCons_of_posted {s : State} {v : Nat} (hwait : s.peer.rxWait = []) (h : (v % 2 ^ 16 + 2 ^ 16 - s.rxCons) % 2 ^ 16 ≤ s.rxUsed) :
    s.writeCons v = s.setReg Reg.hubPeerRxPtr (v % 2 ^ 16) := by
  unfold State.writeCons
  rw [if_neg (Nat.not_lt.2 h)]
  dsimp only
  have hpeer : { (s.setReg Reg.hubPeerRxPtr (v % 2 ^ 16)).peer with rxWait := [] } = s.peer := by
    rw [← hwait]
    rfl
  rw [hpeer, show (s.setReg Reg.hubPeerRxPtr (v % 2 ^ 16)).peer.rxWait = [] from hwait]
  rfl

theorem writeCons_of_beyond {s : State} {v : Nat} (h : s.rxUsed < (v % 2 ^ 16 + 2 ^ 16 - s.rxCons) % 2 ^ 16) : s.writeCons v = s := if_pos h

end Sys2Proof.Machine
end

section
/-! Messages of paired partners (R318 to R322, R327, R331): the step that a divergence abandons, what a flush of a pairing sends and
compares, and the partner that does not answer in time. -/

namespace Sys2Proof.Machine

/-! ### The abandonment of the only open step (R228, R321) -/

/-- NULL for buckets leaves the pairings and every register but the count of what is released. -/
theorem nullBuckets_frame (s : State) (c k : Nat) (bs : List Nat) :
    (∃ r cs p o, s.nullBuckets c k bs = { s with regs := r, ctxs := cs, peer := p, out := o }) ∧
      ∀ a, a ≠ Reg.lidCntReleased → (s.nullBuckets c k bs).reg a = s.reg a := by
  induction bs generalizing s with
  | nil => exact ⟨⟨_, _, _, _, rfl⟩, fun _ _ => rfl⟩
  | cons b bs ih =>
    obtain ⟨⟨r, cs, p, o, hrest⟩, hreg⟩ := ih (s.nullBucket c k b)
    obtain ⟨p1, o1, hgate⟩ := gate_frame (s.setSlot c k ((s.slot c k).nullOf b)) c gkNull 0 b (s.slot c k).step 0 0
    have hone : s.nullBucket c k b = ({ s.setSlot c k ((s.slot c k).nullOf b) with peer := p1, out := o1 } : State).count Reg.lidCntReleased :=
      congrArg (State.count · Reg.lidCntReleased) hgate
    refine ⟨⟨r, cs, p, o, ?_⟩, fun a ha => (hreg a ha).trans ?_⟩
    · rw [show s.nullBuckets c k (b :: bs) = (s.nullBucket c k b).nullBuckets c k bs from rfl, hrest, hone]
      rfl
    · rw [hone, reg_count, if_neg (Ne.symm ha)]
      rfl

theorem reg_setCtx (s : State) (c : Nat) (v : Ctx) (a : Nat) : (s.setCtx c v).reg a = s.reg a := rfl

theorem pairings_stepDropped (s : State) (c step : Nat) : (s.stepDropped c step).pairings =
    s.pairings.map (fun p => if p.ctx == c then { p with held := p.held.filter (fun m => m.step != step) } else p) := rfl

theorem reg_stepDropped_of_ne (s : State) (c step : Nat) {a : Nat} (ha : a ≠ Reg.lidCntAbandoned) : (s.stepDropped c step).reg a = s.reg a :=
  (reg_count ((s.dropSamples c step 0).dropPending c step) Reg.lidCntAbandoned a).trans (if_neg (Ne.symm ha))

/-- An abandonment drops held messages of its step from the pairings, and writes two counters of the Lid. -/
theorem abandonOne_leaves {s : State} {c k : Nat} (h : (s.slot c k).live = true) (cause opseq : Nat) :
    (s.abandonOne c k cause opseq).pairings = s.pairings.map (fun p => if p.ctx == c then
      { p with held := p.held.filter (fun m => m.step != (s.slot c k).step) } else p) ∧
    ∀ a, a ≠ Reg.lidCntReleased → a ≠ Reg.lidCntAbandoned → (s.abandonOne c k cause opseq).reg a = s.reg a := by
  obtain ⟨⟨_, _, _, _, hnull⟩, hreg⟩ := nullBuckets_frame (s.slotAbandoned c k cause opseq) c k (s.slot c k).knownOpen
  obtain ⟨_, _, hgate⟩ := gate_frame (s.setSlot c k ((s.slot c k).abandonedAt cause s.time)) c gkAbandon cause 0 (s.slot c k).step opseq 0
  have hpairings : (s.slotNulled c k cause opseq).pairings = s.pairings := by
    rw [State.slotNulled, hnull, State.slotAbandoned, hgate]
    rfl
  rw [abandonOne_of_live h]
  refine ⟨?_, fun a hreleased habandoned => ?_⟩
  · rw [State.latched, setCtx_pairings, pairings_stepDropped, hpairings]
  · rw [State.latched, reg_setCtx, reg_stepDropped_of_ne _ _ _ habandoned, State.slotNulled, hreg a hreleased, State.slotAbandoned, reg_gate]
    rfl

/-- A context without another open step has no later one. -/
theorem later_of_alone {e : Ctx} {k : Nat} (halone : ∀ j, j ≠ k → (e.slot j).live = false) : e.later (e.slot k).step = [] := by
  refine List.filterMap_eq_nil_iff.2 fun d hd => Option.eq_none_iff_forall_ne_some.2 fun j hj => ?_
  have hd : d = 1 ∨ d = 2 ∨ d = 3 := by simpa using hd
  obtain ⟨hlive, hstep⟩ := Bool.and_eq_true_iff.1 (of_find hj)
  by_cases hjk : j = k
  · rw [hjk] at hstep
    have := beq_iff_eq.1 hstep
    omega
  · rw [halone j hjk] at hlive
    cases hlive

theorem abandon_of_alone {s : State} {c k : Nat} (hlive : (s.slot c k).live = true) (halone : ∀ j, j ≠ k → (s.slot c j).live = false)
    (cause opseq : Nat) : s.abandon c k cause opseq = s.abandonOne c k cause opseq := by
  unfold State.abandon
  dsimp only
  rw [hlive, show (s.ctx c).later (s.slot c k).step = [] from later_of_alone halone]
  rfl

/-! ### A divergence (R321, R327) -/

theorem regsOnly_pairCapture (s : State) (c k kind q loc ptn : Nat) : s.RegsOnly (s.pairCapture c k kind q loc ptn) := by
  unfold State.pairCapture
  dsimp only
  split_ifs
  · exact .refl s
  all_goals exact ((((((((regsOnly_setReg ..).trans (regsOnly_setReg ..)).trans (regsOnly_setReg ..)).trans (regsOnly_setReg ..)).trans
    (regsOnly_setReg ..)).trans (regsOnly_setReg ..)).trans (regsOnly_setReg ..)).trans (regsOnly_setReg ..)).trans (regsOnly_setBits ..)

/-- The capture writes its own registers and HUB_PAIR_STATUS. -/
theorem reg_pairCapture_of_counter (s : State) (c k kind q loc ptn : Nat) {a : Nat} (ha : Reg.hubPairCapPtnHi < a) :
    (s.pairCapture c k kind q loc ptn).reg a = s.reg a := by
  have hset (u : State) (b v : Nat) (hb : b ≤ Reg.hubPairCapPtnHi) : (u.setReg b v).reg a = u.reg a := (reg_setReg ..).trans (if_neg (by omega))
  have hbits (u : State) (b m : Nat) (hb : b ≤ Reg.hubPairCapPtnHi) : (u.setBits b m).reg a = u.reg a := hset u b _ hb
  unfold State.pairCapture
  dsimp only
  split_ifs
  · rfl
  all_goals simp (disch := decide) only [hset, hbits]

/-- The state in which a divergence is captured and counted, before its step is abandoned. -/
def State.diverged (s : State) (c k kind q loc ptn : Nat) : State :=
  ((s.pairCapture c k kind q loc ptn).setBits Reg.hubPairStatus 2).count Reg.hubCntPairDiverge

theorem regsOnly_diverged (s : State) (c k kind q loc ptn : Nat) : s.RegsOnly (s.diverged c k kind q loc ptn) :=
  ((regsOnly_pairCapture ..).trans (regsOnly_setBits ..)).trans (regsOnly_count ..)

theorem bit_diverged (s : State) (c k kind q loc ptn : Nat) : (s.diverged c k kind q loc ptn).bit Reg.hubPairStatus 1 = true :=
  (bit_congr ((reg_count ..).trans (if_neg (by decide))) 1).trans (bit_setBits_self _ _ (i := 1) (by decide))

theorem reg_diverged (s : State) (c k kind q loc ptn : Nat) :
    (s.diverged c k kind q loc ptn).reg Reg.hubCntPairDiverge = min (2 ^ 32 - 1) (s.reg Reg.hubCntPairDiverge + 1) := by
  rw [State.diverged, reg_count, if_pos rfl, reg_setBits, if_neg (by decide), reg_pairCapture_of_counter _ _ _ _ _ _ _ (by decide)]

theorem State.RegsOnly.slot {s t : State} (h : s.RegsOnly t) (c k : Nat) : t.slot c k = s.slot c k := by
  obtain ⟨_, rfl⟩ := h
  rfl

theorem State.RegsOnly.ctx {s t : State} (h : s.RegsOnly t) (c : Nat) : t.ctx c = s.ctx c := by
  obtain ⟨_, rfl⟩ := h
  rfl

theorem State.RegsOnly.pairings {s t : State} (h : s.RegsOnly t) : t.pairings = s.pairings := by
  obtain ⟨_, rfl⟩ := h
  rfl

/-- What a divergence shows of the abandoned step, in the registers and in the other contexts. -/
structure State.Diverges (s : State) (c k : Nat) (u : State) : Prop where
  st : (u.slot c k).st = .abandoned
  cause : (u.slot c k).cause = 9
  flag : u.bit Reg.hubPairStatus 1 = true
  counted : u.reg Reg.hubCntPairDiverge = min (2 ^ 32 - 1) (s.reg Reg.hubCntPairDiverge + 1)
  other : ∀ d, d ≠ c → u.ctx d = s.ctx d
  slots : ∀ j, j ≠ k → u.slot c j = s.slot c j
  pairings : ∀ q ∈ u.pairings, ∃ p ∈ s.pairings, q.ctx = p.ctx

theorem State.Diverges.shows {s u : State} {c k : Nat} (h : s.Diverges c k u) : (u.slot c k).st = .abandoned ∧ (u.slot c k).cause = 9 ∧
    u.bit Reg.hubPairStatus 1 = true ∧ u.reg Reg.hubCntPairDiverge = min (2 ^ 32 - 1) (s.reg Reg.hubCntPairDiverge + 1) ∧
    ∀ d, d ≠ c → u.ctx d = s.ctx d := ⟨h.st, h.cause, h.flag, h.counted, h.other⟩

theorem diverges_pairDiverge {s : State} {c k : Nat} (hlive : (s.slot c k).live = true)
    (halone : ∀ j, j ≠ k → (s.slot c j).live = false) (kind q loc ptn : Nat) : s.Diverges c k (s.pairDiverge c k kind q loc ptn) := by
  have hregs := regsOnly_diverged s c k kind q loc ptn
  have hlive' : ((s.diverged c k kind q loc ptn).slot c k).live = true := (congrArg Slot.live (hregs.slot c k)).trans hlive
  have habandon : s.pairDiverge c k kind q loc ptn = (s.diverged c k kind q loc ptn).abandonOne c k 9 (if kind = pkStep then 0 else q) :=
    abandon_of_alone hlive' (fun j hj => (congrArg Slot.live (hregs.slot c j)).trans (halone j hj)) 9 _
  obtain ⟨hpairings, hreg⟩ := abandonOne_leaves hlive' 9 (if kind = pkStep then 0 else q)
  obtain ⟨v, stats, hst, hcause, -, hctx⟩ := exists_ctx_abandonOne hlive' 9 (if kind = pkStep then 0 else q)
  have hk : k < ((s.diverged c k kind q loc ptn).ctx c).slots.length := lt_length_of_live hlive'
  have hslot : ((s.diverged c k kind q loc ptn).abandonOne c k 9 (if kind = pkStep then 0 else q)).slot c k = v := by
    simp [State.slot, hctx, Ctx.slot, hk]
  rw [habandon]
  exact
    { st := by rw [hslot, hst]
      cause := by rw [hslot, hcause]
      flag := (bit_congr (hreg _ (by decide) (by decide)) 1).trans (bit_diverged ..)
      counted := (hreg _ (by decide) (by decide)).trans (reg_diverged ..)
      other := fun d hd => ((hctx d).trans (if_neg (Ne.symm hd))).trans (hregs.ctx d)
      slots := fun j hj => (slot_abandonOne_of_ne _ c (Ne.symm hj) 9 _).trans (hregs.slot c j)
      pairings := fun q hq => by
        rw [hpairings, hregs.pairings] at hq
        obtain ⟨p, hp, rfl⟩ := List.mem_map.1 hq
        exact ⟨p, hp, by split_ifs <;> rfl⟩ }

/-! ### What a flush sends (R319) -/

/-- An open step of which nothing is left to send: each group has been sent, or has no digests yet. -/
def Slot.AllSent (sl : Slot) : Prop := sl.live = true → ∀ g, sl.grpSent.contains g = true ∨ sl.group g = none

theorem Slot.AllSent.of_not_live {sl : Slot} (h : sl.live = false) : sl.AllSent := fun hlive => absurd hlive (by rw [h]; decide)

/-- Neither what the partner has answered nor the times of what was sent decides what is left to send. -/
theorem Slot.AllSent.answered {sl : Slot} (h : sl.AllSent) (ok : List Nat) (stepOk : Bool) (times : List (Nat × Nat)) :
    ({ sl with grpOk := ok, stepOk := stepOk, sentAt := times } : Slot).AllSent := h

theorem pairSend_of_allSent {s : State} {c k : Nat} (h : ∀ g, (s.slot c k).grpSent.contains g = true ∨ (s.slot c k).group g = none)
    (p : Pairing) (gs : List Nat) : s.pairSend c k p gs = s := by
  induction gs with
  | nil => rfl
  | cons g gs ih =>
    unfold State.pairSend
    dsimp only
    cases hgroup : (s.slot c k).group g with
    | none => exact ih
    | some ds =>
      have hsent : (s.slot c k).grpSent.contains g = true := (h g).resolve_right (by rw [hgroup]; exact Option.some_ne_none _)
      dsimp only
      rw [if_pos (by rw [hsent]; simp)]
      exact ih

theorem pairSendStep_of_allSent {s : State} {p : Pairing} {k : Nat} (h : (s.slot p.ctx k).AllSent) : s.pairSendStep p k = s := by
  unfold State.pairSendStep
  dsimp only
  split_ifs with hlive
  · exact pairSend_of_allSent (h hlive) ..
  · rfl

theorem pairSendAll_of_allSent {s : State} {l : List (Pairing × Nat)} (h : ∀ x ∈ l, (s.slot x.1.ctx x.2).AllSent) : s.pairSendAll l = s := by
  induction l with
  | nil => rfl
  | cons x l ih =>
    obtain ⟨hx, hl⟩ := List.forall_mem_cons.1 h
    rw [show s.pairSendAll (x :: l) = (s.pairSendStep x.1 x.2).pairSendAll l from rfl, pairSendStep_of_allSent hx]
    exact ih hl

/-- With nothing left to send before it and after it, a flush compares what the only pairing holds. -/
theorem pairFlush_of_allSent {s t : State} {x : Pairing} {c k : Nat} (hpair : s.pairings = [x]) (hx : x.ctx = c)
    (hbefore : (s.slot c k).AllSent) (hmatch : s.pairMatch c k x.held = t) (hctx : ∀ p ∈ t.pairings, p.ctx = c)
    (hafter : ∀ j, (t.slot c j).AllSent) : s.pairFlush c k = t := by
  subst hx
  have hfind : s.pairing x.ctx = some x := by simp [State.pairing, hpair]
  unfold State.pairFlush
  rw [hfind]
  dsimp only
  rw [pairSendStep_of_allSent hbefore, hfind, Option.map_some, Option.getD_some, hmatch]
  refine pairSendAll_of_allSent fun y hy => ?_
  obtain ⟨p, hp, hy⟩ := List.mem_flatMap.1 hy
  obtain ⟨j, -, rfl⟩ := List.mem_map.1 hy
  rw [hctx p hp]
  exact hafter j

/-! ### What a flush compares (R320, R321) -/

theorem firstDiff_self (ds : List Nat) (i : Nat) : firstDiff ds ds i = none := by
  induction ds generalizing i with
  | nil => rfl
  | cons d ds ih => exact (if_pos rfl).trans (ih (i + 1))

section
variable {s : State} {c k base : Nat} {ds : List Nat}

/-- A group of the open step that has been sent and whose digests agree. -/
theorem pairMatch_of_equal (hlive : (s.slot c k).live = true) (hsent : base / 6 ∈ (s.slot c k).grpSent)
    (hnew : base / 6 ∉ (s.slot c k).grpOk) (hds : ds = (s.slot c k).stored (base / 6)) :
    s.pairMatch c k [.ops (s.slot c k).step base ds] = ((s.unhold c (.ops (s.slot c k).step base ds)).setSlot c k { s.slot c k with
      grpOk := (s.slot c k).grpOk ++ [base / 6]
      sentAt := (s.slot c k).sentAt.filter (fun x => x.1 != base / 6) }).count Reg.hubCntPairGroups := by
  subst hds
  simp [State.pairMatch, hlive, hsent, hnew, firstDiff_self]

theorem pairMatch_of_different {i a b : Nat} (hlive : (s.slot c k).live = true) (hsent : base / 6 ∈ (s.slot c k).grpSent)
    (hnew : base / 6 ∉ (s.slot c k).grpOk) (hdiff : firstDiff ((s.slot c k).stored (base / 6)) ds 0 = some (i, a, b)) :
    s.pairMatch c k [.ops (s.slot c k).step base ds] =
      (s.unhold c (.ops (s.slot c k).step base ds)).pairDiverge c k pkOp (6 * (base / 6) + i) a b := by
  simp [State.pairMatch, hlive, hsent, hnew, hdiff]

variable {n : Nat} {nulled : Bool}

theorem pairMatch_of_equalEnd (hlive : (s.slot c k).live = true) (hsent : (s.slot c k).stepSent = true) (hnew : (s.slot c k).stepOk = false)
    (hn : n = (s.slot c k).n) (hnulled : nulled = (s.slot c k).nulled) : s.pairMatch c k [.stepEnd (s.slot c k).step n nulled] =
      (s.unhold c (.stepEnd (s.slot c k).step n nulled)).setSlot c k { s.slot c k with
        stepOk := true, sentAt := (s.slot c k).sentAt.filter (fun x => x.1 != stepMark) } := by
  simp [State.pairMatch, hlive, hsent, hnew, hn, hnulled]

theorem pairMatch_of_differentEnd (hlive : (s.slot c k).live = true) (hsent : (s.slot c k).stepSent = true)
    (hnew : (s.slot c k).stepOk = false) (hdiff : n ≠ (s.slot c k).n ∨ nulled ≠ (s.slot c k).nulled) :
    s.pairMatch c k [.stepEnd (s.slot c k).step n nulled] =
      (s.unhold c (.stepEnd (s.slot c k).step n nulled)).pairDiverge c k pkStep (s.slot c k).n 0 0 := by
  have hneg : ¬ (n = (s.slot c k).n ∧ nulled = (s.slot c k).nulled) := by
    rintro ⟨hn, hnulled⟩
    exact hdiff.elim (· hn) (· hnulled)
  simp [State.pairMatch, hlive, hsent, hnew, hneg]

end

/-! ### A partner's message (R319 to R321) -/

theorem exec_pairOps_of_accepts {s : State} {m : PeerMsg} (hok : s.accepts m = true) (hkind : m.kind = 0x20) :
    exec (.pairOps m) s = .next ((s.takePeer m).pairTake m) := by
  have hexec : exec (.pairOps m) s = .next (if ! s.accepts m then s.discardPeer m
    else if m.kind = 0x20 then (s.takePeer m).pairTake m else s) := rfl
  rw [hexec, hok, if_pos hkind]
  rfl

theorem exec_pairStep_of_accepts {s : State} {m : PeerMsg} (hok : s.accepts m = true) (hkind : m.kind = 0x21) :
    exec (.pairStep m) s = .next ((s.takePeer m).pairTake m) := by
  have hexec : exec (.pairStep m) s = .next (if ! s.accepts m then s.discardPeer m
    else if m.kind = 0x21 then (s.takePeer m).pairTake m else s) := rfl
  rw [hexec, hok, if_pos hkind]
  rfl

/-- The state in which the pairing of a context holds one more message. -/
def State.pairHeld (s : State) (c : Nat) (x : PairMsg) : State :=
  { s with pairings := s.pairings.map (fun p => if p.ctx == c then { p with held := p.held ++ [x] } else p) }

theorem pairTake_of_stranger {s : State} {m : PeerMsg} (h : ∀ p ∈ s.pairings, p.partner ≠ m.src) :
    s.pairTake m = s.count Reg.hubCntPairDiscard := by
  have hfind : s.pairings.find? (fun p => p.partner == m.src) = none := List.find?_eq_none.2 fun p hp => by simpa using h p hp
  unfold State.pairTake
  rw [hfind]

section
variable {s : State} {m : PeerMsg} {p : Pairing} (hfind : s.pairings.find? (fun p => p.partner == m.src) = some p)
  (hnew : (s.ctx p.ctx).passed m.pairMsg.step = false)
include hfind hnew

theorem pairTake_of_unopened (hopen : (s.ctx p.ctx).stepSlot m.pairMsg.step = none) : s.pairTake m = s.pairHeld p.ctx m.pairMsg := by
  unfold State.pairTake
  rw [hfind]
  dsimp only
  rw [hnew, hopen]
  rfl

theorem pairTake_of_open {k : Nat} (hopen : (s.ctx p.ctx).stepSlot m.pairMsg.step = some k) :
    s.pairTake m = (s.pairHeld p.ctx m.pairMsg).pairFlush p.ctx k := by
  unfold State.pairTake
  rw [hfind]
  dsimp only
  rw [hnew, hopen]
  rfl

end

theorem unhold_pairHeld {s : State} {p : Pairing} (hpair : s.pairings = [p]) (hheld : p.held = []) (x : PairMsg) :
    (s.pairHeld p.ctx x).unhold p.ctx x = s := by
  have hback : ({ p with held := [] } : Pairing) = p := by rw [← hheld]
  have hpairings : ((s.pairHeld p.ctx x).unhold p.ctx x).pairings = s.pairings := by
    simp [State.pairHeld, State.unhold, hpair, hheld, hback]
  rw [show (s.pairHeld p.ctx x).unhold p.ctx x = { s with pairings := ((s.pairHeld p.ctx x).unhold p.ctx x).pairings } from rfl, hpairings]

/-- The only pairing of the block holds nothing, and the step of a message is its context's only open one, with nothing left to send. -/
structure State.Compares (s : State) (m : PeerMsg) (p : Pairing) (k : Nat) : Prop where
  single : s.pairings = [p]
  partner : p.partner = m.src
  empty : p.held = []
  new : (s.ctx p.ctx).passed m.pairMsg.step = false
  slot : (s.ctx p.ctx).stepSlot m.pairMsg.step = some k
  live : (s.slot p.ctx k).live = true
  alone : ∀ j, j ≠ k → (s.slot p.ctx j).live = false
  sent : ∀ g, (s.slot p.ctx k).grpSent.contains g = true ∨ (s.slot p.ctx k).group g = none

section
variable {s : State} {m : PeerMsg} {p : Pairing} {k : Nat} (h : s.Compares m p k)
include h

/-- The message is held, compared with its step, and no longer held. -/
theorem pairTake_of_compares {t : State} (hmatch : (s.pairHeld p.ctx m.pairMsg).pairMatch p.ctx k [m.pairMsg] = t)
    (hctx : ∀ q ∈ t.pairings, q.ctx = p.ctx) (hafter : ∀ j, (t.slot p.ctx j).AllSent) : s.pairTake m = t := by
  have hheld : (s.pairHeld p.ctx m.pairMsg).pairings = [{ p with held := [m.pairMsg] }] := by
    simp [State.pairHeld, h.single, h.empty]
  rw [pairTake_of_open (p := p) (by simp [h.single, h.partner]) h.new h.slot]
  exact pairFlush_of_allSent hheld rfl (fun _ => h.sent) hmatch hctx hafter

/-- Where it agrees, its slot takes note of it. -/
theorem pairTake_of_agreeing {v : Slot} {t : State} (hregs : (s.setSlot p.ctx k v).RegsOnly t) (hv : v.AllSent)
    (hmatch : (s.pairHeld p.ctx m.pairMsg).pairMatch p.ctx k [m.pairMsg] = t) : s.pairTake m = t := by
  refine pairTake_of_compares h hmatch (fun q hq => ?_) fun j => ?_
  · rw [hregs.pairings, show (s.setSlot p.ctx k v).pairings = [p] from h.single] at hq
    rw [List.mem_singleton.1 hq]
  · rw [hregs.slot]
    by_cases hj : j = k
    · rw [hj, slot_setSlot_same (lt_length_of_live h.live)]
      exact hv
    · rw [slot_setSlot_of_ne s p.ctx (Ne.symm hj)]
      exact .of_not_live (h.alone j hj)

/-- Where it differs, its step is abandoned. -/
theorem diverges_pairTake {kind q loc ptn : Nat}
    (hmatch : (s.pairHeld p.ctx m.pairMsg).pairMatch p.ctx k [m.pairMsg] = s.pairDiverge p.ctx k kind q loc ptn) :
    s.Diverges p.ctx k (s.pairTake m) := by
  have hdiv := diverges_pairDiverge h.live h.alone kind q loc ptn
  rw [pairTake_of_compares h hmatch (fun x hx => ?_) fun j => .of_not_live ?_]
  · exact hdiv
  · obtain ⟨q, hq, hctx⟩ := hdiv.pairings x hx
    rw [h.single] at hq
    rw [hctx, List.mem_singleton.1 hq]
  · by_cases hj : j = k
    · rw [hj, Slot.live, hdiv.st]
      decide
    · rw [hdiv.slots j hj]
      exact h.alone j hj

section
variable {base : Nat} {ds : List Nat} (hmsg : m.pairMsg = .ops (s.slot p.ctx k).step base ds)
  (hsent : base / 6 ∈ (s.slot p.ctx k).grpSent) (hnew : base / 6 ∉ (s.slot p.ctx k).grpOk)
include hmsg hsent hnew

theorem pairTake_of_equal (hds : ds = (s.slot p.ctx k).stored (base / 6)) : s.pairTake m = (s.setSlot p.ctx k { s.slot p.ctx k with
    grpOk := (s.slot p.ctx k).grpOk ++ [base / 6]
    sentAt := (s.slot p.ctx k).sentAt.filter (fun x => x.1 != base / 6) }).count Reg.hubCntPairGroups := by
  refine pairTake_of_agreeing h (regsOnly_count ..) (Slot.AllSent.answered (fun _ => h.sent) _ _ _) ?_
  rw [hmsg]
  refine (pairMatch_of_equal (s := s.pairHeld p.ctx _) h.live hsent hnew hds).trans ?_
  rw [show (s.pairHeld p.ctx _).slot p.ctx k = s.slot p.ctx k from rfl, unhold_pairHeld h.single h.empty]

theorem diverges_of_different {i a b : Nat} (hdiff : firstDiff ((s.slot p.ctx k).stored (base / 6)) ds 0 = some (i, a, b)) :
    s.Diverges p.ctx k (s.pairTake m) := by
  refine diverges_pairTake h (kind := pkOp) (q := 6 * (base / 6) + i) (loc := a) (ptn := b) ?_
  rw [hmsg]
  refine (pairMatch_of_different (s := s.pairHeld p.ctx _) h.live hsent hnew hdiff).trans ?_
  rw [show (s.pairHeld p.ctx _).slot p.ctx k = s.slot p.ctx k from rfl, unhold_pairHeld h.single h.empty]

end

section
variable {n : Nat} {nulled : Bool} (hmsg : m.pairMsg = .stepEnd (s.slot p.ctx k).step n nulled)
  (hsent : (s.slot p.ctx k).stepSent = true) (hnew : (s.slot p.ctx k).stepOk = false)
include hmsg hsent hnew

theorem pairTake_of_equalEnd (hn : n = (s.slot p.ctx k).n) (hnulled : nulled = (s.slot p.ctx k).nulled) :
    s.pairTake m = s.setSlot p.ctx k { s.slot p.ctx k with
      stepOk := true, sentAt := (s.slot p.ctx k).sentAt.filter (fun x => x.1 != stepMark) } := by
  refine pairTake_of_agreeing h (.refl _) (Slot.AllSent.answered (fun _ => h.sent) _ _ _) ?_
  rw [hmsg]
  refine (pairMatch_of_equalEnd (s := s.pairHeld p.ctx _) h.live hsent hnew hn hnulled).trans ?_
  rw [show (s.pairHeld p.ctx _).slot p.ctx k = s.slot p.ctx k from rfl, unhold_pairHeld h.single h.empty]

theorem diverges_of_differentEnd (hdiff : n ≠ (s.slot p.ctx k).n ∨ nulled ≠ (s.slot p.ctx k).nulled) :
    s.Diverges p.ctx k (s.pairTake m) := by
  refine diverges_pairTake h (kind := pkStep) (q := (s.slot p.ctx k).n) (loc := 0) (ptn := 0) ?_
  rw [hmsg]
  refine (pairMatch_of_differentEnd (s := s.pairHeld p.ctx _) h.live hsent hnew hdiff).trans ?_
  rw [show (s.pairHeld p.ctx _).slot p.ctx k = s.slot p.ctx k from rfl, unhold_pairHeld h.single h.empty]

end

end

/-- Taking the message counts it apart from the divergence. -/
theorem State.Diverges.of_takePeer {s u : State} {m : PeerMsg} {c k : Nat} (h : (s.takePeer m).Diverges c k u) : s.Diverges c k u :=
  { h with counted := h.counted.trans (by rw [reg_takePeer_of_ne s m (by decide)]) }

/-! ### A partner that does not answer (R322) -/

theorem reg_raiseFault_of_low (s : State) (i addr access master : Nat) {a : Nat} (ha : a < 0x10000) :
    (s.raiseFault i addr access master).reg a = s.reg a := by
  have hset (u : State) (b m : Nat) (hb : 0x10000 ≤ b) : (u.setBits b m).reg a = u.reg a := (reg_setBits ..).trans (if_neg (by omega))
  have hcount (u : State) (b : Nat) (hb : 0x10000 ≤ b) : (u.count b).reg a = u.reg a := (reg_count ..).trans (if_neg (by omega))
  have hcap (u : State) (base src : Nat) (hb : 0x10000 ≤ base) : (u.capture base src addr access master).reg a = u.reg a :=
    reg_capture_of_outside u src addr access master (by omega)
  have herr (cls : Nat) : 0x10000 ≤ errCounter cls := by
    unfold errCounter
    split_ifs <;> decide
  have hraised : ((s.setBits (atStn 16 Reg.colStnErrLo) (2 ^ i)).count (errCounter (class16 i))).reg a = s.reg a := by
    rw [hcount _ _ (herr _), hset _ _ _ (by decide)]
  unfold State.raiseFault State.capCe State.capUc
  dsimp only
  split_ifs
  · rfl
  · exact hraised
  · rw [hset _ _ _ (by decide), hcap _ _ _ (by decide), hraised]
  · rw [hcount _ _ (by decide), hset _ _ _ (by decide), hraised]
  · rw [hset _ _ _ (by decide), hcap _ _ _ (by decide), hraised]

theorem pairing_unpair (s : State) (c : Nat) : (s.unpair c).pairing c = none := by
  refine List.find?_eq_none.2 fun p hp => ?_
  simpa using ne_of_mem_unpair hp

/-- The loss of a partner, as far as its cause is captured. -/
def State.partnerLost (s : State) (c k g : Nat) : State :=
  (s.pairCapture c k pkLost (if g = stepMark then (s.slot c k).n else 6 * g) 0 0).setBits Reg.hubPairStatus 4

theorem regsOnly_partnerLost (s : State) (c k g : Nat) : s.RegsOnly (s.partnerLost c k g) :=
  (regsOnly_pairCapture ..).trans (regsOnly_setBits ..)

theorem exec_pairTimeout_of_late {s : State} {c k g : Nat} {p : Pairing} (hpair : s.pairing c = some p) (hlate : s.pairLate c = some (k, g)) :
    exec (.pairTimeout c) s =
      .next ((((s.partnerLost c k g).unpair c).raiseFault clsPair 0 7 p.partner).count Reg.hubCntPairLost) := by
  have hexec : exec (.pairTimeout c) s = execPairTimeout c s := rfl
  rw [hexec, execPairTimeout, hpair, hlate]
  rfl

theorem exec_pairTimeout_of_early {s : State} {c : Nat} (h : s.pairing c = none ∨ s.pairLate c = none) : exec (.pairTimeout c) s = .next s := by
  have hexec : exec (.pairTimeout c) s = execPairTimeout c s := rfl
  rw [hexec, execPairTimeout]
  cases hpair : s.pairing c with
  | none => rfl
  | some p =>
    rw [h.resolve_left (by rw [hpair]; exact Option.some_ne_none p)]

theorem pairTimeout_leaves {s : State} {c k g : Nat} {p : Pairing} (hpair : s.pairing c = some p) (hlate : s.pairLate c = some (k, g)) :
    ∃ u, exec (.pairTimeout c) s = .next u ∧ u.pairing c = none ∧ u.bit Reg.hubPairStatus 2 = true ∧
      u.reg Reg.hubCntPairLost = min (2 ^ 32 - 1) (s.reg Reg.hubCntPairLost + 1) ∧ (∀ d, d ≠ c → u.ctx d = s.ctx d) := by
  have hlost := regsOnly_partnerLost s c k g
  have hfault : ((s.partnerLost c k g).unpair c).RegsOnly
      ((((s.partnerLost c k g).unpair c).raiseFault clsPair 0 7 p.partner).count Reg.hubCntPairLost) :=
    (regsOnly_raiseFault ..).trans (regsOnly_count ..)
  have hreg (a : Nat) (ha : a < 0x10000) :
      (((s.partnerLost c k g).unpair c).raiseFault clsPair 0 7 p.partner).reg a = (s.partnerLost c k g).reg a :=
    (reg_raiseFault_of_low _ _ _ _ _ ha).trans rfl
  refine ⟨_, exec_pairTimeout_of_late hpair hlate, ?_, ?_, ?_, fun d hd => ?_⟩
  · rw [State.pairing, hfault.pairings]
    exact pairing_unpair ..
  · rw [bit_congr ((reg_count ..).trans (if_neg (by decide))), bit_congr (hreg _ (by decide))]
    exact bit_setBits_self _ _ (i := 2) (by decide)
  · rw [reg_count, if_pos rfl, hreg _ (by decide), State.partnerLost, reg_setBits, if_neg (by decide),
      reg_pairCapture_of_counter _ _ _ _ _ _ _ (by decide)]
  · rw [hfault.ctx, ctx_unpair_of_ne _ hd, hlost.ctx]

/-- Settles O38: the messages of mirrors and hosts each by its own lemma; a partner's message by what it meets: no pairing, a step that
is not open yet, agreement or a difference. -/
theorem peerAndPairMessages : Obligations.PeerAndPairMessages := by
  unfold Obligations.PeerAndPairMessages
  refine ⟨⟨?copy, ?ack, ?ackTimeout, ?outside, ?inside, ?host, ?full, ?cons, ?beyond, ?discard, ?credit, ?held⟩, ?stranger, ?unopened,
    ?compare, ?late, fun s c h => exec_pairTimeout_of_early h⟩
  case copy => exact fun s c b step again hbuddy hmirror => mirrorCopyDone_leaves hbuddy hmirror
  case ack =>
    intro s m c b step again t hok hkind hc hbuddy hmirror hsrc hstep hst
    rw [exec_mirrorAck_of_accepts hok hkind, mirrorAnswer_of_ok (s := s.takePeer m) hc hbuddy hmirror hsrc hstep hst]
    rfl
  case ackTimeout =>
    intro s c b step t hbuddy hmirror hlimit
    rw [exec_mirrorAckTimeout_of_waiting hbuddy hmirror hlimit]
    refine ⟨fun hover => ?_, fun hearly => ?_⟩
    · rw [if_pos hover]
      rfl
    · rw [if_neg (Nat.not_le.2 hearly)]
  case outside =>
    intro s m hok hkind hout
    rw [exec_mirrorDone_of_accepts hok hkind, mirrorCheck_of_outside ((inHold_takePeer ..).trans hout)]
  case inside =>
    intro s m hok hkind hin
    rw [exec_mirrorDone_of_accepts hok hkind, mirrorCheck_of_inside ((inHold_takePeer ..).trans hin)]
  case host =>
    rintro s m a hok hcls hlen hroom hstall rfl
    exact hostMessage_leaves hok hcls hlen hroom hstall
  case full =>
    intro s m hok hcls hfull
    rw [exec_hostMessage_of_accepts hok hcls, rxTake_of_full hfull]
  case cons =>
    intro s src v hwait hposted
    rw [exec_hubPeerRxConsWrite, writeCons_of_posted hwait hposted]
  case beyond =>
    intro s src v hbeyond
    rw [exec_hubPeerRxConsWrite, writeCons_of_beyond hbeyond]
  case discard => exact fun s m hbad => exec_peerMessageDiscard_of_bad (accepts_eq_false hbad)
  case credit =>
    intro s k m rest hk hqueue
    rw [exec_peerCreditReturn hk, creditReturn_of_waiting hqueue]
  case held =>
    intro s k hk hqueue
    rw [exec_peerCreditReturn hk, creditReturn_of_empty hqueue]
  case stranger =>
    intro s m hok hnone
    have htake := pairTake_of_stranger (s := s.takePeer m) hnone
    refine ⟨fun hkind => ?_, fun hkind => ?_⟩
    · rw [exec_pairOps_of_accepts hok hkind, htake]
    · rw [exec_pairStep_of_accepts hok hkind, htake]
  case unopened =>
    intro s m p hok hfind hnew hopen _
    have htake := pairTake_of_unopened (s := s.takePeer m) hfind hnew hopen
    refine ⟨_, rfl, fun hkind => ?_, fun hkind => ?_⟩
    · rw [exec_pairOps_of_accepts hok hkind, htake]
      rfl
    · rw [exec_pairStep_of_accepts hok hkind, htake]
      rfl
  case compare =>
    rintro s m p k sl hok hsingle hpartner hempty hnew hslot rfl hlive halone hall
    have h : (s.takePeer m).Compares m p k := ⟨hsingle, hpartner, hempty, hnew, hslot, hlive, halone, hall⟩
    refine ⟨fun base ds hkind hmsg hsent hfresh => ?_, fun n nulled hkind hmsg hsent hfresh => ?_⟩
    · rw [exec_pairOps_of_accepts hok hkind]
      have hsent : base / 6 ∈ (s.slot p.ctx k).grpSent := by simpa using hsent
      have hfresh : base / 6 ∉ (s.slot p.ctx k).grpOk := by simpa using hfresh
      exact ⟨fun heq => congrArg _ (pairTake_of_equal h hmsg hsent hfresh heq),
        fun i a b hdiff => ⟨_, rfl, (diverges_of_different h hmsg hsent hfresh hdiff).of_takePeer.shows⟩⟩
    · rw [exec_pairStep_of_accepts hok hkind]
      exact ⟨fun hn hnulled => congrArg _ (pairTake_of_equalEnd h hmsg hsent hfresh hn hnulled),
        fun hdiff => ⟨_, rfl, (diverges_of_differentEnd h hmsg hsent hfresh hdiff).of_takePeer.shows⟩⟩
  case late => exact fun s c p k g hpair hlate => pairTimeout_leaves hpair hlate

end Sys2Proof.Machine
end

section
/-! Policy changes of Trivet and of the analogue test bus (R314, R429, R431, R435, R440, R444, R477): what each holds, checks and does. -/

namespace Sys2Proof.Machine

theorem exec_trvset (s : State) (i : Issue) : exec (.trvset i) s = .next (s.runCmd specTrvset i) := rfl
theorem exec_trvHeldApply (s : State) : exec .trvHeldApply s = execTrvHeldApply s := rfl

theorem body_specTrvset : specTrvset.body = setTrv := rfl

/-! ### Held or applied (R314) -/

theorem policy_of_fixed {s : State} (h : s.fixed = true) (c : HeldChange) :
    s.policy c = ({ s with trv := { s.trv with held := some c, heldDue := false } } : State).count Reg.trvCntHeld := if_pos h

theorem policy_of_free {s : State} (h : s.fixed = false) (c : HeldChange) : s.policy c = s.applyChange c :=
  if_neg (by rw [h]; decide)

/-- In Fixed mode a change is held in place of any held before, and counted. -/
theorem policy_leaves {s : State} (h : s.fixed = true) (c : HeldChange) : ∃ t, s.policy c = t ∧
    t.trv = { s.trv with held := some c, heldDue := false } ∧ t.reg Reg.trvCntHeld = min (2 ^ 32 - 1) (s.reg Reg.trvCntHeld + 1) ∧
    (∀ a, a ≠ Reg.trvCntHeld → t.reg a = s.reg a) ∧ t = { s with trv := t.trv, regs := t.regs } := by
  refine ⟨_, policy_of_fixed h c, rfl, ?_, fun a ha => ?_, rfl⟩
  · rw [reg_count, if_pos rfl]
    rfl
  · rw [reg_count, if_neg (Ne.symm ha)]
    rfl

theorem exec_trvHeldApply_of_none {s : State} (h : s.trv.held = none) : exec .trvHeldApply s = .next s := by
  rw [exec_trvHeldApply, execTrvHeldApply, h]

theorem exec_trvHeldApply_of_held {s : State} {c : HeldChange} (h : s.trv.held = some c) : exec .trvHeldApply s =
    .next (if s.trv.heldDue || ! s.anyStep then ({ s with trv := { s.trv with held := none, heldDue := false } } : State).applyChange c
      else s) := by
  rw [exec_trvHeldApply, execTrvHeldApply, h]

/-! ### TRVSET (R429) -/

section
variable {s : State} {q : CoreCmd}

theorem passes_trvset (hserve : s.serving q.k = true) (hopc : q.opc = 0x78) (hctx : q.ctx = 0) (halive : (s.ctx 0).st ≠ .terminated)
    (hmod : q.mod = 0) (himm : q.imm = 0) (ha : q.a < 256) (hb : q.b < 2 ^ 64) (hc : q.c < 2 ^ 64) : s.Passes q specTrvset :=
  passes_of_rows hserve hopc rfl (by omega) hb hc (by omega) (by omega) (by rw [hmod, himm]; rfl)
    (.inr (by rw [← hctx] at halive; exact halive))
    ((wide_eq_false_iff ..).2 ⟨fun _ => ha, fun _ => hb, fun h => absurd rfl h, fun h => absurd rfl h⟩)

theorem setTrv_of_good {c : Cmd} (h : s.thrBad c.a c.b = false) : setTrv c s = (s.policy (.thr c.a c.b), .ok 0) :=
  if_neg (by rw [h]; decide)

theorem setTrv_of_bad {c : Cmd} (h : s.thrBad c.a c.b = true) : setTrv c s = reject s stBadOperand := if_pos h

/-- An entry of the journal leaves the curve and the straps, by which a setting is checked. -/
theorem State.JournalOnly.thrBad {t : State} (h : s.JournalOnly t) (z v : Nat) : t.thrBad z v = s.thrBad z v :=
  (congrArg (State.thrBad · z v) h.frame :)

theorem exec_trvset_of_good (h : s.Passes q specTrvset) (hgood : s.thrBad q.a q.b = false) :
    exec (.trvset q.issue) s = .next (((s.noted q).policy (.thr q.a q.b)).count Reg.hubCntCmd) := by
  rw [exec_trvset, runCmd_of_done h (f := fun t => t.policy (.thr q.a q.b)) (v := fun _ => 0)]
  intro t ht
  rw [body_specTrvset]
  exact setTrv_of_good (c := q.cmd s) ((ht.thrBad ..).trans hgood)

end

/-- TRVSET's word of a logic zone: its three thresholds and the hysteresis. -/
def thrWord (w t u h : Nat) : Nat := w + t * 2 ^ 8 + u * 2 ^ 16 + h * 2 ^ 24

section
variable {w t u h : Nat} (hw : w < 2 ^ 8) (ht : t < 2 ^ 8) (hu : u < 2 ^ 8) (hh : h < 2 ^ 4)
include hw ht hu hh

theorem thrOf_thrWord (d : ZoneThr) :
    thrOf false d (thrWord w t u h) = { d with warn := w, throttle := t, shutdown := u, hyst := h, set := true } := by
  have hwarn : thrWord w t u h % 2 ^ 8 = w := by unfold thrWord; omega
  have hthrottle : thrWord w t u h / 2 ^ 8 % 2 ^ 8 = t := by unfold thrWord; omega
  have hshutdown : thrWord w t u h / 2 ^ 16 % 2 ^ 8 = u := by unfold thrWord; omega
  have hhyst : thrWord w t u h / 2 ^ 24 % 2 ^ 4 = h := by unfold thrWord; omega
  unfold thrOf
  rw [hwarn, hthrottle, hshutdown, hhyst]
  rfl

variable {s : State} {z : Nat} (hne : z ≠ 0xFF) (hlogic : (s.zoneDef z).mem = false)
include hne hlogic

/-- A logic zone takes rising thresholds with 5 °C below the hard trip and a hysteresis. -/
theorem thrBad_thrWord_iff (hz : z < s.zoneCount) :
    s.thrBad z (thrWord w t u h) = false ↔ w < t ∧ t < u ∧ u + 5 ≤ s.hardLogic ∧ h ≠ 0 := by
  have hfits : ¬ 2 ^ 28 ≤ thrWord w t u h := by unfold thrWord; omega
  unfold State.thrBad
  rw [if_neg hne, if_neg (Nat.not_le.2 hz), hlogic, if_neg Bool.false_ne_true, thrOf_thrWord hw ht hu hh, decide_eq_false hfits]
  simp [and_assoc]

theorem applyThr_thrWord : s.applyChange (.thr z (thrWord w t u h)) = { s with trv := { s.trv with
    thrNext := Tab.set {} s.trv.thrNext z { s.thr z with warn := w, throttle := t, shutdown := u, hyst := h, set := true } } } := by
  rw [State.applyChange, State.applyThr, if_neg hne, hlogic, thrOf_thrWord hw ht hu hh]

end

/-! ### What a change does (R429, R431, R435, R440, R477) -/

theorem thr_takeThr (s : State) (z y : Nat) : (s.takeThr z).thr y =
    if z = y ∧ (Tab.get {} s.trv.thrNext z : ZoneThr).set = true then Tab.get {} s.trv.thrNext z else s.thr y := by
  unfold State.takeThr
  dsimp only
  cases hset : (Tab.get {} s.trv.thrNext z : ZoneThr).set with
  | false => simp
  | true =>
    by_cases hzy : z = y
    · subst hzy
      simp [State.thr, hset]
    · simp [State.thr, hzy, State.thrDefault, State.hardLogic, State.riseMax]

/-- A setting of a zone is in force from its zone's next sample on, and no other zone's. -/
theorem thrNext_leaves {s v : State} {z : Nat} {x : ZoneThr} (hx : x.set = true)
    (hv : v = { s with trv := { s.trv with thrNext := Tab.set {} s.trv.thrNext z x } }) :
    (v.takeThr z).thr z = x ∧ (∀ y, v.thr y = s.thr y) ∧ (∀ y, y ≠ z → (v.takeThr y).thr y = (s.takeThr y).thr y) ∧
      v = { s with trv := { s.trv with thrNext := v.trv.thrNext } } := by
  have hnext (y : Nat) : (Tab.get {} v.trv.thrNext y : ZoneThr) = if z = y then x else Tab.get {} s.trv.thrNext y := by
    rw [hv]
    exact tab_get_set ..
  have hthr (y : Nat) : v.thr y = s.thr y := by
    rw [hv]
    rfl
  refine ⟨?_, hthr, fun y hy => ?_, ?_⟩
  · rw [thr_takeThr, hnext, if_pos rfl, if_pos ⟨rfl, hx⟩]
  · rw [thr_takeThr, thr_takeThr, hnext, if_neg (Ne.symm hy), hthr]
  · rw [hv]

theorem applyChange_limit (s : State) {l : Nat} (hl : l < 2 ^ 16) :
    s.applyChange (.thr 0xFF l) = { s with trv := { s.trv with limitNext := some l } } := by
  rw [State.applyChange, State.applyThr, if_pos rfl, Nat.mod_eq_of_lt hl]

theorem floorOf_applyChange (s : State) (d v e : Nat) : (s.applyChange (.floor d v)).floorOf e = if d = e then v % 16 else s.floorOf e :=
  tab_get_set ..

theorem floorOf_le_domLevel (s : State) (d : Nat) : s.floorOf d ≤ s.domLevel d := (le_max_right ..).trans (le_max_right ..)

theorem applyChange_avs {s : State} {v : Nat} (h : s.avsOk v = true) : s.applyChange (.avs v) = ({ s.took 1 with trv := { s.trv with
    avsRail := v / 2 ^ 28 % 16
    avs := Tab.set 0 s.trv.avs (v / 2 ^ 28 % 16) (s.freeNat % 2 ^ 16) } } : State).emit (.avs (v / 2 ^ 28 % 16) (v % 2 ^ 16)) := if_pos h

theorem applyChange_select {s : State} {c : Curve} (h : s.trv.loaded = some c) : s.applyChange .select = { s with trv := { s.trv with
    curve := c, bank := 1 - s.trv.bank, loaded := if s.trv.curve.builtin = true then none else some s.trv.curve
    zones := s.carryZones c, rails := [] } } := by
  rw [State.applyChange, State.selectCurve, h]

/-- A field that a mask keeps whole. -/
theorem field_and_mask {m i n : Nat} (hm : m / 2 ^ i % 2 ^ n = 2 ^ n - 1) (v : Nat) : (v &&& m) / 2 ^ i % 2 ^ n = v / 2 ^ i % 2 ^ n := by
  rw [Nat.and_div_two_pow, Nat.and_mod_two_pow, hm, Nat.and_two_pow_sub_one_eq_mod, Nat.mod_mod]

theorem bitAt_and_mask {m i : Nat} (hm : m / 2 ^ i % 2 ^ 1 = 2 ^ 1 - 1) (v : Nat) : bitAt (v &&& m) i = bitAt v i := by
  rw [bitAt, bitAt, Nat.shiftRight_eq_div_pow, Nat.shiftRight_eq_div_pow]
  exact field_and_mask hm v

/-- HUB_ATB_CTRL keeps the two enables and the two nodes of what is written. -/
theorem applyChange_atb (s : State) (v : Nat) : s.applyChange (.atb (v &&& 0x7F7F)) = { s.setReg Reg.hubAtbCtrl (v &&& 0x7F7F) with
    atb := { line0 := if bitAt v 6 = 1 then some (v % 64) else none, line1 := if bitAt v 14 = 1 then some (v / 256 % 64) else none } } := by
  have hnode0 : (v &&& 0x7F7F) % 64 = v % 64 := by simpa using field_and_mask (m := 0x7F7F) (i := 0) (n := 6) (by decide) v
  have hnode1 : (v &&& 0x7F7F) / 256 % 64 = v / 256 % 64 := field_and_mask (m := 0x7F7F) (i := 8) (n := 6) (by decide) v
  have hkept : v &&& 0x7F7F &&& 0x7F7F = v &&& 0x7F7F := by rw [Nat.and_assoc, Nat.and_self]
  rw [State.applyChange, State.connectAtb, hkept, hnode0, hnode1, bitAt_and_mask (by decide), bitAt_and_mask (by decide)]

/-! ### The registers that ask for a change (R431, R435, R440, R444, R477) -/

/-- Trivet's registers answer every aligned access. -/
theorem respCode_trivet (s : State) {a : Nat} (halign : a % 4 = 0) (hlo : 0x20000 ≤ a) (hhi : a < 0x20200) : s.respCode a = 0 := by
  have hextent : inExtent a = true := by
    simp only [inExtent, Bool.or_eq_true, Bool.and_eq_true, decide_eq_true_eq]
    omega
  rw [State.respCode, if_neg (not_not.2 halign), if_neg (by omega), if_neg (by omega), if_pos hextent]

theorem exec_trvDomLevelFloor (src : Src) (v : Nat) (s : State) : exec (.trvDomLevelFloor src v) s =
    .next ((s.policy (.floor (s.banked src .domSel) (v / 2 ^ 16 % 16))).emit (.regRsp src Reg.trvDomLevel 0 0)) :=
  congrArg Host.Outcome.next (writeAccess_eq_emit src (respCode_trivet s (by decide) (by decide) (by decide)) fun q => q.writeFloor src v)

theorem exec_trvAvsWrite (src : Src) (v : Nat) (s : State) : exec (.trvAvsWrite src v) s =
    .next ((if s.avsOk v then s.policy (.avs v) else s.pmbErr).emit (.regRsp src Reg.trvAvs 0 0)) :=
  congrArg Host.Outcome.next (writeAccess_eq_emit src (respCode_trivet s (by decide) (by decide) (by decide)) fun q => q.writeAvs v)

theorem exec_trvCurveLoad (src : Src) (s : State) : exec (.trvCurveLoad src) s =
    .next (s.loadCurve.emit (.regRsp src Reg.trvCurveCtrl 0 0)) :=
  congrArg Host.Outcome.next (writeAccess_eq_emit src (respCode_trivet s (by decide) (by decide) (by decide)) State.loadCurve)

theorem exec_trvCurveSelect (src : Src) (s : State) : exec (.trvCurveSelect src) s =
    .next (s.askSelect.emit (.regRsp src Reg.trvCurveCtrl 0 0)) :=
  congrArg Host.Outcome.next (writeAccess_eq_emit src (respCode_trivet s (by decide) (by decide) (by decide)) State.askSelect)

theorem exec_trvTripClr (src : Src) (s : State) : exec (.trvTripClr src) s =
    .next (s.clearTrip.emit (.regRsp src Reg.trvTripClr 0 0)) :=
  congrArg Host.Outcome.next (writeAccess_eq_emit src (respCode_trivet s (by decide) (by decide) (by decide)) State.clearTrip)

theorem exec_hubAtbCtrlWrite (src : Src) {v : Nat} (hv : v < 2 ^ 32) (s : State) : exec (.hubAtbCtrlWrite src v) s =
    .next ((s.writeAtb v).emit (.regRsp src Reg.hubAtbCtrl 0 0)) := by
  have hwrite := writeAccess_eq_emit (s := s) src (respCode_hub s (a := Reg.hubAtbCtrl) (by decide) (by decide)) fun q => q.writeAtb (v % 2 ^ 32)
  rw [Nat.mod_eq_of_lt hv] at hwrite
  have hexec : exec (.hubAtbCtrlWrite src v) s = .next (s.writeAccess src Reg.hubAtbCtrl (fun q => q.writeAtb (v % 2 ^ 32))) := rfl
  rw [hexec, Nat.mod_eq_of_lt hv, hwrite]

theorem writeAtb_of_both {s : State} {v : Nat} (h0 : bitAt v 6 = 1) (h1 : bitAt v 14 = 1) (hnode : v % 64 = v / 256 % 64) :
    s.writeAtb v = s := if_pos ⟨h0, h1, hnode⟩

theorem writeAtb_of_apart {s : State} {v : Nat} (h : bitAt v 6 = 0 ∨ bitAt v 14 = 0 ∨ v % 64 ≠ v / 256 % 64) :
    s.writeAtb v = s.policy (.atb (v &&& 0x7F7F)) := by
  refine if_neg fun ⟨h0, h1, hnode⟩ => ?_
  rcases h with h | h | h
  · omega
  · omega
  · exact h hnode

theorem askSelect_eq (s : State) : s.askSelect = if s.trv.loaded = none then s else s.policy .select := by
  unfold State.askSelect
  cases s.trv.loaded <;> rfl

/-! ### Curves loaded (R440) -/

/-- The read of the image at TRV_CURVE_BLK is the block's own. -/
theorem requestCurve_of_free {s : State} (hstall : s.bothStalled = false) : ∃ p0 p1,
    s.request .read (s.reg Reg.trvCurveBlk * 64) 0 64 .curve = { s with port0 := p0, port1 := p1 } := request_of_own hstall _ _ _ _ rfl

section
variable {s : State} (hstall : s.bothStalled = false)
include hstall

theorem loadCurve_of_ok {c : Curve} (h : checkCurve (s.bytes (s.reg Reg.trvCurveBlk * 64 * 4096) 65536) s.cfg.sensors = .ok c) :
    ∃ p0 p1, s.loadCurve = ({ s with port0 := p0, port1 := p1, trv := { s.trv with loaded := some c, lastLoad := stOk } } : State).count
      Reg.trvCntCurveLoaded := by
  obtain ⟨p0, p1, hreq⟩ := requestCurve_of_free hstall
  refine ⟨p0, p1, ?_⟩
  unfold State.loadCurve
  dsimp only
  rw [hstall, if_neg Bool.false_ne_true, h, hreq]

theorem loadCurve_of_error {st : Nat} (h : checkCurve (s.bytes (s.reg Reg.trvCurveBlk * 64 * 4096) 65536) s.cfg.sensors = .error st) :
    ∃ p0 p1, s.loadCurve = ({ s with port0 := p0, port1 := p1, trv := { s.trv with lastLoad := st } } : State).count
      Reg.trvCntCurveRefused := by
  obtain ⟨p0, p1, hreq⟩ := requestCurve_of_free hstall
  refine ⟨p0, p1, ?_⟩
  unfold State.loadCurve
  dsimp only
  rw [hstall, if_neg Bool.false_ne_true, h, hreq]
  rfl

end

/-- Settles O50: a change by what holds it, checks it and applies it, and the registers by the change that they ask for. -/
theorem policyChanges : Obligations.PolicyChanges := by
  unfold Obligations.PolicyChanges
  refine ⟨fun s c => ⟨fun h => policy_leaves h c, fun h => policy_of_free h c⟩, ?trvset, ?thresholds, fun s l hl => applyChange_limit s hl,
    ?apply, fun s src v => exec_trvDomLevelFloor src v s, ?floor, ?avs, ?voltage, ?loaded, ?refused, ?select, ?curve, ?trip, ?atb, ?lines⟩
  case trvset =>
    intro s q hopc hserve hctx halive hmod himm ha hb hc
    have hpass := passes_trvset hserve hopc hctx halive hmod himm ha hb hc
    refine ⟨exec_trvset_of_good hpass, fun hbad => ?_⟩
    rw [exec_trvset, runCmd_of_rejected hpass (setTrv_of_bad (c := q.cmd s) hbad)]
  case thresholds =>
    intro s z w t u h hz hne hlogic hw ht hu hh
    exact ⟨thrBad_thrWord_iff hw ht hu hh hne hlogic hz, _, applyThr_thrWord hw ht hu hh hne hlogic, thrNext_leaves rfl rfl⟩
  case apply =>
    refine fun s => ⟨exec_trvHeldApply_of_none, fun c hheld hdue => ?_, fun c hheld hdue hstep => ?_⟩
    · rw [exec_trvHeldApply_of_held hheld, if_pos (by simpa using hdue)]
    · rw [exec_trvHeldApply_of_held hheld, if_neg (by simp [hdue, hstep])]
  case floor =>
    intro s d v _
    have hfloor := floorOf_applyChange s d v
    refine ⟨_, rfl, (hfloor d).trans (if_pos rfl), ?_, fun e he => (hfloor e).trans (if_neg (Ne.symm he)), rfl⟩
    exact ((hfloor d).trans (if_pos rfl)).symm.le.trans (floorOf_le_domLevel ..)
  case avs =>
    refine fun s src v => ⟨fun hok => ?_, fun hbad => ?_⟩
    · rw [exec_trvAvsWrite, if_pos hok]
    · rw [exec_trvAvsWrite, if_neg (by rw [hbad]; decide)]
  case voltage => exact fun s v hok => ⟨_, applyChange_avs hok, rfl, rfl, rfl⟩
  case loaded =>
    intro s src c hstall hcheck
    obtain ⟨p0, p1, hload⟩ := loadCurve_of_ok hstall hcheck
    refine ⟨_, exec_trvCurveLoad src s, ?_, ?_, fun a ha => ?_, ?_⟩
    · rw [hload]
      rfl
    · rw [hload]
      exact (reg_count ..).trans (if_pos rfl)
    · rw [hload]
      exact (reg_count ..).trans (if_neg (Ne.symm ha))
    · rw [hload]
      rfl
  case refused =>
    intro s src st hstall hcheck
    obtain ⟨p0, p1, hload⟩ := loadCurve_of_error hstall hcheck
    refine ⟨_, exec_trvCurveLoad src s, ?_, ?_⟩
    · rw [hload]
      rfl
    · rw [hload]
      exact (reg_count ..).trans (if_pos rfl)
  case select =>
    intro s src
    rw [exec_trvCurveSelect, askSelect_eq]
  case curve => exact fun s c hloaded => ⟨_, applyChange_select hloaded, rfl, rfl, rfl, rfl⟩
  case trip => exact fun s src => exec_trvTripClr src s
  case atb =>
    refine fun s src v hv => ⟨fun h0 h1 hnode => ?_, fun hapart => ?_⟩
    · rw [exec_hubAtbCtrlWrite src hv, writeAtb_of_both h0 h1 hnode]
    · rw [exec_hubAtbCtrlWrite src hv, writeAtb_of_apart hapart]
  case lines =>
    intro s v
    have hle : v &&& 0x7F7F ≤ 0x7F7F := Nat.and_le_right
    have hreg := reg_setReg s Reg.hubAtbCtrl (v &&& 0x7F7F)
    refine ⟨_, applyChange_atb s v, rfl, rfl, (hreg _).trans ?_, fun a ha => (hreg a).trans (if_neg (Ne.symm ha)), rfl⟩
    rw [if_pos rfl, Nat.mod_eq_of_lt (by omega)]

end Sys2Proof.Machine
end

section
/-! The hash unit and its queue (R341, R343, R344): CKPTMAN and CKPTCHK of a core, what the queue changes, the ends of the served
command, and what a restore leaves. -/

namespace Sys2Proof.Machine

/-! ### Commands that read memory -/

/-- A command that its sub-block keeps both before and after its entry has its effect after the entry. -/
theorem runCmd_of_kept_both {s : State} {q : CoreCmd} {sp : CmdSpec} (h : s.Passes q sp) {f : State → State} {st : Nat}
    (ht : s.hasTicket = true) (hbody : ∀ w ∈ [s, s.noted q st s.nextTicket], sp.body (q.cmd s) w = (f w, .later st)) :
    s.runCmd sp q.issue = (f (s.noted q st s.nextTicket)).heldUnder s q st s.nextTicket :=
  runCmd_of_later h ht (congrArg Prod.snd (hbody s (by simp))) (hbody _ (by simp))

theorem State.JournalOnly.of_mem {s : State} {q : CoreCmd} {st tk : Nat} : ∀ w ∈ [s, s.noted q st tk], s.JournalOnly w := by
  simp [State.JournalOnly.refl, State.JournalOnly.noted]

namespace State.JournalOnly
variable {s t : State} (h : s.JournalOnly t)
include h

theorem ckptQ : t.ckptQ = s.ckptQ := (congrArg State.ckptQ h.frame :)
theorem inIndex (b n : Nat) : t.inIndex b n = s.inIndex b n := (congrArg (State.inIndex · b n) h.frame :)
theorem shape : t.reg Reg.hubShape = s.reg Reg.hubShape := h.reg _ (by unfold journalReg; decide)
theorem chipsM1 : t.chipsM1 = s.chipsM1 := by rw [State.chipsM1, h.shape, State.chipsM1]
theorem rank : t.rank = s.rank := by rw [State.rank, h.shape, State.rank]

end State.JournalOnly

/-! ### The queue of the hash unit -/

/-- A command joins the queue; one that finds it empty has its first read issued. -/
theorem queueCkpt_eq (s : State) (j : CkptJob) : s.queueCkpt j = if s.ckptQ.isEmpty
    then ({ s with ckptQ := s.ckptQ ++ [j] } : State).request .read j.blk 0 64 .ckpt else { s with ckptQ := s.ckptQ ++ [j] } := rfl

theorem queueCkpt_frame (s : State) (j : CkptJob) :
    ∃ r p0 p1 f, s.queueCkpt j = { s with ckptQ := s.ckptQ ++ [j], regs := r, port0 := p0, port1 := p1, cfl := f } := by
  rw [queueCkpt_eq]
  split_ifs
  · exact request_frame { s with ckptQ := s.ckptQ ++ [j] } ..
  · exact ⟨s.regs, s.port0, s.port1, s.cfl, rfl⟩

/-- The served command leaves: the next one's read is issued, where one waits. -/
theorem endCkpt_frame (s : State) :
    (∃ p0 p1 r f d, s.endCkpt =
      { s with ckptQ := s.ckptQ.drop 1, port0 := p0, port1 := p1, regs := r, cfl := f, teardowns := d }) ∧
    ∀ a, a ∉ [Reg.hubCntCflPass, Reg.hubCntCflDrop, Reg.hubCntCflLate] → a ≠ Reg.hubCntMemTimeout → s.endCkpt.reg a = s.reg a := by
  obtain ⟨⟨p0, p1, r, f, d, hretire⟩, hreg⟩ := retire_frame s (fun a => a == .ckpt)
  unfold State.endCkpt
  dsimp only
  split
  case h_1 j _ _ =>
    refine ⟨?_, fun a hcfl htimeout => (reg_request_of_ne _ _ _ _ _ _ htimeout).trans (hreg a hcfl)⟩
    obtain ⟨r', p0', p1', f', hreq⟩ := request_frame
      { s.retire (fun a => a == .ckpt) with ckptQ := (s.retire (fun a => a == .ckpt)).ckptQ.drop 1 } .read j.blk 0 64 .ckpt
    refine ⟨p0', p1', r', f', d, ?_⟩
    rw [hreq, hretire]
  case h_2 =>
    refine ⟨⟨p0, p1, r, f, d, ?_⟩, fun a hcfl _ => hreg a hcfl⟩
    rw [hretire]

theorem ckptQ_endCkpt (s : State) : s.endCkpt.ckptQ = s.ckptQ.drop 1 := by
  obtain ⟨⟨_, _, _, _, _, hend⟩, -⟩ := endCkpt_frame s
  rw [hend]

theorem ctx_endCkpt (s : State) (c : Nat) : s.endCkpt.ctx c = s.ctx c := by
  obtain ⟨⟨_, _, _, _, _, hend⟩, -⟩ := endCkpt_frame s
  rw [hend]
  rfl

theorem ckptFull_eq_false {s : State} (h : s.ckptQ.length < 9) : s.ckptFull = false := decide_eq_false (Nat.not_le.2 h)

/-! ### CKPTMAN (R341) -/

theorem exec_ckptman (s : State) (i : Issue) : exec (.ckptman i) s = .next (s.runCmd specCkptman i) := rfl

theorem body_specCkptman : specCkptman.body = ckptMan := rfl

/-- The draft at a block is of this shape, and its shards meet no read extent. -/
structure State.DraftFits (s : State) (blk : Nat) : Prop where
  chipsM1 : leAt (s.block blk) 0x10 2 = s.chipsM1
  rank : leAt (s.block blk) 0x12 2 = s.rank
  clear : ∀ x ∈ manShards (s.block blk), s.inIndex x.blk (x.blocks + 1) = false

/-- The job of a CKPTMAN: what the context holds, and the extents of the draft's shards. -/
def State.draftJob (s : State) (c : Cmd) : CkptJob :=
  { ctx := c.ctx, step := c.a, blk := c.b, ticket := some c.tk
    extents := (manShards (s.block c.b)).map (fun x => (x.blk, x.blocks + 1))
    wman := (s.ctx c.ctx).wman, prev := (s.ctx c.ctx).prev, scales := (s.ctx c.ctx).stood }

theorem ckptMan_of_ready {s : State} {c : Cmd} (hctx : c.ctx ≠ 0) (hlive : (s.ctx c.ctx).st = .live)
    (hstep : (s.ctx c.ctx).anyStep = false) (hlast : (s.ctx c.ctx).committed = c.a) (hdraft : s.DraftFits c.b)
    (hroom : s.ckptQ.length < 9) : ckptMan c s = (s.queueCkpt (s.draftJob c), .later stPending) := by
  obtain ⟨hchips, hrank, hclear⟩ := hdraft
  have hmeets : ¬ (manShards (s.block c.b)).any (fun x => s.inIndex x.blk (x.blocks + 1)) = true := by
    simpa [List.any_eq_true] using hclear
  unfold ckptMan
  dsimp only
  rw [if_neg (by simp only [hctx, hlive, hstep, hlast, hchips, hrank, hmeets, ne_eq, not_true_eq_false, Bool.false_eq_true, or_self,
    not_false_eq_true]), ckptFull_eq_false hroom]
  rfl

section
variable {s : State} {q : CoreCmd}

theorem passes_ckptman (hserve : s.serving q.k = true) (hopc : q.opc = 0x58) (hmod : q.mod = 0) (himm : q.imm = 0) (ha : q.a < 2 ^ 32)
    (hb : q.b < 2 ^ 38) (hc : q.c < 2 ^ 64) (hlive : (s.ctx q.ctx).st = .live) : s.Passes q specCkptman :=
  passes_of_rows hserve hopc rfl (by omega) (by omega) hc (by omega) (by omega) (by rw [hmod, himm]; rfl)
    (.inr (by rw [show specCkptman.named (q.cmd s) = q.ctx from rfl, hlive]; decide))
    ((wide_eq_false_iff ..).2 ⟨fun _ => ha, fun _ => hb, fun h => absurd rfl h, fun h => absurd rfl h⟩)

theorem exec_ckptman_of_ready (h : s.Passes q specCkptman) (ht : s.hasTicket = true) (hctx : q.ctx ≠ 0)
    (hlive : (s.ctx q.ctx).st = .live) (hstep : (s.ctx q.ctx).anyStep = false) (hlast : (s.ctx q.ctx).committed = q.a)
    (hroom : s.ckptQ.length < 9) (hdraft : ∀ w ∈ [s, s.noted q stPending s.nextTicket], w.DraftFits q.b) :
    exec (.ckptman q.issue) s = .next (((s.noted q stPending s.nextTicket).queueCkpt
      ((s.noted q stPending s.nextTicket).draftJob (q.cmd s))).heldUnder s q stPending s.nextTicket) := by
  rw [exec_ckptman, runCmd_of_kept_both h (f := fun w => w.queueCkpt (w.draftJob (q.cmd s))) ht]
  intro w hw
  have hio := State.JournalOnly.of_mem w hw
  rw [body_specCkptman]
  refine ckptMan_of_ready (c := q.cmd s) hctx ?_ ?_ ?_ (hdraft w hw) (by rw [hio.ckptQ]; exact hroom)
  · exact (congrArg Ctx.st (hio.ctx _)).trans hlive
  · exact (congrArg Ctx.anyStep (hio.ctx _)).trans hstep
  · exact (congrArg Ctx.committed (hio.ctx _)).trans hlast

end

/-! ### CKPTCHK (R343) -/

theorem exec_ckptchk (s : State) (i : Issue) : exec (.ckptchk i) s = .next (s.runCmd specCkptchk i) := rfl

theorem body_specCkptchk : specCkptchk.body = ckptChk := rfl

/-- The job of a CKPTCHK: MOD 1 restores. -/
def Cmd.checkJob (c : Cmd) : CkptJob :=
  { kind := if c.mod = 1 then .restore else .chk, ctx := c.ctx, blk := c.b, ticket := some c.tk }

theorem ckptChk_of_room {s : State} {c : Cmd} (hmay : c.mod = 1 → s.mayRestore c.ctx (s.block c.b) = true) (hroom : s.ckptQ.length < 9) :
    ckptChk c s = (s.queueCkpt c.checkJob, .later stPending) := by
  have hlegal : ¬ (c.mod = 1 ∧ s.mayRestore c.ctx (s.block c.b) = false) := fun ⟨hmod, hnot⟩ => by simp [hmay hmod] at hnot
  rw [ckptChk, if_neg hlegal, ckptFull_eq_false hroom]
  rfl

section
variable {s : State} {q : CoreCmd}

theorem passes_ckptchk (hserve : s.serving q.k = true) (hopc : q.opc = 0x59) (hmod : q.mod < 2) (himm : q.imm = 0) (ha : q.a < 2 ^ 64)
    (hb : q.b < 2 ^ 38) (hc : q.c < 2 ^ 64) (halive : (s.ctx q.ctx).st ≠ .terminated) : s.Passes q specCkptchk := by
  have hrow1 : specCkptchk.row1 q.mod q.imm = false := by
    obtain hzero | hone : q.mod = 0 ∨ q.mod = 1 := by omega
    · rw [hzero, himm]
      rfl
    · rw [hone, himm]
      rfl
  exact passes_of_rows hserve hopc rfl ha (by omega) hc (by omega) (by omega) hrow1 (.inr halive)
    ((wide_eq_false_iff ..).2 ⟨fun h => absurd rfl h, fun _ => hb, fun h => absurd rfl h, fun h => absurd rfl h⟩)

theorem exec_ckptchk_of_room (h : s.Passes q specCkptchk) (ht : s.hasTicket = true) (hroom : s.ckptQ.length < 9)
    (hmay : q.mod = 1 → ∀ w ∈ [s, s.noted q stPending s.nextTicket], w.mayRestore q.ctx (w.block q.b) = true) :
    exec (.ckptchk q.issue) s =
      .next (((s.noted q stPending s.nextTicket).queueCkpt (q.cmd s).checkJob).heldUnder s q stPending s.nextTicket) := by
  rw [exec_ckptchk, runCmd_of_kept_both h (f := fun w => w.queueCkpt (q.cmd s).checkJob) ht]
  intro w hw
  rw [body_specCkptchk]
  exact ckptChk_of_room (c := q.cmd s) (fun hmod => hmay hmod w hw) (by rw [(State.JournalOnly.of_mem w hw).ckptQ]; exact hroom)

end

/-! ### The end of a CKPTMAN (R341) -/

theorem exec_ckptmanDone_of_none {s : State} (hq : s.ckptQ = []) : exec .ckptmanDone s = .next s := by
  have hexec : exec .ckptmanDone s = execCkptmanDone s := rfl
  rw [hexec, execCkptmanDone, hq]

section
variable {s : State} {j : CkptJob} {rest : List CkptJob} (hq : s.ckptQ = j :: rest)
include hq

theorem exec_ckptmanDone_of_unfit (hkind : j.kind = .man) (hstall : s.bothStalled = false)
    (hdraft : draftOk j.scales (s.block j.blk) = false) :
    exec .ckptmanDone s = .next (s.endCkpt.completeOpt j.ticket stManifestInconsistent 0 false) := by
  have hexec : exec .ckptmanDone s = execCkptmanDone s := rfl
  simp [hexec, execCkptmanDone, hq, hkind, hstall, hdraft]

theorem exec_ckptmanDone_of_written (hkind : j.kind = .man) (hstall : s.bothStalled = false)
    (hdraft : draftOk j.scales (s.block j.blk) = true) {u : State}
    (hwrite : s.endCkpt.writeManifest j.ctx j.blk (draftOf (s.block j.blk) j) = (u, none)) :
    exec .ckptmanDone s = .next (u.completeOpt j.ticket stOk 0 false) := by
  have hexec : exec .ckptmanDone s = execCkptmanDone s := rfl
  simp [hexec, execCkptmanDone, hq, hkind, hstall, hdraft, hwrite]

/-! ### The end of a CKPTCHK (R343) -/

theorem exec_ckptchkDone_of_chk (hkind : j.kind = .chk) (hstall : s.bothStalled = false) :
    exec .ckptchkDone s = .next (s.endCkpt.endChk j (s.block j.blk) (s.ckptCheck j.ctx false (s.block j.blk))) := by
  have hexec : exec .ckptchkDone s = execCkptchkDone s := rfl
  simp [hexec, execCkptchkDone, hq, hkind, hstall]

theorem exec_ckptchkDone_of_restore (hkind : j.kind = .restore) (hstall : s.bothStalled = false)
    (hmay : s.mayRestore j.ctx (s.block j.blk) = true) :
    exec .ckptchkDone s = .next (s.endCkpt.endChk j (s.block j.blk) (s.ckptCheck j.ctx true (s.block j.blk))) := by
  have hexec : exec .ckptchkDone s = execCkptchkDone s := rfl
  simp [hexec, execCkptchkDone, hq, hkind, hstall, hmay]

end

theorem exec_ckptchkDone_of_none {s : State} (hq : s.ckptQ = []) : exec .ckptchkDone s = .next s := by
  have hexec : exec .ckptchkDone s = execCkptchkDone s := rfl
  rw [hexec, execCkptchkDone, hq]

theorem endChk_of_ok (s : State) (j : CkptJob) (b : Bytes) {r : Nat × Nat × Option Nat} (hok : r.1 = stOk) :
    s.endChk j b r = (if j.kind = .restore then s.restore j.ctx b else s).completeOpt j.ticket stOk r.2.1 true := by
  rw [State.endChk, if_pos hok]
  simp only [beq_iff_eq]

/-- A check refused without a shard to blame is counted and held in REFUSED. -/
theorem endChk_of_refused (s : State) (j : CkptJob) (b : Bytes) {st : Nat} (hbad : st ≠ stOk) (res : Nat) :
    s.endChk j b (st, res, none) = ((s.count Reg.hubCntCkptRefused).setBits Reg.hubCkptStatus 2).completeOpt j.ticket st res true := by
  rw [State.endChk, if_neg hbad]

/-- Row 2 of R343 comes first. -/
theorem ckptCheck_of_malformed {b : Bytes} (h : manOk b = false) (s : State) (c : Nat) (restore : Bool) :
    s.ckptCheck c restore b = (stManifestInconsistent, 0, none) := by
  rw [State.ckptCheck, h]
  rfl

/-- The state after the end of a check that is refused without a shard to blame. -/
def State.checkRefused (s : State) : State := (s.endCkpt.count Reg.hubCntCkptRefused).setBits Reg.hubCkptStatus 2

theorem reg_checkRefused (s : State) : s.checkRefused.reg Reg.hubCntCkptRefused = min (2 ^ 32 - 1) (s.reg Reg.hubCntCkptRefused + 1) := by
  have hend : s.endCkpt.reg Reg.hubCntCkptRefused = s.reg Reg.hubCntCkptRefused := (endCkpt_frame s).2 _ (by decide) (by decide)
  rw [State.checkRefused, reg_setBits, if_neg (by decide), reg_count, if_pos rfl, hend]

theorem bit_checkRefused (s : State) : s.checkRefused.bit Reg.hubCkptStatus 1 = true :=
  bit_setBits_self (s.endCkpt.count Reg.hubCntCkptRefused) Reg.hubCkptStatus (i := 1) (by decide)

theorem ckptQ_checkRefused (s : State) : s.checkRefused.ckptQ = s.ckptQ.drop 1 := ckptQ_endCkpt s

/-! ### A restore (R344) -/

/-- Stated for any value, since computing the check value of a block is out of reach for a proof. -/
theorem with_sb_setSb (s : State) (blk v : Nat) (t : List (Nat × Nat)) : { s.setSb blk v with sb := t } = { s with sb := t } := rfl

theorem sealBlocks_frame (s : State) (gen fmt b n : Nat) : ∃ v, s.sealBlocks gen fmt b n = { s with sb := v } := by
  induction n generalizing s b with
  | zero => exact ⟨s.sb, rfl⟩
  | succ n ih =>
    unfold State.sealBlocks
    obtain ⟨v, hrest⟩ := ih (s.setSb b (bcv (s.block b) b gen fmt false 0xFE)) (b + 1)
    exact ⟨v, hrest.trans (with_sb_setSb ..)⟩

theorem sealShards_frame (s : State) (gen : Nat) (l : List Shard) : ∃ v, s.sealShards gen l = { s with sb := v } := by
  induction l generalizing s with
  | nil => exact ⟨s.sb, rfl⟩
  | cons x l ih =>
    obtain ⟨v, hrest⟩ := ih ((s.sealBlocks gen 0x3E x.blk 1).sealBlocks gen x.fmt (x.blk + 1) x.blocks)
    obtain ⟨v1, hheader⟩ := sealBlocks_frame s gen 0x3E x.blk 1
    obtain ⟨v2, hbody⟩ := sealBlocks_frame (s.sealBlocks gen 0x3E x.blk 1) gen x.fmt (x.blk + 1) x.blocks
    refine ⟨v, ?_⟩
    rw [State.sealShards, hrest, hbody, hheader]

theorem bindScales_frame (s : State) (c : Nat) (l : List (Nat × Bytes)) : ∃ v, s.bindScales c l = { s with sck := v } := by
  induction l generalizing s with
  | nil => exact ⟨s.sck, rfl⟩
  | cons p l ih =>
    obtain ⟨v, hrest⟩ := ih (s.setSck p.1 (scaleOf c p.2))
    exact ⟨v, hrest⟩

/-- The state in which a restore has sealed the shards and bound the scales that the manifest names. -/
def State.shardsBound (s : State) (c : Nat) (b : Bytes) : State :=
  (s.sealShards (s.ctx c).gen (manShards b)).bindScales c (s.scaleShard b)

theorem ctx_shardsBound (s : State) (c : Nat) (b : Bytes) (d : Nat) : (s.shardsBound c b).ctx d = s.ctx d := by
  obtain ⟨v, hseal⟩ := sealShards_frame s (s.ctx c).gen (manShards b)
  obtain ⟨w, hbind⟩ := bindScales_frame (s.sealShards (s.ctx c).gen (manShards b)) c (s.scaleShard b)
  rw [State.shardsBound, hbind, hseal]
  rfl

/-- The context that a restore leaves. -/
def State.restored (s : State) (c : Nat) (b : Bytes) : Ctx :=
  { (s.shardsBound c b).ctx c with
    committed := leAt b 8 4, anyStep := false, prev := slice b 0x70 48, stood := (s.shardsBound c b).boundScales c
    wman := if slice b 0x40 48 == zeros 48 then sha384 (slice b 0 0xF80) else slice b 0x40 48 }

theorem restore_eq (s : State) (c : Nat) (b : Bytes) :
    s.restore c b = ((s.shardsBound c b).setCtx c (s.restored c b)).count Reg.hubCntRestored := rfl

theorem ctx_restore (s : State) (c : Nat) (b : Bytes) (d : Nat) :
    (s.restore c b).ctx d = if c = d then s.restored c b else s.ctx d := by
  have hcount : (s.restore c b).ctx d = ((s.shardsBound c b).setCtx c (s.restored c b)).ctx d := by
    rw [restore_eq]
    exact congrArg (Tab.get ({} : Ctx) · d) (count_ctxs ..)
  rw [hcount, ctx_setCtx, ctx_shardsBound]

theorem gen_restored (s : State) (c : Nat) (b : Bytes) : (s.restored c b).gen = (s.ctx c).gen := by
  rw [State.restored, ctx_shardsBound]

/-- A restore writes the one context, and keeps its generation. -/
theorem restore_leaves (s : State) (c : Nat) (b : Bytes) :
    ((s.restore c b).ctx c).committed = leAt b 8 4 ∧ ((s.restore c b).ctx c).anyStep = false ∧
      ((s.restore c b).ctx c).gen = (s.ctx c).gen ∧ ∀ d, d ≠ c → (s.restore c b).ctx d = s.ctx d := by
  have hself : (s.restore c b).ctx c = s.restored c b := by rw [ctx_restore, if_pos rfl]
  rw [hself, gen_restored]
  exact ⟨rfl, rfl, rfl, fun d hd => by rw [ctx_restore, if_neg (Ne.symm hd)]⟩

/-- Settles O36: each command by what its sub-block answers before and after its entry, each end by the kind of the served command, the
queue by its frames, and a restore by the one context that it writes. -/
theorem checkpointCommands : Obligations.CheckpointCommands := by
  unfold Obligations.CheckpointCommands
  refine ⟨?man, ?chk, ?manDone, ?chkDone, ?queue, ?empty⟩
  case man =>
    intro s q hopc hserve ht hctx hmod himm ha hb hc hlive hstep hlast hroom hdraft
    have hpass := passes_ckptman hserve hopc hmod himm ha hb hc hlive
    have hfits : ∀ w ∈ [s, s.noted q stPending s.nextTicket], w.DraftFits q.b := fun w hw => by
      have hio := State.JournalOnly.of_mem w hw
      obtain ⟨hchips, hrank, hclear⟩ := hdraft w hw
      exact ⟨hchips.trans hio.chipsM1.symm, hrank.trans hio.rank.symm, fun x hx => (hio.inIndex ..).trans (hclear x hx)⟩
    rw [exec_ckptman_of_ready hpass ht hctx hlive hstep hlast hroom hfits, State.draftJob, (State.JournalOnly.noted ..).ctx]
    rfl
  case chk =>
    intro s q hopc hserve ht hmod himm ha hb hc halive hroom hmay
    exact exec_ckptchk_of_room (passes_ckptchk hserve hopc hmod himm ha hb hc halive) ht hroom hmay
  case manDone =>
    intro s j rest hq hkind hstall
    exact ⟨exec_ckptmanDone_of_unfit hq hkind hstall, fun u hdraft hwrite => exec_ckptmanDone_of_written hq hkind hstall hdraft hwrite⟩
  case chkDone =>
    intro s j rest hq hstall
    refine ⟨fun hkind hok => ?passed, fun hkind hbad => ?refused, fun hkind hmay hok => ?restored⟩
    case passed => rw [exec_ckptchkDone_of_chk hq hkind hstall, endChk_of_ok _ _ _ hok, if_neg (by rw [hkind]; decide)]
    case refused =>
      refine ⟨s.checkRefused, ?_, reg_checkRefused s, bit_checkRefused s, ?_, rfl⟩
      · rw [exec_ckptchkDone_of_chk hq hkind hstall, ckptCheck_of_malformed hbad, endChk_of_refused _ _ _ (by decide)]
        rfl
      · rw [ckptQ_checkRefused, hq, List.drop_one, List.tail_cons]
    case restored =>
      obtain ⟨hlast, hstep, hgen, hother⟩ := restore_leaves s.endCkpt j.ctx (s.block j.blk)
      rw [ctx_endCkpt] at hgen
      refine ⟨_, rfl, ?_, hlast, hstep, hgen, fun c hc => (hother c hc).trans (ctx_endCkpt s c)⟩
      rw [exec_ckptchkDone_of_restore hq hkind hstall hmay, endChk_of_ok _ _ _ hok, if_pos hkind]
  case queue =>
    intro s j
    obtain ⟨r, p0, p1, f, hqueue⟩ := queueCkpt_frame s j
    obtain ⟨⟨p0', p1', r', f', d', hend⟩, -⟩ := endCkpt_frame s
    refine ⟨by rw [hqueue], ckptQ_endCkpt s, fun u hu => ?_⟩
    rcases List.mem_pair.1 hu with rfl | rfl
    · rw [hqueue]
    · rw [hend]
  case empty => exact fun s hq => ⟨exec_ckptmanDone_of_none hq, exec_ckptchkDone_of_none hq⟩

end Sys2Proof.Machine
end

section
/-! BUDDYCFG and PEERSEND of a core (R333, R347), with the envelope of a message (R329) and the queue of its class (R468). -/

namespace Sys2Proof.Machine

/-! ### BUDDYCFG (R347) -/

theorem exec_buddycfg (s : State) (i : Issue) : exec (.buddycfg i) s = .next (s.runCmd specBuddycfg i) := rfl

theorem body_specBuddycfg : specBuddycfg.body = buddyCfg := rfl

namespace State.JournalOnly
variable {s t : State} (h : s.JournalOnly t)
include h

theorem buddyMap : t.reg Reg.hubBuddyMap = s.reg Reg.hubBuddyMap := h.reg _ (by unfold journalReg; decide)
theorem buddied : t.buddied = s.buddied := (congrArg State.buddied h.frame :)
theorem peer : t.peer = s.peer := (congrArg State.peer h.frame :)
theorem agent : t.agent = s.agent := by rw [State.agent, h.reg _ (by unfold journalReg; decide), State.agent]

theorem envelope (cls dst : Nat) (body : Bytes) : t.envelope cls dst body = s.envelope cls dst body := by
  rw [State.envelope, h.agent, State.envelope]

end State.JournalOnly

/-- A command that its sub-block ends with OK both before and after its entry has its effect after the entry. -/
theorem runCmd_of_done_both {s : State} {q : CoreCmd} {sp : CmdSpec} (h : s.Passes q sp) {f : State → State}
    (hbody : ∀ w ∈ [s, s.noted q], sp.body (q.cmd s) w = (f w, .ok 0)) : s.runCmd sp q.issue = (f (s.noted q)).count Reg.hubCntCmd :=
  runCmd_of_ok h (congrArg Prod.snd (hbody s (by simp))) (hbody _ (by simp))

section
variable {s : State} {c : Cmd} (hlive : (s.ctx c.a).st = .live) (hslot : (s.ctx c.a).anySlot = false)
include hlive hslot

theorem buddyCfg_of_removal (hb : c.b = 0xFFFF) : buddyCfg c s = (s.setCtx c.a { s.ctx c.a with buddy := none }, .ok 0) := by
  simp [buddyCfg, hlive, hslot, hb]

theorem buddyCfg_of_map (hb : c.b ≠ 0xFFFF) (hmap : s.mapOk (s.reg Reg.hubBuddyMap * 64) = true)
    (hroom : (s.ctx c.a).buddy.isSome = true ∨ s.buddied.length < 256) :
    buddyCfg c s = (s.setCtx c.a { s.ctx c.a with buddy := some { agent := c.b, map := s.reg Reg.hubBuddyMap * 64 } }, .ok 0) := by
  have hfull : ¬ ((s.ctx c.a).buddy.isNone ∧ 256 ≤ s.buddied.length) := by
    rintro ⟨hnone, hlen⟩
    rcases hroom with hsome | hlt
    · rw [Option.isNone_iff_eq_none.1 hnone] at hsome
      exact absurd hsome (by decide)
    · omega
  unfold buddyCfg
  dsimp only
  rw [if_neg (by simp [hlive, hslot]), if_neg hb, if_neg (by simp [hmap]), if_neg hfull]

theorem buddyCfg_of_badMap (hb : c.b ≠ 0xFFFF) (hmap : s.mapOk (s.reg Reg.hubBuddyMap * 64) = false) :
    buddyCfg c s = reject s stIllegalState := by
  simp [buddyCfg, hlive, hslot, hb, hmap]

end

section
variable {s : State} {q : CoreCmd}

theorem passes_buddycfg (hserve : s.serving q.k = true) (hopc : q.opc = 0x5A) (hmod : q.mod = 0) (himm : q.imm = 0) (ha : q.a < 2 ^ 16)
    (hb : q.b < 2 ^ 16) (hc : q.c < 2 ^ 64) (hlive : (s.ctx q.a).st = .live) : s.Passes q specBuddycfg :=
  passes_of_rows hserve hopc rfl (by omega) (by omega) hc (by omega) (by omega) (by rw [hmod, himm]; rfl)
    (.inr (by rw [show specBuddycfg.named (q.cmd s) = q.a from rfl, hlive]; decide))
    ((wide_eq_false_iff ..).2 ⟨fun _ => ha, fun _ => hb, fun h => absurd rfl h, fun h => absurd rfl h⟩)

variable (h : s.Passes q specBuddycfg) (hlive : (s.ctx q.a).st = .live) (hslot : (s.ctx q.a).anySlot = false)
include h hlive hslot

theorem exec_buddycfg_of_removal (hb : q.b = 0xFFFF) : exec (.buddycfg q.issue) s =
    .next (((s.noted q).setCtx q.a { s.ctx q.a with buddy := none }).count Reg.hubCntCmd) := by
  rw [exec_buddycfg, runCmd_of_done h (f := fun t => t.setCtx q.a { s.ctx q.a with buddy := none }) (v := fun _ => 0)]
  intro t ht
  rw [body_specBuddycfg, ← ht.ctx]
  exact buddyCfg_of_removal (c := q.cmd s) ((congrArg Ctx.st (ht.ctx _)).trans hlive) ((congrArg Ctx.anySlot (ht.ctx _)).trans hslot) hb

/-- The state map lies in memory, where an entry's copy may be written: it verifies before the entry and after it. -/
theorem exec_buddycfg_of_map (hb : q.b ≠ 0xFFFF) (hmap : ∀ w ∈ [s, s.noted q], w.mapOk (s.reg Reg.hubBuddyMap * 64) = true)
    (hroom : (s.ctx q.a).buddy.isSome = true ∨ s.buddied.length < 256) : exec (.buddycfg q.issue) s = .next (((s.noted q).setCtx q.a
      { s.ctx q.a with buddy := some { agent := q.b, map := s.reg Reg.hubBuddyMap * 64 } }).count Reg.hubCntCmd) := by
  rw [exec_buddycfg, runCmd_of_done_both h
    (f := fun t => t.setCtx q.a { s.ctx q.a with buddy := some { agent := q.b, map := s.reg Reg.hubBuddyMap * 64 } })]
  intro w hw
  have hio := State.JournalOnly.of_mem w hw
  rw [body_specBuddycfg, ← hio.ctx, ← hio.buddyMap]
  refine buddyCfg_of_map (c := q.cmd s) ?_ ?_ hb ?_ ?_
  · exact (congrArg Ctx.st (hio.ctx _)).trans hlive
  · exact (congrArg Ctx.anySlot (hio.ctx _)).trans hslot
  · rw [hio.buddyMap]
    exact hmap w hw
  · rw [hio.buddied, hio.ctx]
    exact hroom

end

/-! ### Messages to hosts (R329, R333, R468) -/

theorem sendPeer_of_credit {s : State} {cls : Nat} (hqueue : s.peer.queue cls = []) (hcredit : 0 < s.peer.credit cls) (dst : Nat)
    (body : Bytes) : s.sendPeer cls dst body =
      { s with
        peer := { s.peer with credits := setAt s.peer.credits cls (s.peer.credit cls - 1) }
        out := s.out ++ [.peer (s.envelope cls dst body)] } := if_pos ⟨hcredit, hqueue⟩

theorem sendPeer_of_waiting {s : State} {cls : Nat} (h : s.peer.queue cls ≠ [] ∨ s.peer.credit cls = 0) (dst : Nat) (body : Bytes) :
    s.sendPeer cls dst body =
      { s with peer := { s.peer with queues := setAt s.peer.queues cls (s.peer.queue cls ++ [s.envelope cls dst body]) } } := by
  refine if_neg fun ⟨hcredit, hempty⟩ => ?_
  rcases h with hqueue | hnone
  · exact hqueue hempty
  · omega

/-! ### PEERSEND (R333) -/

theorem exec_peersend (s : State) (i : Issue) : exec (.peersend i) s = .next (s.runCmd specPeersend i) := rfl

theorem body_specPeersend : specPeersend.body = peerSend := rfl

/-- The 64 bytes at the operands of a PEERSEND. -/
def State.hostBody (s : State) (q : CoreCmd) : Bytes := s.bytes (q.a * 4096 + q.imm) 64

section
variable {s : State} {c : Cmd} (hline : c.imm % 64 = 0) (hkind : 0x80 ≤ leAt (s.bytes (c.a * 4096 + c.imm) 64) 0 1)
include hline hkind

theorem peerSend_of_room (hroom : (s.peer.queue 3).length < 64) :
    peerSend c s = (s.sendPeer 3 c.b (s.bytes (c.a * 4096 + c.imm) 64), .ok 0) := by
  have hfull : s.peerFull 3 = false := decide_eq_false (Nat.not_le.2 hroom)
  unfold peerSend
  dsimp only
  rw [if_neg (by omega), hfull]
  rfl

theorem peerSend_of_full (hfull : 64 ≤ (s.peer.queue 3).length) : peerSend c s = reject s stFull := by
  have hfull : s.peerFull 3 = true := decide_eq_true hfull
  unfold peerSend
  dsimp only
  rw [if_neg (by omega), if_pos hfull]

end

section
variable {s : State} {q : CoreCmd}

theorem passes_peersend (hserve : s.serving q.k = true) (hopc : q.opc = 0x5B) (hctx : q.ctx = 0) (hmod : q.mod = 0) (ha : q.a < 2 ^ 38)
    (hb : q.b < 2 ^ 16) (hc : q.c < 2 ^ 64) (himm : q.imm < 4096) (halive : (s.ctx 0).st ≠ .terminated) : s.Passes q specPeersend :=
  passes_of_serving hserve hopc rfl (by omega) (by omega) hc hmod (by omega) rfl hctx halive
    ((wide_eq_false_iff ..).2 ⟨fun _ => ha, fun _ => hb, fun h => absurd rfl h, fun _ => himm⟩)

theorem exec_peersend_of_room (h : s.Passes q specPeersend) (hline : q.imm % 64 = 0)
    (hkind : ∀ w ∈ [s, s.noted q], 0x80 ≤ leAt (w.hostBody q) 0 1) (hroom : (s.peer.queue 3).length < 64) :
    exec (.peersend q.issue) s = .next (((s.noted q).sendPeer 3 q.b ((s.noted q).hostBody q)).count Reg.hubCntCmd) := by
  rw [exec_peersend, runCmd_of_done_both h (f := fun w => w.sendPeer 3 q.b (w.hostBody q))]
  intro w hw
  rw [body_specPeersend]
  exact peerSend_of_room (c := q.cmd s) hline (hkind w hw) (by rw [(State.JournalOnly.of_mem w hw).peer]; exact hroom)

end

/-- Settles O37: BUDDYCFG by its operand and the map before and after its entry, PEERSEND by the queue and the credits of class 3, which an
entry leaves. -/
theorem buddyAndHostMessages : Obligations.BuddyAndHostMessages := by
  unfold Obligations.BuddyAndHostMessages
  refine ⟨?buddy, ?host, fun s cls dst body => ⟨rfl, rfl, rfl, rfl, rfl⟩⟩
  case buddy =>
    intro s q hopc hserve _ hmod himm ha hb hc hlive hslot
    have hpass := passes_buddycfg hserve hopc hmod himm ha hb hc hlive
    refine ⟨exec_buddycfg_of_removal hpass hlive hslot, exec_buddycfg_of_map hpass hlive hslot, fun hagent hmap => ?_⟩
    rw [exec_buddycfg, runCmd_of_rejected hpass (buddyCfg_of_badMap (c := q.cmd s) hlive hslot hagent hmap)]
  case host =>
    rintro s q m hopc hserve hctx hmod ha hb hc himm hline halive hkind rfl
    have hpass := passes_peersend hserve hopc hctx hmod ha hb hc himm halive
    have hio := State.JournalOnly.noted s q stOk 0
    refine ⟨fun hqueue hcredit => ?sent, fun hwait hroom => ?queued, fun hfull => ?full⟩
    case sent =>
      have hsend := sendPeer_of_credit (s := s.noted q) (cls := 3) (by rw [hio.peer]; exact hqueue) (by rw [hio.peer]; exact hcredit)
        q.b ((s.noted q).hostBody q)
      refine ⟨_, exec_peersend_of_room hpass hline hkind (by rw [hqueue]; decide), ?_, ?_, ?_, ?_⟩
      · rw [hsend, hio.envelope]
        rfl
      · rw [hsend, hio.peer]
      · rw [hsend, hio.peer]
      · rw [hsend]
    case queued =>
      have hsend := sendPeer_of_waiting (s := s.noted q) (cls := 3) (by rw [hio.peer]; exact hwait) q.b ((s.noted q).hostBody q)
      refine ⟨_, exec_peersend_of_room hpass hline hkind hroom, ?_, ?_, ?_⟩
      · rw [hsend, hio.envelope, hio.peer]
        rfl
      · rw [hsend, hio.peer]
      · rw [hsend]
    case full =>
      have hbody := peerSend_of_full (c := q.cmd s) hline (hkind s (by simp)) hfull
      rw [exec_peersend, runCmd_of_rejected hpass hbody]

end Sys2Proof.Machine
end

section
/-! The block's invariant along a step, the reset state, and the step on an empty queue (R9, R27, R402, R403, R405, R408). -/

namespace Sys2Proof.Machine

/-! ### The invariant along a step -/

/-- Each command keeps the canonical forms by the lemma of its own meaning. -/
theorem exec_keeps {pq : List Instr} {pg : Cfg} (c : Instr) {s : State} (h : s.Keeps pq pg) : OKeeps pq pg (exec c s) := by
  cases c <;> simp [exec, h]

theorem State.Inv.keeps {s : State} (h : s.Inv) (pq : List Instr) : ({ s with pending := pq } : State).Keeps pq s.cfg :=
  ⟨rfl, rfl, h.1, h.2.1, h.2.2⟩

theorem State.Keeps.inv {pq : List Instr} {pg : Cfg} {s : State} (h : s.Keeps pq pg) : s.Inv := h.2.2

/-- Settles O4: the idle cycle and every command keep the canonical forms, whatever waits in the queue. -/
theorem stepKeepsCanonicalForm : Obligations.StepKeepsCanonicalForm := by
  unfold Obligations.StepKeepsCanonicalForm
  intro s t hinv hstep
  cases hp : s.pending with
  | nil =>
    have htick : s.tick.Keeps s.pending s.cfg := keeps_tick s (hinv.keeps s.pending)
    obtain rfl : s.tick = t := by simpa [step, hp] using hstep
    exact htick.inv
  | cons c rest =>
    have hexec := exec_keeps c (hinv.keeps rest)
    rw [show exec c { s with pending := rest } = .next t by simpa [step, hp] using hstep] at hexec
    exact State.Keeps.inv hexec

/-- Settles O1 by the definition of a step on a queue that is not empty. -/
theorem stepRunsFrontOfQueue : Obligations.StepRunsFrontOfQueue := by
  unfold Obligations.StepRunsFrontOfQueue
  intro c rest s hp
  simp only [step, hp]

theorem state_reset_reg (a : Nat) : State.reset.reg a = regReset a := rfl

/-- Settles O5: the reset state stores no register, so each reads its reset value (R9), and its other tables are empty. -/
theorem resetValues : Obligations.ResetValues := by
  unfold Obligations.ResetValues
  refine ⟨⟨rfl, rfl, rfl⟩, state_reset_reg, ?_, fun _ => ⟨rfl, rfl⟩, fun _ => rfl, rfl, rfl, rfl, rfl, rfl, rfl, rfl, rfl, rfl, rfl, ?_, fun _ => rfl,
    fun _ => rfl, rfl, rfl⟩
  · simp only [state_reset_reg]
    decide
  · intro k
    rcases k with _ | _ | _ | _ | k <;> rfl

/-! ### The idle cycle -/

/-- The units that a sample of the progress watch marks: the watched ones that are excluded at it (R403). -/
theorem markExcluded_cons (s : State) (u : Nat) (l : List Nat) : ∃ w, s.markExcluded (u :: l) = ({ s with watched := w } : State).markExcluded l ∧
    (s.isWatched u = true → s.excluded u = true → (Tab.get {} w u).exLast = s.time) ∧
    ∀ v, (Tab.get {} w v).exLast = (s.watchedUnit v).exLast ∨ (Tab.get {} w v).exLast = s.time := by
  by_cases h : (s.isWatched u && s.excluded u) = true
  · refine ⟨_, by rw [State.markExcluded, if_pos h]; rfl, fun _ _ => by simp, fun v => ?_⟩
    rw [tab_get_set]
    by_cases huv : u = v
    · exact .inr (by rw [if_pos huv])
    · exact .inl (by rw [if_neg huv]; rfl)
  · exact ⟨s.watched, by rw [State.markExcluded, if_neg h], fun hw hx => absurd (by simp [hw, hx]) h, fun v => .inl rfl⟩

theorem markExcluded_frame (s : State) (l : List Nat) : ∃ w, s.markExcluded l = { s with watched := w } := by
  induction l generalizing s with
  | nil => exact ⟨s.watched, rfl⟩
  | cons u l ih =>
    obtain ⟨w, hmark, -⟩ := markExcluded_cons s u l
    obtain ⟨w', h⟩ := ih { s with watched := w }
    exact ⟨w', hmark.trans h⟩

/-- A unit of the list that is excluded is marked with the time of the sample, and stays so marked. -/
theorem exLast_markExcluded {s : State} {u : Nat} {l : List Nat} (hw : s.isWatched u = true) (hx : s.excluded u = true)
    (h : u ∈ l ∨ (s.watchedUnit u).exLast = s.time) : ((s.markExcluded l).watchedUnit u).exLast = s.time := by
  induction l generalizing s with
  | nil => exact h.resolve_left List.not_mem_nil
  | cons v l ih =>
    obtain ⟨w, hmark, hself, hothers⟩ := markExcluded_cons s v l
    rw [hmark]
    refine ih (s := { s with watched := w }) hw hx ?_
    rcases h with hmem | hlast
    · rcases List.mem_cons.1 hmem with rfl | hl
      · exact .inr (hself hw hx)
      · exact .inl hl
    · exact .inr ((hothers u).elim (·.trans hlast) id)

/-- The resets, the ops and the time base after one cycle of zv_ref_clk. -/
def State.ticked (s : State) : State :=
  { s with time := s.time + 1, rsts := s.rsts.map s.tickRst, ctxs := s.ctxs.map (fun p => (p.1, s.tickCtx p.2)) }

theorem tick_eq (s : State) : s.tick = if (s.time + 1) % 64 = 0 then s.ticked.markExcluded (List.range 256) else s.ticked := rfl

theorem tick_frame (s : State) : ∃ w, s.tick = { s.ticked with watched := w } := by
  rw [tick_eq]
  split_ifs
  · exact markExcluded_frame ..
  · exact ⟨s.watched, rfl⟩

theorem tickRst_eq (s : State) (r : Rst) : s.tickRst r = { r with stopped := r.stopped +
    (if r.active = true ∧ r.phase = .ready ∧ (∃ p ∈ r.tiles, s.domStopped (s.clkOf p) = true) then 1 else 0) } := by
  by_cases h : r.active = true ∧ r.phase = .ready ∧ (∃ p ∈ r.tiles, s.domStopped (s.clkOf p) = true)
  · rw [if_pos h, State.tickRst, if_pos (by simpa [and_assoc] using h)]
  · rw [if_neg h, State.tickRst, if_neg (by simpa [and_assoc] using h)]
    rfl

theorem tickOp_eq (s : State) (o : OpRec) : s.tickOp o = { o with downFor := o.downFor +
    (if o.notAccepted = false ∧ o.verdict = none ∧ s.tileRuns o.tile = false then 1 else 0) } := by
  by_cases h : o.notAccepted = false ∧ o.verdict = none ∧ s.tileRuns o.tile = false
  · rw [if_pos h, State.tickOp, if_pos (by simpa [and_assoc] using h)]
  · rw [if_neg h, State.tickOp, if_neg (by simpa [and_assoc] using h)]
    rfl

theorem tab_get_map {α : Type} (d : α) (f : α → α) (t : List (Nat × α)) (k : Nat) (hd : f d = d) :
    Tab.get d (t.map (fun p => (p.1, f p.2))) k = f (Tab.get d t k) := by
  induction t with
  | nil => exact hd.symm
  | cons x t ih =>
    simp only [List.map_cons, Tab.get]
    split_ifs
    · rfl
    · exact ih

theorem slot_ticked (s : State) (c k : Nat) : s.ticked.slot c k = { s.slot c k with ops := (s.slot c k).ops.map s.tickOp } := by
  have hctx : s.ticked.ctx c = s.tickCtx (s.ctx c) := tab_get_map ({} : Ctx) s.tickCtx s.ctxs c rfl
  simp only [State.slot, hctx, Ctx.slot, State.tickCtx, List.getElem?_map]
  cases (s.ctx c).slots[k]? <;> rfl

/-- The reset slots of one cycle later exclude the same units. -/
theorem excluded_ticked (s : State) (u : Nat) : s.ticked.excluded u = s.excluded u := by
  have hr (r : Rst) : ((s.tickRst r).active && ((s.tickRst r).phase == .reset || (s.tickRst r).phase == .ready) && (s.domUnits (s.tickRst r)).contains u)
      = (r.active && (r.phase == .reset || r.phase == .ready) && (s.domUnits r).contains u) := by
    rw [tickRst_eq]
    rfl
  have hany : s.ticked.rsts.any (fun r => r.active && (r.phase == .reset || r.phase == .ready) && (s.domUnits r).contains u)
      = s.rsts.any (fun r => r.active && (r.phase == .reset || r.phase == .ready) && (s.domUnits r).contains u) := by
    simp only [State.ticked, List.any_map, Function.comp_def, hr]
  exact congrArg (_ || ·) hany

theorem step_of_idle {s : State} (h : s.pending = []) : step s = .next s.tick := by
  simp only [step, h]

/-- Settles O2 by the frame of the cycle and what its sample marks. -/
theorem idleStepAdvancesTimeBase : Obligations.IdleStepAdvancesTimeBase := by
  unfold Obligations.IdleStepAdvancesTimeBase
  refine ⟨fun s hp => ?cycle, fun s t hp hstep hsample => ?between, fun s t u hp hstep hsample hu hw hx => ?sample⟩
  case cycle =>
    obtain ⟨w, h⟩ := tick_frame s
    refine ⟨s.tick, step_of_idle hp, by rw [h]; rfl, ?_, fun c k => ?_, by rw [h]; rfl⟩
    · rw [h]
      exact List.map_congr_left fun r _ => tickRst_eq s r
    · have hslot : s.tick.slot c k = s.ticked.slot c k := by rw [h]; rfl
      rw [hslot, slot_ticked]
      exact List.map_congr_left fun o _ => tickOp_eq s o
  case between =>
    obtain rfl : s.tick = t := Host.Outcome.next.inj ((step_of_idle hp).symm.trans hstep)
    rw [tick_eq, if_neg hsample]
    rfl
  case sample =>
    obtain rfl : s.tick = t := Host.Outcome.next.inj ((step_of_idle hp).symm.trans hstep)
    rw [tick_eq, if_pos hsample]
    exact exLast_markExcluded (s := s.ticked) hw ((excluded_ticked s u).trans hx) (.inl (List.mem_range.2 hu))

end Sys2Proof.Machine
end

section
/-! Tickets of a core that complete while no copy of the journal is kept, and the test content: TCLOAD of a core, the end of its load, and the
switch of the bank (R259, R260, R360, R361). -/

namespace Sys2Proof.Machine

/-! ### A ticket of a core without MEM_ON (R259, R260) -/

/-- The completion of a core's ticket whose status is counted elsewhere, without MEM_ON: its entry joins the window, and the ticket is gone. -/
theorem complete_core_frame {s : State} {t st : Nat} {own : Bool} (hown : ∀ k, s.ticket t = some k → ∃ core, k.owner = .kettle core)
    (hmem : s.memOn = false) (hcount : st < 0x10 ∨ own = true) (res : Nat) :
    ∃ j l ts, s.complete t st res own = { s with jseq := j, journal := l, tickets := ts } ∧ lookup ts t = none := by
  have hfinal (u : State) : u.countFinal st own = u := if_pos hcount
  unfold State.complete
  cases hk : s.ticket t with
  | none => exact ⟨s.jseq, s.journal, s.tickets, rfl, hk⟩
  | some k =>
    obtain ⟨core, hcore⟩ := hown k hk
    simp only [hcore, hfinal, record_of_memOff hmem]
    exact ⟨_, _, _, rfl, by simp [lookup_erase]⟩

/-! ### TCLOAD (R360) -/

theorem exec_tcload (s : State) (i : Issue) : exec (.tcload i) s = .next (s.runCmd specTcload i) := rfl
theorem body_specTcload : specTcload.body = loadContent := rfl

/-- A load of test content begins: its first block is asked for. -/
def State.contentAsked (s : State) (l : TcLoad) : State := ({ s with tcLoad := some l } : State).request .read l.blk 0 64 .content

theorem loadContent_of_none {s : State} (h : s.tcLoad = none) (c : Cmd) :
    loadContent c s = (s.contentAsked { blk := c.a, len := c.b, ticket := c.tk }, .later stPending) := by
  simp [loadContent, h, State.contentAsked]

theorem loadContent_of_busy {s : State} (h : s.tcLoad ≠ none) (c : Cmd) : loadContent c s = reject s stBusy := by
  simp [loadContent, Option.isSome_iff_ne_none.2 h]

theorem passes_tcload {s : State} {q : CoreCmd} (hserve : s.serving q.k = true) (hopc : q.opc = 0x61) (hctx : q.ctx = 0) (hmod : q.mod = 0)
    (himm : q.imm = 0) (ha : q.a < 2 ^ 38) (hb : q.b < 2 ^ 64) (hc : q.c < 2 ^ 64) (halive : (s.ctx 0).st ≠ .terminated) :
    s.Passes q specTcload :=
  passes_of_serving hserve hopc rfl (by omega) hb hc hmod (by omega) (by rw [himm]; rfl) hctx halive
    ((wide_eq_false_iff ..).2 ⟨fun _ => ha, fun _ => hb, fun h => absurd rfl h, fun h => absurd rfl h⟩)

/-! ### TCLOAD_DONE (R360, R361) -/

/-- The image that a load reads: as much of it as a check can tell. -/
def State.imageOf (s : State) (l : TcLoad) : Bytes := s.bytes (l.blk * 4096) (min l.len (4194304 + 16))

/-- An image that passes is stored in the bank that is not active. -/
def State.contentStored (s : State) (l : TcLoad) : State :=
  { s.storeCopy (s.bankBlk (1 - s.bank)) (s.imageOf l) (ceilDiv l.len 4096) with
    banks := setAt s.banks (1 - s.bank) (contentOf (s.imageOf l)), tcReady := true }

section
variable {s : State} {l : TcLoad} (hload : s.tcLoad = some l) (hstall : s.bothStalled = false)
include hload hstall

theorem exec_tcloadDone_of_refused (h : s.checkContent (s.imageOf l) ≠ stOk) :
    exec .tcloadDone s = .next (s.endTcload l (s.checkContent (s.imageOf l))) := by
  have hexec : exec .tcloadDone s = execTcloadDone s := rfl
  rw [State.imageOf] at h ⊢
  simp [hexec, execTcloadDone, hload, hstall, h]

theorem exec_tcloadDone_of_passed (h : s.checkContent (s.imageOf l) = stOk) :
    exec .tcloadDone s = .next ((s.contentStored l).endTcload l stOk) := by
  have hexec : exec .tcloadDone s = execTcloadDone s := rfl
  rw [State.imageOf] at h
  simp [hexec, execTcloadDone, hload, hstall, h, State.contentStored, State.imageOf]

end

theorem exec_tcloadDone_of_none {s : State} (h : s.tcLoad = none) : exec .tcloadDone s = .next s := by
  have hexec : exec .tcloadDone s = execTcloadDone s := rfl
  rw [hexec, execTcloadDone, h]

/-- What the end of a load counts: a refusal of a version is shown in KTL_STATUS as well (R297). -/
def State.loadCounted (s : State) (st : Nat) : State :=
  if st = stOk then s.count Reg.hubCntTcLoaded else (s.count Reg.hubCntTcRefused).versionRefused st

theorem regsOnly_loadCounted (s : State) (st : Nat) : s.RegsOnly (s.loadCounted st) := by
  unfold State.loadCounted State.versionRefused
  split_ifs
  · exact regsOnly_count ..
  · exact (regsOnly_count ..).trans (regsOnly_setBits ..)
  · exact regsOnly_count ..

theorem reg_loadCounted_of_refused (s : State) {st : Nat} (h : st ≠ stOk) :
    (s.loadCounted st).reg Reg.hubCntTcRefused = min (2 ^ 32 - 1) (s.reg Reg.hubCntTcRefused + 1) := by
  have hne : Reg.ktlStatus ≠ Reg.hubCntTcRefused := by decide
  rw [State.loadCounted, if_neg h, State.versionRefused]
  split_ifs
  · rw [reg_setBits, if_neg hne, reg_count, if_pos rfl]
  · rw [reg_count, if_pos rfl]

/-- The end of a load of Kettle 1: its requests leave the ports, it is counted, and its ticket completes. -/
theorem endTcload_frame {s : State} {l : TcLoad} (hown : ∀ k, s.ticket l.ticket = some k → k.owner = .kettle 1) (hmem : s.memOn = false)
    (st : Nat) : ∃ p0 p1 r f d j jl ts, s.endTcload l st =
        { s with port0 := p0, port1 := p1, regs := r, cfl := f, teardowns := d, tcLoad := none, jseq := j, journal := jl, tickets := ts } ∧
      lookup ts l.ticket = none ∧
      (st ≠ stOk → (s.endTcload l st).reg Reg.hubCntTcRefused = min (2 ^ 32 - 1) (s.reg Reg.hubCntTcRefused + 1)) := by
  obtain ⟨⟨p0, p1, r, f, d, hretire⟩, hreg⟩ := retire_frame s (fun a => a == .content)
  have hrefused := hreg Reg.hubCntTcRefused (by decide)
  have hend : s.endTcload l st = (({ s.retire (fun a => a == .content) with tcLoad := none } : State).loadCounted st).complete l.ticket st 0 true := rfl
  obtain ⟨r', hcounted⟩ := regsOnly_loadCounted { s.retire (fun a => a == .content) with tcLoad := none } st
  have hcount := reg_loadCounted_of_refused { s.retire (fun a => a == .content) with tcLoad := none } (st := st)
  rw [hcounted] at hend hcount
  rw [hretire] at hend hcount hrefused
  obtain ⟨j, jl, ts, hcomplete, hgone⟩ := complete_core_frame (t := l.ticket) (st := st)
    (s := { s with port0 := p0, port1 := p1, regs := r', cfl := f, teardowns := d, tcLoad := none })
    (fun k hk => ⟨1, hown k hk⟩) hmem (.inr rfl) 0
  refine ⟨p0, p1, r', f, d, j, jl, ts, hend.trans hcomplete, hgone, fun hst => ?_⟩
  rw [hend.trans hcomplete, ← hrefused]
  exact hcount hst

/-! ### TC_BANK_SWITCH (R361) -/

theorem writeModels_frame (s : State) (k : Nat) (l : List Model) : ∃ ms b, s.writeModels k l = { s with models := ms, sel := b } := by
  induction l generalizing s k with
  | nil => exact ⟨s.models, s.sel, rfl⟩
  | cons m l ih =>
    obtain ⟨ms, b, h⟩ := ih ((s.setModel k m).setBanked (.core 1) .modelSel k) (k + 1)
    exact ⟨ms, b, h⟩

theorem exec_tcBankSwitch_of_ready {s : State} (hready : s.tcReady = true) (hwhisk : s.whisk = []) : exec .tcBankSwitch s =
    .next (({ s with bank := 1 - s.bank, tcReady := false } : State).writeModels 1 ({ s with bank := 1 - s.bank, tcReady := false } : State).content.model) := by
  have hexec : exec .tcBankSwitch s = execTcBankSwitch s := rfl
  simp [hexec, execTcBankSwitch, hready, hwhisk]

theorem exec_tcBankSwitch_of_waiting {s : State} (h : s.tcReady = false ∨ s.whisk ≠ []) : exec .tcBankSwitch s = .next s := by
  have hexec : exec .tcBankSwitch s = execTcBankSwitch s := rfl
  rcases h with h | h <;> simp [hexec, execTcBankSwitch, h]

/-- Settles O39: TCLOAD by its answer, the end of a load by its frame behind a refused or a stored image, and the switch by that of the models. -/
theorem testContent : Obligations.TestContent := by
  unfold Obligations.TestContent
  refine ⟨fun s q hopc hserve ht hctx hmod himm ha hb hc halive => ⟨fun hnone => ?asked, fun hbusy => ?busy⟩, ?refused, ?passed,
    fun s => exec_tcloadDone_of_none, fun s hready hwhisk => ?switch, fun s => exec_tcBankSwitch_of_waiting⟩
  case asked =>
    rw [exec_tcload, runCmd_of_kept (passes_tcload hserve hopc hctx hmod himm ha hb hc halive) ht
      (f := fun t => t.contentAsked { blk := q.a, len := q.b, ticket := s.nextTicket }) fun t hjo => ?_]
    · rfl
    · exact loadContent_of_none ((congrArg State.tcLoad hjo.frame :).trans hnone) (q.cmd s)
  case busy =>
    rw [exec_tcload, runCmd_of_rejected (passes_tcload hserve hopc hctx hmod himm ha hb hc halive) (loadContent_of_busy hbusy _)]
  case refused =>
    rintro s l st hload hstall rfl hst hmem hown
    obtain ⟨p0, p1, r, f, d, j, jl, ts, hend, hgone, hcount⟩ := endTcload_frame hown hmem (s.checkContent (s.imageOf l))
    refine ⟨_, exec_tcloadDone_of_refused hload hstall hst, ?_, ?_, ?_, ?_, hcount hst, ?_⟩ <;> rw [hend]
    exact hgone
  case passed =>
    rintro s l b hload hstall rfl hst hmem hown
    have hio := State.IoOnly.storeCopy s (s.bankBlk (1 - s.bank)) (s.imageOf l) (ceilDiv l.len 4096)
    have hframe : s.contentStored l = { s with
        regs := (s.contentStored l).regs, mem := (s.contentStored l).mem, sb := (s.contentStored l).sb, port0 := (s.contentStored l).port0
        port1 := (s.contentStored l).port1, cfl := (s.contentStored l).cfl, teardowns := (s.contentStored l).teardowns
        jseq := (s.contentStored l).jseq, journal := (s.contentStored l).journal, jcopied := (s.contentStored l).jcopied
        banks := setAt s.banks (1 - s.bank) (contentOf (s.imageOf l)), tcReady := true } := by
      unfold State.contentStored
      rw [hio.frame]
    obtain ⟨p0, p1, r, f, d, j, jl, ts, hend, hgone, -⟩ := endTcload_frame (s := s.contentStored l) (l := l) (st := stOk)
      (by rw [hframe]; exact hown) (by rw [hframe]; exact hmem)
    refine ⟨_, exec_tcloadDone_of_passed hload hstall hst, ?_, ?_, ?_, ?_, ?_⟩ <;> rw [hend]
    · rfl
    · rw [hframe]
    · rfl
    · exact hgone
  case switch =>
    have hexec := exec_tcBankSwitch_of_ready hready hwhisk
    obtain ⟨ms, b, h⟩ := writeModels_frame { s with bank := 1 - s.bank, tcReady := false } 1
      ({ s with bank := 1 - s.bank, tcReady := false } : State).content.model
    rw [h] at hexec
    exact ⟨_, hexec, rfl, rfl, rfl, rfl⟩

end Sys2Proof.Machine
end

section
/-! The reset slots, the outputs of the reset control port and the tiles that a reset names (R407, R449, R464, R465): what each read gives behind
an update, and what each operation leaves as it was. -/

namespace Sys2Proof.Machine

/-! ### Reset slots -/

theorem rst_setRst_same {s : State} {k : Nat} (hk : k < s.rsts.length) (v : Rst) : (s.setRst k v).rst k = v := by
  simp [State.rst, State.setRst, setAt_eq_set, hk]

theorem rst_setRst_of_ne (s : State) {k j : Nat} (h : j ≠ k) (v : Rst) : (s.setRst k v).rst j = s.rst j := by
  simp [State.rst, State.setRst, setAt_eq_set, List.getElem?_set_ne (Ne.symm h)]

/-- A slot in use is one of those that the state holds. -/
theorem lt_length_of_active {s : State} {k : Nat} (h : (s.rst k).active = true) : k < s.rsts.length := by
  by_contra hk
  simp [State.rst, List.getElem?_eq_none (Nat.le_of_not_lt hk)] at h

/-- Only reset slots change where resets are merged. -/
theorem mergeRsts_frame (s : State) (l : List Nat) : ∃ rs, (s.mergeRsts l).1 = { s with rsts := rs } := by
  induction l generalizing s with
  | nil => exact ⟨s.rsts, rfl⟩
  | cons k l ih =>
    obtain ⟨rs, h⟩ := ih (s.setRst k { last := (s.rst k).last })
    exact ⟨rs, h⟩

/-! ### Outputs of the reset control port (R449, R464) -/

theorem bitAt_eq_div (n i : Nat) : bitAt n i = n / 2 ^ i % 2 := by rw [bitAt, Nat.shiftRight_eq_div_pow]

theorem bitAt_lt_two (n i : Nat) : bitAt n i < 2 := Nat.mod_lt _ (by decide)

/-- A bit that is replaced reads back. -/
theorem bitAt_replaced (n i : Nat) (on : Bool) : bitAt (n - bitAt n i * 2 ^ i + b2n on * 2 ^ i) i = b2n on := by
  have hon : b2n on < 2 := by cases on <;> decide
  have hpos : 0 < 2 ^ i := Nat.two_pow_pos i
  have hle : 2 ^ i * (n / 2 ^ i % 2) ≤ n := (Nat.mul_le_mul_left _ (Nat.mod_le _ _)).trans (Nat.mul_div_le ..)
  rw [bitAt_eq_div, bitAt_eq_div, Nat.add_mul_div_right _ _ hpos, Nat.mul_comm (n / 2 ^ i % 2), Nat.sub_mul_div_of_le _ _ _ hle]
  omega

theorem rout_drive1 (s : State) (i bit : Nat) (on : Bool) (j : Nat) : (s.drive1 i bit on).rout j =
    if i = j then s.rout i - bitAt (s.rout i) bit * 2 ^ bit + b2n on * 2 ^ bit else s.rout j :=
  tab_get_set ..

theorem drive_frame (s : State) (bit : Nat) (on : Bool) (l : List Nat) : s.drive bit on l = { s with rstOut := (s.drive bit on l).rstOut } := by
  induction l generalizing s with
  | nil => rfl
  | cons i l ih => exact (ih (s.drive1 i bit on)).trans rfl

/-- The slots that are not named keep their outputs. -/
theorem rout_drive_of_notMem (s : State) (bit : Nat) (on : Bool) {l : List Nat} {j : Nat} (h : j ∉ l) : (s.drive bit on l).rout j = s.rout j := by
  induction l generalizing s with
  | nil => rfl
  | cons i l ih =>
    obtain ⟨hne, hrest⟩ := not_or.1 (mt List.mem_cons.2 h)
    exact (ih (s.drive1 i bit on) hrest).trans ((rout_drive1 ..).trans (if_neg (Ne.symm hne)))

/-- The output of a slot that is named is driven. -/
theorem bitAt_rout_drive (s : State) (bit : Nat) (on : Bool) {l : List Nat} {j : Nat} (h : j ∈ l) : bitAt ((s.drive bit on l).rout j) bit = b2n on := by
  induction l generalizing s with
  | nil => cases h
  | cons i l ih =>
    by_cases hj : j ∈ l
    · exact ih (s.drive1 i bit on) hj
    · obtain rfl : j = i := (List.mem_cons.1 h).resolve_right hj
      have hlast : (s.drive bit on (j :: l)).rout j = (s.drive1 j bit on).rout j := rout_drive_of_notMem _ _ _ hj
      rw [hlast, rout_drive1, if_pos rfl, bitAt_replaced]

/-! ### Tiles leave reset (R407, R489) -/

theorem tilesLeave_frame (s : State) (l : List Nat) : s.tilesLeave l = { s with ladles := (s.tilesLeave l).ladles } := by
  induction l generalizing s with
  | nil => rfl
  | cons t l ih => exact (ih (s.tileLeave t)).trans rfl

theorem ladle_tileLeave (s : State) (t p : Nat) : (s.tileLeave t).ladle p =
    if t = p then { s.ladle t with inReset := false, checked := none } else s.ladle p := ladle_setLadle ..

/-- Each tile of the list is out of reset and its self-check has not ended; no other tile changes. -/
theorem ladle_tilesLeave (s : State) (l : List Nat) (p : Nat) : (s.tilesLeave l).ladle p =
    if p ∈ l then { s.ladle p with inReset := false, checked := none } else s.ladle p := by
  induction l generalizing s with
  | nil => rfl
  | cons t l ih =>
    rw [State.tilesLeave, ih, ladle_tileLeave]
    by_cases hp : t = p
    · subst hp
      by_cases hl : t ∈ l <;> simp [hl]
    · simp [hp, Ne.symm hp]

end Sys2Proof.Machine
end

section
/-! The resets of the block, the reset check and the fuse reader (R394, R444, R448, R474); the safe state with its exit, the enable bits of the
Colander's pairs, and the W1C clears (R240, R381, R392 to R397, R412). -/

namespace Sys2Proof.Machine

/-! ### The compute part is quiesced by the safe state (R395, R412) -/

/-- A quiesce of the safe state detects no error in any step. -/
theorem quiesce_of_safe (s : State) (k : Nat) {v : Rst} (hv : v.safe = true) : s.quiesce k v =
    (s.setRst k { v with active := true, phase := .quiesce, since := s.time, last := (s.rst k).last, steps := [] }).drive 0 true v.raised := by
  simp [State.quiesce, hv, State.detectAll]

/-- What the safe state does with the resets: one of the compute part turns to a quiesce that ends in HELD, or such a quiesce starts. -/
def State.computeQuiesced (s : State) : State :=
  match (List.range 4).find? (fun k => (s.rst k).active && (s.rst k).level == 3) with
  | some k =>
    let r := s.rst k
    if r.phase == .held then s
    else if r.phase == .quiesce || r.phase == .drain then s.setRst k { r with safe := true }
    else s.quiesce k { s.newRst 3 0 r.tickets with safe := true }
  | none =>
    let v := s.newRst 3 0 []
    let m := s.mergeRsts (s.inside v)
    match m.1.idleRst with
    | none => s
    | some k => m.1.quiesce k { v with tickets := m.2, safe := true }

/-- Where no safe state was held, entering it terminates the LIVE contexts and quiesces the compute part; a cause of the collector itself is
not counted. -/
theorem enterSafe_of_none {s : State} (h : s.safe = none) {cause : Nat} (hcause : cause ≠ 1) : s.enterSafe cause =
    (({ s with safe := some cause, safeReset := false } : State).terminateAll s.liveCtxs).computeQuiesced := by
  unfold State.enterSafe
  simp only [h, if_neg hcause]
  rfl

/-- Reset slots and outputs change, and nothing else. -/
theorem computeQuiesced_frame (s : State) : ∃ rs ro, s.computeQuiesced = { s with rsts := rs, rstOut := ro } := by
  have hquiesce (w : State) (k : Nat) (v : Rst) (hv : v.safe = true) : ∃ rs ro, w.quiesce k v = { w with rsts := rs, rstOut := ro } := by
    rw [quiesce_of_safe _ _ hv, drive_frame]
    exact ⟨_, _, rfl⟩
  unfold State.computeQuiesced
  split
  · dsimp only
    split_ifs
    · exact ⟨s.rsts, s.rstOut, rfl⟩
    · exact ⟨_, s.rstOut, rfl⟩
    · exact hquiesce s _ _ rfl
  · obtain ⟨rs, hrs⟩ := mergeRsts_frame s (s.inside (s.newRst 3 0 []))
    dsimp only
    rw [hrs]
    split
    · exact ⟨s.rsts, s.rstOut, rfl⟩
    · exact hquiesce { s with rsts := rs } _ _ rfl


/-- The block without a reset in its slots: the quiesce of the compute part takes slot 0. -/
theorem computeQuiesced_of_idle {s : State} (h : s.rsts = [{}, {}, {}, {}]) : s.computeQuiesced = s.quiesce 0 { s.newRst 3 0 [] with safe := true } := by
  have hidle (k : Nat) : (s.rst k).active = false := by
    rw [State.rst, h]
    rcases k with _ | _ | _ | _ | k <;> rfl
  have hnone : (List.range 4).find? (fun k => (s.rst k).active && (s.rst k).level == 3) = none := List.find?_eq_none.2 fun k _ => by simp [hidle]
  have hinside : s.inside (s.newRst 3 0 []) = [] := List.filter_eq_nil_iff.2 fun k _ => by simp [hidle]
  have hfirst : s.idleRst = some 0 := by
    unfold State.idleRst
    simp only [hidle]
    rfl
  simp only [State.computeQuiesced, hnone, hinside, State.mergeRsts, hfirst]
  rfl

/-! ### The LIVE contexts end (R240, R395) -/

/-- What an abandoned step takes with it is in these fields. -/
theorem stepDropped_frame (s : State) (c step : Nat) : ∃ q sp l a k r rt p pr, s.stepDropped c step =
    { s with queue := q, spill := sp, lanes := l, arbs := a, sck := k, regs := r, routes := rt, pairings := p, progs := pr, stepEnded := true
             pastBounds := [] } := by
  simp only [State.stepDropped, State.noteStep, State.endsStep, State.dropPending, State.dropSamples, State.count, State.countN, State.setReg]
  exact ⟨_, _, _, _, _, _, _, _, _, rfl⟩

/-- What the end of contexts leaves of the safe state's own fields. -/
structure State.SafeKept (s t : State) : Prop where
  rsts : t.rsts = s.rsts
  safe : t.safe = s.safe
  self : t.reg Reg.colSelf = s.reg Reg.colSelf

namespace State.SafeKept

theorem refl (s : State) : s.SafeKept s := ⟨rfl, rfl, rfl⟩

theorem trans {s t u : State} (h1 : s.SafeKept t) (h2 : t.SafeKept u) : s.SafeKept u :=
  ⟨h2.rsts.trans h1.rsts, h2.safe.trans h1.safe, h2.self.trans h1.self⟩

theorem abandonOne (s : State) (c k cause opseq : Nat) : s.SafeKept (s.abandonOne c k cause opseq) := by
  cases hlive : (s.slot c k).live with
  | false =>
    rw [abandonOne_of_not_live hlive]
    exact .refl s
  | true =>
    obtain ⟨⟨_, _, _, _, hnull⟩, -⟩ := nullBuckets_frame (s.slotAbandoned c k cause opseq) c k (s.slot c k).knownOpen
    obtain ⟨_, _, hgate⟩ := gate_frame (s.setSlot c k ((s.slot c k).abandonedAt cause s.time)) c gkAbandon cause 0 (s.slot c k).step opseq 0
    obtain ⟨_, _, _, _, _, _, _, _, _, hdrop⟩ := stepDropped_frame (s.slotNulled c k cause opseq) c (s.slot c k).step
    refine ⟨?_, ?_, (abandonOne_leaves hlive cause opseq).2 Reg.colSelf (by decide) (by decide)⟩ <;>
      rw [abandonOne_of_live hlive, State.latched, hdrop, State.slotNulled, hnull, State.slotAbandoned, hgate] <;> rfl

theorem abandonAll (s : State) (c cause : Nat) (ks : List Nat) : s.SafeKept (s.abandonAll c cause ks) := by
  induction ks generalizing s with
  | nil => exact .refl s
  | cons k ks ih => exact (abandonOne s c k cause 0).trans (ih _)

theorem terminate (s : State) (c : Nat) : s.SafeKept (s.terminate c) := by
  by_cases hlive : (s.ctx c).st = .live
  · rw [terminate_of_live hlive]
    have hall := abandonAll (s.setCtx c { s.ctx c with st := .terminated }) c 8 (s.ctx c).liveSlots
    exact ⟨hall.rsts, hall.safe, (reg_setBits ..).trans ((if_neg (by decide)).trans hall.self)⟩
  · rw [terminate_of_not_live hlive]
    exact .refl s

theorem terminateAll (s : State) (l : List Nat) : s.SafeKept (s.terminateAll l) := by
  induction l generalizing s with
  | nil => exact .refl s
  | cons c l ih => exact (terminate s c).trans (ih _)

end State.SafeKept

/-- The end of a context makes none LIVE. -/
theorem terminate_st_ne_live {s : State} {c d : Nat} (h : d = c ∨ (s.ctx d).st ≠ .live) : ((s.terminate c).ctx d).st ≠ .live := by
  by_cases hlive : (s.ctx c).st = .live
  · obtain ⟨hself, -, hother⟩ := terminate_leaves hlive
    by_cases hd : d = c
    · rw [hd, hself]
      decide
    · rw [hother d hd]
      exact h.resolve_left hd
  · rw [terminate_of_not_live hlive]
    rcases h with rfl | h
    · exact hlive
    · exact h

theorem terminateAll_st_ne_live {s : State} {l : List Nat} {d : Nat} (h : d ∈ l ∨ (s.ctx d).st ≠ .live) :
    ((s.terminateAll l).ctx d).st ≠ .live := by
  induction l generalizing s with
  | nil => exact h.resolve_left List.not_mem_nil
  | cons c l ih =>
    refine ih ?_
    by_cases hl : d ∈ l
    · exact .inl hl
    · exact .inr (terminate_st_ne_live (h.imp_left fun hd => (List.mem_cons.1 hd).resolve_right hl))

/-- A key that does not read as the default has its entry in the table. -/
theorem mem_of_tab_get_ne {α : Type} {d : α} {t : List (Nat × α)} {k : Nat} (h : Tab.get d t k ≠ d) : (k, Tab.get d t k) ∈ t := by
  induction t with
  | nil => exact absurd rfl h
  | cons x t ih =>
    obtain ⟨j, v⟩ := x
    simp only [Tab.get] at h ⊢
    by_cases hj : j = k
    · simp [hj]
    · rw [if_neg hj] at h ⊢
      exact List.mem_cons_of_mem _ (ih h)

theorem mem_liveCtxs {s : State} {c : Nat} (h : (s.ctx c).st = .live) : c ∈ s.liveCtxs := by
  have hne : s.ctx c ≠ {} := fun he => by simp [he] at h
  exact List.mem_map.2 ⟨_, List.mem_filter.2 ⟨mem_of_tab_get_ne hne, beq_iff_eq.2 h⟩, rfl⟩

/-! ### POWER_ON_RESET, BLOCK_RESET, the reset check and the fuse reader (R394, R444, R448, R474) -/

theorem exec_powerOnReset (s : State) : exec .powerOnReset s = .next s.blankBlock := rfl
theorem exec_blockReset (s : State) : exec .blockReset s = .next s.blockReset := rfl

theorem reg_blankBlock (s : State) (a : Nat) : s.blankBlock.reg a = regReset a := rfl

theorem reg_blockReset (s : State) (a : Nat) : s.blockReset.reg a =
    if a = Reg.trvTripCap ∨ a = Reg.trvTripTimeLo ∨ a = Reg.trvTripTimeHi then s.reg a % 2 ^ 32 else regReset a := by
  rw [State.blockReset, reg_setReg, reg_setReg, reg_setReg, reg_blankBlock]
  by_cases hcap : a = Reg.trvTripCap
  · subst hcap
    rfl
  · by_cases hlo : a = Reg.trvTripTimeLo
    · subst hlo
      rfl
    · by_cases hhi : a = Reg.trvTripTimeHi
      · subst hhi
        rfl
      · rw [if_neg (Ne.symm hhi), if_neg (Ne.symm hlo), if_neg (Ne.symm hcap), if_neg (by simp [hcap, hlo, hhi])]

/-- The reset check with its outcome recorded. -/
def State.resetChecked (s : State) (ok : Bool) : State := { s with bring := { s.bring with resetCheck := some ok } }

section
variable {s : State} (h : s.bring.resetCheck = none)
include h

theorem exec_resetCheckDone_of_pass : exec (.resetCheckDone none true) s = .next (s.resetChecked true) := by
  have hexec : exec (.resetCheckDone none true) s = execResetCheckDone none true s := rfl
  simp [hexec, execResetCheckDone, h, State.resetChecked]

theorem exec_resetCheckDone_of_bad (u w : Nat) (pin : Bool) : exec (.resetCheckDone (some (u, w)) pin) s =
    .next (((s.resetChecked false).selfFault u w).enterSafe 3) := by
  have hexec : exec (.resetCheckDone (some (u, w)) pin) s = execResetCheckDone (some (u, w)) pin s := rfl
  simp [hexec, execResetCheckDone, h, State.resetChecked]

end

/-- R394: the unit and the word that disagree, as COL_SELF shows them. -/
theorem reg_selfFault (s : State) (u w : Nat) : (s.selfFault u w).reg Reg.colSelf = 2 ^ 31 + u % 2 ^ 8 * 2 ^ 16 + w % 2 ^ 12 := by
  rw [State.selfFault, reg_setReg, if_pos rfl, Nat.mod_eq_of_lt (by omega)]

theorem exec_fuseWordAck_of_reading {s : State} {d : Nat} (h : s.fuse.done = false) (hd : d < 2 ^ 64) : exec (.fuseWordAck d) s = .next { s with fuse :=
    { words := s.fuse.words ++ [d], since := s.time, done := decide (14 ≤ s.fuse.words.length), failed := false } } := by
  have hexec : exec (.fuseWordAck d) s = execFuseWordAck d s := rfl
  rw [hexec, execFuseWordAck, h, Nat.mod_eq_of_lt hd]
  simp

theorem exec_fuseReadTimeout_eq {s : State} (h : s.fuse.done = false) : exec .fuseReadTimeout s =
    .next (if s.time < s.fuse.since + 1000000 then s else { s with fuse := { s.fuse with done := true, failed := true } }) := by
  have hexec : exec .fuseReadTimeout s = execFuseReadTimeout s := rfl
  have hlimit : msT 10 = 1000000 := rfl
  simp [hexec, execFuseReadTimeout, h, hlimit]

/-- Settles O7: the resets by definition, the failed check through the safe state's frame, and the fuse reader by its two rows. -/
theorem resetsAndFuses : Obligations.ResetsAndFuses := by
  unfold Obligations.ResetsAndFuses
  refine ⟨⟨fun s => ⟨_, exec_powerOnReset s, reg_blankBlock s, rfl, rfl, rfl, rfl⟩,
    fun s => ⟨_, _, exec_blockReset s, exec_powerOnReset s, reg_blockReset s, rfl⟩,
    fun s hcheck => ⟨exec_resetCheckDone_of_pass hcheck, fun u w pin hsafe hlive => ?failed⟩⟩,
    fun s d => exec_fuseWordAck_of_reading, fun s hdone hlate => ?late, fun s hdone hearly => ?early⟩
  case failed =>
    have hquiet : ((s.resetChecked false).selfFault u w).liveCtxs = [] := hlive
    obtain ⟨rs, ro, hframe⟩ := computeQuiesced_frame { (s.resetChecked false).selfFault u w with safe := some 3, safeReset := false }
    have henter := enterSafe_of_none (s := (s.resetChecked false).selfFault u w) hsafe (cause := 3) (by decide)
    rw [hquiet, State.terminateAll, hframe] at henter
    exact ⟨_, exec_resetCheckDone_of_bad hcheck u w pin, by rw [henter]; rfl, by rw [henter], by rw [henter]; exact reg_selfFault ..⟩
  case late => rw [exec_fuseReadTimeout_eq hdone, if_neg (Nat.not_lt.2 hlate)]
  case early => rw [exec_fuseReadTimeout_eq hdone, if_pos hearly]

/-! ### COL_SAFE.EXIT and the enable bits (R381, R397, R399) -/

theorem exec_colSafeExit (src : Src) (s : State) : exec (.colSafeExit src) s = .next (s.exitSafe.emit (.regRsp src Reg.colSafe 0 0)) := by
  have hexec : exec (.colSafeExit src) s = .next (s.writeAccess src Reg.colSafe State.exitSafe) := rfl
  rw [hexec, writeAccess_eq_emit src (show s.respCode Reg.colSafe = 0 from rfl)]

/-- A pair whose enable bit goes from one value to another at a time (R381). -/
def StnPair.enabled (p : StnPair) (old new : Bool) (now : Nat) : StnPair :=
  if old == new then p
  else if new then { p with armed := true, armedAt := now, decoded := p.filt == some .ok, lvl := .ok }
  else { p with decoded := false, lvl := .ok }

theorem enablePair_frame (s : State) (stn i : Nat) (old new : Bool) : s.enablePair stn i old new = { s with pairs := (s.enablePair stn i old new).pairs } := by
  unfold State.enablePair
  dsimp only
  split_ifs <;> rfl

theorem pair_enablePair (s : State) (stn i : Nat) (old new : Bool) (j : Nat) : (s.enablePair stn i old new).pair stn j =
    if i = j then (s.pair stn i).enabled old new s.time else s.pair stn j := by
  have hkey : stn * 64 + i = stn * 64 + j ↔ i = j := by omega
  unfold State.enablePair StnPair.enabled
  dsimp only
  by_cases hsame : (old == new) = true
  · rw [if_pos hsame, if_pos hsame]
    split_ifs with hij
    · rw [hij]
    · rfl
  · rw [if_neg hsame, if_neg hsame]
    split_ifs with hnew hij hij
    · rw [pair_setPair, if_pos (hkey.2 hij)]
    · rw [pair_setPair, if_neg (mt hkey.1 hij)]
    · rw [pair_setPair, if_pos (hkey.2 hij)]
    · rw [pair_setPair, if_neg (mt hkey.1 hij)]

theorem enablePairs_frame (s : State) (stn base old new : Nat) (l : List Nat) :
    s.enablePairs stn base old new l = { s with pairs := (s.enablePairs stn base old new l).pairs } := by
  induction l generalizing s with
  | nil => rfl
  | cons i l ih =>
    rw [State.enablePairs, enablePair_frame]
    exact ih _

/-- Each pair of the list is enabled as its bit says. -/
theorem pair_enablePairs (s : State) (stn base old new : Nat) {l : List Nat} (hl : l.Nodup) {i : Nat} (hi : i ∈ l) :
    (s.enablePairs stn base old new l).pair stn (base + i) = (s.pair stn (base + i)).enabled (bitAt old i == 1) (bitAt new i == 1) s.time := by
  have hskip (u : State) {l : List Nat} (h : i ∉ l) : (u.enablePairs stn base old new l).pair stn (base + i) = u.pair stn (base + i) := by
    induction l generalizing u with
    | nil => rfl
    | cons j l ih =>
      obtain ⟨hne, hrest⟩ := not_or.1 (mt List.mem_cons.2 h)
      exact (ih _ hrest).trans ((pair_enablePair ..).trans (if_neg (by omega)))
  induction l generalizing s with
  | nil => cases hi
  | cons j l ih =>
    obtain ⟨hj, hl⟩ := List.nodup_cons.1 hl
    by_cases hij : i = j
    · subst hij
      exact (hskip _ hj).trans ((pair_enablePair ..).trans (if_pos rfl))
    · rw [State.enablePairs, ih _ hl ((List.mem_cons.1 hi).resolve_left hij), pair_enablePair, if_neg (by omega), enablePair_frame]

/-- The low enable word of a station of the instance answers OK. -/
theorem respCode_colStnEnLo {s : State} {stn : Nat} (h16 : stn < 16) (hstn : stn < s.cfg.stations) : s.respCode (atStn stn Reg.colStnEnLo) = 0 := by
  have haddr : atStn stn Reg.colStnEnLo = 0x11018 + stn * 0x100 := rfl
  have hindex : (0x11018 + stn * 0x100 - 0x11000) / 0x100 = stn := by omega
  have hhas : s.hasStation stn = true := by simp [State.hasStation, hstn]
  rw [haddr, State.respCode, if_neg (by omega), if_neg (by omega), if_pos (by omega), hindex, hhas]
  rfl

/-- What a write of the low enable word leaves. -/
def State.enabledLo (s : State) (stn v : Nat) : State :=
  (s.enablePairs stn 0 (s.reg (atStn stn Reg.colStnEnLo)) v (List.range 32)).setReg (atStn stn Reg.colStnEnLo) v

theorem exec_colStnEnWrite_lo {s : State} {stn : Nat} (src : Src) (v : Nat) (h16 : stn < 16) (hstn : stn < s.cfg.stations) :
    exec (.colStnEnWrite src stn false v) s = .next ((s.enabledLo stn v).emit (.regRsp src (atStn stn Reg.colStnEnLo) 0 0)) := by
  have hexec : exec (.colStnEnWrite src stn false v) s =
    .next (s.writeAccess src (atStn stn Reg.colStnEnLo) (fun q => q.writeEn stn false v)) := rfl
  have hwrite : s.writeEn stn false v = s.enabledLo stn v := if_neg (Nat.not_le.2 h16)
  rw [hexec, writeAccess_eq_emit src (respCode_colStnEnLo h16 hstn), hwrite]

theorem pair_enabledLo (s : State) (stn v : Nat) {i : Nat} (hi : i < 32) : (s.enabledLo stn v).pair stn i =
    (s.pair stn i).enabled (bitAt (s.reg (atStn stn Reg.colStnEnLo)) i == 1) (bitAt v i == 1) s.time := by
  have h := pair_enablePairs s stn 0 (s.reg (atStn stn Reg.colStnEnLo)) v List.nodup_range (List.mem_range.2 hi)
  rwa [Nat.zero_add] at h

/-! ### W1C bits (R392, R393) -/

/-- Outside the stations 0 to 15 a cleared bit stays clear. -/
theorem clearW1c_eq {s : State} {a v : Nat} {r : RegRow} (hrow : regRow a = some r) (hwaits : a = Reg.colStatus → s.capWaits = [])
    (houtside : ¬ (0x11000 ≤ a ∧ a < 0x12000)) : s.clearW1c a v = s.clrBits a (v &&& r.w1c) := by
  have hdrop (m : Nat) : s.dropWaits a m = s := by
    unfold State.dropWaits
    split_ifs with ha
    · rw [hwaits ha, List.filter_nil, ← hwaits ha]
    · rfl
  unfold State.clearW1c
  simp only [hrow, if_neg houtside, hdrop]

theorem exec_w1cClear (src : Src) (a v : Nat) (s : State) : exec (.w1cClear src a v) s =
    .next (s.writeAccess src a (fun q => q.clearW1c a (v % 2 ^ 32))) := rfl

theorem exec_w1cClear_of_ok {s : State} {a : Nat} {r : RegRow} (src : Src) (v : Nat) (hok : s.respCode a = 0) (hrow : regRow a = some r)
    (hwaits : a = Reg.colStatus → s.capWaits = []) (houtside : ¬ (0x11000 ≤ a ∧ a < 0x12000)) :
    exec (.w1cClear src a v) s = .next ((s.clrBits a (v % 2 ^ 32 &&& r.w1c)).emit (.regRsp src a 0 0)) := by
  rw [exec_w1cClear, writeAccess_eq_emit src hok, clearW1c_eq hrow hwaits houtside]

/-- Settles O47: the collector's fault through the end of the contexts and the quiesce of slot 0, and each write by its own lemma above. -/
theorem safeStateAndClears : Obligations.SafeStateAndClears := by
  unfold Obligations.SafeStateAndClears
  refine ⟨fun s u w hsafe hrsts => ?fault, fun s src hsafe hfa hreset => ?exit, fun s src hheld => ?held, fun s src stn v h16 hstn hv => ?enable,
    fun s src a v r hok hrow hwaits houtside => exec_w1cClear_of_ok src v hok hrow hwaits houtside, fun s src => ?watch,
    fun s src a v hbad => by rw [exec_w1cClear, writeAccess_of_refused src hbad]⟩
  case fault =>
    have henter := enterSafe_of_none (s := s.selfFault u w) hsafe (cause := 2) (by decide)
    have hkept := State.SafeKept.terminateAll { s.selfFault u w with safe := some 2, safeReset := false } (s.selfFault u w).liveCtxs
    have hdead (c : Nat) : ((({ s.selfFault u w with safe := some 2, safeReset := false } : State).terminateAll (s.selfFault u w).liveCtxs).ctx c).st ≠ .live := by
      refine terminateAll_st_ne_live ?_
      by_cases hlive : ((s.selfFault u w).ctx c).st = .live
      · exact .inl (mem_liveCtxs hlive)
      · exact .inr hlive
    generalize ({ s.selfFault u w with safe := some 2, safeReset := false } : State).terminateAll (s.selfFault u w).liveCtxs = x at *
    have hidle : x.rsts = [{}, {}, {}, {}] := hkept.rsts.trans hrsts
    rw [computeQuiesced_of_idle hidle, quiesce_of_safe _ _ rfl, drive_frame] at henter
    refine ⟨(s.selfFault u w).enterSafe 2, rfl, ?_⟩
    rw [henter]
    generalize (State.drive _ _ _ _).rstOut = ro
    have hrst (v : Rst) : ({ x.setRst 0 v with rstOut := ro } : State).rst 0 = v := rst_setRst_same (by rw [hidle]; decide) v
    refine ⟨hkept.safe, hdead, ?_, ?_, ?_, ?_, hkept.self.trans (reg_selfFault s u w)⟩ <;> rw [hrst]
    rfl
  case exit => rw [exec_colSafeExit, State.exitSafe, if_pos ⟨hsafe, hfa, hreset⟩]
  case held =>
    rw [exec_colSafeExit, State.exitSafe, if_neg]
    rintro ⟨hsafe, hfa, hreset⟩
    simp [hsafe, hfa, hreset] at hheld
  case enable =>
    refine ⟨_, exec_colStnEnWrite_lo src v h16 hstn, ?_, fun i hi hsame => ?_, fun i hi hnew hold => ?_, ?_⟩
    · exact (reg_setReg ..).trans ((if_pos rfl).trans (Nat.mod_eq_of_lt hv))
    · have hbits : ((bitAt (s.reg (atStn stn Reg.colStnEnLo)) i == 1) == (bitAt v i == 1)) = true := by simp [hsame]
      exact (pair_enabledLo s stn v hi).trans (if_pos hbits)
    · have hpair : ((s.enabledLo stn v).emit (.regRsp src (atStn stn Reg.colStnEnLo) 0 0)).pair stn i = _ := pair_enabledLo s stn v hi
      rw [hnew, hold] at hpair
      rw [hpair]
      exact ⟨rfl, rfl, rfl, beq_iff_eq⟩
    · rw [State.enabledLo, enablePairs_frame]
      rfl
  case watch => exact exec_w1cClear_of_ok (a := Reg.hubWatchStatus) (r := ⟨Reg.hubWatchStatus, 1, 0, 0, 3, 0⟩) src 3 rfl rfl (fun h => absurd h (by decide)) (by decide)

end Sys2Proof.Machine
end

section
/-! RESET of a core, and the phases of a reset (R406 to R409, R411, R421, R465). -/

namespace Sys2Proof.Machine

/-! ### RESET (R411) -/

theorem exec_reset (s : State) (i : Issue) : exec (.reset i) s = .next (s.runCmd specReset i) := rfl
theorem body_specReset : specReset.body = resetBody := rfl

section
variable {s : State} {q : CoreCmd}

theorem passes_reset (hserve : s.serving q.k = true) (hopc : q.opc = 0x70) (hctx : q.ctx = 0) (hmod : q.mod < 4) (himm : q.imm = 0) (ha : q.a < 256)
    (hb : q.b < 2 ^ 64) (hc : q.c < 2 ^ 64) (halive : (s.ctx 0).st ≠ .terminated) : s.Passes q specReset := by
  have hrow1 : specReset.row1 q.mod q.imm = false := by
    rw [himm]
    obtain h | h | h | h : q.mod = 0 ∨ q.mod = 1 ∨ q.mod = 2 ∨ q.mod = 3 := by omega
    all_goals rw [h]; rfl
  exact passes_of_rows hserve hopc rfl (by omega) hb hc (by omega) (by omega) hrow1 (.inr (by rw [show specReset.named (q.cmd s) = q.ctx from rfl, hctx]; exact halive))
    ((wide_eq_false_iff ..).2 ⟨fun _ => ha, fun h => absurd rfl h, fun h => absurd rfl h, fun h => absurd rfl h⟩)

end

/-- An identifier outside the instance. -/
theorem resetCmd_of_outside {s : State} {level id : Nat} (h : level = 0 ∧ s.cfg.ladles ≤ id ∨ level = 3 ∧ id ≠ 0) (tk : Nat) :
    s.resetCmd level id tk = (s, stBadOperand) := by
  refine if_pos ?_
  rcases h with h | h
  · exact .inl h
  · exact .inr (.inr (.inr h))

section
variable {s : State} {t : Nat} (ht : t < s.cfg.ladles)
include ht

theorem resetCmd_tile (tk : Nat) : s.resetCmd 0 t tk =
    if (List.range 4).any (fun k => (s.rst k).active && (s.newRst 0 t [tk]).within (s.rst k) && ((s.rst k).phase != .held || decide (0 < (s.rst k).level))) then
      (s, stIllegalState)
    else
      let m := s.mergeRsts (s.inside (s.newRst 0 t [tk]))
      match m.1.idleRst with
      | none => (s, stFull)
      | some k => (m.1.quiesce k { s.newRst 0 t [tk] with tickets := [tk] ++ m.2 }, stPending) := by
  refine if_neg ?_
  rintro (⟨-, h⟩ | ⟨h, -⟩ | ⟨h, -⟩ | ⟨h, -⟩)
  · omega
  all_goals exact absurd h (by decide)

/-- R411: the tile lies within a reset in progress that is not its own HELD one. -/
theorem resetCmd_of_within {j : Nat} (hj : j < 4) (hactive : (s.rst j).active = true)
    (hin : ((s.rst j).level = 0 ∧ (s.rst j).id = t ∧ (s.rst j).phase ≠ .held) ∨ (0 < (s.rst j).level ∧ t ∈ (s.rst j).raised)) (tk : Nat) :
    s.resetCmd 0 t tk = (s, stIllegalState) := by
  rw [resetCmd_tile ht]
  refine if_pos (List.any_eq_true.2 ⟨j, List.mem_range.2 hj, ?_⟩)
  rcases hin with ⟨hlevel, hid, hphase⟩ | ⟨hlevel, hraised⟩
  · simp [hactive, Rst.within, State.newRst, hlevel, hid, hphase]
  · simp [hactive, Rst.within, State.newRst, State.domSlots, hlevel, hraised]

/-- A tile that lies within no reset in progress, and of which none lies within it, takes an idle slot. -/
theorem resetCmd_of_free (hfree : ∀ j, j < 4 → (s.rst j).active = true → ((s.rst j).level = 0 → (s.rst j).id ≠ t) ∧ (0 < (s.rst j).level → t ∉ (s.rst j).raised))
    {k : Nat} (hidle : s.idleRst = some k) (tk : Nat) : s.resetCmd 0 t tk = (s.quiesce k (s.newRst 0 t [tk]), stPending) := by
  have houtside : (List.range 4).any (fun k => (s.rst k).active && (s.newRst 0 t [tk]).within (s.rst k) &&
      ((s.rst k).phase != .held || decide (0 < (s.rst k).level))) = false := by
    refine List.any_eq_false.2 fun j hj => ?_
    cases hactive : (s.rst j).active with
    | false => simp
    | true =>
      obtain ⟨hself, hraised⟩ := hfree j (List.mem_range.1 hj) hactive
      rcases Nat.eq_zero_or_pos (s.rst j).level with hlevel | hlevel
      · have hid := hself hlevel
        simp [Rst.within, State.newRst, hlevel, Ne.symm hid]
      · have hout := hraised hlevel
        simp [Rst.within, State.newRst, State.domSlots, hlevel, Nat.ne_of_lt hlevel, hout]
  have hinside : s.inside (s.newRst 0 t [tk]) = [] := by
    refine List.filter_eq_nil_iff.2 fun j hj => ?_
    cases hactive : (s.rst j).active with
    | false => simp
    | true =>
      obtain ⟨hself, -⟩ := hfree j (List.mem_range.1 hj) hactive
      simpa [Rst.within, State.newRst] using hself
  rw [resetCmd_tile ht, houtside, hinside]
  simp only [State.mergeRsts, hidle, Bool.false_eq_true, if_false, List.append_nil]
  rfl

end

/-- Where no step has an op on the tiles, a quiesce detects no error. -/
theorem quiesce_of_noSteps {s : State} {v : Rst} (h : s.stepsOn v.tiles = []) (k : Nat) : s.quiesce k v =
    (s.setRst k { v with active := true, phase := .quiesce, since := s.time, last := (s.rst k).last, steps := [] }).drive 0 true v.raised := by
  simp [State.quiesce, h, State.detectAll]

theorem lt_four_of_idleRst {s : State} {k : Nat} (h : s.idleRst = some k) : k < 4 :=
  List.mem_range.1 (List.mem_of_find?_eq_some h)

/-- A reset that begins in a slot: its phase, its outputs, and what it leaves. -/
theorem quiesce_leaves {s : State} {v : Rst} {k : Nat} (hsteps : s.stepsOn v.tiles = []) (hk : k < s.rsts.length) :
    (s.quiesce k v).rst k = { v with active := true, phase := .quiesce, since := s.time, last := (s.rst k).last, steps := [] } ∧
      (∀ j, j ≠ k → (s.quiesce k v).rst j = s.rst j) ∧ (∀ i ∈ v.raised, bitAt ((s.quiesce k v).rout i) 0 = 1) ∧
      s.quiesce k v = { s with rsts := (s.quiesce k v).rsts, rstOut := (s.quiesce k v).rstOut } := by
  have hrst (u : State) (ro : List (Nat × Nat)) (j : Nat) : ({ u with rstOut := ro } : State).rst j = u.rst j := rfl
  rw [quiesce_of_noSteps hsteps]
  refine ⟨?_, fun j hj => ?_, fun i hi => bitAt_rout_drive _ 0 true hi, ?_⟩
  · rw [drive_frame, hrst, rst_setRst_same hk]
  · rw [drive_frame, hrst, rst_setRst_of_ne s hj]
  · rw [drive_frame]
    rfl

namespace State.JournalOnly
variable {s t : State} (h : s.JournalOnly t)
include h

theorem rsts : t.rsts = s.rsts := (congrArg State.rsts h.frame :)
theorem rst (k : Nat) : t.rst k = s.rst k := by rw [State.rst, h.rsts, State.rst]
theorem idleRst : t.idleRst = s.idleRst := (congrArg State.idleRst h.frame :)
theorem stepsOn (l : List Nat) : t.stepsOn l = s.stepsOn l := (congrArg (State.stepsOn · l) h.frame :)

end State.JournalOnly

theorem resetBody_of_rejected {s : State} {c : Cmd} {st : Nat} (h : s.resetCmd c.mod c.a c.tk = (s, st)) (hst : st ≠ stPending) :
    resetBody c s = reject s st := by
  simp [resetBody, h, hst]

theorem resetBody_of_pending {s u : State} {c : Cmd} (h : s.resetCmd c.mod c.a c.tk = (u, stPending)) : resetBody c s = (u, .later stPending) := by
  simp [resetBody, h]

/-- Settles O42: each answer by what RESET decides of the identifier. -/
theorem resetCommand : Obligations.ResetCommand := by
  unfold Obligations.ResetCommand
  refine ⟨fun s q k hopc hserve ht hctx hmod himm ha hb hc halive => ⟨fun hout => ?outside, ?within, ?free⟩,
    fun s q hopc hserve hctx hmod himm hpos ha hb hc halive => ?part⟩
  case outside =>
    have hreset : s.resetCmd (q.cmd s).mod (q.cmd s).a (q.cmd s).tk = (s, stBadOperand) := resetCmd_of_outside (.inl ⟨hmod, hout⟩) _
    rw [exec_reset, runCmd_of_rejected (passes_reset hserve hopc hctx (by omega) himm ha hb hc halive) (resetBody_of_rejected hreset (by decide))]
  case within =>
    rintro hin ⟨j, hj, hactive, hwithin⟩
    have hreset : s.resetCmd (q.cmd s).mod (q.cmd s).a (q.cmd s).tk = (s, stIllegalState) := by
      rw [show (q.cmd s).mod = 0 from hmod]
      exact resetCmd_of_within hin hj hactive hwithin _
    rw [exec_reset, runCmd_of_rejected (passes_reset hserve hopc hctx (by omega) himm ha hb hc halive) (resetBody_of_rejected hreset (by decide))]
  case free =>
    intro hin hfree hidle hsteps hlen
    have hjo := State.JournalOnly.noted s q stPending s.nextTicket
    obtain ⟨hself, hothers, hout, hframe⟩ := quiesce_leaves (s := s.noted q stPending s.nextTicket) (v := s.newRst 0 q.a [s.nextTicket]) (k := k)
      ((hjo.stepsOn _).trans hsteps) (by rw [hjo.rsts, hlen]; exact lt_four_of_idleRst hidle)
    refine ⟨_, ?_, ?_, ?_, ?_, ?_, ?_, ?_, ?_, hout q.a (by simp [State.newRst, State.domSlots]), fun j hj => (hothers j hj).trans (hjo.rst j), hframe⟩
    · rw [exec_reset, runCmd_of_kept (passes_reset hserve hopc hctx (by omega) himm ha hb hc halive) ht
        (f := fun t => t.quiesce k (s.newRst 0 q.a [s.nextTicket]))]
      intro t hjo
      have hreset : t.resetCmd (q.cmd s).mod (q.cmd s).a (q.cmd s).tk = (t.quiesce k (s.newRst 0 q.a [s.nextTicket]), stPending) := by
        rw [show (q.cmd s).mod = 0 from hmod]
        exact resetCmd_of_free (by rw [hjo.ladles]; exact hin) (by simp only [hjo.rst]; exact hfree) (hjo.idleRst.trans hidle) _
      exact resetBody_of_pending hreset
    all_goals rw [hself]
    · rfl
    · rfl
    · rfl
    · rfl
    · dsimp only
      rw [hjo.time]
  case part =>
    have hreset : s.resetCmd (q.cmd s).mod (q.cmd s).a (q.cmd s).tk = (s, stBadOperand) := resetCmd_of_outside (.inr ⟨hmod, Nat.ne_of_gt hpos⟩) _
    rw [exec_reset, runCmd_of_rejected (passes_reset hserve hopc hctx (by omega) himm ha hb hc halive) (resetBody_of_rejected hreset (by decide))]

end Sys2Proof.Machine
end

section
/-! The phases of a reset, their ends and their limits (R407 to R409, R421, R465). -/

namespace Sys2Proof.Machine

/-! ### What the phases leave -/

theorem State.IoOnly.sbCwrite (s : State) (blk cmp v : Nat) (acc : Access) : s.IoOnly (s.sbCwrite blk cmp v acc) := by
  unfold State.sbCwrite
  dsimp only
  split_ifs
  · exact .count ..
  · exact (State.IoOnly.request ..).trans (.setSb ..)
  · exact .request ..

/-- The scrub of the outputs of abandoned ops (R409). -/
theorem State.IoOnly.scrubbed (s : State) (l : List Nat) : s.IoOnly (l.foldl (fun q b => q.sbCwrite b (q.sbOf b) 0 .absorb) s) := by
  induction l generalizing s with
  | nil => exact .refl s
  | cons b l ih => exact (State.IoOnly.sbCwrite ..).trans (ih _)

namespace State.IoOnly
variable {s t : State} (h : s.IoOnly t)
include h

theorem rst (k : Nat) : t.rst k = s.rst k := (congrArg (State.rst · k) h.frame :)
theorem rout (i : Nat) : t.rout i = s.rout i := (congrArg (State.rout · i) h.frame :)

end State.IoOnly

theorem bumpEpochs_frame (s : State) (l : List Nat) : ∃ e, s.bumpEpochs l = { s with epochs := e } := by
  induction l generalizing s with
  | nil => exact ⟨s.epochs, rfl⟩
  | cons i l ih =>
    obtain ⟨e, h⟩ := ih { s with epochs := Tab.set 0 s.epochs i ((Tab.get 0 s.epochs i + 1) % 256) }
    exact ⟨e, h⟩

/-- Tiles that are in reset already have their Ladles' pairs released, and nothing else. -/
theorem tilesEnter_frame_of_inReset {s : State} {l : List Nat} (h : ∀ t ∈ l, (s.ladle t).inReset = true) :
    ∃ ps, s.tilesEnter l = { s with pairs := ps } := by
  induction l generalizing s with
  | nil => exact ⟨s.pairs, rfl⟩
  | cons t l ih =>
    obtain ⟨ht, hl⟩ := List.forall_mem_cons.1 h
    obtain ⟨ps, hok⟩ := ladleOk_frame s t
    have henter : s.tileEnter t = { s with pairs := ps } := (if_pos ht).trans hok
    obtain ⟨ps', hrest⟩ := ih (s := { s with pairs := ps }) hl
    exact ⟨ps', by rw [State.tilesEnter, henter, hrest]⟩

theorem unhang_frame (s : State) (l : List Nat) : ∃ w, s.unhang l = { s with watched := w } := by
  induction l generalizing s with
  | nil => exact ⟨s.watched, rfl⟩
  | cons t l ih =>
    obtain ⟨w, h⟩ := ih { s with watched := Tab.set {} s.watched t { exFirst := (Tab.get {} s.watched t).exFirst, exLast := (Tab.get {} s.watched t).exLast } }
    exact ⟨w, h⟩

/-- RETURN enables the ring stops of its tiles again (R421). -/
theorem reviveStops_leaves (s : State) (l : List Nat) : ∃ st, s.reviveStops l = { s with stops := st } ∧
    ∀ t, (Tab.get {} st t).unreachable = if t ∈ l then false else (s.stop t).unreachable := by
  induction l generalizing s with
  | nil => exact ⟨s.stops, rfl, fun _ => rfl⟩
  | cons u l ih =>
    obtain ⟨st, h, hget⟩ := ih (s.setStop u {})
    refine ⟨st, h, fun t => (hget t).trans ?_⟩
    have hone : (s.setStop u {}).stop t = if u = t then {} else s.stop t := tab_get_set ({} : AirasStop) s.stops u {} t
    rw [hone]
    by_cases hut : u = t
    · simp [hut]
    · simp [hut, Ne.symm hut]

/-! ### QUIESCE and DRAIN (R407, R408, R465) -/

section
variable {s : State} {k : Nat} (hactive : (s.rst k).active = true)
include hactive

theorem exec_quiesceAck_of_quiesce (hphase : (s.rst k).phase = .quiesce) :
    exec (.quiesceAck k) s = .next (s.setRst k { s.rst k with phase := .drain, since := s.time }) := by
  have hexec : exec (.quiesceAck k) s = execQuiesceAck k s := rfl
  simp [hexec, execQuiesceAck, hactive, hphase]

theorem exec_quiesceTimeout_of_quiesce (hphase : (s.rst k).phase = .quiesce) :
    exec (.quiesceTimeout k) s = .next (if (s.rst k).since + 200 ≤ s.time then s.absorb k else s) := by
  have hexec : exec (.quiesceTimeout k) s = execQuiesceTimeout k s := rfl
  have hlimit : usT 2 = 200 := rfl
  simp [hexec, execQuiesceTimeout, hactive, hphase, hlimit]

theorem exec_resetDrained_of_drain (hphase : (s.rst k).phase = .drain) : exec (.resetDrained k) s = .next (s.pastDrain k) := by
  have hexec : exec (.resetDrained k) s = execResetDrained k s := rfl
  simp [hexec, execResetDrained, hactive, hphase]

theorem exec_drainLimitExpiry_of_drain (hphase : (s.rst k).phase = .drain) :
    exec (.drainLimitExpiry k) s = .next (if (s.rst k).since + drainLimit (s.rst k).level ≤ s.time then s.absorb k else s) := by
  have hexec : exec (.drainLimitExpiry k) s = execDrainLimitExpiry k s := rfl
  simp [hexec, execDrainLimitExpiry, hactive, hphase]

end

theorem pastDrain_of_safe {s : State} {k : Nat} (h : (s.rst k).safe = true) : s.pastDrain k = s.setRst k { s.rst k with phase := .held } := if_pos h

theorem pastDrain_of_reset {s : State} {k : Nat} (h : (s.rst k).safe = false) : s.pastDrain k = s.enterReset k := if_neg (by simp [h])

/-- The slot of a reset whose RESET phase begins. -/
def State.resetting (s : State) (k : Nat) : Rst := { s.rst k with phase := .reset, since := s.time, safe := false }

/-- The scrub of the outputs at the start of RESET, which an absorb window of the same time puts off to its close (R409). -/
def State.scrubAt (s : State) (k now : Nat) (outs : List Nat) : State :=
  if s.windows.any (fun w => w.slot == k && w.since == now) then
    { s with windows := s.windows.map (fun w => if w.slot == k && w.since == now then { w with scrub := w.scrub ++ outs } else w) }
  else outs.foldl (fun q b => q.sbCwrite b (q.sbOf b) 0 .absorb) s

theorem enterReset_eq (s : State) (k : Nat) : s.enterReset k =
    ((((s.setRst k (s.resetting k)).drive 1 true (s.rst k).raised).bumpEpochs (s.rst k).raised).tilesEnter (s.rst k).tiles).scrubAt k s.time
      (s.abandonedOuts (s.rst k).tiles) := rfl

/-- RESET begins on tiles that are in reset already, outside an absorb window: the slot's phase and its outputs. -/
theorem enterReset_leaves {s : State} {k : Nat} (hk : k < s.rsts.length) (htiles : ∀ t ∈ (s.rst k).tiles, (s.ladle t).inReset = true)
    (hwindows : ∀ w ∈ s.windows, w.slot ≠ k) : (s.enterReset k).rst k = s.resetting k ∧
      (∀ i ∈ (s.rst k).raised, bitAt ((s.enterReset k).rout i) 1 = 1) ∧ ∀ j, j ≠ k → (s.enterReset k).rst j = s.rst j := by
  have hclosed : ¬ s.windows.any (fun w => w.slot == k && w.since == s.time) = true := by
    simpa using fun w hw hslot => absurd hslot (hwindows w hw)
  have hdrive := drive_frame (s.setRst k (s.resetting k)) 1 true (s.rst k).raised
  have hbit (i : Nat) (hi : i ∈ (s.rst k).raised) := bitAt_rout_drive (s.setRst k (s.resetting k)) 1 true hi
  generalize ((s.setRst k (s.resetting k)).drive 1 true (s.rst k).raised).rstOut = ro at hdrive
  rw [hdrive] at hbit
  obtain ⟨e, hepochs⟩ := bumpEpochs_frame { s.setRst k (s.resetting k) with rstOut := ro } (s.rst k).raised
  obtain ⟨ps, htilesEnter⟩ := tilesEnter_frame_of_inReset (s := { s.setRst k (s.resetting k) with rstOut := ro, epochs := e }) htiles
  have henter : s.enterReset k = (s.abandonedOuts (s.rst k).tiles).foldl (fun q b => q.sbCwrite b (q.sbOf b) 0 .absorb)
      { s.setRst k (s.resetting k) with rstOut := ro, epochs := e, pairs := ps } := by
    rw [enterReset_eq, hdrive, hepochs, htilesEnter]
    exact if_neg hclosed
  have hio := State.IoOnly.scrubbed { s.setRst k (s.resetting k) with rstOut := ro, epochs := e, pairs := ps } (s.abandonedOuts (s.rst k).tiles)
  rw [henter]
  refine ⟨(hio.rst k).trans (rst_setRst_same hk _), fun i hi => ?_, fun j hj => (hio.rst j).trans (rst_setRst_of_ne s hj _)⟩
  rw [hio.rout]
  exact hbit i hi

/-! ### RESET (R407) -/

/-- The slot of a reset whose READY phase begins. -/
def State.readying (s : State) (k : Nat) : Rst := { s.rst k with phase := .ready, since := s.time, high := false, stopped := 0 }

/-- Reset is released. -/
def State.resetReleased (s : State) (k : Nat) : State := ((s.setRst k (s.readying k)).drive 1 false (s.rst k).raised).tilesLeave (s.rst k).tiles

theorem exec_resetHoldEnd_of_reset {s : State} {k : Nat} (hactive : (s.rst k).active = true) (hphase : (s.rst k).phase = .reset) :
    exec (.resetHoldEnd k) s = .next (if (s.rst k).since + 64 ≤ s.time then s.resetReleased k else s) := by
  have hexec : exec (.resetHoldEnd k) s = execResetHoldEnd k s := rfl
  simp [hexec, execResetHoldEnd, hactive, hphase, State.resetReleased, State.readying]

theorem resetReleased_leaves {s : State} {k : Nat} (hk : k < s.rsts.length) : (s.resetReleased k).rst k = s.readying k ∧
    (∀ t ∈ (s.rst k).tiles, ((s.resetReleased k).ladle t).inReset = false) ∧
    (∀ i ∈ (s.rst k).raised, bitAt ((s.resetReleased k).rout i) 1 = 0) ∧
    s.resetReleased k = { s with rsts := (s.resetReleased k).rsts, rstOut := (s.resetReleased k).rstOut, ladles := (s.resetReleased k).ladles } := by
  have hbit (i : Nat) (hi : i ∈ (s.rst k).raised) := bitAt_rout_drive (s.setRst k (s.readying k)) 1 false hi
  unfold State.resetReleased
  refine ⟨?_, fun t ht => by rw [ladle_tilesLeave, if_pos ht], fun i hi => ?_, ?_⟩
  · rw [tilesLeave_frame, drive_frame]
    exact rst_setRst_same hk _
  · rw [tilesLeave_frame]
    exact hbit i hi
  · rw [tilesLeave_frame, drive_frame]
    rfl

/-! ### READY and RETURN (R407, R408, R421) -/

/-- A self-check is not asked for again once it has ended. -/
theorem askKats_of_checked {s : State} {l : List Nat} (h : ∀ t ∈ l, (s.ladle t).checked ≠ none) : s.askKats l = s := by
  induction l with
  | nil => rfl
  | cons t l ih =>
    obtain ⟨ht, hl⟩ := List.forall_mem_cons.1 h
    have hask : s.askKat t = s := by
      have hsome : (s.ladle t).checked.isNone = false := by simpa [Option.isNone_eq_false_iff, Option.isSome_iff_ne_none] using ht
      simp [State.askKat, hsome]
    rw [State.askKats, hask, ih hl]

/-- The self-checks of idle tiles whose pairs are not in ERROR are asked for. -/
theorem askKats_of_idle {s : State} {l : List Nat}
    (h : ∀ t ∈ l, (s.ladle t).checked = none ∧ ((s.ladle t).kat = .idle ∨ (s.ladle t).kat = .requested) ∧ (s.ladle t).gateShut = false) :
    s.askKats l = { s with ladles := (s.askKats l).ladles } ∧
      ∀ t, (s.askKats l).ladle t = if t ∈ l then { s.ladle t with kat := .requested } else s.ladle t := by
  induction l generalizing s with
  | nil => exact ⟨rfl, fun _ => rfl⟩
  | cons t l ih =>
    obtain ⟨⟨hchecked, hkat, hgate⟩, hl⟩ := List.forall_mem_cons.1 h
    have hask : s.askKat t = { s with ladles := (s.askKat t).ladles } ∧
        ∀ u, (s.askKat t).ladle u = if t = u then { s.ladle t with kat := .requested } else s.ladle u := by
      rcases hkat with hidle | hreq
      · have hone : s.askKat t = s.setLadle t { s.ladle t with kat := .requested } := by simp [State.askKat, hchecked, hidle, hgate]
        rw [hone]
        exact ⟨rfl, ladle_setLadle s t _⟩
      · have hone : s.askKat t = s := by simp [State.askKat, hchecked, hreq, hgate]
        rw [hone]
        refine ⟨rfl, fun u => ?_⟩
        split_ifs with htu
        · rw [← htu, ← hreq]
        · rfl
    obtain ⟨hframe, hladle⟩ := hask
    obtain ⟨hframe', hladle'⟩ := ih (s := s.askKat t) fun u hu => by
      obtain ⟨hc, hk, hg⟩ := hl u hu
      rw [hladle]
      split_ifs with htu
      · exact ⟨hchecked, .inr rfl, hgate⟩
      · exact ⟨hc, hk, hg⟩
    refine ⟨?_, fun u => (hladle' u).trans ?_⟩
    · rw [State.askKats, hframe', hframe]
    · rw [hladle]
      by_cases htu : t = u
      · subst htu
        by_cases hul : t ∈ l <;> simp [hul]
      · by_cases hul : u ∈ l <;> simp [hul, htu, Ne.symm htu]

/-- The ready levels of a reset are high. -/
def State.levelsHigh (s : State) (k : Nat) : State := s.setRst k { s.rst k with high := true }

theorem rst_levelsHigh {s : State} {k : Nat} (hactive : (s.rst k).active = true) : (s.levelsHigh k).rst k = { s.rst k with high := true } :=
  rst_setRst_same (lt_length_of_active hactive) _

section
variable {s : State} {k : Nat} (hactive : (s.rst k).active = true) (hphase : (s.rst k).phase = .ready)
include hactive hphase

theorem exec_resetReady_of_ready : exec (.resetReady k) s = .next (((s.levelsHigh k).askKats (s.rst k).tiles).readyOn k) := by
  have hexec : exec (.resetReady k) s = execResetReady k s := rfl
  simp [hexec, execResetReady, hactive, hphase, State.levelsHigh]

theorem exec_readyLimitExpiry_of_ready : exec (.readyLimitExpiry k) s =
    .next (if (s.rst k).since + readyLimit (s.rst k).level + (s.rst k).stopped ≤ s.time then s.rstHold k stTimeout else s) := by
  have hexec : exec (.readyLimitExpiry k) s = execReadyLimitExpiry k s := rfl
  simp [hexec, execReadyLimitExpiry, hactive, hphase]

/-- READY goes on by the ends of the self-checks alone. -/
theorem readyOn_of_high (hhigh : (s.rst k).high = true) : s.readyOn k =
    if (s.rst k).tiles.any (fun t => (s.ladle t).checked == some false) then s.rstHold k stHwFault
    else if (s.rst k).tiles.all (fun t => (s.ladle t).checked == some true) then s.rstReturn k else s := by
  simp [State.readyOn, hactive, hphase, hhigh]

theorem readyOn_levelsHigh_of_failed (h : ∃ t ∈ (s.rst k).tiles, (s.ladle t).checked = some false) :
    (s.levelsHigh k).readyOn k = (s.levelsHigh k).rstHold k stHwFault := by
  have hrst := rst_levelsHigh hactive
  obtain ⟨t, ht, hfailed⟩ := h
  rw [readyOn_of_high (by rw [hrst]; exact hactive) (by rw [hrst]; exact hphase) (by rw [hrst]), hrst]
  have hany : (s.rst k).tiles.any (fun t => ((s.levelsHigh k).ladle t).checked == some false) = true :=
    List.any_eq_true.2 ⟨t, ht, beq_iff_eq.2 (hfailed : ((s.levelsHigh k).ladle t).checked = some false)⟩
  exact if_pos hany

theorem readyOn_levelsHigh_of_passed (h : ∀ t ∈ (s.rst k).tiles, (s.ladle t).checked = some true) :
    (s.levelsHigh k).readyOn k = (s.levelsHigh k).rstReturn k := by
  have hrst := rst_levelsHigh hactive
  have hladle (t : Nat) : (s.levelsHigh k).ladle t = s.ladle t := rfl
  rw [readyOn_of_high (by rw [hrst]; exact hactive) (by rw [hrst]; exact hphase) (by rw [hrst]), hrst]
  rw [if_neg, if_pos]
  · exact List.all_eq_true.2 fun t ht => beq_iff_eq.2 ((congrArg Ladle.checked (hladle t)).trans (h t ht))
  · simp only [hladle, List.any_eq_true, beq_iff_eq, not_exists, not_and]
    intro t ht
    simp [h t ht]

end

/-- The slot that a RETURN leaves is idle, with OK; its outputs, its tiles' ring stops and its counter. -/
theorem rstReturn_leaves {s : State} {k : Nat} (hk : k < s.rsts.length) (htickets : (s.rst k).tickets = []) :
    (s.rstReturn k).rst k = { last := stOk } ∧ (∀ i ∈ (s.rst k).raised, bitAt ((s.rstReturn k).rout i) 0 = 0) ∧
      (∀ t ∈ (s.rst k).tiles, ((s.rstReturn k).stop t).unreachable = false) ∧
      (s.rstReturn k).reg (rstCounter (s.rst k).level) = min (2 ^ 32 - 1) (s.reg (rstCounter (s.rst k).level) + 1) := by
  have hdrive := drive_frame s 0 false (s.rst k).raised
  have hbit (i : Nat) (hi : i ∈ (s.rst k).raised) := bitAt_rout_drive s 0 false hi
  generalize (s.drive 0 false (s.rst k).raised).rstOut = ro at hdrive
  rw [hdrive] at hbit
  obtain ⟨w, hunhang⟩ := unhang_frame { s with rstOut := ro } ((s.rst k).tiles ++ s.domUnits (s.rst k))
  obtain ⟨st, hrevive, hstops⟩ := reviveStops_leaves { s with rstOut := ro, watched := w } (s.rst k).tiles
  have hback : (((s.drive 0 false (s.rst k).raised).unhang ((s.rst k).tiles ++ s.domUnits (s.rst k))).reviveStops (s.rst k).tiles) =
      { s with rstOut := ro, watched := w, stops := st } := by rw [hdrive, hunhang, hrevive]
  have hreturn : ∃ b, s.rstReturn k =
      { ((({ s with rstOut := ro, watched := w, stops := st } : State).count (rstCounter (s.rst k).level)).setRst k { last := stOk }) with safeReset := b } := by
    unfold State.rstReturn
    dsimp only
    rw [htickets, hback]
    split_ifs
    · exact ⟨true, rfl⟩
    · exact ⟨s.safeReset, rfl⟩
  obtain ⟨b, hb⟩ := hreturn
  rw [hb]
  refine ⟨rst_setRst_same (s := ({ s with rstOut := ro, watched := w, stops := st } : State).count _) hk _, hbit, fun t ht => ?_, ?_⟩
  · exact (hstops t).trans (if_pos ht)
  · exact (reg_count ..).trans (if_pos rfl)

/-! ### The close of an absorb window (R409) -/

theorem exec_absorbWindowClose_of_due {s : State} {k : Nat} {w : Window}
    (hfind : s.windows.find? (fun w => w.slot == k && decide (w.since + 100000 ≤ s.time)) = some w) (hscrub : w.scrub = []) :
    exec (.absorbWindowClose k) s = .next (({ s with windows := s.windows.erase w } : State).drive 2 false w.raised) := by
  have hexec : exec (.absorbWindowClose k) s = execAbsorbWindowClose k s := rfl
  have hlimit : msT 1 = 100000 := rfl
  rw [hexec, execAbsorbWindowClose, hlimit, hfind]
  simp only [hscrub, List.foldl_nil]

theorem exec_absorbWindowClose_of_early {s : State} {k : Nat} (h : ∀ w ∈ s.windows, w.slot = k → s.time < w.since + 100000) :
    exec (.absorbWindowClose k) s = .next s := by
  have hexec : exec (.absorbWindowClose k) s = execAbsorbWindowClose k s := rfl
  have hlimit : msT 1 = 100000 := rfl
  have hfind : s.windows.find? (fun w => w.slot == k && decide (w.since + 100000 ≤ s.time)) = none := by
    simpa [List.find?_eq_none] using h
  rw [hexec, execAbsorbWindowClose, hlimit, hfind]

/-- Settles O43: each phase by its row, with what the next phase leaves. -/
theorem resetPhases : Obligations.ResetPhases := by
  unfold Obligations.ResetPhases
  refine ⟨fun s k hactive hphase => ?quiesce, fun s k hactive hphase => ?drain, rfl, rfl, rfl, rfl, ?entered, fun s k hk hactive hphase => ?hold,
    fun s k hactive hphase => ?ready, rfl, rfl, rfl, rfl, fun s k hk htickets => ?returned, fun s k w => exec_absorbWindowClose_of_due,
    fun s k => exec_absorbWindowClose_of_early⟩
  case quiesce =>
    have htimeout := exec_quiesceTimeout_of_quiesce hactive hphase
    refine ⟨exec_quiesceAck_of_quiesce hactive hphase, fun hlate => ?_, fun hearly => ?_⟩
    · rw [htimeout, if_pos hlate]
    · rw [htimeout, if_neg (Nat.not_le.2 hearly)]
  case drain =>
    have hlimit := exec_drainLimitExpiry_of_drain hactive hphase
    have hdrained := exec_resetDrained_of_drain hactive hphase
    refine ⟨fun hsafe => ?_, fun hsafe => ?_, fun hlate => ?_, fun hearly => ?_⟩
    · rw [hdrained, pastDrain_of_reset hsafe]
    · rw [hdrained, pastDrain_of_safe hsafe]
    · rw [hlimit, if_pos hlate]
    · rw [hlimit, if_neg (Nat.not_le.2 hearly)]
  case entered =>
    intro s k hk hactive hphase hsafe htiles hwindows
    obtain ⟨hself, hout, hothers⟩ := enterReset_leaves hk htiles hwindows
    exact ⟨_, by rw [exec_resetDrained_of_drain hactive hphase, pastDrain_of_reset hsafe], by rw [hself]; rfl, by rw [hself]; rfl, hout, hothers⟩
  case hold =>
    have hexec := exec_resetHoldEnd_of_reset hactive hphase
    obtain ⟨hself, htiles, hout, hframe⟩ := resetReleased_leaves hk
    refine ⟨fun hlate => ⟨s.resetReleased k, by rw [hexec, if_pos hlate], by rw [hself]; rfl, htiles, hout, by rw [hself]; rfl, hframe⟩, fun hearly => ?_⟩
    rw [hexec, if_neg (Nat.not_le.2 hearly)]
  case ready =>
    have hexec := exec_resetReady_of_ready hactive hphase
    have hlimit := exec_readyLimitExpiry_of_ready hactive hphase
    refine ⟨fun hpassed => ?_, fun hended hfailed => ?_, fun hk hne hidle => ?_, fun hlate => ?_, fun hearly => ?_⟩
    · rw [hexec, askKats_of_checked (s := s.levelsHigh k) fun t ht => (hpassed t ht).trans_ne (Option.some_ne_none _),
        readyOn_levelsHigh_of_passed hactive hphase hpassed]
      rfl
    · rw [hexec, askKats_of_checked (s := s.levelsHigh k) hended, readyOn_levelsHigh_of_failed hactive hphase hfailed]
      rfl
    · obtain ⟨hframe, hladle⟩ := askKats_of_idle (s := s.levelsHigh k) (l := (s.rst k).tiles) fun t ht =>
        ⟨(hidle t ht).1, .inl (hidle t ht).2.1, (hidle t ht).2.2⟩
      have hrst : ((s.levelsHigh k).askKats (s.rst k).tiles).rst k = { s.rst k with high := true } := by
        rw [hframe]
        exact rst_levelsHigh hactive
      have hchecked (t : Nat) (ht : t ∈ (s.rst k).tiles) : (((s.levelsHigh k).askKats (s.rst k).tiles).ladle t).checked = none := by
        rw [hladle, if_pos ht]
        exact (hidle t ht).1
      have hwaits : ((s.levelsHigh k).askKats (s.rst k).tiles).readyOn k = (s.levelsHigh k).askKats (s.rst k).tiles := by
        obtain ⟨t, ht⟩ := List.exists_mem_of_ne_nil _ hne
        rw [readyOn_of_high (by rw [hrst]; exact hactive) (by rw [hrst]; exact hphase) (by rw [hrst]), hrst]
        rw [if_neg, if_neg]
        · exact fun hall => by simpa [hchecked t ht] using List.all_eq_true.1 hall t ht
        · simp only [List.any_eq_true, beq_iff_eq, not_exists, not_and]
          exact fun t ht => by simp [hchecked t ht]
      refine ⟨_, hexec.trans (congrArg _ hwaits), by rw [hrst], by rw [hrst]; exact hphase, fun t ht => ?_, ?_⟩
      · rw [hladle, if_pos ht]
      · rw [hframe]
        rfl
    · rw [hlimit, if_pos hlate]
    · rw [hlimit, if_neg (Nat.not_le.2 hearly)]
  case returned =>
    obtain ⟨hself, hout, hstops, hcount⟩ := rstReturn_leaves hk htickets
    exact ⟨_, rfl, by rw [hself], by rw [hself], hout, hstops, hcount⟩

end Sys2Proof.Machine
end

section
/-! The progress watch and the completion filter (R402 to R405, R413, R423). -/

namespace Sys2Proof.Machine

/-! ### Progress of a unit's samples (R402) -/

theorem countMoves_iff (l : List (Nat × Bool)) : countMoves l = true ↔
    ∃ (i : Nat) (a b : Nat × Bool), l[i]? = some a ∧ l[i + 1]? = some b ∧ a.1 ≠ b.1 := by
  match l with
  | [] => simp [countMoves]
  | [a] => simp [countMoves]
  | a :: b :: l =>
    rw [countMoves, Bool.or_eq_true, bne_iff_ne, countMoves_iff (b :: l)]
    constructor
    · rintro (hne | ⟨i, x, y, hx, hy, hxy⟩)
      · exact ⟨0, a, b, rfl, rfl, hne⟩
      · exact ⟨i + 1, x, y, hx, hy, hxy⟩
    · rintro ⟨i, x, y, hx, hy, hxy⟩
      cases i with
      | zero =>
        cases hx
        cases hy
        exact .inl hxy
      | succ i => exact .inr ⟨i, x, y, hx, hy, hxy⟩

theorem madeProgress_iff (l : List (Nat × Bool)) : madeProgress l = true ↔
    (∃ y ∈ l, y.2 = false) ∨ ∃ (i : Nat) (a b : Nat × Bool), l[i]? = some a ∧ l[i + 1]? = some b ∧ a.1 ≠ b.1 := by
  rw [madeProgress, Bool.or_eq_true, countMoves_iff, or_comm]
  simp [List.any_eq_true]

/-! ### A hang (R404, R423) -/

theorem regsOnly_hangCapture (s : State) (kind c u : Nat) : s.RegsOnly (s.hangCapture kind c u) := by
  unfold State.hangCapture
  split_ifs
  · exact ⟨s.regs, rfl⟩
  · exact ((regsOnly_setReg ..).trans (regsOnly_setReg ..)).trans ((regsOnly_setReg ..).trans (regsOnly_setBits ..))

/-- The capture is in its own registers. -/
theorem reg_hangCapture (s : State) (kind c u : Nat) : (s.hangCapture kind c u).reg Reg.hubCntHang = s.reg Reg.hubCntHang := by
  unfold State.hangCapture
  split_ifs
  · rfl
  · have hcap : Reg.hubWatchCap ≠ Reg.hubCntHang := by decide
    have hlo : Reg.hubWatchCapTimeLo ≠ Reg.hubCntHang := by decide
    have hhi : Reg.hubWatchCapTimeHi ≠ Reg.hubCntHang := by decide
    have hst : Reg.hubWatchStatus ≠ Reg.hubCntHang := by decide
    simp [hcap, hlo, hhi, hst]

theorem hang_leaves (s : State) (kind c u : Nat) : (∃ r, s.hang kind c u = { s with regs := r, out := s.out ++ [.notice 2] }) ∧
    (s.hang kind c u).reg Reg.hubCntHang = min (2 ^ 32 - 1) (s.reg Reg.hubCntHang + 1) ∧ (s.hang kind c u).bit Reg.hubWatchStatus 0 = true := by
  have hst : Reg.hubWatchStatus ≠ Reg.hubCntHang := by decide
  obtain ⟨r, hr⟩ := ((regsOnly_hangCapture s kind c u).trans (regsOnly_setBits _ Reg.hubWatchStatus 1)).trans (regsOnly_count _ Reg.hubCntHang)
  have hemit : s.hang kind c u = ({ s with regs := r } : State).emit (.notice 2) := congrArg (State.emit · _) hr
  refine ⟨⟨r, hemit⟩, ?_, ?_⟩
  · change ((((s.hangCapture kind c u).setBits Reg.hubWatchStatus 1).count Reg.hubCntHang).reg Reg.hubCntHang) = _
    rw [reg_count, if_pos rfl, reg_setBits, if_neg hst, reg_hangCapture]
  · have hcount : (((s.hangCapture kind c u).setBits Reg.hubWatchStatus 1).count Reg.hubCntHang).reg Reg.hubWatchStatus =
        ((s.hangCapture kind c u).setBits Reg.hubWatchStatus 1).reg Reg.hubWatchStatus := by rw [reg_count, if_neg hst.symm]
    have hbit : ((s.hangCapture kind c u).setBits Reg.hubWatchStatus 1).bit Reg.hubWatchStatus 0 = true := bit_setBits_self _ _ (i := 0) (by decide)
    rw [← hbit]
    exact bit_congr hcount 0

/-! ### The end of a window (R402, R403) -/

theorem watchedUnit_setWatched (s : State) (u : Nat) (v : Watched) (t : Nat) : (s.setWatched u v).watchedUnit t = if u = t then v else s.watchedUnit t :=
  tab_get_set ..

/-- What the end of a window leaves of a unit: the three cases of R402 and R403. -/
def State.Judged (s : State) (fin : Nat) (l : List (Nat × List (Nat × Bool))) (t : Nat) (w : Watched) : Prop :=
  ((s.isWatched t = false ∨ (s.watchedUnit t).excludedBy fin = true) → w = (s.watchedUnit t).nextWindow fin) ∧
  (s.isWatched t = true → (s.watchedUnit t).excludedBy fin = false →
    ((lookup l t = none ∨ ∃ x, lookup l t = some x ∧ madeProgress x = true) →
      w = { (s.watchedUnit t).nextWindow fin with idleWindows := 0, hung := false, verdictHung := false }) ∧
    (∀ x, lookup l t = some x → madeProgress x = false → w.idleWindows = (s.watchedUnit t).idleWindows + 1))

theorem nextWindow_leaves (w : Watched) (fin : Nat) : (w.nextWindow fin).idleWindows = w.idleWindows ∧ (w.nextWindow fin).hung = w.hung ∧
    (w.nextWindow fin).verdictHung = w.verdictHung := by
  unfold Watched.nextWindow
  split_ifs <;> exact ⟨rfl, rfl, rfl⟩

/-- The windows without progress at which a unit hangs. -/
def State.hangLimit (s : State) (t : Nat) : Nat :=
  max 1 (if t < 128 then fieldOf (s.reg Reg.hubWatchCtrl) 15 8 else fieldOf (s.reg Reg.hubWatchCtrl) 23 16)

/-- A unit that has shown no progress in one more window. -/
def State.idled (s : State) (fin t : Nat) : Watched :=
  { (s.watchedUnit t).nextWindow fin with
    idleWindows := (s.watchedUnit t).idleWindows + 1
    hung := (s.watchedUnit t).hung || decide (s.hangLimit t ≤ (s.watchedUnit t).idleWindows + 1)
    verdictHung := (s.watchedUnit t).verdictHung }

section
variable {s : State} {fin : Nat} {l : List (Nat × List (Nat × Bool))} {t : Nat}

theorem watchOne_of_excluded (h : s.isWatched t = false ∨ (s.watchedUnit t).excludedBy fin = true) :
    s.watchOne fin l t = s.setWatched t ((s.watchedUnit t).nextWindow fin) := by
  unfold State.watchOne
  exact if_pos (by simpa using h)

variable (hwatched : s.isWatched t = true) (hin : (s.watchedUnit t).excludedBy fin = false)
include hwatched hin

theorem watchOne_of_progress (h : lookup l t = none ∨ ∃ x, lookup l t = some x ∧ madeProgress x = true) : s.watchOne fin l t =
    s.setWatched t { (s.watchedUnit t).nextWindow fin with idleWindows := 0, hung := false, verdictHung := false } := by
  have hprogress : ((lookup l t).map madeProgress).getD true = true := by
    rcases h with hnone | ⟨x, hx, hmade⟩
    · rw [hnone]; rfl
    · rw [hx]; exact hmade
  unfold State.watchOne
  dsimp only
  rw [if_neg (by simp [hwatched, hin]), if_pos hprogress]

/-- A unit that shows no progress, and whether it is at its limit. -/
theorem watchOne_of_idle {x : List (Nat × Bool)} (hx : lookup l t = some x) (hidle : madeProgress x = false) : s.watchOne fin l t =
    if decide (s.hangLimit t ≤ (s.watchedUnit t).idleWindows + 1) && ! (s.watchedUnit t).hung && ! (s.watchedUnit t).verdictHung then
      (s.setWatched t (s.idled fin t)).hang 1 0 t else s.setWatched t (s.idled fin t) := by
  have hprogress : ¬ ((lookup l t).map madeProgress).getD true = true := by
    rw [hx]
    exact Bool.eq_false_iff.1 hidle
  obtain ⟨hcount, hhung, hverdict⟩ := nextWindow_leaves (s.watchedUnit t) fin
  unfold State.watchOne
  dsimp only
  rw [if_neg (by simp [hwatched, hin]), if_neg hprogress, hcount, hhung, hverdict]
  rfl

end

theorem watchOne_leaves (s : State) (fin : Nat) (l : List (Nat × List (Nat × Bool))) (t : Nat) :
    (∃ w r o, s.watchOne fin l t = { s with watched := w, regs := r, out := o }) ∧ s.Judged fin l t ((s.watchOne fin l t).watchedUnit t) ∧
      ∀ u, u ≠ t → (s.watchOne fin l t).watchedUnit u = s.watchedUnit u := by
  have hset (v : Watched) : (s.setWatched t v).watchedUnit t = v := (watchedUnit_setWatched ..).trans (if_pos rfl)
  have hother (v : Watched) (u : Nat) (hu : u ≠ t) : (s.setWatched t v).watchedUnit u = s.watchedUnit u :=
    (watchedUnit_setWatched ..).trans (if_neg (Ne.symm hu))
  by_cases hskip : s.isWatched t = false ∨ (s.watchedUnit t).excludedBy fin = true
  · rw [watchOne_of_excluded hskip]
    refine ⟨⟨_, s.regs, s.out, rfl⟩, ⟨fun _ => hset _, fun hw hx => ?_⟩, hother _⟩
    simp [hw, hx] at hskip
  obtain ⟨hwatched, hin⟩ : s.isWatched t = true ∧ (s.watchedUnit t).excludedBy fin = false := by simpa using hskip
  have hprogress (h : lookup l t = none ∨ ∃ x, lookup l t = some x ∧ madeProgress x = true) := watchOne_of_progress hwatched hin h
  cases hx : lookup l t with
  | none =>
    rw [hprogress (.inl hx)]
    exact ⟨⟨_, s.regs, s.out, rfl⟩, ⟨fun h => absurd h hskip, fun _ _ => ⟨fun _ => hset _, fun x h => by simp [hx] at h⟩⟩, hother _⟩
  | some x =>
    cases hmade : madeProgress x with
    | true =>
      rw [hprogress (.inr ⟨x, hx, hmade⟩)]
      refine ⟨⟨_, s.regs, s.out, rfl⟩, ⟨fun h => absurd h hskip, fun _ _ => ⟨fun _ => hset _, fun y hy hidle => ?_⟩⟩, hother _⟩
      simp_all
    | false =>
      have hno (h : lookup l t = none ∨ ∃ x, lookup l t = some x ∧ madeProgress x = true) : False := by simp_all
      have hidle := watchOne_of_idle hwatched hin hx hmade
      split_ifs at hidle
      · obtain ⟨⟨r, hr⟩, -, -⟩ := hang_leaves (s.setWatched t (s.idled fin t)) 1 0 t
        rw [hidle, hr]
        exact ⟨⟨_, r, _, rfl⟩, ⟨fun h => absurd h hskip, fun _ _ => ⟨fun h => (hno h).elim, fun _ _ _ => congrArg Watched.idleWindows (hset (s.idled fin t))⟩⟩,
          hother (s.idled fin t)⟩
      · rw [hidle]
        exact ⟨⟨_, s.regs, s.out, rfl⟩, ⟨fun h => absurd h hskip, fun _ _ => ⟨fun h => (hno h).elim, fun _ _ _ => congrArg Watched.idleWindows (hset _)⟩⟩,
          hother _⟩

theorem watchAll_leaves (s : State) (fin : Nat) (l : List (Nat × List (Nat × Bool))) {ts : List Nat} (hnodup : ts.Nodup) :
    (∃ w r o, s.watchAll fin l ts = { s with watched := w, regs := r, out := o }) ∧
      (∀ t ∈ ts, s.Judged fin l t ((s.watchAll fin l ts).watchedUnit t)) ∧ ∀ t, t ∉ ts → (s.watchAll fin l ts).watchedUnit t = s.watchedUnit t := by
  induction ts generalizing s with
  | nil => exact ⟨⟨s.watched, s.regs, s.out, rfl⟩, fun _ ht => absurd ht List.not_mem_nil, fun _ _ => rfl⟩
  | cons u ts ih =>
    obtain ⟨hnotin, hnodup⟩ := List.nodup_cons.1 hnodup
    obtain ⟨⟨w, r, o, hone⟩, hself, hother⟩ := watchOne_leaves s fin l u
    obtain ⟨⟨w', r', o', hrest⟩, hjudged, hkept⟩ := ih (s.watchOne fin l u) hnodup
    have hwatched (t : Nat) : (s.watchOne fin l u).isWatched t = s.isWatched t := by rw [hone]; rfl
    refine ⟨⟨w', r', o', by rw [State.watchAll, hrest, hone]⟩, fun t ht => ?_, fun t ht => ?_⟩
    · rcases List.mem_cons.1 ht with rfl | ht
      · exact (hkept t hnotin).symm ▸ hself
      · have hne : t ≠ u := fun h => hnotin (h ▸ ht)
        have h := hjudged t ht
        rw [State.Judged, hwatched, hother t hne] at h
        exact h
    · obtain ⟨hne, ht⟩ := not_or.1 (mt List.mem_cons.2 ht)
      exact (hkept t ht).trans (hother t hne)

theorem exec_watchWindowEnd (s : State) (l : List (Nat × List (Nat × Bool))) {fin : Nat}
    (hfin : fin = s.windowAt + 100 * max 1 (s.reg Reg.hubWatchCtrl % 2 ^ 8)) : exec (.watchWindowEnd l) s =
      .next (if s.time < fin then s else ({ s with windowAt := fin } : State).watchAll fin l (List.range 256)) := by
  have hexec : exec (.watchWindowEnd l) s = execWatchWindowEnd l s := rfl
  have hus (n : Nat) : usT n = 100 * n := Nat.mul_comm ..
  subst hfin
  rw [hexec, execWatchWindowEnd]
  simp only [hus]

/-- A unit at its limit hangs, once (R404). -/
theorem watchOne_hangs {s : State} {fin : Nat} {l : List (Nat × List (Nat × Bool))} {t : Nat} {x : List (Nat × Bool)} (hwatched : s.isWatched t = true)
    (hin : (s.watchedUnit t).excludedBy fin = false) (hx : lookup l t = some x) (hidle : madeProgress x = false)
    (hhung : (s.watchedUnit t).hung = false) (hverdict : (s.watchedUnit t).verdictHung = false)
    (hlimit : (s.watchedUnit t).idleWindows + 1 = s.hangLimit t) : s.watchOne fin l t =
      (s.setWatched t (s.idled fin t)).hang 1 0 t := by
  rw [watchOne_of_idle hwatched hin hx hidle, hlimit]
  simp [hhung, hverdict]

/-! ### The age of a verdict (R405) -/

theorem overdue_iff (o : OpRec) (t age now : Nat) : o.overdue t age now = true ↔
    o.tile = t ∧ o.notAccepted = false ∧ o.verdict = none ∧ o.aged = false ∧ o.acceptedAt + age + o.downFor ≤ now := by
  simp [OpRec.overdue, and_assoc]

/-- The time without a verdict at which an op hangs its tile. -/
def State.opAge (s : State) : Nat := 100000 * max 1 (s.reg Reg.hubWatchCtrl / 2 ^ 24)

theorem msT_opAge (s : State) : msT (max 1 (s.reg Reg.hubWatchCtrl / 2 ^ 24)) = s.opAge := Nat.mul_comm ..

theorem exec_verdictAgeHang_of_none {s : State} {t : Nat} (h : s.recs.find? (fun o => o.overdue t s.opAge s.time) = none) :
    exec (.verdictAgeHang t) s = .next s := by
  have hexec : exec (.verdictAgeHang t) s = execVerdictAgeHang t s := rfl
  rw [hexec, execVerdictAgeHang]
  simp only [msT_opAge, h]

theorem exec_verdictAgeHang_of_some {s u : State} {t : Nat} {o : OpRec} (h : s.recs.find? (fun o => o.overdue t s.opAge s.time) = some o)
    (hu : u = (s.setCtx o.d.ctx ((s.ctx o.d.ctx).markAged o)).setWatched t { s.watchedUnit t with verdictHung := true }) :
    exec (.verdictAgeHang t) s = .next (if (s.watchedUnit t).hung || (s.watchedUnit t).verdictHung then u else u.hang 2 o.d.ctx t) := by
  have hexec : exec (.verdictAgeHang t) s = execVerdictAgeHang t s := rfl
  subst hu
  rw [hexec, execVerdictAgeHang]
  simp only [msT_opAge, h]

/-! ### The completion filter (R413) -/

section
variable {s : State} {c gen : Nat}

theorem cflComplete_of_live (hc : c ≠ 0) (hgen : (s.ctx c).gen = gen) (hst : (s.ctx c).st = .live) :
    s.cflComplete c gen = ((s.cflDone c).count Reg.hubCntCflPass, true) := by
  simp [State.cflComplete, hc, hgen, hst]

theorem cflComplete_of_terminated (hc : c ≠ 0) (hgen : (s.ctx c).gen = gen) (hst : (s.ctx c).st = .terminated) :
    s.cflComplete c gen = ((s.cflDone c).count Reg.hubCntCflDrop, false) := by
  simp [State.cflComplete, hc, hgen, hst]

theorem cflComplete_of_tearing {v : Teardown} (hc : c ≠ 0) (hgen : (s.ctx c).gen ≠ gen) (hv : s.tearing c gen = some v) :
    s.cflComplete c gen = ((s.tearDone c gen).count Reg.hubCntCflDrop, false) := by
  simp [State.cflComplete, hc, hgen, hv]

theorem cflComplete_of_late (hc : c ≠ 0) (hgen : (s.ctx c).gen ≠ gen) (hv : s.tearing c gen = none) :
    s.cflComplete c gen = (s.count Reg.hubCntCflLate, false) := by
  simp [State.cflComplete, hc, hgen, hv]

/-- An ISSUE of another generation, or of a context that is not LIVE, is dropped. -/
theorem exec_cflIssue_of_dropped (lane tag : Nat) (hc : c ≠ 0) (h : (s.ctx c).gen = gen → (s.ctx c).st ≠ .live) :
    exec (.cflIssue lane c gen tag) s = .next ((s.count Reg.hubCntCflDrop).emit (.cfl lane tag false)) := by
  have hexec : exec (.cflIssue lane c gen tag) s = execCflIssue lane c gen tag s := rfl
  have hlive : ((s.ctx c).st == .live && (s.ctx c).gen == gen) = false := by
    by_cases hgen : (s.ctx c).gen = gen
    · simp [h hgen]
    · simp [hgen]
  simp [hexec, execCflIssue, hc, hlive]

theorem exec_cflIssue_of_live (lane tag : Nat) (hc : c ≠ 0) (hgen : (s.ctx c).gen = gen) (hst : (s.ctx c).st = .live) :
    exec (.cflIssue lane c gen tag) s = .next (((s.cflMore c).count Reg.hubCntCflPass).emit (.cfl lane tag true)) := by
  have hexec : exec (.cflIssue lane c gen tag) s = execCflIssue lane c gen tag s := rfl
  simp [hexec, execCflIssue, hc, hgen, hst]

theorem exec_cflIssue_of_own (s : State) (lane gen tag : Nat) : exec (.cflIssue lane 0 gen tag) s = .next (s.emit (.cfl lane tag true)) := rfl

theorem exec_cflComplete (s : State) (lane c gen tag : Nat) :
    exec (.cflComplete lane c gen tag) s = .next ((s.cflComplete c gen).1.emit (.cfl lane tag (s.cflComplete c gen).2)) := rfl

end

/-- Settles O44: the window by induction on the units, the hang at the limit, the age of a verdict and the rows of the filter. -/
theorem hangsAndCompletionFilter : Obligations.HangsAndCompletionFilter := by
  unfold Obligations.HangsAndCompletionFilter
  refine ⟨⟨fun s l hearly => ?early, fun s l fin hfin hdue => ?window, madeProgress_iff, ?hangs, fun s t o u ho hu => ?aged, overdue_iff,
    fun s t ho => ?young⟩, fun s lane c gen tag => ⟨?own, fun hc hgen => ⟨fun hst => ?live, fun hst => ?terminated⟩, fun hc hgen => ?other⟩⟩
  case early => rw [exec_watchWindowEnd s l rfl, if_pos hearly]
  case window =>
    obtain ⟨⟨w, r, o, hframe⟩, hjudged, -⟩ := watchAll_leaves { s with windowAt := fin } fin l (List.nodup_range (n := 256))
    refine ⟨_, (exec_watchWindowEnd s l hfin).trans (congrArg _ (if_neg (Nat.not_lt.2 hdue))), ?_, ?_, fun t ht => hjudged t (List.mem_range.2 ht)⟩
    · rw [hframe]
    · rw [hframe]
  case hangs =>
    intro s l fin t x hwatched hin hx hidle ht hhung hverdict hlimit
    have hat : (s.watchedUnit t).idleWindows + 1 = s.hangLimit t := by rw [hlimit, State.hangLimit, if_pos ht]
    have hidled : (s.idled fin t).hung = true := by simp [State.idled, hat]
    obtain ⟨⟨r, hr⟩, hcount, hbit⟩ := hang_leaves (s.setWatched t (s.idled fin t)) 1 0 t
    refine ⟨_, rfl, ?_⟩
    rw [watchOne_hangs hwatched hin hx hidle hhung hverdict hat]
    refine ⟨?_, hcount, hbit, by rw [hr]; rfl⟩
    rw [hr]
    exact (congrArg Watched.hung ((watchedUnit_setWatched s t (s.idled fin t) t).trans (if_pos rfl))).trans hidled
  case aged =>
    rw [exec_verdictAgeHang_of_some ho hu]
    refine ⟨fun hhung hverdict => by simp [hhung, hverdict], fun h => ?_⟩
    rw [if_pos (by simpa using h)]
  case young => exact exec_verdictAgeHang_of_none ho
  case own =>
    rintro rfl
    exact ⟨exec_cflIssue_of_own .., rfl⟩
  case live =>
    exact ⟨_, _, exec_cflIssue_of_live lane tag hc hgen hst, rfl, rfl, by rw [exec_cflComplete, cflComplete_of_live hc hgen hst], rfl, rfl⟩
  case terminated =>
    exact ⟨_, by rw [exec_cflComplete, cflComplete_of_terminated hc hgen hst], rfl, rfl,
      exec_cflIssue_of_dropped lane tag hc fun _ => by rw [hst]; decide⟩
  case other =>
    refine ⟨exec_cflIssue_of_dropped lane tag hc fun h => absurd h hgen, fun hv => ?_, fun v hv => ?_⟩
    · rw [exec_cflComplete, cflComplete_of_late hc hgen hv]
    · exact ⟨((s.tearDone c gen).count Reg.hubCntCflDrop).emit (.cfl lane tag false), by rw [exec_cflComplete, cflComplete_of_tearing hc hgen hv],
        rfl, rfl, rfl⟩

end Sys2Proof.Machine
end

section
/-! DUMP, the answers of the state-read channel and the copy of a dump (R416 to R420, R466). -/

namespace Sys2Proof.Machine

/-! ### DUMP (R416, R420) -/

theorem State.IoOnly.of_mem {s : State} {q : CoreCmd} {st tk : Nat} : ∀ w ∈ [s, s.noted q st tk], s.IoOnly w := by
  simp [State.IoOnly.refl, State.IoOnly.noted]

theorem exec_dump (s : State) (i : Issue) : exec (.dump i) s = .next (s.runCmd specDump i) := rfl
theorem body_specDump : specDump.body = dumpBody := rfl

/-- DUMP is among the commands that bring-up serves before its last stage (R484). -/
theorem passes_dump {s : State} {q : CoreCmd} (hup : s.coreUp q.k = true) (hsafe : s.safe = none) (hopc : q.opc = 0x71) (hctx : q.ctx = 0) (hmod : q.mod = 0)
    (himm : q.imm < 256) (ha : q.a + 16 ≤ 2 ^ 38) (hb : q.b < 2 ^ 64) (hc : q.c < 2 ^ 64) (halive : (s.ctx 0).st ≠ .terminated) : s.Passes q specDump where
  up := hup
  opc := hopc
  command := rfl
  a_lt := by omega
  b_lt := hb
  c_lt := hc
  mod_lt := by omega
  imm_lt := by omega
  row1 := by rw [hmod]; rfl
  alive := .inr (by rw [show specDump.named (q.cmd s) = q.ctx from rfl, hctx]; exact halive)
  narrow := (wide_eq_false_iff ..).2 ⟨fun _ => (by omega : q.a < 2 ^ 38), fun h => absurd rfl h, fun h => absurd rfl h, fun _ => himm⟩
  free := by simp [State.blocked, hsafe, specDump]

/-- The dump of the block alone, as far as its collection goes. -/
def State.blockDump (s : State) (c : Cmd) : Dump :=
  { scope := 0xFE, dst := c.a, ticket := c.tk, start := s.time, recs := s.blockRecs, since := s.time }

/-- The state in which a dump of the block alone has its registers. -/
def State.blockCollecting (s : State) (c : Cmd) : State := { s.took s.blockValues.length with dump := some (s.blockDump c) }

/-- The dump of the block alone, collected at once. -/
def State.blockCollected (s : State) (c : Cmd) : State := (s.blockCollecting c).dumpCopy (s.blockDump c)

section
variable {s : State} {c : Cmd}

theorem dumpBody_of_noScope (h : scopeOk c.imm = false) : dumpBody c s = reject s stBadOperand := if_pos (.inl h)

variable (hscope : scopeOk c.imm = true) (ha : c.a + 16 ≤ 2 ^ 38)
include hscope ha

theorem dumpBody_of_held (h : s.dump.isSome = true ∨ s.bit Reg.hubDumpStatus 30 = true) : dumpBody c s = reject s stBusy := by
  unfold dumpBody
  rw [if_neg (not_or.2 ⟨by simp [hscope], Nat.not_lt.2 ha⟩), if_pos h]

omit hscope in
theorem dumpBody_of_block (himm : c.imm = 0xFE) (hdump : s.dump = none) (hbit : s.bit Reg.hubDumpStatus 30 = false) (hstall : s.bothStalled = false) :
    dumpBody c s = (s.blockCollected c, .later stPending) := by
  have hscope : scopeOk c.imm = true := by rw [himm]; rfl
  unfold dumpBody
  rw [if_neg (not_or.2 ⟨by simp [hscope], Nat.not_lt.2 ha⟩), if_neg (by simp [hdump, hbit])]
  simp only [himm, hstall, if_true, Bool.false_eq_true, if_false]
  rfl

end

/-! ### The copy of an image (R419, R420) -/

/-- A write of the copy changes memory, the sideband and the ports. -/
theorem writeZ_frame_of_dump {s : State} (hstall : s.bothStalled = false) (addr : Nat) (b : Bytes) :
    ∃ m sb p0 p1, s.writeZ addr b .dump = { s with mem := m, sb := sb, port0 := p0, port1 := p1 } := by
  obtain ⟨p0, p1, h⟩ := writeZ_of_own hstall addr b (acc := .dump) fun _ => rfl
  exact ⟨_, _, p0, p1, h⟩

theorem copySram_frame {s : State} (hstall : s.bothStalled = false) (dst k n : Nat) :
    ∃ m sb p0 p1, s.copySram dst k n = { s with mem := m, sb := sb, port0 := p0, port1 := p1 } := by
  induction n generalizing s k with
  | zero => exact ⟨s.mem, s.sb, s.port0, s.port1, rfl⟩
  | succ n ih =>
    have hkept : (s.writeZ ((dst + k) * 4096) (s.sramBlock k) .dump).bothStalled = false := (State.IoOnly.writeZ ..).bothStalled.trans hstall
    obtain ⟨m', sb', p0, p1, hone⟩ := writeZ_frame_of_dump hstall ((dst + k) * 4096) (s.sramBlock k)
    obtain ⟨m, sb, p0', p1', hrest⟩ := ih hkept (k + 1)
    exact ⟨m, sb, p0', p1', by rw [State.copySram, hrest, hone]⟩

/-- The image of a dump in the dump SRAM, before its copy. -/
def State.imageStands (s : State) (d : Dump) : State :=
  { s.retire (fun a => a == .dump) with
    dumpSram := overlay (wordsOf (d.image s.time)) s.dumpSram, dump := some { d with reads := [], copying := true } }

theorem dumpCopy_of_port {s : State} (hstall : s.bothStalled = false) (d : Dump) : s.dumpCopy d = (s.imageStands d).copySram d.dst 0 16 :=
  if_neg (by simp [hstall])

/-- The copy begins, while a port takes its writes: the image stands in the dump SRAM, and the dump waits for them. -/
theorem dumpCopy_leaves {s : State} (hstall : s.bothStalled = false) (d : Dump) :
    (∃ sr m sb p0 p1 r f t, s.dumpCopy d = { s with
      dumpSram := sr, dump := some { d with reads := [], copying := true }, mem := m, sb := sb, port0 := p0, port1 := p1, regs := r, cfl := f, teardowns := t }) ∧
      ∀ a, a ≠ Reg.hubCntCflPass → a ≠ Reg.hubCntCflDrop → a ≠ Reg.hubCntCflLate → (s.dumpCopy d).reg a = s.reg a := by
  have hkept : (s.retire (fun a => a == .dump)).bothStalled = false := (State.IoOnly.retire ..).bothStalled.trans hstall
  obtain ⟨⟨p0, p1, r, f, t, hretire⟩, hreg⟩ := retire_frame s (fun a => a == .dump)
  obtain ⟨m, sb, p0', p1', hcopy⟩ := copySram_frame (s := s.imageStands d) hkept d.dst 0 16
  rw [dumpCopy_of_port hstall, hcopy]
  refine ⟨⟨(s.imageStands d).dumpSram, m, sb, p0', p1', r, f, t, ?_⟩, fun a hpass hdrop hlate => hreg a (by simp [hpass, hdrop, hlate])⟩
  rw [State.imageStands, hretire]

theorem blockCollected_leaves {s : State} (hstall : s.bothStalled = false) (c : Cmd) :
    (∃ fr sr m sb p0 p1 r f t, s.blockCollected c = { s with
      free := fr, dumpSram := sr, dump := some { s.blockDump c with reads := [], copying := true }, mem := m, sb := sb, port0 := p0, port1 := p1, regs := r,
      cfl := f, teardowns := t }) ∧
      ∀ a, a ≠ Reg.hubCntCflPass → a ≠ Reg.hubCntCflDrop → a ≠ Reg.hubCntCflLate → (s.blockCollected c).reg a = s.reg a := by
  obtain ⟨⟨sr, m, sb, p0, p1, r, f, t, hframe⟩, hreg⟩ := dumpCopy_leaves (s := s.blockCollecting c) hstall (s.blockDump c)
  exact ⟨⟨(s.blockCollecting c).free, sr, m, sb, p0, p1, r, f, t, hframe⟩, hreg⟩

/-! ### Read by read (R417, R466) -/

section
variable {s : State} {d : Dump} {r : DumpRead} {rest : List DumpRead} (hreads : d.reads = r :: rest) (hskips : d.skips r.unit = false)
  (hruns : s.unitInReset r.unit = false)
include hreads hskips hruns

/-- While 2 µs have not passed there is nothing to give up. -/
theorem dumpAnswer_of_waiting (hearly : s.time < d.since + 200) : s.dumpAnswer d none false = s := by
  have hlimit : usT 2 = 200 := rfl
  simp [State.dumpAnswer, hreads, hskips, hruns, hlimit, Nat.not_le.2 hearly]

/-- An answer in time gives its record the value. -/
theorem dumpAnswer_of_value {v w : Nat} (htime : s.time ≤ d.since + 200) (hvalue : s.dumpValue r v = some w) : s.dumpAnswer d (some v) false =
    s.dumpNext { d with recs := d.recs ++ [{ addr := r.addr, value := w, unit := r.unit }] } rest := by
  have hlimit : usT 2 = 200 := rfl
  simp [State.dumpAnswer, hreads, hskips, hruns, hlimit, Nat.not_lt.2 htime, hvalue]

end

theorem exec_dumpReadResult_of_dump {s : State} {d : Dump} (h : s.dump = some d) (a : Option Nat) :
    exec (.dumpReadResult a) s = .next (s.dumpAnswer d a false) := by
  have hexec : exec (.dumpReadResult a) s = execDumpReadResult a s := rfl
  rw [hexec, execDumpReadResult, h]

/-- An answer while no link's read is outstanding belongs to the dump's. -/
theorem exec_stateReadAnswer_of_dump {s : State} {d : Dump} {r : DumpRead} {rest : List DumpRead} (h : s.dump = some d) (hreads : d.reads = r :: rest)
    (hstate : r.state = true) (hlinks : s.bring.reads = []) (v : Nat) : exec (.stateReadAnswer v false) s = .next (s.dumpAnswer d (some v) false) := by
  have hexec : exec (.stateReadAnswer v false) s = execStateReadAnswer v false s := rfl
  have hchannel : s.dumpOnChannel = true := by simp [State.dumpOnChannel, h, hreads, hstate]
  simp only [hexec, execStateReadAnswer, hchannel, hlinks, List.isEmpty_nil, Bool.and_self, if_true, h]

theorem exec_stateReadAnswer_of_link {s : State} {r : StateRead} {rest : List StateRead} (h : s.bring.reads = r :: rest) (v : Nat) :
    exec (.stateReadAnswer v false) s = .next (s.linkAnswer v false) := by
  have hexec : exec (.stateReadAnswer v false) s = execStateReadAnswer v false s := rfl
  rw [hexec, execStateReadAnswer, h]
  rfl

/-- The answer to the last link's read gives its value to the measure. -/
theorem linkAnswer_of_last {s : State} {r : StateRead} {i w : Nat} {m : LinkMeas} (h : s.bring.reads = [r]) (htime : s.time < r.since + 200)
    (hlink : r.link = some (i, w)) (hm : s.bring.links[i]? = some m) (v : Nat) : s.linkAnswer v false =
      { s with bring := { s.bring with reads := [], links := setAt s.bring.links i (m.put w (v % 2 ^ 32)) } } := by
  have hlimit : usT 2 = 200 := rfl
  have hopen : expireReads s.time s.bring.reads = [r] := by rw [h, expireReads, if_neg (by omega)]
  unfold State.linkAnswer
  simp only [hopen, hlink, hm]
  rfl

/-! ### The end of a copy (R420) -/

theorem bitAt_dumpStatus {b t n : Nat} (hb : b < 2) (ht : t < 2) : bitAt ((b * 2 ^ 30 + t * 2 ^ 29 + stOk % 2 ^ 8 * 2 ^ 16 + n % 2 ^ 13) % 2 ^ 32) 30 = b := by
  have hok : stOk % 2 ^ 8 * 2 ^ 16 = 0 := rfl
  rw [bitAt_eq_div, hok]
  omega

theorem bit_dumpLast (s : State) (d : Dump) : (s.dumpLast d stOk).bit Reg.hubDumpStatus 30 = s.bit Reg.hubDumpStatus 30 := by
  have hval : (s.dumpLast d stOk).reg Reg.hubDumpStatus =
      (b2n (s.bit Reg.hubDumpStatus 30) * 2 ^ 30 + b2n d.truncated * 2 ^ 29 + stOk % 2 ^ 8 * 2 ^ 16 + d.recs.length % 2 ^ 13) % 2 ^ 32 := by
    rw [State.dumpLast, reg_setReg, if_pos rfl]
  have hflag (b : Bool) : b2n b < 2 := by cases b <;> decide
  rw [State.bit, hval, bitAt_dumpStatus (hflag _) (hflag _)]
  cases s.bit Reg.hubDumpStatus 30 <;> rfl

/-- A copy has ended: what HUB_DUMP_STATUS shows, and the count. -/
def State.dumpCounted (s : State) (d : Dump) : State := (({ s with dump := none } : State).dumpLast d stOk).count Reg.hubCntDump

theorem exec_dumpCopyDone_of_copying {s : State} {d : Dump} (h : s.dump = some d) (hcopying : d.copying = true) :
    exec .dumpCopyDone s = .next (((s.retire (fun a => a == .dump)).dumpCounted d).complete d.ticket stOk 0 false) := by
  have hexec : exec .dumpCopyDone s = execDumpCopyDone s := rfl
  simp only [hexec, execDumpCopyDone, h, hcopying, if_true]
  rfl

theorem dumpCounted_leaves (s : State) (d : Dump) : (∃ r, s.dumpCounted d = { s with dump := none, regs := r }) ∧
    (s.dumpCounted d).reg Reg.hubCntDump = min (2 ^ 32 - 1) (s.reg Reg.hubCntDump + 1) ∧
    (s.dumpCounted d).bit Reg.hubDumpStatus 30 = s.bit Reg.hubDumpStatus 30 := by
  have hne : Reg.hubDumpStatus ≠ Reg.hubCntDump := by decide
  have hlast : (({ s with dump := none } : State).dumpLast d stOk).reg Reg.hubCntDump = s.reg Reg.hubCntDump := by
    rw [State.dumpLast, reg_setReg, if_neg hne]
    rfl
  have hstatus : (s.dumpCounted d).reg Reg.hubDumpStatus = (({ s with dump := none } : State).dumpLast d stOk).reg Reg.hubDumpStatus := by
    rw [State.dumpCounted, reg_count, if_neg hne.symm]
  refine ⟨?_, ?_, ?_⟩
  · obtain ⟨r, hr⟩ := (regsOnly_setReg ({ s with dump := none } : State) Reg.hubDumpStatus _).trans (regsOnly_count _ Reg.hubCntDump)
    exact ⟨r, hr⟩
  · rw [State.dumpCounted, reg_count, if_pos rfl, hlast]
  · rw [bit_congr hstatus, bit_dumpLast]
    rfl

/-- Settles O45: the rows of DUMP, the answers one read at a time, and the end of the copy. -/
theorem dumps : Obligations.Dumps := by
  unfold Obligations.Dumps
  refine ⟨fun s q hopc hup hsafe ht hctx hmod himm ha hb hc halive => ?dump, fun s d r v h hreads hstate hskips hruns htime hlinks hroom => ?stateRead,
    fun s d r rest h hreads hskips hruns hearly => ?waiting, fun s d r v h hreads hstate htile hstop hskips hruns htime => ?ladleRead,
    fun s d h hcopying hown hmem => ?copied, fun s r i w m v h htime hlink hm => ?link, fun s h => ?none⟩
  case dump =>
    have hpasses := passes_dump hup hsafe hopc hctx hmod himm ha hb hc halive
    rw [exec_dump]
    refine ⟨fun hscope => ?_, fun hscope hheld => ?_, fun hblock hnone hbit hstall => ?_⟩
    · exact congrArg _ (runCmd_of_rejected hpasses (by rw [body_specDump]; exact dumpBody_of_noScope hscope))
    · exact congrArg _ (runCmd_of_rejected hpasses (by rw [body_specDump]; exact dumpBody_of_held hscope ha hheld))
    · have hio := State.IoOnly.noted s q stPending s.nextTicket
      have hrun := runCmd_of_kept_both (f := (State.blockCollected · (q.cmd s))) (st := stPending) hpasses ht fun w hw => by
        have hjw := State.JournalOnly.of_mem w hw
        rw [body_specDump]
        exact dumpBody_of_block ha hblock ((congrArg State.dump hjw.frame :).trans hnone)
          ((bit_congr (hjw.reg _ (by unfold journalReg; decide)) 30).trans hbit) ((State.IoOnly.of_mem w hw).bothStalled.trans hstall)
      generalize s.noted q stPending s.nextTicket = n at hrun hio
      obtain ⟨⟨fr, sr, m, sb, p0, p1, r, f, t, hframe⟩, hreg⟩ := blockCollected_leaves (hio.bothStalled.trans hstall) (q.cmd s)
      refine ⟨n.blockCollected (q.cmd s), { n.blockDump (q.cmd s) with reads := [], copying := true }, congrArg _ hrun, ?_, rfl, rfl, rfl, rfl, rfl, hreg, ?_⟩
      all_goals rw [hframe]
  case stateRead =>
    have hvalue : s.dumpValue r v = some (v % 2 ^ 32) := if_pos hstate
    rw [exec_stateReadAnswer_of_dump h hreads hstate hlinks, dumpAnswer_of_value hreads hskips hruns htime hvalue]
    rfl
  case waiting => rw [exec_dumpReadResult_of_dump h, dumpAnswer_of_waiting hreads hskips hruns hearly]
  case ladleRead =>
    have hvalue : s.dumpValue r v = some (s.regVal .port (r.addr % 2 ^ 24)) := by simp [State.dumpValue, hstate, htile, hstop]
    rw [exec_dumpReadResult_of_dump h, dumpAnswer_of_value hreads hskips hruns htime hvalue]
    rfl
  case copied =>
    obtain ⟨⟨p0, p1, r, f, t, hretire⟩, hreg⟩ := retire_frame s (fun a => a == .dump)
    have hnext := exec_dumpCopyDone_of_copying h hcopying
    rw [← hreg Reg.hubCntDump (by decide), ← bit_congr (hreg Reg.hubDumpStatus (by decide)), hnext, hretire]
    obtain ⟨⟨r', hframe⟩, hcount, hbit⟩ := dumpCounted_leaves { s with port0 := p0, port1 := p1, regs := r, cfl := f, teardowns := t } d
    rw [← hcount, ← hbit, hframe]
    obtain ⟨j, l, ts, hdone, hts⟩ := complete_core_frame (s := { s with port0 := p0, port1 := p1, regs := r', cfl := f, teardowns := t, dump := none })
      (t := d.ticket) (st := stOk) (own := false) (fun k hk => ⟨2, hown k hk⟩) hmem (.inl (by decide)) 0
    exact ⟨_, congrArg _ hdone, rfl, rfl, hts, rfl⟩
  case link => rw [exec_stateReadAnswer_of_link h, linkAnswer_of_last h htime hlink hm]
  case none =>
    have hcopy : exec .dumpCopyDone s = execDumpCopyDone s := rfl
    have hread (a : Option Nat) : exec (.dumpReadResult a) s = execDumpReadResult a s := rfl
    exact ⟨by rw [hcopy, execDumpCopyDone, h], fun a => by rw [hread, execDumpReadResult, h]⟩

end Sys2Proof.Machine
end

section
/-! Sensors, zones and the throttle level (R426 to R432, R437). -/

namespace Sys2Proof.Machine

/-! ### Entries into a state of a zone -/

/-- The registers that an entry into a state of a zone changes. -/
def zoneRegs : List Nat := [Reg.trvStatus, Reg.trvCntWarn, Reg.trvCntThrottle, Reg.trvCntShutdown, Reg.trvCntRise]

/-- `t` is `s` with other registers of the states of zones, and with no bit of TRV_STATUS lost. -/
structure State.ZoneNoted (s t : State) : Prop where
  regsOnly : s.RegsOnly t
  reg : ∀ a, a ∉ zoneRegs → t.reg a = s.reg a
  bit : ∀ i, i < 32 → s.bit Reg.trvStatus i = true → t.bit Reg.trvStatus i = true

theorem State.ZoneNoted.refl (s : State) : s.ZoneNoted s := ⟨⟨s.regs, rfl⟩, fun _ _ => rfl, fun _ _ h => h⟩

theorem State.ZoneNoted.trans {s t u : State} (h1 : s.ZoneNoted t) (h2 : t.ZoneNoted u) : s.ZoneNoted u where
  regsOnly := h1.regsOnly.trans h2.regsOnly
  reg := fun a ha => (h2.reg a ha).trans (h1.reg a ha)
  bit := fun i hi h => h2.bit i hi (h1.bit i hi h)

/-- A bit of a register stays where others are set. -/
theorem bitAt_or_of_set {n i : Nat} (m : Nat) (hi : i < 32) (h : bitAt n i = 1) : bitAt ((n ||| m) % 2 ^ 32) i = 1 := by
  have hset : n.testBit i = true := by simpa [Nat.testBit, bitAt, Nat.and_comm] using h
  have hor : ((n ||| m) % 2 ^ 32).testBit i = true := by
    rw [Nat.testBit_mod_two_pow]
    simp [hi, hset]
  simpa [Nat.testBit, bitAt, Nat.and_comm] using hor

theorem bit_setBits_of_bit {s : State} {a i : Nat} (m : Nat) (hi : i < 32) (h : s.bit a i = true) : (s.setBits a m).bit a i = true := by
  rw [State.bit, beq_iff_eq] at h ⊢
  rw [reg_setBits, if_pos rfl]
  exact bitAt_or_of_set m hi h

theorem bit_count_of_ne (s : State) {a b : Nat} (h : a ≠ b) (i : Nat) : (s.count a).bit b i = s.bit b i :=
  bit_congr ((reg_count ..).trans (if_neg h)) i

/-- One bit of TRV_STATUS, and a counter of a state. -/
theorem zoneNoted_of_entry (s : State) (m : Nat) {c : Nat} (hc : c ∈ zoneRegs) (hne : c ≠ Reg.trvStatus) :
    s.ZoneNoted ((s.setBits Reg.trvStatus m).count c) where
  regsOnly := (regsOnly_setBits ..).trans (regsOnly_count ..)
  reg := fun a ha => by
    have hac : c ≠ a := fun h => ha (h ▸ hc)
    have has : Reg.trvStatus ≠ a := fun h => ha (h ▸ List.mem_cons_self)
    rw [reg_count, if_neg hac, reg_setBits, if_neg has]
  bit := fun i hi h => by
    rw [bit_count_of_ne _ hne]
    exact bit_setBits_of_bit m hi h

theorem zoneNoted_enterState (s : State) (x : ZoneState) : s.ZoneNoted (s.enterState x) := by
  cases x with
  | normal => exact .refl s
  | warn => exact zoneNoted_of_entry s 1 (by decide) (by decide)
  | throttle => exact zoneNoted_of_entry s 2 (by decide) (by decide)
  | shutdown => exact zoneNoted_of_entry s 4 (by decide) (by decide)
  | rise => exact zoneNoted_of_entry s 8 (by decide) (by decide)

theorem zoneNoted_enterStates (s : State) (l : List ZoneState) : s.ZoneNoted (s.enterStates l) := by
  induction l generalizing s with
  | nil => exact .refl s
  | cons x l ih => exact (zoneNoted_enterState s x).trans (ih _)

/-! ### The evaluation of a zone (R427, R428, R430, R432) -/

/-- Whether a zone enters THROTTLE or RISE from below. -/
def State.zoneUp (s : State) (z : Nat) (dark : Bool) : Bool :=
  (s.zoneNext z (s.zoneBase z dark)).2.contains .throttle && decide ((s.zoneBase z dark).rank < 2) || (s.zoneNext z (s.zoneBase z dark)).2.contains .rise

/-- A zone after its evaluation. -/
def State.zoneJudged (s : State) (z : Nat) (was dark : Bool) : Zone :=
  let v := s.zone z
  let st := (s.zoneNext z (s.zoneBase z dark)).1
  { v with st := st
           level := if s.zoneUp z dark then min 15 (v.level + 1) else v.level
           stepped := if s.zoneUp z dark || v.st.hot != st.hot || (v.st == .shutdown) != (st == .shutdown) then s.time else v.stepped
           temp := (maxTemp (s.zoneSensors z)).getD v.temp
           fast := v.fast || s.fastCond z
           fastHeld := if was || s.fastCond z then s.time else v.fastHeld }

/-- The state of a zone's evaluation, before the time of a hot zone. -/
def State.zonePut (s : State) (z : Nat) (was dark : Bool) : State :=
  (s.enterStates (s.zoneNext z (s.zoneBase z dark)).2).setZone z (s.zoneJudged z was dark)

theorem evalZone_eq (s : State) (z : Nat) (was dark : Bool) : s.evalZone z was dark =
    if s.anyHot || (s.zonePut z was dark).anyHot then
      { s.zonePut z was dark with trv := { (s.zonePut z was dark).trv with hotAt := some s.time } }
    else s.zonePut z was dark := rfl

theorem zone_setZone (s : State) (z : Nat) (v : Zone) (y : Nat) : (s.setZone z v).zone y = if z = y then v else s.zone y := tab_get_set ..

theorem evalZone_leaves (s : State) (z : Nat) (was dark : Bool) : ∃ n hot, s.ZoneNoted n ∧ s.evalZone z was dark =
    { n with trv := { n.trv with zones := Tab.set {} n.trv.zones z (s.zoneJudged z was dark), hotAt := hot } } := by
  have hnoted := zoneNoted_enterStates s (s.zoneNext z (s.zoneBase z dark)).2
  refine ⟨_, if s.anyHot || (s.zonePut z was dark).anyHot then some s.time else (s.zonePut z was dark).trv.hotAt, hnoted, ?_⟩
  rw [evalZone_eq]
  split_ifs <;> rfl

/-- A setting of a zone taken at its sample (R429) changes the settings alone. -/
theorem takeThr_frame (s : State) (z : Nat) : ∃ h n, s.takeThr z = { s with trv := { s.trv with thr := h, thrNext := n } } := by
  unfold State.takeThr
  dsimp only
  split_ifs
  · exact ⟨_, _, rfl⟩
  · exact ⟨s.trv.thr, s.trv.thrNext, rfl⟩

/-- The zone of a sensor evaluated after a sample that has led from `s` to `u`, and the levels recomputed. -/
def State.reevaluated (u s : State) (zo : Option Nat) : State :=
  (match zo with
   | some k => (u.takeThr k).evalZone k (s.fastCond k) (s.blind k)
   | none => u).rebudget

/-- What the evaluation of a zone leaves of the rest. -/
structure State.Evaluated (u t : State) : Prop where
  frame : t = { u with
    trv := { u.trv with thr := t.trv.thr, thrNext := t.trv.thrNext, zones := t.trv.zones, hotAt := t.trv.hotAt, budget := t.trv.budget }, regs := t.regs }
  reg : ∀ a, a ∉ zoneRegs → t.reg a = u.reg a
  bit : ∀ i, i < 32 → u.bit Reg.trvStatus i = true → t.bit Reg.trvStatus i = true

namespace State.Evaluated
variable {u t : State} (h : u.Evaluated t)
include h

theorem trvOnly : t = { u with trv := t.trv, regs := t.regs } :=
  h.frame.trans (congrArg (fun x => { u with trv := x, regs := t.regs }) (congrArg State.trv h.frame :).symm)

theorem sensor (i : Nat) : t.sensor i = u.sensor i := (congrArg (State.sensor · i) h.frame :)
theorem tripped : t.trv.tripped = u.trv.tripped := (congrArg (fun x : State => x.trv.tripped) h.frame :)

end State.Evaluated

theorem trvOnly_trans {s u t : State} (h1 : u = { s with trv := u.trv, regs := u.regs }) (h2 : t = { u with trv := t.trv, regs := t.regs }) :
    t = { s with trv := t.trv, regs := t.regs } :=
  h2.trans (congrArg (fun x : State => { x with trv := t.trv, regs := t.regs }) h1)

theorem reevaluated_none (u s : State) : u.Evaluated (u.reevaluated s none) := ⟨rfl, fun _ _ => rfl, fun _ _ h => h⟩

theorem reevaluated_some (u s : State) (k : Nat) : u.Evaluated (u.reevaluated s (some k)) ∧
    (∀ y, (u.reevaluated s (some k)).zone y = if k = y then (u.takeThr k).zoneJudged k (s.fastCond k) (s.blind k) else u.zone y) ∧
    (∀ y, (u.reevaluated s (some k)).thr y = (u.takeThr k).thr y) ∧ ∀ y, (u.reevaluated s (some k)).zoneSensors y = (u.takeThr k).zoneSensors y := by
  obtain ⟨h, n, hthr⟩ := takeThr_frame u k
  obtain ⟨m, hot, hnoted, heval⟩ := evalZone_leaves (u.takeThr k) k (s.fastCond k) (s.blind k)
  have hall : u.reevaluated s (some k) = ((u.takeThr k).evalZone k (s.fastCond k) (s.blind k)).rebudget := rfl
  rw [hall, heval]
  generalize (u.takeThr k).zoneJudged k (s.fastCond k) (s.blind k) = v
  rw [hthr] at hnoted ⊢
  obtain ⟨hregs, hreg, hbit⟩ := hnoted
  obtain ⟨r, rfl⟩ := hregs
  exact ⟨⟨rfl, hreg, hbit⟩, fun y => tab_get_set .., fun _ => rfl, fun _ => rfl⟩

/-! ### The new state of a logic zone (R428) -/

theorem blind_of_maxTemp {s : State} {z : Nat} {T : Int} (hok : ∀ v ∈ s.zoneSensors z, v.failed = false) (hmax : maxTemp (s.zoneSensors z) = some T) :
    s.blind z = false := by
  have hvalid (l : List Sensor) (m : Int) (h : maxTemp l = some m) : ∃ v ∈ l, v.valid = true := by
    induction l generalizing m with
    | nil => cases h
    | cons v l ih =>
      cases hv : v.valid with
      | true => exact ⟨v, List.mem_cons_self, hv⟩
      | false =>
        rw [maxTemp, hv] at h
        cases hl : maxTemp l with
        | none => simp [hl] at h
        | some m =>
          obtain ⟨w, hw, hwv⟩ := ih m hl
          exact ⟨w, List.mem_cons_of_mem _ hw, hwv⟩
  obtain ⟨v, hv, hvv⟩ := hvalid _ T hmax
  rw [State.blind, Bool.not_eq_false']
  exact List.any_eq_true.2 ⟨v, hv, by simp [hvv, hok v hv]⟩

/-- R428's state by the thresholds alone. -/
def ZoneThr.reached (h : ZoneThr) (T : Int) : ZoneState :=
  if degC h.shutdown ≤ T then .shutdown else if degC h.throttle ≤ T then .throttle else if degC h.warn ≤ T then .warn else .normal

theorem next_normal (h : ZoneThr) (T : Int) : h.next .normal T = h.reached T := rfl

theorem next_throttle {h : ZoneThr} {T : Int} (hlow : degC h.throttle - degC h.hyst ≤ T) (hhigh : T < degC h.shutdown) : h.next .throttle T = .throttle := by
  have hstay : (h.reached T == .shutdown) = false := by
    unfold ZoneThr.reached
    rw [if_neg (Int.not_le.2 hhigh)]
    split_ifs <;> rfl
  have hnext : h.next .throttle T =
      if T < degC h.throttle - degC h.hyst then h.reached T else if h.reached T == .shutdown then .shutdown else .throttle := rfl
  rw [hnext, if_neg (Int.not_lt.2 hlow), hstay]
  rfl

section
variable {s : State} {z : Nat} {T : Int} (hlogic : (s.zoneDef z).mem = false) (hok : ∀ v ∈ s.zoneSensors z, v.failed = false)
  (hmax : maxTemp (s.zoneSensors z) = some T)
include hlogic hok hmax

theorem zoneNext_of_logic (base : ZoneState) : s.zoneNext z base = ((s.thr z).next base T, entered base ((s.thr z).next base T)) := by
  have hforced : (s.zoneSensors z).any (fun x => x.failed) = false := by
    simpa using hok
  simp [State.zoneNext, blind_of_maxTemp hok hmax, hlogic, hforced, hmax]

/-- From NORMAL the thresholds alone decide, and the level goes up on the way into THROTTLE. -/
theorem zoneJudged_of_normal (hst : (s.zone z).st = .normal) (was dark : Bool) : (s.zoneJudged z was dark).st = (s.thr z).reached T ∧
    (s.zoneJudged z was dark).level = if ((s.thr z).reached T).rank < 2 then (s.zone z).level else min 15 ((s.zone z).level + 1) := by
  have hbase : s.zoneBase z dark = .normal := by simp [State.zoneBase, hlogic, hst]
  have hnext := zoneNext_of_logic hlogic hok hmax .normal
  rw [next_normal] at hnext
  unfold State.zoneJudged State.zoneUp
  rw [hbase, hnext]
  refine ⟨rfl, ?_⟩
  have hup (x : ZoneState) (hx : x ≠ .rise) : ((entered .normal x).contains .throttle && decide (ZoneState.normal.rank < 2) ||
      (entered .normal x).contains .rise) = ! decide (x.rank < 2) := by
    cases x with
    | rise => exact absurd rfl hx
    | _ => rfl
  have hne : (s.thr z).reached T ≠ .rise := by
    unfold ZoneThr.reached
    split_ifs <;> decide
  dsimp only
  rw [hup _ hne]
  by_cases hrank : ((s.thr z).reached T).rank < 2 <;> simp [hrank]

/-- Between its hysteresis and SHUTDOWN a zone stays in THROTTLE, at its level. -/
theorem zoneJudged_of_throttle (hst : (s.zone z).st = .throttle) (hlow : degC (s.thr z).throttle - degC (s.thr z).hyst ≤ T)
    (hhigh : T < degC (s.thr z).shutdown) (was dark : Bool) :
    (s.zoneJudged z was dark).st = .throttle ∧ (s.zoneJudged z was dark).level = (s.zone z).level := by
  have hbase : s.zoneBase z dark = .throttle := by simp [State.zoneBase, hlogic, hst]
  have hnext := zoneNext_of_logic hlogic hok hmax .throttle
  rw [next_throttle hlow hhigh] at hnext
  unfold State.zoneJudged State.zoneUp
  rw [hbase, hnext]
  exact ⟨rfl, rfl⟩

end

/-- A zone without a valid sensor is in SHUTDOWN (R427). -/
theorem zoneJudged_of_blind {s : State} {z : Nat} (h : ∀ v ∈ s.zoneSensors z, v.valid = false ∨ v.failed = true) (was dark : Bool) :
    (s.zoneJudged z was dark).st = .shutdown := by
  have hblind : s.blind z = true := by
    rw [State.blind, Bool.not_eq_true', List.any_eq_false]
    intro v hv
    rcases h v hv with hv | hv <;> simp [hv]
  simp [State.zoneJudged, State.zoneNext, hblind]

/-! ### Samples (R427, R437) -/

theorem sensor_setSensor (s : State) (i : Nat) (v : Sensor) (j : Nat) : (s.setSensor i v).sensor j = if i = j then v else s.sensor j := tab_get_set ..

/-- The limit of a sensor's strap. -/
def State.hardLimit (s : State) (i : Nat) : Int := degC (if s.memFirst ≤ i then s.hardMem else s.hardLogic)

/-- The trip capture. -/
def tripRegs : List Nat := [Reg.trvTripCap, Reg.trvTripTimeLo, Reg.trvTripTimeHi]

/-- The capture of a trip. -/
def State.tripCaptured (s : State) (v : Nat) : State :=
  ((s.setReg Reg.trvTripCap v).setReg Reg.trvTripTimeLo s.time).setReg Reg.trvTripTimeHi (s.time / 2 ^ 32)

theorem tripCaptured_leaves (s : State) (v : Nat) : s.RegsOnly (s.tripCaptured v) ∧ ∀ a, a ∉ tripRegs → (s.tripCaptured v).reg a = s.reg a := by
  refine ⟨((regsOnly_setReg ..).trans (regsOnly_setReg ..)).trans (regsOnly_setReg ..), fun a ha => ?_⟩
  have hne {b : Nat} (hb : b ∈ tripRegs) : b ≠ a := fun h => ha (h ▸ hb)
  rw [State.tripCaptured, reg_setReg, if_neg (hne (by decide)), reg_setReg, if_neg (hne (by decide)), reg_setReg, if_neg (hne (by decide))]

/-- The word of a capture: the sensor, its kind and the value. -/
def State.tripWord (s : State) (i : Nat) (t : Int) : Nat := 2 ^ 31 + b2n (decide (s.memFirst ≤ i)) * 2 ^ 25 + i % 2 ^ 9 * 2 ^ 16 + wrapInt 16 t

/-- A trip, before its capture. -/
def State.tripping (s : State) : State := { s with trv := { s.trv with tripped := true } }

theorem hardTrip_eq (s : State) (i : Nat) (t : Int) : s.hardTrip i t =
    if t < s.hardLimit i then s else if s.tripping.bit Reg.trvTripCap 31 then s.tripping else s.tripping.tripCaptured (s.tripWord i t) := by
  have hlimit : degC (if decide (s.memFirst ≤ i) = true then s.hardMem else s.hardLogic) = s.hardLimit i := by simp [State.hardLimit]
  unfold State.hardTrip
  dsimp only
  rw [hlimit]
  rfl

theorem hardTrip_leaves (s : State) (i : Nat) (t : Int) : (∃ r, s.hardTrip i t = { s with
      trv := { s.trv with tripped := s.trv.tripped || decide (s.hardLimit i ≤ t) }, regs := r }) ∧
    ∀ a, a ∉ tripRegs → (s.hardTrip i t).reg a = s.reg a := by
  rw [hardTrip_eq]
  by_cases hbelow : t < s.hardLimit i
  · rw [if_pos hbelow, decide_eq_false (Int.not_le.2 hbelow), Bool.or_false]
    exact ⟨⟨s.regs, rfl⟩, fun _ _ => rfl⟩
  · rw [if_neg hbelow, decide_eq_true (Int.not_lt.1 hbelow), Bool.or_true]
    obtain ⟨⟨r, hr⟩, hreg⟩ := tripCaptured_leaves s.tripping (s.tripWord i t)
    split_ifs
    · exact ⟨⟨s.regs, rfl⟩, fun _ _ => rfl⟩
    · exact ⟨⟨r, hr⟩, hreg⟩

/-- A sensor after a sample that is not valid. -/
def Sensor.missed (v : Sensor) : Sensor := { v with invalid := min 3 (v.invalid + 1), failed := v.failed || decide (2 ≤ v.invalid) }

theorem invalidSample_eq (s : State) (i : Nat) : s.invalidSample i =
    if (s.sensor i).failed = false ∧ 2 ≤ (s.sensor i).invalid then ((s.setSensor i (s.sensor i).missed).setBits Reg.trvStatus 32).count Reg.trvCntSensorFail
    else s.setSensor i (s.sensor i).missed := by
  have hthree (n : Nat) : decide (3 ≤ n + 1) = decide (2 ≤ n) := decide_eq_decide.2 (by omega)
  unfold State.invalidSample
  dsimp only
  rw [hthree]
  by_cases h : (s.sensor i).failed = false ∧ 2 ≤ (s.sensor i).invalid
  · rw [if_pos h, if_pos (by simp [h])]
    rfl
  · rw [if_neg h, if_neg (by simpa using h)]
    rfl

section
variable {s : State} {i w : Nat} (hi : i < min 256 s.cfg.sensors)
include hi

theorem exec_sensorSample_of_valid (hok : sampleOk i w = true) : exec (.sensorSample i w) s =
    .next (((s.setSensor i ((s.sensor i).take s.time (sampleValue w))).hardTrip i (sampleValue w)).reevaluated s (s.trv.curve.zoneOf i)) := by
  have hexec : exec (.sensorSample i w) s = execSensorSample i w s := rfl
  simp only [hexec, execSensorSample, if_pos hi, State.sample, hok, if_true]
  cases s.trv.curve.zoneOf i <;> rfl

theorem exec_sensorSample_of_invalid (hbad : sampleOk i w = false) : exec (.sensorSample i w) s =
    .next ((s.invalidSample i).reevaluated s (s.trv.curve.zoneOf i)) := by
  have hexec : exec (.sensorSample i w) s = execSensorSample i w s := rfl
  simp only [hexec, execSensorSample, if_pos hi, State.sample, hbad, Bool.false_eq_true, if_false]
  cases s.trv.curve.zoneOf i <;> rfl

end

theorem reevaluated_leaves (u s : State) (zo : Option Nat) : u.Evaluated (u.reevaluated s zo) ∧
    ∀ z, zo ≠ some z → (u.reevaluated s zo).zone z = u.zone z := by
  cases zo with
  | none => exact ⟨reevaluated_none u s, fun _ _ => rfl⟩
  | some k =>
    obtain ⟨hleft, hzone, -, -⟩ := reevaluated_some u s k
    exact ⟨hleft, fun z hz => (hzone z).trans (if_neg fun h => hz (congrArg some h))⟩

/-- The state after a valid sample, before its zone is evaluated. -/
def State.sampled (s : State) (i w : Nat) : State := (s.setSensor i ((s.sensor i).take s.time (sampleValue w))).hardTrip i (sampleValue w)

theorem sampled_leaves (s : State) (i w : Nat) : (∃ r, s.sampled i w = { s with
      trv := { s.trv with
        sensors := Tab.set {} s.trv.sensors i ((s.sensor i).take s.time (sampleValue w))
        tripped := s.trv.tripped || decide (s.hardLimit i ≤ sampleValue w) }
      regs := r }) ∧ ∀ a, a ∉ tripRegs → (s.sampled i w).reg a = s.reg a := by
  obtain ⟨⟨r, htrip⟩, hreg⟩ := hardTrip_leaves (s.setSensor i ((s.sensor i).take s.time (sampleValue w))) i (sampleValue w)
  exact ⟨⟨r, htrip⟩, hreg⟩

theorem missed_leaves (s : State) (i : Nat) : (∃ r, s.invalidSample i = { s with
      trv := { s.trv with sensors := Tab.set {} s.trv.sensors i (s.sensor i).missed }, regs := r }) ∧
    ((s.sensor i).failed = false → 2 ≤ (s.sensor i).invalid →
      (s.invalidSample i).reg Reg.trvCntSensorFail = min (2 ^ 32 - 1) (s.reg Reg.trvCntSensorFail + 1) ∧ (s.invalidSample i).bit Reg.trvStatus 5 = true) ∧
    ((s.sensor i).failed = true ∨ (s.sensor i).invalid < 2 → (s.invalidSample i).reg Reg.trvCntSensorFail = s.reg Reg.trvCntSensorFail) := by
  rw [invalidSample_eq]
  split_ifs with h
  · obtain ⟨r, hr⟩ := (regsOnly_setBits (s.setSensor i (s.sensor i).missed) Reg.trvStatus 32).trans (regsOnly_count _ Reg.trvCntSensorFail)
    have hne : Reg.trvStatus ≠ Reg.trvCntSensorFail := by decide
    have hbit := bit_setBits_self (s.setSensor i (s.sensor i).missed) Reg.trvStatus (i := 5) (by decide)
    refine ⟨⟨r, hr⟩, fun _ _ => ⟨?_, ?_⟩, fun hno => ?_⟩
    · rw [reg_count, if_pos rfl, reg_setBits, if_neg hne]
      rfl
    · rw [bit_count_of_ne _ hne.symm]
      exact hbit
    · obtain ⟨hgood, htwo⟩ := h
      rcases hno with hfailed | hfew
      · simp [hgood] at hfailed
      · omega
  · exact ⟨⟨s.regs, rfl⟩, fun hgood htwo => absurd ⟨hgood, htwo⟩ h, fun _ => rfl⟩

/-! ### Fast sampling and the steps of a level (R426, R432) -/

theorem exec_fastSamplingExit (s : State) (z : Nat) : exec (.fastSamplingExit z) s =
    .next (if (s.zone z).fast && ! s.fastCond z && decide ((s.zone z).fastHeld + 400000 ≤ s.time) then s.setZone z { s.zone z with fast := false } else s) := by
  have hexec : exec (.fastSamplingExit z) s = execFastSamplingExit z s := rfl
  have hms : msT 4 = 400000 := rfl
  rw [hexec, execFastSamplingExit]
  simp only [hms]

/-- The level of a zone after one STEP_US. -/
def Zone.stepLevel (v : Zone) : Nat :=
  match v.st with
  | .throttle => min 15 (v.level + 1)
  | .rise => min 15 (v.level + 1)
  | .shutdown => v.level
  | _ => v.level - 1

theorem stepZone_leaves (s : State) (z : Nat) : (∃ zs, s.stepZone z = { s with trv := { s.trv with zones := zs } }) ∧
    (∀ y, y ≠ z → (s.stepZone z).zone y = s.zone y) ∧ (s.time < (s.zone z).stepped + s.stepTime → (s.stepZone z).zone z = s.zone z) ∧
    ((s.zone z).stepped + s.stepTime ≤ s.time → ((s.stepZone z).zone z).st = (s.zone z).st ∧ ((s.stepZone z).zone z).level = (s.zone z).stepLevel) := by
  have hstep : s.stepZone z = if s.time < (s.zone z).stepped + s.stepTime then s else if (s.zone z).stepLevel = (s.zone z).level then s else
      s.setZone z { s.zone z with level := (s.zone z).stepLevel, stepped := (s.zone z).stepped + s.stepTime } := rfl
  rw [hstep]
  split_ifs with hearly hsame
  · exact ⟨⟨s.trv.zones, rfl⟩, fun _ _ => rfl, fun _ => rfl, fun hdue => absurd hdue (Nat.not_le.2 hearly)⟩
  · exact ⟨⟨s.trv.zones, rfl⟩, fun _ _ => rfl, fun _ => rfl, fun _ => ⟨rfl, hsame.symm⟩⟩
  · have hzone := zone_setZone s z { s.zone z with level := (s.zone z).stepLevel, stepped := (s.zone z).stepped + s.stepTime }
    refine ⟨⟨_, rfl⟩, fun y hy => (hzone y).trans (if_neg (Ne.symm hy)), fun h => absurd h hearly, fun _ => ?_⟩
    rw [hzone, if_pos rfl]
    exact ⟨rfl, rfl⟩

theorem stepZones_leaves (s : State) {l : List Nat} (hnodup : l.Nodup) : (∃ zs, s.stepZones l = { s with trv := { s.trv with zones := zs } }) ∧
    (∀ z, z ∉ l → (s.stepZones l).zone z = s.zone z) ∧ ∀ z ∈ l, (s.time < (s.zone z).stepped + s.stepTime → (s.stepZones l).zone z = s.zone z) ∧
      ((s.zone z).stepped + s.stepTime ≤ s.time → ((s.stepZones l).zone z).st = (s.zone z).st ∧ ((s.stepZones l).zone z).level = (s.zone z).stepLevel) := by
  induction l generalizing s with
  | nil => exact ⟨⟨s.trv.zones, rfl⟩, fun _ _ => rfl, fun _ h => absurd h List.not_mem_nil⟩
  | cons x l ih =>
    obtain ⟨hnotin, hnodup⟩ := List.nodup_cons.1 hnodup
    obtain ⟨⟨zs, hone⟩, hother, hself⟩ := stepZone_leaves s x
    obtain ⟨⟨zs', hrest⟩, hkept, hstepped⟩ := ih (s.stepZone x) hnodup
    have htime : (s.stepZone x).time = s.time := by rw [hone]
    have hstep : (s.stepZone x).stepTime = s.stepTime := by
      rw [hone]
      rfl
    refine ⟨⟨zs', by rw [State.stepZones, hrest, hone]⟩, fun z hz => ?_, fun z hz => ?_⟩
    · obtain ⟨hne, hz⟩ := not_or.1 (mt List.mem_cons.2 hz)
      exact (hkept z hz).trans (hother z hne)
    · rcases List.mem_cons.1 hz with rfl | hz
      · rw [State.stepZones, hkept z hnotin]
        exact hself
      · have h := hstepped z hz
        rw [hother z fun heq => hnotin (heq ▸ hz), htime, hstep] at h
        exact h

/-- Settles O48: a sample through the evaluation of its zone, and the steps zone by zone. -/
theorem sensorsAndZones : Obligations.SensorsAndZones := by
  unfold Obligations.SensorsAndZones
  refine ⟨fun s i w hi hok => ?valid, fun s i w hi hbad => ?invalid, fun s i w hi => ?none, fun s z hfast hcond htime => ?ends, fun s z h => ?stays,
    fun s => ?steps⟩
  case valid =>
    obtain ⟨⟨r, hsampled⟩, hreg⟩ := sampled_leaves s i w
    obtain ⟨hleft, hother⟩ := reevaluated_leaves (s.sampled i w) s (s.trv.curve.zoneOf i)
    have hsensor (j : Nat) : ((s.sampled i w).reevaluated s (s.trv.curve.zoneOf i)).sensor j =
        if i = j then (s.sensor i).take s.time (sampleValue w) else s.sensor j := by
      rw [hleft.sensor, hsampled]
      exact sensor_setSensor ..
    have hzone (z : Nat) : (s.sampled i w).zone z = s.zone z := by
      rw [hsampled]
      rfl
    refine ⟨_, exec_sensorSample_of_valid hi hok, (hsensor i).trans (if_pos rfl), fun j hj => (hsensor j).trans (if_neg (Ne.symm hj)), ?_,
      fun z hz => (hother z hz).trans (hzone z), ?_, fun a ha => ?_, ?_⟩
    · have htripped : (s.sampled i w).trv.tripped = (s.trv.tripped || decide (s.hardLimit i ≤ sampleValue w)) := by rw [hsampled]
      refine (Bool.eq_iff_iff.1 (hleft.tripped.trans htripped)).trans ?_
      rw [Bool.or_eq_true, decide_eq_true_eq, State.hardLimit]
    · intro z T h hz hlogic hgood hmax hh
      obtain ⟨-, hjudged, hthr, hsensors⟩ := reevaluated_some (s.sampled i w) s z
      rw [hz] at hgood hmax ⊢
      change ∀ v ∈ ((s.sampled i w).reevaluated s (some z)).zoneSensors z, v.failed = false at hgood
      change maxTemp (((s.sampled i w).reevaluated s (some z)).zoneSensors z) = some T at hmax
      rw [hsensors] at hgood hmax
      have hin : ((s.sampled i w).takeThr z).thr z = h := by
        rw [← hh, thr_takeThr, thr_takeThr, hsampled]
        rfl
      have hdef : (((s.sampled i w).takeThr z).zoneDef z).mem = false ∧ ((s.sampled i w).takeThr z).zone z = s.zone z := by
        obtain ⟨h', n, htake⟩ := takeThr_frame (s.sampled i w) z
        rw [htake, hsampled]
        exact ⟨hlogic, rfl⟩
      obtain ⟨hmem, hkept⟩ := hdef
      have hafter := (hjudged z).trans (if_pos rfl)
      refine ⟨(hthr z).trans hin, ?_, fun hst => ?_, fun hst hlow hhigh => ?_⟩
      · refine (congrArg Zone.temp hafter).trans ?_
        rw [State.zoneJudged, hmax]
        rfl
      · obtain ⟨hnew, hlevel⟩ := zoneJudged_of_normal hmem hgood hmax (by rw [hkept, hst]) (s.fastCond z) (s.blind z)
        rw [hin] at hnew hlevel
        rw [hkept] at hlevel
        have hstate := (congrArg Zone.st hafter).trans hnew
        refine ⟨hstate, (congrArg Zone.level hafter).trans (hlevel.trans ?_)⟩
        rw [← hstate]
        rfl
      · obtain ⟨hnew, hlevel⟩ := zoneJudged_of_throttle hmem hgood hmax (by rw [hkept, hst]) (by rw [hin]; exact hlow) (by rw [hin]; exact hhigh)
          (s.fastCond z) (s.blind z)
        exact ⟨(congrArg Zone.st hafter).trans hnew, (congrArg Zone.level hafter).trans (hlevel.trans (by rw [hkept]))⟩
    · refine (hleft.reg a fun h => ha ?_).trans (hreg a fun h => ha ?_)
      · revert h
        simp only [zoneRegs, List.mem_cons, List.not_mem_nil, or_false]
        tauto
      · revert h
        simp only [tripRegs, List.mem_cons, List.not_mem_nil, or_false]
        tauto
    · exact trvOnly_trans (by rw [hsampled]) hleft.trvOnly
  case invalid =>
    obtain ⟨⟨r, hmissed⟩, hthird, hfew⟩ := missed_leaves s i
    obtain ⟨hleft, -⟩ := reevaluated_leaves (s.invalidSample i) s (s.trv.curve.zoneOf i)
    have hsensor (j : Nat) : ((s.invalidSample i).reevaluated s (s.trv.curve.zoneOf i)).sensor j = if i = j then (s.sensor i).missed else s.sensor j := by
      rw [hleft.sensor, hmissed]
      exact sensor_setSensor ..
    have hcount := hleft.reg Reg.trvCntSensorFail (by decide)
    refine ⟨_, exec_sensorSample_of_invalid hi hbad, (hsensor i).trans (if_pos rfl), fun j hj => (hsensor j).trans (if_neg (Ne.symm hj)), ?_,
      fun hgood htwo => ⟨hcount.trans (hthird hgood htwo).1, hleft.bit 5 (by decide) (hthird hgood htwo).2⟩, fun h => hcount.trans (hfew h),
      fun z hz hdark => ?_, ?_⟩
    · rw [hleft.tripped, hmissed]
    · obtain ⟨-, hjudged, -, hsensors⟩ := reevaluated_some (s.invalidSample i) s z
      rw [hz] at hdark ⊢
      change ∀ v ∈ ((s.invalidSample i).reevaluated s (some z)).zoneSensors z, v.valid = false ∨ v.failed = true at hdark
      rw [hsensors] at hdark
      exact (congrArg Zone.st ((hjudged z).trans (if_pos rfl))).trans (zoneJudged_of_blind hdark ..)
    · exact trvOnly_trans (by rw [hmissed]) hleft.trvOnly
  case none =>
    have hexec : exec (.sensorSample i w) s = execSensorSample i w s := rfl
    rw [hexec, execSensorSample, if_neg (Nat.not_lt.2 hi)]
  case ends => rw [exec_fastSamplingExit, if_pos (by simp [hfast, hcond, htime])]
  case stays =>
    rw [exec_fastSamplingExit, if_neg]
    rcases h with h | h
    · simp [h]
    · simp [Nat.not_le.2 h]
  case steps =>
    have hexec : exec .throttleStep s = .next (s.stepZones (List.range s.zoneCount)) := rfl
    obtain ⟨⟨zs, hframe⟩, hout, hin⟩ := stepZones_leaves s (List.nodup_range (n := s.zoneCount))
    refine ⟨_, hexec, by rw [hframe], fun z hz => hout z (by simpa using hz), fun z hz => (hin z (List.mem_range.2 hz)).1,
      fun z hz => (hin z (List.mem_range.2 hz)).2⟩

end Sys2Proof.Machine
end

section
/-! The poll of the rails, their timeouts and alerts, and BUDGET (R429, R434, R443). -/

namespace Sys2Proof.Machine

/-! ### The rails of a round (R434) -/

theorem takeLimit_eq (s : State) : s.takeLimit = { s with trv := { s.trv with
    limit := (match s.trv.limitNext with | some l => some l | none => s.trv.limit), limitNext := none } } := by
  have hnone (h : s.trv.limitNext = none) : s.trv = { s.trv with limitNext := none } := by rw [← h]
  unfold State.takeLimit
  cases h : s.trv.limitNext with
  | none => exact congrArg (fun x => { s with trv := x }) (hnone h)
  | some l => rfl

theorem rail_setRail (s : State) (i : Nat) (v : Rail) (j : Nat) : (s.setRail i v).rail j = if i = j then v else s.rail j := tab_get_set ..

/-- A round in which every transaction has completed. -/
theorem pollRails_leaves (s : State) (i : Nat) (ws : List Nat) : (∃ rs, s.pollRails i (ws.map some) = { s with trv := { s.trv with rails := rs } }) ∧
    (∀ j, j < i → (s.pollRails i (ws.map some)).rail j = s.rail j) ∧
    ∀ k, k < ws.length → (s.pollRails i (ws.map some)).rail (i + k) = { mw := linear11 (ws[k]?.getD 0), fails := 0 } := by
  induction ws generalizing s i with
  | nil => exact ⟨⟨s.trv.rails, rfl⟩, fun _ _ => rfl, fun _ h => absurd h (Nat.not_lt_zero _)⟩
  | cons w ws ih =>
    obtain ⟨⟨rs, hframe⟩, hbelow, hrails⟩ := ih (s.setRail i { mw := linear11 w, fails := 0 }) (i + 1)
    have hone := rail_setRail s i { mw := linear11 w, fails := 0 }
    refine ⟨⟨rs, hframe⟩, fun j hj => ?_, fun k hk => ?_⟩
    · exact (hbelow j (by omega)).trans ((hone j).trans (if_neg (by omega)))
    · cases k with
      | zero => exact (hbelow i (by omega)).trans ((hone i).trans (if_pos rfl))
      | succ k =>
        have hnext := hrails k (by simpa using hk)
        rw [Nat.add_right_comm, Nat.add_assoc] at hnext
        exact hnext

/-- The die power is the sum over the counted rails (R434). -/
theorem diePower_of_polled {s : State} {ws : List Nat} (hlen : ws.length = s.trv.curve.rails.length)
    (h : ∀ k, k < ws.length → s.rail k = { mw := linear11 (ws[k]?.getD 0), fails := 0 }) :
    s.diePower = ((s.trv.curve.rails.zip ws).map (fun p => if p.1.counted then linear11 p.2 else 0)).sum := by
  rw [State.diePower, ← List.sum_eq_foldl]
  refine congrArg List.sum (List.ext_getElem (by simp [hlen]) fun k hk hk' => ?_)
  have hkw : k < ws.length := by
    rw [List.length_map, List.length_zipIdx] at hk
    omega
  simp only [List.getElem_map, List.getElem_zipIdx, List.getElem_zip, State.railPower, Nat.zero_add, h k hkw, List.getElem?_eq_getElem hkw, Option.getD_some]
  cases (s.trv.curve.rails[k]'(hlen ▸ hkw)).counted <;> rfl

/-! ### The power level (R434) -/

/-- What a poll leaves beside the power: the level by R434's bands, with the step up counted and shown. -/
theorem stepPower_leaves (s : State) : (∃ l r, s.stepPower = { s with trv := { s.trv with power := s.diePower, powerLevel := l }, regs := r }) ∧
    (s.limitW * 1000 < s.diePower → s.trv.powerLevel < 15 → s.stepPower.trv.powerLevel = s.trv.powerLevel + 1 ∧ s.stepPower.bit Reg.trvStatus 4 = true ∧
      s.stepPower.reg Reg.trvCntPower = min (2 ^ 32 - 1) (s.reg Reg.trvCntPower + 1)) ∧
    (16 * s.diePower < 15 * (s.limitW * 1000) → s.stepPower.trv.powerLevel = s.trv.powerLevel - 1) ∧
    (s.diePower ≤ s.limitW * 1000 → 15 * (s.limitW * 1000) ≤ 16 * s.diePower → s.stepPower.trv.powerLevel = s.trv.powerLevel) ∧
    ∀ a, a ≠ Reg.trvStatus → a ≠ Reg.trvCntPower → s.stepPower.reg a = s.reg a := by
  have hne : Reg.trvStatus ≠ Reg.trvCntPower := by decide
  have hstep : s.stepPower = if s.limitW * 1000 < s.diePower ∧ s.trv.powerLevel < 15 then
        (({ s with trv := { s.trv with power := s.diePower, powerLevel := s.trv.powerLevel + 1 } } : State).count Reg.trvCntPower).setBits Reg.trvStatus 16
      else if 16 * s.diePower < 15 * (s.limitW * 1000) then { s with trv := { s.trv with power := s.diePower, powerLevel := s.trv.powerLevel - 1 } }
      else { s with trv := { s.trv with power := s.diePower } } := rfl
  generalize s.diePower = p at hstep
  generalize s.limitW * 1000 = l at hstep
  rw [hstep]
  split_ifs with hup hdown
  · obtain ⟨r, hr⟩ := (regsOnly_count ({ s with trv := { s.trv with power := p, powerLevel := s.trv.powerLevel + 1 } } : State) Reg.trvCntPower).trans
      (regsOnly_setBits _ Reg.trvStatus 16)
    refine ⟨⟨_, r, hr⟩, fun _ _ => ⟨rfl, bit_setBits_self _ _ (i := 4) (by decide), ?_⟩, fun h => by omega, fun h => by omega, fun a ha hc => ?_⟩
    · rw [reg_setBits, if_neg hne, reg_count, if_pos rfl]
      rfl
    · rw [reg_setBits, if_neg (Ne.symm ha), reg_count, if_neg (Ne.symm hc)]
      rfl
  · exact ⟨⟨_, s.regs, rfl⟩, fun h h' => absurd ⟨h, h'⟩ hup, fun _ => rfl, fun _ h => by omega, fun _ _ _ => rfl⟩
  · exact ⟨⟨s.trv.powerLevel, s.regs, rfl⟩, fun h h' => absurd ⟨h, h'⟩ hup, fun h => absurd h hdown, fun _ _ => rfl, fun _ _ _ => rfl⟩

/-! ### A round (R429, R434) -/

/-- The words of READ_POUT asked for in a round. -/
def State.polled (s : State) (ws : List Nat) : State :=
  (s.takeLimit.emits (s.trv.curve.rails.map (fun r => .pmb r.addr r.page pmbReadPout))).pollRails 0 (ws.map some)

theorem exec_powerPoll {s : State} {ws : List Nat} (hlen : ws.length = s.trv.curve.rails.length) :
    exec (.powerPoll (ws.map some)) s = .next ((s.polled ws).stepPower).rebudget := by
  have hexec : exec (.powerPoll (ws.map some)) s = execPowerPoll (ws.map some) s := rfl
  have htake : (ws.map some).take s.trv.curve.rails.length = ws.map some := List.take_of_length_le (by simp [hlen])
  rw [hexec, execPowerPoll]
  simp only [htake]
  rfl

theorem polled_leaves (s : State) (ws : List Nat) : (∃ rs, s.polled ws = { s with
      trv := { s.trv with
        limit := (match s.trv.limitNext with | some l => some l | none => s.trv.limit), limitNext := none, rails := rs }
      out := s.out ++ s.trv.curve.rails.map (fun r => .pmb r.addr r.page pmbReadPout) }) ∧
    ∀ k, k < ws.length → (s.polled ws).rail k = { mw := linear11 (ws[k]?.getD 0), fails := 0 } := by
  obtain ⟨⟨rs, hframe⟩, -, hrails⟩ := pollRails_leaves (s.takeLimit.emits (s.trv.curve.rails.map (fun r => .pmb r.addr r.page pmbReadPout))) 0 ws
  refine ⟨⟨rs, ?_⟩, fun k hk => ?_⟩
  · rw [State.polled, hframe, takeLimit_eq]
    rfl
  · have h := hrails k hk
    rwa [Nat.zero_add] at h

/-! ### A transaction that fails (R434) -/

theorem railFail_leaves (s : State) (k : Nat) : (s.railFail k).rail k = { s.rail k with fails := min 3 ((s.rail k).fails + 1) } ∧
    (∀ j, j ≠ k → (s.railFail k).rail j = s.rail j) ∧ (s.railFail k).bit Reg.trvStatus 6 = true ∧
    (s.railFail k).reg Reg.trvCntPmbErr = min (2 ^ 32 - 1) (s.reg Reg.trvCntPmbErr + 1) ∧
    (∀ a, a ≠ Reg.trvStatus → a ≠ Reg.trvCntPmbErr → (s.railFail k).reg a = s.reg a) ∧
    s.railFail k = { s with trv := { s.trv with rails := (s.railFail k).trv.rails }, regs := (s.railFail k).regs } := by
  have hne : Reg.trvStatus ≠ Reg.trvCntPmbErr := by decide
  have hrail := rail_setRail s k { s.rail k with fails := min 3 ((s.rail k).fails + 1) }
  have hfail : s.railFail k =
    ((s.setRail k { s.rail k with fails := min 3 ((s.rail k).fails + 1) }).count Reg.trvCntPmbErr).setBits Reg.trvStatus 64 := rfl
  obtain ⟨r, hr⟩ := (regsOnly_count (s.setRail k { s.rail k with fails := min 3 ((s.rail k).fails + 1) }) Reg.trvCntPmbErr).trans
    (regsOnly_setBits _ Reg.trvStatus 64)
  refine ⟨?_, fun j hj => ?_, bit_setBits_self _ _ (i := 6) (by decide), ?_, fun a ha hc => ?_, ?_⟩
  · rw [hfail, hr]
    exact (hrail k).trans (if_pos rfl)
  · rw [hfail, hr]
    exact (hrail j).trans (if_neg (Ne.symm hj))
  · rw [hfail, reg_setBits, if_neg hne, reg_count, if_pos rfl]
    rfl
  · rw [hfail, reg_setBits, if_neg (Ne.symm ha), reg_count, if_neg (Ne.symm hc)]
    rfl
  · rw [hfail, hr]
    rfl

/-! ### The record of BUDGET (R443) -/

/-- A field behind the head of a record. -/
theorem leAt_append_of_length {a : Bytes} {off : Nat} (h : a.length = off) (b : Bytes) (o n : Nat) : leAt (a ++ b) (off + o) n = leAt b o n := by
  subst h
  rw [leAt, leAt, slice, slice, List.drop_length_add_append]

theorem length_freeBytes (k n : Nat) : (freeBytes k n).length = n := by simp [freeBytes]

theorem length_hotBytes (s : State) : s.hotBytes.length = 4 := by
  unfold State.hotBytes
  split
  · simp
  · exact length_freeBytes ..

theorem code_lt (x : ZoneState) : x.code < 256 := by cases x <;> decide

/-- The levels of the partitions, and what follows them. -/
def State.budgetTail (s : State) : Bytes :=
  (List.range 16).flatMap (fun k => toLe 1 ((s.trv.budget[k]?).getD 0))
    ++ toLe 4 (maskBy 32 (fun d => decide (d < s.cfg.clkDomains) && decide (0 < s.domLevel d)))
    ++ toLe 4 (maskBy 32 (fun d => decide (d < s.cfg.clkDomains) && s.domStopped d)) ++ zeros 8

theorem length_budgetTail (s : State) : s.budgetTail.length = 32 := by
  have hlevels : ((List.range 16).flatMap (fun k => toLe 1 ((s.trv.budget[k]?).getD 0))).length = 16 := by simp [List.length_flatMap]
  simp only [State.budgetTail, List.length_append, hlevels, length_toLe, zeros, List.length_replicate]

theorem budgetRecord_eq (s : State) : s.budgetRecord = toLe 4 s.trv.power ++ (toLe 4 (s.limitW * 1000) ++
    (toLe 4 (s.reg Reg.trvGrant % 2 ^ 16 * 10) ++ (s.hotBytes ++ (toLe 8 s.time ++ (zeros 8 ++ s.budgetTail))))) := by
  simp only [State.budgetRecord, State.budgetTail, List.append_assoc]

theorem length_budgetRecord (s : State) : s.budgetRecord.length = 64 := by
  simp only [budgetRecord_eq, List.length_append, length_toLe, length_hotBytes, length_budgetTail, zeros, List.length_replicate]

theorem leAt_budgetRecord_hot (s : State) (o n : Nat) : leAt s.budgetRecord (12 + o) n =
    leAt (s.hotBytes ++ (toLe 8 s.time ++ (zeros 8 ++ s.budgetTail))) o n := by
  have hhead : (toLe 4 s.trv.power ++ (toLe 4 (s.limitW * 1000) ++ toLe 4 (s.reg Reg.trvGrant % 2 ^ 16 * 10))).length = 12 := by simp
  have hbehind := leAt_append_of_length hhead (s.hotBytes ++ (toLe 8 s.time ++ (zeros 8 ++ s.budgetTail))) o n
  simp only [List.append_assoc] at hbehind
  rw [budgetRecord_eq]
  exact hbehind

theorem budgetRecord_fields (s : State) : leAt s.budgetRecord 0 4 = s.trv.power % 2 ^ 32 ∧ leAt s.budgetRecord 4 4 = s.limitW * 1000 % 2 ^ 32 ∧
    leAt s.budgetRecord 16 8 = s.time % 2 ^ 64 := by
  refine ⟨?_, ?_, ?_⟩
  · rw [budgetRecord_eq, leAt_toLe_append]
    norm_num
  · rw [budgetRecord_eq, leAt_append_of_length (off := 4) (length_toLe ..) _ 0, leAt_toLe_append]
    norm_num
  · rw [leAt_budgetRecord_hot s 4, leAt_append_of_length (off := 4) (length_hotBytes s) _ 0, leAt_toLe_append]
    norm_num

theorem budgetRecord_hot {s : State} {z : Nat} (h : s.hotZone = some z) : leAt s.budgetRecord 12 1 = z % 256 ∧
    leAt s.budgetRecord 13 1 = (s.zone z).st.code := by
  have hhot : s.hotBytes = toLe 1 z ++ (toLe 1 (s.zone z).st.code ++ toLe 2 (wrapInt 16 (s.zone z).temp)) := by
    rw [State.hotBytes, h]
    simp only [List.append_assoc]
  constructor
  · rw [leAt_budgetRecord_hot s 0, hhot, List.append_assoc, leAt_toLe_append, pow_one]
  · rw [leAt_budgetRecord_hot s 1, hhot, List.append_assoc, leAt_append_of_length (off := 1) (length_toLe ..) _ 0, List.append_assoc, leAt_toLe_append,
      pow_one, Nat.mod_eq_of_lt (code_lt _)]

/-! ### BUDGET (R443) -/

theorem exec_budget (s : State) (i : Issue) : exec (.budget i) s = .next (s.runCmd specBudget i) := rfl
theorem body_specBudget : specBudget.body = readBudget := rfl

theorem readBudget_of_fits {c : Cmd} (h16 : c.imm % 16 = 0) (hfit : c.imm ≤ 4032) (s : State) :
    readBudget c s = (if s.hotZone.isNone then s.took 4 else s, .rec_ s.budgetRecord) := by
  have hok : c.recOk 64 = true := recOk_of_fits h16 (by omega)
  rw [readBudget, Cmd.record_of_fits h16 (by rw [length_budgetRecord]; omega), hok, Bool.and_true]

theorem asks_budget {s : State} {q : CoreCmd} (hserve : s.serving q.k = true) (hmod : q.mod = 0) (hfit : q.imm ≤ 4032) : s.Asks q specBudget where
  up := (of_serving hserve).1
  query := rfl
  mod_lt := by omega
  imm_lt := by omega
  row1 := by rw [hmod]; rfl
  narrow := (wide_eq_false_iff ..).2 ⟨fun h => absurd rfl h, fun h => absurd rfl h, fun h => absurd rfl h, fun _ => (by omega : q.imm < 4096)⟩
  safe := (of_serving hserve).2.2

/-- Settles O49: a round by its rails and the power's bands, and BUDGET by its record. -/
theorem regulatorsAndBudget : Obligations.RegulatorsAndBudget := by
  unfold Obligations.RegulatorsAndBudget
  refine ⟨fun s ws hlen => ?poll, fun s k hk => ?timeout, fun s k r hfails hcounted => ?failed, fun s => ⟨_, rfl, rfl, rfl⟩,
    fun s q hopc hserve hmod h16 hfit ha hb hc => ?budget, fun s => ?record⟩
  case poll =>
    obtain ⟨⟨rs, hpolled⟩, hrails⟩ := polled_leaves s ws
    have hpower : (s.polled ws).diePower = ((s.trv.curve.rails.zip ws).map (fun p => if p.1.counted then linear11 p.2 else 0)).sum := by
      have h := diePower_of_polled (s := s.polled ws) (ws := ws) (by rw [hpolled]; exact hlen) hrails
      rwa [show (s.polled ws).trv.curve = s.trv.curve by rw [hpolled]] at h
    have hlimit : (s.polled ws).limitW = s.takeLimit.limitW := by
      rw [hpolled, takeLimit_eq]
      rfl
    have htaken : (∀ l, s.trv.limitNext = some l → s.takeLimit.limitW = l) ∧ (s.trv.limitNext = none → s.takeLimit.limitW = s.limitW) := by
      rw [takeLimit_eq]
      refine ⟨fun l hl => ?_, fun hnone => ?_⟩
      · rw [hl]
        rfl
      · rw [hnone]
        rfl
    obtain ⟨⟨l, r, hstep⟩, hup, hdown, hstay, hreg⟩ := stepPower_leaves (s.polled ws)
    have hlevel : (s.polled ws).trv.powerLevel = s.trv.powerLevel := by rw [hpolled]
    have hkept (a : Nat) : (s.polled ws).reg a = s.reg a := by
      rw [hpolled]
      rfl
    rw [hlevel, hkept] at hup
    rw [hlevel] at hdown hstay
    have hpow : (s.polled ws).stepPower.rebudget.trv.power = (s.polled ws).diePower := by
      rw [hstep]
      rfl
    have hlim : (s.polled ws).stepPower.rebudget.limitW = (s.polled ws).limitW := by
      rw [hstep]
      rfl
    rw [← hpow, ← hlim] at hup hdown hstay
    rw [← hlimit, ← hlim] at htaken
    refine ⟨_, exec_powerPoll hlen, fun k hk => ?_, hpow.trans hpower, ?_, hlim.trans hlimit, htaken.1, htaken.2, ?_, hup, hdown, hstay,
      fun a ha hc => (hreg a ha hc).trans (hkept a), ?_⟩
    · have h := hrails k hk
      rw [hstep]
      exact h
    · rw [hstep, hpolled]
      rfl
    · rw [hstep, hpolled]
      rfl
    · rw [hstep, hpolled]
      rfl
  case timeout =>
    have hexec : exec (.pmbusTimeout k) s = execPmbusTimeout k s := rfl
    obtain ⟨hself, hother, hbit, hcount, hreg, hframe⟩ := railFail_leaves s k
    exact ⟨s.railFail k, by rw [hexec, execPmbusTimeout, if_pos hk], hself, hother, hbit, hcount, hreg, hframe⟩
  case failed => simp [State.railPower, hfails, hcounted]
  case budget =>
    refine ⟨?_, fun c hctx _ _ _ hcmod himm => ?_⟩
    · have hbody := readBudget_of_fits (c := q.asked s) h16 hfit s
      have hrun := runCmd_of_record (asks_budget hserve hmod hfit) rfl ((congrFun (congrFun body_specBudget _) _).trans hbody)
      have hcount (u : State) : (∀ a, a ≠ Reg.hubCntCmd → (u.count Reg.hubCntCmd).reg a = u.reg a) ∧
          (u.count Reg.hubCntCmd).reg Reg.hubCntCmd = min (2 ^ 32 - 1) (u.reg Reg.hubCntCmd + 1) :=
        ⟨fun a h => (reg_count ..).trans (if_neg (Ne.symm h)), (reg_count ..).trans (if_pos rfl)⟩
      rw [exec_budget, hrun]
      cases hhot : s.hotZone with
      | none => exact ⟨_, rfl, rfl, fun h => absurd rfl h, (hcount (s.took 4)).2, (hcount (s.took 4)).1⟩
      | some z => exact ⟨_, rfl, rfl, fun _ => rfl, (hcount s).2, (hcount s).1⟩
    · have hnarrow : specBudget.wide c = false :=
        (wide_eq_false_iff ..).2 ⟨fun h => absurd rfl h, fun h => absurd rfl h, fun h => absurd rfl h, fun _ => (by omega : c.imm < 4096)⟩
      have hbody := readBudget_of_fits (c := c) (by omega) (by omega) s
      rw [decideCmd_of_record rfl (of_serving hserve).2.2 (.inl rfl) hnarrow ((congrFun (congrFun body_specBudget _) _).trans hbody)]
  case record =>
    obtain ⟨hpower, hlimit, htime⟩ := budgetRecord_fields s
    exact ⟨length_budgetRecord s, hpower, hlimit, htime, fun z => budgetRecord_hot⟩

end Sys2Proof.Machine
end

section
/-! The responses, the timeouts and the held identifiers of the memory ports (R413, R454, R457). -/

namespace Sys2Proof.Machine

/-! ### The two ports -/

theorem memPort_setMemPort (s : State) (k : Nat) (p : Port) : (s.setMemPort k p).memPort k = p := by
  unfold State.setMemPort State.memPort
  split_ifs <;> rfl

theorem memPort_setMemPort_other (s : State) {k : Nat} (hk : k < 2) (p : Port) : (s.setMemPort k p).memPort (1 - k) = s.memPort (1 - k) := by
  obtain rfl | rfl : k = 0 ∨ k = 1 := by omega
  · rfl
  · rfl

theorem setMemPort_frame (s : State) (k : Nat) (p : Port) :
    s.setMemPort k p = { s with port0 := (s.setMemPort k p).port0, port1 := (s.setMemPort k p).port1 } := by
  unfold State.setMemPort
  split_ifs <;> rfl

theorem setMemPort_memPort (s : State) (k : Nat) : s.setMemPort k (s.memPort k) = s := by
  unfold State.setMemPort State.memPort
  split_ifs <;> rfl

/-- The request of an identifier is on one of the two ports, among its outstanding ones. -/
theorem of_memReq {s : State} {k id : Nat} {r : MemReq} (h : s.memReq k id = some r) : k < 2 := by
  by_contra hk
  rw [State.memReq, if_neg hk] at h
  cases h

/-- What the end of a request leaves: the ports, without it. -/
theorem endReq_leaves (s : State) (k id : Nat) : (∃ p0 p1, s.endReq k id = { s with port0 := p0, port1 := p1 }) ∧ (s.endReq k id).memReq k id = none := by
  refine ⟨⟨_, _, setMemPort_frame ..⟩, ?_⟩
  unfold State.memReq
  split_ifs
  · rw [State.endReq, memPort_setMemPort]
    refine List.find?_eq_none.2 fun r hr => ?_
    simpa using (List.mem_filter.1 hr).2
  · rfl

theorem memReq_congr {s t : State} (h0 : t.port0 = s.port0) (h1 : t.port1 = s.port1) (k id : Nat) : t.memReq k id = s.memReq k id := by
  simp only [State.memReq, State.memPort, h0, h1]

theorem releaseId_leaves (s : State) {k : Nat} (hk : k < 2) (id : Nat) :
    ((s.releaseId k id).memPort k).held = (s.memPort k).held.filter (fun x => x.id != id) ∧ ((s.releaseId k id).memPort k).reqs = (s.memPort k).reqs ∧
    ((s.releaseId k id).memPort k).waits = (s.memPort k).waits ∧ (s.releaseId k id).memPort (1 - k) = s.memPort (1 - k) ∧
    s.releaseId k id = { s with port0 := (s.releaseId k id).port0, port1 := (s.releaseId k id).port1 } := by
  unfold State.releaseId
  rw [memPort_setMemPort, memPort_setMemPort_other s hk]
  exact ⟨rfl, rfl, rfl, rfl, setMemPort_frame ..⟩

/-! ### Identifiers that become free (log entry 125) -/

section
variable {s : State} {k : Nat} (hmem : s.memOn = false)
include hmem

/-- Without the memory copy of the journal only the port's own requests are issued. -/
theorem refill_of_memOff : s.refill k = s.setMemPort k ((s.memPort k).refill s.time) := by
  have hoff : (s.setMemPort k ((s.memPort k).refill s.time)).memOn = false := by
    rw [setMemPort_frame]
    exact hmem
  rw [State.refill, State.copyJournal, hoff]
  rfl

theorem refill_of_noWaits (h : (s.memPort k).waits = []) : s.refill k = s := by
  have hport : (s.memPort k).refill s.time = s.memPort k := by rw [Port.refill, h, List.foldl_nil]
  rw [refill_of_memOff hmem, hport, setMemPort_memPort]

theorem refill_of_oneWait {r : MemReq} {i : Nat} (h : (s.memPort k).waits = [r]) (hfree : (s.memPort k).freeId = some i) : s.refill k =
    s.setMemPort k { s.memPort k with reqs := (s.memPort k).reqs ++ [{ r with id := i, since := s.time }], waits := [] } := by
  have hport : (s.memPort k).refill s.time =
      { s.memPort k with reqs := (s.memPort k).reqs ++ [{ r with id := i, since := s.time }], waits := [] } := by
    rw [Port.refill, h, List.foldl_cons, List.foldl_nil, Port.fill, h, hfree]
  rw [refill_of_memOff hmem, hport]

end

/-! ### Responses (R413, R454) -/

section
variable {s : State} {k id : Nat} {r : MemReq} (hr : s.memReq k id = some r)
include hr

theorem exec_memResponse_of_req (st : MemStatus) (data : Bytes) (v : Nat) : exec (.memResponse k id st data v) s =
    .next (((s.endReq k id).answered r st data v).refill k) := by
  have hexec : exec (.memResponse k id st data v) s = execMemResponse k id st data v s := rfl
  rw [hexec, execMemResponse, hr]

theorem exec_memRequestTimeout_of_req : exec (.memRequestTimeout k id) s =
    .next (if r.since + 200 ≤ s.time then ((s.endReq k id).holdId k id).timedOut r else s) := by
  have hexec : exec (.memRequestTimeout k id) s = execMemRequestTimeout k id s := rfl
  have hlimit : usT 2 = 200 := rfl
  rw [hexec, execMemRequestTimeout, hr, hlimit]

end

section
variable {s : State} {r : MemReq}

/-- A response whose access has no outcome of its own, or whose completion is dropped, is counted and completed. -/
theorem answered_of_quiet {st : MemStatus} {data : Bytes} {v : Nat} (h : ∀ u : State, ((s.countStatusOf st).cflComplete r.ctx r.gen).2 = true →
    u = ((s.countStatusOf st).cflComplete r.ctx r.gen).1 → u.delivered r st data v = u) :
    s.answered r st data v = ((s.countStatusOf st).cflComplete r.ctx r.gen).1 := by
  unfold State.answered
  dsimp only
  split_ifs with hpass
  · exact h _ hpass rfl
  · rfl

/-- R413: only the generation of a LIVE context passes. -/
theorem cflComplete_of_dropped {c gen : Nat} (hc : c ≠ 0) (h : (s.ctx c).st ≠ .live ∨ (s.ctx c).gen ≠ gen) : (s.cflComplete c gen).2 = false := by
  have hlive : ((s.ctx c).gen == gen && (s.ctx c).st == .live) = false := by
    rcases h with h | h <;> simp [h]
  unfold State.cflComplete
  dsimp only
  rw [if_neg hc, hlive, if_neg Bool.false_ne_true]
  split_ifs <;> rfl

/-- A completion that passes is counted in the filter, and nowhere but HUB_CNT_CFL_PASS. -/
theorem cflComplete_of_passing {c gen : Nat} (h : c = 0 ∨ ((s.ctx c).st = .live ∧ (s.ctx c).gen = gen)) :
    (∃ r f, s.cflComplete c gen = ({ s with regs := r, cfl := f }, true)) ∧ ∀ a, a ≠ Reg.hubCntCflPass → (s.cflComplete c gen).1.reg a = s.reg a := by
  by_cases hc : c = 0
  · have hown : s.cflComplete c gen = (s, true) := if_pos hc
    rw [hown]
    exact ⟨⟨s.regs, s.cfl, rfl⟩, fun _ _ => rfl⟩
  · obtain ⟨hst, hgen⟩ := h.resolve_left hc
    obtain ⟨r, hregs⟩ := regsOnly_count (s.cflDone c) Reg.hubCntCflPass
    rw [cflComplete_of_live hc hgen hst]
    refine ⟨⟨r, _, Prod.ext hregs rfl⟩, fun a ha => (reg_count ..).trans (if_neg (Ne.symm ha))⟩

theorem accessOk_of_read (hop : r.op = .read) (hreseal : ∀ b, r.acc ≠ .reseal b) (hquery : ∀ t p, r.acc ≠ .query t p) (data : Bytes) (v : Nat) :
    s.accessOk r data v = s.learn r data v := by
  unfold State.accessOk
  split
  · next b h => exact absurd h (hreseal b)
  · next t p h => exact absurd h (hquery t p)
  · simp [hop]

theorem accessFailed_of_record (hacc : r.acc = .record) (st : Nat) : s.accessFailed r st = s := by rw [State.accessFailed, hacc]

theorem accessNoMatch_of_record (hacc : r.acc = .record) (hop : r.op ≠ .sbCwrite) : s.accessNoMatch r = s := by
  rw [State.accessNoMatch, hacc]
  simp [hop]

theorem accessNoMatch_of_poison {b : Nat} (hacc : r.acc = .poison b) : s.accessNoMatch r = s.rewriteDropped b := by rw [State.accessNoMatch, hacc]

end

/-! ### What a READ returned (R454) -/

theorem byte_setBytes_outside (s : State) {x a : Nat} {b : Bytes} (h : x < a ∨ a + b.length ≤ x) : (s.setBytes a b).bytes x 1 = s.bytes x 1 := by
  have hget : Tab.get 0 (Tab.setRun 0 s.mem a b) x = Tab.get 0 s.mem x := (tab_get_setRun ..).trans (if_neg (by omega))
  exact congrArg (fun y => [y]) hget

/-- With no later write outstanding, what the read returned is the block's view of memory. -/
theorem learn_of_free {s : State} {r : MemReq} {data : Bytes} {v : Nat} (hw : s.writing r.blk = false) (hlen : data.length = r.len * 64) :
    s.learn r data v = (s.setBytes (r.blk * 4096 + r.line * 64) data).setSb r.blk v := by
  rw [State.learn, hw, List.take_of_length_le hlen.le]
  rfl

theorem learn_of_writing {s : State} {r : MemReq} (hw : s.writing r.blk = true) (data : Bytes) (v : Nat) : s.learn r data v = s := if_pos hw

section
variable {s : State} {r : MemReq} {data : Bytes} {v : Nat} (hlen : data.length = r.len * 64) (hv : v < 2 ^ 64)
include hlen hv

/-- The view of memory after a read. -/
theorem learned_leaves (n : State) (hn : n = (s.setBytes (r.blk * 4096 + r.line * 64) data).setSb r.blk v) :
    n.bytes (r.blk * 4096 + r.line * 64) (r.len * 64) = data ∧ n.sbOf r.blk = v ∧
      (∀ a, (a < r.blk * 4096 + r.line * 64 ∨ r.blk * 4096 + r.line * 64 + r.len * 64 ≤ a) → n.bytes a 1 = s.bytes a 1) ∧
      ∀ b, b ≠ r.blk → n.sbOf b = s.sbOf b := by
  subst hn
  refine ⟨?_, ?_, fun a ha => ?_, fun b hb => ?_⟩
  · rw [← hlen]
    exact bytes_setBytes_self ..
  · rw [sbOf_setSb, if_pos rfl, Nat.mod_eq_of_lt hv]
  · exact byte_setBytes_outside s (by rwa [hlen])
  · exact (sbOf_setSb ..).trans (if_neg (Ne.symm hb))

end

/-! ### NOMATCH of a poisoning (R171) -/

theorem rewriteDropped_leaves (s : State) (b : Nat) : (s.rewriteDropped b).bit Reg.hubSealStatus 7 = true ∧
    (s.rewriteDropped b).reg Reg.hubCntRewriteDrop = min (2 ^ 32 - 1) (s.reg Reg.hubCntRewriteDrop + 1) := by
  have hne : Reg.hubSealStatus ≠ Reg.hubCntRewriteDrop := by decide
  refine ⟨bit_setBits_self _ _ (i := 7) (by decide), ?_⟩
  rw [State.rewriteDropped, reg_setBits, if_neg hne, reg_count, if_pos rfl]
  rfl

/-- Settles O58: each response by its access and the filter, and the identifiers of the two ports. -/
theorem memoryResponses : Obligations.MemoryResponses := by
  unfold Obligations.MemoryResponses
  refine ⟨fun s k id st data v hr hk => ?late, fun s k id hk => ⟨_, rfl, releaseId_leaves s hk id⟩,
    fun s k _ hmem => ⟨refill_of_noWaits hmem, fun r i => refill_of_oneWait hmem⟩,
    fun s k id r data v hr hpass hop hreseal hquery hw hlen hv => ?read, fun s k id r data v hr hw hop hreseal hquery => ?written,
    fun s k id r data v st hr hc hdropped => ?dropped, fun s k id r data v hr hacc => ?failed, fun s k id r data v b hr hacc hctx => ?poison,
    fun s k id r hr => ?timeout, fun s k id hr => ?idle, fun s k id h => ?held, fun s k id h hk hin hid htime => ?expired⟩
  case late =>
    have hexec : exec (.memResponse k id st data v) s = execMemResponse k id st data v s := rfl
    rw [hexec, execMemResponse, hr]
    simp only [if_pos hk]
  case read =>
    obtain ⟨⟨p0, p1, hend⟩, hgone⟩ := endReq_leaves s k id
    rw [exec_memResponse_of_req hr]
    rw [hend] at hw hgone ⊢
    obtain ⟨⟨rg, f, hcfl⟩, hreg⟩ := cflComplete_of_passing (s := { s with port0 := p0, port1 := p1 }) (c := r.ctx) (gen := r.gen) hpass
    have hanswered : ({ s with port0 := p0, port1 := p1 } : State).answered r .ok data v =
        (({ s with port0 := p0, port1 := p1, regs := rg, cfl := f } : State).setBytes (r.blk * 4096 + r.line * 64) data).setSb r.blk v := by
      rw [State.answered, State.countStatusOf, hcfl]
      exact (accessOk_of_read hop hreseal hquery data v).trans (learn_of_free hw hlen)
    rw [hanswered]
    obtain ⟨hbytes, hsb, hout, hother⟩ := learned_leaves (s := { s with port0 := p0, port1 := p1, regs := rg, cfl := f }) hlen hv _ rfl
    refine ⟨_, rfl, hbytes, hsb, hout, hother, hgone, fun a ha => ?_, rfl⟩
    have h := hreg a ha
    rw [hcfl] at h
    exact h
  case written =>
    rw [exec_memResponse_of_req hr, answered_of_quiet fun u hu h => ?_]
    · rfl
    · obtain ⟨⟨rg, f, d, hframe⟩, -⟩ := cflComplete_frame ((s.endReq k id).countStatusOf .ok) r.ctx r.gen
      have hwu : u.writing r.blk = true := by
        rw [h, hframe]
        exact hw
      exact (accessOk_of_read hop hreseal hquery data v).trans (learn_of_writing hwu data v)
  case dropped =>
    have hno : (((s.endReq k id).countStatusOf st).cflComplete r.ctx r.gen).2 = false := by
      obtain ⟨⟨p0, p1, hend⟩, -⟩ := endReq_leaves s k id
      refine cflComplete_of_dropped hc ?_
      rw [hend]
      cases st with
      | _ => exact hdropped
    rw [exec_memResponse_of_req hr, answered_of_quiet fun u hu => by simp [hno] at hu]
  case failed =>
    refine ⟨?_, ?_, fun hop => ?_⟩
    · rw [exec_memResponse_of_req hr, answered_of_quiet (st := .ue) fun u _ _ => accessFailed_of_record hacc stMemoryError]
      rfl
    · rw [exec_memResponse_of_req hr, answered_of_quiet (st := .decode) fun u _ _ => accessFailed_of_record hacc stMemoryError]
      rfl
    · rw [exec_memResponse_of_req hr, answered_of_quiet (st := .nomatch) fun u _ _ => accessNoMatch_of_record hacc hop]
      rfl
  case poison =>
    obtain ⟨⟨p0, p1, hend⟩, -⟩ := endReq_leaves s k id
    have hne : Reg.hubCntMemNomatch ≠ Reg.hubCntRewriteDrop := by decide
    have hanswered : (s.endReq k id).answered r .nomatch data v = ((s.endReq k id).count Reg.hubCntMemNomatch).rewriteDropped b := by
      rw [State.answered, hctx]
      exact accessNoMatch_of_poison hacc
    obtain ⟨hbit, hcount⟩ := rewriteDropped_leaves ((s.endReq k id).count Reg.hubCntMemNomatch) b
    refine ⟨_, (exec_memResponse_of_req hr ..).trans (congrArg (fun t : State => Host.Outcome.next (t.refill k)) hanswered), hbit, hcount.trans ?_⟩
    rw [reg_count, if_neg hne, hend]
    rfl
  case timeout =>
    refine ⟨fun hearly => ?_, fun hlate hacc => ?_⟩
    · rw [exec_memRequestTimeout_of_req hr, if_neg (Nat.not_le.2 hearly)]
    · rw [exec_memRequestTimeout_of_req hr, if_pos hlate, State.timedOut]
      simp only [accessFailed_of_record hacc, ite_self]
  case idle =>
    have hexec : exec (.memRequestTimeout k id) s = execMemRequestTimeout k id s := rfl
    rw [hexec, execMemRequestTimeout, hr]
  case held =>
    have hexec : exec (.memIdHoldExpiry k id) s = execMemIdHoldExpiry k id s := rfl
    have hlimit : msT 1 = 100000 := rfl
    rw [hexec, execMemIdHoldExpiry, hlimit, if_neg]
    rintro ⟨-, hany⟩
    obtain ⟨x, hx, hdue⟩ := List.any_eq_true.1 hany
    simp only [Bool.and_eq_true, beq_iff_eq, decide_eq_true_eq] at hdue
    exact absurd hdue.2 (Nat.not_le.2 (h x hx hdue.1))
  case expired =>
    have hexec : exec (.memIdHoldExpiry k id) s = execMemIdHoldExpiry k id s := rfl
    have hlimit : msT 1 = 100000 := rfl
    rw [hexec, execMemIdHoldExpiry, hlimit, if_pos ⟨hk, List.any_eq_true.2 ⟨h, hin, by simp [hid, htime]⟩⟩]

end Sys2Proof.Machine
end

section
/-! The TAP, DEBUG_LOCK and the debug module (R476, R477). -/

namespace Sys2Proof.Machine

/-! ### DEBUG_LOCK -/

section
variable {s : State} {w : Nat} (hw : s.fuse.words[14]? = some w)
include hw

theorem debugLock_of_word : s.debugLock = (s, w % 2 == 1) := by rw [State.debugLock, hw]

theorem unlessLocked_of_locked (hlock : w % 2 = 1) (f : State → State) : s.unlessLocked f = s.emit (.tdo 0 true) := by
  rw [State.unlessLocked, debugLock_of_word hw, hlock]
  rfl

theorem unlessLocked_of_open (hopen : w % 2 = 0) (f : State → State) : s.unlessLocked f = f s := by
  rw [State.unlessLocked, debugLock_of_word hw, hopen]
  rfl

end

/-! ### Harts -/

theorem core_setCore (s : State) {k : Nat} (hk : k < s.kettle.cores.length) (v : Core) (j : Nat) :
    (s.setCore k v).core j = if k = j then v else s.core j := by
  unfold State.core State.setCore
  rw [setAt_eq_set]
  split_ifs with h
  · subst h
    simp [hk]
  · simp [List.getElem?_set_ne h]

theorem setCore_core {s : State} {k : Nat} (hk : k < s.kettle.cores.length) : s.setCore k (s.core k) = s := by
  have hself : setAt s.kettle.cores k (s.core k) = s.kettle.cores := by
    rw [setAt_eq_set, State.core, List.getElem?_eq_getElem hk]
    exact List.set_getElem_self hk
  rw [State.setCore, hself]

theorem Core.halted_eta {c : Core} (h : c.halted = true) : { c with halted := true } = c := by
  cases c
  cases h
  rfl

theorem setHalted_frame (s : State) (k : Nat) (b : Bool) :
    s.setHalted k b = { s with kettle := { s.kettle with cores := (s.setHalted k b).kettle.cores } } := rfl

section
variable {s : State} {k : Nat} (hk : k < s.kettle.cores.length)
include hk

theorem core_setHalted_true (j : Nat) : (s.setHalted k true).core j =
    if k = j then { s.core k with halted := true, haltAt := if (s.core k).halted then (s.core k).haltAt else s.time } else s.core j := by
  have hset := core_setCore s hk { s.core k with
    halted := true
    haltAt := if true && ! (s.core k).halted then s.time else (s.core k).haltAt
    halts := if ! true && (s.core k).halted then (s.core k).halts ++ [((s.core k).haltAt, s.time)] else (s.core k).halts } j
  refine hset.trans ?_
  cases hhalted : (s.core k).halted <;> rfl

theorem core_setHalted_false (hhalted : (s.core k).halted = true) (j : Nat) : (s.setHalted k false).core j =
    if k = j then { s.core k with halted := false, halts := (s.core k).halts ++ [((s.core k).haltAt, s.time)] } else s.core j := by
  have hset := core_setCore s hk { s.core k with
    halted := false
    haltAt := if false && ! (s.core k).halted then s.time else (s.core k).haltAt
    halts := if ! false && (s.core k).halted then (s.core k).halts ++ [((s.core k).haltAt, s.time)] else (s.core k).halts } j
  refine hset.trans ?_
  rw [hhalted]
  rfl

/-- A hart that is halted is halted again. -/
theorem setHalted_of_halted (hhalted : (s.core k).halted = true) : s.setHalted k true = s := by
  have hsame : ({ s.core k with
      halted := true
      haltAt := if true && ! (s.core k).halted then s.time else (s.core k).haltAt
      halts := if ! true && (s.core k).halted then (s.core k).halts ++ [((s.core k).haltAt, s.time)] else (s.core k).halts } : Core) = s.core k := by
    rw [hhalted]
    exact Core.halted_eta hhalted
  exact (congrArg (s.setCore k) hsame).trans (setCore_core hk)

end

/-- With no completion waiting for Kettle 0 a resumption posts none. -/
theorem postAll_of_noTaken {s : State} (h : ∀ n, (s.ring n).taken = []) (l : List Nat) : s.postAll l = s := by
  induction l with
  | nil => rfl
  | cons n l ih => rw [State.postAll, h n, State.postFinals, ih]

/-- What waited for Kettle 0 goes on. -/
def State.goesOn (s : State) : State := if s.coreUp 0 then (s.postAll (List.range 16)).endServices (s.postAll (List.range 16)).laneSvc else s

theorem goesOn_of_quiet {s : State} (htaken : ∀ n, (s.ring n).taken = []) (hsvc : s.laneSvc = []) : s.goesOn = s := by
  rw [State.goesOn, postAll_of_noTaken htaken, hsvc, State.endServices, ite_self]

theorem resume_eq (s : State) (k : Nat) : s.resume k = ((s.setHalted k false).emit (.tdo 0 false)).goesOn := rfl

theorem resume_of_quiet {s : State} (htaken : ∀ n, (s.ring n).taken = []) (hsvc : s.laneSvc = []) (k : Nat) :
    s.resume k = (s.setHalted k false).emit (.tdo 0 false) := by
  rw [resume_eq, goesOn_of_quiet]
  · rw [setHalted_frame]
    exact htaken
  · rw [setHalted_frame]
    exact hsvc

/-! ### The debug module -/

theorem readAccess_eq_emit {s : State} {a : Nat} (src : Src) (hok : s.respCode a = 0) (f : State → State × Nat) :
    s.readAccess src a f = (f s).1.emit (.regRsp src a (f s).2 0) := by
  rw [State.readAccess, hok]
  rfl

/-- A DMI write of any register of the debug module. -/
theorem dmiAccess_write (s : State) (a : Nat) {d : Nat} (hd : d < 2 ^ 32) : s.dmiAccess a d true =
    { s with tapIr := 17, dm := Tab.set 0 s.dm a d, out := s.out ++ [.tdo 0 false] } := by
  rw [State.dmiAccess, Nat.mod_eq_of_lt hd]
  rfl

theorem dmPlain_iff (a : Nat) : dmPlain a = true ↔ a ∈ [0x04, 0x20, 0x21] := by simp [dmPlain, or_assoc]

theorem dmiAccess_plain (s : State) {a : Nat} (h : a ∈ [0x04, 0x20, 0x21]) (d : Nat) : s.dmiAccess a d false =
    { s with tapIr := 17, out := s.out ++ [.tdo (Tab.get 0 s.dm a) false] } := by
  rw [State.dmiAccess, (dmPlain_iff a).2 h]
  rfl

theorem dmiAccess_open (s : State) {a : Nat} (h : a ∉ [0x04, 0x20, 0x21]) (d : Nat) : s.dmiAccess a d false =
    { s with tapIr := 17, free := s.free + 1, out := s.out ++ [.tdo (s.freeNat % 2 ^ 32) false] } := by
  have hplain : dmPlain a = false := Bool.eq_false_iff.2 (mt (dmPlain_iff a).1 h)
  rw [State.dmiAccess, hplain]
  rfl

theorem exec_dmi (a d : Nat) (wr : Bool) (s : State) : exec (.dmi a d wr) s =
    .next (if dmSystemBus a then s.dmiAccess a d wr else s.unlessLocked (fun q => q.dmiAccess a d wr)) := rfl

/-- Without the lock every register is accessed alike. -/
theorem exec_dmi_of_open {s : State} {w : Nat} (hw : s.fuse.words[14]? = some w) (hopen : w % 2 = 0) (a d : Nat) (wr : Bool) :
    exec (.dmi a d wr) s = .next (s.dmiAccess a d wr) := by
  rw [exec_dmi, unlessLocked_of_open hw hopen, ite_self]

theorem exec_atb (v : Nat) (s : State) : exec (.atb v) s =
    .next (s.unlessLocked (fun q => (q.selectIr irAtb (q.regVal .tap Reg.hubAtbCtrl)).writeAtb (v % 2 ^ 32))) := rfl

theorem exec_debugHalt (k : Nat) (s : State) : exec (.debugHalt k) s =
    .next (s.unlessLocked (fun q => (q.setHalted k true).emit (.tdo 0 false))) := rfl

theorem exec_debugResume (k : Nat) (s : State) : exec (.debugResume k) s =
    .next (s.unlessLocked (fun q => if (q.core k).halted then q.resume k else q.emit (.tdo 0 false))) := rfl

theorem exec_debugSingleStep (k : Nat) (s : State) : exec (.debugSingleStep k) s =
    .next (s.unlessLocked (fun q => (if (q.core k).halted then q.setHalted k true else q).emit (.tdo 0 false))) := rfl

theorem exec_debugTriggerHit (k : Nat) (s : State) : exec (.debugTriggerHit k) s =
    .next (if s.debugLock.2 then s.debugLock.1 else s.debugLock.1.setHalted k true) := rfl

theorem exec_debugSystemBusAccess (a v : Nat) (wr : Bool) (s : State) : exec (.debugSystemBusAccess a v wr) s =
    .next (if ! wr && lockedReadOk a then s.systemBus a v wr else s.unlessLocked (fun q => q.systemBus a v wr)) := rfl

theorem systemBus_read {s : State} {a : Nat} (hok : s.respCode a = 0) (v : Nat) :
    s.systemBus a v false = (s.readReg .tap a).1.emit (.regRsp .tap a (s.readReg .tap a).2 0) :=
  readAccess_eq_emit .tap hok fun q => q.readReg .tap a

theorem systemBus_write {s : State} {a : Nat} (hok : s.respCode a = 0) (v : Nat) :
    s.systemBus a v true = (s.writeReg .tap a (v % 2 ^ 32)).emit (.regRsp .tap a 0 0) :=
  writeAccess_eq_emit .tap hok fun q => q.writeReg .tap a (v % 2 ^ 32)

/-- Settles O59: each request refused under the lock, and its effect without it. -/
theorem tapAndDebug : Obligations.TapAndDebug := by
  unfold Obligations.TapAndDebug
  refine ⟨fun s => ⟨_, rfl, rfl, ?idcode, rfl⟩, fun s => ⟨_, rfl, rfl, rfl, rfl⟩, fun s => ⟨_, s.freeNat % 2 ^ 32, rfl, rfl, rfl, rfl⟩,
    fun s w hw hlock => ?locked, fun s a v hread hok => ?read, fun s w hw hopen => ?opened⟩
  case idcode =>
    have hvalue : s.idcode = 0x3005A001 + s.cfg.jedec % 2 ^ 11 * 2 := by
      unfold State.idcode
      omega
    exact congrArg (fun x => s.out ++ [Out.tdo x false]) hvalue
  case locked =>
    have hrefused := unlessLocked_of_locked hw hlock
    refine ⟨fun a d wr h0 h1 h2 => ?_, fun v => ?_, fun k => ⟨?_, ?_, ?_, ?_⟩, fun a v => ?_, fun a v hread => ?_⟩
    · have hplain : dmSystemBus a = false := by simp [dmSystemBus, h0, h1, h2]
      rw [exec_dmi, hplain, hrefused]
      rfl
    · rw [exec_atb, hrefused]
    · rw [exec_debugHalt, hrefused]
    · rw [exec_debugResume, hrefused]
    · rw [exec_debugSingleStep, hrefused]
    · rw [exec_debugTriggerHit, debugLock_of_word hw, hlock]
      rfl
    · rw [exec_debugSystemBusAccess, hrefused]
      rfl
    · rw [exec_debugSystemBusAccess, hrefused, hread]
      rfl
  case read =>
    rw [exec_debugSystemBusAccess, hread, ← systemBus_read hok v]
    rfl
  case opened =>
    have hfree := unlessLocked_of_open hw hopen
    refine ⟨fun a d hd => ?_, fun a d ha => ?_, fun a d ha => ⟨s.freeNat % 2 ^ 32, ?_⟩, fun v => ?_, fun k hk hlen => ?_, fun a v hok => ⟨?_, ?_⟩⟩
    · have hget := tab_get_set 0 s.dm a d
      exact ⟨_, (exec_dmi_of_open hw hopen ..).trans (congrArg _ (dmiAccess_write s a hd)), rfl, (hget a).trans (if_pos rfl),
        fun b hb => (hget b).trans (if_neg (Ne.symm hb)), rfl, rfl⟩
    · rw [exec_dmi_of_open hw hopen, dmiAccess_plain s ha]
    · rw [exec_dmi_of_open hw hopen, dmiAccess_open s ha]
    · rw [exec_atb, hfree]
      rfl
    · have hcore : k < s.kettle.cores.length := by omega
      have hhalt := core_setHalted_true hcore
      have hself := (hhalt k).trans (if_pos rfl)
      have hother (j : Nat) (hj : j ≠ k) := (hhalt j).trans (if_neg (Ne.symm hj))
      refine ⟨⟨(s.setHalted k true).emit (.tdo 0 false), ?_, hself, hother, rfl⟩, ⟨s.setHalted k true, ?_, hself, hother, rfl⟩, ?_, fun hrun => ?_,
        fun hhalted htaken hsvc => ?_⟩
      · rw [exec_debugHalt, hfree]
      · rw [exec_debugTriggerHit, debugLock_of_word hw, hopen]
        rfl
      · rw [exec_debugSingleStep, hfree]
        split_ifs with hhalted
        · rw [setHalted_of_halted hcore hhalted]
        · rfl
      · rw [exec_debugResume, hfree, hrun]
        rfl
      · have hresume := core_setHalted_false hcore hhalted
        refine ⟨(s.setHalted k false).emit (.tdo 0 false), ?_, (hresume k).trans (if_pos rfl), fun j hj => (hresume j).trans (if_neg (Ne.symm hj)), rfl⟩
        rw [exec_debugResume, hfree, hhalted, ← resume_of_quiet htaken hsvc]
        rfl
    · rw [exec_debugSystemBusAccess, hfree, systemBus_write hok]
      rfl
    · rw [exec_debugSystemBusAccess, hfree, ite_self, systemBus_read hok]

end Sys2Proof.Machine
end

section
/-! The links of bring-up stage 0x5 (R483, R488). -/

namespace Sys2Proof.Machine

/-! ### The judgement of a link (R488) -/

theorem length_linkOuts (ms : List LinkMeas) (es : List (Option Nat × Option Nat)) (ls : List Nat) : (linkOuts ms es ls).length = ms.length := by
  induction ms generalizing es ls with
  | nil => rfl
  | cons m ms ih => exact congrArg (· + 1) (ih _ _)

theorem linkJudge_of_missing {m : LinkMeas} {e d : Option Nat} (h : m.up = none ∨ m.err = none ∨ m.data = none ∨ e = none ∨ d = none) (limit : Nat) :
    linkJudge m e d limit = .unreadable := by
  unfold linkJudge
  split
  · next hu he hd => simp [hu, he, hd] at h
  · rfl

/-! ### What the outcomes leave -/

/-- The counters of the outcomes. -/
def linkRegs : List Nat := [Reg.hubCntLinkUnread, Reg.hubCntLinkDown, Reg.hubCntLinkHigh]

theorem countLink_leaves (s : State) (o : LinkOut) : s.RegsOnly (s.countLink o) ∧ ∀ a, a ∉ linkRegs → (s.countLink o).reg a = s.reg a := by
  have hcount {b : Nat} (hb : b ∈ linkRegs) : s.RegsOnly (s.count b) ∧ ∀ a, a ∉ linkRegs → (s.count b).reg a = s.reg a :=
    ⟨regsOnly_count .., fun a ha => (reg_count ..).trans (if_neg (ne_of_mem_of_not_mem hb ha))⟩
  cases o with
  | unreadable => exact hcount (b := Reg.hubCntLinkUnread) (by decide)
  | down => exact hcount (b := Reg.hubCntLinkDown) (by decide)
  | high r => exact hcount (b := Reg.hubCntLinkHigh) (by decide)
  | ok => exact ⟨⟨s.regs, rfl⟩, fun _ _ => rfl⟩

theorem countLinks_leaves (s : State) (os : List LinkOut) : s.RegsOnly (s.countLinks os) ∧ ∀ a, a ∉ linkRegs → (s.countLinks os).reg a = s.reg a := by
  induction os generalizing s with
  | nil => exact ⟨⟨s.regs, rfl⟩, fun _ _ => rfl⟩
  | cons o os ih =>
    obtain ⟨hone, hreg⟩ := countLink_leaves s o
    obtain ⟨hrest, hreg'⟩ := ih (s.countLink o)
    exact ⟨hone.trans hrest, fun a ha => (hreg' a ha).trans (hreg a ha)⟩

/-- The head of the report's detail: how many are OK, unreadable and down. -/
def linkHead (os : List LinkOut) : Bytes :=
  toLe 2 (linksThat (fun o => o == .ok) os) ++ toLe 2 (linksThat (fun o => o == .unreadable) os) ++ toLe 2 (linksThat (fun o => o == .down) os)

theorem linkDetail_leaves (s : State) (os : List LinkOut) : ∃ n d, s.linkDetail os = ({ s with free := n }, linkHead os ++ d) := by
  unfold State.linkDetail
  dsimp only
  split
  · split_ifs
    · exact ⟨s.free, _, by simp only [linkHead, List.append_assoc]; rfl⟩
    · exact ⟨s.free + 1, _, by simp only [linkHead, List.append_assoc]; rfl⟩
  · exact ⟨s.free + 2, _, by simp only [linkHead, List.append_assoc]; rfl⟩

/-! ### The end of stage 0x5 -/

/-- The outcomes of the links that the record names. -/
def State.judgedLinks (s : State) (second : List (Option Nat × Option Nat)) : List LinkOut := linkOuts s.bring.links second s.bring.limits

/-- A stage's links and their reads are gone. -/
def State.linksDropped (s : State) : State := { s with bring := { s.bring with links := [], reads := [] } }

section
variable {s : State} (second : List (Option Nat × Option Nat)) (hstage : s.bring.stage = 5) (hfailed : s.bring.failed = false)
  (htime : s.bring.started + s.bring.linkMs * 100000 ≤ s.time)
include hstage hfailed htime

theorem exec_bringLinkMeasureEnd_of_due : exec (.bringLinkMeasureEnd second) s =
    let q := (s.countLinks (s.judgedLinks second)).linkDetail (s.judgedLinks second)
    .next ((if s.time ≤ s.bring.started + 10000000 + s.bring.linkMs * 100000 then q.1.stagePass s.bring.flags q.2
      else q.1.stageFailOpen s.bring.flags q.2).linksDropped) := by
  have hexec : exec (.bringLinkMeasureEnd second) s = execBringLinkMeasureEnd second s := rfl
  have hlimit : msT 100 = 10000000 := rfl
  have hms : msT s.bring.linkMs = s.bring.linkMs * 100000 := rfl
  rw [hexec, execBringLinkMeasureEnd, hlimit, hms, if_neg (by simp [hstage, hfailed, Nat.not_lt.2 htime])]
  rfl

end

end Sys2Proof.Machine
end

section
/-! Stages 0x6 and 0x7 of bring-up: the release of the tiles, their start-up test and the map (R483, R489, R490, R493). -/

namespace Sys2Proof.Machine

/-! ### A self-check asked for (R154, R204, R489) -/

/-- `t` is `s` with other entries of the suspicion table and other stored registers. -/
def State.SuspOnly (s t : State) : Prop := ∃ su r, t = { s with susp := su, regs := r }

namespace State.SuspOnly
variable {s t : State} (h : s.SuspOnly t)
include h

theorem setSusp (e : Nat) (v : Susp) : s.SuspOnly (t.setSusp e v) := by
  obtain ⟨su, r, rfl⟩ := h
  exact ⟨_, r, rfl⟩

theorem of_regsOnly {u : State} (hu : t.RegsOnly u) : s.SuspOnly u := by
  obtain ⟨su, r, rfl⟩ := h
  obtain ⟨r', rfl⟩ := hu
  exact ⟨su, r', rfl⟩

theorem evalUnit (u : Nat) : s.SuspOnly (t.evalUnit u) := by
  obtain ⟨su, r, rfl⟩ := h
  exact ⟨_, _, (State.Rated.evalUnit _ u).frame⟩

end State.SuspOnly

theorem observe_frame (s : State) (k u sig : Nat) : s.SuspOnly (s.observe k u sig) := by
  have hs : s.SuspOnly s := ⟨s.susp, s.regs, rfl⟩
  have hseen (v w : Susp) (e : Nat) : s.SuspOnly ((s.setSusp u v).setSusp e w) := (hs.setSusp u v).setSusp e w
  unfold State.observe
  dsimp only
  by_cases hevict : (s.detailFor u k sig).2 = true
  · rw [if_pos hevict]
    exact ((((hseen _ _ _).of_regsOnly (regsOnly_count ..)).of_regsOnly (regsOnly_setBits ..)).of_regsOnly (regsOnly_count ..)).evalUnit u
  · rw [if_neg hevict]
    exact ((hseen _ _ _).of_regsOnly (regsOnly_count ..)).evalUnit u

theorem observeChecker_frame (s : State) (t n : Nat) : ∃ su r, s.observeChecker t n = { s with susp := su, regs := r } := by
  induction n generalizing s with
  | zero => exact ⟨s.susp, s.regs, rfl⟩
  | succ n ih =>
    obtain ⟨su, r, hone⟩ := observe_frame s obChecker (unitLadle t) 0
    obtain ⟨su', r', hrest⟩ := ih (s.observe obChecker (unitLadle t) 0)
    exact ⟨su', r', by rw [State.observeChecker, hrest, hone]⟩

/-- A self-check that fails. -/
theorem katEnd_fail (s : State) (t : Nat) : ∃ a su r, s.katEnd t false = { s.setLadle t { s.ladle t with kat := .idle, askers := 0, checked := some false } with
    arbs := a, susp := su, regs := r } := by
  obtain ⟨r, hr⟩ := (((regsOnly_ldlCount s t 24 1).trans (regsOnly_ldlCount _ t 25 1)).trans (regsOnly_setBits _ (atTile t Reg.ldlStatus) (2 ^ 7))).trans
    (regsOnly_clrBits _ (atTile t Reg.ldlStatus) (2 ^ 6))
  have hend : s.katEnd t false = (((((((s.ldlCount t 24 1).ldlCount t 25 1).setBits (atTile t Reg.ldlStatus) (2 ^ 7)).clrBits (atTile t Reg.ldlStatus) (2 ^ 6)).setLadle t
      { s.ladle t with kat := .idle, askers := 0, checked := some false }).katAnswer t false).observeChecker t (s.ladle t).askers) := rfl
  rw [hend, hr]
  obtain ⟨su, r', hobs⟩ := observeChecker_frame ((({ s with regs := r } : State).setLadle t { s.ladle t with kat := .idle, askers := 0, checked := some false }).katAnswer t
    false) t (s.ladle t).askers
  rw [hobs]
  exact ⟨_, su, r', rfl⟩

/-- A Ladle whose self-check has been asked for. -/
def Ladle.asked (l : Ladle) : Ladle :=
  if l.gateShut && l.checked.isNone then { l with kat := .idle, askers := 0, checked := some false }
  else if l.kat == .idle && l.checked.isNone then { l with kat := .requested } else l

theorem inReset_asked (l : Ladle) : l.asked.inReset = l.inReset := by
  unfold Ladle.asked
  split_ifs <;> rfl

theorem kat_asked {l : Ladle} (hidle : l.kat = .idle) (hgate : l.gateShut = false) (hchecked : l.checked = none) : l.asked.kat = .requested := by
  simp [Ladle.asked, hidle, hgate, hchecked]

theorem askKat_frame (s : State) (t : Nat) : ∃ a su r, s.askKat t = { s.setLadle t (s.ladle t).asked with arbs := a, susp := su, regs := r } ∨ s.askKat t = s ∧
    (s.ladle t).asked = s.ladle t := by
  unfold State.askKat Ladle.asked
  dsimp only
  split_ifs
  · obtain ⟨a, su, r, h⟩ := katEnd_fail s t
    exact ⟨a, su, r, .inl h⟩
  · exact ⟨s.arbs, s.susp, s.regs, .inl rfl⟩
  · exact ⟨s.arbs, s.susp, s.regs, .inr ⟨rfl, rfl⟩⟩

theorem askKat_leaves (s : State) (t : Nat) : (∃ l a su r, s.askKat t = { s with ladles := l, arbs := a, susp := su, regs := r }) ∧
    ∀ u, (s.askKat t).ladle u = if t = u then (s.ladle t).asked else s.ladle u := by
  obtain ⟨a, su, r, h | ⟨h, hsame⟩⟩ := askKat_frame s t
  · rw [h]
    exact ⟨⟨_, a, su, r, rfl⟩, fun u => ladle_setLadle s t _ u⟩
  · rw [h]
    refine ⟨⟨s.ladles, s.arbs, s.susp, s.regs, rfl⟩, fun u => ?_⟩
    split_ifs with htu
    · rw [hsame, htu]
    · rfl

theorem askKats_leaves (s : State) {l : List Nat} (hnodup : l.Nodup) : (∃ ls a su r, s.askKats l = { s with ladles := ls, arbs := a, susp := su, regs := r }) ∧
    ∀ u, (s.askKats l).ladle u = if u ∈ l then (s.ladle u).asked else s.ladle u := by
  induction l generalizing s with
  | nil => exact ⟨⟨s.ladles, s.arbs, s.susp, s.regs, rfl⟩, fun _ => rfl⟩
  | cons t l ih =>
    obtain ⟨hnotin, hnodup⟩ := List.nodup_cons.1 hnodup
    obtain ⟨⟨_, _, _, _, hone⟩, hladle⟩ := askKat_leaves s t
    obtain ⟨⟨ls, a, su, r, hrest⟩, hladle'⟩ := ih (s.askKat t) hnodup
    refine ⟨⟨ls, a, su, r, by rw [State.askKats, hrest, hone]⟩, fun u => (hladle' u).trans ?_⟩
    rw [hladle]
    by_cases htu : t = u
    · subst htu
      simp [hnotin]
    · simp [htu, Ne.symm htu]

/-! ### The release of the tiles (R489) -/

theorem tileTest_setTileTest (s : State) (p : Nat) (v : TileTest) (q : Nat) : (s.setTileTest p v).tileTest q = if p = q then v else s.tileTest q :=
  tab_get_set ..

theorem markReleased_leaves (s : State) (l : List Nat) : (∃ ts, s.markReleased l = { s with bring := { s.bring with tiles := ts } }) ∧
    (∀ p, (s.tileTest p).released = true → ((s.markReleased l).tileTest p).released = true) ∧ ∀ p ∈ l, ((s.markReleased l).tileTest p).released = true := by
  induction l generalizing s with
  | nil => exact ⟨⟨s.bring.tiles, rfl⟩, fun _ h => h, fun _ h => absurd h List.not_mem_nil⟩
  | cons t l ih =>
    obtain ⟨⟨ts, hframe⟩, hkept, hin⟩ := ih (s.setTileTest t { s.tileTest t with released := true })
    have hone := tileTest_setTileTest s t { s.tileTest t with released := true }
    refine ⟨⟨ts, hframe⟩, fun p hp => hkept p ?_, fun p hp => ?_⟩
    · rw [hone]
      split_ifs
      · rfl
      · exact hp
    · rcases List.mem_cons.1 hp with rfl | hp
      · exact hkept p (by rw [hone, if_pos rfl])
      · exact hin p hp

/-- The slots whose reset the release lowers. -/
def State.releaseSlots (s : State) : List Nat := s.goodTiles ++ (List.range 16).map (128 + ·) ++ [144]

/-- The resets of the slots lowered and the tiles on their way, with the tiles' tests. -/
def State.released (s : State) (ts : List (Nat × TileTest)) : State := { s with
  rstOut := (s.drive 1 false s.releaseSlots).rstOut, bring := { s.bring with released := true, started := s.time, tiles := ts } }

theorem nodup_goodTiles (s : State) : s.goodTiles.Nodup := List.nodup_range.filter _

theorem exec_bringTileRelease_of_held {s : State} (hstage : s.bring.stage = 6) (hheld : s.bring.released = false) : exec .bringTileRelease s =
    .next ((((s.released s.bring.tiles).markReleased s.goodTiles).tilesLeave s.goodTiles).askKats s.goodTiles) := by
  have hexec : exec .bringTileRelease s = execBringTileRelease s := rfl
  rw [hexec, execBringTileRelease, if_neg (by simp [hstage, hheld])]
  have hdrive := drive_frame s 1 false s.releaseSlots
  unfold State.released
  unfold State.releaseSlots at hdrive ⊢
  dsimp only
  rw [hdrive]

/-- The tiles of the list leave reset and are asked for their self-check: no output and no bring-up field changes. -/
theorem askKats_tilesLeave (s : State) {l : List Nat} (hnodup : l.Nodup) : ((s.tilesLeave l).askKats l).rstOut = s.rstOut ∧
    ((s.tilesLeave l).askKats l).bring = s.bring ∧
    (∀ p ∈ l, ((s.tilesLeave l).askKats l).ladle p = Ladle.asked { s.ladle p with inReset := false, checked := none }) ∧
    ∀ p, p ∉ l → ((s.tilesLeave l).askKats l).ladle p = s.ladle p := by
  obtain ⟨⟨_, _, _, _, hframe⟩, hladle⟩ := askKats_leaves (s.tilesLeave l) hnodup
  refine ⟨?_, ?_, fun p hp => ?_, fun p hp => ?_⟩
  · rw [hframe, tilesLeave_frame]
  · rw [hframe, tilesLeave_frame]
  · rw [hladle, if_pos hp, ladle_tilesLeave, if_pos hp]
  · rw [hladle, if_neg hp, ladle_tilesLeave, if_neg hp]

theorem notMem_releaseSlots {s : State} {p : Nat} (hgood : p ∉ s.goodTiles) (hp : p < 128) : p ∉ s.releaseSlots := by
  simp only [State.releaseSlots, List.mem_append, List.mem_map, List.mem_range, List.mem_singleton, not_or, not_exists]
  exact ⟨⟨hgood, fun i hi => by omega⟩, by omega⟩

theorem cluster_mem_releaseSlots (s : State) {c : Nat} (hc : c < 16) : 128 + c ∈ s.releaseSlots :=
  List.mem_append_left _ (List.mem_append_right _ (List.mem_map_of_mem (List.mem_range.2 hc)))

/-! ### A tile that is reset again (R489, R490) -/

/-- `t` has the Ladles, the outputs of the reset control port and the bring-up of `s`. -/
structure State.TilesKept (s t : State) : Prop where
  ladles : t.ladles = s.ladles
  rstOut : t.rstOut = s.rstOut
  bring : t.bring = s.bring

namespace State.TilesKept

theorem refl (s : State) : s.TilesKept s := ⟨rfl, rfl, rfl⟩

theorem trans {s t u : State} (h1 : s.TilesKept t) (h2 : t.TilesKept u) : s.TilesKept u :=
  ⟨h2.ladles.trans h1.ladles, h2.rstOut.trans h1.rstOut, h2.bring.trans h1.bring⟩

theorem of_io {s t : State} (h : s.IoOnly t) : s.TilesKept t := by
  rw [h.frame]
  exact ⟨rfl, rfl, rfl⟩

theorem countFinal (s : State) (st : Nat) (own : Bool) : s.TilesKept (s.countFinal st own) := by
  unfold State.countFinal
  split_ifs
  · exact refl s
  · exact of_io (.count ..)

theorem finishEntry (s : State) (n index st res j : Nat) : s.TilesKept (s.finishEntry n index st res j) := by
  have hring (u : State) (v : Ring) : u.TilesKept (u.setRing n v) := ⟨rfl, rfl, rfl⟩
  unfold State.finishEntry State.writeCompletion State.onTaken
  split_ifs
  · split
    · exact refl s
    · exact (of_io (.writeZ ..)).trans (hring _ _)
  · exact hring s _

/-- The completion of a ticket touches no tile. -/
theorem complete (s : State) (t st res : Nat) (own : Bool) : s.TilesKept (s.complete t st res own) := by
  unfold State.complete
  cases s.ticket t with
  | none => exact refl s
  | some k =>
    have hcounted := (of_io (.record s { k.served with type := jCompleted, status := st, ticket := t, a := res })).trans (countFinal _ st own)
    dsimp only
    generalize (s.record { k.served with type := jCompleted, status := st, ticket := t, a := res }).countFinal st own = v at hcounted
    refine hcounted.trans ?_
    have hdrop : v.TilesKept (v.dropTicket t) := ⟨rfl, rfl, rfl⟩
    cases k.owner with
    | ring n index cookie => exact hdrop.trans (finishEntry ..)
    | kettle core => exact hdrop
    | program id =>
      dsimp only
      split_ifs
      · exact hdrop
      · exact ⟨rfl, rfl, rfl⟩

theorem whiskUnreachable (s : State) (t : Nat) : s.TilesKept (s.whiskUnreachable t) := by
  unfold State.whiskUnreachable
  split
  · exact refl s
  · next w _ =>
    have hrun : s.TilesKept { s with whisk := s.whisk.filter (fun x => x.tile != t) } := ⟨rfl, rfl, rfl⟩
    unfold State.completeOpt
    split
    · exact hrun.trans (complete ..)
    · exact hrun

theorem ladleOk (s : State) (t : Nat) : s.TilesKept (s.ladleOk t) := by
  obtain ⟨ps, h⟩ := ladleOk_frame s t
  rw [h]
  exact ⟨rfl, rfl, rfl⟩

end State.TilesKept

/-- A tile that enters reset: its own Ladle alone, and neither an output nor the bring-up. -/
theorem tileEnter_leaves (s : State) (t : Nat) : ((s.tileEnter t).ladle t).inReset = true ∧ (∀ q, q ≠ t → (s.tileEnter t).ladle q = s.ladle q) ∧
    (s.tileEnter t).rstOut = s.rstOut ∧ (s.tileEnter t).bring = s.bring := by
  have hladle {u v : State} (h : u.TilesKept v) (q : Nat) : v.ladle q = u.ladle q := by rw [State.ladle, h.ladles, State.ladle]
  unfold State.tileEnter
  split_ifs with hin
  · have hok := State.TilesKept.ladleOk s t
    exact ⟨by rw [hladle hok, hin], fun q _ => hladle hok q, hok.rstOut, hok.bring⟩
  · obtain ⟨r, reps, hreset⟩ := ladleReset_frame s t
    have hafter := (State.TilesKept.ladleOk (s.ladleReset t) t).trans (.whiskUnreachable _ t)
    have hone (q : Nat) : (s.ladleReset t).ladle q = if t = q then (s.ladle t).cleared else s.ladle q := by
      rw [hreset]
      exact ladle_setLadle s t _ q
    refine ⟨?_, fun q hq => ?_, hafter.rstOut.trans ?_, hafter.bring.trans ?_⟩
    · rw [hladle hafter, hone, if_pos rfl]
      rfl
    · rw [hladle hafter, hone, if_neg (Ne.symm hq)]
    · rw [hreset]
      rfl
    · rw [hreset]
      rfl

/-- A tile that fails before it is ready is judged NOT_READY, and its reset is high again. -/
theorem notReady_leaves {s : State} {p : Nat} (hfailed : (s.tileTest p).failed = none) :
    (((s.startupFail p 0x10).resetAgain p).tileTest p).failed = some 0x10 ∧ bitAt (((s.startupFail p 0x10).resetAgain p).rout p) 1 = 1 ∧
    (((s.startupFail p 0x10).resetAgain p).ladle p).inReset = true ∧
    ∀ q, q ≠ p → ((s.startupFail p 0x10).resetAgain p).ladle q = s.ladle q ∧ ((s.startupFail p 0x10).resetAgain p).rout q = s.rout q ∧
      ((s.startupFail p 0x10).resetAgain p).tileTest q = s.tileTest q := by
  have htest (q : Nat) : (s.startupFail p 0x10).tileTest q = if p = q then { s.tileTest p with failed := some 0x10 } else s.tileTest q := by
    have hset : s.startupFail p 0x10 = s.setTileTest p { s.tileTest p with failed := (s.tileTest p).failed.or (some 0x10) } := rfl
    rw [hset, hfailed]
    exact tileTest_setTileTest ..
  have hrout := rout_drive1 (s.startupFail p 0x10) p 1 true
  obtain ⟨hin, hother, hout, hbring⟩ := tileEnter_leaves ((s.startupFail p 0x10).drive1 p 1 true) p
  have htest' (q : Nat) : ((s.startupFail p 0x10).resetAgain p).tileTest q = (s.startupFail p 0x10).tileTest q :=
    congrArg (fun b : Bring => Tab.get ({} : TileTest) b.tiles q) hbring
  have hrout' (q : Nat) : ((s.startupFail p 0x10).resetAgain p).rout q = ((s.startupFail p 0x10).drive1 p 1 true).rout q :=
    congrArg (fun o => Tab.get 3 o q) hout
  refine ⟨?_, ?_, hin, fun q hq => ⟨hother q hq, ?_, ?_⟩⟩
  · rw [htest', htest, if_pos rfl]
  · rw [hrout', hrout, if_pos rfl]
    exact bitAt_replaced _ 1 true
  · rw [hrout', hrout, if_neg (Ne.symm hq)]
    rfl
  · rw [htest', htest, if_neg (Ne.symm hq)]

/-! ### The end of the start-up tests (R490) -/

theorem tileState_setTileState (s : State) (p : Nat) (v : TileState) (q : Nat) : (s.setTileState p v).tileState q = if p = q then v else s.tileState q :=
  tab_get_set ..

/-- R490 for a tile that passed its start-up test. -/
def State.stateOf (s : State) (p : Nat) : TileState := if s.fuseBad p then .fuseBad else if (s.defect p).origin ≠ 0 then .testBad else .spare

theorem decideTile_leaves {s : State} {p : Nat} (hfailed : (s.tileTest p).failed = none) :
    (∃ r ts, s.decideTile p = { s with regs := r, tileStates := ts }) ∧ ∀ q, (s.decideTile p).tileState q = if p = q then s.stateOf p else s.tileState q := by
  have hput (v : TileState) (c : Nat) : (∃ r ts, (s.setTileState p v).count c = { s with regs := r, tileStates := ts }) ∧
      ∀ q, ((s.setTileState p v).count c).tileState q = if p = q then v else s.tileState q :=
    ⟨⟨_, _, rfl⟩, fun q => tileState_setTileState ..⟩
  unfold State.decideTile State.stateOf
  dsimp only
  have hno : ¬ ((s.defect p).origin ≠ 0 ∧ (none : Option Nat).isSome = true) := fun h => Bool.false_ne_true h.2
  rw [hfailed, if_neg hno]
  split_ifs
  · exact hput ..
  · exact hput ..
  · exact hput ..

theorem decideTiles_leaves {s : State} (hfailed : ∀ p, (s.tileTest p).failed = none) {l : List Nat} (hnodup : l.Nodup) :
    (∃ r ts, s.decideTiles l = { s with regs := r, tileStates := ts }) ∧
      ∀ q, (s.decideTiles l).tileState q = if q ∈ l then s.stateOf q else s.tileState q := by
  induction l generalizing s with
  | nil => exact ⟨⟨s.regs, s.tileStates, rfl⟩, fun _ => rfl⟩
  | cons p l ih =>
    obtain ⟨hnotin, hnodup⟩ := List.nodup_cons.1 hnodup
    obtain ⟨⟨r, ts, hone⟩, hstate⟩ := decideTile_leaves (hfailed p)
    have hsame (q : Nat) : (s.decideTile p).stateOf q = s.stateOf q := by
      rw [hone]
      rfl
    obtain ⟨⟨r', ts', hrest⟩, hstates⟩ := ih (s := s.decideTile p) (fun q => by rw [hone]; exact hfailed q) hnodup
    refine ⟨⟨r', ts', by rw [State.decideTiles, hrest, hone]⟩, fun q => (hstates q).trans ?_⟩
    rw [hsame, hstate]
    by_cases hpq : p = q
    · subst hpq
      simp [hnotin]
    · simp [hpq, Ne.symm hpq]

/-- Where no tile has failed, there is nothing left to judge. -/
theorem judgeTiles_of_ended {s : State} (hfailed : ∀ p, (s.tileTest p).failed = none) (hchecked : ∀ p, (s.ladle p).checked ≠ some false) {l : List Nat}
    (hended : ∀ p ∈ l, s.tileEnded p = true) : s.judgeTiles l = s := by
  induction l with
  | nil => rfl
  | cons p l ih =>
    obtain ⟨hp, hl⟩ := List.forall_mem_cons.1 hended
    have hone : s.judgeTile p = s := by simp [State.judgeTile, hfailed p, hchecked p, hp]
    rw [State.judgeTiles, hone, ih hl]

/-- The start-up runs of the Whisk are gone. -/
def State.startupEnded (s : State) : State := { s with whisk := s.whisk.filter (fun w => ! w.startup) }

theorem exec_bringTestDone_of_passed {s : State} (hstage : s.bring.stage = 6) (hreleased : s.bring.released = true) (hended : s.goodTiles.all s.tileEnded = true)
    (hfailed : ∀ p, (s.tileTest p).failed = none) (hchecked : ∀ p, (s.ladle p).checked ≠ some false) : exec .bringTestDone s =
      .next ((s.startupEnded.decideTiles (List.range s.cfg.ladles)).stagePass (b2n s.testsSkipped)
        (toLe 16 (s.startupEnded.decideTiles (List.range s.cfg.ladles)).testBadMap)) := by
  have hexec : exec .bringTestDone s = execBringTestDone s := rfl
  have hjudged := judgeTiles_of_ended hfailed hchecked fun p hp => List.all_eq_true.1 hended p hp
  rw [hexec, execBringTestDone]
  dsimp only
  rw [if_neg (by simp [hstage, hreleased, hended]), hjudged]
  rfl

/-! ### The map (R493) -/

theorem mapPairs_frame (s : State) (l : List (Nat × Nat)) : ∃ m ts, s.mapPairs l = { s with tileMap := m, tileStates := ts } := by
  induction l generalizing s with
  | nil => exact ⟨s.tileMap, s.tileStates, rfl⟩
  | cons x l ih =>
    obtain ⟨m, ts, h⟩ := ih (({ s with tileMap := Tab.place s.tileMap x.1 x.2 } : State).setTileState x.2 .mapped)
    exact ⟨m, ts, h⟩

/-- The defect list written with BOOTS and SEQ raised (R491). -/
def State.bootListed (s : State) : State :=
  { s with bring := { s.bring with
    boots := (s.bring.boots + 1) % 2 ^ 32, seq := (s.bring.seq + 1) % 2 ^ 32, written := s.bring.defects, rewrite := false } }

/-- The last stage passes, its end is reported, and quiesce is lowered. -/
theorem ready_leaves (s : State) (f : Nat) (d : Bytes) : ∃ b ro, (((s.stagePass f d).report stOk 0 []).lowerQuiesce) = { s with bring := b, rstOut := ro } ∧
    b.stage = s.bring.stage + 1 ∧ b.boots = s.bring.boots ∧ b.seq = s.bring.seq ∧ b.written = s.bring.written := by
  refine ⟨((s.stagePass f d).report stOk 0 []).bring, (((s.stagePass f d).report stOk 0 []).lowerQuiesce).rstOut, ?_, rfl, rfl, rfl, rfl⟩
  have hreport : (s.stagePass f d).report stOk 0 [] = { s with bring := ((s.stagePass f d).report stOk 0 []).bring } := rfl
  have hdrive := drive_frame ((s.stagePass f d).report stOk 0 []) 0 false
    ((List.range 145).filter (fun i => bitAt (((s.stagePass f d).report stOk 0 []).rout i) 1 == 0))
  rw [State.lowerQuiesce]
  generalize State.drive _ 0 false _ = v at hdrive ⊢
  generalize (s.stagePass f d).report stOk 0 [] = u at hreport hdrive ⊢
  rw [hdrive, hreport]

/-- The end of the last stage, with the pairs, the sequence number and the report's flags and detail that the map has given. -/
def State.mapReported (s : State) (ps : List (Nat × Nat)) (q f : Nat) (d : Bytes) : State :=
  (((({ s.mapPairs ps with tmapSeq := q } : State).stagePass f d).report stOk 0 []).lowerQuiesce)

theorem bootListed_eq (s : State) : ({ s with bring := { s.bring with boots := (s.bring.boots + 1) % 2 ^ 32 } } : State).listWritten true = s.bootListed := rfl

theorem exec_bringMapDone_of_stage {s : State} (hstage : s.bring.stage = 7) : ∃ ps q f d, exec (.bringMapDone true) s =
    .next (s.bootListed.mapReported ps q f d) := by
  have hexec : exec (.bringMapDone true) s = execBringMapDone true s := rfl
  rw [hexec, execBringMapDone, if_neg (by simp [hstage]), bootListed_eq]
  generalize s.bootListed = u
  dsimp only
  generalize List.flatMap (fun m => m.1) (u.clusters.map u.clusterMap) = ps
  generalize (if ps.isEmpty then (u.mapPairs ps).tmapSeq else ((u.mapPairs ps).tmapSeq + 1) % 256) = q
  exact ⟨ps, q, _, _, by rw [State.mapReported]⟩

/-- Settles O9: the links by their outcomes, the release and the start-up test tile by tile, and the map. -/
theorem lateBringUpStages : Obligations.LateBringUpStages := by
  unfold Obligations.LateBringUpStages
  refine ⟨fun s second hstage hfailed htime hin => ?links, fun s second hstage hfailed hlate => ?late, fun u e d e' d' limit => rfl,
    fun m e2 d2 limit h => linkJudge_of_missing h limit, fun s hstage hheld => ?release, fun s p hstage hreleased hfailed hchecked hkat htime => ?notReady,
    fun s hstage hreleased hended hfailed hchecked => ?tested, fun s hstage => ?mapped⟩
  case links =>
    have hexec := exec_bringLinkMeasureEnd_of_due second hstage hfailed htime
    obtain ⟨⟨r, hcount⟩, hreg⟩ := countLinks_leaves s (s.judgedLinks second)
    obtain ⟨n, d, hdetail⟩ := linkDetail_leaves (s.countLinks (s.judgedLinks second)) (s.judgedLinks second)
    dsimp only at hexec
    rw [if_pos hin, hdetail] at hexec
    rw [hcount] at hexec hreg
    refine ⟨_, s.judgedLinks second, d, hexec, congrArg (· + 1) hstage, rfl, rfl, rfl, length_linkOuts .., rfl, rfl, fun a h1 h2 h3 => hreg a ?_⟩
    simp [linkRegs, h1, h2, h3]
  case late =>
    have hexec := exec_bringLinkMeasureEnd_of_due second hstage hfailed (by omega)
    obtain ⟨⟨r, hcount⟩, -⟩ := countLinks_leaves s (s.judgedLinks second)
    obtain ⟨n, d, hdetail⟩ := linkDetail_leaves (s.countLinks (s.judgedLinks second)) (s.judgedLinks second)
    dsimp only at hexec
    rw [if_neg (Nat.not_le.2 hlate), hdetail, hcount] at hexec
    exact ⟨_, hexec, hstage, rfl⟩
  case release =>
    obtain ⟨⟨ts, hmark⟩, -, hreleased⟩ := markReleased_leaves (s.released s.bring.tiles) s.goodTiles
    have hreleasedAll : (s.released s.bring.tiles).markReleased s.goodTiles = s.released ts := hmark
    have hexec := exec_bringTileRelease_of_held hstage hheld
    rw [hreleasedAll] at hexec hreleased
    have hladle (p : Nat) : (s.released ts).ladle p = s.ladle p := rfl
    generalize hv : s.released ts = v at hexec hreleased hladle
    obtain ⟨hout, hbring, hgood, hother⟩ := askKats_tilesLeave v (nodup_goodTiles s)
    have hrout (p : Nat) : State.rout ((v.tilesLeave s.goodTiles).askKats s.goodTiles) p = (s.drive 1 false s.releaseSlots).rout p := by
      rw [State.rout, hout, ← hv]
      rfl
    have hlow {p : Nat} (hp : p ∈ s.releaseSlots) : bitAt (State.rout ((v.tilesLeave s.goodTiles).askKats s.goodTiles) p) 1 = 0 := by
      rw [hrout, bitAt_rout_drive s 1 false hp]
      rfl
    have hbring' : ((v.tilesLeave s.goodTiles).askKats s.goodTiles).bring = (s.released ts).bring := by rw [hbring, hv]
    refine ⟨_, hexec, congrArg (·.released) hbring', congrArg (·.started) hbring', fun p hp => ⟨?_, hlow (List.mem_append_left _ (List.mem_append_left _ hp)), ?_⟩,
      fun p hp hidle hgate => ?_, fun p hp => ⟨(hother p hp).trans (hladle p), fun hlt => ?_⟩, fun c hc => hlow (cluster_mem_releaseSlots s hc),
      hlow (List.mem_append_right _ (List.mem_singleton_self _))⟩
    · rw [hgood p hp, inReset_asked]
    · rw [State.tileTest, hbring]
      exact hreleased p hp
    · rw [hgood p hp, hladle]
      exact kat_asked hidle hgate rfl
    · rw [hrout]
      exact rout_drive_of_notMem _ _ _ (notMem_releaseSlots hp hlt)
  case notReady =>
    have hexec : exec (.bringTileReadyTimeout p) s = execBringTileReadyTimeout p s := rfl
    have hlimit : msT 38 = 3800000 := rfl
    refine ⟨_, ?_, notReady_leaves hfailed⟩
    rw [hexec, execBringTileReadyTimeout, hlimit]
    dsimp only
    rw [if_pos ⟨hstage, hreleased, hfailed, hchecked, hkat, htime⟩]
  case tested =>
    obtain ⟨⟨r, ts, hframe⟩, hstates⟩ := decideTiles_leaves (s := s.startupEnded) hfailed (List.nodup_range (n := s.cfg.ladles))
    refine ⟨_, exec_bringTestDone_of_passed hstage hreleased hended hfailed hchecked, ?_, fun p hp => ?_, ?_⟩
    · rw [hframe]
      exact congrArg (· + 1) hstage
    · exact (hstates p).trans (if_pos (List.mem_range.2 hp))
    · rw [stagePass_frame, hframe]
      rfl
  case mapped =>
    obtain ⟨ps, q, f, d, hexec⟩ := exec_bringMapDone_of_stage hstage
    obtain ⟨m, ts, hmap⟩ := mapPairs_frame s.bootListed ps
    rw [State.mapReported, hmap] at hexec
    obtain ⟨b, ro, hready, hb, hboots, hseq, hwritten⟩ := ready_leaves { s.bootListed with tileMap := m, tileStates := ts, tmapSeq := q } f d
    exact ⟨_, hexec.trans (congrArg _ hready), hb.trans (congrArg (· + 1) hstage), hboots, hseq, hwritten, rfl⟩

end Sys2Proof.Machine
end

section
/-! What no command changes, whatever the state: each operation of the model leaves the queue and the integration as they are, so every command does.
One lemma for each operation, in the order of the model's files; the invariant of those lemmas' namesakes under Laws/ is not needed for it. -/

namespace Sys2Proof.Machine

/-- What no command changes: the queue and the integration. -/
def State.outer (s : State) : List Instr × Cfg := (s.pending, s.cfg)

/-- A record update that names neither of the two is read through this. -/
@[simp] theorem outer_mk (pending : List Instr) (cfg : Cfg) (time : Nat) (free : Nat) (out : List Out) (regs : List (Nat × Nat)) (sel : List
    (Nat × Nat)) (rwl : List Nat) (mem : List Host.Cell) (sb : List (Nat × Nat)) (port0 : Port) (port1 : Port) (stops :
    List (Nat × AirasStop)) (stnStops : List (Nat × StnStop)) (fuse : Fuse) (atb : Atb) (peer : Peer) (tapIr : Nat) (dm :
    List (Nat × Nat)) (bring : Bring) (ladles : List (Nat × Ladle)) (lidQ : List (Nat × Nat)) (answers : List (Nat × Nat ×
    Accept)) (reports : List Report) (rcps : List (Nat × RcpSlot)) (rcpLoads : List RcpLoad) (confirms : List Confirm)
    (sealQ : List SealJob) (routes : List RouteEnt) (routeQ : List Report) (lanes : List Lane) (queue : List Job) (spill :
    List Job) (arbs : List Arb) (nextJob : Nat) (turn : Nat) (seed : Nat) (models : List (Nat × Model)) (escTotal : Nat)
    (sieveT : Nat) (boundAt : Nat) (ctxs : List (Nat × Ctx)) (sck : List (Nat × SckEntry)) (lidSeq : Nat) (threads : List
    (Nat × Thread)) (progs : List (Nat × Program)) (runQ : List Nat) (lastIssued : Nat) (readySeen : List Nat) (tickets :
    List (Nat × Ticket)) (rings : List (Nat × Ring)) (laneSvc : List LaneSvc) (jseq : Nat) (journal : List JEntry)
    (jcopied : Nat) (kettle : Kettle) (fixed : Bool) (pairings : List Pairing) (provNext : Nat) (ckptQ : List CkptJob)
    (banks : List Content) (bank : Nat) (tcLoad : Option TcLoad) (tcReady : Bool) (whiskQ : List WhiskRun) (whisk : List
    WhiskRun) (nextWhisk : Nat) (testedAt : List (Nat × Nat)) (susp : List (Nat × Susp)) (halvedAt : Nat) (tileMap : List
    (Nat × Nat)) (tmapSeq : Nat) (tileStates : List (Nat × TileState)) (pendingOrder : List Nat) (stepEnded : Bool)
    (pastBounds : List Nat) (quarLast : Nat) (pairs : List (Nat × StnPair)) (capWaits : List CapWait) (capBeats : List
    CapBeat) (safe : Option Nat) (safeReset : Bool) (watched : List (Nat × Watched)) (watchDoms : List (Nat × WatchDom))
    (windowAt : Nat) (rsts : List Rst) (windows : List Window) (epochs : List (Nat × Nat)) (rstOut : List (Nat × Nat))
    (cfl : List (Nat × Nat)) (teardowns : List Teardown) (dump : Option Dump) (dumpSram : List (Nat × Nat)) (trv : Trivet) :
    (State.mk pending cfg time free out regs sel rwl mem sb port0 port1 stops stnStops fuse atb peer tapIr dm bring ladles lidQ
      answers reports rcps rcpLoads confirms sealQ routes routeQ lanes queue spill arbs nextJob turn seed models escTotal
      sieveT boundAt ctxs sck lidSeq threads progs runQ lastIssued readySeen tickets rings laneSvc jseq journal jcopied
      kettle fixed pairings provNext ckptQ banks bank tcLoad tcReady whiskQ whisk nextWhisk testedAt susp halvedAt tileMap
      tmapSeq tileStates pendingOrder stepEnded pastBounds quarLast pairs capWaits capBeats safe safeReset watched watchDoms
      windowAt rsts windows epochs rstOut cfl teardowns dump dumpSram trv).outer =
      (pending, cfg) := rfl

@[simp] theorem outer_eta (s : State) : (s.pending, s.cfg) = s.outer := rfl

@[simp] theorem outer_ite {p : Prop} [Decidable p] (a b : State) : (if p then a else b).outer = if p then a.outer else b.outer := apply_ite ..

@[simp] theorem outer_ite_fst {α : Type} {p : Prop} [Decidable p] (a b : State × α) : (if p then a else b).1.outer = if p then a.1.outer else b.1.outer :=
  apply_ite (fun x : State × α => x.1.outer) ..

/-- The same of an outcome, where it has a next state. -/
def outerOf : Host.Outcome State Fault Refusal → Option (List Instr × Cfg)
  | .next t => some t.outer
  | _ => none

@[simp] theorem outerOf_next (s : State) : outerOf (.next s) = some s.outer := rfl

theorem outer_of_fst {α : Type} {p : State × α} {u : State} {a : α} (e : p = (u, a)) : u.outer = p.1.outer := by rw [e]

@[simp] theorem outer_setReg (s : State) (a v : Nat) : (s.setReg a v).outer = s.outer := (rfl)

@[simp] theorem outer_foldl {α : Type} (f : State → α → State) (l : List α) (s : State) (hf : ∀ u x, (f u x).outer = u.outer) :
    (l.foldl f s).outer = s.outer := by
  induction l generalizing s with
  | nil => rfl
  | cons x t ih => exact (ih _).trans (hf ..)

@[simp] theorem outer_setBits (s : State) (a m : Nat) : (s.setBits a m).outer = s.outer := by simp [State.setBits]

@[simp] theorem outer_clrBits (s : State) (a m : Nat) : (s.clrBits a m).outer = s.outer := by simp [State.clrBits]

@[simp] theorem outer_countN (s : State) (a n : Nat) : (s.countN a n).outer = s.outer := by simp [State.countN]

@[simp] theorem outer_count (s : State) (a : Nat) : (s.count a).outer = s.outer := by simp [State.count]

@[simp] theorem outer_zeroRun (s : State) (n : Nat) (m : Nat) : (s.zeroRun n m).outer = s.outer := by
  induction m generalizing s n with
  | zero => rfl
  | succ n ih => simp [State.zeroRun, ih]

@[simp] theorem outer_took (s : State) (n : Nat) : (s.took n).outer = s.outer := rfl

@[simp] theorem outer_emit (s : State) (o : Out) : (s.emit o).outer = s.outer := rfl

@[simp] theorem outer_emits (s : State) (os : List Out) : (s.emits os).outer = s.outer := rfl

@[simp] theorem outer_setBanked (s : State) (src : Src) (b : Bank) (v : Nat) : (s.setBanked src b v).outer = s.outer := rfl

@[simp] theorem outer_setLadle (s : State) (t : Nat) (v : Ladle) : (s.setLadle t v).outer = s.outer := rfl

@[simp] theorem outer_setCtx (s : State) (c : Nat) (v : Ctx) : (s.setCtx c v).outer = s.outer := rfl

@[simp] theorem outer_setSck (s : State) (e : Nat) (v : SckEntry) : (s.setSck e v).outer = s.outer := rfl

@[simp] theorem outer_setRcp (s : State) (n : Nat) (v : RcpSlot) : (s.setRcp n v).outer = s.outer := rfl

@[simp] theorem outer_setThread (s : State) (t : Nat) (v : Thread) : (s.setThread t v).outer = s.outer := rfl

@[simp] theorem outer_setRing (s : State) (n : Nat) (v : Ring) : (s.setRing n v).outer = s.outer := rfl

@[simp] theorem outer_setModel (s : State) (k : Nat) (v : Model) : (s.setModel k v).outer = s.outer := (rfl)

@[simp] theorem outer_setPair (s : State) (stn i : Nat) (v : StnPair) : (s.setPair stn i v).outer = s.outer := rfl

@[simp] theorem outer_setSlot (s : State) (c k : Nat) (v : Slot) : (s.setSlot c k v).outer = s.outer := rfl

@[simp] theorem outer_setBytes (s : State) (a : Nat) (b : Bytes) : (s.setBytes a b).outer = s.outer := by simp [State.setBytes]

@[simp] theorem outer_setSb (s : State) (k v : Nat) : (s.setSb k v).outer = s.outer := by simp [State.setSb]

@[simp] theorem outer_cflDone (s : State) (c : Nat) : (s.cflDone c).outer = s.outer := by simp [State.cflDone]

@[simp] theorem outer_cflMore (s : State) (c : Nat) : (s.cflMore c).outer = s.outer := by simp [State.cflMore]

@[simp] theorem outer_tearDone (s : State) (c gen : Nat) : (s.tearDone c gen).outer = s.outer := by simp [State.tearDone]

@[simp] theorem outer_cflComplete (s : State) (c gen : Nat) : (s.cflComplete c gen).1.outer = s.outer := by simp [State.cflComplete]

@[simp] theorem outer_cflCompletes (s : State) (l : List MemReq) : (s.cflCompletes l).outer = s.outer := by
  induction l generalizing s with
  | nil => rfl
  | cons x t ih => simp [State.cflCompletes, ih]

@[simp] theorem outer_request (s : State) (op : MemOp) (blk line len : Nat) (acc : Access) : (s.request op blk line len acc).outer = s.outer := by
  simp [State.request]

@[simp] theorem outer_requestReads (s : State) (blk : Nat) (acc : Access) (n : Nat) : (s.requestReads blk acc n).outer = s.outer := by
  induction n generalizing s blk acc with
  | zero => rfl
  | succ n ih => simp [State.requestReads, ih]

@[simp] theorem outer_retire (s : State) (p : Access → Bool) : (s.retire p).outer = s.outer := by simp [State.retire]

@[simp] theorem outer_writeZ (s : State) (addr : Nat) (b : Bytes) (acc : Access) : (s.writeZ addr b acc).outer = s.outer := by simp [State.writeZ]

@[simp] theorem outer_writeS (s : State) (blk : Nat) (b : Bytes) (sbv : Nat) (acc : Access) : (s.writeS blk b sbv acc).outer = s.outer := by
  simp [State.writeS]

@[simp] theorem outer_sbCwrite (s : State) (blk cmp sbv : Nat) (acc : Access) : (s.sbCwrite blk cmp sbv acc).outer = s.outer := by simp [State.sbCwrite]

@[simp] theorem outer_writeSealed (s : State) (blk : Nat) (b : Bytes) (gen fmt : Nat) (acc : Access) :
    (s.writeSealed blk b gen fmt acc).outer = s.outer := by
  simp [State.writeSealed]

@[simp] theorem outer_capture (s : State) (base src addr access master : Nat) : (s.capture base src addr access master).outer = s.outer := by
  simp [State.capture]

@[simp] theorem outer_capUc (s : State) (cls : Nat) (wire info : Bool) (stn i addr access master : Nat) :
    (s.capUc cls wire info stn i addr access master).outer = s.outer := by
  simp [State.capUc]

@[simp] theorem outer_capCe (s : State) (info : Bool) (stn i addr access master : Nat) : (s.capCe info stn i addr access master).outer = s.outer := by
  simp [State.capCe]

@[simp] theorem outer_raiseFault (s : State) (i addr access master : Nat) : (s.raiseFault i addr access master).outer = s.outer := by simp [State.raiseFault]

@[simp] theorem outer_faultBlk (s : State) (i blk access ctx : Nat) : (s.faultBlk i blk access ctx).outer = s.outer := by simp [State.faultBlk]

@[simp] theorem outer_faultInt (s : State) (i ctx : Nat) : (s.faultInt i ctx).outer = s.outer := by simp [State.faultInt]

/-! ### The operations of Machine/Peer.lean -/

@[simp] theorem outer_sendPeer (s : State) (cls dst : Nat) (body : Bytes) : (s.sendPeer cls dst body).outer = s.outer := by simp [State.sendPeer]

@[simp] theorem outer_discardPeer (s : State) (m : PeerMsg) : (s.discardPeer m).outer = s.outer := by simp [State.discardPeer]

@[simp] theorem outer_takePeer (s : State) (m : PeerMsg) : (s.takePeer m).outer = s.outer := by simp [State.takePeer]

@[simp] theorem outer_creditReturn (s : State) (cls : Nat) : (s.creditReturn cls).outer = s.outer := by
  unfold State.creditReturn
  (repeat' split) <;> simp

@[simp] theorem outer_execPeerCreditReturn (cls : Nat) (s : State) : outerOf (execPeerCreditReturn cls s) = some s.outer := by simp [execPeerCreditReturn]

@[simp] theorem outer_execPeerMessageDiscard (m : PeerMsg) (s : State) : outerOf (execPeerMessageDiscard m s) = some s.outer := by
  simp [execPeerMessageDiscard]

/-! ### The operations of Machine/Journal.lean -/

@[simp] theorem outer_journalLost (s : State) : s.journalLost.outer = s.outer := by simp [State.journalLost]

@[simp] theorem outer_copyEntry (s : State) (e : JEntry) : (s.copyEntry e).outer = s.outer := by simp [State.copyEntry]

@[simp] theorem outer_copyEntries (s : State) (l : List JEntry) : (s.copyEntries l).outer = s.outer := by
  induction l generalizing s with
  | nil => rfl
  | cons x t ih => simp [State.copyEntries, ih]

@[simp] theorem outer_copyJournal (s : State) : s.copyJournal.outer = s.outer := by simp [State.copyJournal]

@[simp] theorem outer_replaced (s : State) : s.replaced.outer = s.outer := by
  unfold State.replaced
  (repeat' split) <;> simp

@[simp] theorem outer_record (s : State) (e : JEntry) : (s.record e).outer = s.outer := by simp [State.record]

@[simp] theorem outer_kettleEvent (s : State) (ev core : Nat) : (s.kettleEvent ev core).outer = s.outer := by simp [State.kettleEvent]

@[simp] theorem outer_setTicket (s : State) (t : Nat) (v : Ticket) : (s.setTicket t v).outer = s.outer := rfl

@[simp] theorem outer_dropTicket (s : State) (t : Nat) : (s.dropTicket t).outer = s.outer := rfl

/-! ### The operations of Machine/Lid.lean -/

@[simp] theorem outer_gate (s : State) (c kind cause bucket step opseq count : Nat) : (s.gate c kind cause bucket step opseq count).outer = s.outer := by
  simp [State.gate]

@[simp] theorem outer_dropSamples (s : State) (c step origin : Nat) : (s.dropSamples c step origin).outer = s.outer := rfl

@[simp] theorem outer_nullBucket (s : State) (c k b : Nat) : (s.nullBucket c k b).outer = s.outer := by simp [State.nullBucket]

@[simp] theorem outer_nullBuckets (s : State) (c k : Nat) (l : List Nat) : (s.nullBuckets c k l).outer = s.outer := by
  induction l generalizing s c k with
  | nil => rfl
  | cons x t ih => simp [State.nullBuckets, ih]

@[simp] theorem outer_noteStep (s : State) (c step : Nat) (ok : Bool) : (s.noteStep c step ok).outer = s.outer := rfl

@[simp] theorem outer_forgetStep (s : State) (c step : Nat) : (s.forgetStep c step).outer = s.outer := by simp [State.forgetStep]

@[simp] theorem outer_endsStep (s : State) : s.endsStep.outer = s.outer := by simp [State.endsStep]

@[simp] theorem outer_leaveBoundary (s : State) (t : Nat) : (s.leaveBoundary t).outer = s.outer := by simp [State.leaveBoundary]

@[simp] theorem outer_dropPending (s : State) (c step : Nat) : (s.dropPending c step).outer = s.outer := rfl

@[simp] theorem outer_abandonOne (s : State) (c k cause opseq : Nat) : (s.abandonOne c k cause opseq).outer = s.outer := by simp [State.abandonOne]

@[simp] theorem outer_abandonAll (s : State) (c cause : Nat) (l : List Nat) : (s.abandonAll c cause l).outer = s.outer := by
  induction l generalizing s c cause with
  | nil => rfl
  | cons x t ih => simp [State.abandonAll, ih]

@[simp] theorem outer_abandon (s : State) (c k cause opseq : Nat) : (s.abandon c k cause opseq).outer = s.outer := by simp [State.abandon]

@[simp] theorem outer_terminate (s : State) (c : Nat) : (s.terminate c).outer = s.outer := by simp [State.terminate]

@[simp] theorem outer_terminateAll (s : State) (l : List Nat) : (s.terminateAll l).outer = s.outer := by
  induction l generalizing s with
  | nil => rfl
  | cons x t ih => simp [State.terminateAll, ih]

@[simp] theorem outer_pairCapture (s : State) (c k kind q loc ptn : Nat) : (s.pairCapture c k kind q loc ptn).outer = s.outer := by simp [State.pairCapture]

@[simp] theorem outer_pairDiverge (s : State) (c k kind q loc ptn : Nat) : (s.pairDiverge c k kind q loc ptn).outer = s.outer := by simp [State.pairDiverge]

@[simp] theorem outer_pairSend (s : State) (c k : Nat) (p : Pairing) (l : List Nat) : (s.pairSend c k p l).outer = s.outer := by
  induction l generalizing s c k p with
  | nil => rfl
  | cons x t ih =>
    unfold State.pairSend
    dsimp only
    (repeat' split) <;> simp [ih]

@[simp] theorem outer_unhold (s : State) (c : Nat) (m : PairMsg) : (s.unhold c m).outer = s.outer := rfl

@[simp] theorem outer_pairMatch (s : State) (c k : Nat) (l : List PairMsg) : (s.pairMatch c k l).outer = s.outer := by
  induction l generalizing s c k with
  | nil => rfl
  | cons x t ih =>
    unfold State.pairMatch
    dsimp only
    (repeat' split) <;> simp [ih]

@[simp] theorem outer_pairSendStep (s : State) (p : Pairing) (k : Nat) : (s.pairSendStep p k).outer = s.outer := by simp [State.pairSendStep]

@[simp] theorem outer_pairSendAll (s : State) (l : List (Pairing × Nat)) : (s.pairSendAll l).outer = s.outer := by
  induction l generalizing s with
  | nil => rfl
  | cons x t ih => simp [State.pairSendAll, ih]

@[simp] theorem outer_pairFlush (s : State) (c k : Nat) : (s.pairFlush c k).outer = s.outer := by
  unfold State.pairFlush
  (repeat' split) <;> simp

@[simp] theorem outer_pairForm (s : State) (c k q : Nat) : (s.pairForm c k q).outer = s.outer := by
  unfold State.pairForm
  (repeat' split) <;> simp

@[simp] theorem outer_failOp (s : State) (c k q : Nat) : (s.failOp c k q).outer = s.outer := by simp [State.failOp]

@[simp] theorem outer_halt (s : State) (c k origin : Nat) : (s.halt c k origin).outer = s.outer := by simp [State.halt]

@[simp] theorem outer_nullStep (s : State) (c k : Nat) : (s.nullStep c k).outer = s.outer := by simp [State.nullStep]

@[simp] theorem outer_detect (s : State) (c k q origin : Nat) : (s.detect c k q origin).outer = s.outer := by
  unfold State.detect
  dsimp only
  (repeat' split) <;> simp

@[simp] theorem outer_detectStep (s : State) (c gen step q origin : Nat) : (s.detectStep c gen step q origin).outer = s.outer := by
  unfold State.detectStep
  dsimp only
  (repeat' split) <;> simp

@[simp] theorem outer_mergeMax (s : State) (e step m : Nat) : (s.mergeMax e step m).outer = s.outer := by simp [State.mergeMax]

@[simp] theorem outer_settle (s : State) (c k q : Nat) : (s.settle c k q).outer = s.outer := by
  unfold State.settle
  (repeat' split) <;> simp

@[simp] theorem outer_onOp (s : State) (c k q : Nat) (f : OpRec → OpRec) : (s.onOp c k q f).outer = s.outer := by simp [State.onOp]

/-! ### The operations of Machine/Suspects.lean -/

@[simp] theorem outer_setSusp (s : State) (e : Nat) (v : Susp) : (s.setSusp e v).outer = s.outer := rfl

@[simp] theorem outer_evalUnit (s : State) (u : Nat) : (s.evalUnit u).outer = s.outer := by simp [State.evalUnit]

@[simp] theorem outer_evalUnits (s : State) (u : Nat) (n : Nat) : (s.evalUnits u n).outer = s.outer := by
  induction n generalizing s u with
  | zero => rfl
  | succ n ih => simp [State.evalUnits, ih]

@[simp] theorem outer_observe (s : State) (k u sig : Nat) : (s.observe k u sig).outer = s.outer := by simp [State.observe]

@[simp] theorem outer_passUnit (s : State) (u : Nat) : (s.passUnit u).outer = s.outer := by simp [State.passUnit]

@[simp] theorem outer_execSuspectScoreHalving (s : State) : outerOf (execSuspectScoreHalving s) = some s.outer := by simp [execSuspectScoreHalving]

/-! ### The operations of Machine/Ladle.lean -/

@[simp] theorem outer_mapOps (s : State) (t : Nat) (f : LOp → LOp) : (s.mapOps t f).outer = s.outer := rfl

@[simp] theorem outer_putOp (s : State) (t : Nat) (v : LOp) : (s.putOp t v).outer = s.outer := rfl

@[simp] theorem outer_sweep (s : State) (t : Nat) : (s.sweep t).outer = s.outer := rfl

@[simp] theorem outer_ldlCount (s : State) (t k n : Nat) : (s.ldlCount t k n).outer = s.outer := by simp [State.ldlCount]

@[simp] theorem outer_tapErr (s : State) (t bit opseq tag : Nat) : (s.tapErr t bit opseq tag).outer = s.outer := by simp [State.tapErr]

@[simp] theorem outer_breachN (s : State) (t : Nat) (o : LOp) (rows : Nat) : (s.breachN t o rows).1.outer = s.outer := by simp [State.breachN]

@[simp] theorem outer_breach (s : State) (t : Nat) (o : LOp) : (s.breach t o).1.outer = s.outer := by simp [State.breach]

@[simp] theorem outer_discardBeat (s : State) (t tag rows : Nat) : (s.discardBeat t tag rows).outer = s.outer := by simp [State.discardBeat]

@[simp] theorem outer_softBreach (s : State) (t : Nat) (o : LOp) (bit k : Nat) (f : Finding) : (s.softBreach t o bit k f).1.outer = s.outer := by
  simp [State.softBreach]

@[simp] theorem outer_descError (s : State) (t : Nat) (o : LOp) : (s.descError t o).1.outer = s.outer := by simp [State.descError]

@[simp] theorem outer_onBeatWith (s : State) (t tag more : Nat) (f : LOp → State × LOp) (hf : s.tileRuns t = true → ∀ o, (f o).1.outer = s.outer) :
    (s.onBeatWith t tag more f).outer = s.outer := by
  unfold State.onBeatWith
  dsimp only
  (repeat' split) <;> simp_all

@[simp] theorem outer_onBeat (s : State) (t tag : Nat) (f : LOp → State × LOp) (hf : ∀ o, (f o).1.outer = s.outer) :
    (s.onBeat t tag f).outer = s.outer := by
  simp [State.onBeat, hf]

@[simp] theorem outer_cutBy (s : State) (t : Nat) (cut : Option Nat) : (s.cutBy t cut).outer = s.outer := by
  unfold State.cutBy
  (repeat' split) <;> simp

@[simp] theorem outer_openOp (s : State) (t tag : Nat) (d : Desc) (spA spB : Option Sparse) : (s.openOp t tag d spA spB).outer = s.outer := by
  simp [State.openOp]

@[simp] theorem outer_execDescriptorBeat (tile tag data : Nat) (spA spB : Option Sparse) (s : State) :
    outerOf (execDescriptorBeat tile tag data spA spB s) = some s.outer := by
  simp [execDescriptorBeat]

@[simp] theorem outer_ingress (s : State) (t : Nat) (o : LOp) (region off : Nat) (data : Bytes) (sbv : Nat) :
    (s.ingress t o region off data sbv).1.outer = s.outer := by
  unfold State.ingress
  dsimp only
  (repeat' split) <;> simp

@[simp] theorem outer_execSealIngressBlock (tile tag region blk : Nat) (data : Bytes) (bcv : Nat) (cut : Option Nat) (s : State) :
    outerOf (execSealIngressBlock tile tag region blk data bcv cut s) = some s.outer := by
  simp [execSealIngressBlock]

@[simp] theorem outer_compareBlocks (s : State) (t : Nat) (o : LOp) (l : List (Nat × Bytes)) : (s.compareBlocks t o l).1.outer = s.outer := by
  induction l generalizing s t o with
  | nil => rfl
  | cons x t ih => simp [State.compareBlocks, ih]

@[simp] theorem outer_execEgressBlockCompare (tile tag blk : Nat) (data : Bytes) (cut : Option Nat) (s : State) :
    outerOf (execEgressBlockCompare tile tag blk data cut s) = some s.outer := by
  simp [execEgressBlockCompare]

@[simp] theorem outer_bufferCheck (s : State) (t : Nat) (o : LOp) (was : Nat) : (s.bufferCheck t o was).1.outer = s.outer := by simp [State.bufferCheck]

@[simp] theorem outer_indexCheck (s : State) (t : Nat) (o : LOp) (atEnd : Bool) : (s.indexCheck t o atEnd).1.outer = s.outer := by
  unfold State.indexCheck
  (repeat' split) <;> simp

@[simp] theorem outer_execOperandBeat (tile tag kind row col : Nat) (run : List Nat) (s : State) :
    outerOf (execOperandBeat tile tag kind row col run s) = some s.outer := by
  simp [execOperandBeat]

@[simp] theorem outer_outBreach (s : State) (t : Nat) (o : LOp) (rows : Nat) : (s.outBreach t o rows).1.outer = s.outer := by simp [State.outBreach]

@[simp] theorem outer_execOutputBeat (tile tag : Nat) (scale : Bool) (row col : Nat) (lanes : List (Option OutEl)) (s : State) :
    outerOf (execOutputBeat tile tag scale row col lanes s) = some s.outer := by
  simp [execOutputBeat]

@[simp] theorem outer_closeChecks (s : State) (t : Nat) (o : LOp) (outside again : Bool) : (s.closeChecks t o outside again).1.outer = s.outer := by
  simp [State.closeChecks]

@[simp] theorem outer_execOutputLastBeat (tile tag row col : Nat) (lanes : List (Option OutEl)) (flags : Nat) (s : State) :
    outerOf (execOutputLastBeat tile tag row col lanes flags s) = some s.outer := by
  simp [execOutputLastBeat]

@[simp] theorem outer_execConverterMaxBeat (tile tag m : Nat) (s : State) : outerOf (execConverterMaxBeat tile tag m s) = some s.outer := by
  simp [execConverterMaxBeat]

@[simp] theorem outer_execConverterMaxDeadline (tile tag : Nat) (s : State) : outerOf (execConverterMaxDeadline tile tag s) = some s.outer := by
  unfold execConverterMaxDeadline
  (repeat' split) <;> simp

@[simp] theorem outer_execRouteBeat (tile tag : Nat) (triples : List (Nat × Nat × Nat)) (last : Bool) (s : State) :
    outerOf (execRouteBeat tile tag triples last s) = some s.outer := by
  simp [execRouteBeat]

@[simp] theorem outer_takeAnswer (s : State) (t : Nat) (o : LOp) (a : Accept) : (s.takeAnswer t o a).outer = s.outer := by
  unfold State.takeAnswer
  (repeat' split) <;> simp

@[simp] theorem outer_lidAnswer (s : State) (t tag : Nat) : (s.lidAnswer t tag).outer = s.outer := by
  unfold State.lidAnswer
  dsimp only
  (repeat' split) <;> simp

@[simp] theorem outer_execLidAcceptance (tile tag : Nat) (s : State) : outerOf (execLidAcceptance tile tag s) = some s.outer := by simp [execLidAcceptance]

@[simp] theorem outer_ldlCounts (s : State) (t : Nat) (o : LOp) (l : List (Nat × Nat)) : (s.ldlCounts t o l).1.outer = s.outer := by
  induction l generalizing s t o with
  | nil => rfl
  | cons x t ih => simp [State.ldlCounts, ih]

@[simp] theorem outer_locCapture (s : State) (t : Nat) (o : LOp) (loc : Location) : (s.locCapture t o loc).outer = s.outer := by
  unfold State.locCapture
  (repeat' split) <;> simp

@[simp] theorem outer_whiskResult (s : State) (t : Nat) (r : WhiskRes) : (s.whiskResult t r).outer = s.outer := by simp [State.whiskResult]

@[simp] theorem outer_verdict (s : State) (t : Nat) (o : LOp) (late' : Bool) : (s.verdict t o late').outer = s.outer := by simp [State.verdict]

@[simp] theorem outer_execLadleVerdict (tile tag : Nat) (late : Bool) (s : State) : outerOf (execLadleVerdict tile tag late s) = some s.outer := by
  unfold execLadleVerdict
  (repeat' split) <;> simp

@[simp] theorem outer_refusedReport (s : State) (t : Nat) (o : LOp) : (s.refusedReport t o).outer = s.outer := by simp [State.refusedReport]

@[simp] theorem outer_execBcvHandshake (tile blk : Nat) (s : State) : outerOf (execBcvHandshake tile blk s) = some s.outer := by
  unfold execBcvHandshake
  (repeat' split) <;> simp

@[simp] theorem outer_abandonOps (s : State) (t : Nat) (l : List LOp) : (s.abandonOps t l).outer = s.outer := by
  induction l generalizing s t with
  | nil => rfl
  | cons x t ih => simp [State.abandonOps, ih]

@[simp] theorem outer_ladleOk (s : State) (t : Nat) : (s.ladleOk t).outer = s.outer := by simp [State.ladleOk]

@[simp] theorem outer_ladleReset (s : State) (t : Nat) : (s.ladleReset t).outer = s.outer := by simp [State.ladleReset]

@[simp] theorem outer_ladleFault (s : State) (t : Nat) : (s.ladleFault t).outer = s.outer := rfl

@[simp] theorem outer_katAnswer (s : State) (t : Nat) (pass : Bool) : (s.katAnswer t pass).outer = s.outer := rfl

@[simp] theorem outer_observeChecker (s : State) (t : Nat) (n : Nat) : (s.observeChecker t n).outer = s.outer := by
  induction n generalizing s t with
  | zero => rfl
  | succ n ih => simp [State.observeChecker, ih]

@[simp] theorem outer_katEnd (s : State) (t : Nat) (pass : Bool) : (s.katEnd t pass).outer = s.outer := by simp [State.katEnd]

@[simp] theorem outer_requestKat (s : State) (t : Nat) : (s.requestKat t).outer = s.outer := by simp [State.requestKat]

@[simp] theorem outer_execLadleSelfCheckStart (tile : Nat) (s : State) : outerOf (execLadleSelfCheckStart tile s) = some s.outer := by
  simp [execLadleSelfCheckStart]

@[simp] theorem outer_setStop (s : State) (t : Nat) (v : AirasStop) : (s.setStop t v).outer = s.outer := rfl

@[simp] theorem outer_setStnStop (s : State) (c : Nat) (v : StnStop) : (s.setStnStop c v).outer = s.outer := by simp [State.setStnStop]

@[simp] theorem outer_unreach (s : State) (t : Nat) : (s.unreach t).outer = s.outer := by simp [State.unreach]

@[simp] theorem outer_ladleFrame (s : State) (t seq : Nat) (ok : Bool) : (s.ladleFrame t seq ok).outer = s.outer := by simp [State.ladleFrame]

@[simp] theorem outer_stationFrame (s : State) (t seq : Nat) (ok : Bool) : (s.stationFrame t seq ok).outer = s.outer := by simp [State.stationFrame]

@[simp] theorem outer_execAirasFrame (tile : Nat) (atStation : Bool) (payload seq crc : Nat) (s : State) :
    outerOf (execAirasFrame tile atStation payload seq crc s) = some s.outer := by
  simp [execAirasFrame]

/-! ### The operations of Machine/Seals.lean -/

@[simp] theorem outer_poisonBlock (s : State) (blk : Nat) : (s.poisonBlock blk).outer = s.outer := by simp [State.poisonBlock]

@[simp] theorem outer_resealBlock (s : State) (blk : Nat) : (s.resealBlock blk).outer = s.outer := by simp [State.resealBlock]

@[simp] theorem outer_overBlocks (s : State) (f : State → Nat → State) (b n : Nat) (hf : ∀ u k, (f u k).outer = u.outer) :
    (s.overBlocks f b n).outer = s.outer := by
  induction n generalizing s b with
  | zero => rfl
  | succ n ih => exact (ih _ _).trans (hf _ _)

@[simp] theorem outer_poisonOuts (s : State) (o : OpRec) : (s.poisonOuts o).outer = s.outer := by simp [State.poisonOuts]

@[simp] theorem outer_resealOuts (s : State) (o : OpRec) : (s.resealOuts o).outer = s.outer := by simp [State.resealOuts]

@[simp] theorem outer_poisonedInput (s : State) (c gen step q : Nat) (counted : Bool) (blk : Nat) :
    (s.poisonedInput c gen step q counted blk).outer = s.outer := by
  simp [State.poisonedInput]

@[simp] theorem outer_poisonedInputs (s : State) (c gen step q : Nat) (l : List Nat) : (s.poisonedInputs c gen step q l).outer = s.outer := by
  induction l generalizing s c gen step q with
  | nil => rfl
  | cons x t ih => simp [State.poisonedInputs, ih]

@[simp] theorem outer_startConfirm (s : State) (blk : Nat) (own : Bool) (gen fmt : Nat) (r : ConfRep) :
    (s.startConfirm blk own gen fmt r).outer = s.outer := by
  simp [State.startConfirm]

@[simp] theorem outer_sealCapture (s : State) (k blk : Nat) (r : ConfRep) : (s.sealCapture k blk r).outer = s.outer := by simp [State.sealCapture]

@[simp] theorem outer_abandonStep (s : State) (c gen step cause q : Nat) : (s.abandonStep c gen step cause q).outer = s.outer := by
  unfold State.abandonStep
  dsimp only
  (repeat' split) <;> simp

@[simp] theorem outer_confAct (s : State) (k blk : Nat) (r : ConfRep) : (s.confAct k blk r).outer = s.outer := by simp [State.confAct]

@[simp] theorem outer_confActs (s : State) (k blk : Nat) (l : List ConfRep) : (s.confActs k blk l).outer = s.outer := by
  induction l generalizing s k blk with
  | nil => rfl
  | cons x t ih => simp [State.confActs, ih]

@[simp] theorem outer_confirm (s : State) (c : Confirm) (reached : Bool) : (s.confirm c reached).outer = s.outer := by simp [State.confirm]

@[simp] theorem outer_execSealConfirmation (blk : Nat) (data : Bytes) (bcv : Nat) (reached : Bool) (s : State) :
    outerOf (execSealConfirmation blk data bcv reached s) = some s.outer := by
  unfold execSealConfirmation
  (repeat' split) <;> simp

@[simp] theorem outer_putRoute (s : State) (e : RouteEnt) : (s.putRoute e).outer = s.outer := by simp [State.putRoute]

@[simp] theorem outer_detectMembers (s : State) (c gen step origin : Nat) (l : List RMember) : (s.detectMembers c gen step origin l).outer = s.outer := by
  induction l generalizing s c gen step origin with
  | nil => rfl
  | cons x t ih => simp [State.detectMembers, ih]

@[simp] theorem outer_routeFail (s : State) (e : RouteEnt) (k : Nat) : (s.routeFail e k).outer = s.outer := by simp [State.routeFail]

@[simp] theorem outer_routePass (s : State) (c k : Nat) (l : List RMember) : (s.routePass c k l).outer = s.outer := by
  induction l generalizing s c k with
  | nil => rfl
  | cons x t ih => simp [State.routePass, ih]

@[simp] theorem outer_routeClose (s : State) (e : RouteEnt) (k : Nat) : (s.routeClose e k).outer = s.outer := by
  unfold State.routeClose
  dsimp only
  (repeat' split) <;> simp

@[simp] theorem outer_routeTake (s : State) (r : Report) : (s.routeTake r).outer = s.outer := by
  unfold State.routeTake
  dsimp only
  (repeat' split) <;> simp

@[simp] theorem outer_execRouteReport (s : State) : outerOf (execRouteReport s) = some s.outer := by
  unfold execRouteReport
  (repeat' split) <;> simp

@[simp] theorem outer_routesIncomplete (s : State) (l : List RouteEnt) : (s.routesIncomplete l).outer = s.outer := by
  induction l generalizing s with
  | nil => rfl
  | cons x t ih => simp [State.routesIncomplete, ih]

@[simp] theorem outer_routesReset (s : State) (c gen step : Nat) (resets : Nat → Bool) : (s.routesReset c gen step resets).outer = s.outer := by
  simp [State.routesReset]

/-! ### The operations of Machine/Sieve.lean -/

@[simp] theorem outer_addEscape (s : State) (c k q : Nat) : (s.addEscape c k q).outer = s.outer := by
  unfold State.addEscape
  (repeat' split) <;> simp

@[simp] theorem outer_rebound (s : State) : s.rebound.outer = s.outer := by simp [State.rebound]

@[simp] theorem outer_execSieveBoundRecompute (s : State) : outerOf (execSieveBoundRecompute s) = some s.outer := by simp [execSieveBoundRecompute]

@[simp] theorem outer_endSample (s : State) (j : Job) (executed : Bool) : (s.endSample j executed).outer = s.outer := by
  unfold State.endSample
  (repeat' split) <;> simp

@[simp] theorem outer_dropSample (s : State) (j : Job) : (s.dropSample j).outer = s.outer := by
  unfold State.dropSample
  dsimp only
  (repeat' split) <;> simp

@[simp] theorem outer_spillSample (s : State) (j : Job) : (s.spillSample j).outer = s.outer := by simp [State.spillSample]

@[simp] theorem outer_queueSample (s : State) (j : Job) : (s.queueSample j).outer = s.outer := by simp [State.queueSample]

@[simp] theorem outer_newSample (s : State) (c k : Nat) (o : OpRec) (els : List Nat) : (s.newSample c k o els).outer = s.outer := by simp [State.newSample]

@[simp] theorem outer_execSpillReturn (s : State) : outerOf (execSpillReturn s) = some s.outer := by
  unfold execSpillReturn
  (repeat' split) <;> simp

/-! ### The operations of Machine/Mortar.lean -/

@[simp] theorem outer_setLane (s : State) (l : Nat) (v : Lane) : (s.setLane l v).outer = s.outer := rfl

@[simp] theorem outer_countNoLane (s : State) (j : Job) : (s.countNoLane j).outer = s.outer := by simp [State.countNoLane]

@[simp] theorem outer_endArb (s : State) (id lane : Nat) (d : Decision) : (s.endArb id lane d).outer = s.outer := rfl

@[simp] theorem outer_noLaneJobs (s : State) (l : List Job) : (s.noLaneJobs l).outer = s.outer := by
  induction l generalizing s with
  | nil => rfl
  | cons x t ih =>
    unfold State.noLaneJobs
    (repeat' split) <;> simp [ih]

@[simp] theorem outer_serveNoLane (s : State) : s.serveNoLane.outer = s.outer := by simp [State.serveNoLane]

@[simp] theorem outer_fence (s : State) (l : Nat) (fault : Bool) : (s.fence l fault).outer = s.outer := by simp [State.fence]

@[simp] theorem outer_fetchBlocks (s : State) (l base : Nat) (xs : List Nat) : (s.fetchBlocks l base xs).outer = s.outer := by
  induction xs generalizing s l base with
  | nil => rfl
  | cons x t ih => simp [State.fetchBlocks, ih]

@[simp] theorem outer_fetchRegions (s : State) (l : Nat) (xs : List (Region × List Nat)) : (s.fetchRegions l xs).outer = s.outer := by
  induction xs generalizing s l with
  | nil => rfl
  | cons x t ih => simp [State.fetchRegions, ih]

@[simp] theorem outer_runOn (s : State) (l : Nat) (j : Job) : (s.runOn l j).outer = s.outer := by simp [State.runOn]

@[simp] theorem outer_jobStart (s : State) (lane : Nat) : (s.jobStart lane).outer = s.outer := by
  unfold State.jobStart
  (repeat' split) <;> simp

@[simp] theorem outer_execSampleAgeDrop (ctx step opseq : Nat) (s : State) : outerOf (execSampleAgeDrop ctx step opseq s) = some s.outer := by
  unfold execSampleAgeDrop
  (repeat' split) <;> simp

@[simp] theorem outer_refuseSlot (s : State) (slot : Nat) : (s.refuseSlot slot).outer = s.outer := by simp [State.refuseSlot]

@[simp] theorem outer_arbOver (s : State) (j : Job) : (s.arbOver j).outer = s.outer := by
  unfold State.arbOver
  dsimp only
  (repeat' split) <;> simp

@[simp] theorem outer_dropArb (s : State) (j : Job) : (s.dropArb j).outer = s.outer := by simp [State.dropArb]

@[simp] theorem outer_fetchFail (s : State) (j : Job) (blk kind fmt : Nat) : (s.fetchFail j blk kind fmt).outer = s.outer := by simp [State.fetchFail]

@[simp] theorem outer_recipeFail (s : State) (j : Job) (lane : Nat) : (s.recipeFail j lane).outer = s.outer := by simp [State.recipeFail]

@[simp] theorem outer_recipeGone (s : State) (j : Job) (lane : Nat) : (s.recipeGone j lane).outer = s.outer := by simp [State.recipeGone]

@[simp] theorem outer_arbCapture (s : State) (o : OpRec) (dec : Decision) (lane src : Nat) : (s.arbCapture o dec lane src).outer = s.outer := by
  simp [State.arbCapture]

@[simp] theorem outer_again (s : State) (j : Job) (lane : Nat) : (s.again j lane).outer = s.outer := by simp [State.again]

@[simp] theorem outer_sampleWrong (s : State) (j : Job) (lane cnt : Nat) (dec : Decision) : (s.sampleWrong j lane cnt dec).outer = s.outer := by
  simp [State.sampleWrong]

@[simp] theorem outer_engineWrong (s : State) (j : Job) (lane : Nat) : (s.engineWrong j lane).outer = s.outer := by simp [State.engineWrong]

@[simp] theorem outer_fenceBoth (s : State) (first : Option Nat) (lane : Nat) : (s.fenceBoth first lane).outer = s.outer := by
  unfold State.fenceBoth
  (repeat' split) <;> simp

@[simp] theorem outer_sampleEnd (s : State) (j : Job) (lane : Nat) (halves : Bool) (x : RunOut) : (s.sampleEnd j lane halves x).outer = s.outer := by
  unfold State.sampleEnd
  (repeat' split) <;> simp

@[simp] theorem outer_jobEnd (s : State) (j : Job) (lane : Nat) (halves : Bool) : (s.jobEnd j lane halves).outer = s.outer := by
  unfold State.jobEnd
  dsimp only
  (repeat' split) <;> simp

@[simp] theorem outer_laneFree (s : State) (lane : Nat) : (s.laneFree lane).outer = s.outer := by simp [State.laneFree]

@[simp] theorem outer_mortarFailed (s : State) (lane blk : Nat) : (s.mortarFailed lane blk).outer = s.outer := by
  unfold State.mortarFailed
  (repeat' split) <;> simp

@[simp] theorem outer_execMortarJobEnd (lane : Nat) (halvesAgree : Bool) (s : State) : outerOf (execMortarJobEnd lane halvesAgree s) = some s.outer := by
  unfold execMortarJobEnd
  (repeat' split) <;> simp

@[simp] theorem outer_selfTestDone (s : State) (lane : Nat) (pass : Bool) : (s.selfTestDone lane pass).outer = s.outer := by
  unfold State.selfTestDone
  (repeat' split) <;> simp

@[simp] theorem outer_arbitrate (s : State) (c k : Nat) (o : OpRec) (r : Report) : (s.arbitrate c k o r).outer = s.outer := by simp [State.arbitrate]

@[simp] theorem outer_execArbSelfCheckTimeout (ctx step opseq : Nat) (s : State) : outerOf (execArbSelfCheckTimeout ctx step opseq s) = some s.outer := rfl

@[simp] theorem outer_observeDecision (s : State) (a : Arb) (d : Decision) : (s.observeDecision a d).outer = s.outer := by
  unfold State.observeDecision
  (repeat' split) <;> simp

@[simp] theorem outer_arbStands (s : State) (c k : Nat) (o : OpRec) : (s.arbStands c k o).outer = s.outer := by simp [State.arbStands]

@[simp] theorem outer_arbAct (s : State) (a : Arb) (d : Decision) : (s.arbAct a d).outer = s.outer := by
  unfold State.arbAct
  dsimp only
  (repeat' split) <;> simp

@[simp] theorem outer_execArbitrationDecision (ctx step opseq : Nat) (s : State) : outerOf (execArbitrationDecision ctx step opseq s) = some s.outer := by
  unfold execArbitrationDecision
  (repeat' split) <;> simp

@[simp] theorem outer_onLoad (s : State) (slot : Nat) (f : RcpLoad → RcpLoad) : (s.onLoad slot f).outer = s.outer := by simp [State.onLoad]

@[simp] theorem outer_katRan (s : State) (slot lane : Nat) (r : Recipe) (v : Nat) (rest : List Nat) (halves : Bool) :
    (s.katRan slot lane r v rest halves).outer = s.outer := by
  simp [State.katRan]

@[simp] theorem outer_execKatVectorRun (slot : Nat) (halves : Bool) (s : State) : outerOf (execKatVectorRun slot halves s) = some s.outer := by
  unfold execKatVectorRun
  (repeat' split) <;> simp

@[simp] theorem outer_fenceLanes (s : State) (m : Nat) (l : List Nat) : (s.fenceLanes m l).outer = s.outer := by
  induction l generalizing s m with
  | nil => rfl
  | cons x t ih => simp [State.fenceLanes, ih]

@[simp] theorem outer_selfTestLanes (s : State) (m : Nat) (l : List Nat) : (s.selfTestLanes m l).outer = s.outer := by
  induction l generalizing s m with
  | nil => rfl
  | cons x t ih => simp [State.selfTestLanes, ih]

@[simp] theorem outer_reinstateLanes (s : State) (m : Nat) (l : List Nat) : (s.reinstateLanes m l).outer = s.outer := by
  induction l generalizing s m with
  | nil => rfl
  | cons x t ih => simp [State.reinstateLanes, ih]

@[simp] theorem outer_laneCtrl (s : State) (v : Nat) : (s.laneCtrl v).outer = s.outer := by simp [State.laneCtrl]

/-! ### The operations of Machine/Access.lean -/

@[simp] theorem outer_writeAccess (s : State) (src : Src) (a : Nat) (f : State → State) (hf : ∀ u, (f u).outer = u.outer) :
    (s.writeAccess src a f).outer = s.outer := by
  simp [State.writeAccess, hf]

@[simp] theorem outer_readAccess (s : State) (src : Src) (a : Nat) (f : State → State × Nat) (hf : ∀ u, (f u).1.outer = u.outer) :
    (s.readAccess src a f).outer = s.outer := by
  simp [State.readAccess, hf]

/-! ### The operations of Machine/Counters.lean -/

@[simp] theorem outer_clearRun (s : State) (v a n : Nat) : (s.clearRun v a n).outer = s.outer := by simp [State.clearRun]

@[simp] theorem outer_zeroGlitch (s : State) (l : List Nat) : (s.zeroGlitch l).outer = s.outer := by
  induction l generalizing s with
  | nil => rfl
  | cons x t ih => simp [State.zeroGlitch, ih]

@[simp] theorem outer_clearCol (s : State) (v : Nat) : (s.clearCol v).outer = s.outer := by simp [State.clearCol]

@[simp] theorem outer_execLdlCntClr (src : Src) (tile val : Nat) (s : State) : outerOf (execLdlCntClr src tile val s) = some s.outer := by
  simp [execLdlCntClr]

@[simp] theorem outer_execHubSealCntClr (src : Src) (val : Nat) (s : State) : outerOf (execHubSealCntClr src val s) = some s.outer := by
  simp [execHubSealCntClr]

@[simp] theorem outer_execMtrCntClr (src : Src) (val : Nat) (s : State) : outerOf (execMtrCntClr src val s) = some s.outer := by simp [execMtrCntClr]

@[simp] theorem outer_execLidCntClr (src : Src) (val : Nat) (s : State) : outerOf (execLidCntClr src val s) = some s.outer := by simp [execLidCntClr]

@[simp] theorem outer_execSckCntClr (src : Src) (val : Nat) (s : State) : outerOf (execSckCntClr src val s) = some s.outer := by simp [execSckCntClr]

@[simp] theorem outer_execHubSisCntClr (src : Src) (val : Nat) (s : State) : outerOf (execHubSisCntClr src val s) = some s.outer := by simp [execHubSisCntClr]

@[simp] theorem outer_execKtlCntClr (src : Src) (val : Nat) (s : State) : outerOf (execKtlCntClr src val s) = some s.outer := by simp [execKtlCntClr]

@[simp] theorem outer_execHubJrnlCntClr (src : Src) (val : Nat) (s : State) : outerOf (execHubJrnlCntClr src val s) = some s.outer := by
  simp [execHubJrnlCntClr]

@[simp] theorem outer_execHubPairCntClr (src : Src) (val : Nat) (s : State) : outerOf (execHubPairCntClr src val s) = some s.outer := by
  simp [execHubPairCntClr]

@[simp] theorem outer_execHubCkptCntClr (src : Src) (val : Nat) (s : State) : outerOf (execHubCkptCntClr src val s) = some s.outer := by
  simp [execHubCkptCntClr]

@[simp] theorem outer_execHubFtCntClr (src : Src) (val : Nat) (s : State) : outerOf (execHubFtCntClr src val s) = some s.outer := by simp [execHubFtCntClr]

@[simp] theorem outer_execColCntClr (src : Src) (val : Nat) (s : State) : outerOf (execColCntClr src val s) = some s.outer := by simp [execColCntClr]

@[simp] theorem outer_execHubRcvCntClr (src : Src) (val : Nat) (s : State) : outerOf (execHubRcvCntClr src val s) = some s.outer := by simp [execHubRcvCntClr]

@[simp] theorem outer_execTrvCntClr (src : Src) (val : Nat) (s : State) : outerOf (execTrvCntClr src val s) = some s.outer := by simp [execTrvCntClr]

@[simp] theorem outer_execHubPortCntClr (src : Src) (val : Nat) (s : State) : outerOf (execHubPortCntClr src val s) = some s.outer := by
  simp [execHubPortCntClr]

@[simp] theorem outer_execHubBringCntClr (src : Src) (val : Nat) (s : State) : outerOf (execHubBringCntClr src val s) = some s.outer := by
  simp [execHubBringCntClr]

/-! ### The operations of Machine/Finish.lean -/

@[simp] theorem outer_setCore (s : State) (k : Nat) (v : Core) : (s.setCore k v).outer = s.outer := rfl

@[simp] theorem outer_onTaken (s : State) (n index : Nat) (f : Taken → Taken) : (s.onTaken n index f).outer = s.outer := rfl

@[simp] theorem outer_writeCompletion (s : State) (n index st res jseq : Nat) : (s.writeCompletion n index st res jseq).outer = s.outer := by
  unfold State.writeCompletion
  (repeat' split) <;> simp

@[simp] theorem outer_finishEntry (s : State) (n index st res jseq : Nat) : (s.finishEntry n index st res jseq).outer = s.outer := by simp [State.finishEntry]

@[simp] theorem outer_finishRecord (s : State) (n : Nat) (t : Taken) (st res : Nat) : (s.finishRecord n t st res).outer = s.outer := by
  simp [State.finishRecord]

@[simp] theorem outer_countFinal (s : State) (st : Nat) (own : Bool) : (s.countFinal st own).outer = s.outer := by simp [State.countFinal]

@[simp] theorem outer_complete (s : State) (t st res : Nat) (own : Bool) : (s.complete t st res own).outer = s.outer := by
  unfold State.complete
  (repeat' split) <;> simp

@[simp] theorem outer_completeAll (s : State) (st res : Nat) (own : Bool) (l : List Nat) : (s.completeAll st res own l).outer = s.outer := by
  induction l generalizing s st res own with
  | nil => rfl
  | cons x t ih => simp [State.completeAll, ih]

@[simp] theorem outer_completeOpt (s : State) (t : Option Nat) (st res : Nat) (own : Bool) : (s.completeOpt t st res own).outer = s.outer := by
  unfold State.completeOpt
  (repeat' split) <;> simp

@[simp] theorem outer_closeTickets (s : State) (l : List Nat) : (s.closeTickets l).outer = s.outer := by
  induction l generalizing s with
  | nil => rfl
  | cons x t ih =>
    unfold State.closeTickets
    (repeat' split) <;> simp [ih]

@[simp] theorem outer_setProgram (s : State) (p : Nat) (v : Program) : (s.setProgram p v).outer = s.outer := rfl

@[simp] theorem outer_onProgram (s : State) (p : Nat) (f : Program → Program) : (s.onProgram p f).outer = s.outer := by
  unfold State.onProgram
  (repeat' split) <;> simp

@[simp] theorem outer_freeThread (s : State) (p : Nat) : (s.freeThread p).outer = s.outer := by simp [State.freeThread]

@[simp] theorem outer_progFailed (s : State) : s.progFailed.outer = s.outer := by simp [State.progFailed]

@[simp] theorem outer_endEntry (s : State) (p : Program) (rec st : Nat) : (s.endEntry p rec st).outer = s.outer := by simp [State.endEntry]

@[simp] theorem outer_endProgram (s : State) (id st : Nat) (failed : Bool) : (s.endProgram id st failed).outer = s.outer := by
  unfold State.endProgram
  (repeat' split) <;> simp

@[simp] theorem outer_endPrograms (s : State) (st : Nat) (failed : Bool) (l : List Nat) : (s.endPrograms st failed l).outer = s.outer := by
  induction l generalizing s st failed with
  | nil => rfl
  | cons x t ih => simp [State.endPrograms, ih]

@[simp] theorem outer_goto (s : State) (id pc : Nat) : (s.goto id pc).outer = s.outer := by
  unfold State.goto
  (repeat' split) <;> simp

@[simp] theorem outer_advance (s : State) (id : Nat) : (s.advance id).outer = s.outer := by
  unfold State.advance
  (repeat' split) <;> simp

@[simp] theorem outer_countStatus (s : State) (st : Nat) : (s.countStatus st).outer = s.outer := by simp [State.countStatus]

@[simp] theorem outer_returned (s : State) (t id st : Nat) : (s.returned t id st).outer = s.outer := by
  unfold State.returned
  dsimp only
  (repeat' split) <;> simp

/-! ### The operations of Machine/Recovery.lean -/

@[simp] theorem outer_drive1 (s : State) (i bit : Nat) (on : Bool) : (s.drive1 i bit on).outer = s.outer := rfl

@[simp] theorem outer_drive (s : State) (bit : Nat) (on : Bool) (l : List Nat) : (s.drive bit on l).outer = s.outer := by
  induction l generalizing s bit on with
  | nil => rfl
  | cons x t ih => simp [State.drive, ih]

@[simp] theorem outer_bumpEpochs (s : State) (l : List Nat) : (s.bumpEpochs l).outer = s.outer := by
  induction l generalizing s with
  | nil => rfl
  | cons x t ih => simp [State.bumpEpochs, ih]

@[simp] theorem outer_setRst (s : State) (k : Nat) (v : Rst) : (s.setRst k v).outer = s.outer := rfl

@[simp] theorem outer_whiskUnreachable (s : State) (t : Nat) : (s.whiskUnreachable t).outer = s.outer := by
  unfold State.whiskUnreachable
  (repeat' split) <;> simp

@[simp] theorem outer_tileEnter (s : State) (t : Nat) : (s.tileEnter t).outer = s.outer := by simp [State.tileEnter]

@[simp] theorem outer_tilesEnter (s : State) (l : List Nat) : (s.tilesEnter l).outer = s.outer := by
  induction l generalizing s with
  | nil => rfl
  | cons x t ih => simp [State.tilesEnter, ih]

@[simp] theorem outer_execTileResetEntry (tile : Nat) (s : State) : outerOf (execTileResetEntry tile s) = some s.outer := by simp [execTileResetEntry]

@[simp] theorem outer_tileLeave (s : State) (t : Nat) : (s.tileLeave t).outer = s.outer := by simp [State.tileLeave]

@[simp] theorem outer_tilesLeave (s : State) (l : List Nat) : (s.tilesLeave l).outer = s.outer := by
  induction l generalizing s with
  | nil => rfl
  | cons x t ih => simp [State.tilesLeave, ih]

@[simp] theorem outer_askKat (s : State) (t : Nat) : (s.askKat t).outer = s.outer := by simp [State.askKat]

@[simp] theorem outer_askKats (s : State) (l : List Nat) : (s.askKats l).outer = s.outer := by
  induction l generalizing s with
  | nil => rfl
  | cons x t ih => simp [State.askKats, ih]

@[simp] theorem outer_detectAll (s : State) (l : List (Nat × Nat × Nat)) : (s.detectAll l).outer = s.outer := by
  induction l generalizing s with
  | nil => rfl
  | cons x t ih => simp [State.detectAll, ih]

@[simp] theorem outer_mergeRsts (s : State) (l : List Nat) : (s.mergeRsts l).1.outer = s.outer := by
  induction l generalizing s with
  | nil => rfl
  | cons x t ih => simp [State.mergeRsts, ih]

@[simp] theorem outer_quiesce (s : State) (k : Nat) (v : Rst) : (s.quiesce k v).outer = s.outer := by simp [State.quiesce]

@[simp] theorem outer_enterReset (s : State) (k : Nat) : (s.enterReset k).outer = s.outer := by simp [State.enterReset]

@[simp] theorem outer_pastDrain (s : State) (k : Nat) : (s.pastDrain k).outer = s.outer := by simp [State.pastDrain]

@[simp] theorem outer_absorb (s : State) (k : Nat) : (s.absorb k).outer = s.outer := by simp [State.absorb]

@[simp] theorem outer_unhang (s : State) (l : List Nat) : (s.unhang l).outer = s.outer := by
  induction l generalizing s with
  | nil => rfl
  | cons x t ih => simp [State.unhang, ih]

@[simp] theorem outer_reviveStops (s : State) (l : List Nat) : (s.reviveStops l).outer = s.outer := by
  induction l generalizing s with
  | nil => rfl
  | cons x t ih => simp [State.reviveStops, ih]

@[simp] theorem outer_rstReturn (s : State) (k : Nat) : (s.rstReturn k).outer = s.outer := by simp [State.rstReturn]

@[simp] theorem outer_rstHold (s : State) (k st : Nat) : (s.rstHold k st).outer = s.outer := by simp [State.rstHold]

@[simp] theorem outer_execQuiesceAck (slot : Nat) (s : State) : outerOf (execQuiesceAck slot s) = some s.outer := by simp [execQuiesceAck]

@[simp] theorem outer_execQuiesceTimeout (slot : Nat) (s : State) : outerOf (execQuiesceTimeout slot s) = some s.outer := by simp [execQuiesceTimeout]

@[simp] theorem outer_execResetDrained (slot : Nat) (s : State) : outerOf (execResetDrained slot s) = some s.outer := by simp [execResetDrained]

@[simp] theorem outer_execDrainLimitExpiry (slot : Nat) (s : State) : outerOf (execDrainLimitExpiry slot s) = some s.outer := by simp [execDrainLimitExpiry]

@[simp] theorem outer_execResetHoldEnd (slot : Nat) (s : State) : outerOf (execResetHoldEnd slot s) = some s.outer := by simp [execResetHoldEnd]

@[simp] theorem outer_readyOn (s : State) (k : Nat) : (s.readyOn k).outer = s.outer := by simp [State.readyOn]

@[simp] theorem outer_execResetReady (slot : Nat) (s : State) : outerOf (execResetReady slot s) = some s.outer := by simp [execResetReady]

@[simp] theorem outer_execLadleSelfCheckDone (tile : Nat) (pass : Bool) (s : State) : outerOf (execLadleSelfCheckDone tile pass s) = some s.outer := by
  simp [execLadleSelfCheckDone]

@[simp] theorem outer_execReadyLimitExpiry (slot : Nat) (s : State) : outerOf (execReadyLimitExpiry slot s) = some s.outer := by simp [execReadyLimitExpiry]

@[simp] theorem outer_execAbsorbWindowClose (slot : Nat) (s : State) : outerOf (execAbsorbWindowClose slot s) = some s.outer := by
  unfold execAbsorbWindowClose
  (repeat' split) <;> simp

@[simp] theorem outer_resetCmd (s : State) (level id tk : Nat) : (s.resetCmd level id tk).1.outer = s.outer := by
  unfold State.resetCmd
  dsimp only
  (repeat' split) <;> simp

@[simp] theorem outer_enterSafe (s : State) (cause : Nat) : (s.enterSafe cause).outer = s.outer := by
  unfold State.enterSafe
  dsimp only
  (repeat' split) <;> simp

@[simp] theorem outer_setWatched (s : State) (u : Nat) (v : Watched) : (s.setWatched u v).outer = s.outer := rfl

@[simp] theorem outer_hangCapture (s : State) (kind c u : Nat) : (s.hangCapture kind c u).outer = s.outer := by simp [State.hangCapture]

@[simp] theorem outer_hang (s : State) (kind c u : Nat) : (s.hang kind c u).outer = s.outer := by simp [State.hang]

@[simp] theorem outer_watchOne (s : State) (fin : Nat) (samples : List (Nat × List (Nat × Bool))) (u : Nat) :
    (s.watchOne fin samples u).outer = s.outer := by
  simp [State.watchOne]

@[simp] theorem outer_watchAll (s : State) (fin : Nat) (samples : List (Nat × List (Nat × Bool))) (l : List Nat) :
    (s.watchAll fin samples l).outer = s.outer := by
  induction l generalizing s fin samples with
  | nil => rfl
  | cons x t ih => simp [State.watchAll, ih]

@[simp] theorem outer_execWatchWindowEnd (samples : List (Nat × List (Nat × Bool))) (s : State) :
    outerOf (execWatchWindowEnd samples s) = some s.outer := by
  simp [execWatchWindowEnd]

@[simp] theorem outer_execVerdictAgeHang (tile : Nat) (s : State) : outerOf (execVerdictAgeHang tile s) = some s.outer := by
  unfold execVerdictAgeHang
  dsimp only
  (repeat' split) <;> simp

@[simp] theorem outer_markExcluded (s : State) (l : List Nat) : (s.markExcluded l).outer = s.outer := by
  induction l generalizing s with
  | nil => rfl
  | cons x t ih => simp [State.markExcluded, ih]

@[simp] theorem outer_execCflIssue (lane ctx gen tag : Nat) (s : State) : outerOf (execCflIssue lane ctx gen tag s) = some s.outer := by simp [execCflIssue]

@[simp] theorem outer_execCflComplete (lane ctx gen tag : Nat) (s : State) : outerOf (execCflComplete lane ctx gen tag s) = some s.outer := by
  simp [execCflComplete]

@[simp] theorem outer_setTeardown (s : State) (v : Teardown) : (s.setTeardown v).outer = s.outer := rfl

@[simp] theorem outer_quietResets (s : State) (l : List Nat) : (s.quietResets l).outer = s.outer := by
  induction l generalizing s with
  | nil => rfl
  | cons x t ih =>
    unfold State.quietResets
    (repeat' split) <;> simp [ih]

@[simp] theorem outer_scrubRun (s : State) (k b : Nat) (n : Nat) : (s.scrubRun k b n).outer = s.outer := by
  induction n generalizing s k b with
  | zero => rfl
  | succ n ih => simp [State.scrubRun, ih]

@[simp] theorem outer_scrubAll (s : State) (k : Nat) (l : List (Nat × Nat)) : (s.scrubAll k l).outer = s.outer := by
  induction l generalizing s k with
  | nil => rfl
  | cons x t ih => simp [State.scrubAll, ih]

@[simp] theorem outer_drainStep (s : State) (v : Teardown) : (s.drainStep v).outer = s.outer := by simp [State.drainStep]

@[simp] theorem outer_execTeardownDrainEnd (slot : Nat) (s : State) : outerOf (execTeardownDrainEnd slot s) = some s.outer := by
  unfold execTeardownDrainEnd
  (repeat' split) <;> simp

@[simp] theorem outer_execTeardownScrubDone (slot : Nat) (s : State) : outerOf (execTeardownScrubDone slot s) = some s.outer := by
  unfold execTeardownScrubDone
  (repeat' split) <;> simp

/-! ### The operations of Machine/Colander.lean -/

@[simp] theorem outer_latchErr (s : State) (stn i : Nat) (wire : Bool) : (s.latchErr stn i wire).outer = s.outer := by simp [State.latchErr]

@[simp] theorem outer_capDetail (s : State) (base addr access master : Nat) : (s.capDetail base addr access master).outer = s.outer := by
  simp [State.capDetail]

@[simp] theorem outer_awaitDetail (s : State) (stn i cycle : Nat) (ce : Bool) : (s.awaitDetail stn i cycle ce).outer = s.outer := by
  unfold State.awaitDetail
  (repeat' split) <;> simp

@[simp] theorem outer_pairCaptured (s : State) (stn i cls cycle : Nat) (wire : Bool) : (s.pairCaptured stn i cls cycle wire).outer = s.outer := by
  simp [State.pairCaptured]

@[simp] theorem outer_transition (s : State) (stn i cycle : Nat) (wire : Bool) : (s.transition stn i cycle wire).outer = s.outer := by simp [State.transition]

@[simp] theorem outer_filterBad (s : State) (stn i cycle : Nat) (wire : Bool) : (s.filterBad stn i cycle wire).outer = s.outer := by simp [State.filterBad]

@[simp] theorem outer_execPairTransition (station pair : Nat) (wire : Bool) (cycle : Nat) (s : State) :
    outerOf (execPairTransition station pair wire cycle s) = some s.outer := by
  simp [execPairTransition]

@[simp] theorem outer_filterOk (s : State) (stn i : Nat) : (s.filterOk stn i).outer = s.outer := rfl

@[simp] theorem outer_execPairReturnOk (station pair : Nat) (s : State) : outerOf (execPairReturnOk station pair s) = some s.outer := by
  simp [execPairReturnOk]

@[simp] theorem outer_armOut (s : State) (stn i cycle : Nat) : (s.armOut stn i cycle).outer = s.outer := by simp [State.armOut]

@[simp] theorem outer_execPairArmTimeout (station pair cycle : Nat) (s : State) : outerOf (execPairArmTimeout station pair cycle s) = some s.outer := by
  simp [execPairArmTimeout]

@[simp] theorem outer_beat (s : State) (b : CapBeat) : (s.beat b).outer = s.outer := by
  unfold State.beat
  (repeat' split) <;> simp

@[simp] theorem outer_execCaptureBeat (station pair addr master access cycle : Nat) (s : State) :
    outerOf (execCaptureBeat station pair addr master access cycle s) = some s.outer := by
  simp [execCaptureBeat]

@[simp] theorem outer_execCaptureDetailTimeout (station pair cycle : Nat) (s : State) :
    outerOf (execCaptureDetailTimeout station pair cycle s) = some s.outer := by
  unfold execCaptureDetailTimeout
  (repeat' split) <;> simp

@[simp] theorem outer_selfFault (s : State) (unit word : Nat) : (s.selfFault unit word).outer = s.outer := by simp [State.selfFault]

@[simp] theorem outer_execColanderSelfFault (unit word : Nat) (s : State) : outerOf (execColanderSelfFault unit word s) = some s.outer := by
  simp [execColanderSelfFault]

@[simp] theorem outer_exitSafe (s : State) : s.exitSafe.outer = s.outer := by simp [State.exitSafe]

@[simp] theorem outer_execColSafeExit (src : Src) (s : State) : outerOf (execColSafeExit src s) = some s.outer := by simp [execColSafeExit]

@[simp] theorem outer_enablePair (s : State) (stn i : Nat) (old new : Bool) : (s.enablePair stn i old new).outer = s.outer := by simp [State.enablePair]

@[simp] theorem outer_enablePairs (s : State) (stn base old new : Nat) (l : List Nat) : (s.enablePairs stn base old new l).outer = s.outer := by
  induction l generalizing s stn base old new with
  | nil => rfl
  | cons x t ih => simp [State.enablePairs, ih]

@[simp] theorem outer_writeEn (s : State) (stn : Nat) (hi : Bool) (val : Nat) : (s.writeEn stn hi val).outer = s.outer := by simp [State.writeEn]

@[simp] theorem outer_execColStnEnWrite (src : Src) (station : Nat) (hi : Bool) (val : Nat) (s : State) :
    outerOf (execColStnEnWrite src station hi val s) = some s.outer := by
  simp [execColStnEnWrite]

@[simp] theorem outer_execGlitchDiscard (station pair : Nat) (s : State) : outerOf (execGlitchDiscard station pair s) = some s.outer := by
  simp [execGlitchDiscard]

@[simp] theorem outer_reassertPairs (s : State) (l : List (Nat × StnPair)) : (s.reassertPairs l).outer = s.outer := by
  induction l generalizing s with
  | nil => rfl
  | cons x t ih =>
    unfold State.reassertPairs
    (repeat' split) <;> simp [ih]

@[simp] theorem outer_reassert (s : State) : s.reassert.outer = s.outer := by simp [State.reassert]

/-! ### The operations of Machine/Ledger.lean -/

@[simp] theorem outer_refuseOp (s : State) (k row : Nat) (d : Desc) : (s.refuseOp k row d).outer = s.outer := by simp [State.refuseOp]

@[simp] theorem outer_writeRecord (s : State) (place : Nat) : (s.writeRecord place).outer = s.outer := by simp [State.writeRecord]

@[simp] theorem outer_acceptOp (s : State) (k t : Nat) (o : LOp) : (s.acceptOp k t o).outer = s.outer := by simp [State.acceptOp]

@[simp] theorem outer_lidDecide (s : State) (t : Nat) (o : LOp) : (s.lidDecide t o).1.outer = s.outer := by
  unfold State.lidDecide
  dsimp only
  (repeat' split) <;> simp

@[simp] theorem outer_takeDesc (s : State) : s.takeDesc.outer = s.outer := by
  unfold State.takeDesc
  dsimp only
  (repeat' split) <;> simp

@[simp] theorem outer_execOpAccept (s : State) : outerOf (execOpAccept s) = some s.outer := by simp [execOpAccept]

@[simp] theorem outer_askedSamples (s : State) (c k : Nat) (o : OpRec) (l : List (List Nat)) : (s.askedSamples c k o l).outer = s.outer := by
  induction l generalizing s c k o with
  | nil => rfl
  | cons x t ih => simp [State.askedSamples, ih]

@[simp] theorem outer_passOp (s : State) (c k : Nat) (o : OpRec) : (s.passOp c k o).outer = s.outer := by simp [State.passOp]

@[simp] theorem outer_confirmAll (s : State) (r : Report) (l : List SealFail) : (s.confirmAll r l).outer = s.outer := by
  induction l generalizing s r with
  | nil => rfl
  | cons x t ih => simp [State.confirmAll, ih]

@[simp] theorem outer_arbitrateOp (s : State) (r : Report) (k : Option Nat) : (s.arbitrateOp r k).outer = s.outer := by
  unfold State.arbitrateOp
  dsimp only
  (repeat' split) <;> simp

@[simp] theorem outer_failedOp (s : State) (r : Report) (k : Option Nat) : (s.failedOp r k).outer = s.outer := by simp [State.failedOp]

@[simp] theorem outer_takeReport (s : State) (r : Report) : (s.takeReport r).outer = s.outer := by
  unfold State.takeReport
  dsimp only
  (repeat' split) <;> simp

@[simp] theorem outer_execLadleReport (s : State) : outerOf (execLadleReport s) = some s.outer := by
  unfold execLadleReport
  (repeat' split) <;> simp

@[simp] theorem outer_haltAck (s : State) (c gen step next : Nat) : (s.haltAck c gen step next).outer = s.outer := by
  unfold State.haltAck
  dsimp only
  (repeat' split) <;> simp

@[simp] theorem outer_execHaltAck (m : PeerMsg) (s : State) : outerOf (execHaltAck m s) = some s.outer := by simp [execHaltAck]

@[simp] theorem outer_replay (s : State) (c k : Nat) : (s.replay c k).outer = s.outer := by simp [State.replay]

@[simp] theorem outer_execReplay (ctx slot : Nat) (s : State) : outerOf (execReplay ctx slot s) = some s.outer := by simp [execReplay]

@[simp] theorem outer_release (s : State) (c k b : Nat) : (s.release c k b).outer = s.outer := by simp [State.release]

@[simp] theorem outer_execBucketRelease (ctx slot bucket : Nat) (s : State) : outerOf (execBucketRelease ctx slot bucket s) = some s.outer := by
  simp [execBucketRelease]

@[simp] theorem outer_freeSlot (s : State) (c k : Nat) : (s.freeSlot c k).outer = s.outer := by simp [State.freeSlot]

@[simp] theorem outer_execStepSlotFree (ctx slot : Nat) (s : State) : outerOf (execStepSlotFree ctx slot s) = some s.outer := by simp [execStepSlotFree]

@[simp] theorem outer_pairTake (s : State) (m : PeerMsg) : (s.pairTake m).outer = s.outer := by
  unfold State.pairTake
  dsimp only
  (repeat' split) <;> simp

@[simp] theorem outer_execPairOps (m : PeerMsg) (s : State) : outerOf (execPairOps m s) = some s.outer := by simp [execPairOps]

@[simp] theorem outer_execPairStep (m : PeerMsg) (s : State) : outerOf (execPairStep m s) = some s.outer := by simp [execPairStep]

@[simp] theorem outer_unpair (s : State) (c : Nat) : (s.unpair c).outer = s.outer := rfl

@[simp] theorem outer_execPairTimeout (ctx : Nat) (s : State) : outerOf (execPairTimeout ctx s) = some s.outer := by
  unfold execPairTimeout
  (repeat' split) <;> simp

/-! ### The operations of Machine/Sis.lean -/

@[simp] theorem outer_confirmProg (s : State) (ctx gen blk : Nat) : (s.confirmProg ctx gen blk).outer = s.outer := by
  unfold State.confirmProg
  (repeat' split) <;> simp

@[simp] theorem outer_issues (s : State) (t : Nat) : (s.issues t).outer = s.outer := by simp [State.issues]

@[simp] theorem outer_recordBad (s : State) (t id w : Nat) (p : Program) : (s.recordBad t id w p).outer = s.outer := by simp [State.recordBad]

@[simp] theorem outer_fetch (s : State) (t word : Nat) : (s.fetch t word).1.outer = s.outer := by
  unfold State.fetch
  dsimp only
  (repeat' split) <;> simp

theorem outer_of_fetch {s u : State} {t word : Nat} {x : Option (Nat × Program)} (h : s.fetch t word = (u, x)) : u.outer = s.outer :=
  (outer_of_fst h).trans (outer_fetch ..)

@[simp] theorem outer_saveRecord (s : State) (t id : Nat) : (s.saveRecord t id).outer = s.outer := by simp [State.saveRecord]

@[simp] theorem outer_swap (s : State) (t : Nat) (out : Option Nat) (p : Nat) : (s.swap t out p).outer = s.outer := by
  unfold State.swap
  (repeat' split) <;> simp

@[simp] theorem outer_execProgramDispatch (t : Nat) (s : State) : outerOf (execProgramDispatch t s) = some s.outer := by
  unfold execProgramDispatch
  (repeat' split) <;> simp

@[simp] theorem outer_execSwapComplete (t : Nat) (s : State) : outerOf (execSwapComplete t s) = some s.outer := by simp [execSwapComplete]

@[simp] theorem outer_badOperand (s : State) (id : Nat) : (s.badOperand id).outer = s.outer := by simp [State.badOperand]

@[simp] theorem outer_badOpcode (s : State) (id : Nat) : (s.badOpcode id).outer = s.outer := by simp [State.badOpcode]

@[simp] theorem outer_local' (s : State) (opc : Nat) (i : Issue) (bad : Nat → Nat → Nat → Nat → Bool)
    (f : State → Nat → Nat → Program → Nat → Nat → Nat → State) (hf : ∀ u t id p x y z, (f u t id p x y z).outer = u.outer) :
    (s.local' opc i bad f).outer = s.outer := by
  unfold State.local'
  split
  · split
    · next h => exact outer_of_fetch h
    · next h =>
      split
      · exact (outer_badOpcode ..).trans (outer_of_fetch h)
      · exact (hf ..).trans (outer_of_fetch h)
  · rfl

@[simp] theorem outer_execNop (i : Issue) (s : State) : outerOf (execNop i s) = some s.outer := by simp [execNop]

@[simp] theorem outer_execEnd (i : Issue) (s : State) : outerOf (execEnd i s) = some s.outer := by simp [execEnd]

@[simp] theorem outer_execLdi (i : Issue) (s : State) : outerOf (execLdi i s) = some s.outer := by simp [execLdi]

@[simp] theorem outer_execAlu (i : Issue) (s : State) : outerOf (execAlu i s) = some s.outer := by simp [execAlu]

@[simp] theorem outer_execBr (i : Issue) (s : State) : outerOf (execBr i s) = some s.outer := by simp [execBr]

@[simp] theorem outer_execLd (i : Issue) (s : State) : outerOf (execLd i s) = some s.outer := by
  refine congrArg some (outer_local' _ _ _ _ _ fun u t id p x y z => ?_)
  split <;> simp

@[simp] theorem outer_execSt (i : Issue) (s : State) : outerOf (execSt i s) = some s.outer := by
  refine congrArg some (outer_local' _ _ _ _ _ fun u t id p x y z => ?_)
  split <;> simp

@[simp] theorem outer_execYield (i : Issue) (s : State) : outerOf (execYield i s) = some s.outer := by
  refine congrArg some (outer_local' _ _ _ _ _ fun u t id p x y z => ?_)
  dsimp only
  (repeat' split) <;> simp

@[simp] theorem outer_collect (s : State) (id : Nat) (p : Program) (tk rd : Nat) (k : Ticket) : (s.collect id p tk rd k).outer = s.outer := rfl

@[simp] theorem outer_startWait (s : State) (t id : Nat) (p : Program) (w : WaitFor) : (s.startWait t id p w).outer = s.outer := rfl

@[simp] theorem outer_execWait (i : Issue) (s : State) : outerOf (execWait i s) = some s.outer := by
  refine congrArg some (outer_local' _ _ _ _ _ fun u t id p x y z => ?_)
  (repeat' split) <;> simp

theorem outer_waitMet (s : State) (id : Nat) (p : Program) (t : State) (e : s.waitMet id p = some t) : t.outer = s.outer := by
  unfold State.waitMet at e
  split at e
  · cases e
  · split at e
    · split at e
      · cases e
        simp
      · cases e
    · cases e
  · split at e
    · cases e
      simp
    · cases e
  · obtain ⟨st, -, rfl⟩ := Option.map_eq_some_iff.1 e
    simp

@[simp] theorem outer_runAgain (s : State) (id : Nat) : (s.runAgain id).outer = s.outer := by
  unfold State.runAgain
  dsimp only
  (repeat' split) <;> simp

@[simp] theorem outer_execWaitConditionMet (prog : Nat) (s : State) : outerOf (execWaitConditionMet prog s) = some s.outer := by
  unfold execWaitConditionMet
  split
  · rfl
  · split
    · rfl
    · next h => exact congrArg some ((outer_runAgain ..).trans (outer_waitMet _ _ _ _ h))

@[simp] theorem outer_decideCmd (s : State) (sp : CmdSpec) (c : Cmd) (hb : (sp.body c s).1.outer = s.outer) : (s.decideCmd sp c).1.outer = s.outer := by
  unfold State.decideCmd
  dsimp only
  (repeat' split) <;> simp [hb]

@[simp] theorem outer_countReply (s : State) (c : Cmd) (x : Reply) : (s.countReply c x).outer = s.outer := by
  unfold State.countReply
  (repeat' split) <;> simp

@[simp] theorem outer_note (s : State) (sp : CmdSpec) (c : Cmd) (e : JEntry) : (s.note sp c e).outer = s.outer := by simp [State.note]

@[simp] theorem outer_serve (s : State) (sp : CmdSpec) (c : Cmd) (owner : Owner) (source ref cookie : Nat) (hb : ∀ u, (sp.body c u).1.outer = u.outer) :
    (s.serve sp c owner source ref cookie).1.outer = s.outer := by
  unfold State.serve
  dsimp only
  (repeat' split) <;> simp [hb]

@[simp] theorem outer_writeResult (s : State) (t id addr : Nat) (b : Bytes) : (s.writeResult t id addr b).outer = s.outer := by simp [State.writeResult]

@[simp] theorem outer_deliver (s : State) (t id rd tk : Nat) (r : Reply) (imm : Nat) : (s.deliver t id rd tk r imm).outer = s.outer := by
  unfold State.deliver
  (repeat' split) <;> simp

@[simp] theorem outer_threadCmd (s : State) (sp : CmdSpec) (t id : Nat) (p : Program) (rd ra rb rc mod imm : Nat) (hb : ∀ c u,
    (sp.body c u).1.outer = u.outer) :
    (s.threadCmd sp t id p rd ra rb rc mod imm).outer = s.outer := by
  simp [State.threadCmd, hb]

@[simp] theorem outer_portCmd (s : State) (sp : CmdSpec) (c : Cmd) (owner : Owner) (source ref cookie : Nat) (hb : ∀ u, (sp.body c u).1.outer = u.outer) :
    (s.portCmd sp c owner source ref cookie).1.outer = s.outer := by
  simp [State.portCmd, hb]

@[simp] theorem outer_ringRecord (s : State) (ctx blk imm : Nat) (b : Bytes) : (s.ringRecord ctx blk imm b).outer = s.outer := by simp [State.ringRecord]

@[simp] theorem outer_ringCmd (s : State) (sp : CmdSpec) (n : Nat) (t : Taken) (hb : ∀ c u, (sp.body c u).1.outer = u.outer) :
    (s.ringCmd sp n t).outer = s.outer := by
  unfold State.ringCmd
  dsimp only
  (repeat' split) <;> simp [hb]

@[simp] theorem outer_runCmd (s : State) (sp : CmdSpec) (i : Issue) (hb : ∀ c u, (sp.body c u).1.outer = u.outer) : (s.runCmd sp i).outer = s.outer := by
  unfold State.runCmd
  dsimp only
  split
  · split
    · next h => exact outer_of_fetch h
    · next h => exact (outer_threadCmd _ _ _ _ _ _ _ _ _ _ _ hb).trans (outer_of_fetch h)
  · split
    · exact outer_portCmd _ _ _ _ _ _ _ (hb _)
    · rfl
  · split
    · rfl
    · split
      · rfl
      · exact outer_ringCmd _ _ _ _ hb

@[simp] theorem outer_reject (s : State) (st : Nat) : (reject s st).1.outer = s.outer := rfl

/-! ### The operations of Machine/Commands.lean -/

@[simp] theorem outer_bindCtx (c : Cmd) (s : State) : (bindCtx c s).1.outer = s.outer := by simp [bindCtx]

@[simp] theorem outer_execCtxbind (i : Issue) (s : State) : outerOf (execCtxbind i s) = some s.outer := by
  simp [execCtxbind, specCtxbind]

@[simp] theorem outer_killCtx (c : Cmd) (s : State) : (killCtx c s).1.outer = s.outer := by simp [killCtx]

@[simp] theorem outer_execCtxkill (i : Issue) (s : State) : outerOf (execCtxkill i s) = some s.outer := by
  simp [execCtxkill, specCtxkill]

@[simp] theorem outer_startTeardown (s : State) (k c tk : Nat) : (s.startTeardown k c tk).outer = s.outer := by simp [State.startTeardown]

@[simp] theorem outer_downCtx (c : Cmd) (s : State) : (downCtx c s).1.outer = s.outer := by
  unfold downCtx
  (repeat' split) <;> simp

@[simp] theorem outer_execCtxdown (i : Issue) (s : State) : outerOf (execCtxdown i s) = some s.outer := by
  simp [execCtxdown, specCtxdown]

@[simp] theorem outer_openStep (c : Cmd) (s : State) : (openStep c s).1.outer = s.outer := by
  unfold openStep
  extract_lets e sl e1
  split
  · rfl
  · split
    · rfl
    · exact (outer_count ..).trans ((outer_forgetStep ..).trans (outer_setCtx ..))

@[simp] theorem outer_execStepopen (i : Issue) (s : State) : outerOf (execStepopen i s) = some s.outer := by
  simp [execStepopen, specStepopen]

@[simp] theorem outer_stepProg (s : State) (c : Cmd) : (s.stepProg c).1.outer = s.outer := by
  unfold State.stepProg
  (repeat' split) <;> simp

@[simp] theorem outer_endStep (c : Cmd) (s : State) : (endStep c s).1.outer = s.outer := by
  unfold endStep
  (repeat' split) <;> simp

@[simp] theorem outer_execStepend (i : Issue) (s : State) : outerOf (execStepend i s) = some s.outer := by
  simp [execStepend, specStepend]

@[simp] theorem outer_endBucket (c : Cmd) (s : State) : (endBucket c s).1.outer = s.outer := by
  unfold endBucket
  (repeat' split) <;> simp

@[simp] theorem outer_execBktend (i : Issue) (s : State) : outerOf (execBktend i s) = some s.outer := by
  simp [execBktend, specBktend]

@[simp] theorem outer_abortStep (c : Cmd) (s : State) : (abortStep c s).1.outer = s.outer := by
  unfold abortStep
  (repeat' split) <;> simp

@[simp] theorem outer_execStepabort (i : Issue) (s : State) : outerOf (execStepabort i s) = some s.outer := by
  simp [execStepabort, specStepabort]

@[simp] theorem outer_setScale (c : Cmd) (s : State) : (setScale c s).1.outer = s.outer := by simp [setScale]

@[simp] theorem outer_execSckset (i : Issue) (s : State) : outerOf (execSckset i s) = some s.outer := by
  simp [execSckset, specSckset]

@[simp] theorem outer_readScale (c : Cmd) (s : State) : (readScale c s).1.outer = s.outer := by
  simp [readScale]

@[simp] theorem outer_execSckread (i : Issue) (s : State) : outerOf (execSckread i s) = some s.outer := by
  simp [execSckread, specSckread]

@[simp] theorem outer_freeScale (c : Cmd) (s : State) : (freeScale c s).1.outer = s.outer := by simp [freeScale]

@[simp] theorem outer_execSckfree (i : Issue) (s : State) : outerOf (execSckfree i s) = some s.outer := by
  simp [execSckfree, specSckfree]

@[simp] theorem outer_lidStat (c : Cmd) (s : State) : (lidStat c s).1.outer = s.outer := by
  unfold lidStat
  dsimp only
  (repeat' split) <;> simp

@[simp] theorem outer_execLidstat (i : Issue) (s : State) : outerOf (execLidstat i s) = some s.outer := by
  simp [execLidstat, specLidstat]

@[simp] theorem outer_sieveCfg (s : State) (b c e : Nat) : (s.sieveCfg b c e).outer = s.outer := by simp [State.sieveCfg]

@[simp] theorem outer_setSieve (c : Cmd) (s : State) : (setSieve c s).1.outer = s.outer := by simp [setSieve]

@[simp] theorem outer_execSievecfg (i : Issue) (s : State) : outerOf (execSievecfg i s) = some s.outer := by
  simp [execSievecfg, specSievecfg]

@[simp] theorem outer_askSample (c : Cmd) (s : State) : (askSample c s).1.outer = s.outer := by
  unfold askSample
  dsimp only
  (repeat' split) <;> simp

@[simp] theorem outer_execMtrsamp (i : Issue) (s : State) : outerOf (execMtrsamp i s) = some s.outer := by
  simp [execMtrsamp, specMtrsamp]

@[simp] theorem outer_arbStat (c : Cmd) (s : State) : (arbStat c s).1.outer = s.outer := by simp [arbStat]

@[simp] theorem outer_execArbstat (i : Issue) (s : State) : outerOf (execArbstat i s) = some s.outer := by
  simp [execArbstat, specArbstat]

@[simp] theorem outer_setMode (c : Cmd) (s : State) : (setMode c s).1.outer = s.outer := by simp [setMode]

@[simp] theorem outer_execModeset (i : Issue) (s : State) : outerOf (execModeset i s) = some s.outer := by
  simp [execModeset, specModeset]

@[simp] theorem outer_setProv (c : Cmd) (s : State) : (setProv c s).1.outer = s.outer := by simp [setProv]

@[simp] theorem outer_execProvcfg (i : Issue) (s : State) : outerOf (execProvcfg i s) = some s.outer := by
  simp [execProvcfg, specProvcfg]

@[simp] theorem outer_setPair' (c : Cmd) (s : State) : (setPair' c s).1.outer = s.outer := by
  unfold setPair'
  dsimp only
  (repeat' split) <;> simp

@[simp] theorem outer_execPaircfg (i : Issue) (s : State) : outerOf (execPaircfg i s) = some s.outer := by
  simp [execPaircfg, specPaircfg]

/-! ### The operations of Machine/Engine.lean -/

@[simp] theorem outer_queueSeal (s : State) (j : SealJob) : (s.queueSeal j).outer = s.outer := by simp [State.queueSeal]

@[simp] theorem outer_nextSeal (s : State) : s.nextSeal.outer = s.outer := by
  unfold State.nextSeal
  dsimp only
  (repeat' split) <;> simp

@[simp] theorem outer_sealConfirm (s : State) (blk : Nat) (own : Bool) (gen fmt kind bcv : Nat) :
    (s.sealConfirm blk own gen fmt kind bcv).outer = s.outer := by
  simp [State.sealConfirm]

@[simp] theorem outer_sealOne (s : State) (gen fmt blk : Nat) : (s.sealOne gen fmt blk).outer = s.outer := by
  unfold State.sealOne
  dsimp only
  (repeat' split) <;> simp

@[simp] theorem outer_copyOne (s : State) (gen fmt src dst : Nat) : (s.copyOne gen fmt src dst).outer = s.outer := by
  unfold State.copyOne
  (repeat' split) <;> simp

@[simp] theorem outer_checkOne (s : State) (gen fmt blk : Nat) : (s.checkOne gen fmt blk).1.outer = s.outer := by
  unfold State.checkOne
  (repeat' split) <;> simp

@[simp] theorem outer_sealRun (s : State) (j : SealJob) (i bad : Nat) (n : Nat) : (s.sealRun j i bad n).1.outer = s.outer := by
  induction n generalizing s j i bad with
  | zero => rfl
  | succ n ih => simp [State.sealRun, ih]

@[simp] theorem outer_sealFailed (s : State) (st : Nat) : (s.sealFailed st).outer = s.outer := by
  unfold State.sealFailed
  (repeat' split) <;> simp

@[simp] theorem outer_execSealEngineDone (s : State) : outerOf (execSealEngineDone s) = some s.outer := by
  unfold execSealEngineDone
  (repeat' split) <;> simp

@[simp] theorem outer_sealCmd (op dst count : Nat) (written : Nat → Nat → Bool) (c : Cmd) (s : State) :
    (sealCmd op dst count written c s).1.outer = s.outer := by
  simp [sealCmd]

@[simp] theorem outer_sealRgn (c : Cmd) (s : State) : (sealRgn c s).1.outer = s.outer := by simp [sealRgn]

@[simp] theorem outer_execSealrgn (i : Issue) (s : State) : outerOf (execSealrgn i s) = some s.outer := by
  simp [execSealrgn, specSealrgn]

@[simp] theorem outer_sealCpy (c : Cmd) (s : State) : (sealCpy c s).1.outer = s.outer := by simp [sealCpy]

@[simp] theorem outer_execSealcpy (i : Issue) (s : State) : outerOf (execSealcpy i s) = some s.outer := by
  simp [execSealcpy, specSealcpy]

@[simp] theorem outer_sealChk (c : Cmd) (s : State) : (sealChk c s).1.outer = s.outer := by simp [sealChk]

@[simp] theorem outer_execSealchk (i : Issue) (s : State) : outerOf (execSealchk i s) = some s.outer := by
  simp [execSealchk, specSealchk]

@[simp] theorem outer_patrolOne (s : State) (blk : Nat) : (s.patrolOne blk).outer = s.outer := by
  unfold State.patrolOne
  dsimp only
  (repeat' split) <;> simp

@[simp] theorem outer_patrol (s : State) : s.patrol.outer = s.outer := by simp [State.patrol]

@[simp] theorem outer_execPatrolRead (s : State) : outerOf (execPatrolRead s) = some s.outer := by simp [execPatrolRead]

@[simp] theorem outer_loadRecipe (c : Cmd) (s : State) : (loadRecipe c s).1.outer = s.outer := by simp [loadRecipe]

@[simp] theorem outer_execRcpload (i : Issue) (s : State) : outerOf (execRcpload i s) = some s.outer := by
  simp [execRcpload, specRcpload]

@[simp] theorem outer_dropRecipe (c : Cmd) (s : State) : (dropRecipe c s).1.outer = s.outer := by simp [dropRecipe]

@[simp] theorem outer_execRcpdrop (i : Issue) (s : State) : outerOf (execRcpdrop i s) = some s.outer := by
  simp [execRcpdrop, specRcpdrop]

@[simp] theorem outer_storeCopy (s : State) (blk : Nat) (img : Bytes) (n : Nat) : (s.storeCopy blk img n).outer = s.outer := by
  induction n generalizing s blk img with
  | zero => rfl
  | succ n ih => simp [State.storeCopy, ih]

@[simp] theorem outer_endLoad (s : State) (l : RcpLoad) (st : Nat) (r : Option Recipe) : (s.endLoad l st r).outer = s.outer := by
  unfold State.endLoad
  (repeat' split) <;> simp

@[simp] theorem outer_checkLoad (s : State) (l : RcpLoad) : (s.checkLoad l).outer = s.outer := by
  unfold State.checkLoad
  dsimp only
  (repeat' split) <;> simp

@[simp] theorem outer_loadFailed (s : State) (l : RcpLoad) (st : Nat) : (s.loadFailed l st).outer = s.outer := by simp [State.loadFailed]

@[simp] theorem outer_execRecipeLoadDone (slot : Nat) (s : State) : outerOf (execRecipeLoadDone slot s) = some s.outer := by
  unfold execRecipeLoadDone
  (repeat' split) <;> simp

@[simp] theorem outer_ldlCnt (c : Cmd) (s : State) : (ldlCnt c s).1.outer = s.outer := by
  unfold ldlCnt
  (repeat' split) <;> simp

@[simp] theorem outer_execLdlcnt (i : Issue) (s : State) : outerOf (execLdlcnt i s) = some s.outer := by
  simp [execLdlcnt, specLdlcnt]

@[simp] theorem outer_execMtrLaneCtrlFence (src : Src) (lanes : Nat) (s : State) : outerOf (execMtrLaneCtrlFence src lanes s) = some s.outer := by
  simp [execMtrLaneCtrlFence]

@[simp] theorem outer_execMtrLaneCtrlSelftest (src : Src) (lanes : Nat) (s : State) : outerOf (execMtrLaneCtrlSelftest src lanes s) = some s.outer := by
  simp [execMtrLaneCtrlSelftest]

@[simp] theorem outer_execMtrLaneCtrlReinstate (src : Src) (lanes : Nat) (s : State) : outerOf (execMtrLaneCtrlReinstate src lanes s) = some s.outer := by
  simp [execMtrLaneCtrlReinstate]

@[simp] theorem outer_stageSeed (s : State) (src : Src) (v : Nat) : (s.stageSeed src v).outer = s.outer := rfl

@[simp] theorem outer_formSeed (s : State) (src : Src) (v : Nat) : (s.formSeed src v).outer = s.outer := rfl

@[simp] theorem outer_execHubSieveSeedLoWrite (src : Src) (val : Nat) (s : State) : outerOf (execHubSieveSeedLoWrite src val s) = some s.outer := rfl

@[simp] theorem outer_execHubSieveSeedHiWrite (src : Src) (val : Nat) (s : State) : outerOf (execHubSieveSeedHiWrite src val s) = some s.outer := rfl

@[simp] theorem outer_clearSieve (s : State) : s.clearSieve.outer = s.outer := by simp [State.clearSieve]

@[simp] theorem outer_execHubSieveClr (src : Src) (s : State) : outerOf (execHubSieveClr src s) = some s.outer := by simp [execHubSieveClr]

/-! ### The operations of Machine/Ckpt.lean -/

@[simp] theorem outer_writeRun (s : State) (blk : Nat) (b : Bytes) (gen fmt : Nat) (n : Nat) : (s.writeRun blk b gen fmt n).outer = s.outer := by
  induction n generalizing s blk b gen fmt with
  | zero => rfl
  | succ n ih => simp [State.writeRun, ih]

@[simp] theorem outer_writeShards (s : State) (body : Bytes) (gen job step i : Nat) (l : List Shard) :
    (s.writeShards body gen job step i l).outer = s.outer := by
  induction l generalizing s body gen job step i with
  | nil => rfl
  | cons x t ih => simp [State.writeShards, ih]

@[simp] theorem outer_badRun (s : State) (gen fmt b : Nat) (n : Nat) : (s.badRun gen fmt b n).1.outer = s.outer := by
  induction n generalizing s gen fmt b with
  | zero => rfl
  | succ n ih =>
    unfold State.badRun
    (repeat' split) <;> simp [ih]

@[simp] theorem outer_badShard (s : State) (gen : Nat) (l : List Shard) : (s.badShard gen l).1.outer = s.outer := by
  induction l generalizing s gen with
  | nil => rfl
  | cons x t ih =>
    unfold State.badShard
    split
    · next h => exact (outer_of_fst h).trans (outer_badRun ..)
    · next h =>
      have hbody := (outer_of_fst h).trans (outer_badRun ..)
      split
      · next h => exact ((outer_of_fst h).trans (outer_badRun ..)).trans hbody
      · next h => exact (ih _ _).trans (((outer_of_fst h).trans (outer_badRun ..)).trans hbody)

@[simp] theorem outer_writeManifest (s : State) (c blk : Nat) (m : Draft) : (s.writeManifest c blk m).1.outer = s.outer := by
  have hbad (u : State) : ((s.writeShards (scaleBody m.scales) (s.ctx c).gen m.job m.step 0 m.shards).badShard (s.ctx c).gen m.shards).1 = u → u.outer = s.outer := by
    rintro rfl
    simp
  unfold State.writeManifest
  dsimp only
  split
  · next h => exact hbad _ (congrArg Prod.fst h)
  · next h => simp [hbad _ (congrArg Prod.fst h)]

@[simp] theorem outer_queueCkpt (s : State) (j : CkptJob) : (s.queueCkpt j).outer = s.outer := by simp [State.queueCkpt]

@[simp] theorem outer_endCkpt (s : State) : s.endCkpt.outer = s.outer := by
  unfold State.endCkpt
  dsimp only
  (repeat' split) <;> simp

@[simp] theorem outer_ckptMan (c : Cmd) (s : State) : (ckptMan c s).1.outer = s.outer := by simp [ckptMan]

@[simp] theorem outer_execCkptman (i : Issue) (s : State) : outerOf (execCkptman i s) = some s.outer := by
  simp [execCkptman, specCkptman]

@[simp] theorem outer_execCkptmanDone (s : State) : outerOf (execCkptmanDone s) = some s.outer := by
  unfold execCkptmanDone
  dsimp only
  split
  · rfl
  · split
    · rfl
    · split
      · simp
      · split
        · simp
        · split <;> next h => simp [(outer_of_fst h).trans (outer_writeManifest ..)]

@[simp] theorem outer_ckptCapture (s : State) (kind shard c step : Nat) : (s.ckptCapture kind shard c step).outer = s.outer := by simp [State.ckptCapture]

@[simp] theorem outer_sealBlocks (s : State) (gen fmt b : Nat) (n : Nat) : (s.sealBlocks gen fmt b n).outer = s.outer := by
  induction n generalizing s gen fmt b with
  | zero =>
    unfold State.sealBlocks
    rfl
  | succ n ih =>
    unfold State.sealBlocks
    simp [ih]

@[simp] theorem outer_sealShards (s : State) (gen : Nat) (l : List Shard) : (s.sealShards gen l).outer = s.outer := by
  induction l generalizing s gen with
  | nil => rfl
  | cons x t ih => simp [State.sealShards, ih]

@[simp] theorem outer_bindScales (s : State) (c : Nat) (l : List (Nat × Bytes)) : (s.bindScales c l).outer = s.outer := by
  induction l generalizing s c with
  | nil => rfl
  | cons x t ih => simp [State.bindScales, ih]

@[simp] theorem outer_restore (s : State) (c : Nat) (b : Bytes) : (s.restore c b).outer = s.outer := by simp [State.restore]

@[simp] theorem outer_ckptChk (c : Cmd) (s : State) : (ckptChk c s).1.outer = s.outer := by simp [ckptChk]

@[simp] theorem outer_execCkptchk (i : Issue) (s : State) : outerOf (execCkptchk i s) = some s.outer := by
  simp [execCkptchk, specCkptchk]

@[simp] theorem outer_endChk (s : State) (j : CkptJob) (b : Bytes) (r : Nat × Nat × Option Nat) : (s.endChk j b r).outer = s.outer := by
  unfold State.endChk
  (repeat' split) <;> simp

@[simp] theorem outer_ackMirror (s : State) (agent ctx step st : Nat) : (s.ackMirror agent ctx step st).outer = s.outer := by simp [State.ackMirror]

@[simp] theorem outer_ckptFailed (s : State) (st : Nat) : (s.ckptFailed st).outer = s.outer := by
  unfold State.ckptFailed
  (repeat' split) <;> simp

@[simp] theorem outer_execCkptchkDone (s : State) : outerOf (execCkptchkDone s) = some s.outer := by
  unfold execCkptchkDone
  (repeat' split) <;> simp

@[simp] theorem outer_buddyCfg (c : Cmd) (s : State) : (buddyCfg c s).1.outer = s.outer := by simp [buddyCfg]

@[simp] theorem outer_execBuddycfg (i : Issue) (s : State) : outerOf (execBuddycfg i s) = some s.outer := by
  simp [execBuddycfg, specBuddycfg]

@[simp] theorem outer_startMirror (s : State) (c step : Nat) : (s.startMirror c step).outer = s.outer := by
  unfold State.startMirror
  dsimp only
  (repeat' split) <;> simp

@[simp] theorem outer_copyRun (s : State) (c src dst : Nat) (n : Nat) : (s.copyRun c src dst n).outer = s.outer := by
  induction n generalizing s c src dst with
  | zero => rfl
  | succ n ih => simp [State.copyRun, ih]

@[simp] theorem outer_copyShards (s : State) (c : Nat) (l : List (Shard × Nat)) : (s.copyShards c l).outer = s.outer := by
  induction l generalizing s c with
  | nil => rfl
  | cons x t ih => simp [State.copyShards, ih]

@[simp] theorem outer_execMirrorCopyDone (ctx : Nat) (s : State) : outerOf (execMirrorCopyDone ctx s) = some s.outer := by
  unfold execMirrorCopyDone
  (repeat' split) <;> simp

@[simp] theorem outer_mirrorCheck (s : State) (m : PeerMsg) : (s.mirrorCheck m).outer = s.outer := by simp [State.mirrorCheck]

@[simp] theorem outer_execMirrorDone (m : PeerMsg) (s : State) : outerOf (execMirrorDone m s) = some s.outer := by simp [execMirrorDone]

@[simp] theorem outer_mirrorFail (s : State) (c step : Nat) (b : Buddy) (again : Bool) : (s.mirrorFail c step b again).outer = s.outer := by
  simp [State.mirrorFail]

@[simp] theorem outer_mirrorAnswer (s : State) (m : PeerMsg) : (s.mirrorAnswer m).outer = s.outer := by
  unfold State.mirrorAnswer
  dsimp only
  (repeat' split) <;> simp

@[simp] theorem outer_execMirrorAck (m : PeerMsg) (s : State) : outerOf (execMirrorAck m s) = some s.outer := by simp [execMirrorAck]

@[simp] theorem outer_execMirrorAckTimeout (ctx : Nat) (s : State) : outerOf (execMirrorAckTimeout ctx s) = some s.outer := by
  unfold execMirrorAckTimeout
  (repeat' split) <;> simp

@[simp] theorem outer_peerSend (c : Cmd) (s : State) : (peerSend c s).1.outer = s.outer := by simp [peerSend]

@[simp] theorem outer_execPeersend (i : Issue) (s : State) : outerOf (execPeersend i s) = some s.outer := by
  simp [execPeersend, specPeersend]

@[simp] theorem outer_rxTake (s : State) (m : PeerMsg) : (s.rxTake m).outer = s.outer := by simp [State.rxTake]

@[simp] theorem outer_execHostMessage (m : PeerMsg) (s : State) : outerOf (execHostMessage m s) = some s.outer := by simp [execHostMessage]

@[simp] theorem outer_rxDrain (s : State) (l : List PeerMsg) : (s.rxDrain l).outer = s.outer := by
  induction l generalizing s with
  | nil => rfl
  | cons x t ih => simp [State.rxDrain, ih]

@[simp] theorem outer_writeCons (s : State) (v : Nat) : (s.writeCons v).outer = s.outer := by simp [State.writeCons]

@[simp] theorem outer_execHubPeerRxConsWrite (src : Src) (val : Nat) (s : State) : outerOf (execHubPeerRxConsWrite src val s) = some s.outer := by
  simp [execHubPeerRxConsWrite]

/-! ### The operations of Machine/Commit.lean -/

@[simp] theorem outer_evalRoutes (s : State) (c k : Nat) : (s.evalRoutes c k).outer = s.outer := by simp [State.evalRoutes]

@[simp] theorem outer_sendStep (s : State) (c k : Nat) : (s.sendStep c k).outer = s.outer := by
  unfold State.sendStep
  (repeat' split) <;> simp

@[simp] theorem outer_commitScales (s : State) (c t : Nat) (nulled : Bool) (l : List (Nat × SckEntry)) :
    (s.commitScales c t nulled l).outer = s.outer := by
  induction l generalizing s c t nulled with
  | nil => rfl
  | cons x t ih => simp [State.commitScales, ih]

@[simp] theorem outer_execProvenanceDigestDone (ctx slot : Nat) (s : State) : outerOf (execProvenanceDigestDone ctx slot s) = some s.outer := by
  simp [execProvenanceDigestDone]

@[simp] theorem outer_provRecord (s : State) (c : Nat) (sl : Slot) : (s.provRecord c sl).outer = s.outer := by
  unfold State.provRecord
  (repeat' split) <;> simp

@[simp] theorem outer_commit (s : State) (c k : Nat) : (s.commit c k).outer = s.outer := by simp [State.commit]

@[simp] theorem outer_grant (s : State) (c k : Nat) : (s.grant c k).outer = s.outer := by simp [State.grant]

@[simp] theorem outer_execCommitGrant (ctx slot : Nat) (s : State) : outerOf (execCommitGrant ctx slot s) = some s.outer := by simp [execCommitGrant]

/-! ### The operations of Machine/FieldTest.lean -/

@[simp] theorem outer_loadContent (c : Cmd) (s : State) : (loadContent c s).1.outer = s.outer := by simp [loadContent]

@[simp] theorem outer_execTcload (i : Issue) (s : State) : outerOf (execTcload i s) = some s.outer := by
  simp [execTcload, specTcload]

@[simp] theorem outer_versionRefused (s : State) (st : Nat) : (s.versionRefused st).outer = s.outer := by simp [State.versionRefused]

@[simp] theorem outer_endTcload (s : State) (l : TcLoad) (st : Nat) : (s.endTcload l st).outer = s.outer := by simp [State.endTcload]

@[simp] theorem outer_execTcloadDone (s : State) : outerOf (execTcloadDone s) = some s.outer := by
  unfold execTcloadDone
  (repeat' split) <;> simp

@[simp] theorem outer_writeModels (s : State) (k : Nat) (l : List Model) : (s.writeModels k l).outer = s.outer := by
  induction l generalizing s k with
  | nil => rfl
  | cons x t ih => simp [State.writeModels, ih]

@[simp] theorem outer_execTcBankSwitch (s : State) : outerOf (execTcBankSwitch s) = some s.outer := by simp [execTcBankSwitch]

@[simp] theorem outer_setTileState (s : State) (p : Nat) (v : TileState) : (s.setTileState p v).outer = s.outer := rfl

@[simp] theorem outer_readMap (c : Cmd) (s : State) : (readMap c s).1.outer = s.outer := by
  simp [readMap]

@[simp] theorem outer_execTilemap (i : Issue) (s : State) : outerOf (execTilemap i s) = some s.outer := by
  simp [execTilemap, specTilemap]

@[simp] theorem outer_quarantineUnits (s : State) (p : Nat) : (s.quarantineUnits p).outer = s.outer := rfl

@[simp] theorem outer_setOrigin (s : State) (p origin : Nat) : (s.setOrigin p origin).outer = s.outer := rfl

@[simp] theorem outer_quarantine (c : Cmd) (s : State) : (quarantine c s).1.outer = s.outer := by
  unfold quarantine
  (repeat' split) <;> simp

@[simp] theorem outer_execQuarant (i : Issue) (s : State) : outerOf (execQuarant i s) = some s.outer := by
  simp [execQuarant, specQuarant]

@[simp] theorem outer_clearSusp (s : State) (e : Nat) : (s.clearSusp e).outer = s.outer := by simp [State.clearSusp]

@[simp] theorem outer_readSusp (c : Cmd) (s : State) : (readSusp c s).1.outer = s.outer := by simp [readSusp]

@[simp] theorem outer_execSuspread (i : Issue) (s : State) : outerOf (execSuspread i s) = some s.outer := by
  simp [execSuspread, specSuspread]

@[simp] theorem outer_startupFail (s : State) (p cause : Nat) : (s.startupFail p cause).outer = s.outer := rfl

@[simp] theorem outer_whiskStop (s : State) (w : WhiskRun) (st res : Nat) : (s.whiskStop w st res).outer = s.outer := by simp [State.whiskStop]

@[simp] theorem outer_mapRun (s : State) (id : Nat) (f : WhiskRun → WhiskRun) : (s.mapRun id f).outer = s.outer := by simp [State.mapRun]

@[simp] theorem outer_whiskStart (s : State) (w : WhiskRun) : (s.whiskStart w).outer = s.outer := by
  unfold State.whiskStart
  dsimp only
  generalize hv : ({ s with whiskQ := s.whiskQ.filter (fun x => x.id != w.id), whisk := s.whisk ++ [{ w with res := [], failed := none }] } : State) = v
  have hkept : v.outer = s.outer := by rw [← hv]; rfl
  split
  · exact hkept
  · split
    · simp [hkept]
    · split <;> next h => simp [(outer_of_fst h).trans (outer_badRun ..), hkept]

@[simp] theorem outer_queueRun (s : State) (w : WhiskRun) (idle : Bool) : (s.queueRun w idle).1.outer = s.outer := by simp [State.queueRun]

@[simp] theorem outer_idleLevel (s : State) (p : Nat) : (s.idleLevel p).1.outer = s.outer := by simp [State.idleLevel]

@[simp] theorem outer_runWhisk (c : Cmd) (s : State) : (runWhisk c s).1.outer = s.outer := by simp [runWhisk]

@[simp] theorem outer_execWhiskrun (i : Issue) (s : State) : outerOf (execWhiskrun i s) = some s.outer := by
  simp [execWhiskrun, specWhiskrun]

@[simp] theorem outer_tapTest (c : Cmd) (s : State) : (tapTest c s).1.outer = s.outer := by
  unfold tapTest
  (repeat' split) <;> simp

@[simp] theorem outer_execTaptest (i : Issue) (s : State) : outerOf (execTaptest i s) = some s.outer := by
  simp [execTaptest, specTaptest]

@[simp] theorem outer_execWhiskRunStart (tile test idle : Nat) (s : State) : outerOf (execWhiskRunStart tile test idle s) = some s.outer := by
  unfold execWhiskRunStart
  (repeat' split) <;> simp

@[simp] theorem outer_countOutcome (s : State) (o : Nat) : (s.countOutcome o).outer = s.outer := by simp [State.countOutcome]

@[simp] theorem outer_observeOutcome (s : State) (p cls o : Nat) : (s.observeOutcome p cls o).outer = s.outer := by simp [State.observeOutcome]

@[simp] theorem outer_startupOutcome (s : State) (w : WhiskRun) (o : Nat) : (s.startupOutcome w o).outer = s.outer := by simp [State.startupOutcome]

@[simp] theorem outer_execWhiskRunEnd (tile : Nat) (same : List Bool) (s : State) : outerOf (execWhiskRunEnd tile same s) = some s.outer := by
  unfold execWhiskRunEnd
  (repeat' split) <;> simp

@[simp] theorem outer_whiskAbandon (s : State) (p : Nat) : (s.whiskAbandon p).outer = s.outer := by
  unfold State.whiskAbandon
  (repeat' split) <;> simp

@[simp] theorem outer_execWhiskRunAbandon (tile : Nat) (s : State) : outerOf (execWhiskRunAbandon tile s) = some s.outer := by simp [execWhiskRunAbandon]

@[simp] theorem outer_execWhiskRunTimeout (tile test : Nat) (s : State) : outerOf (execWhiskRunTimeout tile test s) = some s.outer := by
  unfold execWhiskRunTimeout
  (repeat' split) <;> simp

@[simp] theorem outer_scheduleTile (s : State) (p : Nat) : (s.scheduleTile p).outer = s.outer := by
  unfold State.scheduleTile
  dsimp only
  split
  · rfl
  · exact (outer_portCmd _ _ _ _ _ _ _ fun u => outer_runWhisk _ u).trans (outer_took s 1)

@[simp] theorem outer_scheduleTiles (s : State) (l : List Nat) : (s.scheduleTiles l).outer = s.outer := by
  induction l generalizing s with
  | nil => rfl
  | cons x t ih => simp [State.scheduleTiles, ih]

@[simp] theorem outer_execWhiskSchedule (s : State) : outerOf (execWhiskSchedule s) = some s.outer := by simp [execWhiskSchedule]

@[simp] theorem outer_substitute (s : State) (l p q : Nat) : (s.substitute l p q).outer = s.outer := by simp [State.substitute]

@[simp] theorem outer_execTileSubstitution (logical : Nat) (empty : List Nat) (s : State) :
    outerOf (execTileSubstitution logical empty s) = some s.outer := by
  unfold execTileSubstitution
  (repeat' split) <;> simp

/-! ### The operations of Machine/Trivet.lean -/

@[simp] theorem outer_setZone (s : State) (z : Nat) (v : Zone) : (s.setZone z v).outer = s.outer := rfl

@[simp] theorem outer_setSensor (s : State) (i : Nat) (v : Sensor) : (s.setSensor i v).outer = s.outer := rfl

@[simp] theorem outer_takeThr (s : State) (z : Nat) : (s.takeThr z).outer = s.outer := by simp [State.takeThr]

@[simp] theorem outer_takeLimit (s : State) : s.takeLimit.outer = s.outer := by
  unfold State.takeLimit
  (repeat' split) <;> simp

@[simp] theorem outer_invalidSample (s : State) (i : Nat) : (s.invalidSample i).outer = s.outer := by simp [State.invalidSample]

@[simp] theorem outer_hardTrip (s : State) (i : Nat) (t : Int) : (s.hardTrip i t).outer = s.outer := by simp [State.hardTrip]

@[simp] theorem outer_enterState (s : State) (x : ZoneState) : (s.enterState x).outer = s.outer := by
  unfold State.enterState
  (repeat' split) <;> simp

@[simp] theorem outer_enterStates (s : State) (l : List ZoneState) : (s.enterStates l).outer = s.outer := by
  induction l generalizing s with
  | nil => rfl
  | cons x t ih => simp [State.enterStates, ih]

@[simp] theorem outer_evalZone (s : State) (z : Nat) (was dark : Bool) : (s.evalZone z was dark).outer = s.outer := by simp [State.evalZone]

@[simp] theorem outer_rebudget (s : State) : s.rebudget.outer = s.outer := rfl

@[simp] theorem outer_sample (s : State) (i w : Nat) : (s.sample i w).outer = s.outer := by
  unfold State.sample
  dsimp only
  (repeat' split) <;> simp

@[simp] theorem outer_execSensorSample (sensor word : Nat) (s : State) : outerOf (execSensorSample sensor word s) = some s.outer := by simp [execSensorSample]

@[simp] theorem outer_execFastSamplingExit (zone : Nat) (s : State) : outerOf (execFastSamplingExit zone s) = some s.outer := by simp [execFastSamplingExit]

@[simp] theorem outer_stepZone (s : State) (z : Nat) : (s.stepZone z).outer = s.outer := by simp [State.stepZone]

@[simp] theorem outer_stepZones (s : State) (l : List Nat) : (s.stepZones l).outer = s.outer := by
  induction l generalizing s with
  | nil => rfl
  | cons x t ih => simp [State.stepZones, ih]

@[simp] theorem outer_execThrottleStep (s : State) : outerOf (execThrottleStep s) = some s.outer := by simp [execThrottleStep]

@[simp] theorem outer_setRail (s : State) (i : Nat) (v : Rail) : (s.setRail i v).outer = s.outer := rfl

@[simp] theorem outer_pmbErr (s : State) : s.pmbErr.outer = s.outer := by simp [State.pmbErr]

@[simp] theorem outer_railFail (s : State) (i : Nat) : (s.railFail i).outer = s.outer := by simp [State.railFail]

@[simp] theorem outer_pollRails (s : State) (i : Nat) (l : List (Option Nat)) : (s.pollRails i l).outer = s.outer := by
  induction l generalizing s i with
  | nil => rfl
  | cons x t ih => cases x <;> exact (ih _ _).trans (by simp)

@[simp] theorem outer_stepPower (s : State) : s.stepPower.outer = s.outer := by simp [State.stepPower]

@[simp] theorem outer_execPowerPoll (words : List (Option Nat)) (s : State) : outerOf (execPowerPoll words s) = some s.outer := by simp [execPowerPoll]

@[simp] theorem outer_execPmbusTimeout (rail : Nat) (s : State) : outerOf (execPmbusTimeout rail s) = some s.outer := by simp [execPmbusTimeout]

@[simp] theorem outer_execSmbalert (s : State) : outerOf (execSmbalert s) = some s.outer := rfl

@[simp] theorem outer_avsWrite (s : State) (v : Nat) : (s.avsWrite v).outer = s.outer := by simp [State.avsWrite]

@[simp] theorem outer_applyThr (s : State) (z v : Nat) : (s.applyThr z v).outer = s.outer := by simp [State.applyThr]

@[simp] theorem outer_selectCurve (s : State) : s.selectCurve.outer = s.outer := by
  unfold State.selectCurve
  (repeat' split) <;> simp

@[simp] theorem outer_connectAtb (s : State) (v : Nat) : (s.connectAtb v).outer = s.outer := by simp [State.connectAtb]

@[simp] theorem outer_applyChange (s : State) (x : HeldChange) : (s.applyChange x).outer = s.outer := by
  unfold State.applyChange
  (repeat' split) <;> simp

@[simp] theorem outer_policy (s : State) (c : HeldChange) : (s.policy c).outer = s.outer := by simp [State.policy]

@[simp] theorem outer_execTrvHeldApply (s : State) : outerOf (execTrvHeldApply s) = some s.outer := by
  unfold execTrvHeldApply
  (repeat' split) <;> simp

@[simp] theorem outer_setTrv (c : Cmd) (s : State) : (setTrv c s).1.outer = s.outer := by simp [setTrv]

@[simp] theorem outer_execTrvset (i : Issue) (s : State) : outerOf (execTrvset i s) = some s.outer := by
  simp [execTrvset, specTrvset]

@[simp] theorem outer_writeAvs (s : State) (v : Nat) : (s.writeAvs v).outer = s.outer := by simp [State.writeAvs]

@[simp] theorem outer_execTrvAvsWrite (src : Src) (val : Nat) (s : State) : outerOf (execTrvAvsWrite src val s) = some s.outer := by simp [execTrvAvsWrite]

@[simp] theorem outer_writeFloor (s : State) (src : Src) (v : Nat) : (s.writeFloor src v).outer = s.outer := by simp [State.writeFloor]

@[simp] theorem outer_execTrvDomLevelFloor (src : Src) (val : Nat) (s : State) : outerOf (execTrvDomLevelFloor src val s) = some s.outer := by
  simp [execTrvDomLevelFloor]

@[simp] theorem outer_curveFailed (s : State) (st : Nat) : (s.curveFailed st).outer = s.outer := by simp [State.curveFailed]

@[simp] theorem outer_loadCurve (s : State) : s.loadCurve.outer = s.outer := by
  unfold State.loadCurve
  dsimp only
  (repeat' split) <;> simp

@[simp] theorem outer_execTrvCurveLoad (src : Src) (s : State) : outerOf (execTrvCurveLoad src s) = some s.outer := by simp [execTrvCurveLoad]

@[simp] theorem outer_askSelect (s : State) : s.askSelect.outer = s.outer := by simp [State.askSelect]

@[simp] theorem outer_execTrvCurveSelect (src : Src) (s : State) : outerOf (execTrvCurveSelect src s) = some s.outer := by simp [execTrvCurveSelect]

@[simp] theorem outer_clearTrip (s : State) : s.clearTrip.outer = s.outer := by simp [State.clearTrip]

@[simp] theorem outer_execTrvTripClr (src : Src) (s : State) : outerOf (execTrvTripClr src s) = some s.outer := by simp [execTrvTripClr]

@[simp] theorem outer_readBudget (c : Cmd) (s : State) : (readBudget c s).1.outer = s.outer := by simp [readBudget]

@[simp] theorem outer_execBudget (i : Issue) (s : State) : outerOf (execBudget i s) = some s.outer := by
  simp [execBudget, specBudget]

/-! ### The operations of Machine/Kettle.lean -/

@[simp] theorem outer_setFwSlot (s : State) (k : Nat) (v : FwSlot) : (s.setFwSlot k v).outer = s.outer := rfl

@[simp] theorem outer_slotStatus (s : State) (k st : Nat) : (s.slotStatus k st).outer = s.outer := by simp [State.slotStatus]

@[simp] theorem outer_rewriteDir (s : State) (k : Nat) : (s.rewriteDir k).outer = s.outer := by simp [State.rewriteDir]

@[simp] theorem outer_runs (s : State) (img : Bytes) : (s.runs img).outer = s.outer := rfl

@[simp] theorem outer_journalRefusal (s : State) (slot : Nat) : (s.journalRefusal slot).outer = s.outer := by simp [State.journalRefusal]

@[simp] theorem outer_fwRefused (s : State) (st : Nat) : (s.fwRefused st).outer = s.outer := by simp [State.fwRefused]

@[simp] theorem outer_doorbell (s : State) (n v : Nat) : (s.doorbell n v).outer = s.outer := by simp [State.doorbell]

@[simp] theorem outer_cdoorbell (s : State) (n v : Nat) : (s.cdoorbell n v).outer = s.outer := by simp [State.cdoorbell]

@[simp] theorem outer_execKtlDbWrite (src : Src) (n val : Nat) (s : State) : outerOf (execKtlDbWrite src n val s) = some s.outer := by simp [execKtlDbWrite]

@[simp] theorem outer_execKtlCdbWrite (src : Src) (n val : Nat) (s : State) : outerOf (execKtlCdbWrite src n val s) = some s.outer := by
  simp [execKtlCdbWrite]

@[simp] theorem outer_ringCfg (s : State) (src : Src) (v : Nat) : (s.ringCfg src v).outer = s.outer := by simp [State.ringCfg]

@[simp] theorem outer_execKtlRingEnable (src : Src) (val : Nat) (s : State) : outerOf (execKtlRingEnable src val s) = some s.outer := by
  simp [execKtlRingEnable]

@[simp] theorem outer_ringField (s : State) (src : Src) (f : Ring → Ring) : (s.ringField src f).outer = s.outer := by simp [State.ringField]

@[simp] theorem outer_handRecord (s : State) (n : Nat) (t : Taken) (k : Nat) : (s.handRecord n t k).outer = s.outer := by simp [State.handRecord]

@[simp] theorem outer_settleEntry (s : State) (n : Nat) (t : Taken) : (s.settleEntry n t).outer = s.outer := by
  unfold State.settleEntry
  (repeat' split) <;> simp

@[simp] theorem outer_settleEntries (s : State) (n : Nat) (l : List Taken) : (s.settleEntries n l).outer = s.outer := by
  induction l generalizing s n with
  | nil => rfl
  | cons x t ih => simp [State.settleEntries, ih]

@[simp] theorem outer_settleRings (s : State) (l : List Nat) : (s.settleRings l).outer = s.outer := by
  induction l generalizing s with
  | nil => rfl
  | cons x t ih => simp [State.settleRings, ih]

@[simp] theorem outer_handAgain (s : State) (k n : Nat) (l : List Taken) : (s.handAgain k n l).outer = s.outer := by
  induction l generalizing s k n with
  | nil => rfl
  | cons x t ih => simp [State.handAgain, ih]

@[simp] theorem outer_handAll (s : State) (k : Nat) (l : List Nat) : (s.handAll k l).outer = s.outer := by
  induction l generalizing s k with
  | nil => rfl
  | cons x t ih => simp [State.handAll, ih]

@[simp] theorem outer_coreReady (s : State) (k : Nat) : (s.coreReady k).outer = s.outer := by simp [State.coreReady]

@[simp] theorem outer_countCopy (s : State) (copy : List Nat) : (s.countCopy copy).outer = s.outer := by simp [State.countCopy]

@[simp] theorem outer_reload (s : State) (core : Nat) (copy : List Nat) : (s.reload core copy).outer = s.outer := by simp [State.reload]

@[simp] theorem outer_execKettleCoreReady (core : Nat) (copy : List Nat) (s : State) : outerOf (execKettleCoreReady core copy s) = some s.outer := by
  simp [execKettleCoreReady]

@[simp] theorem outer_resetCore (s : State) (k : Nat) : (s.resetCore k).outer = s.outer := by
  unfold State.resetCore
  dsimp only
  (repeat' split) <;> simp

@[simp] theorem outer_watchdogRestart (s : State) (k : Nat) : (s.watchdogRestart k).outer = s.outer := by simp [State.watchdogRestart]

@[simp] theorem outer_resetCores (s : State) (l : List Nat) : (s.resetCores l).outer = s.outer := by
  induction l generalizing s with
  | nil => rfl
  | cons x t ih => simp [State.resetCores, ih]

@[simp] theorem outer_rollback (s : State) (ticket k core : Nat) : (s.rollback ticket k core).outer = s.outer := by simp [State.rollback]

@[simp] theorem outer_execWatchdogExpiry (core kick : Nat) (s : State) : outerOf (execWatchdogExpiry core kick s) = some s.outer := by
  unfold execWatchdogExpiry
  (repeat' split) <;> simp

@[simp] theorem outer_startActivation (s : State) (slot ticket : Nat) : (s.startActivation slot ticket).outer = s.outer := by simp [State.startActivation]

@[simp] theorem outer_activate (c : Cmd) (s : State) : (activate c s).1.outer = s.outer := by simp [activate]

@[simp] theorem outer_execFwact (i : Issue) (s : State) : outerOf (execFwact i s) = some s.outer := by
  simp [execFwact, specFwact]

@[simp] theorem outer_execDeferredActivationStart (s : State) : outerOf (execDeferredActivationStart s) = some s.outer := by
  unfold execDeferredActivationStart
  (repeat' split) <;> simp

@[simp] theorem outer_endActivation (s : State) (slot ticket : Nat) : (s.endActivation slot ticket).outer = s.outer := by simp [State.endActivation]

@[simp] theorem outer_execActivationCoreReady (core : Nat) (s : State) : outerOf (execActivationCoreReady core s) = some s.outer := by
  unfold execActivationCoreReady
  (repeat' split) <;> simp

@[simp] theorem outer_endStaging (s : State) (g : Staging) (st : Nat) : (s.endStaging g st).outer = s.outer := by
  unfold State.endStaging
  dsimp only
  (repeat' split) <;> simp

@[simp] theorem outer_execStagingDone (reread : Option Bytes) (s : State) : outerOf (execStagingDone reread s) = some s.outer := by
  unfold execStagingDone
  (repeat' split) <;> simp

@[simp] theorem outer_setStageLast (s : State) (st : Nat) : (s.setStageLast st).outer = s.outer := rfl

@[simp] theorem outer_startStaging (s : State) (g : Staging) : (s.startStaging g).1.outer = s.outer := by simp [State.startStaging]

@[simp] theorem outer_stageImage (s : State) : s.stageImage.outer = s.outer := by simp [State.stageImage]

@[simp] theorem outer_goStage (s : State) : s.goStage.outer = s.outer := by simp [State.goStage]

@[simp] theorem outer_execKtlStageGoStage (src : Src) (s : State) : outerOf (execKtlStageGoStage src s) = some s.outer := by simp [execKtlStageGoStage]

@[simp] theorem outer_report (s : State) (result flags : Nat) (detail : Bytes) : (s.report result flags detail).outer = s.outer := rfl

@[simp] theorem outer_stagePass (s : State) (flags : Nat) (detail : Bytes) : (s.stagePass flags detail).outer = s.outer := rfl

@[simp] theorem outer_stageFail (s : State) (st flags : Nat) (detail : Bytes) : (s.stageFail st flags detail).outer = s.outer := rfl

@[simp] theorem outer_stageFailOpen (s : State) (flags : Nat) (detail : Bytes) : (s.stageFailOpen flags detail).outer = s.outer := rfl

@[simp] theorem outer_bootImage (s : State) (img : Bytes) (stage : Nat) : (s.bootImage img stage).outer = s.outer := by simp [State.bootImage]

@[simp] theorem outer_slotRefused (s : State) (st : Nat) : (s.slotRefused st).outer = s.outer := by simp [State.slotRefused]

@[simp] theorem outer_bootStops (s : State) : s.bootStops.outer = s.outer := by simp [State.bootStops]

@[simp] theorem outer_readDir (s : State) (a b : Bytes) : (s.readDir a b).outer = s.outer := by
  unfold State.readDir
  (repeat' split) <;> simp

@[simp] theorem outer_imageVerified (s : State) (image : Bytes) : (s.imageVerified image).outer = s.outer := by simp [State.imageVerified]

@[simp] theorem outer_execFirmwareImageVerified (dirA dirB image : Bytes) (s : State) :
    outerOf (execFirmwareImageVerified dirA dirB image s) = some s.outer := by
  simp [execFirmwareImageVerified]

@[simp] theorem outer_execFlashReadTimeout (s : State) : outerOf (execFlashReadTimeout s) = some s.outer := by simp [execFlashReadTimeout]

@[simp] theorem outer_runImage (s : State) : s.runImage.outer = s.outer := by simp [State.runImage]

@[simp] theorem outer_goRun (s : State) : s.goRun.outer = s.outer := by simp [State.goRun]

@[simp] theorem outer_execKtlStageGoRun (src : Src) (s : State) : outerOf (execKtlStageGoRun src s) = some s.outer := by simp [execKtlStageGoRun]

/-! ### The operations of Machine/Bring.lean -/

@[simp] theorem outer_blankBlock (s : State) : s.blankBlock.outer = s.outer := by simp [State.blankBlock]

@[simp] theorem outer_execPowerOnReset (s : State) : outerOf (execPowerOnReset s) = some s.outer := by simp [execPowerOnReset]

@[simp] theorem outer_blockReset (s : State) : s.blockReset.outer = s.outer := by simp [State.blockReset]

@[simp] theorem outer_execBlockReset (s : State) : outerOf (execBlockReset s) = some s.outer := by simp [execBlockReset]

@[simp] theorem outer_execResetCheckDone (badUnit : Option (Nat × Nat)) (pinOk : Bool) (s : State) :
    outerOf (execResetCheckDone badUnit pinOk s) = some s.outer := by
  unfold execResetCheckDone
  (repeat' split) <;> simp

@[simp] theorem outer_execFuseWordAck (data : Nat) (s : State) : outerOf (execFuseWordAck data s) = some s.outer := by simp [execFuseWordAck]

@[simp] theorem outer_execFuseReadTimeout (s : State) : outerOf (execFuseReadTimeout s) = some s.outer := by simp [execFuseReadTimeout]

@[simp] theorem outer_readList (s : State) (a b : Bytes) : (s.readList a b).outer = s.outer := by
  unfold State.readList
  (repeat' split) <;> simp

@[simp] theorem outer_readSfdp (s : State) (sfdp : Option Sfdp) : (s.readSfdp sfdp).outer = s.outer := by
  unfold State.readSfdp
  (repeat' split) <;> simp

@[simp] theorem outer_execBringRomStageDone (romOk memOk : Bool) (sfdp : Option Sfdp) (listA listB : Bytes) (s : State) :
    outerOf (execBringRomStageDone romOk memOk sfdp listA listB s) = some s.outer := by
  simp [execBringRomStageDone]

@[simp] theorem outer_fenceBad (s : State) (ok : Nat) (l : List Nat) : (s.fenceBad ok l).outer = s.outer := by
  induction l generalizing s ok with
  | nil => rfl
  | cons x t ih => simp [State.fenceBad, ih]

@[simp] theorem outer_drawKey (s : State) : s.drawKey.outer = s.outer := by simp [State.drawKey]

@[simp] theorem outer_drawSeed (s : State) : s.drawSeed.outer = s.outer := by simp [State.drawSeed]

@[simp] theorem outer_tableFaults (s : State) (tablesOk : Bool) (corrected : Nat) : (s.tableFaults tablesOk corrected).outer = s.outer := by
  simp [State.tableFaults]

@[simp] theorem outer_execBringBlockStageDone (laneOk : Nat) (tablesOk : Bool) (corrected : Nat) (s : State) :
    outerOf (execBringBlockStageDone laneOk tablesOk corrected s) = some s.outer := by
  simp [execBringBlockStageDone]

@[simp] theorem outer_askState (s : State) (l : List StateRead) : (s.askState l).outer = s.outer := by
  unfold State.askState
  (repeat' split) <;> simp

@[simp] theorem outer_stopFails (s : State) (l : List Nat) : (s.stopFails l).outer = s.outer := by
  induction l generalizing s with
  | nil => rfl
  | cons x t ih => simp [State.stopFails, ih]

@[simp] theorem outer_topology (s : State) : s.topology.outer = s.outer := by simp [State.topology]

@[simp] theorem outer_go (s : State) : s.go.outer = s.outer := by simp [State.go]

@[simp] theorem outer_execGo (src : Src) (s : State) : outerOf (execGo src s) = some s.outer := by simp [execGo]

@[simp] theorem outer_linkAnswer (s : State) (data : Nat) (err : Bool) : (s.linkAnswer data err).outer = s.outer := by
  unfold State.linkAnswer
  (repeat' split) <;> simp

@[simp] theorem outer_countLink (s : State) (x : LinkOut) : (s.countLink x).outer = s.outer := by
  unfold State.countLink
  (repeat' split) <;> simp

@[simp] theorem outer_countLinks (s : State) (l : List LinkOut) : (s.countLinks l).outer = s.outer := by
  induction l generalizing s with
  | nil => rfl
  | cons x t ih => simp [State.countLinks, ih]

@[simp] theorem outer_linkDetail (s : State) (os : List LinkOut) : (s.linkDetail os).1.outer = s.outer := by
  unfold State.linkDetail
  (repeat' split) <;> simp

@[simp] theorem outer_execBringLinkMeasureEnd (second : List (Option Nat × Option Nat)) (s : State) :
    outerOf (execBringLinkMeasureEnd second s) = some s.outer := by
  simp [execBringLinkMeasureEnd]

@[simp] theorem outer_setTileTest (s : State) (p : Nat) (v : TileTest) : (s.setTileTest p v).outer = s.outer := rfl

@[simp] theorem outer_markReleased (s : State) (l : List Nat) : (s.markReleased l).outer = s.outer := by
  induction l generalizing s with
  | nil => rfl
  | cons x t ih => simp [State.markReleased, ih]

@[simp] theorem outer_execBringTileRelease (s : State) : outerOf (execBringTileRelease s) = some s.outer := by simp [execBringTileRelease]

@[simp] theorem outer_resetAgain (s : State) (p : Nat) : (s.resetAgain p).outer = s.outer := by simp [State.resetAgain]

@[simp] theorem outer_execBringTileReadyTimeout (tile : Nat) (s : State) : outerOf (execBringTileReadyTimeout tile s) = some s.outer := by
  simp [execBringTileReadyTimeout]

@[simp] theorem outer_judgeTile (s : State) (p : Nat) : (s.judgeTile p).outer = s.outer := by simp [State.judgeTile]

@[simp] theorem outer_judgeTiles (s : State) (l : List Nat) : (s.judgeTiles l).outer = s.outer := by
  induction l generalizing s with
  | nil => rfl
  | cons x t ih => simp [State.judgeTiles, ih]

@[simp] theorem outer_setDefect (s : State) (p : Nat) (d : Defect) : (s.setDefect p d).outer = s.outer := rfl

@[simp] theorem outer_decideTile (s : State) (p : Nat) : (s.decideTile p).outer = s.outer := by
  unfold State.decideTile
  dsimp only
  (repeat' split) <;> simp

@[simp] theorem outer_decideTiles (s : State) (l : List Nat) : (s.decideTiles l).outer = s.outer := by
  induction l generalizing s with
  | nil => rfl
  | cons x t ih => simp [State.decideTiles, ih]

@[simp] theorem outer_execBringTestDone (s : State) : outerOf (execBringTestDone s) = some s.outer := by simp [execBringTestDone]

@[simp] theorem outer_mapPairs (s : State) (l : List (Nat × Nat)) : (s.mapPairs l).outer = s.outer := by
  induction l generalizing s with
  | nil => rfl
  | cons x t ih => simp [State.mapPairs, ih]

@[simp] theorem outer_listWritten (s : State) (ok : Bool) : (s.listWritten ok).outer = s.outer := by simp [State.listWritten]

@[simp] theorem outer_lowerQuiesce (s : State) : s.lowerQuiesce.outer = s.outer := by simp [State.lowerQuiesce]

@[simp] theorem outer_execBringMapDone (flashOk : Bool) (s : State) : outerOf (execBringMapDone flashOk s) = some s.outer := by simp [execBringMapDone]

@[simp] theorem outer_execDefectListRewrite (flashOk : Bool) (s : State) : outerOf (execDefectListRewrite flashOk s) = some s.outer := by
  simp [execDefectListRewrite]

@[simp] theorem outer_addDefect (s : State) (src : Src) : (s.addDefect src).outer = s.outer := rfl

@[simp] theorem outer_execHubDefectCtrlAdd (src : Src) (s : State) : outerOf (execHubDefectCtrlAdd src s) = some s.outer := rfl

@[simp] theorem outer_clearDefect (s : State) (src : Src) : (s.clearDefect src).outer = s.outer := rfl

@[simp] theorem outer_execHubDefectCtrlClear (src : Src) (s : State) : outerOf (execHubDefectCtrlClear src s) = some s.outer := rfl

@[simp] theorem outer_partWrite (s : State) (hi : Bool) (v : Nat) : (s.partWrite hi v).outer = s.outer := by simp [State.partWrite]

@[simp] theorem outer_execHubPartMapWrite (src : Src) (hi : Bool) (val : Nat) (s : State) : outerOf (execHubPartMapWrite src hi val s) = some s.outer := by
  simp [execHubPartMapWrite]

@[simp] theorem outer_journalRefusals (s : State) (l : List Nat) : (s.journalRefusals l).outer = s.outer := by
  induction l generalizing s with
  | nil =>
    unfold State.journalRefusals
    rfl
  | cons x t ih =>
    unfold State.journalRefusals
    simp [ih]

@[simp] theorem outer_jrnlBase (s : State) (v : Nat) : (s.jrnlBase v).outer = s.outer := by simp [State.jrnlBase]

@[simp] theorem outer_execHubJrnlBaseWrite (src : Src) (val : Nat) (s : State) : outerOf (execHubJrnlBaseWrite src val s) = some s.outer := by
  simp [execHubJrnlBaseWrite]

/-! ### The operations of Machine/RegRead.lean -/

@[simp] theorem outer_readReg (s : State) (src : Src) (a : Nat) : (s.readReg src a).1.outer = s.outer := by simp [State.readReg]

@[simp] theorem outer_execHubTimeLoRead (src : Src) (s : State) : outerOf (execHubTimeLoRead src s) = some s.outer := rfl

@[simp] theorem outer_execHubJrnlNextLoRead (src : Src) (s : State) : outerOf (execHubJrnlNextLoRead src s) = some s.outer := rfl

@[simp] theorem outer_execHubProvNextLoRead (src : Src) (s : State) : outerOf (execHubProvNextLoRead src s) = some s.outer := rfl

@[simp] theorem outer_execHubDumpDataRead (src : Src) (s : State) : outerOf (execHubDumpDataRead src s) = some s.outer := rfl

@[simp] theorem outer_readRegister (c : Cmd) (s : State) : (readRegister c s).1.outer = s.outer := by simp [readRegister]

@[simp] theorem outer_execRdreg (i : Issue) (s : State) : outerOf (execRdreg i s) = some s.outer := by
  simp [execRdreg, specRdreg]

/-! ### The operations of Machine/Dump.lean -/

@[simp] theorem outer_resetBody (c : Cmd) (s : State) : (resetBody c s).1.outer = s.outer := by simp [resetBody]

@[simp] theorem outer_execReset (i : Issue) (s : State) : outerOf (execReset i s) = some s.outer := by
  simp [execReset, specReset]

@[simp] theorem outer_copySram (s : State) (dst k : Nat) (n : Nat) : (s.copySram dst k n).outer = s.outer := by
  induction n generalizing s dst k with
  | zero => rfl
  | succ n ih => simp [State.copySram, ih]

@[simp] theorem outer_dumpLast (s : State) (d : Dump) (st : Nat) : (s.dumpLast d st).outer = s.outer := by simp [State.dumpLast]

@[simp] theorem outer_dumpHeld (s : State) (d : Dump) (st : Nat) : (s.dumpHeld d st).outer = s.outer := by simp [State.dumpHeld]

@[simp] theorem outer_dumpCopy (s : State) (d : Dump) : (s.dumpCopy d).outer = s.outer := by simp [State.dumpCopy]

@[simp] theorem outer_blankRec (s : State) (r : DumpRead) (st : Nat) : (s.blankRec r st).1.outer = s.outer := by simp [State.blankRec]

@[simp] theorem outer_dumpNext (s : State) (d : Dump) (l : List DumpRead) : (s.dumpNext d l).outer = s.outer := by
  induction l generalizing s d with
  | nil => simp [State.dumpNext]
  | cons x t ih =>
    unfold State.dumpNext
    dsimp only
    (repeat' split) <;> simp [ih]

@[simp] theorem outer_dumpBody (c : Cmd) (s : State) : (dumpBody c s).1.outer = s.outer := by simp [dumpBody]

@[simp] theorem outer_execDump (i : Issue) (s : State) : outerOf (execDump i s) = some s.outer := by
  simp [execDump, specDump]

@[simp] theorem outer_dumpAnswer (s : State) (d : Dump) (answer : Option Nat) (err : Bool) : (s.dumpAnswer d answer err).outer = s.outer := by
  unfold State.dumpAnswer
  (repeat' split) <;> simp

@[simp] theorem outer_execDumpReadResult (answer : Option Nat) (s : State) : outerOf (execDumpReadResult answer s) = some s.outer := by
  unfold execDumpReadResult
  (repeat' split) <;> simp

@[simp] theorem outer_execDumpCopyDone (s : State) : outerOf (execDumpCopyDone s) = some s.outer := by
  unfold execDumpCopyDone
  (repeat' split) <;> simp

@[simp] theorem outer_execStateReadAnswer (data : Nat) (err : Bool) (s : State) : outerOf (execStateReadAnswer data err s) = some s.outer := by
  unfold execStateReadAnswer
  (repeat' split) <;> simp

/-! ### The operations of Machine/RegWrite.lean -/

@[simp] theorem outer_plainWrite (s : State) (a v : Nat) : (s.plainWrite a v).outer = s.outer := by
  unfold State.plainWrite
  (repeat' split) <;> simp

@[simp] theorem outer_unlessBusy (s : State) (busy : Bool) (a v : Nat) : (s.unlessBusy busy a v).outer = s.outer := by simp [State.unlessBusy]

@[simp] theorem outer_writeBase (s : State) (busy : Bool) (a v : Nat) : (s.writeBase busy a v).outer = s.outer := by simp [State.writeBase]

@[simp] theorem outer_dropWaits (s : State) (a v : Nat) : (s.dropWaits a v).outer = s.outer := by simp [State.dropWaits]

@[simp] theorem outer_clearW1c (s : State) (a v : Nat) : (s.clearW1c a v).outer = s.outer := by
  unfold State.clearW1c
  (repeat' split) <;> simp

@[simp] theorem outer_execW1cClear (src : Src) (addr val : Nat) (s : State) : outerOf (execW1cClear src addr val s) = some s.outer := by simp [execW1cClear]

@[simp] theorem outer_writeModel (s : State) (src : Src) (a v : Nat) : (s.writeModel src a v).outer = s.outer := by
  unfold State.writeModel
  (repeat' split) <;> simp

@[simp] theorem outer_writeWatchDom (s : State) (src : Src) (v : Nat) : (s.writeWatchDom src v).outer = s.outer := by simp [State.writeWatchDom]

@[simp] theorem outer_writeAtb (s : State) (v : Nat) : (s.writeAtb v).outer = s.outer := by simp [State.writeAtb]

@[simp] theorem outer_execHubAtbCtrlWrite (src : Src) (val : Nat) (s : State) : outerOf (execHubAtbCtrlWrite src val s) = some s.outer := by
  simp [execHubAtbCtrlWrite]

@[simp] theorem outer_defectCtrl (s : State) (src : Src) (v : Nat) : (s.defectCtrl src v).outer = s.outer := by simp [State.defectCtrl]

@[simp] theorem outer_writeHub0 (s : State) (src : Src) (a v : Nat) : (s.writeHub0 src a v).outer = s.outer := by simp [State.writeHub0]

@[simp] theorem outer_writeHub1 (s : State) (src : Src) (a v : Nat) : (s.writeHub1 src a v).outer = s.outer := by simp [State.writeHub1]

@[simp] theorem outer_writeClass (s : State) (a v : Nat) : (s.writeClass a v).outer = s.outer := by simp [State.writeClass]

@[simp] theorem outer_writeCol (s : State) (a v : Nat) : (s.writeCol a v).outer = s.outer := by simp [State.writeCol]

@[simp] theorem outer_writePart (s : State) (src : Src) (v : Nat) : (s.writePart src v).outer = s.outer := rfl

@[simp] theorem outer_writeCap (s : State) (src : Src) (v : Nat) : (s.writeCap src v).outer = s.outer := rfl

@[simp] theorem outer_curveCtrl (s : State) (v : Nat) : (s.curveCtrl v).outer = s.outer := by simp [State.curveCtrl]

@[simp] theorem outer_writeTrv (s : State) (src : Src) (a v : Nat) : (s.writeTrv src a v).outer = s.outer := by simp [State.writeTrv]

@[simp] theorem outer_stageGo (s : State) (v : Nat) : (s.stageGo v).outer = s.outer := by simp [State.stageGo]

@[simp] theorem outer_writeWdog (s : State) (v : Nat) : (s.writeWdog v).outer = s.outer := by simp [State.writeWdog]

@[simp] theorem outer_writeKtl (s : State) (src : Src) (a v : Nat) : (s.writeKtl src a v).outer = s.outer := by simp [State.writeKtl]

@[simp] theorem outer_writeLid (s : State) (a v : Nat) : (s.writeLid a v).outer = s.outer := by simp [State.writeLid]

@[simp] theorem outer_writeLdl (s : State) (a v : Nat) : (s.writeLdl a v).outer = s.outer := by simp [State.writeLdl]

@[simp] theorem outer_writeReg (s : State) (src : Src) (a v : Nat) : (s.writeReg src a v).outer = s.outer := by
  unfold State.writeReg
  (repeat' split) <;> simp

@[simp] theorem outer_execRegisterWrite (src : Src) (addr val : Nat) (s : State) : outerOf (execRegisterWrite src addr val s) = some s.outer := by
  simp [execRegisterWrite]

@[simp] theorem outer_writeRegister (c : Cmd) (s : State) : (writeRegister c s).1.outer = s.outer := by simp [writeRegister]

@[simp] theorem outer_execWrreg (i : Issue) (s : State) : outerOf (execWrreg i s) = some s.outer := by
  simp [execWrreg, specWrreg]

/-! ### The operations of Machine/Rings.lean -/

@[simp] theorem outer_takenRecord (s : State) (n index : Nat) (e : RingEntry) : (s.takenRecord n index e).outer = s.outer := by simp [State.takenRecord]

@[simp] theorem outer_takeSlot (s : State) (n : Nat) (e : RingEntry) : (s.takeSlot n e).outer = s.outer := rfl

@[simp] theorem outer_refuseEntry (s : State) (n index st : Nat) : (s.refuseEntry n index st).outer = s.outer := by
  unfold State.refuseEntry
  (repeat' split) <;> simp

@[simp] theorem outer_acceptEntry (s : State) (n index : Nat) : (s.acceptEntry n index).outer = s.outer := by
  unfold State.acceptEntry
  dsimp only
  (repeat' split) <;> simp

@[simp] theorem outer_takeEntry (s : State) (n : Nat) : (s.takeEntry n).outer = s.outer := by
  unfold State.takeEntry
  dsimp only
  (repeat' split) <;> simp

@[simp] theorem outer_execRingEntryTake (n : Nat) (s : State) : outerOf (execRingEntryTake n s) = some s.outer := by simp [execRingEntryTake]

@[simp] theorem outer_execOwnerReturn (n index : Nat) (e : RingEntry) (s : State) : outerOf (execOwnerReturn n index e s) = some s.outer := by
  unfold execOwnerReturn
  (repeat' split) <;> simp

@[simp] theorem outer_ringOwn (s : State) (kind : Nat) (i : Issue) (f : State → Nat → Taken → State) (hf : ∀ n t, (f s n t).outer = s.outer) :
    (s.ringOwn kind i f).outer = s.outer := by
  unfold State.ringOwn
  (repeat' split) <;> simp [hf]

@[simp] theorem outer_submitRefused (s : State) (n : Nat) (t : Taken) (hd : Bytes) (st : Nat) : (s.submitRefused n t hd st).outer = s.outer := by
  simp [State.submitRefused]

@[simp] theorem outer_submitAccepted (s : State) (n : Nat) (t : Taken) (hd : Bytes) (id : Nat) : (s.submitAccepted n t hd id).outer = s.outer := by
  simp [State.submitAccepted]

@[simp] theorem outer_submit (s : State) (n : Nat) (t : Taken) : (s.submit n t).outer = s.outer := by simp [State.submit]

@[simp] theorem outer_execSubmitProgram (i : Issue) (s : State) : outerOf (execSubmitProgram i s) = some s.outer := by simp [execSubmitProgram]

@[simp] theorem outer_compositeCmd (s : State) (sp : CmdSpec) (n : Nat) (t : Taken) (a imm : Nat) (hb : ∀ c u, (sp.body c u).1.outer = u.outer) :
    (s.compositeCmd sp n t a imm).1.outer = s.outer := by
  simp [State.compositeCmd, hb]

@[simp] theorem outer_compositeRead (s : State) (n : Nat) (t : Taken) (a : Nat) : (s.compositeRead n t a).1.outer = s.outer := by
  exact outer_compositeCmd _ _ _ _ _ _ fun c u => by simp [specRdreg]

@[simp] theorem outer_compositeReads (s : State) (n : Nat) (t : Taken) (l : List Nat) : (s.compositeReads n t l).1.outer = s.outer := by
  induction l generalizing s n t with
  | nil => rfl
  | cons x t ih => simp [State.compositeReads, ih]

@[simp] theorem outer_compositeWrite (s : State) (n : Nat) (t : Taken) (a v : Nat) : (s.compositeWrite n t a v).1.outer = s.outer := by
  exact outer_compositeCmd _ _ _ _ _ _ fun c u => by simp [specWrreg]

@[simp] theorem outer_compositeEnd (s : State) (n : Nat) (t : Taken) (b : Bytes) (st : Nat) : (s.compositeEnd n t b st).outer = s.outer := by
  simp [State.compositeEnd]

@[simp] theorem outer_compositeClear (s : State) (n : Nat) (t : Taken) (a v b w : Nat) : (s.compositeClear n t a v b w).1.outer = s.outer := by
  simp [State.compositeClear]

@[simp] theorem outer_readSeal (s : State) (n : Nat) (t : Taken) : (s.readSeal n t).outer = s.outer := by simp [State.readSeal]

@[simp] theorem outer_execReadSealStatus (i : Issue) (s : State) : outerOf (execReadSealStatus i s) = some s.outer := by simp [execReadSealStatus]

@[simp] theorem outer_readCover (s : State) (n : Nat) (t : Taken) : (s.readCover n t).outer = s.outer := by
  have hstat (u : State) : (u.compositeCmd specArbstat n t 0 0).1.outer = u.outer := outer_compositeCmd _ _ _ _ _ _ fun c u => by simp [specArbstat]
  unfold State.readCover
  split <;> simp [hstat]

@[simp] theorem outer_execReadCoverage (i : Issue) (s : State) : outerOf (execReadCoverage i s) = some s.outer := by simp [execReadCoverage]

@[simp] theorem outer_readThreads (s : State) (n : Nat) (t : Taken) (l : List Nat) : (s.readThreads n t l).1.outer = s.outer := by
  induction l generalizing s n t with
  | nil => rfl
  | cons x t ih => simp [State.readThreads, ih]

@[simp] theorem outer_readSeq (s : State) (n : Nat) (t : Taken) : (s.readSeq n t).outer = s.outer := by simp [State.readSeq]

@[simp] theorem outer_execReadSequencerStatus (i : Issue) (s : State) : outerOf (execReadSequencerStatus i s) = some s.outer := by
  simp [execReadSequencerStatus]

@[simp] theorem outer_stageEntry (s : State) (n : Nat) (t : Taken) : (s.stageEntry n t).outer = s.outer := by simp [State.stageEntry]

@[simp] theorem outer_execStageFirmware (i : Issue) (s : State) : outerOf (execStageFirmware i s) = some s.outer := by simp [execStageFirmware]

@[simp] theorem outer_endService (s : State) (v : LaneSvc) : (s.endService v).outer = s.outer := by
  unfold State.endService
  dsimp only
  (repeat' split) <;> simp

@[simp] theorem outer_endServices (s : State) (l : List LaneSvc) : (s.endServices l).outer = s.outer := by
  induction l generalizing s with
  | nil => rfl
  | cons x t ih => simp [State.endServices, ih]

@[simp] theorem outer_laneService (s : State) (n : Nat) (t : Taken) : (s.laneService n t).outer = s.outer := by simp [State.laneService]

@[simp] theorem outer_execLaneService (i : Issue) (s : State) : outerOf (execLaneService i s) = some s.outer := by simp [execLaneService]

@[simp] theorem outer_execMortarJobStart (lane : Nat) (s : State) : outerOf (execMortarJobStart lane s) = some s.outer := by simp [execMortarJobStart]

@[simp] theorem outer_execLaneSelfTestDone (lane : Nat) (pass : Bool) (s : State) : outerOf (execLaneSelfTestDone lane pass s) = some s.outer := by
  simp [execLaneSelfTestDone]

/-! ### The operations of Machine/Ports.lean -/

@[simp] theorem outer_setMemPort (s : State) (k : Nat) (p : Port) : (s.setMemPort k p).outer = s.outer := by simp [State.setMemPort]

@[simp] theorem outer_endReq (s : State) (k id : Nat) : (s.endReq k id).outer = s.outer := by simp [State.endReq]

@[simp] theorem outer_releaseId (s : State) (k id : Nat) : (s.releaseId k id).outer = s.outer := by simp [State.releaseId]

@[simp] theorem outer_holdId (s : State) (k id : Nat) : (s.holdId k id).outer = s.outer := by simp [State.holdId]

@[simp] theorem outer_refill (s : State) (k : Nat) : (s.refill k).outer = s.outer := by simp [State.refill]

@[simp] theorem outer_learn (s : State) (r : MemReq) (data : Bytes) (sbv : Nat) : (s.learn r data sbv).outer = s.outer := by simp [State.learn]

@[simp] theorem outer_clearReseals (s : State) (l : List (Nat × Nat × Nat)) : (s.clearReseals l).outer = s.outer := by
  induction l generalizing s with
  | nil => rfl
  | cons x t ih => simp [State.clearReseals, ih]

@[simp] theorem outer_resealEnd (s : State) (blk : Nat) : (s.resealEnd blk).outer = s.outer := by simp [State.resealEnd]

@[simp] theorem outer_entryFailed (s : State) (n index st : Nat) : (s.entryFailed n index st).outer = s.outer := by
  unfold State.entryFailed
  (repeat' split) <;> simp

@[simp] theorem outer_swapOutFailed (s : State) (t p : Nat) : (s.swapOutFailed t p).outer = s.outer := by simp [State.swapOutFailed]

@[simp] theorem outer_swapInFailed (s : State) (t p : Nat) : (s.swapInFailed t p).outer = s.outer := by simp [State.swapInFailed]

@[simp] theorem outer_accessFailed (s : State) (r : MemReq) (st : Nat) : (s.accessFailed r st).outer = s.outer := by
  unfold State.accessFailed
  (repeat' split) <;> simp

@[simp] theorem outer_rewriteDropped (s : State) (blk : Nat) : (s.rewriteDropped blk).outer = s.outer := by simp [State.rewriteDropped]

@[simp] theorem outer_accessNoMatch (s : State) (r : MemReq) : (s.accessNoMatch r).outer = s.outer := by
  unfold State.accessNoMatch
  (repeat' split) <;> simp

@[simp] theorem outer_accessOk (s : State) (r : MemReq) (data : Bytes) (sbv : Nat) : (s.accessOk r data sbv).outer = s.outer := by
  unfold State.accessOk
  (repeat' split) <;> simp

@[simp] theorem outer_countStatusOf (s : State) (x : MemStatus) : (s.countStatusOf x).outer = s.outer := by
  unfold State.countStatusOf
  (repeat' split) <;> simp

@[simp] theorem outer_delivered (s : State) (r : MemReq) (st : MemStatus) (data : Bytes) (sbv : Nat) : (s.delivered r st data sbv).outer = s.outer := by
  unfold State.delivered
  (repeat' split) <;> simp

@[simp] theorem outer_answered (s : State) (r : MemReq) (st : MemStatus) (data : Bytes) (sbv : Nat) : (s.answered r st data sbv).outer = s.outer := by
  simp [State.answered]

@[simp] theorem outer_timedOut (s : State) (r : MemReq) : (s.timedOut r).outer = s.outer := by simp [State.timedOut]

@[simp] theorem outer_execMemResponse (port id : Nat) (st : MemStatus) (data : Bytes) (sb : Nat) (s : State) :
    outerOf (execMemResponse port id st data sb s) = some s.outer := by
  unfold execMemResponse
  (repeat' split) <;> simp

@[simp] theorem outer_execMemRequestTimeout (port id : Nat) (s : State) : outerOf (execMemRequestTimeout port id s) = some s.outer := by
  unfold execMemRequestTimeout
  (repeat' split) <;> simp

@[simp] theorem outer_execMemIdHoldExpiry (port id : Nat) (s : State) : outerOf (execMemIdHoldExpiry port id s) = some s.outer := by
  simp [execMemIdHoldExpiry]

@[simp] theorem outer_selectIr (s : State) (ir v : Nat) : (s.selectIr ir v).outer = s.outer := rfl

@[simp] theorem outer_execIdcode (s : State) : outerOf (execIdcode s) = some s.outer := rfl

@[simp] theorem outer_execDtmcs (s : State) : outerOf (execDtmcs s) = some s.outer := rfl

@[simp] theorem outer_execBypass (s : State) : outerOf (execBypass s) = some s.outer := rfl

@[simp] theorem outer_debugLock (s : State) : (s.debugLock).1.outer = s.outer := by
  unfold State.debugLock
  (repeat' split) <;> simp

@[simp] theorem outer_unlessLocked (s : State) (f : State → State) (hf : ∀ u, (f u).outer = u.outer) : (s.unlessLocked f).outer = s.outer := by
  simp [State.unlessLocked, hf]

@[simp] theorem outer_dmiAccess (s : State) (addr data : Nat) (write : Bool) : (s.dmiAccess addr data write).outer = s.outer := by simp [State.dmiAccess]

@[simp] theorem outer_execDmi (addr data : Nat) (write : Bool) (s : State) : outerOf (execDmi addr data write s) = some s.outer := by simp [execDmi]

@[simp] theorem outer_execAtb (val : Nat) (s : State) : outerOf (execAtb val s) = some s.outer := by simp [execAtb]

@[simp] theorem outer_postFinals (s : State) (n : Nat) (l : List Taken) : (s.postFinals n l).outer = s.outer := by
  induction l generalizing s n with
  | nil => rfl
  | cons x t ih =>
    unfold State.postFinals
    (repeat' split) <;> simp [ih]

@[simp] theorem outer_postAll (s : State) (l : List Nat) : (s.postAll l).outer = s.outer := by
  induction l generalizing s with
  | nil => rfl
  | cons x t ih => simp [State.postAll, ih]

@[simp] theorem outer_setHalted (s : State) (k : Nat) (b : Bool) : (s.setHalted k b).outer = s.outer := by simp [State.setHalted]

@[simp] theorem outer_execDebugHalt (core : Nat) (s : State) : outerOf (execDebugHalt core s) = some s.outer := by simp [execDebugHalt]

@[simp] theorem outer_resume (s : State) (k : Nat) : (s.resume k).outer = s.outer := by simp [State.resume]

@[simp] theorem outer_execDebugResume (core : Nat) (s : State) : outerOf (execDebugResume core s) = some s.outer := by simp [execDebugResume]

@[simp] theorem outer_execDebugSingleStep (core : Nat) (s : State) : outerOf (execDebugSingleStep core s) = some s.outer := by simp [execDebugSingleStep]

@[simp] theorem outer_execDebugTriggerHit (core : Nat) (s : State) : outerOf (execDebugTriggerHit core s) = some s.outer := by simp [execDebugTriggerHit]

@[simp] theorem outer_systemBus (s : State) (addr val : Nat) (write : Bool) : (s.systemBus addr val write).outer = s.outer := by simp [State.systemBus]

@[simp] theorem outer_execDebugSystemBusAccess (addr val : Nat) (write : Bool) (s : State) :
    outerOf (execDebugSystemBusAccess addr val write s) = some s.outer := by
  simp [execDebugSystemBusAccess]

/-! ### Every command -/

theorem exists_next_of_outerOf {o : Host.Outcome State Fault Refusal} {x : List Instr × Cfg} (h : outerOf o = some x) : ∃ t, o = .next t ∧ t.outer = x := by
  cases o with
  | next t => exact ⟨t, rfl, Option.some.inj h⟩
  | _ => cases h

/-- Each command by the lemma of its own meaning. -/
theorem outer_exec (c : Instr) (s : State) : outerOf (exec c s) = some s.outer := by
  cases c <;> simp [exec]

/-- Settles O3: what no command changes is unchanged by each operation that a command is made of, whatever the state. -/
theorem commandsAnswerNextAndKeepQueue : Obligations.CommandsAnswerNextAndKeepQueue := by
  unfold Obligations.CommandsAnswerNextAndKeepQueue
  intro c s
  obtain ⟨t, hexec, houter⟩ := exists_next_of_outerOf (outer_exec c s)
  exact ⟨t, hexec, congrArg Prod.fst houter, congrArg Prod.snd houter⟩

end Sys2Proof.Machine
end
